-- ==== Sys2Proof/Word.lean ====
section
/-!
DEFINITION. The words of the KX9: 32-bit register lanes, 64-bit instruction words and CSR pairs, bytes,
57-bit virtual addresses and 32-lane masks (R1, R7, R13, R61).
-/
namespace Sys2Proof

/-- One 32-bit register lane, scalar register or memory word (R47). -/
abbrev Word := BitVec 32

/-- One 64-bit word: an instruction word (R12), a bank data register (R283) or a CSR pair (R314). -/
abbrev DWord := BitVec 64

/-- One byte of memory or scratchpad (R1). -/
abbrev Byte := BitVec 8

/-- A virtual address of the 57-bit space (R158). -/
abbrev VAddr := BitVec 57

/-- A set of the 32 lanes of a warp: bit l is lane l (R61). -/
abbrev Mask := BitVec 32

/-- An element of a list that holds a fixed number of like things, with a value for an index past its end. -/
def nth {α : Type} (d : α) : List α → Nat → α
  | [], _ => d
  | x :: _, 0 => x
  | _ :: xs, n + 1 => nth d xs n

/-- The list with element `n` replaced; an index past its end changes nothing. -/
def setNth {α : Type} : List α → Nat → α → List α
  | [], _, _ => []
  | _ :: xs, 0, v => v :: xs
  | x :: xs, n + 1, v => x :: setNth xs n v

end Sys2Proof
end

