-- ==== Sys2Proof/Syntax.lean ====
section
/-!
DEFINITION. The syntax of the KX9: one constructor of `Instr` for every row of the table of operations and
events. Three kinds of row share the inductive: native instructions of a warp (R12 to R37), instructions of a
bank kernel's two threads (R288, R289), and the events and host actions the device takes part in.
Decoding (Decode.lean) turns words into these terms; the encoding rules that make a term ILLEGAL are in
WellFormed.lean and Machine/Operands.lean.
-/
namespace Sys2Proof

/-- The fields of the operand layout (R13). In an immediate form `b` and `c` hold IMM16 (R14). The fields OP and
SUB are the constructor of `Instr`, except where SUB carries data, which the constructor then holds. -/
structure Opnds where
  d : BitVec 8
  a : BitVec 8
  b : BitVec 8
  c : BitVec 8
  gn : Bool
  g : BitVec 3
  hold : BitVec 2
  hslot : BitVec 2
  sd : Bool
  sa : Bool
  sb : Bool
  sc : Bool
  fs : Bool
  ru : Bool
  mod : BitVec 6
deriving DecidableEq, Repr, Inhabited

/-- The fields of the branch layout (R16); `rsv` is its reserved bits [15:0]. -/
structure BranchOpnds where
  tgt : BitVec 24
  rj : BitVec 12
  gn : Bool
  g : BitVec 3
  rsv : BitVec 16
deriving DecidableEq, Repr, Inhabited

/-- The fields of the MOVI layout (R15) with its two reserved fields. -/
structure MoviOpnds where
  d : BitVec 8
  imm : Word
  rsvHi : BitVec 4
  sd : Bool
  rsvLo : BitVec 11
deriving DecidableEq, Repr, Inhabited

/-- The fields of a clause header (R30). -/
structure Header where
  wait : BitVec 12
  s1v : Bool
  s1 : BitVec 4
  s2v : Bool
  s2 : BitVec 4
  len : BitVec 6
  rsv : BitVec 28
deriving DecidableEq, Repr, Inhabited

/-- The operations of a pair half (R25). -/
inductive PairOp
  | mov | iadd | isub | imul | imin | imax | and | or | xor | shl | shr
  | fadd | fmul | fmin | fmax | hadd2 | hmul2
  | movi8 | iaddImm | isubImm | imulImm | iminImm | imaxImm | andImm | orImm | xorImm | shlImm | shrImm
deriving DecidableEq, Repr, Inhabited

/-- The operand fields of one half of a pair word (R24). -/
structure HalfOpnds where
  d : BitVec 8
  a : BitVec 8
  sa : Bool
  g : BitVec 3
  gn : Bool
  mod : BitVec 4
deriving DecidableEq, Repr, Inhabited

/-- Half Y of a pair word, carried by the constructor that names half X's operation (R24, R26). -/
structure PairHalf where
  op : PairOp
  o : HalfOpnds
deriving DecidableEq, Repr, Inhabited

/-- The functions of FSFUN (R138). -/
inductive SfFn | rcp | rsq | sqrt | exp2 | log2 | tanh | sin | cos
deriving DecidableEq, Repr, Inhabited

/-- The modes of LXCHG (R148, R150). -/
inductive LxMode | idx | up | down | xor
deriving DecidableEq, Repr, Inhabited

/-- The modes of VOTE (R151). -/
inductive VoteMode | all | any | uni
deriving DecidableEq, Repr, Inhabited

/-- The operations of REDUX (R148, R153). -/
inductive ReduxOp | add | min | max | and | or | xor | fadd | fmin | fmax
deriving DecidableEq, Repr, Inhabited

/-- The operations of PRED (R272, R279). -/
inductive PredOp | add | min | max | fadd | fmin | fmax
deriving DecidableEq, Repr, Inhabited

/-- The operations of ATOM and ATOMS (R204); `cas` belongs to ATOMS and ACAS only. -/
inductive AtomOp | add | min | max | and | or | xor | exch | inc | dec | fadd | fmin | fmax | cas
deriving DecidableEq, Repr, Inhabited

/-- The kinds of FENCE (R203). -/
inductive FenceKind | acq | rel | ar
deriving DecidableEq, Repr, Inhabited

/-- The comparisons of WAITA (R203). -/
inductive WaitCmp | eq | ne | ltu | geu
deriving DecidableEq, Repr, Inhabited

/-- The selections of GETSHAPE (R249). -/
inductive ShapeSel | grant | tail | req
deriving DecidableEq, Repr, Inhabited

/-- The parts FRAGLD fills (R255). -/
inductive FragPart | a | b | scA | scB
deriving DecidableEq, Repr, Inhabited

/-- The modes of the bank arithmetic (R289). -/
inductive BankMode | i64 | i32x2 | f32x2 | u64 | u32x2
deriving DecidableEq, Repr, Inhabited

/-- The comparison codes of NBR and XBR (R289). -/
inductive BankCmp | eq | ne | ltu | geu | lt | ge
deriving DecidableEq, Repr, Inhabited

/-- The logic operations of XLOP (R289). -/
inductive BankLop | and | or | xor
deriving DecidableEq, Repr, Inhabited

/-- The operations and events of the KX9, one constructor per row of spec/opcode_table.json: the instructions of
warps and of bank threads first, with their operands, and then the events and host actions. The operands of an
event (which block, operation, channel or value) stand in the state when it takes place; Machine/Ops.lean reads
them, and each event's meaning says which they are. -/
inductive Instr
  -- clauses and control flow
  | clauseStart (h : Header)
  | nop (o : Opnds)
  | bra (t : BranchOpnds)
  | brx (o : Opnds)
  | call (t : BranchOpnds)
  | ret (o : Opnds)
  | exit (o : Opnds)
  | join (o : Opnds)
  | yield (o : Opnds)
  | sleep (o : Opnds)
  | sleepProm (o : Opnds)
  | sleepFor (o : Opnds)
  | trap (o : Opnds)
  | bkpt (o : Opnds)
  -- launch and residency
  | spawn (o : Opnds)
  | jdec (o : Opnds)
  | swpt (o : Opnds)
  | phase (o : Opnds)
  | rbacq (o : Opnds)
  | rbrel (o : Opnds)
  -- integer, predicate and move
  | iaddReg (o : Opnds) | iaddImm (o : Opnds)
  | isubReg (o : Opnds) | isubImm (o : Opnds)
  | imulReg (o : Opnds) | imulImm (o : Opnds)
  | imulhReg (o : Opnds) | imulhImm (o : Opnds)
  | imad (o : Opnds)
  | imadw (o : Opnds)
  | iminReg (o : Opnds) | iminImm (o : Opnds)
  | imaxReg (o : Opnds) | imaxImm (o : Opnds)
  | iabs (o : Opnds)
  | itestReg (o : Opnds) | itestImm (o : Opnds)
  | selReg (o : Opnds) | selImm (o : Opnds)
  | blutReg (lutHi : BitVec 3) (o : Opnds) | blutImm (lutHi : BitVec 3) (o : Opnds)
  | shlReg (o : Opnds) | shlImm (o : Opnds)
  | shrReg (o : Opnds) | shrImm (o : Opnds)
  | shf (o : Opnds)
  | popc (o : Opnds)
  | clz (o : Opnds)
  | brev (o : Opnds)
  | bfeReg (o : Opnds) | bfeImm (o : Opnds)
  | bfi (o : Opnds)
  | leaReg (o : Opnds) | leaImm (o : Opnds)
  | mov (o : Opnds)
  | movP2v (o : Opnds)
  | movV2p (o : Opnds)
  | movLaneReg (o : Opnds) | movLaneImm (o : Opnds)
  | movUnif (o : Opnds)
  | movi (o : MoviOpnds)
  | plop (lutHi : BitVec 3) (o : Opnds)
  -- pair words, by the operation of half X
  | pairMov (x : HalfOpnds) (y : PairHalf)
  | pairIadd (x : HalfOpnds) (y : PairHalf)
  | pairIsub (x : HalfOpnds) (y : PairHalf)
  | pairImul (x : HalfOpnds) (y : PairHalf)
  | pairImin (x : HalfOpnds) (y : PairHalf)
  | pairImax (x : HalfOpnds) (y : PairHalf)
  | pairAnd (x : HalfOpnds) (y : PairHalf)
  | pairOr (x : HalfOpnds) (y : PairHalf)
  | pairXor (x : HalfOpnds) (y : PairHalf)
  | pairShl (x : HalfOpnds) (y : PairHalf)
  | pairShr (x : HalfOpnds) (y : PairHalf)
  | pairFadd (x : HalfOpnds) (y : PairHalf)
  | pairFmul (x : HalfOpnds) (y : PairHalf)
  | pairFmin (x : HalfOpnds) (y : PairHalf)
  | pairFmax (x : HalfOpnds) (y : PairHalf)
  | pairHadd2 (x : HalfOpnds) (y : PairHalf)
  | pairHmul2 (x : HalfOpnds) (y : PairHalf)
  | pairMovi8 (x : HalfOpnds) (y : PairHalf)
  | pairIaddImm (x : HalfOpnds) (y : PairHalf)
  | pairIsubImm (x : HalfOpnds) (y : PairHalf)
  | pairImulImm (x : HalfOpnds) (y : PairHalf)
  | pairIminImm (x : HalfOpnds) (y : PairHalf)
  | pairImaxImm (x : HalfOpnds) (y : PairHalf)
  | pairAndImm (x : HalfOpnds) (y : PairHalf)
  | pairOrImm (x : HalfOpnds) (y : PairHalf)
  | pairXorImm (x : HalfOpnds) (y : PairHalf)
  | pairShlImm (x : HalfOpnds) (y : PairHalf)
  | pairShrImm (x : HalfOpnds) (y : PairHalf)
  -- floating point and conversion
  | faddReg (o : Opnds) | faddImm (o : Opnds)
  | fmulReg (o : Opnds) | fmulImm (o : Opnds)
  | ffma (o : Opnds)
  | fminReg (o : Opnds) | fminImm (o : Opnds)
  | fmaxReg (o : Opnds) | fmaxImm (o : Opnds)
  | fsetpReg (cmp : BitVec 3) (o : Opnds) | fsetpImm (cmp : BitVec 3) (o : Opnds)
  | fsfun (fn : SfFn) (o : Opnds)
  | hadd2Reg (o : Opnds) | hadd2Imm (o : Opnds)
  | hmul2Reg (o : Opnds) | hmul2Imm (o : Opnds)
  | hfma2 (o : Opnds)
  | fdot2 (o : Opnds)
  | fclass (o : Opnds)
  | cvt (o : Opnds)
  | pack (fmt : BitVec 3) (o : Opnds)
  | unpack (fmt : BitVec 3) (o : Opnds)
  | rxcvtEnc (o : Opnds)
  | rxcvtDec (o : Opnds)
  -- exchange
  | lxchgReg (mode : LxMode) (o : Opnds) | lxchgImm (mode : LxMode) (o : Opnds)
  | vote (mode : VoteMode) (o : Opnds)
  | ballot (o : Opnds)
  | matchAny (o : Opnds)
  | matchAll (o : Opnds)
  | redux (op : ReduxOp) (o : Opnds)
  | xpair (o : Opnds)
  | xshfl (o : Opnds)
  -- memory, engines and translation
  | ldReg (o : Opnds) | ldImm (o : Opnds)
  | ldPrivReg (o : Opnds) | ldPrivImm (o : Opnds)
  | stReg (o : Opnds) | stImm (o : Opnds)
  | stPrivReg (o : Opnds) | stPrivImm (o : Opnds)
  | ldsReg (o : Opnds) | ldsImm (o : Opnds)
  | stsReg (o : Opnds) | stsImm (o : Opnds)
  | ldcReg (o : Opnds) | ldcImm (o : Opnds)
  | lda (o : Opnds)
  | prefReg (o : Opnds) | prefImm (o : Opnds)
  | copy (o : Opnds)
  | gath (o : Opnds)
  | arrinit (o : Opnds)
  | arrive (o : Opnds)
  | arrwait (o : Opnds)
  | arrwaitTest (o : Opnds)
  | publish (o : Opnds)
  | cctlWb (o : Opnds)
  | cctlWbinv (o : Opnds)
  | cctlConst (o : Opnds)
  | tlbhHarv (o : Opnds)
  | tlbhInv (o : Opnds)
  -- ordering and atomics
  | atom (op : AtomOp) (o : Opnds)
  | acas (o : Opnds)
  | atoms (op : AtomOp) (o : Opnds)
  | fence (kind : FenceKind) (o : Opnds)
  | waita (cmp : WaitCmp) (o : Opnds)
  -- queues and the Circular
  | qinit (o : Opnds)
  | qinitGrant (o : Opnds)
  | qpush (o : Opnds)
  | qpop (o : Opnds)
  | qtryPop (o : Opnds)
  | qtryPush (o : Opnds)
  | circCast (o : Opnds)
  | circBind (o : Opnds)
  | circCap (o : Opnds)
  | circWr (o : Opnds)
  | circRel (o : Opnds)
  | circPeek (o : Opnds)
  | circTurn (o : Opnds)
  -- shapes and matrix
  | setshapeReg (o : Opnds) | setshapeImm (o : Opnds)
  | setshapeTail (o : Opnds)
  | getshape (sel : ShapeSel) (o : Opnds)
  | mma (o : Opnds)
  | mmas (o : Opnds)
  | accz (o : Opnds)
  | accld (o : Opnds)
  | accldDec (o : Opnds)
  | accldTscale (o : Opnds)
  | accst (o : Opnds)
  | accstSp (o : Opnds)
  | fragld (part : FragPart) (o : Opnds)
  -- proxies
  | pldReg (fmt : BitVec 3) (o : Opnds) | pldImm (fmt : BitVec 3) (o : Opnds)
  | pmat (o : Opnds)
  | pmatS (o : Opnds)
  | pfree (o : Opnds)
  | pfreeP (o : Opnds)
  | pdot (o : Opnds)
  | pred (op : PredOp) (o : Opnds)
  | pqry (o : Opnds)
  | pqryP (o : Opnds)
  -- bank-kernel control, CSRs and returns
  | nlaunch (o : Opnds)
  | nresume (o : Opnds)
  | nstat (o : Opnds)
  | csrr (o : Opnds)
  | csrw (o : Opnds)
  | engErrRead (o : Opnds)
  | pxLostClear (o : Opnds)
  | tret (o : Opnds)
  | tretSkip (o : Opnds)
  -- bank-side units
  | nli (d : BitVec 4) (imm : BitVec 16)
  | nliH (d : BitVec 4) (imm : BitVec 16)
  | nadd (d a b : BitVec 4)
  | naddi (d a : BitVec 4) (imm : BitVec 16)
  | nshl (d a : BitVec 4) (s : BitVec 5)
  | nbr (cmp : BankCmp) (d a : BitVec 4) (imm : BitVec 16)
  | crd (a : BitVec 4)
  | crdRef (a : BitVec 4)
  | wr (a : BitVec 4)
  | bpop (d : BitVec 4)
  | nend
  | xget (d : BitVec 4) (w : BitVec 3)
  | xnext
  | xcadd (m : BankMode) (d : BitVec 4)
  | xli (d : BitVec 4) (imm : BitVec 16)
  | xliF2 (d : BitVec 4) (imm : BitVec 16)
  | xadd (m : BankMode) (d a b : BitVec 4)
  | xsub (m : BankMode) (d a b : BitVec 4)
  | xmul (m : BankMode) (d a b : BitVec 4)
  | xfma (m : BankMode) (d a b c : BitVec 4)
  | xmin (m : BankMode) (d a b : BitVec 4)
  | xmax (m : BankMode) (d a b : BitVec 4)
  | xlop (op : BankLop) (d a b : BitVec 4)
  | xhsum (m : BankMode) (d a : BitVec 4)
  | xsend (a : BitVec 4)
  | xbr (cmp : BankCmp) (d a : BitVec 4) (imm : BitVec 16)
  | xend
  -- events and host actions; their operands stand in the state (see Action.event)
  | sleepWake
  | rbacqWake
  | regexh
  | xpairTimeout
  | xshflCommit
  | loadComplete
  | storeAccept
  | engineArrival
  | tlbHarvestPeriodic
  | atomicServiceRequest
  | epochClose
  | waitaWake
  | waitaTimeout
  | queueWaiterRelease
  | queueDeadlock
  | castClaim
  | stopPass
  | seamPass
  | holdTheft
  | warpEndRelease
  | tileWrite
  | proxyOperation
  | proxyCompletion
  | proxyCopy
  | proxyDrop
  | pldSnapshot
  | proxyCrossing
  | chunkRequest
  | chunkGrant
  | chunkReturn
  | trapEntry
  | blockTerminate
  | preempt
  | blockRestore
  | ifaultSwapOut
  | blockReplay
  | faultRecordWrite
  | frHeadWrite
  | faultRewalk
  | qtailWrite
  | queueSlotMap
  | quantumExpiry
  | priorityAging
  | dispatch
  | shrinkRequest
  | priorityPreempt
  | growRequest
  | switchGraceExpiry
  | switchApply
  | contextYield
  | blockEndJdec
  | deferredPush
  | migrationMove
  | migReqWrite
  | migStatRead
  | hostTlbInvalidate
  | contextLoad
  | contextKill
  | contextStop
  | contextResume
  | peerRouteWrite
  | csrWrite
  | hostMemoryAccess
  | peerRequest
  | burgeePass
  | deadlockProbe
  | furl
  | unfurl
  | rdPacket
  | wrPacket
  | wrm
  | rdrsp
  | wrack
  | bankLaunchStart
  | bankContextStop
  | bankContextDone
  | bsuWatchdogReset
  | refresh
  | targetedRefresh
  | bsuBurst
  | powerOnReset
  | bootReset
  | attestationGo
  | attestationDone
  | clockStepChange
  | thermalTrip
  | operationComplete
  | furlCtlWrite
deriving DecidableEq, Repr, Inhabited

/-- Why a word decodes to no instruction. Each gives ILLEGAL with detail 0x01 in a native word (R40), and CAUSE 2
in a bank word (R292). -/
inductive DecodeError
  /-- Bits [63:62] are 11 (R12). -/
  | reservedForm
  /-- An OP value the opcode map does not list (R37, R289). -/
  | unlistedOpcode
  /-- A SUB value the class chapter does not assign (R37). -/
  | unassignedSub
  /-- An OP6 value R25 does not assign. -/
  | unassignedPairOp
  /-- A reserved field of a bank word is not zero (R288). -/
  | reservedField
  /-- The bytes end before the word does. -/
  | shortWord
deriving DecidableEq, Repr, Inhabited

end Sys2Proof
end

