-- ==== Sys2Proof/Decode.lean ====
section
/-!
DEFINITION. Decoding native words (R12 to R37) and bank words (R288, R289), total on any word and rejecting by
name; the encoder written from the same tables; and the rules that make a decoded word ILLEGAL (R17, R18, R20,
R21, R26 to R28, R30, R31, R33 and the family lists), with the detail codes of R40.
-/
namespace Sys2Proof

/-! ### Bit fields -/

/-- Bits h down to l of a word (R42). -/
def bits {n : Nat} (x : BitVec n) (h l : Nat) : Nat := (x.toNat >>> l) % 2 ^ (h + 1 - l)

/-- The low `n` bits read as a two's-complement integer (R42). -/
def sextInt (x n : Nat) : Int :=
  if n = 0 then 0 else if (x % 2 ^ n) < 2 ^ (n - 1) then (x % 2 ^ n : Nat) else (x % 2 ^ n : Nat) - (2 ^ n : Nat)

/-- IMM16 of an immediate form: bits [39:24], the fields B and C (R14). -/
def Opnds.imm16 (o : Opnds) : BitVec 16 := o.b ++ o.c

/-! ### The operand layout (R13) -/

/-- The word of an operand-layout instruction (R13). -/
def packOpnds (op : BitVec 7) (sub : BitVec 4) (o : Opnds) : DWord :=
  (0#1 ++ op ++ o.d ++ o.a ++ o.b ++ o.c ++ sub ++ BitVec.ofBool o.gn ++ o.g ++ o.hold ++ o.hslot
    ++ BitVec.ofBool o.sd ++ BitVec.ofBool o.sa ++ BitVec.ofBool o.sb ++ BitVec.ofBool o.sc
    ++ BitVec.ofBool o.fs ++ BitVec.ofBool o.ru ++ o.mod : BitVec 64)

/-- The operand fields of a word (R13). -/
def unpackOpnds (w : DWord) : Opnds :=
  { d := w.extractLsb' 48 8, a := w.extractLsb' 40 8, b := w.extractLsb' 32 8, c := w.extractLsb' 24 8
    gn := w.getLsbD 19, g := w.extractLsb' 16 3, hold := w.extractLsb' 14 2, hslot := w.extractLsb' 12 2
    sd := w.getLsbD 11, sa := w.getLsbD 10, sb := w.getLsbD 9, sc := w.getLsbD 8
    fs := w.getLsbD 7, ru := w.getLsbD 6, mod := w.extractLsb' 0 6 }

/-- The branch layout (R16). -/
def packBranch (op : BitVec 7) (t : BranchOpnds) : DWord :=
  (0#1 ++ op ++ t.tgt ++ t.rj ++ BitVec.ofBool t.gn ++ t.g ++ t.rsv : BitVec 64)

/-- The branch fields of a word (R16). -/
def unpackBranch (w : DWord) : BranchOpnds :=
  { tgt := w.extractLsb' 32 24, rj := w.extractLsb' 20 12, gn := w.getLsbD 19, g := w.extractLsb' 16 3
    rsv := w.extractLsb' 0 16 }

/-- The MOVI layout (R15). -/
def packMovi (o : MoviOpnds) : DWord :=
  (0#1 ++ 0x2E#7 ++ o.d ++ o.imm ++ o.rsvHi ++ BitVec.ofBool o.sd ++ o.rsvLo : BitVec 64)

/-- The MOVI fields of a word (R15). -/
def unpackMovi (w : DWord) : MoviOpnds :=
  { d := w.extractLsb' 48 8, imm := w.extractLsb' 16 32, rsvHi := w.extractLsb' 12 4, sd := w.getLsbD 11
    rsvLo := w.extractLsb' 0 11 }

/-- The clause header (R30). -/
def packHeader (h : Header) : DWord :=
  (0#1 ++ 0x7F#7 ++ h.wait ++ BitVec.ofBool h.s1v ++ h.s1 ++ BitVec.ofBool h.s2v ++ h.s2 ++ h.len ++ h.rsv : BitVec 64)

/-- The header fields of a word (R30). -/
def unpackHeader (w : DWord) : Header :=
  { wait := w.extractLsb' 44 12, s1v := w.getLsbD 43, s1 := w.extractLsb' 39 4, s2v := w.getLsbD 38
    s2 := w.extractLsb' 34 4, len := w.extractLsb' 28 6, rsv := w.extractLsb' 0 28 }

/-- The fields of a pair half (R24). -/
def packHalf (op : BitVec 6) (o : HalfOpnds) : BitVec 31 :=
  (op ++ o.d ++ o.a ++ BitVec.ofBool o.sa ++ o.g ++ BitVec.ofBool o.gn ++ o.mod : BitVec 31)

/-- The operand fields of a pair half (R24). -/
def unpackHalf (h : BitVec 31) : HalfOpnds :=
  { d := h.extractLsb' 17 8, a := h.extractLsb' 9 8, sa := h.getLsbD 8, g := h.extractLsb' 5 3
    gn := h.getLsbD 4, mod := h.extractLsb' 0 4 }

/-- OP6 of a pair operation (R25). -/
def PairOp.code : PairOp → BitVec 6
  | .mov => 0x01#6
  | .iadd => 0x02#6
  | .isub => 0x03#6
  | .imul => 0x04#6
  | .imin => 0x05#6
  | .imax => 0x06#6
  | .and => 0x07#6
  | .or => 0x08#6
  | .xor => 0x09#6
  | .shl => 0x0A#6
  | .shr => 0x0B#6
  | .fadd => 0x0C#6
  | .fmul => 0x0D#6
  | .fmin => 0x0E#6
  | .fmax => 0x0F#6
  | .hadd2 => 0x10#6
  | .hmul2 => 0x11#6
  | .movi8 => 0x21#6
  | .iaddImm => 0x22#6
  | .isubImm => 0x23#6
  | .imulImm => 0x24#6
  | .iminImm => 0x25#6
  | .imaxImm => 0x26#6
  | .andImm => 0x27#6
  | .orImm => 0x28#6
  | .xorImm => 0x29#6
  | .shlImm => 0x2A#6
  | .shrImm => 0x2B#6

/-- The pair operation of an OP6 value (R25). -/
def pairOpOf (c : BitVec 6) : Option PairOp :=
  match c.toNat with
  | 0x01 => some .mov
  | 0x02 => some .iadd
  | 0x03 => some .isub
  | 0x04 => some .imul
  | 0x05 => some .imin
  | 0x06 => some .imax
  | 0x07 => some .and
  | 0x08 => some .or
  | 0x09 => some .xor
  | 0x0A => some .shl
  | 0x0B => some .shr
  | 0x0C => some .fadd
  | 0x0D => some .fmul
  | 0x0E => some .fmin
  | 0x0F => some .fmax
  | 0x10 => some .hadd2
  | 0x11 => some .hmul2
  | 0x21 => some .movi8
  | 0x22 => some .iaddImm
  | 0x23 => some .isubImm
  | 0x24 => some .imulImm
  | 0x25 => some .iminImm
  | 0x26 => some .imaxImm
  | 0x27 => some .andImm
  | 0x28 => some .orImm
  | 0x29 => some .xorImm
  | 0x2A => some .shlImm
  | 0x2B => some .shrImm
  | _ => none

/-- The instruction of a pair word with half X's operation (R24, R25). -/
def mkPair (op : PairOp) (x : HalfOpnds) (y : PairHalf) : Instr :=
  match op with
  | .mov => .pairMov x y
  | .iadd => .pairIadd x y
  | .isub => .pairIsub x y
  | .imul => .pairImul x y
  | .imin => .pairImin x y
  | .imax => .pairImax x y
  | .and => .pairAnd x y
  | .or => .pairOr x y
  | .xor => .pairXor x y
  | .shl => .pairShl x y
  | .shr => .pairShr x y
  | .fadd => .pairFadd x y
  | .fmul => .pairFmul x y
  | .fmin => .pairFmin x y
  | .fmax => .pairFmax x y
  | .hadd2 => .pairHadd2 x y
  | .hmul2 => .pairHmul2 x y
  | .movi8 => .pairMovi8 x y
  | .iaddImm => .pairIaddImm x y
  | .isubImm => .pairIsubImm x y
  | .imulImm => .pairImulImm x y
  | .iminImm => .pairIminImm x y
  | .imaxImm => .pairImaxImm x y
  | .andImm => .pairAndImm x y
  | .orImm => .pairOrImm x y
  | .xorImm => .pairXorImm x y
  | .shlImm => .pairShlImm x y
  | .shrImm => .pairShrImm x y

/-- CSR numbers whose read or write is a row of its own: ENG_ERR (R314) and PX_LOST0 to PX_LOST7 (R263). -/
def csrrInstr (o : Opnds) : Instr := if bits o.imm16 11 0 = 0x010 then .engErrRead o else .csrr o

/-- CSRW to a PX_LOST register clears it (R263, R271). -/
def csrwInstr (o : Opnds) : Instr :=
  if 0x024 ≤ bits o.imm16 11 0 ∧ bits o.imm16 11 0 ≤ 0x02B then .pxLostClear o else .csrw o

/-- Operand-layout opcodes 0x00 to 0x0F with their SUB values (R37 and the class chapters). -/
def decodeOp0 (op sub : Nat) (o : Opnds) : Except DecodeError Instr :=
  match op with
  | 0x00 => match sub with
    | 0 => .ok (.nop o)
    | _ => .error .unassignedSub
  | 0x02 => match sub with
    | 0 => .ok (.brx o)
    | _ => .error .unassignedSub
  | 0x04 => match sub with
    | 0 => .ok (.ret o)
    | _ => .error .unassignedSub
  | 0x05 => match sub with
    | 0 => .ok (.exit o)
    | _ => .error .unassignedSub
  | 0x06 => match sub with
    | 0 => .ok (.join o)
    | _ => .error .unassignedSub
  | 0x07 => match sub with
    | 0 => .ok (.yield o)
    | _ => .error .unassignedSub
  | 0x08 => match sub with
    | 0 => .ok (.sleep o)
    | 1 => .ok (.sleepProm o)
    | 2 => .ok (.sleepFor o)
    | _ => .error .unassignedSub
  | 0x09 => match sub with
    | 0 => .ok (.trap o)
    | _ => .error .unassignedSub
  | 0x0A => match sub with
    | 0 => .ok (.bkpt o)
    | _ => .error .unassignedSub
  | _ => .error .unlistedOpcode

/-- Operand-layout opcodes 0x10 to 0x1F with their SUB values (R37 and the class chapters). -/
def decodeOp1 (op sub : Nat) (o : Opnds) : Except DecodeError Instr :=
  match op with
  | 0x10 => match sub with
    | 0 => .ok (.spawn o)
    | _ => .error .unassignedSub
  | 0x11 => match sub with
    | 0 => .ok (.jdec o)
    | _ => .error .unassignedSub
  | 0x12 => match sub with
    | 0 => .ok (.swpt o)
    | _ => .error .unassignedSub
  | 0x13 => match sub with
    | 0 => .ok (.phase o)
    | _ => .error .unassignedSub
  | 0x14 => match sub with
    | 0 => .ok (.rbacq o)
    | _ => .error .unassignedSub
  | 0x15 => match sub with
    | 0 => .ok (.rbrel o)
    | _ => .error .unassignedSub
  | 0x18 => match sub with
    | 0 => .ok (.iaddReg o)
    | 1 => .ok (.iaddImm o)
    | _ => .error .unassignedSub
  | 0x19 => match sub with
    | 0 => .ok (.isubReg o)
    | 1 => .ok (.isubImm o)
    | _ => .error .unassignedSub
  | 0x1A => match sub with
    | 0 => .ok (.imulReg o)
    | 1 => .ok (.imulImm o)
    | _ => .error .unassignedSub
  | 0x1B => match sub with
    | 0 => .ok (.imulhReg o)
    | 1 => .ok (.imulhImm o)
    | _ => .error .unassignedSub
  | 0x1C => match sub with
    | 0 => .ok (.imad o)
    | _ => .error .unassignedSub
  | 0x1D => match sub with
    | 0 => .ok (.imadw o)
    | _ => .error .unassignedSub
  | 0x1E => match sub with
    | 0 => .ok (.iminReg o)
    | 1 => .ok (.iminImm o)
    | _ => .error .unassignedSub
  | 0x1F => match sub with
    | 0 => .ok (.imaxReg o)
    | 1 => .ok (.imaxImm o)
    | _ => .error .unassignedSub
  | _ => .error .unlistedOpcode

/-- Operand-layout opcodes 0x20 to 0x2F with their SUB values (R37 and the class chapters). -/
def decodeOp2 (op sub : Nat) (o : Opnds) : Except DecodeError Instr :=
  match op with
  | 0x20 => match sub with
    | 0 => .ok (.iabs o)
    | _ => .error .unassignedSub
  | 0x21 => match sub with
    | 0 => .ok (.itestReg o)
    | 1 => .ok (.itestImm o)
    | _ => .error .unassignedSub
  | 0x22 => match sub with
    | 0 => .ok (.selReg o)
    | 1 => .ok (.selImm o)
    | _ => .error .unassignedSub
  | 0x23 => match sub with
    | 0 => .ok (.blutReg 0#3 o)
    | 1 => .ok (.blutReg 1#3 o)
    | 2 => .ok (.blutReg 2#3 o)
    | 3 => .ok (.blutReg 3#3 o)
    | 4 => .ok (.blutReg 4#3 o)
    | 5 => .ok (.blutReg 5#3 o)
    | 6 => .ok (.blutReg 6#3 o)
    | 7 => .ok (.blutReg 7#3 o)
    | 8 => .ok (.blutImm 0#3 o)
    | 9 => .ok (.blutImm 1#3 o)
    | 10 => .ok (.blutImm 2#3 o)
    | 11 => .ok (.blutImm 3#3 o)
    | 12 => .ok (.blutImm 4#3 o)
    | 13 => .ok (.blutImm 5#3 o)
    | 14 => .ok (.blutImm 6#3 o)
    | 15 => .ok (.blutImm 7#3 o)
    | _ => .error .unassignedSub
  | 0x24 => match sub with
    | 0 => .ok (.shlReg o)
    | 1 => .ok (.shlImm o)
    | _ => .error .unassignedSub
  | 0x25 => match sub with
    | 0 => .ok (.shrReg o)
    | 1 => .ok (.shrImm o)
    | _ => .error .unassignedSub
  | 0x26 => match sub with
    | 0 => .ok (.shf o)
    | _ => .error .unassignedSub
  | 0x27 => match sub with
    | 0 => .ok (.popc o)
    | _ => .error .unassignedSub
  | 0x28 => match sub with
    | 0 => .ok (.clz o)
    | _ => .error .unassignedSub
  | 0x29 => match sub with
    | 0 => .ok (.brev o)
    | _ => .error .unassignedSub
  | 0x2A => match sub with
    | 0 => .ok (.bfeReg o)
    | 1 => .ok (.bfeImm o)
    | _ => .error .unassignedSub
  | 0x2B => match sub with
    | 0 => .ok (.bfi o)
    | _ => .error .unassignedSub
  | 0x2C => match sub with
    | 0 => .ok (.leaReg o)
    | 1 => .ok (.leaImm o)
    | _ => .error .unassignedSub
  | 0x2D => match sub with
    | 0 => .ok (.mov o)
    | 1 => .ok (.movP2v o)
    | 2 => .ok (.movV2p o)
    | 3 => .ok (.movLaneReg o)
    | 4 => .ok (.movLaneImm o)
    | 5 => .ok (.movUnif o)
    | _ => .error .unassignedSub
  | 0x2F => match sub with
    | 0 => .ok (.plop 0#3 o)
    | 1 => .ok (.plop 1#3 o)
    | 2 => .ok (.plop 2#3 o)
    | 3 => .ok (.plop 3#3 o)
    | 4 => .ok (.plop 4#3 o)
    | 5 => .ok (.plop 5#3 o)
    | 6 => .ok (.plop 6#3 o)
    | 7 => .ok (.plop 7#3 o)
    | _ => .error .unassignedSub
  | _ => .error .unlistedOpcode

/-- Operand-layout opcodes 0x30 to 0x3F with their SUB values (R37 and the class chapters). -/
def decodeOp3 (op sub : Nat) (o : Opnds) : Except DecodeError Instr :=
  match op with
  | 0x30 => match sub with
    | 0 => .ok (.faddReg o)
    | 1 => .ok (.faddImm o)
    | _ => .error .unassignedSub
  | 0x31 => match sub with
    | 0 => .ok (.fmulReg o)
    | 1 => .ok (.fmulImm o)
    | _ => .error .unassignedSub
  | 0x32 => match sub with
    | 0 => .ok (.ffma o)
    | _ => .error .unassignedSub
  | 0x33 => match sub with
    | 0 => .ok (.fminReg o)
    | 1 => .ok (.fminImm o)
    | _ => .error .unassignedSub
  | 0x34 => match sub with
    | 0 => .ok (.fmaxReg o)
    | 1 => .ok (.fmaxImm o)
    | _ => .error .unassignedSub
  | 0x35 => match sub with
    | 0 => .ok (.fsetpReg 0#3 o)
    | 1 => .ok (.fsetpImm 0#3 o)
    | 2 => .ok (.fsetpReg 1#3 o)
    | 3 => .ok (.fsetpImm 1#3 o)
    | 4 => .ok (.fsetpReg 2#3 o)
    | 5 => .ok (.fsetpImm 2#3 o)
    | 6 => .ok (.fsetpReg 3#3 o)
    | 7 => .ok (.fsetpImm 3#3 o)
    | 8 => .ok (.fsetpReg 4#3 o)
    | 9 => .ok (.fsetpImm 4#3 o)
    | 10 => .ok (.fsetpReg 5#3 o)
    | 11 => .ok (.fsetpImm 5#3 o)
    | 12 => .ok (.fsetpReg 6#3 o)
    | 13 => .ok (.fsetpImm 6#3 o)
    | 14 => .ok (.fsetpReg 7#3 o)
    | 15 => .ok (.fsetpImm 7#3 o)
    | _ => .error .unassignedSub
  | 0x36 => match sub with
    | 0 => .ok (.fsfun .rcp o)
    | 1 => .ok (.fsfun .rsq o)
    | 2 => .ok (.fsfun .sqrt o)
    | 3 => .ok (.fsfun .exp2 o)
    | 4 => .ok (.fsfun .log2 o)
    | 5 => .ok (.fsfun .tanh o)
    | 6 => .ok (.fsfun .sin o)
    | 7 => .ok (.fsfun .cos o)
    | _ => .error .unassignedSub
  | 0x37 => match sub with
    | 0 => .ok (.hadd2Reg o)
    | 1 => .ok (.hadd2Imm o)
    | _ => .error .unassignedSub
  | 0x38 => match sub with
    | 0 => .ok (.hmul2Reg o)
    | 1 => .ok (.hmul2Imm o)
    | _ => .error .unassignedSub
  | 0x39 => match sub with
    | 0 => .ok (.hfma2 o)
    | _ => .error .unassignedSub
  | 0x3A => match sub with
    | 0 => .ok (.fdot2 o)
    | _ => .error .unassignedSub
  | 0x3B => match sub with
    | 0 => .ok (.fclass o)
    | _ => .error .unassignedSub
  | 0x3C => match sub with
    | 0 => .ok (.cvt o)
    | _ => .error .unassignedSub
  | 0x3D => match sub with
    | 0 => .ok (.pack 0#3 o)
    | 1 => .ok (.pack 1#3 o)
    | 2 => .ok (.pack 2#3 o)
    | 3 => .ok (.pack 3#3 o)
    | 4 => .ok (.pack 4#3 o)
    | 5 => .ok (.pack 5#3 o)
    | 6 => .ok (.pack 6#3 o)
    | 7 => .ok (.pack 7#3 o)
    | _ => .error .unassignedSub
  | 0x3E => match sub with
    | 0 => .ok (.unpack 0#3 o)
    | 1 => .ok (.unpack 1#3 o)
    | 2 => .ok (.unpack 2#3 o)
    | 3 => .ok (.unpack 3#3 o)
    | 4 => .ok (.unpack 4#3 o)
    | 5 => .ok (.unpack 5#3 o)
    | 6 => .ok (.unpack 6#3 o)
    | 7 => .ok (.unpack 7#3 o)
    | _ => .error .unassignedSub
  | 0x3F => match sub with
    | 0 => .ok (.rxcvtEnc o)
    | 1 => .ok (.rxcvtDec o)
    | _ => .error .unassignedSub
  | _ => .error .unlistedOpcode

/-- Operand-layout opcodes 0x40 to 0x4F with their SUB values (R37 and the class chapters). -/
def decodeOp4 (op sub : Nat) (o : Opnds) : Except DecodeError Instr :=
  match op with
  | 0x40 => match sub with
    | 0 => .ok (.lxchgReg .idx o)
    | 1 => .ok (.lxchgReg .up o)
    | 2 => .ok (.lxchgReg .down o)
    | 3 => .ok (.lxchgReg .xor o)
    | 4 => .ok (.lxchgImm .idx o)
    | 5 => .ok (.lxchgImm .up o)
    | 6 => .ok (.lxchgImm .down o)
    | 7 => .ok (.lxchgImm .xor o)
    | _ => .error .unassignedSub
  | 0x41 => match sub with
    | 0 => .ok (.vote .all o)
    | 1 => .ok (.vote .any o)
    | 2 => .ok (.vote .uni o)
    | _ => .error .unassignedSub
  | 0x42 => match sub with
    | 0 => .ok (.ballot o)
    | _ => .error .unassignedSub
  | 0x43 => match sub with
    | 0 => .ok (.matchAny o)
    | 1 => .ok (.matchAll o)
    | _ => .error .unassignedSub
  | 0x44 => match sub with
    | 0 => .ok (.redux .add o)
    | 1 => .ok (.redux .min o)
    | 2 => .ok (.redux .max o)
    | 3 => .ok (.redux .and o)
    | 4 => .ok (.redux .or o)
    | 5 => .ok (.redux .xor o)
    | 6 => .ok (.redux .fadd o)
    | 7 => .ok (.redux .fmin o)
    | 8 => .ok (.redux .fmax o)
    | _ => .error .unassignedSub
  | 0x45 => match sub with
    | 0 => .ok (.xpair o)
    | _ => .error .unassignedSub
  | 0x46 => match sub with
    | 0 => .ok (.xshfl o)
    | _ => .error .unassignedSub
  | 0x48 => match sub with
    | 0 => .ok (.ldReg o)
    | 1 => .ok (.ldImm o)
    | 2 => .ok (.ldPrivReg o)
    | 3 => .ok (.ldPrivImm o)
    | _ => .error .unassignedSub
  | 0x49 => match sub with
    | 0 => .ok (.stReg o)
    | 1 => .ok (.stImm o)
    | 2 => .ok (.stPrivReg o)
    | 3 => .ok (.stPrivImm o)
    | _ => .error .unassignedSub
  | 0x4A => match sub with
    | 0 => .ok (.ldsReg o)
    | 1 => .ok (.ldsImm o)
    | _ => .error .unassignedSub
  | 0x4B => match sub with
    | 0 => .ok (.stsReg o)
    | 1 => .ok (.stsImm o)
    | _ => .error .unassignedSub
  | 0x4C => match sub with
    | 0 => .ok (.ldcReg o)
    | 1 => .ok (.ldcImm o)
    | _ => .error .unassignedSub
  | 0x4D => match sub with
    | 0 => .ok (.lda o)
    | _ => .error .unassignedSub
  | 0x4E => match sub with
    | 0 => .ok (.prefReg o)
    | 1 => .ok (.prefImm o)
    | _ => .error .unassignedSub
  | 0x4F => match sub with
    | 0 => .ok (.copy o)
    | _ => .error .unassignedSub
  | _ => .error .unlistedOpcode

/-- Operand-layout opcodes 0x50 to 0x5F with their SUB values (R37 and the class chapters). -/
def decodeOp5 (op sub : Nat) (o : Opnds) : Except DecodeError Instr :=
  match op with
  | 0x50 => match sub with
    | 0 => .ok (.gath o)
    | _ => .error .unassignedSub
  | 0x51 => match sub with
    | 0 => .ok (.arrinit o)
    | _ => .error .unassignedSub
  | 0x52 => match sub with
    | 0 => .ok (.arrive o)
    | _ => .error .unassignedSub
  | 0x53 => match sub with
    | 0 => .ok (.arrwait o)
    | 1 => .ok (.arrwaitTest o)
    | _ => .error .unassignedSub
  | 0x54 => match sub with
    | 0 => .ok (.publish o)
    | _ => .error .unassignedSub
  | 0x55 => match sub with
    | 0 => .ok (.cctlWb o)
    | 1 => .ok (.cctlWbinv o)
    | 2 => .ok (.cctlConst o)
    | _ => .error .unassignedSub
  | 0x58 => match sub with
    | 0 => .ok (.atom .add o)
    | 1 => .ok (.atom .min o)
    | 2 => .ok (.atom .max o)
    | 3 => .ok (.atom .and o)
    | 4 => .ok (.atom .or o)
    | 5 => .ok (.atom .xor o)
    | 6 => .ok (.atom .exch o)
    | 7 => .ok (.atom .inc o)
    | 8 => .ok (.atom .dec o)
    | 9 => .ok (.atom .fadd o)
    | 10 => .ok (.atom .fmin o)
    | 11 => .ok (.atom .fmax o)
    | _ => .error .unassignedSub
  | 0x59 => match sub with
    | 0 => .ok (.acas o)
    | _ => .error .unassignedSub
  | 0x5A => match sub with
    | 0 => .ok (.atoms .add o)
    | 1 => .ok (.atoms .min o)
    | 2 => .ok (.atoms .max o)
    | 3 => .ok (.atoms .and o)
    | 4 => .ok (.atoms .or o)
    | 5 => .ok (.atoms .xor o)
    | 6 => .ok (.atoms .exch o)
    | 7 => .ok (.atoms .inc o)
    | 8 => .ok (.atoms .dec o)
    | 9 => .ok (.atoms .fadd o)
    | 10 => .ok (.atoms .fmin o)
    | 11 => .ok (.atoms .fmax o)
    | 12 => .ok (.atoms .cas o)
    | _ => .error .unassignedSub
  | 0x5B => match sub with
    | 0 => .ok (.fence .acq o)
    | 1 => .ok (.fence .rel o)
    | 2 => .ok (.fence .ar o)
    | _ => .error .unassignedSub
  | 0x5C => match sub with
    | 0 => .ok (.waita .eq o)
    | 1 => .ok (.waita .ne o)
    | 2 => .ok (.waita .ltu o)
    | 3 => .ok (.waita .geu o)
    | _ => .error .unassignedSub
  | _ => .error .unlistedOpcode

/-- Operand-layout opcodes 0x60 to 0x6F with their SUB values (R37 and the class chapters). -/
def decodeOp6 (op sub : Nat) (o : Opnds) : Except DecodeError Instr :=
  match op with
  | 0x60 => match sub with
    | 0 => .ok (.qinit o)
    | 1 => .ok (.qinitGrant o)
    | _ => .error .unassignedSub
  | 0x61 => match sub with
    | 0 => .ok (.qpush o)
    | _ => .error .unassignedSub
  | 0x62 => match sub with
    | 0 => .ok (.qpop o)
    | _ => .error .unassignedSub
  | 0x63 => match sub with
    | 0 => .ok (.qtryPop o)
    | 1 => .ok (.qtryPush o)
    | _ => .error .unassignedSub
  | 0x64 => match sub with
    | 0 => .ok (.circCast o)
    | _ => .error .unassignedSub
  | 0x65 => match sub with
    | 0 => .ok (.circBind o)
    | _ => .error .unassignedSub
  | 0x66 => match sub with
    | 0 => .ok (.circCap o)
    | _ => .error .unassignedSub
  | 0x67 => match sub with
    | 0 => .ok (.circWr o)
    | _ => .error .unassignedSub
  | 0x68 => match sub with
    | 0 => .ok (.circRel o)
    | _ => .error .unassignedSub
  | 0x69 => match sub with
    | 0 => .ok (.circPeek o)
    | _ => .error .unassignedSub
  | 0x6A => match sub with
    | 0 => .ok (.circTurn o)
    | _ => .error .unassignedSub
  | 0x6C => match sub with
    | 0 => .ok (.setshapeReg o)
    | 1 => .ok (.setshapeImm o)
    | 2 => .ok (.setshapeTail o)
    | _ => .error .unassignedSub
  | 0x6D => match sub with
    | 0 => .ok (.getshape .grant o)
    | 1 => .ok (.getshape .tail o)
    | 2 => .ok (.getshape .req o)
    | _ => .error .unassignedSub
  | 0x6E => match sub with
    | 0 => .ok (.mma o)
    | _ => .error .unassignedSub
  | 0x6F => match sub with
    | 0 => .ok (.mmas o)
    | _ => .error .unassignedSub
  | _ => .error .unlistedOpcode

/-- Operand-layout opcodes 0x70 to 0x7F with their SUB values (R37 and the class chapters). -/
def decodeOp7 (op sub : Nat) (o : Opnds) : Except DecodeError Instr :=
  match op with
  | 0x70 => match sub with
    | 0 => .ok (.accz o)
    | _ => .error .unassignedSub
  | 0x71 => match sub with
    | 0 => .ok (.accld o)
    | 1 => .ok (.accldDec o)
    | 2 => .ok (.accldTscale o)
    | _ => .error .unassignedSub
  | 0x72 => match sub with
    | 0 => .ok (.accst o)
    | 1 => .ok (.accstSp o)
    | _ => .error .unassignedSub
  | 0x73 => match sub with
    | 0 => .ok (.fragld .a o)
    | 1 => .ok (.fragld .b o)
    | 2 => .ok (.fragld .scA o)
    | 3 => .ok (.fragld .scB o)
    | _ => .error .unassignedSub
  | 0x74 => match sub with
    | 0 => .ok (.pldReg 0#3 o)
    | 1 => .ok (.pldImm 0#3 o)
    | 2 => .ok (.pldReg 1#3 o)
    | 3 => .ok (.pldImm 1#3 o)
    | 4 => .ok (.pldReg 2#3 o)
    | 5 => .ok (.pldImm 2#3 o)
    | 6 => .ok (.pldReg 3#3 o)
    | 7 => .ok (.pldImm 3#3 o)
    | 8 => .ok (.pldReg 4#3 o)
    | 9 => .ok (.pldImm 4#3 o)
    | 10 => .ok (.pldReg 5#3 o)
    | 11 => .ok (.pldImm 5#3 o)
    | 12 => .ok (.pldReg 6#3 o)
    | 13 => .ok (.pldImm 6#3 o)
    | 14 => .ok (.pldReg 7#3 o)
    | 15 => .ok (.pldImm 7#3 o)
    | _ => .error .unassignedSub
  | 0x75 => match sub with
    | 0 => .ok (.pmat o)
    | 1 => .ok (.pmatS o)
    | _ => .error .unassignedSub
  | 0x76 => match sub with
    | 0 => .ok (.pfree o)
    | 1 => .ok (.pfreeP o)
    | _ => .error .unassignedSub
  | 0x77 => match sub with
    | 0 => .ok (.pdot o)
    | _ => .error .unassignedSub
  | 0x78 => match sub with
    | 0 => .ok (.pred .add o)
    | 1 => .ok (.pred .min o)
    | 2 => .ok (.pred .max o)
    | 3 => .ok (.pred .fadd o)
    | 4 => .ok (.pred .fmin o)
    | 5 => .ok (.pred .fmax o)
    | _ => .error .unassignedSub
  | 0x79 => match sub with
    | 0 => .ok (.pqry o)
    | 1 => .ok (.pqryP o)
    | _ => .error .unassignedSub
  | 0x7C => match sub with
    | 0 => .ok (.tret o)
    | 1 => .ok (.tretSkip o)
    | _ => .error .unassignedSub
  | 0x7D => match sub with
    | 0 => .ok (.nlaunch o)
    | 1 => .ok (.nresume o)
    | 2 => .ok (.nstat o)
    | _ => .error .unassignedSub
  | 0x7E => match sub with
    | 0 => .ok (.tlbhHarv o)
    | 1 => .ok (.tlbhInv o)
    | _ => .error .unassignedSub
  | 0x7A => match sub with
    | 0 => .ok (csrrInstr o)
    | _ => .error .unassignedSub
  | 0x7B => match sub with
    | 0 => .ok (csrwInstr o)
    | _ => .error .unassignedSub
  | _ => .error .unlistedOpcode

/-- An operand-layout word, by its opcode (R37). -/
def decodeOperand (op sub : Nat) (o : Opnds) : Except DecodeError Instr :=
  match op / 16 with
  | 0 => decodeOp0 op sub o
  | 1 => decodeOp1 op sub o
  | 2 => decodeOp2 op sub o
  | 3 => decodeOp3 op sub o
  | 4 => decodeOp4 op sub o
  | 5 => decodeOp5 op sub o
  | 6 => decodeOp6 op sub o
  | _ => decodeOp7 op sub o

/-- A full-form word, by the layout its opcode selects (R12). -/
def decodeFull (w : DWord) : Except DecodeError Instr :=
  let op := (w.extractLsb' 56 7).toNat
  if op = 0x7F then .ok (.clauseStart (unpackHeader w))
  else if op = 0x01 then .ok (.bra (unpackBranch w))
  else if op = 0x03 then .ok (.call (unpackBranch w))
  else if op = 0x2E then .ok (.movi (unpackMovi w))
  else decodeOperand op (w.extractLsb' 20 4).toNat (unpackOpnds w)

/-- A pair word: half X in bits [61:31], half Y in bits [30:0] (R24). -/
def decodePair (w : DWord) : Except DecodeError Instr :=
  match pairOpOf (w.extractLsb' 56 6), pairOpOf (w.extractLsb' 25 6) with
  | some x, some y => .ok (mkPair x (unpackHalf (w.extractLsb' 31 31)) ⟨y, unpackHalf (w.extractLsb' 0 31)⟩)
  | _, _ => .error .unassignedPairOp

/-- A native instruction word (R12). -/
def decode (w : DWord) : Except DecodeError Instr :=
  if w.getLsbD 63 = false then decodeFull w
  else if w.getLsbD 62 = false then decodePair w
  else .error .reservedForm

/-- A native instruction from its 8 bytes in memory, the lowest address first, and the bytes that follow (R1). -/
def decodeBytes : List Byte → Except DecodeError (Instr × List Byte)
  | b0 :: b1 :: b2 :: b3 :: b4 :: b5 :: b6 :: b7 :: rest =>
    match decode (b7 ++ b6 ++ b5 ++ b4 ++ b3 ++ b2 ++ b1 ++ b0 : BitVec 64) with
    | .ok i => .ok (i, rest)
    | .error e => .error e
  | _ => .error .shortWord

/-! ### Bank words (R288, R289) -/

/-- MODE of the bank arithmetic (R289). -/
def bankModeOf (m : Nat) : Option BankMode :=
  match m with
  | 0 => some .i64 | 1 => some .i32x2 | 2 => some .f32x2 | 3 => some .u64 | 4 => some .u32x2 | _ => none

/-- MODE codes of the bank arithmetic (R289). -/
def BankMode.code : BankMode → BitVec 3
  | .i64 => 0#3 | .i32x2 => 1#3 | .f32x2 => 2#3 | .u64 => 3#3 | .u32x2 => 4#3

/-- FL of the bank branches (R289). -/
def bankCmpOf (m : Nat) : Option BankCmp :=
  match m with
  | 0 => some .eq | 1 => some .ne | 2 => some .ltu | 3 => some .geu | 4 => some .lt | 5 => some .ge | _ => none

/-- FL codes of the bank branches (R289). -/
def BankCmp.code : BankCmp → BitVec 3
  | .eq => 0#3 | .ne => 1#3 | .ltu => 2#3 | .geu => 3#3 | .lt => 4#3 | .ge => 5#3

/-- MODE of XLOP (R289). -/
def bankLopOf (m : Nat) : Option BankLop :=
  match m with
  | 0 => some .and | 1 => some .or | 2 => some .xor | _ => none

/-- MODE codes of XLOP (R289). -/
def BankLop.code : BankLop → BitVec 3
  | .and => 0#3 | .or => 1#3 | .xor => 2#3

/-- The instruction when its unused fields are zero, and a reserved-field rejection otherwise (R288). -/
def okIf (c : Bool) (i : Instr) : Except DecodeError Instr := if c then .ok i else .error .reservedField

/-- A bank arithmetic instruction whose MODE must be one of the first `n` (R289). -/
def okMode (n : Nat) (m : BitVec 3) (c : Bool) (f : BankMode → Instr) : Except DecodeError Instr :=
  match bankModeOf m.toNat with
  | some k => okIf (c && decide (m.toNat < n)) (f k)
  | none => .error .reservedField

/-- A bank branch with an assigned comparison (R289). -/
def okCmp (m : BitVec 3) (f : BankCmp → Instr) : Except DecodeError Instr :=
  match bankCmpOf m.toNat with
  | some k => .ok (f k)
  | none => .error .reservedField

/-- A bank instruction word (R288, R289). -/
def decodeBank (w : Word) : Except DecodeError Instr :=
  let d := w.extractLsb' 23 4
  let a := w.extractLsb' 19 4
  let b := w.extractLsb' 15 4
  let c := w.extractLsb' 11 4
  let m := w.extractLsb' 8 3
  let r0 := w.extractLsb' 0 8 == 0#8
  let fl := w.extractLsb' 16 3
  let imm := w.extractLsb' 0 16
  let dz := d == 0#4
  let az := a == 0#4
  let bz := b == 0#4
  let cz := c == 0#4
  let mz := m == 0#3
  let fz := fl == 0#3
  let iz := imm == 0#16
  match (w.extractLsb' 27 5).toNat with
  | 0x00 => if fz then okIf az (.nli d imm) else okIf (az && fl == 1#3) (.nliH d imm)
  | 0x01 => okIf (cz && mz && r0) (.nadd d a b)
  | 0x02 => okIf fz (.naddi d a imm)
  | 0x03 => okIf (fz && w.extractLsb' 5 11 == 0#11) (.nshl d a (w.extractLsb' 0 5))
  | 0x04 => okCmp fl (fun k => .nbr k d a imm)
  | 0x05 => if fz then okIf (dz && iz) (.crd a) else okIf (dz && iz && fl == 1#3) (.crdRef a)
  | 0x06 => okIf (dz && fz && iz) (.wr a)
  | 0x07 => okIf (az && fz && iz) (.bpop d)
  | 0x08 => okIf (dz && az && fz && iz) .nend
  | 0x10 => okIf (az && fz && w.extractLsb' 3 13 == 0#13) (.xget d (w.extractLsb' 0 3))
  | 0x11 => okIf (dz && az && fz && iz) .xnext
  | 0x12 => okMode 3 m (az && bz && cz && r0) (fun k => .xcadd k d)
  | 0x13 => if fz then okIf az (.xli d imm) else okIf (az && fl == 1#3) (.xliF2 d imm)
  | 0x14 => okMode 3 m (cz && r0) (fun k => .xadd k d a b)
  | 0x15 => okMode 3 m (cz && r0) (fun k => .xsub k d a b)
  | 0x16 => okMode 3 m (cz && r0) (fun k => .xmul k d a b)
  | 0x17 => okMode 3 m r0 (fun k => .xfma k d a b c)
  | 0x18 => okMode 5 m (cz && r0) (fun k => .xmin k d a b)
  | 0x19 => okMode 5 m (cz && r0) (fun k => .xmax k d a b)
  | 0x1A => match bankLopOf m.toNat with
    | some k => okIf (cz && r0) (.xlop k d a b)
    | none => .error .reservedField
  | 0x1B => okMode 3 m (bz && cz && r0 && m != 0#3) (fun k => .xhsum k d a)
  | 0x1C => okIf (dz && bz && cz && mz && r0) (.xsend a)
  | 0x1D => okCmp fl (fun k => .xbr k d a imm)
  | 0x1E => okIf (dz && az && fz && iz) .xend
  | _ => .error .unlistedOpcode

/-- The R-layout (R288). -/
def packBankR (op : BitVec 5) (d a b c : BitVec 4) (m : BitVec 3) : Word :=
  (op ++ d ++ a ++ b ++ c ++ m ++ 0#8 : BitVec 32)

/-- The I-layout (R288). -/
def packBankI (op : BitVec 5) (d a : BitVec 4) (fl : BitVec 3) (imm : BitVec 16) : Word :=
  (op ++ d ++ a ++ fl ++ imm : BitVec 32)

/-- The word of a bank instruction (R288, R289). -/
def encodeBank : Instr → Option Word
  | .nli d imm => some (packBankI 0x00#5 d 0#4 0#3 imm)
  | .nliH d imm => some (packBankI 0x00#5 d 0#4 1#3 imm)
  | .nadd d a b => some (packBankR 0x01#5 d a b 0#4 0#3)
  | .naddi d a imm => some (packBankI 0x02#5 d a 0#3 imm)
  | .nshl d a s => some (packBankI 0x03#5 d a 0#3 (0#11 ++ s))
  | .nbr k d a imm => some (packBankI 0x04#5 d a k.code imm)
  | .crd a => some (packBankI 0x05#5 0#4 a 0#3 0#16)
  | .crdRef a => some (packBankI 0x05#5 0#4 a 1#3 0#16)
  | .wr a => some (packBankI 0x06#5 0#4 a 0#3 0#16)
  | .bpop d => some (packBankI 0x07#5 d 0#4 0#3 0#16)
  | .nend => some (packBankI 0x08#5 0#4 0#4 0#3 0#16)
  | .xget d w => some (packBankI 0x10#5 d 0#4 0#3 (0#13 ++ w))
  | .xnext => some (packBankI 0x11#5 0#4 0#4 0#3 0#16)
  | .xcadd k d => some (packBankR 0x12#5 d 0#4 0#4 0#4 k.code)
  | .xli d imm => some (packBankI 0x13#5 d 0#4 0#3 imm)
  | .xliF2 d imm => some (packBankI 0x13#5 d 0#4 1#3 imm)
  | .xadd k d a b => some (packBankR 0x14#5 d a b 0#4 k.code)
  | .xsub k d a b => some (packBankR 0x15#5 d a b 0#4 k.code)
  | .xmul k d a b => some (packBankR 0x16#5 d a b 0#4 k.code)
  | .xfma k d a b c => some (packBankR 0x17#5 d a b c k.code)
  | .xmin k d a b => some (packBankR 0x18#5 d a b 0#4 k.code)
  | .xmax k d a b => some (packBankR 0x19#5 d a b 0#4 k.code)
  | .xlop k d a b => some (packBankR 0x1A#5 d a b 0#4 k.code)
  | .xhsum k d a => some (packBankR 0x1B#5 d a 0#4 0#4 k.code)
  | .xsend a => some (packBankR 0x1C#5 0#4 a 0#4 0#4 0#3)
  | .xbr k d a imm => some (packBankI 0x1D#5 d a k.code imm)
  | .xend => some (packBankI 0x1E#5 0#4 0#4 0#3 0#16)
  | _ => none

/-- SUB codes of `SfFn`. -/
def SfFn.code : SfFn → Nat
  | .rcp => 0 | .rsq => 1 | .sqrt => 2 | .exp2 => 3 | .log2 => 4 | .tanh => 5 | .sin => 6 | .cos => 7

/-- SUB codes of `LxMode`. -/
def LxMode.code : LxMode → Nat
  | .idx => 0 | .up => 1 | .down => 2 | .xor => 3

/-- SUB codes of `VoteMode`. -/
def VoteMode.code : VoteMode → Nat
  | .all => 0 | .any => 1 | .uni => 2

/-- SUB codes of `ReduxOp`. -/
def ReduxOp.code : ReduxOp → Nat
  | .add => 0 | .min => 1 | .max => 2 | .and => 3 | .or => 4 | .xor => 5 | .fadd => 6 | .fmin => 7 | .fmax => 8

/-- SUB codes of `PredOp`. -/
def PredOp.code : PredOp → Nat
  | .add => 0 | .min => 1 | .max => 2 | .fadd => 3 | .fmin => 4 | .fmax => 5

/-- SUB codes of `AtomOp`. -/
def AtomOp.code : AtomOp → Nat
  | .add => 0 | .min => 1 | .max => 2 | .and => 3 | .or => 4 | .xor => 5 | .exch => 6 | .inc => 7 | .dec => 8 | .fadd => 9 | .fmin => 10 | .fmax => 11 | .cas => 12

/-- SUB codes of `FenceKind`. -/
def FenceKind.code : FenceKind → Nat
  | .acq => 0 | .rel => 1 | .ar => 2

/-- SUB codes of `WaitCmp`. -/
def WaitCmp.code : WaitCmp → Nat
  | .eq => 0 | .ne => 1 | .ltu => 2 | .geu => 3

/-- SUB codes of `ShapeSel`. -/
def ShapeSel.code : ShapeSel → Nat
  | .grant => 0 | .tail => 1 | .req => 2

/-- SUB codes of `FragPart`. -/
def FragPart.code : FragPart → Nat
  | .a => 0 | .b => 1 | .scA => 2 | .scB => 3

/-- OP, SUB and operand fields of an operand-layout instruction (R13, R37 and the class chapters). -/
def operandCode : Instr → Option (BitVec 7 × BitVec 4 × Opnds)
  | .nop o => some (0x00#7, 0#4, o)
  | .brx o => some (0x02#7, 0#4, o)
  | .ret o => some (0x04#7, 0#4, o)
  | .exit o => some (0x05#7, 0#4, o)
  | .join o => some (0x06#7, 0#4, o)
  | .yield o => some (0x07#7, 0#4, o)
  | .sleep o => some (0x08#7, 0#4, o)
  | .sleepProm o => some (0x08#7, 1#4, o)
  | .sleepFor o => some (0x08#7, 2#4, o)
  | .trap o => some (0x09#7, 0#4, o)
  | .bkpt o => some (0x0A#7, 0#4, o)
  | .spawn o => some (0x10#7, 0#4, o)
  | .jdec o => some (0x11#7, 0#4, o)
  | .swpt o => some (0x12#7, 0#4, o)
  | .phase o => some (0x13#7, 0#4, o)
  | .rbacq o => some (0x14#7, 0#4, o)
  | .rbrel o => some (0x15#7, 0#4, o)
  | .iaddReg o => some (0x18#7, 0#4, o)
  | .iaddImm o => some (0x18#7, 1#4, o)
  | .isubReg o => some (0x19#7, 0#4, o)
  | .isubImm o => some (0x19#7, 1#4, o)
  | .imulReg o => some (0x1A#7, 0#4, o)
  | .imulImm o => some (0x1A#7, 1#4, o)
  | .imulhReg o => some (0x1B#7, 0#4, o)
  | .imulhImm o => some (0x1B#7, 1#4, o)
  | .imad o => some (0x1C#7, 0#4, o)
  | .imadw o => some (0x1D#7, 0#4, o)
  | .iminReg o => some (0x1E#7, 0#4, o)
  | .iminImm o => some (0x1E#7, 1#4, o)
  | .imaxReg o => some (0x1F#7, 0#4, o)
  | .imaxImm o => some (0x1F#7, 1#4, o)
  | .iabs o => some (0x20#7, 0#4, o)
  | .itestReg o => some (0x21#7, 0#4, o)
  | .itestImm o => some (0x21#7, 1#4, o)
  | .selReg o => some (0x22#7, 0#4, o)
  | .selImm o => some (0x22#7, 1#4, o)
  | .blutReg lut o => some (0x23#7, BitVec.ofNat 4 (lut.toNat), o)
  | .blutImm lut o => some (0x23#7, BitVec.ofNat 4 (8 + lut.toNat), o)
  | .shlReg o => some (0x24#7, 0#4, o)
  | .shlImm o => some (0x24#7, 1#4, o)
  | .shrReg o => some (0x25#7, 0#4, o)
  | .shrImm o => some (0x25#7, 1#4, o)
  | .shf o => some (0x26#7, 0#4, o)
  | .popc o => some (0x27#7, 0#4, o)
  | .clz o => some (0x28#7, 0#4, o)
  | .brev o => some (0x29#7, 0#4, o)
  | .bfeReg o => some (0x2A#7, 0#4, o)
  | .bfeImm o => some (0x2A#7, 1#4, o)
  | .bfi o => some (0x2B#7, 0#4, o)
  | .leaReg o => some (0x2C#7, 0#4, o)
  | .leaImm o => some (0x2C#7, 1#4, o)
  | .mov o => some (0x2D#7, 0#4, o)
  | .movP2v o => some (0x2D#7, 1#4, o)
  | .movV2p o => some (0x2D#7, 2#4, o)
  | .movLaneReg o => some (0x2D#7, 3#4, o)
  | .movLaneImm o => some (0x2D#7, 4#4, o)
  | .movUnif o => some (0x2D#7, 5#4, o)
  | .plop lut o => some (0x2F#7, BitVec.ofNat 4 (lut.toNat), o)
  | .faddReg o => some (0x30#7, 0#4, o)
  | .faddImm o => some (0x30#7, 1#4, o)
  | .fmulReg o => some (0x31#7, 0#4, o)
  | .fmulImm o => some (0x31#7, 1#4, o)
  | .ffma o => some (0x32#7, 0#4, o)
  | .fminReg o => some (0x33#7, 0#4, o)
  | .fminImm o => some (0x33#7, 1#4, o)
  | .fmaxReg o => some (0x34#7, 0#4, o)
  | .fmaxImm o => some (0x34#7, 1#4, o)
  | .fsetpReg k o => some (0x35#7, BitVec.ofNat 4 (2 * k.toNat), o)
  | .fsetpImm k o => some (0x35#7, BitVec.ofNat 4 (2 * k.toNat + 1), o)
  | .fsfun k o => some (0x36#7, BitVec.ofNat 4 (k.code), o)
  | .hadd2Reg o => some (0x37#7, 0#4, o)
  | .hadd2Imm o => some (0x37#7, 1#4, o)
  | .hmul2Reg o => some (0x38#7, 0#4, o)
  | .hmul2Imm o => some (0x38#7, 1#4, o)
  | .hfma2 o => some (0x39#7, 0#4, o)
  | .fdot2 o => some (0x3A#7, 0#4, o)
  | .fclass o => some (0x3B#7, 0#4, o)
  | .cvt o => some (0x3C#7, 0#4, o)
  | .pack k o => some (0x3D#7, BitVec.ofNat 4 (k.toNat), o)
  | .unpack k o => some (0x3E#7, BitVec.ofNat 4 (k.toNat), o)
  | .rxcvtEnc o => some (0x3F#7, 0#4, o)
  | .rxcvtDec o => some (0x3F#7, 1#4, o)
  | .lxchgReg k o => some (0x40#7, BitVec.ofNat 4 (k.code), o)
  | .lxchgImm k o => some (0x40#7, BitVec.ofNat 4 (4 + k.code), o)
  | .vote k o => some (0x41#7, BitVec.ofNat 4 (k.code), o)
  | .ballot o => some (0x42#7, 0#4, o)
  | .matchAny o => some (0x43#7, 0#4, o)
  | .matchAll o => some (0x43#7, 1#4, o)
  | .redux k o => some (0x44#7, BitVec.ofNat 4 (k.code), o)
  | .xpair o => some (0x45#7, 0#4, o)
  | .xshfl o => some (0x46#7, 0#4, o)
  | .ldReg o => some (0x48#7, 0#4, o)
  | .ldImm o => some (0x48#7, 1#4, o)
  | .ldPrivReg o => some (0x48#7, 2#4, o)
  | .ldPrivImm o => some (0x48#7, 3#4, o)
  | .stReg o => some (0x49#7, 0#4, o)
  | .stImm o => some (0x49#7, 1#4, o)
  | .stPrivReg o => some (0x49#7, 2#4, o)
  | .stPrivImm o => some (0x49#7, 3#4, o)
  | .ldsReg o => some (0x4A#7, 0#4, o)
  | .ldsImm o => some (0x4A#7, 1#4, o)
  | .stsReg o => some (0x4B#7, 0#4, o)
  | .stsImm o => some (0x4B#7, 1#4, o)
  | .ldcReg o => some (0x4C#7, 0#4, o)
  | .ldcImm o => some (0x4C#7, 1#4, o)
  | .lda o => some (0x4D#7, 0#4, o)
  | .prefReg o => some (0x4E#7, 0#4, o)
  | .prefImm o => some (0x4E#7, 1#4, o)
  | .copy o => some (0x4F#7, 0#4, o)
  | .gath o => some (0x50#7, 0#4, o)
  | .arrinit o => some (0x51#7, 0#4, o)
  | .arrive o => some (0x52#7, 0#4, o)
  | .arrwait o => some (0x53#7, 0#4, o)
  | .arrwaitTest o => some (0x53#7, 1#4, o)
  | .publish o => some (0x54#7, 0#4, o)
  | .cctlWb o => some (0x55#7, 0#4, o)
  | .cctlWbinv o => some (0x55#7, 1#4, o)
  | .cctlConst o => some (0x55#7, 2#4, o)
  | .atom k o => some (0x58#7, BitVec.ofNat 4 (k.code), o)
  | .acas o => some (0x59#7, 0#4, o)
  | .atoms k o => some (0x5A#7, BitVec.ofNat 4 (k.code), o)
  | .fence k o => some (0x5B#7, BitVec.ofNat 4 (k.code), o)
  | .waita k o => some (0x5C#7, BitVec.ofNat 4 (k.code), o)
  | .qinit o => some (0x60#7, 0#4, o)
  | .qinitGrant o => some (0x60#7, 1#4, o)
  | .qpush o => some (0x61#7, 0#4, o)
  | .qpop o => some (0x62#7, 0#4, o)
  | .qtryPop o => some (0x63#7, 0#4, o)
  | .qtryPush o => some (0x63#7, 1#4, o)
  | .circCast o => some (0x64#7, 0#4, o)
  | .circBind o => some (0x65#7, 0#4, o)
  | .circCap o => some (0x66#7, 0#4, o)
  | .circWr o => some (0x67#7, 0#4, o)
  | .circRel o => some (0x68#7, 0#4, o)
  | .circPeek o => some (0x69#7, 0#4, o)
  | .circTurn o => some (0x6A#7, 0#4, o)
  | .setshapeReg o => some (0x6C#7, 0#4, o)
  | .setshapeImm o => some (0x6C#7, 1#4, o)
  | .setshapeTail o => some (0x6C#7, 2#4, o)
  | .getshape k o => some (0x6D#7, BitVec.ofNat 4 (k.code), o)
  | .mma o => some (0x6E#7, 0#4, o)
  | .mmas o => some (0x6F#7, 0#4, o)
  | .accz o => some (0x70#7, 0#4, o)
  | .accld o => some (0x71#7, 0#4, o)
  | .accldDec o => some (0x71#7, 1#4, o)
  | .accldTscale o => some (0x71#7, 2#4, o)
  | .accst o => some (0x72#7, 0#4, o)
  | .accstSp o => some (0x72#7, 1#4, o)
  | .fragld k o => some (0x73#7, BitVec.ofNat 4 (k.code), o)
  | .pldReg k o => some (0x74#7, BitVec.ofNat 4 (2 * k.toNat), o)
  | .pldImm k o => some (0x74#7, BitVec.ofNat 4 (2 * k.toNat + 1), o)
  | .pmat o => some (0x75#7, 0#4, o)
  | .pmatS o => some (0x75#7, 1#4, o)
  | .pfree o => some (0x76#7, 0#4, o)
  | .pfreeP o => some (0x76#7, 1#4, o)
  | .pdot o => some (0x77#7, 0#4, o)
  | .pred k o => some (0x78#7, BitVec.ofNat 4 (k.code), o)
  | .pqry o => some (0x79#7, 0#4, o)
  | .pqryP o => some (0x79#7, 1#4, o)
  | .tret o => some (0x7C#7, 0#4, o)
  | .tretSkip o => some (0x7C#7, 1#4, o)
  | .nlaunch o => some (0x7D#7, 0#4, o)
  | .nresume o => some (0x7D#7, 1#4, o)
  | .nstat o => some (0x7D#7, 2#4, o)
  | .tlbhHarv o => some (0x7E#7, 0#4, o)
  | .tlbhInv o => some (0x7E#7, 1#4, o)
  | .csrr o => some (0x7A#7, 0#4, o)
  | .engErrRead o => some (0x7A#7, 0#4, o)
  | .csrw o => some (0x7B#7, 0#4, o)
  | .pxLostClear o => some (0x7B#7, 0#4, o)
  | _ => none

/-- Half X of a pair instruction, with its operation, and half Y (R24). -/
def pairHalves : Instr → Option (PairOp × HalfOpnds × PairHalf)
  | .pairMov x y => some (.mov, x, y)
  | .pairIadd x y => some (.iadd, x, y)
  | .pairIsub x y => some (.isub, x, y)
  | .pairImul x y => some (.imul, x, y)
  | .pairImin x y => some (.imin, x, y)
  | .pairImax x y => some (.imax, x, y)
  | .pairAnd x y => some (.and, x, y)
  | .pairOr x y => some (.or, x, y)
  | .pairXor x y => some (.xor, x, y)
  | .pairShl x y => some (.shl, x, y)
  | .pairShr x y => some (.shr, x, y)
  | .pairFadd x y => some (.fadd, x, y)
  | .pairFmul x y => some (.fmul, x, y)
  | .pairFmin x y => some (.fmin, x, y)
  | .pairFmax x y => some (.fmax, x, y)
  | .pairHadd2 x y => some (.hadd2, x, y)
  | .pairHmul2 x y => some (.hmul2, x, y)
  | .pairMovi8 x y => some (.movi8, x, y)
  | .pairIaddImm x y => some (.iaddImm, x, y)
  | .pairIsubImm x y => some (.isubImm, x, y)
  | .pairImulImm x y => some (.imulImm, x, y)
  | .pairIminImm x y => some (.iminImm, x, y)
  | .pairImaxImm x y => some (.imaxImm, x, y)
  | .pairAndImm x y => some (.andImm, x, y)
  | .pairOrImm x y => some (.orImm, x, y)
  | .pairXorImm x y => some (.xorImm, x, y)
  | .pairShlImm x y => some (.shlImm, x, y)
  | .pairShrImm x y => some (.shrImm, x, y)
  | _ => none

/-- The word of a pair instruction (R24). -/
def packPair (op : PairOp) (x : HalfOpnds) (y : PairHalf) : DWord :=
  (2#2 ++ packHalf op.code x ++ packHalf y.op.code y.o : BitVec 64)

/-- The word of a native instruction (R12 to R37). An event has none. -/
def encode (i : Instr) : Option DWord :=
  match i with
  | .clauseStart h => some (packHeader h)
  | .bra t => some (packBranch 0x01#7 t)
  | .call t => some (packBranch 0x03#7 t)
  | .movi o => some (packMovi o)
  | i =>
    match operandCode i with
    | some (op, sub, o) => some (packOpnds op sub o)
    | none => (pairHalves i).map fun (op, x, y) => packPair op x y

/-- The instruction my decoder reads from an instruction whose bits are `w`: a bank word when it has 32 bits or
fewer, and a native word otherwise. -/
def decodeTableWord (nbits w : Nat) : Option Instr :=
  if nbits ≤ 32 then
    match decodeBank (BitVec.ofNat 32 w) with
    | .ok i => some i
    | .error _ => none
  else
    match decode (BitVec.ofNat 64 w) with
    | .ok i => some i
    | .error _ => none

/-! ### What makes a decoded word ILLEGAL (R40) -/

/-- What decoding must know of the warp and the clause to judge a word: register blocks held, handler mode, the
S bit of each latch's tag (none while unset), whether the word is the last of its clause, and which set-flags
are valid. -/
structure DecodeCtx where
  blocks : Nat
  handler : Bool
  latches : List (Option (BitVec 8 × Bool))
  last : Bool
  flag1 : Bool
  flag2 : Bool
deriving DecidableEq, Repr, Inhabited

/-- The surroundings in which only a word's own bits can make it ILLEGAL: every register is allocated, every latch
holds a scalar register, and the position and the set-flags are right. -/
def DecodeCtx.widest : DecodeCtx :=
  { blocks := 30, handler := true, latches := List.replicate 3 (some (0#8, true)), last := true
    flag1 := true, flag2 := true }

/-- How an instruction uses an operand field (R13, R17, R21). -/
inductive Use
  /-- Unused: the field and its S bit are 0 (R17). -/
  | no
  /-- A destination specifier (R20). -/
  | dst
  /-- A source specifier, bound by the scalar-destination rule (R21). -/
  | src
  /-- A source that the rule exempts: reduced across lanes, or the data of a store (R21). -/
  | red
  /-- A predicate P0–P7 with its S bit 0. -/
  | pred
  /-- A number, with its S bit 0. -/
  | num
deriving DecidableEq, Repr, Inhabited

/-- The form of an instruction's word: its layout, the use of each field, the MOD and IMM16 bits it assigns, and the
further details its class chapter gives. -/
structure Form where
  imm : Bool := false
  d : Use := .no
  a : Use := .no
  b : Use := .no
  c : Use := .no
  mods : Nat := 0
  imms : Nat := 0xFFFF
  counted : Bool := false
  reuse : Bool := false
  /-- Register runs the form implies beyond its fields: specifier, S bit and length. -/
  runs : List (Nat × Bool × Nat) := []
  /-- A run that starts at the register a latch names (R245). -/
  tagRun : Option (BitVec 8 × Bool × Nat) := none
  /-- Details of the class chapter's own cases that this word shows. -/
  own : List Nat := []
  /-- Operands HOLD may name: bit 0 A, bit 1 B, bit 2 C. -/
  holds : Nat := 7
deriving Repr, Inhabited

/-- A detail when its case applies. -/
def viol (c : Bool) (d : Nat) : List Nat := if c then [d] else []

/-- Detail 0x0F where an S bit is not as a form requires. -/
def needS (s want : Bool) : List Nat := viol (s != want) 0x0F

/-- The CSR numbers R314 lists. -/
def csrListed (n : Nat) : Bool :=
  n ≤ 5 || n == 0x10 || n == 0x11 || (0x20 ≤ n && n ≤ 0x2C) || (0x40 ≤ n && n ≤ 0x5E) || n == 0x80

/-- The CSR numbers a program may write (R314). -/
def csrWritable (n : Nat) : Bool := 0x20 ≤ n && n ≤ 0x2C

/-- Elements of a format code of R141 in one register; 0 for a reserved code. -/
def fmtCount (f : Nat) : Nat :=
  match f with
  | 0 => 1 | 1 => 2 | 2 => 2 | 3 => 4 | 4 => 4 | 5 => 8 | 6 => 4
  | 8 => 1 | 9 => 1 | 10 => 2 | 11 => 2 | 12 => 4 | 13 => 4 | _ => 0

/-- Elements of a format code of PACK and UNPACK in one register (R143). -/
def packCount (f : Nat) : Nat :=
  match f with
  | 0 => 2 | 1 => 2 | 2 => 4 | 3 => 4 | 4 => 8 | 5 => 4 | 6 => 4 | _ => 4

/-- Registers a load or store of size code SZ moves (R166). -/
def szRegs (sz : Nat) : Nat := match sz with | 1 => 2 | 2 => 4 | _ => 1

/-- The cases of R167 for a data register and its size code. -/
def dataViol (o : Opnds) (store : Bool) : List Nat :=
  let sz := o.mod.toNat % 8
  viol (sz == 7) 0x05 ++ viol (store && (sz == 4 || sz == 6)) 0x05
    ++ viol ((sz == 1 && o.d.toNat % 2 == 1) || (sz == 2 && o.d.toNat % 4 != 0)) 0x0F

/-- The cases of R167 for HINT and A64 of a global access; `r` is the base register's field. -/
def hintViol (o : Opnds) (r : BitVec 8) : List Nat :=
  viol (o.mod.toNat / 16 == 3) 0x05 ++ viol (o.mod.getLsbD 3 && r.toNat % 2 == 1) 0x0F

/-- The register run of an A64 base (R167). -/
def a64Run (o : Opnds) (r : BitVec 8) (s : Bool) : List (Nat × Bool × Nat) :=
  if o.mod.getLsbD 3 then [(r.toNat, s, 2)] else []

/-- The form of a global load (R166). -/
def loadForm (o : Opnds) (imm priv : Bool) : Form :=
  { imm := imm, d := .dst, a := .src, b := if imm then .no else .src, counted := true
    mods := if priv then 0x37 else 0x3F
    runs := (o.d.toNat, o.sd, szRegs (o.mod.toNat % 8)) :: (if priv then [] else a64Run o o.a o.sa)
    own := dataViol o false ++ (if priv then viol (o.mod.toNat / 16 == 3) 0x05 else hintViol o o.a) }

/-- The form of a global store (R166): D is its data. -/
def storeForm (o : Opnds) (imm priv : Bool) : Form :=
  { loadForm o imm priv with d := .red, own := (dataViol o true) ++
      (if priv then viol (o.mod.toNat / 16 == 3) 0x05 else hintViol o o.a) }

/-- The form of a scratchpad or constant access (R166). -/
def localForm (o : Opnds) (imm store : Bool) : Form :=
  { imm := imm, d := if store then .red else .dst, a := .src, b := if imm then .no else .src, counted := true
    mods := 0x07, runs := [(o.d.toNat, o.sd, szRegs (o.mod.toNat % 8))], own := dataViol o store }

/-- An octet register: a multiple of 8, at most 88 (R221, R224). -/
def octetViol (r : BitVec 8) : List Nat := viol (r.toNat % 8 != 0 || r.toNat > 88) 0x0F

/-- SCOPE 6 and 7 are reserved (R203, R205). -/
def scopeViol (o : Opnds) : List Nat := viol (o.mod.toNat % 8 ≥ 6) 0x05

/-- The cases of R205 for ATOM, ACAS and ATOMS: `cas` when C is used, `a64` when the form has an A64 bit. -/
def atomForm (o : Opnds) (mods : Nat) (cas a64 scope : Bool) (own : List Nat) : Form :=
  let w64 := o.mod.getLsbD 4
  { d := .dst, a := .src, b := .src, c := if cas then .src else .no, mods := mods, counted := true
    runs := (if a64 then a64Run o o.a o.sa else [])
      ++ (if w64 then [(o.b.toNat, o.sb, 2)] ++ (if cas then [(o.c.toNat, o.sc, 2)] else [])
          ++ (if o.d.toNat = 0xF3 then [] else [(o.d.toNat, false, 2)]) else [])
    own := (if scope then scopeViol o else []) ++ viol o.sd 0x0F
      ++ viol (a64 && o.mod.getLsbD 3 && o.a.toNat % 2 == 1) 0x0F
      ++ viol (w64 && (o.b.toNat % 2 == 1 || (cas && o.c.toNat % 2 == 1)
          || (o.d.toNat % 2 == 1 && o.d.toNat != 0xF3))) 0x0F
      ++ own }

/-- U is for MIN and MAX only, W64 for the operations R204 gives it (R205). -/
def atomOpViol (op : AtomOp) (o : Opnds) : List Nat :=
  viol (o.mod.getLsbD 5 && !(op == .min || op == .max)) 0x05
    ++ viol (o.mod.getLsbD 4 && (op == .inc || op == .dec || op == .fadd || op == .fmin || op == .fmax)) 0x05

/-- The rounding, flushing and saturation bits of R51. -/
def fpMods : Nat := 0x0F

/-- A two-source form with its immediate variant. -/
def binForm (imm : Bool) (mods : Nat) (own : List Nat := []) : Form :=
  { imm := imm, d := .dst, a := .src, b := if imm then .no else .src, mods := mods, own := own }

/-- A three-source form. -/
def triForm (mods : Nat) (own : List Nat := []) (runs : List (Nat × Bool × Nat) := []) : Form :=
  { d := .dst, a := .src, b := .src, c := .src, mods := mods, own := own, runs := runs }

/-- A one-source form. -/
def unForm (mods : Nat) (own : List Nat := []) (runs : List (Nat × Bool × Nat) := []) : Form :=
  { d := .dst, a := .src, mods := mods, own := own, runs := runs }

/-- An integer form with comparison bits (R113, R117). -/
def itestForm (imm : Bool) (o : Opnds) : Form :=
  { imm := imm, d := .pred, a := .src, b := if imm then .no else .src, mods := 0x0F
    own := viol (o.sa || o.sb) 0x05 ++ viol (o.mod.toNat / 2 % 8 ≥ 6) 0x05 }

/-- An operand that names a latch, ZERO, LANE or WARPID (R245). -/
def notRegister (r : BitVec 8) : Bool := r.toNat ≥ 0xF0

/-- The form of MMA and MMAS (R244, R245). -/
def mmaForm (o : Opnds) : Form :=
  { d := .num, a := .src, b := .src, c := .src, mods := 0x3F, reuse := true, holds := 4
    own := viol (o.sa || o.sb || notRegister o.a || notRegister o.b) 0x0F }

/-- The form of PLD (R272, R273). -/
def pldForm (o : Opnds) (imm : Bool) : Form :=
  { imm := imm, d := .dst, a := .src, b := if imm then .no else .src, mods := 0x3C
    runs := if o.mod.getLsbD 2 then [(o.a.toNat, o.sa, 2)] else []
    own := viol (o.mod.getLsbD 2 && o.a.toNat % 2 == 1) 0x05 ++ viol o.sd 0x0F }

/-- The form of every operand-layout instruction, as its class chapter gives it: R70 and R71, R102, R116 and R117,
R131 and R132, R148 and R149, R166 and R167 (log entry 91 for the operands of CCTL and TLBH), R203 and R205, R213, R224,
R244 and R245, R272 and R273, R300, R309, R313. -/
def form : Instr → Option Form
  | .nop _ | .ret _ | .exit _ | .join _ | .yield _ => some {}
  | .brx _ => some { imm := true, a := .src }
  | .sleep o => some { a := .src, own := needS o.sa true }
  | .sleepProm o => some { a := .src, b := .src, mods := 1, own := needS o.sa true ++ needS o.sb true }
  | .sleepFor _ => some { imm := true }
  | .trap _ | .bkpt _ => some { imm := true, imms := 0xFF }
  | .spawn o | .jdec o =>
    some { d := .dst, a := .src, counted := true, own := needS o.sd true ++ needS o.sa true }
  | .swpt _ => some { imm := true, imms := 0xF }
  | .phase o => some { d := .dst, a := .src, own := needS o.sd true ++ needS o.sa true }
  | .rbacq o | .rbrel o => some { imm := true, own := viol (o.imm16.toNat = 0 || o.imm16.toNat > 29) 0x0F }
  | .iaddReg _ | .isubReg _ => some (binForm false 3)
  | .iaddImm _ | .isubImm _ => some (binForm true 3)
  | .imulReg _ => some (binForm false 0)
  | .imulImm _ => some (binForm true 0)
  | .imulhReg _ | .iminReg _ | .imaxReg _ => some (binForm false 1)
  | .imulhImm _ | .iminImm _ | .imaxImm _ => some (binForm true 1)
  | .imad _ => some (triForm 0)
  | .imadw o =>
    some (triForm 1 (viol (o.d.toNat % 2 == 1) 0x0F
        ++ viol (o.c.toNat != 0xF3 && (o.c.toNat % 2 == 1 || o.c.toNat ≥ 0xF0)) 0x0F)
      [(o.d.toNat, o.sd, 2), (o.c.toNat, o.sc, 2)])
  | .iabs _ => some (unForm 2)
  | .itestReg o => some (itestForm false o)
  | .itestImm o => some (itestForm true o)
  | .selReg _ => some (binForm false 0xF)
  | .selImm _ => some (binForm true 0xF)
  | .blutReg _ _ => some (triForm 0x1F)
  | .blutImm _ _ => some (binForm true 0x1F)
  | .shlReg _ => some (binForm false 0)
  | .shlImm _ => some (binForm true 0)
  | .shrReg _ => some (binForm false 1)
  | .shrImm _ => some (binForm true 1)
  | .shf _ => some (triForm 1)
  | .popc _ | .clz _ | .brev _ | .mov _ => some (unForm 0)
  | .bfeReg _ => some (triForm 1)
  | .bfeImm _ => some (binForm true 1)
  | .bfi _ => some (triForm 0)
  | .leaReg _ => some (binForm false 0x1F)
  | .leaImm _ => some (binForm true 0x1F)
  | .movP2v o => some { d := .dst, own := viol o.sd 0x05 }
  | .movV2p o => some { imm := true, a := .src, imms := 0x7F, own := viol o.sd 0x05 }
  | .movLaneReg o => some { d := .dst, a := .red, b := .src, own := needS o.sd true ++ needS o.sa false }
  | .movLaneImm o => some { imm := true, d := .dst, a := .red, own := needS o.sd true ++ needS o.sa false }
  | .movUnif o => some { d := .dst, a := .red, own := needS o.sd true ++ needS o.sa false }
  | .plop _ _ => some { d := .pred, a := .pred, b := .pred, c := .pred, mods := 0x1F }
  | .faddReg _ | .fmulReg _ => some (binForm false fpMods)
  | .faddImm _ | .fmulImm _ => some (binForm true fpMods)
  | .ffma _ => some (triForm fpMods)
  | .fminReg _ | .fmaxReg _ => some (binForm false 0x14)
  | .fminImm _ | .fmaxImm _ => some (binForm true 0x14)
  | .fsetpReg _ _ => some { d := .pred, a := .src, b := .src, mods := 4 }
  | .fsetpImm _ _ => some { imm := true, d := .pred, a := .src, mods := 4 }
  | .fsfun fn o => some (unForm 7 (viol (o.mod.toNat % 4 != 0 && !(fn == .rcp || fn == .sqrt)) 0x05))
  | .hadd2Reg _ | .hmul2Reg _ => some (binForm false 0x1F)
  | .hadd2Imm _ | .hmul2Imm _ => some (binForm true 0x1F)
  | .hfma2 _ | .fdot2 _ => some (triForm 0x1F)
  | .fclass _ => some (unForm 0)
  | .cvt o =>
    some { imm := true, d := .dst, a := .src, mods := fpMods, imms := 0x3FFF
           own := viol (bits o.imm16 10 8 ≥ fmtCount (bits o.imm16 3 0)) 0x05
             ++ viol (bits o.imm16 13 11 ≥ fmtCount (bits o.imm16 7 4)) 0x05 }
  | .pack f o =>
    some { d := .dst, a := .src, b := .src, c := if f.toNat ≤ 1 then .no else .src, mods := 0x3F
           own := viol (2 * (o.mod.toNat / 16) ≥ packCount f.toNat) 0x05
             ++ viol ((f.toNat = 5 || f.toNat = 6) && o.mod.toNat % 16 != 0) 0x05 }
  | .unpack f o =>
    some { imm := true, d := .dst, a := .src, mods := 4, imms := 7
           own := viol (o.imm16.toNat % 8 ≥ packCount f.toNat) 0x05 ++ viol (f.toNat > 1 && o.mod.getLsbD 2) 0x05 }
  | .rxcvtEnc o =>
    some (unForm 1 (if o.mod.getLsbD 0 then [] else viol (o.d.toNat % 4 != 0 || o.sd) 0x0F)
      (if o.mod.getLsbD 0 then [] else [(o.d.toNat, o.sd, 4)]))
  | .rxcvtDec _ => some (unForm 0)
  | .lxchgReg _ o =>
    some (binForm false 7 (viol (o.mod.toNat % 8 ≥ 6) 0x05 ++ viol o.sd 0x0F))
  | .lxchgImm _ o =>
    some { imm := true, d := .dst, a := .src, mods := 7, imms := 0x1F
           own := viol (o.mod.toNat % 8 ≥ 6) 0x05 ++ viol o.sd 0x0F }
  | .vote _ _ => some { d := .pred, a := .pred, mods := 1 }
  | .ballot o => some { d := .dst, a := .pred, mods := 1, own := needS o.sd true }
  | .matchAny o => some { d := .dst, a := .src, own := viol o.sd 0x0F }
  | .matchAll _ => some { d := .dst, a := .red, c := .pred }
  | .redux op _ =>
    some { d := .dst, a := .red
           mods := match op with | .min | .max => 1 | .fadd | .fmin | .fmax => 4 | _ => 0 }
  | .xpair o =>
    some { d := .dst, a := .src, b := .src, own := needS o.sd true ++ needS o.sa true ++ needS o.sb true }
  | .xshfl o => some { d := .dst, a := .src, c := .pred, own := viol (o.sd || o.sa) 0x0F }
  | .ldReg o => some (loadForm o false false)
  | .ldImm o => some (loadForm o true false)
  | .ldPrivReg o => some (loadForm o false true)
  | .ldPrivImm o => some (loadForm o true true)
  | .stReg o => some (storeForm o false false)
  | .stImm o => some (storeForm o true false)
  | .stPrivReg o => some (storeForm o false true)
  | .stPrivImm o => some (storeForm o true true)
  | .ldsReg o | .ldcReg o => some (localForm o false false)
  | .ldsImm o | .ldcImm o => some (localForm o true false)
  | .stsReg o => some (localForm o false true)
  | .stsImm o => some (localForm o true true)
  | .lda o =>
    some { a := .src, b := .src, c := .src, mods := 0x3F, runs := a64Run o o.b o.sb
           own := viol (o.mod.toNat % 8 ≥ 3) 0x05 ++ hintViol o o.b ++ needS o.sc true }
  | .prefReg o => some { a := .src, b := .src, mods := 0x38, runs := a64Run o o.a o.sa, own := hintViol o o.a }
  | .prefImm o => some { imm := true, a := .src, mods := 0x38, runs := a64Run o o.a o.sa, own := hintViol o o.a }
  | .copy o =>
    some { d := .dst, a := .src, b := .src, c := .src, mods := 3
           own := viol (o.mod.toNat % 4 = 3) 0x05 ++ needS o.sd true ++ needS o.sa true ++ needS o.sb true
             ++ needS o.sc true ++ viol (o.a.toNat % 2 == 1 || o.b.toNat % 2 == 1 || o.c.toNat % 2 == 1) 0x0F }
  | .gath o => some { a := .src, own := needS o.sa true }
  | .arrinit o | .arrive o =>
    some { imm := true, a := .src, own := needS o.sa true ++ viol (o.imm16.toNat = 0) 0x0F }
  | .arrwait o => some { imm := true, a := .src, imms := 1, own := needS o.sa true }
  | .arrwaitTest o => some { imm := true, d := .pred, a := .src, imms := 1, own := needS o.sa true }
  | .publish o => some { a := .src, counted := true, own := needS o.sa true }
  | .cctlWb o | .cctlWbinv o =>
    some { a := .src, b := .src, counted := true, own := needS o.sa true ++ needS o.sb true }
  | .cctlConst _ | .tlbhHarv _ => some { counted := true }
  | .tlbhInv o => some { a := .src, counted := true, own := needS o.sa true }
  | .atom op o => some (atomForm o 0x3F false true true (atomOpViol op o))
  | .acas o => some (atomForm o 0x1F true true true [])
  | .atoms op o => some (atomForm o 0x30 (op == .cas) false false (atomOpViol op o))
  | .fence _ o => some { mods := 7, own := scopeViol o }
  | .waita _ o =>
    some { d := .dst, a := .src, b := .src, c := .src
           own := needS o.sd true ++ needS o.sa true ++ needS o.sb true ++ needS o.sc true
             ++ viol (o.a.toNat % 2 == 1) 0x0F }
  | .qinit o => some { a := .src, b := .src, mods := 0xF, own := needS o.sa true ++ needS o.sb true }
  | .qinitGrant o | .qpush o => some { a := .src, mods := 0xF, own := needS o.sa true }
  | .qpop o => some { d := .dst, mods := 0xF, own := needS o.sd true }
  | .qtryPop o => some { d := .dst, c := .pred, mods := 0xF, own := needS o.sd true }
  | .qtryPush o => some { a := .src, c := .pred, mods := 0xF, own := needS o.sa true }
  | .circCast o =>
    some { d := .dst, a := .src, own := needS o.sd true ++ needS o.sa true ++ octetViol o.a }
  | .circBind o | .circCap o | .circPeek o =>
    some { d := .dst, a := .src, own := needS o.sd true ++ needS o.sa true ++ octetViol o.d }
  | .circWr o =>
    some { a := .src, b := .src, c := .pred, mods := 1, own := needS o.sa true ++ needS o.sb true ++ octetViol o.b }
  | .circRel o => some { a := .src, c := .pred, own := needS o.sa true }
  | .circTurn _ => some {}
  | .setshapeReg o =>
    some { d := .dst, a := .src, mods := 0x3F, holds := 0
           own := viol (o.mod.toNat % 8 ≥ 6) 0x05 ++ needS o.sd true ++ needS o.sa true }
  | .setshapeImm o =>
    some { imm := true, d := .dst, mods := 0x3F, imms := 0x3FF, holds := 0
           own := viol (o.mod.toNat % 8 ≥ 6) 0x05 ++ needS o.sd true }
  | .setshapeTail o => some { a := .src, mods := 0x38, holds := 0, own := needS o.sa true }
  | .getshape _ o => some { d := .dst, mods := 0x38, holds := 0, own := needS o.sd true }
  | .mma o | .mmas o => some (mmaForm o)
  | .accz _ => some { imm := true, d := .num, holds := 0 }
  | .accld o | .accldDec o =>
    some { imm := true, d := .dst, mods := 7, counted := true, holds := 0
           runs := [(o.d.toNat, o.sd, o.mod.toNat % 8 + 1)], own := viol o.sd 0x0F }
  | .accldTscale o =>
    some { d := .dst, a := .src, b := .src, c := .src, mods := 7, counted := true, holds := 0
           runs := [(o.d.toNat, o.sd, o.mod.toNat % 8 + 1)]
           own := viol o.sd 0x0F ++ needS o.sa true ++ needS o.sb true ++ needS o.sc true }
  | .accst o =>
    some { imm := true, a := .src, mods := 7, holds := 0, tagRun := some (o.a, o.sa, o.mod.toNat % 8 + 1) }
  | .accstSp o => some { imm := true, a := .src, mods := 7, counted := true, holds := 0, own := needS o.sa true }
  | .fragld p o =>
    some { d := .dst, a := .src, b := .src, counted := true, reuse := true, holds := 0
           mods := match p with | .scA | .scB => 0x39 | _ => 0x38
           own := viol o.sd 0x0F ++ needS o.sa true ++ needS o.sb true }
  | .pldReg _ o => some (pldForm o false)
  | .pldImm _ o => some (pldForm o true)
  | .pmat o => some (unForm 0 (viol (o.sd || o.sa) 0x0F))
  | .pmatS o => some { a := .src, b := .src, counted := true, own := viol o.sb 0x0F ++ viol o.sd 0x0F }
  | .pfree o => some { a := .src, own := viol (o.sd || o.sa) 0x0F }
  | .pfreeP o => some { a := .pred, own := viol o.sd 0x0F }
  | .pdot o => some (triForm 0xB (viol (o.sd || o.sa || o.sb) 0x0F))
  | .pred op o => some (unForm (match op with | .min | .max => 1 | _ => 0) (viol (o.sd || o.sa) 0x0F))
  | .pqry o => some (unForm 0 (viol (o.sd || o.sa) 0x0F))
  | .pqryP o => some { d := .dst, a := .pred, own := viol o.sd 0x0F }
  | .nlaunch o =>
    some { d := .dst, a := .src, counted := true
           own := needS o.sd true ++ needS o.sa true ++ viol (o.a.toNat % 2 == 1) 0x0F }
  | .nresume o =>
    some { d := .dst, a := .src, b := .src, counted := true, mods := 3
           own := viol (o.mod.toNat % 4 = 3) 0x05 ++ needS o.sd true ++ needS o.sa true ++ needS o.sb true }
  | .nstat o =>
    some { d := .dst, a := .src, b := .src, counted := true
           own := needS o.sd true ++ needS o.sa true ++ needS o.sb true }
  | .csrr o | .engErrRead o =>
    some { imm := true, d := .dst, imms := 0xFFF
           own := needS o.sd true ++ viol (!csrListed (bits o.imm16 11 0)) 0x0F }
  | .csrw o | .pxLostClear o =>
    some { imm := true, a := .src, imms := 0xFFF
           own := needS o.sa true ++ viol (!csrWritable (bits o.imm16 11 0)) 0x0F }
  | .tret _ | .tretSkip _ => some {}
  | _ => none

/-- The detail raised when a control transfer or PHASE is not the last word of its clause (R31, R102); 0 when the
instruction may stand anywhere. -/
def lastDetail : Instr → Nat
  | .bra _ | .brx _ | .call _ | .ret _ | .exit _ | .tret _ | .tretSkip _ => 0x0D
  | .phase _ => 0x0F
  | _ => 0

/-- Details of one specifier (R18, R20, R28): `dst` for a destination. -/
def specDetails (v : Nat) (s dst : Bool) (cx : DecodeCtx) : List Nat :=
  if s then viol (v ≥ 0x70 || (dst && v ≥ 0x60)) 0x02
  else if v ≥ 0xF6 || (dst && v ≥ 0xF0 && v != 0xF3) then [0x02]
  else if v ≥ 0xF0 then viol (v ≤ 0xF2 && (nth none cx.latches (v - 0xF0)).isNone) 0x09
  else viol (v ≥ 8 * cx.blocks && !(cx.handler && 232 ≤ v && v ≤ 239)) 0x03

/-- Details of a field by its use (R17, R18, R20, and the predicate fields of the class chapters). -/
def useDetails (u : Use) (v : BitVec 8) (s : Bool) (cx : DecodeCtx) : List Nat :=
  match u with
  | .no => viol (v != 0#8 || s) 0x05
  | .dst => specDetails v.toNat s true cx
  | .src | .red => specDetails v.toNat s false cx
  | .pred => viol (v.toNat > 7) 0x02 ++ viol s 0x05
  | .num => viol s 0x05

/-- Detail 0x04: a source that R21 does not allow beside a scalar destination. -/
def scalarDetails (f : Form) (u : Use) (v : BitVec 8) (s : Bool) (sd : Bool) (cx : DecodeCtx) : List Nat :=
  viol (f.d == .dst && sd && u == .src && !s && v.toNat != 0xF3
    && !(0xF0 ≤ v.toNat && v.toNat ≤ 0xF2 && (nth none cx.latches (v.toNat - 0xF0)).map (·.2) == some true)) 0x04

/-- Details of the registers a form implies beyond its fields: 0x03 for one past the allocation (R117, R132, R167, R205,
R245, R273), and for a latch, LANE or WARPID those of the specifiers that follow it, each read as itself (R42, R169; log
entry 69). ZERO names no register, so none follows it: as a destination it discards every word (R20). -/
def runDetails (cx : DecodeCtx) : List (Nat × Bool × Nat) → List Nat
  | [] => []
  | (v, s, n) :: rest =>
    (if !s && v = 0xF3 then []
     else if !s && v ≥ 0xF0 then (List.range (n - 1)).flatMap fun i => specDetails (v + 1 + i) false false cx
     else viol (!s && n > 1 && v + n - 1 ≥ 8 * cx.blocks && !(cx.handler && 232 ≤ v && v + n - 1 ≤ 239)) 0x03)
      ++ runDetails cx rest

/-- The register that a latch's tag names, or the specifier itself. -/
def DecodeCtx.follow (cx : DecodeCtx) (v : BitVec 8) (s : Bool) : BitVec 8 × Bool :=
  if !s && decide (0xF0 ≤ v.toNat) && decide (v.toNat ≤ 0xF2) then (nth none cx.latches (v.toNat - 0xF0)).getD (0xF3#8, false)
  else (v, s)

/-- The registers of a run that starts at the register a latch names (R245). -/
def Form.tagRuns (f : Form) (cx : DecodeCtx) : List (Nat × Bool × Nat) :=
  match f.tagRun with
  | some (v, s, n) =>
    let r := cx.follow v s
    if r.1.toNat < 0xF0 then [(r.1.toNat, r.2, n)] else []
  | none => []

/-- Details of HOLD and HSLOT (R28, R245). An operand that HOLD may name is a register source: a predicate or a number that
the instruction uses is none and raises 0x08 too (DEDUCED, log entry 70). -/
def holdDetails (f : Form) (o : Opnds) : List Nat :=
  let named (u : Use) (v : BitVec 8) (s : Bool) : Bool := (u == .src || u == .red) && (s || v.toNat < 0xF0)
  let ok := match o.hold.toNat with
    | 0 => o.hslot == 0#2
    | 1 => named f.a o.a o.sa && f.holds.testBit 0
    | 2 => named f.b o.b o.sb && f.holds.testBit 1
    | _ => named f.c o.c o.sc && f.holds.testBit 2
  viol (o.hslot == 3#2 || !ok) 0x08

/-- Details of an operand-layout word (R17, R18, R20, R21, R28, R33 and its class chapter). -/
def operandDetails (f : Form) (o : Opnds) (cx : DecodeCtx) : List Nat :=
  useDetails f.d o.d o.sd cx
    ++ useDetails f.a o.a o.sa cx
    ++ (if f.imm then viol (o.sb || o.sc) 0x05 ++ viol (o.imm16.toNat &&& (0xFFFF ^^^ f.imms) != 0) 0x05
        else useDetails f.b o.b o.sb cx ++ useDetails f.c o.c o.sc cx)
    ++ scalarDetails f f.a o.a o.sa o.sd cx
    ++ (if f.imm then [] else scalarDetails f f.b o.b o.sb o.sd cx ++ scalarDetails f f.c o.c o.sc o.sd cx)
    ++ viol (o.mod.toNat &&& (0x3F ^^^ f.mods) != 0) 0x05
    ++ viol (o.ru && !f.reuse) 0x05
    ++ viol (o.fs && !f.counted) 0x05
    ++ viol (f.counted && !(if o.fs then cx.flag2 else cx.flag1)) 0x0C
    ++ holdDetails f o ++ runDetails cx (f.runs ++ f.tagRuns cx) ++ f.own

/-- MOD bits a pair half assigns (R25, R113, R131). -/
def PairOp.mods : PairOp → Nat
  | .iadd | .isub | .iaddImm | .isubImm => 3
  | .imin | .imax | .iminImm | .imaxImm | .shr | .shrImm => 1
  | .fadd | .fmul | .hadd2 | .hmul2 => 0xF
  | .fmin | .fmax => 4
  | .mov | .imul | .and | .or | .xor | .shl | .movi8 | .imulImm | .andImm | .orImm | .xorImm | .shlImm => 0

/-- The pair operations whose A field is IMM8: bit 5 of OP6 (R25). -/
def PairOp.isImm (p : PairOp) : Bool := p.code.getLsbD 5

/-- Details of one half (R17, R25, R26). -/
def halfDetails (p : PairOp) (h : HalfOpnds) (cx : DecodeCtx) : List Nat :=
  viol (h.mod.toNat &&& (0xF ^^^ p.mods) != 0) 0x05
    ++ (if h.d.toNat ≥ 0xF0 then [0x07] else specDetails h.d.toNat false true cx)
    ++ (if p.isImm then viol h.sa 0x05 else specDetails h.a.toNat h.sa false cx)

/-- The vector registers a half reads, D included (R27). -/
def halfRegs (p : PairOp) (h : HalfOpnds) : List Nat :=
  (if h.d.toNat < 0xF0 then [h.d.toNat] else [])
    ++ (if !p.isImm && !h.sa && h.a.toNat < 0xF0 then [h.a.toNat] else [])

/-- Two of the numbers agree modulo 4 (R27). -/
def bankClash : List Nat → Bool
  | [] => false
  | r :: rs => rs.any (fun q => q % 4 == r % 4) || bankClash rs

/-- Details of a pair word (R26, R27). -/
def pairDetails (p : PairOp) (x : HalfOpnds) (y : PairHalf) (cx : DecodeCtx) : List Nat :=
  halfDetails p x cx ++ halfDetails y.op y.o cx ++ viol (x.d == y.o.d) 0x07
    ++ viol (bankClash (halfRegs p x ++ halfRegs y.op y.o)) 0x06

/-- Details of a clause header (R17, R30). -/
def headerDetails (h : Header) : List Nat :=
  viol (h.rsv != 0#28) 0x05
    ++ viol (h.len == 0#6 || (h.s1v && h.s1.toNat ≥ 12) || (h.s2v && h.s2.toNat ≥ 12) || (!h.s1v && h.s1 != 0#4)
        || (!h.s2v && h.s2 != 0#4) || (h.s1v && h.s2v && h.s1 == h.s2)) 0x0A

/-- Every ILLEGAL detail that applies to a decoded word at its place (R40); an event has none. -/
def details (i : Instr) (cx : DecodeCtx) : List Nat :=
  match i with
  | .clauseStart h => headerDetails h
  | .bra t => viol (t.rsv != 0#16) 0x05 ++ viol (!cx.last) 0x0D
  | .call t => viol (t.rsv != 0#16) 0x05 ++ viol (t.rj != 0#12) 0x0F ++ viol (!cx.last) 0x0D
  | .movi o =>
    specDetails o.d.toNat o.sd true cx ++ viol (o.rsvHi != 0#4 || o.rsvLo != 0#11) 0x05
  | i =>
    viol (lastDetail i != 0 && !cx.last) (lastDetail i)
      ++ match form i, operandCode i, pairHalves i with
        | some f, some (_, _, o), _ => operandDetails f o cx
        | _, _, some (p, x, y) => pairDetails p x y cx
        | _, _, _ => []

/-- The smallest number of a list. -/
def least : List Nat → Option Nat
  | [] => none
  | d :: ds => match least ds with | none => some d | some e => some (min d e)

/-- The ILLEGAL detail the core reports for a decoded word: the lowest that applies (R39, R40). -/
def illegalDetail (i : Instr) (cx : DecodeCtx) : Option Nat := least (details i cx)

end Sys2Proof
end

