-- ==== Sys2Proof/Machine/Formats.lean ====
section
/-!
DEFINITION. Number formats and exact arithmetic (R43 to R59): what an encoding stands for, rounding, flushing,
saturation, integer conversions, RX24 residues, and the fixed order of dot products.
-/
namespace Sys2Proof.Machine
open Sys2Proof

/-! ### Formats (R43 to R45) -/

/-- How the top of an exponent range is used (R43). -/
inductive Specials
  /-- Exponent all ones: infinity with mantissa 0, NaN otherwise. -/
  | ieee
  /-- E4M3: only S.1111.111 is NaN, and there is no infinity. -/
  | oneNan
  /-- E2M1: no special encodings. -/
  | none
deriving DecidableEq, Repr

/-- A floating-point format: exponent and mantissa widths, bias, and special encodings (R43). -/
structure FloatFmt where
  eb : Nat
  mb : Nat
  bias : Int
  sp : Specials
deriving DecidableEq, Repr

def FloatFmt.fp32 : FloatFmt := { eb := 8, mb := 23, bias := 127, sp := .ieee }
def FloatFmt.fp16 : FloatFmt := { eb := 5, mb := 10, bias := 15, sp := .ieee }
def FloatFmt.bf16 : FloatFmt := { eb := 8, mb := 7, bias := 127, sp := .ieee }
def FloatFmt.e4m3 : FloatFmt := { eb := 4, mb := 3, bias := 7, sp := .oneNan }
def FloatFmt.e5m2 : FloatFmt := { eb := 5, mb := 2, bias := 15, sp := .ieee }
def FloatFmt.e2m1 : FloatFmt := { eb := 2, mb := 1, bias := 1, sp := .none }

/-- The width of an encoding. -/
def FloatFmt.width (f : FloatFmt) : Nat := 1 + f.eb + f.mb

/-- An exact value: NaN, a signed infinity, or (−1)^neg × m × 2^e, with signed zero (R44, R56). -/
inductive FVal
  | nan
  | inf (neg : Bool)
  | fin (neg : Bool) (m : Nat) (e : Int)
deriving DecidableEq, Repr

/-- The helper val of R56 for a floating-point format (R44). -/
def FloatFmt.val (f : FloatFmt) (x : Nat) : FVal :=
  let s := x.testBit (f.eb + f.mb)
  let e := x / 2 ^ f.mb % 2 ^ f.eb
  let m := x % 2 ^ f.mb
  let top := e == 2 ^ f.eb - 1
  let finite : FVal :=
    if e = 0 then .fin s m (1 - f.bias - f.mb) else .fin s (m + 2 ^ f.mb) ((e : Int) - f.bias - f.mb)
  match f.sp with
  | .ieee => if top then (if m = 0 then .inf s else .nan) else finite
  | .oneNan => if top && m == 2 ^ f.mb - 1 then .nan else finite
  | .none => finite

/-- FTZ on a source: a subnormal encoding reads as the zero of its sign (R53). -/
def FloatFmt.flush (f : FloatFmt) (x : Nat) : Nat :=
  if x / 2 ^ f.mb % 2 ^ f.eb = 0 then (if x.testBit (f.eb + f.mb) then 2 ^ (f.eb + f.mb) else 0) else x

/-- The value of a source with its flush (R53). -/
def FloatFmt.read (f : FloatFmt) (ftz : Bool) (x : Nat) : FVal := f.val (if ftz then f.flush x else x)

/-- The canonical NaN of a format (R54); a NaN in E2M1 is +0. -/
def FloatFmt.canonNan (f : FloatFmt) : Nat :=
  match f.sp with
  | .ieee => (2 ^ f.eb - 1) * 2 ^ f.mb + 2 ^ (f.mb - 1)
  | .oneNan => 2 ^ (f.eb + f.mb) - 1
  | .none => 0

/-- The largest finite encoding of a format, without sign (R43). -/
def FloatFmt.maxFinite (f : FloatFmt) : Nat :=
  match f.sp with
  | .ieee => (2 ^ f.eb - 1) * 2 ^ f.mb - 1
  | .oneNan => 2 ^ (f.eb + f.mb) - 2
  | .none => 2 ^ (f.eb + f.mb) - 1

/-- The four rounding modes, by their codes (R51). -/
inductive Rnd | rne | rtz | rdn | rup
deriving DecidableEq, Repr

/-- The mode of a RND field (R51). -/
def Rnd.ofBits (n : Nat) : Rnd := match n % 4 with | 0 => .rne | 1 => .rtz | 2 => .rdn | _ => .rup

/-- The direction rounds a result of this sign away from zero (R52). -/
def Rnd.away (r : Rnd) (neg : Bool) : Bool := match r with | .rdn => neg | .rup => !neg | _ => false

/-- Bits of a number: 0 for 0. -/
def bitLen (n : Nat) : Nat := if n = 0 then 0 else n.log2 + 1

/-- A magnitude m × 2^e as a multiple of 2^q, rounded (R52). -/
def roundTo (r : Rnd) (neg : Bool) (m : Nat) (e q : Int) : Nat :=
  if q ≤ e then m * 2 ^ (e - q).toNat
  else
    let sh := (q - e).toNat
    let k := m / 2 ^ sh
    let rem := m % 2 ^ sh
    if rem = 0 then k
    else
      match r with
      | .rne => if 2 * rem > 2 ^ sh || (2 * rem == 2 ^ sh && k % 2 == 1) then k + 1 else k
      | _ => if r.away neg then k + 1 else k

/-- What a magnitude beyond the largest finite value encodes as (R52). -/
def FloatFmt.overflow (f : FloatFmt) (r : Rnd) (neg sat : Bool) : Nat :=
  let s := if neg then 2 ^ (f.eb + f.mb) else 0
  let toInf := !sat && (r == .rne || r.away neg)
  match f.sp with
  | .ieee => if toInf then s + (2 ^ f.eb - 1) * 2 ^ f.mb else s + f.maxFinite
  | .oneNan => if toInf then s + f.canonNan else s + f.maxFinite
  | .none => s + f.maxFinite

/-- What an infinite result encodes as (R52): an infinity of the format, or what it has in place of one. -/
def FloatFmt.infinite (f : FloatFmt) (neg sat : Bool) : Nat := f.overflow .rne neg sat

/-- FTZ applies to FP32, FP16 and BF16 (R53). -/
def FloatFmt.flushable (f : FloatFmt) : Bool := f == .fp32 || f == .fp16 || f == .bf16

/-- The helper enc of R56: an exact value rounded once (R52), flushed (R53) and saturated. Tininess after rounding is read of
the value rounded on the destination's own grid (DEDUCED, log entry 76). -/
def FloatFmt.enc (f : FloatFmt) (v : FVal) (r : Rnd) (ftz sat : Bool) : Nat :=
  match v with
  | .nan => f.canonNan
  | .inf neg => f.infinite neg sat
  | .fin neg m e =>
    let s := if neg then 2 ^ (f.eb + f.mb) else 0
    if m = 0 then s
    else
      let low : Int := 1 - f.bias - f.mb
      let q : Int := max (e + bitLen m - 1 - f.mb) low
      let k := roundTo r neg m e q
      let x := (q - low).toNat * 2 ^ f.mb + k
      if x > f.maxFinite then f.overflow r neg sat
      else if ftz && f.flushable && x < 2 ^ f.mb then s
      else s + x

/-! ### Exact operations (R54) -/

/-- The negative of a value. -/
def FVal.neg : FVal → FVal
  | .nan => .nan
  | .inf s => .inf (!s)
  | .fin s m e => .fin (!s) m e

/-- A signed multiple of 2^e. -/
def FVal.ofInt (zeroNeg : Bool) (v e : Int) : FVal := if v = 0 then .fin zeroNeg 0 0 else .fin (decide (v < 0)) v.natAbs e

/-- Sum of two exact values; an exact zero sum of opposite signs is +0, or −0 under RDN (R54). -/
def FVal.add (rdn : Bool) : FVal → FVal → FVal
  | .nan, _ => .nan
  | _, .nan => .nan
  | .inf s, .inf t => if s = t then .inf s else .nan
  | .inf s, .fin _ _ _ => .inf s
  | .fin _ _ _, .inf t => .inf t
  | .fin s m e, .fin t n f =>
    let x := min e f
    let a : Int := (m * 2 ^ (e - x).toNat : Nat)
    let b : Int := (n * 2 ^ (f - x).toNat : Nat)
    let zero := if m = 0 ∧ n = 0 ∧ s = t then s else rdn
    FVal.ofInt zero ((if s then -a else a) + (if t then -b else b)) x

/-- Product of two exact values (R54). -/
def FVal.mul : FVal → FVal → FVal
  | .nan, _ => .nan
  | _, .nan => .nan
  | .inf s, .inf t => .inf (s != t)
  | .inf s, .fin t n _ => if n = 0 then .nan else .inf (s != t)
  | .fin s m _, .inf t => if m = 0 then .nan else .inf (s != t)
  | .fin s m e, .fin t n f => .fin (s != t) (m * n) (e + f)

/-- The order of two values that are not NaN, by their exact magnitudes; zeros are equal. -/
def FVal.lt : FVal → FVal → Bool
  | .nan, _ => false
  | _, .nan => false
  | .inf s, .inf t => s && !t
  | .inf s, .fin _ _ _ => s
  | .fin _ _ _, .inf t => !t
  | .fin s m e, .fin t n f =>
    let x := min e f
    let a : Int := (m * 2 ^ (e - x).toNat : Nat)
    let b : Int := (n * 2 ^ (f - x).toNat : Nat)
    decide ((if s then -a else a) < (if t then -b else b))

/-- A value is NaN. -/
def FVal.isNan : FVal → Bool | .nan => true | _ => false

/-! ### Words -/

/-- A 32-bit word of a number. -/
def w32 (n : Nat) : Word := BitVec.ofNat 32 n

/-- RN of R56: to FP32, nearest even. -/
def rn (v : FVal) : FVal := FloatFmt.fp32.val (FloatFmt.fp32.enc v .rne false false)

/-- FADD on exact values under a mode (R134). -/
def fAdd (f : FloatFmt) (m : BitVec 6) (a b : Nat) : Nat :=
  let r := Rnd.ofBits m.toNat
  f.enc ((f.read (m.getLsbD 2) a).add (r == .rdn) (f.read (m.getLsbD 2) b)) r (m.getLsbD 2) (m.getLsbD 3)

/-- FMUL (R134). -/
def fMul (f : FloatFmt) (m : BitVec 6) (a b : Nat) : Nat :=
  f.enc ((f.read (m.getLsbD 2) a).mul (f.read (m.getLsbD 2) b)) (Rnd.ofBits m.toNat) (m.getLsbD 2) (m.getLsbD 3)

/-- FFMA: one rounding (R134). -/
def fFma (f : FloatFmt) (m : BitVec 6) (a b c : Nat) : Nat :=
  let r := Rnd.ofBits m.toNat
  let z := m.getLsbD 2
  f.enc (((f.read z a).mul (f.read z b)).add (r == .rdn) (f.read z c)) r z (m.getLsbD 3)

/-- FMIN and FMAX: one of the sources unchanged, or the canonical NaN; −0 orders below +0 (R135). -/
def fMinMax (max : Bool) (ftz nan : Bool) (a b : Nat) : Nat :=
  let f := FloatFmt.fp32
  let a := if ftz then f.flush a else a
  let b := if ftz then f.flush b else b
  let va := f.val a
  let vb := f.val b
  if va.isNan || vb.isNan then
    if nan || (va.isNan && vb.isNan) then f.canonNan else if va.isNan then b else a
  else
    let below := va.lt vb || (!vb.lt va && a.testBit 31 && !b.testBit 31)
    if below != max then a else b

/-- FSETP (R136). -/
def fSetp (cmp : BitVec 3) (ftz : Bool) (a b : Nat) : Bool :=
  let va := FloatFmt.fp32.read ftz a
  let vb := FloatFmt.fp32.read ftz b
  let un := va.isNan || vb.isNan
  match cmp.toNat with
  | 0 => !un && !va.lt vb && !vb.lt va
  | 1 => un || va.lt vb || vb.lt va
  | 2 => va.lt vb
  | 3 => !un && !vb.lt va
  | 4 => vb.lt va
  | 5 => !un && !va.lt vb
  | 6 => !un
  | _ => un

/-- FCLASS: a one-hot mask (R137). -/
def fClass (a : Nat) : Nat :=
  match FloatFmt.fp32.val a with
  | .nan => 256
  | .inf s => if s then 1 else 128
  | .fin s m _ =>
    if m = 0 then (if s then 8 else 16)
    else if m < 2 ^ 23 then (if s then 4 else 32)
    else (if s then 2 else 64)

/-! ### Dot products (R57) -/

/-- The even and odd chains over the terms from the k-th on. -/
def dotChains (even : Bool) (e o : FVal) : List (FVal × FVal) → FVal × FVal
  | [] => (e, o)
  | (a, b) :: t =>
    let p := a.mul b
    if even then dotChains false (rn (e.add false p)) o t else dotChains true e (rn (o.add false p)) t

/-- The helper dot of R57, before the accumulator's rounding: RN(E + O). -/
def dotSum (terms : List (FVal × FVal)) : FVal :=
  let z := FVal.fin false 0 0
  let (e, o) := dotChains true z z terms
  rn (e.add false o)

/-- The helper dot of R57. -/
def dot (f : FloatFmt) (acc : FVal) (terms : List (FVal × FVal)) (r : Rnd) (ftz sat : Bool) : Nat :=
  f.enc (acc.add (r == .rdn) (dotSum terms)) r ftz sat

/-! ### Elements and conversions (R46, R141 to R144) -/

/-- The formats CVT names (R141). -/
inductive Fmt
  | flt (f : FloatFmt)
  | e8m0
  | int (signed : Bool) (width : Nat)
deriving DecidableEq, Repr

/-- The format of a code of R141; reserved codes do not decode. -/
def Fmt.ofCode (c : Nat) : Fmt :=
  match c with
  | 0 => .flt .fp32 | 1 => .flt .fp16 | 2 => .flt .bf16 | 3 => .flt .e4m3 | 4 => .flt .e5m2 | 5 => .flt .e2m1
  | 6 => .e8m0 | 8 => .int true 32 | 9 => .int false 32 | 10 => .int true 16 | 11 => .int false 16
  | 12 => .int true 8 | _ => .int false 8

/-- The width of an element. -/
def Fmt.width : Fmt → Nat
  | .flt f => f.width
  | .e8m0 => 8
  | .int _ w => w

/-- Element i of a word (R46). -/
def elem (w : Nat) (x : Word) (i : Nat) : Nat := x.toNat / 2 ^ (w * i) % 2 ^ w

/-- The value of an E8M0 code (R45). -/
def e8m0Val (c : Nat) : FVal := if c = 0xFF then .nan else .fin false 1 ((c : Int) - 127)

/-- The value of an integer. -/
def FVal.int (v : Int) : FVal := FVal.ofInt false v 0

/-- An integer element's value. -/
def intVal (signed : Bool) (w x : Nat) : Int := if signed then sextInt x w else (x % 2 ^ w : Nat)

/-- A value as an integer, rounded (R55): NaN gives 0, and an infinity stands beyond every range. -/
def FVal.toInt (v : FVal) (r : Rnd) (lo hi : Int) : Int :=
  match v with
  | .nan => 0
  | .inf s => if s then lo else hi
  | .fin s m e =>
    let k : Int := roundTo r s m e 0
    let x := if s then -k else k
    if x < lo then lo else if hi < x then hi else x

/-- Least and greatest values of an integer format. -/
def intRange (signed : Bool) (w : Nat) : Int × Int :=
  if signed then (-(2 ^ (w - 1) : Nat), (2 ^ (w - 1) : Nat) - 1) else (0, (2 ^ w : Nat) - 1)

/-- An integer in a range. -/
def clampInt (v lo hi : Int) : Int := if v < lo then lo else if hi < v then hi else v

/-- The low bits of an integer. -/
def intBits (w : Nat) (v : Int) : Nat := (v % (2 ^ w : Nat)).toNat

/-- A conversion to E8M0 (R55). -/
def toE8m0 (v : FVal) (r : Rnd) (sat : Bool) : Nat :=
  match v with
  | .nan => 0xFF
  | .inf s => if s then 0xFF else if sat then 0xFE else 0xFF
  | .fin s m e =>
    if m = 0 || s then 0xFF
    else
      let top : Int := e + bitLen m - 1
      let exact := m == 2 ^ (bitLen m - 1)
      let up := match r with
        | .rne =>
          let twice := 2 * m
          let mid := 3 * 2 ^ (bitLen m - 1)
          decide (mid < twice) || (twice == mid && (top + 127) % 2 == 1)
        | .rup => !exact
        | _ => false
      let c : Int := (if up then top + 1 else top) + 127
      if c < 0 then 0 else if c > 254 then (if sat then 0xFE else 0xFF) else c.toNat

/-- The value of an element under FTZ (R53, R142). -/
def Fmt.read (f : Fmt) (ftz : Bool) (x : Nat) : FVal :=
  match f with
  | .flt g => g.read (ftz && g.flushable) x
  | .e8m0 => e8m0Val x
  | .int s w => .int (intVal s w x)

/-- A value encoded in a format (R52 to R55). -/
def Fmt.write (f : Fmt) (v : FVal) (r : Rnd) (ftz sat : Bool) : Nat :=
  match f with
  | .flt g => g.enc v r ftz sat
  | .e8m0 => toE8m0 v r sat
  | .int s w => intBits w (v.toInt r (intRange s w).1 (intRange s w).2)

/-- The conversion of one element (R142). -/
def convert (src dst : Fmt) (m : BitVec 6) (x : Nat) : Nat :=
  let r := Rnd.ofBits m.toNat
  match src, dst with
  | .int s w, .int t v =>
    let n := intVal s w x
    intBits v (if m.getLsbD 3 then clampInt n (intRange t v).1 (intRange t v).2 else n)
  | _, _ => dst.write (src.read (m.getLsbD 2) x) r (m.getLsbD 2) (m.getLsbD 3)

/-- CVT on a word: element I of the source to element J of a word otherwise zero (R142). -/
def cvtWord (imm : BitVec 16) (m : BitVec 6) (a : Word) : Word :=
  let src := Fmt.ofCode (bits imm 3 0)
  let dst := Fmt.ofCode (bits imm 7 4)
  w32 (convert src dst m (elem src.width a (bits imm 10 8)) * 2 ^ (dst.width * bits imm 13 11))

/-- The format of a PACK code (R143). -/
def packFmt (f : Nat) : Fmt :=
  match f with
  | 0 => .flt .fp16 | 1 => .flt .bf16 | 2 => .flt .e4m3 | 3 => .flt .e5m2 | 4 => .flt .e2m1
  | 5 => .int true 8 | 6 => .int false 8 | _ => .e8m0

/-- A word with element i replaced. -/
def setElem (w : Nat) (x : Word) (i v : Nat) : Word :=
  w32 (x.toNat - elem w x i * 2 ^ (w * i) + v % 2 ^ w * 2 ^ (w * i))

/-- PACK of two words (R143); `c` gives the other elements. -/
def packWord (f : Nat) (m : BitVec 6) (a b c : Word) : Word :=
  let g := packFmt f
  let h := bits m 5 4
  let one (x : Word) : Nat :=
    match g with
    | .int s w => intBits w (clampInt x.toInt (intRange s w).1 (intRange s w).2)
    | _ => convert (.flt .fp32) g m x.toNat
  setElem g.width (setElem g.width c (2 * h) (one a)) (2 * h + 1) (one b)

/-- UNPACK of an element (R144). -/
def unpackWord (f e : Nat) (ftz : Bool) (a : Word) : Word :=
  let g := packFmt f
  match g with
  | .int s w => BitVec.ofInt 32 (intVal s w (elem w a e))
  | _ => w32 (FloatFmt.fp32.enc (g.read ftz (elem g.width a e)) .rne false false)

/-! ### RX24 (R48 to R50) -/

/-- rxenc of R49. -/
def rxenc (v : Int) : Nat := (v % 255).toNat * 2 ^ 16 + (v % 253).toNat * 2 ^ 8 + (v % 251).toNat

/-- One field of two RX24 words combined by an operation. -/
def rxField (op : Nat → Nat → Nat) (m l x y : Nat) : Nat := op (x / 2 ^ l % 256 % m) (y / 2 ^ l % 256 % m) % m * 2 ^ l

/-- rxadd of R49. -/
def rxadd (x y : Nat) : Nat := rxField (· + ·) 251 0 x y + rxField (· + ·) 253 8 x y + rxField (· + ·) 255 16 x y

/-- rxmul of R49. -/
def rxmul (x y : Nat) : Nat := rxField (· * ·) 251 0 x y + rxField (· * ·) 253 8 x y + rxField (· * ·) 255 16 x y

/-- rxdec of R49. -/
def rxdec (w : Nat) : Int :=
  let r0 : Int := (w % 256 % 251 : Nat)
  let r1 : Int := (w / 256 % 256 % 253 : Nat)
  let r2 : Int := (w / 65536 % 256 % 255 : Nat)
  let a1 := ((r1 - r0) * 126) % 253
  let a2 := ((r2 - r0 - 251 * a1) * 32) % 255
  let x := r0 + 251 * a1 + 63503 * a2
  if x > 8096632 then x - 16193265 else x

/-! ### Special functions (R138) -/

/-- A closed interval of integers, standing for reals scaled by 2^k. -/
structure Ival where
  lo : Int
  hi : Int
deriving DecidableEq, Repr

/-- The ceiling of a quotient by a positive divisor. -/
def ceilDiv (a b : Int) : Int := -((-a) / b)

/-- Sum of intervals. -/
def Ival.add (a b : Ival) : Ival := ⟨a.lo + b.lo, a.hi + b.hi⟩
/-- Difference of intervals. -/
def Ival.sub (a b : Ival) : Ival := ⟨a.lo - b.hi, a.hi - b.lo⟩
/-- Product of intervals at scale k. -/
def Ival.mul (k : Nat) (a b : Ival) : Ival :=
  let ps := [a.lo * b.lo, a.lo * b.hi, a.hi * b.lo, a.hi * b.hi]
  let mn := ps.foldl min (a.lo * b.lo)
  let mx := ps.foldl max (a.lo * b.lo)
  ⟨mn / (2 ^ k : Nat), ceilDiv mx (2 ^ k : Nat)⟩
/-- An interval divided by a positive number. -/
def Ival.divN (a : Ival) (n : Nat) : Ival := ⟨a.lo / (n : Int), ceilDiv a.hi n⟩
/-- Quotient at scale k of intervals whose divisor is positive. -/
def Ival.div (k : Nat) (a b : Ival) : Ival :=
  let n (x : Int) : Int := x * (2 ^ k : Nat)
  ⟨min (n a.lo / b.hi) (n a.lo / b.lo), max (ceilDiv (n a.hi) b.lo) (ceilDiv (n a.hi) b.hi)⟩
/-- A number at scale k. -/
def Ival.ofNat (k n : Nat) : Ival := ⟨(n * 2 ^ k : Nat), (n * 2 ^ k : Nat)⟩

/-- The sum of x^i / i! over n terms from the term given, with a bound on the rest: every ratio of terms past the last is
below one half. -/
def expSeries (k : Nat) (x : Ival) : Nat → Nat → Ival → Ival → Ival
  | 0, _, term, acc => ⟨acc.lo + min 0 (2 * term.lo), acc.hi + max 0 (2 * term.hi) + 1⟩
  | n + 1, i, term, acc => expSeries k x n (i + 1) ((term.mul k x).divN i) (acc.add term)

/-- e^x for 0 ≤ x < 32 at scale k. -/
def expIval (k : Nat) (x : Ival) : Ival := expSeries k x (k / 2 + 60) 1 (Ival.ofNat k 1) ⟨0, 0⟩

/-- The sum of (±1)^i z^(2i+1) / (2i+1) for |z| ≤ 1/3 (atanh, or atan when `alt`). -/
def oddSeries (k : Nat) (alt : Bool) (z2 : Ival) : Nat → Nat → Ival → Ival → Ival
  | 0, _, p, acc => ⟨acc.lo - p.hi - 1, acc.hi + p.hi + 1⟩
  | n + 1, i, p, acc =>
    let t := p.divN (2 * i + 1)
    oddSeries k alt z2 n (i + 1) (p.mul k z2) (if alt && i % 2 == 1 then acc.sub t else acc.add t)

/-- atanh or atan of an interval. -/
def atanIval (k : Nat) (alt : Bool) (z : Ival) : Ival := oddSeries k alt (z.mul k z) (k / 2) 0 z ⟨0, 0⟩

/-- ln 2 = 2 atanh(1/3). -/
def ln2Ival (k : Nat) : Ival :=
  let t := atanIval k false ((Ival.ofNat k 1).divN 3)
  ⟨2 * t.lo, 2 * t.hi⟩

/-- π/2 = 8 atan(1/5) − 2 atan(1/239). -/
def halfPiIval (k : Nat) : Ival :=
  let a := atanIval k true ((Ival.ofNat k 1).divN 5)
  let b := atanIval k true ((Ival.ofNat k 1).divN 239)
  ⟨8 * a.lo - 2 * b.hi, 8 * a.hi - 2 * b.lo⟩

/-- The alternating sum of x^(2i+j) / (2i+j)! for 0 ≤ x < 2: sine from j = 1, cosine from j = 0. -/
def trigSeries (k : Nat) (x2 : Ival) : Nat → Nat → Bool → Ival → Ival → Ival
  | 0, _, _, term, acc => ⟨acc.lo - term.hi - 1, acc.hi + term.hi + 1⟩
  | n + 1, i, minus, term, acc =>
    trigSeries k x2 n (i + 2) (!minus) ((term.mul k x2).divN ((i + 1) * (i + 2)))
      (if minus then acc.sub term else acc.add term)

/-- sin or cos of 0 ≤ x < 2. -/
def trigIval (k : Nat) (sine : Bool) (x : Ival) : Ival :=
  let x2 := x.mul k x
  if sine then trigSeries k x2 (k / 4 + 20) 1 false x ⟨0, 0⟩
  else trigSeries k x2 (k / 4 + 20) 0 false (Ival.ofNat k 1) ⟨0, 0⟩

/-- A magnitude m × 2^e at scale k. -/
def scaled (k m : Nat) (e : Int) : Ival :=
  let s := e + k
  if 0 ≤ s then ⟨(m * 2 ^ s.toNat : Nat), (m * 2 ^ s.toNat : Nat)⟩
  else ⟨(m / 2 ^ (-s).toNat : Nat), (m / 2 ^ (-s).toNat + 1 : Nat)⟩

/-- The interval in which a transcendental function's value lies, with a scale of its own: the value times 2^k lies
between the bounds (R138). Arguments are finite and nonzero, and the value is not a number of the format. -/
def sfIval (fn : SfFn) (k : Nat) (s : Bool) (m : Nat) (e : Int) : Ival × Int :=
  let x := scaled k m e
  match fn with
  | .exp2 =>
    let v : Ival := if s then ⟨-x.hi, -x.lo⟩ else x
    let n := v.lo / (2 ^ k : Nat)
    let f : Ival := ⟨v.lo - n * (2 ^ k : Nat), v.hi - n * (2 ^ k : Nat)⟩
    (expIval k (f.mul k (ln2Ival k)), n - k)
  | .log2 =>
    let top : Int := e + bitLen m - 1
    let y := scaled k m (1 - bitLen m)
    let one := Ival.ofNat k 1
    let a := atanIval k false ((y.sub one).div k (y.add one))
    let l := Ival.div k ⟨2 * a.lo, 2 * a.hi⟩ (ln2Ival k)
    (⟨l.lo + top * (2 ^ k : Nat), l.hi + top * (2 ^ k : Nat)⟩, -k)
  | .tanh =>
    let one := Ival.ofNat k 1
    let ex := expIval k ⟨2 * x.lo, 2 * x.hi⟩
    let t := (ex.sub one).div k (ex.add one)
    (if s then ⟨-t.hi, -t.lo⟩ else t, -k)
  | .sin | .cos =>
    let p := halfPiIval k
    let n := x.lo / p.hi
    let r : Ival := ⟨x.lo - n * p.hi, x.hi - n * p.lo⟩
    let sine := fn == .sin
    let q := (if sine then n else n + 1) % 4
    let t := trigIval k (q % 2 == 0) r
    let neg := (decide (2 ≤ q)) != (sine && s)
    (if neg then ⟨-t.hi, -t.lo⟩ else t, -k)
  | _ => (⟨0, 0⟩, 0)

/-- The exact value a bound stands for. -/
def boundVal (v : Int) (e : Int) : FVal := FVal.ofInt false v e

/-- The correctly rounded FP32 result: the interval is narrowed until both bounds round alike (R138). -/
def sfRound (fn : SfFn) (s : Bool) (m : Nat) (e : Int) (ftz : Bool) : Nat → Nat → Nat
  | 0, k => let (i, x) := sfIval fn k s m e; FloatFmt.fp32.enc (boundVal i.lo x) .rne ftz false
  | fuel + 1, k =>
    let (i, x) := sfIval fn k s m e
    let a := FloatFmt.fp32.enc (boundVal i.lo x) .rne ftz false
    let b := FloatFmt.fp32.enc (boundVal i.hi x) .rne ftz false
    if a = b then a else sfRound fn s m e ftz fuel (2 * k)

/-- The integer square root, by bits from the top. -/
def isqrtBits (x : Nat) : Nat → Nat → Nat
  | 0, r => r
  | b + 1, r => if (r + 2 ^ b) * (r + 2 ^ b) ≤ x then isqrtBits x b (r + 2 ^ b) else isqrtBits x b r

/-- ⌊√x⌋. -/
def isqrt (x : Nat) : Nat := isqrtBits x (bitLen x / 2 + 1) 0

/-- A quotient with 60 bits and a sticky bit below them, so that one rounding of it is the rounding of the exact
quotient (R52). -/
def stickyDiv (n d : Nat) : Nat :=
  let q := n * 2 ^ 60 / d
  2 * q + (if n * 2 ^ 60 % d = 0 then 0 else 1)

/-- A square root of m × 2^(2h) with a sticky bit: √m × 2^60, doubled. -/
def stickySqrt (m : Nat) : Nat :=
  let r := isqrt (m * 2 ^ 120)
  2 * r + (if r * r = m * 2 ^ 120 then 0 else 1)

/-- A magnitude with an even exponent. -/
def evenExp (m : Nat) (e : Int) : Nat × Int := if e % 2 = 0 then (m, e) else (2 * m, e - 1)

/-- |a| is below 2^x. -/
def smallMag (m : Nat) (e x : Int) : Bool := decide (e + bitLen m ≤ x)

/-- FSFUN on FP32 bits (R138). -/
def sfun (fn : SfFn) (md : BitVec 6) (a : Nat) : Nat :=
  let f := FloatFmt.fp32
  let ftz := md.getLsbD 2
  let r := Rnd.ofBits md.toNat
  let one := 0x3F800000
  match f.read ftz a with
  | .nan => f.canonNan
  | .inf s =>
    match fn with
    | .rcp => f.enc (.fin s 0 0) r ftz false
    | .rsq => if s then f.canonNan else 0
    | .sqrt | .log2 => if s then f.canonNan else f.infinite false false
    | .exp2 => if s then 0 else f.infinite false false
    | .tanh => if s then 0x80000000 + one else one
    | .sin | .cos => f.canonNan
  | .fin s m e =>
    if m = 0 then
      match fn with
      | .rcp | .rsq => f.infinite s false
      | .sqrt | .tanh | .sin => f.enc (.fin s 0 0) r ftz false
      | .exp2 | .cos => one
      | .log2 => f.infinite true false
    else
      match fn with
      | .rcp => f.enc (.fin s (stickyDiv 1 m) (-e - 61)) r ftz false
      | .rsq =>
        if s then f.canonNan
        else
          let (n, h) := evenExp m e
          let q := isqrt (2 ^ 240 / n)
          f.enc (.fin false (2 * q + (if q * q * n = 2 ^ 240 then 0 else 1)) (-(h / 2) - 121)) .rne ftz false
      | .sqrt =>
        if s then f.canonNan
        else
          let (n, h) := evenExp m e
          f.enc (.fin false (stickySqrt n) (h / 2 - 61)) r ftz false
      | .exp2 =>
        if smallMag m e (-26) then one
        else if !smallMag m e 8 then (if s then 0 else f.infinite false false)
        else if e ≥ 0 || m % 2 ^ (-e).toNat = 0 then
          let n : Int := (if e ≥ 0 then m * 2 ^ e.toNat else m / 2 ^ (-e).toNat : Nat)
          f.enc (.fin false 1 (if s then -n else n)) .rne ftz false
        else sfRound .exp2 s m e ftz 4 128
      | .log2 =>
        if s then f.canonNan
        else if m = 2 ^ (bitLen m - 1) then f.enc (FVal.ofInt false (e + bitLen m - 1) 0) .rne ftz false
        else sfRound .log2 s m e ftz 4 128
      | .tanh =>
        if smallMag m e (-13) then f.enc (.fin s m e) .rne ftz false
        else if !smallMag m e 4 then (if s then 0x80000000 + one else one)
        else sfRound .tanh s m e ftz 4 128
      | .sin =>
        if !smallMag m e 20 && !(m * 2 ^ (e + 200).toNat == 2 ^ 220) then f.canonNan
        else if smallMag m e (-13) then f.enc (.fin s m e) .rne ftz false
        else sfRound .sin s m e ftz 4 128
      | .cos =>
        if !smallMag m e 20 && !(m * 2 ^ (e + 200).toNat == 2 ^ 220) then f.canonNan
        else if smallMag m e (-13) then one
        else sfRound .cos s m e ftz 4 128

end Sys2Proof.Machine
end

