-- ==== Sys2Proof/Config.lean ====
section
/-!
DEFINITION. What the manual leaves to one device or one run: the free values (constants with no body, so that
nothing in Lean can evaluate them) and the actions of the device and its surroundings from which a run is made.
-/
namespace Sys2Proof

/-- One thing that happens next. The device issues from 256 cores and 256 bank-side units, answers the host and
lets time pass; the manual fixes no order among them beyond its own rules, so the order of a run is data: the
machine's agenda, or the free schedule when the agenda is empty. -/
inductive Action
  /-- A core issues the next word of a slot of a warp of a block (R41, R61). -/
  | issue (block warp slot : Nat)
  /-- The bank-side unit of a channel issues the next instruction of one thread of a bank context (R283); a column is read as
  it stood `age` events of the memory log ago, or earlier where R299 asks for that. -/
  | bankIssue (chan cx : Nat) (arith : Bool) (age : Nat)
  /-- An event or host action of the table takes place, with its operands: numbers that name parts of the machine
  (R7), identities of pending operations, or what the host writes. -/
  | event (i : Instr) (args : List Nat)
  /-- `n` cycles of a cluster's clock pass (R3). -/
  | cycles (cluster n : Nat)
  /-- `n` ns of elapsed time pass (R3). -/
  | elapse (n : Nat)
  /-- One tick of the Circular's clock passes (R218). -/
  | ringTick
  /-- An L2 slice writes one 64-byte line back to its memory. -/
  | l2WriteBack (line : Nat)
  /-- A zero-length read to a window (0 the host's, p + 1 that of peer p) acknowledges the `n` oldest writes posted there
  (R359). -/
  | windowRead (window n : Nat)
  /-- A TLB drops its oldest entry (R163). -/
  | tlbEvict (core : Bool) (n : Nat)
  /-- A core's constant cache drops a line. -/
  | constEvict (core line : Nat)
  /-- The home slice applies one access of a store that has not been accepted whole (R191). -/
  | storePart (op part : Nat)
  /-- Some lanes' registers of a pending operation receive their values before it completes: bit l of the mask for lane l, and
  bit 32 for scalars (R35). -/
  | landPart (op mask : Nat)
  /-- An engine moves one unit of a transfer: a lane, a row or a 64-byte granule (R178 to R180), its source read as it stood
  `age` events of the memory log ago, or earlier where R200 asks for that. -/
  | engineMove (xfer unit age : Nat)
  /-- A station queues flits for a waveguide (R351). -/
  | flitDemand (waveguide station n : Nat)
  /-- A packet enters a station's buffer, with the buffers it has still to pass (R353). -/
  | packetQueued (buffer : Nat) (route : List Nat)
  /-- The head packet of a buffer moves on, or the packet of its escape slot joins it (R353). -/
  | packetHop (buffer : Nat)
  /-- The host or another agent picks the page a migration controller moves next (R187). -/
  | migrationPick (ctx : Nat) (va : DWord) (toPool : Bool)
  /-- An activation advances the disturbance counters of a row's neighbours (R296). -/
  | activate (chan bank row : Nat)
  /-- The refresh of a row reaches its deadline (R297). -/
  | refreshDeadline (chan bank row : Nat)
  /-- The package flash is given a correctly signed image (R374). -/
  | flash
  /-- A bring-up that is under way ends (R374). -/
  | bringUpEnds
deriving DecidableEq, Repr, Inhabited

/-- The action taken when the agenda is empty: the n-th free choice of the run. No body: any order is possible. -/
opaque Config.schedule : Nat → Action

/-- A free 32-bit value: the n-th value the manual leaves open. -/
opaque Config.freeWord : Nat → Word

/-- A free byte: the n-th byte the manual leaves open (host and peer window reads, uncorrected data). -/
opaque Config.freeByte : Nat → Byte

/-- Bytes of an attestation report that the manual names without giving: the firmware digest, the fuse digest and
the signature over a report with this nonce (R375). -/
opaque Config.attestationByte : Nat → Nat → Byte

/-- The number of packets a station's output buffer holds (R353 gives no number). -/
opaque Config.bufferCapacity : Nat → Nat

/-- The rows a disturbance counter may reach before its targeted refresh (R296 gives no number). -/
opaque Config.disturbThreshold : Nat

end Sys2Proof
end

