-- ==== Sys2Proof/Machine/State.lean ====
section
/-!
DEFINITION. The state of the KX9, as plain data: every register, control register, queue, buffer and pending
operation that the manual gives the device, and the state right after bring-up (R374). The reset value of every
item and the rule that names it are listed in INVENTORY.md under State.
-/
namespace Sys2Proof.Machine

/-! ### Registers of a warp -/

/-- One lane of a vector register: its 32 bits and its kind tag, set when the bits are a proxy word (R258). -/
structure KVal where
  val : Word
  px : Bool
deriving DecidableEq, Repr, Inhabited

/-- A vector register: 32 lanes and the uniform tag (R111). -/
structure VReg where
  lanes : List KVal
  uni : Bool
deriving DecidableEq, Repr, Inhabited

/-- One lane of a predicate: the plain bit, and the hidden proxy word when it holds a proxy predicate (R258). -/
structure PredLane where
  val : Bool
  px : Option Word
deriving DecidableEq, Repr, Inhabited

/-- A latch entry L0–L2: the tag (specifier and S bit of the register it names, unset since the warp started when
none) and the number of issued instructions for which it stays valid (R28, R29). -/
structure Latch where
  tag : Option (BitVec 8 × Bool)
  valid : Nat
deriving DecidableEq, Repr, Inhabited

/-- A shape register SH0–SH7 (R235). -/
structure Shape where
  v : Bool
  chg : Bool
  fmt : BitVec 3
  reqM : BitVec 8
  reqN : BitVec 8
  reqK : BitVec 9
  gm : BitVec 7
  gn : BitVec 8
  gk : BitVec 9
  tm : BitVec 7
  tn : BitVec 8
  tk : BitVec 9
deriving DecidableEq, Repr, Inhabited

/-- A hold record: the handle and serial of a captured stitch (R223). -/
structure HoldRec where
  handle : Word
  serial : Word
deriving DecidableEq, Repr, Inhabited

/-- The clause state of a path: the clause's set-flags and the words left in it; with no word left a header is due
(R31, R306). -/
structure Clause where
  s1 : Option Nat
  s2 : Option Nat
  left : Nat
deriving DecidableEq, Repr, Inhabited

/-- What a path waits for. A path that waits issues nothing (R81, R99, R107, R154, R209, R215, R226). -/
inductive Wait
  /-- It may issue. -/
  | ready
  /-- It sleeps until its cluster's counter reaches this count (SLEEP and SLEEP.FOR, R81). -/
  | sleep (until_ : Nat)
  /-- SLEEP.PROM: the deadline, the arrival object and the phase; `late` once the promise was missed (R81). -/
  | sleepProm (until_ : Nat) (obj : Nat) (ph : Bool) (late : Bool)
  /-- A sleep in a saved context: the cycles that remain, and the promise's object and phase if it has one (R81). -/
  | slept (remain : Nat) (prom : Option (Nat × Bool × Bool))
  /-- It is blocked in an instruction that waits for the event named by its own record elsewhere in the state. -/
  | blocked
  /-- It waits at a branch for the bits of an implicit crossing; the bits received so far by lane (R74). -/
  | crossing (got : List (Nat × Bool))
  /-- Its warp is parked on a data page fault of detail 0x01 (R99); the fault wait's identity. -/
  | parked (wait : Nat)
  /-- It has arrived at a SWPT that retires as a no-op when the path next issues (R105). -/
  | retiring
deriving DecidableEq, Repr, Inhabited

/-- A path: its word address (an address past the 57-bit space stands as it is, so that the fetch finds it, R38), its
lane mask, its innermost join record, its clause state, what it waits for, and whether a handler keeps it stopped
(R61). -/
structure Path where
  pc : DWord
  mask : Mask
  join : Option Nat
  clause : Clause
  wait : Wait
  /-- Stopped by a trap entry until the handler ends (R68, R305). -/
  held : Bool
  /-- When it was written to the divergence stack, among the writes of its warp (R67). -/
  seq : Nat
deriving DecidableEq, Repr, Inhabited

/-- A join record (R62), named by an identity of the model, with when it was last written (R67). -/
structure JoinRec where
  id : Nat
  seq : Nat
  rejoin : DWord
  mask : Mask
  arrived : Mask
  parent : Option Nat
  call : Bool
deriving DecidableEq, Repr, Inhabited

/-- An entry of the divergence stack (R67). -/
inductive StackEntry
  | join (j : JoinRec)
  | path (p : Path)
deriving DecidableEq, Repr, Inhabited

/-- The trap frame (R306), with the trapped slot, its remaining sleep and where the lent block came from. -/
structure Frame where
  vregs : List VReg
  sregs : List Word
  latches : List Latch
  clause : Clause
  slot : Nat
  wait : Wait
  fromReserve : Bool
deriving DecidableEq, Repr, Inhabited

/-- A trap that has been raised and not yet entered (R305): its code, detail, address, slot, whether TRET.SKIP may
step over it, and its place in the order in which entries look for a block (R306). -/
structure Trap where
  code : Byte
  detail : Byte
  addr : DWord
  slot : Nat
  skip : Bool
  seq : Nat
deriving DecidableEq, Repr, Inhabited

/-- An asynchronous trap that waits for a boundary of its warp (R294, R305). -/
structure AsyncTrap where
  code : Byte
  detail : Byte
  addr : DWord
deriving DecidableEq, Repr, Inhabited

/-- A resident or saved warp: everything R311 lists for each warp, and what a core holds beside it. -/
structure Warp where
  /-- The warp has ended (R78, R101, R308). -/
  ended : Bool
  /-- Lanes that have exited (R78). -/
  exited : Mask
  /-- Register blocks the warp holds, b (R97), and how many of them came from the emergency reserve (R107). -/
  b : Nat
  fromReserve : Nat
  /-- V0 to V(8b − 1) (R97), S0–S95, P0–P6 (R18). -/
  vregs : List VReg
  sregs : List Word
  preds : List (List PredLane)
  /-- F0–F11 (R32). -/
  flags : List Nat
  latches : List Latch
  shapes : List Shape
  holds : List HoldRec
  /-- The paths of the two program-counter slots (R61), the slot that issued last, and the slots whose word has had to wait
  since. -/
  path0 : Option Path
  path1 : Option Path
  lastSlot : Option Nat
  stalled : List Nat
  /-- The divergence stack, most recently pushed entry first (R67), and the count of its writes, which also names join
  records. -/
  stack : List StackEntry
  nextJoin : Nat
  /-- Handler mode: the trap frame, and the register block lent to the handler (R306). -/
  frame : Option Frame
  lent : List VReg
  /-- TRAP_CAUSE, TRAP_PC, TRAP_ADDR and TRAP_MASK (R314, R315). -/
  trapCause : Word
  trapPc : DWord
  trapAddr : DWord
  trapMask : Word
  /-- A trap raised and not yet entered, and the asynchronous traps that wait (R305). -/
  trap : Option Trap
  async : List AsyncTrap
  /-- The slot whose FENCE or CIRC.TURN keeps both slots from issuing (R208, R230). -/
  gate : Option Nat
  /-- The revolutions a waiting CIRC.TURN has yet to see begin at its core's stop (R230). -/
  turn : Option Nat
  /-- The warp slot of its core, 0–255; modulo 4 it is the issue group (R94). Its age in ready cycles (R94). -/
  hwslot : Nat
  age : Nat
  /-- Base of the warp's private area (R159, R320). -/
  privb : Nat
  /-- The clocks its loads returned since its last acquire, and the die and epoch of its last global write (R208). -/
  retClock : List Nat
  writeEpoch : Option (Nat × Nat)
deriving DecidableEq, Repr, Inhabited

/-! ### Blocks -/

/-- A waiter on a block's queue (R215): its warp and slot, the queue, the side and the handle it pushes. -/
structure QWaiter where
  warp : Nat
  slot : Nat
  queue : Nat
  push : Bool
  handle : Word
  dst : BitVec 8
  /-- Its place in the program order of its warp (R190, R216). -/
  po : Nat
deriving DecidableEq, Repr, Inhabited

/-- A posted reshape request (R105): the target variant, whether it is a grow request, the waiting record of a shrink
request, what a grow request sets aside (register blocks and warp slots beyond those the block holds), and where the
target's scratchpad and accumulator lines will lie. -/
structure Reshape where
  target : Nat
  grow : Bool
  record : Option Nat
  extra : Nat
  warps : Nat
  spadBase : Nat
  accBase : Nat
deriving DecidableEq, Repr, Inhabited

/-- The arrivals at a switch point (R105): the point, the cycle of the first arrival, the arrived warps with their
slots, whether a warp of the block has entered a handler since, and whether the checks have passed. -/
structure SwitchWait where
  k : Nat
  start : Nat
  arrived : List (Nat × Nat)
  spoiled : Bool
  /-- Every warp that has not exited had arrived within the grace. -/
  whole : Bool
  passed : Bool
deriving DecidableEq, Repr, Inhabited

/-- Where a block is. -/
inductive Where
  /-- Resident on a core. -/
  | core (c : Nat)
  /-- Its context is saved and it is on the resume list of its priority (R92, R310). -/
  | resume
  /-- Its context is saved and it waits for a page (R99). -/
  | swapped
  /-- It was aborted and waits for a page before its index is placed anew (R98). -/
  | replay
  /-- It is aborted and on the resume list, to start from the beginning (R98). -/
  | fresh
deriving DecidableEq, Repr, Inhabited

/-- A placed block (R91, R311). -/
structure Block where
  id : Nat
  ctx : Nat
  record : Nat
  index : Nat
  prio : Nat
  loc : Where
  /-- When it was placed, in ns, and a free choice among blocks that several clusters placed at that time (R91, R92). -/
  placed : Nat × Nat
  variant : Nat
  sizeclass : Word
  /-- The block still has idempotent treatment (R98). -/
  idemp : Bool
  warps : List Warp
  /-- Scratchpad bytes and accumulator words (by 32 × line + word), and where they lie in the core's pool, in
  units of 4 KiB and of lines. -/
  spad : List Host.Cell
  acc : List (Nat × Word)
  spadBase : Nat
  accBase : Nat
  qwait : List QWaiter
  /-- The queues whose header was written by something other than a queue instruction (R6, R212). -/
  qspoiled : List Nat
  reshape : Option Reshape
  switches : List SwitchWait
  /-- The block is being pre-empted: its warps have stopped at their boundaries (R310). -/
  stopping : Bool
  /-- The block is to be ended (R308): the trap's code, detail, pc and address. -/
  ending : Option (Nat × Nat × DWord × DWord)
  /-- The core it is on or was last on (R231, R312). -/
  lastCore : Nat
  /-- Its shares of the private pool and the save pool, in units of 64 KiB: the offset of the areas of each warp index,
  the size of one index's areas, and the size of its save space (R320). -/
  privAt : List Nat
  privUnits : Nat
  saveUnits : Nat
deriving DecidableEq, Repr, Inhabited

/-! ### Operations in flight -/

/-- A register write that an operation performs when it completes: a vector lane, a scalar or a predicate lane. -/
inductive RegWrite
  | lane (reg lane : Nat) (v : Word)
  | scalar (reg : Nat) (v : Word)
deriving DecidableEq, Repr, Inhabited

/-- One access of a pending global load: the lane, plus 32 for the high half of a 16-byte access, the physical address of
each of its bytes, the destination register and the access size code (R166, R169, R191). -/
structure LaneLoad where
  lane : Nat
  bytes : List Nat
  dst : Nat
  scalar : Bool
  sz : Nat
deriving DecidableEq, Repr, Inhabited

/-- One lane operation of an atomic request (R201, R206). -/
structure AtomLane where
  lane : Nat
  pa : Nat
  b : Nat
  c : Nat
  /-- Its old value goes to no register: a source of the lane was written early (R35). -/
  mute : Bool := false
deriving DecidableEq, Repr, Inhabited

/-- A lane that PMAT or PMAT.S has yet to receive: the run it names, and for PMAT.S the bytes it writes, each by its
place in the value and in scratchpad (R275, R276). -/
structure MatLane where
  lane : Nat
  home : Nat
  slot : Nat
  ext : Nat
  keep : List (Nat × Nat)
  /-- What it writes is free: a source of the lane was written early (R35). -/
  free : Bool := false
deriving DecidableEq, Repr, Inhabited

/-- What a pending operation does. -/
inductive OpKind
  /-- A global load: the lanes not yet performed (R170, R194). -/
  | load (lanes : List LaneLoad)
  /-- A load whose value is read, and whose registers are yet to be written (LDS, LDC). -/
  | fill (writes : List RegWrite)
  /-- An LDS, STS or ATOMS that the scratchpad has yet to apply: its lanes, with offsets for addresses (R199). -/
  | lds (lanes : List LaneLoad)
  | sts (parts : List (Nat × List Byte))
  | atoms (op : AtomOp) (uns : Bool) (size : Nat) (lanes : List AtomLane) (dst : Option Nat)
  /-- A global store: its accesses not yet applied, each with its lane and its bytes, in ascending lane order and a
  16-byte access as two, the low half first (R164, R170, R191). -/
  | store (parts : List (Nat × List (Nat × Byte)))
  /-- An atomic: the requests not yet served, by sector, the size in bytes, the destination and the scope (R201, R206). -/
  | atomic (op : AtomOp) (uns : Bool) (size : Nat) (requests : List (Nat × List AtomLane)) (dst : Option Nat)
      (scope : Nat)
  /-- A JDEC on its way to the record's service warp: the record's virtual and physical address, and Sd (R96, R104). -/
  | jdec (va pa dst : Nat)
  /-- An operation whose effect is done and whose register writes take effect at its completion. -/
  | done (writes : List RegWrite)
  /-- PMAT.S: the lanes still to come (R276). -/
  | pmats (lanes : List MatLane)
  /-- PMAT: the register, the lanes still to come, and the lanes' values at hand (R275). -/
  | pmat (reg : Nat) (lanes : List MatLane) (got : List (Nat × Word))
  /-- PUBLISH of a window (R184). -/
  | publish (window : Nat)
  /-- CCTL.WB or CCTL.WBINV over physical byte ranges (R185). -/
  | cctl (inv : Bool) (ranges : List (Nat × Nat))
  /-- CCTL.CONST (R185). -/
  | cctlConst
  /-- TLBH.HARV, or TLBH.INV of a page (R186). -/
  | tlbh (page : Option Nat)
  /-- A CSRW on its way to a context's register: the slot that waits, the number and the value (R313). -/
  | csrw (slot num : Nat) (v : Word)
  /-- An MMA or MMAS in its unit: its operands, whether it is scaled, its shape and format word, and the registers it has read
  (R251, R256). -/
  | tile (o : Opnds) (scaled : Bool) (x : Shape) (f : Word) (regs : List VReg)
deriving DecidableEq, Repr, Inhabited

/-- An operation in flight, in the device's issue order. -/
structure Op where
  id : Nat
  block : Nat
  warp : Nat
  core : Nat
  ctx : Nat
  /-- The flag it counts on (R33). -/
  flag : Option Nat
  /-- Die and epoch in which a write was issued (R191, R208). -/
  epoch : Option (Nat × Nat)
  kind : OpKind
  /-- The source registers of its instruction, once the issue is noted: whether scalar, the number and the lanes. A later
  write of one before the completion is early (R35). -/
  srcs : Option (List (Bool × Nat × Mask))
  /-- The lanes in which it acts and the registers of the words that it stores, or that an atomic applies, in the order of their
  bytes; none for a word that no register holds (R35). -/
  data : Mask × List (Option (Bool × Nat))
  /-- The peers whose windows it writes, with their routes when it issued (R361). -/
  routes : List (Nat × Word)
deriving DecidableEq, Repr, Inhabited

/-- One unit of an engine transfer: where it reads, where it writes and its bytes (R178 to R180). `idx` is the
place in the index list of a gathered row. -/
structure XUnit where
  srcSpad : Bool
  src : Nat
  idx : Option Nat
  dstSpad : Bool
  dst : Nat
  len : Nat
deriving DecidableEq, Repr, Inhabited

/-- The engines that move transfers. -/
inductive Engine | lda | gath | copy
deriving DecidableEq, Repr, Inhabited

/-- An engine transfer in flight (R178 to R181). -/
structure Xfer where
  id : Nat
  engine : Engine
  ctx : Nat
  block : Nat
  warp : Nat
  core : Nat
  /-- The publish window a copy writes (R180). -/
  window : Option Nat
  /-- Base, stride and index list of a gather (R179). -/
  base : Nat
  stride : Nat
  list : Nat
  units : List XUnit
  arr : Nat
  err : Bool
  /-- The fault wait that holds the transfer (R173). -/
  held : Option Nat
  /-- The time of the memory log when it was issued (R200), and whether its sides overlap, so that its destination bytes
  are unpredictable (R6, R180). -/
  start : Nat
  clash : Bool
  /-- The scratchpad ranges that it writes, as offset and length; the entries of its index list; and the bytes among those
  it writes that software has touched before the arrival (R6, R178, R179). -/
  into : List (Nat × Nat)
  rows : Nat
  touched : List Nat
deriving DecidableEq, Repr, Inhabited

/-- An entry of a slice's wait table (R209). -/
structure WaitEntry where
  id : Nat
  block : Nat
  warp : Nat
  slot : Nat
  pa : Nat
  mask : Word
  expected : Word
  cmp : WaitCmp
  dst : Nat
  start : Nat
  /-- The request has reached the slice: its entry stands in the slice's table. -/
  there : Bool
  /-- The time of the memory log at which a satisfying write had been accepted. -/
  hit : Option Nat
  /-- A write of its own warp that comes after it in program order has reached its word: no write from then on may be
  what it returns (R192). -/
  barred : Bool
deriving DecidableEq, Repr, Inhabited

/-! ### The memory model's record (R190 to R200) -/

/-- An agent of the memory model (R190): a warp, a transfer of an engine or a bank context by its identity, the host with
its peers, and the device's own units. -/
inductive Agent
  | warp (block warp : Nat)
  | gather (id : Nat)
  | copy (id : Nat)
  | bank (id : Nat)
  | host
  | device
  /-- What a record's blocks did, or what comes before the blocks of a record that became ready (R96). -/
  | record (id : Nat)
deriving DecidableEq, Repr, Inhabited

/-- Who makes an access, and how R193 and R197 class it: the agent with the core it stands on, its place in program order,
the scope of an atomic, whether it is a read-modify-write, and whether it is a global store. -/
structure MemTag where
  agent : Agent
  core : Nat
  po : Nat
  scope : Option Nat
  rmw : Bool
  store : Bool
deriving DecidableEq, Repr, Inhabited

/-- A write posted to a host or peer window that its link has not acknowledged, with the route of a peer when it was sent
(R359, R361). -/
structure Posted where
  pa : Nat
  val : Byte
  agent : Agent
  route : Word
  /-- Its place in the program order of its warp (R184, R190). -/
  po : Nat := 0
deriving DecidableEq, Repr, Inhabited

/-- One access or fence as it was performed. A place is a physical address, or a byte of a block's scratchpad. -/
structure MemEvent where
  time : Nat
  tag : MemTag
  fence : Option (FenceKind × Nat)
  /-- Each byte read, with the time of the write it returned (0 for the initial value). -/
  reads : List (Nat × Nat)
  /-- Each byte written, with the value that the write replaced. -/
  writes : List (Nat × Byte)
  /-- The object at which an engine or a bank context arrived: block and offset (R174). -/
  arrived : Option (Nat × Nat)
  /-- The times of the events that come before every access of the agent from here on (R96, R176, R299). -/
  joins : List Nat
  /-- The physical base and length of the side that a PUBLISH makes visible (R184). -/
  flip : Option (Nat × Nat)
deriving DecidableEq, Repr, Inhabited

/-! ### Pairs (R154 to R156) -/

/-- An XPAIR offer that waits. -/
structure Offer where
  block : Nat
  warp : Nat
  slot : Nat
  core : Nat
  partner : Nat
  key : Word
  dst : Nat
  start : Nat
deriving DecidableEq, Repr, Inhabited

/-- A posted XSHFL: its slot, active lanes, values, destination and predicate. -/
structure Post where
  slot : Nat
  active : Mask
  vals : List Word
  dst : BitVec 8
  pc : Nat
deriving DecidableEq, Repr, Inhabited

/-- A pair of warps, the anchor's first, with the posts that wait, the place and lanes of the path whose withdrawn XSHFL
keeps its count (R156), and the XSHFLs committed. -/
structure WarpPair where
  id : Nat
  block0 : Nat
  warp0 : Nat
  block1 : Nat
  warp1 : Nat
  cluster : Nat
  post0 : Option Post
  post1 : Option Post
  owed0 : Option (DWord × Mask)
  owed1 : Option (DWord × Mask)
  count : Nat
deriving DecidableEq, Repr, Inhabited

/-! ### The Circular (R218 to R231) -/

/-- The state of a position that holds a stitch (R219), with the revolution in which it was captured (R228). -/
structure Stitch where
  payload : List Word
  visible : List Word
  ctx : Nat
  hold : Bool
  serial : Word
  res : Option Nat
  captured : Nat
deriving DecidableEq, Repr, Inhabited

/-- A position of the ring. -/
structure RingPos where
  gen : BitVec 5
  stitch : Option Stitch
deriving DecidableEq, Repr, Inhabited

/-- The kinds of Circular request. -/
inductive CircKind
  | cast (vals : List Word)
  | bind
  | cap
  | wr (rel : Bool) (vals : List Word) (pc : Nat)
  | rel (pc : Nat)
  | peek
deriving DecidableEq, Repr, Inhabited

/-- A Circular request that waits for a pass, in issue order (R226): `claimed` once a cast's claim is served,
`mine` what the first pass decided of a record the warp holds, `active` the lanes a predicate is written in. -/
structure CircReq where
  id : Nat
  block : Nat
  warp : Nat
  slot : Nat
  core : Nat
  ctx : Nat
  kind : CircKind
  handle : Word
  dst : Nat
  active : Mask
  claimed : Bool
  passed : Bool
  mine : Bool
deriving DecidableEq, Repr, Inhabited

/-- A stitch that an ended warp still held, to be released at the next pass of its core's stop (R223). -/
structure Release where
  core : Nat
  ctx : Nat
  handle : Word
  serial : Word
deriving DecidableEq, Repr, Inhabited

/-- The ring: its time in ticks, its positions, the marks of the stops as core and position, the requests, the
claims that wait, the releases of ended warps, and the passes of this tick already made (R218, R231). -/
structure Ring where
  tick : Nat
  pos : List RingPos
  marks : List (Nat × Nat)
  reqs : List CircReq
  releases : List Release
  stopsDone : List Nat
  seamDone : Bool
deriving DecidableEq, Repr, Inhabited

/-! ### Proxies (R258 to R271) -/

/-- A run of a home's temporary store (R260): slot, extent, count, context, and whether its value is formed. -/
structure Run where
  slot : Nat
  ext : Nat
  /-- The count that the home holds, and that of the core which keeps the run in its reservation: it falls when a drop is sent
  (R260, R343). -/
  count : Nat
  refs : Nat
  ctx : Nat
  formed : Bool
  /-- A temporary copy of a run of another home (R266). -/
  temp : Bool
deriving DecidableEq, Repr, Inhabited

/-- The proxy side of a channel: its runs and the words of its store, by 16 × slot + word. -/
structure Home where
  runs : List Run
  words : List (Nat × Word)
deriving DecidableEq, Repr, Inhabited

/-- A chunk of a core's reservation (R261): home, base slot, and the cycle it was last used. -/
structure Chunk where
  home : Nat
  base : Nat
  used : Nat
deriving DecidableEq, Repr, Inhabited

/-- One source of a proxy operation: a run at a home with its extent, or a plain word. -/
inductive PxSrc
  | run (home slot ext : Nat)
  | plain (v : Word)
deriving DecidableEq, Repr, Inhabited

/-- The word functions a home applies (R115, R133, R264): the shared operations of the core instructions. -/
inductive HomeFn
  | iadd (sat u : Bool) | isub (sat u : Bool) | imul | imad | imin (u : Bool) | imax (u : Bool)
  | blut (lut : BitVec 8) | shl | shr (s : Bool)
  | itest (cmp : BitVec 3) (u : Bool)
  | fadd (m : BitVec 6) | fmul (m : BitVec 6) | ffma (m : BitVec 6) | fmin (m : BitVec 6) | fmax (m : BitVec 6)
  | fsetp (cmp : BitVec 3) (m : BitVec 6)
  | cvt (imm : BitVec 16) (m : BitVec 6)
  | pdot (fmt : Nat) (m : BitVec 6)
  | pred (op : PredOp) (u : Bool)
deriving DecidableEq, Repr, Inhabited

/-- What a request asks of a home (R267). -/
inductive PxKind
  /-- Snapshot of the bytes at a physical address into a run of the given words; `group` is what the snapshots of one
  PLD have in common (R274). -/
  | snapshot (pa words slot group : Nat)
  /-- A result run formed by a function of sources (R264, R278, R279). -/
  | operate (fn : HomeFn) (srcs : List PxSrc) (slot ext : Nat)
  /-- A reference drop (R269). -/
  | drop (slot : Nat)
  /-- A copy of a run into a new run of the same home (R269). -/
  | dup (src slot ext : Nat)
  /-- A copy from another home into a temporary run (R266). -/
  | copy (srcHome srcSlot slot ext : Nat)
  /-- A bit of an implicit crossing (R74). -/
  | cross (slot lane : Nat)
  /-- A materialisation of a lane for the pending operation of this identity (R275, R276). -/
  | mat (op lane : Nat)
deriving DecidableEq, Repr, Inhabited

/-- A request of a core to a home, in issue order; `served` once the home has done its part, `lost` with an error
status (R271). `pathSlot` is the slot of a crossing. -/
structure PxReq where
  id : Nat
  core : Nat
  home : Nat
  ctx : Nat
  block : Nat
  warp : Nat
  pathSlot : Nat
  kind : PxKind
  served : Bool
  lost : Bool
  /-- The words that the home has read for it and that are on their way (R74, R266, R275, R276). -/
  data : List Word
  /-- Elapsed time in ns at which the home began to wait for free slots for a copy (R262, R266). -/
  since : Option Nat
  /-- Elapsed time in ns at which it was sent (R297). -/
  sent : Nat
deriving DecidableEq, Repr, Inhabited

/-- What a home has answered to a request for chunks: nothing yet, the base slots of the chunks it grants, or the detail of its
refusal (R262). -/
inductive ChunkAnswer
  | none
  | granted (bases : List Nat)
  | refused (detail : Nat)
deriving DecidableEq, Repr, Inhabited

/-- A core's request for chunks at a home, with the slot held at issue, whether the home was asked (R261), and its answer, which
travels to the core (R351). -/
structure ChunkReq where
  id : Nat
  core : Nat
  home : Nat
  chunks : Nat
  block : Nat
  warp : Nat
  slot : Nat
  asked : Bool
  /-- BSU cycles (ns) at which the home began to wait (R262). -/
  start : Nat
  answer : ChunkAnswer
deriving DecidableEq, Repr, Inhabited

/-! ### Bank-side units (R283 to R302) -/

/-- The queue heads of a bank context's launch, as the descriptor and the launcher give them (R286, R287). -/
structure BankLaunch where
  /-- Its place in the device's issue order, the warp that issued it with its core, and the time of the memory log then,
  which R299 orders its reads by. -/
  id : Nat
  issuer : Nat × Nat
  core : Nat
  start : Nat
  /-- The channels of the launch. -/
  mask : BitVec 256
  ctx : Nat
  handle : BitVec 16
  block : Nat
  warp : Nat
  argx : DWord
  argn : Word
  arr : Nat
  aentry : Nat
  code : List Word
  /-- Physical base of each 2 MiB span of the region (R285). -/
  region : List Nat
  status : Nat
  notify : Bool
  ref : Bool
  step : Bool
deriving DecidableEq, Repr, Inhabited

/-- The states of a bank context (R293). -/
inductive BankState | none | queued | running | stepped | stopped | done | aborted | reset
deriving DecidableEq, Repr, Inhabited

/-- A bank-kernel context: the two threads and their queues (R283), and what its status record holds (R293). -/
structure BankCtx where
  launch : BankLaunch
  state : BankState
  n : List Word
  x : List DWord
  apc : Nat
  xpc : Nat
  aEnded : Bool
  xEnded : Bool
  /-- The data queue's columns of 64 bytes and the back queue's values, oldest first. -/
  dq : List (List Byte)
  bq : List DWord
  cause : Nat
  thread : Bool
  roff : Word
  ncol : Word
  place : Nat × Nat × Nat
deriving DecidableEq, Repr, Inhabited

/-- A channel and its BSU: four bank contexts, the launches queued there (R284, R287), the next context in
round-robin order, and the rows marked refreshed and disturbed (R296). -/
structure Chan where
  cx : List (Option BankCtx)
  queue : List BankLaunch
  turn : Nat
  marked : List (Nat × Nat)
  disturb : List ((Nat × Nat) × Nat)
  /-- BSU cycles since the sequencer last retired a microinstruction while it had work (R298). -/
  idle : Nat
  /-- Column commands left in the burst under way, and the elapsed time in ns since which one has waited (R297). -/
  burst : Nat
  waiting : Option Nat
  /-- Rows whose refresh has reached its deadline in this window (R297). -/
  due : List (Nat × Nat)
deriving DecidableEq, Repr, Inhabited

/-! ### Cores, translation and contexts -/

/-- An entry of a core's TLB or a die's last-level TLB (R163). -/
structure TlbEntry where
  /-- Core number, or 256 + die. -/
  home : Nat
  ctx : Nat
  base : Nat
  size : Nat
  pa : Nat
  /-- Physical address of the page-table entry. -/
  pte : Nat
  x : Bool
  w : Bool
  win : Option Nat
  a : Bool
  d : Bool
  /-- It was dropped for room: it translates nothing, and its A and D bits wait for a point of R163. -/
  out : Bool
deriving DecidableEq, Repr, Inhabited

/-- A core (R7, R91, R93): the context it has taken up with its partition, when it took it up, whether it still
takes blocks, its engine error (R177), its constant cache, its reservation of proxy chunks and the holder of its
emergency reserve (R97). -/
structure Core where
  ctx : Option Nat
  part : Word
  taken : Nat
  closed : Bool
  /-- The waiting context for which it stopped taking blocks of its own (R93). -/
  next : Option Nat
  engErr : Option VAddr
  consts : List Host.Cell
  chunks : List Chunk
  parks : List (Nat × Nat × Nat × Nat × Nat)
  holder : Option (Nat × Nat)
deriving DecidableEq, Repr, Inhabited

/-- A publish window of a context, as its table was loaded, with the visible side (R183). -/
structure Window where
  phys1 : Nat
  phys0 : Nat
  vbase : Nat
  size : Nat
  cur : Bool
  v : Bool
deriving DecidableEq, Repr, Inhabited

/-- A fault record (R319). -/
structure FaultRec where
  addr : DWord
  pc : DWord
  core : Nat
  kind : Nat
  detail : Byte
  code : Byte
  wait : Option Nat
deriving DecidableEq, Repr, Inhabited

/-- A context's control registers (R314 to R319) and what the device keeps for it. -/
structure Ctx where
  live : Bool
  stop : Bool
  schedExp : Word
  memExp : Word
  circExp : Word
  pxExp : Word
  pxLost : List Word
  ctxQerr : Word
  partWord : Word
  pxQuota : Word
  /-- CIRC_QUOTA.LIMIT (R222); USED is counted from the ring. -/
  circLimit : Nat
  trapVec : DWord
  trapLen : Word
  ptRoot : DWord
  privBase : DWord
  pwBase : DWord
  qdBase : DWord
  saveBase : DWord
  frBase : DWord
  frHead : Word
  frTail : Word
  coreMask : List Word
  privSize : Word
  saveSize : Word
  windows : List Window
  /-- Fault records the device holds because the ring is full (R319). -/
  heldRecs : List FaultRec
  /-- The launch handle counter (R287). -/
  handles : BitVec 16
deriving DecidableEq, Repr, Inhabited

/-- What waits for a page to become resident (R380). -/
inductive FaultWaiter
  | warp (block warp slot : Nat)
  | replay (block : Nat)
  | swap (block : Nat)
  | xfer (id : Nat)
  | dispatch (record : Nat)
deriving DecidableEq, Repr, Inhabited

/-- A wait on a page with P = 0: the address and access, the record posted for it (none while it is held), and
whether FR_HEAD has passed it (R380). -/
structure FaultWait where
  id : Nat
  ctx : Nat
  va : Nat
  write : Bool
  fetch : Bool
  waiter : FaultWaiter
  seq : Option Word
  passed : Bool
  /-- What its fault record names beside the address: word address, core and trap code (R319). -/
  pc : DWord
  core : Nat
  code : Nat
deriving DecidableEq, Repr, Inhabited

/-! ### Dispatch (R84 to R95) -/

/-- A variant table entry (R90). -/
structure Variant where
  swmap : Nat
  sctab : Nat
  entry : Nat
  accl : Nat
  spad : Nat
  nwarp : Nat
  regb : Nat
deriving DecidableEq, Repr, Inhabited

/-- A kernel object's header and variants, as the dispatcher read them (R323). -/
structure KObj where
  constsz : Nat
  constoff : Nat
  privsz : Nat
  tdir : Nat
  vtab : Nat
  codelim : Nat
  codestart : Nat
  ntab : Nat
  klass : Nat
  divdepth : Nat
  idemp : Bool
  variants : List Variant
deriving DecidableEq, Repr, Inhabited

/-- A record that has been popped and whose blocks are being placed or run (R84, R91). -/
structure Record where
  id : Nat
  ctx : Nat
  queue : Nat
  kobj : Nat
  frame : Nat
  first : Nat
  count : Nat
  nbx : Nat
  nby : Nat
  nbz : Nat
  qid : Nat
  cont : Nat
  stage : Nat
  prio : Nat
  next : Nat
  ended : Nat
  /-- The order in which records became ready (R91). -/
  ready : Nat
  obj : Option KObj
  /-- The fault wait that holds it at dispatch (R325). -/
  held : Option Nat
  /-- The device makes room for it, and from this time in ns it may pre-empt a block (R92). -/
  room : Option Nat
  /-- Dies and epochs of the last writes of its warps that have ended (R96). -/
  epochs : List (Nat × Nat)
deriving DecidableEq, Repr, Inhabited

/-- A hardware queue slot's queue: context, queue, and when it was mapped in ns (R89). -/
structure HwSlot where
  ctx : Nat
  queue : Nat
  mapped : Nat
deriving DecidableEq, Repr, Inhabited

/-- A non-empty queue that waits for a slot: since when in ns, and the levels it has aged (R89). -/
structure QueueWait where
  ctx : Nat
  queue : Nat
  since : Nat
  levels : Nat
deriving DecidableEq, Repr, Inhabited

/-! ### Fabric, links and the management unit -/

/-- A Horebry waveguide (R351, R354): home waveguide s has number s, and receive waveguide w of cluster k has number
64 + 16k + w. It holds the station that has its burgee, the flits its stations have queued and those sent, each with its
station and in order, its active wavelengths, when an unfurl began, and since when it has been idle, in ns. -/
structure Waveguide where
  id : Nat
  burgee : Nat
  demand : List (Nat × Nat)
  sent : List (Nat × Nat)
  wavelengths : Nat
  unfurlAt : Option Nat
  idleSince : Nat
deriving DecidableEq, Repr, Inhabited

/-- A station's output buffer (R353): its packets, oldest first, each as the buffers it has still to pass, its reserved
escape slot, and the time in ns at which its head began to wait. -/
structure Buffer where
  id : Nat
  packets : List (List Nat)
  escape : Option (List Nat)
  since : Nat
deriving DecidableEq, Repr, Inhabited

/-- An outstanding request of a slice's port on a base die, with the bytes a write carries (R355, R356). -/
structure PortReq where
  slice : Nat
  stack : Nat
  tag : BitVec 3
  write : Bool
  chan : Nat
  sector : Nat
  mask : DWord
  data : List Byte
deriving DecidableEq, Repr, Inhabited

/-- A queued migration request (R360). -/
structure MigReq where
  ctx : Nat
  va : Nat
  toPool : Bool
deriving DecidableEq, Repr, Inhabited

/-- The device CSRs of bring-up, power, furling and attestation (R379). -/
structure DevCsrs where
  step : Byte
  salv : BitVec 4
  ready : Bool
  bootErr : Byte
  /-- The package flash holds an image that fails step 2 of bring-up, and the bring-up that is under way with the step at which
  it will fail, 0 for none (R374). -/
  badImage : Bool
  booting : Option Nat
  powered : Bool
  pwrCap : Nat
  thermTrip : Nat
  thermThrottle : Nat
  clkStat : List Byte
  furlTime : Nat
  furlEn : Bool
  attDone : Bool
  attBusy : Bool
  attBuf : DWord
  attNonce : List Word
deriving DecidableEq, Repr, Inhabited

/-- Which agent the next meaning acts for. -/
inductive Actor
  | device
  | warp (block warp slot : Nat)
  | bank (chan cx : Nat) (arith : Bool)
deriving DecidableEq, Repr, Inhabited

/-! ### The machine -/

/-- The state of the KX9. -/
structure State where
  /-- The agent whose instruction is being executed. -/
  actor : Actor
  /-- The operands of the event that takes place. -/
  args : List Nat
  /-- What happens next, in order, and the number of free choices and free values drawn so far. -/
  agenda : List Action
  choices : Nat
  drawn : Nat
  /-- Elapsed time in ns and the 64-bit cycle counter of each cluster (R3, R19). -/
  ns : Nat
  cyc : List DWord
  /-- Blocks, cores and contexts. -/
  blocks : List Block
  cores : List Core
  ctxs : List Ctx
  nextId : Nat
  /-- Physical memory past the L2, and the bytes the L2 slices hold dirty (R158, R185). -/
  dram : List Host.Cell
  l2 : List Host.Cell
  /-- Physical ranges that the device has filled with a layout of its own (saved contexts, trap frames, spilled entries: R67,
  R306, R311), each with its base, its size and the number of its first free byte. -/
  filled : List (Nat × Nat × Nat)
  /-- The writes posted to host and peer windows that their link has not acknowledged, oldest first, and the bytes of those
  it has (R359). -/
  posted : List Posted
  hostMem : List Host.Cell
  /-- The accesses and fences performed so far, newest first: the model's own record, over which R192 to R200 are stated. -/
  log : List MemEvent
  /-- TLB entries, oldest first, and the number of 2^20-cycle periods of each compute die's cluster 0 that have been
  harvested (R163). -/
  tlb : List TlbEntry
  harvests : List Nat
  /-- Operations in flight, transfers, wait tables, atomic service queues by cluster (R170, R177, R201, R209). -/
  ops : List Op
  xfers : List Xfer
  waits : List WaitEntry
  service : List (Nat × Nat × Nat)
  /-- The cycle at which each copy engine's queued work ends by its own estimate (R181). -/
  copyEnd : List Nat
  /-- Vector clocks of the twelve dies, and the clock carried by the last write of each sector (R191). -/
  clocks : List (List Nat)
  sectorClock : List (Nat × List Nat)
  /-- Pairs of warps (R154). -/
  offers : List Offer
  pairs : List WarpPair
  /-- The Circular. -/
  ring : Ring
  /-- Proxy homes, requests to them and chunk requests. -/
  homes : List Home
  pxReqs : List PxReq
  chunkReqs : List ChunkReq
  /-- Channels and their bank-side units. -/
  chans : List Chan
  /-- Dispatch: hardware slots, waiting queues, records, deferred pushes as context and record address. -/
  hwslots : List (Option HwSlot)
  qwaits : List QueueWait
  records : List Record
  deferred : List (Nat × Nat × Nat)
  /-- The TAIL of the last QTAIL write to each host-fed queue: context, queue and count (R88). -/
  qtails : List (Nat × Nat × Word)
  /-- The order in which the records in rings became ready: context, queue, ring count and order (R91). -/
  ready : List (Nat × Nat × Word × Nat)
  /-- The place of each such order in the memory log (R325). -/
  readyAt : List (Nat × Nat)
  faultWaits : List FaultWait
  /-- Host interface: MIG_REQ's two words and queue, MIG_STAT.DROPPED, the moves made as context, page, die of the controller
  and cycle (R188), the device accesses of pooled pages as context, page, period of 2^20 cycles and count (R316), HINV and
  HINV_LO (R318), PEER_ROUTE, and the bytes that the last read of the host or of a peer returned. -/
  migReq : DWord
  migQueue : List MigReq
  migDropped : BitVec 16
  migMoves : List (Nat × Nat × Nat × Nat)
  pageHits : List (Nat × Nat × Nat × Nat)
  hinv : Word
  hinvLo : Word
  peerRoute : List Word
  hostReply : List Byte
  /-- Fabric and base-die ports: requests in the order they were sent; a waveguide or buffer that is not listed is as
  bring-up leaves it. -/
  waveguides : List Waveguide
  buffers : List Buffer
  ports : List PortReq
  /-- The data of the last RDRSP packet, and the header of the last packet of a port (R355). -/
  portReply : List Byte
  portHead : BitVec 128
  dev : DevCsrs
deriving DecidableEq, Repr, Inhabited

/-! ### The state after reset -/

/-- A context's registers at reset and at context creation (R314, R316, R317, R222, R263). -/
def Ctx.created : Ctx :=
  { live := false, stop := false
    schedExp := 0x00101400#32, memExp := 0x00140000#32, circExp := 0x00000040#32, pxExp := 4096#32
    pxLost := List.replicate 8 0#32, ctxQerr := 0#32, partWord := 0x00008220#32
    pxQuota := 8192#32, circLimit := 16
    trapVec := 0#64, trapLen := 0#32, ptRoot := 0#64, privBase := 0#64, pwBase := 0#64, qdBase := 0#64
    saveBase := 0#64, frBase := 0#64, frHead := 0#32, frTail := 0#32
    coreMask := List.replicate 8 0#32, privSize := 0#32, saveSize := 0#32
    windows := [], heldRecs := [], handles := 0#16 }

/-- A core with no context (R8, R91). -/
def Core.idle : Core :=
  { ctx := none, part := 0x00008220#32, taken := 0, closed := false, next := none, engErr := none, consts := [], chunks := []
    parks := [], holder := none }

/-- A channel with nothing in it. -/
def Chan.empty : Chan :=
  { cx := List.replicate 4 none, queue := [], turn := 0, marked := [], disturb := [], idle := 0, burst := 0, waiting := none
    due := [] }

/-- The ring as bring-up clears it: rank 0 at the seam, every position free with GEN 0 (R218, R219, R374). -/
def Ring.cleared : Ring :=
  { tick := 0, pos := List.replicate 1280 { gen := 0#5, stitch := none }, marks := [], reqs := [], releases := []
    stopsDone := [], seamDone := false }

/-- The device CSRs after bring-up (R374, R379). -/
def DevCsrs.up : DevCsrs :=
  { step := 0#8, salv := 0#4, ready := true, bootErr := 0#8, badImage := false, booting := none, powered := true, pwrCap := 2600
    thermTrip := 110, thermThrottle := 95, clkStat := List.replicate 4 16#8
    furlTime := 11, furlEn := true, attDone := false, attBusy := false, attBuf := 0#64
    attNonce := List.replicate 8 0#32 }

/-- The machine right after reset: bring-up has ended and READY is set (R374). -/
def State.reset : State :=
  { actor := .device, args := [], agenda := [], choices := 0, drawn := 0
    ns := 0, cyc := List.replicate 32 0#64
    blocks := [], cores := List.replicate 256 Core.idle, ctxs := List.replicate 64 Ctx.created, nextId := 0
    dram := [], l2 := [], filled := [], posted := [], hostMem := [], log := [], tlb := [], harvests := List.replicate 4 0
    ops := [], xfers := [], waits := [], service := [], copyEnd := List.replicate 32 0
    clocks := List.replicate 12 (List.replicate 12 0), sectorClock := []
    offers := [], pairs := [], ring := Ring.cleared
    homes := List.replicate 256 { runs := [], words := [] }, pxReqs := [], chunkReqs := []
    chans := List.replicate 256 Chan.empty
    hwslots := List.replicate 64 none, qwaits := [], records := [], deferred := [], qtails := [], ready := [], readyAt := []
    faultWaits := []
    migReq := 0#64, migQueue := [], migDropped := 0#16, migMoves := [], pageHits := [], hinv := 0#32, hinvLo := 0#32, peerRoute := List.replicate 64 0#32
    hostReply := [], waveguides := [], buffers := [], ports := [], portReply := [], portHead := 0#128, dev := DevCsrs.up }

/-! ### How a step can stop -/

/-- The reasons a step stops with a fault. The manual gives every condition of the device a next state (a trap,
a stop record, a status or a wait), so one reason is left. -/
inductive Fault
  /-- Raised by a step after THERMAL_TRIP has removed power (R376): the device does nothing more until
  POWER_ON_RESET. Safe: the hardware does nothing either. -/
  | unpowered
deriving DecidableEq, Repr

/-- The reasons an instruction has no meaning. -/
inductive Refusal
  /-- Raised by an arm of `exec` whose instruction has not been modelled. Safe: nothing is claimed of it. -/
  | notModelled (mnemonic : String)
deriving DecidableEq, Repr

end Sys2Proof.Machine
end

