-- ==== Sys2Proof/Machine/Arith.lean ====
section
/-!
DEFINITION. The word functions of the integer instructions (R118 to R126), of the packed 16-bit operations (R139, R140),
and of the capable instructions, which a core and a home apply alike (R115, R133, R264).
-/
namespace Sys2Proof.Machine
open Sys2Proof

/-! ### Integers (R118 to R120) -/

/-- A word read as sint32 or uint32 (R118). -/
def rdInt (u : Bool) (w : Word) : Int := if u then (w.toNat : Int) else w.toInt

/-- The low 32 bits of an exact result, clamped first under SAT (R118). -/
def narrow (sat u : Bool) (v : Int) : Word :=
  BitVec.ofInt 32 (if sat then clampInt v (intRange (!u) 32).1 (intRange (!u) 32).2 else v)

/-- IADD (R118). -/
def iaddW (sat u : Bool) (a b : Word) : Word := narrow sat u (rdInt u a + rdInt u b)
/-- ISUB (R118). -/
def isubW (sat u : Bool) (a b : Word) : Word := narrow sat u (rdInt u a - rdInt u b)
/-- IMUL (R118). -/
def imulW (a b : Word) : Word := narrow false false (a.toInt * b.toInt)
/-- IMULH (R118). -/
def imulhW (u : Bool) (a b : Word) : Word := narrow false u (rdInt u a * rdInt u b / (2 ^ 32 : Nat))
/-- IMAD (R118). -/
def imadW (a b c : Word) : Word := narrow false false (a.toInt * b.toInt + c.toInt)
/-- IMIN (R118). -/
def iminW (u : Bool) (a b : Word) : Word := narrow false u (min (rdInt u a) (rdInt u b))
/-- IMAX (R118). -/
def imaxW (u : Bool) (a b : Word) : Word := narrow false u (max (rdInt u a) (rdInt u b))
/-- IABS (R120). -/
def iabsW (sat : Bool) (a : Word) : Word := narrow sat false a.toInt.natAbs

/-- IMADW: the 64-bit product and sum (R119). -/
def imadwW (u : Bool) (a b : Word) (c : Nat) : DWord := BitVec.ofInt 64 (rdInt u a * rdInt u b + c)

/-- ITEST (R121). -/
def itestW (cmp : BitVec 3) (u : Bool) (a b : Word) : Bool :=
  let x := rdInt u a
  let y := rdInt u b
  match cmp.toNat with
  | 0 => decide (x = y)
  | 1 => decide (x ≠ y)
  | 2 => decide (x < y)
  | 3 => decide (x ≤ y)
  | 4 => decide (y < x)
  | _ => decide (y ≤ x)

/-! ### Logic, shifts and bit fields (R123 to R126) -/

/-- One bit of a truth table (R123). -/
def lutBit (lut : BitVec 8) (a b c : Bool) : Bool :=
  lut.getLsbD ((if a then 1 else 0) + (if b then 2 else 0) + (if c then 4 else 0))

/-- BLUT (R123): the terms of the table whose bit is set. -/
def blutW (lut : BitVec 8) (a b c : Word) : Word :=
  (List.range 8).foldl (fun acc i =>
    if lut.getLsbD i then
      acc ||| ((if i.testBit 0 then a else ~~~a) &&& (if i.testBit 1 then b else ~~~b) &&& (if i.testBit 2 then c else ~~~c))
    else acc) 0#32

/-- The table of BLUT and PLOP: SUB[2:0] and MOD[4:0] (R116). -/
def lutOf (hi : BitVec 3) (m : BitVec 6) : BitVec 8 := hi ++ m.extractLsb' 0 5

/-- SHL (R124). -/
def shlW (a b : Word) : Word := if b.toNat ≥ 32 then 0#32 else a <<< b.toNat
/-- SHR and SHR.S (R124). -/
def shrW (s : Bool) (a b : Word) : Word :=
  if s then a.sshiftRight (min b.toNat 32) else if b.toNat ≥ 32 then 0#32 else a >>> b.toNat
/-- SHF (R124). -/
def shfW (l : Bool) (a b c : Word) : Word :=
  let w : DWord := b ++ a
  let n := c.toNat % 32
  if l then (w <<< n).extractLsb' 32 32 else (w >>> n).extractLsb' 0 32
/-- POPC (R125). -/
def popcW (a : Word) : Word := w32 ((List.range 32).filter fun i => a.getLsbD i).length
/-- CLZ (R125). -/
def clzW (a : Word) : Word := w32 (32 - bitLen a.toNat)
/-- BREV (R125). -/
def brevW (a : Word) : Word := a.reverse
/-- BFE (R125): `u` reads positions past bit 31 as 0 and zero-extends. -/
def bfeW (u : Bool) (a : Word) (pos len : Nat) : Word :=
  let n := min len 32
  let f : Int := rdInt u a / (2 ^ pos : Nat) % (2 ^ n : Nat)
  BitVec.ofInt 32 (if u then f else sextInt f.toNat n)
/-- BFI (R125). -/
def bfiW (a b c : Word) : Word :=
  let pos := bits c 7 0
  let len := bits c 15 8
  let m : Word := BitVec.ofNat 32 ((2 ^ len - 1) * 2 ^ pos)
  (b &&& ~~~m) ||| (BitVec.ofNat 32 (a.toNat * 2 ^ pos) &&& m)
/-- LEA (R126). -/
def leaW (s : Nat) (a b : Word) : Word := a + b <<< s

/-! ### Packed 16-bit operations (R139, R140) -/

/-- The 16-bit format of a BF bit (R139). -/
def halfFmt (bf : Bool) : FloatFmt := if bf then .bf16 else .fp16

/-- A function of 16-bit elements on each half of a word. -/
def halves (f : Nat → Nat) : Word := w32 (f 0 % 2 ^ 16 + f 1 % 2 ^ 16 * 2 ^ 16)

/-- HADD2 (R139). -/
def hadd2W (bf : Bool) (m : BitVec 6) (a b : Word) : Word :=
  halves fun i => fAdd (halfFmt bf) m (elem 16 a i) (elem 16 b i)
/-- HMUL2 (R139). -/
def hmul2W (bf : Bool) (m : BitVec 6) (a b : Word) : Word :=
  halves fun i => fMul (halfFmt bf) m (elem 16 a i) (elem 16 b i)
/-- HFMA2 (R139). -/
def hfma2W (bf : Bool) (m : BitVec 6) (a b c : Word) : Word :=
  halves fun i => fFma (halfFmt bf) m (elem 16 a i) (elem 16 b i) (elem 16 c i)
/-- FDOT2 (R140). -/
def fdot2W (bf : Bool) (m : BitVec 6) (a b c : Word) : Word :=
  let z := m.getLsbD 2
  let f := halfFmt bf
  let term (i : Nat) : FVal × FVal := (f.read z (elem 16 a i), f.read z (elem 16 b i))
  w32 (dot .fp32 (FloatFmt.fp32.read z c.toNat) [term 0, term 1] (Rnd.ofBits m.toNat) z (m.getLsbD 3))

/-! ### The fixed tree (R153, R279) -/

/-- Neighbours combined two by two. -/
def pairUp {α : Type} (f : α → α → α) : List α → List α
  | a :: b :: t => f a b :: pairUp f t
  | l => l

/-- A list reduced by a balanced tree, neighbours first; `fuel` counts the levels. -/
def treeFold {α : Type} (f : α → α → α) : Nat → List α → Option α
  | 0, l => l.head?
  | n + 1, l => treeFold f n (pairUp f l)

/-! ### Capable functions (R115, R133, R264) -/

/-- The elements of a proxy format in one word, as values (R259, R278). -/
def pxElems (fmt : Nat) (w : Word) : List FVal :=
  let f : Fmt := match fmt with
    | 0 => .flt .fp32 | 1 => .flt .fp16 | 2 => .flt .bf16 | 3 => .flt .e4m3 | 4 => .flt .e5m2 | 5 => .flt .e2m1
    | 7 => .int true 8 | _ => .int false 8
  (List.range (32 / f.width)).map fun i => f.read false (elem f.width w i)

/-- The integer elements of a word (R278). -/
def pxInts (fmt : Nat) (w : Word) : List Int := (List.range 4).map fun i => intVal (fmt == 7) 8 (elem 8 w i)

/-- PDOT over the words of two runs (R278). -/
def pdotW (fmt : Nat) (m : BitVec 6) (a b : List Word) (c : Word) : Word :=
  if fmt = 7 ∨ fmt = 9 then
    BitVec.ofInt 32 (c.toInt + (((a.flatMap (pxInts fmt)).zip (b.flatMap (pxInts fmt))).map fun (x : Int × Int) => x.1 * x.2).sum)
  else
    w32 (dot .fp32 (FloatFmt.fp32.val c.toNat) ((a.flatMap (pxElems fmt)).zip (b.flatMap (pxElems fmt)))
      (Rnd.ofBits m.toNat) false (m.getLsbD 3))

/-- The word function of PRED (R279). -/
def predFn (op : PredOp) (u : Bool) (a b : Word) : Word :=
  match op with
  | .add => a + b
  | .min => iminW u a b
  | .max => imaxW u a b
  | .fadd => w32 (fAdd .fp32 0#6 a.toNat b.toNat)
  | .fmin => w32 (fMinMax false false false a.toNat b.toNat)
  | .fmax => w32 (fMinMax true false false a.toNat b.toNat)

/-- A bit as a word. -/
def boolW (b : Bool) : Word := if b then 1#32 else 0#32

/-- A capable function on one word of each source (R264): missing sources read 0. -/
def HomeFn.word (fn : HomeFn) (a b c : Word) : Word :=
  match fn with
  | .iadd sat u => iaddW sat u a b
  | .isub sat u => isubW sat u a b
  | .imul => imulW a b
  | .imad => imadW a b c
  | .imin u => iminW u a b
  | .imax u => imaxW u a b
  | .blut lut => blutW lut a b c
  | .shl => shlW a b
  | .shr s => shrW s a b
  | .itest cmp u => boolW (itestW cmp u a b)
  | .fadd m => w32 (fAdd .fp32 m a.toNat b.toNat)
  | .fmul m => w32 (fMul .fp32 m a.toNat b.toNat)
  | .ffma m => w32 (fFma .fp32 m a.toNat b.toNat c.toNat)
  | .fmin m => w32 (fMinMax false (m.getLsbD 2) (m.getLsbD 4) a.toNat b.toNat)
  | .fmax m => w32 (fMinMax true (m.getLsbD 2) (m.getLsbD 4) a.toNat b.toNat)
  | .fsetp cmp m => boolW (fSetp cmp (m.getLsbD 2) a.toNat b.toNat)
  | .cvt imm m => cvtWord imm m a
  | .pdot fmt m => pdotW fmt m [a] [b] c
  | .pred _ _ => a

/-- The words of a result run from the words of its sources; a source of one word is broadcast (R264). PDOT and PRED
reduce to one word (R278, R279). -/
def HomeFn.run (fn : HomeFn) (n : Nat) (srcs : List (List Word)) : List Word :=
  let at_ (k i : Nat) : Word :=
    let s := nth [] srcs k
    if s.length ≤ 1 then nth 0#32 s 0 else nth 0#32 s i
  match fn with
  | .pdot fmt m => [pdotW fmt m (nth [] srcs 0) (nth [] srcs 1) (at_ 2 0)]
  | .pred op u => [((treeFold (predFn op u) 8 (nth [] srcs 0)).getD 0#32)]
  | fn => (List.range n).map fun i => fn.word (at_ 0 i) (at_ 1 i) (at_ 2 i)

end Sys2Proof.Machine
end

