-- ==== Sys2Proof/Machine/Log.lean ====
section
/-!
DEFINITION. The memory model (R11, R190 to R200) over the log of the accesses and fences performed so far, rule by rule: which
agents a scope contains, what a fence orders, release sequences, when two fences synchronise, what happens before what, and
which points of its bytes' coherence orders a read may return.
-/
namespace Sys2Proof.Machine
open Sys2Proof

/-! ### Places and tags -/

/-- Distinct elements, first occurrences first. -/
def distinct {α : Type} [DecidableEq α] : List α → List α
  | [] => []
  | x :: xs => x :: (distinct xs).filter (· ≠ x)

/-- The cluster of a core. -/
def clusterOf (core : Nat) : Nat := core / 8
/-- The compute die of a core. -/
def dieOf (core : Nat) : Nat := core / 64
/-- The tag of an access of the device's own units. -/
def MemTag.device : MemTag := { agent := .device, core := 0, po := 0, scope := none, rmw := false, store := false }

/-- The tag of an access of the host or of a peer. -/
def MemTag.host : MemTag := { MemTag.device with agent := .host }

/-- The tag of a warp's access at its place in program order. -/
def MemTag.warp (b wi core po : Nat) : MemTag :=
  { agent := .warp b wi, core := core, po := po, scope := none, rmw := false, store := false }

/-- An event with nothing in it but its tag. -/
def MemEvent.of (t : MemTag) : MemEvent :=
  { time := 0, tag := t, fence := none, reads := [], writes := [], arrived := none, joins := [], flip := none }

/-- The event writes this byte. -/
def MemEvent.hits (e : MemEvent) (x : Nat) : Bool := e.writes.any fun w => w.1 == x

/-- The time of the last write to a byte up to a time; 0 for the initial value. -/
def lastWrite (log : List MemEvent) (t x : Nat) : Nat :=
  match log.find? fun e => decide (e.time ≤ t) && e.hits x with
  | some e => e.time
  | none => 0

/-! ### Scopes (R11) -/

/-- The code of the narrowest scope that can contain an agent of this kind (R11, R203). -/
def Agent.level : Agent → Nat
  | .warp _ _ => 0
  | .gather _ => 1
  | .copy _ => 2
  | .bank _ => 4
  | .device => 4
  | .record _ => 4
  | .host => 5

/-- Two warps of one block. -/
def Agent.sameBlock : Agent → Agent → Bool
  | .warp x _, .warp y _ => x == y
  | _, _ => false

/-- The agent of `b` lies within a scope of the agent of `a`: block, core, cluster, die, device, system (R11). -/
def inScope (scope : Nat) (a b : MemTag) : Bool :=
  a.agent.sameBlock b.agent || (decide (b.agent.level ≤ scope) &&
    (match scope with
     | 0 => false
     | 1 => a.core == b.core
     | 2 => clusterOf a.core == clusterOf b.core
     | 3 => dieOf a.core == dieOf b.core
     | _ => true))

/-! ### Fences, release sequences and happens-before (R195 to R198) -/

/-- An event that reads or writes. -/
def MemEvent.access (e : MemEvent) : Bool := !e.reads.isEmpty || !e.writes.isEmpty

/-- An atomic, or an access that writes (R195). -/
def MemEvent.writing (e : MemEvent) : Bool := e.tag.rmw || !e.writes.isEmpty

/-- An atomic, or an access that reads (R195). -/
def MemEvent.reading (e : MemEvent) : Bool := e.tag.rmw || !e.reads.isEmpty

/-- What a kind of fence orders: an access before it, an access after it (R195). -/
def fenceOrders (k : FenceKind) (x y : MemEvent) : Bool :=
  match k with
  | .acq => x.reading
  | .rel => y.writing
  | .ar => true

/-- One event comes before another in the program order of their agent (R190). -/
def MemEvent.programBefore (x y : MemEvent) : Bool := x.tag.agent == y.tag.agent && decide (x.tag.po < y.tag.po)

/-- X is fence-ordered before Y (R195). -/
def fenceOrdered (log : List MemEvent) (x y : MemEvent) : Bool :=
  log.any fun f =>
    match f.fence with
    | some (k, _) => x.programBefore f && f.programBefore y && fenceOrders k x y
    | none => false

/-- The heads of the release sequences that the write of a byte at a time belongs to (R196): the write itself, and, when it
is a read-modify-write, those of the write just before it. -/
def releaseHeads (log : List MemEvent) (x : Nat) : Nat → Nat → List Nat
  | 0, _ => []
  | fuel + 1, t =>
    match log.find? fun e => e.time == t && e.hits x with
    | none => []
    | some e => t :: (if e.tag.rmw then releaseHeads log x fuel (lastWrite log (t - 1) x) else [])

/-- The scope of an atomic contains another agent; a plain access carries no scope (R197). -/
def MemEvent.reaches (e : MemEvent) (t : MemTag) : Bool :=
  match e.tag.scope with
  | some sc => inScope sc e.tag t
  | none => true

/-- A read that precedes G returned a write of a release sequence headed by a write that follows F, and the atomics among
the two reach the other agent (R197, conditions 1, 2 and 4). -/
def handsOver (log : List MemEvent) (f g : MemEvent) : Bool :=
  log.any fun q => q.programBefore g && q.reaches f.tag && q.reads.any fun r =>
    (releaseHeads log r.1 (log.length + 1) r.2).any fun h =>
      log.any fun w => w.time == h && f.programBefore w && w.reaches g.tag

/-- A release fence synchronises with an acquire fence (R197). -/
def synchronises (log : List MemEvent) (f g : MemEvent) : Bool :=
  match f.fence, g.fence with
  | some (kf, sf), some (kg, sg) =>
    kf != .acq && kg != .rel && inScope sf f.tag g.tag && inScope sg g.tag f.tag && handsOver log f g
  | _, _ => false

/-- A read that precedes F returned the write V, and V's agent lies within G's scope (R198). -/
def passesOn (log : List MemEvent) (f g v : MemEvent) : Bool :=
  match g.fence with
  | some (_, sg) =>
    inScope sg g.tag v.tag && log.any fun r => r.programBefore f && r.reads.any fun x => x.2 == v.time
  | none => false

/-- X comes before each access that follows G, for a release fence that G synchronises with (R198). -/
def acquired (log : List MemEvent) (g x : MemEvent) : Bool :=
  log.any fun f => synchronises log f g && (x.programBefore f || passesOn log f g x)

/-- An earlier event of Y's agent carries X: an arrival that it observed, or a start (R96, R176, R299). -/
def joined (log : List MemEvent) (x y : MemEvent) : Bool := log.any fun e => e.programBefore y && e.joins.contains x.time

/-- The event reads or writes a byte of a range. -/
def MemEvent.meets (e : MemEvent) (base n : Nat) : Bool :=
  (e.reads.map (·.1) ++ e.writes.map (·.1)).any fun x => decide (base ≤ x) && decide (x < base + n)

/-- Y is an access of the side that a flip made visible, and X a store that the publishing warp issued before it or an engine
write whose arrival it had observed (R184). -/
def flipped (log : List MemEvent) (x y : MemEvent) : Bool :=
  log.any fun f =>
    match f.flip with
    | some (base, n) => decide (f.time < y.time) && y.meets base n && ((x.programBefore f && x.writing) || joined log x f)
    | none => false

/-- One step of happens-before (R198): fence order, the store order of R193, a synchronised pair of fences, what an
observed arrival or a start carries, and a flip. -/
def hbStep (log : List MemEvent) (x y : MemEvent) : Bool :=
  x.access && (fenceOrdered log x y
    || (x.tag.store && y.tag.store && x.tag.agent == y.tag.agent && decide (x.time < y.time))
    || (log.any fun g => g.programBefore y && acquired log g x)
    || joined log x y || flipped log x y)

/-- Every event that happens before one of these, with these (R198): the smallest set that its steps close. -/
def hbClosure (log : List MemEvent) : Nat → List MemEvent → List MemEvent
  | 0, ys => ys
  | fuel + 1, ys =>
    let new := log.filter fun x => !(ys.any fun y => y.time == x.time) && ys.any (hbStep log x)
    if new.isEmpty then ys else hbClosure log fuel (new ++ ys)

/-- The write W hands X on at device scope: it is the decrement of a record whose block made X, or a release fence of device
scope that orders X comes before it (R96, R197). -/
def handsOn (log : List MemEvent) (w x : MemEvent) : Bool :=
  (match w.tag.agent with | .record _ => joined log x w | _ => false) || log.any fun f =>
    match f.fence with
    | some (k, sc) =>
      k != .acq && decide (4 ≤ sc) && f.programBefore w
        && (x.programBefore f || passesOn log f { MemEvent.of MemTag.device with fence := some (.acq, 4) } x)
    | none => false

/-- The times of the accesses that an acquire of device scope comes after, once it follows a read of the word at a place: the
release sequence of its last write hands them on (R96). -/
def handedOn (log : List MemEvent) (x t : Nat) : List Nat :=
  let heads := releaseHeads log x (log.length + 1) (lastWrite log t x)
  let ws := log.filter fun w => heads.contains w.time
  (log.filter fun e => e.access && ws.any fun w => handsOn log w e).map (·.time)

/-- X happens before Y (R198). -/
def happensBefore (log : List MemEvent) (x y : MemEvent) : Bool :=
  x.time != y.time && (hbClosure log (log.length + 1) [y]).any fun e => e.time == x.time

/-! ### What a read may return (R192, R198) -/

/-- A read of these bytes may return them as they stood at a time: no write that comes before it, in its agent's program
order or by happens-before, is later; it returns no earlier write than an earlier read of its agent did, and no later one
than a later read did; and no write that comes after it is as early (R192, R198). -/
def mayReturn (log : List MemEvent) (q : MemEvent) (pas : List Nat) (t : Nat) : Bool :=
  let all := q :: log
  log.all fun e =>
    (!decide (t < e.time) || pas.all fun x => !(e.hits x && (e.programBefore q || happensBefore all e q)))
      && (!e.programBefore q || e.reads.all fun r => !pas.contains r.1 || decide (r.2 ≤ t))
      && (!q.programBefore e || e.reads.all fun r => !pas.contains r.1 || decide (lastWrite log t r.1 ≤ r.2))
      && (!decide (e.time ≤ t) || pas.all fun x => !(e.hits x && (q.programBefore e || happensBefore all q e)))

end Sys2Proof.Machine
end

