-- ==== Sys2Proof/Machine/Ops.lean ====
section
/-!
DEFINITION. The named operations over the machine: sparse memories, physical memory and the L2, translation, the
paths of a warp, references to proxies, the end of a warp and of a block, and taking a trap. Meanings and events
are written over these.
-/
namespace Sys2Proof.Machine
open Sys2Proof

/-! ### Sparse maps in canonical form -/

/-- What a sparse map reads at a key: `d` where it lists nothing. -/
def cellGet {α : Type} (d : α) : List (Nat × α) → Nat → α
  | [], _ => d
  | (a, v) :: t, k => if a = k then v else cellGet d t k

/-- A sparse map with one key set: keys stay strictly rising, and the value `d` is not listed. -/
def cellPut {α : Type} [DecidableEq α] (d : α) : List (Nat × α) → Nat → α → List (Nat × α)
  | [], k, v => if v = d then [] else [(k, v)]
  | (a, u) :: t, k, v =>
    if k < a then (if v = d then (a, u) :: t else (k, v) :: (a, u) :: t)
    else if k = a then (if v = d then t else (k, v) :: t)
    else (a, u) :: cellPut d t k v

/-- Keys rise strictly above `lo` and no entry holds `d`. -/
def cellWfFrom {α : Type} [DecidableEq α] (d : α) (lo : Option Nat) : List (Nat × α) → Bool
  | [] => true
  | (a, v) :: t => (match lo with | none => true | some l => decide (l < a)) && decide (v ≠ d) && cellWfFrom d (some a) t

/-- The canonical form of a sparse map. -/
def cellWf {α : Type} [DecidableEq α] (d : α) (m : List (Nat × α)) : Bool := cellWfFrom d none m

/-- What a byte of HBM or of the pooled tier that nothing has written reads as (DESIGN CHOICE, log entry 1). -/
def unwritten : Byte := 0#8

/-- A memory is in canonical form: addresses strictly rising, no byte equal to what an unlisted address reads as. -/
def Memory.wf (m : List Host.Cell) : Bool := cellWf unwritten m

/-- The byte of a memory at an address. -/
def Memory.read (m : List Host.Cell) (a : Nat) : Byte := cellGet unwritten m a

/-- A memory with one byte written. -/
def Memory.write (m : List Host.Cell) (a : Nat) (b : Byte) : List Host.Cell := cellPut unwritten m a b

/-- The byte an overlay holds at an address, if it lists it. -/
def overGet : List Host.Cell → Nat → Option Byte
  | [], _ => none
  | (a, v) :: t, k => if a = k then some v else overGet t k

/-- An overlay with one byte listed: addresses stay strictly rising. -/
def overPut : List Host.Cell → Nat → Byte → List Host.Cell
  | [], k, v => [(k, v)]
  | (a, u) :: t, k, v =>
    if k < a then (k, v) :: (a, u) :: t
    else if k = a then (k, v) :: t
    else (a, u) :: overPut t k v

/-- Addresses of an overlay rise strictly. -/
def overWfFrom (lo : Option Nat) : List Host.Cell → Bool
  | [] => true
  | (a, _) :: t => (match lo with | none => true | some l => decide (l < a)) && overWfFrom (some a) t

/-- The canonical form of an overlay. -/
def overWf (m : List Host.Cell) : Bool := overWfFrom none m

/-- Bytes written one after another from an address. -/
def Memory.writeList (m : List Host.Cell) (a : Nat) : List Byte → List Host.Cell
  | [] => m
  | b :: bs => Memory.writeList (Memory.write m a b) (a + 1) bs

/-- `n` bytes from an address. -/
def Memory.readList (m : List Host.Cell) (a n : Nat) : List Byte := (List.range n).map fun i => Memory.read m (a + i)

/-- Little-endian: the number whose lowest byte comes first (R1). -/
def leNat : List Byte → Nat
  | [] => 0
  | b :: bs => b.toNat + 256 * leNat bs

/-- The `n` low bytes of a number, lowest first (R1). -/
def leBytes (n x : Nat) : List Byte := (List.range n).map fun i => BitVec.ofNat 8 (x >>> (8 * i))

/-! ### Places and numbers (R7) -/

/-- The stop of a core lies this many ranks from the seam (R218). -/
def stopOf (core : Nat) : Nat := 5 * core / 4

/-- The device channel that holds a physical address (R161). -/
def channelOf (pa : Nat) : Nat :=
  let g := pa >>> 12
  ((g % 256) ^^^ ((g >>> 8) % 256) ^^^ ((g >>> 16) % 256) ^^^ ((g >>> 24) % 8)) % 256

/-- The byte offset of a physical address within its channel (R161). -/
def channelOffset (pa : Nat) : Nat := ((pa >>> 12) >>> 8) * 4096 + pa % 4096

/-- The home L2 slice of a physical address (R161). -/
def sliceOf (pa : Nat) : Nat := channelOf pa % 64

/-- The cluster whose service warp performs atomics on a physical address (R201). -/
def atomicOwner (pa : Nat) : Nat :=
  (List.range 8).foldl (fun acc i => acc ^^^ (((pa >>> 12) >>> (5 * i)) % 32)) 0

/-- HBM4E (R160). -/
def inHbm (pa : Nat) : Bool := pa < 2 ^ 39
/-- The pooled tier (R160). -/
def inPool (pa : Nat) : Bool := 2 ^ 48 ≤ pa && pa < 2 ^ 48 + 2 ^ 44
/-- Host and peer windows (R160). -/
def inWindow (pa : Nat) : Bool := 2 ^ 51 ≤ pa && pa < 2 ^ 52

/-- Physical address of an offset of a device channel (R161). -/
def channelAddr (chan off : Nat) : Nat :=
  let h := off / 4096
  (h * 256 + (chan ^^^ (h % 256) ^^^ ((h >>> 8) % 256) ^^^ ((h >>> 16) % 8))) * 4096 + off % 4096

/-- Physical address of a request's 64 bytes. -/
def sectorAddr (stack chan sector : Nat) : Nat := channelAddr (32 * stack + chan) (64 * sector)

/-! ### Parts of the state -/

/-- An event's n-th operand. -/
def State.arg (s : State) (n : Nat) : Nat := nth 0 s.args n

/-- The lanes of a mask, ascending. -/
def lanesOf (m : Mask) : List Nat := (List.range 32).filter fun l => m.getLsbD l

/-- The mask of a list of lanes. -/
def maskOf (ls : List Nat) : Mask := ls.foldl (fun m l => m ||| BitVec.twoPow 32 l) 0#32

/-- The block of an identity. -/
def State.block? (s : State) (b : Nat) : Option Block := s.blocks.find? fun x => x.id == b

/-- The state with one block replaced. -/
def State.setBlock (s : State) (b : Block) : State :=
  { s with blocks := s.blocks.map fun x => if x.id = b.id then b else x }

/-- The registers of a context. -/
def State.ctx (s : State) (c : Nat) : Ctx := nth Ctx.created s.ctxs c

/-- The state with a context's registers replaced. -/
def State.setCtx (s : State) (c : Nat) (x : Ctx) : State := { s with ctxs := setNth s.ctxs c x }

/-- A core. -/
def State.core (s : State) (c : Nat) : Core := nth Core.idle s.cores c

/-- The state with a core replaced. -/
def State.setCore (s : State) (c : Nat) (x : Core) : State := { s with cores := setNth s.cores c x }

/-- A cluster's cycle counter as a number. -/
def State.cycle (s : State) (cluster : Nat) : Nat := (nth 0#64 s.cyc cluster).toNat

/-- A popped record. -/
def State.record? (s : State) (r : Nat) : Option Record := s.records.find? fun x => x.id == r

/-- The state with one record replaced. -/
def State.setRecord (s : State) (r : Record) : State :=
  { s with records := s.records.map fun x => if x.id = r.id then r else x }

/-- A home's proxy store. -/
def State.home (s : State) (h : Nat) : Home := nth { runs := [], words := [] } s.homes h

/-- The state with a home replaced. -/
def State.setHome (s : State) (h : Nat) (x : Home) : State := { s with homes := setNth s.homes h x }

/-- A channel. -/
def State.chan (s : State) (c : Nat) : Chan := nth Chan.empty s.chans c

/-- The state with a channel replaced. -/
def State.setChan (s : State) (c : Nat) (x : Chan) : State := { s with chans := setNth s.chans c x }

/-- An element put into a sorted list, before the first that it does not come after. -/
def insertBy {α : Type} (before : α → α → Bool) (x : α) : List α → List α
  | [] => [x]
  | y :: ys => if before x y then x :: y :: ys else y :: insertBy before x ys

/-- A list sorted; elements that a test puts level keep their order. -/
def sortBy {α : Type} (before : α → α → Bool) : List α → List α
  | [] => []
  | x :: xs => insertBy before x (sortBy before xs)

/-- A fresh identity and the state that has given it. -/
def State.fresh (s : State) : Nat × State := (s.nextId, { s with nextId := s.nextId + 1 })

/-- A free word and the state that has drawn it (log entry 10). -/
def State.draw (s : State) : Word × State := (Config.freeWord s.drawn, { s with drawn := s.drawn + 1 })

/-- A block's core, when it is resident. -/
def Block.core? (b : Block) : Option Nat := match b.loc with | .core c => some c | _ => none

/-- The kernel object of a block's record. -/
def State.kobj (s : State) (b : Block) : Option KObj := (s.record? b.record).bind (·.obj)

/-- The variant a block runs. -/
def State.variantOf (s : State) (b : Block) : Option Variant := (s.kobj b).bind fun k => k.variants[b.variant]?

/-- Bytes of a block's scratchpad: SPAD × 4 KiB (R90). -/
def State.spadSize (s : State) (b : Block) : Nat := match s.variantOf b with | some v => v.spad * 4096 | none => 0

/-- Accumulator lines of a block: ACCL × 32 (R90). -/
def State.accLines (s : State) (b : Block) : Nat := match s.variantOf b with | some v => v.accl * 32 | none => 0

/-- The path of a slot. -/
def Warp.path (w : Warp) (slot : Nat) : Option Path := if slot = 0 then w.path0 else w.path1

/-- The warp with a slot's path replaced. -/
def Warp.setPath (w : Warp) (slot : Nat) (p : Option Path) : Warp :=
  if slot = 0 then { w with path0 := p } else { w with path1 := p }

/-- The state with a warp of a block replaced. -/
def State.setWarp (s : State) (b : Block) (wi : Nat) (w : Warp) : State :=
  s.setBlock { b with warps := setNth b.warps wi w }

/-- The warp of a block, by the block's identity and the warp's index. -/
def State.warp? (s : State) (b wi : Nat) : Option (Block × Warp) :=
  (s.block? b).bind fun blk => blk.warps[wi]?.map fun w => (blk, w)

/-- The state with a warp updated in place, where it exists. -/
def State.updWarp (s : State) (b wi : Nat) (f : Warp → Warp) : State :=
  match s.warp? b wi with
  | some (blk, w) => s.setWarp blk wi (f w)
  | none => s

/-- Sets what the path of a slot waits for. -/
def Warp.setWait (w : Warp) (slot : Nat) (x : Wait) : Warp :=
  match w.path slot with
  | some p => w.setPath slot (some { p with wait := x })
  | none => w

/-! ### The record of the memory model (R190 to R192) -/

/-- The time of the newest event of the log; 0 before the first. -/
def State.memTime (s : State) : Nat := match s.log with | [] => 0 | e :: _ => e.time

/-- An event joins the log as its newest. -/
def State.note (s : State) (e : MemEvent) : State := { s with log := { e with time := s.memTime + 1 } :: s.log }

/-- The place of a byte of a block's scratchpad among the places of the log (R191). -/
def spadPlace (b x : Nat) : Nat := 2 ^ 64 * (b + 1) + x

/-! ### Physical memory -/

/-- A bank context that is running keeps its region's granules of its channel out of the L2 (R299). -/
def BankCtx.holds (b : BankCtx) (pa : Nat) : Bool :=
  (b.state == .running || b.state == .stepped || b.state == .stopped)
    && b.launch.region.any fun base => decide (base ≤ pa) && decide (pa < base + 2 ^ 21)

/-- An access to this address is applied at the channel, not in the L2 (R299). -/
def State.uncached (s : State) (pa : Nat) : Bool :=
  (s.chan (channelOf pa)).cx.any fun c => match c with | some b => b.holds pa | none => false

/-- The range that holds an address among those the device has filled. -/
def State.fillOf (s : State) (pa : Nat) : Option (Nat × Nat × Nat) :=
  s.filled.find? fun r => decide (r.1 ≤ pa) && decide (pa < r.1 + r.2.1)

/-- The byte at a physical address of HBM or the pooled tier, as its home slice holds it (R170, R191): a free byte where the
device keeps a layout of its own. -/
def State.readByte (s : State) (pa : Nat) : Byte :=
  match s.fillOf pa with
  | some (b, _, k) => Config.freeByte (k + (pa - b))
  | none =>
    match overGet s.l2 pa with
    | some b => b
    | none => Memory.read s.dram pa

/-- The filled ranges without one byte. -/
def cutByte (pa : Nat) (rs : List (Nat × Nat × Nat)) : List (Nat × Nat × Nat) :=
  rs.flatMap fun r =>
    if r.1 ≤ pa ∧ pa < r.1 + r.2.1 then
      [(r.1, pa - r.1, r.2.2), (pa + 1, r.1 + r.2.1 - pa - 1, r.2.2 + (pa + 1 - r.1))].filter fun x => x.2.1 != 0
    else [r]

/-- The route of the peer whose window holds an address (R359, R361); the host window has none. -/
def State.routeOf (s : State) (pa : Nat) : Word :=
  if pa < 2 ^ 51 + 2 ^ 50 then 0#32 else nth 0#32 s.peerRoute ((pa - (2 ^ 51 + 2 ^ 50)) / 2 ^ 44)

/-- The peer whose window holds an address (R359). -/
def peerOf (pa : Nat) : Option Nat :=
  if inWindow pa && decide (2 ^ 51 + 2 ^ 50 ≤ pa) then some ((pa - (2 ^ 51 + 2 ^ 50)) / 2 ^ 44) else none

/-- The device fills a physical range with a layout of its own, which the L2 holds dirty; over the link of a window it posts the
bytes (R67, R306, R311, R359). -/
def State.fillRange (s : State) (pa n : Nat) : State :=
  if inWindow pa then
    { s with posted := s.posted ++ (List.range n).filterMap fun i =>
               if inWindow (pa + i) then
                 some { pa := pa + i, val := Config.freeByte (s.drawn + i), agent := .device, route := s.routeOf (pa + i) } else none
             drawn := s.drawn + n }
  else
    { s with filled := (pa, n, s.drawn) :: s.filled.filter (fun r => !(decide (pa ≤ r.1) && decide (r.1 + r.2.1 ≤ pa + n)))
             l2 := s.l2.filter (fun c => !(decide (pa ≤ c.1) && decide (c.1 < pa + n)))
             drawn := s.drawn + n }

/-- The routes, as they stand, of the peers whose windows hold these bytes (R361). -/
def State.routesOf (s : State) (pas : List Nat) : List (Nat × Word) :=
  (distinct (pas.filterMap peerOf)).map fun n => (n, nth 0#32 s.peerRoute n)

/-- The physical bytes that an operation writes. -/
def OpKind.written : OpKind → List Nat
  | .store ps => ps.flatMap fun p => p.2.map (·.1)
  | .atomic _ _ size reqs _ _ => reqs.flatMap fun r => r.2.flatMap fun x => (List.range size).map (x.pa + ·)
  | .jdec _ pa _ => (List.range 4).map (pa + 12 + ·)
  | _ => []

/-- The route that a write of a byte takes: the one its operation issued with, or the one that stands (R361). -/
def State.routeFor (s : State) (pa : Nat) (routes : List (Nat × Word)) : Word :=
  match (peerOf pa).bind fun n => routes.find? fun r => r.1 == n with
  | some r => r.2
  | none => s.routeOf pa

/-- A write applied at a byte's home slice (R191), or posted to its window's link on its route (R359, R361). -/
def State.writeByte (s : State) (pa : Nat) (b : Byte) (agent : Agent := .device) (routes : List (Nat × Word) := [])
    (po : Nat := 0) : State :=
  if inWindow pa then
    { s with posted := s.posted ++ [{ pa := pa, val := b, agent := agent, route := s.routeFor pa routes, po := po }] }
  else if s.uncached pa then { s with dram := Memory.write s.dram pa b, filled := cutByte pa s.filled }
  else { s with l2 := overPut s.l2 pa b, filled := cutByte pa s.filled }

/-- `n` bytes from a physical address. -/
def State.readPhys (s : State) (pa n : Nat) : List Byte := (List.range n).map fun i => s.readByte (pa + i)

/-- A byte as a unit of the device reads it: over the link of a window it is the k-th free value from here (R359). -/
def State.freeOr (s : State) (k pa : Nat) : Byte := if inWindow pa then Config.freeByte (s.drawn + k) else s.readByte pa

/-- The byte at a physical address after the writes up to a time, as the log has it: each later write is undone. -/
def State.byteAt (s : State) (t pa : Nat) : Byte :=
  (s.log.takeWhile fun e => decide (t < e.time)).foldl
    (fun b e => match e.writes.find? fun w => w.1 == pa with | some w => w.2 | none => b) (s.readByte pa)

/-- Bytes at listed addresses as a load returns them at a point of their coherence orders: a byte of a host or peer window
is a free value (R191, R359). -/
def State.loadBytesAt (s : State) (t : Nat) : List Nat → List Byte × State
  | [] => ([], s)
  | pa :: rest =>
    if inWindow pa then
      let (bs, s') := State.loadBytesAt { s with drawn := s.drawn + 1 } t rest
      (Config.freeByte s.drawn :: bs, s')
    else
      let (bs, s') := State.loadBytesAt s t rest
      (s.byteAt t pa :: bs, s')

/-- Bytes at listed addresses as they now stand at their homes. -/
def State.loadBytes (s : State) (l : List Nat) : List Byte × State := s.loadBytesAt s.memTime l

/-- Bytes written at listed addresses, in order. -/
def State.putBytes (s : State) (agent : Agent := .device) (l : List (Nat × Byte)) (routes : List (Nat × Word) := [])
    (po : Nat := 0) : State :=
  match l with
  | [] => s
  | (pa, b) :: rest => State.putBytes (s.writeByte pa b agent routes po) agent rest routes po

/-- The comparison of WAITA (R203, R209). -/
def waitHolds (c : WaitCmp) (x y : Word) : Bool :=
  match c with
  | .eq => x == y
  | .ne => x != y
  | .ltu => decide (x.toNat < y.toNat)
  | .geu => decide (y.toNat ≤ x.toNat)

/-- The condition of a wait entry over its word as the word now stands (R209). -/
def State.waitMet (s : State) (e : WaitEntry) : Bool :=
  waitHolds e.cmp (BitVec.ofNat 32 (leNat (s.readPhys e.pa 4)) &&& e.mask) (e.expected &&& e.mask)

/-- What a write does to a wait entry whose word it touched (R209): it satisfies the entry when the condition now holds,
but a write that the WAITA comes before, in the program order of its warp or by happens-before (`after`), bars it instead, with
every later write (R192, R198). -/
def WaitEntry.touched (e : WaitEntry) (t : MemTag) (now : Nat) (met : Bool) (after : Bool := false) : WaitEntry :=
  if !e.there || e.barred || e.hit.isSome then e
  else if (t.agent = .warp e.block e.warp ∧ e.id < t.po) ∨ after = true then { e with barred := true }
  else if met then { e with hit := some now }
  else e

/-- The read of a WAITA that has yet to end happens before the newest write of the log (R198). -/
def State.waitBefore (s : State) (e : WaitEntry) : Bool :=
  match s.log with
  | [] => false
  | w :: _ =>
    let q : MemEvent := { MemEvent.of (MemTag.warp e.block e.warp 0 e.id) with
      time := w.time + 1, reads := (List.range 4).map fun i => (e.pa + i, 0) }
    happensBefore (q :: s.log) q w

/-- A write that has been accepted is shown to every wait entry whose word it touched (R209). -/
def State.wakeWaits (s : State) (pas : List Nat) (t : MemTag := MemTag.device) : State :=
  { s with waits := s.waits.map fun (e : WaitEntry) =>
      if pas.any fun pa => decide (e.pa ≤ pa) && decide (pa < e.pa + 4) then
        e.touched t s.memTime (s.waitMet e) (s.waitBefore e) else e }

/-- The bytes of an access that lie in no window, with the values that a write of it replaces. -/
def State.replaced (s : State) (l : List (Nat × Byte)) : List (Nat × Byte) :=
  (l.filter fun x => !inWindow x.1).map fun x => (x.1, s.readByte x.1)

/-- One write: the bytes of an access are applied at their home slices together, the write is the newest in the coherence
order of each, and waits are looked at (R191, R209). -/
def State.storeBytes (s : State) (l : List (Nat × Byte)) (t : MemTag := MemTag.device) (routes : List (Nat × Word) := []) :
    State :=
  ((s.note { MemEvent.of t with writes := s.replaced l }).putBytes t.agent l routes t.po).wakeWaits (l.map (·.1)) t

/-- Bytes written from a physical address upward, as one access. -/
def State.writePhys (s : State) (pa : Nat) (bs : List Byte) (t : MemTag := MemTag.device) : State :=
  s.storeBytes (bs.zipIdx.map fun x => (pa + x.2, x.1)) t

/-- What the device has filled of a range of addresses, byte by byte. -/
def State.filledIn (s : State) (lo hi : Nat) : List (Nat × Byte) :=
  s.filled.reverse.flatMap fun r =>
    let a := max lo r.1
    (List.range (min hi (r.1 + r.2.1) - a)).map fun i => (a + i, s.readByte (a + i))

/-- The filled ranges without what lies in a range of addresses. -/
def cutRange (lo hi : Nat) (rs : List (Nat × Nat × Nat)) : List (Nat × Nat × Nat) :=
  rs.flatMap fun r =>
    [(r.1, min lo (r.1 + r.2.1) - r.1, r.2.2), (max hi r.1, r.1 + r.2.1 - max hi r.1, r.2.2 + (max hi r.1 - r.1))].filter
      fun x => x.2.1 != 0

/-- What the device has filled of a range goes back to memory. -/
def State.flushFills (s : State) (lo hi : Nat) : State :=
  if s.filled.any fun r => decide (r.1 < hi) && decide (lo < r.1 + r.2.1) then
    { s with
      dram := (s.filledIn lo hi).foldl (fun m c => Memory.write m c.1 c.2) s.dram
      l2 := s.l2.filter fun c => !(decide (lo ≤ c.1) && decide (c.1 < hi) && (s.fillOf c.1).isSome)
      filled := cutRange lo hi s.filled }
  else s

/-- Dirty 64-byte lines, or parts of them, go back to their memory (R185). A write of the same 64 bytes that a port still has
outstanding was sent before this one and is taken as applied before it (R356). -/
def State.writeBack (s0 : State) (lo hi : Nat) (drop : Bool) : State :=
  let s := s0.flushFills lo hi
  let mine := s.l2.filter fun c => decide (lo ≤ c.1) && decide (c.1 < hi)
  let passed (r : PortReq) : PortReq :=
    let pa := sectorAddr r.stack r.chan r.sector
    if r.write && decide (lo ≤ pa) && decide (pa < hi) then { r with data := [] } else r
  let s1 := { s with dram := mine.foldl (fun m c => Memory.write m c.1 c.2) s.dram, ports := s.ports.map passed }
  if drop then { s1 with l2 := s1.l2.filter fun c => !(decide (lo ≤ c.1) && decide (c.1 < hi)) } else s1

/-- The lines of a sparse memory, each once. -/
def linesOf : List Host.Cell → List Nat
  | [] => []
  | (a, _) :: t =>
    let r := linesOf t
    if r.head? = some (a / 64) then r else a / 64 :: r

/-- A slice of the L2 holds 4 MiB: what it holds beyond its 65,536 lines goes back to memory (R9, R185). -/
def State.fitSlice (s : State) (slice : Nat) : State :=
  let mine := (linesOf s.l2).filter fun l => sliceOf (64 * l) == slice
  (mine.take (mine.length - 65536)).foldl (fun (s : State) (l : Nat) => s.writeBack (64 * l) (64 * l + 64) true) s

/-- Every slice within its capacity (R9). -/
def State.fitL2 (s : State) : State :=
  if s.l2.length ≤ 65536 then s else (List.range 64).foldl (fun (s : State) (c : Nat) => s.fitSlice c) s

/-! ### Translation (R162, R163, R173, R183) -/

/-- The kinds of access that translate. -/
inductive Access | read | write | fetch
deriving DecidableEq, Repr

/-- Where a page lies: a physical base, or the page of a window. -/
structure Leaf where
  base : Nat
  size : Nat
  pa : Nat
  pte : Nat
  x : Bool
  w : Bool
  win : Option Nat
deriving DecidableEq, Repr

/-- The physical address of a window's byte (R183); `shadow` for the copy engine's writes. -/
def Window.phys (w : Window) (va : Nat) (shadow : Bool) : Nat :=
  (if w.cur != shadow then w.phys1 else w.phys0) + (va - w.vbase)

/-- A peer has a route (R361). -/
def routeValid (r : Word) : Bool :=
  r.getLsbD 31 && bits r 30 21 == 0 && bits r 15 11 == 0 && bits r 7 6 == 0 && bits r 10 8 ≤ 5

/-- The transmit fibres over which the flits of a route are striped (R361). -/
def routeFibres (r : Word) : List Nat := (List.range (2 ^ bits r 10 8)).map fun i => (bits r 20 16 + i) % 32

/-- The number that a route's flits carry: that by which the peer names this device (R361). -/
def routeSelf (r : Word) : Nat := bits r 5 0

/-- A page-table entry may name this physical address (R160, R359). -/
def State.paValid (s : State) (pa : Nat) : Bool :=
  inHbm pa || inPool pa
    || (inWindow pa && (pa < 2 ^ 51 + 2 ^ 50
        || (let o := pa - (2 ^ 51 + 2 ^ 50)
            o % 2 ^ 44 < 2 ^ 39 && routeValid (nth 0#32 s.peerRoute (o / 2 ^ 44)))))

/-- Shift and width of the index at a level of the page table (R162). -/
def levelIndex (level va : Nat) : Nat :=
  match level with
  | 0 => (va >>> 48) % 512
  | 1 => (va >>> 39) % 512
  | 2 => (va >>> 29) % 1024
  | 3 => (va >>> 21) % 256
  | _ => (va >>> 16) % 32

/-- Log of a table's size in bytes (R162). -/
def tableLog (level : Nat) : Nat :=
  match level with | 0 => 12 | 1 => 12 | 2 => 13 | 3 => 11 | _ => 8

/-- Log of the page a leaf of a level maps; 0 where none may stand (R162). -/
def pageLog (level : Nat) : Nat :=
  match level with | 2 => 29 | 3 => 21 | 4 => 16 | _ => 0

/-- Window `w` admits this address (R183). -/
def Ctx.windowAt (c : Ctx) (w va : Nat) : Option Window :=
  match c.windows[w]? with
  | some win => if win.v && decide (win.vbase ≤ va) && decide (va < win.vbase + 65536 * win.size) then some win else none
  | none => none

/-- What a leaf entry gives: a place, or the reason of R173 for which it fails. The order of reasons is 0x04, 0x02,
0x01 (R173). -/
def State.leafOf (s : State) (ctx va level pte e : Nat) (acc : Access) : Except Nat Leaf :=
  let lg := pageLog level
  let pfn := bits (BitVec.ofNat 64 e) 51 16
  let win := e.testBit 63
  let rsvOk := bits (BitVec.ofNat 64 e) 62 52 == 0 && bits (BitVec.ofNat 64 e) 15 12 == 0
    && bits (BitVec.ofNat 64 e) 9 8 == 0 && !e.testBit 4 && !e.testBit 2
  let placeOk :=
    if win then level == 4 && bits (BitVec.ofNat 64 e) 51 24 == 0
      && ((s.ctx ctx).windowAt (bits (BitVec.ofNat 64 e) 23 16) va).isSome
    else (pfn * 65536) % 2 ^ lg == 0 && s.paValid (pfn * 65536 + va % 2 ^ lg)
  if lg == 0 || !rsvOk || !placeOk then .error 0x04
  else if (acc == .write && !e.testBit 5) || (acc == .fetch && !e.testBit 6) then .error 0x02
  else if !e.testBit 1 then .error 0x01
  else .ok { base := va - va % 2 ^ lg, size := 2 ^ lg, pa := pfn * 65536, pte := pte, x := e.testBit 6, w := e.testBit 5
             win := if win then some (bits (BitVec.ofNat 64 e) 23 16) else none }

/-- The walk from a table at a level (R162); `fuel` counts the levels left. -/
def State.walkFrom (s : State) (ctx va : Nat) (acc : Access) : Nat → Nat → Nat → Except Nat Leaf
  | 0, _, _ => .error 0x04
  | fuel + 1, level, table =>
    let pte := table + 8 * levelIndex level va
    let e := leNat ((List.range 8).map fun i => s.freeOr (8 * level + i) (pte + i))
    if !e.testBit 0 then .error 0x04
    else if e.testBit 7 then s.leafOf ctx va level pte e acc
    else if level ≥ 4 || bits (BitVec.ofNat 64 e) 63 52 != 0 || bits (BitVec.ofNat 64 e) 6 2 != 0
        || (bits (BitVec.ofNat 64 e) 51 8 * 256) % 2 ^ tableLog (level + 1) != 0
        || !s.paValid (bits (BitVec.ofNat 64 e) 51 8 * 256) then .error 0x04
    else if !e.testBit 1 then .error 0x01
    else State.walkFrom s ctx va acc fuel (level + 1) (bits (BitVec.ofNat 64 e) 51 8 * 256)

/-- A walk uses up the free values that entries of a table in a window would take. -/
def State.walked (s : State) : State := { s with drawn := s.drawn + 40 }

/-- The walk of a context's page table (R162). -/
def State.walk (s : State) (ctx va : Nat) (acc : Access) : Except Nat Leaf :=
  s.walkFrom ctx va acc 5 0 (s.ctx ctx).ptRoot.toNat

/-- A cached translation's A and D bits reach its page-table entry (R163). -/
def State.harvestEntry (s : State) (e : TlbEntry) : State :=
  let b := s.freeOr 0 (e.pte + 1)
  (if inWindow e.pte then { s with drawn := s.drawn + 1 } else s).storeBytes [(e.pte + 1, b ||| (if e.a then 4#8 else 0#8) ||| (if e.d then 8#8 else 0#8))]

/-- The entries of a list harvested one after another. -/
def State.harvestAll (s : State) : List TlbEntry → State
  | [] => s
  | e :: es => State.harvestAll (s.harvestEntry e) es

/-- Harvest of the entries a test selects; `drop` drops them too (R163, R186), and an entry that was dropped for room is
done with. -/
def State.harvest (s : State) (p : TlbEntry → Bool) (drop : Bool) : State :=
  let s1 := s.harvestAll (s.tlb.filter p)
  { s1 with tlb := s1.tlb.filter fun e => !(p e && (drop || e.out)) }

/-- The shoot-down of the page that holds an address, on every core and die (R186). -/
def State.shootDown (s : State) (ctx va : Nat) : State :=
  s.harvest (fun e => e.ctx == ctx && decide (e.base ≤ va) && decide (va < e.base + e.size)) true

/-- The entry of a TLB that translates an address. -/
def State.tlbFind (s : State) (home ctx va : Nat) : Option TlbEntry :=
  s.tlb.find? fun e => !e.out && e.home == home && e.ctx == ctx && decide (e.base ≤ va) && decide (va < e.base + e.size)

/-- A TLB drops an entry for room: its A and D bits wait for one of the points of R163. -/
def State.tlbDrop (s : State) (e : TlbEntry) : State :=
  { s with tlb := s.tlb.map fun (x : TlbEntry) => if x = e then { x with out := true } else x }

/-- A TLB drops its oldest entry when it is full (R163). -/
def State.tlbRoom (s : State) (home cap : Nat) : State :=
  if (s.tlb.filter fun e => e.home == home && !e.out).length < cap then s
  else match s.tlb.find? fun e => e.home == home && !e.out with
    | some e => s.tlbDrop e
    | none => s

/-- A translation is cached in one TLB. -/
def State.tlbFill (s : State) (home cap ctx : Nat) (l : Leaf) (write : Bool) : State :=
  let s1 := s.tlbRoom home cap
  { s1 with tlb := s1.tlb ++ [{ home := home, ctx := ctx, base := l.base, size := l.size, pa := l.pa, pte := l.pte
                                x := l.x, w := l.w, win := l.win, a := true, d := write, out := false }] }

/-- The first write through cached entries sets their D bits (R163). -/
def State.tlbTouch (s : State) (homes : List Nat) (ctx va : Nat) (write : Bool) : State :=
  { s with tlb := s.tlb.map fun e =>
      if homes.contains e.home && !e.out && e.ctx == ctx && decide (e.base ≤ va) && decide (va < e.base + e.size)
      then { e with a := true, d := e.d || write } else e }

/-- The physical address a cached or walked leaf gives. A peer whose route has gone since the leaf was cached is named by
no valid entry (R361). -/
def State.leafPhys (s : State) (ctx va : Nat) (base pa : Nat) (win : Option Nat) (shadow : Bool) : Except Nat Nat :=
  match win with
  | none => if s.paValid (pa + (va - base)) then .ok (pa + (va - base)) else .error 0x04
  | some w =>
    match (s.ctx ctx).windowAt w va with
    | some x => .ok (x.phys va shadow)
    | none => .error 0x04

/-- The die whose controller serves a page: that of the home slice of its first granule (R7, R360). -/
def migDie (pa : Nat) : Nat := sliceOf pa / 16

/-- Periods of 2^20 cycles of a die's cluster 0 counter that have begun (R316; log entry 34). -/
def State.hitPeriod (s : State) (pa : Nat) : Nat := s.cycle (8 * migDie pa) / 2 ^ 20

/-- The page of an address that has just been translated: its virtual and its physical base. -/
def State.pageAt (s : State) (core ctx va pa : Nat) : Nat × Nat :=
  match s.tlbFind core ctx va with
  | some e => (e.base, e.pa)
  | none => (va / 65536 * 65536, pa / 65536 * 65536)

/-- A device access of a pooled page, given by its virtual and its physical base, counts while MEM_EXP.MIGRATE asks for it (R187,
R316). -/
def State.noteHit (s : State) (ctx base home : Nat) : State :=
  if bits (s.ctx ctx).memExp 15 8 == 0 || !inPool home then s
  else
    let p := s.hitPeriod home
    let n := match s.pageHits.find? fun h => h.1 == ctx && h.2.1 == base && h.2.2.1 == p with | some h => h.2.2.2 | none => 0
    { s with pageHits := (ctx, base, p, n + 1) :: s.pageHits.filter fun h => !(h.1 == ctx && h.2.1 == base) }

/-- The access of one active lane, or that of one unit of an engine, to virtual addresses that have been translated, each with its
physical address: one device access of each page that it touches (R187, R316; log entry 34). -/
def State.noteHits (s : State) (core ctx : Nat) (l : List (Nat × Nat)) : State :=
  (distinct (l.map fun x => s.pageAt core ctx x.1 x.2)).foldl (fun (s : State) (p : Nat × Nat) => s.noteHit ctx p.1 p.2) s

/-- Translation of one address for a core, through its TLB and its die's, with the state that has cached it
(R162, R163, R173); `shadow` for the copy engine's writes (R182). -/
def State.translate (s : State) (core ctx va : Nat) (acc : Access) (shadow : Bool := false) : Except Nat Nat × State :=
  let die := 256 + dieOf core
  if 2 ^ 57 ≤ va then (.error 0x03, s) else
  let use (e : TlbEntry) (s : State) : Except Nat Nat × State :=
    if (acc == .write && !e.w) || (acc == .fetch && !e.x) then (.error 0x02, s)
    else (s.leafPhys ctx va e.base e.pa e.win shadow, s.tlbTouch [core, die] ctx va (acc == .write))
  match s.tlbFind core ctx va, s.tlbFind die ctx va with
  | some e, _ => use e s
  | none, some e =>
    use e (s.tlbFill core 512 ctx { base := e.base, size := e.size, pa := e.pa, pte := e.pte, x := e.x, w := e.w, win := e.win }
      false)
  | none, none =>
    match s.walk ctx va acc with
    | .error d => (.error d, s.walked)
    | .ok l =>
      (s.leafPhys ctx va l.base l.pa l.win shadow,
        (s.walked.tlbFill core 512 ctx l (acc == .write)).tlbFill die 8192 ctx l (acc == .write))

/-- Translation of a read of the dispatcher, through the TLB of a die (R163, R325), with the state that has cached it. -/
def State.translateDie (s : State) (die ctx va : Nat) : Except Nat Nat × State :=
  if 2 ^ 57 ≤ va then (.error 0x03, s)
  else
    match s.tlbFind (256 + die) ctx va with
    | some e => (s.leafPhys ctx va e.base e.pa e.win false, s.tlbTouch [256 + die] ctx va false)
    | none =>
      match s.walk ctx va .read with
      | .error d => (.error d, s.walked)
      | .ok l => (s.leafPhys ctx va l.base l.pa l.win false, s.walked.tlbFill (256 + die) 8192 ctx l false)

/-- Translation of listed addresses one after another: the physical addresses, or the first failure with its index
and reason. -/
def State.translateList (s : State) (core ctx : Nat) (acc : Access) : List Nat → Except (Nat × Nat) (List Nat) × State
  | [] => (.ok [], s)
  | va :: rest =>
    match s.translate core ctx va acc with
    | (.error d, s1) => (.error (va, d), s1)
    | (.ok pa, s1) =>
      match State.translateList s1 core ctx acc rest with
      | (.error e, s2) => (.error e, s2)
      | (.ok pas, s2) => (.ok (pa :: pas), s2)

/-- The physical address of a virtual address for the device's own units, which cache no translation (log entry 66), or
the reason of R173 for which there is none. -/
def State.physOf (s : State) (ctx va : Nat) (acc : Access) : Except Nat Nat :=
  if va ≥ 2 ^ 57 then .error 0x03
  else
    match s.walk ctx va acc with
    | .error d => .error d
    | .ok l => s.leafPhys ctx va l.base l.pa l.win false

/-- Bytes from a virtual address, the first that fails giving the reason; `k` counts the free values of a window's bytes, which
come after those of a walk. -/
def State.readFrom (s : State) (ctx : Nat) : Nat → Nat → Nat → Except Nat (List Byte)
  | 0, _, _ => .ok []
  | n + 1, va, k =>
    match s.physOf ctx va .read with
    | .error d => .error d
    | .ok pa =>
      match State.readFrom s ctx n (va + 1) (k + 1) with
      | .error d => .error d
      | .ok bs => .ok (s.freeOr (40 + k) pa :: bs)

/-- Bytes that the dispatcher reads at a virtual address through the TLB of a die; `k` counts the free values of a window's
bytes. -/
def State.readDie (s : State) (die ctx : Nat) : Nat → Nat → Nat → Except Nat (List Byte)
  | 0, _, _ => .ok []
  | n + 1, va, k =>
    match (s.translateDie die ctx va).1 with
    | .error d => .error d
    | .ok pa =>
      match State.readDie s die ctx n (va + 1) (k + 1) with
      | .error d => .error d
      | .ok bs => .ok (s.freeOr (40 + k) pa :: bs)

/-- Bytes a context reads at a virtual address as one of its loads, without caching what it finds; none where the
translation fails, with the reason of the lowest byte that fails; a byte of a host or peer window is a free value (R359). -/
def State.readVirt (s : State) (ctx va n : Nat) : Except Nat (List Byte) := s.readFrom ctx n va 0

/-- The device fills virtual addresses of a context with a layout of its own, page by page; a page that is not there is left
out. -/
def State.fillVirt (s : State) (ctx : Nat) : Nat → Nat → Nat → State
  | 0, _, _ => s
  | fuel + 1, va, n =>
    if n = 0 then s
    else
      let k := min n (65536 - va % 65536)
      let s1 := match s.physOf ctx va .write with
        | .ok pa => s.fillRange pa k
        | .error _ => s
      State.fillVirt s1 ctx fuel (va + k) (n - k)

/-- Bytes of a context's virtual addresses with the physical addresses they are written at; a byte whose translation
fails is left out. -/
def State.placeBytes (s : State) (ctx va : Nat) : List Byte → List (Nat × Byte)
  | [] => []
  | b :: bs =>
    let rest := State.placeBytes s ctx (va + 1) bs
    match s.physOf ctx va .write with
    | .error _ => rest
    | .ok pa => (pa, b) :: rest

/-- Bytes a context writes at a virtual address, as one access. -/
def State.writeVirt (s : State) (ctx va : Nat) (bs : List Byte) (t : MemTag := MemTag.device) : State :=
  s.storeBytes (s.placeBytes ctx va bs) t

/-! ### Paths, join records and the divergence stack (R61 to R67) -/

/-- A path that starts where a clause header is due, ready to issue. -/
def Path.at (pc : DWord) (mask : Mask) (join : Option Nat) : Path :=
  { pc := pc, mask := mask, join := join, clause := { s1 := none, s2 := none, left := 0 }, wait := .ready
    held := false, seq := 0 }

/-- The open join record of an identity. -/
def Warp.joinRec? (w : Warp) (j : Nat) : Option JoinRec :=
  w.stack.findSome? fun e => match e with | .join r => if r.id = j then some r else none | .path _ => none

/-- The warp with a join record written anew (R67). -/
def Warp.setJoin (w : Warp) (r : JoinRec) : Warp :=
  { w with
    stack := w.stack.map fun e => match e with
      | .join q => if q.id = r.id then .join { r with seq := w.nextJoin } else e
      | .path _ => e
    nextJoin := w.nextJoin + 1 }

/-- The warp without a join record. -/
def Warp.dropJoin (w : Warp) (j : Nat) : Warp :=
  { w with stack := w.stack.filter fun e => match e with | .join q => q.id != j | .path _ => true }

/-- A path goes onto the divergence stack; a blocked instruction it held is withdrawn, a sleep runs on. -/
def Warp.pushPath (w : Warp) (p : Path) : Warp :=
  let wait := match p.wait with | .blocked => .ready | .crossing _ => .ready | x => x
  { w with stack := .path { p with wait := wait, seq := w.nextJoin } :: w.stack, nextJoin := w.nextJoin + 1 }

/-- The most recently pushed suspended path, and the stack without it. -/
def popPath : List StackEntry → Option (Path × List StackEntry)
  | [] => none
  | .path p :: t => some (p, t)
  | .join r :: t => (popPath t).map fun (p, t') => (p, .join r :: t')

/-- refill() of R64 for one slot. -/
def Warp.refillSlot (w : Warp) (slot : Nat) : Warp :=
  match w.path slot, popPath w.stack with
  | none, some (p, t) => { w with stack := t }.setPath slot (some { p with seq := 0 })
  | _, _ => w

/-- refill(): each free slot takes the most recently pushed suspended path (R64); slot 0 first (log entry 11). -/
def Warp.refill (w : Warp) : Warp := (w.refillSlot 0).refillSlot 1

/-- complete(J) of R64: the path of the record goes to a free slot, `slot` first, or onto the stack. -/
def Warp.complete (w : Warp) (slot : Nat) (r : JoinRec) : Warp :=
  let p := Path.at r.rejoin r.mask r.parent
  let w1 := w.dropJoin r.id
  if (w1.path slot).isNone then w1.setPath slot (some p)
  else if (w1.path (1 - slot)).isNone then w1.setPath (1 - slot) (some p)
  else w1.pushPath p

/-- The lanes leave the path of a slot, which becomes free when none is left. -/
def Warp.removeLanes (w : Warp) (slot : Nat) (lanes : Mask) : Warp :=
  match w.path slot with
  | none => w
  | some p =>
    let m := p.mask &&& ~~~lanes
    if m = 0#32 then w.setPath slot none else w.setPath slot (some { p with mask := m })

/-- Lanes arrive at a join record (R64). -/
def Warp.arriveAt (w : Warp) (slot : Nat) (j : Nat) (lanes : Mask) : Warp :=
  match w.joinRec? j with
  | none => w
  | some r =>
    let r' := { r with arrived := r.arrived ||| lanes }
    let w1 := (w.setJoin r').removeLanes slot lanes
    (if r'.arrived = r'.mask then w1.complete slot r' else w1).refill

/-- arrive(s, lanes) of R64: at the path's innermost join record. -/
def Warp.arrive (w : Warp) (slot : Nat) (lanes : Mask) : Warp :=
  match (w.path slot).bind (·.join) with
  | none => w
  | some j => w.arriveAt slot j lanes

/-- The identities of the records from a record outward, ending before `stop` (R65); `fuel` bounds the chain. -/
def Warp.chain (w : Warp) : Nat → Option Nat → Option Nat → List Nat
  | 0, _, _ => []
  | _ + 1, none, _ => []
  | fuel + 1, some j, stop =>
    if stop = some j then []
    else match w.joinRec? j with
      | none => []
      | some r => j :: w.chain fuel r.parent stop

/-- The lanes are taken out of the listed records. -/
def Warp.shrinkJoins (w : Warp) (lanes : Mask) : List Nat → Warp
  | [] => w
  | j :: js =>
    match w.joinRec? j with
    | none => w.shrinkJoins lanes js
    | some r =>
      (w.setJoin { r with mask := r.mask &&& ~~~lanes, arrived := r.arrived &&& ~~~lanes }).shrinkJoins lanes js

/-- Listed records that are empty are discarded, and those whose lanes have all arrived complete (R65). -/
def Warp.closeJoins (w : Warp) (slot : Nat) : List Nat → Warp
  | [] => w
  | j :: js =>
    match w.joinRec? j with
    | none => w.closeJoins slot js
    | some r =>
      (if r.mask = 0#32 then w.dropJoin j else if r.arrived = r.mask then w.complete slot r else w).closeJoins slot js

/-- leave(lanes, J, stop) of R65, for lanes that have left the path of a slot already. -/
def Warp.leave (w : Warp) (slot : Nat) (lanes : Mask) (j stop : Option Nat) : Warp :=
  let js := w.chain (w.stack.length + 1) j stop
  ((w.shrinkJoins lanes js).closeJoins slot js).refill

/-- split(s, groups, rejoin) of R63: the groups in the order the instruction gives. -/
def Warp.split (w : Warp) (slot : Nat) (groups : List (DWord × Mask)) (rejoin : DWord) : Warp :=
  match w.path slot, groups with
  | some p, (pc0, m0) :: (pc1, m1) :: rest =>
    let j : JoinRec := { id := w.nextJoin, seq := w.nextJoin, rejoin := rejoin, mask := p.mask, arrived := 0#32, parent := p.join, call := false }
    let w1 := { w with stack := .join j :: w.stack, nextJoin := w.nextJoin + 1 }
    let w2 := w1.setPath slot (some (Path.at pc0 m0 (some j.id)))
    let w3 := match w2.path (1 - slot) with | some q => w2.pushPath q | none => w2
    let w4 := w3.setPath (1 - slot) (some (Path.at pc1 m1 (some j.id)))
    rest.reverse.foldl (fun w g => w.pushPath (Path.at g.1 g.2 (some j.id))) w4
  | _, _ => w

/-- A path's fetch is due at its record's rejoin point (R64). -/
def Warp.dueAtRejoin (w : Warp) (slot : Nat) : Option (Nat × Mask) :=
  match w.path slot with
  | none => none
  | some p =>
    match p.join with
    | none => none
    | some j =>
      match w.joinRec? j with
      | some r => if r.rejoin = p.pc && p.wait == .ready && !p.held then some (j, p.mask) else none
      | none => none

/-- Every path whose fetch is due at its rejoin point arrives there, as often as it takes (R64). -/
def Warp.settle : Nat → Warp → Warp
  | 0, w => w
  | fuel + 1, w =>
    match w.dueAtRejoin 0 with
    | some (j, m) => Warp.settle fuel (w.arriveAt 0 j m)
    | none =>
      match w.dueAtRejoin 1 with
      | some (j, m) => Warp.settle fuel (w.arriveAt 1 j m)
      | none => w

/-- Arrivals to the end: each one frees a path or closes a record. -/
def Warp.settled (w : Warp) : Warp := Warp.settle (2 * w.stack.length + 4) w

/-- The path of a slot goes on at the next word of its clause (R31). -/
def Warp.nextWord (w : Warp) (slot : Nat) : Warp :=
  match w.path slot with
  | some p => w.setPath slot (some { p with pc := p.pc + 8#64, clause := { p.clause with left := p.clause.left - 1 }, wait := .ready })
  | none => w

/-- The path of a slot goes to an address where a header is due. -/
def Warp.jump (w : Warp) (slot : Nat) (pc : DWord) : Warp :=
  match w.path slot with
  | some p => w.setPath slot (some (Path.at pc p.mask p.join))
  | none => w

/-- Capacity of the divergence stack: DIVDEPTH, 0 selecting 256 (R67). -/
def State.divCapacity (s : State) (b : Block) : Nat :=
  match s.kobj b with | some k => (if k.divdepth = 0 then 256 else k.divdepth) | none => 256

/-! ### Proxy words and references (R258, R269) -/

/-- The home a proxy word names (R258). -/
def pxHome (w : Word) : Nat := bits w 31 24
/-- A handle that outlived a clearing of its home's LOST bit, marked in the reserved bit of the hidden word: it names no run (R271;
log entry 102). -/
def pxStale (w : Word) : Bool := w.getLsbD 0
/-- The first slot of the run (R258); past every slot for a handle that names none. -/
def pxSlot (w : Word) : Nat := bits w 23 9 + (if pxStale w then 2 ^ 15 else 0)
/-- The extent (R258). -/
def pxExt (w : Word) : Nat := bits w 8 6
/-- The format label (R259). -/
def pxFmt (w : Word) : Nat := bits w 5 2
/-- PEND (R258). -/
def pxPend (w : Word) : Bool := w.getLsbD 1

/-- A proxy word (R258). -/
def mkProxy (home slot ext fmt : Nat) (pend : Bool) : Word :=
  BitVec.ofNat 32 (home % 256 * 2 ^ 24 + slot % 2 ^ 15 * 2 ^ 9 + ext % 8 * 64 + fmt % 16 * 4 + (if pend then 2 else 0))

/-- A context has lost a home (R271). -/
def Ctx.lost (c : Ctx) (home : Nat) : Bool := (nth 0#32 c.pxLost (home / 32)).getLsbD (home % 32)

/-- A request joins the requests to homes, in issue order (R267). -/
def State.pushReq (s : State) (core home ctx block warp slot : Nat) (k : PxKind) : State :=
  let (id, s1) := s.fresh
  { s1 with pxReqs := s1.pxReqs ++ [{ id := id, core := core, home := home, ctx := ctx, block := block, warp := warp
                                      pathSlot := slot, kind := k, served := false, lost := false, data := [], since := none
                                      sent := s.ns }] }

/-- The first run at a slot that its core still counts loses one reference. -/
def unrefRun (slot : Nat) : List Run → List Run
  | [] => []
  | r :: rs => if r.slot = slot ∧ r.refs ≠ 0 then { r with refs := r.refs - 1 } :: rs else r :: unrefRun slot rs

/-- A core sends a drop: it keeps the count of the runs in its reservation, to which a run's slots return with the last
(R343). -/
def State.unref (s : State) (core home slot : Nat) : State :=
  if (s.core core).chunks.any fun k => k.home == home && decide (k.base ≤ slot) && decide (slot < k.base + 8) then
    s.setHome home { s.home home with runs := unrefRun slot (s.home home).runs }
  else s

/-- Reference drops for handles a lane or predicate loses (R269); a lost home is sent none, and a handle that names no run has none
to drop (R271). -/
def State.dropRefs (s : State) (core ctx block warp : Nat) : List Word → State
  | [] => s
  | h :: hs =>
    let s1 := if (s.ctx ctx).lost (pxHome h) || pxStale h then s
      else (s.unref core (pxHome h) (pxSlot h)).pushReq core (pxHome h) ctx block warp 0 (.drop (pxSlot h))
    State.dropRefs s1 core ctx block warp hs

/-- The proxy words a vector register holds. -/
def VReg.handles (r : VReg) : List Word := r.lanes.filterMap fun k => if k.px then some k.val else none

/-- The proxy words a predicate register holds. -/
def predHandles (p : List PredLane) : List Word := p.filterMap (·.px)

/-- Every handle a warp holds, in registers, lent registers, frame and predicates. A trap frame holds what V232–V239
held at entry, and the warp's own registers of those numbers hold nothing meanwhile (R306). -/
def Warp.handles (w : Warp) : List Word :=
  w.vregs.flatMap VReg.handles ++ w.lent.flatMap VReg.handles
    ++ (match w.frame with | some f => f.vregs.flatMap VReg.handles | none => []) ++ w.preds.flatMap predHandles

/-- A register with each of its proxy words changed: no write under R111. -/
def VReg.mapHandles (f : Word → Word) (r : VReg) : VReg :=
  { r with lanes := r.lanes.map fun (k : KVal) => if k.px then { k with val := f k.val } else k }

/-- A warp with each of its proxy words changed. -/
def Warp.mapHandles (f : Word → Word) (w : Warp) : Warp :=
  { w with
    vregs := w.vregs.map (VReg.mapHandles f)
    lent := w.lent.map (VReg.mapHandles f)
    frame := w.frame.map (fun (x : Frame) => { x with vregs := x.vregs.map (VReg.mapHandles f) })
    preds := w.preds.map (fun p => p.map fun (q : PredLane) => { q with px := q.px.map f }) }

/-- Handles of a context at the homes of a test name no run from here on (R271). -/
def State.staleAt (s : State) (ctx : Nat) (gone : Nat → Bool) : State :=
  { s with blocks := s.blocks.map fun (b : Block) =>
      if b.ctx = ctx then { b with warps := b.warps.map (Warp.mapHandles fun h => if gone (pxHome h) then h ||| 1#32 else h) } else b }

/-- The LOST bits of a context stand as a write has left them: the handles of each home whose bit is cleared name no run (R271). -/
def State.clearedLost (s : State) (ctx : Nat) (old : Ctx) : State :=
  let gone (h : Nat) : Bool := old.lost h && !(s.ctx ctx).lost h
  if (List.range 256).any gone then s.staleAt ctx gone else s

/-! ### Register blocks of a core (R97, R306) -/

/-- The blocks resident on a core. -/
def State.residents (s : State) (core : Nat) : List Block := s.blocks.filter fun b => b.loc == .core core

/-- An operation is a global store. -/
def OpKind.isStore : OpKind → Bool
  | .store _ => true
  | _ => false

/-- A warp has operations in flight. -/
def State.busy (s : State) (b wi : Nat) : Bool := s.ops.any fun o => o.block == b && o.warp == wi

/-- The warps on a core that still hold registers: an ended warp keeps them until its last operation completes (R78). -/
def State.holders (s : State) (core : Nat) : List Warp :=
  (s.residents core).flatMap fun b =>
    (b.warps.zipIdx.filter fun (w, i) => !w.ended || s.busy b.id i).map (·.1)

/-- Register blocks of a core's free pool, those that a grow request sets aside left out (R97, R105). -/
def State.poolFree (s : State) (core : Nat) : Nat :=
  let total := bits (s.core core).part 5 0 * 64 - 30
  let used := ((s.holders core).map fun w =>
    w.b - w.fromReserve + (match w.frame with | some f => (if f.fromReserve then 0 else 1) | none => 0)).sum
  let aside := ((s.residents core).map fun b => match b.reshape with | some r => r.extra | none => 0).sum
  total - used - aside

/-- Spare blocks of a core's emergency reserve (R97). -/
def State.reserveFree (s : State) (core : Nat) : Nat :=
  let used := ((s.holders core).map fun w =>
    w.fromReserve + (match w.frame with | some f => (if f.fromReserve then 1 else 0) | none => 0)).sum
  30 - used

/-! ### Withdrawing what a path waits for -/

/-- The path of a slot waits in an instruction that has not committed. -/
def Warp.blockedAt (w : Warp) (slot : Nat) : Bool :=
  match w.path slot with
  | some p => (match p.wait with | .blocked => true | .crossing _ => true | _ => false)
  | none => false

/-- The temporary run of a copy that has been served (R266). -/
def PxReq.copySlot (r : PxReq) : Nat := match r.kind with | .copy _ _ sl _ => sl | _ => 0

/-- The copies a slot asked for and has not used: those not served are withdrawn, and the temporary runs of the others
are dropped (R266). -/
def State.withdrawCopies (s : State) (b wi slot : Nat) : State :=
  { s with pxReqs := s.pxReqs.filterMap fun (r : PxReq) =>
      if r.block = b ∧ r.warp = wi ∧ r.pathSlot = slot then
        match r.kind with
        | .copy _ _ _ _ =>
          if r.served && !r.lost then some { r with kind := .drop r.copySlot, served := false } else none
        | _ => some r
      else some r }

/-- The request behind a blocked path is withdrawn, and the instruction re-executes (R209, R215, R229, R154, R156,
R107, R262); a SWPT then retires as a no-op (R105). A sleep or a park stays. A withdrawn XSHFL keeps its place among those of
its warp (R156), but for `keep` false: its path leaves the slot for the divergence stack, of which the rule does not speak (log
entry 80). -/
def State.withdraw (s0 : State) (b wi slot : Nat) (keep : Bool := true) : State :=
  let s := s0.withdrawCopies b wi slot
  match s.warp? b wi with
  | none => s
  | some (blk, w) =>
    if w.blockedAt slot then
      let w1 := w.setWait slot (if blk.switches.any fun x => x.arrived.contains (wi, slot) then .retiring else .ready)
      let blk1 := { blk with
        warps := setNth blk.warps wi w1
        qwait := blk.qwait.filter (fun q => !(q.warp == wi && q.slot == slot))
        switches := (blk.switches.map (fun (x : SwitchWait) =>
          { x with arrived := x.arrived.filter (fun a => a != (wi, slot))
                   whole := x.whole && !x.arrived.contains (wi, slot) })).filter fun x => !x.arrived.isEmpty }
      let s1 := s.setBlock blk1
      let here (b' w' sl' : Nat) : Bool := b' == b && w' == wi && sl' == slot
      { s1 with
        waits := s1.waits.filter (fun e => !here e.block e.warp e.slot)
        offers := s1.offers.filter (fun o => !here o.block o.warp o.slot)
        chunkReqs := s1.chunkReqs.filter (fun c => !here c.block c.warp c.slot)
        pxReqs := s1.pxReqs.filter (fun r =>
          !(here r.block r.warp r.pathSlot && (match r.kind with | .cross _ _ => true | _ => false)))
        ring := { s1.ring with reqs := s1.ring.reqs.filter (fun r => !here r.block r.warp r.slot) }
        cores := s1.cores.map (fun c => { c with parks := c.parks.filter (fun p => !here p.1 p.2.1 p.2.2.1) })
        pairs := s1.pairs.map (fun p =>
          let mine0 := p.block0 = b && p.warp0 = wi && (p.post0.map (·.slot)) == some slot
          let mine1 := p.block1 = b && p.warp1 = wi && (p.post1.map (·.slot)) == some slot
          let owed := if keep then (w.path slot).map fun q => (q.pc, q.mask) else none
          { p with
            post0 := if mine0 then none else p.post0
            post1 := if mine1 then none else p.post1
            owed0 := if mine0 then owed else p.owed0
            owed1 := if mine1 then owed else p.owed1 }) }
    else s

/-! ### Status records of bank contexts (R293) -/

/-- STATE codes (R293). -/
def BankState.code : BankState → Nat
  | .none => 0 | .queued => 1 | .running => 2 | .stepped => 3 | .stopped => 4 | .done => 5 | .aborted => 6 | .reset => 7

/-- The 32 bytes of a context's status record (R293). -/
def BankCtx.record (b : BankCtx) (chan : Nat) : List Byte :=
  let (row, bank, col) := b.place
  leBytes 32 (b.state.code + (if b.thread then 128 else 0) + b.cause * 2 ^ 8 + chan * 2 ^ 40
    + b.launch.handle.toNat * 2 ^ 48 + b.xpc % 65536 * 2 ^ 128 + b.apc % 65536 * 2 ^ 144 + col * 2 ^ 167 + bank * 2 ^ 171
    + row * 2 ^ 176 + b.ncol.toNat * 2 ^ 192 + b.roff.toNat * 2 ^ 224)

/-- The tag of a bank context's own accesses (R299). -/
def BankLaunch.tag (l : BankLaunch) (chan po : Nat) : MemTag :=
  { MemTag.device with agent := .bank (256 * l.id + chan), core := l.core, po := po }

/-- The place in the memory log that stands for a bank context's STATE as its BSU holds it (R302). -/
def BankLaunch.statePlace (l : BankLaunch) (chan : Nat) : Nat := 2 ^ 128 + 256 * l.id + chan

/-- A context's status record is written at STATUS + 32 × channel (R287), and STATE changes as the BSU holds it. What the
context wrote comes before both when STATE becomes 4 to 7, and in no other case (R299). -/
def State.writeStatus (s : State) (chan : Nat) (b : BankCtx) : State :=
  let po := s.nextId
  let s0 := { s with nextId := s.nextId + 2 }
  let s1 := if 4 ≤ b.state.code then s0.note { MemEvent.of (b.launch.tag chan po) with fence := some (.rel, 4) } else s0
  let t := b.launch.tag chan (po + 1)
  (s1.note { MemEvent.of t with writes := [(b.launch.statePlace chan, 0#8)] }).writeVirt b.launch.ctx
    (b.launch.status + 32 * chan) (b.record chan) t

/-! ### The end of a warp and of a block (R78, R223, R269, R284, R294) -/

/-- A predicate register nothing has set: its lanes read 0. -/
def predZero : List PredLane := List.replicate 32 { val := false, px := none }

/-- A lane of a predicate; P7 reads 1 (R22). -/
def Warp.pred (w : Warp) (n l : Nat) : PredLane :=
  if n = 7 then { val := true, px := none } else nth { val := false, px := none } (nth predZero w.preds n) l

/-- Lanes of P0 to P6 take their values, P7 none (R22), and the proxies they held drop their references (R269). -/
def State.setPreds (s : State) (core bid wi n : Nat) (m : Mask) (f : Nat → PredLane) : State :=
  if n ≥ 7 then s else
  match s.warp? bid wi with
  | none => s
  | some (blk, w) =>
    let old := nth predZero w.preds n
    let new := (List.range 32).map fun l => if m.getLsbD l then f l else w.pred n l
    (s.setWarp blk wi { w with preds := setNth w.preds n new }).dropRefs core blk.ctx bid wi
      ((lanesOf m).filterMap fun l => (nth { val := false, px := none } old l).px)

/-- An XSHFL that waits in a pair that has ended acts as one that is not paired: it clears Pc in its active lanes and
retires (R156). -/
def State.wakePost (s : State) (b wi : Nat) (p : Option Post) : State :=
  match p, s.warp? b wi with
  | some x, some (blk, _) =>
    (s.setPreds ((blk.core?).getD 0) b wi x.pc x.active fun _ => { val := false, px := none }).updWarp b wi fun w =>
      (w.nextWord x.slot).settled
  | _, _ => s

/-- The pairs of a warp end, and an XSHFL that waits in one of them is no longer paired (R155, R156). -/
def State.endPairs (s : State) (b wi : Nat) : State :=
  let mine (p : WarpPair) : Bool := (p.block0 == b && p.warp0 == wi) || (p.block1 == b && p.warp1 == wi)
  let s1 := { s with pairs := s.pairs.filter fun p => !mine p }
  (s.pairs.filter mine).foldl (fun s p => (s.wakePost p.block0 p.warp0 p.post0).wakePost p.block1 p.warp1 p.post1) s1

/-- The lowest-numbered warp of a block that has not ended. -/
def Block.firstLive (b : Block) : Option Nat := b.warps.findIdx? fun w => !w.ended

/-- Ownership of bank contexts passes from an ended warp to the block's lowest-numbered live warp (R284). -/
def State.passOwner (s : State) (b wi next : Nat) : State :=
  { s with chans := s.chans.map fun c =>
      { c with
        cx := c.cx.map (fun o => o.map fun k =>
          if k.launch.block = b && k.launch.warp = wi then { k with launch := { k.launch with warp := next } } else k)
        queue := c.queue.map fun l => if l.block = b && l.warp = wi then { l with warp := next } else l } }

/-- Every warp of the block that has not exited has arrived (R105). -/
def Block.allArrived (b : Block) (x : SwitchWait) : Bool :=
  b.warps.zipIdx.all fun w => w.1.ended || x.arrived.any fun a => a.1 == w.2

/-- The switch points at which the last warp that was missed has now arrived or exited, within 1,024 cycles of the first arrival
(R105). -/
def Block.noteWhole (b : Block) (now : Nat) : Block :=
  { b with switches := b.switches.map fun (x : SwitchWait) =>
      { x with whole := x.whole || (b.allArrived x && decide (now < x.start + 1024)) } }

/-- A warp ends: its references drop, its holds are released at their next passes, its pair ends, what it waits for
is withdrawn, and its bank contexts pass on. Its issued stores still drain (R78). -/
def State.endWarp (s : State) (b wi : Nat) : State :=
  match s.warp? b wi with
  | none => s
  | some (blk, w) =>
    if w.ended then s else
    let core := (blk.core?).getD 0
    let s1 := ((s.withdraw b wi 0).withdraw b wi 1).endPairs b wi
    let s2 := s1.dropRefs core blk.ctx b wi w.handles
    let s3 := s2.updWarp b wi fun w =>
      { w with ended := true, path0 := none, path1 := none, stack := [], holds := [], frame := none, lent := []
               trap := none, gate := none, turn := none
               vregs := w.vregs.map (fun r => { r with lanes := r.lanes.map (fun k => if k.px then { val := 0#32, px := false } else k) })
               preds := w.preds.map (fun p => p.map (fun q => if q.px.isSome then { val := false, px := none } else q)) }
    let s4 := { s3 with
      ring := { s3.ring with releases := s3.ring.releases ++
        (w.holds.map fun (h : HoldRec) => ({ core := core, ctx := blk.ctx, handle := h.handle, serial := h.serial } : Release)) } }
    let s5 := { s4 with cores := s4.cores.map fun (c : Core) => if c.holder = some (b, wi) then { c with holder := none } else c }
    let s6 := match s5.block? b with | some x => s5.setBlock (x.noteWhole (s.cycle (clusterOf core))) | none => s5
    match (s6.block? b).bind (·.firstLive) with
    | some n => s6.passOwner b wi n
    | none => s6

/-- The context a launch gives a channel, not yet started (R287). -/
def BankLaunch.context (l : BankLaunch) (chan : Nat) : BankCtx :=
  { launch := l, state := .queued
    n := BitVec.ofNat 32 chan :: BitVec.ofNat 32 (l.region.length * 8192) :: l.argn :: List.replicate 13 0#32
    x := l.argx :: List.replicate 15 0#64
    apc := 0, xpc := l.aentry, aEnded := false, xEnded := false, dq := [], bq := [], cause := 0, thread := false
    roff := 0#32, ncol := 0#32, place := (0, 0, 0) }

/-- The queued, stopped and stepped contexts of a block that has ended are aborted (R294). -/
def State.abortBank (s : State) (b : Nat) : State :=
  (List.range s.chans.length).foldl (fun s i =>
    let c := s.chan i
    let hit (k : BankCtx) : Bool := k.launch.block == b && (k.state == .stopped || k.state == .stepped)
    let queued := (c.queue.filter fun l => l.block == b).map fun l => l.context i
    let dead := ((c.cx.filterMap fun o => o.bind fun k => if hit k then some k else none) ++ queued).map
      fun (k : BankCtx) => { k with state := .aborted }
    if dead.isEmpty && c.queue.all (fun l => l.block != b) then s else
    let c' := { c with cx := c.cx.map (fun o => o.bind fun k => if hit k then none else some k)
                       queue := c.queue.filter (fun l => l.block != b) }
    dead.foldl (fun s k => s.writeStatus i k) (s.setChan i c')) s

/-- A core without a block gives up its context, its reservation and its constant cache (R91, R261). -/
def State.vacate (s : State) (c : Nat) : State :=
  if (s.residents c).isEmpty then
    s.setCore c { s.core c with ctx := none, closed := false, chunks := [], holder := none, consts := [] }
  else s

/-- A block has been aborted for a replay and holds no warps (R98). -/
def Block.aborted (b : Block) : Bool := b.loc == .replay || b.loc == .fresh

/-- What the warps of a block did belongs to its record (R96). -/
def State.noteBlockEnd (s : State) (blk : Block) : State :=
  let mine := s.log.filter fun e =>
    (match e.tag.agent with | .warp b _ => b == blk.id | _ => false) && (!e.reads.isEmpty || !e.writes.isEmpty)
  if mine.isEmpty then s
  else
    let (id, s1) := s.fresh
    s1.note { MemEvent.of { MemTag.device with agent := .record blk.record, po := id } with joins := mine.map (·.time) }

/-- The homes have yet to apply a reference drop of the block (R269). -/
def State.dropsDue (s : State) (b : Nat) : Bool :=
  s.pxReqs.any fun r => r.block == b && (match r.kind with | .drop _ => true | _ => false)

/-- A block whose warps have all ended leaves its core once its last operation and transfer are done and its references have
dropped (R269): its record counts it, its resources are free, and the last block of a core gives up the core's context and
reservation (R91, R95, R261). -/
def State.reap (s : State) (b : Nat) : State :=
  match s.block? b with
  | none => s
  | some blk =>
    if blk.warps.all (·.ended) && !blk.aborted && !(s.ops.any fun o => o.block == b) && !(s.xfers.any fun x => x.block == b)
        && !s.dropsDue b then
      let es := blk.warps.filterMap (·.writeEpoch)
      let s1 := { s with
        blocks := s.blocks.filter (fun x => x.id != b)
        records := s.records.map (fun (r : Record) =>
          if r.id = blk.record then { r with ended := r.ended + 1, epochs := distinct (r.epochs ++ es) } else r) }
      let s2 := (s1.noteBlockEnd blk).abortBank b
      match blk.core? with
      | some c => s2.vacate c
      | none => s2
    else s

/-! ### Fault records (R319) -/

/-- Log of the entries of a context's fault ring; none when it has no ring (R319). -/
def Ctx.ringLog (c : Ctx) : Option Nat :=
  let n := bits c.frBase 4 0
  if c.frBase = 0#64 || n < 4 || n > 16 then none else some n

/-- The 32 bytes of a fault record (R319). -/
def FaultRec.bytes (r : FaultRec) (ctx : Nat) (seq : Word) : List Byte :=
  leBytes 32 (seq.toNat + r.code.toNat * 2 ^ 32 + r.detail.toNat * 2 ^ 40 + r.kind * 2 ^ 48 + ctx * 2 ^ 50
    + r.core % 256 * 2 ^ 56 + r.pc.toNat * 2 ^ 128 + r.addr.toNat * 2 ^ 192)

/-- The device writes the oldest record it holds for a context, if the ring has room (R319). The wait that the record
was posted for counts from then (R380). -/
def State.writeHeld (s : State) (ctx : Nat) : State :=
  let c := s.ctx ctx
  match c.ringLog, c.heldRecs with
  | some n, r :: rest =>
    if (c.frTail - c.frHead).toNat < 2 ^ n then
      let base := c.frBase.toNat - c.frBase.toNat % 4096
      let s1 := s.writeVirt ctx (base + 32 * (c.frTail.toNat % 2 ^ n)) (r.bytes ctx c.frTail)
      let s2 := s1.setCtx ctx { c with frTail := c.frTail + 1#32, heldRecs := rest }
      match r.wait with
      | some i => { s2 with faultWaits := s2.faultWaits.map fun f => if f.id = i then { f with seq := some c.frTail } else f }
      | none => s2
    else s
  | _, _ => s

/-- The device posts a fault record: it is written at once when the ring has room and none is held before it. -/
def State.postRecord (s : State) (ctx : Nat) (r : FaultRec) : State :=
  match (s.ctx ctx).ringLog with
  | none => s
  | some _ =>
    let c := s.ctx ctx
    (s.setCtx ctx { c with heldRecs := c.heldRecs ++ [r] }).writeHeld ctx

/-! ### Taking a trap (R304 to R308) -/

/-- Trap codes (R304). -/
def Code.illegal : Nat := 0x01
def Code.illconv : Nat := 0x02
def Code.fmtdiv : Nat := 0x03
def Code.pxexh : Nat := 0x04
def Code.pxlost : Nat := 0x05
def Code.pxuse : Nat := 0x06
def Code.missprom : Nat := 0x07
def Code.dfault : Nat := 0x08
def Code.ifault : Nat := 0x09
def Code.codeend : Nat := 0x0A
def Code.misalign : Nat := 0x0B
def Code.shchg : Nat := 0x0C
def Code.circfault : Nat := 0x0D
def Code.regexh : Nat := 0x0E
def Code.divstk : Nat := 0x0F
def Code.trap : Nat := 0x10
def Code.bkpt : Nat := 0x11
def Code.bsuStop : Nat := 0x12
def Code.qfault : Nat := 0x15
def Code.watchdog : Nat := 0x16

/-- The die's epoch of the warp's last write has closed: its writes are visible at device scope (R191, R210). -/
def State.epochClosed (s : State) (w : Warp) : Bool :=
  match w.writeEpoch with
  | none => true
  | some (d, e) => decide (e < nth 0 (nth [] s.clocks d) d)

/-- A lane or predicate of the warp holds a pending proxy (R267). -/
def Warp.pending (w : Warp) : Bool := w.handles.any pxPend

/-- A snapshot of a PLD of the warp is still to be taken: the PLD is a load that has not returned, whatever has become of its
handles (R190, R210). -/
def State.snapshotsDue (s : State) (b wi : Nat) : Bool :=
  s.pxReqs.any fun r => r.block == b && r.warp == wi && !r.served && (match r.kind with | .snapshot _ _ _ _ => true | _ => false)

/-- The conditions of R36, R210, R256 and R270: nothing of the warp is in flight. -/
def State.drained (s : State) (b wi : Nat) (w : Warp) : Bool :=
  !s.busy b wi && !s.snapshotsDue b wi && s.epochClosed w && !w.pending

/-- The block a core can lend to a trap handler: from the free pool, or else from the reserve (R306). -/
def State.lendable (s : State) (core : Nat) : Option Bool :=
  if s.poolFree core ≥ 1 then some false else if s.reserveFree core ≥ 1 then some true else none

/-- The trap save area of a warp, 4 KiB above its private area (R306, R320; its place there is the device's, log entry 13). -/
def State.trapArea (s : State) (b : Block) (w : Warp) : Nat := w.privb + 32 * ((s.kobj b).map (·.privsz)).getD 0

/-- Trap entries of a core that wait for a block and came before this one (R306). -/
def State.entriesBefore (s : State) (core : Nat) (t : Trap) : Nat :=
  ((s.residents core).map fun b => (b.warps.zipIdx.filter fun x =>
    match x.1.trap with | some u => decide (u.seq < t.seq) && s.drained b.id x.2 x.1 | none => false).length).sum

/-- The block of registers lent to a handler: zero, kind tags clear, tagged uniform (R111, R306). -/
def lentBlock : List VReg := List.replicate 8 { lanes := List.replicate 32 { val := 0#32, px := false }, uni := true }

/-- TRAP_CAUSE (R315). -/
def trapCauseOf (t : Trap) : Word :=
  BitVec.ofNat 32 (t.code.toNat + t.detail.toNat * 2 ^ 8 + (if t.slot = 0 then 0 else 2 ^ 16) + (if t.skip then 2 ^ 17 else 0))

/-- A path of the divergence stack stopped by a trap entry (R68). -/
def holdEntry : StackEntry → StackEntry
  | .path q => .path { q with held := true }
  | .join r => .join r

/-- A sleep as pre-emption and trap entry record it: the cycles that remain (R81, R305). -/
def Wait.saved (now : Nat) : Wait → Wait
  | .sleep u => .slept (u - now) none
  | .sleepProm u o ph late => .slept (u - now) (some (o, ph, late))
  | x => x

/-- A recorded sleep goes on, its deadline formed anew from the cluster's counter (R81, R312). -/
def Wait.resumed (now : Nat) : Wait → Wait
  | .slept n none => .sleep (now + n)
  | .slept n (some (o, ph, late)) => .sleepProm (now + n) o ph late
  | x => x

/-- The vector registers with V232–V239 replaced, where the warp holds them. -/
def putTop (vregs top : List VReg) : List VReg := vregs.take 232 ++ (if vregs.length < 240 then vregs.drop 232 else top)

/-- The warp in the handler of a trap (R305, R306): what is saved, what the trap registers hold, the lent block, and
the trapped path, with its full mask, at TRAP_VEC as it stands (log entry 68). -/
def Warp.enter (w : Warp) (t : Trap) (p : Path) (vec : DWord) (reserve : Bool) : Warp :=
  let f : Frame :=
    { vregs := (w.vregs.drop 232).take 8, sregs := (w.sregs.drop 88).take 8, latches := w.latches
      clause := p.clause, slot := t.slot, wait := p.wait, fromReserve := reserve }
  let w1 := { w with
    trapCause := trapCauseOf t, trapPc := p.pc, trapAddr := t.addr, trapMask := p.mask
    frame := some f, lent := lentBlock, trap := none, gate := none, turn := none
    vregs := putTop w.vregs lentBlock
    latches := w.latches.map (fun (l : Latch) => { l with valid := 0 })
    path0 := w.path0.map (fun (q : Path) => { q with held := true })
    path1 := w.path1.map (fun (q : Path) => { q with held := true })
    stack := w.stack.map holdEntry }
  w1.setPath t.slot (some { p with pc := vec, clause := { s1 := none, s2 := none, left := 0 }, wait := .ready })

/-- A path that a trap entry stopped goes on when the handler ends (R68). -/
def Path.unheld (p : Path) : Path := { p with held := false }

/-- The warp after handler mode ends: the lent block goes back, V232–V239 are the warp's own again as they were at
entry, their uniform tags clear (R111), and the other paths may issue (R68, R307, R309). -/
def Warp.leaveHandler (w : Warp) : Warp :=
  match w.frame with
  | none => w
  | some f =>
    { w with
      frame := none, lent := []
      vregs := if f.vregs.isEmpty then w.vregs
        else putTop w.vregs (f.vregs.map fun (r : VReg) => { r with uni := false })
      path0 := w.path0.map Path.unheld, path1 := w.path1.map Path.unheld
      stack := w.stack.map fun e => match e with | .path q => .path q.unheld | .join r => .join r }

/-- The handles that are lost when handler mode ends: those of the lent block, and those of the frame when the warp no
longer holds V232–V239. -/
def Warp.handlerHandles (w : Warp) : List Word :=
  match w.frame with
  | none => []
  | some f => w.lent.flatMap VReg.handles ++ (if w.vregs.length < 240 then f.vregs.flatMap VReg.handles else [])

/-- A warp of the block enters a handler between a first arrival at a switch point and the decision, which it spoils
(R105). -/
def Block.noteHandler (b : Block) : Block :=
  { b with switches := b.switches.map fun (x : SwitchWait) => { x with spoiled := true } }

/-- The block is pre-empted between a first arrival at a switch point and the decision: every arrived warp retires its
SWPT as a no-op when it next issues (R105). -/
def Block.spoilSwitches (b : Block) : Block :=
  let there := b.switches.flatMap (·.arrived)
  { b with
    switches := []
    warps := b.warps.zipIdx.map fun (x : Warp × Nat) =>
      there.foldl (fun (w : Warp) (y : Nat × Nat) => if y.1 = x.2 then w.setWait y.2 .retiring else w) x.1 }

/-- A switch of the block has passed its checks and is not interrupted (R105). -/
def Block.switching (b : Block) : Bool := b.switches.any (·.passed)

/-- A block that is to be ended ends once its issued stores have drained (R308): every warp ends as by EXIT of all its
lanes, and one fault record of kind 1 is written when the context has a ring. -/
def State.tryTerminate (s : State) (b : Nat) : State :=
  match s.block? b with
  | none => s
  | some blk =>
    match blk.ending with
    | none => s
    | some (code, detail, pc, addr) =>
      if s.ops.any (fun o => o.block == b && o.kind.isStore) then s else
      let s1 := (List.range blk.warps.length).foldl (fun s i => s.endWarp b i) (s.setBlock { blk with ending := none })
      let s2 := s1.postRecord blk.ctx
        { addr := addr, pc := pc, core := (blk.core?).getD 0, kind := 1, detail := BitVec.ofNat 8 detail
          code := BitVec.ofNat 8 code, wait := none }
      s2.reap b

/-- The device ends a block (R308): its warps stop, its issued stores drain, and then it ends. -/
def State.terminate (s : State) (b : Nat) (code detail : Nat) (pc addr : DWord) : State :=
  match s.block? b with
  | none => s
  | some blk =>
    if blk.ending.isSome || (!blk.warps.isEmpty && blk.warps.all (·.ended)) then s
    else (s.setBlock { blk with ending := some (code, detail, pc, addr) }).tryTerminate b

/-- A trap entry, once nothing of the warp is in flight and a block can be lent that no older entry waits for (R305, R306); the
state is unchanged while it must wait. Requests the warp's slots wait on are withdrawn, and a decision at a switch point is
spoiled (R105). With TRAP_VEC 0 the block ends instead (R308). -/
def State.tryEnter (s : State) (b wi : Nat) : State :=
  match s.warp? b wi with
  | none => s
  | some (blk, w) =>
    match w.trap, blk.core? with
    | some t, some core =>
      if (s.ctx blk.ctx).trapVec = 0#64 then
        match w.path t.slot with
        | some p => s.terminate b t.code.toNat t.detail.toNat p.pc t.addr
        | none => s
      else if s.drained b wi w && !blk.switching && decide (s.entriesBefore core t < s.poolFree core + s.reserveFree core) then
        match s.lendable core with
        | none => s
        | some reserve =>
          let s1 := ((s.setBlock blk.noteHandler).withdraw b wi 0).withdraw b wi 1
          match s1.warp? b wi with
          | none => s
          | some (blk1, w1) =>
            match w1.path t.slot with
            | none => s
            | some p =>
              (s1.setWarp blk1 wi
                (w1.enter t { p with wait := p.wait.saved (s1.cycle (clusterOf core)) } (s1.ctx blk.ctx).trapVec reserve)).fillVirt
                blk.ctx 2 (s1.trapArea blk1 w1) 4096
      else s
    | _, _ => s

/-- A precise trap of the path in a slot (R304, R305): the block ends when no handler can take it (R308); otherwise
the trap is entered at once when nothing of the warp is in flight, and waits for TRAP_ENTRY when something is. While another
trap of the warp waits to be entered nothing is raised: the instruction re-executes after the handler. -/
def State.raiseTrap (s : State) (b wi slot : Nat) (code detail : Nat) (addr : DWord) (skip : Bool) : State :=
  match s.warp? b wi with
  | none => s
  | some (blk, w) =>
    match w.path slot with
    | none => s
    | some p =>
      if w.trap.isSome then s
      else if (s.ctx blk.ctx).trapVec = 0#64 || w.frame.isSome then s.terminate b code detail p.pc addr
      else
        let t : Trap :=
          { code := BitVec.ofNat 8 code, detail := BitVec.ofNat 8 detail, addr := addr, slot := slot, skip := skip, seq := s.nextId }
        ({ s with nextId := s.nextId + 1 }.updWarp b wi fun w => { w with trap := some t }).tryEnter b wi

end Sys2Proof.Machine
end

