-- ==== Sys2Proof/Machine/Operands.lean ====
section
/-!
DEFINITION. Operands: what every specifier reads (R18, R19, R42), immediates, guards and active lanes (R22, R23),
the writes of vector registers with their uniform tags (R111), scalars and predicates, and how an instruction
retires, branches, waits or traps.
-/
namespace Sys2Proof.Machine
open Sys2Proof

/-! ### The warp an instruction executes for -/

/-- The view of the state an instruction starts from: its block, warp, slot, path and core. -/
structure Actx where
  bid : Nat
  wi : Nat
  slot : Nat
  blk : Block
  w : Warp
  p : Path
  core : Nat

/-- The view for a slot of a warp, when it holds a path and its block is resident. -/
def State.actxAt (s : State) (b wi slot : Nat) : Option Actx :=
  match s.warp? b wi with
  | none => none
  | some (blk, w) =>
    match w.path slot, blk.core? with
    | some p, some c => some { bid := b, wi := wi, slot := slot, blk := blk, w := w, p := p, core := c }
    | _, _ => none

/-- The view for the slot the state names as its actor. -/
def State.actx (s : State) : Option Actx :=
  match s.actor with
  | .warp b wi slot => s.actxAt b wi slot
  | _ => none

/-! ### Vector registers -/

/-- A vector register of zeros, tagged uniform. -/
def VReg.zero : VReg := { lanes := List.replicate 32 { val := 0#32, px := false }, uni := true }

/-- In handler mode V232–V239 name the lent block (R306). -/
def Warp.lends (w : Warp) (n : Nat) : Bool := w.frame.isSome && decide (232 ≤ n) && decide (n ≤ 239)

/-- The vector register of a number. A latch may still name a register that RBREL has released, which then reads 0 (DESIGN
CHOICE, log entry 75). -/
def Warp.vreg (w : Warp) (n : Nat) : VReg :=
  if w.lends n then nth VReg.zero w.lent (n - 232) else nth VReg.zero w.vregs n

/-- The warp with a vector register replaced. -/
def Warp.setVreg (w : Warp) (n : Nat) (r : VReg) : Warp :=
  if w.lends n then { w with lent := setNth w.lent (n - 232) r } else { w with vregs := setNth w.vregs n r }

/-- A lane of a register. -/
def VReg.lane (r : VReg) (l : Nat) : KVal := nth { val := 0#32, px := false } r.lanes l

/-- A plain value. -/
def KVal.plain (v : Word) : KVal := { val := v, px := false }

/-- The lanes of a register after a write of some lanes. -/
def VReg.newLanes (r : VReg) (m : Mask) (f : Nat → KVal) : List KVal :=
  (List.range 32).map fun l => if m.getLsbD l then f l else r.lane l

/-- The lanes agree and none holds a proxy (R111). -/
def uniformLanes (ls : List KVal) : Bool := ls.all fun k => k == nth { val := 0#32, px := false } ls 0 && !k.px

/-- A write of the lanes of a mask: the uniform tag is set when all 32 lanes write one plain value, kept when a
register tagged uniform still holds one value, and cleared otherwise (R111). -/
def VReg.write (r : VReg) (m : Mask) (f : Nat → KVal) : VReg :=
  let ls := r.newLanes m f
  { lanes := ls, uni := (m == BitVec.allOnes 32 || r.uni) && uniformLanes ls }

/-- The handles that a write of some lanes loses (R269). -/
def VReg.lost (r : VReg) (m : Mask) : List Word :=
  (lanesOf m).filterMap fun l => if (r.lane l).px then some (r.lane l).val else none

/-! ### Sources -/

/-- A scalar register. -/
def Warp.sreg (w : Warp) (n : Nat) : Word := nth 0#32 w.sregs n

/-- The coordinates of a block from its index: x varies fastest (R84). -/
def Record.coord (r : Record) (index : Nat) : Nat × Nat × Nat :=
  (index % r.nbx, index / r.nbx % r.nby, index / (r.nbx * r.nby))

/-- The system scalars (R19). -/
def State.sysScalar (s : State) (a : Actx) (n : Nat) : Word :=
  let r := (s.record? a.blk.record).getD default
  let cyc := s.cycle (clusterOf a.core)
  match n with
  | 0x60 => BitVec.ofNat 32 a.wi
  | 0x61 => BitVec.ofNat 32 (r.coord a.blk.index).1
  | 0x62 => BitVec.ofNat 32 (r.coord a.blk.index).2.1
  | 0x63 => BitVec.ofNat 32 (r.coord a.blk.index).2.2
  | 0x64 => BitVec.ofNat 32 r.nbx
  | 0x65 => BitVec.ofNat 32 r.nby
  | 0x66 => BitVec.ofNat 32 r.nbz
  | 0x67 => BitVec.ofNat 32 r.stage
  | 0x68 => BitVec.ofNat 32 cyc
  | 0x69 => BitVec.ofNat 32 (cyc / 2 ^ 32)
  | 0x6A => BitVec.ofNat 32 a.core
  | 0x6B => BitVec.ofNat 32 (clusterOf a.core)
  | 0x6C => BitVec.ofNat 32 a.blk.ctx
  | 0x6D => BitVec.ofNat 32 a.blk.variant
  | 0x6E => a.blk.sizeclass
  | 0x6F => BitVec.ofNat 32 a.blk.warps.length
  | _ => 0#32

/-- What a specifier reads in a lane, its latch followed once already (R42). -/
def State.rdReg (s : State) (a : Actx) (v : Nat) (sf : Bool) (l : Nat) : KVal :=
  if sf then KVal.plain (if v < 0x60 then a.w.sreg v else s.sysScalar a v)
  else if v < 0xF0 then (a.w.vreg v).lane l
  else if v = 0xF4 then KVal.plain (BitVec.ofNat 32 l)
  else if v = 0xF5 then KVal.plain (BitVec.ofNat 32 a.wi)
  else KVal.plain 0#32

/-- The register a specifier names, a latch's tag followed (R28). -/
def Warp.resolve (w : Warp) (v : BitVec 8) (sf : Bool) : Nat × Bool :=
  if !sf && decide (0xF0 ≤ v.toNat) && decide (v.toNat ≤ 0xF2) then
    match (w.latches[v.toNat - 0xF0]?).bind (·.tag) with
    | some (v', sf') => (v'.toNat, sf')
    | none => (0xF3, false)
  else (v.toNat, sf)

/-- The helper rd of R42: the value and kind tag a specifier reads in a lane. -/
def State.rd (s : State) (a : Actx) (v : BitVec 8) (sf : Bool) (l : Nat) : KVal :=
  let r := a.w.resolve v sf
  s.rdReg a r.1 r.2 l

/-- A source: a specifier with its S bit, or an immediate. -/
inductive Src
  | reg (v : BitVec 8) (s : Bool)
  | imm (v : Word)
deriving DecidableEq, Repr

/-- What a source reads in a lane. -/
def State.src (s : State) (a : Actx) (x : Src) (l : Nat) : KVal :=
  match x with
  | .reg v sf => s.rd a v sf l
  | .imm v => KVal.plain v

end Sys2Proof.Machine

namespace Sys2Proof
open Sys2Proof.Machine

/-- The three register sources of the operand layout (R13). -/
def Opnds.srcA (o : Opnds) : Src := .reg o.a o.sa
/-- Source B. -/
def Opnds.srcB (o : Opnds) : Src := .reg o.b o.sb
/-- Source C. -/
def Opnds.srcC (o : Opnds) : Src := .reg o.c o.sc
/-- IMM16 sign-extended (R14). -/
def Opnds.immS (o : Opnds) : Src := .imm (o.imm16.signExtend 32)
/-- IMM16 zero-extended (R14). -/
def Opnds.immZ (o : Opnds) : Src := .imm (o.imm16.zeroExtend 32)
/-- A MOD bit. -/
def Opnds.m (o : Opnds) (i : Nat) : Bool := o.mod.getLsbD i

end Sys2Proof

namespace Sys2Proof.Machine
open Sys2Proof

/-- A source holds a proxy in a lane of the mask. -/
def State.anyPx (s : State) (a : Actx) (m : Mask) (xs : List Src) : Bool :=
  (lanesOf m).any fun l => xs.any fun x => (s.src a x l).px

/-- The lane that stands for the warp where an instruction with SD = 1 forms one value from per-lane state and the manual
does not say which lane's: a free choice among the active lanes (log entry 12). -/
def State.soleLane (s : State) (m : Mask) : Nat :=
  let ls := lanesOf m
  nth 0 ls ((Config.freeWord s.drawn).toNat % max 1 ls.length)

/-- The value of a scalar source. -/
def State.scalar (s : State) (a : Actx) (v : BitVec 8) (sf : Bool) : Word := (s.rd a v sf 0).val

/-- A pair of registers as a 64-bit value: the even register holds the low word, and the specifier after it names the high
one (R47, R169; log entry 69). ZERO is 0 throughout. -/
def State.pairVal (s : State) (a : Actx) (v : BitVec 8) (sf : Bool) (l : Nat) : Nat :=
  if v = 0xF3#8 && !sf then 0 else (s.rd a v sf l).val.toNat + 2 ^ 32 * (s.rd a (v + 1#8) sf l).val.toNat

/-! ### Guards (R22) -/

/-- The guard register of some lane of the slot's mask holds a proxy predicate. -/
def Actx.guardPx (a : Actx) (g : BitVec 3) : Bool := (lanesOf a.p.mask).any fun l => (a.w.pred g.toNat l).px.isSome

/-- The active lanes of an instruction. -/
def Actx.active (a : Actx) (gn : Bool) (g : BitVec 3) : Mask :=
  maskOf ((lanesOf a.p.mask).filter fun l => (a.w.pred g.toNat l).val != gn)

/-! ### Writes -/

/-- Lanes of a vector register are written, and the handles they held drop (R42, R269). -/
def State.wrVec (s : State) (a : Actx) (n : Nat) (m : Mask) (f : Nat → KVal) : State :=
  match s.warp? a.bid a.wi with
  | none => s
  | some (blk, w) =>
    (s.setWarp blk a.wi (w.setVreg n ((w.vreg n).write m f))).dropRefs a.core blk.ctx a.bid a.wi ((w.vreg n).lost m)

/-- A scalar register is written. -/
def State.wrSc (s : State) (a : Actx) (n : Nat) (v : Word) : State :=
  s.updWarp a.bid a.wi fun w => { w with sregs := setNth w.sregs n v }

/-- The destination D of an instruction: ZERO discards, a scalar is written once, a vector register in the lanes of the
mask (R20, R21). -/
def State.wrK (s : State) (a : Actx) (d : BitVec 8) (sd : Bool) (m : Mask) (f : Nat → KVal) : State :=
  if sd then s.wrSc a d.toNat (f 0).val
  else if d = 0xF3#8 then s
  else s.wrVec a d.toNat m f

/-- The same for plain values: the helper wr of R42. -/
def State.wr (s : State) (a : Actx) (d : BitVec 8) (sd : Bool) (m : Mask) (f : Nat → Word) : State :=
  s.wrK a d sd m fun l => KVal.plain (f l)

/-- Lanes of a predicate are written, and the proxy predicates they held drop; P7 discards (R121, R268). -/
def State.wrPred (s : State) (a : Actx) (n : Nat) (m : Mask) (f : Nat → PredLane) : State := s.setPreds a.core a.bid a.wi n m f

/-- A plain predicate write. -/
def State.wrP (s : State) (a : Actx) (n : Nat) (m : Mask) (f : Nat → Bool) : State :=
  s.wrPred a n m fun l => { val := f l, px := none }

/-! ### How an instruction ends -/

/-- The instruction retires: its path goes on at the next word, and arrives where its rejoin point lies there (R64). -/
def State.retire (s : State) (a : Actx) : State := s.updWarp a.bid a.wi fun w => (w.nextWord a.slot).settled

/-- The path goes to an address where a header is due (R31). -/
def State.goto (s : State) (a : Actx) (pc : DWord) : State :=
  s.updWarp a.bid a.wi fun w => (w.jump a.slot pc).settled

/-- The slot waits for an event that its own record elsewhere names. -/
def State.blockSlot (s : State) (a : Actx) : State := s.updWarp a.bid a.wi fun w => w.setWait a.slot .blocked

/-- The helper raise of R42: a precise trap of the instruction, which does not retire (R305). -/
def State.raise (s : State) (a : Actx) (code detail : Nat) : State := s.raiseTrap a.bid a.wi a.slot code detail 0#64 true

/-- The same with an address for TRAP_ADDR. -/
def State.raiseAt (s : State) (a : Actx) (code detail : Nat) (addr : DWord) : State :=
  s.raiseTrap a.bid a.wi a.slot code detail addr true

/-! ### The common course of an instruction (R22, R23) -/

/-- An instruction with a guard: a proxy predicate raises PXUSE, and with no active lane it retires with no effect;
otherwise it acts. Without a warp to act for nothing happens. -/
def State.guarded (s : State) (gn : Bool) (g : BitVec 3) (act : Actx → Mask → State) :
    Host.Outcome State Fault Refusal :=
  match s.actx with
  | none => .next s
  | some a =>
    if a.guardPx g then .next (s.raise a Code.pxuse 0x02)
    else if a.active gn g = 0#32 then .next (s.retire a)
    else .next (act a (a.active gn g))

/-- An instruction of the operand layout with its guard. -/
def State.run (s : State) (o : Opnds) (act : Actx → Mask → State) : Host.Outcome State Fault Refusal :=
  s.guarded o.gn o.g act

/-- An instruction that cannot take a proxy and writes one plain result: PXUSE comes first (R115, R265). -/
def State.plainOp (s : State) (o : Opnds) (xs : List Src) (f : Actx → Nat → Word) : Host.Outcome State Fault Refusal :=
  s.run o fun a m =>
    if s.anyPx a m xs then s.raise a Code.pxuse 0x01
    else (s.wr a o.d o.sd m (f a)).retire a

/-! ### Decode-time surroundings (R18, R28, R31, R33) -/

/-- The surroundings of a word due in the clause of a path. -/
def decodeCtxOf (w : Warp) (p : Path) : DecodeCtx :=
  { blocks := w.b, handler := w.frame.isSome, latches := w.latches.map (·.tag)
    last := p.clause.left == 1, flag1 := p.clause.s1.isSome, flag2 := p.clause.s2.isSome }

/-- The register a HOLD names (R13, R28). -/
def heldOperand (o : Opnds) : Option (BitVec 8 × Bool) :=
  match o.hold.toNat with
  | 1 => some (o.a, o.sa)
  | 2 => some (o.b, o.sb)
  | 3 => some (o.c, o.sc)
  | _ => none

/-- The entry and the tag that a HOLD sets. -/
def holdTag (o : Option Opnds) : Option (Nat × BitVec 8 × Bool) :=
  o.bind fun o => (heldOperand o).map fun t => (o.hslot.toNat, t)

/-- A HOLD sets its entry's tag at decode, whatever the guard (R28). -/
def Warp.setTag (w : Warp) (o : Option Opnds) : Warp :=
  match holdTag o with
  | some (n, t) => { w with latches := setNth w.latches n { (nth default w.latches n) with tag := some t } }
  | none => w

/-- An issued word ages the latches by one, and the entry it set stays valid for the next two (R29). -/
def Warp.issueLatches (w : Warp) (o : Option Opnds) : Warp :=
  let aged := w.latches.map fun (l : Latch) => { l with valid := l.valid - 1 }
  match holdTag o with
  | some (n, t) => { w with latches := setNth aged n { tag := some t, valid := 2 } }
  | none => { w with latches := aged }

end Sys2Proof.Machine
end

