-- ==== Sys2Proof/Machine/Faults.lean ====
section
/-!
DEFINITION. Translation failures of an instruction's accesses and of its fetch: what each reason does (R98, R99,
R173), and the waits on a page that is not present (R380).
-/
namespace Sys2Proof.Machine
open Sys2Proof

/-- A wait on a page with P = 0 begins: its fault record of kind 0 is posted, and the wait stands until FR_HEAD passes
that record (R173, R319, R380). -/
def State.pageWait (s : State) (ctx : Nat) (va : Nat) (write fetch : Bool) (waiter : FaultWaiter) (core code : Nat)
    (pc : DWord) : Nat × State :=
  let (id, s1) := s.fresh
  let s2 := { s1 with faultWaits := s1.faultWaits ++
    [({ id := id, ctx := ctx, va := va, write := write, fetch := fetch, waiter := waiter, seq := none, passed := false
        pc := pc, core := core, code := code } : FaultWait)] }
  (id, s2.postRecord ctx { addr := BitVec.ofNat 64 va, pc := pc, core := core, kind := 0, detail := 1#8
                           code := BitVec.ofNat 8 code, wait := some id })

/-- A path parks until the page of a wait is resident (R99). -/
def State.park (s : State) (b wi slot id : Nat) : State := s.updWarp b wi fun w => w.setWait slot (.parked id)

/-- A path of the warp is parked on a data page fault: the warp parks (R99). -/
def Warp.isParked (w : Warp) : Bool :=
  [w.path0, w.path1].any fun p => match p with | some p => (match p.wait with | .parked _ => true | _ => false) | none => false

/-- DFAULT of a core-issued access (R98, R99, R173): reason 0x01 parks the warp, or holds an idempotent block for its
replay, or ends the block when the context has no ring; every other reason is delivered. -/
def State.dataFault (s : State) (a : Actx) (va detail : Nat) (write : Bool) : State :=
  if detail ≠ 0x01 then s.raiseAt a Code.dfault detail (BitVec.ofNat 64 va)
  else if (s.ctx a.blk.ctx).ringLog.isNone then s.terminate a.bid Code.dfault 0x01 a.p.pc (BitVec.ofNat 64 va)
  else
    let waiter : FaultWaiter := if a.blk.idemp then .replay a.bid else .warp a.bid a.wi a.slot
    let (id, s1) := s.pageWait a.blk.ctx va write false waiter a.core Code.dfault a.p.pc
    s1.park a.bid a.wi a.slot id

/-- IFAULT at the word due (R99, R173): reason 0x01 swaps the block out, or ends it when the context has no ring; every
other reason is delivered, and TRET.SKIP does not step over it (R309). -/
def State.fetchFault (s : State) (a : Actx) (detail : Nat) : State :=
  if detail ≠ 0x01 then s.raiseTrap a.bid a.wi a.slot Code.ifault detail a.p.pc false
  else if (s.ctx a.blk.ctx).ringLog.isNone then s.terminate a.bid Code.ifault 0x01 a.p.pc a.p.pc
  else
    let (id, s1) := s.pageWait a.blk.ctx a.p.pc.toNat false true (.swap a.bid) a.core Code.ifault a.p.pc
    s1.park a.bid a.wi a.slot id

/-- The block waits for its replay or its swap-out: no warp of it issues (R98, R99). -/
def State.blockHeld (s : State) (b : Nat) : Bool :=
  s.faultWaits.any fun f => match f.waiter with | .replay x => x == b | .swap x => x == b | _ => false

/-! ### The divergence stack in memory (R67) -/

/-- Virtual address of entry `i` of the warp's divergence spill area, which lies above its private and trap save areas
(R306, R320; its layout is the device's, log entry 13). -/
def State.spillAddr (s : State) (a : Actx) (i : Nat) : Nat := s.trapArea a.blk a.w + 4096 + 16 * i

/-- What names an entry of the stack while it stands there: a record's identity, or when a path was pushed. -/
def StackEntry.key : StackEntry → Bool × Nat
  | .join r => (true, r.id)
  | .path p => (false, p.seq)

/-- When an entry was last written (R67). -/
def StackEntry.written : StackEntry → Nat
  | .join r => r.seq
  | .path p => p.seq

/-- An entry of a stack is among the 16 most recently written, which the core keeps (R67). -/
def onChip (st : List StackEntry) (e : StackEntry) : Bool :=
  decide ((st.filter fun x => decide (e.written < x.written)).length < 16)

/-- Entries of a stack with their places in the spill area, counted from the oldest. -/
def placed (st : List StackEntry) : List (StackEntry × Nat) := st.reverse.zipIdx

/-- The places of the entries that the core fetches from the spill area as one stack becomes another: those that it did not
keep and now needs, because they have left the stack or are among the most recently written (R67). -/
def stackFills (old new : List StackEntry) : List Nat :=
  if old.length ≤ 16 then []
  else (placed old).filterMap fun x =>
    if !onChip old x.1 && !(new.any fun y => y.key == x.1.key && !onChip new y) then some x.2 else none

/-- The places of the entries that move to the spill area as one stack becomes another (R67). -/
def stackSpills (old new : List StackEntry) : List Nat :=
  if new.length ≤ 16 then []
  else (placed new).filterMap fun x =>
    if !onChip new x.1 && !(old.any fun y => y.key == x.1.key && !onChip old y) then some x.2 else none

/-- Fills and spills of the divergence stack as the warp of an instruction becomes another: the address, reason and direction
of the first that fails to translate, the fills first (R67, R173). -/
def State.spillFault (s : State) (a : Actx) (w1 : Warp) : Option (Nat × Nat × Bool) × State :=
  match s.translateList a.core a.blk.ctx .read ((stackFills a.w.stack w1.stack).map (s.spillAddr a)) with
  | (.error (va, d), s1) => (some (va, d, false), s1)
  | (.ok _, s1) =>
    match s1.translateList a.core a.blk.ctx .write ((stackSpills a.w.stack w1.stack).map (s.spillAddr a)) with
    | (.error (va, d), s2) => (some (va, d, true), s2)
    | (.ok _, s2) => (none, s2)

/-- The entries that move to a warp's spill area, as its divergence stack becomes another, are written there (R67). -/
def State.spilled (s : State) (b : Block) (w w1 : Warp) : State :=
  (stackSpills w.stack w1.stack).foldl (fun (s : State) (i : Nat) => s.fillVirt b.ctx 2 (s.trapArea b w + 4096 + 16 * i) 16) s

/-- What a step has moved to the spill area of any warp is written there (R67). -/
def State.spillBeside (s t : State) : State :=
  s.blocks.foldl (fun (t : State) (b : Block) =>
    b.warps.zipIdx.foldl (fun (t : State) (x : Warp × Nat) =>
      match t.warp? b.id x.2 with
      | some (_, w1) => if w1.ended then t else t.spilled b x.1 w1
      | none => t) t) t

/-! ### What a program must not touch (R6, R67, R306) -/

/-- Free values in place of what a warp's trap frame holds, from the k-th on. -/
def Frame.spoiled (f : Frame) (k : Nat) : Frame :=
  let word (i : Nat) : Word := Config.freeWord (k + i)
  { f with
    vregs := f.vregs.zipIdx.map fun (x : VReg × Nat) =>
      { x.1 with lanes := x.1.lanes.zipIdx.map fun (y : KVal × Nat) =>
          if y.1.px then y.1 else { y.1 with val := word (32 * x.2 + y.2) } }
    sregs := f.sregs.zipIdx.map fun (x : Word × Nat) => word (256 + x.2)
    latches := f.latches.zipIdx.map fun (x : Latch × Nat) =>
      { x.1 with tag := some (BitVec.ofNat 8 ((word (264 + x.2)).toNat % 96), (word (267 + x.2)).getLsbD 0) }
    clause := { s1 := some ((word 270).toNat % 12), s2 := some ((word 271).toNat % 12), left := (word 272).toNat % 32 } }

/-- A free word address. -/
def freePc (k : Nat) : DWord := BitVec.ofNat 64 (((Config.freeWord k).toNat + 2 ^ 32 * (Config.freeWord (k + 1)).toNat) % 2 ^ 57 / 8 * 8)

/-- Free word addresses in place of those of a warp's paths and join records, from the k-th free value on (log entry 73). -/
def Warp.spoilPaths (w : Warp) (k : Nat) : Warp :=
  { w with
    path0 := w.path0.map fun (p : Path) => { p with pc := freePc k }
    path1 := w.path1.map fun (p : Path) => { p with pc := freePc (k + 2) }
    stack := w.stack.zipIdx.map fun (x : StackEntry × Nat) =>
      match x.1 with
      | .path p => .path { p with pc := freePc (k + 4 + 2 * x.2) }
      | .join r => .join { r with rejoin := freePc (k + 4 + 2 * x.2) } }

/-- A program has read or written an address of a live warp's trap save area or spill area: what the frame holds, or where
the warp's paths stand, follows R6 (R67, R306). -/
def State.touchArea (s : State) (b : Block) (wi : Nat) (w : Warp) (va : Nat) : State :=
  let base := s.trapArea b w
  if w.ended || va < base || base + 4096 + 16 * s.divCapacity b ≤ va then s
  else if va < base + 4096 then
    { s.setWarp b wi { w with frame := w.frame.map (·.spoiled s.drawn) } with drawn := s.drawn + 273 }
  else { s.setWarp b wi (w.spoilPaths s.drawn) with drawn := s.drawn + 4 + 2 * w.stack.length }

/-- The warps of a context whose areas the addresses of a program's access lie in are spoiled. -/
def State.misuse (s : State) (ctx : Nat) (vas : List Nat) : State :=
  vas.foldl (fun s va =>
    s.blocks.foldl (fun s b =>
      if b.ctx != ctx then s else
      (List.range b.warps.length).foldl (fun s wi =>
        match s.warp? b.id wi with
        | some (b1, w) => s.touchArea b1 wi w va
        | none => s) s) s) s

/-- Bytes of a kernel object from its base: to its code limit, its constants and its tables (R323). -/
def KObj.extent (k : KObj) : Nat :=
  max (max k.codelim (k.constoff + k.constsz)) (max (k.vtab + 32 * k.variants.length) (k.tdir + 8 * k.ntab))

/-- An offset lies in the part of a kernel object that software must leave alone (R325): header, tables, code and what stands
between them. The constant space is not among it, since R170 has a program that writes it execute CCTL.CONST (log entry 81). -/
def KObj.fixed (k : KObj) (off : Nat) : Bool :=
  let within (base n : Nat) : Bool := decide (base ≤ off) && decide (off < base + n)
  decide (off < k.extent)
    && (!within k.constoff k.constsz || within 0 64 || within k.codestart (k.codelim - k.codestart)
        || within k.vtab (32 * k.variants.length) || within k.tdir (8 * k.ntab))

/-- Free values in place of the plain values of a warp's registers and predicates, its trap frame and its word addresses, from
the k-th on. -/
def Warp.spoiled (w : Warp) (k : Nat) : Warp :=
  let word (i : Nat) : Word := Config.freeWord (k + i)
  let n := 4 + 2 * w.stack.length + 273
  let reg (r : VReg) (i : Nat) : VReg :=
    { lanes := r.lanes.zipIdx.map fun (y : KVal × Nat) => if y.1.px then y.1 else KVal.plain (word (n + 32 * i + y.2)), uni := false }
  { w.spoilPaths k with
    vregs := w.vregs.zipIdx.map fun (x : VReg × Nat) => reg x.1 x.2
    lent := w.lent.zipIdx.map fun (x : VReg × Nat) => reg x.1 (240 + x.2)
    sregs := w.sregs.zipIdx.map fun (x : Word × Nat) => word (n + 8000 + x.2)
    preds := w.preds.zipIdx.map fun (x : List PredLane × Nat) => x.1.zipIdx.map fun (y : PredLane × Nat) =>
      if y.1.px.isSome then y.1 else { y.1 with val := (word (n + 8100 + x.2)).getLsbD y.2 }
    frame := w.frame.map (·.spoiled (k + 4 + 2 * w.stack.length)) }

/-- The warps of a block follow R6 (log entry 81). -/
def State.spoilBlock (s : State) (b : Nat) : State :=
  match s.block? b with
  | none => s
  | some blk => (List.range blk.warps.length).foldl (fun (s : State) (wi : Nat) =>
      { s.updWarp b wi fun w => if w.ended then w else w.spoiled s.drawn with drawn := s.drawn + 20000 }) s

/-- A program writes these addresses: a block whose kernel object holds one follows R6 (R325). -/
def State.changeObject (s : State) (ctx : Nat) (vas : List Nat) : State :=
  (s.blocks.filter fun b => b.ctx == ctx && (match s.record? b.record, s.kobj b with
    | some r, some k => vas.any fun va => decide (r.kobj ≤ va) && k.fixed (va - r.kobj)
    | _, _ => false)).foldl (fun (s : State) (b : Block) => s.spoilBlock b.id) s

/-- The pages of a kernel object of a context, each as its virtual and its physical base (R162). -/
def State.objectPages (s : State) (ctx kobj : Nat) (k : KObj) : List (Nat × Nat) :=
  (List.range ((kobj % 65536 + k.extent + 65535) / 65536)).filterMap fun i =>
    let page := kobj / 65536 * 65536 + 65536 * i
    match s.physOf ctx page .read with
    | .ok base => some (page, base)
    | .error _ => none

/-- A physical address lies in the part of a kernel object on these pages that software must leave alone (R325). -/
def KObj.covers (k : KObj) (kobj : Nat) (pages : List (Nat × Nat)) (pa : Nat) : Bool :=
  pages.any fun p => pa / 65536 == p.2 / 65536 && decide (kobj ≤ p.1 + pa % 65536) && k.fixed (p.1 + pa % 65536 - kobj)

/-- The kernel object of a block holds one of these bytes. -/
def State.objectTouched (s : State) (b : Block) (pas : List Nat) : Bool :=
  match s.record? b.record, s.kobj b with
  | some r, some k =>
    let pages := s.objectPages b.ctx r.kobj k
    pas.any (k.covers r.kobj pages)
  | _, _ => false

/-- The kernel object of a record has changed since the record joined its ring (R325). -/
def State.objectChanged (s : State) (r : Record) (k : KObj) : Bool :=
  match s.readyAt.find? fun e => e.1 == r.ready with
  | none => false
  | some (_, t) =>
    let later := s.log.takeWhile fun e => decide (t < e.time)
    let pages := if later.isEmpty then [] else s.objectPages r.ctx r.kobj k
    later.any fun e => e.writes.any fun w => k.covers r.kobj pages w.1

/-- Another agent writes these bytes: a block whose kernel object holds one follows R6 (R325). -/
def State.changeObjectAt (s : State) (pas : List Nat) : State :=
  (s.blocks.filter fun b => s.objectTouched b pas).foldl (fun (s : State) (b : Block) => s.spoilBlock b.id) s

/-- The block has executed, with an active lane, one of the instructions that end idempotent treatment (R98). -/
def State.loseIdemp (s : State) (a : Actx) : State :=
  match s.block? a.bid with
  | some blk => s.setBlock { blk with idemp := false }
  | none => s

end Sys2Proof.Machine
end

