-- ==== Sys2Proof/Machine/Flags.lean ====
section
/-!
DEFINITION. Completion flags and the register scoreboard: counting up at issue and down at completion (R32, R33),
operations in flight, and the registers that an instruction names for R34.
-/
namespace Sys2Proof.Machine
open Sys2Proof

/-- The flag an instruction counts on: its clause's set-flag 1 or 2 (R33). -/
def Actx.flagOf (a : Actx) (fs : Bool) : Option Nat := if fs then a.p.clause.s2 else a.p.clause.s1

/-- The count of a flag. -/
def Warp.flag (w : Warp) (f : Nat) : Nat := nth 0 w.flags f

/-- The issue would raise a count to 64, and waits (R33). -/
def Actx.flagFull (a : Actx) (fs : Bool) : Bool :=
  match a.flagOf fs with
  | some f => decide (63 ≤ a.w.flag f)
  | none => false

/-- A flag counts up (R33). -/
def Warp.countUp (w : Warp) (f : Option Nat) : Warp :=
  match f with
  | some f => { w with flags := setNth w.flags f (w.flag f + 1) }
  | none => w

/-- A flag counts down (R33). -/
def Warp.countDown (w : Warp) (f : Option Nat) : Warp :=
  match f with
  | some f => { w with flags := setNth w.flags f (w.flag f - 1) }
  | none => w

/-- An operation joins those in flight; it carries the flag it counts on, and the routes of the peers it writes (R33, R361). -/
def State.pushOp (s : State) (a : Actx) (flag : Option Nat) (epoch : Option (Nat × Nat)) (k : OpKind) : State :=
  let (id, s1) := s.fresh
  { s1 with ops := s1.ops ++ [{ id := id, block := a.bid, warp := a.wi, core := a.core, ctx := a.blk.ctx, flag := flag
                                epoch := epoch, kind := k, srcs := none, data := (0#32, []), routes := s.routesOf k.written }] }

/-- A flag-counted operation issues: its flag counts up and the operation is in flight (R33). -/
def State.startOp (s : State) (a : Actx) (o : Opnds) (k : OpKind) : State :=
  (s.pushOp a (a.flagOf o.fs) none k).updWarp a.bid a.wi fun w => w.countUp (a.flagOf o.fs)

/-- The operation of an identity. -/
def State.op? (s : State) (id : Nat) : Option Op := s.ops.find? fun o => o.id == id

/-- An operation replaced by another kind, as part of it is done. -/
def State.setOp (s : State) (id : Nat) (k : OpKind) : State :=
  { s with ops := s.ops.map fun (o : Op) => if o.id = id then { o with kind := k } else o }

/-- An operation completes: its flag counts down (R33), and the block leaves its core if that was its last (R91). -/
def State.finishOp (s : State) (o : Op) : State :=
  let s1 := { s with ops := s.ops.filter fun x => x.id != o.id }
  ((s1.updWarp o.block o.warp fun w => w.countDown o.flag).tryTerminate o.block).reap o.block

/-- A flag-counted instruction: while its flag is full it waits at issue; otherwise it runs (R33). -/
def State.counted (s : State) (o : Opnds) (act : Actx → Mask → State) : Host.Outcome State Fault Refusal :=
  match s.actx with
  | none => .next s
  | some a => if a.flagFull o.fs && a.active o.gn o.g != 0#32 then .next s else s.run o act

/-! ### The register scoreboard (R34) -/

/-- The vector register a field names, its latch followed. -/
def Warp.namedReg (w : Warp) (u : Use) (v : BitVec 8) (sf : Bool) : List Nat :=
  match u with
  | .dst | .src | .red =>
    let r := w.resolve v sf
    if r.2 || r.1 ≥ 0xF0 then [] else [r.1]
  | _ => []

/-- The vector registers a form's implied runs name, latches followed. -/
def Warp.runRegs (w : Warp) : List (Nat × Bool × Nat) → List Nat
  | [] => []
  | (v, sf, n) :: rest =>
    ((List.range n).flatMap fun i => w.namedReg .src (BitVec.ofNat 8 (v + i)) sf) ++ w.runRegs rest

/-- The vector registers an instruction names. Fragments of MMA and FRAGLD follow their shape, and their meanings add
them. -/
def Warp.namedRegs (w : Warp) (i : Instr) : List Nat :=
  match i with
  | .movi o => if o.sd || o.d.toNat ≥ 0xF0 then [] else [o.d.toNat]
  | i =>
    match form i, operandCode i, pairHalves i with
    | some f, some (_, _, o), _ =>
      w.namedReg f.d o.d o.sd ++ w.namedReg f.a o.a o.sa
        ++ (if f.imm then [] else w.namedReg f.b o.b o.sb ++ w.namedReg f.c o.c o.sc)
        ++ w.runRegs (f.runs ++ f.tagRuns (decodeCtxOf w default))
    | _, _, some (p, x, y) =>
      w.namedReg .dst x.d false ++ w.namedReg .dst y.o.d false
        ++ (if p.isImm then [] else w.namedReg .src x.a x.sa) ++ (if y.op.isImm then [] else w.namedReg .src y.o.a y.o.sa)
    | _, _, _ => []

/-- A PMAT of the warp still has to write one of these registers: the instruction waits at issue (R34, R275). -/
def State.pmatHolds (s : State) (b wi : Nat) (regs : List Nat) : Bool :=
  s.ops.any fun o => o.block == b && o.warp == wi && (match o.kind with | .pmat r _ _ => regs.contains r | _ => false)

end Sys2Proof.Machine
end

