-- ==== Sys2Proof/Machine/ProxyOps.lean ====
section
/-!
DEFINITION. What the capable instructions share: runs and reservations of proxy slots (R260, R261), the checks of R265,
copies from other homes (R266), results formed at a home (R264), and moves of handles (R269).
-/
namespace Sys2Proof.Machine
open Sys2Proof

/-! ### Runs and reservations (R260, R261) -/

/-- Slots of a run of extent e: ⌈2^e / 16⌉ (R260). -/
def runSlots (ext : Nat) : Nat := (2 ^ ext + 15) / 16

/-- A home's run at a slot, as the home has served the requests so far: the older one, where the slots of a run have returned
to a reservation and been taken again before its last drop is served (R267, R343). -/
def Home.run? (h : Home) (slot : Nat) : Option Run := h.runs.find? fun r => r.slot == slot

/-- The run at a slot that a core counts as live (R343). -/
def Home.live? (h : Home) (slot : Nat) : Option Run := h.runs.find? fun r => r.slot == slot && r.refs != 0

/-- Slots from `base`, `n` of them, meet a run of the home. -/
def Home.taken (h : Home) (base n : Nat) : Bool :=
  h.runs.any fun r => decide (r.slot < base + n) && decide (base < r.slot + runSlots r.ext)

/-- Slots from `base`, `n` of them, meet a run of the home that a core counts as live. -/
def Home.held (h : Home) (base n : Nat) : Bool :=
  h.runs.any fun r => r.refs != 0 && decide (r.slot < base + n) && decide (base < r.slot + runSlots r.ext)

/-- The slots of a home that a core's reservation could give a run of `n` slots, lowest first. -/
def Core.candidates (c : Core) (home n : Nat) : List Nat :=
  let bases := (c.chunks.filter fun k => k.home == home).map (·.base)
  (sortBy (fun x y => decide (x ≤ y)) (bases.flatMap fun b => (List.range (8 / n)).map fun i => b + n * i))

/-- The lowest free aligned run of the reservation (R261). -/
def State.freeRun (s : State) (core home ext : Nat) : Option Nat :=
  ((s.core core).candidates home (runSlots ext)).find? fun b => !(s.home home).held b (runSlots ext)

/-- A run enters a home's store, its value not yet formed. -/
def State.addRun (s : State) (home : Nat) (r : Run) : State :=
  s.setHome home { s.home home with runs := (s.home home).runs ++ [r] }

/-- The first of a list's runs that is a given one, changed in place. -/
def replaceRun (old new : Run) : List Run → List Run
  | [] => []
  | r :: rs => if r = old then new :: rs else r :: replaceRun old new rs

/-- The state with a run of a home changed. -/
def State.setRun (s : State) (home : Nat) (old new : Run) : State :=
  s.setHome home { s.home home with runs := replaceRun old new (s.home home).runs }

/-- The chunk that holds a slot was used now (R261). -/
def State.touchChunk (s : State) (core home slot : Nat) : State :=
  let c := s.core core
  let now := s.cycle (clusterOf core)
  s.setCore core { c with chunks := c.chunks.map fun (k : Chunk) =>
    if k.home = home ∧ k.base = slot / 8 * 8 then { k with used := now } else k }

/-- Result runs taken from a core's reservation, one after another: home, extent and count of each. The slots, or the
home at which the reservation lacks a run (R261). A LIMIT of 0 forbids every run (R263). -/
def State.takeRuns (s : State) (core ctx : Nat) : List (Nat × Nat × Nat) → Except Nat (List Nat × State)
  | [] => .ok ([], s)
  | (home, ext, count) :: rest =>
    match (if bits (s.ctx ctx).pxQuota 15 0 = 0 then none else s.freeRun core home ext) with
    | none => .error home
    | some slot =>
      let run : Run := { slot := slot, ext := ext, count := count, refs := count, ctx := ctx, formed := false, temp := false }
      let s1 := (s.addRun home run).touchChunk core home slot
      match State.takeRuns s1 core ctx rest with
      | .error h => .error h
      | .ok (slots, s2) => .ok (slot :: slots, s2)

/-- The instruction waits at issue while its core asks the home for as many chunks as the runs there need (R261). -/
def State.askChunks (s : State) (a : Actx) (home : Nat) (runs : List (Nat × Nat × Nat)) : State :=
  let slots := ((runs.filter fun r => r.1 == home).map fun r => runSlots r.2.1).sum
  let (id, s1) := (s.blockSlot a).fresh
  { s1 with chunkReqs := s1.chunkReqs ++
    [({ id := id, core := a.core, home := home, chunks := (slots + 7) / 8, block := a.bid, warp := a.wi, slot := a.slot
        asked := false, start := 0, answer := .none } : ChunkReq)] }

/-! ### Sources (R264 to R266) -/

/-- Where a capable instruction's result goes. -/
inductive PxDst
  | reg (d : BitVec 8) (sd : Bool)
  | pred (n : Nat)
deriving DecidableEq, Repr

/-- The destination ZERO discards: a run formed for it drops at once (R20, R269). -/
def PxDst.discards : PxDst → Bool
  | .reg d sd => d == 0xF3#8 && !sd
  | .pred _ => false

/-- The proxy words among an instruction's sources in a lane, in the order A, B, C. -/
def proxiesOf (ks : List KVal) : List Word := (ks.filter (·.px)).map (·.val)

/-- Proxy sources of unequal nonzero extents (R264, R265). -/
def extClash (ws : List Word) : Bool := decide ((distinct ((ws.map pxExt).filter (· ≠ 0))).length > 1)

/-- The extent of a result: that of its sources, extent 0 broadcast (R264). -/
def resultExt (ws : List Word) : Nat := (ws.map pxExt).foldl max 0

/-- FMT of a result (R264, R278). -/
def resultFmt (fn : HomeFn) (first : Word) : Nat :=
  match fn with
  | .itest _ _ | .fsetp _ _ => 15
  | .cvt imm _ =>
    (match bits imm 7 4 with
     | 0 => 0 | 1 => 1 | 2 => 2 | 3 => 3 | 4 => 4 | 5 => 5 | 6 => 10 | 8 => 6 | 9 => 8 | 10 => 11 | 11 => 12 | 12 => 7 | _ => 9)
  | .pdot f _ => if f = 7 ∨ f = 9 then 6 else 0
  | _ => pxFmt first

/-- PDOT and PRED give one word (R278, R279). -/
def HomeFn.reduces : HomeFn → Bool | .pdot _ _ => true | .pred _ _ => true | _ => false

/-- ITEST and FSETP take no proxy of nonzero extent (R265). -/
def HomeFn.compares : HomeFn → Bool | .itest _ _ => true | .fsetp _ _ => true | _ => false

/-- The copies a lane needs: home of the result, home, slot and extent of each source that lives away (R266). -/
def awayOf (ws : List Word) : List (Nat × Nat × Nat × Nat) :=
  match ws with
  | [] => []
  | w :: _ => (ws.filter fun x => pxHome x != pxHome w).map fun x => (pxHome w, pxHome x, pxSlot x, pxExt x)

/-- The copy request of this slot for a source that lives away. -/
def State.copyReq? (s : State) (a : Actx) (c : Nat × Nat × Nat × Nat) : Option PxReq :=
  s.pxReqs.find? fun r => r.block == a.bid && r.warp == a.wi && r.pathSlot == a.slot && r.home == c.1 &&
    (match r.kind with | .copy h sl _ _ => h == c.2.1 && sl == c.2.2.1 | _ => false)

/-- A source as its home sees it: a run there, the copy of a run of another home, or a plain word. -/
def State.pxSrc (s : State) (a : Actx) (home : Nat) (k : KVal) : PxSrc :=
  if !k.px then .plain k.val
  else if pxHome k.val = home then .run home (pxSlot k.val) (pxExt k.val)
  else
    match s.copyReq? a (home, pxHome k.val, pxSlot k.val, pxExt k.val) with
    | some r => .run home r.copySlot (pxExt k.val)
    | none => .run home 0 0

/-- PDOT's function follows the format of its A source (R278). -/
def HomeFn.of (fn : HomeFn) (first : Word) : HomeFn :=
  match fn with
  | .pdot _ m => .pdot (pxFmt first) m
  | f => f

/-- A request that lanes share: its result's home, function, extent, format and sources (R264). -/
structure PxGroup where
  home : Nat
  fn : HomeFn
  ext : Nat
  fmt : Nat
  srcs : List PxSrc
deriving DecidableEq, Repr

/-- The request of a lane with proxy sources. -/
def State.groupOf (s : State) (a : Actx) (fn : HomeFn) (ks : List KVal) : PxGroup :=
  let ws := proxiesOf ks
  let first := nth 0#32 ws 0
  { home := pxHome first, fn := fn.of first, ext := if fn.reduces || fn.compares then 0 else resultExt ws, fmt := resultFmt (fn.of first) first
    srcs := ks.map (s.pxSrc a (pxHome first)) }

/-- The copies this slot has had confirmed are used up: temporary runs drop after the operation (R266). -/
def State.useCopies (s : State) (a : Actx) (cs : List (Nat × Nat × Nat × Nat)) : State :=
  let rs := cs.filterMap (s.copyReq? a)
  let s1 := { s with pxReqs := s.pxReqs.filter fun r => !(rs.any fun q => q.id == r.id) }
  rs.foldl (fun s r => s.pushReq a.core r.home a.blk.ctx a.bid a.wi a.slot (.drop r.copySlot)) s1

/-- A lane's result when it is formed at a home: the handle of its group's run. -/
def groupHandle (gs : List (PxGroup × Nat)) (g : PxGroup) : Word :=
  match gs.find? fun x => x.1 = g with
  | some (g, slot) => mkProxy g.home slot g.ext g.fmt true
  | none => 0#32

/-! ### Capable instructions (R264) -/

/-- The result of a capable instruction is written: handles where a lane has a proxy source, plain words elsewhere. -/
def State.writePx (s : State) (a : Actx) (dst : PxDst) (m : Mask) (isPx : Nat → Bool) (handle plain : Nat → Word) : State :=
  match dst with
  | .reg d sd => s.wrK a d sd m fun l => if isPx l then { val := handle l, px := true } else KVal.plain (plain l)
  | .pred n => s.wrPred a n m fun l =>
      if isPx l then { val := false, px := some (handle l) } else { val := plain l != 0#32, px := none }

/-- A capable instruction whose lanes in `pl` have proxy sources, its checks made: it waits for copies and for result
runs, and then sends its requests (R261, R264, R266). -/
def State.formAtHome (s : State) (a : Actx) (m : Mask) (dst : PxDst) (fn : HomeFn) (ks : Nat → List KVal)
    (pl : List Nat) (plain : Nat → Word) : State :=
  let copies := distinct (pl.flatMap fun l => awayOf (proxiesOf (ks l)))
  let missing := copies.filter fun c => (s.copyReq? a c).isNone
  if !missing.isEmpty then
    missing.foldl (fun s c => s.pushReq a.core c.1 a.blk.ctx a.bid a.wi a.slot (.copy c.2.1 c.2.2.1 0 c.2.2.2)) (s.blockSlot a)
  else if copies.any fun c => match s.copyReq? a c with | some r => !r.served | none => true then s.blockSlot a
  else
    let groups := distinct (pl.map fun l => s.groupOf a fn (ks l))
    let count (g : PxGroup) : Nat := if dst.discards then 1 else (pl.filter fun l => s.groupOf a fn (ks l) = g).length
    let runs := groups.map fun g => (g.home, g.ext, count g)
    match s.takeRuns a.core a.blk.ctx runs with
    | .error home => s.askChunks a home runs
    | .ok (slots, s1) =>
      let gs := groups.zip slots
      let s2 := gs.foldl (fun (s : State) (x : PxGroup × Nat) =>
        s.pushReq a.core x.1.home a.blk.ctx a.bid a.wi a.slot (.operate x.1.fn x.1.srcs x.2 x.1.ext)) s1
      let s3 := (s2.useCopies a copies).dropRefs a.core a.blk.ctx a.bid a.wi
        (if dst.discards then gs.map fun x => mkProxy x.1.home x.2 x.1.ext x.1.fmt true else [])
      (s3.writePx a dst m (fun l => pl.contains l) (fun l => groupHandle gs (s.groupOf a fn (ks l))) plain).retire a

/-- The checks of a capable instruction in the lanes with proxies (R265, R271), then its result. -/
def State.capableLanes (s : State) (a : Actx) (m : Mask) (dst : PxDst) (fn : HomeFn) (ks : Nat → List KVal)
    (plain : Nat → Word) : State :=
  let pl := (lanesOf m).filter fun l => (ks l).any (·.px)
  let ws := pl.map fun l => proxiesOf (ks l)
  let lost := (ws.flatMap fun x => x.map pxHome).find? fun h => (s.ctx a.blk.ctx).lost h
  if ws.any extClash || (fn.compares && ws.any fun x => x.any fun w => pxExt w != 0) then s.raise a Code.pxuse 0x03
  else if pl.isEmpty then (s.writePx a dst m (fun _ => false) (fun _ => 0#32) plain).retire a
  else if dst = .pred 7 then s.retire a
  else
    match lost with
    | some h => s.raise a Code.pxlost h
    | none => s.formAtHome a m dst fn ks pl plain

/-- A capable instruction over its sources: each lane's plain result is the function's word, and lanes with a proxy
source form theirs at its home (R115, R133, R264). -/
def State.capable (s : State) (o : Opnds) (dst : PxDst) (xs : List Src) (fn : HomeFn) : Host.Outcome State Fault Refusal :=
  s.run o fun a m =>
    let ks (l : Nat) : List KVal := xs.map fun x => s.src a x l
    let v (l i : Nat) : Word := (nth (KVal.plain 0#32) (ks l) i).val
    s.capableLanes a m dst fn ks fun l => fn.word (v l 0) (v l 1) (v l 2)

/-! ### Moves of handles (R122, R127, R269) -/

/-- References added to a run; `n` lanes receive its handle. -/
def State.addRefs (s : State) (home slot n : Nat) : State :=
  match (s.home home).live? slot with
  | some r => s.setRun home r { r with count := r.count + n, refs := r.refs + n }
  | none => s

/-- The lanes that receive each handle: those beyond a count of 255 take a copy of the run instead (R269). -/
def State.overCount (s : State) (ws : List (Nat × Word)) : List (Nat × Word) :=
  ws.zipIdx.filterMap fun (x : (Nat × Word) × Nat) =>
    let before := ((ws.take x.2).filter fun y => pxHome y.2 == pxHome x.1.2 && pxSlot y.2 == pxSlot x.1.2).length
    let count := match (s.home (pxHome x.1.2)).live? (pxSlot x.1.2) with | some r => r.refs | none => 0
    if count + before ≥ 255 then some x.1 else none

/-- MOV and SEL: the value or handle of one source goes to each active lane (R122, R127). A lost home is not reached:
its handle moves without a reference (R271). -/
def State.moveLanes (s : State) (a : Actx) (o : Opnds) (m : Mask) (pick : Nat → KVal) : State :=
  let ws : List (Nat × Word) :=
    if o.d = 0xF3#8 && !o.sd then []
    else (lanesOf m).filterMap fun l =>
      if (pick l).px && !(s.ctx a.blk.ctx).lost (pxHome (pick l).val) then some (l, (pick l).val) else none
  let beyond := s.overCount ws
  let runs := beyond.map fun x => (pxHome x.2, pxExt x.2, 1)
  match s.takeRuns a.core a.blk.ctx runs with
  | .error home => s.askChunks a home runs
  | .ok (slots, s1) =>
    let fresh := beyond.zip slots
    let s2 := fresh.foldl (fun (s : State) (x : (Nat × Word) × Nat) =>
      s.pushReq a.core (pxHome x.1.2) a.blk.ctx a.bid a.wi a.slot (.dup (pxSlot x.1.2) x.2 (pxExt x.1.2))) s1
    let s3 := (ws.filter fun x => !(beyond.any fun y => y.1 == x.1)).foldl
      (fun (s : State) (x : Nat × Word) => s.addRefs (pxHome x.2) (pxSlot x.2) 1) s2
    let out (l : Nat) : KVal :=
      match fresh.find? fun x => x.1.1 == l with
      | some (x, slot) => { val := mkProxy (pxHome x.2) slot (pxExt x.2) (pxFmt x.2) true, px := true }
      | none => pick l
    (s3.wrK a o.d o.sd m out).retire a

end Sys2Proof.Machine
end

