-- ==== Sys2Proof/Machine/Integer.lean ====
section
/-!
DEFINITION. Integer, predicate and move instructions and pair words (R15, R24 to R27, R110 to R128).
-/
namespace Sys2Proof.Machine
open Sys2Proof

/-- A value of a lane's plain source. -/
def State.val (s : State) (a : Actx) (x : Src) (l : Nat) : Word := (s.src a x l).val

/-! ### Arithmetic (R118 to R121) -/

/-- IADD (R118), register form. -/
def execIaddReg (o : Opnds) (s : State) : Host.Outcome State Fault Refusal :=
  s.capable o (.reg o.d o.sd) [o.srcA, o.srcB] (.iadd (o.m 1) (o.m 0))

/-- IADD (R118), immediate form (R114). -/
def execIaddImm (o : Opnds) (s : State) : Host.Outcome State Fault Refusal :=
  s.capable o (.reg o.d o.sd) [o.srcA, o.immS] (.iadd (o.m 1) (o.m 0))

/-- ISUB (R118), register form. -/
def execIsubReg (o : Opnds) (s : State) : Host.Outcome State Fault Refusal :=
  s.capable o (.reg o.d o.sd) [o.srcA, o.srcB] (.isub (o.m 1) (o.m 0))

/-- ISUB (R118), immediate form (R114). -/
def execIsubImm (o : Opnds) (s : State) : Host.Outcome State Fault Refusal :=
  s.capable o (.reg o.d o.sd) [o.srcA, o.immS] (.isub (o.m 1) (o.m 0))

/-- IMUL (R118), register form. -/
def execImulReg (o : Opnds) (s : State) : Host.Outcome State Fault Refusal :=
  s.capable o (.reg o.d o.sd) [o.srcA, o.srcB] (.imul)

/-- IMUL (R118), immediate form (R114). -/
def execImulImm (o : Opnds) (s : State) : Host.Outcome State Fault Refusal :=
  s.capable o (.reg o.d o.sd) [o.srcA, o.immS] (.imul)

/-- IMULH (R118), register form. -/
def execImulhReg (o : Opnds) (s : State) : Host.Outcome State Fault Refusal :=
  s.plainOp o [o.srcA, o.srcB] fun a l => imulhW (o.m 0) (s.val a o.srcA l) (s.val a o.srcB l)

/-- IMULH (R118), immediate form (R114). -/
def execImulhImm (o : Opnds) (s : State) : Host.Outcome State Fault Refusal :=
  s.plainOp o [o.srcA, o.immS] fun a l => imulhW (o.m 0) (s.val a o.srcA l) (s.val a o.immS l)

/-- IMAD (R118). -/
def execImad (o : Opnds) (s : State) : Host.Outcome State Fault Refusal :=
  s.capable o (.reg o.d o.sd) [o.srcA, o.srcB, o.srcC] (.imad)

/-- IMADW (R119): all sources are read before D or D + 1 is written. -/
def execImadw (o : Opnds) (s : State) : Host.Outcome State Fault Refusal :=
  s.run o fun a m =>
    let c2 : Src := if o.c = 0xF3#8 then o.srcC else .reg (o.c + 1#8) o.sc
    if s.anyPx a m [o.srcA, o.srcB, o.srcC, c2] then s.raise a Code.pxuse 0x01
    else
      let c (l : Nat) : Nat :=
        if o.c = 0xF3#8 ∧ !o.sc then 0 else (s.val a c2 l).toNat * 2 ^ 32 + (s.val a o.srcC l).toNat
      let v (l : Nat) : DWord := imadwW (o.m 0) (s.val a o.srcA l) (s.val a o.srcB l) (c l)
      let s1 := s.wr a o.d o.sd m fun l => (v l).extractLsb' 0 32
      (s1.wr a (o.d + 1#8) o.sd m fun l => (v l).extractLsb' 32 32).retire a

/-- IMIN (R118), register form. -/
def execIminReg (o : Opnds) (s : State) : Host.Outcome State Fault Refusal :=
  s.capable o (.reg o.d o.sd) [o.srcA, o.srcB] (.imin (o.m 0))

/-- IMIN (R118), immediate form (R114). -/
def execIminImm (o : Opnds) (s : State) : Host.Outcome State Fault Refusal :=
  s.capable o (.reg o.d o.sd) [o.srcA, o.immS] (.imin (o.m 0))

/-- IMAX (R118), register form. -/
def execImaxReg (o : Opnds) (s : State) : Host.Outcome State Fault Refusal :=
  s.capable o (.reg o.d o.sd) [o.srcA, o.srcB] (.imax (o.m 0))

/-- IMAX (R118), immediate form (R114). -/
def execImaxImm (o : Opnds) (s : State) : Host.Outcome State Fault Refusal :=
  s.capable o (.reg o.d o.sd) [o.srcA, o.immS] (.imax (o.m 0))

/-- IABS (R120). -/
def execIabs (o : Opnds) (s : State) : Host.Outcome State Fault Refusal :=
  s.plainOp o [o.srcA] fun a l => iabsW (o.m 1) (s.val a o.srcA l)

/-- ITEST (R121), register form. -/
def execItestReg (o : Opnds) (s : State) : Host.Outcome State Fault Refusal :=
  s.capable o (.pred o.d.toNat) [o.srcA, o.srcB] (.itest (o.mod.extractLsb' 1 3) (o.m 0))

/-- ITEST (R121), immediate form (R114). -/
def execItestImm (o : Opnds) (s : State) : Host.Outcome State Fault Refusal :=
  s.capable o (.pred o.d.toNat) [o.srcA, o.immS] (.itest (o.mod.extractLsb' 1 3) (o.m 0))

/-! ### Select (R122) -/

/-- The predicate of a SEL in a lane. With SD = 1 one value is formed for the warp, by the predicate of the lane that
stands for it (log entry 12). -/
def State.selBit (s : State) (a : Actx) (o : Opnds) (m : Mask) (l : Nat) : Bool :=
  (a.w.pred (bits o.mod 2 0) (if o.sd then s.soleLane m else l)).val != o.m 3

/-- SEL over its two sources (R122). A proxy predicate among the active lanes raises PXUSE, and so do proxies of unequal nonzero
extents in the sources of one lane, whichever is selected, SEL being a capable instruction (R115, R265; log entry 96). -/
def State.select (s : State) (o : Opnds) (b : Src) : Host.Outcome State Fault Refusal :=
  s.run o fun a m =>
    if (lanesOf m).any fun l => (a.w.pred (bits o.mod 2 0) l).px.isSome then s.raise a Code.pxuse 0x02
    else if (lanesOf m).any fun l => extClash (proxiesOf [s.src a o.srcA l, s.src a b l]) then s.raise a Code.pxuse 0x03
    else
      let s1 := if o.sd then { s with drawn := s.drawn + 1 } else s
      s1.moveLanes a o m fun l => if s.selBit a o m l then s.src a b l else s.src a o.srcA l

/-- SEL, register form. -/
def execSelReg (o : Opnds) (s : State) : Host.Outcome State Fault Refusal := s.select o o.srcB

/-- SEL, immediate form (R114). -/
def execSelImm (o : Opnds) (s : State) : Host.Outcome State Fault Refusal := s.select o o.immS

/-! ### Logic, shifts and bit fields (R123 to R126) -/

/-- BLUT (R123), register form. -/
def execBlutReg (lutHi : BitVec 3) (o : Opnds) (s : State) : Host.Outcome State Fault Refusal :=
  s.capable o (.reg o.d o.sd) [o.srcA, o.srcB, o.srcC] (.blut (lutOf lutHi o.mod))

/-- BLUT (R123), immediate form: C reads 0 (R114). -/
def execBlutImm (lutHi : BitVec 3) (o : Opnds) (s : State) : Host.Outcome State Fault Refusal :=
  s.capable o (.reg o.d o.sd) [o.srcA, o.immZ] (.blut (lutOf lutHi o.mod))

/-- SHL (R124), register form. -/
def execShlReg (o : Opnds) (s : State) : Host.Outcome State Fault Refusal :=
  s.capable o (.reg o.d o.sd) [o.srcA, o.srcB] (.shl)

/-- SHL (R124), immediate form (R114). -/
def execShlImm (o : Opnds) (s : State) : Host.Outcome State Fault Refusal :=
  s.capable o (.reg o.d o.sd) [o.srcA, o.immZ] (.shl)

/-- SHR (R124), register form. -/
def execShrReg (o : Opnds) (s : State) : Host.Outcome State Fault Refusal :=
  s.capable o (.reg o.d o.sd) [o.srcA, o.srcB] (.shr (o.m 0))

/-- SHR (R124), immediate form (R114). -/
def execShrImm (o : Opnds) (s : State) : Host.Outcome State Fault Refusal :=
  s.capable o (.reg o.d o.sd) [o.srcA, o.immZ] (.shr (o.m 0))

/-- SHF (R124). -/
def execShf (o : Opnds) (s : State) : Host.Outcome State Fault Refusal :=
  s.plainOp o [o.srcA, o.srcB, o.srcC] fun a l => shfW (o.m 0) (s.val a o.srcA l) (s.val a o.srcB l) (s.val a o.srcC l)

/-- POPC (R125). -/
def execPopc (o : Opnds) (s : State) : Host.Outcome State Fault Refusal :=
  s.plainOp o [o.srcA] fun a l => popcW (s.val a o.srcA l)

/-- CLZ (R125). -/
def execClz (o : Opnds) (s : State) : Host.Outcome State Fault Refusal :=
  s.plainOp o [o.srcA] fun a l => clzW (s.val a o.srcA l)

/-- BREV (R125). -/
def execBrev (o : Opnds) (s : State) : Host.Outcome State Fault Refusal :=
  s.plainOp o [o.srcA] fun a l => brevW (s.val a o.srcA l)

/-- BFE (R125), register form. -/
def execBfeReg (o : Opnds) (s : State) : Host.Outcome State Fault Refusal :=
  s.plainOp o [o.srcA, o.srcB, o.srcC] fun a l => bfeW (o.m 0) (s.val a o.srcA l) (bits (s.val a o.srcB l) 7 0) (bits (s.val a o.srcC l) 7 0)

/-- BFE (R125), immediate form. -/
def execBfeImm (o : Opnds) (s : State) : Host.Outcome State Fault Refusal :=
  s.plainOp o [o.srcA] fun a l => bfeW (o.m 0) (s.val a o.srcA l) (bits o.imm16 7 0) (bits o.imm16 15 8)

/-- BFI (R125). -/
def execBfi (o : Opnds) (s : State) : Host.Outcome State Fault Refusal :=
  s.plainOp o [o.srcA, o.srcB, o.srcC] fun a l => bfiW (s.val a o.srcA l) (s.val a o.srcB l) (s.val a o.srcC l)

/-- LEA (R126), register form. -/
def execLeaReg (o : Opnds) (s : State) : Host.Outcome State Fault Refusal :=
  s.plainOp o [o.srcA, o.srcB] fun a l => leaW (bits o.mod 4 0) (s.val a o.srcA l) (s.val a o.srcB l)

/-- LEA (R126), immediate form (R114). -/
def execLeaImm (o : Opnds) (s : State) : Host.Outcome State Fault Refusal :=
  s.plainOp o [o.srcA, o.immS] fun a l => leaW (bits o.mod 4 0) (s.val a o.srcA l) (s.val a o.immS l)

/-! ### Moves (R127, R128, R112) -/

/-- MOV (R127): the value with its kind tag. -/
def execMov (o : Opnds) (s : State) : Host.Outcome State Fault Refusal :=
  s.run o fun a m => s.moveLanes a o m fun l => s.src a o.srcA l

/-- MOV.P2V (R128): P0 to P7 into bits [7:0]. -/
def execMovP2v (o : Opnds) (s : State) : Host.Outcome State Fault Refusal :=
  s.run o fun a m =>
    if (lanesOf m).any fun l => (List.range 7).any fun n => (a.w.pred n l).px.isSome then s.raise a Code.pxuse 0x02
    else
      let v (l : Nat) : Word := w32 ((List.range 8).foldl (fun acc n => acc + (if (a.w.pred n l).val then 2 ^ n else 0)) 0)
      (s.wr a o.d o.sd m v).retire a

/-- The predicates of a mask written one after another from bits of a source (R128). -/
def State.wrPreds (s : State) (a : Actx) (m : Mask) (mask : Nat) (v : Nat → Word) : List Nat → State
  | [] => s
  | n :: ns => State.wrPreds (if mask.testBit n then s.wrP a n m fun l => (v l).getLsbD n else s) a m mask v ns

/-- MOV.V2P (R128). -/
def execMovV2p (o : Opnds) (s : State) : Host.Outcome State Fault Refusal :=
  s.run o fun a m =>
    if s.anyPx a m [o.srcA] then s.raise a Code.pxuse 0x01
    else (s.wrPreds a m o.imm16.toNat (s.val a o.srcA) (List.range 7)).retire a

/-- MOV.LANE (R128): the chosen lane is read whatever its mask, guard or exit state. -/
def State.moveLane (s : State) (o : Opnds) (b : Src) : Host.Outcome State Fault Refusal :=
  s.run o fun a m =>
    let k := s.src a o.srcA ((s.val a b 0).toNat % 32)
    if s.anyPx a m [o.srcA] || k.px then s.raise a Code.pxuse 0x01 else (s.wr a o.d o.sd m fun _ => k.val).retire a

/-- MOV.LANE, register form. -/
def execMovLaneReg (o : Opnds) (s : State) : Host.Outcome State Fault Refusal := s.moveLane o o.srcB

/-- MOV.LANE, immediate form. -/
def execMovLaneImm (o : Opnds) (s : State) : Host.Outcome State Fault Refusal := s.moveLane o o.immZ

/-- The uniform tag an A field names (R112). -/
def Warp.uniformTag (w : Warp) (v : BitVec 8) (sf : Bool) : Bool :=
  let r := w.resolve v sf
  if r.2 then true
  else if r.1 = 0xF3 ∨ r.1 = 0xF5 then true
  else if r.1 ≥ 0xF0 then false
  else (w.vreg r.1).uni

/-- MOV.UNIF (R112). -/
def execMovUnif (o : Opnds) (s : State) : Host.Outcome State Fault Refusal :=
  s.run o fun a m => (s.wr a o.d o.sd m fun _ => boolW (a.w.uniformTag o.a o.sa)).retire a

/-- MOVI (R15): no guard; every lane of the slot's mask, or the scalar register once. -/
def execMovi (o : MoviOpnds) (s : State) : Host.Outcome State Fault Refusal :=
  match s.actx with
  | none => .next s
  | some a => .next ((s.wr a o.d o.sd a.p.mask fun _ => o.imm).retire a)

/-- PLOP (R123): a plain predicate from three predicates. -/
def execPlop (lutHi : BitVec 3) (o : Opnds) (s : State) : Host.Outcome State Fault Refusal :=
  s.run o fun a m =>
    let p (r : BitVec 8) (l : Nat) : PredLane := a.w.pred r.toNat l
    if (lanesOf m).any fun l => (p o.a l).px.isSome || (p o.b l).px.isSome || (p o.c l).px.isSome then
      s.raise a Code.pxuse 0x02
    else
      (s.wrP a o.d.toNat m fun l => lutBit (lutOf lutHi o.mod) (p o.a l).val (p o.b l).val (p o.c l).val).retire a

/-! ### Pair words (R24 to R27) -/

end Sys2Proof.Machine

namespace Sys2Proof
open Sys2Proof.Machine

/-- The word function of a pair operation on D and A; the MOD bits have their full-form meaning (R25). -/
def PairOp.fn (p : PairOp) (md : BitVec 4) (d a : Word) : Word :=
  let m : BitVec 6 := md.zeroExtend 6
  match p with
  | .mov | .movi8 => a
  | .iadd | .iaddImm => iaddW (md.getLsbD 1) (md.getLsbD 0) d a
  | .isub | .isubImm => isubW (md.getLsbD 1) (md.getLsbD 0) d a
  | .imul | .imulImm => imulW d a
  | .imin | .iminImm => iminW (md.getLsbD 0) d a
  | .imax | .imaxImm => imaxW (md.getLsbD 0) d a
  | .and | .andImm => d &&& a
  | .or | .orImm => d ||| a
  | .xor | .xorImm => d ^^^ a
  | .shl | .shlImm => shlW d a
  | .shr | .shrImm => shrW (md.getLsbD 0) d a
  | .fadd => w32 (fAdd .fp32 m d.toNat a.toNat)
  | .fmul => w32 (fMul .fp32 m d.toNat a.toNat)
  | .fmin => w32 (fMinMax false (md.getLsbD 2) false d.toNat a.toNat)
  | .fmax => w32 (fMinMax true (md.getLsbD 2) false d.toNat a.toNat)
  | .hadd2 => hadd2W false m d a
  | .hmul2 => hmul2W false m d a

/-- IMM8 is sign-extended by the arithmetic operations and MOVI8, and zero-extended by logic and shifts (R25). -/
def PairOp.immSigned : PairOp → Bool
  | .andImm | .orImm | .xorImm | .shlImm | .shrImm => false
  | _ => true

/-- The A source of a half (R24, R25). -/
def PairOp.srcA (p : PairOp) (h : HalfOpnds) : Src :=
  if p.isImm then .imm (if p.immSigned then h.a.signExtend 32 else h.a.zeroExtend 32) else .reg h.a h.sa

/-- The sources of a half: D, except for MOV and MOVI8, and A (R25). -/
def PairOp.srcs (p : PairOp) (h : HalfOpnds) : List Src :=
  match p with
  | .mov | .movi8 => [p.srcA h]
  | _ => [.reg h.d false, p.srcA h]

end Sys2Proof

namespace Sys2Proof.Machine
open Sys2Proof

/-- The result of a half in a lane. -/
def State.halfVal (s : State) (a : Actx) (p : PairOp) (h : HalfOpnds) (l : Nat) : Word :=
  p.fn h.mod (s.val a (.reg h.d false) l) (s.val a (p.srcA h) l)

/-- A pair word as one instruction: both halves read, and then both destinations are written (R26). -/
def State.pairWord (s : State) (p : PairOp) (x : HalfOpnds) (y : PairHalf) : Host.Outcome State Fault Refusal :=
  match s.actx with
  | none => .next s
  | some a =>
    let mx := a.active x.gn x.g
    let my := a.active y.o.gn y.o.g
    if a.guardPx x.g || a.guardPx y.o.g then .next (s.raise a Code.pxuse 0x02)
    else if s.anyPx a mx (p.srcs x) || s.anyPx a my (y.op.srcs y.o) then .next (s.raise a Code.pxuse 0x01)
    else
      let s1 := if mx = 0#32 then s else s.wr a x.d false mx (s.halfVal a p x)
      let s2 := if my = 0#32 then s1 else s1.wr a y.o.d false my (s.halfVal a y.op y.o)
      .next (s2.retire a)

/-- A pair word whose half X is MOV (R25, R26). -/
def execPairMov (x : HalfOpnds) (y : PairHalf) (s : State) : Host.Outcome State Fault Refusal := s.pairWord .mov x y

/-- A pair word whose half X is IADD (R25, R26). -/
def execPairIadd (x : HalfOpnds) (y : PairHalf) (s : State) : Host.Outcome State Fault Refusal := s.pairWord .iadd x y

/-- A pair word whose half X is ISUB (R25, R26). -/
def execPairIsub (x : HalfOpnds) (y : PairHalf) (s : State) : Host.Outcome State Fault Refusal := s.pairWord .isub x y

/-- A pair word whose half X is IMUL (R25, R26). -/
def execPairImul (x : HalfOpnds) (y : PairHalf) (s : State) : Host.Outcome State Fault Refusal := s.pairWord .imul x y

/-- A pair word whose half X is IMIN (R25, R26). -/
def execPairImin (x : HalfOpnds) (y : PairHalf) (s : State) : Host.Outcome State Fault Refusal := s.pairWord .imin x y

/-- A pair word whose half X is IMAX (R25, R26). -/
def execPairImax (x : HalfOpnds) (y : PairHalf) (s : State) : Host.Outcome State Fault Refusal := s.pairWord .imax x y

/-- A pair word whose half X is AND (R25, R26). -/
def execPairAnd (x : HalfOpnds) (y : PairHalf) (s : State) : Host.Outcome State Fault Refusal := s.pairWord .and x y

/-- A pair word whose half X is OR (R25, R26). -/
def execPairOr (x : HalfOpnds) (y : PairHalf) (s : State) : Host.Outcome State Fault Refusal := s.pairWord .or x y

/-- A pair word whose half X is XOR (R25, R26). -/
def execPairXor (x : HalfOpnds) (y : PairHalf) (s : State) : Host.Outcome State Fault Refusal := s.pairWord .xor x y

/-- A pair word whose half X is SHL (R25, R26). -/
def execPairShl (x : HalfOpnds) (y : PairHalf) (s : State) : Host.Outcome State Fault Refusal := s.pairWord .shl x y

/-- A pair word whose half X is SHR (R25, R26). -/
def execPairShr (x : HalfOpnds) (y : PairHalf) (s : State) : Host.Outcome State Fault Refusal := s.pairWord .shr x y

/-- A pair word whose half X is FADD (R25, R26). -/
def execPairFadd (x : HalfOpnds) (y : PairHalf) (s : State) : Host.Outcome State Fault Refusal := s.pairWord .fadd x y

/-- A pair word whose half X is FMUL (R25, R26). -/
def execPairFmul (x : HalfOpnds) (y : PairHalf) (s : State) : Host.Outcome State Fault Refusal := s.pairWord .fmul x y

/-- A pair word whose half X is FMIN (R25, R26). -/
def execPairFmin (x : HalfOpnds) (y : PairHalf) (s : State) : Host.Outcome State Fault Refusal := s.pairWord .fmin x y

/-- A pair word whose half X is FMAX (R25, R26). -/
def execPairFmax (x : HalfOpnds) (y : PairHalf) (s : State) : Host.Outcome State Fault Refusal := s.pairWord .fmax x y

/-- A pair word whose half X is HADD2 (R25, R26). -/
def execPairHadd2 (x : HalfOpnds) (y : PairHalf) (s : State) : Host.Outcome State Fault Refusal := s.pairWord .hadd2 x y

/-- A pair word whose half X is HMUL2 (R25, R26). -/
def execPairHmul2 (x : HalfOpnds) (y : PairHalf) (s : State) : Host.Outcome State Fault Refusal := s.pairWord .hmul2 x y

/-- A pair word whose half X is MOVI8 (R25, R26). -/
def execPairMovi8 (x : HalfOpnds) (y : PairHalf) (s : State) : Host.Outcome State Fault Refusal := s.pairWord .movi8 x y

/-- A pair word whose half X is IADD immediate (R25, R26). -/
def execPairIaddImm (x : HalfOpnds) (y : PairHalf) (s : State) : Host.Outcome State Fault Refusal := s.pairWord .iaddImm x y

/-- A pair word whose half X is ISUB immediate (R25, R26). -/
def execPairIsubImm (x : HalfOpnds) (y : PairHalf) (s : State) : Host.Outcome State Fault Refusal := s.pairWord .isubImm x y

/-- A pair word whose half X is IMUL immediate (R25, R26). -/
def execPairImulImm (x : HalfOpnds) (y : PairHalf) (s : State) : Host.Outcome State Fault Refusal := s.pairWord .imulImm x y

/-- A pair word whose half X is IMIN immediate (R25, R26). -/
def execPairIminImm (x : HalfOpnds) (y : PairHalf) (s : State) : Host.Outcome State Fault Refusal := s.pairWord .iminImm x y

/-- A pair word whose half X is IMAX immediate (R25, R26). -/
def execPairImaxImm (x : HalfOpnds) (y : PairHalf) (s : State) : Host.Outcome State Fault Refusal := s.pairWord .imaxImm x y

/-- A pair word whose half X is AND immediate (R25, R26). -/
def execPairAndImm (x : HalfOpnds) (y : PairHalf) (s : State) : Host.Outcome State Fault Refusal := s.pairWord .andImm x y

/-- A pair word whose half X is OR immediate (R25, R26). -/
def execPairOrImm (x : HalfOpnds) (y : PairHalf) (s : State) : Host.Outcome State Fault Refusal := s.pairWord .orImm x y

/-- A pair word whose half X is XOR immediate (R25, R26). -/
def execPairXorImm (x : HalfOpnds) (y : PairHalf) (s : State) : Host.Outcome State Fault Refusal := s.pairWord .xorImm x y

/-- A pair word whose half X is SHL immediate (R25, R26). -/
def execPairShlImm (x : HalfOpnds) (y : PairHalf) (s : State) : Host.Outcome State Fault Refusal := s.pairWord .shlImm x y

/-- A pair word whose half X is SHR immediate (R25, R26). -/
def execPairShrImm (x : HalfOpnds) (y : PairHalf) (s : State) : Host.Outcome State Fault Refusal := s.pairWord .shrImm x y

end Sys2Proof.Machine
end

