-- ==== Sys2Proof/Machine/Exchange.lean ====
section
/-!
DEFINITION. Lane and warp exchange (R147 to R156), with the events of pairs: XPAIR_TIMEOUT and XSHFL_COMMIT.
-/
namespace Sys2Proof.Machine
open Sys2Proof

/-! ### Within a warp (R150 to R153) -/

/-- The source lane of LXCHG for lane l and the value b it reads (R150). -/
def lxchgLane (mode : LxMode) (w b : Nat) (m : Mask) (l : Nat) : Nat :=
  let base := l - l % w
  let (src, ok) : Nat × Bool :=
    match mode with
    | .idx => (base + b % w, true)
    | .up => (l - b, decide (b < w) && decide (base + b ≤ l))
    | .down => (l + b, decide (b < w) && decide (l + b < base + w))
    | .xor => (l ^^^ (b % w), true)
  if ok && m.getLsbD src then src else l

/-- LXCHG over its B source (R150). -/
def State.lxchg (s : State) (mode : LxMode) (o : Opnds) (b : Src) : Host.Outcome State Fault Refusal :=
  s.run o fun a m =>
    if s.anyPx a m [o.srcA, b] then s.raise a Code.pxuse 0x01
    else
      let v (l : Nat) : Word := s.val a o.srcA (lxchgLane mode (2 ^ bits o.mod 2 0) (s.val a b l).toNat m l)
      (s.wr a o.d false m v).retire a

/-- LXCHG, register form. -/
def execLxchgReg (mode : LxMode) (o : Opnds) (s : State) : Host.Outcome State Fault Refusal := s.lxchg mode o o.srcB

/-- LXCHG, immediate form. -/
def execLxchgImm (mode : LxMode) (o : Opnds) (s : State) : Host.Outcome State Fault Refusal :=
  s.lxchg mode o (.imm (w32 (bits o.imm16 4 0)))

/-- The bits x of VOTE and BALLOT in the active lanes (R151). -/
def Actx.voteBits (a : Actx) (o : Opnds) (l : Nat) : Bool := (a.w.pred o.a.toNat l).val != o.m 0

/-- A source predicate holds a proxy in an active lane (R147). -/
def Actx.predPx (a : Actx) (m : Mask) (n : Nat) : Bool := (lanesOf m).any fun l => (a.w.pred n l).px.isSome

/-- VOTE (R151). -/
def execVote (mode : VoteMode) (o : Opnds) (s : State) : Host.Outcome State Fault Refusal :=
  s.run o fun a m =>
    if a.predPx m o.a.toNat then s.raise a Code.pxuse 0x02
    else
      let all := (lanesOf m).all (a.voteBits o)
      let any := (lanesOf m).any (a.voteBits o)
      let r := match mode with | .all => all | .any => any | .uni => all || !any
      (s.wrP a o.d.toNat m fun _ => r).retire a

/-- BALLOT (R151). -/
def execBallot (o : Opnds) (s : State) : Host.Outcome State Fault Refusal :=
  s.run o fun a m =>
    if a.predPx m o.a.toNat then s.raise a Code.pxuse 0x02
    else (s.wr a o.d o.sd m fun _ => maskOf ((lanesOf m).filter (a.voteBits o))).retire a

/-- MATCH.ANY (R152). -/
def execMatchAny (o : Opnds) (s : State) : Host.Outcome State Fault Refusal :=
  s.plainOp o [o.srcA] fun a l =>
    maskOf ((lanesOf (a.active o.gn o.g)).filter fun k => s.val a o.srcA k == s.val a o.srcA l)

/-- MATCH.ALL (R152). -/
def execMatchAll (o : Opnds) (s : State) : Host.Outcome State Fault Refusal :=
  s.run o fun a m =>
    if s.anyPx a m [o.srcA] then s.raise a Code.pxuse 0x01
    else
      let all := (lanesOf m).all fun l => (lanesOf m).all fun k => s.val a o.srcA k == s.val a o.srcA l
      ((s.wr a o.d o.sd m fun _ => if all then m else 0#32).wrP a o.c.toNat m fun _ => all).retire a

/-- The combining operation of REDUX (R153). -/
def reduxFn (op : ReduxOp) (m : BitVec 6) (a b : Word) : Word :=
  let z := m.getLsbD 2
  match op with
  | .add => a + b
  | .min => iminW (m.getLsbD 0) a b
  | .max => imaxW (m.getLsbD 0) a b
  | .and => a &&& b
  | .or => a ||| b
  | .xor => a ^^^ b
  | .fadd => w32 (fAdd .fp32 (if z then 4#6 else 0#6) a.toNat b.toNat)
  | .fmin => w32 (fMinMax false z false a.toNat b.toNat)
  | .fmax => w32 (fMinMax true z false a.toNat b.toNat)

/-- Two lanes of the tree, either of which may be absent (R153). -/
def optFold (f : Word → Word → Word) : Option Word → Option Word → Option Word
  | some a, some b => some (f a b)
  | some a, none => some a
  | none, x => x

/-- REDUX (R153). -/
def execRedux (op : ReduxOp) (o : Opnds) (s : State) : Host.Outcome State Fault Refusal :=
  s.run o fun a m =>
    if s.anyPx a m [o.srcA] then s.raise a Code.pxuse 0x01
    else
      let xs := (List.range 32).map fun l => if m.getLsbD l then some (s.val a o.srcA l) else none
      let r := ((treeFold (optFold (reduxFn op o.mod)) 5 xs).getD none).getD 0#32
      (s.wr a o.d o.sd m fun _ => r).retire a

/-! ### Pairs of warps (R154 to R156) -/

/-- A core belongs to a context's partition (R314). -/
def Ctx.inPartition (c : Ctx) (core : Nat) : Bool := (nth 0#32 c.coreMask (core / 32)).getLsbD (core % 32)

/-- Cycles a code of SCHED_EXP or MEM_EXP names: 2^n, code 31 as 30 (R316). -/
def waitCycles (n : Nat) : Nat := 2 ^ min n 30

/-- A scalar result of a slot that waited, and the instruction retires. -/
def State.answer (s : State) (b wi slot : Nat) (d : Nat) (v : Word) : State :=
  match s.actxAt b wi slot with
  | some a => (s.wrSc a d v).retire a
  | none => s

/-- The pair of a warp: the oldest, where an offer of its other slot has given it a second (log entry 89). -/
def State.pairOf (s : State) (b wi : Nat) : Option WarpPair :=
  s.pairs.find? fun p => (p.block0 == b && p.warp0 == wi) || (p.block1 == b && p.warp1 == wi)

/-- Two offers pair: the anchor is the warp on the lower-numbered core (R154). -/
def State.addPair (s : State) (x y : Offer) : State :=
  let (id, s1) := s.fresh
  let (u, v) := if x.core ≤ y.core then (x, y) else (y, x)
  { s1 with
    offers := s1.offers.filter fun q => q != x && q != y
    pairs := s1.pairs ++ [({ id := id, block0 := u.block, warp0 := u.warp, block1 := v.block, warp1 := v.warp
                             cluster := clusterOf u.core, post0 := none, post1 := none, owed0 := none, owed1 := none
                             count := 0 } : WarpPair)] }

/-- An offer has waited SCHED_EXP.XPWAIT cycles without a match (R154). -/
def State.offerOver (s : State) (q : Offer) : Bool :=
  let ctx := ((s.block? q.block).map (·.ctx)).getD 0
  decide (q.start + waitCycles (bits (s.ctx ctx).schedExp 20 16) ≤ s.cycle (clusterOf q.core))

/-- An offer is withdrawn and its XPAIR gets status 1 (R154). -/
def State.endOffer (s : State) (q : Offer) : State :=
  ({ s with offers := s.offers.filter (· != q) }).answer q.block q.warp q.slot q.dst 1#32

/-- The offers whose time is over are withdrawn before any offer is matched (R154). -/
def State.endOffers (s : State) : State := (s.offers.filter s.offerOver).foldl State.endOffer s

/-- XPAIR (R154): status 2 for a core it may not name, 3 for a full table, 0 with a partner that has offered the key;
otherwise the offer waits, or is withdrawn at once when SCHED_EXP.XPWAIT is 0. An offer of the warp's other slot stands on (log
entry 89). Whether the table is full is looked at once, at the XPAIR's own issue, and not again for an offer that waits (log
entry 106). -/
def execXpair (o : Opnds) (s : State) : Host.Outcome State Fault Refusal :=
  s.run o fun a _ =>
    let s1 := ((s.loseIdemp a).endPairs a.bid a.wi).endOffers
    let sa := s.scalar a o.a o.sa
    let key := s.scalar a o.b o.sb
    let target := sa.toNat % 256
    let c := s.ctx a.blk.ctx
    let done (v : Word) : State := (s1.wrSc a o.d.toNat v).retire a
    if sa.toNat ≥ 256 || clusterOf target == clusterOf a.core || !c.inPartition target then done 2#32
    else if (s1.pairs.filter fun p => p.cluster == clusterOf (min target a.core)).length ≥ 64 then done 3#32
    else
      let mine : Offer := { block := a.bid, warp := a.wi, slot := a.slot, core := a.core, partner := target, key := key
                            dst := o.d.toNat, start := s.cycle (clusterOf a.core) }
      let other := s1.offers.find? fun q =>
        q.core == target && q.partner == a.core && q.key == key && ((s1.block? q.block).map (·.ctx)) == some a.blk.ctx
      match other with
      | some q => ((((s1.addPair q mine).answer q.block q.warp q.slot q.dst 0#32).wrSc a o.d.toNat 0#32).retire a)
      | none =>
        if bits c.schedExp 20 16 = 0 then done 1#32
        else { s1.blockSlot a with offers := s1.offers ++ [mine] }

/-- XPAIR_TIMEOUT (block, warp, slot): the offer has waited SCHED_EXP.XPWAIT cycles without a match (R154). -/
def execXpairTimeout (s : State) : Host.Outcome State Fault Refusal :=
  match s.offers.find? fun q => q.block == s.arg 0 && q.warp == s.arg 1 && q.slot == s.arg 2 with
  | none => .next s
  | some q => .next (if s.offerOver q then s.endOffer q else s)

/-- A path stands where a withdrawn XSHFL is to be executed again, with the lanes it had. -/
def Path.owes (p : Path) (x : DWord × Mask) : Bool := p.pc == x.1 && p.mask == x.2

/-- Another path of the warp than that of a slot has a withdrawn XSHFL to execute again: in the other slot, on the divergence
stack, or trapped, where the handler returns to it (R156). -/
def Warp.owesElsewhere (w : Warp) (slot : Nat) (x : DWord × Mask) : Bool :=
  !((w.path slot).any fun p => p.owes x)
    && (((w.path (1 - slot)).any fun p => p.owes x)
      || (w.stack.any fun e => match e with | .path p => p.owes x | .join _ => false)
      || (w.frame.isSome && w.trapPc == x.1))

/-- XSHFL (R156): not paired, it clears Pc in its active lanes; paired, it posts A and waits for the commit. A post of
the warp's other slot is matched first, and a withdrawn one keeps its place until its path posts again. -/
def execXshfl (o : Opnds) (s : State) : Host.Outcome State Fault Refusal :=
  s.run o fun a m =>
    if s.anyPx a m [o.srcA] then s.raise a Code.pxuse 0x01
    else
      match s.pairOf a.bid a.wi with
      | none => (s.wrP a o.c.toNat m fun _ => false).retire a
      | some p =>
        let first := p.block0 == a.bid && p.warp0 == a.wi
        let owed := if first then p.owed0 else p.owed1
        if (if first then p.post0 else p.post1).isSome || owed.any (a.w.owesElsewhere a.slot) then s
        else
          let post : Post := { slot := a.slot, active := m, vals := (List.range 32).map (s.val a o.srcA), dst := o.d
                               pc := o.c.toNat }
          let p' := if first then { p with post0 := some post, owed0 := none } else { p with post1 := some post, owed1 := none }
          { s.blockSlot a with pairs := s.pairs.map fun q => if q.id = p.id then p' else q }

/-- One side of a commit: lanes active on both sides take the partner's values (R156). -/
def State.commitSide (s : State) (b wi : Nat) (mine theirs : Post) : State :=
  match s.actxAt b wi mine.slot with
  | none => s
  | some a =>
    let both := mine.active &&& theirs.active
    let s1 := if both = 0#32 then s else s.wr a mine.dst false both fun l => nth 0#32 theirs.vals l
    (s1.wrP a mine.pc mine.active fun l => both.getLsbD l).retire a

/-- XSHFL_COMMIT (pair): both warps have posted, and the anchor commits for both as one event (R156). -/
def execXshflCommit (s : State) : Host.Outcome State Fault Refusal :=
  match s.pairs.find? fun p => p.id == s.arg 0 with
  | none => .next s
  | some p =>
    match p.post0, p.post1 with
    | some x, some y =>
      let s1 := { s with pairs := s.pairs.map fun (q : WarpPair) =>
        if q.id = p.id then { q with post0 := none, post1 := none, count := q.count + 1 } else q }
      .next ((s1.commitSide p.block0 p.warp0 x y).commitSide p.block1 p.warp1 y x)
    | _, _ => .next s

end Sys2Proof.Machine
end

