-- ==== Sys2Proof/Machine/Order.lean ====
section
/-!
DEFINITION. Reads over the memory log (R191, R192, R196, R198 to R201): the time at which a read takes its bytes, reads and
read-modify-writes as they join the log, and the tags of the agents' accesses.
-/
namespace Sys2Proof.Machine
open Sys2Proof

/-- The newest time, no later than `t`, at which a read may take these bytes, or the first one after it where it may take none
so old. A load of a warp may always take them as they now stand: every write that comes after it waits for it. A read of an
engine or of a bank context stands where its instruction does (R200, R299), `start` being the time at which that issued, and
later writes may have been applied. -/
def State.readTime (s : State) (q : MemTag) (start : Option Nat) (pas : List Nat) (t : Nat) : Option Nat :=
  let y : MemEvent := { MemEvent.of q with time := s.memTime + 1, reads := pas.map fun x => (x, 0) }
  let newer := match start with
    | some st => (s.log.takeWhile fun e => decide (st < e.time)).any fun e =>
        pas.any e.hits || (y.programBefore e && e.reads.any fun r => pas.contains r.1)
    | none => false
  if s.memTime ≤ t && !newer then some s.memTime
  else
    ((List.range (min t s.memTime + 1)).reverse ++ (List.range (s.memTime - t)).map (t + 1 + ·)).find? (mayReturn s.log y pas)

/-- A read of bytes at a point of their coherence orders is performed: the bytes, and the state that has logged what it
returned (R191). -/
def State.readAt (s : State) (q : MemTag) (pas : List Nat) (t : Nat) : List Byte × State :=
  let places := pas.filter fun x => !inWindow x
  let (bs, s1) := s.loadBytesAt t pas
  (bs, s1.note { MemEvent.of q with reads := places.map fun x => (x, lastWrite s.log t x) })

/-- A read-modify-write that writes nothing reads its word: it bars the wait entries of its warp that stand before it (R192). -/
def State.barWaits (s : State) (pas : List Nat) (t : MemTag) : State :=
  { s with waits := s.waits.map fun (e : WaitEntry) =>
      if pas.any fun pa => decide (e.pa ≤ pa) && decide (pa < e.pa + 4) then e.touched t s.memTime false else e }

/-- The bytes of a read-modify-write are read as they stand, and written where it writes; the two are one event, its read
being of the write just before its own (R196, R201). -/
def State.storeAtom (s : State) (t : MemTag) (bytes : List Nat) (old : List Byte) (v : Option Nat)
    (routes : List (Nat × Word) := []) : State :=
  let places := bytes.filter fun x => !inWindow x
  let reads := places.map fun x => (x, lastWrite s.log s.memTime x)
  match v with
  | none => (s.note { MemEvent.of t with reads := reads }).barWaits bytes t
  | some v =>
    let new := bytes.zip (leBytes bytes.length v)
    ((s.note { MemEvent.of t with reads := reads, writes := (bytes.zip old).filter fun x => !inWindow x.1 }).putBytes
      t.agent new routes t.po).wakeWaits bytes t

/-- Addresses in groups of eight, the accesses that are single-copy atomic (R191). -/
def eights : Nat → List Nat → List (List Nat)
  | 0, _ => []
  | fuel + 1, l => if l.isEmpty then [] else l.take 8 :: eights fuel (l.drop 8)

/-- Bytes read one after another, each at a time of its own. -/
def State.readSingly (s : State) (q : MemTag) (start : Option Nat) (t : Nat) : List Nat → List Byte × State
  | [] => ([], s)
  | x :: xs =>
    let (b, s1) := s.readAt q [x] ((s.readTime q start [x] t).getD s.memTime)
    let (bs, s2) := State.readSingly s1 q start t xs
    (b ++ bs, s2)

/-- Groups of bytes read one after another, each group at one time where the order of its agent leaves one open. -/
def State.readGroups (s : State) (q : MemTag) (start : Option Nat) (t : Nat) : List (List Nat) → List Byte × State
  | [] => ([], s)
  | g :: gs =>
    let (b, s1) := match s.readTime q start g t with
      | some u => s.readAt q g u
      | none => s.readSingly q start t g
    let (bs, s2) := State.readGroups s1 q start t gs
    (b ++ bs, s2)

/-- A longer read, in accesses of eight bytes (R191), of the bytes as they stood at a time or at the newest time before it
that the order of the agent leaves open. -/
def State.readSpan (s : State) (q : MemTag) (start : Option Nat) (pas : List Nat) (t : Nat) : List Byte × State :=
  s.readGroups q start t (eights pas.length pas)

/-- A read that is one access of whatever length: its bytes at one time, where the order of its agent leaves one open. -/
def State.readOnce (s : State) (q : MemTag) (start : Option Nat) (pas : List Nat) (t : Nat) : List Byte × State :=
  s.readGroups q start t [pas]

/-- The tag of an operation's access. -/
def Op.tag (o : Op) : MemTag := MemTag.warp o.block o.warp o.core o.id

/-- The tag of an engine's reads: loads of the issuing warp where the instruction stands (R200). -/
def Xfer.readTag (x : Xfer) : MemTag := MemTag.warp x.block x.warp x.core x.id

/-- The tag of a bank context's column reads: loads of the launching warp at the NLAUNCH (R299). -/
def BankLaunch.readTag (l : BankLaunch) : MemTag := MemTag.warp l.issuer.1 l.issuer.2 l.core l.id

/-- The tag of an engine's writes (R190). -/
def Xfer.writeTag (x : Xfer) : MemTag :=
  { MemTag.device with agent := (if x.engine = .copy then .copy x.id else .gather x.id), core := x.core, po := x.id }

/-- The place of an arrival object among the places of the log. -/
def objPlaces (b obj : Nat) : List Nat := (List.range 8).map fun i => spadPlace b (obj + i)

/-- A warp reads an arrival object and observes the arrivals at it: what the engines and bank contexts that arrived there wrote
comes before each of its accesses from here on (R176, R197, R299). -/
def State.observe (s : State) (b wi core obj : Nat) : State :=
  let who := s.log.filterMap fun e => if e.arrived = some (b, obj) then some e.tag.agent else none
  let seen := (s.log.filter fun e => who.contains e.tag.agent && !e.writes.isEmpty).map (·.time)
  let (id, s1) := s.fresh
  s1.note { MemEvent.of (MemTag.warp b wi core id) with
    reads := (objPlaces b obj).map fun x => (x, lastWrite s.log s.memTime x), joins := seen }

end Sys2Proof.Machine
end

