-- ==== Sys2Proof/Machine/MemOps.lean ====
section
/-!
DEFINITION. What the memory instructions share: the address of a lane (R169), the spaces and their extents (R158, R159),
the checks in their order, scratchpad and constant bytes, arrival objects (R174), and the order that R192 keeps
between the accesses of one warp.
-/
namespace Sys2Proof.Machine
open Sys2Proof

/-! ### Scratchpad and accumulator storage of a block -/

/-- A byte of a block's scratchpad. -/
def Block.spadByte (b : Block) (x : Nat) : Byte := cellGet 0#8 b.spad x

/-- Bytes of a block's scratchpad. -/
def Block.spadBytes (b : Block) (x n : Nat) : List Byte := (List.range n).map fun i => b.spadByte (x + i)

/-- Bytes written to a block's scratchpad. -/
def Block.spadWrite (b : Block) (x : Nat) : List Byte → Block
  | [] => b
  | v :: vs => Block.spadWrite { b with spad := cellPut 0#8 b.spad x v } (x + 1) vs

/-- Something other than a queue instruction has written bytes of a block's scratchpad: the headers among them follow R6
(R212). -/
def Block.spoilQueues (b : Block) (x n : Nat) : Block :=
  if 256 ≤ x ∨ n = 0 then b
  else { b with qspoiled := (List.range 16).filter fun q => b.qspoiled.contains q || (decide (x < 16 * q + 16) && decide (16 * q < x + n)) }

/-- Scratchpad bytes of a resident or saved block are written. -/
def State.spadWrite (s : State) (bid x : Nat) (vs : List Byte) : State :=
  match s.block? bid with
  | some b => s.setBlock ((b.spadWrite x vs).spoilQueues x vs.length)
  | none => s

/-- Scratchpad bytes of a block as it now stands. -/
def State.spadRead (s : State) (bid x n : Nat) : List Byte :=
  match s.block? bid with
  | some b => b.spadBytes x n
  | none => List.replicate n 0#8

/-! ### Access sizes (R166) -/

/-- Bytes of a size code (R166). -/
def szBytes (sz : Nat) : Nat :=
  match sz with | 0 => 4 | 1 => 8 | 2 => 16 | 3 => 1 | 4 => 1 | _ => 2

/-- The registers a load of a size code writes, from its bytes (R166). -/
def loadWords (sz : Nat) (bs : List Byte) : List Word :=
  match sz with
  | 3 | 5 => [w32 (leNat bs)]
  | 4 => [BitVec.ofInt 32 (sextInt (leNat bs) 8)]
  | 6 => [BitVec.ofInt 32 (sextInt (leNat bs) 16)]
  | _ => (List.range (szRegs sz)).map fun i => w32 (leNat ((bs.drop (4 * i)).take 4))

/-- The registers D, D + 1, … of a lane's data, each read by its own specifier (R169; log entry 69). -/
def State.dataWords (s : State) (a : Actx) (d : BitVec 8) (sd : Bool) (n l : Nat) : List Word :=
  (List.range n).map fun i => (s.rd a (d + BitVec.ofNat 8 i) sd l).val

/-! ### Addresses (R158, R159, R169) -/

/-- The spaces an instruction addresses (R158). -/
inductive Space | global | priv | const | spad
deriving DecidableEq, Repr

/-- The extent of a space in bytes. -/
def State.extent (s : State) (a : Actx) (sp : Space) : Nat :=
  match sp with
  | .global => 2 ^ 57
  | .priv => ((s.kobj a.blk).map (·.privsz)).getD 0
  | .const => ((s.kobj a.blk).map (·.constsz)).getD 0
  | .spad => s.spadSize a.blk

/-- The address helper of R169: the base, 64 bits wide under A64, plus an offset. -/
def State.laneAddr (s : State) (a : Actx) (base : BitVec 8) (sb a64 : Bool) (off : Nat → Int) (l : Nat) : Int :=
  let lo := (s.rd a base sb l).val.toNat
  let b : Int := if a64 then s.pairVal a base sb l else lo
  b + off l

/-- The offset of a register form, and of an immediate form (R169). -/
def State.offReg (s : State) (a : Actx) (o : Opnds) (l : Nat) : Int := (s.val a o.srcB l).toNat

/-- IMM16 as an offset. -/
def offImm (o : Opnds) (_l : Nat) : Int := o.imm16.toInt

/-- The pieces of a lane's access at a global address: the address and length of each (R159). -/
def Warp.pieces (w : Warp) (sp : Space) (l x size : Nat) : List (Nat × Nat) :=
  match sp with
  | .priv =>
    if size ≤ 4 then [(w.privb + 128 * (x / 4) + 4 * l + x % 4, size)]
    else (List.range (size / 4)).map fun i => (w.privb + 128 * (x / 4 + i) + 4 * l, 4)
  | _ => [(x, size)]

/-! ### Checks in their order (R169) -/

/-- The lowest lane that a check fails, with its address. -/
def firstBad (ls : List Nat) (addr : Nat → Int) (bad : Int → Bool) : Option Int :=
  (ls.find? fun l => bad (addr l)).map addr

/-- The address checks of an access: MISALIGN, then the extent (R169). TRAP_ADDR keeps the low 64 bits of an exact address that is
negative or 2^64 and above, of which R169 does not say what the 64 bits hold (log entry 105). -/
def State.checkAddr (s : State) (a : Actx) (sp : Space) (ls : List Nat) (addr : Nat → Int) (size : Nat) : Option State :=
  match firstBad ls addr fun x => x % (size : Int) != 0 with
  | some x => some (s.raiseAt a Code.misalign 0 (BitVec.ofInt 64 x))
  | none =>
    let ext := s.extent a sp
    match firstBad ls addr fun x => decide (x < 0) || decide ((ext : Int) < x + size) with
    | some x => some (s.raiseAt a Code.dfault (if sp = .global then 0x03 else 0x07) (BitVec.ofInt 64 x))
    | none => none

/-- Translation of the pieces of every lane, in lane order: the physical addresses of each lane's bytes, or the address
and reason of the lowest lane that fails (R164, R173). Where every lane translates, each is one device access of its page (R187,
R316; log entry 34), an area that the device keeps for a warp is misused (R67, R306), and a kernel object in use is changed
(R325). -/
def State.translateLanes (s : State) (a : Actx) (acc : Access) : List (Nat × List (Nat × Nat)) →
    Except (Nat × Nat) (List (Nat × List Nat)) × State
  | [] => (.ok [], s)
  | (l, ps) :: rest =>
    match s.translateList a.core a.blk.ctx acc (ps.map (·.1)) with
    | (.error e, s1) => (.error e, s1)
    | (.ok pas, s1) =>
      match State.translateLanes s1 a acc rest with
      | (.error e, s2) => (.error e, s2)
      | (.ok r, s2) =>
        let bytes := ((pas.zip (ps.map (·.2))).flatMap fun x => (List.range x.2).map (x.1 + ·))
        let s3 := (s2.noteHits a.core a.blk.ctx ((ps.map (·.1)).zip pas)).misuse a.blk.ctx (ps.map (·.1))
        (.ok ((l, bytes) :: r), if acc == .write then s3.changeObject a.blk.ctx (ps.map (·.1)) else s3)

/-! ### The order of one warp's accesses (R192) -/

/-- The physical bytes an operation has yet to read or write. -/
def OpKind.bytes : OpKind → List Nat
  | .load lanes => lanes.flatMap (·.bytes)
  | .store ps => ps.flatMap fun p => p.2.map (·.1)
  | .jdec _ pa _ => (List.range 64).map (pa + ·)
  | .atomic _ _ size reqs _ _ => reqs.flatMap fun r => r.2.flatMap fun x => (List.range size).map (x.pa + ·)
  | _ => []

/-- Physical bytes a PLD's snapshot has yet to read (R281). -/
def PxKind.bytes : PxKind → List Nat
  | .snapshot pa words _ _ => (List.range (4 * words)).map (pa + ·)
  | _ => []

/-- An earlier access of the warp to one of these bytes has yet to be performed: this one waits (R192). A WAITA is a read that
is performed when its wait ends (R209): a later `read` of its word waits for that, and a later write only until the request has
reached the slice, where it bars the entry. The reads of a transfer or of a bank context that stand earlier take an earlier point
of their bytes instead (R200, R299). -/
def State.earlierTouch (s : State) (id b wi : Nat) (bytes : List Nat) (read : Bool := false) : Bool :=
  (s.waits.any fun e => decide (e.id < id) && (read || !e.there) && e.block == b && e.warp == wi
      && (List.range 4).any fun i => bytes.contains (e.pa + i))
    || (s.ops.any fun o => decide (o.id < id) && o.block == b && o.warp == wi && o.kind.bytes.any fun x => bytes.contains x)
    || (s.pxReqs.any fun r => decide (r.id < id) && !r.served && r.block == b && r.warp == wi
        && r.kind.bytes.any fun x => bytes.contains x)

/-- The release epoch in which a write of a core issues: its die and the die's own count (R191). -/
def State.writeEpochOf (s : State) (core : Nat) : Nat × Nat :=
  (dieOf core, nth 0 (nth [] s.clocks (dieOf core)) (dieOf core))

/-- The greater of two clocks, entry by entry. -/
def mergeClock (x y : List Nat) : List Nat := (List.range 12).map fun i => max (nth 0 x i) (nth 0 y i)

/-- The clock that the last write of a byte's sector carried. -/
def State.clockOf (s : State) (pa : Nat) : List Nat :=
  match s.sectorClock.find? fun x => x.1 == pa / 64 with
  | some (_, c) => c
  | none => List.replicate 12 0

/-- A write of a core's die to a byte carries the die's clock. -/
def State.stampSector (s : State) (core pa : Nat) : State :=
  let c := nth [] s.clocks (dieOf core)
  { s with sectorClock := (pa / 64, c) :: s.sectorClock.filter fun x => x.1 != pa / 64 }

/-- Sectors stamped one after another. -/
def State.stampAll (s : State) (core : Nat) : List Nat → State
  | [] => s
  | pa :: rest => State.stampAll (s.stampSector core pa) core rest

/-! ### The constant cache (R170) -/

/-- The 64-byte line that holds a virtual address enters the core's constant cache. -/
def State.fillConst (s : State) (core ctx va : Nat) : Except Nat State :=
  match s.translate core ctx (va / 64 * 64) .read with
  | (.error d, _) => .error d
  | (.ok pa, s1) =>
    let (bs, s2) := s1.loadBytes ((List.range 64).map (pa + ·))
    let c := s2.core core
    let room := if c.consts.length ≥ 16384 then
        (match c.consts with | x :: _ => c.consts.filter fun y => y.1 / 64 != x.1 / 64 | [] => []) else c.consts
    .ok (s2.setCore core { c with
      consts := (bs.zipIdx).foldl (fun m x => overPut m (va / 64 * 64 + x.2) x.1) room })

/-- Bytes read through the constant cache, its lines filled as they are missed; the address and reason where a line
cannot be translated. -/
def State.readConst (s : State) (core ctx va : Nat) : Nat → Except (Nat × Nat) (List Byte) × State
  | 0 => (.ok [], s)
  | n + 1 =>
    let hit (s1 : State) (b : Byte) : Except (Nat × Nat) (List Byte) × State :=
      match State.readConst s1 core ctx (va + 1) n with
      | (.ok bs, s2) => (.ok (b :: bs), s2)
      | (.error e, s2) => (.error e, s2)
    match overGet (s.core core).consts va with
    | some b => hit s b
    | none =>
      match s.fillConst core ctx va with
      | .error d => (.error (va, d), s)
      | .ok s1 =>
        match overGet (s1.core core).consts va with
        | some b => hit s1 b
        | none => (.error (va, 0x04), s1)

/-! ### Arrival objects (R174) -/

/-- The fields of an arrival object. -/
structure ArrObj where
  phase : Bool
  err : Bool
  expected : Nat
  arrived : Nat
deriving DecidableEq, Repr

/-- An arrival object from its 8 bytes (R174). -/
def ArrObj.ofNat (x : Nat) : ArrObj :=
  { phase := x.testBit 63, err := x.testBit 62, expected := x / 2 ^ 16 % 2 ^ 16, arrived := x % 2 ^ 16 }

/-- The 8 bytes of an arrival object; its reserved bits keep the value they had. -/
def ArrObj.bytes (a : ArrObj) (old : Nat) : List Byte :=
  leBytes 8 ((if a.phase then 2 ^ 63 else 0) + (if a.err then 2 ^ 62 else 0) + old / 2 ^ 32 % 2 ^ 30 * 2 ^ 32
    + a.expected % 2 ^ 16 * 2 ^ 16 + a.arrived % 2 ^ 16)

/-- The helper arrival of R174. -/
def ArrObj.arrive (a : ArrObj) (n : Nat) (err : Bool) : ArrObj :=
  let b := { a with err := a.err || err }
  if a.arrived + n ≥ a.expected then { b with arrived := 0, phase := !a.phase } else { b with arrived := a.arrived + n }

/-- The arrival object at an offset of a block's scratchpad. -/
def State.arrObj (s : State) (bid obj : Nat) : ArrObj := ArrObj.ofNat (leNat (s.spadRead bid obj 8))

/-- An arrival at an object of a block (R174). -/
def State.arriveObj (s : State) (bid obj n : Nat) (err : Bool) : State :=
  let old := leNat (s.spadRead bid obj 8)
  s.spadWrite bid obj (((ArrObj.ofNat old).arrive n err).bytes old)

/-- The checks of an instruction that names an arrival object: MISALIGN, then DFAULT 0x07 (R174). R174 names no address for
TRAP_ADDR: the model's choice is the object's offset (log entry 104). -/
def State.checkObj (s : State) (a : Actx) (obj : Nat) : Option State :=
  if obj % 8 ≠ 0 then some (s.raiseAt a Code.misalign 0 (BitVec.ofNat 64 obj))
  else if obj + 8 > s.spadSize a.blk then some (s.raiseAt a Code.dfault 0x07 (BitVec.ofNat 64 obj))
  else none

/-! ### Register writes of operations -/

/-- A vector lane or a scalar receives a result when its operation completes. -/
def State.applyWrite (s : State) (core b wi : Nat) (w : RegWrite) : State :=
  match w with
  | .scalar r v => s.updWarp b wi fun w => { w with sregs := setNth w.sregs r v }
  | .lane r l v =>
    match s.warp? b wi with
    | none => s
    | some (blk, w) =>
      if w.ended then s else
      let m := maskOf [l]
      (s.setWarp blk wi (w.setVreg r ((w.vreg r).write m fun _ => KVal.plain v))).dropRefs core blk.ctx b wi
        ((w.vreg r).lost m)

/-- The lanes of one register among a list of writes, as a mask and values. -/
def laneWrites (r : Nat) (ws : List RegWrite) : List (Nat × Word) :=
  ws.filterMap fun w => match w with | .lane q l v => if q = r then some (l, v) else none | _ => none

/-- The vector registers a list of writes names. -/
def regsOf (ws : List RegWrite) : List Nat :=
  distinct (ws.filterMap fun w => match w with | .lane r _ _ => some r | _ => none)

/-- One register written in all its lanes at once (R111). -/
def State.applyReg (s : State) (core b wi r : Nat) (lv : List (Nat × Word)) : State :=
  match s.warp? b wi with
  | none => s
  | some (blk, w) =>
    if w.ended then s else
    let m := maskOf (lv.map (·.1))
    let f (l : Nat) : KVal := KVal.plain (((lv.find? fun x => x.1 == l).map (·.2)).getD 0#32)
    (s.setWarp blk wi (w.setVreg r ((w.vreg r).write m f))).dropRefs core blk.ctx b wi ((w.vreg r).lost m)

/-- The register writes of an operation: each vector register in all its lanes at once, and the scalars. -/
def State.applyWrites (s : State) (core b wi : Nat) (ws : List RegWrite) : State :=
  let s1 := (regsOf ws).foldl (fun s r => s.applyReg core b wi r (laneWrites r ws)) s
  (ws.filter fun w => match w with | .scalar _ _ => true | _ => false).foldl (fun s w => s.applyWrite core b wi w) s1

/-- The writes of a lane's loaded words to registers from `d` on; ZERO discards. -/
def regWrites (d : Nat) (sd : Bool) (l : Nat) (ws : List Word) : List RegWrite :=
  if !sd && d = 0xF3 then []
  else ws.zipIdx.map fun x => if sd then .scalar (d + x.2) x.1 else .lane (d + x.2) l x.1

end Sys2Proof.Machine
end

