-- ==== Sys2Proof/Machine/Tiles.lean ====
section
/-!
DEFINITION. Shape grants (R236 to R238), fragments and accumulator lines (R240, R241), format words (R242, R243), and the tile
that an MMA or MMAS writes (R250).
-/
namespace Sys2Proof.Machine
open Sys2Proof

/-! ### Grants (R236, R237) -/

/-- An ungranted shape register (R85). -/
def Shape.none : Shape :=
  { v := false, chg := false, fmt := 0#3, reqM := 0#8, reqN := 0#8, reqK := 0#9, gm := 0#7, gn := 0#8, gk := 0#9
    tm := 0#7, tn := 0#8, tk := 0#9 }

/-- Element width of a format code (R239). -/
def matWidth (fmt : Nat) : Nat := match fmt with | 0 => 16 | 1 => 16 | 4 => 4 | _ => 8

/-- The largest of `step, 2·step, …` up to `n` steps that satisfies a test, or else the first. -/
def largest (step : Nat) (ok : Nat → Bool) : Nat → Nat
  | 0 => step
  | n + 1 => if ok (step * (n + 1)) then step * (n + 1) else largest step ok n

/-- grant() of R237 for a die. -/
def grant (salvaged : Bool) (fmt rm rn rk : Nat) : Shape :=
  let w := matWidth fmt
  let gk := largest 16 (fun k => decide (k ≤ rk)) (if salvaged then 8 else 16)
  let okM (m : Nat) : Bool := decide (m ≤ rm) && decide (m * gk * w ≤ 65536)
  let gm := if okM 64 then 64 else if okM 32 then 32 else 16
  let gn := largest 8 (fun n => decide (n ≤ rn) && decide (gk * n * w ≤ 65536)) 16
  { v := true, chg := false, fmt := BitVec.ofNat 3 fmt
    reqM := BitVec.ofNat 8 rm, reqN := BitVec.ofNat 8 rn, reqK := BitVec.ofNat 9 rk
    gm := BitVec.ofNat 7 gm, gn := BitVec.ofNat 8 gn, gk := BitVec.ofNat 9 gk
    tm := if rm < 16 then BitVec.ofNat 7 rm else 0#7, tn := if rn < 8 then BitVec.ofNat 8 rn else 0#8
    tk := if rk < 16 then BitVec.ofNat 9 rk else 0#9 }

/-- A shape register as a restore on another core leaves it (R238). -/
def Shape.regrant (x : Shape) (salvaged : Bool) : Shape :=
  if !x.v then x
  else
    let g := grant salvaged x.fmt.toNat x.reqM.toNat x.reqN.toNat x.reqK.toNat
    if g.gm = x.gm ∧ g.gn = x.gn ∧ g.gk = x.gk then x
    else
      { x with
        chg := true, gm := g.gm, gn := g.gn, gk := g.gk
        tm := if g.gm = x.gm then x.tm else g.tm, tn := if g.gn = x.gn then x.tn else g.tn
        tk := if g.gk = x.gk then x.tk else g.tk }

/-- A compute die is salvaged (R10, R318). -/
def State.salvaged (s : State) (core : Nat) : Bool := s.dev.salv.getLsbD (dieOf core)

/-- M, N and K in the places of the shape word (R236). -/
def dimWord (m n k : Nat) : Nat := k * 2 ^ 16 + n * 2 ^ 8 + m

/-- The shape word of a grant (R236). -/
def Shape.word (x : Shape) (chg : Bool) : Word :=
  w32 (dimWord x.gm.toNat x.gn.toNat x.gk.toNat + x.fmt.toNat * 2 ^ 25 + (if chg then 2 ^ 30 else 0) + 2 ^ 31)

/-- The shape register of a number. -/
def Warp.shape (w : Warp) (n : Nat) : Shape := nth Shape.none w.shapes n

/-! ### Fragments and lines (R240, R241) -/

/-- place() of R240: an element of a fragment among listed registers. -/
def fragElem (regs : List VReg) (base idx width : Nat) : Nat :=
  let bit := idx * width
  elem width ((nth VReg.zero regs (base + bit / 1024)).lane (bit / 32 % 32)).val (bit % 32 / width)

/-- Dimensions in use: the tail where it is not 0 (R250). -/
def Shape.rows (x : Shape) : Nat := if x.tm = 0#7 then x.gm.toNat else x.tm.toNat
/-- Columns in use (R250). -/
def Shape.cols (x : Shape) : Nat := if x.tn = 0#8 then x.gn.toNat else x.tn.toNat
/-- Depth in use (R250). -/
def Shape.dep (x : Shape) : Nat := if x.tk = 0#9 then x.gk.toNat else x.tk.toNat

/-- Quotient rounded up. -/
def upDiv (a b : Nat) : Nat := (a + b - 1) / b

/-- NB: scale blocks along K (R240). -/
def Shape.blocks (x : Shape) (bs : Nat) : Nat := upDiv x.gk.toNat bs
/-- RA (R240). -/
def Shape.ra (x : Shape) : Nat := x.gm.toNat * x.gk.toNat * matWidth x.fmt.toNat / 1024
/-- RB (R240). -/
def Shape.rb (x : Shape) : Nat := upDiv (x.gk.toNat * x.gn.toNat * matWidth x.fmt.toNat) 1024
/-- RSA (R240). -/
def Shape.rsa (x : Shape) (bs : Nat) : Nat := upDiv (x.gm.toNat * x.blocks bs) 128
/-- RSB (R240). -/
def Shape.rsb (x : Shape) (bs : Nat) : Nat := upDiv (x.gn.toNat * x.blocks bs) 128

/-- A run of registers lies within the warp's allocation, or in the block lent to its handler (R97, R306). -/
def Warp.hasRun (w : Warp) (base n : Nat) : Bool :=
  n == 0 || decide (base + n ≤ 8 * w.b) || (w.frame.isSome && decide (232 ≤ base) && decide (base + n ≤ 240))

/-- The block size of a format word; a reserved code reads as 0 (R242, R246). -/
def blockSize (f : Word) : Nat := if bits f 13 12 = 1 then 16 else 32

/-- A word of a block's accumulator lines, by 32 × line + word (R241). -/
def Block.accWord (b : Block) (i : Nat) : Word := cellGet 0#32 b.acc i

/-- Accumulator words of a block are written. -/
def State.writeAcc (s : State) (bid : Nat) (ws : List (Nat × Word)) : State :=
  match s.block? bid with
  | some b => s.setBlock { b with acc := ws.foldl (fun m x => cellPut 0#32 m x.1 x.2) b.acc }
  | none => s

/-! ### Format words (R242, R243) -/

/-- A floating-point format code. -/
def fpCode (c : Nat) : Bool := c ≤ 4

/-- A format word is valid for an instruction and a shape register (R243). -/
def formatOk (scaled : Bool) (fmt : Nat) (f : Word) : Bool :=
  let af := bits f 3 0
  let bf := bits f 7 4
  let cf := bits f 9 8
  let sc := bits f 11 10
  let bs := bits f 13 12
  bits f 31 17 == 0 && af ≤ 5 && bf ≤ 5 && bs ≤ 1 && sc ≤ 1 && cf ≤ 2
    && matWidth af == matWidth fmt && matWidth bf == matWidth fmt
    && fpCode af == fpCode bf && (if fpCode af then cf == 0 else cf == 1 || cf == 2)
    && (cf == 0 || (!f.getLsbD 14 && bits f 16 15 == 0))
    && (if scaled then sc == 1 && cf == 0 && 2 ≤ af && af ≤ 4 && 2 ≤ bf && bf ≤ 4 else sc == 0 && bs == 0)

/-- The value of an element of a floating-point format code (R239). -/
def matVal (code x : Nat) : FVal :=
  match code with
  | 0 => FloatFmt.bf16.val x
  | 1 => FloatFmt.fp16.val x
  | 2 => FloatFmt.e4m3.val x
  | 3 => FloatFmt.e5m2.val x
  | _ => FloatFmt.e2m1.val x

/-! ### The tile (R250) -/

/-- The pairs A[i][k], B[k][j] with k below the depth in use, as encodings; masked elements are zero. -/
def matTerms (regs : List VReg) (o : Opnds) (x : Shape) (i j : Nat) : List (Nat × Nat) :=
  let wd := matWidth x.fmt.toNat
  (List.range x.gk.toNat).map fun k =>
    if k < x.dep then (fragElem regs o.a.toNat (i * x.gk.toNat + k) wd, fragElem regs o.b.toNat (j * x.gk.toNat + k) wd)
    else (0, 0)

/-- An element of an MMA (R250). -/
def mmaElem (f : Word) (c : Word) (ts : List (Nat × Nat)) : Word :=
  let isum : Int := (ts.map fun t => sextInt t.1 8 * sextInt t.2 8).sum
  match bits f 9 8 with
  | 0 =>
    w32 (dot .fp32 (FloatFmt.fp32.val c.toNat) (ts.map fun t => (matVal (bits f 3 0) t.1, matVal (bits f 7 4) t.2))
      (Rnd.ofBits (bits f 16 15)) false (f.getLsbD 14))
  | 1 => BitVec.ofInt 32 (c.toInt + isum)
  | _ => w32 (rxenc (rxdec c.toNat + isum))

/-- The block sums of dots, by block parity (R58): `j` counts blocks; a block wholly past the depth adds nothing. -/
def dotsChains (bs dep : Nat) (af bf : Nat) (ea eb : Nat → Nat) (ts : List (Nat × Nat)) :
    Nat → Nat → FVal → FVal → FVal × FVal
  | 0, _, e, o => (e, o)
  | n + 1, j, e, o =>
    if dep ≤ j * bs then (e, o)
    else
      let blk := (ts.drop (j * bs)).take bs
      let sum := blk.foldl (fun acc t => acc.add false ((matVal af t.1).mul (matVal bf t.2))) (FVal.fin false 0 0)
      let t := rn ((sum.mul (e8m0Val (ea j))).mul (e8m0Val (eb j)))
      if j % 2 = 0 then dotsChains bs dep af bf ea eb ts n (j + 1) (rn (e.add false t)) o
      else dotsChains bs dep af bf ea eb ts n (j + 1) e (rn (o.add false t))

/-- An element of an MMAS (R58, R250). -/
def mmasElem (regs : List VReg) (o : Opnds) (x : Shape) (f c : Word) (i j : Nat) : Word :=
  let bs := blockSize f
  let nb := x.blocks bs
  let ea (b : Nat) : Nat := fragElem regs (o.a.toNat + x.ra) (i * nb + b) 8
  let eb (b : Nat) : Nat := fragElem regs (o.b.toNat + x.rb) (j * nb + b) 8
  let z := FVal.fin false 0 0
  let (e, od) := dotsChains bs x.dep (bits f 3 0) (bits f 7 4) ea eb (matTerms regs o x i j) nb 0 z z
  let r := Rnd.ofBits (bits f 16 15)
  w32 (FloatFmt.fp32.enc ((FloatFmt.fp32.val c.toNat).add (r == .rdn) (rn (e.add false od))) r false (f.getLsbD 14))

/-- The base line of an MMA or MMAS: 4 × ABASE (R244). -/
def mmaBase (o : Opnds) : Nat := 4 * (bits o.mod 5 3 * 256 + o.d.toNat)

/-- The words a matrix instruction writes over the lines of its block as they then stand: the elements of its tile in use
(R241, R250). -/
def Block.tile (b : Block) (o : Opnds) (scaled : Bool) (x : Shape) (f : Word) (regs : List VReg) : List (Nat × Word) :=
  (List.range x.rows).flatMap fun i => (List.range x.cols).map fun j =>
    let at_ := 32 * mmaBase o + i * x.gn.toNat + j
    let c := b.accWord at_
    (at_, if scaled then mmasElem regs o x f c i j else mmaElem f c (matTerms regs o x i j))

/-- Accumulator lines of a tile (R241). -/
def Shape.lines (x : Shape) : Nat := upDiv (x.gm.toNat * x.gn.toNat) 32

/-- An MMA or MMAS of the warp still has to write one of these accumulator lines (R34, R251). -/
def State.tileHolds (s : State) (b wi : Nat) (lo n : Nat) : Bool :=
  s.ops.any fun o => o.block == b && o.warp == wi &&
    (match o.kind with
     | .tile t _ x _ _ => decide (mmaBase t < lo + n) && decide (lo < mmaBase t + x.lines)
     | _ => false)

end Sys2Proof.Machine
end

