-- ==== Sys2Proof/Machine/Spad.lean ====
section
/-!
DEFINITION. The operations of the atomics (R204), and the accesses to scratchpad and to accumulator lines: one at a time, each
warp's in program order (R199, R256), performed when the scratchpad applies them.
-/
namespace Sys2Proof.Machine
open Sys2Proof

/-! ### The operations of R204 -/

/-- The new value of a read-modify-write of width `w`, or none when nothing is written (R204). -/
def atomFn (op : AtomOp) (u : Bool) (w old b c : Nat) : Option Nat :=
  let lt (x y : Nat) : Bool := if u then decide (x < y) else decide (sextInt x w < sextInt y w)
  match op with
  | .add => some ((old + b) % 2 ^ w)
  | .min => some (if lt b old then b else old)
  | .max => some (if lt old b then b else old)
  | .and => some (old &&& b)
  | .or => some (old ||| b)
  | .xor => some (old ^^^ b)
  | .exch => some b
  | .inc => some (if b ≤ old then 0 else old + 1)
  | .dec => some (if old = 0 ∨ b < old then b else old - 1)
  | .fadd => some (fAdd .fp32 0#6 old b)
  | .fmin => some (fMinMax false false false old b)
  | .fmax => some (fMinMax true false false old b)
  | .cas => if old = b then some c else none

/-- The register writes of an old value in a lane; ZERO discards (R206). -/
def oldWrites (dst : Option Nat) (size l old : Nat) : List RegWrite :=
  match dst with
  | none => []
  | some d => (List.range (size / 4)).map fun i => .lane (d + i) l (w32 (old / 2 ^ (32 * i)))

/-! ### Scratchpad accesses in their order (R199) -/

/-- An operation has an access to scratchpad or to accumulator lines to make, which comes before those of its warp that follow
(R199, R256, R281). -/
def OpKind.onSpad : OpKind → Bool
  | .lds _ => true
  | .sts _ => true
  | .atoms _ _ _ _ _ => true
  | .pmats lanes => !lanes.isEmpty
  | .tile _ _ _ _ _ => true
  | _ => false

/-- A scratchpad access is performed: what it reads and what it writes join the log (R191, R199). -/
def State.noteSpad (s : State) (t : MemTag) (bid : Nat) (reads writes : List Nat) : State :=
  s.note { MemEvent.of t with
    reads := reads.map fun x => (spadPlace bid x, lastWrite s.log s.memTime (spadPlace bid x))
    writes := writes.map fun x => (spadPlace bid x, nth 0#8 (s.spadRead bid x 1) 0) }

/-- An access of a warp to an arrival object: it reads the eight bytes, writes them, or does both as one (R174, R197). -/
def State.noteObj (s : State) (a : Actx) (obj : Nat) (reads writes : Bool) : State :=
  let (id, s1) := s.fresh
  let bytes := (List.range 8).map (obj + ·)
  s1.noteSpad { MemTag.warp a.bid a.wi a.core id with rmw := reads && writes } a.bid (if reads then bytes else [])
    (if writes then bytes else [])

/-- The place of an accumulator word of a block among the places of the log: beyond those of its scratchpad (R256). -/
def accPlace (b i : Nat) : Nat := spadPlace b (2 ^ 40 + i)

/-- An access to accumulator words is performed: the words it reads and writes join the log (R195, R256). -/
def State.noteAcc (s : State) (t : MemTag) (bid : Nat) (reads writes : List Nat) : State :=
  s.note { MemEvent.of t with
    reads := reads.map fun x => (accPlace bid x, lastWrite s.log s.memTime (accPlace bid x))
    writes := writes.map fun x => (accPlace bid x, 0#8) }

/-- Accumulator words are written, as one access; `reads` when it reads them too (R256). -/
def State.putAcc (s : State) (t : MemTag) (bid : Nat) (reads : Bool) (ws : List (Nat × Word)) : State :=
  let is : List Nat := ws.map fun (x : Nat × Word) => x.1
  (s.noteAcc t bid (if reads then is else []) is).writeAcc bid ws

/-- The register writes of a lane's load from bytes at hand. -/
def LaneLoad.regs (x : LaneLoad) (bs : List Byte) : List RegWrite :=
  regWrites x.dst x.scalar (x.lane % 32) (loadWords x.sz bs)

/-- The bytes of a lane's scratchpad load. -/
def State.spadLane (s : State) (bid : Nat) (x : LaneLoad) : List Byte :=
  x.bytes.map fun i => nth 0#8 (s.spadRead bid i 1) 0

/-- A store's lanes are written to scratchpad one after another, so that a byte of two lanes keeps the higher's (R199; log entry
92). -/
def State.spadParts (s : State) (t : MemTag) (bid : Nat) (parts : List (Nat × List Byte)) : State :=
  parts.foldl (fun (s : State) p =>
    (s.noteSpad t bid [] ((List.range p.2.length).map (p.1 + ·))).spadWrite bid p.1 p.2) s

/-- Each lane's read-modify-write of scratchpad, in ascending order (R207): the register writes of the old values. -/
def State.spadAtoms (s : State) (t : MemTag) (bid : Nat) (op : AtomOp) (u : Bool) (size : Nat) (dst : Option Nat) :
    List AtomLane → State × List RegWrite
  | [] => (s, [])
  | x :: xs =>
    let bytes := (List.range size).map (x.pa + ·)
    let old := leNat (s.spadRead bid x.pa size)
    let s1 := match atomFn op u (8 * size) old x.b x.c with
      | some v => (s.noteSpad { t with rmw := true } bid bytes bytes).spadWrite bid x.pa (leBytes size v)
      | none => s.noteSpad { t with rmw := true } bid bytes []
    let (s2, ws) := State.spadAtoms s1 t bid op u size dst xs
    (s2, (if x.mute then [] else oldWrites dst size x.lane old) ++ ws)

/-- An operation makes its access to scratchpad, as one (R199); its registers are written when it completes. -/
def State.performSpad (s : State) (op : Op) : State :=
  match op.kind with
  | .lds lanes =>
    (s.noteSpad op.tag op.block (lanes.flatMap (·.bytes)) []).setOp op.id
      (.fill (lanes.flatMap fun x => x.regs (s.spadLane op.block x)))
  | .sts parts => (s.spadParts op.tag op.block parts).setOp op.id (.done [])
  | .atoms k u size lanes dst =>
    let (s1, ws) := s.spadAtoms op.tag op.block k u size dst lanes
    s1.setOp op.id (.done ws)
  | .tile o scaled x f regs =>
    (match s.block? op.block with
     | some b => s.putAcc op.tag op.block true (b.tile o scaled x f regs)
     | none => s).setOp op.id (.done [])
  | _ => s

/-- The oldest operation of a warp that has an access to scratchpad to make. -/
def State.oldestSpad (s : State) (b wi : Nat) : Option Op :=
  s.ops.find? fun o => o.block == b && o.warp == wi && o.kind.onSpad

/-- The scratchpad applies a warp's accesses in program order up to an operation (R199). A PMAT.S that waits for its values
keeps those behind it waiting. -/
def State.drainSpad (s : State) (b wi upto : Nat) : Nat → State
  | 0 => s
  | n + 1 =>
    match s.oldestSpad b wi with
    | none => s
    | some op =>
      match op.kind with
      | .pmats _ => s
      | _ => if op.id ≤ upto then State.drainSpad (s.performSpad op) b wi upto n else s

/-- An instruction that reads or writes scratchpad when it issues does so behind every earlier access of its warp (R192,
R199): it waits at issue for a PMAT.S whose values have not all come (log entry 15). -/
def State.behindSpad (s : State) (a : Actx) (act : State → State) : State :=
  let s1 := s.drainSpad a.bid a.wi s.nextId s.ops.length
  if (s1.oldestSpad a.bid a.wi).isSome then s else act s1

/-- The warp that issues has every earlier access to scratchpad applied: an instruction that reads or writes scratchpad at
issue comes after them (R199). -/
def State.spadReady (s : State) : State :=
  match s.actx with
  | some a => s.drainSpad a.bid a.wi s.nextId s.ops.length
  | none => s

/-- The warp that issues still has an access to scratchpad to make: a PMAT.S whose values have not all come, or one behind it. -/
def State.spadHeld (s : State) : Bool :=
  match s.actx with
  | some a => (s.oldestSpad a.bid a.wi).isSome
  | none => false

/-- An instruction over scratchpad acts on the state in which its warp's earlier accesses are made, and waits at issue while one
of them is left (R192, R199; log entry 15). With no lane to act in it waits for nothing. -/
def State.afterSpad (s : State) (gn : Bool) (g : BitVec 3) (act : State → Host.Outcome State Fault Refusal) :
    Host.Outcome State Fault Refusal :=
  match s.actx with
  | some a => if s.spadReady.spadHeld && a.active gn g != 0#32 && !a.guardPx g then .next s else act s.spadReady
  | none => act s

end Sys2Proof.Machine
end

