-- ==== Sys2Proof/Machine/Early.lean ====
section
/-!
DEFINITION. What software touches too early: source registers of a flag-counted instruction that is in flight (R35), and the
scratchpad bytes and index lists of engine transfers under way (R6, R178, R179).
-/
namespace Sys2Proof.Machine
open Sys2Proof

/-! ### Registers (R35) -/

/-- The registers a field names, latches followed: whether scalar, and the number. -/
def Warp.fieldRegs (w : Warp) (u : Use) (v : BitVec 8) (sf : Bool) : List (Bool × Nat) :=
  match u with
  | .dst | .src | .red =>
    let r := w.resolve v sf
    if r.1 < (if r.2 then 0x60 else 0xF0) then [(r.2, r.1)] else []
  | _ => []

/-- The registers of a form's runs that a test selects. -/
def Warp.fieldRuns (w : Warp) (p : Nat × Bool × Nat → Bool) (runs : List (Nat × Bool × Nat)) : List (Bool × Nat) :=
  (runs.filter p).flatMap fun r => (List.range r.2.2).flatMap fun i => w.fieldRegs .src (BitVec.ofNat 8 (r.1 + i)) r.2.1

/-- Registers D, D + 1, … that hold a word each, latches followed; none for a word that no register holds. -/
def Warp.wordRegs (w : Warp) (v : BitVec 8) (sf : Bool) (n : Nat) : List (Option (Bool × Nat)) :=
  (List.range n).map fun i => (w.fieldRegs .src (v + BitVec.ofNat 8 i) sf).head?

/-- The registers of the words that an instruction stores, or that an atomic applies, in the order of their bytes. -/
def Warp.dataRegs (w : Warp) (i : Instr) : List (Option (Bool × Nat)) :=
  match i with
  | .stReg o | .stImm o | .stPrivReg o | .stPrivImm o | .stsReg o | .stsImm o => w.wordRegs o.d o.sd (szRegs (o.mod.toNat % 8))
  | .atom _ o => w.wordRegs o.b o.sb (if o.m 4 then 2 else 1)
  | .acas o => w.wordRegs o.b o.sb (if o.m 4 then 2 else 1) ++ w.wordRegs o.c o.sc (if o.m 4 then 2 else 1)
  | .atoms op o =>
    w.wordRegs o.b o.sb (if o.m 4 then 2 else 1) ++ (if op == .cas then w.wordRegs o.c o.sc (if o.m 4 then 2 else 1) else [])
  | _ => []

/-- The registers of a pair, latches followed. -/
def Warp.pairRegs (w : Warp) (v : BitVec 8) (sf wide : Bool) : List (Bool × Nat) :=
  w.fieldRegs .src v sf ++ (if wide && !(v == 0xF3#8 && !sf) then w.fieldRegs .src (v + 1#8) sf else [])

/-- The source registers of an instruction, but for those of its data: the registers of its address and of whatever else it
reads. -/
def Warp.readRegs (w : Warp) (i : Instr) : List (Bool × Nat) :=
  match i with
  | .stReg o => w.pairRegs o.a o.sa (o.m 3) ++ w.fieldRegs .src o.b o.sb
  | .stImm o => w.pairRegs o.a o.sa (o.m 3)
  | .stPrivReg o | .stsReg o => w.fieldRegs .src o.a o.sa ++ w.fieldRegs .src o.b o.sb
  | .stPrivImm o | .stsImm o => w.fieldRegs .src o.a o.sa
  | .atom _ o | .acas o => w.pairRegs o.a o.sa (o.m 3)
  | .atoms _ o => w.fieldRegs .src o.a o.sa
  | .nlaunch o | .tlbhInv o => w.pairRegs o.a o.sa true ++ w.fieldRegs .src o.b o.sb ++ w.fieldRegs .src o.c o.sc
  | .cctlWb o | .cctlWbinv o => w.pairRegs o.a o.sa true ++ w.fieldRegs .src o.b o.sb
  | i =>
    match form i, operandCode i with
    | some f, some (_, _, o) =>
      (if f.d == .red then w.fieldRegs .red o.d o.sd else []) ++ w.fieldRegs f.a o.a o.sa
        ++ (if f.imm then [] else w.fieldRegs f.b o.b o.sb ++ w.fieldRegs f.c o.c o.sc)
        ++ w.fieldRuns (fun r => !(f.d == .dst && r.1 == o.d.toNat && r.2.1 == o.sd)) f.runs
    | _, _ => []

/-- The lanes in which an instruction acts. -/
def Actx.actsIn (a : Actx) (i : Instr) : Mask :=
  match operandCode i, pairHalves i with
  | some (_, _, o), _ => a.active o.gn o.g
  | _, some (_, x, y) => a.active x.gn x.g ||| a.active y.o.gn y.o.g
  | _, _ => a.p.mask

/-- Registers with the lanes in which they are named; all of a scalar. -/
def withLanes (m : Mask) (rs : List (Bool × Nat)) : List (Bool × Nat × Mask) :=
  if m = 0#32 then [] else rs.map fun r => (r.1, r.2, if r.1 then BitVec.allOnes 32 else m)

/-- `n` free words from the k-th on. -/
def freeWordsFrom (k n : Nat) : List Word := (List.range n).map fun i => Config.freeWord (k + i)

/-- A free operand of an atomic. -/
def freeOperand (size k : Nat) : Nat := ((Config.freeWord k).toNat + 2 ^ 32 * (Config.freeWord (k + 1)).toNat) % 2 ^ (8 * size)

/-- Free values for the registers that an operation has yet to write, from the k-th on. -/
def OpKind.freeResults (k : Nat) : OpKind → List RegWrite
  | .load lanes | .lds lanes => lanes.zipIdx.flatMap fun (x : LaneLoad × Nat) =>
      regWrites x.1.dst x.1.scalar (x.1.lane % 32) (freeWordsFrom (k + 4 * x.2) (szRegs x.1.sz))
  | .fill ws | .done ws => ws.zipIdx.map fun (x : RegWrite × Nat) =>
      match x.1 with
      | .lane r l _ => .lane r l (Config.freeWord (k + x.2))
      | .scalar r _ => .scalar r (Config.freeWord (k + x.2))
  | .atoms _ _ size lanes dst => lanes.flatMap fun x => oldWrites dst size x.lane (freeOperand size (k + 2 * x.lane))
  | .atomic _ _ size reqs dst _ =>
      reqs.flatMap fun r => r.2.flatMap fun x => oldWrites dst size x.lane (freeOperand size (k + 2 * x.lane))
  | .jdec _ _ dst => [.scalar dst (Config.freeWord k)]
  | _ => []

/-- A lane's load that writes no register. -/
def LaneLoad.discard (x : LaneLoad) : LaneLoad := { x with dst := 0xF3, scalar := false }

/-- A register write in one of these lanes, or of a scalar. -/
def RegWrite.among (m : Mask) : RegWrite → Bool
  | .lane _ l _ => m.getLsbD l
  | .scalar _ _ => true

/-- What becomes of a lane's bytes, the first at place `off` among the lane's data: each word for which `new` gives an answer is
the instruction's or the later write's value, as a free choice (R35). The answer is what the later write has left in the register,
a free word where that is no plain value. -/
def spoilWords (k off : Nat) (old : List Byte) (new : Nat → Option (Option Word)) : List Byte :=
  old.zipIdx.map fun (x : Byte × Nat) =>
    let i := (off + x.2) / 4
    match new i with
    | none => x.1
    | some v =>
      if (Config.freeWord (k + 2 * i)).getLsbD 0 then
        (v.getD (Config.freeWord (k + 2 * i + 1))).extractLsb' (8 * (x.2 % 4)) 8
      else x.1

/-- An atomic's lane writes no register when it is among these. -/
def AtomLane.muteIn (m : Mask) (x : AtomLane) : AtomLane := { x with mute := x.mute || m.getLsbD x.lane }

/-- The operation without results in some lanes; a PMAT.S stores free bytes there. -/
def OpKind.barred (m : Mask) : OpKind → OpKind
  | .load lanes => .load (lanes.map fun (x : LaneLoad) => if x.scalar || m.getLsbD (x.lane % 32) then x.discard else x)
  | .lds lanes => .lds (lanes.map fun (x : LaneLoad) => if x.scalar || m.getLsbD (x.lane % 32) then x.discard else x)
  | .fill ws => .fill (ws.filter fun w => !w.among m)
  | .done ws => .done (ws.filter fun w => !w.among m)
  | .atoms op u size ls dst => .atoms op u size (ls.map (AtomLane.muteIn m)) dst
  | .atomic op u size reqs dst scope => .atomic op u size (reqs.map fun r => (r.1, r.2.map (AtomLane.muteIn m))) dst scope
  | .pmats lanes => .pmats (lanes.map fun (x : MatLane) => { x with free := x.free || m.getLsbD x.lane })
  | .jdec va pa _ => .jdec va pa 0x60
  | x => x

/-- An atomic's lane with the operands that its bytes give. -/
def AtomLane.withBytes (size : Nat) (f : Nat → Nat → List Byte → List Byte) (x : AtomLane) : AtomLane :=
  let bs := f x.lane 0 (leBytes size x.b ++ leBytes size x.c)
  { x with b := leNat (bs.take size), c := leNat (bs.drop size) }

/-- The operation with the data of its lanes changed: the function takes a lane, the place of the first byte among the lane's
data, and the bytes. `lanes` are those of the instruction, and `wide` says that a lane's store is two accesses. -/
def OpKind.mapData (lanes : List Nat) (wide : Bool) (f : Nat → Nat → List Byte → List Byte) : OpKind → OpKind
  | .sts parts => .sts (parts.zipIdx.map fun (x : (Nat × List Byte) × Nat) => (x.1.1, f (nth 0 lanes x.2) 0 x.1.2))
  | .store parts => .store (parts.zipIdx.map fun (x : (Nat × List (Nat × Byte)) × Nat) =>
      let last := !(parts.drop (x.2 + 1)).any fun y => y.1 == x.1.1
      (x.1.1, (x.1.2.map (·.1)).zip (f x.1.1 (if wide && last then 8 else 0) (x.1.2.map (·.2)))))
  | .atoms op u size ls dst => .atoms op u size (ls.map (AtomLane.withBytes size f)) dst
  | .atomic op u size reqs dst scope =>
    .atomic op u size (reqs.map fun r => (r.1, r.2.map (AtomLane.withBytes size f))) dst scope
  | x => x

/-- What a register of a warp holds in a lane, as a word and whether it is a proxy, its PEND bit aside; none for one that the
warp does not hold. -/
def Warp.laneVal (w : Warp) (sc : Bool) (r l : Nat) : Option (Bool × Word) :=
  if sc then (w.sregs[r]?).map fun v => (false, v)
  else (w.vregs[r]?).map fun x =>
    let k := nth default x.lanes l
    (k.px, if k.px then k.val &&& 0xFFFFFFFC#32 else k.val)

/-- The lanes of a mask in which a register of a warp has become another value, or is no longer the warp's. -/
def Warp.changedIn (w w1 : Warp) (r : Bool × Nat) (m : Mask) : Mask :=
  if r.1 then (if w.laneVal true r.2 0 = w1.laneVal true r.2 0 then 0#32 else m)
  else maskOf ((lanesOf m).filter fun l => w.laneVal false r.2 l != w1.laneVal false r.2 l)

/-- The plain value that a register of a warp holds in a lane. -/
def Warp.plainVal (w : Warp) (r : Bool × Nat) (l : Nat) : Option Word :=
  match w.laneVal r.1 r.2 l with
  | some (false, v) => some v
  | _ => none

/-- A step has led from one state to another: an operation that was and still is in flight keeps its values in each lane in which
none of its sources has changed. What it stores of a changed data register is the instruction's or the later write's value, and
with any other source of a lane what the lane stores and returns is free; a landing of the operation's own is no such change (R6,
R35; log entry 16). -/
def State.noteSources (s t u : State) (o : Op) : State :=
  match s.op? o.id, s.warp? o.block o.warp, t.warp? o.block o.warp, o.srcs with
  | some p, some (_, w), some (_, w1), some xs =>
    let landed := s.actx.isNone && p.kind != o.kind
    let whole := (xs.map fun x => w.changedIn w1 (x.1, x.2.1) x.2.2).foldl (· ||| ·) 0#32
    let words := o.data.2.map fun r => match r with | some r => w.changedIn w1 r o.data.1 | none => 0#32
    let m := words.foldl (· ||| ·) whole
    if o.flag.isNone || landed || w1.ended || m = 0#32 then u
    else
      let new (l i : Nat) : Option (Option Word) :=
        if whole.getLsbD l then some none
        else if (nth 0#32 words i).getLsbD l then some ((nth none o.data.2 i).bind fun r => w1.plainVal r l)
        else none
      let f (l off : Nat) (bs : List Byte) : List Byte := spoilWords (u.drawn + 8 * l) off bs (new l)
      let kind := ((o.kind.barred m).mapData (lanesOf o.data.1) (o.data.2.length == 4) f)
      let u1 := u.applyWrites o.core o.block o.warp ((o.kind.freeResults (u.drawn + 256)).filter (RegWrite.among m))
      { u1.setOp o.id kind with drawn := u.drawn + 1024 }
  | _, _, _, _ => u

/-- What a step has written early among the sources of the flag-counted operations in flight (R35). -/
def State.earlyWrites (s t : State) : State := t.ops.foldl (fun (u : State) (o : Op) => s.noteSources t u o) t

/-- An operation that an instruction has just started keeps the names of its source registers (R35). -/
def State.noteRegs (s : State) (a : Actx) (i : Instr) : State :=
  let m := a.actsIn i
  { s with ops := s.ops.map fun (o : Op) =>
      if o.block = a.bid ∧ o.warp = a.wi ∧ o.srcs = none then
        { o with srcs := some (withLanes m (a.w.readRegs i)), data := (m, a.w.dataRegs i) }
      else o }

/-! ### Scratchpad that an engine has yet to fill (R178, R179) -/

/-- Scratchpad bytes that an operation still has to read or write. -/
def OpKind.spadBytes : OpKind → List Nat
  | .lds lanes => lanes.flatMap (·.bytes)
  | .sts parts => parts.flatMap fun p => (List.range p.2.length).map (p.1 + ·)
  | .atoms _ _ size lanes _ => lanes.flatMap fun x => (List.range size).map (x.pa + ·)
  | _ => []

/-- An operation writes scratchpad. -/
def OpKind.writesSpad : OpKind → Bool
  | .sts _ => true
  | .atoms _ _ _ _ _ => true
  | _ => false

/-- A byte lies in what a transfer of the block writes. -/
def Xfer.fills (x : Xfer) (b i : Nat) : Bool := x.block == b && x.into.any fun r => decide (r.1 ≤ i) && decide (i < r.1 + r.2)

/-- A byte lies in the index list of a gather of the block. -/
def Xfer.lists (x : Xfer) (b i : Nat) : Bool := x.block == b && decide (x.list ≤ i) && decide (i < x.list + 4 * x.rows)

/-- Scratchpad bytes read at issue by an operation, as the log has them. -/
def State.readAtIssue (s : State) (o : Op) : List Nat :=
  (s.log.filter fun e => e.tag.agent == .warp o.block o.warp && e.tag.po == o.id).flatMap fun e =>
    e.reads.filterMap fun r => if spadPlace o.block 0 ≤ r.1 then some (r.1 - spadPlace o.block 0) else none

/-- The bytes of a block's scratchpad that differ from what they were. -/
def Block.changedBytes (old new : Block) : List Nat :=
  distinct (((old.spad.map (·.1)) ++ new.spad.map (·.1)).filter fun i => old.spadByte i != new.spadByte i)

/-- Bytes of a block's scratchpad that a transfer under way has yet to hand over are touched: they are unpredictable from now
on, until the arrival and after it (R6, R178). -/
def State.touchSpad (s : State) (b : Nat) (is : List Nat) : State :=
  let hit := distinct (is.filter fun i => s.xfers.any fun x => x.fills b i)
  if hit.isEmpty then s
  else
    let s1 := hit.zipIdx.foldl (fun (s : State) (x : Nat × Nat) => s.spadWrite b x.1 [Config.freeByte (s.drawn + x.2)]) s
    { s1 with
      drawn := s1.drawn + hit.length
      xfers := s1.xfers.map fun (x : Xfer) => { x with touched := distinct (x.touched ++ hit.filter (x.fills b)) } }

/-- An index list of a gather under way is changed: the rows it still has to write are unpredictable (R6, R179). -/
def State.changeList (s : State) (b : Nat) (is : List Nat) : State :=
  { s with xfers := s.xfers.map fun (x : Xfer) => if is.any (x.lists b) then { x with clash := true } else x }

/-- The scratchpad bytes that a transfer reads: its sources and its index list. -/
def Xfer.takes (x : Xfer) : List Nat :=
  (x.units.flatMap fun u => if u.srcSpad then (List.range u.len).map (u.src + ·) else [])
    ++ (List.range (4 * x.rows)).map (x.list + ·)

/-- A transfer that an instruction has started reads or writes what an earlier one has yet to hand over. -/
def State.noteXfer (s : State) (x : Xfer) : State :=
  let earlier := s.xfers.filter fun y => decide (y.id < x.id) && y.block == x.block
  let writes := x.into.flatMap fun r => (List.range r.2).map (r.1 + ·)
  let both := writes.filter fun i => earlier.any fun y => y.fills x.block i
  let s1 := if x.takes.any fun i => earlier.any fun y => y.fills x.block i then
      { s with xfers := s.xfers.map fun (y : Xfer) => if y.id = x.id then { y with clash := true } else y } else s
  (s1.touchSpad x.block both).changeList x.block (writes.filter fun i => earlier.any fun y => y.lists x.block i)

/-- An instruction of a warp has issued whose block has transfers under way: what it reads and writes in scratchpad, when it
issues or later, may be theirs (R6, R178, R179; log entry 82). -/
def State.noteSpadUse (s : State) (a : Actx) : State :=
  if s.xfers.all fun x => x.block != a.bid then s
  else
    let new := s.ops.filter fun o => o.block == a.bid && o.warp == a.wi && o.srcs.isNone
    let changed := match s.block? a.bid with | some b => a.blk.changedBytes b | none => []
    let later := new.flatMap fun o => o.kind.spadBytes
    let fresh (o : Op) : Bool := (s.readAtIssue o).any fun i => s.xfers.any fun x => x.fills a.bid i
    let s1 := { s with
      ops := s.ops.map fun (o : Op) =>
        match o.kind with
        | .done _ => if new.contains o && fresh o then { o with kind := .done (o.kind.freeResults s.drawn) } else o
        | _ => o
      drawn := s.drawn + 1024 }
    let s2 := (s1.touchSpad a.bid (changed ++ later ++ new.flatMap s.readAtIssue)).changeList a.bid
      (changed ++ (new.filter fun o => o.kind.writesSpad).flatMap fun o => o.kind.spadBytes)
    match s2.xfers.getLast? with
    | some x => if x.block = a.bid ∧ x.warp = a.wi then s2.noteXfer x else s2
    | none => s2

/-- What the issue of an instruction means for what its warp has in flight (R35, R178, R179). -/
def State.noteEarly (s : State) (a : Actx) (i : Instr) : State := (s.noteSpadUse a).noteRegs a i

end Sys2Proof.Machine
end

