-- ==== Sys2Proof/Machine/Fetch.lean ====
section
/-!
DEFINITION. Issue: whether a slot may issue and whose turn it is (R61, R94), the code limits (R38, R307), the fetch of a
word, the order of the traps a word can raise before its own description (R39), the operand latches (R28, R29), and what
a word's issue leaves behind.
-/
namespace Sys2Proof.Machine
open Sys2Proof

/-- The warp is parked in an RBACQ (R107). -/
def State.acquiring (s : State) (a : Actx) : Bool :=
  (s.core a.core).parks.any fun p => p.1 == a.bid && p.2.1 == a.wi

/-- The path of a slot may issue: nothing that a rule names keeps it from it (R61, R68, R81, R99, R107, R208, R230, R305,
R308, R310). An implicit crossing issues to see whether its bits have come (R74). -/
def State.mayIssue (s : State) (a : Actx) : Bool :=
  !a.w.ended && a.w.trap.isNone && !(a.w.frame.isNone && !a.w.async.isEmpty) && a.blk.ending.isNone && !a.blk.stopping
    && !s.blockHeld a.bid && !a.p.held && !a.w.isParked && !s.acquiring a
    && (match a.p.wait with | .ready => true | .crossing _ => true | .retiring => true | _ => false)
    && (match a.w.gate with | some g => g == a.slot | none => true)

/-- A slot of a warp is ready: it may issue, and its word has not had to wait since time last passed. -/
def State.slotReady (s : State) (b wi slot : Nat) : Bool :=
  match s.actxAt b wi slot with
  | some a => s.mayIssue a && !a.w.stalled.contains slot
  | none => false

/-- A warp is ready (R94). -/
def State.warpReady (s : State) (b wi : Nat) : Bool := s.slotReady b wi 0 || s.slotReady b wi 1

/-- Between two ready slots of a warp the one that did not issue last goes first, and slot 0 when neither has (R61). -/
def State.slotTurn (s : State) (a : Actx) : Bool :=
  !s.slotReady a.bid a.wi (1 - a.slot)
    || (match a.w.lastSlot with | some l => l != a.slot | none => a.slot == 0)

/-- No ready warp of the core is older (R94). -/
def State.warpTurn (s : State) (a : Actx) : Bool :=
  !(s.residents a.core).any fun b => b.warps.zipIdx.any fun x => decide (a.w.age < x.1.age) && s.warpReady b.id x.2

/-- Code start and code limit: the kernel object's, or the handler's in handler mode (R38, R307). -/
def State.codeLimits (s : State) (a : Actx) : Nat × Nat :=
  let c := s.ctx a.blk.ctx
  if a.w.frame.isSome then (c.trapVec.toNat, c.trapVec.toNat + c.trapLen.toNat)
  else
    match s.record? a.blk.record with
    | some r =>
      match r.obj with
      | some k => (r.kobj + k.codestart, r.kobj + k.codelim)
      | none => (0, 0)
    | none => (0, 0)

/-- The word at the path's address, or the reason the fetch fails (R99, R173); at an address that is no multiple of 8, the
eight bytes from it (log entry 68). -/
def State.fetchWord (s : State) (a : Actx) : Except Nat DWord × State :=
  match s.translate a.core a.blk.ctx a.p.pc.toNat .fetch with
  | (.error d, s1) => (.error d, s1)
  | (.ok pa, s1) =>
    let (bs, s2) := s1.loadBytes ((List.range 8).map (pa + ·))
    (.ok (BitVec.ofNat 64 (leNat bs)), s2)

/-- The address is a word's. -/
def wordAligned (p : Path) : Bool := p.pc.toNat % 8 == 0

/-- The ILLEGAL detail of a word at its place, the lowest that applies (R31, R39, R40); no header lies at an address that is
no word's (log entry 68). -/
def placeDetail (w : Warp) (p : Path) (d : Except DecodeError Instr) : Option Nat :=
  let due := p.clause.left == 0
  if !wordAligned p then some 0x0B
  else match d with
  | .error _ => some 0x01
  | .ok (.clauseStart h) => least (headerDetails h ++ viol (!due) 0x0B)
  | .ok i => least (details i (decodeCtxOf w p) ++ viol due 0x0B)

/-- A header's clause, from its header to its last word, lies below the code limit (R38). -/
def clauseFits (pc hi : Nat) (d : Except DecodeError Instr) : Bool :=
  match d with
  | .ok (.clauseStart h) => decide (pc + 8 * (h.len.toNat + 1) ≤ hi)
  | _ => true

/-- Every flag that a header masks is clear (R32); a word that is no header waits for none. The header is the clause's start,
so WAIT binds there and not again at the first word (log entry 72). -/
def flagsClear (w : Warp) (i : Instr) : Bool :=
  match i with
  | .clauseStart h => (List.range 12).all fun n => !h.wait.getLsbD n || w.flag n == 0
  | _ => true

/-- Latches of the core's other warps of the issue group expire when this warp issues (R29). -/
def State.switchLatches (s : State) (a : Actx) : State :=
  { s with blocks := s.blocks.map fun (b : Block) =>
      if b.loc == .core a.core then
        { b with warps := b.warps.zipIdx.map fun (x : Warp × Nat) =>
            if x.1.hwslot % 4 = a.w.hwslot % 4 && !(b.id == a.bid && x.2 == a.wi) then
              { x.1 with latches := x.1.latches.map fun (l : Latch) => { l with valid := 0 } }
            else x.1 }
      else b }

/-- The operand fields of an instruction of the operand layout. -/
def operandFields (i : Instr) : Option Opnds := (operandCode i).map fun x => x.2.2

/-- The word has issued: its slot issued last, the warp's age starts again, the latches age, and what the warp has in flight
follows (R29, R35, R61, R94). A header ages no latch (R29). -/
def State.noteIssue (s : State) (a : Actx) (i : Instr) : State :=
  ((s.noteEarly a i).switchLatches a).updWarp a.bid a.wi fun w =>
    let w1 := { w with lastSlot := some a.slot, age := 0, stalled := [] }
    match i with
    | .clauseStart _ => w1
    | i => w1.issueLatches (operandFields i)

/-- The word of a slot has to wait at issue. -/
def State.stall (s : State) (a : Actx) : State :=
  s.updWarp a.bid a.wi fun w => { w with stalled := a.slot :: w.stalled.filter fun x => x != a.slot }

/-- The path is parked on a page fault of its word (R99). -/
def Path.isParked (p : Path) : Bool := match p.wait with | .parked _ => true | _ => false

/-- A word that a slot issued in one state has led to another: it has issued, unless it left its path where it stood, and
so had to wait, or was stopped by a trap or a page fault. A branch whose crossing ends has issued already (R74). -/
def State.issued (s : State) (i : Instr) (t : State) : State :=
  match s.actx with
  | none => t
  | some a =>
    match t.warp? a.bid a.wi with
    | none => t
    | some (_, w) =>
      if w.ended || w.trap.isSome || (a.w.frame.isNone && w.frame.isSome) then t
      else if w.path a.slot = some a.p then t.stall a
      else if (w.path a.slot).any Path.isParked || (match a.p.wait with | .crossing _ => true | _ => false) then t
      else t.noteIssue a i

/-! ### Moves of the divergence stack (R67) -/

/-- The slot of a warp whose path differs between two states. -/
def movedSlot (w w1 : Warp) : Nat := if w.path0.isSome && w.path0 != w1.path0 then 0 else 1

/-- A step has moved entries of a warp's divergence stack to or from its spill area, and one of them does not translate: the
instruction whose path moved takes the data page fault instead. -/
def State.fillFaultOf (s t : State) (b wi : Nat) : Option State :=
  match s.warp? b wi, t.warp? b wi with
  | some (_, w), some (blk1, w1) =>
    if (w.stack.length ≤ 16 && w1.stack.length ≤ 16) || w1.ended || blk1.core?.isNone then none
    else
      match s.actxAt b wi (movedSlot w w1) with
      | none => none
      | some a =>
        match s.spillFault a w1 with
        | (some (va, d, wr), s1) => some ((s1.withdraw b wi a.slot).dataFault a va d wr)
        | (none, _) => none
  | _, _ => none

/-- The first fill or spill that fails among the warps of a step. -/
def State.fillFault (s t : State) : Option State :=
  s.blocks.findSome? fun b => (List.range b.warps.length).findSome? fun wi => s.fillFaultOf t b.id wi

/-- What a step does beside the work of its instruction or event: what it moved to a spill area is written there (R67), and what it
wrote early among the sources of operations in flight follows R35. -/
def State.beside (s t : State) : State := s.earlyWrites (s.spillBeside t)

/-- What a step leaves: the state after its instruction or event with the word's issue noted, or the page fault of a fill. -/
def State.stepped (s : State) (i : Instr) (t : State) : State := (s.fillFault t).getD (s.beside (s.issued i t))

/-! ### The word due -/

/-- What a core does when it may issue from a slot: the traps before the instruction's own, in the order of R39, a
wait at issue, or the instruction that executes now, a HOLD's tag set. A word that sets a tag and reads it is checked
against the old tag and reads through the new one (log entry 71). -/
def State.dueWord (s : State) (a : Actx) : State × Option Instr :=
  let (lo, hi) := s.codeLimits a
  let pc := a.p.pc.toNat
  if pc < lo || hi ≤ pc || 2 ^ 57 ≤ pc then (s.raiseTrap a.bid a.wi a.slot Code.codeend 0 0#64 false, none)
  else
    match s.fetchWord a with
    | (.error d, s1) => (s1.fetchFault a d, none)
    | (.ok w, s1) =>
      let d := decode w
      if wordAligned a.p && a.p.clause.left == 0 && !clauseFits pc hi d then
        (s1.raiseTrap a.bid a.wi a.slot Code.codeend 0 0#64 false, none)
      else
        match placeDetail a.w a.p d, d with
        | some n, d =>
          let header := match d with | .ok (.clauseStart _) => true | _ => false
          (s1.raiseTrap a.bid a.wi a.slot Code.illegal n 0#64 (!header && a.p.clause.left != 0), none)
        | none, .ok i =>
          if flagsClear a.w i && !s1.pmatHolds a.bid a.wi (a.w.namedRegs i) then
            (s1.updWarp a.bid a.wi fun w => w.setTag (operandFields i), some i)
          else (s1.stall a, none)
        | none, .error _ => (s1, none)

/-- A core issues from a slot of a warp, when it may and has its turn (R61, R94). -/
def State.due (s : State) (b wi slot : Nat) : State × Option Instr :=
  let s0 := { s with actor := .warp b wi slot }
  match s0.actx with
  | none => (s0, none)
  | some a => if s0.mayIssue a && s0.slotTurn a && s0.warpTurn a then s0.dueWord a else (s0, none)

end Sys2Proof.Machine
end

