-- ==== Sys2Proof/Machine/Control.lean ====
section
/-!
DEFINITION. Clauses and control flow (R30 to R32, R61 to R82), with the event SLEEP_WAKE.
-/
namespace Sys2Proof.Machine
open Sys2Proof

/-! ### Moving the paths of a warp -/

/-- A CSRW that a slot issued is on its way to its context (R313). -/
def State.csrwPends (s : State) (b wi slot : Nat) : Bool :=
  s.ops.any fun o => o.block == b && o.warp == wi && (match o.kind with | .csrw sl _ _ => sl == slot | _ => false)

/-- The paths of the warp move: DIVSTK when the stack would need more entries than its capacity, the page fault of a
spill or a fill (R67), or the new paths. `extra` is how many entries the move adds at most. A path that is pushed out of
the other slot has what it waits for withdrawn; while a CSRW of that slot is on its way the move waits. -/
def State.moveWarp (s : State) (a : Actx) (extra : Nat) (f : Warp → Warp) : State :=
  if a.w.stack.length + extra > s.divCapacity a.blk then s.raise a Code.divstk 0
  else if extra ≥ 2 && s.csrwPends a.bid a.wi (1 - a.slot) then s
  else
    match s.spillFault a (f a.w) with
    | (some (va, d, wr), s1) => s1.dataFault a va d wr
    | (none, s1) => (if extra ≥ 2 then s1.withdraw a.bid a.wi (1 - a.slot) false else s1).updWarp a.bid a.wi f

/-- Lanes outside the given ones in the path's mask. -/
def Actx.others (a : Actx) (m : Mask) : Mask := a.p.mask &&& ~~~m

/-- A word address `n` words from another. -/
def wordsFrom (pc : DWord) (n : Int) : DWord := pc + BitVec.ofInt 64 (8 * n)

/-- The word after the path's. -/
def Actx.next (a : Actx) : DWord := a.p.pc + 8#64

/-- Entries that a split into `n` groups adds: the record, the other slot's path, and groups past the second (R63). -/
def Actx.splitEntries (a : Actx) (n : Nat) : Nat :=
  1 + (if (a.w.path (1 - a.slot)).isSome then 1 else 0) + (n - 2)

/-! ### Headers and NOP -/

/-- CLAUSE_START (R30 to R32): the clause begins with its set-flags and LEN words. -/
def execClauseStart (h : Header) (s : State) : Host.Outcome State Fault Refusal :=
  match s.actx with
  | none => .next s
  | some a =>
    let c : Clause := { s1 := if h.s1v then some h.s1.toNat else none, s2 := if h.s2v then some h.s2.toNat else none
                        left := h.len.toNat }
    .next (s.updWarp a.bid a.wi fun w =>
      (w.setPath a.slot (some { a.p with pc := a.next, clause := c, wait := .ready })).settled)

/-- NOP (R72): no effect, and its guard is not read. -/
def execNop (_ : Opnds) (s : State) : Host.Outcome State Fault Refusal :=
  match s.actx with
  | none => .next s
  | some a => .next (s.retire a)

/-! ### Branches -/

/-- The lanes of the slot's mask whose guard is a proxy predicate, with their handles (R74). -/
def Actx.crossLanes (a : Actx) (g : BitVec 3) : List (Nat × Word) :=
  (lanesOf a.p.mask).filterMap fun l => (a.w.pred g.toNat l).px.map fun h => (l, h)

/-- The bits an implicit crossing has received. -/
def Path.crossed (p : Path) : Option (List (Nat × Bool)) := match p.wait with | .crossing got => some got | _ => none

/-- The guard of a branch: plain lanes as usual, and a proxy predicate's lane by the bit from its home (R74). While
bits are missing the slot waits. -/
def State.branchGuard (s : State) (gn : Bool) (g : BitVec 3) (act : Actx → Mask → State) :
    Host.Outcome State Fault Refusal :=
  match s.actx with
  | none => .next s
  | some a =>
    let px := a.crossLanes g
    if px.isEmpty then .next (act a (a.active gn g))
    else
      match a.p.crossed with
      | some got =>
        if px.all fun x => got.any fun y => y.1 == x.1 then
          .next (act a (maskOf ((lanesOf a.p.mask).filter fun l =>
            match got.find? fun y => y.1 == l with
            | some (_, b) => b != gn
            | none => (a.w.pred g.toNat l).val != gn)))
        else .next s
      | none =>
        match px.find? fun x => (s.ctx a.blk.ctx).lost (pxHome x.2) with
        | some (_, h) => .next (s.raise a Code.pxlost (pxHome h))
        | none =>
          .next (px.foldl (fun s x => s.pushReq a.core (pxHome x.2) a.blk.ctx a.bid a.wi a.slot (.cross (pxSlot x.2) x.1))
            (s.updWarp a.bid a.wi fun w => w.setWait a.slot (.crossing [])))

/-- BRA (R73): fall-through lanes keep the slot and taken lanes take the other, or the path moves whole. -/
def execBra (t : BranchOpnds) (s : State) : Host.Outcome State Fault Refusal :=
  s.branchGuard t.gn t.g fun a m =>
    let target := wordsFrom a.p.pc t.tgt.toInt
    if m = 0#32 then s.moveWarp a 0 fun w => (w.jump a.slot a.next).settled
    else if a.others m = 0#32 then s.moveWarp a 0 fun w => (w.jump a.slot target).settled
    else
      s.moveWarp a (a.splitEntries 2) fun w =>
        (w.split a.slot [(a.next, a.others m), (target, m)] (wordsFrom a.next t.rj.toInt)).settled

/-- An entry of a permitted-target table (R69): the rejoin offset, the target offset, and whether its reserved field
is zero. -/
def tableEntry (bs : List Byte) : Int × Int × Bool :=
  let e := leNat bs
  (sextInt (e / 2 ^ 32) 16, sextInt e 32, decide (e / 2 ^ 48 = 0))

/-- The entries of a table at listed indexes, through the constant cache (R69). -/
def State.readEntries (s : State) (a : Actx) (base : Nat) : List Nat → Except (Nat × Nat) (List (Int × Int × Bool)) × State
  | [] => (.ok [], s)
  | i :: is =>
    match s.readConst a.core a.blk.ctx (base + 8 * i) 8 with
    | (.error e, s1) => (.error e, s1)
    | (.ok bs, s1) =>
      match State.readEntries s1 a base is with
      | (.error e, s2) => (.error e, s2)
      | (.ok r, s2) => (.ok (tableEntry bs :: r), s2)

/-- Lanes grouped by their target, each group in the place of its lowest lane (R75). -/
def groupLanes : List (Nat × DWord) → List (DWord × Mask)
  | [] => []
  | (l, pc) :: rest =>
    let gs := groupLanes rest
    let mine := match gs.find? fun g => g.1 == pc with | some g => g.2 | none => 0#32
    (pc, maskOf [l] ||| mine) :: gs.filter fun g => g.1 != pc

/-- The paths of a BRX go to the targets of their entries (R75). -/
def State.brxMove (s : State) (a : Actx) (m : Mask) (ents : List (Int × Int × Bool)) : State :=
  let act := (lanesOf m).zip ents
  let goal (l : Nat) : DWord :=
    match act.find? fun x => x.1 == l with
    | some (_, (_, tg, _)) => wordsFrom a.p.pc tg
    | none => a.next
  let groups := groupLanes ((lanesOf a.p.mask).map fun l => (l, goal l))
  match groups with
  | [(pc, _)] => s.moveWarp a 0 fun w => (w.jump a.slot pc).settled
  | _ =>
    s.moveWarp a (a.splitEntries groups.length) fun w =>
      (w.split a.slot groups (wordsFrom a.next (nth (0, 0, true) ents 0).1)).settled

/-- BRX (R75): PXUSE, then an index outside its table, then entries that are reserved or disagree on the rejoin. -/
def execBrx (o : Opnds) (s : State) : Host.Outcome State Fault Refusal :=
  s.branchGuard o.gn o.g fun a m =>
    if m = 0#32 then s.moveWarp a 0 fun w => (w.jump a.slot a.next).settled
    else if s.anyPx a m [o.srcA] then s.raise a Code.pxuse 0x01
    else
      match s.record? a.blk.record, s.kobj a.blk with
      | some r, some k =>
        if k.ntab ≤ o.imm16.toNat then s.raise a Code.illegal 0x0E
        else
          match s.readConst a.core a.blk.ctx (r.kobj + k.tdir + 8 * o.imm16.toNat) 8 with
          | (.error (va, d), s1) => s1.dataFault a va d false
          | (.ok bs, s1) =>
            let dir := leNat bs
            let idx := (lanesOf m).map fun l => (s.val a o.srcA l).toNat
            if idx.any fun i => decide (dir % 2 ^ 16 ≤ i) then s1.raise a Code.illegal 0x0E
            else
              match s1.readEntries a (r.kobj + dir / 2 ^ 32) idx with
              | (.error (va, d), s2) => s2.dataFault a va d false
              | (.ok ents, s2) =>
                if ents.any (fun e => !e.2.2) || (distinct (ents.map (·.1))).length > 1 then s2.raise a Code.illegal 0x0F
                else s2.brxMove a m ents
      | _, _ => s

/-! ### Calls and returns -/

/-- The record and path of a CALL (R76): guard-0 lanes have arrived at the next word. -/
def Warp.call (w : Warp) (slot : Nat) (p : Path) (target next : DWord) (m : Mask) : Warp :=
  let j : JoinRec := { id := w.nextJoin, seq := w.nextJoin, rejoin := next, mask := p.mask, arrived := p.mask &&& ~~~m
                       parent := p.join, call := true }
  ({ w with stack := .join j :: w.stack, nextJoin := w.nextJoin + 1 }).setPath slot (some (Path.at target m (some j.id)))

/-- CALL (R76). -/
def execCall (t : BranchOpnds) (s : State) : Host.Outcome State Fault Refusal :=
  s.guarded t.gn t.g fun a m =>
    s.moveWarp a 1 fun w => (w.call a.slot a.p (wordsFrom a.p.pc t.tgt.toInt) a.next m).settled

/-- The innermost record with CALL = 1 from a record outward (R77). -/
def Warp.callRec (w : Warp) (j : Option Nat) : Option Nat :=
  (w.chain (w.stack.length + 1) j none).find? fun i => match w.joinRec? i with | some r => r.call | none => false

/-- Lanes return to a call record: they are taken out of the records within it, and then they arrive, until when they stay
in their slot (R65, R77). -/
def Warp.ret (w : Warp) (slot : Nat) (m : Mask) (j : Option Nat) (f : Nat) : Warp :=
  ((w.nextWord slot).leave slot m j (some f)).arriveAt slot f m

/-- RET (R77). -/
def execRet (o : Opnds) (s : State) : Host.Outcome State Fault Refusal :=
  s.run o fun a m =>
    match a.w.callRec a.p.join with
    | none => s.raise a Code.illegal 0x0F
    | some f => s.moveWarp a 0 fun w => (w.ret a.slot m a.p.join f).settled

/-- Lanes leave a warp for good (R78). -/
def Warp.exit (w : Warp) (slot : Nat) (m : Mask) (j : Option Nat) : Warp :=
  let w1 := (w.nextWord slot).removeLanes slot m
  (({ w1 with exited := w1.exited ||| m }).leave slot m j none).settled

/-- A warp all of whose lanes have exited ends, and its block when it was the last (R78, R91). -/
def State.endIfExited (s : State) (b wi : Nat) : State :=
  match s.warp? b wi with
  | some (_, w) => if w.exited = BitVec.allOnes 32 then (s.endWarp b wi).reap b else s
  | none => s

/-- The references that end with handler mode drop (R269). -/
def State.dropHandler (s : State) (a : Actx) : State :=
  s.dropRefs a.core a.blk.ctx a.bid a.wi a.w.handlerHandles

/-- EXIT (R78); in handler mode it ends handler mode first (R307). -/
def execExit (o : Opnds) (s : State) : Host.Outcome State Fault Refusal :=
  s.run o fun a m =>
    let f (w : Warp) : Warp := w.leaveHandler.exit a.slot m a.p.join
    match s.spillFault a (f a.w) with
    | (some (va, d, wr), s1) => s1.dataFault a va d wr
    | (none, s1) => ((s1.dropHandler a).updWarp a.bid a.wi f).endIfExited a.bid a.wi

/-- JOIN (R79). -/
def execJoin (o : Opnds) (s : State) : Host.Outcome State Fault Refusal :=
  s.run o fun a m =>
    match a.p.join with
    | none => s.retire a
    | some j => s.moveWarp a 0 fun w => ((w.nextWord a.slot).arriveAt a.slot j m).settled

/-! ### Yield and sleep -/

/-- The other ready warps of the core become older than one that starts its age again (R80, R94). -/
def State.yieldTo (s : State) (a : Actx) : State :=
  { s with blocks := s.blocks.map fun (b : Block) =>
      if b.loc == .core a.core then
        { b with warps := b.warps.zipIdx.map fun (x : Warp × Nat) =>
            if s.warpReady b.id x.2 && !(b.id == a.bid && x.2 == a.wi) then { x.1 with age := x.1.age + 1 } else x.1 }
      else b }

/-- YIELD (R80): the warp goes behind every ready warp of its core, and its latches expire. Its guard is not read. -/
def execYield (_ : Opnds) (s : State) : Host.Outcome State Fault Refusal :=
  match s.actx with
  | none => .next s
  | some a =>
    .next (((s.yieldTo a).updWarp a.bid a.wi fun w =>
      { w with age := 0, latches := w.latches.map fun (l : Latch) => { l with valid := 0 } }).retire a)

/-- The cycles a deadline lies ahead of the low word of the cluster's counter (R81). -/
def State.ahead (s : State) (a : Actx) (deadline : Word) : Nat :=
  (deadline - BitVec.ofNat 32 (s.cycle (clusterOf a.core))).toInt.toNat

/-- A sleep of `n` cycles: none at all for 0 (R81). -/
def State.sleepFor (s : State) (a : Actx) (n : Nat) : State :=
  if n = 0 then s.retire a
  else s.updWarp a.bid a.wi fun w => w.setWait a.slot (.sleep (s.cycle (clusterOf a.core) + n))

/-- SLEEP (R81). -/
def execSleep (o : Opnds) (s : State) : Host.Outcome State Fault Refusal :=
  s.run o fun a _ => s.sleepFor a (s.ahead a (s.scalar a o.a o.sa))

/-- SLEEP.FOR (R81). -/
def execSleepFor (o : Opnds) (s : State) : Host.Outcome State Fault Refusal :=
  s.run o fun a _ => s.sleepFor a o.imm16.toNat

/-- The promise is looked at at its deadline, and afterwards when it was missed (R81); the end of the sleep observes the
arrivals (R184, R299). -/
def State.promise (s : State) (a : Actx) (until_ obj : Nat) (ph late : Bool) : State :=
  let s1 := s.updWarp a.bid a.wi fun w => w.setWait a.slot .ready
  if (s.arrObj a.bid obj).phase != ph then (s1.observe a.bid a.wi a.core obj).retire a
  else if late then s
  else if (s.ctx a.blk.ctx).schedExp.getLsbD 0 then s1.raise a Code.missprom 0
  else s.updWarp a.bid a.wi fun w => w.setWait a.slot (.sleepProm until_ obj ph true)

/-- SLEEP.PROM (R81); the checks of its arrival object come first (R174). -/
def execSleepProm (o : Opnds) (s : State) : Host.Outcome State Fault Refusal :=
  s.run o fun a _ =>
    let obj := (s.scalar a o.b o.sb).toNat
    match s.checkObj a obj with
    | some s1 => s1
    | none =>
      let now := s.cycle (clusterOf a.core)
      let n := s.ahead a (s.scalar a o.a o.sa)
      if n = 0 then s.promise a now obj (o.m 0) false
      else s.updWarp a.bid a.wi fun w => w.setWait a.slot (.sleepProm (now + n) obj (o.m 0) false)

/-- SLEEP_WAKE (block, warp, slot): the sleep of a slot ends, when it is due (R81). A slot that a handler stops sleeps
on (R68). -/
def execSleepWake (s : State) : Host.Outcome State Fault Refusal :=
  match s.actxAt (s.arg 0) (s.arg 1) (s.arg 2) with
  | none => .next s
  | some a =>
    if a.p.held then .next s
    else
      match a.p.wait with
      | .sleep u => .next (if u ≤ s.cycle (clusterOf a.core) then s.retire a else s)
      | .sleepProm u obj ph late => .next (if u ≤ s.cycle (clusterOf a.core) then s.promise a u obj ph late else s)
      | _ => .next s

/-! ### Traps by design (R82) -/

/-- TRAP n. -/
def execTrap (o : Opnds) (s : State) : Host.Outcome State Fault Refusal :=
  s.run o fun a _ => s.raise a Code.trap (bits o.imm16 7 0)

/-- BKPT n. -/
def execBkpt (o : Opnds) (s : State) : Host.Outcome State Fault Refusal :=
  s.run o fun a _ => s.raise a Code.bkpt (bits o.imm16 7 0)

end Sys2Proof.Machine
end

