-- ==== Sys2Proof/Machine/Memory.lean ====
section
/-!
DEFINITION. Loads, stores and prefetch (R158 to R172), with the events LOAD_COMPLETE and STORE_ACCEPT.
-/
namespace Sys2Proof.Machine
open Sys2Proof

/-! ### The common course of an access (R168, R169) -/

/-- The registers of a 64-bit operand: A and A + 1, or ZERO (R169). -/
def pairSrcs (v : BitVec 8) (sf : Bool) : List Src :=
  if v = 0xF3#8 && !sf then [.reg v sf] else [.reg v sf, .reg (v + 1#8) sf]

/-- The sources of an address (R169). -/
def addrSrcs (o : Opnds) (imm a64 : Bool) : List Src :=
  (if a64 then pairSrcs o.a o.sa else [o.srcA]) ++ (if imm then [] else [o.srcB])

/-- The address of each lane (R169). -/
def State.accessAddr (s : State) (a : Actx) (o : Opnds) (imm a64 : Bool) : Nat → Int :=
  s.laneAddr a o.a o.sa a64 (if imm then offImm o else s.offReg a o)

/-- The data registers of a store hold a proxy in a lane (R168). -/
def State.dataPx (s : State) (a : Actx) (o : Opnds) (l : Nat) : Bool :=
  (List.range (szRegs (bits o.mod 2 0))).any fun i => (s.rd a (o.d + BitVec.ofNat 8 i) o.sd l).px

/-- The lanes a load with SD = 1 stands for: all agree on the address, but for a private form (log entry 12). -/
def State.loadLanes (s : State) (o : Opnds) (priv : Bool) (m : Mask) : List Nat :=
  if o.sd then (if priv then [s.soleLane m] else (lanesOf m).take 1) else lanesOf m

/-- The free choice of a lane is used up. -/
def State.useLane (s : State) (o : Opnds) (priv : Bool) : State :=
  if o.sd && priv then { s with drawn := s.drawn + 1 } else s

/-! ### Global and private accesses -/

/-- A lane's load as accesses: a 16-byte one is two of 8 bytes (R191). -/
def laneLoads (o : Opnds) (y : Nat × List Nat) : List LaneLoad :=
  let sz := bits o.mod 2 0
  if sz = 2 then
    [{ lane := y.1, bytes := y.2.take 8, dst := o.d.toNat, scalar := o.sd, sz := 1 },
     { lane := y.1 + 32, bytes := y.2.drop 8, dst := if o.d = 0xF3#8 && !o.sd then 0xF3 else o.d.toNat + 2, scalar := o.sd
       sz := 1 }]
  else [{ lane := y.1, bytes := y.2, dst := o.d.toNat, scalar := o.sd, sz := sz }]

/-- The pieces of each lane's access at global addresses (R159, R164). -/
def Actx.lanePieces (a : Actx) (sp : Space) (ls : List Nat) (x : Nat → Int) (size : Nat) :
    List (Nat × List (Nat × Nat)) :=
  ls.map fun l => (l, a.w.pieces sp l (x l).toNat size)

/-- LD (R169): the checks, the translation of every page, and the load is in flight. -/
def State.load (s : State) (o : Opnds) (imm priv : Bool) : Host.Outcome State Fault Refusal :=
  s.counted o fun a m =>
    let a64 := o.m 3 && !priv
    if s.anyPx a m (addrSrcs o imm a64) then s.raise a Code.pxuse 0x01
    else
      let sz := bits o.mod 2 0
      let sp : Space := if priv then .priv else .global
      let x := s.accessAddr a o imm a64
      let ls := s.loadLanes o priv m
      match s.checkAddr a sp ls x (szBytes sz) with
      | some s1 => s1
      | none =>
        match s.translateLanes a .read (a.lanePieces sp ls x (szBytes sz)) with
        | (.error (va, d), s1) => s1.dataFault a va d false
        | (.ok lanes, s1) =>
          ((s1.useLane o priv).startOp a o (.load (lanes.flatMap (laneLoads o)))).retire a

/-- The accesses of a lane's store: its bytes with their places (R169, R191). -/
def State.laneStore (s : State) (a : Actx) (o : Opnds) (y : Nat × List Nat) : List (Nat × List (Nat × Byte)) :=
  let sz := bits o.mod 2 0
  let bytes := y.2.zip (((s.dataWords a o.d o.sd (szRegs sz) y.1).flatMap fun w => leBytes 4 w.toNat).take (szBytes sz))
  if sz = 2 then [(y.1, bytes.take 8), (y.1, bytes.drop 8)] else [(y.1, bytes)]

/-- A global store joins its die's release epoch (R191). -/
def State.startStore (s : State) (a : Actx) (o : Opnds) (parts : List (Nat × List (Nat × Byte))) : State :=
  let e := s.writeEpochOf a.core
  (s.pushOp a (a.flagOf o.fs) (some e) (.store parts)).updWarp a.bid a.wi fun w =>
    { w.countUp (a.flagOf o.fs) with writeEpoch := some e }

/-- ST (R169): the checks, the translation of every page, and the store is in flight, its bytes in lane order. -/
def State.store (s : State) (o : Opnds) (imm priv : Bool) : Host.Outcome State Fault Refusal :=
  s.counted o fun a m =>
    let a64 := o.m 3 && !priv
    if s.anyPx a m (addrSrcs o imm a64) || (lanesOf m).any (s.dataPx a o) then s.raise a Code.pxuse 0x01
    else
      let sz := bits o.mod 2 0
      let sp : Space := if priv then .priv else .global
      let x := s.accessAddr a o imm a64
      match s.checkAddr a sp (lanesOf m) x (szBytes sz) with
      | some s1 => s1
      | none =>
        match s.translateLanes a .write (a.lanePieces sp (lanesOf m) x (szBytes sz)) with
        | (.error (va, d), s1) => s1.dataFault a va d true
        | (.ok lanes, s1) => (s1.startStore a o (lanes.flatMap (s.laneStore a o))).retire a

/-- LD, register form. -/
def execLdReg (o : Opnds) (s : State) : Host.Outcome State Fault Refusal := s.load o false false
/-- LD, immediate form. -/
def execLdImm (o : Opnds) (s : State) : Host.Outcome State Fault Refusal := s.load o true false
/-- LD, private register form. -/
def execLdPrivReg (o : Opnds) (s : State) : Host.Outcome State Fault Refusal := s.load o false true
/-- LD, private immediate form. -/
def execLdPrivImm (o : Opnds) (s : State) : Host.Outcome State Fault Refusal := s.load o true true
/-- ST, register form. -/
def execStReg (o : Opnds) (s : State) : Host.Outcome State Fault Refusal := s.store o false false
/-- ST, immediate form. -/
def execStImm (o : Opnds) (s : State) : Host.Outcome State Fault Refusal := s.store o true false
/-- ST, private register form. -/
def execStPrivReg (o : Opnds) (s : State) : Host.Outcome State Fault Refusal := s.store o false true
/-- ST, private immediate form. -/
def execStPrivImm (o : Opnds) (s : State) : Host.Outcome State Fault Refusal := s.store o true true

/-! ### Scratchpad and constant accesses -/

/-- The register writes of a lane's load from bytes at hand. -/
def loadedRegs (o : Opnds) (l : Nat) (bs : List Byte) : List RegWrite :=
  regWrites o.d.toNat o.sd l (loadWords (bits o.mod 2 0) bs)

/-- A lane's load from scratchpad. -/
def spadLoad (o : Opnds) (x size l : Nat) : LaneLoad :=
  { lane := l, bytes := (List.range size).map (x + ·), dst := o.d.toNat, scalar := o.sd, sz := bits o.mod 2 0 }

/-- LDS (R169): the checks, and the load is in flight until the scratchpad applies it (R199). -/
def State.loadSpad (s : State) (o : Opnds) (imm : Bool) : Host.Outcome State Fault Refusal :=
  s.counted o fun a m =>
    if s.anyPx a m (addrSrcs o imm false) then s.raise a Code.pxuse 0x01
    else
      let size := szBytes (bits o.mod 2 0)
      let x := s.accessAddr a o imm false
      match s.checkAddr a .spad (lanesOf m) x size with
      | some s1 => s1
      | none =>
        (s.startOp a o (.lds ((s.loadLanes o false m).map fun l => spadLoad o (x l).toNat size l))).retire a

/-- STS (R169): the checks, and the store is in flight with its bytes in lane order until the scratchpad applies it
(R199). -/
def State.storeSpad (s : State) (o : Opnds) (imm : Bool) : Host.Outcome State Fault Refusal :=
  s.counted o fun a m =>
    if s.anyPx a m (addrSrcs o imm false) || (lanesOf m).any (s.dataPx a o) then s.raise a Code.pxuse 0x01
    else
      let sz := bits o.mod 2 0
      let x := s.accessAddr a o imm false
      match s.checkAddr a .spad (lanesOf m) x (szBytes sz) with
      | some s1 => s1
      | none =>
        let data (l : Nat) : List Byte :=
          ((s.dataWords a o.d o.sd (szRegs sz) l).flatMap fun w => leBytes 4 w.toNat).take (szBytes sz)
        (s.startOp a o (.sts ((lanesOf m).map fun l => ((x l).toNat, data l)))).retire a

/-- The constant bytes of each lane, lane by lane through the constant cache (R170). -/
def State.constLanes (s : State) (a : Actx) (base : Nat) (x : Nat → Int) (size : Nat) : List Nat →
    Except (Nat × Nat) (List (Nat × List Byte)) × State
  | [] => (.ok [], s)
  | l :: ls =>
    match s.readConst a.core a.blk.ctx (base + (x l).toNat) size with
    | (.error e, s1) => (.error e, s1)
    | (.ok bs, s1) =>
      match State.constLanes s1 a base x size ls with
      | (.error e, s2) => (.error e, s2)
      | (.ok r, s2) => (.ok ((l, bs) :: r), s2)

/-- LDC (R169, R170). -/
def State.loadConst (s : State) (o : Opnds) (imm : Bool) : Host.Outcome State Fault Refusal :=
  s.counted o fun a m =>
    if s.anyPx a m (addrSrcs o imm false) then s.raise a Code.pxuse 0x01
    else
      let size := szBytes (bits o.mod 2 0)
      let x := s.accessAddr a o imm false
      match s.checkAddr a .const (lanesOf m) x size with
      | some s1 => s1
      | none =>
        let base := ((s.record? a.blk.record).map (·.kobj)).getD 0 + ((s.kobj a.blk).map (·.constoff)).getD 0
        match s.constLanes a base x size (s.loadLanes o false m) with
        | (.error (va, d), s1) => s1.dataFault a va d false
        | (.ok lanes, s1) => (s1.startOp a o (.fill (lanes.flatMap fun y => loadedRegs o y.1 y.2))).retire a

/-- LDS, register form. -/
def execLdsReg (o : Opnds) (s : State) : Host.Outcome State Fault Refusal := s.loadSpad o false
/-- LDS, immediate form. -/
def execLdsImm (o : Opnds) (s : State) : Host.Outcome State Fault Refusal := s.loadSpad o true
/-- STS, register form. -/
def execStsReg (o : Opnds) (s : State) : Host.Outcome State Fault Refusal := s.storeSpad o false
/-- STS, immediate form. -/
def execStsImm (o : Opnds) (s : State) : Host.Outcome State Fault Refusal := s.storeSpad o true
/-- LDC, register form. -/
def execLdcReg (o : Opnds) (s : State) : Host.Outcome State Fault Refusal := s.loadConst o false
/-- LDC, immediate form. -/
def execLdcImm (o : Opnds) (s : State) : Host.Outcome State Fault Refusal := s.loadConst o true

/-! ### Prefetch (R172) -/

/-- The pages of a prefetch that translate are cached, each looked up in its turn; no failure has an effect. -/
def State.touchPages (s : State) (core ctx : Nat) : List Int → State
  | [] => s
  | x :: xs =>
    State.touchPages (if x < 0 ∨ 2 ^ 57 ≤ x then s else
      match s.translate core ctx x.toNat .read with
      | (.ok _, s1) => s1
      | (.error _, _) => s) core ctx xs

/-- PREF (R172). -/
def State.prefetch (s : State) (o : Opnds) (imm : Bool) : Host.Outcome State Fault Refusal :=
  s.run o fun a m =>
    if s.anyPx a m (addrSrcs o imm (o.m 3)) then s.raise a Code.pxuse 0x01
    else (s.touchPages a.core a.blk.ctx ((lanesOf m).map (s.accessAddr a o imm (o.m 3)))).retire a

/-- PREF, register form. -/
def execPrefReg (o : Opnds) (s : State) : Host.Outcome State Fault Refusal := s.prefetch o false
/-- PREF, immediate form. -/
def execPrefImm (o : Opnds) (s : State) : Host.Outcome State Fault Refusal := s.prefetch o true

/-! ### Completion (R170) -/

/-- One lane of a load is performed: its bytes are read at one point of their coherence orders, the clocks of their sectors
join those the warp's loads have returned, and it gives the writes of its registers (R170, R191, R208). -/
def State.performLane (s : State) (op : Op) (t : Nat) (x : LaneLoad) : State × List RegWrite :=
  let (bs, s1) := s.readAt op.tag x.bytes t
  let clock := x.bytes.foldl (fun c pa => mergeClock c (s.clockOf pa)) (List.replicate 12 0)
  (s1.updWarp op.block op.warp fun w => { w with retClock := mergeClock w.retClock clock },
    regWrites x.dst x.scalar (x.lane % 32) (loadWords x.sz bs))

/-- Lanes of a load performed one after another, with the register writes they give. -/
def State.performLanes (s : State) (op : Op) (t : Nat) : List LaneLoad → State × List RegWrite
  | [] => (s, [])
  | x :: xs =>
    let (s1, w1) := s.performLane op t x
    let (s2, w2) := State.performLanes s1 op t xs
    (s2, w1 ++ w2)

/-- The accesses of a load that a mask selects (bit l, and bit 32 + l for a high half), that no earlier access of the
warp holds back, and that may return their bytes as they stood at a time (R192, R198). -/
def State.readyLanes (s : State) (op : Op) (t m : Nat) (lanes : List LaneLoad) : List LaneLoad :=
  lanes.filter fun x => m.testBit x.lane && !s.earlierTouch op.id op.block op.warp x.bytes true
    && s.readTime op.tag none x.bytes t == some (min t s.memTime)

/-- An access to scratchpad is made, with those of its warp that come before it, and the operation as it then stands. -/
def State.spadTurn (s : State) (op : Op) : State × Option Op :=
  let s1 := s.drainSpad op.block op.warp op.id s.ops.length
  (s1, s1.op? op.id)

/-- LOAD_COMPLETE (operation, lanes, age): the lanes that may be performed are, each with its bytes as they stood `age`
events of the memory log ago; with none left the load completes and its flag counts down (R33, R170, R198). Each landing
writes its registers as a write of its own under R111 (log entry 88). -/
def execLoadComplete (s : State) : Host.Outcome State Fault Refusal :=
  match s.op? (s.arg 0) with
  | none => .next s
  | some op =>
    match op.kind with
    | .load lanes =>
      let t := s.memTime - s.arg 2
      let now := s.readyLanes op t (s.arg 1) lanes
      let rest := lanes.filter fun x => !now.contains x
      let (s0, ws) := s.performLanes op t now
      let s1 := (s0.applyWrites op.core op.block op.warp ws).setOp op.id (.load rest)
      .next (if rest.isEmpty then s1.finishOp op else s1)
    | .fill ws => .next ((s.applyWrites op.core op.block op.warp ws).finishOp op)
    | .lds _ =>
      match s.spadTurn op with
      | (s1, some y) =>
        (match y.kind with
         | .fill ws => .next ((s1.applyWrites op.core op.block op.warp ws).finishOp op)
         | _ => .next s1)
      | (s1, none) => .next s1
    | _ => .next s

/-- Registers that an operation has the values of receive them in some lanes before it completes: bit l of the mask selects lane
l, and bit 32 a scalar (R35). -/
def State.landPart (s : State) (id m : Nat) : State :=
  let land (s : State) (op : Op) (ws : List RegWrite) (k : List RegWrite → OpKind) : State :=
    let pick (w : RegWrite) : Bool := match w with | .lane _ l _ => m.testBit l | .scalar _ _ => m.testBit 32
    (s.applyWrites op.core op.block op.warp (ws.filter pick)).setOp op.id (k (ws.filter fun w => !pick w))
  match s.op? id with
  | none => s
  | some op =>
    match op.kind with
    | .fill ws => land s op ws .fill
    | .done ws => if op.flag.isSome then land s op ws .done else s
    | .lds _ | .atoms _ _ _ _ _ =>
      match s.spadTurn op with
      | (s1, some y) => (match y.kind with | .fill ws => land s1 y ws .fill | .done ws => land s1 y ws .done | _ => s)
      | (_, none) => s
    | _ => s

/-- The oldest store of a warp that has not been accepted: global stores of one warp drain in program order (R170,
R193). -/
def State.oldestStore (s : State) (b wi : Nat) : Option Op :=
  s.ops.find? fun o => o.block == b && o.warp == wi && o.kind.isStore

/-- A store may be applied now: it is its warp's oldest, and no earlier access of the warp to its bytes is left (R192). -/
def State.storeDue (s : State) (op : Op) (bytes : List Nat) : Bool :=
  s.oldestStore op.block op.warp == some op && !s.earlierTouch op.id op.block op.warp bytes

/-- One access of a store is applied at its home slice, carrying its die's clock (R191, R193). -/
def State.applyPart (s : State) (op : Op) (p : Nat × List (Nat × Byte)) : State :=
  (s.storeBytes p.2 { op.tag with store := true } op.routes).stampAll op.core (p.2.map (·.1))

/-- STORE_ACCEPT (operation): the home slices accept every byte of the store that is left, in its place in its warp's
order, and its flag counts down (R170, R191, R192). -/
def execStoreAccept (s : State) : Host.Outcome State Fault Refusal :=
  match s.op? (s.arg 0) with
  | none => .next s
  | some op =>
    match op.kind with
    | .store parts =>
      if s.storeDue op op.kind.bytes then
        .next ((parts.foldl (fun s p => s.applyPart op p) s).finishOp op)
      else .next s
    | _ => .next s

/-- One access of a store is applied before the others: the accesses of one instruction have no order among themselves
(R190), but a byte that two lanes write keeps the higher lane's (R164), and a low half comes first (R191). -/
def State.drainPart (s : State) (id i : Nat) : State :=
  match s.op? id with
  | none => s
  | some op =>
    match op.kind with
    | .store parts =>
      match parts[i]? with
      | none => s
      | some p =>
        let before := parts.take i
        let clash := before.any fun q => q.1 == p.1 || q.2.any fun x => p.2.any fun y => x.1 == y.1
        if parts.length > 1 && !clash && s.storeDue op (p.2.map (·.1)) then
          (s.applyPart op p).setOp id (.store (before ++ parts.drop (i + 1)))
        else s
    | _ => s

end Sys2Proof.Machine
end

