-- ==== Sys2Proof/Machine/Engines.lean ====
section
/-!
DEFINITION. The engines and their arrival objects, publish windows, cache control and translation harvest (R174 to
R186), with the events ENGINE_ARRIVAL, TLB_HARVEST_PERIODIC and OPERATION_COMPLETE.
-/
namespace Sys2Proof.Machine
open Sys2Proof

/-! ### Arrival objects (R174 to R176) -/

/-- An instruction over an arrival object named by its scalar A, with the checks of R174. -/
def State.withObj (s : State) (o : Opnds) (act : Actx → Mask → Nat → State) : Host.Outcome State Fault Refusal :=
  s.run o fun a m =>
    let obj := (s.scalar a o.a o.sa).toNat
    match s.checkObj a obj with
    | some s1 => s1
    | none => act a m obj

/-- Free bytes, as many as listed (R6). -/
def State.freeBytes (s : State) (n : Nat) : List Byte × State :=
  ((List.range n).map fun i => Config.freeByte (s.drawn + i), { s with drawn := s.drawn + n })

/-- A transfer or a launch of the block has yet to arrive at an object. -/
def State.arrivalDue (s : State) (bid obj : Nat) : Bool :=
  s.xfers.any (fun x => x.block == bid && x.arr == obj)
    || s.chans.any fun c =>
      c.queue.any (fun l => l.notify && l.block == bid && l.arr == obj)
        || c.cx.any fun k => k.any fun k => k.launch.notify && k.launch.block == bid && k.launch.arr == obj

/-- An engine or a bank context arrives at an object of a block, with a read-modify-write of it (R174, R196). -/
def State.noteArrival (s : State) (t : MemTag) (b obj : Nat) : State :=
  s.note { MemEvent.of { t with rmw := true } with
    arrived := some (b, obj)
    reads := (objPlaces b obj).map fun x => (x, lastWrite s.log s.memTime x)
    writes := (objPlaces b obj).zip (s.spadRead b obj 8) }

/-- A transfer of no bytes arrives at its object at once (R179, R180). -/
def State.arriveEmpty (s : State) (a : Actx) (agent : Nat → Agent) (obj : Nat) : State :=
  let (id, s1) := s.fresh
  (s1.noteArrival { MemTag.device with agent := agent id, core := a.core, po := id } a.bid obj).arriveObj a.bid obj 1 false

/-- ARRINIT (R175). An object to which a transfer has yet to arrive is unpredictable afterwards (R6). -/
def execArrinit (o : Opnds) (s0 : State) : Host.Outcome State Fault Refusal :=
  s0.afterSpad o.gn o.g fun s => s.withObj o fun a _ obj =>
    let old := leNat (s.spadRead a.bid obj 8)
    let x : ArrObj := { phase := false, err := false, expected := o.imm16.toNat, arrived := 0 }
    if s.arrivalDue a.bid obj then
      let (bs, s1) := s.freeBytes 8
      ((s1.noteObj a obj false true).spadWrite a.bid obj bs).retire a
    else ((s.noteObj a obj false true).spadWrite a.bid obj (x.bytes old)).retire a

/-- ARRIVE (R175). -/
def execArrive (o : Opnds) (s0 : State) : Host.Outcome State Fault Refusal :=
  s0.afterSpad o.gn o.g fun s => s.withObj o fun a _ obj =>
    ((s.noteObj a obj true true).arriveObj a.bid obj o.imm16.toNat false).retire a

/-- ARRWAIT (R176): its slot does not get past it until PHASE differs from ph; then ERR raises DFAULT 0x05. -/
def execArrwait (o : Opnds) (s0 : State) : Host.Outcome State Fault Refusal :=
  s0.afterSpad o.gn o.g fun s => s.withObj o fun a _ obj =>
    let x := s.arrObj a.bid obj
    if x.phase = o.imm16.getLsbD 0 then s
    else if x.err then (s.observe a.bid a.wi a.core obj).raise a Code.dfault 0x05
    else (s.observe a.bid a.wi a.core obj).retire a

/-- ARRWAIT.TEST (R176). -/
def execArrwaitTest (o : Opnds) (s0 : State) : Host.Outcome State Fault Refusal :=
  s0.afterSpad o.gn o.g fun s => s.withObj o fun a m obj =>
    let done := (s.arrObj a.bid obj).phase != o.imm16.getLsbD 0
    ((if done then s.observe a.bid a.wi a.core obj else s.noteObj a obj true false).wrP a o.d.toNat m fun _ => done).retire a

/-! ### Transfers (R173, R177, R180, R182) -/

/-- The transfer of an identity. -/
def State.xfer? (s : State) (id : Nat) : Option Xfer := s.xfers.find? fun x => x.id == id

/-- The state with a transfer replaced. -/
def State.setXfer (s : State) (x : Xfer) : State :=
  { s with xfers := s.xfers.map fun (y : Xfer) => if y.id = x.id then x else y }

/-- A transfer joins those in flight. -/
def State.startXfer (s : State) (a : Actx) (e : Engine) (window : Option Nat) (base stride list : Nat)
    (units : List XUnit) (arr : Nat) (clash : Bool := false) : State :=
  let (id, s1) := s.fresh
  { s1 with xfers := s1.xfers ++ [({ id := id, engine := e, ctx := a.blk.ctx, block := a.bid, warp := a.wi
                                     core := a.core, window := window, base := base, stride := stride, list := list
                                     units := units, arr := arr, err := false, held := none
                                     start := s.memTime, clash := clash
                                     into := units.filterMap fun (u : XUnit) => if u.dstSpad then some (u.dst, u.len) else none
                                     rows := (units.filter fun (u : XUnit) => u.idx.isSome).length, touched := [] } : Xfer)] }

/-- What an engine's access of an address translates to: as the address before it in the same 64 KiB did, since an access
looks a page up once (R163, R187), or by a look-up of its own. -/
def State.engineAddr (s : State) (x : Xfer) (acc : Access) (shadow : Bool) (last : Option (Nat × Except Nat Nat)) (va : Nat) :
    Except Nat Nat × State :=
  match last with
  | some (v, r) =>
    if v / 65536 = va / 65536 then (match r with | .ok pa => .ok (pa + va - v) | .error d => .error d, s)
    else s.translate x.core x.ctx va acc shadow
  | none => s.translate x.core x.ctx va acc shadow

/-- The physical addresses of an engine's bytes, from what the last one translated to. -/
def State.engineRun (s : State) (x : Xfer) (acc : Access) (shadow : Bool) :
    Option (Nat × Except Nat Nat) → List Nat → Except Nat (List (Option Nat)) × State
  | _, [] => (.ok [], s)
  | last, va :: vas =>
    match s.engineAddr x acc shadow last va with
    | (.error d, s1) =>
      if d = 0x01 && (s.ctx x.ctx).ringLog.isSome then (.error va, s1)
      else
        match State.engineRun s1 x acc shadow (some (va, .error d)) vas with
        | (.error e, s2) => (.error e, s2)
        | (.ok r, s2) => (.ok (none :: r), s2)
    | (.ok pa, s1) =>
      match State.engineRun s1 x acc shadow (some (va, .ok pa)) vas with
      | (.error e, s2) => (.error e, s2)
      | (.ok r, s2) => (.ok (some pa :: r), s2)

/-- The physical addresses of an engine's bytes: none for a byte whose translation fails, or the first address of a page
with P = 0 when the context has a fault ring (R173, R177). -/
def State.engineAddrs (s : State) (x : Xfer) (acc : Access) (shadow : Bool) (vas : List Nat) :
    Except Nat (List (Option Nat)) × State :=
  s.engineRun x acc shadow none vas

/-- Bytes at the places where an engine could read, and zero where it could not (R177). -/
def fillGaps : List (Option Nat) → List Byte → List Byte
  | [], _ => []
  | none :: rest, bs => 0#8 :: fillGaps rest bs
  | some _ :: rest, bs => nth 0#8 bs 0 :: fillGaps rest (bs.drop 1)

/-- Bytes read by an engine at a point of their coherence orders, as a load of the issuing warp (R177, R200). -/
def State.engineRead (s : State) (x : Xfer) (t : Nat) (ras : List (Option Nat)) : List Byte × State :=
  let (bs, s1) := s.readSpan x.readTag (some x.start) (ras.filterMap fun y => y) t
  (fillGaps ras bs, s1)

/-- The transfer is held until a page is resident, for which a fault record is posted (R173). The manual names no word
address for an engine's record: its PC is a free value. -/
def State.holdXfer (s : State) (x : Xfer) (va : Nat) (write : Bool) : State :=
  let (lo, s1) := s.draw
  let (hi, s2) := s1.draw
  let (id, s3) := s2.pageWait x.ctx va write false (.xfer x.id) x.core Code.dfault (hi ++ lo)
  s3.setXfer { x with held := some id }

/-- ENG_ERR keeps the first failing address since it was last read (R177). -/
def State.noteEngErr (s : State) (core : Nat) (va : Option Nat) : State :=
  match va with
  | none => s
  | some va =>
    let c := s.core core
    if c.engErr.isSome then s else s.setCore core { c with engErr := some (BitVec.ofNat 57 va) }

/-- The first address of a unit whose byte failed. -/
def firstFail (va : Nat) (as : List (Option Nat)) : Option Nat := (as.findIdx? (·.isNone)).map (va + ·)

/-- Where a unit reads: a gathered row's index is read as the row is (R179). -/
def State.unitSrc (s : State) (x : Xfer) (u : XUnit) : Nat :=
  match u.idx with
  | none => u.src
  | some i => x.base + leNat (s.spadRead x.block (x.list + 4 * i) 4) * x.stride

/-- An earlier unit of the transfer, not yet moved, writes one of this unit's bytes: the higher lane's byte stands
(R178). -/
def Xfer.behind (x : Xfer) (i : Nat) (u : XUnit) : Bool :=
  (x.units.take i).any fun v => v.dstSpad == u.dstSpad && decide (v.dst < u.dst + u.len) && decide (u.dst < v.dst + v.len)

/-- The bytes that a unit moves: those at its source, or, when the sides of its transfer overlap, free bytes (R6, R180). -/
def State.unitBytes (s : State) (x : Xfer) (t : Nat) (u : XUnit) (src : Nat) (ras : List (Option Nat)) : List Byte × State :=
  if x.clash then s.freeBytes u.len
  else if u.srcSpad then (s.spadRead x.block src u.len, s)
  else s.engineRead x t ras

/-- The bytes a unit writes to scratchpad: free ones where software has touched its destination before the arrival (R6,
R178). -/
def Xfer.spadData (x : Xfer) (k : Nat) (u : XUnit) (bs : List Byte) : List Byte :=
  bs.zipIdx.map fun y => if x.touched.contains (u.dst + y.2) then Config.freeByte (k + y.2) else y.1

/-- The bytes of a unit move from where they were read to where they go (R177, R182). -/
def State.landUnit (s : State) (x : Xfer) (i t : Nat) (u : XUnit) (src : Nat) (ras was : List (Option Nat)) : State :=
  let ends (spad : Bool) (va : Nat) : List Nat := if spad then [] else [va, va + u.len - 1]
  let hits (s : State) (va : Nat) (pas : List (Option Nat)) : State :=
    s.noteHits x.core x.ctx (pas.zipIdx.filterMap fun y => y.1.map fun pa => (va + y.2, pa))
  let s0 := (((hits (hits s src ras) u.dst was).misuse x.ctx (ends u.srcSpad src ++ ends u.dstSpad u.dst)).changeObject x.ctx
    (ends u.dstSpad u.dst))
  let (bs, s1) := s0.unitBytes x t u src ras
  let place := (was.zip bs).filterMap fun y => y.1.map fun pa => (pa, y.2)
  let s2 := if u.dstSpad then
      ({ s1 with drawn := s1.drawn + u.len }.noteSpad x.writeTag x.block [] ((List.range u.len).map (u.dst + ·))).spadWrite x.block
        u.dst (x.spadData s1.drawn u bs)
    else (s1.storeBytes place x.writeTag).stampAll x.core (place.map (·.1))
  let bad := match firstFail src ras with | some va => some va | none => firstFail u.dst was
  (s2.noteEngErr x.core bad).setXfer { x with units := x.units.eraseIdx i, err := x.err || bad.isSome }

/-- One unit of a transfer moves, each page translated as it is reached, its source read as it stood `age` events of the
memory log ago or at the newest time before that which the order of the issuing warp leaves open. It stays where the transfer
is held, where an earlier unit or an earlier access of the issuing warp comes first (R192, R200), with no trace of the attempt,
and where a page is not present. -/
def State.moveUnit (s : State) (id i : Nat) (age : Nat := 0) : State :=
  match s.xfer? id with
  | none => s
  | some x =>
    match x.units[i]? with
    | none => s
    | some u =>
      if x.held.isSome || x.behind i u then s
      else
        let src := s.unitSrc x u
        match (if u.srcSpad then (.ok [], s) else s.engineAddrs x .read false ((List.range u.len).map (src + ·)) :
            Except Nat (List (Option Nat)) × State) with
        | (.error va, s1) => s1.holdXfer x va false
        | (.ok ras, s1) =>
          match (if u.dstSpad then (.ok [], s1) else s1.engineAddrs x .write true ((List.range u.len).map (u.dst + ·)) :
              Except Nat (List (Option Nat)) × State) with
          | (.error va, s2) => s2.holdXfer x va true
          | (.ok was, s2) =>
            if s2.earlierTouch x.id x.block x.warp ((ras ++ was).filterMap fun y => y)
                || s2.earlierTouch x.id x.block x.warp (ras.filterMap fun y => y) true then s
            else s2.landUnit x i (s2.memTime - age) u src ras was

/-- The units left move one after another, as far as they can. -/
def State.moveUnits (s : State) (id : Nat) : Nat → State
  | 0 => s
  | n + 1 => State.moveUnits (s.moveUnit id 0) id n


/-- ENGINE_ARRIVAL (transfer): the bytes left are moved, and with every byte written the transfer arrives once at its
object (R174, R178 to R180). -/
def execEngineArrival (s : State) : Host.Outcome State Fault Refusal :=
  match s.xfer? (s.arg 0) with
  | none => .next s
  | some x =>
    let s1 := s.moveUnits x.id x.units.length
    match s1.xfer? x.id with
    | none => .next s1
    | some y =>
      if y.units.isEmpty && y.held.isNone then
        .next ((({ s1 with xfers := s1.xfers.filter fun z => z.id != y.id }.noteArrival y.writeTag y.block y.arr).arriveObj
          y.block y.arr 1 y.err).reap y.block)
      else .next s1

/-! ### LDA (R178) -/

/-- The first failing check of scratchpad offsets (R177), made also where no byte moves (log entry 87). R177 names no address for
TRAP_ADDR: the model's choice is the first offset (log entry 104). -/
def State.checkSpad (s : State) (a : Actx) (at_ n : Nat) : Option State :=
  if at_ + n > s.spadSize a.blk then some (s.raiseAt a Code.dfault 0x07 (BitVec.ofNat 64 at_)) else none

/-- LDA (R178): PXUSE, MISALIGN of A, B and C, and the scratchpad extent, in that order. R178 names no address for TRAP_ADDR: the
model's choice is the address or offset that fails (log entry 104). -/
def execLda (o : Opnds) (s : State) : Host.Outcome State Fault Refusal :=
  s.run o fun a m =>
    let srcs := [o.srcA] ++ (if o.m 3 then pairSrcs o.b o.sb else [o.srcB])
    if s.anyPx a m srcs then s.raise a Code.pxuse 0x01
    else
      let size := szBytes (bits o.mod 2 0)
      let ls := lanesOf m
      let off (l : Nat) : Int := (s.val a o.srcA l).toNat
      let src := s.laneAddr a o.b o.sb (o.m 3) fun _ => 0
      let obj := (s.scalar a o.c o.sc).toNat
      let odd (x : Int) : Bool := x % (size : Int) != 0
      match firstBad ls off odd, firstBad ls src odd with
      | some x, _ => s.raiseAt a Code.misalign 0 (BitVec.ofInt 64 x)
      | none, some x => s.raiseAt a Code.misalign 0 (BitVec.ofInt 64 x)
      | none, none =>
        if obj % 8 ≠ 0 then s.raiseAt a Code.misalign 0 (BitVec.ofNat 64 obj)
        else
          match firstBad ls off fun x => decide ((s.spadSize a.blk : Int) < x + size) with
          | some x => s.raiseAt a Code.dfault 0x07 (BitVec.ofInt 64 x)
          | none =>
            match s.checkObj a obj with
            | some s1 => s1
            | none =>
              let units := ls.map fun l =>
                ({ srcSpad := false, src := (src l).toNat, idx := none, dstSpad := true, dst := (off l).toNat, len := size } : XUnit)
              (s.startXfer a .lda none 0 0 0 units obj).retire a

/-! ### GATH (R179) -/

/-- The descriptor of a GATH. -/
structure GathDesc where
  base : Nat
  stride : Nat
  idx : Nat
  dst : Nat
  count : Nat
  row : Nat
  rowp : Nat
  arr : Nat
  rsv : Bool

/-- A descriptor from its 32 bytes (R179). -/
def gathDesc (d : Nat) : GathDesc :=
  { base := d / 2 ^ 192, stride := d / 2 ^ 160 % 2 ^ 32, idx := d / 2 ^ 128 % 2 ^ 32, dst := d / 2 ^ 96 % 2 ^ 32
    count := d / 2 ^ 80 % 2 ^ 16, row := d / 2 ^ 70 % 2 ^ 10, rowp := d / 2 ^ 48 % 2 ^ 16, arr := d % 2 ^ 32
    rsv := d / 2 ^ 249 != 0 || d / 2 ^ 64 % 2 ^ 6 != 0 || d / 2 ^ 32 % 2 ^ 16 != 0 }

/-- GATH (R179): the checks in their order, and the engine's queue of 8. R179 names no address for TRAP_ADDR, which would then be 0
by R305: the model's choice is the value of the field that fails, STRIDE included (log entry 104). -/
def execGath (o : Opnds) (s0 : State) : Host.Outcome State Fault Refusal :=
  s0.afterSpad o.gn o.g fun s => s.run o fun a _ =>
    let sa := (s.scalar a o.a o.sa).toNat
    let mis (x : Nat) : State := s.raiseAt a Code.misalign 0 (BitVec.ofNat 64 x)
    if (s.xfers.filter fun x => x.engine == .gath && x.core == a.core).length ≥ 8 then s
    else if sa % 32 ≠ 0 then mis sa
    else
      match s.checkSpad a sa 32 with
      | some s1 => s1
      | none =>
        let d := gathDesc (leNat (s.spadRead a.bid sa 32))
        if d.base % 4 ≠ 0 then mis d.base
        else if d.stride % 4 ≠ 0 then mis d.stride
        else if d.idx % 4 ≠ 0 then mis d.idx
        else if d.dst % 4 ≠ 0 then mis d.dst
        else if d.arr % 8 ≠ 0 then mis d.arr
        else if d.rsv || d.row < 4 || d.row > 512 || d.row % 4 != 0 || d.rowp % 4 != 0 || d.rowp < d.row then
          s.raise a Code.illegal 0x0F
        else
          let rows := if d.count = 0 then 0 else (d.count - 1) * d.rowp + d.row
          match s.checkSpad a d.idx (4 * d.count), s.checkSpad a d.dst rows, s.checkObj a d.arr with
          | some s1, _, _ => s1
          | none, some s1, _ => s1
          | none, none, some s1 => s1
          | none, none, none =>
            if d.count = 0 then (s.arriveEmpty a .gather d.arr).retire a
            else
              let units := (List.range d.count).map fun i =>
                ({ srcSpad := false, src := 0, idx := some i, dstSpad := true, dst := d.dst + i * d.rowp, len := d.row } : XUnit)
              (s.startXfer a .gath none d.base d.stride d.idx units d.arr).retire a

/-! ### COPY (R180 to R182) -/

/-- The granules of a copy: 64-byte granules of the destination, the first and last masked (R180). -/
def granules (dst src n : Nat) (srcSpad dstSpad : Bool) : List XUnit :=
  let first := dst / 64
  let last := (dst + n - 1) / 64
  (List.range (last + 1 - first)).map fun i =>
    let lo := max dst ((first + i) * 64)
    let hi := min (dst + n) ((first + i + 1) * 64)
    { srcSpad := srcSpad, src := src + (lo - dst), idx := none, dstSpad := dstSpad, dst := lo, len := hi - lo }

/-- The publish window that holds all `n` bytes at an address (R180, R183). -/
def Ctx.windowOf (c : Ctx) (va n : Nat) : Option Nat :=
  c.windows.findIdx? fun w => w.v && decide (w.vbase ≤ va) && decide (va + n ≤ w.vbase + 65536 * w.size)

/-- COPY (R180, R181): the engine's queue of 32, the checks in their order, the promise, and the transfer. R180 names no address for
TRAP_ADDR: the model's choice is the object or the first address that fails (log entry 104). -/
def execCopy (o : Opnds) (s0 : State) : Host.Outcome State Fault Refusal :=
  s0.afterSpad o.gn o.g fun s => s.run o fun a _ =>
    let dir := bits o.mod 1 0
    let cl := clusterOf a.core
    let dst := s.pairVal a o.a o.sa 0
    let src := s.pairVal a o.b o.sb 0
    let n := s.scalar a o.c o.sc
    let obj := (s.scalar a (o.c + 1#8) o.sc).toNat
    if (s.xfers.filter fun x => x.engine == .copy && clusterOf x.core == cl).length ≥ 32 then s
    else if obj % 8 ≠ 0 then s.raiseAt a Code.misalign 0 (BitVec.ofNat 64 obj)
    else
      let d := if dir = 1 then dst % 2 ^ 32 else dst
      let f := if dir = 2 then src % 2 ^ 32 else src
      match (if dir = 1 then s.checkSpad a d n.toNat else none), (if dir = 2 then s.checkSpad a f n.toNat else none),
          s.checkObj a obj with
      | some s1, _, _ => s1
      | none, some s1, _ => s1
      | none, none, some s1 => s1
      | none, none, none =>
        let win := if dir = 1 then none else (s.ctx a.blk.ctx).windowOf d n.toNat
        if dir ≠ 1 && n != 0#32 && win.isNone then s.raiseAt a Code.dfault 0x06 (BitVec.ofNat 64 d)
        else
          let s1 := if dir = 1 then s else s.loseIdemp a
          let promise := max (s.cycle cl) (nth 0 s.copyEnd cl) + 300 + (n.toNat + 511) / 512
          let s2 := s1.wrSc a o.d.toNat (w32 promise)
          if n = 0#32 then (s2.arriveEmpty a .copy obj).retire a
          else
            (({ s2 with copyEnd := setNth s2.copyEnd cl promise }).startXfer a .copy win 0 0 0
              (granules d f n.toNat (dir = 2) (dir = 1)) obj (dir == 0 && decide (d < f + n.toNat) && decide (f < d + n.toNat))).retire a

/-! ### PUBLISH, CCTL and TLBH (R184 to R186) -/

/-- PUBLISH (R184). -/
def execPublish (o : Opnds) (s : State) : Host.Outcome State Fault Refusal :=
  s.counted o fun a _ =>
    let w := (s.scalar a o.a o.sa).toNat
    let ok := decide (w < 256) && (match (s.ctx a.blk.ctx).windows[w]? with | some x => x.v | none => false)
    if ok then ((s.loseIdemp a).startOp a o (.publish w)).retire a else s.raise a Code.qfault 0

/-- The physical ranges of the lines that a byte range overlaps, page by page; a page that does not translate is left
out (R185). -/
def State.lineRanges (s : State) (core ctx lo hi : Nat) : Nat → List (Nat × Nat) × State
  | 0 => ([], s)
  | n + 1 =>
    let page := lo / 65536 * 65536 + 65536
    let stop := min hi page
    let start := lo / 64 * 64
    let (r, s1) := match s.translate core ctx start .read with
      | (.ok pa, s1) => ([(pa, pa + ((stop + 63) / 64 * 64 - start))], s1)
      | (.error _, _) => ([], s)
    if hi ≤ page then (r, s1)
    else
      let (rs, s2) := State.lineRanges s1 core ctx page hi n
      (r ++ rs, s2)

/-- CCTL.WB and CCTL.WBINV (R185). TRAP_ADDR of DFAULT 0x03 is the model's choice, the first address (log entry 104). -/
def State.cacheControl (s : State) (o : Opnds) (inv : Bool) : Host.Outcome State Fault Refusal :=
  s.counted o fun a _ =>
    let x := s.pairVal a o.a o.sa 0
    let n := (s.scalar a o.b o.sb).toNat
    if x + n > 2 ^ 57 || 2 ^ 57 ≤ x then s.raiseAt a Code.dfault 0x03 (BitVec.ofNat 64 x)
    else
      let (rs, s1) := if n = 0 then ([], s) else s.lineRanges a.core a.blk.ctx x (x + n) (n / 65536 + 2)
      (s1.startOp a o (.cctl inv rs)).retire a

/-- CCTL.WB. -/
def execCctlWb (o : Opnds) (s : State) : Host.Outcome State Fault Refusal := s.cacheControl o false
/-- CCTL.WBINV. -/
def execCctlWbinv (o : Opnds) (s : State) : Host.Outcome State Fault Refusal := s.cacheControl o true
/-- CCTL.CONST. -/
def execCctlConst (o : Opnds) (s : State) : Host.Outcome State Fault Refusal :=
  s.counted o fun a _ => (s.startOp a o .cctlConst).retire a
/-- TLBH.HARV (R186). -/
def execTlbhHarv (o : Opnds) (s : State) : Host.Outcome State Fault Refusal :=
  s.counted o fun a _ => (s.startOp a o (.tlbh none)).retire a
/-- TLBH.INV (R186). -/
def execTlbhInv (o : Opnds) (s : State) : Host.Outcome State Fault Refusal :=
  s.counted o fun a _ => (s.startOp a o (.tlbh (some (s.pairVal a o.a o.sa 0)))).retire a

/-- The TLB of an entry is one of a compute die's: a core's, or the die's last level. -/
def TlbEntry.onDie (e : TlbEntry) (d : Nat) : Bool := e.home == 256 + d || (e.home < 256 && dieOf e.home == d)

/-- TLB_HARVEST_PERIODIC (die): when a period of 2^20 cycles of the die's cluster 0 has passed since the last, the die
harvests the translations of every context with MEM_EXP.HARVEST = 1 (R163). -/
def execTlbHarvestPeriodic (s : State) : Host.Outcome State Fault Refusal :=
  let d := s.arg 0
  let now := s.cycle (8 * d) / 2 ^ 20
  if 4 ≤ d || now ≤ nth 0 s.harvests d then .next s
  else
    .next ({ s with harvests := setNth s.harvests d now }.harvest
      (fun e => e.onDie d && (s.ctx e.ctx).memExp.getLsbD 0) false)

/-! ### OPERATION_COMPLETE (R33) -/

/-- The bits a program's or the host's write of a context control keeps (R2, R263, R316). -/
def csrMask (num : Nat) : Word :=
  match num with
  | 0x020 => 0x001F1F01#32
  | 0x021 => 0x001FFF01#32
  | 0x022 => 0x0000FFFF#32
  | 0x023 => 0x0000FFFF#32
  | _ => 0x80000FFF#32

/-- A write of a context CSR that programs may write: 0x020 to 0x02C; PX_LOST bits are cleared by a 1 (R263, R314). -/
def Ctx.programWrite (c : Ctx) (num : Nat) (v : Word) : Ctx :=
  match num with
  | 0x020 => { c with schedExp := v &&& csrMask num }
  | 0x021 => { c with memExp := v &&& csrMask num }
  | 0x022 => { c with circExp := v &&& csrMask num }
  | 0x023 => { c with pxExp := v &&& csrMask num }
  | 0x02C => { c with ctxQerr := v &&& csrMask num }
  | n => if 0x024 ≤ n ∧ n ≤ 0x02B then
      { c with pxLost := setNth c.pxLost (n - 0x024) (nth 0#32 c.pxLost (n - 0x024) &&& ~~~v) } else c

/-- The physical base and length of the side of a window that is visible. -/
def Window.visible (w : Window) : Nat × Nat := (w.phys w.vbase false, 65536 * w.size)

/-- A physical address that lies in one side of a window, in the other. -/
def otherSide (old new : Nat × Nat) (pa : Nat) : Nat := if old.1 ≤ pa ∧ pa < old.1 + old.2 then new.1 + (pa - old.1) else pa

/-- An operation in flight with its places moved. -/
def OpKind.moved (f : Nat → Nat) : OpKind → OpKind
  | .load lanes => .load (lanes.map fun (x : LaneLoad) => { x with bytes := x.bytes.map f })
  | .store parts => .store (parts.map fun p => (p.1, p.2.map fun x => (f x.1, x.2)))
  | .atomic op u size reqs dst scope => .atomic op u size
      (reqs.map fun r => (f (64 * r.1) / 64, r.2.map fun (x : AtomLane) => { x with pa := f x.pa })) dst scope
  | .jdec va pa dst => .jdec va (f pa) dst
  | x => x

/-- A request to a home with the place of its snapshot moved. -/
def PxKind.moved (f : Nat → Nat) : PxKind → PxKind
  | .snapshot pa words slot group => .snapshot (f pa) words slot group
  | x => x

/-- The accesses of a context that have yet to be performed reach the side of a window that a flip makes visible: the others
were performed before it (R182, R183, R184; log entry 83). A WAITA asks the slice of its word anew. -/
def State.moveSides (s : State) (ctx : Nat) (old new : Nat × Nat) : State :=
  let f := otherSide old new
  let mine (id : Nat) : Bool := s.ops.any fun o => o.id == id && o.ctx == ctx
  { s with
    ops := s.ops.map fun (o : Op) => if o.ctx = ctx then { o with kind := o.kind.moved f } else o
    service := s.service.map fun q =>
      if mine q.2.1 && f (64 * q.2.2) != 64 * q.2.2 then (atomicOwner (f (64 * q.2.2)), q.2.1, f (64 * q.2.2) / 64) else q
    pxReqs := s.pxReqs.map fun (r : PxReq) => if r.ctx = ctx ∧ r.served = false then { r with kind := r.kind.moved f } else r
    waits := s.waits.map fun (e : WaitEntry) =>
      if ((s.block? e.block).map (·.ctx)) == some ctx && f e.pa != e.pa && e.hit.isNone then
        { e with pa := f e.pa, there := false } else e }

/-- What an operation keeps a fence waiting for: an acquire for what has yet to return, a release also for what has
yet to be applied, tiles among it (R208, R256). -/
def OpKind.fenced (rel : Bool) : OpKind → Bool
  | .load _ => true
  | .fill _ => true
  | .lds _ => true
  | .atoms _ _ _ _ _ => true
  | .sts _ => rel
  | .atomic _ _ _ _ _ _ => true
  | .jdec _ _ _ => true
  | .done ws => !ws.isEmpty
  | .store _ => rel
  | .pmats _ => rel
  | .tile _ _ _ _ _ => rel
  | _ => false

/-- What the warp did before a PUBLISH meets a release at system scope: its earlier accesses have returned and been applied, their
epoch has closed, its earlier writes to windows are acknowledged, and its earlier WAITAs have reached their slices (R184, R208; log
entry 99). -/
def State.publishMet (s : State) (op : Op) : Bool :=
  !(s.ops.any fun o => decide (o.id < op.id) && o.block == op.block && o.warp == op.warp && o.kind.fenced true)
    && !(s.pxReqs.any fun r => decide (r.id < op.id) && r.block == op.block && r.warp == op.warp && !r.served && !r.kind.bytes.isEmpty)
    && !(s.posted.any fun p => decide (p.po < op.id) && p.agent == .warp op.block op.warp)
    && !(s.waits.any fun e => decide (e.id < op.id) && e.block == op.block && e.warp == op.warp && !e.there)
    && (match s.warp? op.block op.warp with | some (_, wp) => s.epochClosed wp | none => true)

/-- PUBLISH takes effect (R184): no copy of the context into the window is left, what the warp did before is performed, and the
window's visible side flips for every die and in the window table (R183), which orders
what the warp did before every access of the new side; accesses in flight reach that side. -/
def State.publish (s : State) (op : Op) (w : Nat) : State :=
  if (s.xfers.any fun x => x.ctx == op.ctx && x.window == some w) || !s.publishMet op then s
  else
    let c := s.ctx op.ctx
    let flip (x : Window) : Window := { x with cur := !x.cur }
    let s1 := s.setCtx op.ctx { c with windows := c.windows.zipIdx.map fun x => if x.2 = w then flip x.1 else x.1 }
    let cell := c.pwBase.toNat + 32 * w
    let s2 := match c.windows[w]? with
      | some x => s1.moveSides op.ctx x.visible (flip x).visible
      | none => s1
    ((s2.note { MemEvent.of (MemTag.warp op.block op.warp op.core op.id) with
      flip := c.windows[w]?.map fun x => (flip x).visible }).writePhys cell [s.readByte cell ^^^ 2#8]).finishOp op

/-- What OPERATION_COMPLETE does for an operation; the state is unchanged while it cannot be done. -/
def State.complete (s : State) (op : Op) : State :=
  match op.kind with
  | .done ws => (s.applyWrites op.core op.block op.warp ws).finishOp op
  | .publish w => s.publish op w
  | .cctl inv rs => (rs.foldl (fun s r => s.writeBack r.1 r.2 inv) s).finishOp op
  | .cctlConst => (s.setCore op.core { s.core op.core with consts := [] }).finishOp op
  | .tlbh none => (s.harvest (fun e => e.ctx == op.ctx) false).finishOp op
  | .tlbh (some va) => (s.shootDown op.ctx va).finishOp op
  | .csrw slot num v =>
    let s1 := ((s.setCtx op.ctx ((s.ctx op.ctx).programWrite num v)).clearedLost op.ctx (s.ctx op.ctx)).finishOp op
    match s1.actxAt op.block op.warp slot with
    | some a => s1.retire a
    | none => s1
  | .pmats lanes => if lanes.isEmpty then s.finishOp op else s
  | .sts _ | .atoms _ _ _ _ _ =>
    match s.spadTurn op with
    | (s1, some y) => (match y.kind with | .done ws => (s1.applyWrites op.core op.block op.warp ws).finishOp op | _ => s1)
    | (s1, none) => s1
  | _ => s

/-- OPERATION_COMPLETE (operation): a long-latency operation that is neither a register load nor a global store
completes (R33). -/
def execOperationComplete (s : State) : Host.Outcome State Fault Refusal :=
  match s.op? (s.arg 0) with
  | none => .next s
  | some op => .next (s.complete op)

end Sys2Proof.Machine
end

