-- ==== Sys2Proof/Machine/Records.lean ====
section
/-!
DEFINITION. Continuation records and queue descriptors in memory (R84 to R88), joins, and the records that become ready
(R95, R96).
-/
namespace Sys2Proof.Machine
open Sys2Proof

/-- A field of a structure in memory, from its bits. -/
def fieldOf (x hi lo : Nat) : Nat := (x >>> lo) % 2 ^ (hi + 1 - lo)

/-! ### Records (R84, R86) -/

/-- A continuation record. -/
structure Rec where
  frame : Nat
  qid : Nat
  nbz : Nat
  nby : Nat
  nbx : Nat
  cont : Nat
  count : Nat
  first : Nat
  join : Nat
  stage : Nat
  prio : Nat
  ctx : Nat
  kobj : Nat
  /-- Every reserved field is zero. -/
  clean : Bool
deriving DecidableEq, Repr

/-- A record from its 64 bytes; reserved bits are no part of its fields (R2, R84). -/
def Rec.ofNat (x : Nat) : Rec :=
  { frame := fieldOf x 440 384, qid := fieldOf x 371 360, nbz := fieldOf x 351 336, nby := fieldOf x 335 320
    nbx := fieldOf x 303 288, cont := fieldOf x 248 192, count := fieldOf x 191 160, first := fieldOf x 159 128
    join := fieldOf x 127 96, stage := fieldOf x 95 88, prio := fieldOf x 82 80, ctx := fieldOf x 69 64
    kobj := fieldOf x 56 0
    clean := fieldOf x 511 448 == 0 && fieldOf x 447 441 == 0 && fieldOf x 383 372 == 0 && fieldOf x 359 352 == 0
      && fieldOf x 319 304 == 0 && fieldOf x 287 256 == 0 && fieldOf x 255 249 == 0 && fieldOf x 87 83 == 0
      && fieldOf x 79 70 == 0 && fieldOf x 63 57 == 0 }

/-- A record is valid in a queue of a context (R86). -/
def Rec.valid (r : Rec) (ctx : Nat) : Bool :=
  r.clean && r.nbx != 0 && r.nby != 0 && r.nbz != 0 && decide (r.first + r.count ≤ r.nbx * r.nby * r.nbz)
    && r.ctx == ctx && r.kobj != 0 && r.kobj % 64 == 0

/-! ### Queue descriptors (R87) -/

/-- A queue descriptor. -/
structure QDesc where
  tail : Word
  head : Word
  ctx : Nat
  host : Bool
  en : Bool
  logn : Nat
  ring : Nat
  /-- The descriptor is valid. -/
  ok : Bool
deriving DecidableEq, Repr

/-- A descriptor from its 64 bytes (R87). -/
def QDesc.ofNat (x : Nat) : QDesc :=
  let logn := fieldOf x 68 64
  { tail := BitVec.ofNat 32 (fieldOf x 159 128), head := BitVec.ofNat 32 (fieldOf x 127 96), ctx := fieldOf x 79 74
    host := x.testBit 73, en := x.testBit 72, logn := logn, ring := fieldOf x 56 0
    ok := decide (4 ≤ logn) && decide (logn ≤ 20) && x >>> 160 == 0 && fieldOf x 95 80 == 0 && fieldOf x 71 69 == 0
      && fieldOf x 63 57 == 0 }

/-- Virtual address of a context's descriptor of a queue (R87). -/
def State.descAddr (s : State) (ctx q : Nat) : Nat := (s.ctx ctx).qdBase.toNat + 64 * q

/-- A context's descriptor of a queue; none where it cannot be read. -/
def State.qdesc (s : State) (ctx q : Nat) : Option QDesc :=
  match s.readVirt ctx (s.descAddr ctx q) 64 with
  | .ok bs => some (QDesc.ofNat (leNat bs))
  | .error _ => none

/-- A record is valid (R86): its queue QID, by the descriptor of its table, belongs to its context. -/
def State.recordOk (s : State) (ctx : Nat) (r : Rec) : Bool :=
  match s.qdesc ctx r.qid with
  | some d => r.valid d.ctx
  | none => false

/-- Records a queue holds (R87). -/
def QDesc.held (d : QDesc) : Nat := (d.tail - d.head).toNat

/-- The queue is full (R87). -/
def QDesc.full (d : QDesc) : Bool := d.held == 2 ^ d.logn

/-- Address of the ring entry of a count (R87). -/
def QDesc.entry (d : QDesc) (n : Word) : Nat := d.ring + 64 * (n.toNat % 2 ^ d.logn)

/-- TAIL is written in a descriptor, at its virtual address; where that page reads but does not translate for writing the update is
dropped, so that the entry is written over by the next push (log entry 100). -/
def State.setTail (s : State) (ctx q : Nat) (v : Word) : State := s.writeVirt ctx (s.descAddr ctx q + 16) (leBytes 4 v.toNat)

/-- HEAD is written in a descriptor, at its virtual address; where that page reads but does not translate for writing the update is
dropped, so that the same entry is popped again (log entry 100). -/
def State.setHead (s : State) (ctx q : Nat) (v : Word) : State := s.writeVirt ctx (s.descAddr ctx q + 12) (leBytes 4 v.toNat)

/-- CTX_QERR of a context records a queue (R86, R316). -/
def State.queueError (s : State) (ctx q : Nat) : State :=
  s.setCtx ctx { s.ctx ctx with ctxQerr := BitVec.ofNat 32 (2 ^ 31 + q % 4096) }

/-- A queue without a slot begins to wait for one (R89). -/
def State.noteWaiting (s : State) (ctx q : Nat) : State :=
  let mapped := s.hwslots.any fun h => match h with | some x => x.ctx == ctx && x.queue == q | none => false
  if mapped || s.qwaits.any (fun w => w.ctx == ctx && w.queue == q) then s
  else { s with qwaits := s.qwaits ++ [{ ctx := ctx, queue := q, since := s.ns, levels := 0 }] }

/-- The device has received this TAIL for a host-fed queue (R88). -/
def State.noteTail (s : State) (ctx q : Nat) (v : Word) : State :=
  { s with qtails := (ctx, q, v) :: s.qtails.filter fun e => !(e.1 == ctx && e.2.1 == q) }

/-- The count up to which the device reads a queue's ring: TAIL, but for a host-fed queue that of the last QTAIL write, and
HEAD before the first (R88). -/
def State.tailOf (s : State) (ctx q : Nat) (d : QDesc) : Word :=
  if !d.host then d.tail
  else
    match s.qtails.find? fun e => e.1 == ctx && e.2.1 == q with
    | some e => e.2.2
    | none => d.head

/-- A record is copied into a ring, and TAIL advances (R95, R103), also where a page of the ring does not translate (log entry
85); `order` is when it became ready. -/
def State.pushRing (s : State) (ctx q : Nat) (d : QDesc) (bytes : List Byte) (order : Nat) : State :=
  let s1 := (s.writeVirt ctx (d.entry d.tail) bytes).setTail ctx q (d.tail + 1#32)
  let s2 := if d.host then s1.noteTail ctx q (d.tail + 1#32) else s1
  { s2 with ready := s2.ready ++ [(ctx, q, d.tail, order)], readyAt := s2.readyAt ++ [(order, s2.memTime)] }.noteWaiting ctx q

/-- The checks before a ready record is copied into its ring (R86, R95): its queue's descriptor, its own validity, and its
context, which must be that of the decrement. A queue whose descriptor is invalid or cannot be read fails them (log entry
67). -/
def State.mayCopy (s : State) (ctx : Nat) (r : Rec) : Option QDesc :=
  match s.qdesc ctx r.qid with
  | some d => if d.ok && r.valid d.ctx && r.ctx == ctx then some d else none
  | none => none

/-- The device pushes a ready record that waits at its address, or refuses it and records its queue; none while its queue is
full (R95). -/
def State.pushReady (s : State) (ctx va order : Nat) : Option State :=
  match s.readVirt ctx va 64 with
  | .error _ => none
  | .ok bs =>
    let r := Rec.ofNat (leNat bs)
    match s.mayCopy ctx r with
    | none => some (s.queueError ctx r.qid)
    | some d => if d.full then none else some (s.pushRing ctx r.qid d bs order)

/-- The queue of a record that waits at its address. -/
def State.queueOf (s : State) (d : Nat × Nat × Nat) : Option Nat :=
  match s.readVirt d.1 d.2.1 64 with
  | .ok bs => some (Rec.ofNat (leNat bs)).qid
  | .error _ => none

/-- What comes before the blocks of a record whose JOIN word, at a place, came to zero (R96). -/
def State.noteReady (s : State) (order place : Nat) : State :=
  s.note { MemEvent.of { MemTag.device with agent := .record order } with joins := handedOn s.log place s.memTime }

/-- A record whose JOIN, at a place, came to zero (R95): the checks, then the push, or the wait for room behind those of its
queue that wait already. -/
def State.makeReady (s : State) (ctx va place : Nat) : State :=
  match s.readVirt ctx va 64 with
  | .error _ => s
  | .ok bs =>
    let r := Rec.ofNat (leNat bs)
    if (s.mayCopy ctx r).isNone then s.queueError ctx r.qid
    else
      let (order, s0) := s.fresh
      let s1 := s0.noteReady order place
      let behind := s.deferred.any fun e => e.1 == ctx && s.queueOf e == some r.qid
      match (if behind then none else s1.pushReady ctx va order) with
      | some s2 => s2
      | none => { s1 with deferred := s1.deferred ++ [(ctx, va, order)] }

/-- The decrement of a record's JOIN, a read-modify-write of its owner (R96, R104): the old value, and the state after; a
decrement to zero makes the record ready (R95), and a JOIN at zero is only read. Over the link of a window it reads a free value
(R359). -/
def State.joinDec (s0 : State) (ctx va pa : Nat) (t : MemTag := { MemTag.device with rmw := true })
    (routes : List (Nat × Word) := []) : Nat × State :=
  let word := (List.range 4).map (pa + 12 + ·)
  let (was, s) := s0.loadBytes word
  let old := leNat was
  if old = 0 then (0, s.storeAtom t word was none)
  else
    let s1 := s.storeAtom t word was (some (old - 1)) routes
    (old, if old = 1 then s1.makeReady ctx va (pa + 12) else s1)

end Sys2Proof.Machine
end

