-- ==== Sys2Proof/Machine/Atomics.lean ====
section
/-!
DEFINITION. Atomics, fences and WAITA (R201 to R209), with the events ATOMIC_SERVICE_REQUEST, EPOCH_CLOSE, WAITA_WAKE
and WAITA_TIMEOUT.
-/
namespace Sys2Proof.Machine
open Sys2Proof

/-! ### Operands (R205, R206) -/

/-- Bytes an atomic moves (R206). -/
def atomSize (o : Opnds) : Nat := if o.m 4 then 8 else 4

/-- The sources of an operand under W64. -/
def wideSrcs (o : Opnds) (v : BitVec 8) (sf : Bool) : List Src :=
  if o.m 4 then pairSrcs v sf else [.reg v sf]

/-- An operand's value under W64. -/
def State.wideVal (s : State) (a : Actx) (o : Opnds) (v : BitVec 8) (sf : Bool) (l : Nat) : Nat :=
  if o.m 4 then s.pairVal a v sf l else (s.rd a v sf l).val.toNat

/-- The destination of an atomic's old values. -/
def oldDst (o : Opnds) : Option Nat := if o.d = 0xF3#8 then none else some o.d.toNat

/-! ### ATOM and ACAS (R201, R206) -/

/-- The requests of an instruction: one for each sector, its lanes ascending (R201). -/
def sectorRequests : List AtomLane → List (Nat × List AtomLane)
  | [] => []
  | x :: xs =>
    let rest := sectorRequests xs
    let k := x.pa / 64
    let mine := match rest.find? fun r => r.1 == k with | some r => r.2 | none => []
    (k, x :: mine) :: rest.filter fun r => r.1 != k

/-- The queue of a cluster's service warp holds 256 requests (R201). -/
def State.serviceFits (s : State) (reqs : List (Nat × List AtomLane)) : Bool :=
  (List.range 32).all fun c =>
    let new := (reqs.filter fun r => atomicOwner (64 * r.1) == c).length
    new == 0 || decide ((s.service.filter fun q => q.1 == c).length + new ≤ 256)

/-- The requests enter the queues of their owners, and the atomic is in flight in its die's epoch with its scope (R191,
R197, R201). -/
def State.startAtomic (s : State) (a : Actx) (o : Opnds) (op : AtomOp) (reqs : List (Nat × List AtomLane)) : State :=
  let e := s.writeEpochOf a.core
  let id := s.nextId
  let s1 := s.pushOp a (a.flagOf o.fs) (some e) (.atomic op (o.m 5) (atomSize o) reqs (oldDst o) (bits o.mod 2 0))
  let s2 := { s1 with service := s1.service ++ reqs.map fun (r : Nat × List AtomLane) => (atomicOwner (64 * r.1), id, r.1) }
  s2.updWarp a.bid a.wi fun w => { w.countUp (a.flagOf o.fs) with writeEpoch := some e }

/-- ATOM and ACAS (R206): the checks, the translation as a write, and one request for each sector. -/
def State.atomic (s : State) (op : AtomOp) (o : Opnds) : Host.Outcome State Fault Refusal :=
  s.counted o fun a m =>
    let srcs := (if o.m 3 then pairSrcs o.a o.sa else [o.srcA]) ++ wideSrcs o o.b o.sb
      ++ (if op == .cas then wideSrcs o o.c o.sc else [])
    if s.anyPx a m srcs then s.raise a Code.pxuse 0x01
    else
      let size := atomSize o
      let x := s.laneAddr a o.a o.sa (o.m 3) fun _ => 0
      match s.checkAddr a .global (lanesOf m) x size with
      | some s1 => s1
      | none =>
        match s.translateLanes a .write (a.lanePieces .global (lanesOf m) x size) with
        | (.error (va, d), s1) => s1.dataFault a va d true
        | (.ok lanes, s1) =>
          let reqs := sectorRequests (lanes.map fun y =>
            { lane := y.1, pa := nth 0 y.2 0, b := s.wideVal a o o.b o.sb y.1
              c := if op == .cas then s.wideVal a o o.c o.sc y.1 else 0 })
          if s1.serviceFits reqs then ((s1.loseIdemp a).startAtomic a o op reqs).retire a else { s1 with pageHits := s.pageHits }

/-- ATOM. -/
def execAtom (op : AtomOp) (o : Opnds) (s : State) : Host.Outcome State Fault Refusal := s.atomic op o

/-- ACAS. -/
def execAcas (o : Opnds) (s : State) : Host.Outcome State Fault Refusal := s.atomic .cas o

/-- One lane's read-modify-write at its home (R201, R206): the register writes of its old value. -/
def State.atomLane (s : State) (op : Op) (k : AtomOp) (u : Bool) (size : Nat) (dst : Option Nat) (scope : Nat) (x : AtomLane) :
    State × List RegWrite :=
  let bytes := (List.range size).map (x.pa + ·)
  let (bs, s1) := s.loadBytes bytes
  let old := leNat bs
  let s2 := s1.updWarp op.block op.warp fun w => { w with retClock := mergeClock w.retClock (s1.clockOf x.pa) }
  let v := atomFn k u (8 * size) old x.b x.c
  let s3 := s2.storeAtom { op.tag with rmw := true, scope := some scope } bytes bs v op.routes
  (if v.isSome then s3.stampAll op.core bytes else s3, if x.mute then [] else oldWrites dst size x.lane old)

/-- The lanes of a request in ascending order, as one sequence (R201). -/
def State.atomLanes (s : State) (op : Op) (k : AtomOp) (u : Bool) (size : Nat) (dst : Option Nat) (scope : Nat) :
    List AtomLane → State × List RegWrite
  | [] => (s, [])
  | x :: xs =>
    let (s1, w1) := s.atomLane op k u size dst scope x
    let (s2, w2) := State.atomLanes s1 op k u size dst scope xs
    (s2, w1 ++ w2)

/-- A JDEC reaches the service warp of its record (R96, R104). -/
def State.serveJdec (s : State) (op : Op) (va pa dst : Nat) : State :=
  let (old, s1) := s.joinDec op.ctx va pa { op.tag with rmw := true } op.routes
  let s2 := (s1.stampAll op.core [pa + 12]).updWarp op.block op.warp fun w =>
    { w with retClock := mergeClock w.retClock (s.clockOf (pa + 12)) }
  (s2.applyWrites op.core op.block op.warp [.scalar dst (w32 old)]).finishOp op

/-- ATOMIC_SERVICE_REQUEST (cluster, place): the service warp takes one of its requests, the oldest at place 0, since no
rule orders the requests for different sectors (R201), unless an earlier access of the requesting warp to those bytes is
still to come (R192); the last request completes the instruction (R96, R206). -/
def execAtomicServiceRequest (s : State) : Host.Outcome State Fault Refusal :=
  match (s.service.filter fun q => q.1 == s.arg 0)[s.arg 1]? with
  | none => .next s
  | some (c, id, sector) =>
    let s0 := { s with service := s.service.erase (c, id, sector) }
    match s.op? id with
    | none => .next s0
    | some op =>
      match op.kind with
      | .atomic k u size reqs dst scope =>
        match reqs.find? fun r => r.1 == sector with
        | none => .next s0
        | some (_, lanes) =>
          let bytes := lanes.flatMap fun x => (List.range size).map (x.pa + ·)
          if s.earlierTouch id op.block op.warp bytes then .next s
          else
            let (s1, ws) := s0.atomLanes op k u size dst scope lanes
            let rest := reqs.filter fun r => r.1 != sector
            let s2 := (s1.applyWrites op.core op.block op.warp ws).setOp id (.atomic k u size rest dst scope)
            .next (if rest.isEmpty then s2.finishOp op else s2)
      | .jdec va pa dst =>
        if s.earlierTouch id op.block op.warp op.kind.bytes then .next s else .next (s0.serveJdec op va pa dst)
      | _ => .next s0

/-! ### ATOMS (R207) -/

/-- ATOMS (R207): the checks, and its lanes are in flight until the scratchpad applies them (R199). -/
def execAtoms (op : AtomOp) (o : Opnds) (s : State) : Host.Outcome State Fault Refusal :=
  s.counted o fun a m =>
    let srcs := [o.srcA] ++ wideSrcs o o.b o.sb ++ (if op == .cas then wideSrcs o o.c o.sc else [])
    if s.anyPx a m srcs then s.raise a Code.pxuse 0x01
    else
      let x := s.laneAddr a o.a o.sa false fun _ => 0
      match s.checkAddr a .spad (lanesOf m) x (atomSize o) with
      | some s1 => s1
      | none =>
        let lanes := (lanesOf m).map fun l =>
          ({ lane := l, pa := (x l).toNat, b := s.wideVal a o o.b o.sb l
             c := if op == .cas then s.wideVal a o o.c o.sc l else 0 } : AtomLane)
        (s.startOp a o (.atoms op (o.m 5) (atomSize o) lanes (oldDst o))).retire a

/-! ### FENCE (R208) -/

/-- The condition of a FENCE (R208). The snapshot of a PLD is a load (R190). A release waits until every earlier WAITA has reached
its slice, so that no write that its read happens before can come to the slice first (R198; log entry 99). At system scope it waits
for the warp's own earlier writes to windows. -/
def State.fenceMet (s : State) (a : Actx) (kind : FenceKind) (scope : Nat) : Bool :=
  let rel := kind != .acq
  let acq := kind != .rel
  !(s.ops.any fun o => o.block == a.bid && o.warp == a.wi && o.kind.fenced rel)
    && !(s.pxReqs.any fun r => r.block == a.bid && r.warp == a.wi && !r.served && !r.kind.bytes.isEmpty)
    && !(acq && s.waits.any fun e => e.block == a.bid && e.warp == a.wi)
    && !(rel && s.waits.any fun e => e.block == a.bid && e.warp == a.wi && !e.there)
    && !(rel && scope ≥ 4 && !s.epochClosed a.w)
    && !(rel && scope = 5 && s.posted.any fun p => p.agent == .warp a.bid a.wi)

/-- An acquire of device or system scope merges the clocks the warp's loads returned into its die's (R208). -/
def State.acquire (s : State) (a : Actx) : State :=
  let d := dieOf a.core
  { s with clocks := setNth s.clocks d (mergeClock (nth [] s.clocks d) a.w.retClock) }.updWarp a.bid a.wi
    fun w => { w with retClock := List.replicate 12 0 }

/-- A fence that has completed takes its place in the program order of its warp (R190, R195). -/
def State.noteFence (s : State) (a : Actx) (kind : FenceKind) (scope : Nat) : State :=
  let (id, s1) := s.fresh
  s1.note { MemEvent.of (MemTag.warp a.bid a.wi a.core id) with fence := some (kind, scope) }

/-- FENCE (R208): neither slot issues until its condition holds. -/
def execFence (kind : FenceKind) (o : Opnds) (s : State) : Host.Outcome State Fault Refusal :=
  s.run o fun a _ =>
    let scope := bits o.mod 2 0
    if s.fenceMet a kind scope then
      (((if kind != .rel && scope ≥ 4 then s.acquire a else s).noteFence a kind scope).updWarp a.bid a.wi
        fun w => { w with gate := none }).retire a
    else s.updWarp a.bid a.wi fun w => { w with gate := some a.slot }

/-- EPOCH_CLOSE (die): once every write issued in the die's current epoch has been applied, the epoch closes, and the
closure is announced to the other dies (R191). -/
def execEpochClose (s : State) : Host.Outcome State Fault Refusal :=
  let d := s.arg 0
  let e := nth 0 (nth [] s.clocks d) d
  if d < 12 && !(s.ops.any fun o => o.epoch == some (d, e)) then
    .next { s with clocks := s.clocks.map fun c => setNth c d (max (nth 0 c d) (e + 1)) }
  else .next s

/-! ### WAITA (R209) -/

/-- The result of a WAITA that read its word as it stood at a time: the clock of the word's last write is among those
returned (R208), and the read joins the log (R209). -/
def State.waitRead (s : State) (e : WaitEntry) (core t : Nat) : State :=
  let s1 := s.updWarp e.block e.warp fun w => { w with retClock := mergeClock w.retClock (s.clockOf e.pa) }
  s1.note { MemEvent.of (MemTag.warp e.block e.warp core e.id) with
    reads := (List.range 4).map fun i => (e.pa + i, lastWrite s.log t (e.pa + i)) }

/-- WAITA (R209): the checks and the translation; its slot blocks while the request is on its way to the slice. The cycles of
WAITTO count from here (log entry 94). -/
def execWaita (cmp : WaitCmp) (o : Opnds) (s : State) : Host.Outcome State Fault Refusal :=
  s.run o fun a m =>
    let x := s.laneAddr a o.a o.sa true fun _ => 0
    match s.checkAddr a .global ((lanesOf m).take 1) x 4 with
    | some s1 => s1
    | none =>
      match s.translate a.core a.blk.ctx (x 0).toNat .read with
      | (.error d, s1) => s1.dataFault a (x 0).toNat d false
      | (.ok pa, s0) =>
        let s1 := s0.misuse a.blk.ctx [(x 0).toNat]
        let e : WaitEntry :=
          { id := s1.nextId, block := a.bid, warp := a.wi, slot := a.slot, pa := pa, mask := s.scalar a o.b o.sb
            expected := s.scalar a o.c o.sc, cmp := cmp, dst := o.d.toNat, start := s.cycle (clusterOf a.core)
            there := false, hit := none, barred := false }
        { (s1.fresh.2).blockSlot a with waits := s1.waits ++ [e] }

/-- A wait entry goes, and its WAITA ends with a status. -/
def State.endWait (s : State) (e : WaitEntry) (status : Word) : State :=
  ({ s with waits := s.waits.filter fun x => x.id != e.id }).answer e.block e.warp e.slot e.dst status

/-- The core on which a waiting WAITA's block stands. -/
def State.waitCore (s : State) (e : WaitEntry) : Nat := ((s.block? e.block).bind (·.core?)).getD 0

/-- A WAITA's request reaches the slice, once no earlier access of its warp to the word is left: the condition is evaluated
over the word as it then stands, and an entry is made where it fails and the table has room (R192, R202, R209). -/
def State.registerWait (s : State) (id : Nat) : State :=
  match s.waits.find? fun e => e.id == id && !e.there with
  | none => s
  | some e =>
    if inWindow e.pa then s.endWait e 2#32
    else if s.earlierTouch e.id e.block e.warp ((List.range 4).map (e.pa + ·)) true then s
    else if s.waitMet e then (s.waitRead e (s.waitCore e) s.memTime).endWait e 0#32
    else if (s.waits.filter fun y => y.there && sliceOf y.pa == sliceOf e.pa).length ≥ 256 then s.endWait e 2#32
    else { s with waits := s.waits.map fun (y : WaitEntry) => if y.id = id then { y with there := true } else y }

/-- WAITA_WAKE (entry): a write that satisfied the entry has been accepted, and the WAITA ends with status 1 (R209). A request
that has not reached its slice does so. -/
def execWaitaWake (s : State) : Host.Outcome State Fault Refusal :=
  match s.waits.find? fun e => e.id == s.arg 0 with
  | none => .next s
  | some e =>
    if !e.there then .next (s.registerWait e.id)
    else
      match e.hit with
      | some t => .next ((s.waitRead e (s.waitCore e) t).endWait e 1#32)
      | none => .next s

/-- WAITA_TIMEOUT (entry): no satisfying write has come within MEM_EXP.WAITTO cycles; code 0 gives no limit (R209,
R316; log entry 94 for what they count from). -/
def execWaitaTimeout (s : State) : Host.Outcome State Fault Refusal :=
  match s.waits.find? fun e => e.id == s.arg 0 with
  | none => .next s
  | some e =>
    match s.actxAt e.block e.warp e.slot with
    | none => .next s
    | some a =>
      let n := bits (s.ctx a.blk.ctx).memExp 20 16
      .next (if e.there && e.hit.isNone && n != 0 && e.start + waitCycles n ≤ s.cycle (clusterOf a.core) then s.endWait e 3#32 else s)

end Sys2Proof.Machine
end

