-- ==== Sys2Proof/Machine/Queues.lean ====
section
/-!
DEFINITION. The named queues of a block (R212 to R216), with the events QUEUE_WAITER_RELEASE and QUEUE_DEADLOCK.
-/
namespace Sys2Proof.Machine
open Sys2Proof

/-! ### Headers (R212) -/

/-- A queue header. -/
structure QHead where
  ring : Nat
  size : Nat
  allow : Nat
  head : Nat
  count : Nat
  rest : Nat
deriving DecidableEq, Repr

/-- A header from its 16 bytes; `rest` is the low word with V. -/
def QHead.ofNat (x : Nat) : QHead :=
  { ring := x / 2 ^ 96 % 2 ^ 32, size := x / 2 ^ 80 % 2 ^ 16, allow := x / 2 ^ 64 % 2 ^ 16, head := x / 2 ^ 48 % 2 ^ 16
    count := x / 2 ^ 32 % 2 ^ 16, rest := x % 2 ^ 32 }

/-- The 16 bytes of a header. -/
def QHead.bytes (q : QHead) : List Byte :=
  leBytes 16 (q.ring * 2 ^ 96 + q.size * 2 ^ 80 + q.allow * 2 ^ 64 + q.head * 2 ^ 48 + q.count * 2 ^ 32 + q.rest)

/-- A header is well formed in a scratchpad of `spad` bytes (R212). -/
def QHead.ok (q : QHead) (spad : Nat) : Bool :=
  q.rest == 1 && decide (1 ≤ q.size) && decide (q.size ≤ 4096) && decide (q.head < q.size)
    && decide (q.count + q.allow ≤ q.size) && q.ring % 4 == 0 && decide (q.ring + 4 * q.size ≤ spad)

/-- The header of queue `n` of a block. -/
def State.queue (s : State) (bid n : Nat) : QHead := QHead.ofNat (leNat (s.spadRead bid (16 * n) 16))

/-- Scratchpad bytes written by a queue instruction. -/
def State.queueWrite (s : State) (bid x : Nat) (vs : List Byte) : State :=
  match s.block? bid with
  | some b => s.setBlock (b.spadWrite x vs)
  | none => s

/-- The header of queue `n` is written by a queue instruction. -/
def State.setQueue (s : State) (bid n : Nat) (q : QHead) : State :=
  match s.block? bid with
  | some b => s.setBlock { b.spadWrite (16 * n) q.bytes with qspoiled := b.qspoiled.filter fun x => x != n }
  | none => s

/-- A header that something else has written holds free values from then on (R6, R212). -/
def State.settleQueue (s : State) (bid n : Nat) : State :=
  match s.block? bid with
  | some b =>
    if b.qspoiled.contains n then
      let (bs, s1) := s.freeBytes 16
      s1.setQueue bid n (QHead.ofNat (leNat bs))
    else s
  | none => s

/-- push(h) of R214. -/
def State.qpush (s : State) (bid n : Nat) (h : Word) : State :=
  let q := s.queue bid n
  (s.queueWrite bid (q.ring + 4 * ((q.head + q.count) % q.size)) (leBytes 4 h.toNat)).setQueue bid n
    { q with count := q.count + 1, allow := q.allow - 1 }

/-- pop() of R214: the handle, and the state after. -/
def State.qpop (s : State) (bid n : Nat) : Word × State :=
  let q := s.queue bid n
  (w32 (leNat (s.spadRead bid (q.ring + 4 * q.head) 4)),
    s.setQueue bid n { q with head := (q.head + 1) % q.size, count := q.count - 1, allow := q.allow + 1 })

/-! ### The order a handoff makes (R216) -/

/-- The access of a queue instruction at a place in its warp's program order: the places that it reads, and those that it
writes. -/
def State.noteQueue (s : State) (bid wi core po : Nat) (reads writes : List Nat) : State :=
  s.noteSpad (MemTag.warp bid wi core po) bid reads writes

/-- A fence of block scope that a queue instruction acts as, at a place in its warp's program order. -/
def State.queueFence (s : State) (bid wi core po : Nat) (k : FenceKind) : State :=
  s.note { MemEvent.of (MemTag.warp bid wi core po) with fence := some (k, 0) }

/-- The bytes of a queue's header. -/
def headerOf (n : Nat) : List Nat := (List.range 16).map (16 * n + ·)

/-- A push acts as a release at block scope before it writes its ring word and the header; its read of the header comes before
both, so that what its warp has observed of engines comes with it. -/
def State.pushAs (s : State) (bid n : Nat) (wi core po : Nat) (h : Word) : State :=
  let q := s.queue bid n
  let word := q.ring + 4 * ((q.head + q.count) % q.size)
  let s1 := (s.noteQueue bid wi core po (headerOf n) []).queueFence bid wi core (po + 1) .rel
  (s1.noteQueue bid wi core (po + 2) [] ((List.range 4).map (word + ·) ++ headerOf n)).qpush bid n h

/-- A pop reads the header and its ring word, then acts as an acquire at block scope, and writes the header. -/
def State.popAs (s : State) (bid n : Nat) (wi core po : Nat) : Word × State :=
  let q := s.queue bid n
  let word := q.ring + 4 * q.head
  let s1 := (s.noteQueue bid wi core po ((List.range 4).map (word + ·) ++ headerOf n) []).queueFence bid wi core (po + 1) .acq
  (s1.noteQueue bid wi core (po + 2) [] (headerOf n)).qpop bid n

/-- QINIT writes a header, and QINIT.GRANT reads and writes one, as an access of its warp (R197, R214). -/
def State.putQueue (s : State) (a : Actx) (n : Nat) (reads : Bool) (q : QHead) : State :=
  let (id, s1) := s.fresh
  (s1.noteQueue a.bid a.wi a.core id (if reads then headerOf n else []) (headerOf n)).setQueue a.bid n q

/-- A QTRY that finds no room or no entry has read the header (R197, R214). -/
def State.sawQueue (s : State) (a : Actx) (n : Nat) : State :=
  let (id, s1) := s.fresh
  s1.noteQueue a.bid a.wi a.core id (headerOf n) []

/-- A queue instruction takes its places in the program order of its warp. -/
def State.queuePlace (s : State) : State := { s with nextId := s.nextId + 3 }

/-! ### Waiters (R215) -/

/-- The front waiter on one side of a queue. -/
def Block.front (b : Block) (n : Nat) (push : Bool) : Option QWaiter :=
  b.qwait.find? fun x => x.queue == n && x.push == push

/-- What one side of a queue waits for: allowance for a push, entries for a pop. -/
def QHead.room (q : QHead) (push : Bool) : Bool := if push then decide (0 < q.allow) else decide (0 < q.count)

/-- The waiter at the front of a side, when it can be served. -/
def State.waiterDue (s : State) (bid n : Nat) (push : Bool) : Option QWaiter :=
  match s.block? bid with
  | none => none
  | some b => if (s.queue bid n).ok (s.spadSize b) && (s.queue bid n).room push then b.front n push else none

/-- The front waiter of a side is served: it pushes its handle, or its scalar receives the popped one, and it retires. The
acquire of a pop stands where the pop is made. -/
def State.serveWaiter (s : State) (bid n : Nat) (x : QWaiter) : State :=
  match s.block? bid with
  | none => s
  | some b =>
    let s1 := s.setBlock { b with qwait := b.qwait.erase x }
    match s1.actxAt bid x.warp x.slot with
    | none => s1
    | some a =>
      if x.push then (s1.pushAs bid n x.warp a.core x.po x.handle).retire a
      else
        let r := s1.queuePlace.popAs bid n x.warp a.core s1.nextId
        (r.2.wrSc a x.dst.toNat r.1).retire a

/-- In the cycle that makes a side positive its front waiter is served, and in turn what that makes positive (R215). -/
def State.serveQueue (s : State) (bid n : Nat) : Nat → State
  | 0 => s
  | fuel + 1 =>
    match s.waiterDue bid n true, s.waiterDue bid n false with
    | some x, _ => State.serveQueue (s.serveWaiter bid n x) bid n fuel
    | none, some x => State.serveQueue (s.serveWaiter bid n x) bid n fuel
    | none, none => s

/-- A queue on which a slot waits is looked at: a header that something else has written holds free values (R6, R212). -/
def State.settleWaited (s : State) (bid n : Nat) : State :=
  match s.block? bid with
  | some b => if b.qwait.any fun x => x.queue == n then s.settleQueue bid n else s
  | none => s

/-- The waiters of a queue are served as far as they can be. -/
def State.serveAll (s : State) (bid n : Nat) : State :=
  (s.settleWaited bid n).serveQueue bid n (((s.block? bid).map fun b => b.qwait.length).getD 0)

/-- The slot joins the waiters of a side (R215). -/
def State.joinWaiters (s : State) (a : Actx) (n : Nat) (push : Bool) (h : Word) (dst : BitVec 8) : State :=
  let s1 := s.queuePlace.blockSlot a
  match s1.block? a.bid with
  | none => s1
  | some b =>
    s1.setBlock { b with qwait := b.qwait ++ [({ warp := a.wi, slot := a.slot, queue := n, push := push, handle := h
                                                 dst := dst, po := s.nextId } : QWaiter)] }

/-- QUEUE_WAITER_RELEASE (block, queue, side): the front waiter of a side is served once its side is positive (R215). -/
def execQueueWaiterRelease (s : State) : Host.Outcome State Fault Refusal :=
  let s1 := s.settleWaited (s.arg 0) (s.arg 1)
  match s1.waiterDue (s.arg 0) (s.arg 1) (s.arg 2 == 1) with
  | some x => .next ((s1.serveWaiter (s.arg 0) (s.arg 1) x).serveAll (s.arg 0) (s.arg 1))
  | none => .next s1

/-- The slots of a warp that wait on a queue. -/
def Block.queueSlots (b : Block) (wi : Nat) : List Nat :=
  [0, 1].filter fun sl => b.qwait.any fun x => x.warp == wi && x.slot == sl

/-- Every warp of the block that has not ended is blocked in a queue instruction, or has a slot so blocked and its other
slot free, and no waiter can be served (R215). -/
def State.queueStuck (s : State) (b : Block) : Bool :=
  b.firstLive.isSome
    && (b.warps.zipIdx.all fun x => x.1.ended ||
        (!(b.queueSlots x.2).isEmpty && [0, 1].all fun sl => (x.1.path sl).isNone || (b.queueSlots x.2).contains sl))
    && !((List.range 16).any fun n => (s.waiterDue b.id n true).isSome || (s.waiterDue b.id n false).isSome)

/-- QFAULT 0x02 in one warp of a stuck block, at its blocked instruction; with two, the manual does not say which, and the
choice is free. -/
def State.unstick (s : State) (b : Block) (wi : Nat) : State :=
  match b.queueSlots wi with
  | [] => s
  | sl :: rest =>
    let (v, s1) := s.draw
    let slot := if v.getLsbD 0 then nth sl rest 0 else sl
    (s1.withdraw b.id wi slot).raiseTrap b.id wi slot Code.qfault 0x02 0#64 true

/-- QUEUE_DEADLOCK (block): the block cannot progress, and each of its warps takes QFAULT 0x02 (R215). -/
def execQueueDeadlock (s0 : State) : Host.Outcome State Fault Refusal :=
  let s := (List.range 16).foldl (fun (s : State) (n : Nat) => s.settleWaited (s0.arg 0) n) s0
  match s.block? (s.arg 0) with
  | none => .next s
  | some b =>
    if s.queueStuck b then .next ((List.range b.warps.length).foldl (fun s i => s.unstick b i) s) else .next s

/-! ### The instructions (R214) -/

/-- The queue number of an instruction (R213). -/
def queueNo (o : Opnds) : Nat := bits o.mod 3 0

/-- An instruction over a queue, which acts behind its warp's earlier accesses to scratchpad: its header must lie within the
scratchpad, a waiter that can be served goes first, and unless it is QINIT the header must be well formed (R199, R212,
R214). TRAP_ADDR of that DFAULT is the model's choice, the header's offset (log entry 104). -/
def State.withQueue (s : State) (o : Opnds) (init : Bool) (act : State → Actx → Mask → Nat → QHead → State) :
    Host.Outcome State Fault Refusal :=
  s.run o fun a m =>
    let n := queueNo o
    if 16 * n + 16 > s.spadSize a.blk then s.raiseAt a Code.dfault 0x07 (BitVec.ofNat 64 (16 * n))
    else
      s.behindSpad a fun s =>
        let s1 := (if init then s else s.settleQueue a.bid n).serveAll a.bid n
        if !init && !(s1.queue a.bid n).ok (s1.spadSize a.blk) then s1.raise a Code.qfault 0x01
        else act s1 a m n (s1.queue a.bid n)

/-- QINIT (R214): the header is written and then checked. -/
def execQinit (o : Opnds) (s : State) : Host.Outcome State Fault Refusal :=
  s.withQueue o true fun s a _ n _ =>
    let size := (s.scalar a o.b o.sb).toNat
    let q : QHead := { ring := (s.scalar a o.a o.sa).toNat, size := size, allow := size, head := 0, count := 0, rest := 1 }
    if size = 0 || size > 4096 then s.raise a Code.qfault 0x01
    else if !q.ok (s.spadSize a.blk) then (s.putQueue a n false q).raise a Code.qfault 0x01
    else ((s.putQueue a n false q).retire a).serveAll a.bid n

/-- QINIT.GRANT (R214). -/
def execQinitGrant (o : Opnds) (s : State) : Host.Outcome State Fault Refusal :=
  s.withQueue o false fun s a _ n q =>
    ((s.putQueue a n true { q with allow := min (q.allow + (s.scalar a o.a o.sa).toNat) (q.size - q.count) }).retire a).serveAll
      a.bid n

/-- A push that is made at once. -/
def State.pushNow (s : State) (a : Actx) (n : Nat) (h : Word) : State := s.queuePlace.pushAs a.bid n a.wi a.core s.nextId h

/-- A pop that is made at once: the handle, and the state after. -/
def State.popNow (s : State) (a : Actx) (n : Nat) : Word × State := s.queuePlace.popAs a.bid n a.wi a.core s.nextId

/-- QPUSH (R214 to R216): a release at block scope, then the push, or a wait for allowance behind earlier waiters. -/
def execQpush (o : Opnds) (s : State) : Host.Outcome State Fault Refusal :=
  s.withQueue o false fun s a _ n q =>
    if !s.fenceMet a .rel 0 then s
    else if q.allow = 0 then s.joinWaiters a n true (s.scalar a o.a o.sa) 0#8
    else ((s.pushNow a n (s.scalar a o.a o.sa)).retire a).serveAll a.bid n

/-- QPOP (R214 to R216): the pop, an acquire at block scope, or a wait for an entry behind earlier waiters. -/
def execQpop (o : Opnds) (s : State) : Host.Outcome State Fault Refusal :=
  s.withQueue o false fun s a _ n q =>
    if !s.fenceMet a .acq 0 then s
    else if q.count = 0 then s.joinWaiters a n false 0#32 o.d
    else (((s.popNow a n).2.wrSc a o.d.toNat (s.popNow a n).1).retire a).serveAll a.bid n

/-- QTRY.POP (R214): Sd is unchanged on 0. -/
def execQtryPop (o : Opnds) (s : State) : Host.Outcome State Fault Refusal :=
  s.withQueue o false fun s a m n q =>
    if q.count = 0 then ((s.sawQueue a n).wrP a o.c.toNat m fun _ => false).retire a
    else if !s.fenceMet a .acq 0 then s
    else
      ((((s.popNow a n).2.wrSc a o.d.toNat (s.popNow a n).1).wrP a o.c.toNat m fun _ => true).retire a).serveAll a.bid n

/-- QTRY.PUSH (R214). -/
def execQtryPush (o : Opnds) (s : State) : Host.Outcome State Fault Refusal :=
  s.withQueue o false fun s a m n q =>
    if q.allow = 0 then ((s.sawQueue a n).wrP a o.c.toNat m fun _ => false).retire a
    else if !s.fenceMet a .rel 0 then s
    else (((s.pushNow a n (s.scalar a o.a o.sa)).wrP a o.c.toNat m fun _ => true).retire a).serveAll a.bid n

end Sys2Proof.Machine
end

