-- ==== Sys2Proof/Machine/Circular.lean ====
section
/-!
DEFINITION. The Circular (R218 to R232), with the events CAST_CLAIM, STOP_PASS, SEAM_PASS, HOLD_THEFT and
WARP_END_RELEASE.
-/
namespace Sys2Proof.Machine
open Sys2Proof

/-! ### The ring -/

/-- A position of the ring. -/
def Ring.at (r : Ring) (p : Nat) : RingPos := nth { gen := 0#5, stitch := none } r.pos p

/-- The state with a position replaced. -/
def State.setPos (s : State) (p : Nat) (x : RingPos) : State := { s with ring := { s.ring with pos := setNth s.ring.pos p x } }

/-- The state with the stitch of a position replaced. -/
def State.setStitch (s : State) (p : Nat) (x : Option Stitch) : State := s.setPos p { s.ring.at p with stitch := x }

/-- The position a handle names, and its generation (R220). -/
def handlePos (h : Word) : Nat := bits h 10 0

/-- A handle is malformed (R220). -/
def handleBad (h : Word) : Bool := bits h 31 16 != 0 || decide (1280 ≤ handlePos h)

/-- The live stitch of a context that a handle names (R220). -/
def State.liveStitch (s : State) (ctx : Nat) (h : Word) : Option Stitch :=
  let x := s.ring.at (handlePos h)
  match x.stitch with
  | some y => if y.ctx = ctx ∧ x.gen.toNat = bits h 15 11 then some y else none
  | none => none

/-- CIRC_QUOTA.USED: the stitches of the context on the ring and its casts in flight (R222). -/
def State.circUsed (s : State) (ctx : Nat) : Nat :=
  (s.ring.pos.filter fun x => (x.stitch.map (·.ctx)) == some ctx).length
    + (s.ring.reqs.filter fun r => r.claimed && r.ctx == ctx).length

/-- Positions occupied or claimed (R226). -/
def State.circFull (s : State) : Nat :=
  (s.ring.pos.filter fun x => x.stitch.isSome).length + (s.ring.reqs.filter fun r => r.claimed).length

/-- The revolution of the ring's time (R218). -/
def State.revolution (s : State) : Nat := s.ring.tick / 320

/-- The rank that passes a core's stop now (R218). -/
def State.rankAt (s : State) (core : Nat) : Nat := (s.ring.tick + 640 - stopOf core) % 320

/-- A free position after its stitch is bound off (R219). -/
def State.bindOff (s : State) (p : Nat) : State := s.setPos p { gen := (s.ring.at p).gen + 1#5, stitch := none }

/-- A core's stop marks a position (R231). -/
def State.mark (s : State) (core p : Nat) : State :=
  { s with ring := { s.ring with marks := (core, p) :: s.ring.marks.filter (· != (core, p)) } }

/-- The STEAL-th revolution after the capture has begun (R228), by the value that STEAL has now (log entry 98). -/
def State.stolen (s : State) (x : Stitch) : Bool :=
  let n := bits (s.ctx x.ctx).circExp 15 0
  x.hold && n != 0 && decide (x.captured + n ≤ s.revolution)

/-- The hold record of a warp for a handle. -/
def Warp.holdOf (w : Warp) (h : Word) : Option HoldRec := w.holds.find? fun (r : HoldRec) => r.handle == h

/-- A warp holds a stitch: its record's serial is the stitch's and the hold stands (R226). -/
def Warp.holdsStitch (w : Warp) (h : Word) (x : Stitch) : Bool :=
  match w.holdOf h with
  | some r => x.hold && x.serial == r.serial
  | none => false

/-- The theft of a hold that is due (R228). -/
def State.steal (s : State) (p : Nat) : State :=
  match (s.ring.at p).stitch with
  | some x => if s.stolen x then s.setStitch p (some { x with hold := false }) else s
  | none => s

/-- HOLD_THEFT (position): the STEAL-th revolution after a capture begins and the hold is cleared (R228). A pass of the
position looks first, so no pass sees a hold that is past its time. -/
def execHoldTheft (s : State) : Host.Outcome State Fault Refusal := .next (s.steal (s.arg 0))

/-! ### Requests -/

/-- A request that waits for its pass; its slot is blocked (R226). -/
def State.circReq (s : State) (a : Actx) (m : Mask) (kind : CircKind) (h : Word) (dst : BitVec 8) : State :=
  let (id, s1) := (s.loseIdemp a).fresh
  let s2 := s1.blockSlot a
  { s2 with ring := { s2.ring with reqs := s2.ring.reqs ++
      [({ id := id, block := a.bid, warp := a.wi, slot := a.slot, core := a.core, ctx := a.blk.ctx, kind := kind
          handle := h, dst := dst.toNat, active := m, claimed := false, passed := false, mine := false } : CircReq)] } }

/-- The octet of scalar registers from a register (R221). -/
def State.octet (s : State) (a : Actx) (v : BitVec 8) : List Word :=
  (List.range 8).map fun i => s.scalar a (v + BitVec.ofNat 8 i) true

/-- A CIRC instruction over a handle: CIRCFAULT 0x02 for a malformed one (R225). -/
def State.withHandle (s : State) (o : Opnds) (act : Actx → Mask → Word → State) : Host.Outcome State Fault Refusal :=
  s.run o fun a m =>
    let h := s.scalar a o.a o.sa
    if handleBad h then s.raise a Code.circfault 0x02 else act a m h

/-- CIRC.CAST (R226): the claim goes to the ring's counter. -/
def execCircCast (o : Opnds) (s : State) : Host.Outcome State Fault Refusal :=
  s.run o fun a m => s.circReq a m (.cast (s.octet a o.a)) 0#32 o.d

/-- CIRC.BIND (R226). -/
def execCircBind (o : Opnds) (s : State) : Host.Outcome State Fault Refusal :=
  s.withHandle o fun a m h => s.circReq a m .bind h o.d

/-- The hold records of a warp that a CIRC.CAP of a handle counts: all but the one for that handle which it would drop as lost
(R225, R226; log entry 97 for a handle that names no live stitch now). -/
def State.recordsUsed (s : State) (a : Actx) (h : Word) : Nat :=
  let stands := match s.liveStitch a.blk.ctx h with
    | some x => a.w.holdsStitch h x && !s.stolen x
    | none => false
  (a.w.holds.filter fun (r : HoldRec) => r.handle != h || stands).length

/-- CIRC.CAP (R226): CIRCFAULT 0x03 when all four records are in use (R225). -/
def execCircCap (o : Opnds) (s : State) : Host.Outcome State Fault Refusal :=
  s.withHandle o fun a m h =>
    if s.recordsUsed a h ≥ 4 then s.raise a Code.circfault 0x03
    else s.circReq a m .cap h o.d

/-- CIRC.WR (R226). -/
def execCircWr (o : Opnds) (s : State) : Host.Outcome State Fault Refusal :=
  s.withHandle o fun a m h => s.circReq a m (.wr (o.m 0) (s.octet a o.b) o.c.toNat) h 0#8

/-- CIRC.REL (R226). -/
def execCircRel (o : Opnds) (s : State) : Host.Outcome State Fault Refusal :=
  s.withHandle o fun a m h => s.circReq a m (.rel o.c.toNat) h 0#8

/-- CIRC.PEEK (R226). -/
def execCircPeek (o : Opnds) (s : State) : Host.Outcome State Fault Refusal :=
  s.withHandle o fun a m h => s.circReq a m .peek h o.d

/-- CIRC.TURN (R230): neither slot issues until two revolutions have begun at the core's stop. -/
def execCircTurn (o : Opnds) (s : State) : Host.Outcome State Fault Refusal :=
  s.run o fun a _ =>
    match a.w.turn with
    | some 0 => (s.updWarp a.bid a.wi fun w => { w with gate := none, turn := none }).retire a
    | some _ => s
    | none => (s.loseIdemp a).updWarp a.bid a.wi fun w => { w with gate := some a.slot, turn := some 2 }

/-! ### Claims (R226, R233) -/

/-- A request leaves the ring. -/
def State.dropReq (s : State) (id : Nat) : State :=
  { s with ring := { s.ring with reqs := s.ring.reqs.filter fun r => r.id != id } }

/-- A request as it stands after part of a pass. -/
def State.setReq (s : State) (r : CircReq) : State :=
  { s with ring := { s.ring with reqs := s.ring.reqs.map fun (x : CircReq) => if x.id = r.id then r else x } }

/-- A request is a cast. -/
def CircReq.isCast (r : CircReq) : Bool := match r.kind with | .cast _ => true | _ => false

/-- CAST_CLAIM: the claim counter serves the oldest claim that waits: the quota, then the capacity, or it is claimed
(R226, R233). -/
def execCastClaim (s : State) : Host.Outcome State Fault Refusal :=
  match s.ring.reqs.find? fun r => r.isCast && !r.claimed with
  | none => .next s
  | some r =>
    if (s.ctx r.ctx).circLimit ≤ s.circUsed r.ctx then
      .next ((s.dropReq r.id).answer r.block r.warp r.slot r.dst 0xFFFFFFFE#32)
    else if 1024 ≤ s.circFull then .next ((s.dropReq r.id).answer r.block r.warp r.slot r.dst 0xFFFFFFFF#32)
    else .next (s.setReq { r with claimed := true })

/-! ### Passes (R218, R226, R227) -/

/-- A request captures or binds. -/
def CircReq.takes (r : CircReq) : Bool := match r.kind with | .cap => true | .bind => true | _ => false

/-- The warp without its record for a handle. -/
def Warp.dropHold (w : Warp) (h : Word) : Warp := { w with holds := w.holds.filter fun (r : HoldRec) => r.handle != h }

/-- The warp of a request. -/
def State.reqWarp (s : State) (r : CircReq) : Warp :=
  match s.warp? r.block r.warp with
  | some (_, w) => w
  | none => default

/-- The octet at a register receives a payload, and the instruction retires. -/
def State.giveOctet (s : State) (r : CircReq) (vals : List Word) : State :=
  match s.actxAt r.block r.warp r.slot with
  | none => s
  | some a => ((List.range 8).foldl (fun s i => s.wrSc a (r.dst + i) (nth 0#32 vals i)) s).retire a

/-- Pc receives a result in the request's active lanes, and the instruction retires. -/
def State.givePred (s : State) (r : CircReq) (pc : Nat) (v : Bool) : State :=
  match s.actxAt r.block r.warp r.slot with
  | none => s
  | some a => (s.wrP a pc r.active fun _ => v).retire a

/-- Examination of one request that names a position (R218, R226): CIRCFAULT 0x01 when it names no live stitch; what a
capture or bind finds of its warp's record at its first pass; the reservation. -/
def State.examine (s : State) (p : Nat) (r : CircReq) : State :=
  match s.liveStitch r.ctx r.handle with
  | none => ((s.dropReq r.id).withdraw r.block r.warp r.slot).raiseTrap r.block r.warp r.slot Code.circfault 0x01 0#64 true
  | some x =>
    if !r.takes then s
    else
      let w := s.reqWarp r
      let mine := if r.passed then r.mine else w.holdsStitch r.handle x
      let s1 := if r.passed || mine || (w.holdOf r.handle).isNone then s
        else s.updWarp r.block r.warp fun w => w.dropHold r.handle
      let s2 := s1.setReq { r with passed := true, mine := mine }
      if !mine && x.hold && x.res.isNone then s2.setStitch p (some { x with res := some r.core }) else s2

/-- A request can commit at this pass (R226, R227). A capture that would need a fifth record waits. -/
def State.canCommit (s : State) (r : CircReq) (x : Stitch) : Bool :=
  if r.takes then
    r.mine || (!x.hold && (x.res == none || x.res == some r.core)
      && (r.kind == .bind || decide (((s.reqWarp r).holds.filter fun (h : HoldRec) => h.handle != r.handle).length < 4)))
  else true

/-- The reservation a core's own commit ends. -/
def Stitch.unreserve (x : Stitch) (core : Nat) : Option Nat := if x.res = some core then none else x.res

/-- The commit of a request on a live stitch (R226, R231). -/
def State.commit (s : State) (p : Nat) (r : CircReq) (x : Stitch) : State :=
  let s0 := s.dropReq r.id
  let held := (s.reqWarp r).holdsStitch r.handle x
  match r.kind with
  | .peek => s0.giveOctet r (if s.ring.marks.contains (r.core, p) then x.payload else x.visible)
  | .cap =>
    let y := { x with hold := x.hold || !r.mine, serial := if r.mine then x.serial else x.serial + 1#32
                      captured := if r.mine then x.captured else s.revolution, res := x.unreserve r.core }
    let s1 := if r.mine then s0 else s0.updWarp r.block r.warp fun w =>
      { w.dropHold r.handle with holds := (w.dropHold r.handle).holds ++ [{ handle := r.handle, serial := x.serial + 1#32 }] }
    ((s1.setStitch p (some y)).mark r.core p).giveOctet r x.payload
  | .bind => ((s0.bindOff p).updWarp r.block r.warp fun w => w.dropHold r.handle).giveOctet r x.payload
  | .wr rel vals pc =>
    if held then
      let y := { x with payload := vals, hold := x.hold && !rel }
      let s1 := if rel then s0.updWarp r.block r.warp fun w => w.dropHold r.handle else s0
      ((s1.setStitch p (some y)).mark r.core p).givePred r pc true
    else ((s0.updWarp r.block r.warp fun w => w.dropHold r.handle).mark r.core p).givePred r pc false
  | .rel pc =>
    let s1 := s0.updWarp r.block r.warp fun w => w.dropHold r.handle
    if held then (s1.setStitch p (some { x with hold := false })).givePred r pc true else s1.givePred r pc false
  | .cast _ => s0

/-- A cast occupies a free position (R226, R346). -/
def State.occupy (s : State) (p : Nat) (r : CircReq) (vals : List Word) : State :=
  let x : Stitch := { payload := vals, visible := vals, ctx := r.ctx, hold := false, serial := 0#32, res := none, captured := 0 }
  (((s.dropReq r.id).setStitch p (some x)).mark r.core p).answer r.block r.warp r.slot r.dst
    (w32 (p + (s.ring.at p).gen.toNat * 2048))

/-- A stitch that an ended warp still held is released, its payload unchanged (R223). -/
def State.letGo (s : State) (core p : Nat) : State :=
  let due := s.ring.releases.filter fun r => r.core == core && handlePos r.handle == p
  let s1 := { s with ring := { s.ring with releases := s.ring.releases.filter fun r => !due.contains r } }
  due.foldl (fun s r =>
    match s.liveStitch r.ctx r.handle with
    | some x => if x.hold && x.serial == r.serial then s.setStitch p (some { x with hold := false }) else s
    | none => s) s1

/-- The requests of a core that name a position, in issue order. -/
def State.reqsAt (s : State) (core p : Nat) : List CircReq :=
  s.ring.reqs.filter fun r => r.core == core && !r.isCast && handlePos r.handle == p

/-- A reservation of a core with no capture or bind waiting lapses at the core's stop (R227). -/
def State.lapse (s : State) (core p : Nat) : State :=
  match (s.ring.at p).stitch with
  | some x =>
    if x.res = some core ∧ !((s.reqsAt core p).any (·.takes)) then s.setStitch p (some { x with res := none }) else s
  | none => s

/-- One position of a rank passes a core's stop (R218): thefts and releases that are due, the examination of every
request that names it (but one that a trap of its warp has withdrawn meanwhile, R229), and at most one commit; a free position
may take a cast. -/
def State.passPos (s : State) (core p : Nat) : State :=
  let s1 := (s.steal p).letGo core p
  let free := (s1.ring.at p).stitch.isNone
  let s2 := ((s1.reqsAt core p).foldl (fun s r => if s.ring.reqs.any (·.id == r.id) then s.examine p r else s) s1).lapse core p
  if free then
    match s2.ring.reqs.find? fun r => r.isCast && r.claimed && r.core == core with
    | some r => (match r.kind with | .cast vals => s2.occupy p r vals | _ => s2)
    | none => s2
  else
    match (s2.ring.at p).stitch with
    | none => s2
    | some x =>
      match (s2.reqsAt core p).find? fun r => s2.canCommit r x with
      | some r => s2.commit p r x
      | none => s2

/-- Rank 0 passes a core's stop: each CIRC.TURN there has seen one more revolution begin (R230). -/
def State.passTurns (s : State) (core : Nat) : State :=
  { s with blocks := s.blocks.map fun (b : Block) =>
      if b.loc == .core core then { b with warps := b.warps.map fun (w : Warp) => { w with turn := w.turn.map (· - 1) } } else b }

/-- The pass of a core's stop at this tick, if it has not been made (R218). -/
def State.passStop (s : State) (core : Nat) : State :=
  if s.ring.stopsDone.contains core || core ≥ 256 || (s.ring.seamDone && core = 0) then s
  else
    let k := s.rankAt core
    let s1 := [0, 1, 2, 3].foldl (fun s i => s.passPos core (4 * k + i)) s
    let s2 := if k = 0 then s1.passTurns core else s1
    { s2 with ring := { s2.ring with stopsDone := core :: s2.ring.stopsDone } }

/-- STOP_PASS (core): a rank passes a core's stop (R218). -/
def execStopPass (s : State) : Host.Outcome State Fault Refusal := .next (s.passStop (s.arg 0))

/-- The seam takes the payloads of a rank's stitches and clears the rank's marks (R231). -/
def State.seam (s : State) (k : Nat) : State :=
  { s with ring := { s.ring with
      pos := s.ring.pos.zipIdx.map fun (x : RingPos × Nat) =>
        if x.2 / 4 = k then { x.1 with stitch := x.1.stitch.map fun (y : Stitch) => { y with visible := y.payload } } else x.1
      marks := s.ring.marks.filter fun m => m.2 / 4 != k
      seamDone := true } }

/-- The pass of the seam at this tick, after core 0's stop (R231). -/
def State.passSeam (s : State) : State :=
  if s.ring.seamDone then s else let s1 := s.passStop 0; s1.seam (s1.ring.tick % 320)

/-- SEAM_PASS: a rank passes the seam (R231). -/
def execSeamPass (s : State) : Host.Outcome State Fault Refusal := .next s.passSeam

/-- WARP_END_RELEASE (core, position): the release of an ended warp's stitch, at a pass of its core's stop (R223). -/
def execWarpEndRelease (s : State) : Host.Outcome State Fault Refusal :=
  let core := s.arg 0
  if s.arg 1 / 4 = s.rankAt core ∧ !(s.ring.stopsDone.contains core) then .next ((s.steal (s.arg 1)).letGo core (s.arg 1))
  else .next s

/-- One tick of the ring's clock: the passes of this tick that have not been made are made, and time advances (R218). -/
def State.ringTick (s : State) : State :=
  let s1 := ((List.range 256).foldl (fun s c => s.passStop c) s).passSeam
  { s1 with ring := { s1.ring with tick := s1.ring.tick + 1, stopsDone := [], seamDone := false } }

end Sys2Proof.Machine
end

