-- ==== Sys2Proof/Machine/Matrix.lean ====
section
/-!
DEFINITION. The instructions over shape registers, tiles and accumulator lines (R235 to R256), with the event TILE_WRITE.
-/
namespace Sys2Proof.Machine
open Sys2Proof

/-! ### Shape registers (R236, R247 to R249) -/

/-- The warp with a shape register replaced. -/
def Warp.setShape (w : Warp) (n : Nat) (x : Shape) : Warp := { w with shapes := setNth w.shapes n x }

/-- SETSHAPE beyond its request (R247). -/
def State.setShape (s : State) (o : Opnds) (req : Actx → Nat × Nat × Nat) : Host.Outcome State Fault Refusal :=
  s.run o fun a _ =>
    let (rm, rn, rk) := req a
    let n := bits o.mod 5 3
    if rm = 0 ∨ rn = 0 ∨ rk = 0 then
      ((s.updWarp a.bid a.wi fun w => w.setShape n Shape.none).wrSc a o.d.toNat 0#32).retire a
    else
      let x := grant (s.salvaged a.core) (bits o.mod 2 0) rm rn rk
      ((s.updWarp a.bid a.wi fun w => w.setShape n x).wrSc a o.d.toNat (x.word false)).retire a

/-- SETSHAPE, register form (R236, R247). -/
def execSetshapeReg (o : Opnds) (s : State) : Host.Outcome State Fault Refusal :=
  s.setShape o fun a =>
    let r := s.scalar a o.a o.sa
    (bits r 7 0, bits r 15 8, bits r 24 16)

/-- SETSHAPE, immediate form (R244, R247). -/
def execSetshapeImm (o : Opnds) (s : State) : Host.Outcome State Fault Refusal :=
  s.setShape o fun _ => (16 * (bits o.imm16 1 0 + 1), 8 * (bits o.imm16 5 2 + 1), 16 * (bits o.imm16 9 6 + 1))

/-- SETSHAPE.TAIL (R248). -/
def execSetshapeTail (o : Opnds) (s : State) : Host.Outcome State Fault Refusal :=
  s.run o fun a _ =>
    let n := bits o.mod 5 3
    let x := a.w.shape n
    if !x.v then s.raise a Code.illconv 0x02
    else
      let t := s.scalar a o.a o.sa
      let below (v g : Nat) : Nat := if v < g then v else 0
      (s.updWarp a.bid a.wi fun w => w.setShape n { x with
        tm := BitVec.ofNat 7 (below (bits t 7 0) x.gm.toNat), tn := BitVec.ofNat 8 (below (bits t 15 8) x.gn.toNat)
        tk := BitVec.ofNat 9 (below (bits t 24 16) x.gk.toNat) }).retire a

/-- GETSHAPE (R249): .GRANT clears CHG. -/
def execGetshape (sel : ShapeSel) (o : Opnds) (s : State) : Host.Outcome State Fault Refusal :=
  s.run o fun a _ =>
    let n := bits o.mod 5 3
    let x := a.w.shape n
    let v : Word :=
      if !x.v then 0#32
      else
        match sel with
        | .grant => x.word x.chg
        | .tail => w32 (dimWord x.tm.toNat x.tn.toNat x.tk.toNat)
        | .req => w32 (dimWord x.reqM.toNat x.reqN.toNat x.reqK.toNat)
    let s1 := match sel with
      | .grant => s.updWarp a.bid a.wi fun w => w.setShape n { x with chg := false }
      | _ => s
    (s1.wrSc a o.d.toNat v).retire a

/-! ### MMA and MMAS (R246, R250, R251) -/

/-- Registers of a run, by number. -/
def runOf (base n : Nat) : List Nat := (List.range n).map (base + ·)

/-- The fragment and scale registers of an MMA or MMAS (R240). -/
def matRegs (o : Opnds) (scaled : Bool) (x : Shape) (bs : Nat) : List Nat :=
  runOf o.a.toNat (x.ra + (if scaled then x.rsa bs else 0)) ++ runOf o.b.toNat (x.rb + (if scaled then x.rsb bs else 0))

/-- MMA and MMAS (R246, R250, R251): the traps in their order, a wait for results still to come, and the tile in its
unit. -/
def State.matrix (s : State) (o : Opnds) (scaled : Bool) : Host.Outcome State Fault Refusal :=
  s.run o fun a m =>
    let n := bits o.mod 2 0
    let x := a.w.shape n
    let f0 := s.val a o.srcC 0
    let bs := blockSize f0
    let regs := matRegs o scaled x bs
    if m ≠ BitVec.allOnes 32 then s.raise a Code.illconv 0x01
    else if !x.v then s.raise a Code.illconv 0x02
    else if x.chg then s.raise a Code.shchg n
    else if !(a.w.hasRun o.a.toNat (x.ra + (if scaled then x.rsa bs else 0))
        && a.w.hasRun o.b.toNat (x.rb + (if scaled then x.rsb bs else 0))) then s.raise a Code.illconv 0x05
    else if mmaBase o + x.lines > s.accLines a.blk then s.raise a Code.illconv 0x03
    else if s.pmatHolds a.bid a.wi regs || s.tileHolds a.bid a.wi (mmaBase o) x.lines then s
    else if s.anyPx a m [o.srcC] || regs.any fun r => (a.w.vreg r).lanes.any (·.px) then s.raise a Code.pxuse 0x01
    else
      match (lanesOf m).find? fun l => s.val a o.srcC l != f0 with
      | some l => s.raise a Code.fmtdiv l
      | none =>
        if !formatOk scaled x.fmt.toNat f0 then s.raise a Code.illconv 0x04
        else (s.pushOp a none none (.tile o scaled x f0 ((List.range 240).map a.w.vreg))).retire a

/-- MMA. -/
def execMma (o : Opnds) (s : State) : Host.Outcome State Fault Refusal := s.matrix o false
/-- MMAS. -/
def execMmas (o : Opnds) (s : State) : Host.Outcome State Fault Refusal := s.matrix o true

/-- TILE_WRITE (operation): the finished tile is written to the accumulator lines as one event, over the lines as they then
stand and behind the warp's earlier accesses to them and to scratchpad (R199, R251, R256). -/
def execTileWrite (s : State) : Host.Outcome State Fault Refusal :=
  match s.op? (s.arg 0) with
  | none => .next s
  | some op =>
    match op.kind with
    | .tile _ _ _ _ _ =>
      match s.spadTurn op with
      | (s1, some y) =>
        (match y.kind with
         | .tile _ _ _ _ _ => .next s1
         | _ => .next (s1.finishOp op))
      | (s1, none) => .next s1
    | _ => .next s

/-! ### Accumulator lines (R252 to R254) -/

/-- An access to lines of the block: ILLCONV 0x03 beyond them, a wait for tiles still to be written to them (R34), and its
place behind the warp's earlier accesses to lines and to scratchpad (R256). -/
def State.withLines (s : State) (a : Actx) (lo n : Nat) (act : State → State) : State :=
  if lo + n > s.accLines a.blk then s.raise a Code.illconv 0x03
  else if s.tileHolds a.bid a.wi lo n then s
  else s.behindSpad a act

/-- A word of a block's lines as they now stand. -/
def State.accNow (s : State) (bid i : Nat) : Word := match s.block? bid with | some b => b.accWord i | none => 0#32

/-- ACCZ (R252). -/
def execAccz (o : Opnds) (s : State) : Host.Outcome State Fault Refusal :=
  s.run o fun a _ =>
    let lo := o.imm16.toNat
    let n := o.d.toNat + 1
    s.withLines a lo n fun s => (s.fresh.2.putAcc (MemTag.warp a.bid a.wi a.core s.nextId) a.bid false
      ((List.range (32 * n)).map fun i => (32 * lo + i, 0#32))).retire a

/-- ACCLD beyond its lines and reading (R253): the lines are read as one access when it issues. -/
def State.accLoad (s : State) (o : Opnds) (line : Actx → Nat) (f : Actx → Word → Word) :
    Host.Outcome State Fault Refusal :=
  s.counted o fun a m =>
    let n := bits o.mod 2 0 + 1
    let lo := line a
    s.withLines a lo n fun s =>
      let ws : List RegWrite := if o.d = 0xF3#8 then [] else (List.range n).flatMap fun i => (lanesOf m).map fun l =>
        .lane (o.d.toNat + i) l (f a (s.accNow a.bid (32 * (lo + i) + l)))
      ((s.noteAcc (MemTag.warp a.bid a.wi a.core s.nextId) a.bid
        ((List.range n).flatMap fun i => (lanesOf m).map fun l => 32 * (lo + i) + l) []).startOp a o (.done ws)).retire a

/-- ACCLD. -/
def execAccld (o : Opnds) (s : State) : Host.Outcome State Fault Refusal :=
  s.accLoad o (fun _ => o.imm16.toNat) fun _ v => v

/-- ACCLD.DEC. -/
def execAccldDec (o : Opnds) (s : State) : Host.Outcome State Fault Refusal :=
  s.accLoad o (fun _ => o.imm16.toNat) fun _ v => BitVec.ofInt 32 (rxdec v.toNat)

/-- ACCLD.TSCALE (R59). -/
def execAccldTscale (o : Opnds) (s : State) : Host.Outcome State Fault Refusal :=
  s.accLoad o (fun a => (s.scalar a o.a o.sa).toNat) fun a v =>
    let x (u : Word) : FVal := FloatFmt.fp32.val u.toNat
    w32 (FloatFmt.fp32.enc (((x v).mul (x (s.scalar a o.b o.sb))).mul (x (s.scalar a o.c o.sc))) .rne false false)

/-- Lane l of source register i of an ACCST. The run is read as the register file reads it, of which R254 says nothing past its end:
a scalar run that passes S95 reads system scalars, and 0 past 0x6F, and ZERO, LANE and WARPID repeat for every line (log entry
108). -/
def State.accSource (s : State) (a : Actx) (o : Opnds) (i l : Nat) : KVal :=
  let r := a.w.resolve o.a o.sa
  if r.1 ≥ 0xF0 && !r.2 then s.rdReg a r.1 r.2 l else s.rdReg a (r.1 + i) r.2 l

/-- ACCST (R254). PXUSE comes before ILLCONV 0x03, an order that R246 gives for MMA and MMAS only, and there the other way round:
the model's choice (log entry 107). -/
def execAccst (o : Opnds) (s : State) : Host.Outcome State Fault Refusal :=
  s.run o fun a m =>
    let n := bits o.mod 2 0 + 1
    let lo := o.imm16.toNat
    if (lanesOf m).any fun l => (List.range n).any fun i => (s.accSource a o i l).px then s.raise a Code.pxuse 0x01
    else
      s.withLines a lo n fun s1 => (s1.fresh.2.putAcc (MemTag.warp a.bid a.wi a.core s1.nextId) a.bid false
        ((List.range n).flatMap fun i => (lanesOf m).map fun l =>
          (32 * (lo + i) + l, (s.accSource a o i l).val))).retire a

/-- ACCST.SP (R254). R254 names no address for TRAP_ADDR of its MISALIGN and DFAULT, which would then be 0 by R305: the model's choice
is the value of Sa (log entry 104). -/
def execAccstSp (o : Opnds) (s : State) : Host.Outcome State Fault Refusal :=
  s.counted o fun a _ =>
    let n := bits o.mod 2 0 + 1
    let lo := o.imm16.toNat
    let x := (s.scalar a o.a o.sa).toNat
    if x % 4 ≠ 0 then s.raiseAt a Code.misalign 0 (BitVec.ofNat 64 x)
    else if x + 128 * n > s.spadSize a.blk then s.raiseAt a Code.dfault 0x07 (BitVec.ofNat 64 x)
    else
      s.withLines a lo n fun s =>
        let t := MemTag.warp a.bid a.wi a.core s.nextId
        let s1 := s.noteAcc t a.bid ((List.range (32 * n)).map (32 * lo + ·)) []
        (((s1.noteSpad t a.bid [] ((List.range (128 * n)).map (x + ·))).spadWrite a.bid x
          ((List.range (32 * n)).flatMap fun i => leBytes 4 (s.accNow a.bid (32 * lo + i)).toNat)).startOp a o (.done [])).retire a

/-! ### FRAGLD (R255) -/

/-- What a part of FRAGLD fills: rows and columns of the fragment, those kept, the element width, and whether elements
are packed bits of a row. -/
def fragDims (part : FragPart) (x : Shape) (bs : Nat) : Nat × Nat × Nat × Nat × Nat :=
  match part with
  | .a => (x.gm.toNat, x.gk.toNat, x.rows, x.dep, matWidth x.fmt.toNat)
  | .b => (x.gn.toNat, x.gk.toNat, x.cols, x.dep, matWidth x.fmt.toNat)
  | .scA => (x.gm.toNat, x.blocks bs, x.rows, upDiv x.dep bs, 8)
  | .scB => (x.gn.toNat, x.blocks bs, x.cols, upDiv x.dep bs, 8)

/-- Registers a part fills (R240, R255). -/
def fragRegs (part : FragPart) (x : Shape) (bs : Nat) : Nat :=
  match part with | .a => x.ra | .b => x.rb | .scA => x.rsa bs | .scB => x.rsb bs

/-- Word `i` of the fragment: its elements from scratchpad rows, zero where they are not kept (R255). -/
def State.fragWord (s : State) (bid : Nat) (dims : Nat × Nat × Nat × Nat × Nat) (off pitch i : Nat) : Word :=
  let (nr, nc, kr, kc, w) := dims
  w32 ((List.range (32 / w)).foldl (fun acc e =>
    let idx := i * (32 / w) + e
    let r := idx / nc
    let c := idx % nc
    let v := if r < nr ∧ r < kr ∧ c < kc then
        leNat (s.spadRead bid (off + r * pitch + c * w / 8) (max 1 (w / 8))) / 2 ^ (c * w % 8) % 2 ^ w
      else 0
    acc + v * 2 ^ (w * e)) 0)

/-- The scratchpad bytes that a FRAGLD reads: its kept rows. -/
def fragBytes (dims : Nat × Nat × Nat × Nat × Nat) (off pitch : Nat) : List Nat :=
  (List.range dims.2.2.1).flatMap fun r =>
    (List.range (upDiv (dims.2.2.2.1 * dims.2.2.2.2) 8)).map fun c => off + r * pitch + c

/-- FRAGLD (R246, R255): the traps in their order; scratchpad is read when it issues, behind the warp's earlier accesses to
it (R192). No rule names an address for TRAP_ADDR of its MISALIGN and DFAULT, which would then be 0 by R305: the model's choice is o
or p, whichever fails, and the start of the first row that ends beyond the scratchpad (log entry 104). -/
def execFragld (part : FragPart) (o : Opnds) (s : State) : Host.Outcome State Fault Refusal :=
  s.counted o fun a m =>
    let n := bits o.mod 5 3
    let x := a.w.shape n
    let bs := if o.m 0 then 16 else 32
    let off := (s.scalar a o.a o.sa).toNat
    let pitch := (s.scalar a o.b o.sb).toNat
    let dims := fragDims part x bs
    let regs := fragRegs part x bs
    let beyond (r : Nat) : Bool := decide (off + r * pitch + upDiv (dims.2.2.2.1 * dims.2.2.2.2) 8 > s.spadSize a.blk)
    if m ≠ BitVec.allOnes 32 then s.raise a Code.illconv 0x01
    else if !x.v then s.raise a Code.illconv 0x02
    else if x.chg then s.raise a Code.shchg n
    else if o.d ≠ 0xF3#8 && !a.w.hasRun o.d.toNat regs then s.raise a Code.illconv 0x05
    else if s.pmatHolds a.bid a.wi (runOf o.d.toNat regs) then s
    else if off % 4 ≠ 0 then s.raiseAt a Code.misalign 0 (BitVec.ofNat 64 off)
    else if pitch % 4 ≠ 0 then s.raiseAt a Code.misalign 0 (BitVec.ofNat 64 pitch)
    else
      match (List.range dims.2.2.1).find? beyond with
      | some r => s.raiseAt a Code.dfault 0x07 (BitVec.ofNat 64 (off + r * pitch))
      | none =>
        s.behindSpad a fun s =>
          let ws : List RegWrite := if o.d = 0xF3#8 then [] else (List.range (32 * regs)).map fun i =>
            .lane (o.d.toNat + i / 32) (i % 32) (s.fragWord a.bid dims off pitch i)
          ((s.noteSpad (MemTag.warp a.bid a.wi a.core s.nextId) a.bid (distinct (fragBytes dims off pitch)) []).startOp a o
            (.done ws)).retire a

end Sys2Proof.Machine
end

