-- ==== Sys2Proof/Machine/Waveguides.lean ====
section
/-!
DEFINITION. The Horebry waveguides (R351, R354): who writes each, in which order, and the flits that stations queue for them,
those that base dies send for proxies among them.
-/
namespace Sys2Proof.Machine
open Sys2Proof

/-- The writers of a waveguide in burgee order (R351): cluster k is station k, base die d is 32 + d, the I/O unit is 40 and
slice s is 64 + s. -/
def stationsOf (id : Nat) : List Nat :=
  if id < 64 then List.range 41
  else
    let k := (id - 64) / 16
    let w := (id - 64) % 16
    (List.range 4).map (fun i => 64 + w + 16 * i)
      ++ (List.range 32).filter (fun j => j != k && j % 16 == w)
      ++ [32 + w % 8]

/-- Wavelengths of a waveguide at full width (R351). -/
def fullWidth (id : Nat) : Nat := if id < 64 then 16 else 8

/-- A waveguide as bring-up leaves it: at full width, its burgee at its first station (log entry 7). -/
def Waveguide.fresh (id : Nat) : Waveguide :=
  { id := id, burgee := nth 0 (stationsOf id) 0, demand := [], sent := [], wavelengths := fullWidth id, unfurlAt := none
    idleSince := 0 }

/-- A waveguide. -/
def State.waveguide (s : State) (id : Nat) : Waveguide := (s.waveguides.find? fun w => w.id == id).getD (Waveguide.fresh id)

/-- The state with a waveguide replaced. -/
def State.setWaveguide (s : State) (w : Waveguide) : State :=
  if s.waveguides.any fun x => x.id == w.id then
    { s with waveguides := s.waveguides.map fun (x : Waveguide) => if x.id = w.id then w else x }
  else { s with waveguides := s.waveguides ++ [w] }

/-- There is a waveguide of this number (R351). -/
def isWaveguide (id : Nat) : Bool := decide (id < 64 + 16 * 32)

/-- The station after another in burgee order. -/
def nextStation (id st : Nat) : Nat :=
  let l := stationsOf id
  nth 0 l (((l.findIdx? (· == st)).getD 0 + 1) % l.length)

/-- An unfurl starts, unless one is under way or the waveguide is at full width (R354). -/
def Waveguide.wakeUp (w : Waveguide) (now : Nat) : Waveguide :=
  if w.wavelengths < fullWidth w.id ∧ w.unfurlAt.isNone then { w with unfurlAt := some now } else w

/-- A station queues flits for a waveguide it writes; demand on a furled waveguide starts an unfurl (R351, R354). -/
def State.demandFlits (s : State) (id st n : Nat) : State :=
  if isWaveguide id && (stationsOf id).contains st then
    let w := s.waveguide id
    let w1 := { w with demand := w.demand ++ (List.range n).map fun i => (st, s.nextId + i) }
    ({ s with nextId := s.nextId + n }).setWaveguide (w1.wakeUp s.ns)
  else s

/-- A station queues the flits of one request for a waveguide. -/
def State.sendFlit (s : State) (id st flit : Nat) (n : Nat := 1) : State :=
  let w := s.waveguide id
  s.setWaveguide ({ w with demand := w.demand ++ List.replicate n (st, flit) }.wakeUp s.ns)

/-- Flits of 64 bytes that carry a number of words, one at least (R351). -/
def flitCount (words : Nat) : Nat := max 1 ((4 * words + 63) / 64)

/-- The flits of a request that were queued for a waveguide have been sent. -/
def State.flitSent (s : State) (id flit : Nat) : Bool := !((s.waveguide id).demand.any fun x => x.2 == flit)

/-- The waveguide over which the base die of a home replies to a core: one of its two of the core's cluster (R351; log entry 7
for which of them). -/
def replyWave (home core : Nat) : Nat :=
  64 + 16 * clusterOf core + (if home % 2 = 0 then home / 32 else home / 32 + 8)

/-- A base die replies to a core: a completion, a materialised value, a crossing bit, an error status, a grant or refusal of chunks,
or the confirmation or refusal of an away copy (R262, R266, R351). -/
def State.replyFlit (s : State) (home core flit : Nat) (n : Nat := 1) : State :=
  s.sendFlit (replyWave home core) (32 + home / 32) flit n

/-- A copy travels to another home on the home waveguide of the slice of its channel (R266, R351). -/
def State.copyFlit (s : State) (srcHome home flit n : Nat) : State := s.sendFlit (home % 64) (32 + srcHome / 32) flit n

end Sys2Proof.Machine
end

