-- ==== Sys2Proof/Machine/Proxy.lean ====
section
/-!
DEFINITION. The proxy instructions and the work of proxy homes (R258 to R282), with the events PROXY_OPERATION,
PROXY_COMPLETION, PROXY_COPY, PROXY_DROP, PLD_SNAPSHOT, PROXY_CROSSING, CHUNK_REQUEST, CHUNK_GRANT and CHUNK_RETURN.
-/
namespace Sys2Proof.Machine
open Sys2Proof

/-! ### PLD (R274) -/

/-- The words of a proxy a PLD makes: 2 to the extent. -/
def pldWords (o : Opnds) : Nat := 2 ^ bits o.mod 5 3

/-- An address of a PLD is not a multiple of 4, or its bytes leave their 4 KiB granule (R274). -/
def pldMisaligned (n : Nat) (x : Int) : Bool := x % 4 != 0 || x / 4096 != (x + n - 1) / 4096

/-- The lost home of the lowest lane whose granule lies at one, or a lane whose address is in a window: what stops a
PLD whose pages translate, in lane order (R271, R274). -/
def State.pldBlocked (s : State) (a : Actx) : List Nat → Option State
  | [] => none
  | pa :: rest =>
    if inWindow pa then some (s.raise a Code.pxuse 0x05)
    else if (s.ctx a.blk.ctx).lost (channelOf pa) then some (s.raise a Code.pxlost (channelOf pa))
    else State.pldBlocked s a rest

/-- PLD with its virtual and physical addresses known, one of each for each active lane: one run for each distinct address, the
handles, and the snapshots (R261, R264, R274). The access of each lane counts for its page (R187, R316), and an area that the device
keeps for a warp is misused (R67, R306). -/
def State.pldTake (s : State) (a : Actx) (o : Opnds) (fmt : Nat) (m : Mask) (vas pas : List Nat) : State :=
  let ext := bits o.mod 5 3
  let zero := o.d == 0xF3#8
  let lanes := (lanesOf m).zip pas
  let places := distinct pas
  let count (pa : Nat) : Nat := if zero then 1 else (pas.filter (· == pa)).length
  let runs := places.map fun pa => (channelOf pa, ext, count pa)
  match s.takeRuns a.core a.blk.ctx runs with
  | .error home => s.askChunks a home runs
  | .ok (slots, s0) =>
    let s1 := ((vas.zip pas).foldl (fun (s : State) x => s.noteHits a.core a.blk.ctx [x]) s0).misuse a.blk.ctx
      (vas.flatMap fun va => [va, va + 4 * pldWords o - 1])
    let got := places.zip slots
    let group := s1.nextId
    let s2 := got.foldl (fun (s : State) (x : Nat × Nat) =>
      s.pushReq a.core (channelOf x.1) a.blk.ctx a.bid a.wi a.slot (.snapshot x.1 (pldWords o) x.2 group)) s1
    let handle (pa : Nat) : Word :=
      match got.find? fun x => x.1 == pa with
      | some (_, slot) => mkProxy (channelOf pa) slot ext fmt true
      | none => 0#32
    if zero then (s2.dropRefs a.core a.blk.ctx a.bid a.wi (places.map handle)).retire a
    else
      (s2.wrVec a o.d.toNat m fun l =>
        match lanes.find? fun x => x.1 == l with
        | some (_, pa) => { val := handle pa, px := true }
        | none => KVal.plain 0#32).retire a

/-- PLD (R274): PXUSE, MISALIGN, the extent, the translation of every page, windows and lost homes, in that order. TRAP_ADDR of
MISALIGN and of the extent is the address of the lowest lane that fails (log entry 104). -/
def State.pld (s : State) (fmt : BitVec 3) (o : Opnds) (imm : Bool) : Host.Outcome State Fault Refusal :=
  s.run o fun a m =>
    let n := 4 * pldWords o
    if s.anyPx a m (addrSrcs o imm (o.m 2)) then s.raise a Code.pxuse 0x01
    else
      let x := s.accessAddr a o imm (o.m 2)
      match firstBad (lanesOf m) x (pldMisaligned n), firstBad (lanesOf m) x fun y => decide (y < 0) || decide (2 ^ 57 < y + n) with
      | some y, _ => s.raiseAt a Code.misalign 0 (BitVec.ofInt 64 y)
      | none, some y => s.raiseAt a Code.dfault 0x03 (BitVec.ofInt 64 y)
      | none, none =>
        let vas := (lanesOf m).map fun l => (x l).toNat
        match s.translateList a.core a.blk.ctx .read vas with
        | (.error (va, d), s1) => s1.dataFault a va d false
        | (.ok pas, s1) =>
          match s1.pldBlocked a pas with
          | some s2 => s2
          | none => s1.pldTake a o fmt.toNat m vas pas

/-- PLD, register form. -/
def execPldReg (fmt : BitVec 3) (o : Opnds) (s : State) : Host.Outcome State Fault Refusal := s.pld fmt o false
/-- PLD, immediate form. -/
def execPldImm (fmt : BitVec 3) (o : Opnds) (s : State) : Host.Outcome State Fault Refusal := s.pld fmt o true

/-! ### PMAT and PMAT.S (R275, R276) -/

/-- The lost home of the lowest listed lane whose handle names one (R271). -/
def State.lostAmong (s : State) (a : Actx) (ks : List KVal) : Option Nat :=
  ((ks.filter (·.px)).map fun k => pxHome k.val).find? fun h => (s.ctx a.blk.ctx).lost h

/-- An operation in flight asks each home for its lanes (R267). -/
def State.askLanes (s : State) (a : Actx) (op : Nat) (ls : List MatLane) : State :=
  ls.foldl (fun (s : State) (x : MatLane) => s.pushReq a.core x.home a.blk.ctx a.bid a.wi a.slot (.mat op x.lane)) s

/-- A lane's handle as the lane of a materialisation. -/
def matLane (l : Nat) (w : Word) (keep : List (Nat × Nat)) : MatLane :=
  { lane := l, home := pxHome w, slot := pxSlot w, ext := pxExt w, keep := keep }

/-- PMAT (R275): D receives every lane when the last value has crossed. -/
def execPmat (o : Opnds) (s : State) : Host.Outcome State Fault Refusal :=
  s.run o fun a m =>
    let ls := lanesOf m
    let k (l : Nat) : KVal := s.rd a o.a o.sa l
    if ls.any fun l => (k l).px && pxExt (k l).val != 0 then s.raise a Code.pxuse 0x03
    else
      match s.lostAmong a (ls.map k) with
      | some h => s.raise a Code.pxlost h
      | none =>
        let px := ls.filter fun l => (k l).px
        if px.isEmpty || o.d = 0xF3#8 then ((s.wr a o.d false m fun l => (k l).val).retire a)
        else
          let lanes := px.map fun l => matLane l (k l).val []
          let got := (ls.filter fun l => !(k l).px).map fun l => (l, (k l).val)
          let s1 := s.pushOp a none none (.pmat o.d.toNat lanes got)
          (s1.askLanes a s.nextId lanes).retire a

/-- The bytes that a lane of a PMAT.S writes, each by its place in the value and in scratchpad (R276). -/
def laneBytes (size off : Nat) : List (Nat × Nat) := (List.range size).map fun i => (i, off + i)

/-- Bytes of a value written to scratchpad where a lane keeps them. -/
def State.spadKept (s : State) (t : MemTag) (bid : Nat) (bs : List Byte) (keep : List (Nat × Nat)) : State :=
  keep.foldl (fun (s : State) (x : Nat × Nat) => s.spadWrite bid x.2 [nth 0#8 bs x.1])
    (s.noteSpad t bid [] (keep.map (·.2)))

/-- A lane of a PMAT.S has written its bytes: the lower lanes still to come leave them as they are (R276). -/
def keepBelow (l : Nat) (written : List (Nat × Nat)) (lanes : List MatLane) : List MatLane :=
  lanes.map fun y => if y.lane < l then { y with keep := y.keep.filter fun x => !written.any fun z => z.2 == x.2 } else y

/-- The plain lanes of a PMAT.S are written, lower lanes first, and the lanes that are still to come know it. -/
def State.plainKept (s : State) (t : MemTag) (bid : Nat) : List (Nat × Word × List (Nat × Nat)) → List MatLane →
    State × List MatLane
  | [], lanes => (s, lanes)
  | (l, v, keep) :: rest, lanes =>
    State.plainKept (s.spadKept t bid (leBytes 4 v.toNat) keep) t bid rest (keepBelow l keep lanes)

/-- PMAT.S (R276): the checks in their order; plain lanes are written at once and the others as they cross, all of them
behind the warp's earlier accesses to scratchpad (R199). TRAP_ADDR of its MISALIGN and DFAULT is the model's choice, the offset of the
lowest lane that fails (log entry 104). -/
def execPmatS (o : Opnds) (s : State) : Host.Outcome State Fault Refusal :=
  s.counted o fun a m =>
    let ls := lanesOf m
    let k (l : Nat) : KVal := s.rd a o.b o.sb l
    let size (l : Nat) : Nat := if (k l).px then 4 * 2 ^ pxExt (k l).val else 4
    let off (l : Nat) : Nat := (s.rd a o.a o.sa l).val.toNat
    if s.anyPx a m [o.srcA] then s.raise a Code.pxuse 0x01
    else
      match ls.find? fun l => off l % 4 != 0, ls.find? fun l => decide (s.spadSize a.blk < off l + size l) with
      | some l, _ => s.raiseAt a Code.misalign 0 (BitVec.ofNat 64 (off l))
      | none, some l => s.raiseAt a Code.dfault 0x07 (BitVec.ofNat 64 (off l))
      | none, none =>
        match s.lostAmong a (ls.map k) with
        | some h => s.raise a Code.pxlost h
        | none =>
          s.behindSpad a fun s0 =>
            let id := s0.nextId
            let keep (l : Nat) : List (Nat × Nat) := laneBytes (size l) (off l)
            let (s1, lanes) := s0.plainKept (MemTag.warp a.bid a.wi a.core id) a.bid
              ((ls.filter fun l => !(k l).px).map fun l => (l, (k l).val, keep l))
              ((ls.filter fun l => (k l).px).map fun l => matLane l (k l).val (keep l))
            ((s1.startOp a o (.pmats lanes)).askLanes a id lanes).retire a

/-! ### PFREE and PQRY (R277, R280) -/

/-- PFREE (R277): the register A names, its latch followed; a specifier that names no register has nothing to free. -/
def execPfree (o : Opnds) (s : State) : Host.Outcome State Fault Refusal :=
  s.run o fun a m =>
    let r := a.w.resolve o.a o.sa
    (if r.2 || r.1 ≥ 0xF0 then s else s.wrVec a r.1 m fun _ => KVal.plain 0#32).retire a

/-- PFREE.P (R277). -/
def execPfreeP (o : Opnds) (s : State) : Host.Outcome State Fault Refusal :=
  s.run o fun a m => (s.wrP a o.a.toNat m fun _ => false).retire a

/-- What PQRY writes for a handle (R280). -/
def pqryWord (lost : Bool) (h : Word) : Word :=
  (h &&& 0xFFFFFFFC#32) ||| (if lost then 2#32 else if pxPend h then 3#32 else 1#32)

/-- PQRY (R280). -/
def execPqry (o : Opnds) (s : State) : Host.Outcome State Fault Refusal :=
  s.run o fun a m =>
    (s.wr a o.d o.sd m fun l =>
      let k := s.rd a o.a o.sa l
      if k.px then pqryWord ((s.ctx a.blk.ctx).lost (pxHome k.val)) k.val else 0#32).retire a

/-- PQRY.P (R280). -/
def execPqryP (o : Opnds) (s : State) : Host.Outcome State Fault Refusal :=
  s.run o fun a m =>
    (s.wr a o.d o.sd m fun l =>
      match (a.w.pred o.a.toNat l).px with
      | some h => pqryWord ((s.ctx a.blk.ctx).lost (pxHome h)) h
      | none => 0#32).retire a

/-! ### PDOT and PRED (R278, R279) -/

/-- The detail of the PXUSE a PDOT raises, the lowest that applies (R265, R278). -/
def pdotDetail (ls : List (KVal × KVal × KVal)) : Option Nat :=
  let both := ls.filter fun x => x.1.px && x.2.1.px
  let extBad := (both.any fun x => extClash [x.1.val, x.2.1.val]) || ls.any fun x => x.2.2.px && pxExt x.2.2.val != 0
  let fmtBad := both.any fun x =>
    pxFmt x.1.val != pxFmt x.2.1.val || !([0, 1, 2, 3, 4, 5, 7, 9].contains (pxFmt x.1.val))
  if extBad then some 0x03
  else if fmtBad then some 0x04
  else if ls.any fun x => !x.1.px || !x.2.1.px then some 0x06
  else none

/-- PDOT (R278). -/
def execPdot (o : Opnds) (s : State) : Host.Outcome State Fault Refusal :=
  s.run o fun a m =>
    let ks (l : Nat) : List KVal := [s.src a o.srcA l, s.src a o.srcB l, s.src a o.srcC l]
    match pdotDetail ((lanesOf m).map fun l => (s.src a o.srcA l, s.src a o.srcB l, s.src a o.srcC l)) with
    | some d => s.raise a Code.pxuse d
    | none => s.capableLanes a m (.reg o.d o.sd) (.pdot 0 o.mod) ks fun _ => 0#32

/-- PRED (R279). -/
def execPred (op : PredOp) (o : Opnds) (s : State) : Host.Outcome State Fault Refusal :=
  s.capable o (.reg o.d o.sd) [o.srcA] (.pred op (o.m 0))

/-! ### The work of a home (R264, R267) -/

/-- A request of R267's list: copies have a rule of their own. -/
def PxKind.ordered : PxKind → Bool
  | .copy _ _ _ _ => false
  | _ => true

/-- No request that the core sent to a home before this one is left there (R267). -/
def State.firstAt (s : State) (r : PxReq) (home : Nat) : Bool :=
  !(s.pxReqs.any fun x => decide (x.id < r.id) && !x.served && x.core == r.core && x.home == home && x.kind.ordered)

/-- The request of an identity. -/
def State.pxReq? (s : State) (id : Nat) : Option PxReq := s.pxReqs.find? fun r => r.id == id

/-- A request changed in place. -/
def State.setPxReq (s : State) (r : PxReq) : State :=
  { s with pxReqs := s.pxReqs.map fun (x : PxReq) => if x.id = r.id then r else x }

/-- A request gone. -/
def State.endReq (s : State) (id : Nat) : State := { s with pxReqs := s.pxReqs.filter fun r => r.id != id }

/-- Free values, one after another. -/
def State.drawWords (s : State) : Nat → List Word × State
  | 0 => ([], s)
  | n + 1 =>
    let (w, s1) := s.draw
    let (ws, s2) := State.drawWords s1 n
    (w :: ws, s2)

/-- Words of a context's run. A handle that outlived its home's reset names no run of its context: its words are free
values (R6, R271). -/
def State.runWords (s : State) (ctx home slot ext : Nat) : List Word × State :=
  match (s.home home).run? slot with
  | some r =>
    if r.ctx = ctx then
      ((List.range (2 ^ ext)).map fun i => cellGet 0#32 (s.home home).words (16 * slot + i), s)
    else s.drawWords (2 ^ ext)
  | none => s.drawWords (2 ^ ext)

/-- The first run at a slot is formed. -/
def markFormed (slot : Nat) : List Run → List Run
  | [] => []
  | r :: rs => if r.slot = slot then { r with formed := true } :: rs else r :: markFormed slot rs

/-- A run receives its words and is formed. -/
def State.formRun (s : State) (home slot : Nat) (ws : List Word) : State :=
  let h := s.home home
  s.setHome home
    { runs := markFormed slot h.runs
      words := ws.zipIdx.foldl (fun m x => cellPut 0#32 m (16 * slot + x.2) x.1) h.words }

/-- The words of each source of an operation. -/
def State.srcWords (s : State) (ctx : Nat) : List PxSrc → List (List Word) × State
  | [] => ([], s)
  | .plain v :: rest =>
    let (ws, s1) := State.srcWords s ctx rest
    ([v] :: ws, s1)
  | .run home slot ext :: rest =>
    let (w, s1) := s.runWords ctx home slot ext
    let (ws, s2) := State.srcWords s1 ctx rest
    (w :: ws, s2)

/-- The extents of A and B differ: R278 demands that they are equal and states no consequence when one is 0 (R6). -/
def pdotUneven (fn : HomeFn) (srcs : List PxSrc) : Bool :=
  match fn, srcs with
  | .pdot _ _, .run _ _ e :: .run _ _ f :: _ => e != f
  | _, _ => false

/-- The sequencer of a channel retires a microinstruction (R298). -/
def State.retireMicro (s : State) (chan : Nat) : State := s.setChan chan { s.chan chan with idle := 0 }

/-- A column command of a channel has waited 10 µs and takes the next burst (R297). -/
def State.bankPromoted (s : State) (chan : Nat) : Bool :=
  match (s.chan chan).waiting with | some t => decide (t + 10000 ≤ s.ns) | none => false

/-- A refresh of a channel has reached its deadline: a targeted one, or that of a row that is not marked as refreshed. The channel
serves it before all else (R296, R297). -/
def State.refreshDue (s : State) (chan : Nat) : Bool :=
  ((s.chan chan).disturb.any fun x => decide (Config.disturbThreshold ≤ x.2))
    || (s.chan chan).due.any fun r => !(s.chan chan).marked.contains r

/-- A read or write of an L2 slice waits at a channel (R297, R356). -/
def State.ordinaryDue (s : State) (chan : Nat) : Bool := s.ports.any fun r => 32 * r.stack + r.chan == chan

/-- The home that serves a request next: a copy is read at its source's before it lands at its own (R266). -/
def PxReq.place (r : PxReq) : Nat :=
  match r.kind with
  | .copy srcHome _ _ _ => if r.data.isEmpty then srcHome else r.home
  | _ => r.home

/-- A proxy operation may be served: no refresh is due, and no ordinary access waits and no column command takes the burst
before it, unless it has waited 2 µs itself (R297). -/
def State.proxyServes (s : State) (r : PxReq) : Bool :=
  !s.refreshDue r.place
    && (decide (r.sent + 2000 ≤ s.ns) || (!s.ordinaryDue r.place && !s.bankPromoted r.place))

/-- A home has done its part of a request: its reply to the core is queued (R264, R351). -/
def State.answered (s : State) (r : PxReq) (data : List Word) : State :=
  ((s.setPxReq { r with served := true, data := data }).retireMicro r.home).replyFlit r.home r.core r.id (flitCount data.length)

/-- The lanes of a materialisation that have yet to come. -/
def OpKind.matLanes : OpKind → List MatLane
  | .pmat _ lanes _ => lanes
  | .pmats lanes => lanes
  | _ => []

/-- The run that a lane of a materialisation reads: home, slot and extent (R275, R276). -/
def State.matRun (s : State) (op lane : Nat) : Option (Nat × Nat × Nat) :=
  ((match s.op? op with
    | some o => o.kind.matLanes
    | none => []).find? fun (x : MatLane) => x.lane == lane).map fun (x : MatLane) => (x.home, x.slot, x.ext)

/-- A home serves a request in its place in the core's order: it forms a result run, or reads the words of a materialisation or
the bit of a crossing, and replies (R74, R264, R267, R275 to R279). -/
def State.proxyOperate (s : State) (id : Nat) : State :=
  match s.pxReq? id with
  | none => s
  | some r =>
    if r.served || !s.firstAt r r.home || !s.proxyServes r then s
    else
      match r.kind with
      | .operate fn srcs slot ext =>
        let (ws, s1) := s.srcWords r.ctx srcs
        let (out, s2) := if pdotUneven fn srcs then s1.drawWords 1 else (fn.run (2 ^ ext) ws, s1)
        (s2.formRun r.home slot out).answered r []
      | .dup src slot ext =>
        let (ws, s1) := s.runWords r.ctx r.home src ext
        (s1.formRun r.home slot ws).answered r []
      | .mat op lane =>
        match s.matRun op lane with
        | some (home, slot, ext) =>
          let (ws, s1) := s.runWords r.ctx home slot ext
          s1.answered r ws
        | none => s.endReq id
      | .cross slot _ =>
        let (ws, s1) := s.runWords r.ctx r.home slot 0
        s1.answered r ws
      | _ => s

/-- PROXY_OPERATION (request): a home forms a capable instruction's result or a copy of a run, or reads what a materialisation
or a crossing asks for (R264, R267). -/
def execProxyOperation (s : State) : Host.Outcome State Fault Refusal := .next (s.proxyOperate (s.arg 0))

/-- A snapshot's bytes are read at one point, in the request's place in its core's order and in its warp's order to
those bytes (R192, R267, R281): as they stood `age` events of the memory log ago, or at the newest time before that which
the order of the warp leaves open (R198). -/
def State.takeSnapshot (s : State) (id : Nat) (age : Nat := 0) : State :=
  match s.pxReq? id with
  | none => s
  | some r =>
    match r.kind with
    | .snapshot _ words slot _ =>
      if r.served || !s.firstAt r r.home || !s.proxyServes r || s.earlierTouch r.id r.block r.warp r.kind.bytes true then s
      else
        let q := MemTag.warp r.block r.warp r.core r.id
        let (bs, s) := s.readAt q r.kind.bytes ((s.readTime q none r.kind.bytes (s.memTime - age)).getD s.memTime)
        let clock := r.kind.bytes.foldl (fun c x => mergeClock c (s.clockOf x)) (List.replicate 12 0)
        let ws := (List.range words).map fun i => w32 (leNat ((bs.drop (4 * i)).take 4))
        let s1 := s.updWarp r.block r.warp fun w => { w with retClock := mergeClock w.retClock clock }
        (s1.formRun r.home slot ws).answered r []
    | _ => s

/-- PLD_SNAPSHOT (request, age): a home takes a PLD's snapshot (R274). -/
def execPldSnapshot (s : State) : Host.Outcome State Fault Refusal := .next (s.takeSnapshot (s.arg 0) (s.arg 1))

/-- A handle with PEND clear where it names this run and is pending (R267). -/
def clearPend (home slot : Nat) (w : Word) : Word :=
  if pxHome w = home ∧ pxSlot w = slot ∧ pxPend w then w &&& 0xFFFFFFFD#32 else w

/-- A warp with the PEND bits of a run's handles clear. -/
def Warp.unpend (home slot : Nat) (w : Warp) : Warp := w.mapHandles (clearPend home slot)

/-- The run a request forms. -/
def PxKind.target : PxKind → Option Nat
  | .snapshot _ _ slot _ => some slot
  | .operate _ _ slot _ => some slot
  | .dup _ slot _ => some slot
  | _ => none

/-- The snapshots of a request's PLD have all been taken (R274). -/
def State.groupServed (s : State) (r : PxReq) : Bool :=
  match r.kind with
  | .snapshot _ _ _ g => !(s.pxReqs.any fun x => !x.served && (match x.kind with | .snapshot _ _ _ h => h == g | _ => false))
  | _ => true

/-- A lane of a materialisation arrives: PMAT writes its register with the last, and PMAT.S writes scratchpad
(R275, R276). -/
def State.arriveLane (s : State) (r : PxReq) (op : Op) (lane : Nat) (lost : Bool) : State :=
  let s0 := s.endReq r.id
  match op.kind with
  | .pmat reg lanes got =>
    match lanes.find? fun x => x.lane == lane with
    | none => s0
    | some _ =>
      let rest := lanes.filter fun y => y.lane != lane
      let got1 := got ++ [(lane, if lost then 0#32 else nth 0#32 r.data 0)]
      if rest.isEmpty then (s0.applyReg op.core op.block op.warp reg got1).finishOp op
      else s0.setOp op.id (.pmat reg rest got1)
  | .pmats lanes =>
    match lanes.find? fun x => x.lane == lane with
    | none => s0
    | some x =>
      let rest := lanes.filter fun y => y.lane != lane
      if lost then s0.setOp op.id (.pmats rest)
      else
        let bytes (i : Nat) (w : Word) : List Byte := leBytes 4 (if x.free then Config.freeWord (s0.drawn + i) else w).toNat
        let s1 := s0.spadKept op.tag op.block (r.data.zipIdx.flatMap fun y => bytes y.2 y.1) x.keep
        { s1 with drawn := if x.free then s1.drawn + 32 else s1.drawn }.setOp op.id (.pmats (keepBelow lane x.keep rest))
  | _ => s0

/-- A request whose home replies to the core (R267, R351). -/
def PxKind.replies : PxKind → Bool
  | .copy _ _ _ _ => false
  | .drop _ => false
  | _ => true

/-- The reply to a request reaches the core: its home has served it, its flit has been sent, and the replies of that home to
earlier requests of the core have come (R267, R351). -/
def State.replyDue (s : State) (r : PxReq) : Bool :=
  r.served && s.flitSent (replyWave r.home r.core) r.id
    && !(s.pxReqs.any fun x => decide (x.id < r.id) && x.core == r.core && x.home == r.home && x.kind.replies)

/-- The run that a request was to form is gone, and its slot has been given to a run that a later request is to form: no lane still
holds the handle of the first (R260, R267). -/
def State.superseded (s : State) (r : PxReq) (slot : Nat) : Bool :=
  s.pxReqs.any fun x => decide (r.id < x.id) && x.home == r.home && x.kind.target == some slot

/-- PROXY_COMPLETION (request): a home's completion reaches the core. PEND clears in the lanes that still hold the
handle (R267), or a materialised lane arrives (R275, R276). -/
def execProxyCompletion (s : State) : Host.Outcome State Fault Refusal :=
  match s.pxReq? (s.arg 0) with
  | none => .next s
  | some r =>
    match r.kind with
    | .mat id lane =>
      if !s.replyDue r then .next s
      else
        match s.op? id with
        | some op =>
          let s1 := s.drainSpad op.block op.warp (op.id - 1) s.ops.length
          if op.kind.onSpad && s1.oldestSpad op.block op.warp != some op then .next s
          else .next (s1.arriveLane r op lane r.lost)
        | none => .next (s.endReq r.id)
    | k =>
      match k.target with
      | some slot =>
        if s.replyDue r && s.groupServed r then
          .next ((if s.superseded r slot then s else s.updWarp r.block r.warp (Warp.unpend r.home slot)).endReq r.id)
        else .next s
      | none => .next s

/-- PROXY_DROP (request): the run's count falls, and at 0 the run is free (R260, R269); a block that has ended leaves its core
with its last drop. -/
def execProxyDrop (s : State) : Host.Outcome State Fault Refusal :=
  match s.pxReq? (s.arg 0) with
  | none => .next s
  | some r =>
    match r.kind with
    | .drop slot =>
      if !s.firstAt r r.home then .next s
      else
        let s1 := s.endReq r.id
        match (s.home r.home).run? slot with
        | none => .next (s1.reap r.block)
        | some x =>
          if x.ctx ≠ r.ctx then .next (s1.reap r.block)
          else if x.count ≤ 1 then
            .next ((s1.setHome r.home { s.home r.home with runs := (s.home r.home).runs.erase x }).reap r.block)
          else .next ((s1.setRun r.home x { x with count := x.count - 1, refs := min x.refs (x.count - 1) }).reap r.block)
    | _ => .next s

/-- One bit of a crossing arrives from its home (R74). -/
def State.crossBit (s : State) (r : PxReq) (lane : Nat) : State :=
  if !s.replyDue r then s
  else
    (s.endReq r.id).updWarp r.block r.warp fun w =>
      match w.path r.pathSlot with
      | some p =>
        match p.wait with
        | .crossing got => w.setWait r.pathSlot (.crossing (got ++ [(lane, (nth 0#32 r.data 0).getLsbD 0)]))
        | _ => w
      | none => w

/-- PROXY_CROSSING (block, warp, slot): the bits of a branch arrive from their homes; with the last the branch issues
with them as its guard (R74). -/
def execProxyCrossing (s : State) : Host.Outcome State Fault Refusal :=
  let mine := s.pxReqs.filter fun r => r.block == s.arg 0 && r.warp == s.arg 1 && r.pathSlot == s.arg 2
  .next (mine.foldl (fun (s : State) (r : PxReq) =>
    match r.kind with
    | .cross _ lane => s.crossBit r lane
    | _ => s) s)

/-! ### Chunks and quotas (R261 to R263) -/

/-- The chunks of a grant that is on its way to the core. -/
def ChunkReq.bases (r : ChunkReq) : List Nat := match r.answer with | .granted bs => bs | _ => []

/-- Slots from `b` on meet a chunk of some core's reservation at a home, or one that the home has granted. -/
def State.reserved (s : State) (home b n : Nat) : Bool :=
  (s.cores.any fun c => c.chunks.any fun k => k.home == home && decide (k.base < b + n) && decide (b < k.base + 8))
    || s.chunkReqs.any fun r => r.home == home && r.bases.any fun k => decide (k < b + n) && decide (b < k + 8)

/-- The lowest of `fuel` aligned groups of `n` slots from group `i` on that a home holds free. -/
def State.freeGroup (s : State) (home n : Nat) : Nat → Nat → Option Nat
  | 0, _ => none
  | fuel + 1, i =>
    if (s.home home).taken (n * i) n || s.reserved home (n * i) n then State.freeGroup s home n fuel (i + 1)
    else some (n * i)

/-- Slots of a context at a home, reserved or in runs (R261). -/
def State.slotsHeld (s : State) (ctx home : Nat) : Nat :=
  let chunks := ((s.cores.filter fun c => c.ctx == some ctx).flatMap fun c => (c.chunks.filter fun k => k.home == home).map (·.base))
    ++ (s.chunkReqs.filter fun r => r.home == home && (s.core r.core).ctx == some ctx).flatMap ChunkReq.bases
  let loose := (s.home home).runs.filter fun r =>
    r.ctx == ctx && !(chunks.any fun k => decide (k ≤ r.slot) && decide (r.slot < k + 8))
  8 * chunks.length + (loose.map fun r => runSlots r.ext).sum

/-- The context may hold `n` slots more at the home; a LIMIT above 32,768 acts as 32,768 (R262, R263). -/
def State.quotaFits (s : State) (ctx home n : Nat) : Bool :=
  decide (s.slotsHeld ctx home + n ≤ min 32768 (bits (s.ctx ctx).pxQuota 15 0))

/-- A home has answered a request for chunks. -/
def State.answerChunks (s : State) (id : Nat) (a : ChunkAnswer) : State :=
  { s with chunkReqs := s.chunkReqs.map fun (x : ChunkReq) => if x.id = id then { x with answer := a } else x }

/-- Chunks granted to a request one after another, beside those in `bases`, or none (R262). -/
def State.grantChunks (s : State) (id ctx home : Nat) (bases : List Nat) : Nat → Option State
  | 0 => some s
  | n + 1 =>
    match s.freeGroup home 8 4096 0 with
    | none => none
    | some base =>
      if s.quotaFits ctx home 8 then
        State.grantChunks (s.answerChunks id (.granted (bases ++ [base]))) id ctx home (bases ++ [base]) n
      else none

/-- A home takes back the unused reservations of every core (R261, R262). -/
def State.reclaim (s : State) (home : Nat) : State :=
  { s with cores := s.cores.map fun (c : Core) => { c with chunks := c.chunks.filter fun k => k.home != home } }

/-- The detail of a refusal: 0x02 when the quota is reached, 0x01 when the store is full (R262, R263). -/
def State.refusal (s : State) (ctx home n : Nat) : Nat := if s.quotaFits ctx home n then 0x01 else 0x02

/-- A home has waited for frees as long as PX_EXP.WAIT says; a BSU cycle is 1 ns (R262, R263). -/
def State.waitedOut (s : State) (ctx start : Nat) : Bool := decide (start + bits (s.ctx ctx).pxExp 15 0 ≤ s.ns)

/-- The slot of a warp issues again. -/
def State.wake (s : State) (b wi slot : Nat) : State := s.updWarp b wi fun w => w.setWait slot .ready

/-- The request of a core for chunks at a home. -/
def State.chunkReq? (s : State) (core home : Nat) (asked : Bool) : Option ChunkReq :=
  s.chunkReqs.find? fun r => r.core == core && r.home == home && r.asked == asked

/-- CHUNK_REQUEST (core, home): the home is asked, and its wait begins (R261, R262). -/
def execChunkRequest (s : State) : Host.Outcome State Fault Refusal :=
  match s.chunkReq? (s.arg 0) (s.arg 1) false with
  | none => .next s
  | some r => .next { s with
      chunkReqs := s.chunkReqs.map fun (x : ChunkReq) => if x = r then { r with asked := true, start := s.ns } else x }

/-- The answer to a request for chunks has come: the core holds the chunks, and the instruction issues again. -/
def State.granted (s : State) (r : ChunkReq) : State :=
  let c := s.core r.core
  let now := s.cycle (clusterOf r.core)
  (({ s with chunkReqs := s.chunkReqs.erase r }).setCore r.core { c with
    chunks := c.chunks ++ r.bases.map fun b => ({ home := r.home, base := b, used := now } : Chunk) }).wake r.block r.warp r.slot

/-- The chunks are refused: PXEXH at the waiting instruction (R262). -/
def State.refused (s : State) (r : ChunkReq) (detail : Nat) : State :=
  (s.granted r).raiseTrap r.block r.warp r.slot Code.pxexh detail 0#64 true

/-- A home answers a request for chunks: it grants them, first as it stands and then with every unused reservation taken back; it
refuses when its wait is over, and waits on otherwise. Its answer leaves for the core (R262, R351). -/
def State.answerReq (s : State) (r : ChunkReq) (ctx : Nat) : State :=
  match s.grantChunks r.id ctx r.home [] r.chunks with
  | some s1 => s1.replyFlit r.home r.core r.id
  | none =>
    let s1 := s.reclaim r.home
    match s1.grantChunks r.id ctx r.home [] r.chunks with
    | some s2 => s2.replyFlit r.home r.core r.id
    | none =>
      if s1.waitedOut ctx r.start then
        (s1.answerChunks r.id (.refused (s1.refusal ctx r.home (8 * r.chunks)))).replyFlit r.home r.core r.id
      else s1

/-- CHUNK_GRANT (core, home): the home answers a request for chunks; and when the flit of its answer has come, the core holds the
chunks, or PXEXH is raised (R262, R351). -/
def execChunkGrant (s : State) : Host.Outcome State Fault Refusal :=
  match s.chunkReq? (s.arg 0) (s.arg 1) true with
  | none => .next s
  | some r =>
    match s.block? r.block with
    | none => .next { s with chunkReqs := s.chunkReqs.erase r }
    | some blk =>
      match r.answer with
      | .none => .next (s.answerReq r blk.ctx)
      | .granted _ => if s.flitSent (replyWave r.home r.core) r.id then .next (s.granted r) else .next s
      | .refused d => if s.flitSent (replyWave r.home r.core) r.id then .next (s.refused r d) else .next s

/-- CHUNK_RETURN (core, home, base): a chunk that has gone unused for 4,096 cycles, or that holds no live run while the
reservation holds more than 16 chunks, goes back (R261). -/
def execChunkReturn (s : State) : Host.Outcome State Fault Refusal :=
  let core := s.arg 0
  let c := s.core core
  match c.chunks.find? fun k => k.home == s.arg 1 && k.base == s.arg 2 with
  | none => .next s
  | some k =>
    let idle := decide (k.used + 4096 ≤ s.cycle (clusterOf core))
    let extra := decide (16 < c.chunks.length) && !(s.home k.home).held k.base 8
    if idle || extra then .next (s.setCore core { c with chunks := c.chunks.erase k }) else .next s

/-! ### Copies from home to home (R266, R267) -/

/-- A slot some of whose copies are yet to be confirmed: not every one has landed with its reply come. -/
def State.awaitsCopies (s : State) (r : PxReq) : Bool :=
  s.pxReqs.any fun x => x.block == r.block && x.warp == r.warp && x.pathSlot == r.pathSlot && !x.kind.ordered
    && (!x.served || x.lost || !s.flitSent (replyWave x.home x.core) x.id)

/-- A copy's words are read at their home and leave its base die (R266, R351). -/
def State.readCopy (s : State) (r : PxReq) (srcHome srcSlot ext : Nat) : State :=
  let (ws, s1) := s.runWords r.ctx srcHome srcSlot ext
  ((s1.setPxReq { r with data := ws }).retireMicro srcHome).copyFlit srcHome r.home r.id (flitCount ws.length)

/-- A copy's flit has come to the slice of its channel, and that slice's port has room to pass it to the destination's base
die (R351, R355, R356; log entry 7). -/
def State.copyPassed (s : State) (r : PxReq) : Bool :=
  s.flitSent (r.home % 64) r.id
    && decide ((s.ports.filter fun x => x.slice == r.home % 64 && x.stack == r.home / 32).length < 8)

/-- A copy lands in a temporary run, and its confirmation leaves for the core (R266, R351). -/
def State.landCopy (s : State) (r : PxReq) (srcHome srcSlot ext slot : Nat) : State :=
  let s1 := (s.addRun r.home { slot := slot, ext := ext, count := 1, refs := 1, ctx := r.ctx, formed := false, temp := true }).formRun
    r.home slot r.data
  ((s1.setPxReq { r with kind := .copy srcHome srcSlot slot ext, served := true }).retireMicro r.home).replyFlit r.home r.core r.id

/-- The home of a copy refuses it, and the refusal leaves for the core (R262, R266, R351). -/
def State.refuseCopy (s : State) (r : PxReq) (detail : Nat) : State :=
  (s.setPxReq { r with served := true, lost := true, data := [BitVec.ofNat 32 detail] }).replyFlit r.home r.core r.id

/-- The answer to a copy has come: with the last confirmation its slot issues again, and a refusal is PXEXH there (R262, R266). -/
def State.copyAnswered (s : State) (r : PxReq) : State :=
  if !s.flitSent (replyWave r.home r.core) r.id then s
  else if r.lost then
    (s.withdraw r.block r.warp r.pathSlot).raiseTrap r.block r.warp r.pathSlot Code.pxexh (nth 0#32 r.data 0).toNat 0#64 true
  else if s.awaitsCopies r || (s.chunkReqs.any fun c => c.block == r.block && c.warp == r.warp && c.slot == r.pathSlot) then s
  else s.wake r.block r.warp r.pathSlot

/-- PROXY_COPY (request): once the source's value is formed, and after every earlier request of the core to the source's
home, the run is read there; when its flits have come it lands in temporary slots of the result's home, and where they cannot be
had the home waits, and refuses under R262; its answer then travels to the core (R266, R267, R351). -/
def State.proxyCopy (s : State) (id : Nat) : State :=
  match s.pxReq? id with
  | none => s
  | some r =>
    match r.kind with
    | .copy srcHome srcSlot _ ext =>
      let unformed := match (s.home srcHome).live? srcSlot with | some x => !x.formed | none => false
      if r.served then s.copyAnswered r
      else if !s.proxyServes r then s
      else if r.data.isEmpty then
        (if !s.firstAt r srcHome || unformed then s else s.readCopy r srcHome srcSlot ext)
      else if !s.copyPassed r then s
      else
        let n := runSlots ext
        let place (s : State) : Option Nat :=
          if s.quotaFits r.ctx r.home n then s.freeGroup r.home n (32768 / n) 0 else none
        match place s with
        | some slot => s.landCopy r srcHome srcSlot ext slot
        | none =>
          let s1 := s.reclaim r.home
          match place s1 with
          | some slot => s1.landCopy r srcHome srcSlot ext slot
          | none =>
            match r.since with
            | none => s1.setPxReq { r with since := some s.ns }
            | some t =>
              if s1.waitedOut r.ctx t then s1.refuseCopy r (s1.refusal r.ctx r.home n) else s1
    | _ => s

/-- PROXY_COPY. -/
def execProxyCopy (s : State) : Host.Outcome State Fault Refusal := .next (s.proxyCopy (s.arg 0))

end Sys2Proof.Machine
end

