-- ==== Sys2Proof/Machine/Bank.lean ====
section
/-!
DEFINITION. Bank-side units (R283 to R303): NCTL, the two threads of a bank kernel, its stops and reports, refresh and
the watchdog, with the events BANK_LAUNCH_START, BANK_CONTEXT_STOP, BANK_CONTEXT_DONE, BSU_WATCHDOG_RESET, REFRESH,
TARGETED_REFRESH and BSU_BURST.
-/
namespace Sys2Proof.Machine
open Sys2Proof

/-! ### Regions (R285) -/

/-- The granules of a 2 MiB span that lie in a channel, ascending (R161, R285). -/
def spanGranules (chan base : Nat) : List Nat :=
  ((List.range 512).map fun g => base + 4096 * g).filter fun pa => channelOf pa == chan

/-- Physical address of a region offset in a channel's view (R285). -/
def regionAddr (region : List Nat) (chan r : Nat) : Nat :=
  let g := r / 4096
  nth 0 (spanGranules chan (nth 0 region (g / 2))) (g % 2) + r % 4096

/-- Row, bank and column of a physical address in its channel (R285). -/
def placeOf (pa : Nat) : Nat × Nat × Nat :=
  let o := channelOffset pa
  (o / 2 ^ 15, o / 2 ^ 10 % 32, o / 2 ^ 6 % 16)

/-- The physical spans of a region, or none where a page fails R285. -/
def State.regionSpans (s : State) (ctx va : Nat) : Nat → Option (List Nat)
  | 0 => some []
  | n + 1 =>
    match s.walk ctx va .write with
    | .error _ => none
    | .ok l =>
      let pa := l.pa + (va - l.base)
      if l.size < 2 ^ 21 || l.win.isSome || !inHbm pa then none
      else (State.regionSpans s ctx (va + 2 ^ 21) n).map fun rest => pa :: rest

/-! ### Contexts and their reports (R287, R292 to R294) -/

/-- The context in a place of a channel. -/
def State.bankCtx? (s : State) (chan cx : Nat) : Option BankCtx := nth none (s.chan chan).cx cx

/-- The state with a place of a channel set. -/
def State.setBank (s : State) (chan cx : Nat) (k : Option BankCtx) : State :=
  s.setChan chan { s.chan chan with cx := setNth (s.chan chan).cx cx k }

/-- An asynchronous trap reaches the owner of a context, whose block still exists (R294). -/
def State.trapOwner (s : State) (l : BankLaunch) (chan code : Nat) : State :=
  s.updWarp l.block l.warp fun w =>
    if w.ended then w else
    { w with async := w.async ++ [{ code := BitVec.ofNat 8 code, detail := BitVec.ofNat 8 chan
                                    addr := BitVec.ofNat 64 l.handle.toNat }] }

/-- The report of a context: an arrival under NOTIFY, or else a trap where one is named (R294). -/
def State.bankReport (s : State) (l : BankLaunch) (chan : Nat) (code : Option Nat) : State :=
  if l.notify then
    (if (s.block? l.block).isSome then (s.noteArrival (l.tag chan s.nextId) l.block l.arr).arriveObj l.block l.arr 1 false else s)
  else match code with
    | some c => s.trapOwner l chan c
    | none => s

/-- The offset of the access that a stop reports: its place, when it lies below the region's bytes (R293). -/
def BankCtx.placeAt (k : BankCtx) (chan : Nat) (r : Word) : Nat × Nat × Nat :=
  if r.toNat < k.launch.region.length * 8192 then placeOf (regionAddr k.launch.region chan r.toNat) else (0, 0, 0)

/-- A thread stops its context: the record is written and the stop reported (R292 to R294). -/
def State.bankStop (s : State) (chan cx : Nat) (k : BankCtx) (cause : Nat) (thread : Bool) (off : Option Word) : State :=
  let k1 := { k with
    state := .stopped, cause := cause, thread := thread
    roff := off.getD 0#32
    place := match off with | some r => k.placeAt chan r | none => (0, 0, 0) }
  ((s.setBank chan cx (some k1)).writeStatus chan k1).bankReport k.launch chan (some Code.bsuStop)

/-- A context ends: its record is written, its place is free, and it reports (R287, R294). -/
def State.bankEnd (s : State) (chan cx : Nat) (k : BankCtx) (st : BankState) : State :=
  let k1 := { k with state := st }
  ((s.setBank chan cx none).writeStatus chan k1).bankReport k.launch chan
    (if st = .reset then some Code.watchdog else none)

/-- A launch takes a free place of a channel and starts; what the L2 holds of its granules there goes to memory first
(R287, R299). -/
def State.bankStart (s : State) (chan cx : Nat) (l : BankLaunch) : State :=
  let s1 := (l.region.flatMap (spanGranules chan)).foldl (fun s pa => s.writeBack pa (pa + 4096) true) s
  let k : BankCtx := { l.context chan with state := .running }
  (s1.setBank chan cx (some k)).writeStatus chan k

/-- A free place of a channel. -/
def Chan.freePlace (c : Chan) : Option Nat := c.cx.findIdx? (·.isNone)

/-- A launch reaches a channel: it starts, or waits its turn (R287). -/
def State.bankArrive (s : State) (l : BankLaunch) (chan : Nat) : State :=
  let c := s.chan chan
  match c.freePlace, c.queue with
  | some cx, [] => s.bankStart chan cx l
  | _, _ => s.setChan chan { c with queue := c.queue ++ [l] }

/-- BANK_LAUNCH_START (channel): the oldest launch that waits takes a place that is free (R287). -/
def execBankLaunchStart (s : State) : Host.Outcome State Fault Refusal :=
  let c := s.chan (s.arg 0)
  match c.freePlace, c.queue with
  | some cx, l :: rest => .next ((s.setChan (s.arg 0) { c with queue := rest }).bankStart (s.arg 0) cx l)
  | _, _ => .next s

/-! ### NCTL (R300 to R302) -/

/-- Bytes a warp reads from global memory as one of its loads, 64 at a time. -/
def State.loadRange (s : State) (a : Actx) (va n : Nat) : Except (Nat × Nat) (List Nat) × State :=
  match s.translateList a.core a.blk.ctx .read ((List.range ((n + 63) / 64)).map fun i => va + 64 * i) with
  | (.error e, s1) => (.error e, s1)
  | (.ok pas, s1) => (.ok ((pas.flatMap fun pa => (List.range 64).map (pa + ·)).take n), s1)

/-- A launch descriptor is well formed (R286, R301). -/
def descOk (d : Nat) : Bool :=
  let f (hi lo : Nat) : Nat := (d >>> lo) % 2 ^ (hi + 1 - lo)
  let ncode := f 703 688
  f 1023 832 == 0 && f 447 259 == 0 && f 639 633 == 0 && f 575 569 == 0 && f 511 505 == 0
    && f 255 0 != 0 && decide (1 ≤ ncode) && decide (ncode ≤ 1024) && decide (f 687 672 < ncode)
    && f 639 576 % 8192 == 0 && f 575 512 % 2 ^ 21 == 0 && f 511 448 % 64 == 0
    && decide (f 575 512 + f 671 640 * 2 ^ 21 ≤ 2 ^ 57)

/-- The launches of a context that are live at some channel (R287). -/
def State.launches (s : State) (ctx : Nat) : List BankLaunch :=
  (s.chans.flatMap fun c => c.queue ++ c.cx.filterMap fun o => o.map (·.launch)).filter fun l => l.ctx == ctx

/-- The live handles of a context (R287). -/
def State.liveHandles (s : State) (ctx : Nat) : List (BitVec 16) := distinct ((s.launches ctx).map (·.handle))

/-- The counter's value, skipping values that are live (R287); `fuel` exceeds the handles a context may hold. -/
def nextHandle (live : List (BitVec 16)) : Nat → BitVec 16 → BitVec 16
  | 0, h => h
  | n + 1, h => if live.contains h then nextHandle live n (h + 1#16) else h

/-- A launch goes to every channel of its mask (R287). -/
def State.launchAll (s : State) (l : BankLaunch) : State :=
  ((List.range 256).filter fun c => l.mask.getLsbD c).foldl (fun s c => s.bankArrive l c) s

/-- The end of an NCTL: Sd is written when it completes (R300). -/
def State.nctlDone (s : State) (a : Actx) (o : Opnds) (v : Word) : State :=
  ((s.loseIdemp a).startOp a o (.done [.scalar o.d.toNat v])).retire a

/-- The object that a descriptor with NOTIFY names is checked as in every instruction that names one (R174; log entry 39). -/
def State.checkNotify (s : State) (a : Actx) (d : Nat) : Option State :=
  if d.testBit 258 then s.checkObj a ((d >>> 704) % 2 ^ 32) else none

/-- NLAUNCH from its well-formed descriptor on: the region, the handle limit, the code and the launch (R301). -/
def State.launchFrom (s : State) (a : Actx) (o : Opnds) (d : Nat) : State :=
  let f (hi lo : Nat) : Nat := (d >>> lo) % 2 ^ (hi + 1 - lo)
  match s.checkNotify a d with
  | some s1 => s1
  | none =>
  match s.regionSpans a.blk.ctx (f 575 512) (f 671 640) with
  | none => s.nctlDone a o 0x80000002#32
  | some region =>
    let live := s.liveHandles a.blk.ctx
    if live.length ≥ 64 then s.nctlDone a o 0x80000003#32
    else
      let code := f 511 448
      let n := 4 * f 703 688
      if code + n > 2 ^ 57 then s.raiseAt a Code.dfault 0x03 (BitVec.ofNat 64 code)
      else
        match s.loadRange a code n with
        | (.error (va, e), s1) => s1.dataFault a va e false
        | (.ok pas, s1) =>
          if s1.earlierTouch s1.nextId a.bid a.wi pas true then s1
          else
            let (bs, s2) := s1.readAt (MemTag.warp a.bid a.wi a.core s1.nextId) pas s1.memTime
            let h := nextHandle live 65 (s2.ctx a.blk.ctx).handles
            let (id, s3) := s2.fresh
            let l : BankLaunch :=
              { id := id, issuer := (a.bid, a.wi), core := a.core, start := s3.memTime, mask := BitVec.ofNat 256 d, ctx := a.blk.ctx, handle := h, block := a.bid
                warp := a.wi, argx := BitVec.ofNat 64 (f 831 768), argn := BitVec.ofNat 32 (f 767 736), arr := f 735 704
                aentry := f 687 672
                code := (List.range (f 703 688)).map fun i => w32 (leNat ((bs.drop (4 * i)).take 4))
                region := region, status := f 639 576, notify := d.testBit 258, ref := d.testBit 257, step := d.testBit 256 }
            let s4 := s3.setCtx a.blk.ctx { s3.ctx a.blk.ctx with handles := h + 1#16 }
            (s4.launchAll l).nctlDone a o (BitVec.ofNat 32 h.toNat)

/-- NCTL.NLAUNCH (R301): the steps in their order. The descriptor is read behind the warp's own earlier stores (R192). TRAP_ADDR of its
MISALIGN and DFAULT 0x03 is the model's choice, the descriptor's address or that of the code (log entry 104). -/
def execNlaunch (o : Opnds) (s : State) : Host.Outcome State Fault Refusal :=
  s.counted o fun a _ =>
    let x := s.pairVal a o.a o.sa 0
    if x % 128 ≠ 0 then s.raiseAt a Code.misalign 0 (BitVec.ofNat 64 x)
    else if x + 128 > 2 ^ 57 then s.raiseAt a Code.dfault 0x03 (BitVec.ofNat 64 x)
    else
      match s.loadRange a x 128 with
      | (.error (va, e), s1) => s1.dataFault a va e false
      | (.ok pas, s1) =>
        if s1.earlierTouch s1.nextId a.bid a.wi pas true then s1
        else
          let (bs, s2) := s1.readAt (MemTag.warp a.bid a.wi a.core s1.nextId) pas s1.memTime
          let d := leNat bs
          if descOk d then s2.launchFrom a o d else s2.nctlDone a o 0x80000001#32

/-- The place of a channel that holds a context of a handle. -/
def State.bankPlace (s : State) (ctx : Nat) (h : Word) (chan : Nat) : Option Nat :=
  (s.chan chan).cx.findIdx? fun o => match o with | some k => k.launch.ctx == ctx && k.launch.handle.toNat == h.toNat | none => false

/-- What NRESUME does at a channel, and its status (R302). -/
def State.bankResume (s : State) (a : Actx) (mode : Nat) (h : Word) (chan : Nat) : State × Word :=
  let mine (l : BankLaunch) : Bool := l.block == a.bid && l.warp == a.wi
  match (s.launches a.blk.ctx).find? fun l => l.handle.toNat == h.toNat with
  | none => (s, 2#32)
  | some l =>
    if chan ≥ 256 || !l.mask.getLsbD chan || !mine l then (s, 2#32)
    else
      match s.bankPlace a.blk.ctx h chan with
      | none => (s, 1#32)
      | some cx =>
        match s.bankCtx? chan cx with
        | none => (s, 1#32)
        | some k =>
          if k.state != .stepped && k.state != .stopped then (s, 1#32)
          else if mode = 2 then (s.bankEnd chan cx k .aborted, 0#32)
          else
            let skip := mode = 1 && k.state == .stopped
            let k1 := { k with
              state := .running, cause := 0, thread := false, roff := 0#32, place := (0, 0, 0)
              apc := if skip && !k.thread then k.apc + 1 else k.apc
              xpc := if skip && k.thread then k.xpc + 1 else k.xpc }
            (s.setBank chan cx (some k1), 0#32)

/-- NCTL.NRESUME (R302). -/
def execNresume (o : Opnds) (s : State) : Host.Outcome State Fault Refusal :=
  s.counted o fun a _ =>
    let (s1, v) := s.bankResume a (bits o.mod 1 0) (s.scalar a o.a o.sa) (s.scalar a o.b o.sb).toNat
    s1.nctlDone a o v

/-- The low word of a context's status record as the BSU holds it, or 0 (R302). -/
def State.bankStatus (s : State) (ctx : Nat) (h : Word) (chan : Nat) : Word :=
  if chan ≥ 256 then 0#32
  else
    match (s.bankPlace ctx h chan).bind (s.bankCtx? chan) with
    | some k => w32 (leNat ((k.record chan).take 4))
    | none =>
      match (s.chan chan).queue.find? fun l => l.ctx == ctx && l.handle.toNat == h.toNat with
      | some l => w32 (leNat (((l.context chan).record chan).take 4))
      | none => 0#32

/-- The warp reads the STATE of a context as its BSU holds it (R299, R302). -/
def State.noteNstat (s : State) (a : Actx) (h : Word) (chan : Nat) : State :=
  match (s.bankPlace a.blk.ctx h chan).bind (s.bankCtx? chan) with
  | some k =>
    let x := k.launch.statePlace chan
    { s with nextId := s.nextId + 1 }.note
      { MemEvent.of (MemTag.warp a.bid a.wi a.core s.nextId) with reads := [(x, lastWrite s.log s.memTime x)] }
  | none => s

/-- NCTL.NSTAT (R302). -/
def execNstat (o : Opnds) (s : State) : Host.Outcome State Fault Refusal :=
  s.counted o fun a _ =>
    let h := s.scalar a o.a o.sa
    let chan := (s.scalar a o.b o.sb).toNat
    (s.noteNstat a h chan).nctlDone a o (s.bankStatus a.blk.ctx h chan)

/-! ### The course of a bank instruction (R283, R291, R292) -/

/-- The thread an opcode belongs to: false for the address thread, true for the arithmetic thread (R289). -/
def bankThread : Instr → Bool
  | .xget _ _ | .xnext | .xcadd _ _ | .xli _ _ | .xliF2 _ _ | .xadd _ _ _ _ | .xsub _ _ _ _ | .xmul _ _ _ _
  | .xfma _ _ _ _ _ | .xmin _ _ _ _ | .xmax _ _ _ _ | .xlop _ _ _ _ | .xhsum _ _ _ | .xsend _ | .xbr _ _ _ _ | .xend => true
  | _ => false

/-- The queues a thread can wait on (R291). -/
inductive BankWait | dataFull | dataEmpty | backFull | backEmpty
deriving DecidableEq, Repr

/-- The index register of a number. -/
def BankCtx.nreg (k : BankCtx) (r : BitVec 4) : Word := nth 0#32 k.n r.toNat

/-- The data register of a number. -/
def BankCtx.xreg (k : BankCtx) (r : BitVec 4) : DWord := nth 0#64 k.x r.toNat

/-- The offset of a CRD or WR that breaks R291. -/
def BankCtx.badOffset (k : BankCtx) (i : Instr) : Option Word :=
  let check (a : BitVec 4) (n : Nat) : Option Word :=
    let r := k.nreg a
    if r.toNat % n ≠ 0 ∨ k.launch.region.length * 8192 ≤ r.toNat then some r else none
  match i with
  | .crd a => check a 64
  | .crdRef a => check a 64
  | .wr a => check a 8
  | _ => none

/-- The queue an instruction waits on (R291). -/
def BankCtx.waits (k : BankCtx) (i : Instr) : Option BankWait :=
  match i with
  | .crd _ | .crdRef _ => if k.dq.length ≥ 32 then some .dataFull else none
  | .wr _ | .bpop _ => if k.bq.isEmpty then some .backEmpty else none
  | .xget _ _ | .xnext | .xcadd _ _ => if k.dq.isEmpty then some .dataEmpty else none
  | .xsend _ => if k.bq.length ≥ 8 then some .backFull else none
  | _ => none

/-- The program counter of a thread. -/
def BankCtx.pc (k : BankCtx) (arith : Bool) : Nat := if arith then k.xpc else k.apc

/-- A thread has ended. -/
def BankCtx.over (k : BankCtx) (arith : Bool) : Bool := if arith then k.xEnded else k.aEnded

/-- The instruction due in a thread, when it is one of that thread. -/
def BankCtx.due (k : BankCtx) (arith : Bool) : Option Instr :=
  if k.over arith then none
  else
    match (k.launch.code[k.pc arith]?).map decodeBank with
    | some (.ok i) => if bankThread i = arith then some i else none
    | _ => none

/-- The queue on which a thread waits. -/
def BankCtx.waitOf (k : BankCtx) (arith : Bool) : Option BankWait :=
  match k.due arith with
  | some i => if (k.badOffset i).isSome then none else k.waits i
  | none => none

/-- The two waits are a deadlock (R292). -/
def deadlocked (x y : BankWait) : Bool :=
  match x, y with
  | .backEmpty, .dataEmpty | .dataEmpty, .backEmpty | .dataFull, .backFull | .backFull, .dataFull => true
  | _, _ => false

/-- The cause for which an instruction stops its context instead of executing (R292). -/
def BankCtx.cause? (k : BankCtx) (arith : Bool) (i : Instr) : Option Nat :=
  if bankThread i ≠ arith then some 2
  else if (k.badOffset i).isSome then some 1
  else
    match k.waits i with
    | none => none
    | some w =>
      if k.over (!arith) then some 3
      else match k.waitOf (!arith) with
        | some v => if deadlocked w v then some 4 else none
        | none => none

/-- The stop of an instruction: causes 4 and 6 are reported by the address thread (R292). -/
def State.bankStopAt (s : State) (chan cx : Nat) (k : BankCtx) (arith : Bool) (i : Option Instr) (cause : Nat) : State :=
  let off : Option Word :=
    if cause = 1 then i.bind k.badOffset
    else if cause = 6 then i.bind fun i => match i with | .crd a | .crdRef a => some (k.nreg a) | _ => none
    else none
  s.bankStop chan cx k cause (arith && cause != 4 && cause != 6) off

/-- The sequencer of a channel retires a bank instruction. -/
def State.bankPut (s : State) (chan cx : Nat) (k : BankCtx) : State := (s.setBank chan cx (some k)).retireMicro chan

/-- A bank instruction of a thread that runs: it stops its context, waits, or executes (R283, R291, R292). -/
def State.bankRun (s : State) (i : Instr) (act : State → Nat → Nat → BankCtx → State) : State :=
  match s.actor with
  | .bank chan cx arith =>
    match s.bankCtx? chan cx with
    | none => s
    | some k =>
      if k.state != .running || k.over arith then s
      else
        match k.cause? arith i with
        | some c => s.bankStopAt chan cx k arith (some i) c
        | none => if (k.waits i).isSome then s else act s chan cx k
  | _ => s

/-- A bank instruction that changes its context's registers and queues alone, and goes on at the next word. -/
def State.bankOp (s : State) (i : Instr) (f : BankCtx → BankCtx) : Host.Outcome State Fault Refusal :=
  .next (s.bankRun i fun s chan cx k =>
    let k1 := f k
    s.bankPut chan cx (if bankThread i then { k1 with xpc := k1.xpc + 1 } else { k1 with apc := k1.apc + 1 }))

/-- An index register written. -/
def BankCtx.setN (k : BankCtx) (d : BitVec 4) (v : Word) : BankCtx := { k with n := setNth k.n d.toNat v }

/-- A data register written. -/
def BankCtx.setX (k : BankCtx) (d : BitVec 4) (v : DWord) : BankCtx := { k with x := setNth k.x d.toNat v }

/-- The target of a branch, counted in words from the branch (R290); a program counter has 16 bits (R293). -/
def bankTarget (pc : Nat) (imm : BitVec 16) : Nat := (pc + imm.toNat) % 2 ^ 16

/-- The comparison of a branch (R289, R290). -/
def bankHolds {w : Nat} (c : BankCmp) (x y : BitVec w) : Bool :=
  match c with
  | .eq => x == y
  | .ne => x != y
  | .ltu => decide (x.toNat < y.toNat)
  | .geu => decide (y.toNat ≤ x.toNat)
  | .lt => decide (x.toInt < y.toInt)
  | .ge => decide (y.toInt ≤ x.toInt)

/-! ### The address thread (R289) -/

/-- NLI. -/
def execNli (d : BitVec 4) (imm : BitVec 16) (s : State) : Host.Outcome State Fault Refusal :=
  s.bankOp (.nli d imm) fun k => k.setN d (imm.zeroExtend 32)
/-- NLI.H. -/
def execNliH (d : BitVec 4) (imm : BitVec 16) (s : State) : Host.Outcome State Fault Refusal :=
  s.bankOp (.nliH d imm) fun k => k.setN d (imm ++ (k.nreg d).extractLsb' 0 16)
/-- NADD. -/
def execNadd (d a b : BitVec 4) (s : State) : Host.Outcome State Fault Refusal :=
  s.bankOp (.nadd d a b) fun k => k.setN d (k.nreg a + k.nreg b)
/-- NADDI. -/
def execNaddi (d a : BitVec 4) (imm : BitVec 16) (s : State) : Host.Outcome State Fault Refusal :=
  s.bankOp (.naddi d a imm) fun k => k.setN d (k.nreg a + imm.signExtend 32)
/-- NSHL. -/
def execNshl (d a : BitVec 4) (n : BitVec 5) (s : State) : Host.Outcome State Fault Refusal :=
  s.bankOp (.nshl d a n) fun k => k.setN d (k.nreg a <<< n.toNat)
/-- NBR. -/
def execNbr (c : BankCmp) (d a : BitVec 4) (imm : BitVec 16) (s : State) : Host.Outcome State Fault Refusal :=
  .next (s.bankRun (.nbr c d a imm) fun s chan cx k =>
    s.bankPut chan cx { k with apc := if bankHolds c (k.nreg d) (k.nreg a) then bankTarget k.apc imm else k.apc + 1 })

/-- A column command of a place of a channel is ready to go: its thread waits for nothing (R284). -/
def State.columnReady (s : State) (chan cx : Nat) : Bool :=
  match s.bankCtx? chan cx with
  | none => false
  | some k =>
    k.state == .running &&
      (match k.due false with
       | some (.crd a) => (k.cause? false (.crd a)).isNone && (k.waits (.crd a)).isNone
       | some (.crdRef a) => (k.cause? false (.crdRef a)).isNone && (k.waits (.crdRef a)).isNone
       | some (.wr a) => (k.cause? false (.wr a)).isNone && (k.waits (.wr a)).isNone
       | _ => false)

/-- The turn of a place in the round among ready contexts: no other that is ready comes before it (R284). -/
def State.columnTurn (s : State) (chan cx : Nat) : Bool :=
  let t := (s.chan chan).turn
  (List.range ((cx + 4 - t % 4) % 4)).all fun i => !s.columnReady chan ((t + i) % 4)

/-- The counters of the rows beside an activated row advance (R296). -/
def State.activateRow (s : State) (chan bank row : Nat) : State :=
  let c := s.chan chan
  let bump (l : List ((Nat × Nat) × Nat)) (r : Nat) : List ((Nat × Nat) × Nat) :=
    match l.find? fun x => x.1 == (bank, r) with
    | some (_, n) => l.map fun x => if x.1 = (bank, r) then (x.1, n + 1) else x
    | none => l ++ [((bank, r), 1)]
  s.setChan chan { c with disturb := bump (if row = 0 then c.disturb else bump c.disturb (row - 1)) (row + 1) }

/-- A column command retires: the round goes on, and under STEP the context halts with its record written (R284, R293,
R295). -/
def State.columnDone (s : State) (chan cx : Nat) (k : BankCtx) : State :=
  let k1 := { k with ncol := k.ncol + 1#32, apc := k.apc + 1, state := if k.launch.step then .stepped else .running }
  let s1 := s.bankPut chan cx k1
  let c := s1.chan chan
  let s2 := s1.setChan chan { c with turn := (cx + 1) % 4, waiting := none, burst := if c.burst = 0 then 15 else c.burst - 1 }
  if k.launch.step then s2.writeStatus chan k1 else s2

/-- The column or 8 bytes at an offset are behind an earlier access of the launching warp (R299); `read` for a column read. -/
def State.behindLauncher (s : State) (l : BankLaunch) (pa n : Nat) (read : Bool := false) : Bool :=
  s.earlierTouch l.id l.issuer.1 l.issuer.2 ((List.range n).map (pa + ·)) read

/-- The home can serve a request as soon as the channel lets it. -/
def State.reqReady (s : State) (r : PxReq) : Bool :=
  match r.kind with
  | .drop _ => false
  | .copy home slot _ _ =>
    if r.data.isEmpty then
      s.firstAt r home && (match (s.home home).live? slot with | some x => x.formed | none => true)
    else s.copyPassed r
  | .snapshot _ _ _ _ => s.firstAt r r.home && !s.earlierTouch r.id r.block r.warp r.kind.bytes true
  | _ => s.firstAt r r.home

/-- A request that a home's microprograms can serve now: proxy operations come before bank commands (R297). -/
def State.proxyCommand (s : State) (chan : Nat) : Option PxReq :=
  s.pxReqs.find? fun r => r.place == chan && !r.served && s.reqReady r

/-- A column command may be served: it goes on with the burst under way, or no refresh is due and either no ordinary access
waits and no proxy operation comes before it, or it has waited 10 µs and takes the next burst (R297). -/
def State.columnServes (s : State) (chan : Nat) : Bool :=
  decide (0 < (s.chan chan).burst)
    || (!s.refreshDue chan && (s.bankPromoted chan || (!s.ordinaryDue chan && (s.proxyCommand chan).isNone)))

/-- CRD (R289, R291, R296): its column is read, as one access, as it stood `age` events of the memory log ago, or at the newest
time before that which R299 leaves open. -/
def State.columnRead (s : State) (i : Instr) (a : BitVec 4) (ref : Bool) (age : Nat) : State :=
  s.bankRun i fun s chan cx k =>
    let pa := regionAddr k.launch.region chan (k.nreg a).toNat
    if !s.columnTurn chan cx || !s.columnServes chan || s.behindLauncher k.launch pa 64 true then s
    else
      let (row, bank, _) := placeOf pa
      let (bs, s) := s.readOnce k.launch.readTag (some k.launch.start) ((List.range 64).map (pa + ·)) (s.memTime - age)
      let c := s.chan chan
      let s1 := if ref && k.launch.ref then
          (s.setChan chan { c with marked := (bank, row) :: c.marked.erase (bank, row) }).activateRow chan bank row
        else s
      s1.columnDone chan cx { k with dq := k.dq ++ [bs] }

/-- WR (R289, R291). -/
def State.columnWrite (s : State) (a : BitVec 4) : State :=
  s.bankRun (.wr a) fun s chan cx k =>
    let pa := regionAddr k.launch.region chan (k.nreg a).toNat
    match k.bq with
    | [] => s
    | v :: rest =>
      if !s.columnTurn chan cx || !s.columnServes chan || s.behindLauncher k.launch pa 8 then s
      else
        ({ s with nextId := s.nextId + 1 }.writePhys pa (leBytes 8 v.toNat) (k.launch.tag chan s.nextId)).columnDone chan cx
          { k with bq := rest }

/-- CRD. -/
def execCrd (a : BitVec 4) (s : State) : Host.Outcome State Fault Refusal := .next (s.columnRead (.crd a) a false (s.arg 0))
/-- CRD.REF. -/
def execCrdRef (a : BitVec 4) (s : State) : Host.Outcome State Fault Refusal := .next (s.columnRead (.crdRef a) a true (s.arg 0))
/-- WR. -/
def execWr (a : BitVec 4) (s : State) : Host.Outcome State Fault Refusal := .next (s.columnWrite a)
/-- BPOP. -/
def execBpop (d : BitVec 4) (s : State) : Host.Outcome State Fault Refusal :=
  s.bankOp (.bpop d) fun k => { k.setN d ((nth 0#64 k.bq 0).truncate 32) with bq := k.bq.drop 1 }
/-- NEND: the thread halts at this word. -/
def execNend (s : State) : Host.Outcome State Fault Refusal :=
  .next (s.bankRun .nend fun s chan cx k => s.bankPut chan cx { k with aEnded := true })

/-! ### The arithmetic thread (R289, R290) -/

/-- A function of the two 32-bit lanes of data registers. -/
def lanes2 (f : Word → Word → Word → Word) (a b c : DWord) : DWord :=
  f (a.extractLsb' 32 32) (b.extractLsb' 32 32) (c.extractLsb' 32 32) ++ f (a.truncate 32) (b.truncate 32) (c.truncate 32)

/-- An addition of a mode (R290). -/
def bankAdd (m : BankMode) (a b : DWord) : DWord :=
  match m with
  | .i64 | .u64 => a + b
  | .i32x2 | .u32x2 => lanes2 (fun x y _ => x + y) a b 0#64
  | .f32x2 => lanes2 (fun x y _ => w32 (fAdd .fp32 0#6 x.toNat y.toNat)) a b 0#64

/-- A subtraction of a mode (R290). -/
def bankSub (m : BankMode) (a b : DWord) : DWord :=
  match m with
  | .i64 | .u64 => a - b
  | .i32x2 | .u32x2 => lanes2 (fun x y _ => x - y) a b 0#64
  | .f32x2 => lanes2 (fun x y _ => w32 (fAdd .fp32 0#6 x.toNat (y ^^^ 0x80000000#32).toNat)) a b 0#64

/-- A multiplication of a mode (R290). -/
def bankMul (m : BankMode) (a b : DWord) : DWord :=
  match m with
  | .i64 | .u64 => a * b
  | .i32x2 | .u32x2 => lanes2 (fun x y _ => x * y) a b 0#64
  | .f32x2 => lanes2 (fun x y _ => w32 (fMul .fp32 0#6 x.toNat y.toNat)) a b 0#64

/-- A multiplication and addition of a mode, with one rounding (R290). -/
def bankFma (m : BankMode) (a b c : DWord) : DWord :=
  match m with
  | .i64 | .u64 => a * b + c
  | .i32x2 | .u32x2 => lanes2 (fun x y z => x * y + z) a b c
  | .f32x2 => lanes2 (fun x y z => w32 (fFma .fp32 0#6 x.toNat y.toNat z.toNat)) a b c

/-- A minimum or maximum of a mode (R290). -/
def bankMinMax (max : Bool) (m : BankMode) (a b : DWord) : DWord :=
  match m with
  | .i64 => if (decide (a.toInt < b.toInt)) = max then b else a
  | .u64 => if (decide (a.toNat < b.toNat)) = max then b else a
  | .i32x2 => lanes2 (fun x y _ => if max then imaxW false x y else iminW false x y) a b 0#64
  | .u32x2 => lanes2 (fun x y _ => if max then imaxW true x y else iminW true x y) a b 0#64
  | .f32x2 => lanes2 (fun x y _ => w32 (fMinMax max false false x.toNat y.toNat)) a b 0#64

/-- A word of the data queue's head entry (R289). -/
def BankCtx.headWord (k : BankCtx) (w : Nat) : DWord :=
  BitVec.ofNat 64 (leNat (((nth [] k.dq 0).drop (8 * w)).take 8))

/-- XGET. -/
def execXget (d : BitVec 4) (w : BitVec 3) (s : State) : Host.Outcome State Fault Refusal :=
  s.bankOp (.xget d w) fun k => k.setX d (k.headWord w.toNat)
/-- XNEXT. -/
def execXnext (s : State) : Host.Outcome State Fault Refusal := s.bankOp .xnext fun k => { k with dq := k.dq.drop 1 }
/-- XCADD: the fixed order of R289. -/
def execXcadd (m : BankMode) (d : BitVec 4) (s : State) : Host.Outcome State Fault Refusal :=
  s.bankOp (.xcadd m d) fun k =>
    let p (i : Nat) : DWord := bankAdd m (k.headWord i) (k.headWord (i + 1))
    k.setX d (bankAdd m (bankAdd m (k.xreg d) (bankAdd m (p 0) (p 2))) (bankAdd m (p 4) (p 6)))
/-- XLI. -/
def execXli (d : BitVec 4) (imm : BitVec 16) (s : State) : Host.Outcome State Fault Refusal :=
  s.bankOp (.xli d imm) fun k => k.setX d (imm.signExtend 64)
/-- XLI.F2. -/
def execXliF2 (d : BitVec 4) (imm : BitVec 16) (s : State) : Host.Outcome State Fault Refusal :=
  s.bankOp (.xliF2 d imm) fun k => k.setX d (imm ++ 0#16 ++ imm ++ 0#16 : BitVec 64)
/-- XADD. -/
def execXadd (m : BankMode) (d a b : BitVec 4) (s : State) : Host.Outcome State Fault Refusal :=
  s.bankOp (.xadd m d a b) fun k => k.setX d (bankAdd m (k.xreg a) (k.xreg b))
/-- XSUB. -/
def execXsub (m : BankMode) (d a b : BitVec 4) (s : State) : Host.Outcome State Fault Refusal :=
  s.bankOp (.xsub m d a b) fun k => k.setX d (bankSub m (k.xreg a) (k.xreg b))
/-- XMUL. -/
def execXmul (m : BankMode) (d a b : BitVec 4) (s : State) : Host.Outcome State Fault Refusal :=
  s.bankOp (.xmul m d a b) fun k => k.setX d (bankMul m (k.xreg a) (k.xreg b))
/-- XFMA. -/
def execXfma (m : BankMode) (d a b c : BitVec 4) (s : State) : Host.Outcome State Fault Refusal :=
  s.bankOp (.xfma m d a b c) fun k => k.setX d (bankFma m (k.xreg a) (k.xreg b) (k.xreg c))
/-- XMIN. -/
def execXmin (m : BankMode) (d a b : BitVec 4) (s : State) : Host.Outcome State Fault Refusal :=
  s.bankOp (.xmin m d a b) fun k => k.setX d (bankMinMax false m (k.xreg a) (k.xreg b))
/-- XMAX. -/
def execXmax (m : BankMode) (d a b : BitVec 4) (s : State) : Host.Outcome State Fault Refusal :=
  s.bankOp (.xmax m d a b) fun k => k.setX d (bankMinMax true m (k.xreg a) (k.xreg b))
/-- XLOP. -/
def execXlop (op : BankLop) (d a b : BitVec 4) (s : State) : Host.Outcome State Fault Refusal :=
  s.bankOp (.xlop op d a b) fun k =>
    k.setX d (match op with | .and => k.xreg a &&& k.xreg b | .or => k.xreg a ||| k.xreg b | .xor => k.xreg a ^^^ k.xreg b)
/-- XHSUM. -/
def execXhsum (m : BankMode) (d a : BitVec 4) (s : State) : Host.Outcome State Fault Refusal :=
  s.bankOp (.xhsum m d a) fun k =>
    let x := k.xreg a
    k.setX d (bankAdd m x (0#32 ++ x.extractLsb' 32 32 : BitVec 64) &&& 0xFFFFFFFF#64)
/-- XSEND. -/
def execXsend (a : BitVec 4) (s : State) : Host.Outcome State Fault Refusal :=
  s.bankOp (.xsend a) fun k => { k with bq := k.bq ++ [k.xreg a] }
/-- XBR. -/
def execXbr (c : BankCmp) (d a : BitVec 4) (imm : BitVec 16) (s : State) : Host.Outcome State Fault Refusal :=
  .next (s.bankRun (.xbr c d a imm) fun s chan cx k =>
    s.bankPut chan cx { k with xpc := if bankHolds c (k.xreg d) (k.xreg a) then bankTarget k.xpc imm else k.xpc + 1 })
/-- XEND: the thread halts at this word. -/
def execXend (s : State) : Host.Outcome State Fault Refusal :=
  .next (s.bankRun .xend fun s chan cx k => s.bankPut chan cx { k with xEnded := true })

/-! ### Fetch of a bank word (R292) -/

/-- The cause for which a thread's due word stops its context, before or instead of executing. -/
def BankCtx.dueCause (k : BankCtx) (arith : Bool) : Option (Option Instr × Nat) :=
  if k.over arith then none
  else
    match (k.launch.code[k.pc arith]?).map decodeBank with
    | none => some (none, 5)
    | some (.error _) => some (none, 2)
    | some (.ok i) => (k.cause? arith i).map fun c => (some i, c)

/-- A thread of a bank context issues: its word is fetched, and stops the context or executes. -/
def State.bankDue (s : State) (chan cx : Nat) (arith : Bool) (age : Nat) : State × Option Instr :=
  let s0 := { s with actor := .bank chan cx arith, args := [age] }
  match s0.bankCtx? chan cx with
  | none => (s0, none)
  | some k =>
    if k.state != .running then (s0, none)
    else
      match k.dueCause arith with
      | some (i, c) => (s0.bankStopAt chan cx k arith i c, none)
      | none => (s0, k.due arith)

/-- BANK_CONTEXT_STOP (channel, place, cause, thread): the due word of a thread stops its context with this cause; cause
6 is an uncorrectable error of a column read that is due (R292). -/
def execBankContextStop (s : State) : Host.Outcome State Fault Refusal :=
  let chan := s.arg 0
  let cx := s.arg 1
  let arith := s.arg 3 = 1
  match s.bankCtx? chan cx with
  | none => .next s
  | some k =>
    if k.state != .running then .next s
    else if s.arg 2 = 6 then
      match k.due false with
      | some (.crd a) => .next (if s.columnReady chan cx then s.bankStopAt chan cx k false (some (.crd a)) 6 else s)
      | some (.crdRef a) => .next (if s.columnReady chan cx then s.bankStopAt chan cx k false (some (.crdRef a)) 6 else s)
      | _ => .next s
    else
      match k.dueCause arith with
      | some (i, c) => .next (if c = s.arg 2 then s.bankStopAt chan cx k arith i c else s)
      | none => .next s

/-- BANK_CONTEXT_DONE (channel, place): both threads have ended and every write has been applied (R291). -/
def execBankContextDone (s : State) : Host.Outcome State Fault Refusal :=
  match s.bankCtx? (s.arg 0) (s.arg 1) with
  | none => .next s
  | some k =>
    if k.state == .running && k.aEnded && k.xEnded then .next (s.bankEnd (s.arg 0) (s.arg 1) k .done) else .next s

/-! ### Refresh and bursts (R296, R297) -/

/-- REFRESH (channel, row, bank): the refresh engine refreshes a row that is not marked in this window of 32 ms, and is
done with it for the window (R296). -/
def execRefresh (s : State) : Host.Outcome State Fault Refusal :=
  let c := s.chan (s.arg 0)
  let r := (s.arg 2, s.arg 1)
  if c.marked.contains r then .next s else .next (s.setChan (s.arg 0) { c with marked := r :: c.marked })

/-- TARGETED_REFRESH (channel, row, bank): a counter that has reached its threshold has its row refreshed, marked or not
(R296). -/
def execTargetedRefresh (s : State) : Host.Outcome State Fault Refusal :=
  let c := s.chan (s.arg 0)
  let r := (s.arg 2, s.arg 1)
  if c.disturb.any fun x => x.1 == r && decide (Config.disturbThreshold ≤ x.2) then
    .next (s.setChan (s.arg 0) { c with disturb := c.disturb.filter fun x => x.1 != r })
  else .next s

/-- The place whose column command is next in the round. -/
def State.columnNext (s : State) (chan : Nat) : Option Nat :=
  ((List.range 4).map fun i => ((s.chan chan).turn + i) % 4).find? fun cx => s.columnReady chan cx

/-- One command of a burst: a proxy operation, unless a column command has waited longer than R297 lets it, or else a column
command of a bank context. -/
def State.burstCommand (s : State) (chan : Nat) : State :=
  match (s.proxyCommand chan).filter fun r => s.proxyServes r with
  | some r => 
    (match r.kind with
     | .snapshot _ _ _ _ => s.takeSnapshot r.id
     | .copy _ _ _ _ => s.proxyCopy r.id
     | _ => s.proxyOperate r.id)
  | none =>
    match s.columnNext chan with
    | none => s
    | some cx =>
      let s1 := { s with actor := .bank chan cx false }
      match (s.bankCtx? chan cx).bind (·.due false) with
      | some (.crd a) => s1.columnRead (.crd a) a false 0
      | some (.crdRef a) => s1.columnRead (.crdRef a) a true 0
      | some (.wr a) => s1.columnWrite a
      | _ => s

/-- BSU_BURST (channel): a burst of at most 16 proxy or bank column commands, after which the channel arbitrates anew
(R297). -/
def execBsuBurst (s : State) : Host.Outcome State Fault Refusal :=
  let chan := s.arg 0
  let s1 := (List.range 16).foldl (fun (s : State) _ => s.burstCommand chan) s
  .next ({ s1 with actor := s.actor }.setChan chan { s1.chan chan with burst := 0 })

/-! ### The watchdog (R271, R298) -/

/-- The sequencer of a channel has work: a proxy request, or a bank context that runs and that no due word is about to stop; a
queue on which R292 stops a thread is no wait (R298). -/
def State.bsuWork (s : State) (chan : Nat) : Bool :=
  (s.pxReqs.any fun r => r.place == chan && !r.served)
    || (s.chan chan).cx.any fun o =>
      match o with
      | some k => k.state == .running && (k.dueCause false).isNone && (k.dueCause true).isNone
      | none => false

/-- Slots that wait for something of a home, as block, warp and slot. -/
def State.waitersAt (s : State) (home : Nat) : List (Nat × Nat × Nat) :=
  (s.pxReqs.filterMap fun r =>
    match r.kind with
    | .cross _ _ => if r.home = home then some (r.block, r.warp, r.pathSlot) else none
    | .copy h _ _ _ => if r.home = home ∨ h = home then some (r.block, r.warp, r.pathSlot) else none
    | _ => none)
    ++ ((s.chunkReqs.filter fun c => c.home == home).map fun c => (c.block, c.warp, c.slot))

/-- A request in flight to a home that is lost completes with an error status, and so does one whose reply has yet to leave; a
drop has nothing left to drop (R271). -/
def State.failReq (s : State) (home : Nat) (r : PxReq) : Option PxReq :=
  if r.home ≠ home then some r
  else match r.kind with
    | .drop _ => none
    | _ => some { r with served := true, lost := !(r.served && s.flitSent (replyWave r.home r.core) r.id) }

/-- A home is lost: its store, its runs and reservations go, its LOST bit is set in every context, and requests in
flight to it complete with an error status (R271). Slots that wait for it execute again. -/
def State.loseHome (s : State) (home : Nat) : State :=
  let s1 := (s.waitersAt home).foldl (fun (s : State) (x : Nat × Nat × Nat) => s.withdraw x.1 x.2.1 x.2.2) s
  let hit := s1.pxReqs.filter fun r => r.home == home && !r.served && r.kind.replies
  let s2 := hit.foldl (fun (s : State) (r : PxReq) => s.replyFlit home r.core r.id) (s1.setHome home { runs := [], words := [] })
  let drops := s1.pxReqs.filter fun r => r.home == home && (match r.kind with | .drop _ => true | _ => false)
  let s3 : State := { s2 with
    pxReqs := s2.pxReqs.filterMap (s1.failReq home)
    cores := s2.cores.map (fun (c : Core) => { c with chunks := c.chunks.filter fun k => k.home != home })
    ctxs := s2.ctxs.map (fun (c : Ctx) =>
      { c with pxLost := setNth c.pxLost (home / 32) (nth 0#32 c.pxLost (home / 32) ||| BitVec.twoPow 32 (home % 32)) }) }
  (distinct (drops.map fun r => r.block)).foldl State.reap s3

/-- Every bank context at a channel, queued ones too, ends with STATE 7 and reports (R298). -/
def State.resetBank (s : State) (chan : Nat) : State :=
  let s1 := (List.range 4).foldl (fun (s : State) (cx : Nat) =>
    match s.bankCtx? chan cx with
    | some k => s.bankEnd chan cx k .reset
    | none => s) s
  let q := (s1.chan chan).queue
  let s2 := s1.setChan chan { s1.chan chan with queue := [], idle := 0 }
  q.foldl (fun (s : State) (l : BankLaunch) =>
    (s.writeStatus chan { l.context chan with state := .reset }).bankReport l chan (some Code.watchdog)) s2

/-- BSU_WATCHDOG_RESET (channel): the sequencer has had work and has retired nothing for 2^20 BSU cycles (R298). -/
def execBsuWatchdogReset (s : State) : Host.Outcome State Fault Refusal :=
  let chan := s.arg 0
  if 2 ^ 20 ≤ (s.chan chan).idle then .next ((s.loseHome chan).resetBank chan) else .next s

end Sys2Proof.Machine
end

