-- ==== Sys2Proof/Machine/Place.lean ====
section
/-!
DEFINITION. Placement: what a core has free (R91, R97, R105), the shares of a context's pools (R320), the state of a block
at placement (R85), and how a block leaves a core and comes back to one (R98, R99, R310 to R312).
-/
namespace Sys2Proof.Machine
open Sys2Proof

/-! ### What a core has free -/

/-- A warp of a resident block still holds its registers and its warp slot (R78). -/
def State.holdsRegs (s : State) (b : Block) (i : Nat) (w : Warp) : Bool := !w.ended || s.busy b.id i

/-- The warps of a resident block that hold registers. -/
def State.holdersOf (s : State) (b : Block) : List Warp :=
  (b.warps.zipIdx.filter fun x => s.holdsRegs b x.2 x.1).map (·.1)

/-- Register blocks of the free pool that a block holds, with what a grow request sets aside (R97, R105, R306). -/
def State.blockRegs (s : State) (b : Block) : Nat :=
  ((s.holdersOf b).map fun w =>
    w.b - w.fromReserve + (match w.frame with | some f => (if f.fromReserve then 0 else 1) | none => 0)).sum
    + (match b.reshape with | some r => r.extra | none => 0)

/-- Warp slots of a core that a block takes up, with what a grow request sets aside (R78, R105). -/
def State.blockWarps (s : State) (b : Block) : Nat :=
  (s.holdersOf b).length + (match b.reshape with | some r => r.warps | none => 0)

/-- Ranges of scratchpad, in units of 4 KiB, that a block takes up. -/
def State.spadRanges (s : State) (b : Block) : List (Nat × Nat) :=
  let own (v : Nat) : Nat := match (s.kobj b).bind fun k => k.variants[v]? with | some x => x.spad | none => 0
  (b.spadBase, own b.variant) :: (match b.reshape with | some r => if r.grow then [(r.spadBase, own r.target)] else [] | none => [])

/-- Ranges of accumulator lines that a block takes up. -/
def State.accRanges (s : State) (b : Block) : List (Nat × Nat) :=
  let own (v : Nat) : Nat := match (s.kobj b).bind fun k => k.variants[v]? with | some x => 32 * x.accl | none => 0
  (b.accBase, own b.variant) :: (match b.reshape with | some r => if r.grow then [(r.accBase, own r.target)] else [] | none => [])

/-- The lowest place of a range of `n` that meets none of the ranges in use, below a capacity. -/
def firstGap (cap n : Nat) (used : List (Nat × Nat)) : Option Nat :=
  if n = 0 then some 0
  else
    ((sortBy (fun x y => decide (x ≤ y)) (0 :: used.map fun r => r.1 + r.2)).find? fun x =>
      decide (x + n ≤ cap) && used.all fun r => r.2 == 0 || decide (r.1 + r.2 ≤ x) || decide (x + n ≤ r.1))

/-- The partition word of a core for a context: what it took up, or what it would take up (R91, R317). -/
def State.partOf (s : State) (core ctx : Nat) : Word :=
  if (s.core core).ctx = some ctx then (s.core core).part else (s.ctx ctx).partWord

/-- What a block needs of a core: warps, register blocks of the pool, scratchpad in units of 4 KiB and lines. -/
structure Need where
  warps : Nat
  regs : Nat
  spad : Nat
  acc : Nat
deriving DecidableEq, Repr

/-- What a variant needs at placement (R90, R91). -/
def Variant.need (v : Variant) : Need :=
  { warps := v.nwarp, regs := v.nwarp * v.regb, spad := v.spad, acc := 32 * v.accl }

/-- A need with the place of its scratchpad and of its lines. -/
abbrev Placed := Need × Nat × Nat

/-- A block with a need fits a core of its context, beside the blocks that a test keeps and the listed ones: where its
scratchpad and its lines would lie (R91). -/
def State.fitsBeside (s : State) (keep : Block → Bool) (more : List Placed) (core ctx : Nat) (n : Need) : Option (Nat × Nat) :=
  let part := s.partOf core ctx
  let there := (s.residents core).filter keep
  let warps := (there.map s.blockWarps).sum + (more.map fun m => m.1.warps).sum
  let regs := (there.map s.blockRegs).sum + (more.map fun m => m.1.regs).sum
  if warps + n.warps ≤ 256 ∧ regs + n.regs ≤ bits part 5 0 * 64 - 30 then
    match firstGap (bits part 11 6 * 16) n.spad (there.flatMap s.spadRanges ++ more.map fun m => (m.2.1, m.1.spad)),
        firstGap (bits part 17 12 * 512) n.acc (there.flatMap s.accRanges ++ more.map fun m => (m.2.2, m.1.acc)) with
    | some x, some y => some (x, y)
    | _, _ => none
  else none

/-- The same beside every block of the core. -/
def State.fits (s : State) (core ctx : Nat) (n : Need) : Option (Nat × Nat) := s.fitsBeside (fun _ => true) [] core ctx n

/-- A core is in a context's partition (R314). -/
def Ctx.hasCore (c : Ctx) (core : Nat) : Bool := (nth 0#32 c.coreMask (core / 32)).getLsbD (core % 32)

/-- A core takes blocks of a context: it is in the partition, and holds that context and has not closed, or holds none
(R91, R93). -/
def State.takes (s : State) (core ctx : Nat) : Bool :=
  (s.ctx ctx).hasCore core &&
    (match (s.core core).ctx with
     | none => true
     | some x => x == ctx && !(s.core core).closed)

/-- A core takes up a context with its partition word (R91). -/
def State.takeUp (s : State) (core ctx : Nat) : State :=
  let c := s.core core
  if c.ctx = some ctx then s
  else s.setCore core { c with ctx := some ctx, part := (s.ctx ctx).partWord, taken := s.ns, closed := false, next := none }

/-! ### Pools (R320) -/

/-- Units of 64 KiB in bytes, rounded up. -/
def units64 (n : Nat) : Nat := (n + 65535) / 65536

/-- Divergence capacity of a kernel object (R67). -/
def KObj.divCapacity (k : KObj) : Nat := if k.divdepth = 0 then 256 else k.divdepth

/-- The areas of one warp index, in units of 64 KiB (R320). -/
def KObj.areaUnits (k : KObj) : Nat := units64 (32 * k.privsz + 4096 + 16 * k.divCapacity)

/-- The largest of a list. -/
def maxOf (l : List Nat) : Nat := l.foldl max 0

/-- The largest NWARP among a kernel's variants. -/
def KObj.maxWarps (k : KObj) : Nat := maxOf (k.variants.map (·.nwarp))

/-- Save space of a block, in units of 64 KiB (R320). -/
def KObj.saveUnits (k : KObj) : Nat :=
  maxOf (k.variants.map fun v => units64 (4096 + v.nwarp * 40960 + v.spad * 4096 + v.accl * 4096))

/-- Areas for `n` warp indexes, each at the lowest place left of the private pool. -/
def takeAreas (cap size : Nat) : Nat → List (Nat × Nat) → Option (List Nat)
  | 0, _ => some []
  | n + 1, used =>
    match firstGap cap size used with
    | none => none
    | some x => (takeAreas cap size n ((x, size) :: used)).map fun rest => x :: rest

/-- The areas of a new block, when both pools of its context can supply its shares (R320). -/
def State.shares (s : State) (ctx : Nat) (k : KObj) : Option (List Nat) :=
  let c := s.ctx ctx
  let mine := s.blocks.filter fun b => b.ctx == ctx
  if (mine.map (·.saveUnits)).sum + k.saveUnits ≤ c.saveSize.toNat then
    takeAreas c.privSize.toNat k.areaUnits k.maxWarps
      (mine.flatMap fun b => b.privAt.map fun x => (x, b.privUnits))
  else none

/-- Base of the private area of a warp index (R159, R320). -/
def State.privBaseOf (s : State) (b : Block) (wi : Nat) : Nat :=
  (s.ctx b.ctx).privBase.toNat + 65536 * nth 0 b.privAt wi

/-! ### The state at placement (R85) -/

/-- A warp of a block, starting at an address: R85. -/
def Warp.start (regb : Nat) (frame : Nat) (entry : DWord) (hwslot privb : Nat) : Warp :=
  { ended := false, exited := 0#32, b := regb, fromReserve := 0
    vregs := List.replicate (8 * regb) VReg.zero
    sregs := BitVec.ofNat 32 frame :: BitVec.ofNat 32 (frame / 2 ^ 32) :: List.replicate 94 0#32
    preds := List.replicate 7 predZero
    flags := List.replicate 12 0
    latches := List.replicate 3 { tag := none, valid := 0 }
    shapes := List.replicate 8 Shape.none
    holds := []
    path0 := some (Path.at entry (BitVec.allOnes 32) none), path1 := none, lastSlot := none, stalled := []
    stack := [], nextJoin := 0, frame := none, lent := []
    trapCause := 0#32, trapPc := 0#64, trapAddr := 0#64, trapMask := 0#32, trap := none, async := []
    gate := none, turn := none, hwslot := hwslot, age := 0, privb := privb
    retClock := List.replicate 12 0, writeEpoch := none }

/-- The warp slots of a core that its warps take up. -/
def State.usedSlots (s : State) (core : Nat) : List Nat := (s.holders core).map (·.hwslot)

/-- The `n` lowest free warp slots of a core (R94). -/
def State.freeSlots (s : State) (core n : Nat) : List Nat :=
  let used := s.usedSlots core
  ((List.range 256).filter fun x => !used.contains x).take n

/-- The warps with which a block starts in a variant on a core (R85, R94). -/
def State.startWarps (s : State) (b : Block) (v : Variant) (kobj frame core : Nat) : List Warp :=
  let slots := s.freeSlots core v.nwarp
  (List.range v.nwarp).map fun i =>
    Warp.start v.regb frame (BitVec.ofNat 64 (kobj + v.entry)) (nth 0 slots i) (s.privBaseOf b i)

/-- The request of a block is withdrawn: warps that have arrived for it at a switch point do not switch for a later one
(R105). -/
def Block.dropReshape (b : Block) : Block :=
  { b with reshape := none, switches := b.switches.map fun (x : SwitchWait) => { x with spoiled := true } }

/-- Requests to shrink for a record are withdrawn, but for those whose switch has passed its checks (R105). -/
def State.dropShrinks (s : State) (record : Nat) : State :=
  { s with blocks := s.blocks.map fun (b : Block) =>
      match b.reshape with
      | some r => if r.record = some record ∧ ¬b.switching then b.dropReshape else b
      | none => b }

/-- A block's warps start behind what was handed on to its record: by the decrements that made it ready (R96), or by the host
with its QTAIL write (log entry 95). -/
def State.noteStart (s : State) (b : Block) (r : Record) (core : Nat) : State :=
  match s.log.find? fun e => e.tag.agent == .record r.ready && !e.joins.isEmpty with
  | none => s
  | some e =>
    (List.range b.warps.length).foldl (fun (s : State) (wi : Nat) =>
      let (id, s1) := s.fresh
      s1.note { MemEvent.of (MemTag.warp b.id wi core id) with joins := e.joins }) s

/-- When a block is placed: the time, and a free choice that ranks the blocks which several clusters place at one time (R91, R92; log
entry 101). -/
def State.placedNow (s : State) : Nat × Nat := (s.ns, (Config.freeWord s.drawn).toNat)

/-- The block of an index of a record is placed on a core in a variant (R85, R91). -/
def State.startBlock (s : State) (r : Record) (k : KObj) (vi : Nat) (v : Variant) (core : Nat) (at_ : Nat × Nat)
    (areas : List Nat) : State :=
  let (id, s0) := s.fresh
  let s1 := { s0 with drawn := s0.drawn + 1 }
  let b0 : Block :=
    { id := id, ctx := r.ctx, record := r.id, index := r.next, prio := r.prio, loc := .core core, placed := s.placedNow, variant := vi
      sizeclass := 0#32, idemp := k.idemp, warps := [], spad := [], acc := [], spadBase := at_.1, accBase := at_.2
      qwait := [], qspoiled := [], reshape := none, switches := [], stopping := false, ending := none, lastCore := core
      privAt := areas, privUnits := k.areaUnits, saveUnits := k.saveUnits }
  let b := { b0 with warps := s1.startWarps b0 v r.kobj r.frame core }
  let s2 := (s1.takeUp core r.ctx).dropShrinks r.id
  (({ s2 with blocks := s2.blocks ++ [b] }).setRecord { r with next := r.next + 1, room := none }).noteStart b r core

/-- A block is placed; where its kernel object has changed since its record joined its ring, it follows R6 (R325; log entry 81). -/
def State.placeBlock (s : State) (r : Record) (k : KObj) (vi : Nat) (v : Variant) (core : Nat) (at_ : Nat × Nat)
    (areas : List Nat) : State :=
  let t := s.startBlock r k vi v core at_ areas
  if s.objectChanged r k then t.spoilBlock s.nextId else t

/-- An aborted block starts afresh on a core in a variant (R98), and follows R6 where its kernel object has changed (R325). -/
def State.placeAgain (s : State) (b : Block) (r : Record) (k : KObj) (vi : Nat) (v : Variant) (core : Nat)
    (at_ : Nat × Nat) : State :=
  let b1 : Block :=
    { b with
      loc := .core core, placed := s.placedNow, variant := vi, sizeclass := 0#32, idemp := k.idemp
      warps := s.startWarps b v r.kobj r.frame core, spad := [], acc := []
      spadBase := at_.1, accBase := at_.2, lastCore := core }
  let t := (({ s with drawn := s.drawn + 1 }.takeUp core b.ctx).setBlock b1).noteStart b1 r core
  if s.objectChanged r k then t.spoilBlock b.id else t

/-! ### Leaving a core (R98, R99, R310, R311) -/

/-- An asynchronous trap that was chosen and not yet entered waits again; a precise one is raised again on resume. -/
def Warp.untrap (w : Warp) : Warp :=
  match w.trap with
  | none => w
  | some t =>
    if t.code = 0x12#8 ∨ t.code = 0x16#8 then
      { w with trap := none, async := { code := t.code, detail := t.detail, addr := t.addr } :: w.async }
    else { w with trap := none }

/-- A register whose uniform tag is clear. -/
def VReg.untag (r : VReg) : VReg := { r with uni := false }

/-- A warp as its context saves it: what R311 says is not saved is clear. -/
def Warp.save (now : Nat) (w : Warp) : Warp :=
  let p (x : Option Path) : Option Path := x.map fun (q : Path) => { q with wait := q.wait.saved now }
  { w.untrap with
    fromReserve := 0, flags := List.replicate 12 0
    latches := w.latches.map (fun (l : Latch) => { l with valid := 0 })
    vregs := w.vregs.map VReg.untag, lent := w.lent.map VReg.untag
    frame := w.frame.map (fun (f : Frame) => { f with fromReserve := false, vregs := f.vregs.map VReg.untag })
    path0 := p w.path0, path1 := p w.path1, lastSlot := none, stalled := []
    stack := w.stack.map (fun e => match e with | .path q => .path { q with wait := q.wait.saved now } | .join r => .join r)
    gate := none, turn := none, age := 0 }

/-- Nothing of a block is in flight, so that its context can be saved (R310). -/
def State.savable (s : State) (b : Block) : Bool :=
  !b.switching && !(s.ops.any fun o => o.block == b.id)
    && b.warps.zipIdx.all fun x => x.1.ended || s.drained b.id x.2 x.1

/-- What the warps of a block wait for in instructions that have not committed is withdrawn (R310). -/
def State.withdrawAll (s : State) (b : Block) : State :=
  (List.range b.warps.length).foldl (fun s i => (s.withdraw b.id i 0).withdraw b.id i 1) s

/-- A core's reserve has no holder among a block's warps (R97). -/
def State.freeHolder (s : State) (core b : Nat) : State :=
  let c := s.core core
  match c.holder with
  | some (x, _) => if x = b then s.setCore core { c with holder := none } else s
  | none => s

/-- The device writes a saved context somewhere in the save pool of its context, in a layout of its own (R311, R320). -/
def State.fillSave (s : State) (ctx : Nat) : State :=
  let c := s.ctx ctx
  s.fillVirt ctx (c.saveSize.toNat + 1) c.saveBase.toNat (65536 * c.saveSize.toNat)

/-- The context of a block is written, and its core is free of it (R310, R311). -/
def State.saveBlock (s : State) (bid : Nat) (loc : Where) : State :=
  match s.block? bid with
  | none => s
  | some b0 =>
    match b0.core? with
    | none => s
    | some core =>
      let s1 := (s.setBlock b0.spoilSwitches).withdrawAll b0
      match s1.block? bid with
      | none => s
      | some b =>
        let now := s1.cycle (clusterOf core)
        (((s1.setBlock { b with loc := loc, stopping := false, reshape := none, warps := b.warps.map (Warp.save now) }).freeHolder
          core bid).vacate core).fillSave b.ctx

/-- A block is aborted for a replay: its warps end, its undrained operations and transfers are discarded, and its core is
free of it (R98). The epochs of the stores that drained stay with its record (R96). -/
def State.abortBlock (s : State) (bid : Nat) : State :=
  match s.block? bid with
  | none => s
  | some b =>
    match b.core? with
    | none => s
    | some core =>
      let s1 := { s with ops := s.ops.filter fun o => o.block != bid
                         service := s.service.filter fun q => !(s.ops.any fun o => o.id == q.2.1 && o.block == bid)
                         xfers := s.xfers.filter fun x => x.block != bid
                         records := s.records.map fun (r : Record) =>
                           if r.id = b.record then { r with epochs := distinct (r.epochs ++ b.warps.filterMap fun (w : Warp) => w.writeEpoch) } else r }
      let s2 := (List.range b.warps.length).foldl (fun s i => s.endWarp bid i) s1
      match s2.block? bid with
      | none => s
      | some b1 =>
        ((s2.setBlock { b1 with loc := .replay, warps := [], spad := [], acc := [], stopping := false, reshape := none
                                switches := [], qwait := [], qspoiled := [] }).freeHolder core bid).vacate core

/-! ### Coming back to a core (R312) -/

/-- What a saved block needs of a core. -/
def State.savedNeed (s : State) (b : Block) : Need :=
  let live := b.warps.filter fun w => !w.ended
  let v := (s.variantOf b).getD { swmap := 0, sctab := 0, entry := 0, accl := 0, spad := 0, nwarp := 0, regb := 0 }
  { warps := live.length, regs := (live.map fun w => w.b + (if w.frame.isSome then 1 else 0)).sum
    spad := v.spad, acc := 32 * v.accl }

/-- A warp restored on a core (R238, R312). -/
def Warp.restore (w : Warp) (now hwslot : Nat) (salvaged : Bool) : Warp :=
  let p (x : Option Path) : Option Path := x.map fun (q : Path) => { q with wait := q.wait.resumed now }
  { w with
    path0 := p w.path0, path1 := p w.path1, hwslot := hwslot
    stack := w.stack.map (fun e => match e with | .path q => .path { q with wait := q.wait.resumed now } | .join r => .join r)
    shapes := w.shapes.map fun x => x.regrant salvaged }

/-- Pairs of a block follow it to its new core, whose cluster's table takes them in whatever it holds (R155, R312; log entry
90). -/
def State.routePairs (s : State) (bid core : Nat) : State :=
  { s with pairs := s.pairs.map fun (p : WarpPair) => if p.block0 = bid then { p with cluster := clusterOf core } else p }

/-- The marks of a block's last stop hold at its new stop too, so that its warps never read an older payload than before
(R231). -/
def State.carryMarks (s : State) (old core : Nat) : State :=
  if old = core then s
  else
    let mine := (s.ring.marks.filter fun m => m.1 == old).map fun m => (core, m.2)
    { s with ring := { s.ring with marks := distinct (mine ++ s.ring.marks) } }

/-- The warps of a saved block on a core: each that has not ended takes the next free warp slot (R94, R312). -/
def restoreWarps (now : Nat) (salvaged : Bool) : List Nat → List Warp → List Warp
  | _, [] => []
  | slots, w :: ws =>
    if w.ended then w :: restoreWarps now salvaged slots ws
    else w.restore now (nth 0 slots 0) salvaged :: restoreWarps now salvaged (slots.drop 1) ws

/-- A saved block is placed on a core (R312). -/
def State.restoreBlock (s : State) (b : Block) (core : Nat) (at_ : Nat × Nat) : State :=
  let slots := s.freeSlots core (b.warps.filter fun w => !w.ended).length
  let ws := restoreWarps (s.cycle (clusterOf core)) (s.salvaged core) slots b.warps
  ((((s.takeUp core b.ctx).setBlock
    { b with loc := .core core, warps := ws, spadBase := at_.1, accBase := at_.2, lastCore := core }).routePairs b.id core).carryMarks
      b.lastCore core)

end Sys2Proof.Machine
end

