-- ==== Sys2Proof/Machine/Traps.lean ====
section
/-!
DEFINITION. Traps, pre-emption and contexts (R304 to R321, R380): CSRR, CSRW and TRET, with the events TRAP_ENTRY,
BLOCK_TERMINATE, PREEMPT, IFAULT_SWAP_OUT, BLOCK_REPLAY, FAULT_RECORD_WRITE, FR_HEAD_WRITE, FAULT_REWALK,
CONTEXT_LOAD, CONTEXT_KILL, CONTEXT_STOP, CONTEXT_RESUME and HOST_TLB_INVALIDATE.
-/
namespace Sys2Proof.Machine
open Sys2Proof

/-! ### CSRs (R313 to R318) -/

/-- The low word of a 64-bit CSR. -/
def lowWord (v : DWord) : Word := v.truncate 32
/-- The high word of a 64-bit CSR. -/
def highWord (v : DWord) : Word := v.extractLsb' 32 32

/-- No block of a context is resident and no save is in progress: IDLE (R310, R318). -/
def State.ctxIdle (s : State) (ctx : Nat) : Bool :=
  !(s.blocks.any fun b => b.ctx == ctx && b.core?.isSome)
    && !(s.xfers.any fun x => x.ctx == ctx && s.blocks.any fun b => b.id == x.block)

/-- CTX_CTL as it reads (R318): LOAD and KILL are done in the step that carries them out and read 0. -/
def State.ctxCtl (s : State) (ctx : Nat) : Word :=
  BitVec.ofNat 32 ((if (s.ctx ctx).live then 2 ^ 31 else 0) + (if s.ctxIdle ctx then 2 else 0) + (if (s.ctx ctx).stop then 1 else 0))

/-- CIRC_QUOTA as it reads (R222). -/
def State.circQuota (s : State) (ctx : Nat) : Word :=
  BitVec.ofNat 32 (s.circUsed ctx % 2 ^ 11 * 2 ^ 16 + (s.ctx ctx).circLimit % 2 ^ 11)

/-- DEV_ID (R318). -/
def State.devId (s : State) : Word := BitVec.ofNat 32 (0x0009 * 2 ^ 16 + s.dev.step.toNat * 2 ^ 8 + s.dev.salv.toNat)

/-- The words of ENG_ERR and ENG_ERRHI (R314). -/
def Core.engErrWords (c : Core) : Word × Word :=
  match c.engErr with
  | none => (0#32, 0#32)
  | some v => (BitVec.ofNat 32 v.toNat, BitVec.ofNat 32 (v.toNat / 2 ^ 32 + 2 ^ 31))

/-- A context CSR (R314); numbers that R314 does not list read 0. -/
def State.ctxCsr (s : State) (ctx num : Nat) : Word :=
  let c := s.ctx ctx
  match num with
  | 0x020 => c.schedExp
  | 0x021 => c.memExp
  | 0x022 => c.circExp
  | 0x023 => c.pxExp
  | 0x02C => c.ctxQerr
  | 0x040 => c.partWord
  | 0x041 => c.pxQuota
  | 0x042 => s.circQuota ctx
  | 0x043 => lowWord c.trapVec
  | 0x044 => highWord c.trapVec
  | 0x045 => c.trapLen
  | 0x046 => lowWord c.ptRoot
  | 0x047 => highWord c.ptRoot
  | 0x048 => lowWord c.privBase
  | 0x049 => highWord c.privBase
  | 0x04A => lowWord c.pwBase
  | 0x04B => highWord c.pwBase
  | 0x04C => lowWord c.qdBase
  | 0x04D => highWord c.qdBase
  | 0x04E => lowWord c.saveBase
  | 0x04F => highWord c.saveBase
  | 0x050 => lowWord c.frBase
  | 0x051 => highWord c.frBase
  | 0x052 => c.frHead
  | 0x053 => c.frTail
  | 0x05C => s.ctxCtl ctx
  | 0x05D => c.privSize
  | 0x05E => c.saveSize
  | n =>
    if 0x024 ≤ n ∧ n ≤ 0x02B then nth 0#32 c.pxLost (n - 0x024)
    else if 0x054 ≤ n ∧ n ≤ 0x05B then nth 0#32 c.coreMask (n - 0x054)
    else 0#32

/-- A CSR as a warp reads it (R314). -/
def State.csrValue (s : State) (a : Actx) (num : Nat) : Word :=
  match num with
  | 0x000 => a.w.trapCause
  | 0x001 => lowWord a.w.trapPc
  | 0x002 => highWord a.w.trapPc
  | 0x003 => lowWord a.w.trapAddr
  | 0x004 => highWord a.w.trapAddr
  | 0x005 => a.w.trapMask
  | 0x010 => (s.core a.core).engErrWords.1
  | 0x011 => (s.core a.core).engErrWords.2
  | 0x080 => s.devId
  | n => s.ctxCsr a.blk.ctx n

/-- The CSR an instruction names (R313). -/
def csrNum (o : Opnds) : Nat := bits o.imm16 11 0

/-- CSRR (R313). -/
def execCsrr (o : Opnds) (s : State) : Host.Outcome State Fault Refusal :=
  s.run o fun a _ => (s.wrSc a o.d.toNat (s.csrValue a (csrNum o))).retire a

/-- CSRR of ENG_ERR (R177, R314): both words are cleared. -/
def execEngErrRead (o : Opnds) (s : State) : Host.Outcome State Fault Refusal :=
  s.run o fun a _ =>
    ((s.wrSc a o.d.toNat (s.csrValue a 0x010)).setCore a.core { s.core a.core with engErr := none }).retire a

/-- A CSRW to a context CSR is on its way, and its slot blocks until it completes (R98, R313). -/
def State.csrWrite (s : State) (o : Opnds) : Host.Outcome State Fault Refusal :=
  s.run o fun a _ =>
    ((s.loseIdemp a).pushOp a none none (.csrw a.slot (csrNum o) (s.scalar a o.a o.sa))).blockSlot a

/-- CSRW (R313). -/
def execCsrw (o : Opnds) (s : State) : Host.Outcome State Fault Refusal := s.csrWrite o

/-- CSRW to PX_LOST0–PX_LOST7 (R263, R271): the write of 1 clears a bit when it completes. -/
def execPxLostClear (o : Opnds) (s : State) : Host.Outcome State Fault Refusal := s.csrWrite o

/-! ### TRET (R309) -/

/-- The path at which a trapped warp goes on. -/
def Warp.resumePath (w : Warp) (p : Path) (f : Frame) (now : Nat) (skip : Bool) : Path :=
  let over_ := skip && w.trapCause.getLsbD 17
  { p with
    pc := if over_ then w.trapPc + 8#64 else w.trapPc
    clause := if over_ then { f.clause with left := f.clause.left - 1 } else f.clause
    wait := if over_ then .ready else f.wait.resumed now }

/-- A warp after TRET: the frame is restored, handler mode is left, and the path goes on at TRAP_PC (R309). -/
def Warp.returned (w : Warp) (slot : Nat) (p : Path) (f : Frame) (now : Nat) (skip : Bool) : Warp :=
  let w1 := { w with
    sregs := w.sregs.take 88 ++ f.sregs
    latches := f.latches.map (fun (l : Latch) => { l with valid := 0 }) }
  (w1.leaveHandler.setPath slot (some (w.resumePath p f now skip))).settled

/-- TRET and TRET.SKIP (R309). -/
def State.trapReturn (s : State) (o : Opnds) (skip : Bool) : Host.Outcome State Fault Refusal :=
  s.run o fun a m =>
    match a.w.frame with
    | none => s.raise a Code.illegal 0x0F
    | some f =>
      if m ≠ a.w.trapMask then s.raise a Code.illegal 0x0F
      else if s.busy a.bid a.wi || a.w.pending then s
      else (s.dropHandler a).updWarp a.bid a.wi fun w => w.returned a.slot a.p f (s.cycle (clusterOf a.core)) skip

/-- TRET. -/
def execTret (o : Opnds) (s : State) : Host.Outcome State Fault Refusal := s.trapReturn o false
/-- TRET.SKIP. -/
def execTretSkip (o : Opnds) (s : State) : Host.Outcome State Fault Refusal := s.trapReturn o true

/-! ### TRAP_ENTRY and BLOCK_TERMINATE (R305, R308) -/

/-- The slot of an asynchronous trap: that of the path of lowest address, or the one slot that holds a path (R305). -/
def Warp.asyncSlot (w : Warp) : Option Nat :=
  match w.path0, w.path1 with
  | some p, some q => some (if q.pc.toNat < p.pc.toNat then 1 else 0)
  | some _, none => some 0
  | none, some _ => some 1
  | none, none => none

/-- The chosen slot stops for an asynchronous trap: an instruction that has not committed is withdrawn, and a sleep is recorded at
once (R81, R305). -/
def State.stopSlot (s : State) (b wi slot now : Nat) (rest : List AsyncTrap) (t : Trap) : State :=
  (s.withdraw b wi slot).updWarp b wi fun w =>
    let w1 := { w with async := rest, trap := some t }
    match w1.path slot with
    | some p => w1.setWait slot (p.wait.saved now)
    | none => w1

/-- The oldest asynchronous trap of a warp is taken at this boundary, when the warp may take one (R305, R308). A CSRW under way
is let complete first. -/
def State.takeAsync (s : State) (blk : Block) (wi : Nat) (w : Warp) : State :=
  match w.async, w.asyncSlot with
  | t :: rest, some slot =>
    if w.frame.isSome || w.isParked || blk.stopping || blk.ending.isSome || s.blockHeld blk.id || blk.switching
        || s.csrwPends blk.id wi slot then s
    else
      let pc := ((w.path slot).map (·.pc)).getD 0#64
      if (s.ctx blk.ctx).trapVec = 0#64 then s.terminate blk.id t.code.toNat t.detail.toNat pc t.addr
      else
        let u : Trap := { code := t.code, detail := t.detail, addr := t.addr, slot := slot, skip := false, seq := s.nextId }
        ({ s with nextId := s.nextId + 1 }.stopSlot blk.id wi slot (s.cycle (clusterOf (blk.core?.getD 0))) rest u).tryEnter blk.id wi
  | _, _ => s

/-- TRAP_ENTRY (block, warp): a trap that has been raised is entered once nothing of the warp is in flight, or the oldest
asynchronous trap is taken (R305). -/
def execTrapEntry (s : State) : Host.Outcome State Fault Refusal :=
  match s.warp? (s.arg 0) (s.arg 1) with
  | none => .next s
  | some (blk, w) =>
    if blk.core?.isNone || w.ended then .next s
    else if w.trap.isSome then .next (s.tryEnter blk.id (s.arg 1))
    else .next (s.takeAsync blk (s.arg 1) w)

/-- BLOCK_TERMINATE (block): a block that is to be ended ends once its issued stores have drained (R308). -/
def execBlockTerminate (s : State) : Host.Outcome State Fault Refusal := .next (s.tryTerminate (s.arg 0))

/-! ### Pre-emption, swap-out and replay (R98, R99, R310) -/

/-- PREEMPT (block): a block that R92 or CTX_CTL.STOP has stopped is saved once nothing of it is in flight (R310). -/
def execPreempt (s : State) : Host.Outcome State Fault Refusal :=
  match s.block? (s.arg 0) with
  | none => .next s
  | some b =>
    if b.stopping && b.ending.isNone && !s.blockHeld b.id && s.savable b then .next (s.saveBlock b.id .resume) else .next s

/-- The block waits for this page: a swap-out or a replay. -/
def FaultWait.holds (f : FaultWait) (b : Nat) (swap : Bool) : Bool :=
  match f.waiter with
  | .swap x => swap && x == b
  | .replay x => !swap && x == b
  | _ => false

/-- IFAULT_SWAP_OUT (block): a block whose fetch met a page with P = 0 is saved and leaves its core (R99). -/
def execIfaultSwapOut (s : State) : Host.Outcome State Fault Refusal :=
  match s.block? (s.arg 0) with
  | none => .next s
  | some b =>
    if (s.faultWaits.any fun f => f.holds b.id true) && b.ending.isNone && s.savable b then .next (s.saveBlock b.id .swapped)
    else .next s

/-- BLOCK_REPLAY (block): a block with idempotent treatment that met a data page fault is aborted (R98). -/
def execBlockReplay (s : State) : Host.Outcome State Fault Refusal :=
  match s.block? (s.arg 0) with
  | none => .next s
  | some b =>
    if (s.faultWaits.any fun f => f.holds b.id false) && b.ending.isNone then .next (s.abortBlock b.id) else .next s

/-! ### Fault records and the end of a wait (R319, R380) -/

/-- FAULT_RECORD_WRITE (context): the oldest record the device holds is written once the ring has room (R319). -/
def execFaultRecordWrite (s : State) : Host.Outcome State Fault Refusal := .next (s.writeHeld (s.arg 0))

/-- FR_HEAD_WRITE (context, value): the host has consumed records; the waits whose records it has passed will be walked
again (R380). -/
def execFrHeadWrite (s : State) : Host.Outcome State Fault Refusal :=
  if !s.dev.ready then .next s else
  let v : Word := BitVec.ofNat 32 (s.arg 1)
  let s1 := s.setCtx (s.arg 0) { s.ctx (s.arg 0) with frHead := v }
  .next { s1 with faultWaits := s1.faultWaits.map fun (f : FaultWait) =>
    match f.seq with
    | some n => if f.ctx = s.arg 0 ∧ 0 < (v - n).toInt then { f with passed := true } else f
    | none => f }

/-- The wait is over. -/
def State.endPageWait (s : State) (id : Nat) : State := { s with faultWaits := s.faultWaits.filter fun f => f.id != id }

/-- A block goes from where it waits for a page to the resume list, its parked path ready to fetch again. -/
def State.toResume (s : State) (bid id : Nat) (loc : Where) : State :=
  let free (p : Option Path) : Option Path := p.map fun (q : Path) => if q.wait = .parked id then { q with wait := .ready } else q
  { s with blocks := s.blocks.map fun (b : Block) =>
      if b.id = bid then
        { b with loc := loc
                 warps := b.warps.map fun (w : Warp) => { w with path0 := free w.path0, path1 := free w.path1 } }
      else b }

/-- What waits for a page goes on: `reason` is none when the page is present, or else the reason its access now fails for
(R380). A warp on a core takes DFAULT with that reason; everything else meets the reason itself when it goes on. -/
def State.endFault (s : State) (f : FaultWait) (reason : Option Nat) : State :=
  let s1 := s.endPageWait f.id
  match f.waiter with
  | .warp b wi slot =>
    let s2 := s1.updWarp b wi fun w =>
      match w.path slot with
      | some p => if p.wait = .parked f.id then w.setWait slot .ready else w
      | none => w
    match reason, (s1.block? b).bind (·.core?) with
    | some d, some _ => s2.raiseTrap b wi slot Code.dfault d (BitVec.ofNat 64 f.va) true
    | _, _ => s2
  | .replay b => s1.toResume b f.id .fresh
  | .swap b => s1.toResume b f.id .resume
  | .xfer id => { s1 with xfers := s1.xfers.map fun (x : Xfer) => if x.id = id then { x with held := none } else x }
  | .dispatch r => { s1 with records := s1.records.map fun (x : Record) => if x.id = r then { x with held := none } else x }

/-- A block that is to leave its core for a wait has left it. -/
def State.waiterAway (s : State) (f : FaultWait) : Bool :=
  match f.waiter with
  | .replay b => (match s.block? b with | some x => x.loc == .replay | none => true)
  | .swap b => (match s.block? b with | some x => x.loc == .swapped | none => true)
  | _ => true

/-- The access a wait repeats. -/
def FaultWait.access (f : FaultWait) : Access := if f.fetch then .fetch else if f.write then .write else .read

/-- FAULT_REWALK (wait): FR_HEAD has passed the wait's record, and the page table is walked again (R380). -/
def execFaultRewalk (s : State) : Host.Outcome State Fault Refusal :=
  match s.faultWaits.find? fun f => f.id == s.arg 0 with
  | none => .next s
  | some f =>
    if !f.passed || !s.waiterAway f then .next s
    else
      match s.walk f.ctx f.va f.access with
      | .ok _ => .next (s.endFault f none)
      | .error d =>
        if d = 0x01 then
          let s1 := { s with faultWaits := s.faultWaits.map fun (x : FaultWait) =>
            if x.id = f.id then { x with seq := none, passed := false } else x }
          .next (s1.postRecord f.ctx
            { addr := BitVec.ofNat 64 f.va, pc := f.pc, core := f.core, kind := 0, detail := 1#8
              code := BitVec.ofNat 8 f.code, wait := some f.id })
        else .next (s.endFault f (some d))

/-! ### Contexts (R318, R321) -/

/-- The window table of a context as it is loaded, its reserved bits ignored (R2, R183). -/
def State.windowTable (s : State) (base : Nat) : List Window :=
  if base = 0 then []
  else (List.range 256).map fun w =>
    let x := leNat ((List.range 32).map fun i => s.freeOr (32 * w + i) (base + 32 * w + i))
    { phys1 := fieldOf x 243 192, phys0 := fieldOf x 179 128, vbase := fieldOf x 120 64, size := fieldOf x 63 32
      cur := x.testBit 1, v := x.testBit 0 }

/-- CONTEXT_LOAD (context): CTX_CTL.LOAD; ignored unless IDLE (R321). -/
def execContextLoad (s : State) : Host.Outcome State Fault Refusal :=
  let c := s.ctx (s.arg 0)
  if s.dev.ready && s.ctxIdle (s.arg 0) then
    .next ({ s with drawn := s.drawn + 8192 }.setCtx (s.arg 0) { c with live := true, windows := s.windowTable c.pwBase.toNat })
  else .next s

/-- Every stitch of a context is bound off (R222, R321). -/
def State.bindOffAll (s : State) (ctx : Nat) : State :=
  (List.range s.ring.pos.length).foldl (fun (s : State) (p : Nat) =>
    if (((s.ring.at p).stitch).map (·.ctx)) = some ctx then s.bindOff p else s) s

/-- Every proxy run and request of a context goes (R321); its reservations went with its last resident block (R261). -/
def State.freeProxies (s : State) (ctx : Nat) : State :=
  { s with
    homes := s.homes.map (fun (h : Home) => { h with runs := h.runs.filter fun r => r.ctx != ctx })
    pxReqs := s.pxReqs.filter fun r => r.ctx != ctx }

/-- Every bank context of a context ends with STATE 6, the queued ones too (R321). -/
def State.endBanks (s : State) (ctx : Nat) : State :=
  (List.range s.chans.length).foldl (fun (s : State) (chan : Nat) =>
    let s1 := (List.range 4).foldl (fun (s : State) (cx : Nat) =>
      match s.bankCtx? chan cx with
      | some k => if k.launch.ctx = ctx then s.bankEnd chan cx k .aborted else s
      | none => s) s
    let gone := (s1.chan chan).queue.filter fun l => l.ctx == ctx
    let s2 := s1.setChan chan { s1.chan chan with queue := (s1.chan chan).queue.filter fun l => l.ctx != ctx }
    gone.foldl (fun (s : State) (l : BankLaunch) => s.writeStatus chan { l.context chan with state := .aborted }) s2) s

/-- Nothing of a context is left to dispatch or to wait for (R321); the pairs of its saved blocks end with them (R155). -/
def State.forget (s : State) (ctx : Nat) : State :=
  let gone (b : Nat) : Bool := s.blocks.any fun x => x.id == b && x.ctx == ctx
  { s with
    pairs := s.pairs.filter (fun p => !gone p.block0 && !gone p.block1)
    qtails := s.qtails.filter (fun q => q.1 != ctx)
    blocks := s.blocks.filter (fun b => b.ctx != ctx)
    records := s.records.filter (fun r => r.ctx != ctx)
    hwslots := s.hwslots.map (fun h => match h with | some x => if x.ctx = ctx then none else some x | none => none)
    qwaits := s.qwaits.filter (fun w => w.ctx != ctx)
    deferred := s.deferred.filter (fun d => d.1 != ctx)
    ready := s.ready.filter (fun r => r.1 != ctx)
    faultWaits := s.faultWaits.filter (fun f => f.ctx != ctx)
    tlb := s.tlb.filter (fun e => e.ctx != ctx) }

/-- CONTEXT_KILL (context): CTX_CTL.KILL; ignored unless LIVE and IDLE (R321). -/
def execContextKill (s : State) : Host.Outcome State Fault Refusal :=
  let ctx := s.arg 0
  if s.dev.ready && (s.ctx ctx).live && s.ctxIdle ctx then
    .next (((((s.endBanks ctx).bindOffAll ctx).freeProxies ctx).forget ctx).setCtx ctx Ctx.created)
  else .next s

/-- CONTEXT_STOP (context): CTX_CTL.STOP is set, and every block of the context is pre-empted (R310, R318). -/
def execContextStop (s : State) : Host.Outcome State Fault Refusal :=
  if !s.dev.ready then .next s else
  let ctx := s.arg 0
  let s1 := s.setCtx ctx { s.ctx ctx with stop := true }
  .next { s1 with blocks := s1.blocks.map fun (b : Block) =>
    if b.ctx = ctx ∧ b.core?.isSome then { b with stopping := true } else b }

/-- CONTEXT_RESUME (context): CTX_CTL.STOP is cleared, and dispatch goes on (R318). -/
def execContextResume (s : State) : Host.Outcome State Fault Refusal :=
  .next (if s.dev.ready then s.setCtx (s.arg 0) { s.ctx (s.arg 0) with stop := false } else s)

/-- HOST_TLB_INVALIDATE (context, address): HINV shoots down a translation as TLBH.INV does (R186, R318). -/
def execHostTlbInvalidate (s : State) : Host.Outcome State Fault Refusal := 
  .next (if s.dev.ready then s.shootDown (s.arg 0 % 64) (s.arg 1) else s)

end Sys2Proof.Machine
end

