-- ==== Sys2Proof/Machine/Launch.lean ====
section
/-!
DEFINITION. The scheduling instructions (R97, R100 to R108), with the events RBACQ_WAKE, REGEXH, SWITCH_GRACE_EXPIRY and
SWITCH_APPLY.
-/
namespace Sys2Proof.Machine
open Sys2Proof

/-! ### SPAWN and JDEC (R95, R103, R104) -/

/-- The 64 bytes of a record at a warp's address: their physical addresses, or what stops the instruction; TRAP_ADDR of its MISALIGN
is the model's choice, the record's address (log entry 104). -/
def State.recordAt (s : State) (a : Actx) (va : Nat) (acc : Access) : Except State (Nat × State) :=
  if va % 64 ≠ 0 then .error (s.raiseAt a Code.misalign 0 (BitVec.ofNat 64 va))
  else
    match s.translate a.core a.blk.ctx va acc with
    | (.error d, s1) => .error (s1.dataFault a va d (acc == .write))
    | (.ok pa, s1) => .ok (pa, s1.misuse a.blk.ctx [va])

/-- A global store of the warp has not drained to device scope (R103, R191). -/
def State.storesOpen (s : State) (a : Actx) : Bool :=
  (s.ops.any fun o => o.block == a.bid && o.warp == a.wi && o.kind.isStore) || !s.epochClosed a.w

/-- The end of a SPAWN: Sd is written when it completes. -/
def State.spawned (s : State) (a : Actx) (o : Opnds) (v : Word) : State :=
  ((s.loseIdemp a).startOp a o (.done [.scalar o.d.toNat v])).retire a

/-- SPAWN (R103): the record is read behind every earlier store of the warp. A queue whose descriptor does not translate
raises QFAULT, as an invalid one does (DEDUCED, log entry 77). -/
def execSpawn (o : Opnds) (s : State) : Host.Outcome State Fault Refusal :=
  s.counted o fun a _ =>
    let va := (s.scalar a o.a o.sa).toNat
    if s.storesOpen a then s
    else
      match s.recordAt a va .read with
      | .error s1 => s1
      | .ok (pa, s1) =>
        let places := (List.range 64).map (pa + ·)
        if s1.earlierTouch s1.nextId a.bid a.wi places true then s1 else
        let (bs, s2) := s1.readAt (MemTag.warp a.bid a.wi a.core s1.nextId) places s1.memTime
        let r := Rec.ofNat (leNat bs)
        match s2.qdesc a.blk.ctx r.qid with
        | none => s2.raise a Code.qfault 0
        | some d =>
          if !d.ok || !r.valid d.ctx || r.ctx != a.blk.ctx || !d.en || d.host then s2.raise a Code.qfault 0
          else if r.join ≠ 0 then s2.spawned a o 1#32
          else if d.full then s2.spawned a o 2#32
          else
            let entry := d.entry d.tail
            match s2.walk a.blk.ctx entry .write with
            | .error e => s2.dataFault a entry e true
            | .ok _ =>
              let (order, s3) := s2.fresh
              (s3.pushRing a.blk.ctx r.qid d bs order).spawned a o 0#32

/-- JDEC (R104): QFAULT where the record is another context's; the decrement is made at the record's service warp, in its
place behind the warp's earlier accesses to the record (R96, R192). -/
def execJdec (o : Opnds) (s : State) : Host.Outcome State Fault Refusal :=
  s.counted o fun a _ =>
    let va := (s.scalar a o.a o.sa).toNat
    match s.recordAt a va .write with
    | .error s1 => s1
    | .ok (pa, s0) =>
      let (bs, s1) := s0.loadBytes ((List.range 64).map (pa + ·))
      if s0.earlierTouch s0.nextId a.bid a.wi ((List.range 64).map (pa + ·)) then s0
      else if (Rec.ofNat (leNat bs)).ctx ≠ a.blk.ctx then s1.raise a Code.qfault 0
      else if 256 ≤ (s1.service.filter fun q => q.1 == atomicOwner pa).length then s1
      else
        let e := s1.writeEpochOf a.core
        let id := s1.nextId
        let s2 := (s1.loseIdemp a).pushOp a (a.flagOf o.fs) (some e) (.jdec va pa o.d.toNat)
        let s3 := { s2 with service := s2.service ++ [(atomicOwner pa, id, pa / 64)] }
        (s3.updWarp a.bid a.wi fun w => { w.countUp (a.flagOf o.fs) with writeEpoch := some e }).retire a

/-! ### Register blocks (R97, R107, R108) -/

/-- A warp receives register blocks, zero and tagged uniform (R107, R111). -/
def Warp.gain (w : Warp) (n fromReserve : Nat) : Warp :=
  { w with b := w.b + n, fromReserve := w.fromReserve + fromReserve, vregs := w.vregs ++ List.replicate (8 * n) VReg.zero }

/-- REGWAIT of a context's SCHED_EXP (R316). -/
def State.regWait (s : State) (ctx : Nat) : Nat := bits (s.ctx ctx).schedExp 12 8

/-- RBACQ (R107): the pool, then the reserve, then the wait. -/
def execRbacq (o : Opnds) (s : State) : Host.Outcome State Fault Refusal :=
  s.run o fun a _ =>
    let n := o.imm16.toNat
    let c := s.core a.core
    if a.w.b + n > 30 then s.raise a Code.illegal 0x0F
    else if n ≤ s.poolFree a.core then (s.updWarp a.bid a.wi fun w => w.gain n 0).retire a
    else if c.holder.isNone && decide (n ≤ s.reserveFree a.core) then
      ((s.setCore a.core { c with holder := some (a.bid, a.wi) }).updWarp a.bid a.wi fun w => w.gain n n).retire a
    else if s.regWait a.blk.ctx = 0 then s.raise a Code.regexh 0
    else
      let s1 := s.blockSlot a
      s1.setCore a.core { c with parks := c.parks ++ [(a.bid, a.wi, a.slot, n, s.cycle (clusterOf a.core))] }

/-- The state without a park. -/
def State.unpark (s : State) (core : Nat) (p : Nat × Nat × Nat × Nat × Nat) : State :=
  s.setCore core { s.core core with parks := (s.core core).parks.erase p }

/-- A parked warp has waited for more than REGWAIT cycles (R107, R316). -/
def State.parkOver (s : State) (a : Actx) (start : Nat) : Bool :=
  decide (start + waitCycles (s.regWait a.blk.ctx) < s.cycle (clusterOf a.core))

/-- A park ends with REGEXH (R107). -/
def State.endPark (s : State) (a : Actx) (core : Nat) (p : Nat × Nat × Nat × Nat × Nat) : State :=
  ((s.unpark core p).wake a.bid a.wi a.slot).raise a Code.regexh 0

/-- RBACQ_WAKE (core): the warp that has waited longest receives its blocks once the pool holds them; one that has waited too
long traps instead (R107). -/
def execRbacqWake (s : State) : Host.Outcome State Fault Refusal :=
  let core := s.arg 0
  match (s.core core).parks with
  | [] => .next s
  | p :: _ =>
    match s.actxAt p.1 p.2.1 p.2.2.1 with
    | none => .next (s.unpark core p)
    | some a =>
      if s.parkOver a p.2.2.2.2 then .next (s.endPark a core p)
      else if a.w.b + p.2.2.2.1 > 30 then .next ((s.unpark core p).wake p.1 p.2.1 p.2.2.1)
      else if p.2.2.2.1 ≤ s.poolFree core then
        .next (((s.unpark core p).updWarp a.bid a.wi fun w => w.gain p.2.2.2.1 0).retire a)
      else .next s

/-- REGEXH (block, warp, slot): a warp that has been parked for more than REGWAIT cycles traps (R107, R316). -/
def execRegexh (s : State) : Host.Outcome State Fault Refusal :=
  match s.actxAt (s.arg 0) (s.arg 1) (s.arg 2) with
  | none => .next s
  | some a =>
    match (s.core a.core).parks.find? fun p => p.1 == a.bid && p.2.1 == a.wi && p.2.2.1 == a.slot with
    | none => .next s
    | some p =>
      if s.parkOver a p.2.2.2.2 then .next (s.endPark a a.core p) else .next s

/-- A warp gives up register blocks; those of the reserve go back first (R97, R108). -/
def Warp.shed (w : Warp) (n : Nat) : Warp :=
  { w with b := w.b - n, fromReserve := w.fromReserve - n, vregs := w.vregs.take (8 * (w.b - n)) }

/-- RBREL (R108). -/
def execRbrel (o : Opnds) (s : State) : Host.Outcome State Fault Refusal :=
  s.run o fun a _ =>
    let n := o.imm16.toNat
    let regb := match s.variantOf a.blk with | some v => v.regb | none => 0
    if a.w.b < regb + n then s.raise a Code.illegal 0x0F
    else
      let lost := (a.w.vregs.drop (8 * (a.w.b - n))).flatMap VReg.handles
      let s1 := (s.dropRefs a.core a.blk.ctx a.bid a.wi lost).updWarp a.bid a.wi fun w => w.shed n
      let c := s1.core a.core
      let s2 := if a.w.b - n = regb ∧ c.holder = some (a.bid, a.wi) then s1.setCore a.core { c with holder := none } else s1
      s2.retire a

/-! ### PHASE (R106) -/

/-- The bytes of a table of the kernel object, read through the core's translation. -/
def State.readTable (s : State) (a : Actx) (va n : Nat) : Except (Nat × Nat) (List Byte) × State :=
  match s.translateList a.core a.blk.ctx .read ((List.range n).map (va + ·)) with
  | (.error e, s1) => (.error e, s1)
  | (.ok pas, s1) =>
    let (bs, s2) := s1.loadBytes pas
    (.ok bs, s2)

/-- The entries of a size-class table, as limit and code offset (R106). -/
def classEntries (bs : List Byte) (n : Nat) : List (Nat × Nat) :=
  (List.range n).map fun i =>
    let e := leNat ((bs.drop (8 * i)).take 8)
    (e / 2 ^ 32, e % 2 ^ 32)

/-- Limits that ascend, equal ones allowed (R106). -/
def ascending : List Nat → Bool
  | x :: y :: rest => decide (x ≤ y) && ascending (y :: rest)
  | _ => true

/-- The choice of a class (R106); a CODE within the code range that is no clause header stops at the transfer (R31). -/
def State.choosePhase (s : State) (a : Actx) (o : Opnds) (k : KObj) (kobj n : Nat) (es : List (Nat × Nat)) : State :=
  if !ascending (es.map (·.1)) then s.raise a Code.illegal 0x0F
  else
    match es.findIdx? fun e => decide (n ≤ e.1) with
    | none => (s.wrSc a o.d.toNat 0xFFFFFFFF#32).retire a
    | some i =>
      let code := (nth (0, 0) es i).2
      if code < k.codestart || k.codelim ≤ code then s.raise a Code.illegal 0x0F
      else
        let s1 := s.wrSc a o.d.toNat (w32 i)
        let s2 := match s1.block? a.bid with | some b => s1.setBlock { b with sizeclass := w32 i } | none => s1
        s2.goto a (BitVec.ofNat 64 (kobj + code))

/-- PHASE (R106). -/
def execPhase (o : Opnds) (s : State) : Host.Outcome State Fault Refusal :=
  s.run o fun a _ =>
    let n := (s.scalar a o.a o.sa).toNat
    match s.record? a.blk.record, s.kobj a.blk, s.variantOf a.blk with
    | some r, some k, some v =>
      if v.sctab = 0 then (s.wrSc a o.d.toNat 0xFFFFFFFF#32).retire a
      else
        let base := r.kobj + v.sctab
        match s.readTable a base 8 with
        | (.error (va, d), s1) => s1.dataFault a va d false
        | (.ok hd, s1) =>
          let nclass := leNat hd
          if nclass = 0 || nclass > 8 then s1.raise a Code.illegal 0x0F
          else
            match s1.readTable a (base + 8) (8 * nclass) with
            | (.error (va, d), s2) => s2.dataFault a va d false
            | (.ok bs, s2) => s2.choosePhase a o k r.kobj n (classEntries bs nclass)
    | _, _, _ => s

/-! ### Switch maps (R100) -/

/-- An entry of a switch map. -/
structure MapEntry where
  kind : Nat
  src : Nat
  dst : Nat
  count : Nat
  clean : Bool
deriving DecidableEq, Repr

/-- An entry from its 8 bytes (R100). -/
def MapEntry.ofNat (x : Nat) : MapEntry :=
  { kind := fieldOf x 63 60, src := fieldOf x 55 40, dst := fieldOf x 39 24, count := fieldOf x 15 0
    clean := fieldOf x 59 56 == 0 && fieldOf x 23 16 == 0 }

/-- A switch map: its target, RESUME and entries. -/
structure SwitchMap where
  target : Nat
  resume : Nat
  entries : List MapEntry
deriving DecidableEq, Repr

/-- What reading a list gives: a map, none that matches, or a list that is not well formed (R100). -/
inductive MapFind
  | found (m : SwitchMap)
  | absent
  | malformed
deriving DecidableEq, Repr

/-- The lowest of some bytes of a context that does not translate for reading. -/
def State.firstUnread (s : State) (ctx va n : Nat) : Nat :=
  va + ((List.range n).find? fun i => match s.physOf ctx (va + i) .read with | .error _ => true | .ok _ => false).getD 0

/-- The first map of a list that a test on K and TO accepts, or the address of the first byte that cannot be read; at most `fuel`
maps are read (R100, R173). -/
def State.findMap (s : State) (ctx : Nat) (want : Nat → Nat → Bool) : Nat → Nat → Except (Nat × Nat) MapFind
  | 0, _ => .ok .malformed
  | fuel + 1, va =>
    match s.readVirt ctx va 8 with
    | .error d => .error (s.firstUnread ctx va 8, d)
    | .ok hb =>
      let h := leNat hb
      let n := fieldOf h 31 24
      if want (fieldOf h 23 20) (fieldOf h 18 16) then
        match s.readVirt ctx (va + 8) (8 * n) with
        | .error d => .error (s.firstUnread ctx (va + 8) (8 * n), d)
        | .ok bs =>
          .ok (.found { target := fieldOf h 18 16, resume := fieldOf h 63 32
                        entries := (List.range n).map fun i => MapEntry.ofNat (leNat ((bs.drop (8 * i)).take 8)) })
      else if h.testBit 0 then .ok .absent
      else State.findMap s ctx want fuel (va + 8 + 8 * n)

/-- The maps of a block's variant: the first that a test accepts (R100). -/
def State.blockMap (s : State) (b : Block) (want : Nat → Nat → Bool) : Except (Nat × Nat) MapFind :=
  match s.record? b.record, s.variantOf b with
  | some r, some v => if v.swmap = 0 then .ok .absent else s.findMap b.ctx want 128 (r.kobj + v.swmap)
  | _, _ => .ok .absent

/-- Units of a kind in a variant's budget (R100). -/
def Variant.budget (v : Variant) (kind : Nat) : Nat :=
  match kind with | 1 => 8 * v.regb | 2 => 64 * v.spad | _ => 32 * v.accl

/-- Target ranges of one kind meet; a range of no units meets none. -/
def MapEntry.meets (x y : MapEntry) : Bool :=
  x.kind == y.kind && decide (x.dst < y.dst + y.count) && decide (y.dst < x.dst + x.count)
    && x.count != 0 && y.count != 0

/-- No two entries of a list meet. -/
def apart : List MapEntry → Bool
  | [] => true
  | x :: xs => !(xs.any x.meets) && apart xs

/-- The end of a variant's code range (R100). -/
def KObj.codeEnd (k : KObj) (entry : Nat) : Nat :=
  ((k.variants.map (·.entry)).filter fun e => decide (entry < e)).foldl min k.codelim

/-- The word at RESUME is the SWPT of the point, and a clause header follows it (R100). Words that do not translate are
neither, so that the map is not well formed (DEDUCED, log entry 78). -/
def State.resumeOk (s : State) (ctx kobj point : Nat) (m : SwitchMap) : Bool :=
  match s.readVirt ctx (kobj + m.resume) 16 with
  | .error _ => false
  | .ok bs =>
    (match decode (BitVec.ofNat 64 (leNat (bs.take 8))) with | .ok (.swpt o) => bits o.imm16 3 0 == point | _ => false)
      && (match decode (BitVec.ofNat 64 (leNat (bs.drop 8))) with | .ok (.clauseStart _) => true | _ => false)

/-- A map is well formed (R100); an entry that moves no unit must lie within the budgets too (log entry 87). -/
def State.mapOk (s : State) (ctx kobj : Nat) (k : KObj) (v t : Variant) (point : Nat) (m : SwitchMap) : Bool :=
  (m.entries.all fun e =>
    (e.kind == 1 || e.kind == 2 || e.kind == 3) && e.clean && decide (e.src + e.count ≤ v.budget e.kind)
      && decide (e.dst + e.count ≤ t.budget e.kind))
    && apart m.entries
    && m.resume % 8 == 0 && decide (t.entry ≤ m.resume) && decide (m.resume < k.codeEnd t.entry)
    && s.resumeOk ctx kobj point m

/-! ### SWPT (R105) -/

/-- A warp arrives at a switch point: it is the first there, or one more. -/
def Block.arriveSwitch (b : Block) (k wi slot now : Nat) : Block :=
  let b1 := if b.switches.any fun x => x.k == k then
      { b with switches := b.switches.map fun (x : SwitchWait) => if x.k = k then { x with arrived := x.arrived ++ [(wi, slot)] } else x }
    else { b with switches := b.switches ++
      [({ k := k, start := now, arrived := [(wi, slot)], spoiled := false, whole := false, passed := false } : SwitchWait)] }
  b1.noteWhole now

/-- The state without the arrivals at a point. -/
def State.endSwitch (s : State) (bid k : Nat) : State :=
  match s.block? bid with
  | none => s
  | some b => s.setBlock { b with switches := b.switches.filter fun x => x.k != k }

/-- Every arrived warp retires its SWPT as a no-op (R105). -/
def State.noSwitch (s : State) (bid : Nat) (x : SwitchWait) : State :=
  x.arrived.foldl (fun (s : State) (p : Nat × Nat) =>
    match s.actxAt bid p.1 p.2 with
    | some a => s.retire a
    | none => s) (s.endSwitch bid x.k)

/-- The switch points of a block whose grace is over with a warp that has not arrived (R105). -/
def Block.graceOver (b : Block) (now : Nat) : List SwitchWait :=
  b.switches.filter fun x => !x.passed && !x.whole && decide (x.start + 1024 ≤ now)

/-- The warps that wait at a switch point whose grace is over go on (R105). -/
def State.endGrace (s : State) (b : Block) (now : Nat) : State :=
  (b.graceOver now).foldl (fun (s : State) (x : SwitchWait) => s.noSwitch b.id x) s

/-- SWPT (R105): it arrives with all its lanes, its other slot free, its divergence stack empty and a request posted;
otherwise it retires with no effect. A handler's SWPT is no arrival (log entry 32). -/
def execSwpt (o : Opnds) (s : State) : Host.Outcome State Fault Refusal :=
  s.run o fun a m =>
    let ready := m == ~~~a.w.exited && (a.w.path (1 - a.slot)).isNone && a.w.stack.isEmpty && a.blk.reshape.isSome
      && a.w.frame.isNone && a.p.wait == .ready
    if !ready then s.retire a
    else
      let s1 := (s.endGrace a.blk (s.cycle (clusterOf a.core))).blockSlot a
      match s1.block? a.bid with
      | none => s1
      | some b => s1.setBlock (b.arriveSwitch (bits o.imm16 3 0) a.wi a.slot (s.cycle (clusterOf a.core)))

/-- Every arrived warp raises ILLEGAL (R105). -/
def State.badSwitch (s : State) (bid : Nat) (x : SwitchWait) : State :=
  x.arrived.foldl (fun (s : State) (p : Nat × Nat) =>
    (s.wake bid p.1 p.2).raiseTrap bid p.1 p.2 Code.illegal 0x0F 0#64 true) (s.endSwitch bid x.k)

/-- SWITCH_GRACE_EXPIRY (block): 1,024 cycles after the first arrival some warp has still not arrived, and the arrived
warps retire SWPT as no-ops (R105). -/
def execSwitchGraceExpiry (s : State) : Host.Outcome State Fault Refusal :=
  match s.block? (s.arg 0) with
  | none => .next s
  | some b =>
    match b.core? with
    | none => .next s
    | some core =>
      .next (s.endGrace b (s.cycle (clusterOf core)))

/-- A register of the target variant: where its range came from, or zero (R101). A source that two entries name gives its
handles to both targets without a further reference, since they move (log entry 74). -/
def movedReg (w : Warp) (es : List MapEntry) (r : Nat) : VReg :=
  match es.find? fun e => e.kind == 1 && decide (e.dst ≤ r) && decide (r < e.dst + e.count) with
  | some e => (nth VReg.zero w.vregs (e.src + (r - e.dst))).untag
  | none => VReg.zero

/-- The handles that a switch drops: those in registers that no entry names (R101). -/
def unnamedHandles (w : Warp) (es : List MapEntry) : List Word :=
  (w.vregs.zipIdx.filter fun x =>
    !(es.any fun e => e.kind == 1 && decide (e.src ≤ x.2) && decide (x.2 < e.src + e.count))).flatMap fun x => x.1.handles

/-- A warp carried into the target variant (R101), its path in slot 0 (log entry 86). -/
def Warp.carried (w : Warp) (m : SwitchMap) (t : Variant) (pc : DWord) : Warp :=
  { w with
    b := t.regb, fromReserve := 0, vregs := (List.range (8 * t.regb)).map (movedReg w m.entries)
    flags := List.replicate 12 0, latches := List.replicate 3 { tag := none, valid := 0 }
    path0 := some (Path.at pc (~~~w.exited) none), path1 := none, stack := [], lastSlot := none, stalled := [] }

/-- Units of one kind moved from an old store to a new one; `width` keys make a unit (R101). -/
def movedCells {α : Type} [DecidableEq α] (d : α) (old : List (Nat × α)) (es : List MapEntry) (kind width : Nat) :
    List (Nat × α) :=
  (es.filter fun e => e.kind == kind).foldl (fun m e =>
    (List.range (e.count * width)).foldl (fun m i => cellPut d m (e.dst * width + i) (cellGet d old (e.src * width + i))) m) []

/-- The warps of a block in the target variant: carried ones, and new ones for indexes the source did not have (R101). -/
def State.switchedWarps (s : State) (b : Block) (m : SwitchMap) (t : Variant) (frame core : Nat) (pc : DWord) : List Warp :=
  let old := b.warps.take t.nwarp
  let slots := s.freeSlots core (t.nwarp - old.length)
  (old.map fun w => if w.ended then w else w.carried m t pc)
    ++ (List.range (t.nwarp - old.length)).map fun i =>
      Warp.start t.regb frame pc (nth 0 slots i) (s.privBaseOf b (old.length + i))

/-- A switch is applied (R101): references in unnamed registers drop, warps beyond the target's number end, and every
warp continues at the word after RESUME. -/
def State.applySwitch (s : State) (b : Block) (core : Nat) (r : Record) (q : Reshape) (m : SwitchMap) (t : Variant) : State :=
  let pc : DWord := BitVec.ofNat 64 (r.kobj + m.resume + 8)
  let s1 := (List.range b.warps.length).foldl (fun (s : State) (i : Nat) =>
    if t.nwarp ≤ i then s.endWarp b.id i
    else
      match s.warp? b.id i with
      | some (_, w) => (s.endPairs b.id i).dropRefs core b.ctx b.id i (unnamedHandles w m.entries)
      | none => s) s
  match s1.block? b.id, s1.record? r.id with
  | some b1, some r1 =>
    let es := (b1.warps.drop t.nwarp).filterMap (·.writeEpoch)
    let b2 := { b1 with
      variant := m.target, warps := s1.switchedWarps b1 m t r.frame core pc
      spad := movedCells 0#8 b1.spad m.entries 2 64, acc := movedCells 0#32 b1.acc m.entries 3 32
      spadBase := q.spadBase, accBase := q.accBase
      reshape := none, switches := [] }
    ((s1.setBlock b2).setRecord { r1 with epochs := distinct (r1.epochs ++ es) }).freeHolder core b.id
  | _, _ => s1

/-- Nothing is in flight that a switch waits for (R105). -/
def State.switchDrained (s : State) (bid : Nat) : Bool :=
  !(s.ops.any fun o => o.block == bid)
    && !(s.xfers.any fun x => x.block == bid && x.units.any (·.dstSpad)) && !(s.xfers.any fun x => x.block == bid && x.units.isEmpty)

/-- A switch whose checks are made: it is applied once everything in flight is done, and is not interrupted until then
(R105). -/
def State.passSwitch (s : State) (b : Block) (core : Nat) (x : SwitchWait) (r : Record) (q : Reshape) (m : SwitchMap)
    (t : Variant) : State :=
  if s.switchDrained b.id then s.applySwitch b core r q m t
  else s.setBlock { b with switches := b.switches.map fun (y : SwitchWait) => if y.k = x.k then { y with passed := true } else y }

/-- The decision at a switch point where every warp has arrived: no switch when the request is gone or a warp of the block
has entered a handler since the first arrival (R105). -/
def State.decideSwitch (s : State) (b : Block) (core : Nat) (x : SwitchWait) : State :=
  match (if x.spoiled then none else b.reshape), s.record? b.record, s.kobj b, s.variantOf b with
  | some q, some r, some k, some v =>
    match s.blockMap b fun kk t => kk == x.k && t == q.target with
    | .error (va, d) =>
      match x.arrived with
      | (wi, slot) :: _ =>
        let s1 := (s.withdraw b.id wi slot).wake b.id wi slot
        match s1.actxAt b.id wi slot with
        | some a => s1.dataFault a va d false
        | none => s1
      | [] => s
    | .ok .absent => s.noSwitch b.id x
    | .ok .malformed => s.badSwitch b.id x
    | .ok (.found m) =>
      match k.variants[q.target]? with
      | none => s.badSwitch b.id x
      | some t => if s.mapOk b.ctx r.kobj k v t x.k m then s.passSwitch b core x r q m t else s.badSwitch b.id x
  | _, _, _, _ => s.noSwitch b.id x

/-- SWITCH_APPLY (block): every warp has arrived at a switch point; the checks are made, and the switch is applied once
nothing is in flight (R101, R105). -/
def execSwitchApply (s : State) : Host.Outcome State Fault Refusal :=
  match s.block? (s.arg 0) with
  | none => .next s
  | some b =>
    match b.core?, b.switches.find? (·.whole) with
    | some core, some x =>
      if b.ending.isSome || (b.stopping && !x.passed) then .next s else .next (s.decideSwitch b core x)
    | _, _ => .next s

end Sys2Proof.Machine
end

