-- ==== Sys2Proof/Machine/Scheduling.lean ====
section
/-!
DEFINITION. Queues, hardware slots and dispatch (R84 to R96, R105, R323 to R325, R336), with the events QTAIL_WRITE,
QUEUE_SLOT_MAP, QUANTUM_EXPIRY, PRIORITY_AGING, DISPATCH, BLOCK_RESTORE, SHRINK_REQUEST, PRIORITY_PREEMPT, GROW_REQUEST,
CONTEXT_YIELD, BLOCK_END_JDEC and DEFERRED_PUSH.
-/
namespace Sys2Proof.Machine
open Sys2Proof

/-! ### Kernel objects (R90, R323 to R325) -/

/-- A variant from its 32 bytes (R90). -/
def Variant.ofNat (x : Nat) : Variant :=
  { swmap := fieldOf x 255 224, sctab := fieldOf x 223 192, entry := fieldOf x 191 160, accl := fieldOf x 47 40
    spad := fieldOf x 39 32, nwarp := fieldOf x 31 24, regb := fieldOf x 20 16 }

/-- Reserved fields of a variant entry are zero (R90). -/
def variantClean (x : Nat) : Bool := fieldOf x 159 48 == 0 && fieldOf x 23 21 == 0 && fieldOf x 15 0 == 0

/-- Offset of the variant table, and the number of variants (R323). -/
def headerTable (x : Nat) : Nat × Nat := (fieldOf x 383 352, fieldOf x 47 44)

/-- The checks of R325 on the header alone. -/
def headerOk (x : Nat) : Bool :=
  let depth := fieldOf x 63 51
  fieldOf x 31 0 == 0x4B4F424A && fieldOf x 255 64 == 0 && fieldOf x 50 48 == 0 && fieldOf x 43 33 == 0
    && decide (1 ≤ fieldOf x 47 44) && decide (fieldOf x 47 44 ≤ 8)
    && (depth == 0 || (decide (16 ≤ depth) && decide (depth ≤ 4096)))
    && (fieldOf x 271 256 == 0 || fieldOf x 271 256 == 9)
    && fieldOf x 479 448 % 64 == 0 && fieldOf x 415 384 % 8 == 0 && fieldOf x 383 352 % 32 == 0
    && fieldOf x 351 320 % 8 == 0 && fieldOf x 319 288 % 8 == 0 && decide (fieldOf x 319 288 < fieldOf x 351 320)

/-- A kernel object from its header and its variants (R323). -/
def KObj.ofNat (x : Nat) (vs : List Variant) : KObj :=
  { constsz := fieldOf x 511 480, constoff := fieldOf x 479 448, privsz := fieldOf x 447 416, tdir := fieldOf x 415 384
    vtab := fieldOf x 383 352, codelim := fieldOf x 351 320, codestart := fieldOf x 319 288, ntab := fieldOf x 287 272, klass := fieldOf x 271 256
    divdepth := fieldOf x 63 51, idemp := x.testBit 32, variants := vs }

/-- The checks of R325 on a variant: its ENTRY, its ranges, and the floor of R336. -/
def KObj.variantOk (k : KObj) (v : Variant) : Bool :=
  v.entry % 8 == 0 && decide (k.codestart ≤ v.entry) && decide (v.entry < k.codelim)
    && decide (1 ≤ v.regb) && decide (v.regb ≤ 30) && decide (1 ≤ v.nwarp) && decide (v.nwarp ≤ 64)
    && (k.klass != 0 || (decide (v.nwarp ≤ 8) && decide (v.regb ≤ 8) && decide (v.spad ≤ 16)))

/-- A table directory entry has no reserved bit set and an aligned offset (R324). -/
def directoryOk (x : Nat) : Bool := fieldOf x 31 16 == 0 && fieldOf x 63 32 % 8 == 0

/-- A variant fits an empty core under a partition word (R325). -/
def fitsPart (part : Word) (v : Variant) : Bool :=
  decide (v.nwarp * v.regb ≤ bits part 5 0 * 64 - 30) && decide (v.spad ≤ bits part 11 6 * 16)
    && decide (32 * v.accl ≤ bits part 17 12 * 512)

/-- What the dispatcher finds at a kernel object (R325). -/
inductive ObjRead
  | valid (k : KObj)
  | invalid
  /-- A page of it has P = 0. -/
  | absent (va : Nat)
deriving DecidableEq, Repr

/-- The bytes that fail to translate, each with its reason. -/
def State.failures (s : State) (die ctx va n : Nat) : List (Nat × Nat) :=
  (List.range n).filterMap fun i => match (s.translateDie die ctx (va + i)).1 with | .error d => some (va + i, d) | .ok _ => none

/-- Bytes of a kernel object, read as loads of the context through a die's TLB (R163, R325): a byte with no valid entry makes
the object invalid, whatever other pages have P = 0; `k` counts the free values of the bytes in a window (R359). -/
def State.readPart (s : State) (die ctx va n k : Nat) : Except ObjRead (List Byte) :=
  match s.readDie die ctx n va k with
  | .ok bs => .ok bs
  | .error _ =>
    match s.failures die ctx va n with
    | [] => .error .invalid
    | (x, d) :: rest => if d = 0x01 ∧ rest.all (fun f => f.2 == 0x01) then .error (.absent x) else .error .invalid

/-- Consecutive words of `w` bytes. -/
def wordsOf (w n : Nat) (bs : List Byte) : List Nat := (List.range n).map fun i => leNat ((bs.drop (w * i)).take w)

/-- The dispatcher's check of a kernel object, read through a die's TLB (R325; log entry 66 for the die). Header, variant table and
table directory are reads of their own: in a window each has free bytes of its own (R158, R359). -/
def State.readObj (s : State) (die ctx kobj : Nat) : ObjRead :=
  match s.readPart die ctx kobj 64 0 with
  | .error r => r
  | .ok hb =>
    let x := leNat hb
    if !headerOk x then .invalid
    else
      let (vtab, nvar) := headerTable x
      match s.readPart die ctx (kobj + vtab) (32 * nvar) 64,
          s.readPart die ctx (kobj + fieldOf x 415 384) (8 * fieldOf x 287 272) 320 with
      | .error _, .error .invalid => .invalid
      | .error r, _ => r
      | .ok _, .error r => r
      | .ok vb, .ok tb =>
        let vs := wordsOf 32 nvar vb
        let k := KObj.ofNat x (vs.map Variant.ofNat)
        if vs.all variantClean && (wordsOf 8 k.ntab tb).all directoryOk && k.variants.all k.variantOk
            && k.variants.any (fitsPart (s.ctx ctx).partWord) then .valid k
        else .invalid

/-- The die's TLB holds the pages of the kernel object that the dispatcher has read, their A bits set (R163, R325). -/
def State.lookObj (s : State) (die ctx kobj : Nat) : State :=
  let look (s : State) (vas : List Nat) : State := vas.foldl (fun (s : State) va => (s.translateDie die ctx va).2) s
  let s1 := look s [kobj, kobj + 63]
  let t := match s.readPart die ctx kobj 64 0 with
    | .error _ => s1
    | .ok hb =>
      let x := leNat hb
      if !headerOk x then s1
      else
        look s1 ((List.range (headerTable x).2).map (fun i => kobj + (headerTable x).1 + 32 * i)
          ++ (List.range (fieldOf x 287 272)).map fun i => kobj + fieldOf x 415 384 + 8 * i)
  { t with drawn := t.drawn + 2 ^ 20 }

/-! ### Heads of queues (R89, R91) -/

/-- The record at the head of a queue: `fresh` while it is in the ring alone, `ok` unless it is invalid in a host-fed
queue (R86). -/
structure Head where
  r : Record
  fresh : Bool
  ok : Bool
deriving DecidableEq, Repr

/-- A record as it is popped from a ring entry (R85). -/
def Record.ofRec (x : Rec) (ctx q entry order : Nat) : Record :=
  { id := 0, ctx := ctx, queue := q, kobj := x.kobj, frame := if x.frame = 0 then entry else x.frame
    first := x.first, count := x.count, nbx := x.nbx, nby := x.nby, nbz := x.nbz, qid := x.qid, cont := x.cont
    stage := x.stage, prio := x.prio, next := x.first, ended := 0, ready := order, obj := none, held := none
    room := none, epochs := [] }

/-- Every block of a record has been placed. -/
def Record.placed (r : Record) : Bool := r.next == r.first + r.count

/-- The head of a queue that is enabled and not empty; none where its descriptor or its ring entry cannot be read (R87,
R89). A JOIN that a record in a ring holds plays no part (log entry 84). -/
def State.queueHead (s : State) (ctx q : Nat) : Option Head :=
  match s.qdesc ctx q with
  | none => none
  | some d =>
    if !d.ok || !d.en || d.ctx != ctx || s.tailOf ctx q d == d.head then none
    else
      match s.records.find? fun r => r.ctx == ctx && r.queue == q && !r.placed with
      | some r => some { r := r, fresh := false, ok := true }
      | none =>
        match s.readVirt ctx (d.entry d.head) 64 with
        | .error _ => none
        | .ok bs =>
          let x := Rec.ofNat (leNat bs)
          let order := ((s.ready.find? fun e => e.1 == ctx && e.2.1 == q && e.2.2.1 == d.head).map (·.2.2.2)).getD 0
          some { r := Record.ofRec x ctx q (d.entry d.head) order, fresh := true, ok := !d.host || s.recordOk ctx x }

/-- A context's records may be dispatched (R321). -/
def Ctx.dispatches (c : Ctx) : Bool := c.live && !c.stop

/-- Rank of two heads: the higher priority, then the record that became ready earlier (R91). -/
def Head.before (a b : Head) : Bool :=
  decide (b.r.prio < a.r.prio) || (a.r.prio == b.r.prio && decide (a.r.ready ≤ b.r.ready))

/-- The heads of the mapped slots whose contexts may be dispatched, ranked (R91). -/
def State.heads (s : State) : List Head :=
  (sortBy Head.before (s.hwslots.filterMap fun h => h.bind fun x => s.queueHead x.ctx x.queue)).filter
    fun h => (s.ctx h.r.ctx).dispatches

/-- The die whose TLB serves what the device does for a context on no cluster in particular: that of the lowest core of its
partition (log entry 66). -/
def State.homeDie (s : State) (ctx : Nat) : Nat := dieOf (((List.range 256).find? (s.ctx ctx).hasCore).getD 0)

/-- The kernel object of a head, where it is valid. -/
def State.headObj (s : State) (h : Head) : Option KObj :=
  match h.r.obj with
  | some k => some k
  | none => match s.readObj (s.homeDie h.r.ctx) h.r.ctx h.r.kobj with | .valid k => some k | _ => none

/-! ### Cores and contexts (R91, R93) -/

/-- A block of a kernel fits a core when the core is empty. -/
def State.fitsEmpty (s : State) (core ctx : Nat) (k : KObj) : Bool :=
  k.variants.any fun v => (s.fitsBeside (fun _ => false) [] core ctx v.need).isSome

/-- A variant of a kernel fits a core as it stands. -/
def State.canTake (s : State) (core ctx : Nat) (k : KObj) : Bool :=
  s.takes core ctx && k.variants.any fun v => (s.fits core ctx v.need).isSome

/-- No core of a head's partition but this one can take its next block, and this one could if it were empty (R93). -/
def State.needsCore (s : State) (core : Nat) (h : Head) : Bool :=
  h.ok && h.r.count != 0 && (s.ctx h.r.ctx).hasCore core
    && (match s.headObj h with
        | none => false
        | some k => s.fitsEmpty core h.r.ctx k && (List.range 256).all fun c => c == core || !s.canTake c h.r.ctx k)

/-- A core takes blocks of a context: as R91 gives, and an empty core that was yielded to a context keeps to it while that
context has a record that needs it (R93). -/
def State.isOpen (s : State) (core ctx : Nat) : Bool :=
  s.takes core ctx &&
    (match (s.core core).ctx, (s.core core).next with
     | none, some y => y == ctx || !(s.heads.any fun h => h.r.ctx == y && s.needsCore core h)
     | _, _ => true)

/-- Cores of a cluster. -/
def coresOf (cluster : Nat) : List Nat := (List.range 8).map (8 * cluster + ·)

/-- The variant, in table order, and the core of the cluster, lowest number first, for the next block of a record (R91). -/
def State.chooseCore (s : State) (cluster ctx : Nat) (k : KObj) : Option (Nat × Variant × Nat × (Nat × Nat)) :=
  k.variants.zipIdx.findSome? fun x => (coresOf cluster).findSome? fun c =>
    if s.isOpen c ctx then (s.fits c ctx x.1.need).map fun at_ => (x.2, x.1, c, at_) else none

/-! ### DISPATCH (R91) -/

/-- HEAD of a queue advances, and a queue that empties yields its slot at once (R87, R89). -/
def State.advanceHead (s : State) (ctx q : Nat) : State :=
  match s.qdesc ctx q with
  | none => s
  | some d =>
    let s1 := s.setHead ctx q (d.head + 1#32)
    let s2 := { s1 with ready := s1.ready.filter fun e => !(e.1 == ctx && e.2.1 == q && e.2.2.1 == d.head) }
    if (s.tailOf ctx q d - d.head).toNat = 1 then
      { s2 with hwslots := s2.hwslots.map fun h =>
          match h with
          | some x => if x.ctx = ctx ∧ x.queue = q then none else some x
          | none => none }
    else s2

/-- The record of a head, popped as far as the device must remember it. -/
def State.claim (s : State) (h : Head) : Record × State :=
  if h.fresh then
    let (id, s1) := s.fresh
    let r := { h.r with id := id }
    (r, { s1 with records := s1.records ++ [r] })
  else (h.r, s)

/-- A record is discarded: HEAD advances and CTX_QERR records the queue (R86, R325). -/
def State.discardHead (s : State) (h : Head) : State :=
  let s1 := (s.advanceHead h.r.ctx h.r.queue).queueError h.r.ctx h.r.queue
  if h.fresh then s1 else { s1 with records := s1.records.filter fun r => r.id != h.r.id }

/-- A record is held at the head of its slot until a page of its kernel object is resident; the fault record has the code
of a load, and the core it names is free (R325). -/
def State.holdHead (s : State) (h : Head) (va : Nat) : State :=
  let (r, s1) := s.claim h
  let (x, s2) := s1.draw
  let (id, s3) := s2.pageWait r.ctx va false false (.dispatch r.id) (bits x 7 0) Code.dfault (BitVec.ofNat 64 r.kobj)
  s3.setRecord { r with held := some id }

/-- A resumable block of the same context and priority waits (R92). -/
def State.resumeWaits (s : State) (ctx prio : Nat) : Bool :=
  s.blocks.any fun b => b.ctx == ctx && b.prio == prio && (b.loc == .resume || b.loc == .fresh)

/-- The next block of a record whose object is valid is placed in a cluster; none where it fits no core there, its pools
cannot supply it, or a block of its priority is to be resumed first (R91, R92, R320). -/
def State.placeNext (s : State) (cluster : Nat) (h : Head) (k : KObj) : Option State :=
  if s.resumeWaits h.r.ctx h.r.prio then none
  else
    match s.shares h.r.ctx k, s.chooseCore cluster h.r.ctx k with
    | some areas, some (vi, v, core, at_) =>
      let (r, s1) := s.claim h
      let s2 := s1.placeBlock { r with obj := some k } k vi v core at_ areas
      some (if r.next + 1 = r.first + r.count then s2.advanceHead r.ctx r.queue else s2)
    | _, _ => none

/-- The object of a head that is about to be checked is read (R325). -/
def State.lookHead (s : State) (die : Nat) (h : Head) : State :=
  if !h.ok || h.r.count == 0 || h.r.held.isSome || h.r.obj.isSome then s else s.lookObj die h.r.ctx h.r.kobj

/-- A cluster takes up a head: none where the head stays as it is and holds back the lower-ranked records of its context
(R86, R91, R95, R325). -/
def State.takeHead (s0 : State) (cluster : Nat) (h : Head) : Option State :=
  let die := cluster / 8
  let s := s0.lookHead die h
  if !h.ok then some (s.discardHead h)
  else if h.r.count = 0 then some ((s.claim h).2.advanceHead h.r.ctx h.r.queue)
  else if h.r.held.isSome then none
  else
    match h.r.obj with
    | some k => s.placeNext cluster h k
    | none =>
      match s0.readObj die h.r.ctx h.r.kobj with
      | .valid k => s.placeNext cluster h k
      | .invalid => some (s.discardHead h)
      | .absent va =>
        if (s.ctx h.r.ctx).ringLog.isNone then some (s.discardHead h) else some (s.holdHead h va)

/-- The first head of a ranked list that a cluster can take up, contexts held back left out (R91). -/
def State.dispatchFrom (cluster : Nat) : List Head → List Nat → State → State
  | [], _, s => s
  | h :: hs, back, s =>
    if back.contains h.r.ctx then State.dispatchFrom cluster hs back s
    else
      match s.takeHead cluster h with
      | some s1 => s1
      | none => State.dispatchFrom cluster hs (h.r.ctx :: back) (s.lookHead (cluster / 8) h)

/-- DISPATCH (cluster): the cluster takes up the highest-ranked record that it can (R91, R93). -/
def execDispatch (s : State) : Host.Outcome State Fault Refusal :=
  let cl := s.arg 0
  .next (State.dispatchFrom cl (s.heads.filter fun h => (coresOf cl).any (s.ctx h.r.ctx).hasCore) [] s)

/-! ### BLOCK_RESTORE (R98, R312) -/

/-- The first variant, in table order, in which a block fits a core. -/
def State.firstFit (s : State) (core ctx : Nat) (k : KObj) : Option (Nat × Variant × (Nat × Nat)) :=
  k.variants.zipIdx.findSome? fun x => (s.fits core ctx x.1.need).map fun at_ => (x.2, x.1, at_)

/-- A block of a resume list may be placed on a core: its context is dispatched, no transfer into its saved scratchpad is
left, and no record of higher priority of the context waits at a slot head (R92, R310, R312). -/
def State.mayRestore (s : State) (b : Block) (core : Nat) : Bool :=
  (s.ctx b.ctx).dispatches && s.isOpen core b.ctx && !(s.xfers.any fun x => x.block == b.id)
    && !(s.heads.any fun h => h.r.ctx == b.ctx && decide (b.prio < h.r.prio))

/-- BLOCK_RESTORE (block, core): a block on a resume list is placed, with its saved variant, on a core of the partition
where it fits (R92, R312); one that was aborted starts from the beginning with a variant chosen anew (R98): the first in the table's order
that fits the core which the device names (DESIGN CHOICE, log entry 79). -/
def execBlockRestore (s : State) : Host.Outcome State Fault Refusal :=
  let core := s.arg 1
  match s.block? (s.arg 0) with
  | none => .next s
  | some b =>
    if !s.mayRestore b core then .next s
    else
      match b.loc with
      | .resume =>
        match s.fits core b.ctx (s.savedNeed b) with
        | some at_ => .next (s.restoreBlock b core at_)
        | none => .next s
      | .fresh =>
        match s.record? b.record with
        | none => .next s
        | some r =>
          match r.obj with
          | none => .next s
          | some k =>
            match s.firstFit core b.ctx k with
            | some (vi, v, at_) => .next (s.placeAgain b r k vi v core at_)
            | none => .next s
      | _ => .next s

/-! ### QTAIL_WRITE and hardware slots (R88, R89) -/

/-- The context whose descriptor of a queue number names it as owner; the lowest-numbered one (log entry 33). -/
def State.queueOwner (s : State) (q : Nat) : Option Nat :=
  (List.range 64).find? fun c => match s.qdesc c q with | some d => d.ctx == c | none => false

/-- What the host wrote before its QTAIL write comes before the blocks of a record that it made ready (R339, R357; log entry
95). -/
def State.noteHosted (s : State) (order : Nat) : State :=
  let mine := (s.log.filter fun e => e.tag.agent == .host && !e.writes.isEmpty).map (·.time)
  if mine.isEmpty then s else s.note { MemEvent.of { MemTag.device with agent := .record order } with joins := mine }

/-- A new TAIL for a context's queue, unless R88 has the device ignore it. -/
def State.takeTail (s : State) (c q : Nat) (v : Word) : State :=
  match s.qdesc c q with
  | none => s
  | some d =>
    if !d.ok || !d.host || decide ((v - d.head).toNat < d.held) || decide (2 ^ d.logn < (v - d.head).toNat) then s
    else
      let n := (v - d.tail).toNat
      let s1 := (s.setTail c q v).noteTail c q v
      let s2 := { s1 with
        ready := s1.ready ++ (List.range n).map (fun i => (c, q, d.tail + BitVec.ofNat 32 i, s1.nextId + i))
        nextId := s1.nextId + n }
      let s3 := (List.range n).foldl (fun (s : State) i =>
        let s1' := s.noteHosted (s1.nextId + i)
        { s1' with readyAt := s1'.readyAt ++ [(s1.nextId + i, s1'.memTime)] }) s2
      if v = d.head then s3 else s3.noteWaiting c q

/-- QTAIL_WRITE (queue, value): the doorbell of a host-fed queue (R88). -/
def execQtailWrite (s : State) : Host.Outcome State Fault Refusal :=
  if !s.dev.ready then .next s
  else
    match s.queueOwner (s.arg 0) with
    | none => .next s
    | some c => .next (s.takeTail c (s.arg 0) (BitVec.ofNat 32 (s.arg 1)))

/-- The levels by which a queue has aged: those of PRIORITY_AGING, and one for each whole 1 ms it has waited (R89). -/
def QueueWait.aged (w : QueueWait) (now : Nat) : Nat := max w.levels ((now - w.since) / 1000000)

/-- Effective priority of a queue that waits, at a time (R89). -/
def waitPrio (h : Head) (w : QueueWait) (now : Nat) : Nat := min 7 (h.r.prio + w.aged now)

/-- The queues that wait for a slot, enabled and not empty, with their effective priorities: highest first, and those
that have waited longest first among equals (R89). -/
def State.waiting (s : State) : List (Nat × QueueWait) :=
  sortBy (fun x y => decide (y.1 < x.1) || (x.1 == y.1 && decide (x.2.since ≤ y.2.since)))
    (s.qwaits.filterMap fun w => (s.queueHead w.ctx w.queue).map fun h => (waitPrio h w s.ns, w))

/-- QUEUE_SLOT_MAP: the first of the waiting queues takes a free slot (R89). -/
def execQueueSlotMap (s : State) : Host.Outcome State Fault Refusal :=
  match s.hwslots.findIdx? (·.isNone), s.waiting with
  | some i, (_, w) :: _ =>
    .next { s with
      hwslots := setNth s.hwslots i (some { ctx := w.ctx, queue := w.queue, mapped := s.ns })
      qwaits := s.qwaits.filter fun x => !(x.ctx == w.ctx && x.queue == w.queue) }
  | _, _ => .next s

/-- QUANTUM_EXPIRY (slot): after a quantum of 50 µs a mapped queue yields its slot to a waiting queue of equal or higher
effective priority (R89). -/
def execQuantumExpiry (s : State) : Host.Outcome State Fault Refusal :=
  match nth none s.hwslots (s.arg 0) with
  | none => .next s
  | some x =>
    let p := ((s.queueHead x.ctx x.queue).map (·.r.prio)).getD 0
    if x.mapped + 50000 ≤ s.ns ∧ s.waiting.any fun w => decide (p ≤ w.1) then
      .next ({ s with hwslots := setNth s.hwslots (s.arg 0) none }.noteWaiting x.ctx x.queue)
    else .next s

/-- PRIORITY_AGING (context, queue): each whole 1 ms that a queue waits without a slot raises its effective priority by
one level, up to 7 (R89). -/
def execPriorityAging (s : State) : Host.Outcome State Fault Refusal :=
  .next { s with qwaits := s.qwaits.map fun (w : QueueWait) =>
    if w.ctx = s.arg 0 ∧ w.queue = s.arg 1 ∧ w.levels < 7 ∧ w.since + 1000000 * (w.levels + 1) ≤ s.ns then
      { w with levels := w.levels + 1 }
    else w }

/-! ### Making room (R92, R105) -/

/-- A time of a die's core clock in ns, which holds at 1.6 GHz, at the die's step (R377). -/
def State.coreTime (s : State) (die n : Nat) : Nat := n * 16 / (nth 16#8 s.dev.clkStat die).toNat

/-- The time that blocks which have been asked to shrink for a record may take: up to 4 µs on each of their dies, and none where
no block was asked (R92, R377). -/
def State.shrinkTime (s : State) (record : Nat) : Nat :=
  (s.blocks.map fun (b : Block) =>
    if b.reshape.any fun q => q.record == some record then s.coreTime (dieOf (b.core?.getD 0)) 4000 else 0).foldl max 0

/-- A resident block runs: it is not being ended, pre-empted or taken off its core. -/
def State.runs (s : State) (b : Block) : Bool := b.core?.isSome && b.ending.isNone && !b.stopping && !s.blockHeld b.id

/-- A block was placed no earlier than another: by the time, and by the free choice among those placed at one time (log entry 101). -/
def Block.younger (x y : Block) : Bool :=
  decide (y.placed.1 < x.placed.1)
    || (x.placed.1 == y.placed.1 && (decide (y.placed.2 < x.placed.2) || (x.placed.2 == y.placed.2 && decide (y.id ≤ x.id))))

/-- Blocks below a priority that a record of a context may displace: lowest priority first, the youngest first among
equals (R92). -/
def State.below (s : State) (ctx prio : Nat) : List Block :=
  sortBy (fun x y => decide (x.prio < y.prio) || (x.prio == y.prio && x.younger y))
    (s.blocks.filter fun b => b.ctx == ctx && decide (b.prio < prio) && s.runs b)

/-- A range that stays where it is when it does not grow, or the lowest place left. -/
def keepOrMove (cap old own new : Nat) (used : List (Nat × Nat)) : Option Nat :=
  if new ≤ own then some old else firstGap cap new used

/-- Where a block's target variant would lie on its core in place of the block's own budget (R92). -/
def State.placeTarget (s : State) (core : Nat) (b : Block) (v t : Variant) : Option (Nat × Nat) :=
  let part := s.partOf core b.ctx
  let others := (s.residents core).filter fun x => x.id != b.id
  match keepOrMove (bits part 11 6 * 16) b.spadBase v.spad t.spad (others.flatMap s.spadRanges),
      keepOrMove (bits part 17 12 * 512) b.accBase (32 * v.accl) (32 * t.accl) (others.flatMap s.accRanges) with
  | some x, some y => some (x, y)
  | _, _ => none

/-- The switch-map list of a block's variant holds a map to a target, at any switch point (R105). -/
def State.hasMap (s : State) (b : Block) (t : Nat) : Bool :=
  match s.blockMap b fun _ x => x == t with
  | .ok (.found _) => true
  | _ => false

/-- The shrink request of a block for a kernel that waits: the earliest later variant with a map whose budget in place of
the block's own lets a variant of the kernel fit (R92, R105). -/
def State.shrinkOf (s : State) (b : Block) (k : KObj) (record : Nat) : Option Reshape :=
  match b.core?, s.kobj b, s.variantOf b with
  | some core, some own, some v =>
    own.variants.zipIdx.findSome? fun x =>
      if b.variant < x.2 && s.hasMap b x.2 then
        match s.placeTarget core b v x.1 with
        | none => none
        | some p =>
          if k.variants.any fun w => (s.fitsBeside (fun y => y.id != b.id) [(x.1.need, p)] core b.ctx w.need).isSome then
            some { target := x.2, grow := false, record := some record, extra := 0, warps := 0, spadBase := p.1, accBase := p.2 }
          else none
      else none
  | _, _, _ => none

/-- A record waits for room: its object is valid, its pools can supply it, and no core of its partition can take its next
block (R92). -/
def State.lacksRoom (s : State) (h : Head) : Option KObj :=
  if !h.ok || h.r.count == 0 || h.r.held.isSome || !(s.ctx h.r.ctx).dispatches then none
  else
    match s.headObj h with
    | none => none
    | some k =>
      if (s.shares h.r.ctx k).isSome && (List.range 256).all fun c => !s.canTake c h.r.ctx k then some k else none

/-- Grow requests of a context are withdrawn, but for switches that have passed their checks (R105). -/
def State.dropGrows (s : State) (ctx : Nat) : State :=
  { s with blocks := s.blocks.map fun (b : Block) =>
      match b.reshape with
      | some r => if b.ctx = ctx ∧ r.grow ∧ ¬b.switching then b.dropReshape else b
      | none => b }

/-- Shrink requests for a record, one on each core that holds a block which qualifies; `cores` have one already (R92). -/
def State.postShrinks (k : KObj) (record : Nat) : List Block → List Nat → State → State
  | [], _, s => s
  | b :: bs, cores, s =>
    if b.reshape.isSome || b.core?.any cores.contains then State.postShrinks k record bs cores s
    else
      match s.shrinkOf b k record with
      | none => State.postShrinks k record bs cores s
      | some q => State.postShrinks k record bs (cores ++ b.core?.toList) (s.setBlock { b with reshape := some q })

/-- The head of a hardware slot. -/
def State.slotHead (s : State) (i : Nat) : Option Head :=
  (nth none s.hwslots i).bind fun x => s.queueHead x.ctx x.queue

/-- SHRINK_REQUEST (slot): the device begins to make room for the record at a slot head (R92). Requests to grow give way,
and blocks of lower priority are asked to shrink; 4 µs later, or at once when none could be asked, one may be
pre-empted. -/
def execShrinkRequest (s : State) : Host.Outcome State Fault Refusal :=
  match s.slotHead (s.arg 0) with
  | none => .next s
  | some h =>
    if h.r.room.isSome then .next s
    else
      match s.lacksRoom h with
      | none => .next s
      | some k =>
        let s1 := (s.lookHead (s.homeDie h.r.ctx) h).dropGrows h.r.ctx
        if (s1.lacksRoom h).isNone then .next s1
        else
          let (r, s2) := s1.claim h
          let s3 := State.postShrinks k r.id (s2.below r.ctx r.prio) [] s2
          .next (s3.setRecord { r with room := some (s.ns + s3.shrinkTime r.id) })

/-- PRIORITY_PREEMPT (slot): no room has come in time, and the device pre-empts the block of lowest priority, the youngest
among equals, whose removal lets a variant fit; the requests to shrink are withdrawn (R92). -/
def execPriorityPreempt (s : State) : Host.Outcome State Fault Refusal :=
  match s.slotHead (s.arg 0) with
  | none => .next s
  | some h =>
    match h.r.room, s.lacksRoom h with
    | some t, some k =>
      if s.ns < t || (s.blocks.any fun b => b.ctx == h.r.ctx && b.stopping) then .next s
      else
        match (s.below h.r.ctx h.r.prio).find? fun b =>
            b.core?.any fun core =>
              k.variants.any fun v => (s.fitsBeside (fun x => x.id != b.id) [] core b.ctx v.need).isSome with
        | none => .next s
        | some b =>
          let s1 := s.dropShrinks h.r.id
          match s1.block? b.id with
          | some b1 => .next (s1.setBlock { b1 with stopping := true })
          | none => .next s1
    | _, _ => .next s

/-- The grow request of a block: the earliest variant before its own that has a map and that the core's free resources,
with those the block holds, fit; the extra resources are set aside (R105). -/
def State.growOf (s : State) (b : Block) : Option Reshape :=
  match b.core?, s.kobj b with
  | some core, some own =>
    own.variants.zipIdx.findSome? fun x =>
      if x.2 < b.variant && s.hasMap b x.2 then
        (s.fitsBeside (fun y => y.id != b.id) [] core b.ctx x.1.need).map fun p =>
          { target := x.2, grow := true, record := none, extra := x.1.need.regs - s.blockRegs b
            warps := x.1.nwarp - s.blockWarps b, spadBase := p.1, accBase := p.2 }
      else none
  | _, _ => none

/-- GROW_REQUEST (block): the core posts a grow request, unless a record of the context waits for room (R105). -/
def execGrowRequest (s : State) : Host.Outcome State Fault Refusal :=
  match s.block? (s.arg 0) with
  | none => .next s
  | some b =>
    if !s.runs b || b.reshape.isSome || (s.records.any fun r => r.ctx == b.ctx && r.room.isSome) then .next s
    else
      match s.growOf b with
      | some q => .next (s.setBlock { b with reshape := some q })
      | none => .next s

/-- CONTEXT_YIELD (core): a core that has held its context for 50 µs takes no new block of it once a record of another
context needs the core (R93). -/
def execContextYield (s : State) : Host.Outcome State Fault Refusal :=
  let core := s.arg 0
  let c := s.core core
  match c.ctx with
  | none => .next s
  | some x =>
    if c.closed || decide (s.ns < c.taken + 50000) then .next s
    else
      match s.heads.find? fun h => h.r.ctx != x && s.needsCore core h && !s.canTake core h.r.ctx ((s.headObj h).getD default) with
      | some h => .next (s.setCore core { c with closed := true, next := some h.r.ctx })
      | none => .next s

/-! ### The end of a record, and records that wait for a ring (R95, R96) -/

/-- The stores of a record's blocks are visible at device scope (R96). -/
def State.recordDrained (s : State) (r : Record) : Bool :=
  r.epochs.all fun e => decide (e.2 < nth 0 (nth [] s.clocks e.1) e.1)

/-- The decrement that a record's end makes at its continuation; none while a page of it has P = 0 (R95). On a record that
cannot be decremented it changes nothing but CTX_QERR. -/
def State.endJdec (s : State) (r : Record) : Option State :=
  if r.cont = 0 then some s
  else
    let fail := some (s.queueError r.ctx r.qid)
    if r.cont % 64 ≠ 0 then fail
    else
      match s.readVirt r.ctx r.cont 64, s.walk r.ctx r.cont .write with
      | .ok bs, .ok l =>
        if (Rec.ofNat (leNat bs)).ctx ≠ r.ctx then fail
        else
          match s.leafPhys r.ctx r.cont l.base l.pa l.win false with
          | .ok pa =>
            let (id, s1) := s.fresh
            some (s1.joinDec r.ctx r.cont pa { MemTag.device with agent := .record r.id, po := id, rmw := true }).2
          | .error _ => fail
      | .error d, _ => if d = 0x01 then none else fail
      | .ok _, .error d => if d = 0x01 then none else fail

/-- A and D bits reach the page table at the end of a kernel's last record, one still in a ring or in memory not counted (R163;
log entry 93). -/
def State.kernelEnd (s : State) (r : Record) : State :=
  if s.records.any fun x => x.id != r.id && x.ctx == r.ctx && x.kobj == r.kobj then s
  else s.harvest (fun e => e.ctx == r.ctx) false

/-- BLOCK_END_JDEC (record): the last block of a record has ended, its stores are visible at device scope, and the device
decrements its continuation (R95, R96). -/
def execBlockEndJdec (s : State) : Host.Outcome State Fault Refusal :=
  match s.record? (s.arg 0) with
  | none => .next s
  | some r =>
    if r.placed && r.ended == r.count && s.recordDrained r then
      match (s.kernelEnd r).endJdec r with
      | some s1 => .next { s1 with records := s1.records.filter fun x => x.id != r.id }
      | none => .next s
    else .next s

/-- DEFERRED_PUSH (index): a ready record that waits for room in its ring is pushed, in the order in which those of one
queue became ready (R95). -/
def execDeferredPush (s : State) : Host.Outcome State Fault Refusal :=
  let i := s.arg 0
  match s.deferred[i]? with
  | none => .next s
  | some d =>
    if (s.deferred.take i).any fun e => e.1 == d.1 && s.queueOf e == s.queueOf d then .next s
    else
      match s.pushReady d.1 d.2.1 d.2.2 with
      | some s1 => .next { s1 with deferred := s1.deferred.eraseIdx i }
      | none => .next s

end Sys2Proof.Machine
end

