-- ==== Sys2Proof/Machine/Fabric.lean ====
section
/-!
DEFINITION. Horebry and the base-die ports (R351 to R356, R378), with the events BURGEE_PASS, DEADLOCK_PROBE, FURL, UNFURL,
FURL_CTL_WRITE, RD_PACKET, WR_PACKET, WRM, RDRSP and WRACK.
-/
namespace Sys2Proof.Machine
open Sys2Proof

/-! ### The burgee (R351, R352) -/

/-- The first `n` elements that a test selects, and the list without them. -/
def splitFirst {α : Type} (p : α → Bool) : Nat → List α → List α × List α
  | _, [] => ([], [])
  | 0, xs => ([], xs)
  | n + 1, x :: xs =>
    if p x then
      let (a, b) := splitFirst p n xs
      (x :: a, b)
    else
      let (a, b) := splitFirst p (n + 1) xs
      (a, x :: b)

/-- The holder of a burgee sends at most 4 flits, and passes the burgee on when another station has signalled demand
(R351). -/
def Waveguide.pass (w : Waveguide) (now : Nat) : Waveguide :=
  let (out, rest) := splitFirst (fun f => f.1 == w.burgee) 4 w.demand
  { w with
    demand := rest, sent := w.sent ++ out
    burgee := if w.demand.any fun f => f.1 != w.burgee then nextStation w.id w.burgee else w.burgee
    idleSince := if w.demand.isEmpty then w.idleSince else now }

/-- BURGEE_PASS (waveguide). -/
def execBurgeePass (s : State) : Host.Outcome State Fault Refusal :=
  if isWaveguide (s.arg 0) then .next (s.setWaveguide ((s.waveguide (s.arg 0)).pass s.ns)) else .next s

/-! ### Furling (R354, R378) -/

/-- FURL (waveguide): a waveguide that has been idle for the furl time furls down to 1 wavelength (R354). -/
def execFurl (s : State) : Host.Outcome State Fault Refusal :=
  let w := s.waveguide (s.arg 0)
  if isWaveguide (s.arg 0) && s.dev.furlEn && w.demand.isEmpty && w.unfurlAt.isNone
      && decide (w.idleSince + 2 ^ s.dev.furlTime ≤ s.ns) then
    .next (s.setWaveguide { w with wavelengths := 1 })
  else .next s

/-- UNFURL (waveguide): an unfurl completes, and the full width holds from the next flit boundary (R354). -/
def execUnfurl (s : State) : Host.Outcome State Fault Refusal :=
  let w := s.waveguide (s.arg 0)
  if w.unfurlAt.isSome then
    .next (s.setWaveguide { w with wavelengths := fullWidth w.id, unfurlAt := none, idleSince := s.ns })
  else .next s

/-- FURL_CTL_WRITE (value): a TIME outside 8 to 20 is stored as the nearer bound; with EN = 0 a furled waveguide unfurls
(R378, R379). -/
def execFurlCtlWrite (s : State) : Host.Outcome State Fault Refusal :=
  if !s.dev.ready then .next s
  else
    let v : Word := BitVec.ofNat 32 (s.arg 0)
    let en := v.getLsbD 0
    .next { s with
      dev := { s.dev with furlTime := max 8 (min 20 (bits v 5 1)), furlEn := en }
      waveguides := if en then s.waveguides else s.waveguides.map fun (w : Waveguide) => w.wakeUp s.ns }

/-! ### Buffers and deadlock recovery (R353) -/

/-- The station of an output buffer, by its number modulo 128: clusters, base dies and the I/O unit as R351 orders them, and
slice s at 64 + s (log entry 7). -/
def stationOf (buffer : Nat) : Nat := buffer % 128

/-- The time at a station in cycles of its own clock (R353, R377): a cluster's counter, for a slice that of its die's cluster 0,
and for a base die or the I/O unit cycles of 1 ns (log entry 7). -/
def State.stationTime (s : State) (buffer : Nat) : Nat :=
  let st := stationOf buffer
  if st < 32 then s.cycle st else if 64 ≤ st then s.cycle (8 * ((st - 64) / 16)) else s.ns

/-- A buffer. -/
def State.buffer (s : State) (id : Nat) : Buffer :=
  (s.buffers.find? fun b => b.id == id).getD { id := id, packets := [], escape := none, since := 0 }

/-- The state with a buffer replaced. -/
def State.setBuffer (s : State) (b : Buffer) : State :=
  if s.buffers.any fun x => x.id == b.id then
    { s with buffers := s.buffers.map fun (x : Buffer) => if x.id = b.id then b else x }
  else { s with buffers := s.buffers ++ [b] }

/-- The packets a buffer holds: a number that the manual does not give, and one at least (R353). -/
def bufferRoom (id : Nat) : Nat := max 1 (Config.bufferCapacity id)

/-- A buffer is full. -/
def Buffer.full (b : Buffer) : Bool := decide (bufferRoom b.id ≤ b.packets.length)

/-- The buffer that a head packet waits for: its next one, when that is full. -/
def State.headWaits (s : State) (b : Buffer) : Option Nat :=
  match b.packets with
  | (n :: _) :: _ => if (s.buffer n).full then some n else none
  | _ => none

/-- A packet joins a buffer; the head's wait counts from when it becomes the head. -/
def Buffer.put (b : Buffer) (p : List Nat) (now : Nat) : Buffer :=
  { b with packets := b.packets ++ [p], since := if b.packets.isEmpty then now else b.since }

/-- The head packet leaves a buffer. -/
def Buffer.pop (b : Buffer) (now : Nat) : Buffer := { b with packets := b.packets.drop 1, since := now }

/-- The packet of an escape slot joins its buffer once there is room; it entered before every packet that comes later
(R353). -/
def Buffer.settle (b : Buffer) (now : Nat) : Buffer :=
  match b.escape with
  | some p => if b.full then b else { b with escape := none }.put p now
  | none => b

/-- A packet enters a station's buffer, when it has room and its escape slot holds no earlier packet. -/
def State.queuePacket (s : State) (id : Nat) (route : List Nat) : State :=
  let now := s.stationTime id
  let b := (s.buffer id).settle now
  if b.full || b.escape.isSome then s else s.setBuffer (b.put route now)

/-- The head packet of a buffer moves to its next buffer when that has room, or leaves at the end of its route. -/
def State.hopPacket (s0 : State) (id : Nat) : State :=
  let now := s0.stationTime id
  let b := (s0.buffer id).settle now
  let s := s0.setBuffer b
  match b.packets with
  | [] => s
  | [] :: _ => s.setBuffer (b.pop now)
  | (n :: rest) :: _ =>
    let d := s.buffer n
    if n = id || d.full || d.escape.isSome then s
    else (s.setBuffer (b.pop now)).setBuffer (d.put rest (s.stationTime n))

/-- The buffers that a probe visits from one on, until it is back at its origin; none where it does not return (R353). -/
def State.probe (s : State) (origin : Nat) : Nat → Nat → Option (List Nat)
  | 0, _ => none
  | fuel + 1, id =>
    match s.headWaits (s.buffer id) with
    | none => none
    | some n => if n = origin then some [id] else (State.probe s origin fuel n).map (id :: ·)

/-- The next buffer of a head packet. -/
def Buffer.headNext (b : Buffer) : Option Nat := b.packets.head?.bind (·.head?)

/-- The head packet of a buffer of a cycle may move in a step of recovery: it ends its route, or no earlier buffer of the cycle
sends its head to the same one, whose escape slot holds one packet (R353). -/
def State.headMoves (s : State) (cycle : List Nat) (id : Nat) : Bool :=
  match (s.buffer id).packets with
  | [] => false
  | [] :: _ => true
  | (n :: _) :: _ => cycle.find? (fun x => (s.buffer x).headNext == some n) == some id

/-- A packet finds the escape slot of a buffer free in a step in which the heads of `movers` leave: it is free, or its own packet
joins its buffer first. -/
def State.escapeFree (s : State) (movers : List Nat) (n : Nat) : Bool :=
  (s.buffer n).escape.isNone || !(s.buffer n).full || movers.contains n

/-- The buffers, of those listed, whose heads all find the next escape slot free when they move together; `fuel` is their number. -/
def State.movers (s : State) : Nat → List Nat → List Nat
  | 0, ms => ms
  | fuel + 1, ms =>
    State.movers s fuel (ms.filter fun x => match (s.buffer x).headNext with | some n => s.escapeFree ms n | none => true)

/-- A packet enters a buffer's escape slot, whose own packet has joined the buffer, and joins it too when there is room. -/
def Buffer.escapeInto (b : Buffer) (p : List Nat) (now : Nat) : Buffer := { b.settle now with escape := some p }.settle now

/-- One step of recovery: every station of the cycle moves its head packet one hop, into the escape slot of the next, in the
cycle or outside it, from which it joins the buffer there (R353). -/
def State.recoverStep (s : State) (cycle : List Nat) : State :=
  let movers := s.movers cycle.length (cycle.filter (s.headMoves cycle))
  let s1 := movers.foldl (fun (t : State) (x : Nat) => t.setBuffer ((t.buffer x).pop (t.stationTime x))) s
  movers.foldl (fun (t : State) (x : Nat) =>
    match (s.buffer x).packets with
    | (n :: rest) :: _ => t.setBuffer ((t.buffer n).escapeInto rest (t.stationTime n))
    | _ => t) s1

/-- Steps of recovery, until no buffer of the cycle is full (R353); `fuel` exceeds the hops that the cycle's packets have
left. A head stays only where the escape slot of its next buffer keeps an earlier packet (log entry 7). -/
def State.recover (s : State) (cycle : List Nat) : Nat → State
  | 0 => s
  | n + 1 => if cycle.any fun x => (s.buffer x).full then State.recover (s.recoverStep cycle) cycle n else s

/-- The hops that the packets of a cycle have left. -/
def State.hopsLeft (s : State) (cycle : List Nat) : Nat :=
  (cycle.map fun x => (((s.buffer x).packets ++ (s.buffer x).escape.toList).map fun p => p.length + 1).sum).sum

/-- DEADLOCK_PROBE (buffer): a head packet that has waited 4,096 cycles of its station's clock launches a probe; when it
returns, the stations of the cycle move their head packets until no buffer of the cycle is full (R353). -/
def execDeadlockProbe (s : State) : Host.Outcome State Fault Refusal :=
  let b := s.buffer (s.arg 0)
  if b.packets.isEmpty || decide (s.stationTime b.id < b.since + 4096) then .next s
  else
    match s.probe b.id (s.buffers.length + 1) b.id with
    | none => .next s
    | some cycle => .next (s.recover cycle (s.hopsLeft cycle + 1))

/-! ### CXL and base-die ports (R355, R356, R358) -/

/-- The CXL port of a pooled address: both decode the range with one HDM decoder, interleaved at 4 KiB (R358). -/
def cxlPort (pa : Nat) : Nat := pa / 4096 % 2

/-- Requests of one port that are outstanding, in the order they were sent. -/
def State.portReqs (s : State) (slice stack : Nat) : List PortReq := s.ports.filter fun r => r.slice == slice && r.stack == stack

/-- A port may send a request: the part exists, the channel's bytes have their home at the slice, fewer than 8 requests are
outstanding and none has the tag (R161, R355, R356). -/
def State.portReady (s : State) (slice stack chan sector tag : Nat) : Bool :=
  decide (stack < 8) && decide (chan < 32) && decide (sector < 2 ^ 25) && (32 * stack + chan) % 64 == slice
    && decide ((s.portReqs slice stack).length < 8) && !((s.portReqs slice stack).any fun r => r.tag.toNat == tag)

/-- KIND of a packet (R355). -/
inductive PortKind | rd | wr | wrm | rdrsp | wrack
deriving DecidableEq, Repr

/-- The code of a KIND (R355). -/
def PortKind.code : PortKind → BitVec 4
  | .rd => 1#4
  | .wr => 2#4
  | .wrm => 3#4
  | .rdrsp => 8#4
  | .wrack => 9#4

/-- The header of a packet of a request (R355): MASK is 0 for every KIND but WRM. -/
def PortReq.header (r : PortReq) (k : PortKind) : BitVec 128 :=
  k.code ++ r.tag ++ BitVec.ofNat 6 r.slice ++ BitVec.ofNat 5 r.chan ++ 0#4 ++ BitVec.ofNat 26 r.sector ++ 0#16
    ++ (if k = .wrm then r.mask else 0#64)

/-- A port sends a request. A write takes the bytes as its slice holds them; it is not sent for bytes of a region that a
bank kernel holds (R299). -/
def State.sendPacket (s : State) (slice stack chan sector tag : Nat) (k : PortKind) (mask : DWord) : State :=
  let pa := sectorAddr stack chan sector
  let write := k != .rd
  if !s.portReady slice stack chan sector tag || (write && s.uncached pa) then s
  else
    let r : PortReq :=
      { slice := slice, stack := stack, tag := BitVec.ofNat 3 tag, write := write, chan := chan, sector := sector, mask := mask
        data := if write then s.readPhys pa 64 else [] }
    { s with ports := s.ports ++ [r], portHead := r.header k }

/-- RD_PACKET (slice, stack, channel, sector, tag). -/
def execRdPacket (s : State) : Host.Outcome State Fault Refusal :=
  .next (s.sendPacket (s.arg 0) (s.arg 1) (s.arg 2) (s.arg 3) (s.arg 4 % 8) .rd 0#64)
/-- WR_PACKET (slice, stack, channel, sector, tag): all 64 bytes. -/
def execWrPacket (s : State) : Host.Outcome State Fault Refusal :=
  .next (s.sendPacket (s.arg 0) (s.arg 1) (s.arg 2) (s.arg 3) (s.arg 4 % 8) .wr (BitVec.allOnes 64))
/-- WRM (slice, stack, channel, sector, tag, mask): the bytes of the mask. -/
def execWrm (s : State) : Host.Outcome State Fault Refusal :=
  .next (s.sendPacket (s.arg 0) (s.arg 1) (s.arg 2) (s.arg 3) (s.arg 4 % 8) .wrm (BitVec.ofNat 64 (s.arg 5)))

/-- The outstanding request that a reply answers, unless an earlier write of the port to the same 64 bytes is still to be
served (R356). -/
def State.replyTo (s : State) (slice stack tag : Nat) (write : Bool) : Option PortReq :=
  let l := s.portReqs slice stack
  match l.find? fun r => r.tag.toNat == tag && r.write == write with
  | none => none
  | some r =>
    let before := l.takeWhile fun x => x.tag != r.tag
    if before.any fun x => x.write && x.chan == r.chan && x.sector == r.sector then none else some r

/-- A request is no longer outstanding, and its tag is free. -/
def State.endPort (s : State) (r : PortReq) : State :=
  { s with ports := s.ports.filter fun x => !(x.slice == r.slice && x.stack == r.stack && x.tag == r.tag) }

/-- RDRSP (slice, stack, tag): the base die returns the 64 bytes at the channel, after any refresh that has reached its deadline
there (R297, R355, R356). -/
def execRdrsp (s : State) : Host.Outcome State Fault Refusal :=
  match s.replyTo (s.arg 0) (s.arg 1) (s.arg 2) false with
  | none => .next s
  | some r =>
    if s.refreshDue (32 * r.stack + r.chan) then .next s
    else .next { s.endPort r with
      portReply := Memory.readList s.dram (sectorAddr r.stack r.chan r.sector) 64, portHead := r.header .rdrsp }

/-- A byte of a write reaches the channel; one that the slice does not hold, written or filled, is at the channel as it was sent
already. A byte that the slice holds as it was sent is clean afterwards, unless the port has a `later` write of it outstanding. -/
def State.landByte (s : State) (later : Bool) (pa : Nat) (b : Byte) : State :=
  if (overGet s.l2 pa).isNone && (s.fillOf pa).isNone then s
  else
    let s1 := { s with dram := Memory.write s.dram pa b }
    if s.readByte pa = b ∧ later = false then
      { s1 with l2 := s1.l2.filter (fun c => c.1 != pa), filled := cutByte pa s1.filled }
    else s1

/-- The port of a write has sent a later one of a byte of the same 64, whose data its slice has not written back since
(R356). -/
def State.laterWrite (s : State) (r : PortReq) (i : Nat) : Bool :=
  (((s.portReqs r.slice r.stack).dropWhile fun x => x.tag != r.tag).drop 1).any fun x =>
    x.write && x.chan == r.chan && x.sector == r.sector && x.mask.getLsbD i && !x.data.isEmpty

/-- The bytes of a write that its mask selects reach the channel as one access (R356); those that the slice has written back
since the packet was sent stay as they are (State.writeBack). -/
def State.landWrite (s : State) (r : PortReq) : State :=
  let pa := sectorAddr r.stack r.chan r.sector
  (r.data.zipIdx.filter fun x => r.mask.getLsbD x.2).foldl (fun (s : State) (x : Byte × Nat) =>
    s.landByte (s.laterWrite r x.2) (pa + x.2) x.1) s

/-- WRACK (slice, stack, tag): the write is applied at the channel, after any refresh that has reached its deadline there, and
acknowledged (R297, R355, R356). -/
def execWrack (s : State) : Host.Outcome State Fault Refusal :=
  match s.replyTo (s.arg 0) (s.arg 1) (s.arg 2) true with
  | none => .next s
  | some r =>
    if s.refreshDue (32 * r.stack + r.chan) then .next s
    else .next { (s.landWrite r).endPort r with portHead := r.header .wrack }

end Sys2Proof.Machine
end

