-- ==== Sys2Proof/Machine/HostAccess.lean ====
section
/-!
DEFINITION. Migration and the host interface (R187, R188, R313 to R317, R357 to R361, R379), with the events MIGRATION_MOVE,
MIG_REQ_WRITE, MIG_STAT_READ, PEER_ROUTE_WRITE, CSR_WRITE and PEER_REQUEST.
-/
namespace Sys2Proof.Machine
open Sys2Proof

/-- A host event has its effect once bring-up is complete; until then the device drops it (R374). -/
def State.whenReady (s : State) (t : State) : Host.Outcome State Fault Refusal := if s.dev.ready then .next t else .next s

/-! ### Migration (R187, R188) -/

/-- Some bank kernel's region holds a byte of a physical range (R187). -/
def State.heldByBank (s : State) (lo size : Nat) : Bool :=
  s.chans.any fun c => (c.queue ++ c.cx.filterMap fun k => k.map (·.launch)).any fun l =>
    l.region.any fun base => decide (base < lo + size) && decide (lo < base + 2 ^ 21)

/-- The controller of a die has moved a page 4 times in the last 2^24 cycles of its die's cluster 0 counter (R188). -/
def State.movedOften (s : State) (ctx page die : Nat) : Bool :=
  decide (4 ≤ (s.migMoves.filter fun m =>
    m.1 == ctx && m.2.1 == page && m.2.2.1 == die && decide (s.cycle (8 * die) < m.2.2.2 + 2 ^ 24)).length)

/-- The leaf of a page that may move to a tier (R187, R188, R360): mapped and present, 64 KiB or 2 MiB, not of a window, not
pinned, in the other tier, not in a bank kernel's region, and not moved too often. -/
def State.movable (s : State) (ctx va : Nat) (toPool : Bool) : Option Leaf :=
  match s.walk ctx va .read with
  | .error _ => none
  | .ok l =>
    let pinned := (nth 0#8 (s.loadBytes [l.pte]).1 0).getLsbD 3
    if l.win.isNone && (l.size == 2 ^ 16 || l.size == 2 ^ 21) && !pinned && (if toPool then inHbm l.pa else inPool l.pa)
        && !s.heldByBank l.pa l.size && !s.movedOften ctx l.base (migDie l.pa) then some l
    else none

/-- An address in the old frame, or where it now lies. -/
def reframe (old new size pa : Nat) : Nat := if old ≤ pa ∧ pa < old + size then new + (pa - old) else pa

/-- A pending operation's addresses follow a switch: an access after it uses the new frame (R187). -/
def OpKind.reframe (f : Nat → Nat) : OpKind → OpKind
  | .load lanes => .load (lanes.map fun (l : LaneLoad) => { l with bytes := l.bytes.map f })
  | .store parts => .store (parts.map fun p => (p.1, p.2.map fun b => (f b.1, b.2)))
  | .atomic op u size reqs dst c =>
    .atomic op u size (reqs.map fun r => (f (64 * r.1) / 64, r.2.map fun (l : AtomLane) => { l with pa := f l.pa })) dst c
  | .jdec va pa dst => .jdec va (f pa) dst
  | .cctl inv rs => .cctl inv (rs.map fun r => (f r.1, f r.1 + (r.2 - r.1)))
  | k => k

/-- Everything in flight follows a switch (R187). -/
def State.redirect (s : State) (f : Nat → Nat) : State :=
  { s with
    ops := s.ops.map (fun (o : Op) => { o with kind := o.kind.reframe f })
    waits := s.waits.map (fun (e : WaitEntry) => { e with pa := f e.pa })
    service := s.service.map (fun q => (q.1, q.2.1, f (64 * q.2.2) / 64))
    pxReqs := s.pxReqs.map (fun (r : PxReq) =>
      match r.kind with
      | .snapshot pa w sl g => { r with kind := .snapshot (f pa) w sl g }
      | _ => r)
    sectorClock := s.sectorClock.map fun x => (f (64 * x.1) / 64, x.2) }

/-- The record of the memory model follows a switch: what it says of the old frame's bytes is said of the new one's, and what
it said of that frame before is nothing any more (R187). -/
def MemEvent.moved (old new size : Nat) (e : MemEvent) : MemEvent :=
  let keep (x : Nat) : Bool := !(decide (new ≤ x) && decide (x < new + size))
  { e with
    reads := (e.reads.filter fun r => keep r.1).map fun r => (reframe old new size r.1, r.2)
    writes := (e.writes.filter fun w => keep w.1).map fun w => (reframe old new size w.1, w.2) }

/-- The bytes of a frame are copied to another (R187). -/
def State.copyFrame (s : State) (old new size : Nat) : State :=
  (List.range size).foldl (fun (s : State) (i : Nat) => s.writeByte (new + i) (s.readByte (old + i))) s

/-- The entries of a table of a level that memory lists. -/
def State.tableEntries (s : State) (level table : Nat) : List Nat :=
  (distinct (((s.dram ++ s.l2).filter fun c => decide (table ≤ c.1) && decide (c.1 < table + 2 ^ tableLog level)).map fun c =>
    (c.1 - table) / 8)).map fun i => leNat (s.readPhys (table + 8 * i) 8)

/-- The physical ranges that a page table takes up and maps, from a table of a level downward; `fuel` counts the levels
left. -/
def State.mapped (s : State) : Nat → Nat → Nat → List (Nat × Nat)
  | 0, _, _ => []
  | fuel + 1, level, table =>
    (table, 2 ^ tableLog level) :: (s.tableEntries level table).flatMap fun e =>
      if !e.testBit 0 then []
      else if e.testBit 7 then (if e.testBit 63 then [] else [(fieldOf e 51 16 * 65536, 2 ^ pageLog level)])
      else State.mapped s fuel (level + 1) (fieldOf e 51 8 * 256)

/-- The physical ranges in use: what the page tables of contexts take up and map, their window tables, and both sides of their
windows (R162, R183). -/
def State.inUse (s : State) : List (Nat × Nat) :=
  s.ctxs.flatMap fun c =>
    (if c.ptRoot = 0#64 then [] else s.mapped 5 0 c.ptRoot.toNat)
      ++ (if c.pwBase = 0#64 then [] else [(c.pwBase.toNat, 8192)])
      ++ (c.windows.filter (·.v)).flatMap fun w => [(w.phys0, 65536 * w.size), (w.phys1, 65536 * w.size)]

/-- The first frame of a size, from one number on and round, that meets no range in use; `fuel` exceeds the ranges it can
meet. -/
def freeFrame (used : List (Nat × Nat)) (base count size : Nat) : Nat → Nat → Option Nat
  | 0, _ => none
  | fuel + 1, n =>
    let f := base + n % count * size
    match used.find? fun r => decide (r.1 < f + size) && decide (f < r.1 + r.2) with
    | none => some f
    | some r => freeFrame used base count size fuel ((max (r.1 + r.2) (f + 1) - base + size - 1) / size)

/-- A frame of a size in a tier that nothing uses, looked for from a free number on: which one the device takes is its own
choice (log entry 34). -/
def State.frameAt (s : State) (toPool : Bool) (size : Nat) (x : Word) : Option Nat :=
  let used := s.inUse
  if toPool then freeFrame used (2 ^ 48) (2 ^ 44 / size) size (2 * used.length + 2) x.toNat
  else freeFrame used 0 (2 ^ 39 / size) size (2 * used.length + 2) x.toNat

/-- A page moves to a frame: its bytes are copied, its entry names the new frame, and the old translation is shot down, as
one event (R186, R187); an entry that lies in a window is read as free values (R359). -/
def State.movePage (s : State) (ctx va : Nat) (l : Leaf) (new : Nat) : State :=
  let (bs, s1) := ((s.copyFrame l.pa new l.size).shootDown ctx va).loadBytes ((List.range 8).map (l.pte + ·))
  let e := leNat bs
  let e1 := e % 2 ^ 16 + new / 2 ^ 16 % 2 ^ 36 * 2 ^ 16 + e / 2 ^ 52 * 2 ^ 52
  let s2 := s1.writePhys l.pte (leBytes 8 e1)
  let s3 := { s2 with log := s2.log.map (MemEvent.moved l.pa new l.size) }.redirect (reframe l.pa new l.size)
  { s3 with migMoves := (ctx, l.base, migDie l.pa, s.cycle (8 * migDie l.pa)) :: s3.migMoves }

/-- A page that may move to a tier does, where the tier has a frame for it (R187). -/
def State.move (s : State) (ctx va : Nat) (toPool : Bool) : Option State :=
  match s.movable ctx va toPool with
  | none => none
  | some l =>
    let (x, s1) := s.draw
    (s1.frameAt toPool l.size x).map fun new => s1.movePage ctx va l new

/-- One more request has been dropped; past 65,535 the count is free. -/
def State.dropMig (s : State) : State :=
  if s.migDropped = BitVec.allOnes 16 then
    let (x, s1) := s.draw
    { s1 with migDropped := x.truncate 16 }
  else { s with migDropped := s.migDropped + 1#16 }

/-- MIGRATION_MOVE: the oldest request is served, or dropped when its page may not move (R187, R360). -/
def execMigrationMove (s : State) : Host.Outcome State Fault Refusal :=
  match s.migQueue with
  | [] => .next s
  | m :: rest =>
    let s1 := { s with migQueue := rest }
    .next ((s1.move m.ctx m.va m.toPool).getD s1.dropMig)

/-- A pooled page is a candidate: the device has accessed it at least 16n times in this period of 2^20 cycles (R316; log
entry 34). -/
def State.candidate (s : State) (ctx : Nat) (l : Leaf) : Bool :=
  let n := bits (s.ctx ctx).memExp 15 8
  n != 0 && s.pageHits.any fun h =>
    h.1 == ctx && h.2.1 == l.base && h.2.2.1 == s.hitPeriod l.pa && decide (16 * n ≤ h.2.2.2)

/-- A migration controller moves a pooled page that MEM_EXP.MIGRATE has made a candidate to HBM (R187, R316). -/
def State.pickMove (s : State) (ctx va : Nat) (toPool : Bool) : State :=
  match s.movable ctx va false with
  | some l => if !toPool && s.candidate ctx l then (s.move ctx va false).getD s else s
  | none => s

/-- MIG_REQ_WRITE (high, value): a write of one word of MIG_REQ; the high word queues a request with the value of both, or
drops it (R360). -/
def execMigReqWrite (s : State) : Host.Outcome State Fault Refusal :=
  let v : Word := BitVec.ofNat 32 (s.arg 1)
  if s.arg 0 = 0 then s.whenReady { s with migReq := highWord s.migReq ++ v }
  else
    let r : DWord := v ++ lowWord s.migReq
    let s1 := { s with migReq := r }
    let ctx := bits r 13 8
    let va := bits r 56 16 * 65536
    let to1 := bits r 1 0 == 1
    let good := bits r 63 57 == 0 && bits r 15 14 == 0 && bits r 7 2 == 0 && decide (bits r 1 0 ≤ 1)
      && decide (s.migQueue.length < 64) && (s.movable ctx va to1).isSome
    s.whenReady (if good then { s1 with migQueue := s1.migQueue ++ [{ ctx := ctx, va := va, toPool := to1 }] } else s1.dropMig)

/-- MIG_STAT_READ: DROPPED and PENDING; DROPPED is cleared (R360). -/
def execMigStatRead (s : State) : Host.Outcome State Fault Refusal :=
  s.whenReady { s with
    hostReply := leBytes 4 (s.migDropped.toNat * 2 ^ 16 + s.migQueue.length % 256)
    migDropped := 0#16 }

/-! ### Peer routes and memory accesses from outside (R357, R359, R361) -/

/-- PEER_ROUTE_WRITE (peer, value): reserved bits stand as they are written, since they make the route none (R361). -/
def execPeerRouteWrite (s : State) : Host.Outcome State Fault Refusal :=
  s.whenReady { s with peerRoute := setNth s.peerRoute (s.arg 0) (BitVec.ofNat 32 (s.arg 1)) }

/-- Sectors written from outside carry no die's clock. -/
def State.unstamp (s : State) (pa n : Nat) : State :=
  { s with sectorClock := s.sectorClock.filter fun x => !(decide (pa / 64 ≤ x.1) && decide (x.1 ≤ (pa + n - 1) / 64)) }

/-- A write from outside is applied at its home slices (R191, R357, R359); a block whose kernel object it changes follows R6
(R325). -/
def State.outsideWrite (s : State) (pa : Nat) (bs : List Byte) : State :=
  if bs.isEmpty then s
  else ((s.changeObjectAt ((List.range bs.length).map (pa + ·))).writePhys pa bs MemTag.host).unstamp pa bs.length

/-- PEER_REQUEST (offset, write, length, bytes): a peer's write is applied at its home slices, and its read is served past the
L2 (R359). -/
def execPeerRequest (s : State) : Host.Outcome State Fault Refusal :=
  let n := s.arg 2
  if 2 ^ 39 < s.arg 0 + n then .next s
  else if s.arg 1 ≠ 0 then s.whenReady (s.outsideWrite (s.arg 0) (((s.args.drop 3).take n).map (BitVec.ofNat 8)))
  else s.whenReady { s with hostReply := Memory.readList s.dram (s.arg 0) n }

/-! ### CSR_WRITE (R313 to R317, R379) -/

/-- A 64-bit register with its low word written. -/
def putLow (x : DWord) (v : Word) : DWord := highWord x ++ v
/-- A 64-bit register with its high word written. -/
def putHigh (x : DWord) (v : Word) : DWord := v ++ lowWord x

/-- A partition word that the device takes (R317). -/
def partOk (v : Word) : Bool := bits v 5 0 + bits v 11 6 + bits v 17 12 == 48 && bits v 5 0 != 0

/-- A host write of a context CSR (R314). TRAP_VEC is stored whole, its low bits too (DESIGN CHOICE, log entry 68). LIMIT is stored
whole and compared with as stored, past the 1,024 of its range too, of which R222 says nothing (DESIGN CHOICE, log entry 103). FR_HEAD
and CTX_CTL have events of their own, and a number that R314 does not list is no register. -/
def Ctx.hostWrite (c : Ctx) (num : Nat) (v : Word) : Ctx :=
  match num with
  | 0x040 => if partOk v then { c with partWord := v &&& 0x0003FFFF#32 } else c
  | 0x041 => { c with pxQuota := v &&& 0x0000FFFF#32 }
  | 0x042 => { c with circLimit := bits v 10 0 }
  | 0x043 => { c with trapVec := putLow c.trapVec v }
  | 0x044 => { c with trapVec := putHigh c.trapVec v }
  | 0x045 => { c with trapLen := v }
  | 0x046 => { c with ptRoot := putLow c.ptRoot v }
  | 0x047 => { c with ptRoot := putHigh c.ptRoot v }
  | 0x048 => { c with privBase := putLow c.privBase v }
  | 0x049 => { c with privBase := putHigh c.privBase v }
  | 0x04A => { c with pwBase := putLow c.pwBase v }
  | 0x04B => { c with pwBase := putHigh c.pwBase v }
  | 0x04C => { c with qdBase := putLow c.qdBase v }
  | 0x04D => { c with qdBase := putHigh c.qdBase v }
  | 0x04E => { c with saveBase := putLow c.saveBase v }
  | 0x04F => { c with saveBase := putHigh c.saveBase v }
  | 0x050 => { c with frBase := putLow c.frBase v }
  | 0x051 => { c with frBase := putHigh c.frBase v }
  | 0x053 => { c with frTail := v }
  | 0x05D => { c with privSize := v }
  | 0x05E => { c with saveSize := v }
  | n =>
    if 0x020 ≤ n ∧ n ≤ 0x02C then c.programWrite n v
    else if 0x054 ≤ n ∧ n ≤ 0x05B then { c with coreMask := setNth c.coreMask (n - 0x054) v }
    else c

/-- The context CSRs that the host may write while the context is not IDLE: those that programs write, TRAP_VEC, TRAP_LEN and
PT_ROOT (R314). -/
def anyTime (num : Nat) : Bool := (decide (0x020 ≤ num) && decide (num ≤ 0x02C)) || (decide (0x043 ≤ num) && decide (num ≤ 0x047))

/-- A host write of a context CSR; one that must wait for IDLE and does not leaves a free value there (R6, R314), and handles that
survive the clearing of a LOST bit are stale (R271). -/
def State.writeCtxCsr (s : State) (ctx num : Nat) (v : Word) : State :=
  if anyTime num || s.ctxIdle ctx then (s.setCtx ctx ((s.ctx ctx).hostWrite num v)).clearedLost ctx (s.ctx ctx)
  else
    let (x, s1) := s.draw
    s1.setCtx ctx ((s1.ctx ctx).hostWrite num x)

/-- A host write of a device CSR, by its offset from 0x0060_0000 (R379). A LIMIT outside its range is kept as the nearer
bound, as which it acts (log entry 59); a THROTTLE outside its range is free. -/
def State.writeDevCsr (s : State) (off : Nat) (v : Word) : State :=
  match off with
  | 0x0C => { s with dev := { s.dev with pwrCap := max 600 (min 2600 (bits v 11 0)) } }
  | 0x10 =>
    if 70 ≤ bits v 15 0 ∧ bits v 15 0 ≤ 100 then { s with dev := { s.dev with thermThrottle := bits v 15 0 } }
    else
      let (x, s1) := s.draw
      { s1 with dev := { s1.dev with thermThrottle := bits x 15 0 } }
  | 0x28 => { s with dev := { s.dev with attBuf := putLow s.dev.attBuf v } }
  | 0x2C => { s with dev := { s.dev with attBuf := putHigh s.dev.attBuf v } }
  | n =>
    if 0x30 ≤ n ∧ n < 0x50 ∧ n % 4 = 0 then
      { s with dev := { s.dev with attNonce := setNth s.dev.attNonce ((n - 0x30) / 4) v } }
    else s

/-- CSR_WRITE (context?, context, number, value): a host write of a CSR without an event of its own: a context CSR by its
number, or a device CSR by its offset (R314, R379). -/
def execCsrWrite (s : State) : Host.Outcome State Fault Refusal :=
  let v : Word := BitVec.ofNat 32 (s.arg 3)
  s.whenReady (if s.arg 0 ≠ 0 then s.writeCtxCsr (s.arg 1) (s.arg 2) v else s.writeDevCsr (s.arg 2) v)

end Sys2Proof.Machine
end

