-- ==== Sys2Proof/Machine/Boot.lean ====
section
/-!
DEFINITION. Bring-up, power, clocks and attestation (R374 to R377), with the events POWER_ON_RESET, BOOT_RESET,
ATTESTATION_GO, ATTESTATION_DONE, CLOCK_STEP_CHANGE and THERMAL_TRIP.
-/
namespace Sys2Proof.Machine
open Sys2Proof

/-! ### Bring-up (R374) -/

/-- The step at which a bring-up fails, 0 for none: step 2, unless step 1 does, for as long as the package flash holds a bad
image (log entry 109). -/
def DevCsrs.failsAt (d : DevCsrs) (failed : Nat) : Nat :=
  if d.badImage && failed != 1 then 2 else if failed ≤ 5 then failed else 0

/-- The device CSRs while bring-up is under way: READY and ERR are 0, and what the parts themselves report, the stepping and
the salvaged dies, stands. -/
def DevCsrs.starting (d : DevCsrs) (failed : Nat) : DevCsrs :=
  { DevCsrs.up with
    step := d.step, salv := d.salv, badImage := d.badImage, ready := false, booting := some (d.failsAt failed) }

/-- A bring-up ends: READY is set, or the step that failed is in ERR; a failure of step 2 shows a bad image in the flash. -/
def DevCsrs.ended (d : DevCsrs) : DevCsrs :=
  match d.booting with
  | none => d
  | some f =>
    { d with booting := none, ready := f == 0, bootErr := BitVec.ofNat 8 f, badImage := d.badImage || f == 2 }

/-- A bring-up that is under way ends. -/
def State.endBringUp (s : State) : State := { s with dev := s.dev.ended }

/-- The device after bring-up: everything at its reset value, the model's own counters as they stand, and what lies outside
the device as it was. `dram` is what HBM and the pooled tier hold, and `filled` the ranges among them that hold the device's own
layouts. With a second argument the bring-up stays under way until the action that ends it. -/
def State.bringUp (s : State) (dram : List Host.Cell) (filled : List (Nat × Nat × Nat)) : State :=
  let t : State := { State.reset with
    args := s.args, agenda := s.agenda, choices := s.choices, drawn := s.drawn, nextId := s.nextId, ns := s.ns
    dram := dram, filled := filled, hostMem := s.hostMem, hostReply := s.hostReply, dev := s.dev.starting (s.arg 0) }
  if s.arg 1 = 0 then t.endBringUp else t

/-- POWER_ON_RESET (failing step, 0 for none; 1 to stay under way): power-on or a fundamental reset runs bring-up. What HBM holds
afterwards the manual does not say (log entry 1); the pooled tier keeps its bytes. -/
def execPowerOnReset (s : State) : Host.Outcome State Fault Refusal :=
  .next (s.bringUp (s.dram.filter fun c => inPool c.1) (s.filled.filter fun r => inPool r.1))

/-- BOOT_RESET (failing step, 0 for none; 1 to stay under way): BOOT_CTL.RESET runs bring-up from step 1; bytes that the L2 had not
written back are lost. -/
def execBootReset (s : State) : Host.Outcome State Fault Refusal := .next (s.bringUp s.dram s.filled)

/-! ### Attestation (R375) -/

/-- ATTESTATION_GO: a report starts, and DONE is cleared; a write while one is in progress is ignored. -/
def execAttestationGo (s : State) : Host.Outcome State Fault Refusal :=
  if s.dev.attBusy then .next s else s.whenReady { s with dev := { s.dev with attBusy := true, attDone := false } }

/-- The nonce as a number, word 0 lowest. -/
def nonceNat : List Word → Nat
  | [] => 0
  | w :: ws => w.toNat + 2 ^ 32 * nonceNat ws

/-- The report: the firmware digest, the fuse digest, DEV_ID, the nonce and the signature over them. -/
def State.report (s : State) : List Byte :=
  let n := nonceNat s.dev.attNonce
  (List.range 128).map (Config.attestationByte 0) ++ leBytes 4 s.devId.toNat ++ leBytes 32 n
    ++ (List.range 29792).map (Config.attestationByte (n + 1))

/-- Where the model keeps a byte of the host's memory: at the address of the host window, or past every physical address where
the window does not reach (R160, R375). -/
def hostPlace (h : Nat) : Nat := if h < 2 ^ 50 then 2 ^ 51 + h else 2 ^ 64 + h

/-- ATTESTATION_DONE: the report is written to the host's buffer, and DONE is set. -/
def execAttestationDone (s : State) : Host.Outcome State Fault Refusal :=
  if !s.dev.attBusy then .next s
  else
    let at_ := s.dev.attBuf.toNat / 4096 * 4096
    let s1 := { s with dev := { s.dev with attBusy := false, attDone := true } }
    .next { s1 with hostMem := s.report.zipIdx.foldl (fun m x => overPut m (hostPlace (at_ + x.2)) x.1) s.hostMem }

/-! ### Clocks and power (R376, R377) -/

/-- CLOCK_STEP_CHANGE (die, step): the management unit sets a die's clock, in 100 MHz units from 8 to 16. -/
def execClockStepChange (s : State) : Host.Outcome State Fault Refusal :=
  if 8 ≤ s.arg 1 ∧ s.arg 1 ≤ 16 then
    .next { s with dev := { s.dev with clkStat := setNth s.dev.clkStat (s.arg 0) (BitVec.ofNat 8 (s.arg 1)) } }
  else .next s

/-- Every context stops as CTX_CTL.STOP does (R310). -/
def State.stopAll (s : State) : State :=
  { s with
    ctxs := s.ctxs.map (fun (c : Ctx) => { c with stop := true })
    blocks := s.blocks.map fun (b : Block) => if b.core?.isSome then { b with stopping := true } else b }

/-- THERMAL_TRIP: every context stops; once no context has a block on a core or a save in progress, power is removed
(R376). -/
def execThermalTrip (s : State) : Host.Outcome State Fault Refusal :=
  let s1 := s.stopAll
  if (List.range 64).all s1.ctxIdle then .next { s1 with dev := { s1.dev with powered := false } } else .next s1

end Sys2Proof.Machine
end

