-- ==== Sys2Proof/Machine/HostBar.lean ====
section
/-!
DEFINITION. The host's BARs (R314, R318, R357, R360, R361, R374, R379): the registers of BAR0 by their offsets, what a read and
a write of each does, and the event HOST_MEMORY_ACCESS.
-/
namespace Sys2Proof.Machine
open Sys2Proof

/-! ### The map of BAR0 -/

/-- A 32-bit register of BAR0. -/
inductive HostReg
  | ctx (ctx num : Nat)
  | qtail (q : Nat)
  | hinv
  | hinvLo
  | hinvHi
  | migReq (high : Bool)
  | migStat
  | peerRoute (peer : Nat)
  | devId
  | bootStat
  | bootCtl
  | attCtl
  | furlCtl
  /-- Another device CSR, by its offset from 0x0060_0000. -/
  | dev (off : Nat)
deriving DecidableEq, Repr

/-- A number of a CSR whose scope is a context (R314). -/
def ctxScope (num : Nat) : Bool :=
  (decide (0x020 ≤ num) && decide (num ≤ 0x02C)) || (decide (0x040 ≤ num) && decide (num ≤ 0x05E))

/-- The register at an offset of BAR0 (R357, R360, R361, R379). -/
def hostReg (off : Nat) : Option HostReg :=
  if off % 4 ≠ 0 then none
  else if off < 0x40000 then (if ctxScope (off % 0x1000 / 4) then some (.ctx (off / 0x1000) (off % 0x1000 / 4)) else none)
  else if 0x400000 ≤ off ∧ off < 0x400000 + 8 * 4096 then (if off % 8 = 0 then some (.qtail ((off - 0x400000) / 8)) else none)
  else if 0x580000 ≤ off ∧ off < 0x580000 + 4 * 64 then some (.peerRoute ((off - 0x580000) / 4))
  else if 0x60000C ≤ off ∧ off ≤ 0x600014 ∨ 0x600028 ≤ off ∧ off < 0x600050 then some (.dev (off - 0x600000))
  else
    match off with
    | 0x500000 => some .hinv
    | 0x500004 => some .hinvLo
    | 0x500008 => some .hinvHi
    | 0x500010 => some (.migReq false)
    | 0x500014 => some (.migReq true)
    | 0x500018 => some .migStat
    | 0x600000 => some .devId
    | 0x600004 => some .bootStat
    | 0x600008 => some .bootCtl
    | 0x600018 => some .furlCtl
    | 0x600020 => some .attCtl
    | _ => none

/-- A register that the device answers before READY is set: reads of DEV_ID and BOOT_STAT, and writes of BOOT_CTL (R374). -/
def HostReg.early (write : Bool) : HostReg → Bool
  | .devId | .bootStat => !write
  | .bootCtl => write
  | _ => false

/-! ### Reads -/

/-- A device CSR as it reads, by its offset from 0x0060_0000 (R379). -/
def DevCsrs.word (d : DevCsrs) (off : Nat) : Word :=
  match off with
  | 0x0C => BitVec.ofNat 32 d.pwrCap
  | 0x10 => BitVec.ofNat 32 (d.thermTrip * 2 ^ 16 + d.thermThrottle)
  | 0x14 => BitVec.ofNat 32 (leNat d.clkStat)
  | 0x28 => lowWord d.attBuf
  | 0x2C => highWord d.attBuf
  | n => nth 0#32 d.attNonce ((n - 0x30) / 4)

/-- BOOT_STAT (R379). -/
def DevCsrs.bootStat (d : DevCsrs) : Word := BitVec.ofNat 32 ((if d.ready then 256 else 0) + d.bootErr.toNat)

/-- ATT_CTL: GO is a command and reads 0 (R379; log entry 59). -/
def DevCsrs.attCtl (d : DevCsrs) : Word := if d.attDone then 2#32 else 0#32

/-- FURL_CTL (R379). -/
def DevCsrs.furlCtl (d : DevCsrs) : Word := BitVec.ofNat 32 (2 * d.furlTime + (if d.furlEn then 1 else 0))

/-- The bits of MIG_REQ and of PEER_ROUTE that are no reserved fields (R360, R361): a reserved field reads as zero (R2). -/
def migReqMask : DWord := 0x01FFFFFFFFFF3F03#64

/-- The same of PEER_ROUTE. -/
def peerRouteMask : Word := 0x801F073F#32

/-- A register of BAR0 as the host reads it. A doorbell, and an offset that no register has, read a free value (log entry
59). -/
def State.barRead (s : State) (r : Option HostReg) : Word × State :=
  match r with
  | some (.ctx c n) => (s.ctxCsr c n, s)
  | some (.migReq high) => (if high then highWord (s.migReq &&& migReqMask) else lowWord (s.migReq &&& migReqMask), s)
  | some .migStat =>
    (BitVec.ofNat 32 (s.migDropped.toNat * 2 ^ 16 + s.migQueue.length % 256), { s with migDropped := 0#16 })
  | some (.peerRoute p) => (nth 0#32 s.peerRoute p &&& peerRouteMask, s)
  | some .devId => (s.devId, s)
  | some .bootStat => (s.dev.bootStat, s)
  | some .bootCtl => (0#32, s)
  | some .attCtl => (s.dev.attCtl, s)
  | some .furlCtl => (s.dev.furlCtl, s)
  | some (.dev off) => (s.dev.word off, s)
  | _ => s.draw

/-! ### Writes -/

/-- The state after a host event with these operands. -/
def State.hostEvent (s : State) (args : List Nat) (f : State → Host.Outcome State Fault Refusal) : State :=
  match f { s with args := args } with
  | .next t => { t with args := s.args }
  | _ => s

/-- CTX_CTL is written: STOP takes the value, and LOAD and KILL act where they are 1 (R318; log entry 59 for a write of more
than one). -/
def State.writeCtl (s : State) (c : Nat) (v : Word) : State :=
  let s1 := s.hostEvent [c] (if v.getLsbD 0 then execContextStop else execContextResume)
  let s2 := if v.getLsbD 2 then s1.hostEvent [c] execContextLoad else s1
  if v.getLsbD 3 then s2.hostEvent [c] execContextKill else s2

/-- BOOT_CTL.RESET is written: bring-up runs again; the step that fails, if one does, and whether it is over with the write are free
values (R374). -/
def State.bootAgain (s : State) : State :=
  let (x, s1) := s.draw
  s1.hostEvent [x.toNat % 6, x.toNat / 6 % 2] execBootReset

/-- The host writes a register of BAR0: the event of the register takes place. A read-only register and an offset that no
register has are left alone. -/
def State.barWrite (s : State) (r : Option HostReg) (v : Word) : State :=
  match r with
  | some (.ctx c 0x052) => s.hostEvent [c, v.toNat] execFrHeadWrite
  | some (.ctx c 0x05C) => s.writeCtl c v
  | some (.ctx c n) => s.hostEvent [1, c, n, v.toNat] execCsrWrite
  | some (.qtail q) => s.hostEvent [q, v.toNat] execQtailWrite
  | some .hinv => { s with hinv := v }
  | some .hinvLo => { s with hinvLo := v }
  | some .hinvHi => s.hostEvent [bits s.hinv 5 0, v.toNat * 2 ^ 32 + s.hinvLo.toNat] execHostTlbInvalidate
  | some (.migReq high) => s.hostEvent [if high then 1 else 0, v.toNat] execMigReqWrite
  | some (.peerRoute p) => s.hostEvent [p, v.toNat] execPeerRouteWrite
  | some .bootCtl => if v.getLsbD 0 then s.bootAgain else s
  | some .attCtl => if v.getLsbD 0 then s.hostEvent [] execAttestationGo else s
  | some .furlCtl => s.hostEvent [v.toNat] execFurlCtlWrite
  | some (.dev off) => s.hostEvent [0, 0, off, v.toNat] execCsrWrite
  | _ => s

/-- The device answers an access of BAR0 (R374). -/
def State.barOpen (s : State) (write : Bool) (r : Option HostReg) : Bool := s.dev.ready || r.any (HostReg.early write)

/-! ### HOST_MEMORY_ACCESS -/

/-- Words of BAR0 read one after another, as bytes; an access that is not answered returns none. -/
def State.barReads (s : State) : Nat → Nat → List Byte × State
  | 0, _ => ([], s)
  | n + 1, off =>
    if s.barOpen false (hostReg off) then
      let (v, s1) := s.barRead (hostReg off)
      let (bs, s2) := State.barReads s1 n (off + 4)
      (leBytes 4 v.toNat ++ bs, s2)
    else State.barReads s n (off + 4)

/-- Words of BAR0 written one after another (R357). -/
def State.barWrites (s : State) : Nat → List Nat → State
  | off, b0 :: b1 :: b2 :: b3 :: rest =>
    State.barWrites (if s.barOpen true (hostReg off) then
        s.barWrite (hostReg off) (BitVec.ofNat 32 (leNat ([b0, b1, b2, b3].map (BitVec.ofNat 8)))) else s) (off + 4) rest
  | _, _ => s

/-- HOST_MEMORY_ACCESS (BAR, offset, no-snoop, write, length, bytes): a host access of HBM through BAR2 (0) or of the pooled tier
through BAR4 (1), applied at its home slices, where a no-snoop read is served past the L2; or of the words of BAR0 (2)
(R357). -/
def execHostMemoryAccess (s : State) : Host.Outcome State Fault Refusal :=
  let n := s.arg 4
  if s.arg 0 = 2 then
    if s.arg 3 ≠ 0 then .next (s.barWrites (s.arg 1) ((s.args.drop 5).take n))
    else
      let (bs, s1) := s.barReads (n / 4) (s.arg 1)
      .next { s1 with hostReply := bs }
  else
    let pool := s.arg 0 ≠ 0
    let pa := (if pool then 2 ^ 48 else 0) + s.arg 1
    if (if pool then 2 ^ 44 else 2 ^ 39) < s.arg 1 + n then .next s
    else if s.arg 3 ≠ 0 then s.whenReady (s.outsideWrite pa (((s.args.drop 5).take n).map (BitVec.ofNat 8)))
    else s.whenReady { s with hostReply := if s.arg 2 ≠ 0 then Memory.readList s.dram pa n else s.readPhys pa n }

end Sys2Proof.Machine
end

