-- ==== Sys2Proof/Machine/Actions.lean ====
section
/-!
DEFINITION. The actions of a run (what a core or a bank-side unit issues, the events of the table, and the passing of time
and the traffic that the events act on) and how an instruction's word is placed for the next fetch.
-/
namespace Sys2Proof.Machine
open Sys2Proof

/-! ### Time and caches -/

/-- Cycles of a cluster pass: its counter advances (R3, R19), its ready warps age (R94), and words that had to wait are looked
at anew. -/
def State.passCycles (s : State) (cluster n : Nat) : State :=
  { s with
    cyc := setNth s.cyc cluster (nth 0#64 s.cyc cluster + BitVec.ofNat 64 n)
    blocks := s.blocks.map fun (b : Block) =>
      match b.loc with
      | .core c =>
        if clusterOf c = cluster then
          { b with warps := b.warps.zipIdx.map fun (x : Warp × Nat) =>
              { x.1 with age := if s.warpReady b.id x.2 then x.1.age + n else x.1.age, stalled := [] } }
        else b
      | _ => b }

/-- Elapsed time passes: a sequencer with work counts BSU cycles of 1 ns (R298), a column command that is ready waits from now
on at the latest, a burst under way gives up one column for each of those cycles and ends where no column is ready (R297), and row
marks end with their window of 32 ms (R296). -/
def State.passTime (s : State) (n : Nat) : State :=
  let now := s.ns + n
  let turned := now / 32000000 != s.ns / 32000000
  { s with
    ns := now
    chans := s.chans.zipIdx.map fun (x : Chan × Nat) =>
      let c := { x.1 with
        idle := if s.bsuWork x.2 then x.1.idle + n else 0
        waiting := if (s.columnNext x.2).isSome then some (x.1.waiting.getD s.ns) else none
        burst := if (s.columnNext x.2).isSome then x.1.burst - n else 0 }
      if turned then { c with marked := [], due := c.due.filter fun r => !c.marked.contains r } else c }

/-- The refresh of a row reaches its deadline, when the device has it so (R297; log entry 110). -/
def State.refreshDeadline (s : State) (chan bank row : Nat) : State :=
  let c := s.chan chan
  s.setChan chan { c with due := (bank, row) :: c.due.erase (bank, row) }

/-- A TLB drops its oldest entry, whose bits wait for one of the points of R163. -/
def State.evictTlb (s : State) (home : Nat) : State :=
  match s.tlb.find? fun e => e.home == home && !e.out with
  | some e => s.tlbDrop e
  | none => s

/-- A core's constant cache drops a 64-byte line. -/
def State.evictConst (s : State) (core line : Nat) : State :=
  let c := s.core core
  s.setCore core { c with consts := c.consts.filter fun x => x.1 / 64 != line }

/-- A 64-byte line leaves the L2 for its memory (R185). -/
def State.writeLine (s : State) (line : Nat) : State := s.writeBack (64 * line) (64 * line + 64) true

/-- The window of an address: 0 the host's, p + 1 that of peer p (R160). -/
def windowOf (pa : Nat) : Nat := if pa < 2 ^ 51 + 2 ^ 50 then 0 else (pa - (2 ^ 51 + 2 ^ 50)) / 2 ^ 44 + 1

/-- The window's oldest posted writes are acknowledged, in order: their bytes have reached the host or the peer (R359). -/
def State.acknowledge (s : State) (w : Nat) : Nat → State
  | 0 => s
  | n + 1 =>
    match s.posted.find? fun p => windowOf p.pa == w with
    | none => s
    | some p =>
      State.acknowledge { s with posted := s.posted.erase p, hostMem := overPut s.hostMem p.pa p.val } w n

/-! ### What a step does -/

/-- A constructor of an event or a host action: it has no encoding. -/
def isEvent (i : Instr) : Bool := (encode i).isNone && (encodeBank i).isNone

/-- What an action does: the state it gives, and the instruction or event that runs in it, if any. -/
def State.takeAction (s : State) : Action → State × Option Instr
  | .issue b wi slot => s.due b wi slot
  | .bankIssue chan cx arith age => s.bankDue chan cx arith age
  | .event i args =>
    let s1 := { s with actor := .device, args := args }
    (s1, if isEvent i then some i else none)
  | .cycles c n => (s.passCycles c n, none)
  | .elapse n => (s.passTime n, none)
  | .ringTick => (s.ringTick, none)
  | .l2WriteBack line => (s.writeLine line, none)
  | .tlbEvict core n => (s.evictTlb (if core then n else 256 + n), none)
  | .constEvict core line => (s.evictConst core line, none)
  | .storePart op part => (s.drainPart op part, none)
  | .engineMove x u age => (s.moveUnit x u age, none)
  | .windowRead w n => (s.acknowledge w n, none)
  | .landPart op m => (s.landPart op m, none)
  | .flitDemand w st n => (s.demandFlits w st n, none)
  | .packetQueued b route => (s.queuePacket b route, none)
  | .packetHop b => (s.hopPacket b, none)
  | .migrationPick ctx va toPool => (s.pickMove ctx va.toNat toPool, none)
  | .activate chan bank row => (s.activateRow chan bank row, none)
  | .refreshDeadline chan bank row => (s.refreshDeadline chan bank row, none)
  | .flash => ({ s with dev := { s.dev with badImage := false } }, none)
  | .bringUpEnds => (s.endBringUp, none)

/-- The action a step takes, and the state that has taken it from the agenda or the schedule. -/
def State.nextAction (s : State) : Action × State :=
  match s.agenda with
  | act :: rest => (act, { s with agenda := rest })
  | [] => (Config.schedule s.choices, { s with choices := s.choices + 1 })

/-- POWER_ON_RESET, the one action of a device without power (R376). -/
def powersOn : Action → Bool
  | .event .powerOnReset _ => true
  | _ => false

/-! ### Placing a word for the next fetch -/

/-- The kernel object of a placed word. -/
def probeObj : KObj :=
  { constsz := 0, constoff := 0, privsz := 0, tdir := 0, vtab := 0, codelim := 65536, codestart := 64, ntab := 0, klass := 9
    divdepth := 0, idemp := false
    variants := [{ swmap := 0, sctab := 0, entry := 64, accl := 4, spad := 4, nwarp := 1, regb := 30 }] }

/-- Virtual address of the kernel object of a placed word, and the physical page that holds it. -/
def probeVa : Nat := 65536
def probePa : Nat := 2 ^ 39 - 65536

/-- The record of a placed word's block. -/
def probeRecord (id : Nat) : Record :=
  { id := id, ctx := 0, queue := 0, kobj := probeVa, frame := 0, first := 0, count := 1, nbx := 1, nby := 1, nbz := 1
    qid := 0, cont := 0, stage := 0, prio := 0, next := 1, ended := 0, ready := 0, obj := some probeObj, held := none
    room := none, epochs := [] }

/-- The path at a placed word: where a header is due for a header, and else at the last word of a clause with both
set-flags. -/
def probePath (w : DWord) : Path :=
  let left := match decode w with | .ok (.clauseStart _) => 0 | _ => 1
  { Path.at (BitVec.ofNat 64 (probeVa + 128)) (BitVec.allOnes 32) none with
    clause := if left = 0 then { s1 := none, s2 := none, left := 0 } else { s1 := some 0, s2 := some 1, left := 1 } }

/-- The block of a placed word: one warp with 240 vector registers on core 0. -/
def probeBlock (id record : Nat) (w : DWord) : Block :=
  { id := id, ctx := 0, record := record, index := 0, prio := 0, loc := .core 0, variant := 0, sizeclass := 0#32
    idemp := false
    warps := [{ Warp.start 30 0 0#64 0 0 with
      path0 := some (probePath w), latches := List.replicate 3 { tag := some (0#8, false), valid := 0 } }]
    spad := [], acc := [], spadBase := 0, accBase := 0, qwait := [], qspoiled := [], reshape := none, switches := [], stopping := false
    ending := none, lastCore := 0, placed := (0, 0), privAt := [0], privUnits := 1, saveUnits := 1 }

/-- A native word stored where the next step fetches: its bytes in a page that core 0's TLB maps, and a warp that is due to
issue it. -/
def State.placeNative (s : State) (w : DWord) : State :=
  let r := s.nextId
  let b := s.nextId + 1
  let s1 := s.writePhys (probePa + 128) (leBytes 8 w.toNat)
  { s1 with
    nextId := s.nextId + 2
    records := s1.records ++ [probeRecord r], blocks := s1.blocks ++ [probeBlock b r w]
    cores := setNth s1.cores 0 { s1.core 0 with ctx := some 0 }
    tlb := { home := 0, ctx := 0, base := probeVa, size := 65536, pa := probePa, pte := probePa + 65528, x := true, w := true
             win := none, a := true, d := true, out := false } :: s1.tlb
    agenda := .issue b 0 0 :: s1.agenda, dev := { s1.dev with powered := true, ready := true } }

/-- The launch of a placed bank word. -/
def probeLaunch (id : Nat) (w : Word) : BankLaunch :=
  { id := id, issuer := (id, 0), core := 0, start := 0, mask := 1#256, ctx := 0, handle := 0#16, block := id, warp := 0, argx := 0#64, argn := 0#32
    arr := 0, aentry := 0, code := [w], region := [0], status := 0, notify := false, ref := false, step := false }

/-- A bank word stored where the next step fetches: the code of a bank context that runs at channel 0, with a column and a
value in its queues. -/
def State.placeBank (s : State) (w : Word) : State :=
  let arith := match decodeBank w with | .ok i => bankThread i | .error _ => false
  let k := { (probeLaunch s.nextId w).context 0 with state := .running, dq := [List.replicate 64 0#8], bq := [0#64] }
  let c := s.chan 0
  { s with
    nextId := s.nextId + 1
    chans := setNth s.chans 0 { c with cx := setNth c.cx 0 (some k), turn := 0 }
    agenda := .bankIssue 0 0 arith 0 :: s.agenda, dev := { s.dev with powered := true, ready := true } }

/-- An instruction of `nbits` bits stored where the next step fetches: a bank word when it has 32 bits or fewer. -/
def State.placeWord (s : State) (nbits w : Nat) : State :=
  if nbits ≤ 32 then s.placeBank (BitVec.ofNat 32 w) else s.placeNative (BitVec.ofNat 64 w)

end Sys2Proof.Machine
end

