-- ==== Sys2Proof/Machine/Float.lean ====
section
/-!
DEFINITION. Floating-point and conversion instructions (R130 to R145).
-/
namespace Sys2Proof.Machine
open Sys2Proof

/-- IMM16 of FADD, FMUL, FMIN, FMAX and FSETP: a BF16 pattern widened (R131). -/
def immFp (o : Opnds) : Src := .imm (w32 (o.imm16.toNat * 2 ^ 16))

/-- IMM16 of HADD2 and HMUL2: one element used for both (R131). -/
def immHalf (o : Opnds) : Src := .imm (w32 (o.imm16.toNat * 2 ^ 16 + o.imm16.toNat))

/-- FADD (R134), register form. -/
def execFaddReg (o : Opnds) (s : State) : Host.Outcome State Fault Refusal :=
  s.capable o (.reg o.d o.sd) [o.srcA, o.srcB] (.fadd o.mod)

/-- FADD (R134), immediate form. -/
def execFaddImm (o : Opnds) (s : State) : Host.Outcome State Fault Refusal :=
  s.capable o (.reg o.d o.sd) [o.srcA, immFp o] (.fadd o.mod)

/-- FMUL (R134), register form. -/
def execFmulReg (o : Opnds) (s : State) : Host.Outcome State Fault Refusal :=
  s.capable o (.reg o.d o.sd) [o.srcA, o.srcB] (.fmul o.mod)

/-- FMUL (R134), immediate form. -/
def execFmulImm (o : Opnds) (s : State) : Host.Outcome State Fault Refusal :=
  s.capable o (.reg o.d o.sd) [o.srcA, immFp o] (.fmul o.mod)

/-- FFMA (R134): one rounding. -/
def execFfma (o : Opnds) (s : State) : Host.Outcome State Fault Refusal :=
  s.capable o (.reg o.d o.sd) [o.srcA, o.srcB, o.srcC] (.ffma o.mod)

/-- FMIN (R135), register form. -/
def execFminReg (o : Opnds) (s : State) : Host.Outcome State Fault Refusal :=
  s.capable o (.reg o.d o.sd) [o.srcA, o.srcB] (.fmin o.mod)

/-- FMIN (R135), immediate form. -/
def execFminImm (o : Opnds) (s : State) : Host.Outcome State Fault Refusal :=
  s.capable o (.reg o.d o.sd) [o.srcA, immFp o] (.fmin o.mod)

/-- FMAX (R135), register form. -/
def execFmaxReg (o : Opnds) (s : State) : Host.Outcome State Fault Refusal :=
  s.capable o (.reg o.d o.sd) [o.srcA, o.srcB] (.fmax o.mod)

/-- FMAX (R135), immediate form. -/
def execFmaxImm (o : Opnds) (s : State) : Host.Outcome State Fault Refusal :=
  s.capable o (.reg o.d o.sd) [o.srcA, immFp o] (.fmax o.mod)

/-- FSETP (R136), register form. -/
def execFsetpReg (cmp : BitVec 3) (o : Opnds) (s : State) : Host.Outcome State Fault Refusal :=
  s.capable o (.pred o.d.toNat) [o.srcA, o.srcB] (.fsetp cmp o.mod)

/-- FSETP (R136), immediate form. -/
def execFsetpImm (cmp : BitVec 3) (o : Opnds) (s : State) : Host.Outcome State Fault Refusal :=
  s.capable o (.pred o.d.toNat) [o.srcA, immFp o] (.fsetp cmp o.mod)

/-- FSFUN (R138). -/
def execFsfun (fn : SfFn) (o : Opnds) (s : State) : Host.Outcome State Fault Refusal :=
  s.plainOp o [o.srcA] fun a l => w32 (sfun fn o.mod (s.val a o.srcA l).toNat)

/-- HADD2 (R139), register form. -/
def execHadd2Reg (o : Opnds) (s : State) : Host.Outcome State Fault Refusal :=
  s.plainOp o [o.srcA, o.srcB] fun a l => hadd2W (o.m 4) o.mod (s.val a o.srcA l) (s.val a o.srcB l)

/-- HADD2 (R139), immediate form. -/
def execHadd2Imm (o : Opnds) (s : State) : Host.Outcome State Fault Refusal :=
  s.plainOp o [o.srcA] fun a l => hadd2W (o.m 4) o.mod (s.val a o.srcA l) (s.val a (immHalf o) l)

/-- HMUL2 (R139), register form. -/
def execHmul2Reg (o : Opnds) (s : State) : Host.Outcome State Fault Refusal :=
  s.plainOp o [o.srcA, o.srcB] fun a l => hmul2W (o.m 4) o.mod (s.val a o.srcA l) (s.val a o.srcB l)

/-- HMUL2 (R139), immediate form. -/
def execHmul2Imm (o : Opnds) (s : State) : Host.Outcome State Fault Refusal :=
  s.plainOp o [o.srcA] fun a l => hmul2W (o.m 4) o.mod (s.val a o.srcA l) (s.val a (immHalf o) l)

/-- HFMA2 (R139). -/
def execHfma2 (o : Opnds) (s : State) : Host.Outcome State Fault Refusal :=
  s.plainOp o [o.srcA, o.srcB, o.srcC] fun a l => hfma2W (o.m 4) o.mod (s.val a o.srcA l) (s.val a o.srcB l) (s.val a o.srcC l)

/-- FDOT2 (R140). -/
def execFdot2 (o : Opnds) (s : State) : Host.Outcome State Fault Refusal :=
  s.plainOp o [o.srcA, o.srcB, o.srcC] fun a l => fdot2W (o.m 4) o.mod (s.val a o.srcA l) (s.val a o.srcB l) (s.val a o.srcC l)

/-- FCLASS (R137). -/
def execFclass (o : Opnds) (s : State) : Host.Outcome State Fault Refusal :=
  s.plainOp o [o.srcA] fun a l => w32 (fClass (s.val a o.srcA l).toNat)

/-- CVT (R142). -/
def execCvt (o : Opnds) (s : State) : Host.Outcome State Fault Refusal :=
  s.capable o (.reg o.d o.sd) [o.srcA] (.cvt o.imm16 o.mod)

/-- The C source of PACK: the other elements of the narrow formats; unused by the 16-bit formats, whose two elements
fill the word (R143). -/
def packC (fmt : BitVec 3) (o : Opnds) : List Src := if fmt.toNat ≤ 1 then [] else [o.srcC]

/-- PACK (R143): all sources are read before D is written. -/
def execPack (fmt : BitVec 3) (o : Opnds) (s : State) : Host.Outcome State Fault Refusal :=
  s.plainOp o ([o.srcA, o.srcB] ++ packC fmt o) fun a l =>
    packWord fmt.toNat o.mod (s.val a o.srcA l) (s.val a o.srcB l) (if fmt.toNat ≤ 1 then 0#32 else (s.val a o.srcC l))

/-- UNPACK (R144). -/
def execUnpack (fmt : BitVec 3) (o : Opnds) (s : State) : Host.Outcome State Fault Refusal :=
  s.plainOp o [o.srcA] fun a l => unpackWord fmt.toNat (bits o.imm16 2 0) (o.m 2) (s.val a o.srcA l)

/-- Registers from D on are written one after another; the values were read before. -/
def State.wrRun (s : State) (a : Actx) (d : Nat) (sd : Bool) (m : Mask) (v : Nat → Nat → Word) : Nat → State
  | 0 => s
  | n + 1 => (State.wrRun s a d sd m v n).wr a (BitVec.ofNat 8 (d + n)) sd m (v n)

/-- RXCVT.ENC and RXCVT.ENC.W (R145): four elements to D to D + 3, or one word to D. -/
def execRxcvtEnc (o : Opnds) (s : State) : Host.Outcome State Fault Refusal :=
  s.run o fun a m =>
    if s.anyPx a m [o.srcA] then s.raise a Code.pxuse 0x01
    else if o.m 0 then (s.wr a o.d o.sd m fun l => w32 (rxenc (s.val a o.srcA l).toInt)).retire a
    else
      (s.wrRun a o.d.toNat false m (fun i l => w32 (rxenc (intVal true 8 (elem 8 (s.val a o.srcA l) i)))) 4).retire a

/-- RXCVT.DEC (R145). -/
def execRxcvtDec (o : Opnds) (s : State) : Host.Outcome State Fault Refusal :=
  s.plainOp o [o.srcA] fun a l => BitVec.ofInt 32 (rxdec (s.val a o.srcA l).toNat)

end Sys2Proof.Machine
end

