-- ==== Sys2Proof/Machine/Dispatch.lean ====
section
/-!
DEFINITION. The dispatch of an instruction or event to its meaning, one arm per constructor.
-/
namespace Sys2Proof.Machine
open Sys2Proof

/-- The effect of an instruction or event in a state. -/
def exec (i : Instr) (s : State) : Host.Outcome State Fault Refusal :=
  match i with
  | .clauseStart h => Sys2Proof.Machine.execClauseStart h s
  | .nop o => Sys2Proof.Machine.execNop o s
  | .bra t => Sys2Proof.Machine.execBra t s
  | .brx o => Sys2Proof.Machine.execBrx o s
  | .call t => Sys2Proof.Machine.execCall t s
  | .ret o => Sys2Proof.Machine.execRet o s
  | .exit o => Sys2Proof.Machine.execExit o s
  | .join o => Sys2Proof.Machine.execJoin o s
  | .yield o => Sys2Proof.Machine.execYield o s
  | .sleep o => Sys2Proof.Machine.execSleep o s
  | .sleepProm o => Sys2Proof.Machine.execSleepProm o s
  | .sleepFor o => Sys2Proof.Machine.execSleepFor o s
  | .sleepWake => Sys2Proof.Machine.execSleepWake s
  | .trap o => Sys2Proof.Machine.execTrap o s
  | .bkpt o => Sys2Proof.Machine.execBkpt o s
  | .spawn o => Sys2Proof.Machine.execSpawn o s
  | .jdec o => Sys2Proof.Machine.execJdec o s
  | .swpt o => Sys2Proof.Machine.execSwpt o s
  | .phase o => Sys2Proof.Machine.execPhase o s
  | .rbacq o => Sys2Proof.Machine.execRbacq o s
  | .rbrel o => Sys2Proof.Machine.execRbrel o s
  | .rbacqWake => Sys2Proof.Machine.execRbacqWake s
  | .regexh => Sys2Proof.Machine.execRegexh s
  | .iaddReg o => Sys2Proof.Machine.execIaddReg o s
  | .iaddImm o => Sys2Proof.Machine.execIaddImm o s
  | .isubReg o => Sys2Proof.Machine.execIsubReg o s
  | .isubImm o => Sys2Proof.Machine.execIsubImm o s
  | .imulReg o => Sys2Proof.Machine.execImulReg o s
  | .imulImm o => Sys2Proof.Machine.execImulImm o s
  | .imulhReg o => Sys2Proof.Machine.execImulhReg o s
  | .imulhImm o => Sys2Proof.Machine.execImulhImm o s
  | .imad o => Sys2Proof.Machine.execImad o s
  | .imadw o => Sys2Proof.Machine.execImadw o s
  | .iminReg o => Sys2Proof.Machine.execIminReg o s
  | .iminImm o => Sys2Proof.Machine.execIminImm o s
  | .imaxReg o => Sys2Proof.Machine.execImaxReg o s
  | .imaxImm o => Sys2Proof.Machine.execImaxImm o s
  | .iabs o => Sys2Proof.Machine.execIabs o s
  | .itestReg o => Sys2Proof.Machine.execItestReg o s
  | .itestImm o => Sys2Proof.Machine.execItestImm o s
  | .selReg o => Sys2Proof.Machine.execSelReg o s
  | .selImm o => Sys2Proof.Machine.execSelImm o s
  | .blutReg lutHi o => Sys2Proof.Machine.execBlutReg lutHi o s
  | .blutImm lutHi o => Sys2Proof.Machine.execBlutImm lutHi o s
  | .shlReg o => Sys2Proof.Machine.execShlReg o s
  | .shlImm o => Sys2Proof.Machine.execShlImm o s
  | .shrReg o => Sys2Proof.Machine.execShrReg o s
  | .shrImm o => Sys2Proof.Machine.execShrImm o s
  | .shf o => Sys2Proof.Machine.execShf o s
  | .popc o => Sys2Proof.Machine.execPopc o s
  | .clz o => Sys2Proof.Machine.execClz o s
  | .brev o => Sys2Proof.Machine.execBrev o s
  | .bfeReg o => Sys2Proof.Machine.execBfeReg o s
  | .bfeImm o => Sys2Proof.Machine.execBfeImm o s
  | .bfi o => Sys2Proof.Machine.execBfi o s
  | .leaReg o => Sys2Proof.Machine.execLeaReg o s
  | .leaImm o => Sys2Proof.Machine.execLeaImm o s
  | .mov o => Sys2Proof.Machine.execMov o s
  | .movP2v o => Sys2Proof.Machine.execMovP2v o s
  | .movV2p o => Sys2Proof.Machine.execMovV2p o s
  | .movLaneReg o => Sys2Proof.Machine.execMovLaneReg o s
  | .movLaneImm o => Sys2Proof.Machine.execMovLaneImm o s
  | .movUnif o => Sys2Proof.Machine.execMovUnif o s
  | .movi o => Sys2Proof.Machine.execMovi o s
  | .plop lutHi o => Sys2Proof.Machine.execPlop lutHi o s
  | .pairMov x y => Sys2Proof.Machine.execPairMov x y s
  | .pairIadd x y => Sys2Proof.Machine.execPairIadd x y s
  | .pairIsub x y => Sys2Proof.Machine.execPairIsub x y s
  | .pairImul x y => Sys2Proof.Machine.execPairImul x y s
  | .pairImin x y => Sys2Proof.Machine.execPairImin x y s
  | .pairImax x y => Sys2Proof.Machine.execPairImax x y s
  | .pairAnd x y => Sys2Proof.Machine.execPairAnd x y s
  | .pairOr x y => Sys2Proof.Machine.execPairOr x y s
  | .pairXor x y => Sys2Proof.Machine.execPairXor x y s
  | .pairShl x y => Sys2Proof.Machine.execPairShl x y s
  | .pairShr x y => Sys2Proof.Machine.execPairShr x y s
  | .pairFadd x y => Sys2Proof.Machine.execPairFadd x y s
  | .pairFmul x y => Sys2Proof.Machine.execPairFmul x y s
  | .pairFmin x y => Sys2Proof.Machine.execPairFmin x y s
  | .pairFmax x y => Sys2Proof.Machine.execPairFmax x y s
  | .pairHadd2 x y => Sys2Proof.Machine.execPairHadd2 x y s
  | .pairHmul2 x y => Sys2Proof.Machine.execPairHmul2 x y s
  | .pairMovi8 x y => Sys2Proof.Machine.execPairMovi8 x y s
  | .pairIaddImm x y => Sys2Proof.Machine.execPairIaddImm x y s
  | .pairIsubImm x y => Sys2Proof.Machine.execPairIsubImm x y s
  | .pairImulImm x y => Sys2Proof.Machine.execPairImulImm x y s
  | .pairIminImm x y => Sys2Proof.Machine.execPairIminImm x y s
  | .pairImaxImm x y => Sys2Proof.Machine.execPairImaxImm x y s
  | .pairAndImm x y => Sys2Proof.Machine.execPairAndImm x y s
  | .pairOrImm x y => Sys2Proof.Machine.execPairOrImm x y s
  | .pairXorImm x y => Sys2Proof.Machine.execPairXorImm x y s
  | .pairShlImm x y => Sys2Proof.Machine.execPairShlImm x y s
  | .pairShrImm x y => Sys2Proof.Machine.execPairShrImm x y s
  | .faddReg o => Sys2Proof.Machine.execFaddReg o s
  | .faddImm o => Sys2Proof.Machine.execFaddImm o s
  | .fmulReg o => Sys2Proof.Machine.execFmulReg o s
  | .fmulImm o => Sys2Proof.Machine.execFmulImm o s
  | .ffma o => Sys2Proof.Machine.execFfma o s
  | .fminReg o => Sys2Proof.Machine.execFminReg o s
  | .fminImm o => Sys2Proof.Machine.execFminImm o s
  | .fmaxReg o => Sys2Proof.Machine.execFmaxReg o s
  | .fmaxImm o => Sys2Proof.Machine.execFmaxImm o s
  | .fsetpReg cmp o => Sys2Proof.Machine.execFsetpReg cmp o s
  | .fsetpImm cmp o => Sys2Proof.Machine.execFsetpImm cmp o s
  | .fsfun fn o => Sys2Proof.Machine.execFsfun fn o s
  | .hadd2Reg o => Sys2Proof.Machine.execHadd2Reg o s
  | .hadd2Imm o => Sys2Proof.Machine.execHadd2Imm o s
  | .hmul2Reg o => Sys2Proof.Machine.execHmul2Reg o s
  | .hmul2Imm o => Sys2Proof.Machine.execHmul2Imm o s
  | .hfma2 o => Sys2Proof.Machine.execHfma2 o s
  | .fdot2 o => Sys2Proof.Machine.execFdot2 o s
  | .fclass o => Sys2Proof.Machine.execFclass o s
  | .cvt o => Sys2Proof.Machine.execCvt o s
  | .pack fmt o => Sys2Proof.Machine.execPack fmt o s
  | .unpack fmt o => Sys2Proof.Machine.execUnpack fmt o s
  | .rxcvtEnc o => Sys2Proof.Machine.execRxcvtEnc o s
  | .rxcvtDec o => Sys2Proof.Machine.execRxcvtDec o s
  | .lxchgReg mode o => Sys2Proof.Machine.execLxchgReg mode o s
  | .lxchgImm mode o => Sys2Proof.Machine.execLxchgImm mode o s
  | .vote mode o => Sys2Proof.Machine.execVote mode o s
  | .ballot o => Sys2Proof.Machine.execBallot o s
  | .matchAny o => Sys2Proof.Machine.execMatchAny o s
  | .matchAll o => Sys2Proof.Machine.execMatchAll o s
  | .redux op o => Sys2Proof.Machine.execRedux op o s
  | .xpair o => Sys2Proof.Machine.execXpair o s
  | .xpairTimeout => Sys2Proof.Machine.execXpairTimeout s
  | .xshfl o => Sys2Proof.Machine.execXshfl o s
  | .xshflCommit => Sys2Proof.Machine.execXshflCommit s
  | .ldReg o => Sys2Proof.Machine.execLdReg o s
  | .ldImm o => Sys2Proof.Machine.execLdImm o s
  | .ldPrivReg o => Sys2Proof.Machine.execLdPrivReg o s
  | .ldPrivImm o => Sys2Proof.Machine.execLdPrivImm o s
  | .stReg o => Sys2Proof.Machine.execStReg o s
  | .stImm o => Sys2Proof.Machine.execStImm o s
  | .stPrivReg o => Sys2Proof.Machine.execStPrivReg o s
  | .stPrivImm o => Sys2Proof.Machine.execStPrivImm o s
  | .ldsReg o => Sys2Proof.Machine.execLdsReg o s
  | .ldsImm o => Sys2Proof.Machine.execLdsImm o s
  | .stsReg o => Sys2Proof.Machine.execStsReg o s
  | .stsImm o => Sys2Proof.Machine.execStsImm o s
  | .ldcReg o => Sys2Proof.Machine.execLdcReg o s
  | .ldcImm o => Sys2Proof.Machine.execLdcImm o s
  | .loadComplete => Sys2Proof.Machine.execLoadComplete s
  | .storeAccept => Sys2Proof.Machine.execStoreAccept s
  | .lda o => Sys2Proof.Machine.execLda o s
  | .prefReg o => Sys2Proof.Machine.execPrefReg o s
  | .prefImm o => Sys2Proof.Machine.execPrefImm o s
  | .copy o => Sys2Proof.Machine.execCopy o s
  | .gath o => Sys2Proof.Machine.execGath o s
  | .engineArrival => Sys2Proof.Machine.execEngineArrival s
  | .arrinit o => Sys2Proof.Machine.execArrinit o s
  | .arrive o => Sys2Proof.Machine.execArrive o s
  | .arrwait o => Sys2Proof.Machine.execArrwait o s
  | .arrwaitTest o => Sys2Proof.Machine.execArrwaitTest o s
  | .publish o => Sys2Proof.Machine.execPublish o s
  | .cctlWb o => Sys2Proof.Machine.execCctlWb o s
  | .cctlWbinv o => Sys2Proof.Machine.execCctlWbinv o s
  | .cctlConst o => Sys2Proof.Machine.execCctlConst o s
  | .tlbhHarv o => Sys2Proof.Machine.execTlbhHarv o s
  | .tlbhInv o => Sys2Proof.Machine.execTlbhInv o s
  | .tlbHarvestPeriodic => Sys2Proof.Machine.execTlbHarvestPeriodic s
  | .atom op o => Sys2Proof.Machine.execAtom op o s
  | .acas o => Sys2Proof.Machine.execAcas o s
  | .atomicServiceRequest => Sys2Proof.Machine.execAtomicServiceRequest s
  | .atoms op o => Sys2Proof.Machine.execAtoms op o s
  | .fence kind o => Sys2Proof.Machine.execFence kind o s
  | .epochClose => Sys2Proof.Machine.execEpochClose s
  | .waita cmp o => Sys2Proof.Machine.execWaita cmp o s
  | .waitaWake => Sys2Proof.Machine.execWaitaWake s
  | .waitaTimeout => Sys2Proof.Machine.execWaitaTimeout s
  | .qinit o => Sys2Proof.Machine.execQinit o s
  | .qinitGrant o => Sys2Proof.Machine.execQinitGrant o s
  | .qpush o => Sys2Proof.Machine.execQpush o s
  | .qpop o => Sys2Proof.Machine.execQpop o s
  | .qtryPop o => Sys2Proof.Machine.execQtryPop o s
  | .qtryPush o => Sys2Proof.Machine.execQtryPush o s
  | .queueWaiterRelease => Sys2Proof.Machine.execQueueWaiterRelease s
  | .queueDeadlock => Sys2Proof.Machine.execQueueDeadlock s
  | .circCast o => Sys2Proof.Machine.execCircCast o s
  | .circBind o => Sys2Proof.Machine.execCircBind o s
  | .circCap o => Sys2Proof.Machine.execCircCap o s
  | .circWr o => Sys2Proof.Machine.execCircWr o s
  | .circRel o => Sys2Proof.Machine.execCircRel o s
  | .circPeek o => Sys2Proof.Machine.execCircPeek o s
  | .circTurn o => Sys2Proof.Machine.execCircTurn o s
  | .castClaim => Sys2Proof.Machine.execCastClaim s
  | .stopPass => Sys2Proof.Machine.execStopPass s
  | .seamPass => Sys2Proof.Machine.execSeamPass s
  | .holdTheft => Sys2Proof.Machine.execHoldTheft s
  | .warpEndRelease => Sys2Proof.Machine.execWarpEndRelease s
  | .setshapeReg o => Sys2Proof.Machine.execSetshapeReg o s
  | .setshapeImm o => Sys2Proof.Machine.execSetshapeImm o s
  | .setshapeTail o => Sys2Proof.Machine.execSetshapeTail o s
  | .getshape sel o => Sys2Proof.Machine.execGetshape sel o s
  | .mma o => Sys2Proof.Machine.execMma o s
  | .mmas o => Sys2Proof.Machine.execMmas o s
  | .tileWrite => Sys2Proof.Machine.execTileWrite s
  | .accz o => Sys2Proof.Machine.execAccz o s
  | .accld o => Sys2Proof.Machine.execAccld o s
  | .accldDec o => Sys2Proof.Machine.execAccldDec o s
  | .accldTscale o => Sys2Proof.Machine.execAccldTscale o s
  | .accst o => Sys2Proof.Machine.execAccst o s
  | .accstSp o => Sys2Proof.Machine.execAccstSp o s
  | .fragld part o => Sys2Proof.Machine.execFragld part o s
  | .pldReg fmt o => Sys2Proof.Machine.execPldReg fmt o s
  | .pldImm fmt o => Sys2Proof.Machine.execPldImm fmt o s
  | .pmat o => Sys2Proof.Machine.execPmat o s
  | .pmatS o => Sys2Proof.Machine.execPmatS o s
  | .pfree o => Sys2Proof.Machine.execPfree o s
  | .pfreeP o => Sys2Proof.Machine.execPfreeP o s
  | .pdot o => Sys2Proof.Machine.execPdot o s
  | .pred op o => Sys2Proof.Machine.execPred op o s
  | .pqry o => Sys2Proof.Machine.execPqry o s
  | .pqryP o => Sys2Proof.Machine.execPqryP o s
  | .proxyOperation => Sys2Proof.Machine.execProxyOperation s
  | .proxyCompletion => Sys2Proof.Machine.execProxyCompletion s
  | .proxyCopy => Sys2Proof.Machine.execProxyCopy s
  | .proxyDrop => Sys2Proof.Machine.execProxyDrop s
  | .pldSnapshot => Sys2Proof.Machine.execPldSnapshot s
  | .proxyCrossing => Sys2Proof.Machine.execProxyCrossing s
  | .chunkRequest => Sys2Proof.Machine.execChunkRequest s
  | .chunkGrant => Sys2Proof.Machine.execChunkGrant s
  | .chunkReturn => Sys2Proof.Machine.execChunkReturn s
  | .nlaunch o => Sys2Proof.Machine.execNlaunch o s
  | .nresume o => Sys2Proof.Machine.execNresume o s
  | .nstat o => Sys2Proof.Machine.execNstat o s
  | .csrr o => Sys2Proof.Machine.execCsrr o s
  | .csrw o => Sys2Proof.Machine.execCsrw o s
  | .engErrRead o => Sys2Proof.Machine.execEngErrRead o s
  | .pxLostClear o => Sys2Proof.Machine.execPxLostClear o s
  | .tret o => Sys2Proof.Machine.execTret o s
  | .tretSkip o => Sys2Proof.Machine.execTretSkip o s
  | .trapEntry => Sys2Proof.Machine.execTrapEntry s
  | .blockTerminate => Sys2Proof.Machine.execBlockTerminate s
  | .preempt => Sys2Proof.Machine.execPreempt s
  | .blockRestore => Sys2Proof.Machine.execBlockRestore s
  | .ifaultSwapOut => Sys2Proof.Machine.execIfaultSwapOut s
  | .blockReplay => Sys2Proof.Machine.execBlockReplay s
  | .faultRecordWrite => Sys2Proof.Machine.execFaultRecordWrite s
  | .frHeadWrite => Sys2Proof.Machine.execFrHeadWrite s
  | .faultRewalk => Sys2Proof.Machine.execFaultRewalk s
  | .qtailWrite => Sys2Proof.Machine.execQtailWrite s
  | .queueSlotMap => Sys2Proof.Machine.execQueueSlotMap s
  | .quantumExpiry => Sys2Proof.Machine.execQuantumExpiry s
  | .priorityAging => Sys2Proof.Machine.execPriorityAging s
  | .dispatch => Sys2Proof.Machine.execDispatch s
  | .shrinkRequest => Sys2Proof.Machine.execShrinkRequest s
  | .priorityPreempt => Sys2Proof.Machine.execPriorityPreempt s
  | .growRequest => Sys2Proof.Machine.execGrowRequest s
  | .switchGraceExpiry => Sys2Proof.Machine.execSwitchGraceExpiry s
  | .switchApply => Sys2Proof.Machine.execSwitchApply s
  | .contextYield => Sys2Proof.Machine.execContextYield s
  | .blockEndJdec => Sys2Proof.Machine.execBlockEndJdec s
  | .deferredPush => Sys2Proof.Machine.execDeferredPush s
  | .migrationMove => Sys2Proof.Machine.execMigrationMove s
  | .migReqWrite => Sys2Proof.Machine.execMigReqWrite s
  | .migStatRead => Sys2Proof.Machine.execMigStatRead s
  | .hostTlbInvalidate => Sys2Proof.Machine.execHostTlbInvalidate s
  | .contextLoad => Sys2Proof.Machine.execContextLoad s
  | .contextKill => Sys2Proof.Machine.execContextKill s
  | .contextStop => Sys2Proof.Machine.execContextStop s
  | .contextResume => Sys2Proof.Machine.execContextResume s
  | .peerRouteWrite => Sys2Proof.Machine.execPeerRouteWrite s
  | .csrWrite => Sys2Proof.Machine.execCsrWrite s
  | .hostMemoryAccess => Sys2Proof.Machine.execHostMemoryAccess s
  | .peerRequest => Sys2Proof.Machine.execPeerRequest s
  | .burgeePass => Sys2Proof.Machine.execBurgeePass s
  | .deadlockProbe => Sys2Proof.Machine.execDeadlockProbe s
  | .furl => Sys2Proof.Machine.execFurl s
  | .unfurl => Sys2Proof.Machine.execUnfurl s
  | .rdPacket => Sys2Proof.Machine.execRdPacket s
  | .wrPacket => Sys2Proof.Machine.execWrPacket s
  | .wrm => Sys2Proof.Machine.execWrm s
  | .rdrsp => Sys2Proof.Machine.execRdrsp s
  | .wrack => Sys2Proof.Machine.execWrack s
  | .bankLaunchStart => Sys2Proof.Machine.execBankLaunchStart s
  | .bankContextStop => Sys2Proof.Machine.execBankContextStop s
  | .bankContextDone => Sys2Proof.Machine.execBankContextDone s
  | .bsuWatchdogReset => Sys2Proof.Machine.execBsuWatchdogReset s
  | .refresh => Sys2Proof.Machine.execRefresh s
  | .targetedRefresh => Sys2Proof.Machine.execTargetedRefresh s
  | .bsuBurst => Sys2Proof.Machine.execBsuBurst s
  | .nli d imm => Sys2Proof.Machine.execNli d imm s
  | .nliH d imm => Sys2Proof.Machine.execNliH d imm s
  | .nadd d a b => Sys2Proof.Machine.execNadd d a b s
  | .naddi d a imm => Sys2Proof.Machine.execNaddi d a imm s
  | .nshl d a sh => Sys2Proof.Machine.execNshl d a sh s
  | .nbr cmp d a imm => Sys2Proof.Machine.execNbr cmp d a imm s
  | .crd a => Sys2Proof.Machine.execCrd a s
  | .crdRef a => Sys2Proof.Machine.execCrdRef a s
  | .wr a => Sys2Proof.Machine.execWr a s
  | .bpop d => Sys2Proof.Machine.execBpop d s
  | .nend => Sys2Proof.Machine.execNend s
  | .xget d w => Sys2Proof.Machine.execXget d w s
  | .xnext => Sys2Proof.Machine.execXnext s
  | .xcadd m d => Sys2Proof.Machine.execXcadd m d s
  | .xli d imm => Sys2Proof.Machine.execXli d imm s
  | .xliF2 d imm => Sys2Proof.Machine.execXliF2 d imm s
  | .xadd m d a b => Sys2Proof.Machine.execXadd m d a b s
  | .xsub m d a b => Sys2Proof.Machine.execXsub m d a b s
  | .xmul m d a b => Sys2Proof.Machine.execXmul m d a b s
  | .xfma m d a b c => Sys2Proof.Machine.execXfma m d a b c s
  | .xmin m d a b => Sys2Proof.Machine.execXmin m d a b s
  | .xmax m d a b => Sys2Proof.Machine.execXmax m d a b s
  | .xlop op d a b => Sys2Proof.Machine.execXlop op d a b s
  | .xhsum m d a => Sys2Proof.Machine.execXhsum m d a s
  | .xsend a => Sys2Proof.Machine.execXsend a s
  | .xbr cmp d a imm => Sys2Proof.Machine.execXbr cmp d a imm s
  | .xend => Sys2Proof.Machine.execXend s
  | .powerOnReset => Sys2Proof.Machine.execPowerOnReset s
  | .bootReset => Sys2Proof.Machine.execBootReset s
  | .attestationGo => Sys2Proof.Machine.execAttestationGo s
  | .attestationDone => Sys2Proof.Machine.execAttestationDone s
  | .clockStepChange => Sys2Proof.Machine.execClockStepChange s
  | .thermalTrip => Sys2Proof.Machine.execThermalTrip s
  | .operationComplete => Sys2Proof.Machine.execOperationComplete s
  | .furlCtlWrite => Sys2Proof.Machine.execFurlCtlWrite s

end Sys2Proof.Machine
end

