-- ==== Sys2Proof/Machine/Step.lean ====
section
/-!
DEFINITION. One step of the machine: the next action of the agenda, or of the free schedule when the agenda is empty.
-/
namespace Sys2Proof.Machine
open Sys2Proof

/-- What a step that runs nothing leaves: the state its action gave with what it does beside, or the page fault of a fill (R67);
each L2 slice stays within its capacity (R9). -/
def State.after (s t : State) : State := ((s.fillFault t).getD (s.beside t)).fitL2

/-- A step runs an instruction or an event: its outcome, with the word's issue noted in the next state (R9, R29, R67). -/
def State.perform (s : State) (i : Instr) : Host.Outcome State Fault Refusal :=
  match exec i s with
  | .next t => .next (s.stepped i t).fitL2
  | .fault f => .fault f
  | .refused r => .refused r

/-- One step: the next action, with the instruction or event that it runs. A device without power does nothing but come up
again (R376). -/
def step (s : State) : Host.Outcome State Fault Refusal :=
  if !s.dev.powered && !powersOn s.nextAction.1 then .fault .unpowered
  else
    match s.nextAction.2.takeAction s.nextAction.1 with
    | (s1, some i) => s1.perform i
    | (s1, none) => .next (s.nextAction.2.after s1)

/-- The state with an instruction of `nbits` bits placed so that the next step fetches and runs it. -/
def State.withFetchWord (s : State) (nbits w : Nat) : State := s.placeWord nbits w

end Sys2Proof.Machine
end

