-- ==== Sys2Proof/Reference.lean ====
section
/-!
DEFINITION. The results that the rules give the word instructions, written bit by bit or with the operations of
BitVec, apart from the machine's own functions: the statements are made in terms of these.
-/
namespace Sys2Proof.Ref
open Sys2Proof Sys2Proof.Machine

/-- The word whose bit i is `f i`. -/
def word (f : Nat → Bool) : Word := BitVec.ofFnLE fun i : Fin 32 => f i

/-- IADD: the low 32 bits of the sum, or the sum clamped to the range of its type (R118). -/
def iadd (sat u : Bool) (x y : Word) : Word :=
  match sat, u with
  | false, _ => x + y
  | true, true => BitVec.ofNat 32 (min (x.toNat + y.toNat) (2 ^ 32 - 1))
  | true, false => BitVec.ofInt 32 (max (-2 ^ 31) (min (2 ^ 31 - 1) (x.toInt + y.toInt)))

/-- ISUB (R118). -/
def isub (sat u : Bool) (x y : Word) : Word :=
  match sat, u with
  | false, _ => x - y
  | true, true => BitVec.ofNat 32 (x.toNat - y.toNat)
  | true, false => BitVec.ofInt 32 (max (-2 ^ 31) (min (2 ^ 31 - 1) (x.toInt - y.toInt)))

/-- IMULH: the high half of the exact 64-bit product (R118). -/
def imulh (u : Bool) (x y : Word) : Word :=
  let p : DWord := if u then x.zeroExtend 64 * y.zeroExtend 64 else x.signExtend 64 * y.signExtend 64
  p.extractLsb' 32 32

/-- x comes before y, both read unsigned or both signed. -/
def below (u : Bool) (x y : Word) : Bool := if u then x.ult y else x.slt y

/-- IMIN (R118). -/
def imin (u : Bool) (x y : Word) : Word := if below u y x then y else x
/-- IMAX (R118). -/
def imax (u : Bool) (x y : Word) : Word := if below u x y then y else x

/-- IABS (R120). -/
def iabs (sat : Bool) (x : Word) : Word :=
  if x = 0x80000000#32 then (if sat then 0x7FFFFFFF#32 else 0x80000000#32) else if x.msb then -x else x

/-- IMADW: the product of the sources, each extended to 64 bits, and the 64-bit pair (R119). -/
def imadw (u : Bool) (x y lo hi : Word) : DWord :=
  (if u then x.zeroExtend 64 * y.zeroExtend 64 else x.signExtend 64 * y.signExtend 64) + (hi ++ lo)

/-- The comparison codes of ITEST (R121). -/
def itest (cmp : BitVec 3) (u : Bool) (x y : Word) : Bool :=
  match cmp.toNat with
  | 0 => x == y
  | 1 => x != y
  | 2 => below u x y
  | 3 => !below u y x
  | 4 => below u y x
  | _ => !below u x y

/-- The table index of three bits: a + 2 × b + 4 × c (R123). -/
def lutIndex (a b c : Bool) : Nat := a.toNat + 2 * b.toNat + 4 * c.toNat

/-- BLUT (R123). -/
def blut (lut : BitVec 8) (x y z : Word) : Word :=
  word fun i => lut.getLsbD (lutIndex (x.getLsbD i) (y.getLsbD i) (z.getLsbD i))

/-- SHL (R124). -/
def shl (x y : Word) : Word := word fun i => decide (y.toNat ≤ i) && x.getLsbD (i - y.toNat)
/-- SHR and SHR.S (R124). -/
def shr (s : Bool) (x y : Word) : Word :=
  word fun i => if i + y.toNat < 32 then x.getLsbD (i + y.toNat) else s && x.getLsbD 31
/-- SHF (R124): w = b × 2^32 + a, and n is the low five bits of c. -/
def shf (l : Bool) (x y z : Word) : Word :=
  let n := z.toNat % 32
  let w (k : Nat) : Bool := if k < 32 then x.getLsbD k else y.getLsbD (k - 32)
  word fun i => if l then decide (n ≤ i + 32) && w (i + 32 - n) else w (i + n)
/-- POPC (R125). -/
def popc (x : Word) : Word := BitVec.ofNat 32 ((List.range 32).countP fun i => x.getLsbD i)
/-- CLZ (R125): 32 for 0. -/
def clz (x : Word) : Word := BitVec.ofNat 32 (if x = 0#32 then 32 else 31 - Nat.log2 x.toNat)
/-- BREV (R125). -/
def brev (x : Word) : Word := word fun i => x.getLsbD (31 - i)
/-- BFE (R125): bit k of a, with what a position past bit 31 reads; the field's bits, and above them its extension. -/
def bfe (u : Bool) (x : Word) (pos len : Nat) : Word :=
  let at_ (k : Nat) : Bool := if k < 32 then x.getLsbD k else !u && x.getLsbD 31
  let n := min len 32
  word fun i => if i < n then at_ (pos + i) else !u && decide (n ≠ 0) && at_ (pos + n - 1)
/-- BFI (R125). -/
def bfi (x y z : Word) : Word :=
  let pos := z.toNat % 256
  let len := z.toNat / 256 % 256
  word fun i => if pos ≤ i ∧ i < pos + len then x.getLsbD (i - pos) else y.getLsbD i
/-- LEA (R126). -/
def lea (n : Nat) (x y : Word) : Word := x + y * BitVec.ofNat 32 (2 ^ n)

/-- A 16-bit function on both halves of a word (R139). -/
def halfWords (f : BitVec 16 → BitVec 16 → BitVec 16) (x y : Word) : Word :=
  f (x.extractLsb' 16 16) (y.extractLsb' 16 16) ++ f (x.extractLsb' 0 16) (y.extractLsb' 0 16)

/-- The lane that LXCHG reads for lane l: w lanes a segment, b the second source, `m` the active lanes (R150). -/
def lxchg (mode : LxMode) (w b : Nat) (m : Mask) (l : Nat) : Nat :=
  let base : Int := (l : Int) - l % w
  let src : Int := match mode with
    | .idx => base + b % w
    | .up => (l : Int) - b
    | .down => (l : Int) + b
    | .xor => ((l ^^^ (b % w) : Nat) : Int)
  let ok : Bool := match mode with
    | .up => decide (b < w) && decide (base ≤ src)
    | .down => decide (b < w) && decide (src < base + w)
    | _ => true
  if ok && m.getLsbD src.toNat then src.toNat else l

/-- The mask of the lanes of `m` for which `f` holds. -/
def mask (m : Mask) (f : Nat → Bool) : Mask := word fun l => m.getLsbD l && f l

/-- The operation of a pair half on D and A: that of the full form with the same MOD bits (R25). -/
def pair (p : PairOp) (md : BitVec 4) (d a : Word) : Word :=
  let u := md.getLsbD 0
  let sat := md.getLsbD 1
  let ftz := md.getLsbD 2
  let m : BitVec 6 := 0#2 ++ md
  match p with
  | .mov | .movi8 => a
  | .iadd | .iaddImm => iadd sat u d a
  | .isub | .isubImm => isub sat u d a
  | .imul | .imulImm => d * a
  | .imin | .iminImm => imin u d a
  | .imax | .imaxImm => imax u d a
  | .and | .andImm => word fun i => d.getLsbD i && a.getLsbD i
  | .or | .orImm => word fun i => d.getLsbD i || a.getLsbD i
  | .xor | .xorImm => word fun i => d.getLsbD i != a.getLsbD i
  | .shl | .shlImm => shl d a
  | .shr | .shrImm => shr u d a
  | .fadd => BitVec.ofNat 32 (fAdd .fp32 m d.toNat a.toNat)
  | .fmul => BitVec.ofNat 32 (fMul .fp32 m d.toNat a.toNat)
  | .fmin => BitVec.ofNat 32 (fMinMax false ftz false d.toNat a.toNat)
  | .fmax => BitVec.ofNat 32 (fMinMax true ftz false d.toNat a.toNat)
  | .hadd2 => halfWords (fun x y => BitVec.ofNat 16 (fAdd .fp16 m x.toNat y.toNat)) d a
  | .hmul2 => halfWords (fun x y => BitVec.ofNat 16 (fMul .fp16 m x.toNat y.toNat)) d a

/-- The immediate of a pair half: zero-extended for logic and shifts, sign-extended otherwise (R25). -/
def pairImm (p : PairOp) (i : BitVec 8) : Word :=
  match p with
  | .andImm | .orImm | .xorImm | .shlImm | .shrImm => i.zeroExtend 32
  | _ => i.signExtend 32

/-- The constructor of a pair word by the operation of its half X. -/
def pairInstr (p : PairOp) (x : HalfOpnds) (y : PairHalf) : Instr :=
  match p with
  | .mov => .pairMov x y | .iadd => .pairIadd x y | .isub => .pairIsub x y | .imul => .pairImul x y | .imin => .pairImin x y
  | .imax => .pairImax x y | .and => .pairAnd x y | .or => .pairOr x y | .xor => .pairXor x y | .shl => .pairShl x y
  | .shr => .pairShr x y | .fadd => .pairFadd x y | .fmul => .pairFmul x y | .fmin => .pairFmin x y | .fmax => .pairFmax x y
  | .hadd2 => .pairHadd2 x y | .hmul2 => .pairHmul2 x y | .movi8 => .pairMovi8 x y | .iaddImm => .pairIaddImm x y
  | .isubImm => .pairIsubImm x y | .imulImm => .pairImulImm x y | .iminImm => .pairIminImm x y | .imaxImm => .pairImaxImm x y
  | .andImm => .pairAndImm x y | .orImm => .pairOrImm x y | .xorImm => .pairXorImm x y | .shlImm => .pairShlImm x y
  | .shrImm => .pairShrImm x y

end Sys2Proof.Ref
end

