-- ==== Sys2Proof/Safety.lean ====
section
/-!
DEFINITION. What counts as a safe run, in the terms the statements use: the canonical form of the memories, the course
an instruction of a warp takes when nothing keeps it from completing, and what an operation leaves unchanged.
-/
namespace Sys2Proof.Machine
open Sys2Proof

/-- The memories of the state stand in their canonical forms: HBM and the pool, the dirty bytes of the L2, the host's and
peers' bytes, and each block's scratchpad and accumulator; and every write that is posted goes to a window (R359). -/
def State.memoryWf (s : State) : Bool :=
  Memory.wf s.dram && overWf s.l2 && (s.posted.all fun p => inWindow p.pa) && overWf s.hostMem
    && s.blocks.all fun b => cellWf 0#8 b.spad && cellWf 0#32 b.acc

/-! ### The course of an instruction -/

/-- The slot seen by `a` runs an instruction with this guard: no lane's guard is a proxy predicate, and some lane is
active (R22, R23). -/
def State.Acts (s : State) (a : Actx) (gn : Bool) (g : BitVec 3) : Prop :=
  s.actx = some a ∧ a.guardPx g = false ∧ a.active gn g ≠ 0#32

/-- The same for an instruction of the operand layout, with no proxy in an active lane of the listed sources. -/
def State.ActsOn (s : State) (a : Actx) (o : Opnds) (xs : List Src) : Prop :=
  s.Acts a o.gn o.g ∧ s.anyPx a (a.active o.gn o.g) xs = false

/-- The active lanes of an instruction of the operand layout. -/
def Actx.lanes (a : Actx) (o : Opnds) : Mask := a.active o.gn o.g

/-- The word that the n-th of the listed sources reads in a lane; a source that is not listed reads 0. -/
def State.operand (s : State) (a : Actx) (xs : List Src) (l n : Nat) : Word :=
  match xs[n]? with
  | some x => (s.src a x l).val
  | none => 0#32

/-- The source predicates hold no proxy in the active lanes. -/
def Actx.plainPreds (a : Actx) (o : Opnds) (ns : List Nat) : Prop :=
  ∀ n ∈ ns, ∀ l, (a.lanes o).getLsbD l = true → (a.w.pred n l).px = none

/-! ### What an operation leaves unchanged -/

/-- A vector register of this number is one that the warp can write: its own, or the lent block's in handler mode (R306). -/
def Warp.reaches (w : Warp) (n : Nat) : Prop := if w.lends n then n - 232 < w.lent.length else n < w.vregs.length

/-- The destination of an instruction names a register of the warp, or ZERO. -/
def Warp.takes (w : Warp) (d : BitVec 8) (sd : Bool) : Prop :=
  if sd then d.toNat < w.sregs.length else d = 0xF3#8 ∨ w.reaches d.toNat

/-- The lanes of a mask, ascending. -/
def lanesIn (m : Mask) : List Nat := (List.range 32).filter fun l => m.getLsbD l

/-- `t` is `s` outside the acting warp, but for the references of the handles `lost`: each whose home is not lost, and which still names a run (R271), is counted down
and its drop, one for each of them, is sent to that home (R269, R271). Every other warp, the rest of the warp's block, every byte
of memory and every register of the device stand as before. -/
def State.SameOutside (s t : State) (a : Actx) (lost : List Word) : Prop :=
  let hs := lost.filter fun h => !(s.ctx a.blk.ctx).lost (pxHome h) && !pxStale h
  (∀ b wi, (b, wi) ≠ (a.bid, a.wi) → (t.warp? b wi).map (·.2) = (s.warp? b wi).map (·.2)) ∧
  (∀ b, b ≠ a.bid → t.block? b = s.block? b) ∧
  (t.block? a.bid).map (fun (b : Block) => { b with warps := a.blk.warps }) = some a.blk ∧
  { t with blocks := s.blocks, pxReqs := s.pxReqs, homes := s.homes, nextId := s.nextId } = s ∧
  t.pxReqs = s.pxReqs ++ (hs.zipIdx.map fun x =>
    { id := s.nextId + x.2, core := a.core, home := pxHome x.1, ctx := a.blk.ctx, block := a.bid, warp := a.wi, pathSlot := 0
      kind := .drop (pxSlot x.1), served := false, lost := false, data := [], since := none, sent := s.ns }) ∧
  t.nextId = s.nextId + hs.length ∧
  t.homes = (hs.foldl (fun (s : State) h => s.unref a.core (pxHome h) (pxSlot h)) s).homes ∧
  (∀ pa, t.readByte pa = s.readByte pa)

/-- The acting warp of `t` is that of `s` but for the vector registers, the scalars, the predicates and its paths. -/
def Actx.SameWarpBut (a : Actx) (w : Warp) : Prop :=
  { w with vregs := a.w.vregs, lent := a.w.lent, sregs := a.w.sregs, preds := a.w.preds, path0 := a.w.path0
           path1 := a.w.path1, stack := a.w.stack } = a.w

/-- `t` is `s` after an instruction that has written the lanes `m` of D and nothing else, and has moved its path on: the
frame of an instruction whose destination is a register. The handles lost are those that the written lanes held. -/
def State.WroteD (s t : State) (a : Actx) (d : BitVec 8) (sd : Bool) (m : Mask) (f : Nat → Word) : Prop :=
  s.SameOutside t a (if sd = true ∨ d = 0xF3#8 then [] else (lanesIn m).filterMap fun l =>
    if ((a.w.vreg d.toNat).lane l).px then some ((a.w.vreg d.toNat).lane l).val else none) ∧
  ∃ blk w, t.warp? a.bid a.wi = some (blk, w) ∧ a.SameWarpBut w ∧ w.preds = a.w.preds ∧
    (∀ n, w.sreg n = if sd = true ∧ n = d.toNat then f 0 else a.w.sreg n) ∧
    (∀ n l, l < 32 → (w.vreg n).lane l =
      if sd = false ∧ d ≠ 0xF3#8 ∧ n = d.toNat ∧ m.getLsbD l = true then KVal.plain (f l) else (a.w.vreg n).lane l)

/-- The same for an instruction whose destination is a predicate; P7 discards. The handles lost are the proxy predicates that
the written lanes held. -/
def State.WroteP (s t : State) (a : Actx) (n : Nat) (m : Mask) (f : Nat → Bool) : Prop :=
  s.SameOutside t a (if 7 ≤ n then [] else (lanesIn m).filterMap fun l => (a.w.pred n l).px) ∧
  ∃ blk w, t.warp? a.bid a.wi = some (blk, w) ∧ a.SameWarpBut w ∧ w.vregs = a.w.vregs ∧ w.lent = a.w.lent ∧
    w.sregs = a.w.sregs ∧
    (∀ k l, k < 7 → l < 32 → w.pred k l =
      if k = n ∧ m.getLsbD l = true then { val := f l, px := none } else a.w.pred k l)

/-! ### Paths -/

/-- How many of the places of R61 a lane is in: the paths of the slots, the suspended paths, the open join records at
which it has arrived, and the lanes that have exited. -/
def Warp.places (w : Warp) (l : Nat) : Nat :=
  let one (b : Bool) : Nat := if b then 1 else 0
  let slot (p : Option Path) : Nat := match p with | some p => one (p.mask.getLsbD l) | none => 0
  slot w.path0 + slot w.path1 + one (w.exited.getLsbD l)
    + (w.stack.map fun e => match e with | .path p => one (p.mask.getLsbD l) | .join r => one (r.arrived.getLsbD l)).sum

/-- The join records of a warp have identities of their own, below the next one. -/
def Warp.joinsOk (w : Warp) : Prop :=
  (w.stack.filterMap fun e => match e with | .join r => some r.id | .path _ => none).Nodup ∧
  ∀ r, StackEntry.join r ∈ w.stack → r.id < w.nextJoin

/-- Every lane of a warp is in exactly one place (R61). -/
def Warp.lanesOk (w : Warp) : Prop := ∀ l, l < 32 → w.places l = 1

end Sys2Proof.Machine
end

