-- ==== Sys2Proof/WellFormed.lean ====
section
/-!
DEFINITION. Well-formed instructions: those whose own bits give the core no reason to raise ILLEGAL, wherever they
stand (R17, R18, R20, R21, R26 to R28, R30 and the class chapters' lists). What depends on the warp and the clause
as well (allocation, latch tags, set-flags, position; R40 details 0x03, 0x09, 0x0B to 0x0E) is judged at issue.
-/
namespace Sys2Proof

/-- No ILLEGAL detail applies to the instruction's own bits. -/
def WellFormed (i : Instr) : Prop := illegalDetail i DecodeCtx.widest = none

/-- A bank instruction is well formed when its MODE is one its operation assigns (R289). -/
def BankWellFormed : Instr → Prop
  | .xcadd m _ | .xadd m _ _ _ | .xsub m _ _ _ | .xmul m _ _ _ | .xfma m _ _ _ _ => m ≠ .u64 ∧ m ≠ .u32x2
  | .xhsum m _ _ => m = .i32x2 ∨ m = .f32x2
  | i => (encodeBank i).isSome

end Sys2Proof
end

