-- ==== Sys2Proof/Certificates/Slice0/Obligations.lean ====
section
/-!
DEFINITION. The statements about the machine, for the provers. Each says which rule of the manual it formalises; a
statement that rests on the model's own choice names the log entry.
-/
open Sys2Proof Sys2Proof.Machine

/-- The decoder reads words of the manual. Words that the manual prints with their instruction, or that its layouts
give field by field, decode to that instruction: TRET, TRET.SKIP, NOP, IMIN, BFE.U, MOV.UNIF, the guarded BRA of
First Steps, a clause header of two words, and bank words. (03_instruction_words.md, 07_integer_and_uniform.md,
15_bank_side_units.md, R13, R16, R30, R288, R289, R309) -/
def Obligations.DecodesTheWords : Prop :=
  let g7 : Opnds := { (default : Opnds) with g := 7#3 }
  decode 0x7C00000000070000#64 = .ok (.tret g7) ∧
  decode 0x7C00000000170000#64 = .ok (.tretSkip g7) ∧
  decode 0x0000000000070000#64 = .ok (.nop g7) ∧
  decode 0x1E05050064170000#64 = .ok (.iminImm { g7 with d := 5#8, a := 5#8, b := 0#8, c := 100#8 }) ∧
  decode 0x2A05040808170001#64 = .ok (.bfeImm { g7 with d := 5#8, a := 4#8, b := 8#8, c := 8#8, mod := 1#6 }) ∧
  decode 0x2D02060000570800#64 = .ok (.movUnif { g7 with d := 2#8, a := 6#8, sd := true }) ∧
  decode 0x0100000400500000#64 = .ok (.bra { tgt := 4#24, rj := 5#12, gn := false, g := 0#3, rsv := 0#16 }) ∧
  (∃ h, decode 0x7F00000020000000#64 = .ok (.clauseStart h) ∧ h.len = 2#6 ∧ h.wait = 0#12 ∧ h.s1v = false ∧ h.s2v = false) ∧
  decodeBank 0x90000200#32 = .ok (.xcadd .f32x2 0#4) ∧
  decodeBank 0x00801234#32 = .ok (.nli 1#4 0x1234#16) ∧
  decode 0xC000000000000000#64 = .error .reservedForm

/-- Decoding the encoding of a native instruction gives it back. Every instruction that has a native word, with
every operand at every value of its fields, is what that word decodes to; and every word that decodes to an
instruction is that instruction's word, so that no bit of it is dropped. (03_instruction_words.md, R12, R13, R14,
R15, R16, R24, R30) -/
def Obligations.NativeRoundTrip : Prop :=
  (∀ (i : Instr) (w : DWord), encode i = some w → decode w = .ok i) ∧ (∀ (w : DWord) (i : Instr), decode w = .ok i → encode i = some w)

/-- Decoding the encoding of a bank instruction gives it back. Every well-formed bank instruction, with every
operand at every value of its fields, is what its word decodes to, and every bank word that decodes is the word of
its instruction; no instruction has both a native word and a bank word, and one that has neither is an event.
(15_bank_side_units.md, R288, R289) -/
def Obligations.BankRoundTrip : Prop :=
  (∀ (i : Instr) (w : Word), BankWellFormed i → encodeBank i = some w → decodeBank w = .ok i) ∧
  (∀ (w : Word) (i : Instr), decodeBank w = .ok i → encodeBank i = some w ∧ BankWellFormed i) ∧
  (∀ i : Instr, (encode i).isSome = true → encodeBank i = none) ∧
  (∀ i : Instr, isEvent i = true ↔ encode i = none ∧ encodeBank i = none)

/-- A step runs the instruction that is due, or raises the trap of its word. When the next action issues from a slot
that has its turn, of a warp that may issue and that no ready warp of its core is older than, the core first looks
at the word due. An address outside the code limits or the 57-bit space, or a header whose clause does not fit below
the limit, raises CODEEND; a fetch that does not translate takes the page fault of its reason; and where an ILLEGAL
detail applies, the lowest of those that apply is raised: 0x01 for a word that does not decode, and 0x0B among them
for a word that is no header where one is due, a header inside a clause, or an address that is no word's. A word
whose header's flags are not clear, or that names a register still to come, waits. Otherwise the step is exec of the
decoded instruction in the state with a HOLD's tag set, and in its next state the word has issued, unless it left
its path where it stood and so has to wait, and each L2 slice is within its capacity; what a step does beside, for
early writes of sources and for the entries of divergence stacks beyond 16, is nothing where no stack holds more
than 16 entries and no flag-counted operation was in flight already. That a word is checked under the tags as they
stood before a HOLD of its own sets one, and reads through the new tag, is the model's choice (log entry 71). A bank
thread that is due runs its decoded word, and an event is run by the action that names it. A device without power
faults. The model's choices in it: log entries 9, 52, 55, 56, 61, 68, 71 and 72. (01_machine.md,
03_instruction_words.md, 05_control_flow.md, 15_bank_side_units.md, R31, R32, R34, R38, R39, R40, R61, R94) -/
def Obligations.StepRunsTheDecodedInstruction : Prop :=
  (∀ (s : State) (b wi slot : Nat) (rest : List Action) (a : Actx), s.dev.powered = true → s.agenda = .issue b wi slot :: rest →
    let r := { s with agenda := rest }
    let s0 := { r with actor := .warp b wi slot }
    let trap (t : State) (code n : Nat) (skip : Bool) : State := t.raiseTrap a.bid a.wi a.slot code n 0#64 skip
    s0.actx = some a → s0.mayIssue a = true → s0.slotTurn a = true → s0.warpTurn a = true →
    ((a.p.pc.toNat < (s0.codeLimits a).1 ∨ (s0.codeLimits a).2 ≤ a.p.pc.toNat ∨ 2 ^ 57 ≤ a.p.pc.toNat) →
      step s = .next (r.after (trap s0 Code.codeend 0 false))) ∧
    ((s0.codeLimits a).1 ≤ a.p.pc.toNat → a.p.pc.toNat < (s0.codeLimits a).2 → a.p.pc.toNat < 2 ^ 57 →
      (∀ d s1, s0.fetchWord a = (.error d, s1) → step s = .next (r.after (s1.fetchFault a d))) ∧
      (∀ w s1, s0.fetchWord a = (.ok w, s1) →
        (∀ h, decode w = .ok (.clauseStart h) → wordAligned a.p = true → a.p.clause.left = 0 →
          (s0.codeLimits a).2 < a.p.pc.toNat + 8 * (h.len.toNat + 1) → step s = .next (r.after (trap s1 Code.codeend 0 false))) ∧
        ((wordAligned a.p = true → a.p.clause.left = 0 → clauseFits a.p.pc.toNat (s0.codeLimits a).2 (decode w) = true) →
          (∀ n, placeDetail a.w a.p (decode w) = some n →
            step s = .next (r.after (trap s1 Code.illegal n
              (decide (a.p.clause.left ≠ 0) && !(match decode w with | .ok (.clauseStart _) => true | _ => false))))) ∧
          (∀ i, decode w = .ok i → placeDetail a.w a.p (.ok i) = none →
            (flagsClear a.w i = true → s1.pmatHolds a.bid a.wi (a.w.namedRegs i) = false →
              step s = (s1.updWarp a.bid a.wi fun x => x.setTag (operandFields i)).perform i) ∧
            ((flagsClear a.w i = false ∨ s1.pmatHolds a.bid a.wi (a.w.namedRegs i) = true) → step s = .next (r.after (s1.stall a)))))))) ∧
  (∀ (w : Warp) (p : Path), (wordAligned p = false → ∀ d, placeDetail w p d = some 0x0B) ∧
    (wordAligned p = true → (∀ e, placeDetail w p (.error e) = some 0x01) ∧
      (∀ i, let ds := (match i with
              | .clauseStart h => headerDetails h ++ (if p.clause.left ≠ 0 then [0x0B] else [])
              | i => details i (decodeCtxOf w p) ++ (if p.clause.left = 0 then [0x0B] else []))
        (placeDetail w p (.ok i) = none ↔ ds = []) ∧ ∀ n, placeDetail w p (.ok i) = some n → n ∈ ds ∧ ∀ m ∈ ds, n ≤ m))) ∧
  (∀ (s : State) (i : Instr) (t : State), exec i s = .next t →
    s.perform i = .next (s.stepped i t).fitL2 ∧ (s.fillFault t = none → s.stepped i t = s.beside (s.issued i t)) ∧ (s.actx = none → s.issued i t = t) ∧
    (∀ a blk w, s.actx = some a → t.warp? a.bid a.wi = some (blk, w) → w.ended = false → w.trap = none → w.frame.isSome = a.w.frame.isSome →
      (w.path a.slot = some a.p → s.issued i t = t.stall a) ∧
      (a.p.wait = .ready → w.path a.slot ≠ some a.p → (∀ p id, w.path a.slot = some p → p.wait ≠ .parked id) → s.issued i t = t.noteIssue a i))) ∧
  (∀ s t : State, (s.fillFault t = none → s.after t = (s.beside t).fitL2) ∧ (s.l2.length ≤ 65536 → s.fitL2 = s) ∧
    ((∀ b ∈ t.blocks, ∀ w ∈ b.warps, w.stack.length ≤ 16) → (∀ o ∈ t.ops, o.flag = none ∨ s.op? o.id = none) → s.beside t = t)) ∧
  (∀ (s : State) (chan cx : Nat) (arith : Bool) (age : Nat) (rest : List Action) (k : BankCtx) (w : Word) (i : Instr), s.dev.powered = true →
    s.agenda = .bankIssue chan cx arith age :: rest →
    let s0 := { s with agenda := rest, actor := .bank chan cx arith, args := [age] }
    s.bankCtx? chan cx = some k → k.state = .running → k.over arith = false → k.launch.code[k.pc arith]? = some w → decodeBank w = .ok i →
    bankThread i = arith → k.cause? arith i = none → step s = s0.perform i) ∧
  (∀ (s : State) (i : Instr) (args : List Nat) (rest : List Action), s.dev.powered = true → s.agenda = .event i args :: rest → isEvent i = true →
    step s = { s with agenda := rest, actor := .device, args := args }.perform i) ∧
  (∀ (s : State) (pa : Nat) (t : State) (a : Actx), s.translate a.core a.blk.ctx a.p.pc.toNat .fetch = (.ok pa, t) →
    (∀ i, i < 8 → inWindow (pa + i) = false) → (s.fetchWord a).1 = .ok (BitVec.ofNat 64 (leNat (t.readPhys pa 8)))) ∧
  (∀ s : State, s.dev.powered = false → (∀ args rest, s.agenda ≠ .event .powerOnReset args :: rest) → s.agenda ≠ [] → step s = .fault .unpowered)

/-- The machine after bring-up. After reset the device is ready; every context is free, with the basic values of its
expert controls, of PX_QUOTA, CIRC_QUOTA and PART_WORD, and 0 in its other CSRs; no block, operation, translation,
record or stitch exists, every Circular position is free with GEN 0, every bank context is free and every home
empty; THERM.TRIP and THERM.THROTTLE, FURL_CTL and PWR_CAP have the values R379 gives; and every memory is in its
canonical form with nothing listed (that unwritten bytes read 0 is the model's choice, log entry 1). (14_proxies.md,
16_traps_and_context.md, 25_bringup_and_power.md, R222, R263, R316, R317, R374, R379) -/
def Obligations.ResetState : Prop :=
  let s := State.reset
  s.dev.ready = true ∧ s.dev.bootErr = 0#8 ∧ s.dev.powered = true ∧ s.dev.furlEn = true ∧ s.dev.furlTime = 11 ∧ s.dev.pwrCap = 2600 ∧
  s.dev.thermTrip = 110 ∧ s.dev.thermThrottle = 95 ∧
  (∀ n, n < 64 → let c := s.ctx n
    c.live = false ∧ c.stop = false ∧ c.schedExp = 0x00101400#32 ∧ c.memExp = 0x00140000#32 ∧ c.circExp = 0x40#32 ∧ c.ctxQerr = 0#32 ∧
    c.pxExp = 4096#32 ∧ c.pxQuota = 8192#32 ∧ c.circLimit = 16 ∧ c.partWord = 0x8220#32 ∧ c.trapVec = 0#64 ∧ c.trapLen = 0#32 ∧
    c.ptRoot = 0#64 ∧ c.privBase = 0#64 ∧ c.pwBase = 0#64 ∧ c.qdBase = 0#64 ∧ c.saveBase = 0#64 ∧ c.frBase = 0#64 ∧ c.frHead = 0#32 ∧
    c.frTail = 0#32 ∧ (∀ h, c.lost h = false) ∧ (∀ k, c.hasCore k = false)) ∧
  s.blocks = [] ∧ s.records = [] ∧ s.ops = [] ∧ s.xfers = [] ∧ s.tlb = [] ∧ s.pxReqs = [] ∧ s.hwslots.all (·.isNone) = true ∧
  (∀ p, (s.ring.at p).gen = 0#5 ∧ (s.ring.at p).stitch = none) ∧ (∀ c cx, s.bankCtx? c cx = none) ∧ (∀ h, (s.home h).runs = []) ∧
  s.dram = [] ∧ s.l2 = [] ∧ s.memoryWf = true

/-- Every step keeps the memories in canonical form. From any state whose memories are in canonical form (HBM and
the pooled tier list no unwritten byte and rise strictly, the L2 and the host's memory rise strictly, each block's
scratchpad and accumulator do so without zeros, and every posted write goes to a window), every next state has them
so; equal memories stay equal data. (10_memory_access.md, 11_ordering_and_atomics.md, R170, R185, R191) -/
def Obligations.StepsKeepMemoryCanonical : Prop :=
  ∀ (s t : State), s.memoryWf = true → step s = .next t → t.memoryWf = true

namespace Sys2Proof.Machine

/-- The control, integer, floating-point, move and exchange instructions of the operand layout that evaluate a guard before
they act: all but BRX, which crosses, and NOP and YIELD, which do not read it (R22). -/
def guardedInstrs (h : BitVec 3) (op : ReduxOp) (lx : LxMode) (vm : VoteMode) (fn : SfFn) (o : Opnds) : List Instr :=
  [.ret o, .exit o, .join o, .sleep o, .sleepProm o, .sleepFor o, .trap o, .bkpt o, .swpt o, .phase o, .rbacq o,
   .rbrel o, .iaddReg o, .iaddImm o, .isubReg o, .isubImm o, .imulReg o, .imulImm o, .imulhReg o, .imulhImm o, .imad o, .imadw o]
  ++ [.iminReg o, .iminImm o, .imaxReg o, .imaxImm o, .iabs o, .itestReg o, .itestImm o, .selReg o, .selImm o, .blutReg h o,
   .blutImm h o, .shlReg o, .shlImm o, .shrReg o, .shrImm o, .shf o, .popc o, .clz o, .brev o, .bfeReg o, .bfeImm o, .bfi o,
   .leaReg o, .leaImm o, .mov o, .movP2v o, .movV2p o, .movLaneReg o, .movLaneImm o, .movUnif o, .plop h o]
  ++ [.faddReg o, .faddImm o, .fmulReg o, .fmulImm o, .ffma o, .fminReg o, .fminImm o, .fmaxReg o, .fmaxImm o, .fsetpReg h o,
   .fsetpImm h o, .hadd2Reg o, .hadd2Imm o, .hmul2Reg o, .hmul2Imm o, .hfma2 o, .fdot2 o, .fclass o, .cvt o, .pack h o, .unpack h o,
   .rxcvtEnc o, .rxcvtDec o, .ballot o, .matchAny o, .matchAll o, .xpair o, .xshfl o]
  ++ [.fsfun fn o, .lxchgReg lx o, .lxchgImm lx o, .vote vm o, .redux op o]

end Sys2Proof.Machine

/-- What a guard does when no lane is active or a lane's guard is a proxy. For the control, integer, floating-point,
move and exchange instructions of the operand layout that evaluate a guard (all but BRX, NOP and YIELD), and for
CALL: when no lane's guard is a proxy predicate and no lane is active, the next state is that in which the path goes
on at the next word, and nothing else has changed. For the same instructions, when the guard predicate of some lane
of the slot's mask holds a proxy predicate, the core raises PXUSE with detail 0x02. (03_instruction_words.md, R22,
R23) -/
def Obligations.IdleAndProxyGuards : Prop :=
  ((∀ (h : BitVec 3) (op : ReduxOp) (lx : LxMode) (vm : VoteMode) (fn : SfFn) (o : Opnds), ∀ i ∈ guardedInstrs h op lx vm fn o, ∀ (s : State) (a : Actx),
    s.actx = some a → a.guardPx o.g = false → a.lanes o = 0#32 → exec i s = .next (s.retire a)) ∧
  (∀ (t : BranchOpnds) (s : State) (a : Actx), s.actx = some a → a.guardPx t.g = false → a.active t.gn t.g = 0#32 →
    exec (.call t) s = .next (s.retire a))) ∧
  ((∀ (h : BitVec 3) (op : ReduxOp) (lx : LxMode) (vm : VoteMode) (fn : SfFn) (o : Opnds), ∀ i ∈ guardedInstrs h op lx vm fn o, ∀ (s : State) (a : Actx),
    s.actx = some a → (∃ l, a.p.mask.getLsbD l = true ∧ (a.w.pred o.g.toNat l).px ≠ none) →
    exec i s = .next (s.raise a Code.pxuse 0x02)) ∧
  (∀ (t : BranchOpnds) (s : State) (a : Actx), s.actx = some a →
    (∃ l, a.p.mask.getLsbD l = true ∧ (a.w.pred t.g.toNat l).px ≠ none) → exec (.call t) s = .next (s.raise a Code.pxuse 0x02)))

namespace Sys2Proof.Machine

/-- An instruction that computes one word in each active lane: the constructor, its sources, and the result that the
rules give for the words the sources read. -/
structure Row where
  i : Instr
  xs : List Src
  f : Word → Word → Word → Word

/-- The integer instructions with their results (R118, R120, R123 to R126); an immediate is the last source. -/
def integerRows (h : BitVec 3) (o : Opnds) : List Row :=
  let lut : BitVec 8 := h ++ o.mod.extractLsb' 0 5
  let sat := o.mod.getLsbD 1
  let u := o.mod.getLsbD 0
  [⟨.iaddReg o, [o.srcA, o.srcB], fun x y _ => Ref.iadd sat u x y⟩, ⟨.iaddImm o, [o.srcA, o.immS], fun x y _ => Ref.iadd sat u x y⟩,
   ⟨.isubReg o, [o.srcA, o.srcB], fun x y _ => Ref.isub sat u x y⟩, ⟨.isubImm o, [o.srcA, o.immS], fun x y _ => Ref.isub sat u x y⟩,
   ⟨.imulReg o, [o.srcA, o.srcB], fun x y _ => x * y⟩, ⟨.imulImm o, [o.srcA, o.immS], fun x y _ => x * y⟩,
   ⟨.imulhReg o, [o.srcA, o.srcB], fun x y _ => Ref.imulh u x y⟩, ⟨.imulhImm o, [o.srcA, o.immS], fun x y _ => Ref.imulh u x y⟩,
   ⟨.imad o, [o.srcA, o.srcB, o.srcC], fun x y z => x * y + z⟩,
   ⟨.iminReg o, [o.srcA, o.srcB], fun x y _ => Ref.imin u x y⟩, ⟨.iminImm o, [o.srcA, o.immS], fun x y _ => Ref.imin u x y⟩,
   ⟨.imaxReg o, [o.srcA, o.srcB], fun x y _ => Ref.imax u x y⟩, ⟨.imaxImm o, [o.srcA, o.immS], fun x y _ => Ref.imax u x y⟩,
   ⟨.iabs o, [o.srcA], fun x _ _ => Ref.iabs sat x⟩]
  ++ [⟨.blutReg h o, [o.srcA, o.srcB, o.srcC], Ref.blut lut⟩, ⟨.blutImm h o, [o.srcA, o.immZ], fun x y _ => Ref.blut lut x y 0#32⟩,
   ⟨.shlReg o, [o.srcA, o.srcB], fun x y _ => Ref.shl x y⟩, ⟨.shlImm o, [o.srcA, o.immZ], fun x y _ => Ref.shl x y⟩,
   ⟨.shrReg o, [o.srcA, o.srcB], fun x y _ => Ref.shr u x y⟩, ⟨.shrImm o, [o.srcA, o.immZ], fun x y _ => Ref.shr u x y⟩,
   ⟨.shf o, [o.srcA, o.srcB, o.srcC], Ref.shf u⟩,
   ⟨.popc o, [o.srcA], fun x _ _ => Ref.popc x⟩, ⟨.clz o, [o.srcA], fun x _ _ => Ref.clz x⟩, ⟨.brev o, [o.srcA], fun x _ _ => Ref.brev x⟩,
   ⟨.bfeReg o, [o.srcA, o.srcB, o.srcC], fun x y z => Ref.bfe u x (y.toNat % 256) (z.toNat % 256)⟩,
   ⟨.bfeImm o, [o.srcA], fun x _ _ => Ref.bfe u x (o.imm16.toNat % 256) (o.imm16.toNat / 256)⟩,
   ⟨.bfi o, [o.srcA, o.srcB, o.srcC], Ref.bfi⟩,
   ⟨.leaReg o, [o.srcA, o.srcB], fun x y _ => Ref.lea (o.mod.toNat % 32) x y⟩,
   ⟨.leaImm o, [o.srcA, o.immS], fun x y _ => Ref.lea (o.mod.toNat % 32) x y⟩]

/-- The floating-point and conversion instructions with the values of the number formats (R134, R135, R137 to R145). -/
def floatRows (fn : SfFn) (fmt : BitVec 3) (o : Opnds) : List Row :=
  let m := o.mod
  let ftz := m.getLsbD 2
  let nan := m.getLsbD 4
  let fp (o : Opnds) : Src := .imm (o.imm16 ++ 0#16)
  let twice (o : Opnds) : Src := .imm (o.imm16 ++ o.imm16)
  let half : FloatFmt := if m.getLsbD 4 then .bf16 else .fp16
  let add (x y : Word) (_ : Word) : Word := BitVec.ofNat 32 (fAdd .fp32 m x.toNat y.toNat)
  let mul (x y : Word) (_ : Word) : Word := BitVec.ofNat 32 (fMul .fp32 m x.toNat y.toNat)
  let mm (mx : Bool) (x y : Word) (_ : Word) : Word := BitVec.ofNat 32 (fMinMax mx ftz nan x.toNat y.toNat)
  let hadd (x y : Word) (_ : Word) : Word := Ref.halfWords (fun p q => BitVec.ofNat 16 (fAdd half m p.toNat q.toNat)) x y
  let hmul (x y : Word) (_ : Word) : Word := Ref.halfWords (fun p q => BitVec.ofNat 16 (fMul half m p.toNat q.toNat)) x y
  [⟨.faddReg o, [o.srcA, o.srcB], add⟩, ⟨.faddImm o, [o.srcA, fp o], add⟩,
   ⟨.fmulReg o, [o.srcA, o.srcB], mul⟩, ⟨.fmulImm o, [o.srcA, fp o], mul⟩,
   ⟨.ffma o, [o.srcA, o.srcB, o.srcC], fun x y z => BitVec.ofNat 32 (fFma .fp32 m x.toNat y.toNat z.toNat)⟩,
   ⟨.fminReg o, [o.srcA, o.srcB], mm false⟩, ⟨.fminImm o, [o.srcA, fp o], mm false⟩,
   ⟨.fmaxReg o, [o.srcA, o.srcB], mm true⟩, ⟨.fmaxImm o, [o.srcA, fp o], mm true⟩,
   ⟨.fsfun fn o, [o.srcA], fun x _ _ => BitVec.ofNat 32 (sfun fn m x.toNat)⟩,
   ⟨.hadd2Reg o, [o.srcA, o.srcB], hadd⟩, ⟨.hadd2Imm o, [o.srcA, twice o], hadd⟩,
   ⟨.hmul2Reg o, [o.srcA, o.srcB], hmul⟩, ⟨.hmul2Imm o, [o.srcA, twice o], hmul⟩]
  ++ [⟨.hfma2 o, [o.srcA, o.srcB, o.srcC], hfma2W (m.getLsbD 4) m⟩,
   ⟨.fdot2 o, [o.srcA, o.srcB, o.srcC], fdot2W (m.getLsbD 4) m⟩,
   ⟨.fclass o, [o.srcA], fun x _ _ => BitVec.ofNat 32 (fClass x.toNat)⟩,
   ⟨.cvt o, [o.srcA], fun x _ _ => cvtWord o.imm16 m x⟩,
   ⟨.pack fmt o, [o.srcA, o.srcB] ++ packC fmt o, packWord fmt.toNat m⟩,
   ⟨.unpack fmt o, [o.srcA], fun x _ _ => unpackWord fmt.toNat (o.imm16.toNat % 8) ftz x⟩,
   ⟨.rxcvtDec o, [o.srcA], fun x _ _ => BitVec.ofInt 32 (rxdec x.toNat)⟩]

/-- An instruction of a row completes: it writes the row's result in each active lane of D and retires. -/
def Row.Completes (r : Row) (o : Opnds) : Prop :=
  ∀ (s : State) (a : Actx), s.ActsOn a o r.xs →
    exec r.i s = .next ((s.wr a o.d o.sd (a.lanes o) fun l =>
      r.f (s.operand a r.xs l 0) (s.operand a r.xs l 1) (s.operand a r.xs l 2)).retire a)

end Sys2Proof.Machine

/-- The integer instructions write the results of their rules. With plain sources and some active lane, IADD, ISUB,
IMUL, IMULH, IMAD, IMIN, IMAX, IABS, BLUT, SHL, SHR, SHF, POPC, CLZ, BREV, BFE, BFI and LEA, in register and
immediate form, answer the next state in which D holds the result of the rule in each active lane, and the path goes
on at the next word. (R118, R120, R124, R125, R126) -/
def Obligations.IntegerResults : Prop :=
  ∀ (h : BitVec 3) (o : Opnds), ∀ r ∈ integerRows h o, r.Completes o

/-- The floating-point and conversion instructions write the values of the number formats. With plain sources and
some active lane, FADD, FMUL, FFMA, FMIN, FMAX, FSFUN, HADD2, HMUL2, HFMA2, FDOT2, FCLASS, CVT, PACK, UNPACK and
RXCVT.DEC answer the next state in which D holds, in each active lane, the value that the operations over the number
formats give, a BF16 immediate widened to FP32 and a half immediate used for both elements. The model's choices in
it: log entry 76. (08_floating_point.md, 04_number_formats.md, R131, R134, R135, R139) -/
def Obligations.FloatResults : Prop :=
  ∀ (fn : SfFn) (fmt : BitVec 3) (o : Opnds), ∀ r ∈ floatRows fn fmt o, r.Completes o

namespace Sys2Proof.Machine

/-- An instruction that writes one bit in each active lane of a predicate: ITEST and FSETP over their sources, and PLOP. -/
def testRows (cmp : BitVec 3) (o : Opnds) : List Row :=
  let u := o.mod.getLsbD 0
  let c := o.mod.extractLsb' 1 3
  let ftz := o.mod.getLsbD 2
  let bit (b : Bool) : Word := if b then 1#32 else 0#32
  let fp : Src := .imm (o.imm16 ++ 0#16)
  [⟨.itestReg o, [o.srcA, o.srcB], fun x y _ => bit (Ref.itest c u x y)⟩, ⟨.itestImm o, [o.srcA, o.immS], fun x y _ => bit (Ref.itest c u x y)⟩,
   ⟨.fsetpReg cmp o, [o.srcA, o.srcB], fun x y _ => bit (fSetp cmp ftz x.toNat y.toNat)⟩,
   ⟨.fsetpImm cmp o, [o.srcA, fp], fun x y _ => bit (fSetp cmp ftz x.toNat y.toNat)⟩]

/-- The bit that a predicate source gives in a lane, with the complement that MOD.0 asks for (R151). -/
def State.voteBit (_ : State) (a : Actx) (o : Opnds) (l : Nat) : Bool := (a.w.pred o.a.toNat l).val != o.mod.getLsbD 0

end Sys2Proof.Machine

/-- ITEST, FSETP and the moves of plain values. With plain sources and some active lane, ITEST and FSETP write the
outcome of the comparison, in each active lane, to predicate Pd as a plain bit, and retire; PLOP, whose source
predicates are plain there, writes the table bit of index Pa + 2 × Pb + 4 × Pc. With plain sources and some active
lane, MOV writes A to D; SEL without SD writes B, in register and immediate form, where the predicate it names is 1
after its complement, and A elsewhere; SEL with SD writes one value, chosen by the predicate of one of the active
lanes (which lane is free: log entry 12); MOV.UNIF writes 1 or 0 by the uniform tag of A.
(07_integer_and_uniform.md, R112, R121, R122, R123, R127, R136) -/
def Obligations.PredicateResultsAndMoves : Prop :=
  ((∀ (cmp : BitVec 3) (o : Opnds), ∀ r ∈ testRows cmp o, ∀ (s : State) (a : Actx), s.ActsOn a o r.xs →
    exec r.i s = .next ((s.wrP a o.d.toNat (a.lanes o) fun l =>
      r.f (s.operand a r.xs l 0) (s.operand a r.xs l 1) 0#32 == 1#32).retire a)) ∧
  (∀ (h : BitVec 3) (o : Opnds) (s : State) (a : Actx), s.Acts a o.gn o.g →
    a.plainPreds o [o.a.toNat, o.b.toNat, o.c.toNat] →
    exec (.plop h o) s = .next ((s.wrP a o.d.toNat (a.lanes o) fun l =>
      (h ++ o.mod.extractLsb' 0 5 : BitVec 8).getLsbD
        (Ref.lutIndex (a.w.pred o.a.toNat l).val (a.w.pred o.b.toNat l).val (a.w.pred o.c.toNat l).val)).retire a))) ∧
  ((∀ (o : Opnds) (s : State) (a : Actx), s.ActsOn a o [o.srcA] →
    exec (.mov o) s = .next ((s.wr a o.d o.sd (a.lanes o) (s.val a o.srcA)).retire a)) ∧
  (∀ (o : Opnds) (s : State) (a : Actx) (i : Instr) (b : Src), (i, b) ∈ [(Instr.selReg o, o.srcB), (.selImm o, o.immS)] →
    s.ActsOn a o [o.srcA, b] → a.plainPreds o [o.mod.toNat % 8] →
    (o.sd = false → exec i s = .next ((s.wr a o.d false (a.lanes o) fun l =>
      if ((a.w.pred (o.mod.toNat % 8) l).val != o.mod.getLsbD 3) = true then s.val a b l else s.val a o.srcA l).retire a)) ∧
    (o.sd = true → ∃ k, (a.lanes o).getLsbD k = true ∧
      exec i s = .next ((({ s with drawn := s.drawn + 1 } : State).wr a o.d true (a.lanes o) fun _ =>
        if ((a.w.pred (o.mod.toNat % 8) k).val != o.mod.getLsbD 3) = true then s.val a b 0 else s.val a o.srcA 0).retire a))) ∧
  (∀ (o : Opnds) (s : State) (a : Actx), s.Acts a o.gn o.g →
    exec (.movUnif o) s = .next ((s.wr a o.d o.sd (a.lanes o) fun _ =>
      if a.w.uniformTag o.a o.sa = true then 1#32 else 0#32).retire a)))

/-- MOVI has no guard. MOVI writes its 32-bit immediate in every lane of the slot's mask, or to the scalar register
once, and retires; its word has 0x2E in bits 62 to 56 and holds D, the immediate and SD in the bits of the layout.
(R15) -/
def Obligations.MoviWritesItsImmediate : Prop :=
  ∀ (o : MoviOpnds) (s : State) (a : Actx), s.actx = some a →
    exec (.movi o) s = .next ((s.wr a o.d o.sd a.p.mask fun _ => o.imm).retire a) ∧
    decode (0#1 ++ 0x2E#7 ++ o.d ++ o.imm ++ o.rsvHi ++ BitVec.ofBool o.sd ++ o.rsvLo) = .ok (.movi o)

/-- MOV.P2V, MOV.V2P and MOV.LANE. With plain predicates in the active lanes, MOV.P2V writes P0 to P7 of each active
lane to bits 7 to 0 of D, P7 reading 1, and zero above them; MOV.V2P with a plain source writes, for each of P0 to
P6 whose mask bit is set, that bit of A as a plain predicate in each active lane, one predicate after another;
MOV.LANE writes the value of A in the lane that the low five bits of B or of the immediate name, and raises PXUSE
when that lane, or an active lane of A, holds a proxy. (R128) -/
def Obligations.PredicateMoves : Prop :=
  (∀ (o : Opnds) (s : State) (a : Actx), s.Acts a o.gn o.g → a.plainPreds o (List.range 7) →
    exec (.movP2v o) s = .next ((s.wr a o.d o.sd (a.lanes o) fun l =>
      Ref.word fun n => decide (n < 8) && (a.w.pred n l).val).retire a)) ∧
  (∀ (o : Opnds) (s : State) (a : Actx), s.ActsOn a o [o.srcA] →
    exec (.movV2p o) s = .next (((List.range 7).foldl (fun (t : State) n =>
      if o.imm16.getLsbD n = true then t.wrP a n (a.lanes o) (fun l => (s.val a o.srcA l).getLsbD n) else t) s).retire a)) ∧
  (∀ (o : Opnds) (s : State) (a : Actx) (i : Instr) (b : Src), (i, b) ∈ [(Instr.movLaneReg o, o.srcB), (.movLaneImm o, o.immZ)] →
    s.Acts a o.gn o.g →
    let k := s.src a o.srcA ((s.val a b 0).toNat % 32)
    (s.anyPx a (a.lanes o) [o.srcA] = false → k.px = false →
      exec i s = .next ((s.wr a o.d o.sd (a.lanes o) fun _ => k.val).retire a)) ∧
    ((s.anyPx a (a.lanes o) [o.srcA] = true ∨ k.px = true) → exec i s = .next (s.raise a Code.pxuse 0x01)))

/-- The instructions of two registers and the pair words. With plain sources, IMADW writes the low word of the
product plus the 64-bit pair C, or 0 when C is ZERO, to D and the high word to D + 1; RXCVT.ENC writes the encoded
elements of A to D to D + 3, or in its word form one word to D. All sources are read before any of them is written.
When no guard of a pair word is a proxy and no source of a half holds one in an active lane of that half, each half
whose guard leaves an active lane writes op(D, A), or A for MOV and MOVI8, with every source read before a
destination is written, and the path goes on at the next word. (03_instruction_words.md, R25, R26, R119, R145) -/
def Obligations.PairResults : Prop :=
  ((∀ (o : Opnds) (s : State) (a : Actx),
    let zero := o.c = 0xF3#8 ∧ o.sc = false
    let hi : Src := if o.c = 0xF3#8 then o.srcC else .reg (o.c + 1#8) o.sc
    let v (l : Nat) : DWord := Ref.imadw (o.mod.getLsbD 0) (s.val a o.srcA l) (s.val a o.srcB l)
      (if zero then 0#32 else s.val a o.srcC l) (if zero then 0#32 else s.val a hi l)
    s.ActsOn a o [o.srcA, o.srcB, o.srcC, hi] →
    exec (.imadw o) s = .next (((s.wr a o.d o.sd (a.lanes o) fun l => (v l).extractLsb' 0 32).wr a (o.d + 1#8) o.sd (a.lanes o)
      fun l => (v l).extractLsb' 32 32).retire a)) ∧
  (∀ (o : Opnds) (s : State) (a : Actx), s.ActsOn a o [o.srcA] →
    (o.mod.getLsbD 0 = true → exec (.rxcvtEnc o) s = .next ((s.wr a o.d o.sd (a.lanes o) fun l =>
      BitVec.ofNat 32 (rxenc (s.val a o.srcA l).toInt)).retire a)) ∧
    (o.mod.getLsbD 0 = false → exec (.rxcvtEnc o) s = .next (((List.range 4).foldl (fun (t : State) i =>
      t.wr a (BitVec.ofNat 8 (o.d.toNat + i)) false (a.lanes o) fun l =>
        BitVec.ofNat 32 (rxenc ((s.val a o.srcA l).extractLsb' (8 * i) 8).toInt)) s).retire a)))) ∧
  (∀ (p : PairOp) (x : HalfOpnds) (y : PairHalf) (s : State) (a : Actx), s.actx = some a →
    a.guardPx x.g = false → a.guardPx y.o.g = false →
    let src (q : PairOp) (h : HalfOpnds) : Src := if q.isImm then .imm (Ref.pairImm q h.a) else .reg h.a h.sa
    let mx := a.active x.gn x.g
    let my := a.active y.o.gn y.o.g
    let plain (q : PairOp) (h : HalfOpnds) (m : Mask) : Prop :=
      s.anyPx a m [src q h] = false ∧ (q ≠ .mov → q ≠ .movi8 → s.anyPx a m [.reg h.d false] = false)
    let v (q : PairOp) (h : HalfOpnds) (l : Nat) : Word := Ref.pair q h.mod (s.val a (.reg h.d false) l) (s.val a (src q h) l)
    plain p x mx → plain y.op y.o my →
    let s1 := if mx = 0#32 then s else s.wr a x.d false mx (v p x)
    let s2 := if my = 0#32 then s1 else s1.wr a y.o.d false my (v y.op y.o)
    exec (Ref.pairInstr p x y) s = .next (s2.retire a))

/-- The lane exchanges write what their rules give. With plain sources and some active lane, LXCHG writes in each
active lane the value of A in the lane its mode names, or in the lane itself; VOTE writes all, any or one value of
its predicate; BALLOT writes the mask of the active lanes whose predicate is 1; MATCH.ANY writes the mask of the
active lanes with the lane's value; MATCH.ALL writes the active mask and 1, or 0 and 0. (R150, R151, R152) -/
def Obligations.ExchangeResults : Prop :=
  (∀ (mode : LxMode) (o : Opnds) (s : State) (a : Actx) (i : Instr) (b : Src),
    (i, b) ∈ [(Instr.lxchgReg mode o, o.srcB), (.lxchgImm mode o, .imm (BitVec.ofNat 32 (o.imm16.toNat % 32)))] →
    s.ActsOn a o [o.srcA, b] →
    exec i s = .next ((s.wr a o.d false (a.lanes o) fun l =>
      s.val a o.srcA (Ref.lxchg mode (2 ^ (o.mod.toNat % 8)) (s.val a b l).toNat (a.lanes o) l)).retire a)) ∧
  (∀ (mode : VoteMode) (o : Opnds) (s : State) (a : Actx), s.Acts a o.gn o.g → a.plainPreds o [o.a.toNat] →
    ∃ r : Bool, exec (.vote mode o) s = .next ((s.wrP a o.d.toNat (a.lanes o) fun _ => r).retire a) ∧
      (mode = .all → (r = true ↔ ∀ l, (a.lanes o).getLsbD l = true → s.voteBit a o l = true)) ∧
      (mode = .any → (r = true ↔ ∃ l, (a.lanes o).getLsbD l = true ∧ s.voteBit a o l = true)) ∧
      (mode = .uni → (r = true ↔ ∀ l k, (a.lanes o).getLsbD l = true → (a.lanes o).getLsbD k = true →
        s.voteBit a o l = s.voteBit a o k))) ∧
  (∀ (o : Opnds) (s : State) (a : Actx), s.Acts a o.gn o.g → a.plainPreds o [o.a.toNat] →
    exec (.ballot o) s = .next ((s.wr a o.d o.sd (a.lanes o) fun _ => Ref.mask (a.lanes o) (s.voteBit a o)).retire a)) ∧
  (∀ (o : Opnds) (s : State) (a : Actx), s.ActsOn a o [o.srcA] →
    exec (.matchAny o) s = .next ((s.wr a o.d o.sd (a.lanes o) fun l =>
      Ref.mask (a.lanes o) fun k => s.val a o.srcA k == s.val a o.srcA l).retire a)) ∧
  (∀ (o : Opnds) (s : State) (a : Actx), s.ActsOn a o [o.srcA] →
    ∃ r : Bool, (r = true ↔ ∀ l k, (a.lanes o).getLsbD l = true → (a.lanes o).getLsbD k = true →
        s.val a o.srcA l = s.val a o.srcA k) ∧
      exec (.matchAll o) s = .next (((s.wr a o.d o.sd (a.lanes o) fun _ => if r then a.lanes o else 0#32).wrP a o.c.toNat
        (a.lanes o) fun _ => r).retire a))

/-- REDUX combines the active lanes. With a plain source and some active lane, REDUX writes one word r in every
active lane of D, or once to Sd, and retires: for ADD the sum of the active lanes modulo 2^32; for AND, OR and XOR
the bitwise combination of the active lanes; for MIN and MAX the least and greatest of them; and for the
floating-point operations the value of the fixed tree. (R153) -/
def Obligations.ReduxResults : Prop :=
  ∀ (op : ReduxOp) (o : Opnds) (s : State) (a : Actx), s.ActsOn a o [o.srcA] →
    let v := s.val a o.srcA
    let on (l : Nat) : Prop := (a.lanes o).getLsbD l = true
    ∃ r : Word, exec (.redux op o) s = .next ((s.wr a o.d o.sd (a.lanes o) fun _ => r).retire a) ∧
      (op = .add → r = (((List.range 32).filter fun l => (a.lanes o).getLsbD l).map v).sum) ∧
      (op = .and → ∀ i < 32, (r.getLsbD i = true ↔ ∀ l, on l → (v l).getLsbD i = true)) ∧
      (op = .or → ∀ i < 32, (r.getLsbD i = true ↔ ∃ l, on l ∧ (v l).getLsbD i = true)) ∧
      (op = .xor → r = ((List.range 32).filter fun l => (a.lanes o).getLsbD l).foldl (fun acc l => acc ^^^ v l) 0#32) ∧
      (op = .min → (∃ l, on l ∧ r = v l) ∧ ∀ l, on l → Ref.below (o.mod.getLsbD 0) (v l) r = false) ∧
      (op = .max → (∃ l, on l ∧ r = v l) ∧ ∀ l, on l → Ref.below (o.mod.getLsbD 0) r (v l) = false) ∧
      (op = .fadd ∨ op = .fmin ∨ op = .fmax → some r = (treeFold (optFold (reduxFn op o.mod)) 5
        ((List.range 32).map fun l => if (a.lanes o).getLsbD l then some (v l) else none)).join)

/-- What an instruction with a register or a predicate result leaves unchanged. Each integer and floating-point
instruction of the two tables, and MOV and MOVI, whose destination is a register of the warp or ZERO: the next state
differs from the state before only in the active lanes of D (or in the scalar register, once), which hold the
result, in the paths of the warp, and in one reference drop for each proxy handle that those lanes held before, sent
to its home unless that is lost, with the count of the run at the core; ZERO discards the result. Every other
register, predicate, flag and special register of the warp, every other warp, the scratchpad and accumulator of the
block and every byte of memory are unchanged. ITEST, FSETP and VOTE with plain sources: the next state differs only
in the active lanes of Pd, which hold plain bits, in the paths of the warp, and in one reference drop for each proxy
predicate that those lanes held before; P7 discards the result. (03_instruction_words.md, 07_integer_and_uniform.md,
R20, R21, R22, R42, R121, R151, R269) -/
def Obligations.ResultFrames : Prop :=
  ((∀ (h : BitVec 3) (fn : SfFn) (o : Opnds), ∀ r ∈ integerRows h o ++ floatRows fn h o, ∀ (s : State) (a : Actx),
    s.ActsOn a o r.xs → a.w.takes o.d o.sd →
    ∃ t, exec r.i s = .next t ∧ s.WroteD t a o.d o.sd (a.lanes o) fun l =>
      r.f (s.operand a r.xs l 0) (s.operand a r.xs l 1) (s.operand a r.xs l 2)) ∧
  (∀ (o : Opnds) (s : State) (a : Actx), s.ActsOn a o [o.srcA] → a.w.takes o.d o.sd →
    ∃ t, exec (.mov o) s = .next t ∧ s.WroteD t a o.d o.sd (a.lanes o) (s.val a o.srcA)) ∧
  (∀ (o : MoviOpnds) (s : State) (a : Actx), s.actx = some a → a.w.takes o.d o.sd →
    ∃ t, exec (.movi o) s = .next t ∧ s.WroteD t a o.d o.sd a.p.mask fun _ => o.imm)) ∧
  ((∀ (cmp : BitVec 3) (o : Opnds), ∀ r ∈ testRows cmp o, ∀ (s : State) (a : Actx), s.ActsOn a o r.xs →
    (o.d.toNat < a.w.preds.length ∨ 7 ≤ o.d.toNat) →
    ∃ t, exec r.i s = .next t ∧ s.WroteP t a o.d.toNat (a.lanes o) fun l =>
      r.f (s.operand a r.xs l 0) (s.operand a r.xs l 1) 0#32 == 1#32) ∧
  (∀ (mode : VoteMode) (o : Opnds) (s : State) (a : Actx), s.Acts a o.gn o.g → a.plainPreds o [o.a.toNat] →
    (o.d.toNat < a.w.preds.length ∨ 7 ≤ o.d.toNat) →
    ∃ t r, exec (.vote mode o) s = .next t ∧ s.WroteP t a o.d.toNat (a.lanes o) fun _ => r))

/-- A register tagged uniform holds one plain value. MOV.UNIF's value of 1 guarantees that all 32 lanes of A hold
one value with kind tags clear: if every vector register of the warp that is tagged uniform does so, then every
vector register still does after an instruction of the two tables, MOV or MOVI has written its destination.
(07_integer_and_uniform.md, R111, R112) -/
def Obligations.UniformTagIsSound : Prop :=
  let sound (w : Warp) : Prop := ∀ n, (w.vreg n).uni = true → uniformLanes ((w.vreg n).lanes) = true
  (∀ (h : BitVec 3) (fn : SfFn) (o : Opnds), ∀ r ∈ integerRows h o ++ floatRows fn h o, ∀ (s : State) (a : Actx),
    s.ActsOn a o r.xs → sound a.w →
    ∃ t blk w, exec r.i s = .next t ∧ t.warp? a.bid a.wi = some (blk, w) ∧ sound w) ∧
  (∀ (o : Opnds) (s : State) (a : Actx), s.ActsOn a o [o.srcA] → sound a.w →
    ∃ t blk w, exec (.mov o) s = .next t ∧ t.warp? a.bid a.wi = some (blk, w) ∧ sound w) ∧
  (∀ (o : MoviOpnds) (s : State) (a : Actx), s.actx = some a → sound a.w →
    ∃ t blk w, exec (.movi o) s = .next t ∧ t.warp? a.bid a.wi = some (blk, w) ∧ sound w)

namespace Sys2Proof.Machine

/-- The lanes of the slot's mask whose guard is 1 for BRA and BRX: a plain predicate's bit, or for a proxy predicate the bit
that its home has sent, XORed with GN; none while a bit is missing (R73, R74). -/
def Actx.guardLanes (a : Actx) (gn : Bool) (g : BitVec 3) : Option Mask :=
  match a.crossLanes g, a.p.wait with
  | [], _ => some (a.active gn g)
  | x :: xs, .crossing got =>
    if (x :: xs).all fun x => got.any fun y => y.1 == x.1 then
      some (Ref.mask a.p.mask fun l =>
        match got.find? fun y => y.1 == l with
        | some y => y.2 != gn
        | none => (a.w.pred g.toNat l).val != gn)
    else none
  | _ :: _, _ => none

/-- The move `f` of the warp's paths, which adds `extra` entries at most, gives `t`: the divergence stack has room, its spills
and fills translate, no CSRW of the other slot is on its way when that slot's path is pushed out, and what that path waits for
is withdrawn (R63, R67). -/
def State.MovesTo (s : State) (a : Actx) (extra : Nat) (f : Warp → Warp) (t : State) : Prop :=
  a.w.stack.length + extra ≤ s.divCapacity a.blk ∧ (2 ≤ extra → s.csrwPends a.bid a.wi (1 - a.slot) = false) ∧
  ∃ s1, s.spillFault a (f a.w) = (none, s1) ∧
    t = (if 2 ≤ extra then s1.withdraw a.bid a.wi (1 - a.slot) false else s1).updWarp a.bid a.wi f

/-- The slot of the path asks each home for the bit of each proxy predicate and waits, and `t` is so (R74). -/
def State.AsksBits (s : State) (a : Actx) (g : BitVec 3) (t : State) : Prop :=
  (∃ blk w p, t.warp? a.bid a.wi = some (blk, w) ∧ w.path a.slot = some p ∧ p = { a.p with wait := .crossing [] }) ∧
  ∃ ds, t.pxReqs = s.pxReqs ++ ds ∧ (∀ r ∈ ds, r.block = a.bid ∧ r.warp = a.wi ∧ r.pathSlot = a.slot ∧ r.served = false) ∧
    (ds.map fun r => (r.home, r.kind)) = (a.crossLanes g).map fun x => (pxHome x.2, .cross (pxSlot x.2) x.1)

end Sys2Proof.Machine

/-- BRA, CALL and BRX move and split their path. BRA whose guard register holds a proxy predicate in a lane of the
slot's mask asks each such proxy's home for its bit and waits, or raises PXLOST when a home is lost, and BRX does
the same; once every bit has come, or with plain guards, and when the divergence stack has room and its spills and
fills translate: BRA with no guard-1 lane goes to the next word and with no guard-0 lane to its target, and
otherwise splits into the fall-through group, which keeps the slot, and the taken group; CALL opens a record that
waits at the next word for all the slot's lanes, with CALL = 1, and its active lanes go to the target under that
record while the others have arrived. BRX, its guards plain or crossed, with plain indices inside table t, whose
entries agree on their rejoin offset and have a zero reserved field, sends each active lane to the target of its
entry and the other lanes to the next word: where these are one address the path moves whole to it, and otherwise it
splits into the groups of the addresses, in the order of their lowest lanes. With no active lane it goes to the next
word. An index at or beyond the length of table t raises ILLEGAL with detail 0x0E; entries that disagree, or with a
nonzero reserved field, raise ILLEGAL with detail 0x0F; a proxy index raises PXUSE. The model's choices in it: log
entry 18. (05_control_flow.md, R63, R69, R73, R74, R75, R76) -/
def Obligations.Branches : Prop :=
  ((∀ (s : State) (a : Actx) (i : Instr) (gn : Bool) (g : BitVec 3),
    ((∃ t : BranchOpnds, i = .bra t ∧ t.gn = gn ∧ t.g = g) ∨ (∃ o : Opnds, i = .brx o ∧ o.gn = gn ∧ o.g = g)) →
    s.actx = some a → a.crossLanes g ≠ [] →
    ((∀ got, a.p.wait ≠ .crossing got) → (∀ x ∈ a.crossLanes g, (s.ctx a.blk.ctx).lost (pxHome x.2) = false) →
      ∃ t, exec i s = .next t ∧ s.AsksBits a g t) ∧
    (∀ n x xs, (∀ got, a.p.wait ≠ .crossing got) → a.crossLanes g = n ++ x :: xs →
      (∀ y ∈ n, (s.ctx a.blk.ctx).lost (pxHome y.2) = false) → (s.ctx a.blk.ctx).lost (pxHome x.2) = true →
      exec i s = .next (s.raise a Code.pxlost (pxHome x.2))) ∧
    ((∃ got, a.p.wait = .crossing got) → a.guardLanes gn g = none → exec i s = .next s)) ∧
  (∀ (o : BranchOpnds) (s t : State) (a : Actx) (m : Mask), s.actx = some a → a.guardLanes o.gn o.g = some m →
    let target := a.p.pc + BitVec.ofInt 64 (8 * o.tgt.toInt)
    let next := a.p.pc + 8#64
    let whole (pc : DWord) (w : Warp) : Warp := (w.jump a.slot pc).settled
    let both (w : Warp) : Warp := (w.split a.slot [(next, a.p.mask &&& ~~~m), (target, m)]
      (next + BitVec.ofInt 64 (8 * o.rj.toInt))).settled
    (m = 0#32 → s.MovesTo a 0 (whole next) t → exec (.bra o) s = .next t) ∧
    (m ≠ 0#32 → a.p.mask &&& ~~~m = 0#32 → s.MovesTo a 0 (whole target) t → exec (.bra o) s = .next t) ∧
    (m ≠ 0#32 → a.p.mask &&& ~~~m ≠ 0#32 → s.MovesTo a (if a.w.path (1 - a.slot) = none then 1 else 2) both t →
      exec (.bra o) s = .next t)) ∧
  (∀ (o : BranchOpnds) (s t : State) (a : Actx), s.Acts a o.gn o.g →
    let m := a.active o.gn o.g
    let target := a.p.pc + BitVec.ofInt 64 (8 * o.tgt.toInt)
    let enter (w : Warp) : Warp := (({ w with
        stack := .join { id := w.nextJoin, seq := w.nextJoin, rejoin := a.p.pc + 8#64, mask := a.p.mask, arrived := a.p.mask &&& ~~~m
                         parent := a.p.join, call := true } :: w.stack
        nextJoin := w.nextJoin + 1 } : Warp).setPath a.slot (some (Path.at target m (some w.nextJoin)))).settled
    s.MovesTo a 1 enter t → exec (.call o) s = .next t)) ∧
  (∀ (o : Opnds) (s s1 s2 t : State) (a : Actx) (r : Record) (k : KObj) (dir : List Byte) (ents : List (Int × Int × Bool)) (m : Mask),
    s.actx = some a → a.guardLanes o.gn o.g = some m →
    let whole (pc : DWord) (w : Warp) : Warp := (w.jump a.slot pc).settled
    (m = 0#32 → s.MovesTo a 0 (whole (a.p.pc + 8#64)) t → exec (.brx o) s = .next t) ∧
    (m ≠ 0#32 → s.anyPx a m [o.srcA] = true → exec (.brx o) s = .next (s.raise a Code.pxuse 0x01)) ∧
    (m ≠ 0#32 → s.anyPx a m [o.srcA] = false → s.record? a.blk.record = some r → s.kobj a.blk = some k →
      (k.ntab ≤ o.imm16.toNat → exec (.brx o) s = .next (s.raise a Code.illegal 0x0E)) ∧
      (o.imm16.toNat < k.ntab → s.readConst a.core a.blk.ctx (r.kobj + k.tdir + 8 * o.imm16.toNat) 8 = (.ok dir, s1) →
        ((∃ l, m.getLsbD l = true ∧ leNat dir % 2 ^ 16 ≤ (s.val a o.srcA l).toNat) →
          exec (.brx o) s = .next (s1.raise a Code.illegal 0x0E)) ∧
        ((∀ l, m.getLsbD l = true → (s.val a o.srcA l).toNat < leNat dir % 2 ^ 16) →
          s1.readEntries a (r.kobj + leNat dir / 2 ^ 32) ((lanesOf m).map fun l => (s.val a o.srcA l).toNat) = (.ok ents, s2) →
          (((∃ e ∈ ents, e.2.2 = false) ∨ ∃ e ∈ ents, ∃ e' ∈ ents, e.1 ≠ e'.1) →
            exec (.brx o) s = .next (s2.raise a Code.illegal 0x0F)) ∧
          (∀ (rj : Int) (goal : Nat → DWord), (∀ e ∈ ents, e.1 = rj ∧ e.2.2 = true) →
            (∀ (n l : Nat) (e : Int × Int × Bool), (lanesOf m)[n]? = some l → ents[n]? = some e → goal l = a.p.pc + BitVec.ofInt 64 (8 * e.2.1)) →
            (∀ l, m.getLsbD l = false → goal l = a.p.pc + 8#64) →
            let gs := groupLanes ((lanesOf a.p.mask).map fun l => (l, goal l))
            (∀ pc, (∀ l, a.p.mask.getLsbD l = true → goal l = pc) → s2.MovesTo a 0 (whole pc) t → exec (.brx o) s = .next t) ∧
            (2 ≤ gs.length → s2.MovesTo a (1 + (if a.w.path (1 - a.slot) = none then 0 else 1) + (gs.length - 2))
                (fun w => (w.split a.slot gs (a.p.pc + 8#64 + BitVec.ofInt 64 (8 * rj))).settled) t →
              exec (.brx o) s = .next t) ∧
            (∀ g ∈ gs, g.2 ≠ 0#32 ∧ ∀ l, g.2.getLsbD l = (a.p.mask.getLsbD l && goal l == g.1)) ∧
            (∀ l, a.p.mask.getLsbD l = true → ∃ g ∈ gs, g.1 = goal l) ∧
            gs.Pairwise fun x y => x.1 ≠ y.1 ∧ ∃ l, x.2.getLsbD l = true ∧ ∀ n, n ≤ l → y.2.getLsbD n = false)))))

/-- RET, JOIN and EXIT move their lanes. RET with no CALL record raises ILLEGAL with detail 0x0F; with one, its
active lanes leave the records inside it and arrive there. JOIN with no join record only moves on; with one, its
active lanes arrive there and the others go on at the next word. EXIT takes its active lanes out of the path and the
join records, and the warp ends, with its block, once every lane has exited. The model's choices in it: log entry
11. (05_control_flow.md, R77, R78, R79) -/
def Obligations.ReturnsJoinsAndExits : Prop :=
  ∀ (o : Opnds) (s s1 t : State) (a : Actx), s.Acts a o.gn o.g →
    let m := a.lanes o
    let back (f : Nat) (w : Warp) : Warp := (w.ret a.slot m a.p.join f).settled
    let join (j : Nat) (w : Warp) : Warp := ((w.nextWord a.slot).arriveAt a.slot j m).settled
    let leave (w : Warp) : Warp := w.leaveHandler.exit a.slot m a.p.join
    (a.w.callRec a.p.join = none → exec (.ret o) s = .next (s.raise a Code.illegal 0x0F)) ∧
    (∀ f, a.w.callRec a.p.join = some f → s.MovesTo a 0 (back f) t → exec (.ret o) s = .next t) ∧
    (a.p.join = none → exec (.join o) s = .next (s.retire a)) ∧
    (∀ j, a.p.join = some j → s.MovesTo a 0 (join j) t → exec (.join o) s = .next t) ∧
    (s.spillFault a (leave a.w) = (none, s1) → ∃ t, exec (.exit o) s = .next t ∧ t = ((s1.dropHandler a).updWarp a.bid a.wi leave).endIfExited a.bid a.wi ∧
      ∀ l, l < 32 → m.getLsbD l = true → (leave a.w).exited.getLsbD l = true)

/-- Every lane stays in exactly one place when paths split and meet. If every lane of a warp is in exactly one of
the slots' paths, the suspended paths, the arrived lanes of the open join records and the exited lanes, then it
still is after a split of a slot's path into two groups that share out its lanes, after lanes of a slot's path
arrive at a join record, after a suspended path is taken up, and after lanes exit a path that has no join record.
(05_control_flow.md, R61, R63, R64, R65, R79) -/
def Obligations.LanesKeepOnePlace : Prop :=
  ∀ (w : Warp), w.lanesOk → w.joinsOk →
    (∀ (slot : Nat) (p : Path) (pc0 pc1 rejoin : DWord) (m0 m1 : Mask), slot < 2 → w.path slot = some p → m0 ||| m1 = p.mask → m0 &&& m1 = 0#32 →
      (w.split slot [(pc0, m0), (pc1, m1)] rejoin).lanesOk ∧ (w.split slot [(pc0, m0), (pc1, m1)] rejoin).joinsOk) ∧
    (∀ (slot j : Nat) (p : Path) (m : Mask), slot < 2 → w.path slot = some p → (w.joinRec? j).isSome = true → m &&& ~~~p.mask = 0#32 →
      (w.arriveAt slot j m).lanesOk ∧ (w.arriveAt slot j m).joinsOk) ∧
    w.refill.lanesOk ∧ w.refill.joinsOk ∧
    (∀ (slot : Nat) (p : Path) (m : Mask), slot < 2 → w.path slot = some p → p.join = none → m &&& ~~~p.mask = 0#32 →
      (({ w.removeLanes slot m with exited := w.exited ||| m } : Warp).leave slot m none none).lanesOk)

/-- Headers, NOP, YIELD and the SLEEP forms. CLAUSE_START moves its path to the next word with the header's
set-flags and LEN words left in the clause. NOP only moves on, and does not read its guard. YIELD puts the warp
behind every ready warp of its core, each of which becomes older than it, its latch entries expire, and it moves on.
With some active lane, SLEEP waits until the low word of the cluster's counter has reached A, and SLEEP.FOR for n
cycles, neither waiting when nothing is left; SLEEP.PROM does the same and then reads the phase of its arrival
object, at once when nothing is left. SLEEP_WAKE ends a sleep that is due; at the deadline of a promise that was
kept, the sleep ends, and one that was missed waits on, or raises MISSPROM under SCHED_EXP.PROMTRAP. The model's
choices in it: log entry 56. (03_instruction_words.md, 05_control_flow.md, R30, R31, R72, R80, R81) -/
def Obligations.ClausesAndSleeps : Prop :=
  ((∀ (h : Header) (s : State) (a : Actx), s.actx = some a →
    exec (.clauseStart h) s = .next (s.updWarp a.bid a.wi fun w => (w.setPath a.slot (some { a.p with
      pc := a.p.pc + 8#64
      clause := { s1 := if h.s1v then some h.s1.toNat else none, s2 := if h.s2v then some h.s2.toNat else none, left := h.len.toNat }
      wait := .ready })).settled)) ∧
  (∀ (o : Opnds) (s : State) (a : Actx), s.actx = some a → exec (.nop o) s = .next (s.retire a)) ∧
  (∀ (o : Opnds) (s : State) (a : Actx), s.actx = some a →
    exec (.yield o) s = .next (((s.yieldTo a).updWarp a.bid a.wi fun w =>
      { w with age := 0, latches := w.latches.map fun (l : Latch) => { l with valid := 0 } }).retire a)) ∧
  (∀ (s : State) (a : Actx) (b wi : Nat) (blk : Block) (w : Warp), (s.yieldTo a).warp? b wi = some (blk, w) →
    ∃ b0 w0, s.warp? b wi = some (b0, w0) ∧ w = { w0 with age := w.age } ∧
      w.age = (if b0.loc = .core a.core ∧ s.warpReady b wi = true ∧ ¬(b = a.bid ∧ wi = a.wi) then w0.age + 1 else w0.age))) ∧
  ((∀ (o : Opnds) (s : State) (a : Actx), s.Acts a o.gn o.g →
    let now := s.cycle (clusterOf a.core)
    let left : Int := (s.scalar a o.a o.sa - BitVec.ofNat 32 now).toInt
    let rest (n : Nat) : State := s.updWarp a.bid a.wi fun w => w.setWait a.slot (.sleep (now + n))
    (left ≤ 0 → exec (.sleep o) s = .next (s.retire a)) ∧ (0 < left → exec (.sleep o) s = .next (rest left.toNat)) ∧
    (o.imm16 = 0#16 → exec (.sleepFor o) s = .next (s.retire a)) ∧
    (o.imm16 ≠ 0#16 → exec (.sleepFor o) s = .next (rest o.imm16.toNat)) ∧
    (s.checkObj a (s.scalar a o.b o.sb).toNat = none → 0 < left → exec (.sleepProm o) s = .next (s.updWarp a.bid a.wi fun w =>
      w.setWait a.slot (.sleepProm (now + left.toNat) (s.scalar a o.b o.sb).toNat (o.mod.getLsbD 0) false))) ∧
    (s.checkObj a (s.scalar a o.b o.sb).toNat = none → left ≤ 0 →
      let obj := (s.scalar a o.b o.sb).toNat
      let s1 := s.updWarp a.bid a.wi fun w => w.setWait a.slot .ready
      ((s.arrObj a.bid obj).phase ≠ o.mod.getLsbD 0 →
        exec (.sleepProm o) s = .next ((s1.observe a.bid a.wi a.core obj).retire a)) ∧
      ((s.arrObj a.bid obj).phase = o.mod.getLsbD 0 → (s.ctx a.blk.ctx).schedExp.getLsbD 0 = true →
        exec (.sleepProm o) s = .next (s1.raise a Code.missprom 0)) ∧
      ((s.arrObj a.bid obj).phase = o.mod.getLsbD 0 → (s.ctx a.blk.ctx).schedExp.getLsbD 0 = false →
        exec (.sleepProm o) s = .next (s.updWarp a.bid a.wi fun w => w.setWait a.slot (.sleepProm now obj (o.mod.getLsbD 0) true))))) ∧
  (∀ (s : State) (a : Actx) (u : Nat), s.actxAt (s.arg 0) (s.arg 1) (s.arg 2) = some a → a.p.held = false →
    u ≤ s.cycle (clusterOf a.core) →
    (a.p.wait = .sleep u → exec .sleepWake s = .next (s.retire a)) ∧
    (∀ obj ph, a.p.wait = .sleepProm u obj ph false →
      let s1 := s.updWarp a.bid a.wi fun w => w.setWait a.slot .ready
      ((s.arrObj a.bid obj).phase ≠ ph → exec .sleepWake s = .next ((s1.observe a.bid a.wi a.core obj).retire a)) ∧
      ((s.arrObj a.bid obj).phase = ph → (s.ctx a.blk.ctx).schedExp.getLsbD 0 = true →
        exec .sleepWake s = .next (s1.raise a Code.missprom 0)) ∧
      ((s.arrObj a.bid obj).phase = ph → (s.ctx a.blk.ctx).schedExp.getLsbD 0 = false →
        exec .sleepWake s = .next (s.updWarp a.bid a.wi fun w => w.setWait a.slot (.sleepProm u obj ph true))))))

/-- TRAP and BKPT raise their codes. With some active lane, TRAP n raises code 0x10 and BKPT n raises code 0x11,
each with DETAIL n. (R82) -/
def Obligations.TrapsByDesign : Prop :=
  ∀ (o : Opnds) (s : State) (a : Actx), s.Acts a o.gn o.g →
    exec (.trap o) s = .next (s.raise a 0x10 (o.imm16.toNat % 256)) ∧ exec (.bkpt o) s = .next (s.raise a 0x11 (o.imm16.toNat % 256))

namespace Sys2Proof.Machine

/-- The address that R169 forms in a lane. -/
def State.address (s : State) (a : Actx) (o : Opnds) (imm a64 : Bool) (l : Nat) : Int :=
  (if a64 then (s.pairVal a o.a o.sa l : Int) else ((s.val a o.srcA l).toNat : Int))
    + (if imm then o.imm16.toInt else ((s.val a o.srcB l).toNat : Int))

/-- The forms of LD and of ST: the constructor, whether its offset is the immediate, and whether it is private. -/
def loadForms (o : Opnds) : List (Instr × Bool × Bool) :=
  [(.ldReg o, false, false), (.ldImm o, true, false), (.ldPrivReg o, false, true), (.ldPrivImm o, true, true)]
def storeForms (o : Opnds) : List (Instr × Bool × Bool) :=
  [(.stReg o, false, false), (.stImm o, true, false), (.stPrivReg o, false, true), (.stPrivImm o, true, true)]

/-- A flag-counted instruction issues with some active lane: no guard is a proxy and its flag has room (R22, R33). -/
def State.Counts (s : State) (a : Actx) (o : Opnds) : Prop := s.Acts a o.gn o.g ∧ a.flagFull o.fs = false

/-- The bytes a store writes for a lane: the low bytes of its data registers, lowest first (R169). -/
def State.storedBytes (s : State) (a : Actx) (o : Opnds) (l : Nat) : List Byte :=
  ((s.dataWords a o.d o.sd (szRegs (o.mod.toNat % 8)) l).flatMap fun w => leBytes 4 w.toNat).take (szBytes (o.mod.toNat % 8))

/-- A block but for the clocks that its warps' loads have returned (R208). -/
def Block.unclocked (b : Block) : Block := { b with warps := b.warps.map fun (w : Warp) => { w with retClock := [] } }

/-- The scratchpad load of a lane: the bytes it reads and the registers it writes (R169). -/
def ldsLane (o : Opnds) (x l : Nat) : LaneLoad :=
  { lane := l, bytes := (List.range (szBytes (o.mod.toNat % 8))).map (x + ·), dst := o.d.toNat, scalar := o.sd, sz := o.mod.toNat % 8 }

end Sys2Proof.Machine

/-- Loads and stores issue, or trap. LD and ST, with a flag that has room, plain sources and data (read at issue,
which is the model's choice where R35 leaves it open: log entries 15 and 16), every address aligned to the access
size and inside the space, and every page translated: the next state has the operation in flight, holding for each
lane the physical bytes it reads, or the bytes it will write there in lane order; its flag has counted up, a store
has joined its die's release epoch, and the path goes on. (Which lane a private scalar load stands for is free: log
entry 12.) For every form of LD and ST with a flag that has room: a proxy in an address source, or in the data of a
store, in an active lane raises PXUSE with detail 0x01; otherwise an address that is not a multiple of the access
size raises MISALIGN; otherwise an address outside the space raises DFAULT with detail 0x03 in the global space and
0x07 in the private one; otherwise a page that fails to translate for a reason other than 0x01 raises DFAULT with
that reason. Each is decided on the lowest lane that raises it, and its address goes to TRAP_ADDR. The model's
choices in it: log entries 15, 16, 17 and 105. (10_memory_access.md, R33, R166, R168, R169, R173, R191) -/
def Obligations.GlobalAccesses : Prop :=
  (∀ (o : Opnds) (s s1 : State) (a : Actx) (lanes : List (Nat × List Nat)) (i : Instr) (imm priv : Bool),
    let a64 : Bool := o.mod.getLsbD 3 && !priv
    let size := szBytes (o.mod.toNat % 8)
    let sp : Space := if priv then .priv else .global
    let x := s.address a o imm a64
    let fits (ls : List Nat) : Prop := ∀ l ∈ ls, x l % (size : Int) = 0 ∧ 0 ≤ x l ∧ x l + size ≤ (s.extent a sp : Int)
    s.Counts a o → s.anyPx a (a.lanes o) (addrSrcs o imm a64) = false →
    ((i, imm, priv) ∈ loadForms o → fits (s.loadLanes o priv (a.lanes o)) →
      s.translateLanes a .read ((s.loadLanes o priv (a.lanes o)).map fun l => (l, a.w.pieces sp l (x l).toNat size)) = (.ok lanes, s1) →
      exec i s = .next (((s1.useLane o priv).startOp a o (.load (lanes.flatMap (laneLoads o)))).retire a)) ∧
    ((i, imm, priv) ∈ storeForms o → (∀ l, (a.lanes o).getLsbD l = true → s.dataPx a o l = false) → fits (lanesOf (a.lanes o)) →
      s.translateLanes a .write ((lanesOf (a.lanes o)).map fun l => (l, a.w.pieces sp l (x l).toNat size)) = (.ok lanes, s1) →
      exec i s = .next ((s1.startStore a o (lanes.flatMap (s.laneStore a o))).retire a) ∧
      (o.mod.toNat % 8 ≠ 2 → ∀ y ∈ lanes, s.laneStore a o y = [(y.1, y.2.zip (s.storedBytes a o y.1))]))) ∧
  (∀ (o : Opnds) (s : State) (a : Actx) (i : Instr) (imm priv : Bool),
    let a64 : Bool := o.mod.getLsbD 3 && !priv
    let size := szBytes (o.mod.toNat % 8)
    let sp : Space := if priv then .priv else .global
    let x := s.address a o imm a64
    let off (l : Nat) : Bool := decide (x l % (size : Int) ≠ 0)
    let out (l : Nat) : Bool := decide (x l < 0) || decide ((s.extent a sp : Int) < x l + size)
    s.Counts a o →
    ((i, imm, priv) ∈ loadForms o ++ storeForms o → s.anyPx a (a.lanes o) (addrSrcs o imm a64) = true →
      exec i s = .next (s.raise a Code.pxuse 0x01)) ∧
    ((i, imm, priv) ∈ storeForms o → (∃ l, (a.lanes o).getLsbD l = true ∧ s.dataPx a o l = true) →
      exec i s = .next (s.raise a Code.pxuse 0x01)) ∧
    (∀ (ls : List Nat), ((i, imm, priv) ∈ loadForms o ∧ ls = s.loadLanes o priv (a.lanes o) ∨
        (i, imm, priv) ∈ storeForms o ∧ ls = lanesOf (a.lanes o) ∧ ∀ l ∈ ls, s.dataPx a o l = false) →
      s.anyPx a (a.lanes o) (addrSrcs o imm a64) = false →
      (∀ l, ls.find? off = some l → exec i s = .next (s.raiseAt a Code.misalign 0 (BitVec.ofInt 64 (x l)))) ∧
      (∀ l, ls.find? off = none → ls.find? out = some l →
        exec i s = .next (s.raiseAt a Code.dfault (if priv then 0x07 else 0x03) (BitVec.ofInt 64 (x l)))) ∧
      (∀ (va d : Nat) (s1 : State) (acc : Access), ls.find? off = none → ls.find? out = none →
        acc = (if (i, imm, priv) ∈ storeForms o then Access.write else Access.read) →
        s.translateLanes a acc (ls.map fun l => (l, a.w.pieces sp l (x l).toNat size)) = (.error (va, d), s1) → d ≠ 0x01 →
        exec i s = .next (s1.raiseAt a Code.dfault d (BitVec.ofNat 64 va)))))

/-- LDS, STS, LDC and PREF, and what STS leaves unchanged. With a flag that has room, plain sources and every
address aligned and inside the space: LDS is in flight with each lane's bytes, and STS with the low bytes of each
active lane's data and their address, in lane order; LDC reads its bytes through the constant cache. When it is the
oldest access of its warp to scratchpad, LOAD_COMPLETE gives the registers of an LDS the bytes that scratchpad then
holds, and OPERATION_COMPLETE makes the writes of an STS, and each completes its operation. PREF with plain sources
has no effect beyond the translations it caches, with the count of R187 and the model's own counter of free values
that a look-up moves on, and retires. An STS that issues changes no byte of scratchpad, accumulator or memory and no
register. When its writes are made, a byte of the block's scratchpad outside every part's bytes reads as before, and
a byte of some part holds that of the last part that covers it, which for two lanes is the higher-numbered one;
every other block, every register and every byte of global memory stand as before. The model's choices in it: log
entries 15, 82 and 92. (10_memory_access.md, 11_ordering_and_atomics.md, R164, R166, R169, R170, R172, R187, R199) -/
def Obligations.Scratchpad : Prop :=
  ((∀ (o : Opnds) (s : State) (a : Actx) (i : Instr) (imm : Bool),
    let sz := o.mod.toNat % 8
    let size := szBytes sz
    let x := s.address a o imm false
    let fits (sp : Space) : Prop := ∀ l, (a.lanes o).getLsbD l = true → x l % (size : Int) = 0 ∧ 0 ≤ x l ∧ x l + size ≤ (s.extent a sp : Int)
    (s.Counts a o → s.anyPx a (a.lanes o) (addrSrcs o imm false) = false →
      ((i, imm) ∈ [(Instr.ldsReg o, false), (.ldsImm o, true)] → fits .spad →
        exec i s = .next ((s.startOp a o (.lds ((s.loadLanes o false (a.lanes o)).map fun l => ldsLane o (x l).toNat l))).retire a)) ∧
      ((i, imm) ∈ [(Instr.stsReg o, false), (.stsImm o, true)] → fits .spad → (∀ l, (a.lanes o).getLsbD l = true → s.dataPx a o l = false) →
        exec i s = .next ((s.startOp a o (.sts ((lanesOf (a.lanes o)).map fun l => ((x l).toNat, s.storedBytes a o l)))).retire a)) ∧
      (∀ (s1 : State) (lanes : List (Nat × List Byte)), (i, imm) ∈ [(Instr.ldcReg o, false), (.ldcImm o, true)] → fits .const →
        s.constLanes a (((s.record? a.blk.record).map (·.kobj)).getD 0 + ((s.kobj a.blk).map (·.constoff)).getD 0) x size
          (s.loadLanes o false (a.lanes o)) = (.ok lanes, s1) →
        exec i s = .next ((s1.startOp a o (.fill (lanes.flatMap fun y => regWrites o.d.toNat o.sd y.1 (loadWords sz y.2)))).retire a))) ∧
    ((i, imm) ∈ [(Instr.prefReg o, false), (.prefImm o, true)] → s.Acts a o.gn o.g →
      s.anyPx a (a.lanes o) (addrSrcs o imm (o.mod.getLsbD 3)) = false →
      ∃ s1 : State, exec i s = .next (s1.retire a) ∧
        { s1 with tlb := s.tlb, pageHits := s.pageHits, drawn := s.drawn } = s)) ∧
  (∀ (s : State) (op : Op), s.op? (s.arg 0) = some op → s.oldestSpad op.block op.warp = some op →
    let s1 := (s.performSpad op).drainSpad op.block op.warp op.id (s.ops.length - 1)
    (∀ lanes, op.kind = .lds lanes → (s.performSpad op).blocks = s.blocks ∧
      exec .loadComplete s = .next ((s1.applyWrites op.core op.block op.warp
        (lanes.flatMap fun x => regWrites x.dst x.scalar (x.lane % 32) (loadWords x.sz (s.spadLane op.block x)))).finishOp op)) ∧
    (∀ parts, op.kind = .sts parts →
      exec .operationComplete s = .next ((s1.applyWrites op.core op.block op.warp []).finishOp op)))) ∧
  ((∀ (o : Opnds) (s : State) (a : Actx) (i : Instr) (imm : Bool), (i, imm) ∈ [(Instr.stsReg o, false), (.stsImm o, true)] →
    let size := szBytes (o.mod.toNat % 8)
    let x := s.address a o imm false
    s.Counts a o → s.anyPx a (a.lanes o) (addrSrcs o imm false) = false →
    (∀ l, (a.lanes o).getLsbD l = true → s.dataPx a o l = false ∧ x l % (size : Int) = 0 ∧ 0 ≤ x l ∧ x l + size ≤ (s.extent a .spad : Int)) →
    ∃ t blk w, exec i s = .next t ∧ t.warp? a.bid a.wi = some (blk, w) ∧ t.dram = s.dram ∧ t.l2 = s.l2 ∧ blk.acc = a.blk.acc ∧
      blk.spad = a.blk.spad ∧ w.vregs = a.w.vregs ∧ w.sregs = a.w.sregs ∧ w.preds = a.w.preds) ∧
  (∀ (s : State) (op : Op) (b : Block) (parts : List (Nat × List Byte)), op.kind = .sts parts → s.block? op.block = some b →
    cellWf 0#8 b.spad = true →
    ∃ c, (s.performSpad op).block? op.block = some c ∧ c.acc = b.acc ∧ c.warps = b.warps ∧ (s.performSpad op).dram = s.dram ∧
      (s.performSpad op).l2 = s.l2 ∧ (∀ n, n ≠ op.block → (s.performSpad op).block? n = s.block? n) ∧
      ∀ p : Nat,
        ((∀ q ∈ parts, p < q.1 ∨ q.1 + q.2.length ≤ p) → c.spadByte p = b.spadByte p) ∧
        (∀ n q m, parts = n ++ q :: m → q.1 ≤ p → p < q.1 + q.2.length → (∀ r ∈ m, p < r.1 ∨ r.1 + r.2.length ≤ p) →
          c.spadByte p = nth 0#8 q.2 (p - q.1))))

/-- A byte written at its home slice is the byte read there. A write of a byte of HBM or of the pooled tier is what
a read of that address gives next, and leaves every other address alone; a byte of a region that a running bank
context holds is written at its channel. A write to a host or peer window joins the writes posted there, with the
route that stands, or, for an operation in flight, with the route of its peer when it issued, and leaves every byte
of HBM and of the pooled tier alone. A load that reads the newest point of its bytes' coherence orders returns the
bytes as they stand at their homes; a later write does not change what an earlier point gives; and the point a load
takes is the newest or one that R192 and R198 let it return, and no later than the one asked for unless they let it
return none so old (the record of accesses from which they are decided is the model's). The model's choices in it:
log entries 1 and 14. (10_memory_access.md, 11_ordering_and_atomics.md, R170, R191, R192, R198, R359, R361) -/
def Obligations.MemoryReadsWhatWasWritten : Prop :=
  (∀ (s : State) (pa : Nat) (b : Byte) (g : Agent), Memory.wf s.dram = true → overWf s.l2 = true →
    (inWindow pa = false → s.uncached pa = false → (s.writeByte pa b g).readByte pa = b) ∧
    (inWindow pa = false → s.uncached pa = true → Memory.read (s.writeByte pa b g).dram pa = b) ∧
    (∀ q, q ≠ pa → (s.writeByte pa b g).readByte q = s.readByte q) ∧
    (inWindow pa = true → (s.writeByte pa b g).posted = s.posted ++ [{ pa := pa, val := b, agent := g, route := s.routeOf pa }] ∧
      ∀ q, (s.writeByte pa b g).readByte q = s.readByte q) ∧
    (∀ (n : Nat) (r : Word), inWindow pa = true → 2 ^ 51 + 2 ^ 50 + 2 ^ 44 * n ≤ pa → pa < 2 ^ 51 + 2 ^ 50 + 2 ^ 44 * (n + 1) →
      (s.writeByte pa b g [(n, r)]).posted = s.posted ++ [{ pa := pa, val := b, agent := g, route := r }])) ∧
  (∀ (s : State) (q : MemTag) (pas : List Nat), (∀ x ∈ pas, inWindow x = false) →
    (s.readAt q pas s.memTime).1 = pas.map s.readByte) ∧
  (∀ (s : State) (w : MemTag) (l : List (Nat × Byte)) (t x : Nat), t ≤ s.memTime → (s.storeBytes l w).byteAt t x = s.byteAt t x) ∧
  (∀ (s : State) (q : MemTag) (start : Option Nat) (pas : List Nat) (t u : Nat), s.readTime q start pas t = some u →
    u ≤ s.memTime ∧ (u ≤ t ∨ u = s.memTime ∨ ∀ v, v ≤ t →
        mayReturn s.log { MemEvent.of q with time := s.memTime + 1, reads := pas.map fun x => (x, 0) } pas v = false) ∧
      (u = s.memTime ∨ mayReturn s.log { MemEvent.of q with time := s.memTime + 1, reads := pas.map fun x => (x, 0) } pas u = true))

/-- Loads return what memory holds, and stores reach it. When every remaining lane of a load is chosen and none is
held back by an earlier access of its warp to the same bytes, LOAD_COMPLETE performs them all at the newest point of
their bytes' coherence orders and completes the load: each lane's registers receive the little-endian words of the
bytes as they stand at their home slices, extended as SZ gives, and the load's flag counts down; nothing else of the
state changes but the record of accesses and the clocks that the warp's loads have returned. An older point is taken
only for lanes that may return it. A load read at issue (LDC) only writes its registers and completes. Bytes of a
host or peer window are free values and are left out here. When a store is the oldest of its warp and no earlier
access of the warp to its bytes is left, and its block lives on, STORE_ACCEPT completes it: every byte outside the
store's bytes reads as before; a byte of HBM or the pool that the store names, which no running bank context keeps
out of the L2, holds the last value that the store's parts name for it, which for two lanes is that of the
higher-numbered one; the operation has left those in flight. The model's choices in it: log entries 14, 16 and 88.
(10_memory_access.md, 11_ordering_and_atomics.md, R33, R164, R166, R169, R170, R191, R192, R198) -/
def Obligations.GlobalMemory : Prop :=
  ((∀ (s : State) (op : Op), s.op? (s.arg 0) = some op →
    (∀ (lanes : List LaneLoad), op.kind = .load lanes → s.arg 2 = 0 →
      (∀ x ∈ lanes, (s.arg 1).testBit x.lane = true ∧ s.earlierTouch op.id op.block op.warp x.bytes true = false ∧
        ∀ pa ∈ x.bytes, inWindow pa = false) →
      ∃ s0 : State, exec .loadComplete s = .next (((s0.applyWrites op.core op.block op.warp
          (lanes.flatMap fun x => regWrites x.dst x.scalar (x.lane % 32) (loadWords x.sz (x.bytes.map s.readByte)))).setOp op.id (.load [])).finishOp op) ∧
        { s0 with blocks := s.blocks, log := s.log } = s ∧
        ∀ b, (s0.block? b).map Block.unclocked = (s.block? b).map Block.unclocked) ∧
    (∀ ws, op.kind = .fill ws → exec .loadComplete s = .next ((s.applyWrites op.core op.block op.warp ws).finishOp op))) ∧
  (∀ (s : State) (op : Op) (t m : Nat) (lanes : List LaneLoad), ∀ x ∈ s.readyLanes op t m lanes, x ∈ lanes ∧ m.testBit x.lane = true ∧
    s.earlierTouch op.id op.block op.warp x.bytes true = false ∧ s.readTime op.tag none x.bytes t = some (min t s.memTime))) ∧
  (∀ (s : State) (op : Op) (blk : Block) (parts : List (Nat × List (Nat × Byte))), s.op? (s.arg 0) = some op →
    op.kind = .store parts → s.storeDue op op.kind.bytes = true → s.block? op.block = some blk → blk.ending = none →
    blk.warps.any (fun w => !w.ended) = true → Memory.wf s.dram = true → overWf s.l2 = true →
    ∃ t, exec .storeAccept s = .next t ∧ (∀ o ∈ t.ops, o.id ≠ op.id) ∧
      (∀ pa, (∀ x ∈ parts.flatMap (·.2), x.1 ≠ pa) → t.readByte pa = s.readByte pa) ∧
      (∀ pa b before after, parts.flatMap (·.2) = before ++ (pa, b) :: after → (∀ x ∈ after, x.1 ≠ pa) → inWindow pa = false →
        s.uncached pa = false → t.readByte pa = b))

/-- Arrival objects are set up, advanced, awaited and tested. With the warp's earlier scratchpad accesses applied
and none left to make, and an 8-byte aligned object inside the scratchpad: ARRINIT makes an object to which nothing
has yet to arrive expect n with nothing arrived, phase 0 and no error, and one to which something has yet to arrive
holds free bytes; ARRIVE adds n, and when the count reaches what is expected the phase flips and the count starts
again; ARRWAIT goes on once the phase differs from ph, raises DFAULT with detail 0x05 when the object holds an
error, and waits at the instruction while the phase equals ph; each but a waiting ARRWAIT joins the record of
accesses to scratchpad; ARRWAIT.TEST writes whether the phase differs from ph. What ARRWAIT or a successful test
observes comes before the warp's later accesses. A misaligned object raises MISALIGN. The model's choices in it: log
entries 15, 56 and 104. (10_memory_access.md, R174, R175, R176) -/
def Obligations.ArrivalObjects : Prop :=
  (∀ (o : Opnds) (s s0 : State) (a : Actx), s0 = s.spadReady → s0.spadHeld = false → s0.Acts a o.gn o.g →
    let obj := (s0.scalar a o.a o.sa).toNat
    let x := s0.arrObj a.bid obj
    (obj % 8 = 0 → obj + 8 ≤ s0.spadSize a.blk →
      (s0.arrivalDue a.bid obj = false → ∃ s1 : State, exec (.arrinit o) s = .next (s1.retire a) ∧ (cellWf 0#8 a.blk.spad = true →
        s1.arrObj a.bid obj = { phase := false, err := false, expected := o.imm16.toNat, arrived := 0 })) ∧
      (s0.arrivalDue a.bid obj = true →
        exec (.arrinit o) s = .next ((((s0.freeBytes 8).2.noteObj a obj false true).spadWrite a.bid obj (s0.freeBytes 8).1).retire a)) ∧
      (∃ s1 : State, exec (.arrive o) s = .next (s1.retire a) ∧ (cellWf 0#8 a.blk.spad = true →
        s1.arrObj a.bid obj = x.arrive o.imm16.toNat false))) ∧
    (obj % 8 ≠ 0 → ∀ i ∈ [Instr.arrinit o, .arrive o],
      exec i s = .next (s0.raiseAt a Code.misalign 0 (BitVec.ofNat 64 obj)))) ∧
  (∀ (o : Opnds) (s0 s : State) (a : Actx), s = s0.spadReady → s.spadHeld = false → s.Acts a o.gn o.g →
    let obj := (s.scalar a o.a o.sa).toNat
    let x := s.arrObj a.bid obj
    let ph := o.imm16.getLsbD 0
    let seen := s.observe a.bid a.wi a.core obj
    (obj % 8 = 0 → obj + 8 ≤ s.spadSize a.blk →
      (x.phase = ph → exec (.arrwait o) s0 = .next s) ∧
      (x.phase ≠ ph → x.err = true → exec (.arrwait o) s0 = .next (seen.raise a Code.dfault 0x05)) ∧
      (x.phase ≠ ph → x.err = false → exec (.arrwait o) s0 = .next (seen.retire a)) ∧
      (x.phase = ph → exec (.arrwaitTest o) s0 = .next (((s.noteObj a obj true false).wrP a o.d.toNat (a.lanes o) fun _ => false).retire a)) ∧
      (x.phase ≠ ph → exec (.arrwaitTest o) s0 = .next ((seen.wrP a o.d.toNat (a.lanes o) fun _ => true).retire a))) ∧
    (obj % 8 ≠ 0 → ∀ i ∈ [Instr.arrwait o, .arrwaitTest o],
      exec i s0 = .next (s.raiseAt a Code.misalign 0 (BitVec.ofNat 64 obj)))) ∧
  (∀ (x : ArrObj) (n : Nat) (err : Bool),
    (x.arrived + n < x.expected → x.arrive n err = { x with err := x.err || err, arrived := x.arrived + n }) ∧
    (x.expected ≤ x.arrived + n → x.arrive n err = { phase := !x.phase, err := x.err || err, expected := x.expected, arrived := 0 }))

/-- LDA, GATH and COPY start transfers, and transfers arrive. LDA with plain sources, addresses that are multiples
of the access size, and offsets and object inside the scratchpad, starts a transfer with one unit for each active
lane, from its global address to its scratchpad offset. GATH, with the warp's earlier scratchpad accesses applied,
none left to make, and a well-formed descriptor whose table, rows and object lie inside the scratchpad, and room in
the core's engine, starts a transfer of COUNT rows, row i to DST + i × ROWP; with COUNT 0 it arrives at its object
at once. COPY, likewise, with room in the cluster's engine, an aligned object, and places that fit, writes its
promise to Sd and starts a transfer of 64-byte granules of the destination; with no bytes it arrives at once; a
COPY.GG whose ranges overlap is marked so, and moves free bytes. Each retires. ENGINE_ARRIVAL of a transfer moves
the units that are left; when none is left and no page holds the transfer, the transfer has ended and has arrived
once at its object, with an error if a byte failed. A unit whose pages translate and which no earlier access of its
warp or earlier unit holds back, of a transfer whose places no software has touched, is moved, and each byte of its
destination, in scratchpad or in memory, then holds the byte that it had read at its source: that of scratchpad, or
what the read of memory as a load of the issuing warp returned. The model's choices in it: log entries 15, 17, 82,
87 and 104. (10_memory_access.md, R174, R177, R178, R179, R180, R181, R200) -/
def Obligations.Transfers : Prop :=
  ((∀ (o : Opnds) (s : State) (a : Actx), s.Acts a o.gn o.g →
    (let size := szBytes (o.mod.toNat % 8)
     let off (l : Nat) : Nat := (s.val a o.srcA l).toNat
     let src (l : Nat) : Nat := if o.mod.getLsbD 3 then s.pairVal a o.b o.sb l else (s.val a o.srcB l).toNat
     let obj := (s.scalar a o.c o.sc).toNat
     s.anyPx a (a.lanes o) (o.srcA :: if o.mod.getLsbD 3 then pairSrcs o.b o.sb else [o.srcB]) = false →
     (∀ l, (a.lanes o).getLsbD l = true → off l % size = 0 ∧ src l % size = 0 ∧ off l + size ≤ s.spadSize a.blk) →
     obj % 8 = 0 → obj + 8 ≤ s.spadSize a.blk →
     exec (.lda o) s = .next ((s.startXfer a .lda none 0 0 0 ((lanesOf (a.lanes o)).map fun l =>
       { srcSpad := false, src := src l, idx := none, dstSpad := true, dst := off l, len := size }) obj).retire a))) ∧
  (∀ (o : Opnds) (s0 s : State) (a : Actx), s = s0.spadReady → s.spadHeld = false → s.Acts a o.gn o.g →
    (let sa := (s.scalar a o.a o.sa).toNat
     let d := gathDesc (leNat (s.spadRead a.bid sa 32))
     let size := s.spadSize a.blk
     (s.xfers.filter fun x => x.engine == .gath && x.core == a.core).length < 8 → sa % 32 = 0 → sa + 32 ≤ size →
     d.base % 4 = 0 ∧ d.stride % 4 = 0 ∧ d.idx % 4 = 0 ∧ d.dst % 4 = 0 ∧ d.arr % 8 = 0 ∧ d.rsv = false ∧ 4 ≤ d.row ∧ d.row ≤ 512 ∧
       d.row % 4 = 0 ∧ d.rowp % 4 = 0 ∧ d.row ≤ d.rowp →
     d.idx + 4 * d.count ≤ size → (d.count = 0 ∨ d.dst + (d.count - 1) * d.rowp + d.row ≤ size) → d.dst ≤ size → d.arr + 8 ≤ size →
     (d.count = 0 → exec (.gath o) s0 = .next ((s.arriveEmpty a .gather d.arr).retire a)) ∧
     (0 < d.count → exec (.gath o) s0 = .next ((s.startXfer a .gath none d.base d.stride d.idx ((List.range d.count).map fun i =>
       { srcSpad := false, src := 0, idx := some i, dstSpad := true, dst := d.dst + i * d.rowp, len := d.row }) d.arr).retire a))) ∧
    (let dir := o.mod.toNat % 4
     let cl := clusterOf a.core
     let n := (s.scalar a o.c o.sc).toNat
     let obj := (s.scalar a (o.c + 1#8) o.sc).toNat
     let d := if dir = 1 then s.pairVal a o.a o.sa 0 % 2 ^ 32 else s.pairVal a o.a o.sa 0
     let f := if dir = 2 then s.pairVal a o.b o.sb 0 % 2 ^ 32 else s.pairVal a o.b o.sb 0
     let win := if dir = 1 then none else (s.ctx a.blk.ctx).windowOf d n
     let promise := max (s.cycle cl) (nth 0 s.copyEnd cl) + 300 + (n + 511) / 512
     let s1 := (if dir = 1 then s else s.loseIdemp a).wrSc a o.d.toNat (BitVec.ofNat 32 promise)
     (s.xfers.filter fun x => x.engine == .copy && clusterOf x.core == cl).length < 32 → obj % 8 = 0 → obj + 8 ≤ s.spadSize a.blk →
     (dir = 1 → d + n ≤ s.spadSize a.blk) → (dir = 2 → f + n ≤ s.spadSize a.blk) → (dir ≠ 1 → n ≠ 0 → win.isSome = true) →
     (n = 0 → exec (.copy o) s0 = .next ((s1.arriveEmpty a .copy obj).retire a)) ∧
     (n ≠ 0 → exec (.copy o) s0 = .next ((({ s1 with copyEnd := setNth s1.copyEnd cl promise } : State).startXfer a .copy win 0 0 0
       (granules d f n (dir = 2) (dir = 1)) obj (dir == 0 && decide (d < f + n) && decide (f < d + n))).retire a))))) ∧
  ((∀ (s s1 : State) (x y : Xfer), s.xfer? (s.arg 0) = some x → s1 = s.moveUnits x.id x.units.length → s1.xfer? x.id = some y →
    (y.units = [] → y.held = none → exec .engineArrival s =
      .next ((({ s1 with xfers := s1.xfers.filter fun z => z.id != y.id }.noteArrival y.writeTag y.block y.arr).arriveObj y.block
        y.arr 1 y.err).reap y.block)) ∧
    ((y.units ≠ [] ∨ y.held ≠ none) → exec .engineArrival s = .next s1)) ∧
  (∀ (s s1 s2 : State) (x : Xfer) (u : XUnit) (i age : Nat) (ras was : List Nat) (blk : Block),
    s.xfer? x.id = some x → x.units[i]? = some u → x.held = none → x.behind i u = false → x.clash = false → x.touched = [] →
    s.block? x.block = some blk → cellWf 0#8 blk.spad = true → s.memoryWf = true →
    let src := s.unitSrc x u
    let vas (at_ : Nat) : List Nat := (List.range u.len).map (at_ + ·)
    (if u.srcSpad then ras = [] ∧ s1 = s else ras.length = u.len ∧ s.engineAddrs x .read false (vas src) = (.ok (ras.map some), s1)) →
    (if u.dstSpad then was = [] ∧ s2 = s1 else was.length = u.len ∧ s1.engineAddrs x .write true (vas u.dst) = (.ok (was.map some), s2)) →
    (∀ pa ∈ ras ++ was, inWindow pa = false) → (∀ pa ∈ was, s.uncached pa = false) → was.Nodup → s2.earlierTouch x.id x.block x.warp (ras ++ was) = false →
    s2.earlierTouch x.id x.block x.warp ras true = false →
    let t := s.moveUnit x.id i age
    let read : List Byte := if u.srcSpad then s.spadRead x.block src u.len
      else (s2.engineRead x (s2.memTime - age) (ras.map some)).1
    ((t.xfer? x.id).map (·.units) = some (x.units.eraseIdx i)) ∧
    ∀ k, k < u.len →
      (u.dstSpad = true → t.spadRead x.block (u.dst + k) 1 = [nth 0#8 read k]) ∧
      (u.dstSpad = false → t.readByte (nth 0 was k) = nth 0#8 read k)) ∧
  (∀ (s : State) (x : Xfer) (ras : List Nat), (∀ pa ∈ ras, inWindow pa = false) →
    s.readTime x.readTag (some x.start) ras s.memTime = some s.memTime → ras.length ≤ 8 → ras ≠ [] →
    (s.engineRead x s.memTime (ras.map some)).1 = ras.map (s.byteAt s.memTime)))

/-- PUBLISH, CCTL and TLBH, and what they do when they complete. With some active lane and a flag that has room:
PUBLISH of a loaded window, CCTL.WB and CCTL.WBINV of a range below 2^57, CCTL.CONST, TLBH.HARV and TLBH.INV start
an operation that holds the window, the physical ranges of the lines, or the page; each retires. PUBLISH of a window
that is not loaded raises QFAULT, and a range that reaches past 2^57 raises DFAULT with detail 0x03. CCTL.WB writes
the dirty bytes of its ranges, those the device filled with a layout of its own too, to their memory and CCTL.WBINV
drops them from the L2 as well, and neither changes what a byte of memory reads; CCTL.CONST empties the core's
constant cache; TLBH.INV leaves no cached translation of the page in its context; PUBLISH, once no copy into the
window is left and what the warp did before is performed as a release at system scope asks, flips the window's
visible side, which the accesses of the context that are still in flight then reach (log entry 83). Each operation
then leaves those in flight. TLB_HARVEST_PERIODIC harvests the translations of a compute die that are under
MEM_EXP.HARVEST = 1 once a period of 2^20 cycles of the die's cluster 0 has passed since its last. The model's
choices in it: log entries 61, 83, 91, 99 and 104. (10_memory_access.md, R163, R183, R184, R185, R186) -/
def Obligations.CachesAndTables : Prop :=
  (∀ (o : Opnds) (s s1 : State) (a : Actx) (rs : List (Nat × Nat)), s.Counts a o →
    let w := (s.scalar a o.a o.sa).toNat
    let loaded : Bool := match (s.ctx a.blk.ctx).windows[w]? with | some x => x.v | none => false
    let x := s.pairVal a o.a o.sa 0
    let n := (s.scalar a o.b o.sb).toNat
    (w < 256 → loaded = true → exec (.publish o) s = .next (((s.loseIdemp a).startOp a o (.publish w)).retire a)) ∧
    ((256 ≤ w ∨ loaded = false) → exec (.publish o) s = .next (s.raise a Code.qfault 0)) ∧
    (∀ i inv, (i, inv) ∈ [(Instr.cctlWb o, false), (.cctlWbinv o, true)] →
      (2 ^ 57 < x + n ∨ 2 ^ 57 ≤ x → exec i s = .next (s.raiseAt a Code.dfault 0x03 (BitVec.ofNat 64 x))) ∧
      (x + n ≤ 2 ^ 57 → x < 2 ^ 57 → n = 0 → exec i s = .next ((s.startOp a o (.cctl inv [])).retire a)) ∧
      (x + n ≤ 2 ^ 57 → x < 2 ^ 57 → n ≠ 0 → s.lineRanges a.core a.blk.ctx x (x + n) (n / 65536 + 2) = (rs, s1) →
        exec i s = .next ((s1.startOp a o (.cctl inv rs)).retire a))) ∧
    exec (.cctlConst o) s = .next ((s.startOp a o .cctlConst).retire a) ∧
    exec (.tlbhHarv o) s = .next ((s.startOp a o (.tlbh none)).retire a) ∧
    exec (.tlbhInv o) s = .next ((s.startOp a o (.tlbh (some (s.pairVal a o.a o.sa 0)))).retire a)) ∧
  ((∀ (s : State) (op : Op) (blk : Block), s.op? (s.arg 0) = some op → s.block? op.block = some blk → blk.ending = none →
    blk.warps.any (fun w => !w.ended) = true → Memory.wf s.dram = true → overWf s.l2 = true →
    (∀ inv rs, op.kind = .cctl inv rs → ∃ t, exec .operationComplete s = .next t ∧ (∀ q ∈ t.ops, q.id ≠ op.id) ∧
      (∀ pa, t.readByte pa = s.readByte pa) ∧
      (∀ r ∈ rs, ∀ pa, r.1 ≤ pa → pa < r.2 → Memory.read t.dram pa = s.readByte pa ∧ (inv = true → overGet t.l2 pa = none))) ∧
    (op.kind = .cctlConst → op.core < s.cores.length → ∃ t, exec .operationComplete s = .next t ∧ (∀ q ∈ t.ops, q.id ≠ op.id) ∧
      (t.core op.core).consts = []) ∧
    (∀ va, op.kind = .tlbh (some va) → ∃ t, exec .operationComplete s = .next t ∧ (∀ q ∈ t.ops, q.id ≠ op.id) ∧
      ∀ e ∈ t.tlb, e.ctx = op.ctx → ¬ (e.base ≤ va ∧ va < e.base + e.size)) ∧
    (op.kind = .tlbh none → exec .operationComplete s = .next ((s.harvest (fun e => e.ctx == op.ctx) false).finishOp op)) ∧
    (∀ w, op.kind = .publish w → (∀ x ∈ s.xfers, x.ctx = op.ctx → x.window ≠ some w) →
      s.publishMet op = true → op.ctx < s.ctxs.length →
      ∃ t, exec .operationComplete s = .next t ∧ (∀ q ∈ t.ops, q.id ≠ op.id) ∧ ∀ x, (s.ctx op.ctx).windows[w]? = some x →
        (t.ctx op.ctx).windows[w]? = some { x with cur := !x.cur } ∧
        t.ops = (s.moveSides op.ctx x.visible { x with cur := !x.cur }.visible).ops.filter fun q => q.id != op.id)) ∧
  (∀ s : State, let d := s.arg 0
    let now := s.cycle (8 * d) / 2 ^ 20
    (d < 4 → nth 0 s.harvests d < now → exec .tlbHarvestPeriodic s =
      .next (({ s with harvests := setNth s.harvests d now } : State).harvest
        (fun e => e.onDie d && (s.ctx e.ctx).memExp.getLsbD 0) false)) ∧
    ((4 ≤ d ∨ now ≤ nth 0 s.harvests d) → exec .tlbHarvestPeriodic s = .next s)))

namespace Sys2Proof.Machine

/-- The new value of an atomic operation of width w, as the table of R204 gives it, for old, b and c of that width. -/
def atomTable {w : Nat} (op : AtomOp) (u : Bool) (old b c : BitVec w) : Option Nat :=
  let lt (x y : BitVec w) : Bool := if u then x.ult y else x.slt y
  match op with
  | .add => some (old + b).toNat
  | .min => some (if lt b old then b else old).toNat
  | .max => some (if lt old b then b else old).toNat
  | .and => some (old &&& b).toNat
  | .or => some (old ||| b).toNat
  | .xor => some (old ^^^ b).toNat
  | .exch => some b.toNat
  | .inc => some (if b.ule old then 0#w else old + 1#w).toNat
  | .dec => some (if old = 0#w ∨ b.ult old = true then b else old - 1#w).toNat
  | .fadd => some (fAdd .fp32 0#6 old.toNat b.toNat)
  | .fmin => some (fMinMax false false false old.toNat b.toNat)
  | .fmax => some (fMinMax true false false old.toNat b.toNat)
  | .cas => if old = b then some c.toNat else none

/-- The sources an atomic reads in its lanes: the address, b, and c for a compare and swap (R206, R207). -/
def atomSrcs (o : Opnds) (a64 cas : Bool) : List Src :=
  (if a64 then pairSrcs o.a o.sa else [o.srcA]) ++ wideSrcs o o.b o.sb ++ (if cas then wideSrcs o o.c o.sc else [])

/-- The state in which a queue instruction other than QINIT finds its queue: every earlier access of its warp to scratchpad has
been applied, a header that something else wrote holds free bytes, and every waiter that could be served has been (R199, R212,
R215). -/
def State.queueTurn (s : State) (a : Actx) (o : Opnds) : State :=
  ((s.drainSpad a.bid a.wi s.nextId s.ops.length).settleQueue a.bid (o.mod.toNat % 16)).serveAll a.bid (o.mod.toNat % 16)

end Sys2Proof.Machine

/-- The operations of the atomics. For old, b and c of 32 or 64 bits the new value of every operation of ATOM, ACAS
and ATOMS is that of the table: wrapping addition, signed or unsigned minimum and maximum, bitwise logic, exchange,
the wrapping increment and decrement, the FP32 sum, minimum and maximum, and the compare and swap, which writes
nothing when unequal. (R204) -/
def Obligations.AtomicOperationValues : Prop :=
  (∀ (op : AtomOp) (u : Bool) (old b c : BitVec 32), atomFn op u 32 old.toNat b.toNat c.toNat = atomTable op u old b c) ∧
  (∀ (op : AtomOp) (u : Bool) (old b c : BitVec 64), atomFn op u 64 old.toNat b.toNat c.toNat = atomTable op u old b c)

/-- ATOM, ACAS and ATOMS, and the service of their requests. With a flag that has room, plain sources, and every
active lane's address aligned and below 2^57 and its page translated for a write, and room in the queues of the
owners: ATOM and ACAS put one request for each sector into the queue of its owner, its lanes ascending with their
operands, and retire with the operation in flight. ATOMS with its addresses aligned and inside the scratchpad
retires with its lanes in flight, ascending with their operands; when the scratchpad applies them, each lane's old
value goes to the registers of its lane, unless a register of the lane was written early among its sources (R35),
and a lane's bytes then hold the new value. The service warp of a cluster takes one of the requests of its queue,
none being before another of a different sector; unless an earlier access of the requesting warp to its bytes is
still to come, the lanes are performed in ascending order as one sequence, each old value goes to the registers of
its lane, unless a source of the lane was written early (R35), and the instruction completes when it was the last
request. For a single lane whose bytes are not in a window the old value is what memory held, and memory then holds
the new value. The model's choices in it: log entries 14 and 15. (11_ordering_and_atomics.md, R192, R199, R201,
R206, R207) -/
def Obligations.Atomics : Prop :=
  ((∀ (op : AtomOp) (o : Opnds) (s s1 : State) (a : Actx) (lanes : List (Nat × List Nat)),
    let size := if o.mod.getLsbD 4 then 8 else 4
    let x (a64 : Bool) (l : Nat) : Nat := if a64 then s.pairVal a o.a o.sa l else (s.val a o.srcA l).toNat
    s.Counts a o →
    (∀ (i : Instr) (k : AtomOp), (i, k) ∈ [(Instr.atom op o, op), (.acas o, .cas)] →
      s.anyPx a (a.lanes o) (atomSrcs o (o.mod.getLsbD 3) (k == .cas)) = false →
      (∀ l, (a.lanes o).getLsbD l = true → x (o.mod.getLsbD 3) l % size = 0 ∧ x (o.mod.getLsbD 3) l + size ≤ 2 ^ 57) →
      s.translateLanes a .write ((lanesOf (a.lanes o)).map fun l => (l, [(x (o.mod.getLsbD 3) l, size)])) = (.ok lanes, s1) →
      let reqs := sectorRequests (lanes.map fun y => { lane := y.1, pa := nth 0 y.2 0, b := s.wideVal a o o.b o.sb y.1
                                                       c := if k == .cas then s.wideVal a o o.c o.sc y.1 else 0 })
      s1.serviceFits reqs = true → exec i s = .next (((s1.loseIdemp a).startAtomic a o k reqs).retire a)) ∧
    (s.anyPx a (a.lanes o) (atomSrcs o false (op == .cas)) = false →
      (∀ l, (a.lanes o).getLsbD l = true → x false l % size = 0 ∧ x false l + size ≤ s.spadSize a.blk) →
      exec (.atoms op o) s = .next ((s.startOp a o (.atoms op (o.mod.getLsbD 5) size ((lanesOf (a.lanes o)).map fun l =>
        { lane := l, pa := x false l, b := s.wideVal a o o.b o.sb l, c := if op == .cas then s.wideVal a o o.c o.sc l else 0 })
        (if o.d = 0xF3#8 then none else some o.d.toNat))).retire a))) ∧
  (∀ (s : State) (b : Block) (op : Op) (k : AtomOp) (u : Bool) (size : Nat) (dst : Option Nat) (x : AtomLane),
    s.block? op.block = some b → cellWf 0#8 b.spad = true → op.kind = .atoms k u size [x] dst →
    let old := leNat (s.spadRead op.block x.pa size)
    let t := s.performSpad op
    (∀ q ∈ t.ops, q.id = op.id → q.kind = .done (if x.mute then [] else oldWrites dst size x.lane old)) ∧
    (∀ v, atomFn k u (8 * size) old x.b x.c = some v → t.spadRead op.block x.pa size = leBytes size v) ∧
    (atomFn k u (8 * size) old x.b x.c = none → t.spadRead op.block x.pa size = s.spadRead op.block x.pa size))) ∧
  ((∀ (s : State) (c id sector : Nat) (op : Op) (k : AtomOp) (u : Bool) (size scope : Nat) (dst : Option Nat)
      (reqs : List (Nat × List AtomLane)) (lanes : List AtomLane),
    (s.service.filter fun q => q.1 == s.arg 0)[s.arg 1]? = some (c, id, sector) → s.op? id = some op →
    op.kind = .atomic k u size reqs dst scope → reqs.find? (fun r => r.1 == sector) = some (sector, lanes) →
    let bytes := lanes.flatMap fun x => (List.range size).map (x.pa + ·)
    let s0 : State := { s with service := s.service.erase (c, id, sector) }
    let rest := reqs.filter fun r => r.1 != sector
    let done := s0.atomLanes op k u size dst scope lanes
    let s2 := (done.1.applyWrites op.core op.block op.warp done.2).setOp id (.atomic k u size rest dst scope)
    (s.earlierTouch id op.block op.warp bytes = true → exec .atomicServiceRequest s = .next s) ∧
    (s.earlierTouch id op.block op.warp bytes = false → rest ≠ [] → exec .atomicServiceRequest s = .next s2) ∧
    (s.earlierTouch id op.block op.warp bytes = false → rest = [] → exec .atomicServiceRequest s = .next (s2.finishOp op))) ∧
  (∀ (s : State) (op : Op) (k : AtomOp) (u : Bool) (size scope : Nat) (dst : Option Nat) (x : AtomLane),
    (∀ i, i < size → inWindow (x.pa + i) = false ∧ s.uncached (x.pa + i) = false) → overWf s.l2 = true →
    let old := leNat (s.readPhys x.pa size)
    (s.atomLane op k u size dst scope x).2 = (if x.mute then [] else oldWrites dst size x.lane old) ∧
    ∀ v, atomFn k u (8 * size) old x.b x.c = some v → (s.atomLane op k u size dst scope x).1.readPhys x.pa size = leBytes size v))

/-- FENCE, epochs, WAITA and the signals of memory. A FENCE whose condition holds retires and takes its place in its
warp's program order, and at device and system scope an acquire merges the clocks its warp's loads returned into its
die's clock, entry by entry; while its condition fails, neither slot of the warp may issue but its own. Every fence
waits while a load, an LDS or an atomic of the warp has yet to return; an acquire also while a WAITA has; a release
also while a WAITA of the warp has not reached its slice, which is the model's reading (log entry 99), and while a
store has yet to be applied, at device scope while the epoch of the warp's last write is open, and at system scope
while a write that the warp posted to a window has not been acknowledged. EPOCH_CLOSE advances a die's own count in
every die's clock once no write of the current epoch is left. WAITA with an address that is a multiple of 4 and
below 2^57 and whose page translates sends its request and blocks its slot. The request, once no earlier access of
its warp to the word is left, ends the WAITA with status 2 for a host or peer window, with status 0 when the
condition holds of the word as it stands, and with status 2 when the slice's 256 entries are in use; otherwise its
entry stands in the slice's table. A misaligned address raises MISALIGN. WAITA_WAKE ends an entry that a write
satisfied with status 1, and WAITA_TIMEOUT one that none satisfied within the cycles of MEM_EXP.WAITTO with status
3. The model's choices in it: log entries 14, 56, 94, 99 and 104. (11_ordering_and_atomics.md, R191, R192, R202,
R208, R209) -/
def Obligations.FencesAndWaits : Prop :=
  ((∀ (kind : FenceKind) (o : Opnds) (s : State) (a : Actx), s.Acts a o.gn o.g →
    let scope := o.mod.toNat % 8
    let done (t : State) : State := ((t.noteFence a kind scope).updWarp a.bid a.wi fun w => { w with gate := none }).retire a
    let mine (q : Op) : Prop := q.block = a.bid ∧ q.warp = a.wi
    (s.fenceMet a kind scope = true → kind ≠ .rel → 4 ≤ scope → exec (.fence kind o) s = .next (done (s.acquire a))) ∧
    (s.fenceMet a kind scope = true → (kind = .rel ∨ scope < 4) → exec (.fence kind o) s = .next (done s)) ∧
    (s.fenceMet a kind scope = false → exec (.fence kind o) s =
      .next (s.updWarp a.bid a.wi fun w => { w with gate := some a.slot })) ∧
    ((∃ q ∈ s.ops, mine q ∧ ∃ ls, q.kind = .load ls ∨ q.kind = .lds ls) → s.fenceMet a kind scope = false) ∧
    ((∃ q ∈ s.ops, mine q ∧ ∃ k u n reqs dst sc, q.kind = .atomic k u n reqs dst sc) → s.fenceMet a kind scope = false) ∧
    ((∃ q ∈ s.ops, mine q ∧ ∃ k u n ls dst, q.kind = .atoms k u n ls dst) → s.fenceMet a kind scope = false) ∧
    ((∃ q ∈ s.ops, mine q ∧ ∃ va pa dst, q.kind = .jdec va pa dst) → s.fenceMet a kind scope = false) ∧
    (kind ≠ .rel → (∃ e ∈ s.waits, e.block = a.bid ∧ e.warp = a.wi) → s.fenceMet a kind scope = false) ∧
    (kind ≠ .acq → (∃ e ∈ s.waits, e.block = a.bid ∧ e.warp = a.wi ∧ e.there = false) → s.fenceMet a kind scope = false) ∧
    (kind ≠ .acq → (∃ q ∈ s.ops, mine q ∧ ((∃ ps, q.kind = .store ps) ∨ ∃ ps, q.kind = .sts ps)) → s.fenceMet a kind scope = false) ∧
    (kind ≠ .acq → 4 ≤ scope → s.epochClosed a.w = false → s.fenceMet a kind scope = false) ∧
    (kind ≠ .acq → scope = 5 → (∃ p ∈ s.posted, p.agent = .warp a.bid a.wi) → s.fenceMet a kind scope = false)) ∧
  (∀ s : State, let d := s.arg 0
    let e := nth 0 (nth [] s.clocks d) d
    d < 12 → (∀ q ∈ s.ops, q.epoch ≠ some (d, e)) → exec .epochClose s =
      .next { s with clocks := s.clocks.map fun c => setNth c d (max (nth 0 c d) (e + 1)) })) ∧
  ((∀ (cmp : WaitCmp) (o : Opnds) (s s1 : State) (a : Actx) (pa : Nat), s.Acts a o.gn o.g →
    let x := s.pairVal a o.a o.sa 0
    let one : Prop := ∀ l, s.laneAddr a o.a o.sa true (fun _ => 0) l = x
    one → (x % 4 ≠ 0 → exec (.waita cmp o) s = .next (s.raiseAt a Code.misalign 0 (BitVec.ofInt 64 x))) ∧
    (x % 4 = 0 → x + 4 ≤ 2 ^ 57 → s.translate a.core a.blk.ctx x .read = (.ok pa, s1) →
      let s2 := s1.misuse a.blk.ctx [x]
      let s3 : State := { s2 with nextId := s2.nextId + 1 }
      exec (.waita cmp o) s = .next { s3.blockSlot a with
        waits := s2.waits ++ [({ id := s2.nextId, block := a.bid, warp := a.wi, slot := a.slot, pa := pa, mask := s.scalar a o.b o.sb
                                 expected := s.scalar a o.c o.sc, cmp := cmp, dst := o.d.toNat, start := s.cycle (clusterOf a.core)
                                 there := false, hit := none, barred := false } : WaitEntry)] })) ∧
  (∀ (s : State) (a : Actx), s.actxAt a.bid a.wi a.slot = some a →
    ((s.blockSlot a).actxAt a.bid a.wi a.slot).map (·.p.wait) = some .blocked) ∧
  (∀ (s : State) (e : WaitEntry), s.waits.find? (fun e => e.id == s.arg 0) = some e → e.there = false →
    let table := s.waits.filter fun y => y.there && sliceOf y.pa == sliceOf e.pa
    let value := BitVec.ofNat 32 (leNat (s.readPhys e.pa 4))
    let now := waitHolds e.cmp (value &&& e.mask) (e.expected &&& e.mask)
    (inWindow e.pa = true → exec .waitaWake s = .next (s.endWait e 2#32)) ∧
    (inWindow e.pa = false → s.earlierTouch e.id e.block e.warp ((List.range 4).map (e.pa + ·)) true = true →
      exec .waitaWake s = .next s) ∧
    (inWindow e.pa = false → s.earlierTouch e.id e.block e.warp ((List.range 4).map (e.pa + ·)) true = false →
      (now = true → exec .waitaWake s = .next ((s.waitRead e (s.waitCore e) s.memTime).endWait e 0#32)) ∧
      (now = false → 256 ≤ table.length → exec .waitaWake s = .next (s.endWait e 2#32)) ∧
      (now = false → table.length < 256 → ∃ t y, exec .waitaWake s = .next t ∧
        t.waits.find? (fun z => z.id == s.arg 0) = some y ∧ y = { e with there := true }))) ∧
  (∀ (s : State) (e : WaitEntry), s.waits.find? (fun e => e.id == s.arg 0) = some e → e.there = true →
    (∀ t, e.hit = some t → exec .waitaWake s = .next ((s.waitRead e (s.waitCore e) t).endWait e 1#32)) ∧
    (∀ a, s.actxAt e.block e.warp e.slot = some a → e.hit = none →
      let n := bits (s.ctx a.blk.ctx).memExp 20 16
      (n ≠ 0 → e.start + 2 ^ min n 30 ≤ s.cycle (clusterOf a.core) → exec .waitaTimeout s = .next (s.endWait e 3#32)) ∧
      (n = 0 → exec .waitaTimeout s = .next s))))

/-- A pushed handle comes out in its turn and the header stays well formed. For a well-formed header of a block
whose ring does not overlap the header itself: a push with allowance leaves a well-formed header with one entry more
and one allowance less, whose newest ring word is the handle, and the older entries stand; a pop with an entry
returns the oldest ring word and leaves a well-formed header with one entry less and one allowance more.
(12_queues_and_circular.md, R212, R214) -/
def Obligations.QueuesAreFirstInFirstOut : Prop :=
  ∀ (s : State) (b : Block) (n : Nat) (h : Word), s.block? b.id = some b → cellWf 0#8 b.spad = true → n < 16 →
    let q := s.queue b.id n
    let word (t : State) (i : Nat) : Nat := leNat (t.spadRead b.id (q.ring + 4 * ((q.head + i) % q.size)) 4)
    q.ok (s.spadSize b) = true → (q.ring + 4 * q.size ≤ 16 * n ∨ 16 * n + 16 ≤ q.ring) →
    (0 < q.allow →
      (s.qpush b.id n h).queue b.id n = { q with count := q.count + 1, allow := q.allow - 1 } ∧
      ((s.qpush b.id n h).queue b.id n).ok (s.spadSize b) = true ∧ word (s.qpush b.id n h) q.count = h.toNat ∧
      ∀ i, i < q.count → word (s.qpush b.id n h) i = word s i) ∧
    (0 < q.count →
      (s.qpop b.id n).1 = BitVec.ofNat 32 (word s 0) ∧
      (s.qpop b.id n).2.queue b.id n = { q with head := (q.head + 1) % q.size, count := q.count - 1, allow := q.allow + 1 } ∧
      ((s.qpop b.id n).2.queue b.id n).ok (s.spadSize b) = true)

/-- The queue instructions and the events that end their waits. With a header that lies in the scratchpad, once the
warp's earlier scratchpad accesses are applied and every waiter that could be served is: QINIT writes RING, SIZE and
ALLOW with HEAD and COUNT 0, raises QFAULT with detail 0x01 for a size of 0 or above 4,096 with nothing written, and
for a header that is not well formed with the header written; QINIT.GRANT adds to ALLOW up to SIZE − COUNT; QPUSH
and QPOP with allowance or an entry push and pop once earlier accesses allow it, and otherwise join the waiters of
their side; QTRY.PUSH and QTRY.POP say in Pc whether they did; each that reads or writes the header has that access
in the record. What an instruction makes positive is served at once. A header that is not well formed raises QFAULT
with detail 0x01, and a header that does not lie in the scratchpad DFAULT with detail 0x07. A PMAT.S of the warp
whose values have not come keeps each waiting. In either event a header on which a slot waits and which something
else has written holds free values first. The front waiter of a side whose ALLOW or COUNT is positive is served: a
push pushes its handle, a pop writes the popped handle to Sd, the waiter leaves the list and its instruction
retires; QUEUE_WAITER_RELEASE serves it and every waiter that this makes due. QUEUE_DEADLOCK of a block in which
every live warp is stuck takes QFAULT with detail 0x02 in each of its warps, at a slot that waits (which of two is
free); otherwise nothing more changes. The model's choices in it: log entries 15, 31, 56 and 104.
(12_queues_and_circular.md, R199, R212, R214, R215, R216) -/
def Obligations.Queues : Prop :=
  ((∀ (o : Opnds) (s : State) (a : Actx), s.Acts a o.gn o.g →
    let n := o.mod.toNat % 16
    let d := s.drainSpad a.bid a.wi s.nextId s.ops.length
    let r1 := d.serveAll a.bid n
    let h := r1.scalar a o.a o.sa
    let size := (r1.scalar a o.b o.sb).toNat
    let set : QHead := { ring := h.toNat, size := size, allow := size, head := 0, count := 0, rest := 1 }
    let others := [Instr.qinitGrant o, .qpush o, .qpop o, .qtryPop o, .qtryPush o]
    (s.spadSize a.blk < 16 * n + 16 → ∀ i ∈ Instr.qinit o :: others, exec i s = .next (s.raiseAt a Code.dfault 0x07 (BitVec.ofNat 64 (16 * n)))) ∧
    (16 * n + 16 ≤ s.spadSize a.blk → d.oldestSpad a.bid a.wi ≠ none → ∀ i ∈ Instr.qinit o :: others, exec i s = .next s) ∧
    (16 * n + 16 ≤ s.spadSize a.blk → d.oldestSpad a.bid a.wi = none →
      (size = 0 ∨ 4096 < size → exec (.qinit o) s = .next (r1.raise a Code.qfault 0x01)) ∧
      (1 ≤ size → size ≤ 4096 → set.ok (r1.spadSize a.blk) = false →
        exec (.qinit o) s = .next ((r1.putQueue a n false set).raise a Code.qfault 0x01)) ∧
      (set.ok (r1.spadSize a.blk) = true → exec (.qinit o) s = .next (((r1.putQueue a n false set).retire a).serveAll a.bid n)))) ∧
  (∀ (o : Opnds) (s r : State) (a : Actx), s.Acts a o.gn o.g →
    let n := o.mod.toNat % 16
    16 * n + 16 ≤ s.spadSize a.blk → (s.drainSpad a.bid a.wi s.nextId s.ops.length).oldestSpad a.bid a.wi = none →
    r = s.queueTurn a o →
    let q := r.queue a.bid n
    let h := r.scalar a o.a o.sa
    let popped := (r.popNow a n).2.wrSc a o.d.toNat (r.popNow a n).1
    (q.ok (r.spadSize a.blk) = false → ∀ i ∈ [Instr.qinitGrant o, .qpush o, .qpop o, .qtryPop o, .qtryPush o],
      exec i s = .next (r.raise a Code.qfault 0x01)) ∧
    (q.ok (r.spadSize a.blk) = true →
      exec (.qinitGrant o) s =
        .next (((r.putQueue a n true { q with allow := min (q.allow + h.toNat) (q.size - q.count) }).retire a).serveAll a.bid n) ∧
      (r.fenceMet a .rel 0 = true →
        (0 < q.allow → exec (.qpush o) s = .next (((r.pushNow a n h).retire a).serveAll a.bid n)) ∧
        (q.allow = 0 → exec (.qpush o) s = .next (r.joinWaiters a n true h 0#8)) ∧
        (0 < q.allow → exec (.qtryPush o) s =
          .next ((((r.pushNow a n h).wrP a o.c.toNat (a.lanes o) fun _ => true).retire a).serveAll a.bid n))) ∧
      (q.allow = 0 → exec (.qtryPush o) s = .next (((r.sawQueue a n).wrP a o.c.toNat (a.lanes o) fun _ => false).retire a)) ∧
      (r.fenceMet a .acq 0 = true →
        (0 < q.count → exec (.qpop o) s = .next ((popped.retire a).serveAll a.bid n)) ∧
        (q.count = 0 → exec (.qpop o) s = .next (r.joinWaiters a n false 0#32 o.d)) ∧
        (0 < q.count → exec (.qtryPop o) s =
          .next (((popped.wrP a o.c.toNat (a.lanes o) fun _ => true).retire a).serveAll a.bid n))) ∧
      (q.count = 0 → exec (.qtryPop o) s = .next (((r.sawQueue a n).wrP a o.c.toNat (a.lanes o) fun _ => false).retire a)))) ∧
  (∀ (s : State) (bid n wi core po : Nat) (h : Word),
    { s.pushAs bid n wi core po h with log := s.log } = s.qpush bid n h ∧
    (s.popAs bid n wi core po).1 = (s.qpop bid n).1 ∧
    { (s.popAs bid n wi core po).2 with log := s.log } = (s.qpop bid n).2) ∧
  (∀ (s : State) (a : Actx) (n : Nat) (reads : Bool) (q : QHead),
    { s.putQueue a n reads q with log := s.log, nextId := s.nextId } = s.setQueue a.bid n q ∧
    { s.sawQueue a n with log := s.log, nextId := s.nextId } = s)) ∧
  ((∀ (s0 s : State) (b : Block) (x : QWaiter) (a : Actx), s = s0.settleWaited (s0.arg 0) (s0.arg 1) → s.block? (s.arg 0) = some b → b.front (s.arg 1) (s.arg 2 == 1) = some x →
    (s.queue (s.arg 0) (s.arg 1)).ok (s.spadSize b) = true → (s.queue (s.arg 0) (s.arg 1)).room (s.arg 2 == 1) = true →
    let s1 := s.setBlock { b with qwait := b.qwait.erase x }
    let r := ({ s1 with nextId := s1.nextId + 3 } : State).popAs (s.arg 0) (s.arg 1) x.warp a.core s1.nextId
    s1.actxAt (s.arg 0) x.warp x.slot = some a →
    exec .queueWaiterRelease s0 = .next ((s.serveWaiter (s.arg 0) (s.arg 1) x).serveAll (s.arg 0) (s.arg 1)) ∧
    (x.push = true → s.serveWaiter (s.arg 0) (s.arg 1) x =
      (s1.pushAs (s.arg 0) (s.arg 1) x.warp a.core x.po x.handle).retire a) ∧
    (x.push = false → s.serveWaiter (s.arg 0) (s.arg 1) x = (r.2.wrSc a x.dst.toNat r.1).retire a)) ∧
  (∀ (s0 s : State) (b : Block), s = (List.range 16).foldl (fun (t : State) (n : Nat) => t.settleWaited (s0.arg 0) n) s0 →
    s.block? (s.arg 0) = some b →
    (s.queueStuck b = false → exec .queueDeadlock s0 = .next s) ∧
    (s.queueStuck b = true → exec .queueDeadlock s0 = .next ((List.range b.warps.length).foldl (fun t i => t.unstick b i) s) ∧
      ∀ i, (∃ w, b.warps[i]? = some w ∧ w.ended = false) → ∀ t : State, ∃ slot, slot ∈ b.queueSlots i ∧
        t.unstick b i = ((t.draw.2.withdraw b.id i slot).raiseTrap b.id i slot Code.qfault 0x02 0#64 true))))

/-- SPAWN, JDEC and PHASE. SPAWN, behind the warp's own stores, of a valid record of its context whose queue is
enabled and not fed by the host: status 1 when its JOIN is not zero, 2 when the queue is full, and 0 when the record
has been pushed; the record's queue and record must be valid or QFAULT is raised. JDEC of a record of its context
sends a decrement to the record's service warp, and raises QFAULT for another context's record; a record in a host
or peer window is read as free bytes. PHASE writes the number of the first class whose limit is not below A and goes
to its code when that lies in the code range (and raises ILLEGAL with detail 0x0F when it does not), or writes all
ones when no class fits or there is no table. An address that is not a multiple of 64 raises MISALIGN. That SPAWN
takes its record as it stands at its home, where R103 makes it a load, is the model's choice (log entry 14), and so
is the way PHASE reads its table, through the translation of a data access (log entry 43). The model's choices in
it: log entries 14, 41, 42, 43, 56, 77 and 104. (06_launch_and_residency.md, R86, R95, R96, R103, R104, R106) -/
def Obligations.SpawnsDecrementsAndPhases : Prop :=
  (∀ (o : Opnds) (s s0 s1 : State) (a : Actx) (pa : Nat), s.Counts a o →
    let va := (s.scalar a o.a o.sa).toNat
    let places := (List.range 64).map (pa + ·)
    let read := s1.readAt (MemTag.warp a.bid a.wi a.core s1.nextId) places s1.memTime
    let s2 := read.2
    let r := Rec.ofNat (leNat read.1)
    (s.storesOpen a = true → exec (.spawn o) s = .next s) ∧
    (s.storesOpen a = false → va % 64 ≠ 0 → exec (.spawn o) s = .next (s.raiseAt a Code.misalign 0 (BitVec.ofNat 64 va))) ∧
    (s.storesOpen a = false → va % 64 = 0 → s.translate a.core a.blk.ctx va .read = (.ok pa, s0) → s1 = s0.misuse a.blk.ctx [va] →
      s1.earlierTouch s1.nextId a.bid a.wi places true = false →
      (s2.qdesc a.blk.ctx r.qid = none → exec (.spawn o) s = .next (s2.raise a Code.qfault 0)) ∧
      (∀ d, s2.qdesc a.blk.ctx r.qid = some d →
        let good : Bool := d.ok && r.valid d.ctx && r.ctx == a.blk.ctx && d.en && !d.host
        (good = false → exec (.spawn o) s = .next (s2.raise a Code.qfault 0)) ∧
        (good = true → r.join ≠ 0 → exec (.spawn o) s = .next (s2.spawned a o 1#32)) ∧
        (good = true → r.join = 0 → d.full = true → exec (.spawn o) s = .next (s2.spawned a o 2#32)) ∧
        (∀ l, good = true → r.join = 0 → d.full = false → s2.walk a.blk.ctx (d.entry d.tail) .write = .ok l →
          exec (.spawn o) s = .next ((s2.fresh.2.pushRing a.blk.ctx r.qid d read.1 s2.fresh.1).spawned a o 0#32)))) ∧
    (va % 64 ≠ 0 → exec (.jdec o) s = .next (s.raiseAt a Code.misalign 0 (BitVec.ofNat 64 va))) ∧
    (va % 64 = 0 → s.translate a.core a.blk.ctx va .write = (.ok pa, s0) → s1 = s0.misuse a.blk.ctx [va] →
      s1.earlierTouch s1.nextId a.bid a.wi places = false →
      let r := Rec.ofNat (leNat (s1.loadBytes places).1)
      let s2 := (s1.loadBytes places).2
      (r.ctx ≠ a.blk.ctx → exec (.jdec o) s = .next (s2.raise a Code.qfault 0)) ∧
      (r.ctx = a.blk.ctx → (s2.service.filter fun q => q.1 == atomicOwner pa).length < 256 →
        ∃ t op, exec (.jdec o) s = .next t ∧ t.service = s2.service ++ [(atomicOwner pa, op.id, pa / 64)] ∧
          t.ops = s2.ops ++ [op] ∧ op.kind = .jdec va pa o.d.toNat ∧ op.block = a.bid ∧ op.warp = a.wi) ∧
      ((∀ x ∈ places, inWindow x = false) → r = Rec.ofNat (leNat (s1.readPhys pa 64)) ∧ s2 = s1))) ∧
  (∀ (s : State) (ctx va pa : Nat) (t : MemTag),
    (∀ i, i < 4 → inWindow (pa + 12 + i) = false ∧ s.uncached (pa + 12 + i) = false) → overWf s.l2 = true →
    let old := leNat (s.readPhys (pa + 12) 4)
    let put (v : Option Nat) : State := s.storeAtom t ((List.range 4).map (pa + 12 + ·)) (s.readPhys (pa + 12) 4) v
    (s.joinDec ctx va pa t).1 = old ∧ (old = 0 → (s.joinDec ctx va pa t).2 = put none) ∧
    (1 < old → (s.joinDec ctx va pa t).2 = put (some (old - 1))) ∧
    (old = 1 → (s.joinDec ctx va pa t).2 = (put (some 0)).makeReady ctx va (pa + 12)) ∧
    (∀ x, (put none).readByte x = s.readByte x) ∧ (∀ v, (put (some v)).readPhys (pa + 12) 4 = leBytes 4 v)) ∧
  (∀ (o : Opnds) (s s1 s2 : State) (a : Actx) (r : Record) (k : KObj) (v : Variant) (hd bs : List Byte), s.Acts a o.gn o.g →
    s.record? a.blk.record = some r → s.kobj a.blk = some k → s.variantOf a.blk = some v →
    let n := (s.scalar a o.a o.sa).toNat
    let es := classEntries bs (leNat hd)
    (v.sctab = 0 → exec (.phase o) s = .next ((s.wrSc a o.d.toNat 0xFFFFFFFF#32).retire a)) ∧
    (v.sctab ≠ 0 → s.readTable a (r.kobj + v.sctab) 8 = (.ok hd, s1) → 1 ≤ leNat hd → leNat hd ≤ 8 →
      s1.readTable a (r.kobj + v.sctab + 8) (8 * leNat hd) = (.ok bs, s2) → ascending (es.map (·.1)) = true →
      ((∀ e ∈ es, e.1 < n) → exec (.phase o) s = .next ((s2.wrSc a o.d.toNat 0xFFFFFFFF#32).retire a)) ∧
      (∀ i lim code, es[i]? = some (lim, code) → n ≤ lim → (∀ e ∈ es.take i, e.1 < n) → k.codestart ≤ code →
        code < k.codelim → ∃ t : State, exec (.phase o) s = .next (t.goto a (BitVec.ofNat 64 (r.kobj + code))) ∧
          t.block? a.bid = ((s2.wrSc a o.d.toNat (BitVec.ofNat 32 i)).block? a.bid).map
            (fun (b : Block) => { b with sizeclass := BitVec.ofNat 32 i })) ∧
      (∀ i lim code, es[i]? = some (lim, code) → n ≤ lim → (∀ e ∈ es.take i, e.1 < n) → (code < k.codestart ∨ k.codelim ≤ code) →
        exec (.phase o) s = .next (s2.raise a Code.illegal 0x0F))))

/-- RBACQ and RBREL, and switch points. RBACQ of n blocks raises ILLEGAL with detail 0x0F when the warp would hold
more than 30; otherwise it receives n blocks, zero and tagged uniform, from the pool when it holds them, or else
from the reserve when nobody holds it and it has them, and retires; otherwise it raises REGEXH when REGWAIT is 0 and
else parks, and a parked warp issues from neither slot. RBREL raises ILLEGAL with detail 0x0F when it would leave
fewer than REGB blocks, and otherwise gives up its highest blocks, and the reserve is free again when its holder is
back at REGB. RBACQ_WAKE gives the warp that has waited longest its blocks once the pool holds them, or traps it
when it has been parked for more than REGWAIT cycles; REGEXH traps a warp that has been parked for more than REGWAIT
cycles. SWPT k with all the warp's lanes, its other slot free, an empty divergence stack, a posted request, outside
a handler and not yet decided, arrives: its slot blocks and joins the arrivals at k; otherwise it retires with no
effect. SWITCH_GRACE_EXPIRY, 1,024 cycles after a first arrival whose point some warp did not reach in that time,
makes every arrived warp retire its SWPT as a no-op. SWITCH_APPLY, when every warp has arrived at a point within
1,024 cycles of the first and the block is neither ending nor stopping, makes the decision; with a well-formed map
to the target and nothing in flight the switch is applied, and with none it is a no-op. The model's choices in it:
log entries 32, 43, 86 and 87. (06_launch_and_residency.md, R97, R100, R101, R105, R107, R108, R316) -/
def Obligations.BlocksOfRegistersAndSwitches : Prop :=
  ((∀ (o : Opnds) (s : State) (a : Actx), s.Acts a o.gn o.g →
    let n := o.imm16.toNat
    let c := s.core a.core
    let wait := bits (s.ctx a.blk.ctx).schedExp 12 8
    (30 < a.w.b + n → exec (.rbacq o) s = .next (s.raise a Code.illegal 0x0F)) ∧
    (a.w.b + n ≤ 30 → n ≤ s.poolFree a.core → exec (.rbacq o) s = .next ((s.updWarp a.bid a.wi fun w => w.gain n 0).retire a)) ∧
    (a.w.b + n ≤ 30 → s.poolFree a.core < n → c.holder = none → n ≤ s.reserveFree a.core → exec (.rbacq o) s =
      .next (((s.setCore a.core { c with holder := some (a.bid, a.wi) }).updWarp a.bid a.wi fun w => w.gain n n).retire a)) ∧
    (a.w.b + n ≤ 30 → s.poolFree a.core < n → (c.holder ≠ none ∨ s.reserveFree a.core < n) →
      (wait = 0 → exec (.rbacq o) s = .next (s.raise a Code.regexh 0)) ∧
      (wait ≠ 0 → exec (.rbacq o) s = .next ((s.blockSlot a).setCore a.core
        { c with parks := c.parks ++ [(a.bid, a.wi, a.slot, n, s.cycle (clusterOf a.core))] }))) ∧
    (∀ v, s.variantOf a.blk = some v →
      (a.w.b < v.regb + n → exec (.rbrel o) s = .next (s.raise a Code.illegal 0x0F)) ∧
      (v.regb + n ≤ a.w.b → ∀ t : State, t = (s.dropRefs a.core a.blk.ctx a.bid a.wi
          ((a.w.vregs.drop (8 * (a.w.b - n))).flatMap VReg.handles)).updWarp a.bid a.wi (fun w => w.shed n) →
        ((v.regb + n < a.w.b ∨ (t.core a.core).holder ≠ some (a.bid, a.wi)) → exec (.rbrel o) s = .next (t.retire a)) ∧
        (v.regb + n = a.w.b → (t.core a.core).holder = some (a.bid, a.wi) →
          exec (.rbrel o) s = .next ((t.setCore a.core { t.core a.core with holder := none }).retire a))))) ∧
  (∀ (s : State) (a : Actx), (∃ slot n start, (a.bid, a.wi, slot, n, start) ∈ (s.core a.core).parks) → s.mayIssue a = false) ∧
  (∀ (w : Warp) (n r : Nat), w.vregs.length = 8 * w.b → (w.gain n r).b = w.b + n ∧ (w.gain n r).vregs.length = 8 * (w.gain n r).b ∧
    (∀ i, i < 8 * w.b → nth VReg.zero (w.gain n r).vregs i = nth VReg.zero w.vregs i) ∧
    (∀ i, 8 * w.b ≤ i → nth VReg.zero (w.gain n r).vregs i = VReg.zero)) ∧
  (∀ (s : State) (a : Actx) (b wi slot n start : Nat) (rest : List (Nat × Nat × Nat × Nat × Nat)),
    (s.core (s.arg 0)).parks = (b, wi, slot, n, start) :: rest → s.actxAt b wi slot = some a →
    let late : Prop := start + 2 ^ min (bits (s.ctx a.blk.ctx).schedExp 12 8) 30 < s.cycle (clusterOf a.core)
    let left := s.unpark (s.arg 0) (b, wi, slot, n, start)
    (¬ late → a.w.b + n ≤ 30 → n ≤ s.poolFree (s.arg 0) →
      exec .rbacqWake s = .next ((left.updWarp a.bid a.wi fun w => w.gain n 0).retire a)) ∧
    (late → exec .rbacqWake s = .next ((left.wake a.bid a.wi a.slot).raise a Code.regexh 0))) ∧
  (∀ (s : State) (a : Actx) (n start : Nat), s.actxAt (s.arg 0) (s.arg 1) (s.arg 2) = some a →
    let park := (a.bid, a.wi, a.slot, n, start)
    (s.core a.core).parks.find? (fun p => p.1 == a.bid && p.2.1 == a.wi && p.2.2.1 == a.slot) = some park →
    start + 2 ^ min (bits (s.ctx a.blk.ctx).schedExp 12 8) 30 < s.cycle (clusterOf a.core) →
    exec .regexh s = .next (((s.unpark a.core park).wake a.bid a.wi a.slot).raise a Code.regexh 0))) ∧
  ((∀ (o : Opnds) (s : State) (a : Actx), s.Acts a o.gn o.g →
    let ready : Prop := a.lanes o = ~~~a.w.exited ∧ a.w.path (1 - a.slot) = none ∧ a.w.stack = [] ∧ a.blk.reshape ≠ none ∧
      a.w.frame = none ∧ a.p.wait = .ready
    (¬ ready → exec (.swpt o) s = .next (s.retire a)) ∧
    (ready → let now := s.cycle (clusterOf a.core)
      let s1 := (s.endGrace a.blk now).blockSlot a
      ∃ b, s1.block? a.bid = some b ∧ exec (.swpt o) s = .next (s1.setBlock (b.arriveSwitch (o.imm16.toNat % 16) a.wi a.slot now)))) ∧
  (∀ (b : Block) (k wi slot now : Nat),
    let joined (x : SwitchWait) : SwitchWait := { x with whole := x.whole || (b.allArrived x && decide (now < x.start + 1024)) }
    let one : SwitchWait := { k := k, start := now, arrived := [(wi, slot)], spoiled := false, whole := false, passed := false }
    ((∀ x ∈ b.switches, x.k ≠ k) → (b.arriveSwitch k wi slot now).switches = (b.switches ++ [one]).map joined) ∧
    (∀ x ∈ b.switches, x.k = k → joined { x with arrived := x.arrived ++ [(wi, slot)] } ∈ (b.arriveSwitch k wi slot now).switches)) ∧
  (∀ (s : State) (b : Block) (core : Nat) (x : SwitchWait), s.block? (s.arg 0) = some b → b.loc = .core core → b.switches = [x] →
    (x.passed = false → x.whole = false → x.start + 1024 ≤ s.cycle (clusterOf core) →
      exec .switchGraceExpiry s = .next (s.noSwitch b.id x)) ∧
    ((s.cycle (clusterOf core) < x.start + 1024 ∨ x.whole = true) → exec .switchGraceExpiry s = .next s) ∧
    (x.whole = false → exec .switchApply s = .next s) ∧
    (x.whole = true → b.ending = none → b.stopping = false → exec .switchApply s = .next (s.decideSwitch b core x)) ∧
    (∀ q r k v t m, x.whole = true → b.ending = none → b.stopping = false → x.spoiled = false → b.reshape = some q →
      s.record? b.record = some r → s.kobj b = some k → s.variantOf b = some v → k.variants[q.target]? = some t →
      s.blockMap b (fun kk tt => kk == x.k && tt == q.target) = .ok (.found m) → s.mapOk b.ctx r.kobj k v t x.k m = true →
      s.switchDrained b.id = true → exec .switchApply s = .next (s.applySwitch b core r q m t)) ∧
    (∀ q r k v, x.whole = true → b.ending = none → b.stopping = false → x.spoiled = false → b.reshape = some q →
      s.record? b.record = some r → s.kobj b = some k → s.variantOf b = some v →
      s.blockMap b (fun kk tt => kk == x.k && tt == q.target) = .ok .absent → exec .switchApply s = .next (s.noSwitch b.id x))))

/-- XPAIR and XSHFL, XPAIR_TIMEOUT and XSHFL_COMMIT. XPAIR, which ends the warp's pair and its idempotent treatment,
and before which every offer that has waited XPWAIT cycles is withdrawn with status 1: status 2 for a core it may
not name; 3 when the pair table of the lower-numbered core's cluster is full; with a matching offer of a warp on
that core, both warps pair and both receive 0; otherwise 1 when XPWAIT is 0, and else its offer waits. XPAIR_TIMEOUT
withdraws an offer that has waited XPWAIT cycles with status 1. XSHFL with no pair clears Pc in its active lanes;
with a pair and no post of its own it posts A and its slot blocks, and with a post of its own, or while another path
of the warp has a withdrawn XSHFL to execute again, it waits. XSHFL_COMMIT, with both posts, writes the partner's
values in the lanes active on both sides and sets Pc there, for both warps; with no lane active on both sides it
writes no value and clears Pc in the active lanes. The model's choices in it: log entries 36, 56, 80, 89 and 106.
(09_lane_exchange.md, R154, R155, R156, R316) -/
def Obligations.PairsOfWarps : Prop :=
  (∀ (o : Opnds) (s : State) (a : Actx), s.Acts a o.gn o.g →
    let s1 := ((s.loseIdemp a).endPairs a.bid a.wi).endOffers
    let sa := (s.scalar a o.a o.sa).toNat
    let target := sa % 256
    let key := s.scalar a o.b o.sb
    let ctx := s.ctx a.blk.ctx
    let bad : Prop := 256 ≤ sa ∨ clusterOf target = clusterOf a.core ∨ ctx.inPartition target = false
    let full : Prop := 64 ≤ (s1.pairs.filter fun p => p.cluster == clusterOf (min target a.core)).length
    let mine : Offer := { block := a.bid, warp := a.wi, slot := a.slot, core := a.core, partner := target, key := key, dst := o.d.toNat
                          start := s.cycle (clusterOf a.core) }
    let other := s1.offers.find? fun q => q.core == target && q.partner == a.core && q.key == key
      && ((s1.block? q.block).map (·.ctx)) == some a.blk.ctx
    let done (v : Word) : Host.Outcome State Fault Refusal := .next ((s1.wrSc a o.d.toNat v).retire a)
    (bad → exec (.xpair o) s = done 2#32) ∧ (¬ bad → full → exec (.xpair o) s = done 3#32) ∧
    (∀ q, ¬ bad → ¬ full → other = some q → exec (.xpair o) s =
      .next ((((s1.addPair q mine).answer q.block q.warp q.slot q.dst 0#32).wrSc a o.d.toNat 0#32).retire a)) ∧
    (¬ bad → ¬ full → other = none → bits ctx.schedExp 20 16 = 0 → exec (.xpair o) s = done 1#32) ∧
    (¬ bad → ¬ full → other = none → bits ctx.schedExp 20 16 ≠ 0 →
      exec (.xpair o) s = .next { s1.blockSlot a with offers := s1.offers ++ [mine] })) ∧
  (∀ (s : State) (q : Offer) (b : Block), s.offers.find? (fun q => q.block == s.arg 0 && q.warp == s.arg 1 && q.slot == s.arg 2) = some q →
    s.block? q.block = some b → q.start + 2 ^ min (bits (s.ctx b.ctx).schedExp 20 16) 30 ≤ s.cycle (clusterOf q.core) →
    exec .xpairTimeout s = .next (({ s with offers := s.offers.filter (· != q) } : State).answer q.block q.warp q.slot q.dst 1#32)) ∧
  (∀ (o : Opnds) (s : State) (a : Actx), s.ActsOn a o [o.srcA] →
    (s.pairOf a.bid a.wi = none → exec (.xshfl o) s = .next ((s.wrP a o.c.toNat (a.lanes o) fun _ => false).retire a)) ∧
    (∀ p, s.pairOf a.bid a.wi = some p → (if p.block0 = a.bid ∧ p.warp0 = a.wi then p.post0 else p.post1) = none →
      (∀ x, (if p.block0 = a.bid ∧ p.warp0 = a.wi then p.owed0 else p.owed1) = some x → a.w.owesElsewhere a.slot x = false) →
      ∃ t q, exec (.xshfl o) s = .next t ∧ (t.actxAt a.bid a.wi a.slot).map (·.p.wait) = some .blocked ∧ q ∈ t.pairs ∧ q.id = p.id ∧ ∃ x : Post,
        (if p.block0 = a.bid ∧ p.warp0 = a.wi then q.post0 else q.post1) = some x ∧ x.slot = a.slot ∧ x.active = a.lanes o ∧
        ∀ l, l < 32 → nth 0#32 x.vals l = s.val a o.srcA l) ∧
    (∀ p, s.pairOf a.bid a.wi = some p → ((if p.block0 = a.bid ∧ p.warp0 = a.wi then p.post0 else p.post1) ≠ none ∨
      ∃ x, (if p.block0 = a.bid ∧ p.warp0 = a.wi then p.owed0 else p.owed1) = some x ∧ a.w.owesElsewhere a.slot x = true) →
      exec (.xshfl o) s = .next s)) ∧
  (∀ (s : State) (p : WarpPair) (x y : Post), s.pairs.find? (fun p => p.id == s.arg 0) = some p → p.post0 = some x → p.post1 = some y →
    let s1 : State := { s with pairs := s.pairs.map fun (q : WarpPair) => if q.id = p.id then { q with post0 := none, post1 := none, count := q.count + 1 } else q }
    exec .xshflCommit s = .next ((s1.commitSide p.block0 p.warp0 x y).commitSide p.block1 p.warp1 y x)) ∧
  (∀ (s : State) (b wi : Nat) (mine theirs : Post) (a : Actx), s.actxAt b wi mine.slot = some a → mine.active &&& theirs.active ≠ 0#32 →
    s.commitSide b wi mine theirs = ((s.wr a mine.dst false (mine.active &&& theirs.active) (fun l => nth 0#32 theirs.vals l)).wrP a mine.pc
      mine.active fun l => (mine.active &&& theirs.active).getLsbD l).retire a) ∧
  (∀ (s : State) (b wi : Nat) (mine theirs : Post) (a : Actx), s.actxAt b wi mine.slot = some a → mine.active &&& theirs.active = 0#32 →
    s.commitSide b wi mine theirs = (s.wrP a mine.pc mine.active fun _ => false).retire a)

namespace Sys2Proof.Machine

/-- `w'` is `w` in the handler of the trap `t` taken by the path `p`, with the handler at `vec`: R305, R306 and R315. -/
structure Warp.Entered (w w' : Warp) (t : Trap) (p : Path) (vec : DWord) : Prop where
  code : w'.trapCause.extractLsb' 0 8 = t.code
  detail : w'.trapCause.extractLsb' 8 8 = t.detail
  slotBit : w'.trapCause.getLsbD 16 = decide (t.slot ≠ 0)
  skipBit : w'.trapCause.getLsbD 17 = t.skip
  pc : w'.trapPc = p.pc
  addr : w'.trapAddr = t.addr
  mask : w'.trapMask = p.mask
  frame : ∃ f, w'.frame = some f ∧ f.vregs = (w.vregs.drop 232).take 8 ∧ f.sregs = (w.sregs.drop 88).take 8 ∧
    f.latches = w.latches ∧ f.clause = p.clause
  lent : ∀ n l, 232 ≤ n → n < 240 → l < 32 → (w'.vreg n).lane l = KVal.plain 0#32
  own : ∀ n, n < 232 → w'.vreg n = w.vreg n
  rest : w'.sregs = w.sregs ∧ w'.preds = w.preds ∧ w'.shapes = w.shapes
  starts : ∃ q, w'.path t.slot = some q ∧ q.pc = vec ∧ q.mask = p.mask ∧ q.clause.left = 0 ∧ q.wait = .ready
  other : ∀ q, w'.path (1 - t.slot) = some q → q.held = true

/-- `t` holds the bytes that `s` holds, but for the trap save area of the warp, which the device fills (R306), where the
area lies in one 64 KiB page. -/
def State.SameButTrapArea (s t : State) (blk : Block) (w : Warp) : Prop :=
  s.trapArea blk w % 65536 + 4096 ≤ 65536 → ∀ pa, (∀ q, s.physOf blk.ctx (s.trapArea blk w) .write = .ok q → pa < q ∨ q + 4096 ≤ pa) →
    t.readByte pa = s.readByte pa

/-- The state in which a trap has been raised and waits to be entered. -/
def State.withTrap (s : State) (b wi : Nat) (t : Trap) : State :=
  ({ s with nextId := s.nextId + 1 }).updWarp b wi fun w => { w with trap := some t }

/-- The warp after TRET before paths at their rejoin points have arrived: the frame's registers, latches and clause state are
back, the warp has left its handler, and the path stands at TRAP_PC, or behind it (R309). -/
def Warp.backAt (w : Warp) (slot : Nat) (p : Path) (f : Frame) (now : Nat) (skip : Bool) : Warp :=
  let over_ : Bool := skip && w.trapCause.getLsbD 17
  ({ w with sregs := w.sregs.take 88 ++ f.sregs, latches := f.latches.map fun (l : Latch) => { l with valid := 0 } }.leaveHandler).setPath
    slot (some { p with
      pc := if over_ then w.trapPc + 8#64 else w.trapPc
      clause := if over_ then { f.clause with left := f.clause.left - 1 } else f.clause
      wait := if over_ then .ready else f.wait.resumed now })

/-- Every warp of a block has ended, or the block is gone. -/
def State.over? (t : State) (b : Nat) : Prop :=
  match t.block? b with
  | some blk => ∀ w ∈ blk.warps, w.ended = true
  | none => True

end Sys2Proof.Machine

/-- A trap is taken as R305 and R306 describe, and TRET returns from it. For a warp on a core, not in handler mode,
whose context has a handler: a precise trap of the path in a slot, with nothing of the warp in flight, no switch
under way and a register block to lend that no older entry waits for, is entered at once: TRAP_CAUSE, TRAP_PC,
TRAP_ADDR and TRAP_MASK name the trap, the frame holds V232-V239, S88-S95, the latch tags and the clause state,
V232-V239 read zero, every other register is the warp's own, the path with its full mask is at TRAP_VEC at a word
where a header is due, the other path is stopped, and no byte of memory outside the warp's trap save area has
changed. TRAP_ENTRY does the same for a trap that had to wait, and takes the oldest asynchronous trap of a warp at a
boundary: the chosen slot stops at once, what it waited for is withdrawn, and a sleep is recorded with the cycles
that remain. With no handler at TRAP_VEC, or in handler mode, a trap ends every warp of the block once no store of
it is in flight, and BLOCK_TERMINATE ends a block that waits for its stores. TRET outside handler mode, or with
active lanes other than TRAP_MASK, raises ILLEGAL with detail 0x0F. Otherwise, with nothing of the warp in flight
and no pending proxy, it leaves handler mode: V232-V239 hold what the frame holds, S88-S95 too, the latches are
invalid, the path goes on at TRAP_PC with its mask, its clause state restored, and the other path is no longer
stopped by the trap; while something is in flight it waits. TRET.SKIP does the same, and goes on at the word after
TRAP_PC when TRAP_CAUSE.SKIP is 1. A path that then stands at its rejoin point arrives there. No byte of memory has
changed. The model's choices in it: log entries 20 and 21. (05_control_flow.md, 16_traps_and_context.md, R64, R68,
R305, R306, R307, R308, R309, R315) -/
def Obligations.TrapEntryAndReturn : Prop :=
  ((∀ (s : State) (b wi slot core : Nat) (blk : Block) (w : Warp) (p : Path) (lends : Bool) (code detail : Nat) (addr : DWord)
      (skip : Bool), s.warp? b wi = some (blk, w) → w.path slot = some p → slot < 2 → blk.core? = some core →
    w.frame = none → w.trap = none → (s.ctx blk.ctx).trapVec ≠ 0#64 → s.drained b wi w = true → blk.switching = false →
    let t : Trap := { code := BitVec.ofNat 8 code, detail := BitVec.ofNat 8 detail, addr := addr, slot := slot, skip := skip
                      seq := s.nextId }
    let s0 := s.withTrap b wi t
    let s1 := s.raiseTrap b wi slot code detail addr skip
    s0.lendable core = some lends → s0.entriesBefore core t < s0.poolFree core + s0.reserveFree core →
    (∃ blk1 w1, s1.warp? b wi = some (blk1, w1) ∧ w.Entered w1 t p (s.ctx blk.ctx).trapVec) ∧ s.SameButTrapArea s1 blk w) ∧
  (∀ (s : State) (core : Nat) (blk : Block) (w : Warp) (p : Path) (lends : Bool) (t : Trap),
    s.warp? (s.arg 0) (s.arg 1) = some (blk, w) → w.trap = some t → w.path t.slot = some p → t.slot < 2 →
    blk.core? = some core → w.ended = false → s.drained (s.arg 0) (s.arg 1) w = true → (s.ctx blk.ctx).trapVec ≠ 0#64 →
    blk.switching = false → s.lendable core = some lends → s.entriesBefore core t < s.poolFree core + s.reserveFree core →
    ∃ t1 blk1 w1, exec .trapEntry s = .next t1 ∧ t1.warp? (s.arg 0) (s.arg 1) = some (blk1, w1) ∧
      w.Entered w1 t p (s.ctx blk.ctx).trapVec ∧ s.SameButTrapArea t1 blk w) ∧
  (∀ (s : State) (core slot : Nat) (blk : Block) (w : Warp) (p : Path) (x : AsyncTrap) (rest : List AsyncTrap),
    s.warp? (s.arg 0) (s.arg 1) = some (blk, w) → blk.core? = some core → w.ended = false → w.trap = none →
    w.async = x :: rest → w.asyncSlot = some slot → w.path slot = some p → w.frame = none → w.isParked = false →
    blk.stopping = false → blk.ending = none → s.blockHeld blk.id = false → blk.switching = false →
    s.csrwPends blk.id (s.arg 1) slot = false →
    let t : Trap := { code := x.code, detail := x.detail, addr := x.addr, slot := slot, skip := false, seq := s.nextId }
    ((s.ctx blk.ctx).trapVec ≠ 0#64 → exec .trapEntry s = .next ((({ s with nextId := s.nextId + 1 }).stopSlot (s.arg 0) (s.arg 1) slot
      (s.cycle (clusterOf core)) rest t).tryEnter (s.arg 0) (s.arg 1))) ∧
    ((s.ctx blk.ctx).trapVec = 0#64 →
      exec .trapEntry s = .next (s.terminate (s.arg 0) x.code.toNat x.detail.toNat p.pc x.addr))) ∧
  (∀ (s : State) (b wi slot now : Nat) (rest : List AsyncTrap) (t : Trap) (blk : Block) (w : Warp) (p : Path),
    s.warp? b wi = some (blk, w) → w.path slot = some p → slot < 2 →
    ∃ blk1 w1 q, (s.stopSlot b wi slot now rest t).warp? b wi = some (blk1, w1) ∧ w1.async = rest ∧ w1.trap = some t ∧
      w1.path slot = some q ∧ q.pc = p.pc ∧ q.mask = p.mask ∧ w1.sregs = w.sregs ∧ w1.vregs = w.vregs ∧ w1.preds = w.preds ∧
      (p.wait = .blocked → q.wait ≠ .blocked) ∧ ∀ u, p.wait = .sleep u → q.wait = .slept (u - now) none) ∧
  (∀ (s : State) (b wi slot : Nat) (blk : Block) (w : Warp) (p : Path) (code detail : Nat) (addr : DWord) (skip : Bool),
    s.warp? b wi = some (blk, w) → w.path slot = some p → w.trap = none → ((s.ctx blk.ctx).trapVec = 0#64 ∨ w.frame ≠ none) →
    blk.ending = none → (∀ o ∈ s.ops, o.block = b → o.kind.isStore = false) →
    (s.raiseTrap b wi slot code detail addr skip).over? b) ∧
  (∀ (s : State) (blk : Block), s.block? (s.arg 0) = some blk → blk.ending ≠ none →
    (∀ o ∈ s.ops, o.block = s.arg 0 → o.kind.isStore = false) →
    ∃ t, exec .blockTerminate s = .next t ∧ t.over? (s.arg 0))) ∧
  ((∀ (skip : Bool) (o : Opnds) (s : State) (a : Actx), s.Acts a o.gn o.g →
    let i : Instr := if skip then .tretSkip o else .tret o
    ((a.w.frame = none ∨ a.lanes o ≠ a.w.trapMask) → exec i s = .next (s.raise a Code.illegal 0x0F)) ∧
    (∀ f, a.w.frame = some f → a.lanes o = a.w.trapMask → (s.busy a.bid a.wi = true ∨ a.w.pending = true) → exec i s = .next s) ∧
    (∀ f, a.w.frame = some f → a.lanes o = a.w.trapMask → s.busy a.bid a.wi = false → a.w.pending = false →
      ∃ t : State, exec i s = .next t ∧
        t.warp? a.bid a.wi = some ({ a.blk with warps := setNth a.blk.warps a.wi (a.w.returned a.slot a.p f (s.cycle (clusterOf a.core)) skip) },
          a.w.returned a.slot a.p f (s.cycle (clusterOf a.core)) skip) ∧
        ∀ pa, t.readByte pa = s.readByte pa)) ∧
  (∀ (w : Warp) (slot : Nat) (p : Path) (f : Frame) (now : Nat) (skip : Bool), w.frame = some f → w.path slot = some p → slot < 2 →
    w.sregs.length = 96 → f.sregs.length = 8 → f.vregs.length = (w.vregs.drop 232).length → w.vregs.length = 8 * w.b → w.b ≤ 30 →
    let w0 := w.backAt slot p f now skip
    let w1 := w.returned slot p f now skip
    w1.frame = none ∧
    (∀ n l, n < 232 → l < 32 → (w1.vreg n).lane l = (w.vreg n).lane l) ∧
    (∀ n l, n < f.vregs.length → l < 32 → (w1.vreg (232 + n)).lane l = (nth VReg.zero f.vregs n).lane l) ∧
    (∀ n, w1.sreg n = if 88 ≤ n ∧ n < 96 then nth 0#32 f.sregs (n - 88) else w.sreg n) ∧
    w1.preds = w.preds ∧ (∀ x ∈ w1.latches, x.valid = 0) ∧
    (w0.dueAtRejoin 0 = none → w0.dueAtRejoin 1 = none → w1.path slot = w0.path slot ∧
      w1.path (1 - slot) = (w.path (1 - slot)).map fun (q : Path) => { q with held := false }) ∧
    (∀ j m, w0.dueAtRejoin 0 = some (j, m) → w1 = Warp.settle (2 * w0.stack.length + 3) (w0.arriveAt 0 j m)) ∧
    (∀ j m, w0.dueAtRejoin 0 = none → w0.dueAtRejoin 1 = some (j, m) →
      w1 = Warp.settle (2 * w0.stack.length + 3) (w0.arriveAt 1 j m))))

/-- CSRR reads each CSR, and CSRW writes the context CSRs that programs may write. CSRR writes Sd with the value of
the CSR it names: the trap registers of the warp, and those of its context; a read of ENG_ERR clears it with its
high word. CSRW and the write that clears PX_LOST bits block their slot until they complete; at OPERATION_COMPLETE
the context CSR holds the value, its reserved bits 0, and PX_LOST loses the bits written 1; no other context's CSRs
change. The model's choices in it: log entries 19 and 37. (16_traps_and_context.md, R177, R263, R313, R314, R316) -/
def Obligations.ControlRegisterInstructions : Prop :=
  (∀ (o : Opnds) (s : State) (a : Actx), s.Acts a o.gn o.g →
    let c := s.ctx a.blk.ctx
    let low (v : DWord) : Word := v.truncate 32
    let high (v : DWord) : Word := v.extractLsb' 32 32
    (∀ (n : Nat) (v : Word), (n, v) ∈ [(0x000, a.w.trapCause), (0x001, low a.w.trapPc), (0x002, high a.w.trapPc),
        (0x003, low a.w.trapAddr), (0x004, high a.w.trapAddr), (0x005, a.w.trapMask), (0x020, c.schedExp), (0x021, c.memExp),
        (0x022, c.circExp), (0x023, c.pxExp), (0x02C, c.ctxQerr),
        (0x011, match (s.core a.core).engErr with | none => 0#32 | some v => BitVec.ofNat 32 (v.toNat / 2 ^ 32 + 2 ^ 31)),
        (0x040, c.partWord), (0x041, c.pxQuota),
        (0x042, BitVec.ofNat 32 (s.circUsed a.blk.ctx % 2048 * 65536 + c.circLimit % 2048)),
        (0x043, low c.trapVec), (0x044, high c.trapVec), (0x045, c.trapLen), (0x046, low c.ptRoot), (0x047, high c.ptRoot),
        (0x048, low c.privBase), (0x049, high c.privBase), (0x04A, low c.pwBase), (0x04B, high c.pwBase),
        (0x04C, low c.qdBase), (0x04D, high c.qdBase), (0x04E, low c.saveBase), (0x04F, high c.saveBase),
        (0x050, low c.frBase), (0x051, high c.frBase), (0x052, c.frHead), (0x053, c.frTail),
        (0x05C, BitVec.ofNat 32 ((if c.live then 2 ^ 31 else 0) + (if s.ctxIdle a.blk.ctx then 2 else 0) + (if c.stop then 1 else 0))),
        (0x05D, c.privSize), (0x05E, c.saveSize),
        (0x080, BitVec.ofNat 32 (0x0009 * 2 ^ 16 + s.dev.step.toNat * 2 ^ 8 + s.dev.salv.toNat))] →
      o.imm16.toNat % 4096 = n → exec (.csrr o) s = .next ((s.wrSc a o.d.toNat v).retire a)) ∧
    (∀ k, k < 8 → (o.imm16.toNat % 4096 = 0x024 + k → exec (.csrr o) s = .next ((s.wrSc a o.d.toNat (nth 0#32 c.pxLost k)).retire a)) ∧
      (o.imm16.toNat % 4096 = 0x054 + k → exec (.csrr o) s = .next ((s.wrSc a o.d.toNat (nth 0#32 c.coreMask k)).retire a))) ∧
    (∀ v, (s.core a.core).engErr = some v →
      let s1 := s.wrSc a o.d.toNat (BitVec.ofNat 32 v.toNat)
      exec (.engErrRead o) s = .next ((s1.setCore a.core { s.core a.core with engErr := none }).retire a)) ∧
    ((s.core a.core).engErr = none → exec (.engErrRead o) s =
      .next (((s.wrSc a o.d.toNat 0#32).setCore a.core { s.core a.core with engErr := none }).retire a)) ∧
    (∀ i, i ∈ [Instr.csrw o, .pxLostClear o] →
      exec i s = .next (((s.loseIdemp a).pushOp a none none
        (.csrw a.slot (o.imm16.toNat % 4096) (s.scalar a o.a o.sa))).blockSlot a))) ∧
  (∀ (s : State) (op : Op) (slot num : Nat) (v : Word), s.op? (s.arg 0) = some op → op.kind = .csrw slot num v →
    op.ctx < s.ctxs.length → ∃ t : State, exec .operationComplete s = .next t ∧
      (∀ x, x ≠ op.ctx → t.ctx x = s.ctx x) ∧
      (num = 0x020 → (t.ctx op.ctx).schedExp = v &&& 0x001F1F01#32) ∧
      (num = 0x021 → (t.ctx op.ctx).memExp = v &&& 0x001FFF01#32) ∧
      (num = 0x022 → (t.ctx op.ctx).circExp = v &&& 0x0000FFFF#32) ∧
      (num = 0x023 → (t.ctx op.ctx).pxExp = v &&& 0x0000FFFF#32) ∧
      (num = 0x02C → (t.ctx op.ctx).ctxQerr = v &&& 0x80000FFF#32) ∧
      (∀ k, k < 8 → num = 0x024 + k → (s.ctx op.ctx).pxLost.length = 8 →
        nth 0#32 (t.ctx op.ctx).pxLost k = nth 0#32 (s.ctx op.ctx).pxLost k &&& ~~~v))

/-- A pre-empted, faulted or replayed block leaves its core and comes back. When nothing of a stopped block is in
flight, PREEMPT saves it for its resume list; IFAULT_SWAP_OUT does so for a block whose fetch met an absent page,
and BLOCK_REPLAY aborts an idempotent block that met one: the block is then on no core. A saved block keeps every
general register, scalar, predicate value and byte of scratchpad and accumulator; its flags are clear. BLOCK_RESTORE
places it on the core again with the registers it was saved with, and places an aborted one afresh. The model's
choices in it: log entries 21, 44, 65 and 79. (06_launch_and_residency.md, 16_traps_and_context.md, R98, R99, R310,
R311, R312) -/
def Obligations.BlocksLeaveAndReturn : Prop :=
  (∀ (s : State) (blk : Block) (core : Nat), s.block? (s.arg 0) = some blk → blk.core? = some core → blk.ending = none →
    blk.switches = [] → s.savable blk = true →
    let saved (t : State) (loc : Where) : Prop := ∃ b1 : Block, t.block? (s.arg 0) = some b1 ∧ b1.loc = loc ∧
      b1.warps.length = blk.warps.length ∧ b1.spad = blk.spad ∧ b1.acc = blk.acc ∧ b1.variant = blk.variant ∧
      ∀ i w, i < blk.warps.length → blk.warps[i]? = some w → ∃ w1, b1.warps[i]? = some w1 ∧ w1.sregs = w.sregs ∧
        w1.preds = w.preds ∧ w1.shapes = w.shapes ∧ w1.holds = w.holds ∧ w1.flags = List.replicate 12 0 ∧
        w1.vregs.map (·.lanes) = w.vregs.map (·.lanes) ∧
        (w1.path0.map fun (q : Path) => (q.pc, q.mask, q.join, q.clause)) =
          w.path0.map fun (q : Path) => (q.pc, q.mask, q.join, q.clause)
    (blk.stopping = true → s.blockHeld blk.id = false → ∃ t : State, exec .preempt s = .next t ∧ saved t .resume) ∧
    ((∃ f ∈ s.faultWaits, f.waiter = .swap blk.id) → ∃ t : State, exec .ifaultSwapOut s = .next t ∧ saved t .swapped)) ∧
  (∀ (s : State) (blk : Block) (core : Nat), s.block? (s.arg 0) = some blk → blk.core? = some core → blk.ending = none →
    (∃ f ∈ s.faultWaits, f.waiter = .replay blk.id) → ∃ (t : State) (b1 : Block), exec .blockReplay s = .next t ∧
      t.block? (s.arg 0) = some b1 ∧ b1.loc = .replay ∧ b1.warps = [] ∧ (∀ o ∈ t.ops, o.block ≠ s.arg 0)) ∧
  (∀ (s : State) (blk : Block), s.block? (s.arg 0) = some blk → s.mayRestore blk (s.arg 1) = true →
    (∀ place, blk.loc = .resume → s.fits (s.arg 1) blk.ctx (s.savedNeed blk) = some place →
      ∃ (t : State) (b1 : Block), exec .blockRestore s = .next t ∧ t.block? (s.arg 0) = some b1 ∧ b1.loc = .core (s.arg 1) ∧
        b1.spad = blk.spad ∧ b1.acc = blk.acc ∧
        b1.warps.map (fun w => (w.vregs, w.sregs, w.preds, w.flags)) = blk.warps.map fun w => (w.vregs, w.sregs, w.preds, w.flags)) ∧
    (∀ r k vi v place, blk.loc = .fresh → s.record? blk.record = some r → r.obj = some k →
      s.firstFit (s.arg 1) blk.ctx k = some (vi, v, place) →
      exec .blockRestore s = .next (s.placeAgain blk r k vi v (s.arg 1) place)))

/-- Page waits and fault records, and the life of a context. FAULT_RECORD_WRITE writes the oldest record held for a
context, whose ring has room, at the entry that FR_TAIL names, with SEQ the value of FR_TAIL, and advances FR_TAIL;
with a full ring, no ring or no record held nothing changes. FR_HEAD_WRITE sets FR_HEAD and marks the waits whose
records it has passed. FAULT_REWALK of a passed wait ends the wait when the walk succeeds, and the parked path may
issue again, and ends it with the reason when the access fails for another; while the page stays absent the wait
goes on, not passed, with a new record of kind 0 with its address and code, which is held behind those held before
it while the ring is full, and the first of which is written when it has room; before FR_HEAD has passed its record
nothing changes. On a device that is ready: CONTEXT_LOAD makes an idle context live with the window table at
PW_BASE, or with none when PW_BASE is 0; CONTEXT_STOP sets STOP and stops every block of the context on a core, and
CONTEXT_RESUME clears it; CONTEXT_KILL of a live, idle context returns its CSRs to their creation values and leaves
none of its blocks, records, proxies, cached translations and stitches; either is ignored while blocks are on cores.
HOST_TLB_INVALIDATE leaves no cached translation of the page in the context, and changes no byte but those of
page-table entries that hold accessed and dirty bits. The model's choices in it: log entries 17, 29 and 64.
(10_memory_access.md, 16_traps_and_context.md, 23_fabric_and_links.md, R186, R310, R318, R319, R321, R380) -/
def Obligations.FaultRecordsAndContexts : Prop :=
  ((∀ (s : State) (n : Nat) (r : FaultRec) (rest : List FaultRec), (s.ctx (s.arg 0)).ringLog = some n →
    (s.ctx (s.arg 0)).heldRecs = r :: rest → s.arg 0 < s.ctxs.length →
    ((s.ctx (s.arg 0)).frTail - (s.ctx (s.arg 0)).frHead).toNat < 2 ^ n →
    let c := s.ctx (s.arg 0)
    let cell := c.frBase.toNat - c.frBase.toNat % 4096 + 32 * (c.frTail.toNat % 2 ^ n)
    ∃ t : State, exec .faultRecordWrite s = .next t ∧ (t.ctx (s.arg 0)).frTail = c.frTail + 1#32 ∧
      (t.ctx (s.arg 0)).heldRecs = rest ∧ (∀ pa, t.readByte pa = (s.writeVirt (s.arg 0) cell (r.bytes (s.arg 0) c.frTail)).readByte pa) ∧
      (r.bytes (s.arg 0) c.frTail).length = 32 ∧ leNat ((r.bytes (s.arg 0) c.frTail).take 4) = c.frTail.toNat) ∧
  (∀ s : State, ((s.ctx (s.arg 0)).ringLog = none ∨ (s.ctx (s.arg 0)).heldRecs = []) → exec .faultRecordWrite s = .next s) ∧
  (∀ (s : State) (n : Nat), (s.ctx (s.arg 0)).ringLog = some n →
    2 ^ n ≤ ((s.ctx (s.arg 0)).frTail - (s.ctx (s.arg 0)).frHead).toNat → exec .faultRecordWrite s = .next s) ∧
  (∀ s : State, s.dev.ready = true → s.arg 0 < s.ctxs.length → ∃ t : State, exec .frHeadWrite s = .next t ∧
    (t.ctx (s.arg 0)).frHead = BitVec.ofNat 32 (s.arg 1) ∧ t.faultWaits.length = s.faultWaits.length ∧
    (∀ f ∈ t.faultWaits, f.passed = true → (∃ f' ∈ s.faultWaits, f'.id = f.id ∧ f'.passed = true) ∨
      (f.ctx = s.arg 0 ∧ ∃ n, f.seq = some n ∧ 0 < (BitVec.ofNat 32 (s.arg 1) - n).toInt)) ∧
    (∀ f ∈ s.faultWaits, ∀ n, f.ctx = s.arg 0 → f.seq = some n → 0 < (BitVec.ofNat 32 (s.arg 1) - n).toInt →
      { f with passed := true } ∈ t.faultWaits) ∧
    ∀ pa, t.readByte pa = s.readByte pa) ∧
  (∀ (s : State) (f : FaultWait), s.faultWaits.find? (fun x => x.id == s.arg 0) = some f →
    (f.passed = false → exec .faultRewalk s = .next s) ∧
    (f.passed = true → s.waiterAway f = true →
      (∀ pa, s.walk f.ctx f.va f.access = .ok pa → ∃ t : State, exec .faultRewalk s = .next t ∧ (∀ x ∈ t.faultWaits, x.id ≠ f.id) ∧
        ∀ b wi slot blk w p, f.waiter = .warp b wi slot → s.warp? b wi = some (blk, w) → slot < 2 → wi < blk.warps.length →
          w.path slot = some p → p.wait = .parked f.id →
          ∃ blk1 w1 q, t.warp? b wi = some (blk1, w1) ∧ w1.path slot = some q ∧ q.wait = .ready ∧ q.pc = p.pc) ∧
      (∀ d, d ≠ 0x01 → s.walk f.ctx f.va f.access = .error d → exec .faultRewalk s = .next (s.endFault f (some d))) ∧
      (s.walk f.ctx f.va f.access = .error 0x01 →
        let c := s.ctx f.ctx
        let r : FaultRec := { addr := BitVec.ofNat 64 f.va, pc := f.pc, core := f.core, kind := 0, detail := 1#8
                              code := BitVec.ofNat 8 f.code, wait := some f.id }
        let s1 : State := { s with faultWaits := s.faultWaits.map fun (x : FaultWait) =>
          if x.id = f.id then { x with seq := none, passed := false } else x }
        let held := s1.setCtx f.ctx { c with heldRecs := c.heldRecs ++ [r] }
        ∃ t : State, exec .faultRewalk s = .next t ∧ (∃ x ∈ t.faultWaits, x.id = f.id ∧ x.waiter = f.waiter ∧ x.passed = false) ∧
          (c.ringLog = none → t = s1) ∧
          ∀ n, c.ringLog = some n → f.ctx < s.ctxs.length →
            (2 ^ n ≤ (c.frTail - c.frHead).toNat → t = held) ∧
            (∀ h rest, (c.frTail - c.frHead).toNat < 2 ^ n → c.heldRecs ++ [r] = h :: rest →
              let cell := c.frBase.toNat - c.frBase.toNat % 4096 + 32 * (c.frTail.toNat % 2 ^ n)
              (t.ctx f.ctx).frTail = c.frTail + 1#32 ∧ (t.ctx f.ctx).heldRecs = rest ∧
              ∀ pa, t.readByte pa = (held.writeVirt f.ctx cell (h.bytes f.ctx c.frTail)).readByte pa))))) ∧
  (∀ s : State, s.dev.ready = true → s.arg 0 < s.ctxs.length →
    let ctx := s.arg 0
    (s.ctxIdle ctx = true → ∃ t : State, exec .contextLoad s = .next t ∧ (t.ctx ctx).live = true ∧
      ((s.ctx ctx).pwBase = 0#64 → (t.ctx ctx).windows = []) ∧
      ((s.ctx ctx).pwBase ≠ 0#64 → (t.ctx ctx).windows.length = 256) ∧ t.blocks = s.blocks ∧ ∀ x, x ≠ ctx → t.ctx x = s.ctx x) ∧
    (s.ctxIdle ctx = false → exec .contextLoad s = .next s ∧ exec .contextKill s = .next s) ∧
    (∃ t : State, exec .contextStop s = .next t ∧ (t.ctx ctx).stop = true ∧
      (∀ b ∈ t.blocks, b.ctx = ctx → b.core?.isSome = true → b.stopping = true) ∧
      (∀ b ∈ s.blocks, b.ctx ≠ ctx → b ∈ t.blocks)) ∧
    (∃ t : State, exec .contextResume s = .next t ∧ (t.ctx ctx).stop = false ∧ ∀ x, x ≠ ctx → t.ctx x = s.ctx x) ∧
    ((s.ctx ctx).live = true → s.ctxIdle ctx = true → ∃ t : State, exec .contextKill s = .next t ∧ t.ctx ctx = Ctx.created ∧
      (∀ b ∈ t.blocks, b.ctx ≠ ctx) ∧ (∀ r ∈ t.records, r.ctx ≠ ctx) ∧ (∀ e ∈ t.tlb, e.ctx ≠ ctx) ∧
      (∀ h ∈ t.homes, ∀ r ∈ h.runs, r.ctx ≠ ctx) ∧ (∀ x ∈ t.ring.pos, ∀ y, x.stitch = some y → y.ctx ≠ ctx) ∧
      (∀ w ∈ t.faultWaits, w.ctx ≠ ctx) ∧
      (∀ x, x ≠ ctx → t.ctx x = s.ctx x)) ∧
    (∃ t : State, exec .hostTlbInvalidate s = .next t ∧
      (∀ e ∈ t.tlb, e.ctx = ctx % 64 → ¬ (e.base ≤ s.arg 1 ∧ s.arg 1 < e.base + e.size)) ∧
      ∀ pa, (∀ e ∈ s.tlb, e.ctx = ctx % 64 → pa ≠ e.pte + 1) → t.readByte pa = s.readByte pa))

namespace Sys2Proof.Machine

/-- Only this request waits on the ring, at the stop of the core of argument 0, which passes the rank of position `p` and
has not made its pass of this tick; no release is due; the warp of the request is seen by `a`. -/
def State.AloneAtStop (s : State) (r : CircReq) (p : Nat) (a : Actx) : Prop :=
  s.ring.reqs = [r] ∧ s.ring.releases = [] ∧ r.core = s.arg 0 ∧ r.core < 256 ∧ p / 4 = s.rankAt r.core ∧
  s.ring.stopsDone.contains r.core = false ∧ s.ring.seamDone = false ∧ s.ring.pos.length = 1280 ∧
  s.actxAt r.block r.warp r.slot = some a ∧ a.slot < 2 ∧ a.w.sregs.length = 96

/-- The request of `AloneAtStop` names the live stitch `x` of its context at `p`, which no theft is due on and no core has
reserved. -/
def State.AtStitch (s : State) (r : CircReq) (p : Nat) (a : Actx) (x : Stitch) : Prop :=
  s.AloneAtStop r p a ∧ r.dst + 8 ≤ 96 ∧ bits r.handle 10 0 = p ∧ (s.ring.at p).stitch = some x ∧ x.ctx = r.ctx ∧
  (s.ring.at p).gen.toNat = bits r.handle 15 11 ∧ s.stolen x = false ∧ x.res = none

/-- The octet of scalar registers from `n` holds a payload. -/
def Warp.holdsOctet (w : Warp) (n : Nat) (vals : List Word) : Prop := ∀ i, i < 8 → w.sreg (n + i) = nth 0#32 vals i

end Sys2Proof.Machine

/-- A pass of a core's stop commits the request that names the position. For one waiting request whose position
passes its core's stop: PEEK reads the payload visible there; CAP of a stitch that is not held takes it, raises its
serial, adds the warp's record and reads the payload, and CAP by the warp that holds the stitch reads it; BIND of
one that is not held reads the payload and frees the position, whose generation goes up; WR by the warp that holds
the stitch replaces the payload, and releases it where the form says so, and WR by one that does not leaves it, each
marking the position for the core's stop; REL by that warp releases it; a claimed CAST occupies a free position with
its payload and answers its handle. A request whose handle names no live stitch takes CIRCFAULT with detail 0x01.
The model's choices in it: log entry 35. (12_queues_and_circular.md, R218, R219, R220, R223, R226, R231) -/
def Obligations.CircularPasses : Prop :=
  ∀ (s : State) (r : CircReq) (p : Nat) (a : Actx),
    (∀ x : Stitch, s.AtStitch r p a x →
      let rec? := a.w.holds.find? fun (h : HoldRec) => h.handle == r.handle
      (r.kind = .peek → ∃ (t : State) (b1 : Block) (w1 : Warp), exec .stopPass s = .next t ∧ t.warp? r.block r.warp = some (b1, w1) ∧
        w1.holdsOctet r.dst (if s.ring.marks.contains (r.core, p) then x.payload else x.visible) ∧
        (t.ring.at p).stitch = some x ∧ t.ring.reqs = []) ∧
      (r.kind = .cap → r.passed = false → x.hold = false → a.w.holds.length < 4 → rec? = none →
        ∃ (t : State) (b1 : Block) (w1 : Warp), exec .stopPass s = .next t ∧ t.warp? r.block r.warp = some (b1, w1) ∧
          w1.holdsOctet r.dst x.payload ∧ (t.ring.at p).stitch =
            some { x with hold := true, serial := x.serial + 1#32, captured := s.ring.tick / 320 } ∧
          w1.holds = a.w.holds ++ [{ handle := r.handle, serial := x.serial + 1#32 }] ∧
          (r.core, p) ∈ t.ring.marks ∧ t.ring.reqs = []) ∧
      (r.kind = .cap → r.passed = false → x.hold = true → (∃ h, rec? = some h ∧ h.serial = x.serial) →
        ∃ (t : State) (b1 : Block) (w1 : Warp), exec .stopPass s = .next t ∧ t.warp? r.block r.warp = some (b1, w1) ∧
          w1.holdsOctet r.dst x.payload ∧ (t.ring.at p).stitch = some x ∧ w1.holds = a.w.holds ∧
          (r.core, p) ∈ t.ring.marks ∧ t.ring.reqs = []) ∧
      (r.kind = .bind → r.passed = false → x.hold = false → rec? = none →
        ∃ (t : State) (b1 : Block) (w1 : Warp), exec .stopPass s = .next t ∧ t.warp? r.block r.warp = some (b1, w1) ∧
          w1.holdsOctet r.dst x.payload ∧ t.ring.at p = { gen := (s.ring.at p).gen + 1#5, stitch := none } ∧ t.ring.reqs = []) ∧
      (∀ rel vals pc, r.kind = .wr rel vals pc → pc < 8 →
        (x.hold = true → (∃ h, rec? = some h ∧ h.serial = x.serial) → ∃ t : State, exec .stopPass s = .next t ∧
          (t.ring.at p).stitch = some { x with payload := vals, hold := !rel } ∧ (r.core, p) ∈ t.ring.marks ∧ t.ring.reqs = []) ∧
        ((∀ h, rec? = some h → x.hold = true → h.serial ≠ x.serial) → ∃ t : State, exec .stopPass s = .next t ∧
          (t.ring.at p).stitch = some x ∧ (r.core, p) ∈ t.ring.marks ∧ t.ring.reqs = [])) ∧
      (∀ pc, r.kind = .rel pc → pc < 8 → x.hold = true → (∃ h, rec? = some h ∧ h.serial = x.serial) →
        ∃ (t : State) (b1 : Block) (w1 : Warp), exec .stopPass s = .next t ∧ t.warp? r.block r.warp = some (b1, w1) ∧
          (t.ring.at p).stitch = some { x with hold := false } ∧ (∀ h ∈ w1.holds, h.handle ≠ r.handle) ∧ t.ring.reqs = [])) ∧
    (∀ vals, s.AloneAtStop r p a → r.kind = .cast vals → r.claimed = true → (s.ring.at p).stitch = none → p % 4 = 0 →
      ∃ (t : State) (b1 : Block) (w1 : Warp), exec .stopPass s = .next t ∧ t.warp? r.block r.warp = some (b1, w1) ∧
        (t.ring.at p).stitch.map (fun y => (y.payload, y.ctx, y.hold)) = some (vals, r.ctx, false) ∧
        (r.dst < 96 → w1.sreg r.dst = BitVec.ofNat 32 (p + (s.ring.at p).gen.toNat * 2048)) ∧ t.ring.reqs = []) ∧
    (s.AloneAtStop r p a → r.isCast = false → bits r.handle 10 0 = p →
      ((s.ring.at p).stitch = none ∨ (s.ring.at p).gen.toNat ≠ bits r.handle 15 11) →
      (∀ y, (s.ring.at p).stitch = some y → s.stolen y = false ∧ y.res = none) →
      (∀ q, q / 4 = p / 4 → q ≠ p → (s.ring.at q).stitch = none) →
      let x := (({ s with ring := { s.ring with reqs := [] } } : State).withdraw r.block r.warp r.slot).raiseTrap
        r.block r.warp r.slot Code.circfault 0x01 0#64 true
      ∃ t : State, exec .stopPass s = .next t ∧ t.ring.reqs = [] ∧
        t.blocks = (if s.rankAt r.core = 0 then x.passTurns r.core else x).blocks)

/-- The CIRC instructions, claims, the seam, thefts and releases. With some active lane, CIRC.CAST records its
octet, and BIND, CAP, WR, REL and PEEK their handle, in a request that waits for its pass with the slot blocked; a
malformed handle raises CIRCFAULT with detail 0x02, and a CAP with four hold records in use CIRCFAULT with detail
0x03, where a record of the same handle counts while its hold stands (log entry 97). CIRC.TURN holds both slots for
two revolutions and goes on once they have begun. CAST_CLAIM serves the oldest waiting cast: it answers 0xFFFFFFFE
at the context's quota, 0xFFFFFFFF when 1,024 positions are occupied or claimed, and otherwise claims one; SEAM_PASS
makes the payloads of the rank at the seam the visible ones and clears their marks; HOLD_THEFT clears a hold that is
due and no other; WARP_END_RELEASE clears the hold that an ended warp's record names and keeps the payload. The
model's choices in it: log entries 35, 97 and 98. (12_queues_and_circular.md, R220, R222, R223, R225, R226, R228,
R230, R231, R233) -/
def Obligations.CircularInstructionsAndTime : Prop :=
  (∀ (o : Opnds) (s : State) (a : Actx), s.Acts a o.gn o.g →
    let m := a.lanes o
    let h := s.scalar a o.a o.sa
    let octet (v : BitVec 8) : List Word := (List.range 8).map fun i => s.scalar a (v + BitVec.ofNat 8 i) true
    let bad : Bool := bits h 31 16 != 0 || decide (1280 ≤ bits h 10 0)
    let stands : Prop := ∃ x, s.liveStitch a.blk.ctx h = some x ∧ a.w.holdsStitch h x = true ∧ s.stolen x = false
    exec (.circCast o) s = .next (s.circReq a m (.cast (octet o.a)) 0#32 o.d) ∧
    (∀ i, i ∈ [Instr.circBind o, .circCap o, .circWr o, .circRel o, .circPeek o] → bad = true →
      exec i s = .next (s.raise a Code.circfault 0x02)) ∧
    (bad = false → exec (.circBind o) s = .next (s.circReq a m .bind h o.d) ∧
      exec (.circWr o) s = .next (s.circReq a m (.wr (o.mod.getLsbD 0) (octet o.b) o.c.toNat) h 0#8) ∧
      exec (.circRel o) s = .next (s.circReq a m (.rel o.c.toNat) h 0#8) ∧
      exec (.circPeek o) s = .next (s.circReq a m .peek h o.d) ∧
      ((s.recordsUsed a h < 4) → exec (.circCap o) s = .next (s.circReq a m .cap h o.d)) ∧
      (4 ≤ s.recordsUsed a h → exec (.circCap o) s = .next (s.raise a Code.circfault 0x03)) ∧
      (stands → s.recordsUsed a h = a.w.holds.length) ∧
      (¬ stands → s.recordsUsed a h = (a.w.holds.filter fun (r : HoldRec) => r.handle != h).length)) ∧
    (a.w.turn = some 0 → exec (.circTurn o) s =
      .next ((s.updWarp a.bid a.wi fun w => { w with gate := none, turn := none }).retire a)) ∧
    (a.w.turn = none → exec (.circTurn o) s =
      .next ((s.loseIdemp a).updWarp a.bid a.wi fun w => { w with gate := some a.slot, turn := some 2 }))) ∧
  ((∀ (s : State) (r : CircReq), s.ring.reqs.find? (fun x => x.isCast && !x.claimed) = some r →
    let others := s.ring.reqs.filter fun x => x.id != r.id
    ((s.ctx r.ctx).circLimit ≤ s.circUsed r.ctx →
      exec .castClaim s = .next (({ s with ring := { s.ring with reqs := others } } : State).answer r.block r.warp r.slot r.dst 0xFFFFFFFE#32)) ∧
    (s.circUsed r.ctx < (s.ctx r.ctx).circLimit → 1024 ≤ s.circFull →
      exec .castClaim s = .next (({ s with ring := { s.ring with reqs := others } } : State).answer r.block r.warp r.slot r.dst 0xFFFFFFFF#32)) ∧
    (s.circUsed r.ctx < (s.ctx r.ctx).circLimit → s.circFull < 1024 → (s.ring.reqs.map (·.id)).Nodup →
      ∃ t : State, exec .castClaim s = .next t ∧ t.circUsed r.ctx = s.circUsed r.ctx + 1 ∧ t.circFull = s.circFull + 1)) ∧
  (∀ s : State, s.ring.seamDone = false → s.ring.stopsDone.contains 0 = true → ∃ t : State, exec .seamPass s = .next t ∧
    let k := s.ring.tick % 320
    t.ring.seamDone = true ∧ (∀ m ∈ t.ring.marks, m.2 / 4 ≠ k) ∧ (∀ m ∈ s.ring.marks, m.2 / 4 ≠ k → m ∈ t.ring.marks) ∧
    ∀ p, p < s.ring.pos.length → (t.ring.at p).stitch =
      if p / 4 = k then (s.ring.at p).stitch.map fun (y : Stitch) => { y with visible := y.payload } else (s.ring.at p).stitch) ∧
  (∀ (s : State) (x : Stitch), s.arg 0 < s.ring.pos.length → (s.ring.at (s.arg 0)).stitch = some x →
    let n := bits (s.ctx x.ctx).circExp 15 0
    (x.hold = true → n ≠ 0 → x.captured + n ≤ s.ring.tick / 320 → ∃ t : State, exec .holdTheft s = .next t ∧
      (t.ring.at (s.arg 0)).stitch = some { x with hold := false } ∧ ∀ p, p ≠ s.arg 0 → t.ring.at p = s.ring.at p) ∧
    ((n = 0 ∨ s.ring.tick / 320 < x.captured + n) → exec .holdTheft s = .next s)) ∧
  (∀ (s : State) (x : Stitch) (q : Release), s.arg 1 / 4 = s.rankAt (s.arg 0) → s.ring.stopsDone.contains (s.arg 0) = false →
    s.arg 1 < s.ring.pos.length → s.ring.releases = [q] → q.core = s.arg 0 → bits q.handle 10 0 = s.arg 1 →
    (s.ring.at (s.arg 1)).stitch = some x → x.ctx = q.ctx → (s.ring.at (s.arg 1)).gen.toNat = bits q.handle 15 11 →
    x.hold = true → x.serial = q.serial → ∃ t : State, exec .warpEndRelease s = .next t ∧ t.ring.releases = [] ∧
      (t.ring.at (s.arg 1)).stitch = some { x with hold := false }))

namespace Sys2Proof.Machine

/-- `v` is the largest number that satisfies a test, or the number given for when none does. -/
def LargestOr (ok : Nat → Prop) (none v : Nat) : Prop :=
  (ok v ∧ ∀ k, ok k → k ≤ v) ∨ ((∀ k, ¬ ok k) ∧ v = none)

/-- grant() of R237 for element width `w` on a die with the largest K `kmax`, as a relation. -/
structure Shape.GrantOf (x : Shape) (w kmax rm rn rk : Nat) : Prop where
  k : LargestOr (fun k => k % 16 = 0 ∧ 0 < k ∧ k ≤ kmax ∧ k ≤ rk) 16 x.gk.toNat
  m : LargestOr (fun m => (m = 16 ∨ m = 32 ∨ m = 64) ∧ m ≤ rm ∧ m * x.gk.toNat * w ≤ 65536) 16 x.gm.toNat
  n : LargestOr (fun n => n % 8 = 0 ∧ 0 < n ∧ n ≤ 128 ∧ n ≤ rn ∧ x.gk.toNat * n * w ≤ 65536) 8 x.gn.toNat
  tm : x.tm.toNat = if rm < 16 then rm else 0
  tn : x.tn.toNat = if rn < 8 then rn else 0
  tk : x.tk.toNat = if rk < 16 then rk else 0
  fits : x.gm.toNat * x.gk.toNat * w ≤ 65536 ∧ x.gk.toNat * x.gn.toNat * w ≤ 65536

/-- Word of a place of a block's accumulator: word `l` of line `x`. -/
def State.line (s : State) (b x l : Nat) : Word :=
  match s.block? b with
  | some blk => blk.accWord (32 * x + l)
  | none => 0#32

/-- place() of R240: the element with a number in a fragment from a register on, among listed registers. -/
def placedElem (regs : List VReg) (base idx width : Nat) : Nat :=
  let bit := idx * width
  (((nth VReg.zero regs (base + bit / 1024)).lane (bit / 32 % 32)).val.toNat >>> (bit % 32)) % 2 ^ width

/-- The two chains of R57 over the products of a dot product, in order. -/
def chainsOf (ps : List FVal) : FVal × FVal :=
  ps.zipIdx.foldl (fun (c : FVal × FVal) (p : FVal × Nat) =>
    if p.2 % 2 = 0 then (rn (c.1.add false p.1), c.2) else (c.1, rn (c.2.add false p.1))) (.fin false 0 0, .fin false 0 0)

/-- The two chains of R58 over the block sums t(j), the blocks that lie wholly at or beyond a depth left out (R250). -/
def blockChainsOf (sums : List (Nat × FVal)) : FVal × FVal :=
  sums.foldl (fun (c : FVal × FVal) (p : Nat × FVal) =>
    if p.1 % 2 = 0 then (rn (c.1.add false p.2), c.2) else (c.1, rn (c.2.add false p.2))) (.fin false 0 0, .fin false 0 0)

/-- The end of R57 and R58: the chains go into the accumulator. -/
def intoAcc (c : Word) (f : Word) (e : FVal × FVal) : Word :=
  let r := Rnd.ofBits (bits f 16 15)
  BitVec.ofNat 32 (FloatFmt.fp32.enc ((FloatFmt.fp32.val c.toNat).add (r == .rdn) (rn (e.1.add false e.2))) r false (f.getLsbD 14))

/-- The state in which an access to accumulator lines or scratchpad at issue finds them, behind its warp's earlier ones (R199,
R256). -/
def State.spadTurnOf (s : State) (a : Actx) : State := s.drainSpad a.bid a.wi s.nextId s.ops.length

end Sys2Proof.Machine

/-- SETSHAPE grants the shape of grant(). SETSHAPE from a request word, or from the codes of an immediate, with
every dimension above 0: the shape register is granted with its request, CHG 0 and the dimensions and tails that
grant() gives for the element width and the die, and Sd receives the shape word of the grant; each fragment fits in
64 registers. A request of 0 in a dimension leaves the register ungranted and Sd 0. (R237) -/
def Obligations.ShapesAreGranted : Prop :=
  ∀ (imm : Bool) (o : Opnds) (s : State) (a : Actx), s.Acts a o.gn o.g →
    let i : Instr := if imm then .setshapeImm o else .setshapeReg o
    let q := (s.scalar a o.a o.sa).toNat
    let rm := if imm then 16 * (o.imm16.toNat % 4 + 1) else q % 2 ^ 8
    let rn := if imm then 8 * (o.imm16.toNat / 4 % 16 + 1) else q / 2 ^ 8 % 2 ^ 8
    let rk := if imm then 16 * (o.imm16.toNat / 64 % 16 + 1) else q / 2 ^ 16 % 2 ^ 9
    let n := bits o.mod 5 3
    let w := match bits o.mod 2 0 with | 0 => 16 | 1 => 16 | 4 => 4 | _ => 8
    let kmax := if s.dev.salv.getLsbD (dieOf a.core) then 128 else 256
    ((rm = 0 ∨ rn = 0 ∨ rk = 0) → exec i s = .next (((s.updWarp a.bid a.wi fun (w : Warp) =>
      { w with shapes := setNth w.shapes n Shape.none }).wrSc a o.d.toNat 0#32).retire a)) ∧
    (rm ≠ 0 → rn ≠ 0 → rk ≠ 0 → ∃ x : Shape, x.GrantOf w kmax rm rn rk ∧ x.v = true ∧ x.chg = false ∧
      x.fmt.toNat = bits o.mod 2 0 ∧ x.reqM.toNat = rm ∧ x.reqN.toNat = rn ∧ x.reqK.toNat = rk ∧
      ∃ word : Word, word.extractLsb' 0 8 = x.gm.setWidth 8 ∧ word.extractLsb' 8 8 = x.gn ∧ word.extractLsb' 16 9 = x.gk ∧
        word.extractLsb' 25 3 = x.fmt ∧ word.extractLsb' 28 3 = 0#3 ∧ word.getLsbD 31 = true ∧
        exec i s = .next (((s.updWarp a.bid a.wi fun (w : Warp) =>
          { w with shapes := setNth w.shapes n x }).wrSc a o.d.toNat word).retire a))

/-- SETSHAPE.TAIL, GETSHAPE and the restore of a shape register. SETSHAPE.TAIL writes the tails of a granted
register, a tail that is not below its dimension as 0, and raises ILLCONV with detail 0x02 on an ungranted one.
GETSHAPE gives 0 for an ungranted register; .TAIL and .REQ give the tails and the request in the places of M, N and
K; .GRANT gives the grant with V and CHG, and clears CHG. A register restored on another die keeps its value where
the grant is the same; elsewhere it takes the new grant, with CHG set and the tails of grant() in the dimensions
that changed, and keeps its request. (13_shapes_and_matrix.md, R236, R238, R248, R249) -/
def Obligations.ShapesAreReadAndKept : Prop :=
  (∀ (o : Opnds) (s : State) (a : Actx), s.Acts a o.gn o.g →
    let n := bits o.mod 5 3
    let x := nth Shape.none a.w.shapes n
    let t := (s.scalar a o.a o.sa).toNat
    let put (y : Shape) : State := s.updWarp a.bid a.wi fun (w : Warp) => { w with shapes := setNth w.shapes n y }
    (x.v = false → exec (.setshapeTail o) s = .next (s.raise a Code.illconv 0x02) ∧
      exec (.getshape .tail o) s = .next ((s.wrSc a o.d.toNat 0#32).retire a) ∧
      exec (.getshape .req o) s = .next ((s.wrSc a o.d.toNat 0#32).retire a) ∧
      exec (.getshape .grant o) s = .next (((put { x with chg := false }).wrSc a o.d.toNat 0#32).retire a)) ∧
    (x.v = true →
      (∃ y : Shape, exec (.setshapeTail o) s = .next ((put y).retire a) ∧
        y = { x with tm := y.tm, tn := y.tn, tk := y.tk } ∧
        y.tm.toNat = (if t % 2 ^ 8 < x.gm.toNat then t % 2 ^ 8 else 0) ∧
        y.tn.toNat = (if t / 2 ^ 8 % 2 ^ 8 < x.gn.toNat then t / 2 ^ 8 % 2 ^ 8 else 0) ∧
        y.tk.toNat = (if t / 2 ^ 16 % 2 ^ 9 < x.gk.toNat then t / 2 ^ 16 % 2 ^ 9 else 0)) ∧
      exec (.getshape .tail o) s =
        .next ((s.wrSc a o.d.toNat (BitVec.ofNat 32 (x.tm.toNat + 2 ^ 8 * x.tn.toNat + 2 ^ 16 * x.tk.toNat))).retire a) ∧
      exec (.getshape .req o) s =
        .next ((s.wrSc a o.d.toNat (BitVec.ofNat 32 (x.reqM.toNat + 2 ^ 8 * x.reqN.toNat + 2 ^ 16 * x.reqK.toNat))).retire a) ∧
      exec (.getshape .grant o) s = .next (((put { x with chg := false }).wrSc a o.d.toNat
        (BitVec.ofNat 32 (x.gm.toNat + 2 ^ 8 * x.gn.toNat + 2 ^ 16 * x.gk.toNat + 2 ^ 25 * x.fmt.toNat +
          (if x.chg then 2 ^ 30 else 0) + 2 ^ 31))).retire a))) ∧
  (∀ (x : Shape) (salvaged : Bool), 0 < x.reqM.toNat → 0 < x.reqN.toNat → 0 < x.reqK.toNat → x.v = true →
    let y := x.regrant salvaged
    let w := match x.fmt.toNat with | 0 => 16 | 1 => 16 | 4 => 4 | _ => 8
    y.reqM = x.reqM ∧ y.reqN = x.reqN ∧ y.reqK = x.reqK ∧ y.fmt = x.fmt ∧ y.v = true ∧
    (x.GrantOf w (if salvaged then 128 else 256) x.reqM.toNat x.reqN.toNat x.reqK.toNat → y = x) ∧
    ((y.gm = x.gm ∧ y.gn = x.gn ∧ y.gk = x.gk → y = x)) ∧
    (¬ (y.gm = x.gm ∧ y.gn = x.gn ∧ y.gk = x.gk) → y.chg = true ∧
      LargestOr (fun k => k % 16 = 0 ∧ 0 < k ∧ k ≤ (if salvaged then 128 else 256) ∧ k ≤ x.reqK.toNat) 16 y.gk.toNat ∧
      LargestOr (fun m => (m = 16 ∨ m = 32 ∨ m = 64) ∧ m ≤ x.reqM.toNat ∧ m * y.gk.toNat * w ≤ 65536) 16 y.gm.toNat ∧
      LargestOr (fun n => n % 8 = 0 ∧ 0 < n ∧ n ≤ 128 ∧ n ≤ x.reqN.toNat ∧ y.gk.toNat * n * w ≤ 65536) 8 y.gn.toNat ∧
      y.tm.toNat = (if y.gm = x.gm then x.tm.toNat else if x.reqM.toNat < 16 then x.reqM.toNat else 0) ∧
      y.tn.toNat = (if y.gn = x.gn then x.tn.toNat else if x.reqN.toNat < 8 then x.reqN.toNat else 0) ∧
      y.tk.toNat = (if y.gk = x.gk then x.tk.toNat else if x.reqK.toNat < 16 then x.reqK.toNat else 0)))

/-- MMA and MMAS compute their tile and TILE_WRITE writes it. With all 32 lanes active, a granted shape register
with CHG 0, fragments and lines inside the warp's and the block's, no proxy and no result still to come, and equal,
valid format words, MMA and MMAS take their tile into flight with the registers they have read and go on. The tile
has one word for each row and column in use, at its place in the lines: for MMA with floating-point operands C plus
the dot product of R57, for its integer accumulations C plus the sum, over the depth in use, of the signed products
of the A and B elements, wrapped to 32 bits or in RX32, and for MMAS C plus the scaled dot product of R58. A missing
lane, an ungranted register, a register with CHG, a fragment or lines outside, unequal format words and an invalid
one raise their traps. TILE_WRITE, behind the warp's earlier accesses, writes the words of the tile over the lines
as they then stand and no other word of the accumulator. (13_shapes_and_matrix.md, R57, R58, R240, R241, R246, R250,
R251, R256) -/
def Obligations.MatrixTiles : Prop :=
  (∀ (scaled : Bool) (o : Opnds) (s : State) (a : Actx), s.Acts a o.gn o.g →
    let i : Instr := if scaled then .mmas o else .mma o
    let x := nth Shape.none a.w.shapes (bits o.mod 2 0)
    let f0 := s.val a o.srcC 0
    let bs := blockSize f0
    let lines := upDiv (x.gm.toNat * x.gn.toNat) 32
    let base := 4 * (bits o.mod 5 3 * 256 + o.d.toNat)
    let regs := matRegs o scaled x bs
    let inside : Bool := a.w.hasRun o.a.toNat (x.ra + (if scaled then x.rsa bs else 0))
      && a.w.hasRun o.b.toNat (x.rb + (if scaled then x.rsb bs else 0))
    (a.lanes o ≠ BitVec.allOnes 32 → exec i s = .next (s.raise a Code.illconv 0x01)) ∧
    (a.lanes o = BitVec.allOnes 32 →
      (x.v = false → exec i s = .next (s.raise a Code.illconv 0x02)) ∧
      (x.v = true → x.chg = true → exec i s = .next (s.raise a Code.shchg (bits o.mod 2 0))) ∧
      (x.v = true → x.chg = false → inside = false → exec i s = .next (s.raise a Code.illconv 0x05)) ∧
      (x.v = true → x.chg = false → inside = true → s.accLines a.blk < base + lines → exec i s = .next (s.raise a Code.illconv 0x03)) ∧
      (x.v = true → x.chg = false → inside = true → base + lines ≤ s.accLines a.blk →
        s.pmatHolds a.bid a.wi regs = false → s.tileHolds a.bid a.wi base lines = false →
        ((s.anyPx a (a.lanes o) [o.srcC] = true ∨ ∃ r ∈ regs, ∃ k ∈ (a.w.vreg r).lanes, k.px = true) →
          exec i s = .next (s.raise a Code.pxuse 0x01)) ∧
        (s.anyPx a (a.lanes o) [o.srcC] = false → (∀ r ∈ regs, ∀ k ∈ (a.w.vreg r).lanes, k.px = false) →
          (∀ l, l < 32 → (∀ k, k < l → s.val a o.srcC k = f0) → s.val a o.srcC l ≠ f0 → exec i s = .next (s.raise a Code.fmtdiv l)) ∧
          ((∀ l, l < 32 → s.val a o.srcC l = f0) → formatOk scaled x.fmt.toNat f0 = false →
            exec i s = .next (s.raise a Code.illconv 0x04)) ∧
          ((∀ l, l < 32 → s.val a o.srcC l = f0) → formatOk scaled x.fmt.toNat f0 = true →
            exec i s = .next ((s.pushOp a none none (.tile o scaled x f0 ((List.range 240).map a.w.vreg))).retire a)))))) ∧
  (∀ (b : Block) (o : Opnds) (scaled : Bool) (x : Shape) (f : Word) (regs : List VReg),
    let base := 4 * (bits o.mod 5 3 * 256 + o.d.toNat)
    let bs := if bits f 13 12 = 1 then 16 else 32
    let rows := if x.tm = 0#7 then x.gm.toNat else x.tm.toNat
    let cols := if x.tn = 0#8 then x.gn.toNat else x.tn.toNat
    let dep := if x.tk = 0#9 then x.gk.toNat else x.tk.toNat
    let gk := x.gk.toNat
    let nb := upDiv gk bs
    let wd := match x.fmt.toNat with | 0 => 16 | 1 => 16 | 4 => 4 | _ => 8
    let elA (r k : Nat) : Nat := if k < dep then placedElem regs o.a.toNat (r * gk + k) wd else 0
    let elB (c k : Nat) : Nat := if k < dep then placedElem regs o.b.toNat (c * gk + k) wd else 0
    let fval (r c k : Nat) : FVal := (matVal (bits f 3 0) (elA r k)).mul (matVal (bits f 7 4) (elB c k))
    let isum (r c : Nat) : Int := ((List.range gk).map fun k => sextInt (elA r k) 8 * sextInt (elB c k) 8).sum
    let scale (v r j : Nat) : FVal := e8m0Val (placedElem regs v (r * nb + j) 8)
    let block (r c j : Nat) : FVal := rn ((((((List.range gk).drop (j * bs)).take bs).foldl
      (fun (acc : FVal) k => acc.add false (fval r c k)) (.fin false 0 0)).mul (scale (o.a.toNat + x.ra) r j)).mul (scale (o.b.toNat + x.rb) c j))
    let ws := b.tile o scaled x f regs
    ws.length = rows * cols ∧ ∀ r c, r < rows → c < cols → ∃ v, (32 * base + r * x.gn.toNat + c, v) ∈ ws ∧
      let was := b.accWord (32 * base + r * x.gn.toNat + c)
      (scaled = false → bits f 9 8 = 0 → v = intoAcc was f (chainsOf ((List.range gk).map (fval r c)))) ∧
      (scaled = false → bits f 9 8 = 1 → v = was + BitVec.ofInt 32 (isum r c)) ∧
      (scaled = false → bits f 9 8 = 2 → v = BitVec.ofNat 32 (rxenc (rxdec was.toNat + isum r c))) ∧
      (scaled = true → v = intoAcc was f (blockChainsOf (((List.range nb).filter fun j => decide (j * bs < dep)).map fun j =>
        (j, block r c j))))) ∧
  (∀ (s : State) (op q : Op) (o : Opnds) (scaled : Bool) (x : Shape) (f : Word) (regs : List VReg) (blk : Block),
    s.op? (s.arg 0) = some op → op.kind = .tile o scaled x f regs → s.oldestSpad op.block op.warp = some q →
    (∀ ls, q.kind = .pmats ls → exec .tileWrite s = .next s) ∧
    (q = op → (∀ y ∈ s.ops, y ≠ op → y.block = op.block → y.warp = op.warp → y.kind.onSpad = true → op.id < y.id) →
      s.ops.Nodup → s.block? op.block = some blk → blk.ending = none → blk.warps.any (fun w => !w.ended) = true →
      let ws := blk.tile o scaled x f regs
      (ws.map (·.1)).Nodup → cellWf 0#32 blk.acc = true →
      ∃ t : State, exec .tileWrite s = .next t ∧ (∀ y ∈ t.ops, y.id ≠ op.id) ∧ (∀ pa, t.readByte pa = s.readByte pa) ∧
        ∀ n l, l < 32 → (∀ v, (32 * n + l, v) ∈ ws → t.line op.block n l = v) ∧
          ((∀ v, (32 * n + l, v) ∉ ws) → t.line op.block n l = s.line op.block n l)))

/-- ACCZ, ACCST and ACCLD, and FRAGLD. On lines of the block that no tile is still to write, behind the warp's
earlier accesses to lines and scratchpad: ACCZ sets its D + 1 lines to 0; ACCST writes its active lanes to words of
its lines, ACCST.SP stores its lines to scratchpad as one image of 128 bytes each; every other word keeps its value.
ACCLD brings the lines' words to the active lanes of its registers, ACCLD.DEC their RX32 values and ACCLD.TSCALE
their products with Sb and Sc. Lines beyond the block's raise ILLCONV with detail 0x03 in each of them. With all 32
lanes active, a granted shape register with CHG 0, registers inside the warp's, an aligned offset and pitch and rows
inside the scratchpad, FRAGLD, behind the warp's earlier accesses to scratchpad, takes the words of the fragment's
registers into flight: a word of an 8-bit fragment holds four elements of a row, each read at offset + row × pitch +
column, and 0 beyond the rows and columns in use. A missing lane, an ungranted register, registers beyond the
warp's, a register with CHG, a misaligned offset or pitch and a row beyond the scratchpad raise ILLCONV with detail
0x01, 0x02 and 0x05, SHCHG, MISALIGN and DFAULT with detail 0x07. The model's choices in it: log entries 3, 15, 104,
107 and 108. (13_shapes_and_matrix.md, R59, R238, R240, R241, R246, R252, R253, R254, R255, R256) -/
def Obligations.AccumulatorAndFragments : Prop :=
  (∀ (o : Opnds) (s q : State) (a : Actx) (b : Block), s.Acts a o.gn o.g → q = s.spadTurnOf a → q.oldestSpad a.bid a.wi = none →
    q.block? a.bid = some b → cellWf 0#32 b.acc = true →
    let m := a.lanes o
    let n := bits o.mod 2 0 + 1
    let lo := o.imm16.toNat
    let at_ := (s.scalar a o.a o.sa).toNat
    let plain : Prop := ∀ i l, i < n → m.getLsbD l = true → (s.accSource a o i l).px = false
    let placed : Prop := at_ % 4 = 0 ∧ at_ + 128 * n ≤ s.spadSize a.blk
    let fits (x n : Nat) : Prop := x + n ≤ s.accLines a.blk ∧ s.tileHolds a.bid a.wi x n = false
    let read (x : Nat) : State := q.noteAcc (MemTag.warp a.bid a.wi a.core q.nextId) a.bid
      ((List.range n).flatMap fun i => (lanesOf m).map fun l => 32 * (x + i) + l) []
    let load (x : Nat) (f : Word → Word) : List RegWrite := if o.d = 0xF3#8 then [] else (
      (List.range n).flatMap fun i => (lanesOf m).map fun l => .lane (o.d.toNat + i) l (f (q.line a.bid (x + i) l)))
    (s.accLines a.blk < lo + (o.d.toNat + 1) → exec (.accz o) s = .next (s.raise a Code.illconv 0x03)) ∧
    (s.accLines a.blk < lo + n → plain → exec (.accst o) s = .next (s.raise a Code.illconv 0x03)) ∧
    (s.accLines a.blk < lo + n → a.flagFull o.fs = false →
      exec (.accld o) s = .next (s.raise a Code.illconv 0x03) ∧ exec (.accldDec o) s = .next (s.raise a Code.illconv 0x03) ∧
      (placed → exec (.accstSp o) s = .next (s.raise a Code.illconv 0x03))) ∧
    (s.accLines a.blk < at_ + n → a.flagFull o.fs = false → exec (.accldTscale o) s = .next (s.raise a Code.illconv 0x03)) ∧
    (fits lo (o.d.toNat + 1) → ∃ t : State, exec (.accz o) s = .next (t.retire a) ∧
      { t with blocks := q.blocks, log := q.log, nextId := q.nextId } = q ∧
      ∀ x l, l < 32 → t.line a.bid x l = if lo ≤ x ∧ x ≤ lo + o.d.toNat then 0#32 else q.line a.bid x l) ∧
    (fits lo n → plain →
      ∃ t : State, exec (.accst o) s = .next (t.retire a) ∧
        { t with blocks := q.blocks, log := q.log, nextId := q.nextId } = q ∧
        ∀ x l, l < 32 → t.line a.bid x l =
          if lo ≤ x ∧ x < lo + n ∧ m.getLsbD l = true then (s.accSource a o (x - lo) l).val else q.line a.bid x l) ∧
    (fits lo n → a.flagFull o.fs = false → placed → cellWf 0#8 b.spad = true →
      ∃ t : State, exec (.accstSp o) s = .next ((t.startOp a o (.done [])).retire a) ∧
        (∀ x, leNat (t.spadRead a.bid (at_ + 4 * x) 4) = if x < 32 * n then (q.line a.bid (lo + x / 32) (x % 32)).toNat
          else leNat (q.spadRead a.bid (at_ + 4 * x) 4)) ∧
        ∀ x, x < at_ → t.spadRead a.bid x 1 = q.spadRead a.bid x 1) ∧
    (fits lo n → a.flagFull o.fs = false →
      exec (.accld o) s = .next (((read lo).startOp a o (.done (load lo id))).retire a) ∧
      exec (.accldDec o) s = .next (((read lo).startOp a o (.done (load lo fun v => BitVec.ofInt 32 (rxdec v.toNat)))).retire a)) ∧
    (fits at_ n → a.flagFull o.fs = false → exec (.accldTscale o) s = .next (((read at_).startOp a o (.done (load at_ fun v =>
      BitVec.ofNat 32 (FloatFmt.fp32.enc (((FloatFmt.fp32.val v.toNat).mul (FloatFmt.fp32.val (s.scalar a o.b o.sb).toNat)).mul
        (FloatFmt.fp32.val (s.scalar a o.c o.sc).toNat)) .rne false false)))).retire a))) ∧
  (∀ (part : FragPart) (o : Opnds) (s q : State) (a : Actx), s.Acts a o.gn o.g → a.flagFull o.fs = false →
    q = s.spadTurnOf a → q.oldestSpad a.bid a.wi = none →
    let n := bits o.mod 5 3
    let x := nth Shape.none a.w.shapes n
    let bs := if o.mod.getLsbD 0 then 16 else 32
    let off := (s.scalar a o.a o.sa).toNat
    let pitch := (s.scalar a o.b o.sb).toNat
    let dims := fragDims part x bs
    let regs := fragRegs part x bs
    let rowEnd (r : Nat) : Nat := off + r * pitch + upDiv (dims.2.2.2.1 * dims.2.2.2.2) 8
    (a.lanes o ≠ BitVec.allOnes 32 → exec (.fragld part o) s = .next (s.raise a Code.illconv 0x01)) ∧
    (a.lanes o = BitVec.allOnes 32 → x.v = false → exec (.fragld part o) s = .next (s.raise a Code.illconv 0x02)) ∧
    (a.lanes o = BitVec.allOnes 32 → x.v = true → x.chg = true → exec (.fragld part o) s = .next (s.raise a Code.shchg n)) ∧
    (a.lanes o = BitVec.allOnes 32 → x.v = true → x.chg = false → o.d ≠ 0xF3#8 → a.w.hasRun o.d.toNat regs = false →
      exec (.fragld part o) s = .next (s.raise a Code.illconv 0x05)) ∧
    (a.lanes o = BitVec.allOnes 32 → x.v = true → x.chg = false → (o.d = 0xF3#8 ∨ a.w.hasRun o.d.toNat regs = true) →
      s.pmatHolds a.bid a.wi (runOf o.d.toNat regs) = false →
      (off % 4 ≠ 0 → exec (.fragld part o) s = .next (s.raiseAt a Code.misalign 0 (BitVec.ofNat 64 off))) ∧
      (off % 4 = 0 → pitch % 4 ≠ 0 → exec (.fragld part o) s = .next (s.raiseAt a Code.misalign 0 (BitVec.ofNat 64 pitch))) ∧
      (∀ r, off % 4 = 0 → pitch % 4 = 0 → r < dims.2.2.1 → (∀ k, k < r → rowEnd k ≤ s.spadSize a.blk) → s.spadSize a.blk < rowEnd r →
        exec (.fragld part o) s = .next (s.raiseAt a Code.dfault 0x07 (BitVec.ofNat 64 (off + r * pitch)))) ∧
      (off % 4 = 0 → pitch % 4 = 0 → (∀ r, r < dims.2.2.1 → rowEnd r ≤ s.spadSize a.blk) →
        ∃ ws : List RegWrite, exec (.fragld part o) s = .next (((q.noteSpad (MemTag.warp a.bid a.wi a.core q.nextId) a.bid
            (distinct (fragBytes dims off pitch)) []).startOp a o (.done ws)).retire a) ∧
          (o.d = 0xF3#8 → ws = []) ∧
          (o.d ≠ 0xF3#8 → ws.length = 32 * regs ∧ ∀ k l, k < regs → l < 32 →
            ∃ v : Word, RegWrite.lane (o.d.toNat + k) l v ∈ ws ∧ (dims.2.2.2.2 = 8 → ∀ e, e < 4 →
              let idx := (32 * k + l) * 4 + e
              let row := idx / dims.2.1
              let col := idx % dims.2.1
              v.extractLsb' (8 * e) 8 = if row < dims.1 ∧ row < dims.2.2.1 ∧ col < dims.2.2.2.1 then
                BitVec.ofNat 8 (leNat (q.spadRead a.bid (off + row * pitch + col) 1)) else 0#8)))))

namespace Sys2Proof.Machine

/-- `w` is the pending handle of a run of the context at a home, whose value is not formed. -/
def State.newRun (t : State) (ctx home ext : Nat) (w : Word) : Prop :=
  pxHome w = home ∧ pxExt w = ext ∧ pxPend w = true ∧
  ∃ r ∈ (t.home home).runs, r.slot = pxSlot w ∧ r.ext = ext ∧ r.ctx = ctx ∧ r.formed = false

/-- A request of a core waits at a home. -/
def State.asks (t : State) (core home : Nat) (k : PxKind) : Prop :=
  ∃ q ∈ t.pxReqs, q.kind = k ∧ q.home = home ∧ q.core = core ∧ q.served = false

/-- The stores of the homes have the sizes of R258 and R260, and the core's chunks lie in them. -/
def State.storesOk (s : State) (core : Nat) : Prop :=
  s.homes.length ≤ 256 ∧ ∀ k ∈ (s.core core).chunks, k.base + 8 ≤ 2 ^ 15

/-- A capable instruction: the constructor, its sources, where its result goes and the function that a home would form
(R115, R133, R278, R279). -/
structure CapableForm where
  i : Instr
  xs : List Src
  dst : PxDst
  fn : HomeFn

/-- The capable instructions that form a result; MOV and SEL move a handle instead. -/
def capableForms (h cmp : BitVec 3) (op : PredOp) (o : Opnds) : List CapableForm :=
  let ab : List Src := [o.srcA, o.srcB]
  let abc : List Src := [o.srcA, o.srcB, o.srcC]
  let ai : List Src := [o.srcA, o.immS]
  let az : List Src := [o.srcA, o.immZ]
  let af : List Src := [o.srcA, .imm (o.imm16 ++ 0#16)]
  let d : PxDst := .reg o.d o.sd
  let p : PxDst := .pred o.d.toNat
  let u := o.mod.getLsbD 0
  let sat := o.mod.getLsbD 1
  let test : HomeFn := .itest (o.mod.extractLsb' 1 3) u
  let lut : HomeFn := .blut (h ++ o.mod.extractLsb' 0 5)
  [⟨.iaddReg o, ab, d, .iadd sat u⟩, ⟨.iaddImm o, ai, d, .iadd sat u⟩, ⟨.isubReg o, ab, d, .isub sat u⟩, ⟨.isubImm o, ai, d, .isub sat u⟩,
   ⟨.imulReg o, ab, d, .imul⟩, ⟨.imulImm o, ai, d, .imul⟩, ⟨.imad o, abc, d, .imad⟩,
   ⟨.iminReg o, ab, d, .imin u⟩, ⟨.iminImm o, ai, d, .imin u⟩, ⟨.imaxReg o, ab, d, .imax u⟩, ⟨.imaxImm o, ai, d, .imax u⟩,
   ⟨.itestReg o, ab, p, test⟩, ⟨.itestImm o, ai, p, test⟩, ⟨.blutReg h o, abc, d, lut⟩, ⟨.blutImm h o, az, d, lut⟩,
   ⟨.shlReg o, ab, d, .shl⟩, ⟨.shlImm o, az, d, .shl⟩, ⟨.shrReg o, ab, d, .shr u⟩, ⟨.shrImm o, az, d, .shr u⟩]
  ++ [⟨.faddReg o, ab, d, .fadd o.mod⟩, ⟨.faddImm o, af, d, .fadd o.mod⟩, ⟨.fmulReg o, ab, d, .fmul o.mod⟩,
   ⟨.fmulImm o, af, d, .fmul o.mod⟩, ⟨.ffma o, abc, d, .ffma o.mod⟩, ⟨.fminReg o, ab, d, .fmin o.mod⟩, ⟨.fminImm o, af, d, .fmin o.mod⟩,
   ⟨.fmaxReg o, ab, d, .fmax o.mod⟩, ⟨.fmaxImm o, af, d, .fmax o.mod⟩, ⟨.fsetpReg cmp o, ab, p, .fsetp cmp o.mod⟩,
   ⟨.fsetpImm cmp o, af, p, .fsetp cmp o.mod⟩, ⟨.cvt o, [o.srcA], d, .cvt o.imm16 o.mod⟩,
   ⟨.pred op o, [o.srcA], d, .pred op u⟩, ⟨.pdot o, abc, d, .pdot 0 o.mod⟩]

/-- A destination that keeps a handle in the warp of the acting slot: a vector register of it, or one of P0 to P6. -/
def PxDst.keeps (w : Warp) : PxDst → Prop
  | .reg d sd => sd = false ∧ d ≠ 0xF3#8 ∧ w.takes d false
  | .pred n => n < 7 ∧ n < w.preds.length

/-- A lane of a destination holds a handle. -/
def Warp.hasHandle (w : Warp) (l : Nat) (h : Word) : PxDst → Prop
  | .reg d _ => (w.vreg d.toNat).lane l = { val := h, px := true }
  | .pred n => w.pred n l = { val := false, px := some h }

/-- A lane of a destination holds a plain result. -/
def Warp.hasPlain (w : Warp) (l : Nat) (v : Word) : PxDst → Prop
  | .reg d _ => (w.vreg d.toNat).lane l = KVal.plain v
  | .pred n => w.pred n l = { val := v != 0#32, px := none }

/-- The word of a source at an index of an extent: a source of one word is broadcast (R264). -/
def sourceWord (srcs : List (List Word)) (k i : Nat) : Word :=
  let ws := nth [] srcs k
  if ws.length ≤ 1 then nth 0#32 ws 0 else nth 0#32 ws i

/-- The fixed tree over 2^e words (R153, R279). -/
def fixedTree (f : Word → Word → Word) : Nat → (Nat → Word) → Word
  | 0, g => g 0
  | e + 1, g => f (fixedTree f e g) (fixedTree f e fun i => g (i + 2 ^ e))

/-- The floating-point format of a proxy format (R259). -/
def homeFloat (fmt : Nat) : FloatFmt :=
  match fmt with | 0 => .fp32 | 1 => .fp16 | 2 => .bf16 | 3 => .e4m3 | 4 => .e5m2 | _ => .e2m1

/-- Element k of a run whose words hold c elements of width w: element k mod c of word k / c (R278). -/
def runElem (w c : Nat) (ws : List Word) (k : Nat) : Nat := (nth 0#32 ws (k / c)).toNat / 2 ^ (w * (k % c)) % 2 ^ w

end Sys2Proof.Machine

/-- PLD makes a proxy of the words at each address. PLD with no proxy among its address operands: an address that is
not a multiple of 4 or whose words leave their granule raises MISALIGN, and one outside the address space DFAULT
with detail 0x03; with aligned addresses whose pages translate, outside windows and lost homes, and enough reserved
slots, each active lane of D holds the pending handle of a run at the home of its channel, lanes with one address
one run, and each home is asked for its snapshot. The model's choices in it: log entries 22, 25 and 104.
(14_proxies.md, R258, R261, R271, R274) -/
def Obligations.ProxyLoads : Prop :=
  ∀ (imm : Bool) (fmt : BitVec 3) (o : Opnds) (s : State) (a : Actx), s.Acts a o.gn o.g →
    let i : Instr := if imm then .pldImm fmt o else .pldReg fmt o
    let m := a.lanes o
    let words : Nat := 2 ^ bits o.mod 5 3
    let n : Int := 4 * (words : Int)
    let x := s.accessAddr a o imm (o.mod.getLsbD 2)
    let crosses (y : Int) : Prop := y % 4 ≠ 0 ∨ y / 4096 ≠ (y + n - 1) / 4096
    let outside (y : Int) : Prop := y < 0 ∨ 2 ^ 57 < y + n
    (s.anyPx a m (addrSrcs o imm (o.mod.getLsbD 2)) = true → exec i s = .next (s.raise a Code.pxuse 0x01)) ∧
    (s.anyPx a m (addrSrcs o imm (o.mod.getLsbD 2)) = false →
      (∀ l, l < 32 → m.getLsbD l = true → crosses (x l) → (∀ k, k < l → m.getLsbD k = true → ¬ crosses (x k)) →
        exec i s = .next (s.raiseAt a Code.misalign 0 (BitVec.ofInt 64 (x l)))) ∧
      ((∀ l, l < 32 → m.getLsbD l = true → ¬ crosses (x l)) →
        (∀ l, l < 32 → m.getLsbD l = true → outside (x l) → (∀ k, k < l → m.getLsbD k = true → ¬ outside (x k)) →
          exec i s = .next (s.raiseAt a Code.dfault 0x03 (BitVec.ofInt 64 (x l)))) ∧
        (∀ (pas : List Nat) (s1 : State), (∀ l, l < 32 → m.getLsbD l = true → ¬ outside (x l)) →
          s.translateList a.core a.blk.ctx .read ((lanesOf m).map fun l => (x l).toNat) = (.ok pas, s1) →
          (∀ pa ∈ pas, inWindow pa = false ∧ (s1.ctx a.blk.ctx).lost (channelOf pa) = false ∧ channelOf pa < s1.homes.length) →
          s1.storesOk a.core → o.d ≠ 0xF3#8 → a.w.takes o.d false →
          (∃ r, s1.takeRuns a.core a.blk.ctx ((distinct pas).map fun pa =>
            (channelOf pa, bits o.mod 5 3, (pas.filter (· == pa)).length)) = .ok r) →
          ∃ (t : State) (b1 : Block) (w1 : Warp), exec i s = .next t ∧ t.warp? a.bid a.wi = some (b1, w1) ∧
            ∃ handle : Nat → Word, ∀ l pa, (l, pa) ∈ (lanesOf m).zip pas →
              (w1.vreg o.d.toNat).lane l = { val := handle pa, px := true } ∧ pxFmt (handle pa) = fmt.toNat ∧
              t.newRun a.blk.ctx (channelOf pa) (bits o.mod 5 3) (handle pa) ∧
              ∃ g, t.asks a.core (channelOf pa) (.snapshot pa words (pxSlot (handle pa)) g))))

/-- Capable instructions form their results at the homes of their proxy sources, and MOV and SEL move handles. IADD,
ISUB, IMUL, IMAD, IMIN, IMAX, ITEST, BLUT, SHL, SHR, FADD, FMUL, FFMA, FMIN, FMAX, FSETP, CVT and PRED, in register
and immediate form, and PDOT with sources that its checks accept, in lanes with a proxy source whose proxies lie at
one home that is not lost, whose extents do not clash, and with enough reserved slots: each such lane of the
destination holds a pending handle of a run at that home, of the sources' extent, or of one word for ITEST, FSETP,
PDOT and PRED, and the home is asked to form it by the instruction's function of the lane's sources; a lane without
a proxy source holds the plain result. Unequal extents above 0, and for ITEST and FSETP any extent above 0, raise
PXUSE with detail 0x03, a lost home PXLOST with its number, and P7 discards. Without any proxy source in an active
lane the result is the plain one. SEL too raises PXUSE with detail 0x03 for proxies of unequal extents above 0 among
its sources, whichever it selects (log entry 96). MOV and SEL of a handle that is not lost leave it in D with one
reference more for each lane; a lane beyond a count of 255 receives a pending run of its own, which the home is
asked to copy. The model's choices in it: log entries 22 and 96. (14_proxies.md, R115, R122, R127, R133, R264, R265,
R269, R271, R278, R279) -/
def Obligations.ProxyResultsFormAtHomes : Prop :=
  (∀ (h cmp : BitVec 3) (op : PredOp) (o : Opnds) (s : State) (a : Actx), ∀ f ∈ capableForms h cmp op o,
    s.Acts a o.gn o.g →
    let m := a.lanes o
    let ks (l : Nat) : List KVal := f.xs.map fun x => s.src a x l
    let v (l n : Nat) : Word := s.operand a f.xs l n
    let px (l : Nat) : Prop := proxiesOf (ks l) ≠ []
    let one : Bool := f.fn.reduces || f.fn.compares
    let ext (l : Nat) : Nat := if one then 0 else resultExt (proxiesOf (ks l))
    let first (l : Nat) : Word := nth 0#32 (proxiesOf (ks l)) 0
    let clash (l : Nat) : Prop := extClash (proxiesOf (ks l)) = true ∨ (f.fn.compares = true ∧ ∃ w ∈ proxiesOf (ks l), pxExt w ≠ 0)
    let lost (w : Word) : Bool := (s.ctx a.blk.ctx).lost (pxHome w)
    let pl := (lanesOf m).filter fun l => !(proxiesOf (ks l)).isEmpty
    (f.i ≠ .pdot o → (∀ l, l < 32 → m.getLsbD l = true → ¬ px l) →
      exec f.i s = .next ((s.writePx a f.dst m (fun _ => false) (fun _ => 0#32) fun l => f.fn.word (v l 0) (v l 1) (v l 2)).retire a)) ∧
    ((f.i = .pdot o → pdotDetail ((lanesOf m).map fun l => (s.src a o.srcA l, s.src a o.srcB l, s.src a o.srcC l)) = none) →
      ((∃ l, l < 32 ∧ m.getLsbD l = true ∧ clash l) → exec f.i s = .next (s.raise a Code.pxuse 0x03)) ∧
      ((∀ l, l < 32 → m.getLsbD l = true → ¬ clash l) → (∃ l, l < 32 ∧ m.getLsbD l = true ∧ px l) →
        (f.dst = .pred 7 → exec f.i s = .next (s.retire a)) ∧
        (f.dst ≠ .pred 7 → ∀ l, l < 32 → m.getLsbD l = true → px l → lost (first l) = true →
          (∀ k, k < l → m.getLsbD k = true → ∀ w ∈ proxiesOf (ks k), lost w = false) →
          exec f.i s = .next (s.raise a Code.pxlost (pxHome (first l)))) ∧
        ((∀ l ∈ pl, ∀ w ∈ proxiesOf (ks l), lost w = false ∧ pxHome w = pxHome (first l) ∧ pxHome w < s.homes.length) →
          s.storesOk a.core → f.dst.keeps a.w →
          (∃ r, s.takeRuns a.core a.blk.ctx ((distinct (pl.map fun l => s.groupOf a f.fn (ks l))).map fun g =>
            (g.home, g.ext, (pl.filter fun l => s.groupOf a f.fn (ks l) = g).length)) = .ok r) →
          ∃ (t : State) (b1 : Block) (w1 : Warp), exec f.i s = .next t ∧ t.warp? a.bid a.wi = some (b1, w1) ∧
            (∀ l, l < 32 → m.getLsbD l = true → ¬ px l →
              w1.hasPlain l (f.fn.word (v l 0) (v l 1) (v l 2)) f.dst) ∧
            ∀ l ∈ pl, ∃ w : Word, w1.hasHandle l w f.dst ∧ pxFmt w = resultFmt (f.fn.of (first l)) (first l) ∧
              t.newRun a.blk.ctx (pxHome (first l)) (ext l) w ∧
              t.asks a.core (pxHome (first l)) (.operate (f.fn.of (first l)) ((ks l).map fun k =>
                if k.px then .run (pxHome k.val) (pxSlot k.val) (pxExt k.val) else .plain k.val) (pxSlot w) (ext l)))))) ∧
  (∀ (o : Opnds) (s : State) (a : Actx) (i : Instr) (pick : Nat → KVal), s.Acts a o.gn o.g → o.sd = false → o.d ≠ 0xF3#8 →
    a.w.takes o.d false → s.storesOk a.core →
    let p (l : Nat) : PredLane := a.w.pred (bits o.mod 2 0) l
    let clear (b : Src) : Prop := ∀ l, (a.lanes o).getLsbD l = true → extClash (proxiesOf [s.src a o.srcA l, s.src a b l]) = false
    (i = .mov o ∧ pick = (s.src a o.srcA) ∨
      (a.plainPreds o [bits o.mod 2 0] ∧ (i = .selReg o ∧ clear o.srcB ∧
          pick = (fun l => s.src a (if (p l).val = o.mod.getLsbD 3 then o.srcA else o.srcB) l) ∨
        i = .selImm o ∧ clear o.immS ∧ pick = (fun l => s.src a (if (p l).val = o.mod.getLsbD 3 then o.srcA else o.immS) l)))) →
    let m := a.lanes o
    let moved := (lanesOf m).filter fun l => (pick l).px && !(s.ctx a.blk.ctx).lost (pxHome (pick l).val)
    let ws : List (Nat × Word) := moved.map fun l => (l, (pick l).val)
    let beyond := s.overCount ws
    (∀ l ∈ moved, pxHome (pick l).val < s.homes.length) →
    (∃ r, s.takeRuns a.core a.blk.ctx (beyond.map fun x => (pxHome x.2, pxExt x.2, 1)) = .ok r) →
    ∃ (t : State) (b1 : Block) (w1 : Warp), exec i s = .next t ∧ t.warp? a.bid a.wi = some (b1, w1) ∧
      (∀ l, l < 32 → m.getLsbD l = true → (∀ w, (l, w) ∉ beyond) → (w1.vreg o.d.toNat).lane l = pick l) ∧
      (∀ l w, (l, w) ∈ beyond → ∃ h : Word, (w1.vreg o.d.toNat).lane l = { val := h, px := true } ∧ pxFmt h = pxFmt w ∧
        t.newRun a.blk.ctx (pxHome w) (pxExt w) h ∧ t.asks a.core (pxHome w) (.dup (pxSlot w) (pxSlot h) (pxExt w))) ∧
      (∀ home slot q, home < s.homes.length → (s.home home).live? slot = some q → q.refs + 32 ≤ 255 →
        (∀ l, m.getLsbD l = true → let k := (a.w.vreg o.d.toNat).lane l
          k.px = true → ¬ (pxHome k.val = home ∧ pxSlot k.val = slot)) →
        let n := (moved.filter fun l => pxHome (pick l).val == home && pxSlot (pick l).val == slot).length
        (t.home home).live? slot = some { q with count := q.count + n, refs := q.refs + n })) ∧
  (∀ (o : Opnds) (s : State) (a : Actx) (i : Instr) (b : Src), (i, b) ∈ [(Instr.selReg o, o.srcB), (.selImm o, o.immS)] →
    s.Acts a o.gn o.g → a.plainPreds o [bits o.mod 2 0] →
    (∃ l, (a.lanes o).getLsbD l = true ∧ extClash (proxiesOf [s.src a o.srcA l, s.src a b l]) = true) →
    exec i s = .next (s.raise a Code.pxuse 0x03))

/-- PMAT, PMAT.S, PFREE and PQRY. PMAT over plain words copies them; with proxies of one word at homes that are not
lost it asks each home for its lane and goes on; a longer proxy raises PXUSE with detail 0x03, a lost home PXLOST.
PMAT.S with aligned offsets and room, behind the warp's earlier accesses to scratchpad, writes its plain lanes to
scratchpad and no other byte, asks the homes for the others, is in flight with those lanes, and is counted on its
flag: nothing else of the machine changes; it raises MISALIGN and DFAULT with detail 0x07. PFREE leaves the word 0
in the active lanes of the register it names, and PFREE.P false in the predicate. PQRY gives 0 for a plain word, and
else the handle with state 1, 2 or 3: formed, lost or pending. The model's choices in it: log entries 15, 23, 25 and
104. (14_proxies.md, R267, R271, R275, R276, R277, R280) -/
def Obligations.ProxyInstructions : Prop :=
  ∀ (o : Opnds) (s : State) (a : Actx), s.Acts a o.gn o.g →
    let m := a.lanes o
    let ls := lanesOf m
    let x (l : Nat) : KVal := s.rd a o.a o.sa l
    let y (l : Nat) : KVal := s.rd a o.b o.sb l
    let lost (k : KVal) : Bool := k.px && (s.ctx a.blk.ctx).lost (pxHome k.val)
    let state (h : Word) (lost : Bool) : Word := BitVec.ofNat 32 (h.toNat - h.toNat % 4 + (if lost then 2 else if pxPend h then 3 else 1))
    ((∀ l ∈ ls, (x l).px = false) → exec (.pmat o) s = .next ((s.wr a o.d false m fun l => (x l).val).retire a)) ∧
    ((∃ l ∈ ls, (x l).px = true ∧ pxExt (x l).val ≠ 0) → exec (.pmat o) s = .next (s.raise a Code.pxuse 0x03)) ∧
    ((∀ l ∈ ls, (x l).px = true → pxExt (x l).val = 0) →
      (∀ l ∈ ls, lost (x l) = true → (∀ k ∈ ls, k < l → lost (x k) = false) → exec (.pmat o) s = .next (s.raise a Code.pxlost (pxHome (x l).val))) ∧
      ((∀ l ∈ ls, lost (x l) = false) → (∃ l ∈ ls, (x l).px = true) → o.d ≠ 0xF3#8 →
        ∃ u : State, exec (.pmat o) s = .next (u.retire a) ∧ u.ops.length = s.ops.length + 1 ∧ u.blocks = s.blocks ∧
          ∀ l ∈ ls, (x l).px = true → ∃ id, u.asks a.core (pxHome (x l).val) (.mat id l))) ∧
    (∀ (q : State) (b : Block), a.flagFull o.fs = false → s.anyPx a m [o.srcA] = false → q = s.spadTurnOf a → q.oldestSpad a.bid a.wi = none →
      q.block? a.bid = some b → cellWf 0#8 b.spad = true →
      let size (l : Nat) : Nat := if (y l).px then 4 * 2 ^ pxExt (y l).val else 4
      let off (l : Nat) : Nat := (x l).val.toNat
      (∀ l ∈ ls, off l % 4 ≠ 0 → (∀ k ∈ ls, k < l → off k % 4 = 0) →
        exec (.pmatS o) s = .next (s.raiseAt a Code.misalign 0 (BitVec.ofNat 64 (off l)))) ∧
      ((∀ l ∈ ls, off l % 4 = 0) →
        (∀ l ∈ ls, s.spadSize a.blk < off l + size l → (∀ k ∈ ls, k < l → off k + size k ≤ s.spadSize a.blk) →
          exec (.pmatS o) s = .next (s.raiseAt a Code.dfault 0x07 (BitVec.ofNat 64 (off l)))) ∧
        ((∀ l ∈ ls, off l + size l ≤ s.spadSize a.blk) → (∀ l ∈ ls, lost (y l) = false) →
          ∃ (s1 u : State) (lanes : List MatLane), exec (.pmatS o) s = .next (u.retire a) ∧
            u = (s1.startOp a o (.pmats lanes)).askLanes a q.nextId lanes ∧ { s1 with blocks := q.blocks, log := q.log } = q ∧
            (∀ n blk, q.block? n = some blk → ∃ z, s1.block? n = some z ∧ { z with spad := blk.spad, qspoiled := blk.qspoiled } = blk) ∧
            lanes.map (fun (z : MatLane) => (z.lane, z.home, z.slot, z.ext)) = (ls.filter fun l => (y l).px).map (fun l =>
              (l, pxHome (y l).val, pxSlot (y l).val, pxExt (y l).val)) ∧
            (∀ l ∈ ls, (y l).px = true → ∃ id, u.asks a.core (pxHome (y l).val) (.mat id l)) ∧
            (∀ l ∈ ls, (y l).px = false → (∀ k ∈ ls, k > l → off k + size k ≤ off l ∨ off l + 4 ≤ off k) →
              leNat (u.spadRead a.bid (off l) 4) = (y l).val.toNat) ∧
            (∀ z, (∀ l ∈ ls, z < off l ∨ off l + size l ≤ z) → u.spadRead a.bid z 1 = q.spadRead a.bid z 1)))) ∧
    (∀ n, a.w.resolve o.a o.sa = (n, false) → n < 0xF0 → exec (.pfree o) s = .next ((s.wrVec a n m fun _ => KVal.plain 0#32).retire a)) ∧
    exec (.pfreeP o) s = .next ((s.wrP a o.a.toNat m fun _ => false).retire a) ∧
    exec (.pqry o) s = .next ((s.wr a o.d o.sd m fun l => if (x l).px then state (x l).val (lost (x l)) else 0#32).retire a) ∧
    exec (.pqryP o) s = .next ((s.wr a o.d o.sd m fun l => match (a.w.pred o.a.toNat l).px with
      | some h => state h ((s.ctx a.blk.ctx).lost (pxHome h))
      | none => 0#32).retire a)

/-- The work of proxy homes, and their chunks of slots. When a request is the first of its core left at its home and
its channel serves it: PLD_SNAPSHOT forms the run with the words of its bytes at a time that the age allows, once no
earlier access of the warp to them is left; PROXY_OPERATION forms a result run by its function of its sources'
words, or a second run with the words of the first, or reads the words of a materialisation or the word of a
crossing; a served request has replied. Word i of a result is the function of word i of each source, a source of one
word broadcast; PRED combines the words by the fixed tree; PDOT gives the dot product with C. PROXY_DROP takes one
reference from the run, which is free with the last, and an ended block leaves with its last drop. PROXY_COMPLETION,
when the reply has come, clears PEND in every lane and predicate of the warp that holds the handle and no other
value, none where a later request has been given the slot, or brings a materialised lane, with the last of which
PMAT writes its register; before, it changes nothing. PROXY_COPY reads a formed run at its home and, when its flits
have come, forms a temporary run in free slots of the result's home, within the quota; with no room it waits, and
refuses when the wait of PX_EXP is over. When its answer has come, a refusal raises PXEXH, and with the last
confirmation the slot issues again. PROXY_CROSSING with one bit left brings it to the waiting branch. CHUNK_REQUEST
asks the home and starts its wait. At CHUNK_GRANT the home answers: one chunk with a free group of 8 slots within
the quota is granted; with none even after every unused reservation is taken back, it refuses when the wait is over,
with detail 0x02 at the quota and 0x01 else. When the answer has come, the core holds the chunks and the slot issues
again, or PXEXH is raised. CHUNK_RETURN gives back a chunk unused for 4,096 cycles, or one without live runs when
the reservation holds more than 16, and no other. The model's choices in it: log entries 7, 15, 24 and 26.
(14_proxies.md, R74, R261, R262, R263, R264, R266, R267, R269, R274, R278, R279) -/
def Obligations.ProxyHomes : Prop :=
  ((∀ (s : State) (r : PxReq), s.pxReq? (s.arg 0) = some r → r.home < s.homes.length → r.home < s.chans.length →
    let formed (t : State) (slot : Nat) (ws : List Word) : Prop :=
      (∀ i, i < ws.length → cellGet 0#32 (t.home r.home).words (16 * slot + i) = nth 0#32 ws i) ∧
      (∀ x, (t.home r.home).run? slot = some x → x.formed = true) ∧ (∃ q ∈ t.pxReqs, q.id = r.id ∧ q.served = true)
    let words (h sl e : Nat) : List Word := (List.range (2 ^ e)).map fun i => cellGet 0#32 (s.home h).words (16 * sl + i)
    let mine (h sl : Nat) : Prop := ∃ q, (s.home h).run? sl = some q ∧ q.ctx = r.ctx
    let q := MemTag.warp r.block r.warp r.core r.id
    let time := (s.readTime q none r.kind.bytes (s.memTime - s.arg 1)).getD s.memTime
    (∀ pa n slot g, r.kind = .snapshot pa n slot g → r.served = false → s.firstAt r r.home = true → s.proxyServes r = true →
      s.earlierTouch r.id r.block r.warp r.kind.bytes true = false → cellWf 0#32 (s.home r.home).words = true →
      ∃ t : State, exec .pldSnapshot s = .next t ∧
        formed t slot ((List.range n).map fun i => BitVec.ofNat 32 (leNat (((s.readAt q r.kind.bytes time).1.drop (4 * i)).take 4)))) ∧
    (r.served = false → s.firstAt r r.home = true → s.proxyServes r = true →
      (∀ fn srcs slot ext, r.kind = .operate fn srcs slot ext → pdotUneven fn srcs = false → cellWf 0#32 (s.home r.home).words = true →
        (∀ x ∈ srcs, ∀ h sl e, x = .run h sl e → mine h sl) →
        ∃ t : State, exec .proxyOperation s = .next t ∧ formed t slot (fn.run (2 ^ ext) (srcs.map fun x => match x with
          | .plain v => [v]
          | .run h sl e => words h sl e))) ∧
      (∀ src slot ext, r.kind = .dup src slot ext → cellWf 0#32 (s.home r.home).words = true → mine r.home src →
        ∃ t : State, exec .proxyOperation s = .next t ∧ formed t slot (words r.home src ext)) ∧
      (∀ op lane h sl e, r.kind = .mat op lane → s.matRun op lane = some (h, sl, e) → mine h sl →
        exec .proxyOperation s = .next (s.answered r (words h sl e))) ∧
      (∀ slot lane, r.kind = .cross slot lane → mine r.home slot →
        exec .proxyOperation s = .next (s.answered r (words r.home slot 0)))) ∧
    (∀ ws, (s.answered r ws).blocks = s.blocks ∧ (s.answered r ws).homes = s.homes ∧
      (s.answered r ws).pxReqs = s.pxReqs.map fun (x : PxReq) => if x.id = r.id then { r with served := true, data := ws } else x) ∧
    (∀ slot x, r.kind = .drop slot → s.firstAt r r.home = true → (s.home r.home).run? slot = some x → x.ctx = r.ctx →
      ∃ t : State, exec .proxyDrop s = .next (t.reap r.block) ∧ { t with pxReqs := s.pxReqs, homes := s.homes } = s ∧
        t.pxReqs = s.pxReqs.filter (fun q => q.id != r.id) ∧ (∀ h, h ≠ r.home → t.home h = s.home h) ∧
        (x.count ≤ 1 → (t.home r.home).runs = (s.home r.home).runs.erase x) ∧
        (1 < x.count → (t.home r.home).run? slot = some { x with count := x.count - 1, refs := min x.refs (x.count - 1) })) ∧
    (s.replyDue r = false → (r.kind.target.isSome = true ∨ ∃ op lane, r.kind = .mat op lane) → exec .proxyCompletion s = .next s) ∧
    (∀ slot, r.kind.target = some slot → s.replyDue r = true → s.groupServed r = true → s.superseded r slot = true →
      exec .proxyCompletion s = .next (s.endReq r.id)) ∧
    (∀ slot, r.kind.target = some slot → s.replyDue r = true → s.groupServed r = true → s.superseded r slot = false →
      exec .proxyCompletion s = .next ((s.updWarp r.block r.warp (Warp.unpend r.home slot)).endReq r.id)) ∧
    (∀ id lane op reg lanes got x, r.kind = .mat id lane → s.replyDue r = true → s.op? id = some op → op.kind = .pmat reg lanes got →
      lanes.find? (fun y => y.lane == lane) = some x →
      let t := (s.drainSpad op.block op.warp (op.id - 1) s.ops.length).endReq r.id
      let all := got ++ [(lane, if r.lost then 0#32 else nth 0#32 r.data 0)]
      let rest := lanes.filter fun y => y.lane != lane
      exec .proxyCompletion s =
        .next (if rest = [] then (t.applyReg op.core op.block op.warp reg all).finishOp op else t.setOp op.id (.pmat reg rest all))) ∧
    (∀ home sl slot0 ext, r.kind = .copy home sl slot0 ext → r.served = false → s.proxyServes r = true →
      (∀ x, r.data = [] → s.firstAt r home = true → (s.home home).live? sl = some x → x.formed = true → mine home sl →
        exec .proxyCopy s = .next (((s.setPxReq { r with data := words home sl ext }).retireMicro home).copyFlit home r.home r.id (flitCount (words home sl ext).length))) ∧
      (r.data ≠ [] → s.copyPassed r = true →
        let back := s.reclaim r.home
        let room (u : State) (slot : Nat) : Prop := u.quotaFits r.ctx r.home (runSlots ext) = true ∧
          u.freeGroup r.home (runSlots ext) (32768 / runSlots ext) 0 = some slot
        (∀ slot, room s slot → cellWf 0#32 (s.home r.home).words = true → ∃ t : State, exec .proxyCopy s = .next t ∧
          formed t slot r.data ∧ ∃ x ∈ (t.home r.home).runs, x.slot = slot ∧ x.temp = true ∧ x.ctx = r.ctx) ∧
        ((∀ slot, ¬ room s slot ∧ ¬ room back slot) →
          (r.since = none → exec .proxyCopy s = .next (back.setPxReq { r with since := some s.ns })) ∧
          (∀ t0, r.since = some t0 → back.waitedOut r.ctx t0 = false → exec .proxyCopy s = .next back) ∧
          (∀ t0, r.since = some t0 → back.waitedOut r.ctx t0 = true → exec .proxyCopy s =
            .next ((back.setPxReq { r with served := true, lost := true, data := [BitVec.ofNat 32 (back.refusal r.ctx r.home (runSlots ext))] }).replyFlit
              r.home r.core r.id))))) ∧
    (∀ home sl slot0 ext, r.kind = .copy home sl slot0 ext → r.served = true →
      (s.flitSent (replyWave r.home r.core) r.id = false → exec .proxyCopy s = .next s) ∧
      (s.flitSent (replyWave r.home r.core) r.id = true →
        (r.lost = true → exec .proxyCopy s = .next ((s.withdraw r.block r.warp r.pathSlot).raiseTrap r.block r.warp r.pathSlot Code.pxexh
          (nth 0#32 r.data 0).toNat 0#64 true)) ∧
        (r.lost = false → s.awaitsCopies r = false →
          (s.chunkReqs.any fun c => c.block == r.block && c.warp == r.warp && c.slot == r.pathSlot) = false →
          exec .proxyCopy s = .next (s.wake r.block r.warp r.pathSlot)) ∧
        (r.lost = false → s.awaitsCopies r = true → exec .proxyCopy s = .next s)))) ∧
  (∀ (w : Warp) (home slot : Nat),
    let u := w.unpend home slot
    let clear (h : Word) : Word := if pxHome h = home ∧ pxSlot h = slot then h &&& 0xFFFFFFFD#32 else h
    let same (k k' : KVal) : Prop := k' = if k.px = true then { k with val := clear k.val } else k
    { u with vregs := w.vregs, lent := w.lent, frame := w.frame, preds := w.preds } = w ∧
    (∀ n l, same ((w.vreg n).lane l) ((u.vreg n).lane l) ∧ same ((nth VReg.zero w.lent n).lane l) ((nth VReg.zero u.lent n).lane l) ∧
      u.pred n l = { w.pred n l with px := (w.pred n l).px.map clear }) ∧
    (w.frame = none → u.frame = none) ∧
    ∀ f, w.frame = some f → ∃ g, u.frame = some g ∧ { g with vregs := f.vregs } = f ∧
      ∀ n l, same ((nth VReg.zero f.vregs n).lane l) ((nth VReg.zero g.vregs n).lane l)) ∧
  (∀ (fn : HomeFn) (n : Nat) (srcs : List (List Word)), fn.reduces = false → (fn.run n srcs).length = n ∧
    ∀ i, i < n → nth 0#32 (fn.run n srcs) i = fn.word (sourceWord srcs 0 i) (sourceWord srcs 1 i) (sourceWord srcs 2 i)) ∧
  (∀ (op : PredOp) (u : Bool) (e n : Nat) (ws : List Word), e ≤ 7 → ws.length = 2 ^ e →
    (HomeFn.pred op u).run n [ws] = [fixedTree (predFn op u) e fun i => nth 0#32 ws i]) ∧
  (∀ (m : BitVec 6) (ws us : List Word) (c : Word) (n fmt : Nat), ws.length = us.length →
    let isum (signed : Bool) : Int := ((List.range (ws.length * 4)).map fun k =>
      let v (x : Nat) : Int := if signed then sextInt x 8 else x
      v (runElem 8 4 ws k) * v (runElem 8 4 us k)).sum
    let w := (homeFloat fmt).width
    let ps : List FVal := (List.range (ws.length * (32 / w))).map fun k =>
      ((homeFloat fmt).val (runElem w (32 / w) ws k)).mul ((homeFloat fmt).val (runElem w (32 / w) us k))
    let r := Rnd.ofBits m.toNat
    let e := chainsOf ps
    (fmt = 7 ∨ fmt = 9 → (HomeFn.pdot fmt m).run n [ws, us, [c]] = [c + BitVec.ofInt 32 (isum (fmt == 7))]) ∧
    (fmt ≤ 5 → (HomeFn.pdot fmt m).run n [ws, us, [c]] = [BitVec.ofNat 32 (FloatFmt.fp32.enc
      ((FloatFmt.fp32.val c.toNat).add (r == .rdn) (rn (e.1.add false e.2))) r false (m.getLsbD 3))])) ∧
  (∀ (s : State) (r : PxReq) (slot lane : Nat) (blk : Block) (w : Warp) (p : Path) (got : List (Nat × Bool)),
    (s.pxReqs.filter fun x => x.block == s.arg 0 && x.warp == s.arg 1 && x.pathSlot == s.arg 2) = [r] →
    r.kind = .cross slot lane → s.replyDue r = true → s.warp? r.block r.warp = some (blk, w) → r.warp < blk.warps.length →
    r.pathSlot < 2 → w.path r.pathSlot = some p → p.wait = .crossing got →
    ∃ (t : State) (b1 : Block) (w1 : Warp) (p1 : Path), exec .proxyCrossing s = .next t ∧ t.warp? r.block r.warp = some (b1, w1) ∧
      w1.path r.pathSlot = some p1 ∧ p1.wait = .crossing (got ++ [(lane, (nth 0#32 r.data 0).getLsbD 0)]))) ∧
  ((∀ (s : State) (r : ChunkReq), s.chunkReq? (s.arg 0) (s.arg 1) false = some r → exec .chunkRequest s = .next { s with
    chunkReqs := s.chunkReqs.map fun (x : ChunkReq) => if x = r then { r with asked := true, start := s.ns } else x }) ∧
  (∀ (s : State) (r : ChunkReq) (blk : Block), s.chunkReq? (s.arg 0) (s.arg 1) true = some r → s.block? r.block = some blk →
    let limit := min 32768 (bits (s.ctx blk.ctx).pxQuota 15 0)
    let come := s.flitSent (replyWave r.home r.core) r.id
    let answer (u : State) (x : ChunkAnswer) : State :=
      ({ u with chunkReqs := u.chunkReqs.map fun (y : ChunkReq) => if y.id = r.id then { y with answer := x } else y } : State).replyFlit
        r.home r.core r.id
    (r.answer = .none → exec .chunkGrant s = .next (s.answerReq r blk.ctx)) ∧
    (r.answer ≠ .none → come = false → exec .chunkGrant s = .next s) ∧
    (∀ d, r.answer = .refused d → come = true → exec .chunkGrant s = .next (s.refused r d)) ∧
    (r.chunks = 1 → ∀ base, s.freeGroup r.home 8 4096 0 = some base → s.slotsHeld blk.ctx r.home + 8 ≤ limit →
      s.answerReq r blk.ctx = answer s (.granted [base]) ∧
        base % 8 = 0 ∧ (s.home r.home).taken base 8 = false ∧ s.reserved r.home base 8 = false) ∧
    (∀ bs, r.answer = .granted bs → come = true → r.core < s.cores.length →
      ∃ t : State, exec .chunkGrant s = .next t ∧ (t.core r.core).chunks = (s.core r.core).chunks ++
          bs.map (fun base => { home := r.home, base := base, used := s.cycle (clusterOf r.core) }) ∧
        ∀ w p, s.warp? r.block r.warp = some (blk, w) → r.warp < blk.warps.length → r.slot < 2 → w.path r.slot = some p →
          ∃ b1 w1 p1, t.warp? r.block r.warp = some (b1, w1) ∧ w1.path r.slot = some p1 ∧ p1.wait = .ready ∧ p1.pc = p.pc) ∧
    (let s1 : State := { s with cores := s.cores.map fun (c : Core) => { c with chunks := c.chunks.filter fun k => k.home != r.home } }
     let short (u : State) : Prop := u.freeGroup r.home 8 4096 0 = none ∨ limit < u.slotsHeld blk.ctx r.home + 8
     r.chunks = 1 → short s → short s1 →
      let waited : Bool := decide (r.start + bits (s.ctx blk.ctx).pxExp 15 0 ≤ s.ns)
      (waited = false → s.answerReq r blk.ctx = s1) ∧
      (waited = true → s.answerReq r blk.ctx = answer s1 (.refused (if limit < s1.slotsHeld blk.ctx r.home + 8 then 0x02 else 0x01))))) ∧
  (∀ (s : State) (k : Chunk), (s.core (s.arg 0)).chunks.find? (fun x => x.home == s.arg 1 && x.base == s.arg 2) = some k →
    s.arg 0 < s.cores.length →
    let c := s.core (s.arg 0)
    let due : Prop := k.used + 4096 ≤ s.cycle (clusterOf (s.arg 0)) ∨ (16 < c.chunks.length ∧ (s.home k.home).held k.base 8 = false)
    (due → ∃ t : State, exec .chunkReturn s = .next t ∧ t.core (s.arg 0) = { c with chunks := c.chunks.erase k } ∧
      (∀ x, x ≠ s.arg 0 → t.core x = s.core x) ∧ { t with cores := s.cores } = s) ∧
    (¬ due → exec .chunkReturn s = .next s)))

namespace Sys2Proof.Machine

/-- A thread of the context `k` in a place of a channel is due to execute `i`, which stops on nothing and waits for nothing
(R289, R291, R292). -/
def State.BankDoes (s : State) (chan cx : Nat) (k : BankCtx) (i : Instr) : Prop :=
  s.actor = .bank chan cx (bankThread i) ∧ s.bankCtx? chan cx = some k ∧ k.state = .running ∧ k.over (bankThread i) = false ∧
  k.cause? (bankThread i) i = none ∧ k.waits i = none

/-- `v` is the result of an operation of the arithmetic thread in a mode (R289, R290): on 64 bits, on each 32-bit half, or
on each half as FP32 with one rounding to nearest. -/
def BankResult (m : BankMode) (f64 : DWord → DWord → DWord → DWord) (f32 : Word → Word → Word → Word)
    (ff : FVal → FVal → FVal → FVal) (a b c v : DWord) : Prop :=
  let half (x : DWord) (h : Nat) : Word := x.extractLsb' h 32
  let value (x : Word) : FVal := FloatFmt.fp32.val x.toNat
  match m with
  | .i64 | .u64 => v = f64 a b c
  | .i32x2 | .u32x2 => ∀ h ∈ [0, 32], half v h = f32 (half a h) (half b h) (half c h)
  | .f32x2 => ∀ h ∈ [0, 32], half v h =
      BitVec.ofNat 32 (FloatFmt.fp32.enc (ff (value (half a h)) (value (half b h)) (value (half c h))) .rne false false)

/-- The comparison of a branch of a bank thread (R289, R290). -/
def BankBranch (c : BankCmp) {w : Nat} (x y : BitVec w) : Prop :=
  match c with
  | .eq => x = y
  | .ne => x ≠ y
  | .ltu => x < y
  | .geu => y ≤ x
  | .lt => x.slt y = true
  | .ge => y.sle x = true

end Sys2Proof.Machine

/-- The register, queue and branch instructions of a bank kernel. In a running context of a channel, each
instruction of the address thread (NLI, NLI.H, NADD, NADDI, NSHL, NBR, BPOP, NEND) and of the arithmetic thread
(XGET, XNEXT, XCADD, XLI, XLI.F2, XADD, XSUB, XMUL, XFMA, XMIN, XMAX, XLOP, XHSUM, XSEND, XBR, XEND), on its own
thread and waiting for no queue, changes its register, queue or program counter as R289 and R290 give and nothing
else of the context. The model's choices in it: log entry 40. (15_bank_side_units.md, R289, R290) -/
def Obligations.BankRegisterInstructions : Prop :=
  ∀ (s : State) (chan cx : Nat) (k : BankCtx),
    let goesOn (i : Instr) (k1 : BankCtx) : Prop := s.BankDoes chan cx k i → exec i s = .next (s.bankPut chan cx
      (if bankThread i then { k1 with xpc := k.xpc + 1 } else { k1 with apc := k.apc + 1 }))
    let n (r : BitVec 4) : Word := nth 0#32 k.n r.toNat
    let x (r : BitVec 4) : DWord := nth 0#64 k.x r.toNat
    let setN (d : BitVec 4) (v : Word) : BankCtx := { k with n := setNth k.n d.toNat v }
    let setX (d : BitVec 4) (v : DWord) : BankCtx := { k with x := setNth k.x d.toNat v }
    let head (w : Nat) : DWord := BitVec.ofNat 64 (leNat (((nth [] k.dq 0).drop (8 * w)).take 8))
    let z (a b c : DWord) : DWord := a + b + c
    (∀ (d a b : BitVec 4) (imm : BitVec 16) (sh : BitVec 5) (w : BitVec 3),
      goesOn (.nli d imm) (setN d (BitVec.ofNat 32 imm.toNat)) ∧
      goesOn (.nliH d imm) (setN d (BitVec.ofNat 32 (imm.toNat * 2 ^ 16 + (n d).toNat % 2 ^ 16))) ∧
      goesOn (.nadd d a b) (setN d (BitVec.ofNat 32 ((n a).toNat + (n b).toNat))) ∧
      goesOn (.naddi d a imm) (setN d (BitVec.ofInt 32 ((n a).toInt + imm.toInt))) ∧
      goesOn (.nshl d a sh) (setN d (BitVec.ofNat 32 ((n a).toNat * 2 ^ sh.toNat))) ∧
      goesOn (.bpop d) { setN d (BitVec.ofNat 32 (nth 0#64 k.bq 0).toNat) with bq := k.bq.drop 1 } ∧
      goesOn (.xget d w) (setX d (head w.toNat)) ∧
      goesOn .xnext { k with dq := k.dq.drop 1 } ∧
      goesOn (.xli d imm) (setX d (BitVec.ofInt 64 imm.toInt)) ∧
      goesOn (.xliF2 d imm) (setX d (BitVec.ofNat 64 (imm.toNat * 2 ^ 16 + imm.toNat * 2 ^ 48))) ∧
      goesOn (.xlop .and d a b) (setX d (x a &&& x b)) ∧ goesOn (.xlop .or d a b) (setX d (x a ||| x b)) ∧
      goesOn (.xlop .xor d a b) (setX d (x a ^^^ x b)) ∧
      goesOn (.xsend a) { k with bq := k.bq ++ [x a] }) ∧
    (∀ (c : BankCmp) (d a : BitVec 4) (imm : BitVec 16), s.BankDoes chan cx k (.nbr c d a imm) →
      (BankBranch c (n d) (n a) → exec (.nbr c d a imm) s =
        .next (s.bankPut chan cx { k with apc := (((k.apc : Int) + imm.toInt) % 2 ^ 16).toNat })) ∧
      (¬ BankBranch c (n d) (n a) → exec (.nbr c d a imm) s = .next (s.bankPut chan cx { k with apc := k.apc + 1 }))) ∧
    (∀ (c : BankCmp) (d a : BitVec 4) (imm : BitVec 16), s.BankDoes chan cx k (.xbr c d a imm) →
      (BankBranch c (x d) (x a) → exec (.xbr c d a imm) s =
        .next (s.bankPut chan cx { k with xpc := (((k.xpc : Int) + imm.toInt) % 2 ^ 16).toNat })) ∧
      (¬ BankBranch c (x d) (x a) → exec (.xbr c d a imm) s = .next (s.bankPut chan cx { k with xpc := k.xpc + 1 }))) ∧
    (s.BankDoes chan cx k .nend → exec .nend s = .next (s.bankPut chan cx { k with aEnded := true })) ∧
    (s.BankDoes chan cx k .xend → exec .xend s = .next (s.bankPut chan cx { k with xEnded := true })) ∧
    (∀ (m : BankMode) (d a b c : BitVec 4),
      (∃ v, BankResult m (fun p q _ => p + q) (fun p q _ => p + q) (fun p q _ => p.add false q) (x a) (x b) 0#64 v ∧ goesOn (.xadd m d a b) (setX d v)) ∧
      (∃ v, BankResult m (fun p q _ => p - q) (fun p q _ => p - q)
        (fun p q _ => p.add false q) (x a) (if m = .f32x2 then x b ^^^ 0x8000000080000000#64 else x b) 0#64 v ∧
        goesOn (.xsub m d a b) (setX d v)) ∧
      (∃ v, BankResult m (fun p q _ => p * q) (fun p q _ => p * q) (fun p q _ => p.mul q) (x a) (x b) 0#64 v ∧ goesOn (.xmul m d a b) (setX d v)) ∧
      (∃ v, BankResult m (fun p q r => p * q + r) (fun p q r => p * q + r) (fun p q r => (p.mul q).add false r) (x a) (x b) (x c) v ∧
        goesOn (.xfma m d a b c) (setX d v)) ∧
      (m = .i64 → goesOn (.xcadd m d) (setX d (x d + head 0 + head 1 + head 2 + head 3 + head 4 + head 5 + head 6 + head 7)) ∧
        goesOn (.xmin m d a b) (setX d (if (x a).toInt ≤ (x b).toInt then x a else x b)) ∧
        goesOn (.xmax m d a b) (setX d (if (x b).toInt ≤ (x a).toInt then x a else x b))) ∧
      (m = .u64 → goesOn (.xmin m d a b) (setX d (if (x a).toNat ≤ (x b).toNat then x a else x b)) ∧
        goesOn (.xmax m d a b) (setX d (if (x b).toNat ≤ (x a).toNat then x a else x b))) ∧
      (m = .i32x2 → (∃ v, (∀ h ∈ [0, 32], v.extractLsb' h 32 = ((List.range 8).map fun i => (head i).extractLsb' h 32).foldl (· + ·)
            ((x d).extractLsb' h 32)) ∧ goesOn (.xcadd m d) (setX d v)) ∧
        (∃ v, BankResult m z (fun p q _ => if p.toInt ≤ q.toInt then p else q) (fun p _ _ => p) (x a) (x b) 0#64 v ∧ goesOn (.xmin m d a b) (setX d v)) ∧
        (∃ v, BankResult m z (fun p q _ => if q.toInt ≤ p.toInt then p else q) (fun p _ _ => p) (x a) (x b) 0#64 v ∧ goesOn (.xmax m d a b) (setX d v)) ∧
        goesOn (.xhsum m d a) (setX d (BitVec.ofNat 64 (((x a).toNat + (x a).toNat / 2 ^ 32) % 2 ^ 32)))) ∧
      (m = .u32x2 → (∃ v, BankResult m z (fun p q _ => if p.toNat ≤ q.toNat then p else q) (fun p _ _ => p) (x a) (x b) 0#64 v ∧ goesOn (.xmin m d a b) (setX d v)) ∧
        (∃ v, BankResult m z (fun p q _ => if q.toNat ≤ p.toNat then p else q) (fun p _ _ => p) (x a) (x b) 0#64 v ∧ goesOn (.xmax m d a b) (setX d v))) ∧
      (m = .f32x2 →
        let value (y : DWord) (h : Nat) : FVal := FloatFmt.fp32.val (y.extractLsb' h 32).toNat
        let below (h : Nat) : Prop := (value (x a) h).lt (value (x b) h) = true ∨
          ((value (x b) h).lt (value (x a) h) = false ∧ (x a).getLsbD (h + 31) = true ∧ (x b).getLsbD (h + 31) = false)
        let pick (h : Nat) (less more v : Word) : Prop :=
          ((value (x a) h).isNan = true → (value (x b) h).isNan = true → v = 0x7FC00000#32) ∧
          ((value (x a) h).isNan = true → (value (x b) h).isNan = false → v = (x b).extractLsb' h 32) ∧
          ((value (x a) h).isNan = false → (value (x b) h).isNan = true → v = (x a).extractLsb' h 32) ∧
          ((value (x a) h).isNan = false → (value (x b) h).isNan = false → (below h → v = less) ∧ (¬ below h → v = more))
        (∃ v : DWord, goesOn (.xmin m d a b) (setX d v) ∧
          ∀ h ∈ [0, 32], pick h ((x a).extractLsb' h 32) ((x b).extractLsb' h 32) (v.extractLsb' h 32)) ∧
        (∃ v : DWord, goesOn (.xmax m d a b) (setX d v) ∧
          ∀ h ∈ [0, 32], pick h ((x b).extractLsb' h 32) ((x a).extractLsb' h 32) (v.extractLsb' h 32)) ∧
        (∃ v : DWord, goesOn (.xhsum m d a) (setX d v) ∧ v.toNat =
          FloatFmt.fp32.enc ((value (x a) 0).add false (value (x a) 32)) .rne false false % 2 ^ 32) ∧
        (∃ v : DWord, goesOn (.xcadd m d) (setX d v) ∧
          let plus (p q : Word) : Word := BitVec.ofNat 32 (FloatFmt.fp32.enc ((FloatFmt.fp32.val p.toNat).add false (FloatFmt.fp32.val q.toNat)) .rne false false)
          ∀ h ∈ [0, 32], let w (i : Nat) : Word := (head i).extractLsb' h 32
            v.extractLsb' h 32 = plus (plus ((x d).extractLsb' h 32) (plus (plus (w 0) (w 1)) (plus (w 2) (w 3)))) (plus (plus (w 4) (w 5)) (plus (w 6) (w 7))))))

/-- NLAUNCH, NRESUME and NSTAT, and a context from its start to its end. NLAUNCH with a misaligned descriptor raises
MISALIGN, one that names a misaligned arrival object or one beyond scratchpad under NOTIFY raises MISALIGN and
DFAULT with detail 0x07, and one with an ill-formed descriptor, a region that a page fails and too many live handles
complete with their status; NRESUME of a stopped or halted context sets it running, at the next word of the thread
that stopped in its skip form, or ends it in its abort form, with status 0, and has status 1 and 2 where there is no
such context; NSTAT gives the low word of the status record, or 0. BANK_LAUNCH_START starts the oldest waiting
launch in a free place; BANK_CONTEXT_DONE ends a context both of whose threads have ended; BANK_CONTEXT_STOP stops a
context whose due word lies beyond its code with cause 5. That NLAUNCH takes its descriptor and code as they stand
at their homes, where R299 makes them loads of its warp, is the model's choice (log entry 14). The model's choices
in it: log entries 14, 39 and 104. (15_bank_side_units.md, R287, R291, R292, R300, R301, R302) -/
def Obligations.BankLaunches : Prop :=
  (∀ (o : Opnds) (s : State) (a : Actx), s.Acts a o.gn o.g → a.flagFull o.fs = false →
    let at_ := s.pairVal a o.a o.sa 0
    let h := (s.scalar a o.a o.sa).toNat
    let chan := (s.scalar a o.b o.sb).toNat
    let done (t : State) (v : Word) : State := ((t.loseIdemp a).startOp a o (.done [.scalar o.d.toNat v])).retire a
    let mode := bits o.mod 1 0
    let tag (u : State) : MemTag := MemTag.warp a.bid a.wi a.core u.nextId
    (at_ % 128 ≠ 0 → exec (.nlaunch o) s = .next (s.raiseAt a Code.misalign 0 (BitVec.ofNat 64 at_))) ∧
    (at_ % 128 = 0 → at_ + 128 ≤ 2 ^ 57 → ∀ pas s1 bs s2, s.loadRange a at_ 128 = (.ok pas, s1) →
      s1.earlierTouch s1.nextId a.bid a.wi pas true = false → s1.readAt (tag s1) pas s1.memTime = (bs, s2) →
      let d := leNat bs
      (descOk d = false → exec (.nlaunch o) s = .next (done s2 0x80000001#32)) ∧
      let arr := d >>> 704 % 2 ^ 32
      (descOk d = true → d.testBit 258 = true →
        (arr % 8 ≠ 0 → exec (.nlaunch o) s = .next (s2.raiseAt a Code.misalign 0 (BitVec.ofNat 64 arr))) ∧
        (arr % 8 = 0 → s2.spadSize a.blk < arr + 8 → exec (.nlaunch o) s = .next (s2.raiseAt a Code.dfault 0x07 (BitVec.ofNat 64 arr)))) ∧
      (descOk d = true → (d.testBit 258 = true → arr % 8 = 0 ∧ arr + 8 ≤ s2.spadSize a.blk) →
        (s2.regionSpans a.blk.ctx (d >>> 512 % 2 ^ 64) (d >>> 640 % 2 ^ 32) = none → exec (.nlaunch o) s = .next (done s2 0x80000002#32)) ∧
        (∀ region, s2.regionSpans a.blk.ctx (d >>> 512 % 2 ^ 64) (d >>> 640 % 2 ^ 32) = some region →
          (64 ≤ (s2.liveHandles a.blk.ctx).length → exec (.nlaunch o) s = .next (done s2 0x80000003#32)) ∧
          ((s2.liveHandles a.blk.ctx).length < 64 → ∀ pas2 s3 code s4,
            s2.loadRange a (d >>> 448 % 2 ^ 64) (4 * (d >>> 688 % 2 ^ 16)) = (.ok pas2, s3) →
            d >>> 448 % 2 ^ 64 + 4 * (d >>> 688 % 2 ^ 16) ≤ 2 ^ 57 →
            s3.earlierTouch s3.nextId a.bid a.wi pas2 true = false → s3.readAt (tag s3) pas2 s3.memTime = (code, s4) →
            ∃ (l : BankLaunch) (s5 : State), exec (.nlaunch o) s = .next (done (s5.launchAll l) (BitVec.ofNat 32 l.handle.toNat)) ∧
              l.handle ∉ s2.liveHandles a.blk.ctx ∧ l.ctx = a.blk.ctx ∧ (l.block, l.warp) = (a.bid, a.wi) ∧ l.region = region ∧
              l.code.length = d >>> 688 % 2 ^ 16 ∧ l.mask.toNat = d % 2 ^ 256 ∧ l.aentry = d >>> 672 % 2 ^ 16 ∧
              l.argn.toNat = d >>> 736 % 2 ^ 32 ∧ l.argx.toNat = d >>> 768 % 2 ^ 64 ∧ l.notify = d.testBit 258 ∧ l.arr = arr ∧
              l.ref = d.testBit 257 ∧ l.step = d.testBit 256 ∧ s5.chans = s4.chans ∧ s5.blocks = s4.blocks ∧ s5.dram = s4.dram ∧ s5.l2 = s4.l2)))) ∧
    ((s.launches a.blk.ctx).find? (fun l => l.handle.toNat == h) = none →
      exec (.nresume o) s = .next (done s 2#32) ∧ exec (.nstat o) s = .next (done s 0#32)) ∧
    (∀ l cx k, (s.launches a.blk.ctx).find? (fun l => l.handle.toNat == h) = some l → chan < 256 → l.mask.getLsbD chan = true →
      (l.block, l.warp) = (a.bid, a.wi) → s.bankPlace a.blk.ctx (s.scalar a o.a o.sa) chan = some cx → s.bankCtx? chan cx = some k →
      (k.state ≠ .stepped → k.state ≠ .stopped → exec (.nresume o) s = .next (done s 1#32)) ∧
      (mode = 2 → (k.state = .stepped ∨ k.state = .stopped) → exec (.nresume o) s = .next (done (s.bankEnd chan cx k .aborted) 0#32)) ∧
      (mode ≠ 2 → (k.state = .stepped ∨ k.state = .stopped) → ∃ k1 : BankCtx, exec (.nresume o) s = .next (done (s.setBank chan cx (some k1)) 0#32) ∧
        k1.state = .running ∧ k1.cause = 0 ∧ k1.n = k.n ∧ k1.x = k.x ∧ k1.dq = k.dq ∧ k1.bq = k.bq ∧
        k1.apc = (if mode = 1 ∧ k.state = .stopped ∧ k.thread = false then k.apc + 1 else k.apc) ∧
        k1.xpc = (if mode = 1 ∧ k.state = .stopped ∧ k.thread = true then k.xpc + 1 else k.xpc)) ∧
      exec (.nstat o) s = .next (done (s.noteNstat a (s.scalar a o.a o.sa) chan) (BitVec.ofNat 32 (leNat ((k.record chan).take 4)))))) ∧
  (∀ (s : State) (cx : Nat) (l : BankLaunch) (rest : List BankLaunch), s.arg 0 < s.chans.length → (s.chan (s.arg 0)).freePlace = some cx →
    (s.chan (s.arg 0)).queue = l :: rest → ∃ (t : State) (k : BankCtx), exec .bankLaunchStart s = .next t ∧
      t.bankCtx? (s.arg 0) cx = some k ∧ k.launch = l ∧ k.state = .running ∧ k.dq = [] ∧ k.bq = [] ∧
      nth 0#32 k.n 0 = BitVec.ofNat 32 (s.arg 0) ∧ nth 0#32 k.n 1 = BitVec.ofNat 32 (l.region.length * 8192) ∧ nth 0#32 k.n 2 = l.argn ∧
      nth 0#64 k.x 0 = l.argx ∧ (t.chan (s.arg 0)).queue = rest) ∧
  (∀ (s : State) (k : BankCtx), s.bankCtx? (s.arg 0) (s.arg 1) = some k → k.state = .running →
    (k.aEnded = true → k.xEnded = true → exec .bankContextDone s = .next (s.bankEnd (s.arg 0) (s.arg 1) k .done)) ∧
    ((k.aEnded = false ∨ k.xEnded = false) → exec .bankContextDone s = .next s) ∧
    (∀ arith : Bool, s.arg 3 = (if arith then 1 else 0) → s.arg 2 = 5 → k.over arith = false → k.launch.code.length ≤ k.pc arith →
      exec .bankContextStop s = .next (s.bankStop (s.arg 0) (s.arg 1) k 5 arith none)))

/-- CRD, CRD.REF and WR, and the refresh, bursts and watchdog of a channel. At its turn, with no refresh due and no
ordinary access or proxy operation before it unless it has waited 10 µs or goes on with its burst, and behind no
earlier access of the launching warp, CRD pushes the 64 bytes at its region offset, at a time that the launch and
the age leave open, into the data queue and changes no byte of memory; CRD.REF in a context with REF marks its row
refreshed as well; WR pops the back queue and stores its 8 bytes at its region offset and no others. Each counts the
column and goes on, or under STEP halts its context and writes its status record. An offset that is misaligned or
beyond the region stops the context with cause 1, every instruction of the other thread with cause 2, a wait on a
thread that has ended with cause 3, and waits on each other with cause 4. REFRESH marks a row that is not marked;
TARGETED_REFRESH resets the counters of a row that has reached its threshold, and neither changes any byte.
BSU_BURST is at most 16 commands, each a proxy operation that can be served, or else the column command whose turn
it is, or nothing where there is neither: a proxy operation that stands first is served by it, and a CRD under STEP
of the only context, with no proxy request and nothing before it, pushes its column and halts its context.
BSU_WATCHDOG_RESET, after 2^20 cycles without a microinstruction, leaves the home without runs and chunks, its LOST
bit set in every context, and the channel without contexts and launches; before, nothing changes. The model's
choices in it: log entries 14, 38 and 60. (15_bank_side_units.md, R271, R284, R289, R291, R292, R293, R295, R296,
R297, R298, R299) -/
def Obligations.BankColumnsAndChannels : Prop :=
  ((∀ (s : State) (chan cx : Nat) (k : BankCtx) (a : BitVec 4), cx < (s.chan chan).cx.length → chan < s.chans.length →
    let r := (nth 0#32 k.n a.toNat).toNat
    let pa := regionAddr k.launch.region chan r
    let done (k1 : BankCtx) : BankCtx :=
      { k1 with ncol := k.ncol + 1#32, apc := k.apc + 1, state := if k.launch.step then .stepped else .running }
    let ends (u : State) (k1 : BankCtx) : State := if k.launch.step then u.writeStatus chan (done k1) else u
    let column := (s.readOnce k.launch.readTag (some k.launch.start) ((List.range 64).map (pa + ·)) (s.memTime - s.arg 0)).1
    (∀ ref : Bool, let i : Instr := if ref then .crdRef a else .crd a
      s.BankDoes chan cx k i → s.columnTurn chan cx = true → s.columnServes chan = true → s.behindLauncher k.launch pa 64 true = false →
      let k1 : BankCtx := { k with dq := k.dq ++ [column] }
      ∃ u : State, exec i s = .next (ends u k1) ∧ (ends u k1).bankCtx? chan cx = some (done k1) ∧
        ((ends u k1).chan chan).turn = (cx + 1) % 4 ∧ (∀ x, u.readByte x = s.readByte x) ∧
        (k.launch.ref = true → ref = true →
          (channelOffset pa / 2 ^ 10 % 32, channelOffset pa / 2 ^ 15) ∈ ((ends u k1).chan chan).marked)) ∧
    (∀ v rest, s.BankDoes chan cx k (.wr a) → k.bq = v :: rest → s.columnTurn chan cx = true → s.columnServes chan = true →
      s.behindLauncher k.launch pa 8 = false → Memory.wf s.dram = true → overWf s.l2 = true →
      (∀ i, i < 8 → inWindow (pa + i) = false ∧ overGet s.l2 (pa + i) = none) →
      let k1 : BankCtx := { k with bq := rest }
      ∃ u : State, exec (.wr a) s = .next (ends u k1) ∧ (ends u k1).bankCtx? chan cx = some (done k1) ∧
        u.readPhys pa 8 = leBytes 8 v.toNat ∧ ∀ x, (x < pa ∨ pa + 8 ≤ x) → u.readByte x = s.readByte x)) ∧
  (∀ (s : State) (chan cx : Nat) (k : BankCtx) (arith : Bool) (i : Instr), s.actor = .bank chan cx arith → s.bankCtx? chan cx = some k →
    k.state = .running → k.over arith = false →
    (bankThread i ≠ arith → (encodeBank i).isSome = true → exec i s = .next (s.bankStop chan cx k 2 arith none)) ∧
    (arith = false →
      (∀ a : BitVec 4, let r := (nth 0#32 k.n a.toNat).toNat
        ((r % 64 ≠ 0 ∨ k.launch.region.length * 8192 ≤ r) →
          exec (.crd a) s = .next (s.bankStop chan cx k 1 false (some (nth 0#32 k.n a.toNat))) ∧
          exec (.crdRef a) s = .next (s.bankStop chan cx k 1 false (some (nth 0#32 k.n a.toNat)))) ∧
        ((r % 8 ≠ 0 ∨ k.launch.region.length * 8192 ≤ r) →
          exec (.wr a) s = .next (s.bankStop chan cx k 1 false (some (nth 0#32 k.n a.toNat)))) ∧
        (r % 8 = 0 → r < k.launch.region.length * 8192 → k.bq = [] → k.xEnded = true →
          exec (.wr a) s = .next (s.bankStop chan cx k 3 false none)) ∧
        (r % 8 = 0 → r < k.launch.region.length * 8192 → k.bq = [] → k.waitOf true = some .dataEmpty → k.xEnded = false →
          exec (.wr a) s = .next (s.bankStop chan cx k 4 false none)))) ∧
    (arith = true → k.dq = [] → k.aEnded = true → exec .xnext s = .next (s.bankStop chan cx k 3 true none)))) ∧
  (∀ s : State, s.arg 0 < s.chans.length → s.arg 0 < s.homes.length →
    let c := s.chan (s.arg 0)
    let row := (s.arg 2, s.arg 1)
    let put (d : Chan) (t : State) : Prop := t.chan (s.arg 0) = d ∧ { t with chans := s.chans } = s ∧ ∀ x, x ≠ s.arg 0 → t.chan x = s.chan x
    (row ∉ c.marked → ∃ t : State, exec .refresh s = .next t ∧ put { c with marked := row :: c.marked } t) ∧
    (row ∈ c.marked → exec .refresh s = .next s) ∧
    (∀ n, (row, n) ∈ c.disturb → Config.disturbThreshold ≤ n → ∃ t : State, exec .targetedRefresh s = .next t ∧
      put { c with disturb := c.disturb.filter fun x => x.1 != row } t) ∧
    ((∀ n, (row, n) ∈ c.disturb → n < Config.disturbThreshold) → exec .targetedRefresh s = .next s) ∧
    (∃ u : Nat → State, u 0 = s ∧
      exec .bsuBurst s = .next ({ u 16 with actor := s.actor }.setChan (s.arg 0) { (u 16).chan (s.arg 0) with burst := 0 }) ∧
      ∀ n, n < 16 → let v := u n
        let at_ (cx : Nat) : State := { v with actor := .bank (s.arg 0) cx false }
        let first := (v.proxyCommand (s.arg 0)).filter fun r => v.proxyServes r
        (∀ r, first = some r → u (n + 1) = (match r.kind with
          | .snapshot _ _ _ _ => v.takeSnapshot r.id
          | .copy _ _ _ _ => v.proxyCopy r.id
          | _ => v.proxyOperate r.id)) ∧
        (first = none → v.columnNext (s.arg 0) = none → u (n + 1) = v) ∧
        (first = none → ∀ cx, v.columnNext (s.arg 0) = some cx → ∀ a k, v.bankCtx? (s.arg 0) cx = some k →
          (k.due false = some (.crd a) → u (n + 1) = (at_ cx).columnRead (.crd a) a false 0) ∧
          (k.due false = some (.crdRef a) → u (n + 1) = (at_ cx).columnRead (.crdRef a) a true 0) ∧
          (k.due false = some (.wr a) → u (n + 1) = (at_ cx).columnWrite a))) ∧
    (∀ r, s.proxyCommand (s.arg 0) = some r → s.proxyServes r = true → s.pxReq? r.id = some r →
      (∀ y ∈ s.pxReqs, ∀ h sl sl0 e, y.kind ≠ .copy h sl sl0 e) → (∀ op lane, r.kind = .mat op lane → s.matRun op lane ≠ none) →
      ∃ t : State, exec .bsuBurst s = .next t ∧ ∃ q ∈ t.pxReqs, q.id = r.id ∧ q.served = true) ∧
    (∀ cx k a, cx < 4 → cx < c.cx.length → (∀ r ∈ s.pxReqs, r.place ≠ s.arg 0) → s.columnServes (s.arg 0) = true → (∀ y, y ≠ cx → s.bankCtx? (s.arg 0) y = none) →
      s.bankCtx? (s.arg 0) cx = some k → k.launch.step = true → k.state = .running → k.due false = some (.crd a) →
      k.cause? false (.crd a) = none → k.waits (.crd a) = none →
      let pa := regionAddr k.launch.region (s.arg 0) (nth 0#32 k.n a.toNat).toNat
      s.behindLauncher k.launch pa 64 true = false →
      ∃ t : State, exec .bsuBurst s = .next t ∧ t.bankCtx? (s.arg 0) cx = some { k with
        ncol := k.ncol + 1#32, apc := k.apc + 1, state := .stepped
        dq := k.dq ++ [(s.readOnce k.launch.readTag (some k.launch.start) ((List.range 64).map (pa + ·)) s.memTime).1] }) ∧
    (c.idle < 2 ^ 20 → exec .bsuWatchdogReset s = .next s) ∧
    (2 ^ 20 ≤ c.idle → s.arg 0 < 256 → (∀ x ∈ s.ctxs, x.pxLost.length = 8) → c.cx.length = 4 → ∃ t : State, exec .bsuWatchdogReset s = .next t ∧
      (t.home (s.arg 0)).runs = [] ∧ (∀ x ∈ t.ctxs, x.lost (s.arg 0) = true) ∧ (∀ y ∈ t.cores, ∀ k ∈ y.chunks, k.home ≠ s.arg 0) ∧
      (∀ cx, t.bankCtx? (s.arg 0) cx = none) ∧ (t.chan (s.arg 0)).queue = []))

/-- Doorbells, hardware slots, quanta and aging. A doorbell of a host-fed queue writes TAIL and makes its new
records ready in order, and the queue, unless it is empty, holds or waits for a slot; one that would move TAIL back
or beyond the ring's size is ignored, as is one for a queue that no context owns. QUEUE_SLOT_MAP gives a free slot
to the first of the waiting queues. QUANTUM_EXPIRY takes a slot, after 50 µs, for a waiting queue of equal or higher
effective priority. PRIORITY_AGING raises the level of a queue that has waited a further whole 1 ms, up to 7, and no
other. A waiting queue ranks by the priority of its head, one level higher for each whole 1 ms that it has waited,
up to 7. That TAIL is written at QD_BASE taken as a virtual address of the context is the model's choice (log entry
29). The model's choices in it: log entries 29, 33 and 100. (06_launch_and_residency.md, R87, R88, R89) -/
def Obligations.QueuesAndSlots : Prop :=
  (∀ s : State, s.dev.ready = true → s.queueOwner (s.arg 0) = none → exec .qtailWrite s = .next s) ∧
  (∀ (s : State) (c : Nat) (d : QDesc), s.dev.ready = true → s.queueOwner (s.arg 0) = some c → s.qdesc c (s.arg 0) = some d →
    let v : Word := BitVec.ofNat 32 (s.arg 1)
    ((d.host = false ∨ (v - d.head).toNat < (d.tail - d.head).toNat ∨ 2 ^ d.logn < (v - d.head).toNat) → exec .qtailWrite s = .next s) ∧
    (d.ok = true → d.host = true → (d.tail - d.head).toNat ≤ (v - d.head).toNat → (v - d.head).toNat ≤ 2 ^ d.logn →
      ∃ t : State, exec .qtailWrite s = .next t ∧
        (∀ pa, t.readByte pa = (s.writeVirt c ((s.ctx c).qdBase.toNat + 64 * s.arg 0 + 16) (leBytes 4 v.toNat)).readByte pa) ∧
        (t.ready.map fun e => (e.1, e.2.1, e.2.2.1)) = (s.ready.map fun e => (e.1, e.2.1, e.2.2.1)) ++
          (List.range (v - d.tail).toNat).map (fun i => (c, s.arg 0, d.tail + BitVec.ofNat 32 i)) ∧
        (v ≠ d.head → (∃ w ∈ t.qwaits, w.ctx = c ∧ w.queue = s.arg 0) ∨ (∃ x, some x ∈ t.hwslots ∧ x.ctx = c ∧ x.queue = s.arg 0)))) ∧
  (∀ (s : State) (i p : Nat) (w : QueueWait) (rest : List (Nat × QueueWait)), s.hwslots.findIdx? (·.isNone) = some i →
    s.waiting = (p, w) :: rest → ∃ t : State, exec .queueSlotMap s = .next t ∧
      t.hwslots[i]? = some (some { ctx := w.ctx, queue := w.queue, mapped := s.ns }) ∧ (∀ j, j ≠ i → t.hwslots[j]? = s.hwslots[j]?) ∧
      (∀ x ∈ t.qwaits, ¬ (x.ctx = w.ctx ∧ x.queue = w.queue)) ∧ ∀ q ∈ rest, q.1 ≤ p) ∧
  (∀ (s : State) (x : HwSlot), s.hwslots[s.arg 0]? = some (some x) →
    let prio := ((s.queueHead x.ctx x.queue).map (·.r.prio)).getD 0
    (s.ns < x.mapped + 50000 → exec .quantumExpiry s = .next s) ∧
    ((∀ q ∈ s.waiting, q.1 < prio) → exec .quantumExpiry s = .next s) ∧
    (x.mapped + 50000 ≤ s.ns → (∃ q ∈ s.waiting, prio ≤ q.1) →
      (∀ j y, j ≠ s.arg 0 → s.hwslots[j]? = some (some y) → ¬ (y.ctx = x.ctx ∧ y.queue = x.queue)) →
      ∃ t : State, exec .quantumExpiry s = .next t ∧ t.hwslots[s.arg 0]? = some none ∧ ∃ w ∈ t.qwaits, w.ctx = x.ctx ∧ w.queue = x.queue)) ∧
  (∀ s : State, ∃ t : State, exec .priorityAging s = .next t ∧ { t with qwaits := s.qwaits } = s ∧ t.qwaits.length = s.qwaits.length ∧
    ∀ (i : Nat) (w : QueueWait), s.qwaits[i]? = some w →
      t.qwaits[i]? = some (if w.ctx = s.arg 0 ∧ w.queue = s.arg 1 ∧ w.levels < 7 ∧ w.since + 1000000 * (w.levels + 1) ≤ s.ns
        then { w with levels := w.levels + 1 } else w)) ∧
  (∀ (s : State) (p : Nat) (w : QueueWait), (p, w) ∈ s.waiting ↔ w ∈ s.qwaits ∧ ∃ h, s.queueHead w.ctx w.queue = some h ∧
    p = min 7 (h.r.prio + max w.levels ((s.ns - w.since) / 1000000)))

/-- DISPATCH discards, holds, finishes or places, and a block starts as R85 says. DISPATCH with no record to take
changes nothing. With one ranked head, an invalid record is discarded and CTX_QERR names its queue, a record of no
blocks is popped, one whose object is invalid, or has an absent page in a context without a fault ring, is
discarded, and with a ring the record is held at its head by a page wait and nothing is placed; a held record stays;
and for a valid object the next block is placed on the chosen core with the chosen variant, and with its last block
the record leaves its ring: HEAD goes up by one, and a queue that empties gives up its slot. The object is read
through the TLB of the die of the cluster, which caches what it finds. A block placed starts its NWARP warps at the
variant's ENTRY with all 32 lanes, registers, scalars beyond S1, predicates and flags 0, S0 and S1 the frame's
address, shape registers ungranted, scratchpad and accumulator 0, and the record's next index goes up by one; where
the kernel object has changed since the record joined its ring, the block follows R6 from its start. That HEAD is
written at QD_BASE taken as a virtual address of the context is the model's choice (log entry 29). The model's
choices in it: log entries 3, 29, 45, 48, 66, 81, 84, 100 and 101. (06_launch_and_residency.md, 17_barop.md, R85,
R86, R91, R94, R325) -/
def Obligations.DispatchAndPlacement : Prop :=
  (∀ s : State, s.heads = [] → exec .dispatch s = .next s) ∧
  (∀ (s : State) (h : Head), s.heads = [h] → (∃ c ∈ coresOf (s.arg 0), (s.ctx h.r.ctx).hasCore c = true) →
    let die := s.arg 0 / 8
    let s1 := s.lookHead die h
    (h.ok = false → exec .dispatch s = .next (s.discardHead h)) ∧
    (h.ok = true → h.r.count = 0 → exec .dispatch s = .next ((s.claim h).2.advanceHead h.r.ctx h.r.queue)) ∧
    (h.ok = true → h.r.count ≠ 0 → h.r.held ≠ none → exec .dispatch s = .next s) ∧
    (h.ok = true → h.r.count ≠ 0 → h.r.held = none → h.r.obj = none →
      (s.readObj die h.r.ctx h.r.kobj = .invalid → exec .dispatch s = .next (s1.discardHead h)) ∧
      (∀ va, s.readObj die h.r.ctx h.r.kobj = .absent va →
        ((s1.ctx h.r.ctx).ringLog = none → exec .dispatch s = .next (s1.discardHead h)) ∧
        ((s1.ctx h.r.ctx).ringLog ≠ none → ∃ (t : State) (r : Record) (w : FaultWait), exec .dispatch s = .next t ∧ r ∈ t.records ∧
          (r.ctx, r.queue, r.kobj, r.next) = (h.r.ctx, h.r.queue, h.r.kobj, h.r.next) ∧ r.held = some w.id ∧ w ∈ t.faultWaits ∧
          w.ctx = h.r.ctx ∧ w.va = va ∧ w.waiter = .dispatch r.id ∧ t.blocks = s.blocks))) ∧
    (∀ k areas vi v core place, h.ok = true → h.r.count ≠ 0 → h.r.held = none →
      (h.r.obj = some k ∨ (h.r.obj = none ∧ s.readObj die h.r.ctx h.r.kobj = .valid k)) → s1.resumeWaits h.r.ctx h.r.prio = false →
      s1.shares h.r.ctx k = some areas → s1.chooseCore (s.arg 0) h.r.ctx k = some (vi, v, core, place) →
      let t := (s1.claim h).2.placeBlock { (s1.claim h).1 with obj := some k } k vi v core place areas
      (h.r.next + 1 ≠ h.r.first + h.r.count → exec .dispatch s = .next t) ∧
      (h.r.next + 1 = h.r.first + h.r.count → exec .dispatch s = .next (t.advanceHead h.r.ctx h.r.queue)))) ∧
  (∀ (s : State) (die : Nat) (h : Head), (s.lookHead die h).blocks = s.blocks ∧ (s.lookHead die h).records = s.records ∧
    ∀ pa, (s.lookHead die h).readByte pa = s.readByte pa) ∧
  (∀ (s : State) (c q : Nat) (d : QDesc), s.qdesc c q = some d →
    let t := s.advanceHead c q
    let last : Prop := (s.tailOf c q d - d.head).toNat = 1
    t.ready = s.ready.filter (fun e => !(e.1 == c && e.2.1 == q && e.2.2.1 == d.head)) ∧
    (∀ pa, t.readByte pa =
      (s.writeVirt c ((s.ctx c).qdBase.toNat + 64 * q + 12) (leBytes 4 (d.head + 1#32).toNat)).readByte pa) ∧
    (last → ∀ x, some x ∈ t.hwslots → ¬ (x.ctx = c ∧ x.queue = q)) ∧ (¬ last → t.hwslots = s.hwslots)) ∧
  (∀ (s : State) (h : Head), h.r.ctx < s.ctxs.length → ((s.discardHead h).ctx h.r.ctx).ctxQerr = BitVec.ofNat 32 (2 ^ 31 + h.r.queue % 4096)) ∧
  (∀ (s : State) (r : Record) (k : KObj) (vi : Nat) (v : Variant) (core : Nat) (place : Nat × Nat) (areas : List Nat),
    (∀ b ∈ s.blocks, b.id ≠ s.nextId) → r ∈ s.records → (s.records.map (·.id)).Nodup →
    let t := s.startBlock r k vi v core place areas
    (s.objectChanged r k = false → s.placeBlock r k vi v core place areas = t) ∧
    (s.objectChanged r k = true → s.placeBlock r k vi v core place areas = t.spoilBlock s.nextId) ∧
    ∃ b, t.block? s.nextId = some b ∧ b.loc = .core core ∧ b.ctx = r.ctx ∧ b.record = r.id ∧ b.index = r.next ∧ b.variant = vi ∧ b.placed.1 = s.ns ∧
      b.spad = [] ∧ b.acc = [] ∧ b.idemp = k.idemp ∧ b.warps.length = v.nwarp ∧
      (∃ r1 ∈ t.records, r1.id = r.id ∧ r1.next = r.next + 1) ∧
      ∀ (i : Nat) (w : Warp), b.warps[i]? = some w → w.path0 = some (Path.at (BitVec.ofNat 64 (r.kobj + v.entry)) (BitVec.allOnes 32) none) ∧
        w.path1 = none ∧ w.exited = 0#32 ∧ w.stack = [] ∧ w.ended = false ∧ w.vregs.length = 8 * v.regb ∧
        (∀ n l, l < 32 → (w.vreg n).lane l = KVal.plain 0#32) ∧
        (∀ n, w.sreg n = if n = 0 then BitVec.ofNat 32 r.frame else if n = 1 then BitVec.ofNat 32 (r.frame / 2 ^ 32) else 0#32) ∧
        (∀ n l, n < 7 → l < 32 → w.pred n l = { val := false, px := none }) ∧ (∀ x ∈ w.flags, x = 0) ∧
        (∀ x ∈ w.shapes, x.v = false) ∧ w.holds = [] ∧ w.frame = none)

/-- Making room, yielding cores, and the end of a record. SHRINK_REQUEST for a slot without a head, or whose record
has room or has asked, changes nothing but withdrawn grow requests and the translations cached for its object; else
it notes from when a block may be pre-empted. PRIORITY_PREEMPT before that time changes nothing; after it, of the
blocks of the context that run, have lower priority and leave room for the record when they go, it stops the one of
lowest priority, the youngest among equals (which of several placed at one time is the younger is free: log entry
101), and no other, and withdraws the record's requests to shrink. GROW_REQUEST and CONTEXT_YIELD change nothing
where no variant or no record asks, and else post the request, or close the core for its context after 50 µs.
BLOCK_END_JDEC removes a finished record whose stores are visible; with no continuation that is all but the A and D
bits that the last record of its kernel writes back to page-table entries; a continuation that is no record address
sets CTX_QERR, and one on an absent page waits; before all blocks have ended nothing changes. DEFERRED_PUSH pushes a
ready record into its ring when there is room and none of its queue became ready before it. The model's choices in
it: log entries 46, 47, 66, 67, 85, 93 and 101. (06_launch_and_residency.md, R92, R93, R95, R96, R105) -/
def Obligations.RoomIsMadeAndRecordsEnd : Prop :=
  (∀ s : State, s.slotHead (s.arg 0) = none → exec .shrinkRequest s = .next s ∧ exec .priorityPreempt s = .next s) ∧
  (∀ (s : State) (h : Head), s.slotHead (s.arg 0) = some h →
    (h.r.room ≠ none → exec .shrinkRequest s = .next s) ∧ (s.lacksRoom h = none → exec .shrinkRequest s = .next s) ∧
    let s1 := (s.lookHead (s.homeDie h.r.ctx) h).dropGrows h.r.ctx
    (∀ k, h.r.room = none → s.lacksRoom h = some k → s1.lacksRoom h = none → exec .shrinkRequest s = .next s1) ∧
    (∀ k, h.r.room = none → s.lacksRoom h = some k → s1.lacksRoom h ≠ none → h.fresh = false →
      (∃ r ∈ s.records, r.id = h.r.id) → ∃ t : State, exec .shrinkRequest s = .next t ∧
        (∃ r ∈ t.records, r.id = h.r.id ∧ r.obj = h.r.obj ∧ ∃ n, r.room = some n ∧ s.ns ≤ n) ∧
        (∀ b ∈ t.blocks, ∀ q, b.reshape = some q → q.record = some h.r.id → (∃ b0 ∈ s.blocks, b0.reshape = some q) ∨
          (b.ctx = h.r.ctx ∧ b.prio < h.r.prio ∧ b.variant < q.target ∧ q.grow = false))) ∧
    (∀ n, h.r.room = some n → s.ns < n → exec .priorityPreempt s = .next s) ∧
    (∀ n k, h.r.room = some n → n ≤ s.ns → s.lacksRoom h = some k → (∀ b ∈ s.blocks, b.ctx = h.r.ctx → b.stopping = false) →
      let frees (b : Block) : Prop := b ∈ s.blocks ∧ b.ctx = h.r.ctx ∧ b.prio < h.r.prio ∧ s.runs b = true ∧
        ∃ core, b.core? = some core ∧ ∃ v ∈ k.variants, (s.fitsBeside (fun x => x.id != b.id) [] core b.ctx v.need).isSome = true
      ((∀ b, ¬ frees b) → exec .priorityPreempt s = .next s) ∧
      ((∃ b, frees b) → ∃ (b c : Block), frees b ∧ (∀ x, frees x → b.prio < x.prio ∨ (b.prio = x.prio ∧ b.younger x = true)) ∧
        (s.dropShrinks h.r.id).block? b.id = some c ∧
        exec .priorityPreempt s = .next ((s.dropShrinks h.r.id).setBlock { c with stopping := true }))) ∧
    (let u := s.dropShrinks h.r.id
     let asked (b : Block) : Prop := ∃ q, b.reshape = some q ∧ q.record = some h.r.id ∧ b.switching = false
     { u with blocks := s.blocks } = s ∧ u.blocks.length = s.blocks.length ∧
     (∀ (i : Nat) (b : Block), s.blocks[i]? = some b → (asked b → u.blocks[i]? = some b.dropReshape) ∧ (¬ asked b → u.blocks[i]? = some b)) ∧
     ∀ (b : Block), b.dropReshape.reshape = none ∧ { b.dropReshape with reshape := b.reshape, switches := b.switches } = b) ∧
    (∀ (u : State) (c : Block), { u.setBlock { c with stopping := true } with blocks := u.blocks } = u ∧
      ∀ n, n ≠ c.id → (u.setBlock { c with stopping := true }).block? n = u.block? n) ∧
    ((s.blocks.map (·.id)).Nodup → ∀ t : State, exec .priorityPreempt s = .next t → ∀ b ∈ t.blocks, b.stopping = true → (∃ b0 ∈ s.blocks, b0.id = b.id ∧ b0.stopping = true) ∨
      (b.ctx = h.r.ctx ∧ b.prio < h.r.prio))) ∧
  (∀ (s : State) (b : Block), s.block? (s.arg 0) = some b →
    ((s.runs b = false ∨ b.reshape ≠ none ∨ s.growOf b = none) → exec .growRequest s = .next s) ∧
    (∀ q, s.runs b = true → b.reshape = none → (∀ r ∈ s.records, r.ctx = b.ctx → r.room = none) → s.growOf b = some q →
      exec .growRequest s = .next (s.setBlock { b with reshape := some q }) ∧ q.target < b.variant ∧ q.grow = true)) ∧
  (∀ (s : State) (x : Nat), s.arg 0 < s.cores.length → (s.core (s.arg 0)).ctx = some x →
    ((s.ns < (s.core (s.arg 0)).taken + 50000 ∨ s.heads = []) → exec .contextYield s = .next s) ∧
    (∀ h, (s.core (s.arg 0)).closed = false → (s.core (s.arg 0)).taken + 50000 ≤ s.ns → s.heads = [h] → h.r.ctx ≠ x →
      s.needsCore (s.arg 0) h = true → s.canTake (s.arg 0) h.r.ctx ((s.headObj h).getD default) = false →
      ∃ t : State, exec .contextYield s = .next t ∧ (t.core (s.arg 0)).closed = true ∧ t.takes (s.arg 0) x = false ∧ t.blocks = s.blocks)) ∧
  (∀ (s : State) (r : Record), s.record? (s.arg 0) = some r →
    ((r.next ≠ r.first + r.count ∨ r.ended ≠ r.count) → exec .blockEndJdec s = .next s) ∧
    (r.next = r.first + r.count → r.ended = r.count → s.recordDrained r = true →
      let more : Prop := ∃ x ∈ s.records, x.id ≠ r.id ∧ x.ctx = r.ctx ∧ x.kobj = r.kobj
      let u := s.harvest (fun e => e.ctx == r.ctx) false
      let ended (k v : State) : Prop := exec .blockEndJdec s = .next { v with records := k.records.filter fun x => x.id != r.id }
      let ends (k : State) : Prop :=
        (r.cont = 0 → ended k k) ∧ (r.cont % 64 ≠ 0 → ended k (k.queueError r.ctx r.qid)) ∧
        (r.cont ≠ 0 → r.cont % 64 = 0 → k.readVirt r.ctx r.cont 64 = .error 0x01 → exec .blockEndJdec s = .next s)
      (more → ends s) ∧ (¬ more → ends u ∧ u.records = s.records ∧ u.blocks = s.blocks ∧ u.deferred = s.deferred ∧
        u.service = s.service ∧ u.ready = s.ready ∧
        ∀ pa, (∀ e ∈ s.tlb, e.ctx = r.ctx → pa ≠ e.pte + 1) → u.readByte pa = s.readByte pa))) ∧
  (∀ (s : State) (d : Nat × Nat × Nat), s.deferred[s.arg 0]? = some d →
    (∀ s1, (∀ e ∈ s.deferred.take (s.arg 0), e.1 = d.1 → s.queueOf e ≠ s.queueOf d) → s.pushReady d.1 d.2.1 d.2.2 = some s1 →
      exec .deferredPush s = .next { s1 with deferred := s1.deferred.eraseIdx (s.arg 0) }) ∧
    ((s.pushReady d.1 d.2.1 d.2.2 = none ∨ (∃ e ∈ s.deferred.take (s.arg 0), e.1 = d.1 ∧ s.queueOf e = s.queueOf d)) →
      exec .deferredPush s = .next s))

/-- Burgees, furling, the deadlock probe and the base-die ports. BURGEE_PASS lets the holder send at most 4 of its
flits, in their order, and passes the burgee to the next station exactly when another station has demand. FURL takes
an idle waveguide to 1 wavelength and UNFURL back to full width. A write of FURL_CTL stores TIME within 8 to 20 and
EN. DEADLOCK_PROBE before the head has waited 4,096 cycles of its station's clock changes nothing; a cycle of two
full buffers then recovers by steps; where no escape slot is taken each head moves into the other buffer, and with
no further hops to go neither buffer is full at the end. RD, WR and WRM join the port's requests with the header of
R355 when fewer than 8 are outstanding and the tag is free, and are not sent otherwise; RDRSP and WRACK wait while a
refresh of the channel has reached its deadline; then RDRSP returns the 64 bytes the channel holds and frees the
tag, and WRACK puts those bytes of the write that its mask selects and its slice still holds, as written or as the
device filled them, in the channel, changing no byte a load reads; a byte that the slice holds as it was sent is
clean afterwards, unless a later write of it is outstanding. The model's choices in it: log entries 7, 53, 54 and
110. (15_bank_side_units.md, 23_fabric_and_links.md, R297, R351, R353, R354, R355, R356, R377, R378, R379) -/
def Obligations.FabricAndPorts : Prop :=
  (∀ s : State, s.arg 0 < 64 + 16 * 32 → let w := s.waveguide (s.arg 0)
    ∃ t : State, exec .burgeePass s = .next t ∧ let w1 := t.waveguide (s.arg 0)
      ∃ out : List (Nat × Nat), w1.sent = w.sent ++ out ∧ out = (w.demand.filter fun f => f.1 == w.burgee).take 4 ∧
        w1.demand.length + out.length = w.demand.length ∧ (w1.demand.filter fun f => f.1 != w.burgee) = w.demand.filter (fun f => f.1 != w.burgee) ∧
        ((∀ f ∈ w.demand, f.1 = w.burgee) → w1.burgee = w.burgee) ∧
        ((∃ f ∈ w.demand, f.1 ≠ w.burgee) → w1.burgee = nextStation w.id w.burgee)) ∧
  (∀ s : State, s.arg 0 < 64 + 16 * 32 → let w := s.waveguide (s.arg 0)
    (s.dev.furlEn = true → w.demand = [] → w.unfurlAt = none → w.idleSince + 2 ^ s.dev.furlTime ≤ s.ns →
      ∃ t : State, exec .furl s = .next t ∧ (t.waveguide (s.arg 0)).wavelengths = 1) ∧
    ((s.dev.furlEn = false ∨ w.demand ≠ [] ∨ s.ns < w.idleSince + 2 ^ s.dev.furlTime) → exec .furl s = .next s) ∧
    (w.unfurlAt ≠ none → ∃ t : State, exec .unfurl s = .next t ∧ (t.waveguide (s.arg 0)).unfurlAt = none ∧
      (t.waveguide (s.arg 0)).wavelengths = if w.id < 64 then 16 else 8)) ∧
  (∀ s : State, s.dev.ready = true → ∃ t : State, exec .furlCtlWrite s = .next t ∧ t.dev.furlEn = (s.arg 0).testBit 0 ∧
    8 ≤ t.dev.furlTime ∧ t.dev.furlTime ≤ 20 ∧
    (8 ≤ s.arg 0 / 2 % 32 → s.arg 0 / 2 % 32 ≤ 20 → t.dev.furlTime = s.arg 0 / 2 % 32)) ∧
  (∀ s : State, let x := s.arg 0
    let b := s.buffer x
    ((b.packets = [] ∨ s.stationTime x < b.since + 4096) → exec .deadlockProbe s = .next s) ∧
    ∀ d, s.headWaits b = some d → s.headWaits (s.buffer d) = some x → d ≠ x →
      b.since + 4096 ≤ s.stationTime x →
      (∃ n, exec .deadlockProbe s = .next (s.recover [x, d] n)) ∧
      ((s.buffer d).escape = none → b.escape = none → (s.buffer d).packets.length ≤ bufferRoom d → b.packets.length ≤ bufferRoom x →
        let u := s.recoverStep [x, d]
        (u.buffer d).packets = (s.buffer d).packets.drop 1 ++ (b.packets.head?.map (·.drop 1)).toList ∧
        (u.buffer x).packets = b.packets.drop 1 ++ ((s.buffer d).packets.head?.map (·.drop 1)).toList ∧
        ((∀ p ∈ b.packets, p = [d]) → (∀ p ∈ (s.buffer d).packets, p = [x]) →
          ∃ t : State, exec .deadlockProbe s = .next t ∧ (t.buffer x).full = false ∧ (t.buffer d).full = false))) ∧
  (∀ s : State,
    let headed (h : BitVec 128) (code tag slice chan sector : Nat) (mask : DWord) : Prop :=
      h.extractLsb' 124 4 = BitVec.ofNat 4 code ∧ h.extractLsb' 121 3 = BitVec.ofNat 3 tag ∧ h.extractLsb' 115 6 = BitVec.ofNat 6 slice ∧
      h.extractLsb' 110 5 = BitVec.ofNat 5 chan ∧ h.extractLsb' 106 4 = 0#4 ∧ h.extractLsb' 80 26 = BitVec.ofNat 26 sector ∧
      h.extractLsb' 64 16 = 0#16 ∧ h.extractLsb' 0 64 = mask
    (∀ (i : Instr) (code : Nat) (mask : Option DWord), (i, code, mask) ∈ [(Instr.rdPacket, 1, none), (.wrPacket, 2, some (BitVec.allOnes 64)),
        (.wrm, 3, some (BitVec.ofNat 64 (s.arg 5)))] →
      let ready := s.portReady (s.arg 0) (s.arg 1) (s.arg 2) (s.arg 3) (s.arg 4 % 8)
      let pa := sectorAddr (s.arg 1) (s.arg 2) (s.arg 3)
      (ready = false → exec i s = .next s) ∧
      (ready = true → (mask = none ∨ s.uncached pa = false) → ∃ h : BitVec 128,
        headed h code (s.arg 4) (s.arg 0) (s.arg 2) (s.arg 3) (if code = 3 then mask.getD 0#64 else 0#64) ∧
        exec i s = .next { s with
          portHead := h
          ports := s.ports ++
            [{ slice := s.arg 0, stack := s.arg 1, tag := BitVec.ofNat 3 (s.arg 4), write := mask.isSome, chan := s.arg 2, sector := s.arg 3
               mask := mask.getD 0#64, data := if mask.isSome then s.readPhys pa 64 else [] }] })) ∧
    (∀ r : PortReq, s.replyTo (s.arg 0) (s.arg 1) (s.arg 2) false = some r →
      (s.refreshDue (32 * r.stack + r.chan) = true → exec .rdrsp s = .next s) ∧
      (s.refreshDue (32 * r.stack + r.chan) = false → ∃ t : State, exec .rdrsp s = .next t ∧ t.portReply = Memory.readList s.dram (sectorAddr r.stack r.chan r.sector) 64 ∧
        headed t.portHead 8 r.tag.toNat r.slice r.chan r.sector 0#64 ∧
        ∀ x ∈ t.ports, ¬ (x.slice = r.slice ∧ x.stack = r.stack ∧ x.tag = r.tag))) ∧
    (∀ r : PortReq, s.replyTo (s.arg 0) (s.arg 1) (s.arg 2) true = some r →
      (s.refreshDue (32 * r.stack + r.chan) = true → exec .wrack s = .next s) ∧
      (s.refreshDue (32 * r.stack + r.chan) = false → Memory.wf s.dram = true → overWf s.l2 = true →
      let pa := sectorAddr r.stack r.chan r.sector
      (∀ i, i < 64 → inHbm (pa + i) = true) → r.data.length = 64 →
      ∃ t : State, exec .wrack s = .next t ∧ (∀ a, t.readByte a = s.readByte a) ∧ headed t.portHead 9 r.tag.toNat r.slice r.chan r.sector 0#64 ∧
        (∀ i v, i < 64 → r.mask.getLsbD i = true → s.fillOf (pa + i) = none → overGet s.l2 (pa + i) = some v →
          Memory.read t.dram (pa + i) = nth 0#8 r.data i ∧ (v = nth 0#8 r.data i → s.laterWrite r i = false → overGet t.l2 (pa + i) = none) ∧
          ((v ≠ nth 0#8 r.data i ∨ s.laterWrite r i = true) → overGet t.l2 (pa + i) = some v)) ∧
        (∀ i, i < 64 → r.mask.getLsbD i = true → s.fillOf (pa + i) ≠ none → Memory.read t.dram (pa + i) = nth 0#8 r.data i ∧
          (s.readByte (pa + i) = nth 0#8 r.data i → s.laterWrite r i = false → t.fillOf (pa + i) = none)) ∧
        (∀ a, (∀ i, i < 64 → r.mask.getLsbD i = true → a = pa + i → overGet s.l2 a = none ∧ s.fillOf a = none) → Memory.read t.dram a = Memory.read s.dram a) ∧
        ∀ x ∈ t.ports, ¬ (x.slice = r.slice ∧ x.stack = r.stack ∧ x.tag = r.tag))))

namespace Sys2Proof.Machine

/-- A 64-bit CSR with one of its words written. -/
def withLow (x : DWord) (v : Word) : DWord := x.extractLsb' 32 32 ++ v
/-- The same, its high word. -/
def withHigh (x : DWord) (v : Word) : DWord := v ++ x.extractLsb' 0 32

/-- The context CSRs that a CSR write reaches, by number, with what the context holds after the write of a value, reserved bits 0
(R2, R314, R316). -/
def Ctx.csrTable (c : Ctx) (v : Word) : List (Nat × Ctx) :=
  [(0x020, { c with schedExp := v &&& 0x001F1F01#32 }), (0x021, { c with memExp := v &&& 0x001FFF01#32 }),
   (0x022, { c with circExp := v &&& 0x0000FFFF#32 }), (0x023, { c with pxExp := v &&& 0x0000FFFF#32 }),
   (0x02C, { c with ctxQerr := v &&& 0x80000FFF#32 }), (0x041, { c with pxQuota := v &&& 0x0000FFFF#32 }),
   (0x042, { c with circLimit := v.toNat % 2 ^ 11 }), (0x043, { c with trapVec := withLow c.trapVec v }),
   (0x044, { c with trapVec := withHigh c.trapVec v }), (0x045, { c with trapLen := v }),
   (0x046, { c with ptRoot := withLow c.ptRoot v }), (0x047, { c with ptRoot := withHigh c.ptRoot v }),
   (0x048, { c with privBase := withLow c.privBase v }), (0x049, { c with privBase := withHigh c.privBase v }),
   (0x04A, { c with pwBase := withLow c.pwBase v }), (0x04B, { c with pwBase := withHigh c.pwBase v }),
   (0x04C, { c with qdBase := withLow c.qdBase v }), (0x04D, { c with qdBase := withHigh c.qdBase v }),
   (0x04E, { c with saveBase := withLow c.saveBase v }), (0x04F, { c with saveBase := withHigh c.saveBase v }),
   (0x050, { c with frBase := withLow c.frBase v }), (0x051, { c with frBase := withHigh c.frBase v }),
   (0x053, { c with frTail := v }), (0x05D, { c with privSize := v }), (0x05E, { c with saveSize := v })]
  ++ (List.range 8).map (fun k => (0x024 + k, { c with pxLost := setNth c.pxLost k (nth 0#32 c.pxLost k &&& ~~~v) }))
  ++ (List.range 8).map fun k => (0x054 + k, { c with coreMask := setNth c.coreMask k v })

end Sys2Proof.Machine

/-- What the host and peers can read, write and ask for. On a device that is ready, a host write through BAR2 or
BAR4 and a peer's write store their bytes and no others, and a host read returns the bytes as loads see them; a
no-snoop or peer read returns what memory holds past the L2; a read of BAR0 gives a context CSR, a route, MIG_REQ or
a device CSR by its offset, reserved bits 0, and a write there of a context CSR is CSR_WRITE and one of
BOOT_CTL.RESET is BOOT_RESET, which step of it fails, and whether it is over at once, being free values; before
READY the device answers reads of DEV_ID and BOOT_STAT and writes of BOOT_CTL, and nothing else changes. CSR_WRITE
gives each context CSR that the host writes its value, without reserved bits, while the context is IDLE, or at any
time for those the program may write and for TRAP_VEC and PT_ROOT, and changes no other context, the handles that
outlive a LOST bit so cleared naming no run (log entry 102); any other then takes a free value; a partition word
whose fields do not add to 48, or with REG 0, is not taken. PEER_ROUTE_WRITE sets its route. A request in MIG_REQ
that its page admits is queued, and one with a reserved bit, to a full queue or for another page is counted as
dropped, MIG_STAT_READ returns and clears the count, and MIGRATION_MOVE takes the oldest request, moving its page's
bytes to another frame, which its page-table entry then names, with the old translation gone; where the tier has no
frame the request is dropped. The model's choices in it: log entries 19, 30, 34, 49, 50, 59, 68, 102 and 103.
(10_memory_access.md, 16_traps_and_context.md, 23_fabric_and_links.md, R186, R187, R314, R317, R357, R359, R360,
R361) -/
def Obligations.HostAccesses : Prop :=
  (∀ s : State, s.dev.ready = false → ∀ i ∈ [Instr.hostMemoryAccess, .peerRequest, .csrWrite, .peerRouteWrite, .migReqWrite, .migStatRead],
    (i = .hostMemoryAccess → s.arg 0 ≠ 2) → exec i s = .next s) ∧
  (∀ s : State, s.arg 0 = 2 → s.arg 3 = 0 → s.arg 4 = 4 →
    let gives (v : Word) : Prop := exec .hostMemoryAccess s = .next { s with hostReply := leBytes 4 v.toNat }
    (s.arg 1 = 0x600000 → gives s.devId) ∧
    (s.arg 1 = 0x600004 → gives (BitVec.ofNat 32 ((if s.dev.ready then 2 ^ 8 else 0) + s.dev.bootErr.toNat))) ∧
    (s.dev.ready = false → (s.arg 1 < 0x600000 ∨ 0x600008 ≤ s.arg 1) → exec .hostMemoryAccess s = .next { s with hostReply := [] }) ∧
    (s.dev.ready = true → (∀ c n, c < 64 → s.arg 1 = 0x1000 * c + 4 * n → (0x020 ≤ n ∧ n ≤ 0x02C ∨ 0x040 ≤ n ∧ n ≤ 0x05E) → gives (s.ctxCsr c n)) ∧
      (∀ p, p < 64 → s.arg 1 = 0x580000 + 4 * p → gives (nth 0#32 s.peerRoute p &&& 0x801F073F#32)) ∧
      (s.arg 1 = 0x500010 → gives (s.migReq.extractLsb' 0 32 &&& 0xFFFF3F03#32)) ∧
      (s.arg 1 = 0x500014 → gives (s.migReq.extractLsb' 32 32 &&& 0x01FFFFFF#32)) ∧
      (s.arg 1 = 0x600018 → gives (BitVec.ofNat 32 (2 * s.dev.furlTime + (if s.dev.furlEn then 1 else 0)))))) ∧
  (∀ (s : State) (b0 b1 b2 b3 : Nat), s.arg 0 = 2 → s.arg 3 ≠ 0 → s.arg 4 = 4 → s.args.drop 5 = [b0, b1, b2, b3] →
    (s.dev.ready = false → s.arg 1 ≠ 0x600008 → exec .hostMemoryAccess s = .next s) ∧
    (s.arg 1 = 0x600008 → b0 % 2 = 0 → exec .hostMemoryAccess s = .next s) ∧
    (s.arg 1 = 0x600008 → b0 % 2 = 1 → ∃ x t, s.draw.1 = x ∧ exec .bootReset { s.draw.2 with args := [x.toNat % 6, x.toNat / 6 % 2] } = .next t ∧
      exec .hostMemoryAccess s = .next { t with args := s.args })) ∧
  (∀ (s : State) (c n b0 b1 b2 b3 : Nat) (rest : List Nat), s.dev.ready = true → s.arg 0 = 2 → s.arg 3 ≠ 0 → s.arg 4 = 4 → c < 64 →
    s.arg 1 = 0x1000 * c + 4 * n → (0x020 ≤ n ∧ n ≤ 0x02C ∨ 0x040 ≤ n ∧ n ≤ 0x05E) → n ≠ 0x052 → n ≠ 0x05C →
    s.args.drop 5 = b0 :: b1 :: b2 :: b3 :: rest →
    ∃ t : State, exec .csrWrite { s with args := [1, c, n, leNat [BitVec.ofNat 8 b0, BitVec.ofNat 8 b1, BitVec.ofNat 8 b2, BitVec.ofNat 8 b3]] } = .next t ∧
      exec .hostMemoryAccess s = .next { t with args := s.args }) ∧
  (∀ s : State, s.dev.ready = true →
    let reads (t : State) (pa n : Nat) (bs : List Nat) : Prop :=
      (∀ i, i < n → t.readByte (pa + i) = BitVec.ofNat 8 (nth 0 bs i)) ∧ ∀ x, (x < pa ∨ pa + n ≤ x) → t.readByte x = s.readByte x
    (Memory.wf s.dram = true → overWf s.l2 = true → (∀ x, s.uncached x = true → overGet s.l2 x = none) →
      (s.arg 0 = 0 → s.arg 3 ≠ 0 → s.arg 1 + s.arg 4 ≤ 2 ^ 39 → s.args.length = 5 + s.arg 4 →
        ∃ t : State, exec .hostMemoryAccess s = .next t ∧ reads t (s.arg 1) (s.arg 4) (s.args.drop 5)) ∧
      (s.arg 0 = 1 → s.arg 3 ≠ 0 → s.arg 1 + s.arg 4 ≤ 2 ^ 44 → s.args.length = 5 + s.arg 4 →
        ∃ t : State, exec .hostMemoryAccess s = .next t ∧ reads t (2 ^ 48 + s.arg 1) (s.arg 4) (s.args.drop 5)) ∧
      (s.arg 1 ≠ 0 → s.arg 0 + s.arg 2 ≤ 2 ^ 39 → s.args.length = 3 + s.arg 2 →
        ∃ t : State, exec .peerRequest s = .next t ∧ reads t (s.arg 0) (s.arg 2) (s.args.drop 3))) ∧
    (s.arg 2 = 0 → s.arg 3 = 0 → s.arg 0 = 0 → s.arg 1 + s.arg 4 ≤ 2 ^ 39 → ∃ t : State, exec .hostMemoryAccess s = .next t ∧
      { t with hostReply := s.hostReply } = s ∧ t.hostReply.length = s.arg 4 ∧
      ∀ i, i < s.arg 4 → nth 0#8 t.hostReply i = s.readByte (s.arg 1 + i)) ∧
    (s.arg 2 = 0 → s.arg 3 = 0 → s.arg 0 = 1 → s.arg 1 + s.arg 4 ≤ 2 ^ 44 → ∃ t : State, exec .hostMemoryAccess s = .next t ∧
      { t with hostReply := s.hostReply } = s ∧ t.hostReply.length = s.arg 4 ∧
      ∀ i, i < s.arg 4 → nth 0#8 t.hostReply i = s.readByte (2 ^ 48 + s.arg 1 + i)) ∧
    (s.arg 2 ≠ 0 → s.arg 3 = 0 → s.arg 0 < 2 → s.arg 1 + s.arg 4 ≤ (if s.arg 0 = 0 then 2 ^ 39 else 2 ^ 44) →
      exec .hostMemoryAccess s = .next { s with
        hostReply := Memory.readList s.dram ((if s.arg 0 = 0 then 0 else 2 ^ 48) + s.arg 1) (s.arg 4) }) ∧
    (s.arg 1 = 0 → s.arg 0 + s.arg 2 ≤ 2 ^ 39 →
      exec .peerRequest s = .next { s with hostReply := Memory.readList s.dram (s.arg 0) (s.arg 2) }) ∧
    (s.arg 0 ≠ 0 → s.arg 1 < s.ctxs.length → s.ctxIdle (s.arg 1) = false → anyTime (s.arg 2) = false → ∃ (x : Word) (t : State), exec .csrWrite s = .next t ∧
      t.ctx (s.arg 1) = (s.ctx (s.arg 1)).hostWrite (s.arg 2) x ∧ { t with ctxs := s.ctxs, drawn := s.drawn } = s ∧ ∀ y, y ≠ s.arg 1 → t.ctx y = s.ctx y) ∧
    (∀ v : Word, v = BitVec.ofNat 32 (s.arg 3) → s.arg 0 ≠ 0 → s.arg 1 < s.ctxs.length → (s.ctxIdle (s.arg 1) = true ∨ anyTime (s.arg 2) = true) →
      let c := s.ctx (s.arg 1)
      let shares : Bool := bits v 5 0 + bits v 11 6 + bits v 17 12 == 48 && bits v 5 0 != 0
      ∃ t : State, exec .csrWrite s = .next t ∧ (∀ x, x ≠ s.arg 1 → t.ctx x = s.ctx x) ∧ { t with ctxs := s.ctxs, blocks := s.blocks } = s ∧
        t.blocks = (({ s with ctxs := t.ctxs } : State).clearedLost (s.arg 1) c).blocks ∧ ((s.arg 2 < 0x024 ∨ 0x02B < s.arg 2) → t.blocks = s.blocks) ∧
        (∀ e ∈ c.csrTable v, s.arg 2 = e.1 → t.ctx (s.arg 1) = e.2) ∧
        (s.arg 2 = 0x040 → t.ctx (s.arg 1) = if shares then { c with partWord := v &&& 0x3FFFF#32 } else c) ∧
        ((∀ e ∈ c.csrTable v, s.arg 2 ≠ e.1) → s.arg 2 ≠ 0x040 → t.ctx (s.arg 1) = c)) ∧
    (∃ t : State, exec .peerRouteWrite s = .next t ∧ (s.arg 0 < s.peerRoute.length → t.peerRoute[s.arg 0]? = some (BitVec.ofNat 32 (s.arg 1))) ∧
      { t with peerRoute := s.peerRoute } = s) ∧
    (∃ t : State, exec .migStatRead s = .next t ∧ t.migDropped = 0#16 ∧
      t.hostReply = leBytes 4 (s.migDropped.toNat * 2 ^ 16 + s.migQueue.length % 256)) ∧
    (s.arg 0 = 0 → ∃ t : State, exec .migReqWrite s = .next t ∧ t.migReq.extractLsb' 0 32 = BitVec.ofNat 32 (s.arg 1) ∧
      t.migReq.extractLsb' 32 32 = s.migReq.extractLsb' 32 32 ∧ t.migQueue = s.migQueue) ∧
    (s.arg 0 ≠ 0 →
      let r : DWord := BitVec.ofNat 32 (s.arg 1) ++ s.migReq.extractLsb' 0 32
      let m : MigReq := { ctx := (r.extractLsb' 8 6).toNat, va := 65536 * (r.extractLsb' 16 41).toNat, toPool := r.getLsbD 0 }
      let clean : Prop := r.extractLsb' 57 7 = 0#7 ∧ r.extractLsb' 14 2 = 0#2 ∧ r.extractLsb' 1 7 = 0#7
      let s1 : State := { s with migReq := r }
      (clean → s.migQueue.length < 64 → s.movable m.ctx m.va m.toPool ≠ none →
        exec .migReqWrite s = .next { s1 with migQueue := s.migQueue ++ [m] }) ∧
      ((¬ clean ∨ 64 ≤ s.migQueue.length ∨ s.movable m.ctx m.va m.toPool = none) → exec .migReqWrite s = .next s1.dropMig))) ∧
  (∀ s : State, (s.migDropped ≠ BitVec.allOnes 16 → s.dropMig = { s with migDropped := s.migDropped + 1#16 }) ∧
    ∃ x d, s.dropMig = { s with migDropped := x, drawn := d }) ∧
  (∀ (s : State) (m : MigReq) (rest : List MigReq), s.migQueue = m :: rest →
    let s1 := { s with migQueue := rest }
    (s1.movable m.ctx m.va m.toPool = none → exec .migrationMove s = .next s1.dropMig) ∧
    (∀ l x s2, s1.movable m.ctx m.va m.toPool = some l → s1.draw = (x, s2) →
      (s2.frameAt m.toPool l.size x = none → exec .migrationMove s = .next s1.dropMig) ∧
      (∀ new, s2.frameAt m.toPool l.size x = some new → Memory.wf s.dram = true → overWf s.l2 = true →
        (∀ a, s.uncached a = true → overGet s.l2 a = none) → (∀ i, i < 8 → inWindow (l.pte + i) = false) →
        (∀ p, (p = l.pte ∨ ∃ e ∈ s.tlb, p = e.pte) → p + 8 ≤ new ∨ new + l.size ≤ p) →
        ∃ t : State, exec .migrationMove s = .next t ∧ t.migQueue = rest ∧
          (∀ i, i < l.size → t.readByte (new + i) = s.readByte (l.pa + i)) ∧ leNat (t.readPhys l.pte 8) / 2 ^ 16 % 2 ^ 36 = new / 2 ^ 16 % 2 ^ 36 ∧
          ∀ e ∈ t.tlb, e.ctx = m.ctx → ¬ (e.base ≤ m.va ∧ m.va < e.base + e.size))))

/-- Power-on, BOOT_RESET, attestation, clocks and the thermal trip. POWER_ON_RESET and BOOT_RESET leave every
context, core, channel and home as State.reset has it, READY set, or READY clear and the step in ERR when a step of
bring-up fails, as step 2 does for as long as the package flash holds a bad image, or READY and ERR clear while
bring-up is under way; the chip's stepping and salvaged parts stand; the pooled tier keeps its bytes through both,
and HBM through BOOT_RESET but for bytes the L2 had not written back. ATTESTATION_GO starts a report once, and
ATTESTATION_DONE writes it to the host's buffer and ends it; CLOCK_STEP_CHANGE sets a die's clock between 8 and 16;
THERMAL_TRIP stops every context, and removes power once none has a block on a core or a transfer of one under way:
blocks that are saved stay as they are. The model's choices in it: log entries 1, 51, 52 and 109.
(25_bringup_and_power.md, R374, R375, R376, R377) -/
def Obligations.BringUpAndPower : Prop :=
  (∀ (s : State) (i : Instr), (i = .powerOnReset ∨ i = .bootReset) → ∃ t : State, exec i s = .next t ∧
    t.ctxs = State.reset.ctxs ∧ t.blocks = State.reset.blocks ∧ t.cores = State.reset.cores ∧ t.chans = State.reset.chans ∧ t.homes = State.reset.homes ∧
    t.tlb = State.reset.tlb ∧ t.ring = State.reset.ring ∧ t.l2 = State.reset.l2 ∧
    (s.arg 0 = 0 → s.arg 1 = 0 → s.dev.badImage = false → t.dev = { State.reset.dev with step := s.dev.step, salv := s.dev.salv }) ∧
    (1 ≤ s.arg 0 → s.arg 0 ≤ 5 → s.arg 1 = 0 → (s.dev.badImage = true → s.arg 0 = 1) → t.dev.ready = false ∧
      t.dev.bootErr = BitVec.ofNat 8 (s.arg 0) ∧ t.dev.badImage = (s.dev.badImage || s.arg 0 == 2)) ∧
    (s.dev.badImage = true → s.arg 0 ≠ 1 → s.arg 1 = 0 → t.dev.ready = false ∧ t.dev.bootErr = 2#8 ∧ t.dev.badImage = true) ∧
    (s.arg 1 ≠ 0 → t.dev.ready = false ∧ t.dev.bootErr = 0#8 ∧ t.dev.badImage = s.dev.badImage ∧
      t.dev.booting = some (if s.dev.badImage = true ∧ s.arg 0 ≠ 1 then 2 else if s.arg 0 ≤ 5 then s.arg 0 else 0)) ∧
    (Memory.wf s.dram = true → ∀ pa, (inPool pa = true ∨ i = .bootReset) → Memory.read t.dram pa = Memory.read s.dram pa)) ∧
  (∀ (s : State) (f : Nat), s.dev.booting = some f → (s.takeAction .bringUpEnds) = ({ s with dev := { s.dev with
    booting := none, ready := f == 0, bootErr := BitVec.ofNat 8 f, badImage := s.dev.badImage || f == 2 } }, none)) ∧
  (∀ s : State, s.takeAction .flash = ({ s with dev := { s.dev with badImage := false } }, none)) ∧
  (∀ s : State, (s.dev.attBusy = true → exec .attestationGo s = .next s) ∧
    (s.dev.attBusy = false → s.dev.ready = true → ∃ t : State, exec .attestationGo s = .next t ∧ t.dev.attBusy = true ∧ t.dev.attDone = false) ∧
    (s.dev.attBusy = false → exec .attestationDone s = .next s) ∧
    (s.dev.attBusy = true → ∃ t : State, exec .attestationDone s = .next t ∧ t.dev.attBusy = false ∧ t.dev.attDone = true ∧ t.dram = s.dram ∧
      (overWf s.hostMem = true → ∀ i, i < s.report.length →
        overGet t.hostMem (hostPlace (s.dev.attBuf.toNat / 4096 * 4096 + i)) = some (nth 0#8 s.report i)))) ∧
  (∀ s : State, (8 ≤ s.arg 1 → s.arg 1 ≤ 16 → s.arg 0 < s.dev.clkStat.length → ∃ t : State, exec .clockStepChange s = .next t ∧
      t.dev.clkStat[s.arg 0]? = some (BitVec.ofNat 8 (s.arg 1))) ∧
    ((s.arg 1 < 8 ∨ 16 < s.arg 1) → exec .clockStepChange s = .next s)) ∧
  (∀ s : State, ∃ t : State, exec .thermalTrip s = .next t ∧ (∀ c ∈ t.ctxs, c.stop = true) ∧
    (∀ b ∈ t.blocks, b.core?.isSome = true → b.stopping = true) ∧
    ((∃ b ∈ s.blocks, b.core?.isSome = true ∧ b.ctx < 64) → t.dev.powered = s.dev.powered) ∧
    ((∀ b ∈ s.blocks, b.core?.isSome = false ∧ ∀ x ∈ s.xfers, x.block ≠ b.id) → t.dev.powered = false) ∧
    { t with ctxs := s.ctxs, blocks := s.blocks, dev := s.dev } = s ∧ { t.dev with powered := s.dev.powered } = s.dev ∧
    t.blocks.length = s.blocks.length ∧ ∀ (i : Nat) (b c : Block), s.blocks[i]? = some b → t.blocks[i]? = some c →
      { c with stopping := b.stopping } = b ∧ (b.core?.isSome = false → c = b))
end

