-- ==== Sys2Proof/Laws/Course.lean ====
section
/-!
SUPPORT. The common course of an instruction: one lemma for each shared way in which a meaning runs, retires, traps or
waits, so that no proof about an instruction unfolds them.
-/
namespace Sys2Proof.Machine
open Sys2Proof

/-! ### Guarded instructions (R22, R23) -/

theorem guarded_acts {s : State} {a : Actx} {gn : Bool} {g : BitVec 3} (h : s.Acts a gn g) (act : Actx → Mask → State) :
    s.guarded gn g act = .next (act a (a.active gn g)) := by
  obtain ⟨h1, h2, h3⟩ := h
  simp [State.guarded, h1, h2, h3]

theorem guarded_idle {s : State} {a : Actx} {gn : Bool} {g : BitVec 3} (h1 : s.actx = some a) (h2 : a.guardPx g = false)
    (h3 : a.active gn g = 0#32) (act : Actx → Mask → State) : s.guarded gn g act = .next (s.retire a) := by
  simp [State.guarded, h1, h2, h3]

theorem guarded_proxy {s : State} {a : Actx} {gn : Bool} {g : BitVec 3} (h1 : s.actx = some a) (h2 : a.guardPx g = true)
    (act : Actx → Mask → State) : s.guarded gn g act = .next (s.raise a Code.pxuse 0x02) := by
  simp [State.guarded, h1, h2]

theorem run_acts {s : State} {a : Actx} {o : Opnds} (h : s.Acts a o.gn o.g) (act : Actx → Mask → State) :
    s.run o act = .next (act a (a.lanes o)) := guarded_acts h act

/-- A plain instruction with plain sources writes its result and retires (R42). -/
theorem plainOp_acts {s : State} {a : Actx} {o : Opnds} {xs : List Src} (h : s.ActsOn a o xs) (f : Actx → Nat → Word) :
    s.plainOp o xs f = .next ((s.wr a o.d o.sd (a.lanes o) (f a)).retire a) := by
  obtain ⟨h1, h2⟩ := h
  simp [State.plainOp, run_acts h1, Actx.lanes, h2]

/-- Values taken from the list of the sources' values are the operands. -/
theorem nth_map_operand (s : State) (a : Actx) : ∀ (xs : List Src) (l i : Nat),
    (nth (KVal.plain 0#32) (xs.map fun x => s.src a x l) i).val = s.operand a xs l i
  | [], _, i => by cases i <;> rfl
  | _ :: _, _, 0 => rfl
  | _ :: t, l, n + 1 => nth_map_operand s a t l n

/-- The same for a capable instruction (R115). -/
theorem capable_acts {s : State} {a : Actx} {o : Opnds} {xs : List Src} (h : s.ActsOn a o xs) (dst : PxDst) (fn : HomeFn) :
    s.capable o dst xs fn = .next ((s.writePx a dst (a.lanes o) (fun _ => false) (fun _ => 0#32) fun l =>
      fn.word (s.operand a xs l 0) (s.operand a xs l 1) (s.operand a xs l 2)).retire a) := by
  obtain ⟨h1, h2⟩ := h
  have key : (lanesOf (a.lanes o)).filter (fun l => (xs.map fun x => s.src a x l).any (·.px)) = [] := by
    simp only [State.anyPx, List.any_eq_false] at h2
    simp only [List.filter_eq_nil_iff, List.any_map, Function.comp_def]
    intro l hl
    have := h2 l hl
    simpa using this
  have op := nth_map_operand s a
  simp only [State.capable, run_acts h1, State.capableLanes]
  rw [key]
  simp [op]

end Sys2Proof.Machine
end

