-- ==== Sys2Proof/Laws/Dispatch.lean ====
section
/-!
SUPPORT. The dispatch, one lemma per constructor: `exec` of an instruction is its meaning.
-/
namespace Sys2Proof.Machine
open Sys2Proof

@[simp] theorem exec_clauseStart (h : Header) (s : State) : exec (.clauseStart h) s = execClauseStart h s := rfl
@[simp] theorem exec_nop (o : Opnds) (s : State) : exec (.nop o) s = execNop o s := rfl
@[simp] theorem exec_bra (t : BranchOpnds) (s : State) : exec (.bra t) s = execBra t s := rfl
@[simp] theorem exec_brx (o : Opnds) (s : State) : exec (.brx o) s = execBrx o s := rfl
@[simp] theorem exec_call (t : BranchOpnds) (s : State) : exec (.call t) s = execCall t s := rfl
@[simp] theorem exec_ret (o : Opnds) (s : State) : exec (.ret o) s = execRet o s := rfl
@[simp] theorem exec_exit (o : Opnds) (s : State) : exec (.exit o) s = execExit o s := rfl
@[simp] theorem exec_join (o : Opnds) (s : State) : exec (.join o) s = execJoin o s := rfl
@[simp] theorem exec_yield (o : Opnds) (s : State) : exec (.yield o) s = execYield o s := rfl
@[simp] theorem exec_sleep (o : Opnds) (s : State) : exec (.sleep o) s = execSleep o s := rfl
@[simp] theorem exec_sleepProm (o : Opnds) (s : State) : exec (.sleepProm o) s = execSleepProm o s := rfl
@[simp] theorem exec_sleepFor (o : Opnds) (s : State) : exec (.sleepFor o) s = execSleepFor o s := rfl
@[simp] theorem exec_sleepWake (s : State) : exec (.sleepWake) s = execSleepWake s := rfl
@[simp] theorem exec_trap (o : Opnds) (s : State) : exec (.trap o) s = execTrap o s := rfl
@[simp] theorem exec_bkpt (o : Opnds) (s : State) : exec (.bkpt o) s = execBkpt o s := rfl
@[simp] theorem exec_spawn (o : Opnds) (s : State) : exec (.spawn o) s = execSpawn o s := rfl
@[simp] theorem exec_jdec (o : Opnds) (s : State) : exec (.jdec o) s = execJdec o s := rfl
@[simp] theorem exec_swpt (o : Opnds) (s : State) : exec (.swpt o) s = execSwpt o s := rfl
@[simp] theorem exec_phase (o : Opnds) (s : State) : exec (.phase o) s = execPhase o s := rfl
@[simp] theorem exec_rbacq (o : Opnds) (s : State) : exec (.rbacq o) s = execRbacq o s := rfl
@[simp] theorem exec_rbrel (o : Opnds) (s : State) : exec (.rbrel o) s = execRbrel o s := rfl
@[simp] theorem exec_rbacqWake (s : State) : exec (.rbacqWake) s = execRbacqWake s := rfl
@[simp] theorem exec_regexh (s : State) : exec (.regexh) s = execRegexh s := rfl
@[simp] theorem exec_iaddReg (o : Opnds) (s : State) : exec (.iaddReg o) s = execIaddReg o s := rfl
@[simp] theorem exec_iaddImm (o : Opnds) (s : State) : exec (.iaddImm o) s = execIaddImm o s := rfl
@[simp] theorem exec_isubReg (o : Opnds) (s : State) : exec (.isubReg o) s = execIsubReg o s := rfl
@[simp] theorem exec_isubImm (o : Opnds) (s : State) : exec (.isubImm o) s = execIsubImm o s := rfl
@[simp] theorem exec_imulReg (o : Opnds) (s : State) : exec (.imulReg o) s = execImulReg o s := rfl
@[simp] theorem exec_imulImm (o : Opnds) (s : State) : exec (.imulImm o) s = execImulImm o s := rfl
@[simp] theorem exec_imulhReg (o : Opnds) (s : State) : exec (.imulhReg o) s = execImulhReg o s := rfl
@[simp] theorem exec_imulhImm (o : Opnds) (s : State) : exec (.imulhImm o) s = execImulhImm o s := rfl
@[simp] theorem exec_imad (o : Opnds) (s : State) : exec (.imad o) s = execImad o s := rfl
@[simp] theorem exec_imadw (o : Opnds) (s : State) : exec (.imadw o) s = execImadw o s := rfl
@[simp] theorem exec_iminReg (o : Opnds) (s : State) : exec (.iminReg o) s = execIminReg o s := rfl
@[simp] theorem exec_iminImm (o : Opnds) (s : State) : exec (.iminImm o) s = execIminImm o s := rfl
@[simp] theorem exec_imaxReg (o : Opnds) (s : State) : exec (.imaxReg o) s = execImaxReg o s := rfl
@[simp] theorem exec_imaxImm (o : Opnds) (s : State) : exec (.imaxImm o) s = execImaxImm o s := rfl
@[simp] theorem exec_iabs (o : Opnds) (s : State) : exec (.iabs o) s = execIabs o s := rfl
@[simp] theorem exec_itestReg (o : Opnds) (s : State) : exec (.itestReg o) s = execItestReg o s := rfl
@[simp] theorem exec_itestImm (o : Opnds) (s : State) : exec (.itestImm o) s = execItestImm o s := rfl
@[simp] theorem exec_selReg (o : Opnds) (s : State) : exec (.selReg o) s = execSelReg o s := rfl
@[simp] theorem exec_selImm (o : Opnds) (s : State) : exec (.selImm o) s = execSelImm o s := rfl
@[simp] theorem exec_blutReg (lutHi : BitVec 3) (o : Opnds) (s : State) : exec (.blutReg lutHi o) s = execBlutReg lutHi o s := rfl
@[simp] theorem exec_blutImm (lutHi : BitVec 3) (o : Opnds) (s : State) : exec (.blutImm lutHi o) s = execBlutImm lutHi o s := rfl
@[simp] theorem exec_shlReg (o : Opnds) (s : State) : exec (.shlReg o) s = execShlReg o s := rfl
@[simp] theorem exec_shlImm (o : Opnds) (s : State) : exec (.shlImm o) s = execShlImm o s := rfl
@[simp] theorem exec_shrReg (o : Opnds) (s : State) : exec (.shrReg o) s = execShrReg o s := rfl
@[simp] theorem exec_shrImm (o : Opnds) (s : State) : exec (.shrImm o) s = execShrImm o s := rfl
@[simp] theorem exec_shf (o : Opnds) (s : State) : exec (.shf o) s = execShf o s := rfl
@[simp] theorem exec_popc (o : Opnds) (s : State) : exec (.popc o) s = execPopc o s := rfl
@[simp] theorem exec_clz (o : Opnds) (s : State) : exec (.clz o) s = execClz o s := rfl
@[simp] theorem exec_brev (o : Opnds) (s : State) : exec (.brev o) s = execBrev o s := rfl
@[simp] theorem exec_bfeReg (o : Opnds) (s : State) : exec (.bfeReg o) s = execBfeReg o s := rfl
@[simp] theorem exec_bfeImm (o : Opnds) (s : State) : exec (.bfeImm o) s = execBfeImm o s := rfl
@[simp] theorem exec_bfi (o : Opnds) (s : State) : exec (.bfi o) s = execBfi o s := rfl
@[simp] theorem exec_leaReg (o : Opnds) (s : State) : exec (.leaReg o) s = execLeaReg o s := rfl
@[simp] theorem exec_leaImm (o : Opnds) (s : State) : exec (.leaImm o) s = execLeaImm o s := rfl
@[simp] theorem exec_mov (o : Opnds) (s : State) : exec (.mov o) s = execMov o s := rfl
@[simp] theorem exec_movP2v (o : Opnds) (s : State) : exec (.movP2v o) s = execMovP2v o s := rfl
@[simp] theorem exec_movV2p (o : Opnds) (s : State) : exec (.movV2p o) s = execMovV2p o s := rfl
@[simp] theorem exec_movLaneReg (o : Opnds) (s : State) : exec (.movLaneReg o) s = execMovLaneReg o s := rfl
@[simp] theorem exec_movLaneImm (o : Opnds) (s : State) : exec (.movLaneImm o) s = execMovLaneImm o s := rfl
@[simp] theorem exec_movUnif (o : Opnds) (s : State) : exec (.movUnif o) s = execMovUnif o s := rfl
@[simp] theorem exec_movi (o : MoviOpnds) (s : State) : exec (.movi o) s = execMovi o s := rfl
@[simp] theorem exec_plop (lutHi : BitVec 3) (o : Opnds) (s : State) : exec (.plop lutHi o) s = execPlop lutHi o s := rfl
@[simp] theorem exec_pairMov (x : HalfOpnds) (y : PairHalf) (s : State) : exec (.pairMov x y) s = execPairMov x y s := rfl
@[simp] theorem exec_pairIadd (x : HalfOpnds) (y : PairHalf) (s : State) : exec (.pairIadd x y) s = execPairIadd x y s := rfl
@[simp] theorem exec_pairIsub (x : HalfOpnds) (y : PairHalf) (s : State) : exec (.pairIsub x y) s = execPairIsub x y s := rfl
@[simp] theorem exec_pairImul (x : HalfOpnds) (y : PairHalf) (s : State) : exec (.pairImul x y) s = execPairImul x y s := rfl
@[simp] theorem exec_pairImin (x : HalfOpnds) (y : PairHalf) (s : State) : exec (.pairImin x y) s = execPairImin x y s := rfl
@[simp] theorem exec_pairImax (x : HalfOpnds) (y : PairHalf) (s : State) : exec (.pairImax x y) s = execPairImax x y s := rfl
@[simp] theorem exec_pairAnd (x : HalfOpnds) (y : PairHalf) (s : State) : exec (.pairAnd x y) s = execPairAnd x y s := rfl
@[simp] theorem exec_pairOr (x : HalfOpnds) (y : PairHalf) (s : State) : exec (.pairOr x y) s = execPairOr x y s := rfl
@[simp] theorem exec_pairXor (x : HalfOpnds) (y : PairHalf) (s : State) : exec (.pairXor x y) s = execPairXor x y s := rfl
@[simp] theorem exec_pairShl (x : HalfOpnds) (y : PairHalf) (s : State) : exec (.pairShl x y) s = execPairShl x y s := rfl
@[simp] theorem exec_pairShr (x : HalfOpnds) (y : PairHalf) (s : State) : exec (.pairShr x y) s = execPairShr x y s := rfl
@[simp] theorem exec_pairFadd (x : HalfOpnds) (y : PairHalf) (s : State) : exec (.pairFadd x y) s = execPairFadd x y s := rfl
@[simp] theorem exec_pairFmul (x : HalfOpnds) (y : PairHalf) (s : State) : exec (.pairFmul x y) s = execPairFmul x y s := rfl
@[simp] theorem exec_pairFmin (x : HalfOpnds) (y : PairHalf) (s : State) : exec (.pairFmin x y) s = execPairFmin x y s := rfl
@[simp] theorem exec_pairFmax (x : HalfOpnds) (y : PairHalf) (s : State) : exec (.pairFmax x y) s = execPairFmax x y s := rfl
@[simp] theorem exec_pairHadd2 (x : HalfOpnds) (y : PairHalf) (s : State) : exec (.pairHadd2 x y) s = execPairHadd2 x y s := rfl
@[simp] theorem exec_pairHmul2 (x : HalfOpnds) (y : PairHalf) (s : State) : exec (.pairHmul2 x y) s = execPairHmul2 x y s := rfl
@[simp] theorem exec_pairMovi8 (x : HalfOpnds) (y : PairHalf) (s : State) : exec (.pairMovi8 x y) s = execPairMovi8 x y s := rfl
@[simp] theorem exec_pairIaddImm (x : HalfOpnds) (y : PairHalf) (s : State) : exec (.pairIaddImm x y) s = execPairIaddImm x y s := rfl
@[simp] theorem exec_pairIsubImm (x : HalfOpnds) (y : PairHalf) (s : State) : exec (.pairIsubImm x y) s = execPairIsubImm x y s := rfl
@[simp] theorem exec_pairImulImm (x : HalfOpnds) (y : PairHalf) (s : State) : exec (.pairImulImm x y) s = execPairImulImm x y s := rfl
@[simp] theorem exec_pairIminImm (x : HalfOpnds) (y : PairHalf) (s : State) : exec (.pairIminImm x y) s = execPairIminImm x y s := rfl
@[simp] theorem exec_pairImaxImm (x : HalfOpnds) (y : PairHalf) (s : State) : exec (.pairImaxImm x y) s = execPairImaxImm x y s := rfl
@[simp] theorem exec_pairAndImm (x : HalfOpnds) (y : PairHalf) (s : State) : exec (.pairAndImm x y) s = execPairAndImm x y s := rfl
@[simp] theorem exec_pairOrImm (x : HalfOpnds) (y : PairHalf) (s : State) : exec (.pairOrImm x y) s = execPairOrImm x y s := rfl
@[simp] theorem exec_pairXorImm (x : HalfOpnds) (y : PairHalf) (s : State) : exec (.pairXorImm x y) s = execPairXorImm x y s := rfl
@[simp] theorem exec_pairShlImm (x : HalfOpnds) (y : PairHalf) (s : State) : exec (.pairShlImm x y) s = execPairShlImm x y s := rfl
@[simp] theorem exec_pairShrImm (x : HalfOpnds) (y : PairHalf) (s : State) : exec (.pairShrImm x y) s = execPairShrImm x y s := rfl
@[simp] theorem exec_faddReg (o : Opnds) (s : State) : exec (.faddReg o) s = execFaddReg o s := rfl
@[simp] theorem exec_faddImm (o : Opnds) (s : State) : exec (.faddImm o) s = execFaddImm o s := rfl
@[simp] theorem exec_fmulReg (o : Opnds) (s : State) : exec (.fmulReg o) s = execFmulReg o s := rfl
@[simp] theorem exec_fmulImm (o : Opnds) (s : State) : exec (.fmulImm o) s = execFmulImm o s := rfl
@[simp] theorem exec_ffma (o : Opnds) (s : State) : exec (.ffma o) s = execFfma o s := rfl
@[simp] theorem exec_fminReg (o : Opnds) (s : State) : exec (.fminReg o) s = execFminReg o s := rfl
@[simp] theorem exec_fminImm (o : Opnds) (s : State) : exec (.fminImm o) s = execFminImm o s := rfl
@[simp] theorem exec_fmaxReg (o : Opnds) (s : State) : exec (.fmaxReg o) s = execFmaxReg o s := rfl
@[simp] theorem exec_fmaxImm (o : Opnds) (s : State) : exec (.fmaxImm o) s = execFmaxImm o s := rfl
@[simp] theorem exec_fsetpReg (cmp : BitVec 3) (o : Opnds) (s : State) : exec (.fsetpReg cmp o) s = execFsetpReg cmp o s := rfl
@[simp] theorem exec_fsetpImm (cmp : BitVec 3) (o : Opnds) (s : State) : exec (.fsetpImm cmp o) s = execFsetpImm cmp o s := rfl
@[simp] theorem exec_fsfun (fn : SfFn) (o : Opnds) (s : State) : exec (.fsfun fn o) s = execFsfun fn o s := rfl
@[simp] theorem exec_hadd2Reg (o : Opnds) (s : State) : exec (.hadd2Reg o) s = execHadd2Reg o s := rfl
@[simp] theorem exec_hadd2Imm (o : Opnds) (s : State) : exec (.hadd2Imm o) s = execHadd2Imm o s := rfl
@[simp] theorem exec_hmul2Reg (o : Opnds) (s : State) : exec (.hmul2Reg o) s = execHmul2Reg o s := rfl
@[simp] theorem exec_hmul2Imm (o : Opnds) (s : State) : exec (.hmul2Imm o) s = execHmul2Imm o s := rfl
@[simp] theorem exec_hfma2 (o : Opnds) (s : State) : exec (.hfma2 o) s = execHfma2 o s := rfl
@[simp] theorem exec_fdot2 (o : Opnds) (s : State) : exec (.fdot2 o) s = execFdot2 o s := rfl
@[simp] theorem exec_fclass (o : Opnds) (s : State) : exec (.fclass o) s = execFclass o s := rfl
@[simp] theorem exec_cvt (o : Opnds) (s : State) : exec (.cvt o) s = execCvt o s := rfl
@[simp] theorem exec_pack (fmt : BitVec 3) (o : Opnds) (s : State) : exec (.pack fmt o) s = execPack fmt o s := rfl
@[simp] theorem exec_unpack (fmt : BitVec 3) (o : Opnds) (s : State) : exec (.unpack fmt o) s = execUnpack fmt o s := rfl
@[simp] theorem exec_rxcvtEnc (o : Opnds) (s : State) : exec (.rxcvtEnc o) s = execRxcvtEnc o s := rfl
@[simp] theorem exec_rxcvtDec (o : Opnds) (s : State) : exec (.rxcvtDec o) s = execRxcvtDec o s := rfl
@[simp] theorem exec_lxchgReg (mode : LxMode) (o : Opnds) (s : State) : exec (.lxchgReg mode o) s = execLxchgReg mode o s := rfl
@[simp] theorem exec_lxchgImm (mode : LxMode) (o : Opnds) (s : State) : exec (.lxchgImm mode o) s = execLxchgImm mode o s := rfl
@[simp] theorem exec_vote (mode : VoteMode) (o : Opnds) (s : State) : exec (.vote mode o) s = execVote mode o s := rfl
@[simp] theorem exec_ballot (o : Opnds) (s : State) : exec (.ballot o) s = execBallot o s := rfl
@[simp] theorem exec_matchAny (o : Opnds) (s : State) : exec (.matchAny o) s = execMatchAny o s := rfl
@[simp] theorem exec_matchAll (o : Opnds) (s : State) : exec (.matchAll o) s = execMatchAll o s := rfl
@[simp] theorem exec_redux (op : ReduxOp) (o : Opnds) (s : State) : exec (.redux op o) s = execRedux op o s := rfl
@[simp] theorem exec_xpair (o : Opnds) (s : State) : exec (.xpair o) s = execXpair o s := rfl
@[simp] theorem exec_xpairTimeout (s : State) : exec (.xpairTimeout) s = execXpairTimeout s := rfl
@[simp] theorem exec_xshfl (o : Opnds) (s : State) : exec (.xshfl o) s = execXshfl o s := rfl
@[simp] theorem exec_xshflCommit (s : State) : exec (.xshflCommit) s = execXshflCommit s := rfl
@[simp] theorem exec_ldReg (o : Opnds) (s : State) : exec (.ldReg o) s = execLdReg o s := rfl
@[simp] theorem exec_ldImm (o : Opnds) (s : State) : exec (.ldImm o) s = execLdImm o s := rfl
@[simp] theorem exec_ldPrivReg (o : Opnds) (s : State) : exec (.ldPrivReg o) s = execLdPrivReg o s := rfl
@[simp] theorem exec_ldPrivImm (o : Opnds) (s : State) : exec (.ldPrivImm o) s = execLdPrivImm o s := rfl
@[simp] theorem exec_stReg (o : Opnds) (s : State) : exec (.stReg o) s = execStReg o s := rfl
@[simp] theorem exec_stImm (o : Opnds) (s : State) : exec (.stImm o) s = execStImm o s := rfl
@[simp] theorem exec_stPrivReg (o : Opnds) (s : State) : exec (.stPrivReg o) s = execStPrivReg o s := rfl
@[simp] theorem exec_stPrivImm (o : Opnds) (s : State) : exec (.stPrivImm o) s = execStPrivImm o s := rfl
@[simp] theorem exec_ldsReg (o : Opnds) (s : State) : exec (.ldsReg o) s = execLdsReg o s := rfl
@[simp] theorem exec_ldsImm (o : Opnds) (s : State) : exec (.ldsImm o) s = execLdsImm o s := rfl
@[simp] theorem exec_stsReg (o : Opnds) (s : State) : exec (.stsReg o) s = execStsReg o s := rfl
@[simp] theorem exec_stsImm (o : Opnds) (s : State) : exec (.stsImm o) s = execStsImm o s := rfl
@[simp] theorem exec_ldcReg (o : Opnds) (s : State) : exec (.ldcReg o) s = execLdcReg o s := rfl
@[simp] theorem exec_ldcImm (o : Opnds) (s : State) : exec (.ldcImm o) s = execLdcImm o s := rfl
@[simp] theorem exec_loadComplete (s : State) : exec (.loadComplete) s = execLoadComplete s := rfl
@[simp] theorem exec_storeAccept (s : State) : exec (.storeAccept) s = execStoreAccept s := rfl
@[simp] theorem exec_lda (o : Opnds) (s : State) : exec (.lda o) s = execLda o s := rfl
@[simp] theorem exec_prefReg (o : Opnds) (s : State) : exec (.prefReg o) s = execPrefReg o s := rfl
@[simp] theorem exec_prefImm (o : Opnds) (s : State) : exec (.prefImm o) s = execPrefImm o s := rfl
@[simp] theorem exec_copy (o : Opnds) (s : State) : exec (.copy o) s = execCopy o s := rfl
@[simp] theorem exec_gath (o : Opnds) (s : State) : exec (.gath o) s = execGath o s := rfl
@[simp] theorem exec_engineArrival (s : State) : exec (.engineArrival) s = execEngineArrival s := rfl
@[simp] theorem exec_arrinit (o : Opnds) (s : State) : exec (.arrinit o) s = execArrinit o s := rfl
@[simp] theorem exec_arrive (o : Opnds) (s : State) : exec (.arrive o) s = execArrive o s := rfl
@[simp] theorem exec_arrwait (o : Opnds) (s : State) : exec (.arrwait o) s = execArrwait o s := rfl
@[simp] theorem exec_arrwaitTest (o : Opnds) (s : State) : exec (.arrwaitTest o) s = execArrwaitTest o s := rfl
@[simp] theorem exec_publish (o : Opnds) (s : State) : exec (.publish o) s = execPublish o s := rfl
@[simp] theorem exec_cctlWb (o : Opnds) (s : State) : exec (.cctlWb o) s = execCctlWb o s := rfl
@[simp] theorem exec_cctlWbinv (o : Opnds) (s : State) : exec (.cctlWbinv o) s = execCctlWbinv o s := rfl
@[simp] theorem exec_cctlConst (o : Opnds) (s : State) : exec (.cctlConst o) s = execCctlConst o s := rfl
@[simp] theorem exec_tlbhHarv (o : Opnds) (s : State) : exec (.tlbhHarv o) s = execTlbhHarv o s := rfl
@[simp] theorem exec_tlbhInv (o : Opnds) (s : State) : exec (.tlbhInv o) s = execTlbhInv o s := rfl
@[simp] theorem exec_tlbHarvestPeriodic (s : State) : exec (.tlbHarvestPeriodic) s = execTlbHarvestPeriodic s := rfl
@[simp] theorem exec_atom (op : AtomOp) (o : Opnds) (s : State) : exec (.atom op o) s = execAtom op o s := rfl
@[simp] theorem exec_acas (o : Opnds) (s : State) : exec (.acas o) s = execAcas o s := rfl
@[simp] theorem exec_atomicServiceRequest (s : State) : exec (.atomicServiceRequest) s = execAtomicServiceRequest s := rfl
@[simp] theorem exec_atoms (op : AtomOp) (o : Opnds) (s : State) : exec (.atoms op o) s = execAtoms op o s := rfl
@[simp] theorem exec_fence (kind : FenceKind) (o : Opnds) (s : State) : exec (.fence kind o) s = execFence kind o s := rfl
@[simp] theorem exec_epochClose (s : State) : exec (.epochClose) s = execEpochClose s := rfl
@[simp] theorem exec_waita (cmp : WaitCmp) (o : Opnds) (s : State) : exec (.waita cmp o) s = execWaita cmp o s := rfl
@[simp] theorem exec_waitaWake (s : State) : exec (.waitaWake) s = execWaitaWake s := rfl
@[simp] theorem exec_waitaTimeout (s : State) : exec (.waitaTimeout) s = execWaitaTimeout s := rfl
@[simp] theorem exec_qinit (o : Opnds) (s : State) : exec (.qinit o) s = execQinit o s := rfl
@[simp] theorem exec_qinitGrant (o : Opnds) (s : State) : exec (.qinitGrant o) s = execQinitGrant o s := rfl
@[simp] theorem exec_qpush (o : Opnds) (s : State) : exec (.qpush o) s = execQpush o s := rfl
@[simp] theorem exec_qpop (o : Opnds) (s : State) : exec (.qpop o) s = execQpop o s := rfl
@[simp] theorem exec_qtryPop (o : Opnds) (s : State) : exec (.qtryPop o) s = execQtryPop o s := rfl
@[simp] theorem exec_qtryPush (o : Opnds) (s : State) : exec (.qtryPush o) s = execQtryPush o s := rfl
@[simp] theorem exec_queueWaiterRelease (s : State) : exec (.queueWaiterRelease) s = execQueueWaiterRelease s := rfl
@[simp] theorem exec_queueDeadlock (s : State) : exec (.queueDeadlock) s = execQueueDeadlock s := rfl
@[simp] theorem exec_circCast (o : Opnds) (s : State) : exec (.circCast o) s = execCircCast o s := rfl
@[simp] theorem exec_circBind (o : Opnds) (s : State) : exec (.circBind o) s = execCircBind o s := rfl
@[simp] theorem exec_circCap (o : Opnds) (s : State) : exec (.circCap o) s = execCircCap o s := rfl
@[simp] theorem exec_circWr (o : Opnds) (s : State) : exec (.circWr o) s = execCircWr o s := rfl
@[simp] theorem exec_circRel (o : Opnds) (s : State) : exec (.circRel o) s = execCircRel o s := rfl
@[simp] theorem exec_circPeek (o : Opnds) (s : State) : exec (.circPeek o) s = execCircPeek o s := rfl
@[simp] theorem exec_circTurn (o : Opnds) (s : State) : exec (.circTurn o) s = execCircTurn o s := rfl
@[simp] theorem exec_castClaim (s : State) : exec (.castClaim) s = execCastClaim s := rfl
@[simp] theorem exec_stopPass (s : State) : exec (.stopPass) s = execStopPass s := rfl
@[simp] theorem exec_seamPass (s : State) : exec (.seamPass) s = execSeamPass s := rfl
@[simp] theorem exec_holdTheft (s : State) : exec (.holdTheft) s = execHoldTheft s := rfl
@[simp] theorem exec_warpEndRelease (s : State) : exec (.warpEndRelease) s = execWarpEndRelease s := rfl
@[simp] theorem exec_setshapeReg (o : Opnds) (s : State) : exec (.setshapeReg o) s = execSetshapeReg o s := rfl
@[simp] theorem exec_setshapeImm (o : Opnds) (s : State) : exec (.setshapeImm o) s = execSetshapeImm o s := rfl
@[simp] theorem exec_setshapeTail (o : Opnds) (s : State) : exec (.setshapeTail o) s = execSetshapeTail o s := rfl
@[simp] theorem exec_getshape (sel : ShapeSel) (o : Opnds) (s : State) : exec (.getshape sel o) s = execGetshape sel o s := rfl
@[simp] theorem exec_mma (o : Opnds) (s : State) : exec (.mma o) s = execMma o s := rfl
@[simp] theorem exec_mmas (o : Opnds) (s : State) : exec (.mmas o) s = execMmas o s := rfl
@[simp] theorem exec_tileWrite (s : State) : exec (.tileWrite) s = execTileWrite s := rfl
@[simp] theorem exec_accz (o : Opnds) (s : State) : exec (.accz o) s = execAccz o s := rfl
@[simp] theorem exec_accld (o : Opnds) (s : State) : exec (.accld o) s = execAccld o s := rfl
@[simp] theorem exec_accldDec (o : Opnds) (s : State) : exec (.accldDec o) s = execAccldDec o s := rfl
@[simp] theorem exec_accldTscale (o : Opnds) (s : State) : exec (.accldTscale o) s = execAccldTscale o s := rfl
@[simp] theorem exec_accst (o : Opnds) (s : State) : exec (.accst o) s = execAccst o s := rfl
@[simp] theorem exec_accstSp (o : Opnds) (s : State) : exec (.accstSp o) s = execAccstSp o s := rfl
@[simp] theorem exec_fragld (part : FragPart) (o : Opnds) (s : State) : exec (.fragld part o) s = execFragld part o s := rfl
@[simp] theorem exec_pldReg (fmt : BitVec 3) (o : Opnds) (s : State) : exec (.pldReg fmt o) s = execPldReg fmt o s := rfl
@[simp] theorem exec_pldImm (fmt : BitVec 3) (o : Opnds) (s : State) : exec (.pldImm fmt o) s = execPldImm fmt o s := rfl
@[simp] theorem exec_pmat (o : Opnds) (s : State) : exec (.pmat o) s = execPmat o s := rfl
@[simp] theorem exec_pmatS (o : Opnds) (s : State) : exec (.pmatS o) s = execPmatS o s := rfl
@[simp] theorem exec_pfree (o : Opnds) (s : State) : exec (.pfree o) s = execPfree o s := rfl
@[simp] theorem exec_pfreeP (o : Opnds) (s : State) : exec (.pfreeP o) s = execPfreeP o s := rfl
@[simp] theorem exec_pdot (o : Opnds) (s : State) : exec (.pdot o) s = execPdot o s := rfl
@[simp] theorem exec_pred (op : PredOp) (o : Opnds) (s : State) : exec (.pred op o) s = execPred op o s := rfl
@[simp] theorem exec_pqry (o : Opnds) (s : State) : exec (.pqry o) s = execPqry o s := rfl
@[simp] theorem exec_pqryP (o : Opnds) (s : State) : exec (.pqryP o) s = execPqryP o s := rfl
@[simp] theorem exec_proxyOperation (s : State) : exec (.proxyOperation) s = execProxyOperation s := rfl
@[simp] theorem exec_proxyCompletion (s : State) : exec (.proxyCompletion) s = execProxyCompletion s := rfl
@[simp] theorem exec_proxyCopy (s : State) : exec (.proxyCopy) s = execProxyCopy s := rfl
@[simp] theorem exec_proxyDrop (s : State) : exec (.proxyDrop) s = execProxyDrop s := rfl
@[simp] theorem exec_pldSnapshot (s : State) : exec (.pldSnapshot) s = execPldSnapshot s := rfl
@[simp] theorem exec_proxyCrossing (s : State) : exec (.proxyCrossing) s = execProxyCrossing s := rfl
@[simp] theorem exec_chunkRequest (s : State) : exec (.chunkRequest) s = execChunkRequest s := rfl
@[simp] theorem exec_chunkGrant (s : State) : exec (.chunkGrant) s = execChunkGrant s := rfl
@[simp] theorem exec_chunkReturn (s : State) : exec (.chunkReturn) s = execChunkReturn s := rfl
@[simp] theorem exec_nlaunch (o : Opnds) (s : State) : exec (.nlaunch o) s = execNlaunch o s := rfl
@[simp] theorem exec_nresume (o : Opnds) (s : State) : exec (.nresume o) s = execNresume o s := rfl
@[simp] theorem exec_nstat (o : Opnds) (s : State) : exec (.nstat o) s = execNstat o s := rfl
@[simp] theorem exec_csrr (o : Opnds) (s : State) : exec (.csrr o) s = execCsrr o s := rfl
@[simp] theorem exec_csrw (o : Opnds) (s : State) : exec (.csrw o) s = execCsrw o s := rfl
@[simp] theorem exec_engErrRead (o : Opnds) (s : State) : exec (.engErrRead o) s = execEngErrRead o s := rfl
@[simp] theorem exec_pxLostClear (o : Opnds) (s : State) : exec (.pxLostClear o) s = execPxLostClear o s := rfl
@[simp] theorem exec_tret (o : Opnds) (s : State) : exec (.tret o) s = execTret o s := rfl
@[simp] theorem exec_tretSkip (o : Opnds) (s : State) : exec (.tretSkip o) s = execTretSkip o s := rfl
@[simp] theorem exec_trapEntry (s : State) : exec (.trapEntry) s = execTrapEntry s := rfl
@[simp] theorem exec_blockTerminate (s : State) : exec (.blockTerminate) s = execBlockTerminate s := rfl
@[simp] theorem exec_preempt (s : State) : exec (.preempt) s = execPreempt s := rfl
@[simp] theorem exec_blockRestore (s : State) : exec (.blockRestore) s = execBlockRestore s := rfl
@[simp] theorem exec_ifaultSwapOut (s : State) : exec (.ifaultSwapOut) s = execIfaultSwapOut s := rfl
@[simp] theorem exec_blockReplay (s : State) : exec (.blockReplay) s = execBlockReplay s := rfl
@[simp] theorem exec_faultRecordWrite (s : State) : exec (.faultRecordWrite) s = execFaultRecordWrite s := rfl
@[simp] theorem exec_frHeadWrite (s : State) : exec (.frHeadWrite) s = execFrHeadWrite s := rfl
@[simp] theorem exec_faultRewalk (s : State) : exec (.faultRewalk) s = execFaultRewalk s := rfl
@[simp] theorem exec_qtailWrite (s : State) : exec (.qtailWrite) s = execQtailWrite s := rfl
@[simp] theorem exec_queueSlotMap (s : State) : exec (.queueSlotMap) s = execQueueSlotMap s := rfl
@[simp] theorem exec_quantumExpiry (s : State) : exec (.quantumExpiry) s = execQuantumExpiry s := rfl
@[simp] theorem exec_priorityAging (s : State) : exec (.priorityAging) s = execPriorityAging s := rfl
@[simp] theorem exec_dispatch (s : State) : exec (.dispatch) s = execDispatch s := rfl
@[simp] theorem exec_shrinkRequest (s : State) : exec (.shrinkRequest) s = execShrinkRequest s := rfl
@[simp] theorem exec_priorityPreempt (s : State) : exec (.priorityPreempt) s = execPriorityPreempt s := rfl
@[simp] theorem exec_growRequest (s : State) : exec (.growRequest) s = execGrowRequest s := rfl
@[simp] theorem exec_switchGraceExpiry (s : State) : exec (.switchGraceExpiry) s = execSwitchGraceExpiry s := rfl
@[simp] theorem exec_switchApply (s : State) : exec (.switchApply) s = execSwitchApply s := rfl
@[simp] theorem exec_contextYield (s : State) : exec (.contextYield) s = execContextYield s := rfl
@[simp] theorem exec_blockEndJdec (s : State) : exec (.blockEndJdec) s = execBlockEndJdec s := rfl
@[simp] theorem exec_deferredPush (s : State) : exec (.deferredPush) s = execDeferredPush s := rfl
@[simp] theorem exec_migrationMove (s : State) : exec (.migrationMove) s = execMigrationMove s := rfl
@[simp] theorem exec_migReqWrite (s : State) : exec (.migReqWrite) s = execMigReqWrite s := rfl
@[simp] theorem exec_migStatRead (s : State) : exec (.migStatRead) s = execMigStatRead s := rfl
@[simp] theorem exec_hostTlbInvalidate (s : State) : exec (.hostTlbInvalidate) s = execHostTlbInvalidate s := rfl
@[simp] theorem exec_contextLoad (s : State) : exec (.contextLoad) s = execContextLoad s := rfl
@[simp] theorem exec_contextKill (s : State) : exec (.contextKill) s = execContextKill s := rfl
@[simp] theorem exec_contextStop (s : State) : exec (.contextStop) s = execContextStop s := rfl
@[simp] theorem exec_contextResume (s : State) : exec (.contextResume) s = execContextResume s := rfl
@[simp] theorem exec_peerRouteWrite (s : State) : exec (.peerRouteWrite) s = execPeerRouteWrite s := rfl
@[simp] theorem exec_csrWrite (s : State) : exec (.csrWrite) s = execCsrWrite s := rfl
@[simp] theorem exec_hostMemoryAccess (s : State) : exec (.hostMemoryAccess) s = execHostMemoryAccess s := rfl
@[simp] theorem exec_peerRequest (s : State) : exec (.peerRequest) s = execPeerRequest s := rfl
@[simp] theorem exec_burgeePass (s : State) : exec (.burgeePass) s = execBurgeePass s := rfl
@[simp] theorem exec_deadlockProbe (s : State) : exec (.deadlockProbe) s = execDeadlockProbe s := rfl
@[simp] theorem exec_furl (s : State) : exec (.furl) s = execFurl s := rfl
@[simp] theorem exec_unfurl (s : State) : exec (.unfurl) s = execUnfurl s := rfl
@[simp] theorem exec_rdPacket (s : State) : exec (.rdPacket) s = execRdPacket s := rfl
@[simp] theorem exec_wrPacket (s : State) : exec (.wrPacket) s = execWrPacket s := rfl
@[simp] theorem exec_wrm (s : State) : exec (.wrm) s = execWrm s := rfl
@[simp] theorem exec_rdrsp (s : State) : exec (.rdrsp) s = execRdrsp s := rfl
@[simp] theorem exec_wrack (s : State) : exec (.wrack) s = execWrack s := rfl
@[simp] theorem exec_bankLaunchStart (s : State) : exec (.bankLaunchStart) s = execBankLaunchStart s := rfl
@[simp] theorem exec_bankContextStop (s : State) : exec (.bankContextStop) s = execBankContextStop s := rfl
@[simp] theorem exec_bankContextDone (s : State) : exec (.bankContextDone) s = execBankContextDone s := rfl
@[simp] theorem exec_bsuWatchdogReset (s : State) : exec (.bsuWatchdogReset) s = execBsuWatchdogReset s := rfl
@[simp] theorem exec_refresh (s : State) : exec (.refresh) s = execRefresh s := rfl
@[simp] theorem exec_targetedRefresh (s : State) : exec (.targetedRefresh) s = execTargetedRefresh s := rfl
@[simp] theorem exec_bsuBurst (s : State) : exec (.bsuBurst) s = execBsuBurst s := rfl
@[simp] theorem exec_nli (d : BitVec 4) (imm : BitVec 16) (s : State) : exec (.nli d imm) s = execNli d imm s := rfl
@[simp] theorem exec_nliH (d : BitVec 4) (imm : BitVec 16) (s : State) : exec (.nliH d imm) s = execNliH d imm s := rfl
@[simp] theorem exec_nadd (d : BitVec 4) (a : BitVec 4) (b : BitVec 4) (s : State) : exec (.nadd d a b) s = execNadd d a b s := rfl
@[simp] theorem exec_naddi (d : BitVec 4) (a : BitVec 4) (imm : BitVec 16) (s : State) : exec (.naddi d a imm) s = execNaddi d a imm s := rfl
@[simp] theorem exec_nshl (d : BitVec 4) (a : BitVec 4) (sh : BitVec 5) (s : State) : exec (.nshl d a sh) s = execNshl d a sh s := rfl
@[simp] theorem exec_nbr (cmp : BankCmp) (d : BitVec 4) (a : BitVec 4) (imm : BitVec 16) (s : State) : exec (.nbr cmp d a imm) s = execNbr cmp d a imm s := rfl
@[simp] theorem exec_crd (a : BitVec 4) (s : State) : exec (.crd a) s = execCrd a s := rfl
@[simp] theorem exec_crdRef (a : BitVec 4) (s : State) : exec (.crdRef a) s = execCrdRef a s := rfl
@[simp] theorem exec_wr (a : BitVec 4) (s : State) : exec (.wr a) s = execWr a s := rfl
@[simp] theorem exec_bpop (d : BitVec 4) (s : State) : exec (.bpop d) s = execBpop d s := rfl
@[simp] theorem exec_nend (s : State) : exec (.nend) s = execNend s := rfl
@[simp] theorem exec_xget (d : BitVec 4) (w : BitVec 3) (s : State) : exec (.xget d w) s = execXget d w s := rfl
@[simp] theorem exec_xnext (s : State) : exec (.xnext) s = execXnext s := rfl
@[simp] theorem exec_xcadd (m : BankMode) (d : BitVec 4) (s : State) : exec (.xcadd m d) s = execXcadd m d s := rfl
@[simp] theorem exec_xli (d : BitVec 4) (imm : BitVec 16) (s : State) : exec (.xli d imm) s = execXli d imm s := rfl
@[simp] theorem exec_xliF2 (d : BitVec 4) (imm : BitVec 16) (s : State) : exec (.xliF2 d imm) s = execXliF2 d imm s := rfl
@[simp] theorem exec_xadd (m : BankMode) (d : BitVec 4) (a : BitVec 4) (b : BitVec 4) (s : State) : exec (.xadd m d a b) s = execXadd m d a b s := rfl
@[simp] theorem exec_xsub (m : BankMode) (d : BitVec 4) (a : BitVec 4) (b : BitVec 4) (s : State) : exec (.xsub m d a b) s = execXsub m d a b s := rfl
@[simp] theorem exec_xmul (m : BankMode) (d : BitVec 4) (a : BitVec 4) (b : BitVec 4) (s : State) : exec (.xmul m d a b) s = execXmul m d a b s := rfl
@[simp] theorem exec_xfma (m : BankMode) (d : BitVec 4) (a : BitVec 4) (b : BitVec 4) (c : BitVec 4) (s : State) : exec (.xfma m d a b c) s = execXfma m d a b c s := rfl
@[simp] theorem exec_xmin (m : BankMode) (d : BitVec 4) (a : BitVec 4) (b : BitVec 4) (s : State) : exec (.xmin m d a b) s = execXmin m d a b s := rfl
@[simp] theorem exec_xmax (m : BankMode) (d : BitVec 4) (a : BitVec 4) (b : BitVec 4) (s : State) : exec (.xmax m d a b) s = execXmax m d a b s := rfl
@[simp] theorem exec_xlop (op : BankLop) (d : BitVec 4) (a : BitVec 4) (b : BitVec 4) (s : State) : exec (.xlop op d a b) s = execXlop op d a b s := rfl
@[simp] theorem exec_xhsum (m : BankMode) (d : BitVec 4) (a : BitVec 4) (s : State) : exec (.xhsum m d a) s = execXhsum m d a s := rfl
@[simp] theorem exec_xsend (a : BitVec 4) (s : State) : exec (.xsend a) s = execXsend a s := rfl
@[simp] theorem exec_xbr (cmp : BankCmp) (d : BitVec 4) (a : BitVec 4) (imm : BitVec 16) (s : State) : exec (.xbr cmp d a imm) s = execXbr cmp d a imm s := rfl
@[simp] theorem exec_xend (s : State) : exec (.xend) s = execXend s := rfl
@[simp] theorem exec_powerOnReset (s : State) : exec (.powerOnReset) s = execPowerOnReset s := rfl
@[simp] theorem exec_bootReset (s : State) : exec (.bootReset) s = execBootReset s := rfl
@[simp] theorem exec_attestationGo (s : State) : exec (.attestationGo) s = execAttestationGo s := rfl
@[simp] theorem exec_attestationDone (s : State) : exec (.attestationDone) s = execAttestationDone s := rfl
@[simp] theorem exec_clockStepChange (s : State) : exec (.clockStepChange) s = execClockStepChange s := rfl
@[simp] theorem exec_thermalTrip (s : State) : exec (.thermalTrip) s = execThermalTrip s := rfl
@[simp] theorem exec_operationComplete (s : State) : exec (.operationComplete) s = execOperationComplete s := rfl
@[simp] theorem exec_furlCtlWrite (s : State) : exec (.furlCtlWrite) s = execFurlCtlWrite s := rfl

end Sys2Proof.Machine
end

