-- ==== Sys2Proof/Laws/State.lean ====
section
/-!
SUPPORT. The state after an update, one lemma for each field: what the update sets, and that every other field stands. No
proof need unfold an update of the state.
-/
namespace Sys2Proof.Machine
open Sys2Proof

/-! ### Lists -/

@[simp] theorem setNth_length {α : Type} : ∀ (l : List α) (n : Nat) (v : α), (setNth l n v).length = l.length
  | [], _, _ => rfl
  | _ :: _, 0, _ => rfl
  | _ :: xs, n + 1, v => congrArg (· + 1) (setNth_length xs n v)

/-- The element that was set. -/
theorem nth_setNth_self {α : Type} (d : α) : ∀ (l : List α) (n : Nat) (v : α), n < l.length → nth d (setNth l n v) n = v
  | _ :: _, 0, _, _ => rfl
  | _ :: xs, n + 1, v, h => nth_setNth_self d xs n v (Nat.lt_of_succ_lt_succ h)

/-- The other elements. -/
theorem nth_setNth_of_ne {α : Type} (d : α) : ∀ (l : List α) (n k : Nat) (v : α), k ≠ n → nth d (setNth l n v) k = nth d l k
  | [], _, _, _, _ => rfl
  | _ :: _, 0, 0, _, h => absurd rfl h
  | _ :: _, 0, _ + 1, _, _ => rfl
  | _ :: _, _ + 1, 0, _, _ => rfl
  | _ :: xs, n + 1, k + 1, v, h => nth_setNth_of_ne d xs n k v fun e => h (congrArg (· + 1) e)

/-- Reading by `nth` is reading by index. -/
theorem nth_eq_getD {α : Type} (d : α) : ∀ (l : List α) (n : Nat), nth d l n = l[n]?.getD d
  | [], _ => rfl
  | _ :: _, 0 => rfl
  | _ :: xs, n + 1 => by simpa [nth] using nth_eq_getD d xs n

/-- What an index of a list holds after an element was set. -/
theorem setNth_getElem? {α : Type} : ∀ (l : List α) (n k : Nat) (v : α),
    (setNth l n v)[k]? = if k = n then l[k]?.map (fun _ => v) else l[k]?
  | [], _, _, _ => by simp [setNth]
  | _ :: _, 0, 0, _ => by simp [setNth]
  | _ :: _, 0, _ + 1, _ => by simp [setNth]
  | _ :: _, _ + 1, 0, _ => by simp [setNth]
  | _ :: xs, n + 1, k + 1, v => by simpa [setNth] using setNth_getElem? xs n k v

/-! ### Updates of the state, field by field -/

@[simp] theorem State.setBlock_actor (s : State) (x : Block) : (s.setBlock x).actor = s.actor := rfl
@[simp] theorem State.setBlock_args (s : State) (x : Block) : (s.setBlock x).args = s.args := rfl
@[simp] theorem State.setBlock_agenda (s : State) (x : Block) : (s.setBlock x).agenda = s.agenda := rfl
@[simp] theorem State.setBlock_choices (s : State) (x : Block) : (s.setBlock x).choices = s.choices := rfl
@[simp] theorem State.setBlock_drawn (s : State) (x : Block) : (s.setBlock x).drawn = s.drawn := rfl
@[simp] theorem State.setBlock_ns (s : State) (x : Block) : (s.setBlock x).ns = s.ns := rfl
@[simp] theorem State.setBlock_cyc (s : State) (x : Block) : (s.setBlock x).cyc = s.cyc := rfl
@[simp] theorem State.setBlock_blocks (s : State) (x : Block) : (s.setBlock x).blocks = s.blocks.map fun y => if y.id = x.id then x else y := rfl
@[simp] theorem State.setBlock_cores (s : State) (x : Block) : (s.setBlock x).cores = s.cores := rfl
@[simp] theorem State.setBlock_ctxs (s : State) (x : Block) : (s.setBlock x).ctxs = s.ctxs := rfl
@[simp] theorem State.setBlock_nextId (s : State) (x : Block) : (s.setBlock x).nextId = s.nextId := rfl
@[simp] theorem State.setBlock_dram (s : State) (x : Block) : (s.setBlock x).dram = s.dram := rfl
@[simp] theorem State.setBlock_l2 (s : State) (x : Block) : (s.setBlock x).l2 = s.l2 := rfl
@[simp] theorem State.setBlock_filled (s : State) (x : Block) : (s.setBlock x).filled = s.filled := rfl
@[simp] theorem State.setBlock_posted (s : State) (x : Block) : (s.setBlock x).posted = s.posted := rfl
@[simp] theorem State.setBlock_hostMem (s : State) (x : Block) : (s.setBlock x).hostMem = s.hostMem := rfl
@[simp] theorem State.setBlock_log (s : State) (x : Block) : (s.setBlock x).log = s.log := rfl
@[simp] theorem State.setBlock_tlb (s : State) (x : Block) : (s.setBlock x).tlb = s.tlb := rfl
@[simp] theorem State.setBlock_harvests (s : State) (x : Block) : (s.setBlock x).harvests = s.harvests := rfl
@[simp] theorem State.setBlock_ops (s : State) (x : Block) : (s.setBlock x).ops = s.ops := rfl
@[simp] theorem State.setBlock_xfers (s : State) (x : Block) : (s.setBlock x).xfers = s.xfers := rfl
@[simp] theorem State.setBlock_waits (s : State) (x : Block) : (s.setBlock x).waits = s.waits := rfl
@[simp] theorem State.setBlock_service (s : State) (x : Block) : (s.setBlock x).service = s.service := rfl
@[simp] theorem State.setBlock_copyEnd (s : State) (x : Block) : (s.setBlock x).copyEnd = s.copyEnd := rfl
@[simp] theorem State.setBlock_clocks (s : State) (x : Block) : (s.setBlock x).clocks = s.clocks := rfl
@[simp] theorem State.setBlock_sectorClock (s : State) (x : Block) : (s.setBlock x).sectorClock = s.sectorClock := rfl
@[simp] theorem State.setBlock_offers (s : State) (x : Block) : (s.setBlock x).offers = s.offers := rfl
@[simp] theorem State.setBlock_pairs (s : State) (x : Block) : (s.setBlock x).pairs = s.pairs := rfl
@[simp] theorem State.setBlock_ring (s : State) (x : Block) : (s.setBlock x).ring = s.ring := rfl
@[simp] theorem State.setBlock_homes (s : State) (x : Block) : (s.setBlock x).homes = s.homes := rfl
@[simp] theorem State.setBlock_pxReqs (s : State) (x : Block) : (s.setBlock x).pxReqs = s.pxReqs := rfl
@[simp] theorem State.setBlock_chunkReqs (s : State) (x : Block) : (s.setBlock x).chunkReqs = s.chunkReqs := rfl
@[simp] theorem State.setBlock_chans (s : State) (x : Block) : (s.setBlock x).chans = s.chans := rfl
@[simp] theorem State.setBlock_hwslots (s : State) (x : Block) : (s.setBlock x).hwslots = s.hwslots := rfl
@[simp] theorem State.setBlock_qwaits (s : State) (x : Block) : (s.setBlock x).qwaits = s.qwaits := rfl
@[simp] theorem State.setBlock_records (s : State) (x : Block) : (s.setBlock x).records = s.records := rfl
@[simp] theorem State.setBlock_deferred (s : State) (x : Block) : (s.setBlock x).deferred = s.deferred := rfl
@[simp] theorem State.setBlock_qtails (s : State) (x : Block) : (s.setBlock x).qtails = s.qtails := rfl
@[simp] theorem State.setBlock_ready (s : State) (x : Block) : (s.setBlock x).ready = s.ready := rfl
@[simp] theorem State.setBlock_readyAt (s : State) (x : Block) : (s.setBlock x).readyAt = s.readyAt := rfl
@[simp] theorem State.setBlock_faultWaits (s : State) (x : Block) : (s.setBlock x).faultWaits = s.faultWaits := rfl
@[simp] theorem State.setBlock_migReq (s : State) (x : Block) : (s.setBlock x).migReq = s.migReq := rfl
@[simp] theorem State.setBlock_migQueue (s : State) (x : Block) : (s.setBlock x).migQueue = s.migQueue := rfl
@[simp] theorem State.setBlock_migDropped (s : State) (x : Block) : (s.setBlock x).migDropped = s.migDropped := rfl
@[simp] theorem State.setBlock_migMoves (s : State) (x : Block) : (s.setBlock x).migMoves = s.migMoves := rfl
@[simp] theorem State.setBlock_pageHits (s : State) (x : Block) : (s.setBlock x).pageHits = s.pageHits := rfl
@[simp] theorem State.setBlock_hinv (s : State) (x : Block) : (s.setBlock x).hinv = s.hinv := rfl
@[simp] theorem State.setBlock_hinvLo (s : State) (x : Block) : (s.setBlock x).hinvLo = s.hinvLo := rfl
@[simp] theorem State.setBlock_peerRoute (s : State) (x : Block) : (s.setBlock x).peerRoute = s.peerRoute := rfl
@[simp] theorem State.setBlock_hostReply (s : State) (x : Block) : (s.setBlock x).hostReply = s.hostReply := rfl
@[simp] theorem State.setBlock_waveguides (s : State) (x : Block) : (s.setBlock x).waveguides = s.waveguides := rfl
@[simp] theorem State.setBlock_buffers (s : State) (x : Block) : (s.setBlock x).buffers = s.buffers := rfl
@[simp] theorem State.setBlock_ports (s : State) (x : Block) : (s.setBlock x).ports = s.ports := rfl
@[simp] theorem State.setBlock_portReply (s : State) (x : Block) : (s.setBlock x).portReply = s.portReply := rfl
@[simp] theorem State.setBlock_portHead (s : State) (x : Block) : (s.setBlock x).portHead = s.portHead := rfl
@[simp] theorem State.setBlock_dev (s : State) (x : Block) : (s.setBlock x).dev = s.dev := rfl

@[simp] theorem State.setCtx_actor (s : State) (n : Nat) (x : Ctx) : (s.setCtx n x).actor = s.actor := rfl
@[simp] theorem State.setCtx_args (s : State) (n : Nat) (x : Ctx) : (s.setCtx n x).args = s.args := rfl
@[simp] theorem State.setCtx_agenda (s : State) (n : Nat) (x : Ctx) : (s.setCtx n x).agenda = s.agenda := rfl
@[simp] theorem State.setCtx_choices (s : State) (n : Nat) (x : Ctx) : (s.setCtx n x).choices = s.choices := rfl
@[simp] theorem State.setCtx_drawn (s : State) (n : Nat) (x : Ctx) : (s.setCtx n x).drawn = s.drawn := rfl
@[simp] theorem State.setCtx_ns (s : State) (n : Nat) (x : Ctx) : (s.setCtx n x).ns = s.ns := rfl
@[simp] theorem State.setCtx_cyc (s : State) (n : Nat) (x : Ctx) : (s.setCtx n x).cyc = s.cyc := rfl
@[simp] theorem State.setCtx_blocks (s : State) (n : Nat) (x : Ctx) : (s.setCtx n x).blocks = s.blocks := rfl
@[simp] theorem State.setCtx_cores (s : State) (n : Nat) (x : Ctx) : (s.setCtx n x).cores = s.cores := rfl
@[simp] theorem State.setCtx_ctxs (s : State) (n : Nat) (x : Ctx) : (s.setCtx n x).ctxs = setNth s.ctxs n x := rfl
@[simp] theorem State.setCtx_nextId (s : State) (n : Nat) (x : Ctx) : (s.setCtx n x).nextId = s.nextId := rfl
@[simp] theorem State.setCtx_dram (s : State) (n : Nat) (x : Ctx) : (s.setCtx n x).dram = s.dram := rfl
@[simp] theorem State.setCtx_l2 (s : State) (n : Nat) (x : Ctx) : (s.setCtx n x).l2 = s.l2 := rfl
@[simp] theorem State.setCtx_filled (s : State) (n : Nat) (x : Ctx) : (s.setCtx n x).filled = s.filled := rfl
@[simp] theorem State.setCtx_posted (s : State) (n : Nat) (x : Ctx) : (s.setCtx n x).posted = s.posted := rfl
@[simp] theorem State.setCtx_hostMem (s : State) (n : Nat) (x : Ctx) : (s.setCtx n x).hostMem = s.hostMem := rfl
@[simp] theorem State.setCtx_log (s : State) (n : Nat) (x : Ctx) : (s.setCtx n x).log = s.log := rfl
@[simp] theorem State.setCtx_tlb (s : State) (n : Nat) (x : Ctx) : (s.setCtx n x).tlb = s.tlb := rfl
@[simp] theorem State.setCtx_harvests (s : State) (n : Nat) (x : Ctx) : (s.setCtx n x).harvests = s.harvests := rfl
@[simp] theorem State.setCtx_ops (s : State) (n : Nat) (x : Ctx) : (s.setCtx n x).ops = s.ops := rfl
@[simp] theorem State.setCtx_xfers (s : State) (n : Nat) (x : Ctx) : (s.setCtx n x).xfers = s.xfers := rfl
@[simp] theorem State.setCtx_waits (s : State) (n : Nat) (x : Ctx) : (s.setCtx n x).waits = s.waits := rfl
@[simp] theorem State.setCtx_service (s : State) (n : Nat) (x : Ctx) : (s.setCtx n x).service = s.service := rfl
@[simp] theorem State.setCtx_copyEnd (s : State) (n : Nat) (x : Ctx) : (s.setCtx n x).copyEnd = s.copyEnd := rfl
@[simp] theorem State.setCtx_clocks (s : State) (n : Nat) (x : Ctx) : (s.setCtx n x).clocks = s.clocks := rfl
@[simp] theorem State.setCtx_sectorClock (s : State) (n : Nat) (x : Ctx) : (s.setCtx n x).sectorClock = s.sectorClock := rfl
@[simp] theorem State.setCtx_offers (s : State) (n : Nat) (x : Ctx) : (s.setCtx n x).offers = s.offers := rfl
@[simp] theorem State.setCtx_pairs (s : State) (n : Nat) (x : Ctx) : (s.setCtx n x).pairs = s.pairs := rfl
@[simp] theorem State.setCtx_ring (s : State) (n : Nat) (x : Ctx) : (s.setCtx n x).ring = s.ring := rfl
@[simp] theorem State.setCtx_homes (s : State) (n : Nat) (x : Ctx) : (s.setCtx n x).homes = s.homes := rfl
@[simp] theorem State.setCtx_pxReqs (s : State) (n : Nat) (x : Ctx) : (s.setCtx n x).pxReqs = s.pxReqs := rfl
@[simp] theorem State.setCtx_chunkReqs (s : State) (n : Nat) (x : Ctx) : (s.setCtx n x).chunkReqs = s.chunkReqs := rfl
@[simp] theorem State.setCtx_chans (s : State) (n : Nat) (x : Ctx) : (s.setCtx n x).chans = s.chans := rfl
@[simp] theorem State.setCtx_hwslots (s : State) (n : Nat) (x : Ctx) : (s.setCtx n x).hwslots = s.hwslots := rfl
@[simp] theorem State.setCtx_qwaits (s : State) (n : Nat) (x : Ctx) : (s.setCtx n x).qwaits = s.qwaits := rfl
@[simp] theorem State.setCtx_records (s : State) (n : Nat) (x : Ctx) : (s.setCtx n x).records = s.records := rfl
@[simp] theorem State.setCtx_deferred (s : State) (n : Nat) (x : Ctx) : (s.setCtx n x).deferred = s.deferred := rfl
@[simp] theorem State.setCtx_qtails (s : State) (n : Nat) (x : Ctx) : (s.setCtx n x).qtails = s.qtails := rfl
@[simp] theorem State.setCtx_ready (s : State) (n : Nat) (x : Ctx) : (s.setCtx n x).ready = s.ready := rfl
@[simp] theorem State.setCtx_readyAt (s : State) (n : Nat) (x : Ctx) : (s.setCtx n x).readyAt = s.readyAt := rfl
@[simp] theorem State.setCtx_faultWaits (s : State) (n : Nat) (x : Ctx) : (s.setCtx n x).faultWaits = s.faultWaits := rfl
@[simp] theorem State.setCtx_migReq (s : State) (n : Nat) (x : Ctx) : (s.setCtx n x).migReq = s.migReq := rfl
@[simp] theorem State.setCtx_migQueue (s : State) (n : Nat) (x : Ctx) : (s.setCtx n x).migQueue = s.migQueue := rfl
@[simp] theorem State.setCtx_migDropped (s : State) (n : Nat) (x : Ctx) : (s.setCtx n x).migDropped = s.migDropped := rfl
@[simp] theorem State.setCtx_migMoves (s : State) (n : Nat) (x : Ctx) : (s.setCtx n x).migMoves = s.migMoves := rfl
@[simp] theorem State.setCtx_pageHits (s : State) (n : Nat) (x : Ctx) : (s.setCtx n x).pageHits = s.pageHits := rfl
@[simp] theorem State.setCtx_hinv (s : State) (n : Nat) (x : Ctx) : (s.setCtx n x).hinv = s.hinv := rfl
@[simp] theorem State.setCtx_hinvLo (s : State) (n : Nat) (x : Ctx) : (s.setCtx n x).hinvLo = s.hinvLo := rfl
@[simp] theorem State.setCtx_peerRoute (s : State) (n : Nat) (x : Ctx) : (s.setCtx n x).peerRoute = s.peerRoute := rfl
@[simp] theorem State.setCtx_hostReply (s : State) (n : Nat) (x : Ctx) : (s.setCtx n x).hostReply = s.hostReply := rfl
@[simp] theorem State.setCtx_waveguides (s : State) (n : Nat) (x : Ctx) : (s.setCtx n x).waveguides = s.waveguides := rfl
@[simp] theorem State.setCtx_buffers (s : State) (n : Nat) (x : Ctx) : (s.setCtx n x).buffers = s.buffers := rfl
@[simp] theorem State.setCtx_ports (s : State) (n : Nat) (x : Ctx) : (s.setCtx n x).ports = s.ports := rfl
@[simp] theorem State.setCtx_portReply (s : State) (n : Nat) (x : Ctx) : (s.setCtx n x).portReply = s.portReply := rfl
@[simp] theorem State.setCtx_portHead (s : State) (n : Nat) (x : Ctx) : (s.setCtx n x).portHead = s.portHead := rfl
@[simp] theorem State.setCtx_dev (s : State) (n : Nat) (x : Ctx) : (s.setCtx n x).dev = s.dev := rfl

@[simp] theorem State.setCore_actor (s : State) (n : Nat) (x : Core) : (s.setCore n x).actor = s.actor := rfl
@[simp] theorem State.setCore_args (s : State) (n : Nat) (x : Core) : (s.setCore n x).args = s.args := rfl
@[simp] theorem State.setCore_agenda (s : State) (n : Nat) (x : Core) : (s.setCore n x).agenda = s.agenda := rfl
@[simp] theorem State.setCore_choices (s : State) (n : Nat) (x : Core) : (s.setCore n x).choices = s.choices := rfl
@[simp] theorem State.setCore_drawn (s : State) (n : Nat) (x : Core) : (s.setCore n x).drawn = s.drawn := rfl
@[simp] theorem State.setCore_ns (s : State) (n : Nat) (x : Core) : (s.setCore n x).ns = s.ns := rfl
@[simp] theorem State.setCore_cyc (s : State) (n : Nat) (x : Core) : (s.setCore n x).cyc = s.cyc := rfl
@[simp] theorem State.setCore_blocks (s : State) (n : Nat) (x : Core) : (s.setCore n x).blocks = s.blocks := rfl
@[simp] theorem State.setCore_cores (s : State) (n : Nat) (x : Core) : (s.setCore n x).cores = setNth s.cores n x := rfl
@[simp] theorem State.setCore_ctxs (s : State) (n : Nat) (x : Core) : (s.setCore n x).ctxs = s.ctxs := rfl
@[simp] theorem State.setCore_nextId (s : State) (n : Nat) (x : Core) : (s.setCore n x).nextId = s.nextId := rfl
@[simp] theorem State.setCore_dram (s : State) (n : Nat) (x : Core) : (s.setCore n x).dram = s.dram := rfl
@[simp] theorem State.setCore_l2 (s : State) (n : Nat) (x : Core) : (s.setCore n x).l2 = s.l2 := rfl
@[simp] theorem State.setCore_filled (s : State) (n : Nat) (x : Core) : (s.setCore n x).filled = s.filled := rfl
@[simp] theorem State.setCore_posted (s : State) (n : Nat) (x : Core) : (s.setCore n x).posted = s.posted := rfl
@[simp] theorem State.setCore_hostMem (s : State) (n : Nat) (x : Core) : (s.setCore n x).hostMem = s.hostMem := rfl
@[simp] theorem State.setCore_log (s : State) (n : Nat) (x : Core) : (s.setCore n x).log = s.log := rfl
@[simp] theorem State.setCore_tlb (s : State) (n : Nat) (x : Core) : (s.setCore n x).tlb = s.tlb := rfl
@[simp] theorem State.setCore_harvests (s : State) (n : Nat) (x : Core) : (s.setCore n x).harvests = s.harvests := rfl
@[simp] theorem State.setCore_ops (s : State) (n : Nat) (x : Core) : (s.setCore n x).ops = s.ops := rfl
@[simp] theorem State.setCore_xfers (s : State) (n : Nat) (x : Core) : (s.setCore n x).xfers = s.xfers := rfl
@[simp] theorem State.setCore_waits (s : State) (n : Nat) (x : Core) : (s.setCore n x).waits = s.waits := rfl
@[simp] theorem State.setCore_service (s : State) (n : Nat) (x : Core) : (s.setCore n x).service = s.service := rfl
@[simp] theorem State.setCore_copyEnd (s : State) (n : Nat) (x : Core) : (s.setCore n x).copyEnd = s.copyEnd := rfl
@[simp] theorem State.setCore_clocks (s : State) (n : Nat) (x : Core) : (s.setCore n x).clocks = s.clocks := rfl
@[simp] theorem State.setCore_sectorClock (s : State) (n : Nat) (x : Core) : (s.setCore n x).sectorClock = s.sectorClock := rfl
@[simp] theorem State.setCore_offers (s : State) (n : Nat) (x : Core) : (s.setCore n x).offers = s.offers := rfl
@[simp] theorem State.setCore_pairs (s : State) (n : Nat) (x : Core) : (s.setCore n x).pairs = s.pairs := rfl
@[simp] theorem State.setCore_ring (s : State) (n : Nat) (x : Core) : (s.setCore n x).ring = s.ring := rfl
@[simp] theorem State.setCore_homes (s : State) (n : Nat) (x : Core) : (s.setCore n x).homes = s.homes := rfl
@[simp] theorem State.setCore_pxReqs (s : State) (n : Nat) (x : Core) : (s.setCore n x).pxReqs = s.pxReqs := rfl
@[simp] theorem State.setCore_chunkReqs (s : State) (n : Nat) (x : Core) : (s.setCore n x).chunkReqs = s.chunkReqs := rfl
@[simp] theorem State.setCore_chans (s : State) (n : Nat) (x : Core) : (s.setCore n x).chans = s.chans := rfl
@[simp] theorem State.setCore_hwslots (s : State) (n : Nat) (x : Core) : (s.setCore n x).hwslots = s.hwslots := rfl
@[simp] theorem State.setCore_qwaits (s : State) (n : Nat) (x : Core) : (s.setCore n x).qwaits = s.qwaits := rfl
@[simp] theorem State.setCore_records (s : State) (n : Nat) (x : Core) : (s.setCore n x).records = s.records := rfl
@[simp] theorem State.setCore_deferred (s : State) (n : Nat) (x : Core) : (s.setCore n x).deferred = s.deferred := rfl
@[simp] theorem State.setCore_qtails (s : State) (n : Nat) (x : Core) : (s.setCore n x).qtails = s.qtails := rfl
@[simp] theorem State.setCore_ready (s : State) (n : Nat) (x : Core) : (s.setCore n x).ready = s.ready := rfl
@[simp] theorem State.setCore_readyAt (s : State) (n : Nat) (x : Core) : (s.setCore n x).readyAt = s.readyAt := rfl
@[simp] theorem State.setCore_faultWaits (s : State) (n : Nat) (x : Core) : (s.setCore n x).faultWaits = s.faultWaits := rfl
@[simp] theorem State.setCore_migReq (s : State) (n : Nat) (x : Core) : (s.setCore n x).migReq = s.migReq := rfl
@[simp] theorem State.setCore_migQueue (s : State) (n : Nat) (x : Core) : (s.setCore n x).migQueue = s.migQueue := rfl
@[simp] theorem State.setCore_migDropped (s : State) (n : Nat) (x : Core) : (s.setCore n x).migDropped = s.migDropped := rfl
@[simp] theorem State.setCore_migMoves (s : State) (n : Nat) (x : Core) : (s.setCore n x).migMoves = s.migMoves := rfl
@[simp] theorem State.setCore_pageHits (s : State) (n : Nat) (x : Core) : (s.setCore n x).pageHits = s.pageHits := rfl
@[simp] theorem State.setCore_hinv (s : State) (n : Nat) (x : Core) : (s.setCore n x).hinv = s.hinv := rfl
@[simp] theorem State.setCore_hinvLo (s : State) (n : Nat) (x : Core) : (s.setCore n x).hinvLo = s.hinvLo := rfl
@[simp] theorem State.setCore_peerRoute (s : State) (n : Nat) (x : Core) : (s.setCore n x).peerRoute = s.peerRoute := rfl
@[simp] theorem State.setCore_hostReply (s : State) (n : Nat) (x : Core) : (s.setCore n x).hostReply = s.hostReply := rfl
@[simp] theorem State.setCore_waveguides (s : State) (n : Nat) (x : Core) : (s.setCore n x).waveguides = s.waveguides := rfl
@[simp] theorem State.setCore_buffers (s : State) (n : Nat) (x : Core) : (s.setCore n x).buffers = s.buffers := rfl
@[simp] theorem State.setCore_ports (s : State) (n : Nat) (x : Core) : (s.setCore n x).ports = s.ports := rfl
@[simp] theorem State.setCore_portReply (s : State) (n : Nat) (x : Core) : (s.setCore n x).portReply = s.portReply := rfl
@[simp] theorem State.setCore_portHead (s : State) (n : Nat) (x : Core) : (s.setCore n x).portHead = s.portHead := rfl
@[simp] theorem State.setCore_dev (s : State) (n : Nat) (x : Core) : (s.setCore n x).dev = s.dev := rfl

@[simp] theorem State.setRecord_actor (s : State) (x : Record) : (s.setRecord x).actor = s.actor := rfl
@[simp] theorem State.setRecord_args (s : State) (x : Record) : (s.setRecord x).args = s.args := rfl
@[simp] theorem State.setRecord_agenda (s : State) (x : Record) : (s.setRecord x).agenda = s.agenda := rfl
@[simp] theorem State.setRecord_choices (s : State) (x : Record) : (s.setRecord x).choices = s.choices := rfl
@[simp] theorem State.setRecord_drawn (s : State) (x : Record) : (s.setRecord x).drawn = s.drawn := rfl
@[simp] theorem State.setRecord_ns (s : State) (x : Record) : (s.setRecord x).ns = s.ns := rfl
@[simp] theorem State.setRecord_cyc (s : State) (x : Record) : (s.setRecord x).cyc = s.cyc := rfl
@[simp] theorem State.setRecord_blocks (s : State) (x : Record) : (s.setRecord x).blocks = s.blocks := rfl
@[simp] theorem State.setRecord_cores (s : State) (x : Record) : (s.setRecord x).cores = s.cores := rfl
@[simp] theorem State.setRecord_ctxs (s : State) (x : Record) : (s.setRecord x).ctxs = s.ctxs := rfl
@[simp] theorem State.setRecord_nextId (s : State) (x : Record) : (s.setRecord x).nextId = s.nextId := rfl
@[simp] theorem State.setRecord_dram (s : State) (x : Record) : (s.setRecord x).dram = s.dram := rfl
@[simp] theorem State.setRecord_l2 (s : State) (x : Record) : (s.setRecord x).l2 = s.l2 := rfl
@[simp] theorem State.setRecord_filled (s : State) (x : Record) : (s.setRecord x).filled = s.filled := rfl
@[simp] theorem State.setRecord_posted (s : State) (x : Record) : (s.setRecord x).posted = s.posted := rfl
@[simp] theorem State.setRecord_hostMem (s : State) (x : Record) : (s.setRecord x).hostMem = s.hostMem := rfl
@[simp] theorem State.setRecord_log (s : State) (x : Record) : (s.setRecord x).log = s.log := rfl
@[simp] theorem State.setRecord_tlb (s : State) (x : Record) : (s.setRecord x).tlb = s.tlb := rfl
@[simp] theorem State.setRecord_harvests (s : State) (x : Record) : (s.setRecord x).harvests = s.harvests := rfl
@[simp] theorem State.setRecord_ops (s : State) (x : Record) : (s.setRecord x).ops = s.ops := rfl
@[simp] theorem State.setRecord_xfers (s : State) (x : Record) : (s.setRecord x).xfers = s.xfers := rfl
@[simp] theorem State.setRecord_waits (s : State) (x : Record) : (s.setRecord x).waits = s.waits := rfl
@[simp] theorem State.setRecord_service (s : State) (x : Record) : (s.setRecord x).service = s.service := rfl
@[simp] theorem State.setRecord_copyEnd (s : State) (x : Record) : (s.setRecord x).copyEnd = s.copyEnd := rfl
@[simp] theorem State.setRecord_clocks (s : State) (x : Record) : (s.setRecord x).clocks = s.clocks := rfl
@[simp] theorem State.setRecord_sectorClock (s : State) (x : Record) : (s.setRecord x).sectorClock = s.sectorClock := rfl
@[simp] theorem State.setRecord_offers (s : State) (x : Record) : (s.setRecord x).offers = s.offers := rfl
@[simp] theorem State.setRecord_pairs (s : State) (x : Record) : (s.setRecord x).pairs = s.pairs := rfl
@[simp] theorem State.setRecord_ring (s : State) (x : Record) : (s.setRecord x).ring = s.ring := rfl
@[simp] theorem State.setRecord_homes (s : State) (x : Record) : (s.setRecord x).homes = s.homes := rfl
@[simp] theorem State.setRecord_pxReqs (s : State) (x : Record) : (s.setRecord x).pxReqs = s.pxReqs := rfl
@[simp] theorem State.setRecord_chunkReqs (s : State) (x : Record) : (s.setRecord x).chunkReqs = s.chunkReqs := rfl
@[simp] theorem State.setRecord_chans (s : State) (x : Record) : (s.setRecord x).chans = s.chans := rfl
@[simp] theorem State.setRecord_hwslots (s : State) (x : Record) : (s.setRecord x).hwslots = s.hwslots := rfl
@[simp] theorem State.setRecord_qwaits (s : State) (x : Record) : (s.setRecord x).qwaits = s.qwaits := rfl
@[simp] theorem State.setRecord_records (s : State) (x : Record) : (s.setRecord x).records = s.records.map fun y => if y.id = x.id then x else y := rfl
@[simp] theorem State.setRecord_deferred (s : State) (x : Record) : (s.setRecord x).deferred = s.deferred := rfl
@[simp] theorem State.setRecord_qtails (s : State) (x : Record) : (s.setRecord x).qtails = s.qtails := rfl
@[simp] theorem State.setRecord_ready (s : State) (x : Record) : (s.setRecord x).ready = s.ready := rfl
@[simp] theorem State.setRecord_readyAt (s : State) (x : Record) : (s.setRecord x).readyAt = s.readyAt := rfl
@[simp] theorem State.setRecord_faultWaits (s : State) (x : Record) : (s.setRecord x).faultWaits = s.faultWaits := rfl
@[simp] theorem State.setRecord_migReq (s : State) (x : Record) : (s.setRecord x).migReq = s.migReq := rfl
@[simp] theorem State.setRecord_migQueue (s : State) (x : Record) : (s.setRecord x).migQueue = s.migQueue := rfl
@[simp] theorem State.setRecord_migDropped (s : State) (x : Record) : (s.setRecord x).migDropped = s.migDropped := rfl
@[simp] theorem State.setRecord_migMoves (s : State) (x : Record) : (s.setRecord x).migMoves = s.migMoves := rfl
@[simp] theorem State.setRecord_pageHits (s : State) (x : Record) : (s.setRecord x).pageHits = s.pageHits := rfl
@[simp] theorem State.setRecord_hinv (s : State) (x : Record) : (s.setRecord x).hinv = s.hinv := rfl
@[simp] theorem State.setRecord_hinvLo (s : State) (x : Record) : (s.setRecord x).hinvLo = s.hinvLo := rfl
@[simp] theorem State.setRecord_peerRoute (s : State) (x : Record) : (s.setRecord x).peerRoute = s.peerRoute := rfl
@[simp] theorem State.setRecord_hostReply (s : State) (x : Record) : (s.setRecord x).hostReply = s.hostReply := rfl
@[simp] theorem State.setRecord_waveguides (s : State) (x : Record) : (s.setRecord x).waveguides = s.waveguides := rfl
@[simp] theorem State.setRecord_buffers (s : State) (x : Record) : (s.setRecord x).buffers = s.buffers := rfl
@[simp] theorem State.setRecord_ports (s : State) (x : Record) : (s.setRecord x).ports = s.ports := rfl
@[simp] theorem State.setRecord_portReply (s : State) (x : Record) : (s.setRecord x).portReply = s.portReply := rfl
@[simp] theorem State.setRecord_portHead (s : State) (x : Record) : (s.setRecord x).portHead = s.portHead := rfl
@[simp] theorem State.setRecord_dev (s : State) (x : Record) : (s.setRecord x).dev = s.dev := rfl

@[simp] theorem State.setHome_actor (s : State) (n : Nat) (x : Home) : (s.setHome n x).actor = s.actor := rfl
@[simp] theorem State.setHome_args (s : State) (n : Nat) (x : Home) : (s.setHome n x).args = s.args := rfl
@[simp] theorem State.setHome_agenda (s : State) (n : Nat) (x : Home) : (s.setHome n x).agenda = s.agenda := rfl
@[simp] theorem State.setHome_choices (s : State) (n : Nat) (x : Home) : (s.setHome n x).choices = s.choices := rfl
@[simp] theorem State.setHome_drawn (s : State) (n : Nat) (x : Home) : (s.setHome n x).drawn = s.drawn := rfl
@[simp] theorem State.setHome_ns (s : State) (n : Nat) (x : Home) : (s.setHome n x).ns = s.ns := rfl
@[simp] theorem State.setHome_cyc (s : State) (n : Nat) (x : Home) : (s.setHome n x).cyc = s.cyc := rfl
@[simp] theorem State.setHome_blocks (s : State) (n : Nat) (x : Home) : (s.setHome n x).blocks = s.blocks := rfl
@[simp] theorem State.setHome_cores (s : State) (n : Nat) (x : Home) : (s.setHome n x).cores = s.cores := rfl
@[simp] theorem State.setHome_ctxs (s : State) (n : Nat) (x : Home) : (s.setHome n x).ctxs = s.ctxs := rfl
@[simp] theorem State.setHome_nextId (s : State) (n : Nat) (x : Home) : (s.setHome n x).nextId = s.nextId := rfl
@[simp] theorem State.setHome_dram (s : State) (n : Nat) (x : Home) : (s.setHome n x).dram = s.dram := rfl
@[simp] theorem State.setHome_l2 (s : State) (n : Nat) (x : Home) : (s.setHome n x).l2 = s.l2 := rfl
@[simp] theorem State.setHome_filled (s : State) (n : Nat) (x : Home) : (s.setHome n x).filled = s.filled := rfl
@[simp] theorem State.setHome_posted (s : State) (n : Nat) (x : Home) : (s.setHome n x).posted = s.posted := rfl
@[simp] theorem State.setHome_hostMem (s : State) (n : Nat) (x : Home) : (s.setHome n x).hostMem = s.hostMem := rfl
@[simp] theorem State.setHome_log (s : State) (n : Nat) (x : Home) : (s.setHome n x).log = s.log := rfl
@[simp] theorem State.setHome_tlb (s : State) (n : Nat) (x : Home) : (s.setHome n x).tlb = s.tlb := rfl
@[simp] theorem State.setHome_harvests (s : State) (n : Nat) (x : Home) : (s.setHome n x).harvests = s.harvests := rfl
@[simp] theorem State.setHome_ops (s : State) (n : Nat) (x : Home) : (s.setHome n x).ops = s.ops := rfl
@[simp] theorem State.setHome_xfers (s : State) (n : Nat) (x : Home) : (s.setHome n x).xfers = s.xfers := rfl
@[simp] theorem State.setHome_waits (s : State) (n : Nat) (x : Home) : (s.setHome n x).waits = s.waits := rfl
@[simp] theorem State.setHome_service (s : State) (n : Nat) (x : Home) : (s.setHome n x).service = s.service := rfl
@[simp] theorem State.setHome_copyEnd (s : State) (n : Nat) (x : Home) : (s.setHome n x).copyEnd = s.copyEnd := rfl
@[simp] theorem State.setHome_clocks (s : State) (n : Nat) (x : Home) : (s.setHome n x).clocks = s.clocks := rfl
@[simp] theorem State.setHome_sectorClock (s : State) (n : Nat) (x : Home) : (s.setHome n x).sectorClock = s.sectorClock := rfl
@[simp] theorem State.setHome_offers (s : State) (n : Nat) (x : Home) : (s.setHome n x).offers = s.offers := rfl
@[simp] theorem State.setHome_pairs (s : State) (n : Nat) (x : Home) : (s.setHome n x).pairs = s.pairs := rfl
@[simp] theorem State.setHome_ring (s : State) (n : Nat) (x : Home) : (s.setHome n x).ring = s.ring := rfl
@[simp] theorem State.setHome_homes (s : State) (n : Nat) (x : Home) : (s.setHome n x).homes = setNth s.homes n x := rfl
@[simp] theorem State.setHome_pxReqs (s : State) (n : Nat) (x : Home) : (s.setHome n x).pxReqs = s.pxReqs := rfl
@[simp] theorem State.setHome_chunkReqs (s : State) (n : Nat) (x : Home) : (s.setHome n x).chunkReqs = s.chunkReqs := rfl
@[simp] theorem State.setHome_chans (s : State) (n : Nat) (x : Home) : (s.setHome n x).chans = s.chans := rfl
@[simp] theorem State.setHome_hwslots (s : State) (n : Nat) (x : Home) : (s.setHome n x).hwslots = s.hwslots := rfl
@[simp] theorem State.setHome_qwaits (s : State) (n : Nat) (x : Home) : (s.setHome n x).qwaits = s.qwaits := rfl
@[simp] theorem State.setHome_records (s : State) (n : Nat) (x : Home) : (s.setHome n x).records = s.records := rfl
@[simp] theorem State.setHome_deferred (s : State) (n : Nat) (x : Home) : (s.setHome n x).deferred = s.deferred := rfl
@[simp] theorem State.setHome_qtails (s : State) (n : Nat) (x : Home) : (s.setHome n x).qtails = s.qtails := rfl
@[simp] theorem State.setHome_ready (s : State) (n : Nat) (x : Home) : (s.setHome n x).ready = s.ready := rfl
@[simp] theorem State.setHome_readyAt (s : State) (n : Nat) (x : Home) : (s.setHome n x).readyAt = s.readyAt := rfl
@[simp] theorem State.setHome_faultWaits (s : State) (n : Nat) (x : Home) : (s.setHome n x).faultWaits = s.faultWaits := rfl
@[simp] theorem State.setHome_migReq (s : State) (n : Nat) (x : Home) : (s.setHome n x).migReq = s.migReq := rfl
@[simp] theorem State.setHome_migQueue (s : State) (n : Nat) (x : Home) : (s.setHome n x).migQueue = s.migQueue := rfl
@[simp] theorem State.setHome_migDropped (s : State) (n : Nat) (x : Home) : (s.setHome n x).migDropped = s.migDropped := rfl
@[simp] theorem State.setHome_migMoves (s : State) (n : Nat) (x : Home) : (s.setHome n x).migMoves = s.migMoves := rfl
@[simp] theorem State.setHome_pageHits (s : State) (n : Nat) (x : Home) : (s.setHome n x).pageHits = s.pageHits := rfl
@[simp] theorem State.setHome_hinv (s : State) (n : Nat) (x : Home) : (s.setHome n x).hinv = s.hinv := rfl
@[simp] theorem State.setHome_hinvLo (s : State) (n : Nat) (x : Home) : (s.setHome n x).hinvLo = s.hinvLo := rfl
@[simp] theorem State.setHome_peerRoute (s : State) (n : Nat) (x : Home) : (s.setHome n x).peerRoute = s.peerRoute := rfl
@[simp] theorem State.setHome_hostReply (s : State) (n : Nat) (x : Home) : (s.setHome n x).hostReply = s.hostReply := rfl
@[simp] theorem State.setHome_waveguides (s : State) (n : Nat) (x : Home) : (s.setHome n x).waveguides = s.waveguides := rfl
@[simp] theorem State.setHome_buffers (s : State) (n : Nat) (x : Home) : (s.setHome n x).buffers = s.buffers := rfl
@[simp] theorem State.setHome_ports (s : State) (n : Nat) (x : Home) : (s.setHome n x).ports = s.ports := rfl
@[simp] theorem State.setHome_portReply (s : State) (n : Nat) (x : Home) : (s.setHome n x).portReply = s.portReply := rfl
@[simp] theorem State.setHome_portHead (s : State) (n : Nat) (x : Home) : (s.setHome n x).portHead = s.portHead := rfl
@[simp] theorem State.setHome_dev (s : State) (n : Nat) (x : Home) : (s.setHome n x).dev = s.dev := rfl

@[simp] theorem State.setChan_actor (s : State) (n : Nat) (x : Chan) : (s.setChan n x).actor = s.actor := rfl
@[simp] theorem State.setChan_args (s : State) (n : Nat) (x : Chan) : (s.setChan n x).args = s.args := rfl
@[simp] theorem State.setChan_agenda (s : State) (n : Nat) (x : Chan) : (s.setChan n x).agenda = s.agenda := rfl
@[simp] theorem State.setChan_choices (s : State) (n : Nat) (x : Chan) : (s.setChan n x).choices = s.choices := rfl
@[simp] theorem State.setChan_drawn (s : State) (n : Nat) (x : Chan) : (s.setChan n x).drawn = s.drawn := rfl
@[simp] theorem State.setChan_ns (s : State) (n : Nat) (x : Chan) : (s.setChan n x).ns = s.ns := rfl
@[simp] theorem State.setChan_cyc (s : State) (n : Nat) (x : Chan) : (s.setChan n x).cyc = s.cyc := rfl
@[simp] theorem State.setChan_blocks (s : State) (n : Nat) (x : Chan) : (s.setChan n x).blocks = s.blocks := rfl
@[simp] theorem State.setChan_cores (s : State) (n : Nat) (x : Chan) : (s.setChan n x).cores = s.cores := rfl
@[simp] theorem State.setChan_ctxs (s : State) (n : Nat) (x : Chan) : (s.setChan n x).ctxs = s.ctxs := rfl
@[simp] theorem State.setChan_nextId (s : State) (n : Nat) (x : Chan) : (s.setChan n x).nextId = s.nextId := rfl
@[simp] theorem State.setChan_dram (s : State) (n : Nat) (x : Chan) : (s.setChan n x).dram = s.dram := rfl
@[simp] theorem State.setChan_l2 (s : State) (n : Nat) (x : Chan) : (s.setChan n x).l2 = s.l2 := rfl
@[simp] theorem State.setChan_filled (s : State) (n : Nat) (x : Chan) : (s.setChan n x).filled = s.filled := rfl
@[simp] theorem State.setChan_posted (s : State) (n : Nat) (x : Chan) : (s.setChan n x).posted = s.posted := rfl
@[simp] theorem State.setChan_hostMem (s : State) (n : Nat) (x : Chan) : (s.setChan n x).hostMem = s.hostMem := rfl
@[simp] theorem State.setChan_log (s : State) (n : Nat) (x : Chan) : (s.setChan n x).log = s.log := rfl
@[simp] theorem State.setChan_tlb (s : State) (n : Nat) (x : Chan) : (s.setChan n x).tlb = s.tlb := rfl
@[simp] theorem State.setChan_harvests (s : State) (n : Nat) (x : Chan) : (s.setChan n x).harvests = s.harvests := rfl
@[simp] theorem State.setChan_ops (s : State) (n : Nat) (x : Chan) : (s.setChan n x).ops = s.ops := rfl
@[simp] theorem State.setChan_xfers (s : State) (n : Nat) (x : Chan) : (s.setChan n x).xfers = s.xfers := rfl
@[simp] theorem State.setChan_waits (s : State) (n : Nat) (x : Chan) : (s.setChan n x).waits = s.waits := rfl
@[simp] theorem State.setChan_service (s : State) (n : Nat) (x : Chan) : (s.setChan n x).service = s.service := rfl
@[simp] theorem State.setChan_copyEnd (s : State) (n : Nat) (x : Chan) : (s.setChan n x).copyEnd = s.copyEnd := rfl
@[simp] theorem State.setChan_clocks (s : State) (n : Nat) (x : Chan) : (s.setChan n x).clocks = s.clocks := rfl
@[simp] theorem State.setChan_sectorClock (s : State) (n : Nat) (x : Chan) : (s.setChan n x).sectorClock = s.sectorClock := rfl
@[simp] theorem State.setChan_offers (s : State) (n : Nat) (x : Chan) : (s.setChan n x).offers = s.offers := rfl
@[simp] theorem State.setChan_pairs (s : State) (n : Nat) (x : Chan) : (s.setChan n x).pairs = s.pairs := rfl
@[simp] theorem State.setChan_ring (s : State) (n : Nat) (x : Chan) : (s.setChan n x).ring = s.ring := rfl
@[simp] theorem State.setChan_homes (s : State) (n : Nat) (x : Chan) : (s.setChan n x).homes = s.homes := rfl
@[simp] theorem State.setChan_pxReqs (s : State) (n : Nat) (x : Chan) : (s.setChan n x).pxReqs = s.pxReqs := rfl
@[simp] theorem State.setChan_chunkReqs (s : State) (n : Nat) (x : Chan) : (s.setChan n x).chunkReqs = s.chunkReqs := rfl
@[simp] theorem State.setChan_chans (s : State) (n : Nat) (x : Chan) : (s.setChan n x).chans = setNth s.chans n x := rfl
@[simp] theorem State.setChan_hwslots (s : State) (n : Nat) (x : Chan) : (s.setChan n x).hwslots = s.hwslots := rfl
@[simp] theorem State.setChan_qwaits (s : State) (n : Nat) (x : Chan) : (s.setChan n x).qwaits = s.qwaits := rfl
@[simp] theorem State.setChan_records (s : State) (n : Nat) (x : Chan) : (s.setChan n x).records = s.records := rfl
@[simp] theorem State.setChan_deferred (s : State) (n : Nat) (x : Chan) : (s.setChan n x).deferred = s.deferred := rfl
@[simp] theorem State.setChan_qtails (s : State) (n : Nat) (x : Chan) : (s.setChan n x).qtails = s.qtails := rfl
@[simp] theorem State.setChan_ready (s : State) (n : Nat) (x : Chan) : (s.setChan n x).ready = s.ready := rfl
@[simp] theorem State.setChan_readyAt (s : State) (n : Nat) (x : Chan) : (s.setChan n x).readyAt = s.readyAt := rfl
@[simp] theorem State.setChan_faultWaits (s : State) (n : Nat) (x : Chan) : (s.setChan n x).faultWaits = s.faultWaits := rfl
@[simp] theorem State.setChan_migReq (s : State) (n : Nat) (x : Chan) : (s.setChan n x).migReq = s.migReq := rfl
@[simp] theorem State.setChan_migQueue (s : State) (n : Nat) (x : Chan) : (s.setChan n x).migQueue = s.migQueue := rfl
@[simp] theorem State.setChan_migDropped (s : State) (n : Nat) (x : Chan) : (s.setChan n x).migDropped = s.migDropped := rfl
@[simp] theorem State.setChan_migMoves (s : State) (n : Nat) (x : Chan) : (s.setChan n x).migMoves = s.migMoves := rfl
@[simp] theorem State.setChan_pageHits (s : State) (n : Nat) (x : Chan) : (s.setChan n x).pageHits = s.pageHits := rfl
@[simp] theorem State.setChan_hinv (s : State) (n : Nat) (x : Chan) : (s.setChan n x).hinv = s.hinv := rfl
@[simp] theorem State.setChan_hinvLo (s : State) (n : Nat) (x : Chan) : (s.setChan n x).hinvLo = s.hinvLo := rfl
@[simp] theorem State.setChan_peerRoute (s : State) (n : Nat) (x : Chan) : (s.setChan n x).peerRoute = s.peerRoute := rfl
@[simp] theorem State.setChan_hostReply (s : State) (n : Nat) (x : Chan) : (s.setChan n x).hostReply = s.hostReply := rfl
@[simp] theorem State.setChan_waveguides (s : State) (n : Nat) (x : Chan) : (s.setChan n x).waveguides = s.waveguides := rfl
@[simp] theorem State.setChan_buffers (s : State) (n : Nat) (x : Chan) : (s.setChan n x).buffers = s.buffers := rfl
@[simp] theorem State.setChan_ports (s : State) (n : Nat) (x : Chan) : (s.setChan n x).ports = s.ports := rfl
@[simp] theorem State.setChan_portReply (s : State) (n : Nat) (x : Chan) : (s.setChan n x).portReply = s.portReply := rfl
@[simp] theorem State.setChan_portHead (s : State) (n : Nat) (x : Chan) : (s.setChan n x).portHead = s.portHead := rfl
@[simp] theorem State.setChan_dev (s : State) (n : Nat) (x : Chan) : (s.setChan n x).dev = s.dev := rfl

@[simp] theorem State.note_actor (s : State) (e : MemEvent) : (s.note e).actor = s.actor := rfl
@[simp] theorem State.note_args (s : State) (e : MemEvent) : (s.note e).args = s.args := rfl
@[simp] theorem State.note_agenda (s : State) (e : MemEvent) : (s.note e).agenda = s.agenda := rfl
@[simp] theorem State.note_choices (s : State) (e : MemEvent) : (s.note e).choices = s.choices := rfl
@[simp] theorem State.note_drawn (s : State) (e : MemEvent) : (s.note e).drawn = s.drawn := rfl
@[simp] theorem State.note_ns (s : State) (e : MemEvent) : (s.note e).ns = s.ns := rfl
@[simp] theorem State.note_cyc (s : State) (e : MemEvent) : (s.note e).cyc = s.cyc := rfl
@[simp] theorem State.note_blocks (s : State) (e : MemEvent) : (s.note e).blocks = s.blocks := rfl
@[simp] theorem State.note_cores (s : State) (e : MemEvent) : (s.note e).cores = s.cores := rfl
@[simp] theorem State.note_ctxs (s : State) (e : MemEvent) : (s.note e).ctxs = s.ctxs := rfl
@[simp] theorem State.note_nextId (s : State) (e : MemEvent) : (s.note e).nextId = s.nextId := rfl
@[simp] theorem State.note_dram (s : State) (e : MemEvent) : (s.note e).dram = s.dram := rfl
@[simp] theorem State.note_l2 (s : State) (e : MemEvent) : (s.note e).l2 = s.l2 := rfl
@[simp] theorem State.note_filled (s : State) (e : MemEvent) : (s.note e).filled = s.filled := rfl
@[simp] theorem State.note_posted (s : State) (e : MemEvent) : (s.note e).posted = s.posted := rfl
@[simp] theorem State.note_hostMem (s : State) (e : MemEvent) : (s.note e).hostMem = s.hostMem := rfl
@[simp] theorem State.note_log (s : State) (e : MemEvent) : (s.note e).log = { e with time := s.memTime + 1 } :: s.log := rfl
@[simp] theorem State.note_tlb (s : State) (e : MemEvent) : (s.note e).tlb = s.tlb := rfl
@[simp] theorem State.note_harvests (s : State) (e : MemEvent) : (s.note e).harvests = s.harvests := rfl
@[simp] theorem State.note_ops (s : State) (e : MemEvent) : (s.note e).ops = s.ops := rfl
@[simp] theorem State.note_xfers (s : State) (e : MemEvent) : (s.note e).xfers = s.xfers := rfl
@[simp] theorem State.note_waits (s : State) (e : MemEvent) : (s.note e).waits = s.waits := rfl
@[simp] theorem State.note_service (s : State) (e : MemEvent) : (s.note e).service = s.service := rfl
@[simp] theorem State.note_copyEnd (s : State) (e : MemEvent) : (s.note e).copyEnd = s.copyEnd := rfl
@[simp] theorem State.note_clocks (s : State) (e : MemEvent) : (s.note e).clocks = s.clocks := rfl
@[simp] theorem State.note_sectorClock (s : State) (e : MemEvent) : (s.note e).sectorClock = s.sectorClock := rfl
@[simp] theorem State.note_offers (s : State) (e : MemEvent) : (s.note e).offers = s.offers := rfl
@[simp] theorem State.note_pairs (s : State) (e : MemEvent) : (s.note e).pairs = s.pairs := rfl
@[simp] theorem State.note_ring (s : State) (e : MemEvent) : (s.note e).ring = s.ring := rfl
@[simp] theorem State.note_homes (s : State) (e : MemEvent) : (s.note e).homes = s.homes := rfl
@[simp] theorem State.note_pxReqs (s : State) (e : MemEvent) : (s.note e).pxReqs = s.pxReqs := rfl
@[simp] theorem State.note_chunkReqs (s : State) (e : MemEvent) : (s.note e).chunkReqs = s.chunkReqs := rfl
@[simp] theorem State.note_chans (s : State) (e : MemEvent) : (s.note e).chans = s.chans := rfl
@[simp] theorem State.note_hwslots (s : State) (e : MemEvent) : (s.note e).hwslots = s.hwslots := rfl
@[simp] theorem State.note_qwaits (s : State) (e : MemEvent) : (s.note e).qwaits = s.qwaits := rfl
@[simp] theorem State.note_records (s : State) (e : MemEvent) : (s.note e).records = s.records := rfl
@[simp] theorem State.note_deferred (s : State) (e : MemEvent) : (s.note e).deferred = s.deferred := rfl
@[simp] theorem State.note_qtails (s : State) (e : MemEvent) : (s.note e).qtails = s.qtails := rfl
@[simp] theorem State.note_ready (s : State) (e : MemEvent) : (s.note e).ready = s.ready := rfl
@[simp] theorem State.note_readyAt (s : State) (e : MemEvent) : (s.note e).readyAt = s.readyAt := rfl
@[simp] theorem State.note_faultWaits (s : State) (e : MemEvent) : (s.note e).faultWaits = s.faultWaits := rfl
@[simp] theorem State.note_migReq (s : State) (e : MemEvent) : (s.note e).migReq = s.migReq := rfl
@[simp] theorem State.note_migQueue (s : State) (e : MemEvent) : (s.note e).migQueue = s.migQueue := rfl
@[simp] theorem State.note_migDropped (s : State) (e : MemEvent) : (s.note e).migDropped = s.migDropped := rfl
@[simp] theorem State.note_migMoves (s : State) (e : MemEvent) : (s.note e).migMoves = s.migMoves := rfl
@[simp] theorem State.note_pageHits (s : State) (e : MemEvent) : (s.note e).pageHits = s.pageHits := rfl
@[simp] theorem State.note_hinv (s : State) (e : MemEvent) : (s.note e).hinv = s.hinv := rfl
@[simp] theorem State.note_hinvLo (s : State) (e : MemEvent) : (s.note e).hinvLo = s.hinvLo := rfl
@[simp] theorem State.note_peerRoute (s : State) (e : MemEvent) : (s.note e).peerRoute = s.peerRoute := rfl
@[simp] theorem State.note_hostReply (s : State) (e : MemEvent) : (s.note e).hostReply = s.hostReply := rfl
@[simp] theorem State.note_waveguides (s : State) (e : MemEvent) : (s.note e).waveguides = s.waveguides := rfl
@[simp] theorem State.note_buffers (s : State) (e : MemEvent) : (s.note e).buffers = s.buffers := rfl
@[simp] theorem State.note_ports (s : State) (e : MemEvent) : (s.note e).ports = s.ports := rfl
@[simp] theorem State.note_portReply (s : State) (e : MemEvent) : (s.note e).portReply = s.portReply := rfl
@[simp] theorem State.note_portHead (s : State) (e : MemEvent) : (s.note e).portHead = s.portHead := rfl
@[simp] theorem State.note_dev (s : State) (e : MemEvent) : (s.note e).dev = s.dev := rfl

/-! ### Reading back what an update set -/

theorem State.ctx_setCtx_self (s : State) {n : Nat} (x : Ctx) (h : n < s.ctxs.length) : (s.setCtx n x).ctx n = x :=
  nth_setNth_self _ _ _ _ h
theorem State.ctx_setCtx_of_ne (s : State) {n k : Nat} (x : Ctx) (h : k ≠ n) : (s.setCtx n x).ctx k = s.ctx k :=
  nth_setNth_of_ne _ _ _ _ _ h
theorem State.core_setCore_self (s : State) {n : Nat} (x : Core) (h : n < s.cores.length) : (s.setCore n x).core n = x :=
  nth_setNth_self _ _ _ _ h
theorem State.core_setCore_of_ne (s : State) {n k : Nat} (x : Core) (h : k ≠ n) : (s.setCore n x).core k = s.core k :=
  nth_setNth_of_ne _ _ _ _ _ h
theorem State.home_setHome_self (s : State) {n : Nat} (x : Home) (h : n < s.homes.length) : (s.setHome n x).home n = x :=
  nth_setNth_self _ _ _ _ h
theorem State.home_setHome_of_ne (s : State) {n k : Nat} (x : Home) (h : k ≠ n) : (s.setHome n x).home k = s.home k :=
  nth_setNth_of_ne _ _ _ _ _ h
theorem State.chan_setChan_self (s : State) {n : Nat} (x : Chan) (h : n < s.chans.length) : (s.setChan n x).chan n = x :=
  nth_setNth_self _ _ _ _ h
theorem State.chan_setChan_of_ne (s : State) {n k : Nat} (x : Chan) (h : k ≠ n) : (s.setChan n x).chan k = s.chan k :=
  nth_setNth_of_ne _ _ _ _ _ h

/-- A block found by its identity has it. -/
theorem State.block?_id {s : State} {b : Nat} {blk : Block} (h : s.block? b = some blk) : blk.id = b := by
  simpa using List.find?_some h

/-- The blocks of a list in which one is replaced, found by identity. -/
theorem find_replaced (x : Block) (b : Nat) : ∀ l : List Block,
    (l.map fun y => if y.id = x.id then x else y).find? (fun y => y.id == b)
      = if b = x.id then (l.find? fun y => y.id == b).map fun _ => x else l.find? fun y => y.id == b
  | [] => by simp
  | y :: ys => by
    have ih := find_replaced x b ys
    by_cases h1 : y.id = x.id <;> by_cases h2 : b = x.id <;> by_cases h3 : y.id = b <;>
      simp_all

/-- A block after one was replaced. -/
theorem State.block?_setBlock (s : State) (x : Block) (b : Nat) :
    (s.setBlock x).block? b = if b = x.id then (s.block? b).map fun _ => x else s.block? b := find_replaced x b s.blocks

/-! ### Updates of a warp in place -/

@[simp] theorem State.updWarp_actor (s : State) (b wi : Nat) (f : Warp → Warp) : (s.updWarp b wi f).actor = s.actor := by
  unfold State.updWarp; split <;> rfl
@[simp] theorem State.updWarp_args (s : State) (b wi : Nat) (f : Warp → Warp) : (s.updWarp b wi f).args = s.args := by
  unfold State.updWarp; split <;> rfl
@[simp] theorem State.updWarp_agenda (s : State) (b wi : Nat) (f : Warp → Warp) : (s.updWarp b wi f).agenda = s.agenda := by
  unfold State.updWarp; split <;> rfl
@[simp] theorem State.updWarp_choices (s : State) (b wi : Nat) (f : Warp → Warp) : (s.updWarp b wi f).choices = s.choices := by
  unfold State.updWarp; split <;> rfl
@[simp] theorem State.updWarp_drawn (s : State) (b wi : Nat) (f : Warp → Warp) : (s.updWarp b wi f).drawn = s.drawn := by
  unfold State.updWarp; split <;> rfl
@[simp] theorem State.updWarp_ns (s : State) (b wi : Nat) (f : Warp → Warp) : (s.updWarp b wi f).ns = s.ns := by
  unfold State.updWarp; split <;> rfl
@[simp] theorem State.updWarp_cyc (s : State) (b wi : Nat) (f : Warp → Warp) : (s.updWarp b wi f).cyc = s.cyc := by
  unfold State.updWarp; split <;> rfl
@[simp] theorem State.updWarp_cores (s : State) (b wi : Nat) (f : Warp → Warp) : (s.updWarp b wi f).cores = s.cores := by
  unfold State.updWarp; split <;> rfl
@[simp] theorem State.updWarp_ctxs (s : State) (b wi : Nat) (f : Warp → Warp) : (s.updWarp b wi f).ctxs = s.ctxs := by
  unfold State.updWarp; split <;> rfl
@[simp] theorem State.updWarp_nextId (s : State) (b wi : Nat) (f : Warp → Warp) : (s.updWarp b wi f).nextId = s.nextId := by
  unfold State.updWarp; split <;> rfl
@[simp] theorem State.updWarp_dram (s : State) (b wi : Nat) (f : Warp → Warp) : (s.updWarp b wi f).dram = s.dram := by
  unfold State.updWarp; split <;> rfl
@[simp] theorem State.updWarp_l2 (s : State) (b wi : Nat) (f : Warp → Warp) : (s.updWarp b wi f).l2 = s.l2 := by
  unfold State.updWarp; split <;> rfl
@[simp] theorem State.updWarp_filled (s : State) (b wi : Nat) (f : Warp → Warp) : (s.updWarp b wi f).filled = s.filled := by
  unfold State.updWarp; split <;> rfl
@[simp] theorem State.updWarp_posted (s : State) (b wi : Nat) (f : Warp → Warp) : (s.updWarp b wi f).posted = s.posted := by
  unfold State.updWarp; split <;> rfl
@[simp] theorem State.updWarp_hostMem (s : State) (b wi : Nat) (f : Warp → Warp) : (s.updWarp b wi f).hostMem = s.hostMem := by
  unfold State.updWarp; split <;> rfl
@[simp] theorem State.updWarp_log (s : State) (b wi : Nat) (f : Warp → Warp) : (s.updWarp b wi f).log = s.log := by
  unfold State.updWarp; split <;> rfl
@[simp] theorem State.updWarp_tlb (s : State) (b wi : Nat) (f : Warp → Warp) : (s.updWarp b wi f).tlb = s.tlb := by
  unfold State.updWarp; split <;> rfl
@[simp] theorem State.updWarp_harvests (s : State) (b wi : Nat) (f : Warp → Warp) : (s.updWarp b wi f).harvests = s.harvests := by
  unfold State.updWarp; split <;> rfl
@[simp] theorem State.updWarp_ops (s : State) (b wi : Nat) (f : Warp → Warp) : (s.updWarp b wi f).ops = s.ops := by
  unfold State.updWarp; split <;> rfl
@[simp] theorem State.updWarp_xfers (s : State) (b wi : Nat) (f : Warp → Warp) : (s.updWarp b wi f).xfers = s.xfers := by
  unfold State.updWarp; split <;> rfl
@[simp] theorem State.updWarp_waits (s : State) (b wi : Nat) (f : Warp → Warp) : (s.updWarp b wi f).waits = s.waits := by
  unfold State.updWarp; split <;> rfl
@[simp] theorem State.updWarp_service (s : State) (b wi : Nat) (f : Warp → Warp) : (s.updWarp b wi f).service = s.service := by
  unfold State.updWarp; split <;> rfl
@[simp] theorem State.updWarp_copyEnd (s : State) (b wi : Nat) (f : Warp → Warp) : (s.updWarp b wi f).copyEnd = s.copyEnd := by
  unfold State.updWarp; split <;> rfl
@[simp] theorem State.updWarp_clocks (s : State) (b wi : Nat) (f : Warp → Warp) : (s.updWarp b wi f).clocks = s.clocks := by
  unfold State.updWarp; split <;> rfl
@[simp] theorem State.updWarp_sectorClock (s : State) (b wi : Nat) (f : Warp → Warp) : (s.updWarp b wi f).sectorClock = s.sectorClock := by
  unfold State.updWarp; split <;> rfl
@[simp] theorem State.updWarp_offers (s : State) (b wi : Nat) (f : Warp → Warp) : (s.updWarp b wi f).offers = s.offers := by
  unfold State.updWarp; split <;> rfl
@[simp] theorem State.updWarp_pairs (s : State) (b wi : Nat) (f : Warp → Warp) : (s.updWarp b wi f).pairs = s.pairs := by
  unfold State.updWarp; split <;> rfl
@[simp] theorem State.updWarp_ring (s : State) (b wi : Nat) (f : Warp → Warp) : (s.updWarp b wi f).ring = s.ring := by
  unfold State.updWarp; split <;> rfl
@[simp] theorem State.updWarp_homes (s : State) (b wi : Nat) (f : Warp → Warp) : (s.updWarp b wi f).homes = s.homes := by
  unfold State.updWarp; split <;> rfl
@[simp] theorem State.updWarp_pxReqs (s : State) (b wi : Nat) (f : Warp → Warp) : (s.updWarp b wi f).pxReqs = s.pxReqs := by
  unfold State.updWarp; split <;> rfl
@[simp] theorem State.updWarp_chunkReqs (s : State) (b wi : Nat) (f : Warp → Warp) : (s.updWarp b wi f).chunkReqs = s.chunkReqs := by
  unfold State.updWarp; split <;> rfl
@[simp] theorem State.updWarp_chans (s : State) (b wi : Nat) (f : Warp → Warp) : (s.updWarp b wi f).chans = s.chans := by
  unfold State.updWarp; split <;> rfl
@[simp] theorem State.updWarp_hwslots (s : State) (b wi : Nat) (f : Warp → Warp) : (s.updWarp b wi f).hwslots = s.hwslots := by
  unfold State.updWarp; split <;> rfl
@[simp] theorem State.updWarp_qwaits (s : State) (b wi : Nat) (f : Warp → Warp) : (s.updWarp b wi f).qwaits = s.qwaits := by
  unfold State.updWarp; split <;> rfl
@[simp] theorem State.updWarp_records (s : State) (b wi : Nat) (f : Warp → Warp) : (s.updWarp b wi f).records = s.records := by
  unfold State.updWarp; split <;> rfl
@[simp] theorem State.updWarp_deferred (s : State) (b wi : Nat) (f : Warp → Warp) : (s.updWarp b wi f).deferred = s.deferred := by
  unfold State.updWarp; split <;> rfl
@[simp] theorem State.updWarp_qtails (s : State) (b wi : Nat) (f : Warp → Warp) : (s.updWarp b wi f).qtails = s.qtails := by
  unfold State.updWarp; split <;> rfl
@[simp] theorem State.updWarp_ready (s : State) (b wi : Nat) (f : Warp → Warp) : (s.updWarp b wi f).ready = s.ready := by
  unfold State.updWarp; split <;> rfl
@[simp] theorem State.updWarp_readyAt (s : State) (b wi : Nat) (f : Warp → Warp) : (s.updWarp b wi f).readyAt = s.readyAt := by
  unfold State.updWarp; split <;> rfl
@[simp] theorem State.updWarp_faultWaits (s : State) (b wi : Nat) (f : Warp → Warp) : (s.updWarp b wi f).faultWaits = s.faultWaits := by
  unfold State.updWarp; split <;> rfl
@[simp] theorem State.updWarp_migReq (s : State) (b wi : Nat) (f : Warp → Warp) : (s.updWarp b wi f).migReq = s.migReq := by
  unfold State.updWarp; split <;> rfl
@[simp] theorem State.updWarp_migQueue (s : State) (b wi : Nat) (f : Warp → Warp) : (s.updWarp b wi f).migQueue = s.migQueue := by
  unfold State.updWarp; split <;> rfl
@[simp] theorem State.updWarp_migDropped (s : State) (b wi : Nat) (f : Warp → Warp) : (s.updWarp b wi f).migDropped = s.migDropped := by
  unfold State.updWarp; split <;> rfl
@[simp] theorem State.updWarp_migMoves (s : State) (b wi : Nat) (f : Warp → Warp) : (s.updWarp b wi f).migMoves = s.migMoves := by
  unfold State.updWarp; split <;> rfl
@[simp] theorem State.updWarp_pageHits (s : State) (b wi : Nat) (f : Warp → Warp) : (s.updWarp b wi f).pageHits = s.pageHits := by
  unfold State.updWarp; split <;> rfl
@[simp] theorem State.updWarp_hinv (s : State) (b wi : Nat) (f : Warp → Warp) : (s.updWarp b wi f).hinv = s.hinv := by
  unfold State.updWarp; split <;> rfl
@[simp] theorem State.updWarp_hinvLo (s : State) (b wi : Nat) (f : Warp → Warp) : (s.updWarp b wi f).hinvLo = s.hinvLo := by
  unfold State.updWarp; split <;> rfl
@[simp] theorem State.updWarp_peerRoute (s : State) (b wi : Nat) (f : Warp → Warp) : (s.updWarp b wi f).peerRoute = s.peerRoute := by
  unfold State.updWarp; split <;> rfl
@[simp] theorem State.updWarp_hostReply (s : State) (b wi : Nat) (f : Warp → Warp) : (s.updWarp b wi f).hostReply = s.hostReply := by
  unfold State.updWarp; split <;> rfl
@[simp] theorem State.updWarp_waveguides (s : State) (b wi : Nat) (f : Warp → Warp) : (s.updWarp b wi f).waveguides = s.waveguides := by
  unfold State.updWarp; split <;> rfl
@[simp] theorem State.updWarp_buffers (s : State) (b wi : Nat) (f : Warp → Warp) : (s.updWarp b wi f).buffers = s.buffers := by
  unfold State.updWarp; split <;> rfl
@[simp] theorem State.updWarp_ports (s : State) (b wi : Nat) (f : Warp → Warp) : (s.updWarp b wi f).ports = s.ports := by
  unfold State.updWarp; split <;> rfl
@[simp] theorem State.updWarp_portReply (s : State) (b wi : Nat) (f : Warp → Warp) : (s.updWarp b wi f).portReply = s.portReply := by
  unfold State.updWarp; split <;> rfl
@[simp] theorem State.updWarp_portHead (s : State) (b wi : Nat) (f : Warp → Warp) : (s.updWarp b wi f).portHead = s.portHead := by
  unfold State.updWarp; split <;> rfl
@[simp] theorem State.updWarp_dev (s : State) (b wi : Nat) (f : Warp → Warp) : (s.updWarp b wi f).dev = s.dev := by
  unfold State.updWarp; split <;> rfl

/-- What an index of a block's warps holds after a warp was updated in place. -/
theorem State.warp?_updWarp (s : State) (b wi : Nat) (f : Warp → Warp) (b' wi' : Nat) :
    ((s.updWarp b wi f).warp? b' wi').map (·.2) =
      if b' = b ∧ wi' = wi then (s.warp? b wi).map (fun x => f x.2) else (s.warp? b' wi').map (·.2) := by
  unfold State.updWarp
  cases h : s.warp? b wi with
  | none =>
    by_cases hc : b' = b ∧ wi' = wi
    · obtain ⟨rfl, rfl⟩ := hc; simp [h]
    · simp [hc]
  | some p =>
    obtain ⟨blk, w⟩ := p
    simp only [State.warp?, Option.bind_eq_some_iff, Option.map_eq_some_iff, Prod.mk.injEq] at h
    obtain ⟨blk', hb, w', hw, rfl, rfl⟩ := h
    have hid := State.block?_id hb
    simp only [State.setWarp, State.warp?, State.block?_setBlock, hid]
    by_cases h1 : b' = b
    · subst h1
      by_cases h2 : wi' = wi
      · subst h2; simp [hb, hw, setNth_getElem?]
      · simp [hb, h2, setNth_getElem?]
    · simp [h1]

/-! ### Updates of a warp's path -/

theorem Warp.path_setPath_self (w : Warp) (slot : Nat) (p : Option Path) : (w.setPath slot p).path slot = p := by
  unfold Warp.setPath Warp.path; split <;> simp_all

theorem Warp.path_setPath_of_ne (w : Warp) {k slot : Nat} (p : Option Path) (hk : k < 2) (hs : slot < 2) (h : k ≠ slot) :
    (w.setPath slot p).path k = w.path k := by
  unfold Warp.setPath Warp.path; split <;> split <;> first | rfl | omega

@[simp] theorem Warp.setPath_ended (w : Warp) (slot : Nat) (p : Option Path) : (w.setPath slot p).ended = w.ended := by
  unfold Warp.setPath; split <;> rfl
@[simp] theorem Warp.setPath_exited (w : Warp) (slot : Nat) (p : Option Path) : (w.setPath slot p).exited = w.exited := by
  unfold Warp.setPath; split <;> rfl
@[simp] theorem Warp.setPath_b (w : Warp) (slot : Nat) (p : Option Path) : (w.setPath slot p).b = w.b := by
  unfold Warp.setPath; split <;> rfl
@[simp] theorem Warp.setPath_fromReserve (w : Warp) (slot : Nat) (p : Option Path) : (w.setPath slot p).fromReserve = w.fromReserve := by
  unfold Warp.setPath; split <;> rfl
@[simp] theorem Warp.setPath_vregs (w : Warp) (slot : Nat) (p : Option Path) : (w.setPath slot p).vregs = w.vregs := by
  unfold Warp.setPath; split <;> rfl
@[simp] theorem Warp.setPath_sregs (w : Warp) (slot : Nat) (p : Option Path) : (w.setPath slot p).sregs = w.sregs := by
  unfold Warp.setPath; split <;> rfl
@[simp] theorem Warp.setPath_preds (w : Warp) (slot : Nat) (p : Option Path) : (w.setPath slot p).preds = w.preds := by
  unfold Warp.setPath; split <;> rfl
@[simp] theorem Warp.setPath_flags (w : Warp) (slot : Nat) (p : Option Path) : (w.setPath slot p).flags = w.flags := by
  unfold Warp.setPath; split <;> rfl
@[simp] theorem Warp.setPath_latches (w : Warp) (slot : Nat) (p : Option Path) : (w.setPath slot p).latches = w.latches := by
  unfold Warp.setPath; split <;> rfl
@[simp] theorem Warp.setPath_shapes (w : Warp) (slot : Nat) (p : Option Path) : (w.setPath slot p).shapes = w.shapes := by
  unfold Warp.setPath; split <;> rfl
@[simp] theorem Warp.setPath_holds (w : Warp) (slot : Nat) (p : Option Path) : (w.setPath slot p).holds = w.holds := by
  unfold Warp.setPath; split <;> rfl
@[simp] theorem Warp.setPath_lastSlot (w : Warp) (slot : Nat) (p : Option Path) : (w.setPath slot p).lastSlot = w.lastSlot := by
  unfold Warp.setPath; split <;> rfl
@[simp] theorem Warp.setPath_stack (w : Warp) (slot : Nat) (p : Option Path) : (w.setPath slot p).stack = w.stack := by
  unfold Warp.setPath; split <;> rfl
@[simp] theorem Warp.setPath_nextJoin (w : Warp) (slot : Nat) (p : Option Path) : (w.setPath slot p).nextJoin = w.nextJoin := by
  unfold Warp.setPath; split <;> rfl
@[simp] theorem Warp.setPath_frame (w : Warp) (slot : Nat) (p : Option Path) : (w.setPath slot p).frame = w.frame := by
  unfold Warp.setPath; split <;> rfl
@[simp] theorem Warp.setPath_lent (w : Warp) (slot : Nat) (p : Option Path) : (w.setPath slot p).lent = w.lent := by
  unfold Warp.setPath; split <;> rfl
@[simp] theorem Warp.setPath_trapCause (w : Warp) (slot : Nat) (p : Option Path) : (w.setPath slot p).trapCause = w.trapCause := by
  unfold Warp.setPath; split <;> rfl
@[simp] theorem Warp.setPath_trapPc (w : Warp) (slot : Nat) (p : Option Path) : (w.setPath slot p).trapPc = w.trapPc := by
  unfold Warp.setPath; split <;> rfl
@[simp] theorem Warp.setPath_trapAddr (w : Warp) (slot : Nat) (p : Option Path) : (w.setPath slot p).trapAddr = w.trapAddr := by
  unfold Warp.setPath; split <;> rfl
@[simp] theorem Warp.setPath_trapMask (w : Warp) (slot : Nat) (p : Option Path) : (w.setPath slot p).trapMask = w.trapMask := by
  unfold Warp.setPath; split <;> rfl
@[simp] theorem Warp.setPath_trap (w : Warp) (slot : Nat) (p : Option Path) : (w.setPath slot p).trap = w.trap := by
  unfold Warp.setPath; split <;> rfl
@[simp] theorem Warp.setPath_async (w : Warp) (slot : Nat) (p : Option Path) : (w.setPath slot p).async = w.async := by
  unfold Warp.setPath; split <;> rfl
@[simp] theorem Warp.setPath_gate (w : Warp) (slot : Nat) (p : Option Path) : (w.setPath slot p).gate = w.gate := by
  unfold Warp.setPath; split <;> rfl
@[simp] theorem Warp.setPath_turn (w : Warp) (slot : Nat) (p : Option Path) : (w.setPath slot p).turn = w.turn := by
  unfold Warp.setPath; split <;> rfl
@[simp] theorem Warp.setPath_hwslot (w : Warp) (slot : Nat) (p : Option Path) : (w.setPath slot p).hwslot = w.hwslot := by
  unfold Warp.setPath; split <;> rfl
@[simp] theorem Warp.setPath_age (w : Warp) (slot : Nat) (p : Option Path) : (w.setPath slot p).age = w.age := by
  unfold Warp.setPath; split <;> rfl
@[simp] theorem Warp.setPath_privb (w : Warp) (slot : Nat) (p : Option Path) : (w.setPath slot p).privb = w.privb := by
  unfold Warp.setPath; split <;> rfl
@[simp] theorem Warp.setPath_retClock (w : Warp) (slot : Nat) (p : Option Path) : (w.setPath slot p).retClock = w.retClock := by
  unfold Warp.setPath; split <;> rfl
@[simp] theorem Warp.setPath_writeEpoch (w : Warp) (slot : Nat) (p : Option Path) : (w.setPath slot p).writeEpoch = w.writeEpoch := by
  unfold Warp.setPath; split <;> rfl
@[simp] theorem Warp.setWait_ended (w : Warp) (slot : Nat) (x : Wait) : (w.setWait slot x).ended = w.ended := by
  unfold Warp.setWait; split <;> simp
@[simp] theorem Warp.setWait_exited (w : Warp) (slot : Nat) (x : Wait) : (w.setWait slot x).exited = w.exited := by
  unfold Warp.setWait; split <;> simp
@[simp] theorem Warp.setWait_b (w : Warp) (slot : Nat) (x : Wait) : (w.setWait slot x).b = w.b := by
  unfold Warp.setWait; split <;> simp
@[simp] theorem Warp.setWait_fromReserve (w : Warp) (slot : Nat) (x : Wait) : (w.setWait slot x).fromReserve = w.fromReserve := by
  unfold Warp.setWait; split <;> simp
@[simp] theorem Warp.setWait_vregs (w : Warp) (slot : Nat) (x : Wait) : (w.setWait slot x).vregs = w.vregs := by
  unfold Warp.setWait; split <;> simp
@[simp] theorem Warp.setWait_sregs (w : Warp) (slot : Nat) (x : Wait) : (w.setWait slot x).sregs = w.sregs := by
  unfold Warp.setWait; split <;> simp
@[simp] theorem Warp.setWait_preds (w : Warp) (slot : Nat) (x : Wait) : (w.setWait slot x).preds = w.preds := by
  unfold Warp.setWait; split <;> simp
@[simp] theorem Warp.setWait_flags (w : Warp) (slot : Nat) (x : Wait) : (w.setWait slot x).flags = w.flags := by
  unfold Warp.setWait; split <;> simp
@[simp] theorem Warp.setWait_latches (w : Warp) (slot : Nat) (x : Wait) : (w.setWait slot x).latches = w.latches := by
  unfold Warp.setWait; split <;> simp
@[simp] theorem Warp.setWait_shapes (w : Warp) (slot : Nat) (x : Wait) : (w.setWait slot x).shapes = w.shapes := by
  unfold Warp.setWait; split <;> simp
@[simp] theorem Warp.setWait_holds (w : Warp) (slot : Nat) (x : Wait) : (w.setWait slot x).holds = w.holds := by
  unfold Warp.setWait; split <;> simp
@[simp] theorem Warp.setWait_lastSlot (w : Warp) (slot : Nat) (x : Wait) : (w.setWait slot x).lastSlot = w.lastSlot := by
  unfold Warp.setWait; split <;> simp
@[simp] theorem Warp.setWait_stack (w : Warp) (slot : Nat) (x : Wait) : (w.setWait slot x).stack = w.stack := by
  unfold Warp.setWait; split <;> simp
@[simp] theorem Warp.setWait_nextJoin (w : Warp) (slot : Nat) (x : Wait) : (w.setWait slot x).nextJoin = w.nextJoin := by
  unfold Warp.setWait; split <;> simp
@[simp] theorem Warp.setWait_frame (w : Warp) (slot : Nat) (x : Wait) : (w.setWait slot x).frame = w.frame := by
  unfold Warp.setWait; split <;> simp
@[simp] theorem Warp.setWait_lent (w : Warp) (slot : Nat) (x : Wait) : (w.setWait slot x).lent = w.lent := by
  unfold Warp.setWait; split <;> simp
@[simp] theorem Warp.setWait_trapCause (w : Warp) (slot : Nat) (x : Wait) : (w.setWait slot x).trapCause = w.trapCause := by
  unfold Warp.setWait; split <;> simp
@[simp] theorem Warp.setWait_trapPc (w : Warp) (slot : Nat) (x : Wait) : (w.setWait slot x).trapPc = w.trapPc := by
  unfold Warp.setWait; split <;> simp
@[simp] theorem Warp.setWait_trapAddr (w : Warp) (slot : Nat) (x : Wait) : (w.setWait slot x).trapAddr = w.trapAddr := by
  unfold Warp.setWait; split <;> simp
@[simp] theorem Warp.setWait_trapMask (w : Warp) (slot : Nat) (x : Wait) : (w.setWait slot x).trapMask = w.trapMask := by
  unfold Warp.setWait; split <;> simp
@[simp] theorem Warp.setWait_trap (w : Warp) (slot : Nat) (x : Wait) : (w.setWait slot x).trap = w.trap := by
  unfold Warp.setWait; split <;> simp
@[simp] theorem Warp.setWait_async (w : Warp) (slot : Nat) (x : Wait) : (w.setWait slot x).async = w.async := by
  unfold Warp.setWait; split <;> simp
@[simp] theorem Warp.setWait_gate (w : Warp) (slot : Nat) (x : Wait) : (w.setWait slot x).gate = w.gate := by
  unfold Warp.setWait; split <;> simp
@[simp] theorem Warp.setWait_turn (w : Warp) (slot : Nat) (x : Wait) : (w.setWait slot x).turn = w.turn := by
  unfold Warp.setWait; split <;> simp
@[simp] theorem Warp.setWait_hwslot (w : Warp) (slot : Nat) (x : Wait) : (w.setWait slot x).hwslot = w.hwslot := by
  unfold Warp.setWait; split <;> simp
@[simp] theorem Warp.setWait_age (w : Warp) (slot : Nat) (x : Wait) : (w.setWait slot x).age = w.age := by
  unfold Warp.setWait; split <;> simp
@[simp] theorem Warp.setWait_privb (w : Warp) (slot : Nat) (x : Wait) : (w.setWait slot x).privb = w.privb := by
  unfold Warp.setWait; split <;> simp
@[simp] theorem Warp.setWait_retClock (w : Warp) (slot : Nat) (x : Wait) : (w.setWait slot x).retClock = w.retClock := by
  unfold Warp.setWait; split <;> simp
@[simp] theorem Warp.setWait_writeEpoch (w : Warp) (slot : Nat) (x : Wait) : (w.setWait slot x).writeEpoch = w.writeEpoch := by
  unfold Warp.setWait; split <;> simp

/-- The path of a slot after its wait was set. -/
theorem Warp.path_setWait_self (w : Warp) (slot : Nat) (x : Wait) :
    (w.setWait slot x).path slot = (w.path slot).map fun p => { p with wait := x } := by
  unfold Warp.setWait
  split <;> simp_all [Warp.path_setPath_self]

end Sys2Proof.Machine
end

