-- ==== Sys2Proof/Laws/Memory.lean ====
section
/-!
SUPPORT. The memories: reading after writing, and that every operation on them keeps their canonical form.
-/
namespace Sys2Proof.Machine
open Sys2Proof

/-! ### Sparse maps -/

/-- A map above one bound is one above every lower bound. -/
theorem cellWfFrom_weaken {α : Type} [DecidableEq α] {d : α} {m : List (Nat × α)} {a : Nat} {lo : Option Nat}
    (h : cellWfFrom d (some a) m = true) (hlo : ∀ l, lo = some l → l < a) : cellWfFrom d lo m = true := by
  cases m with
  | nil => rfl
  | cons c t =>
    obtain ⟨k, v⟩ := c
    simp only [cellWfFrom, Bool.and_eq_true, decide_eq_true_eq] at h ⊢
    refine ⟨⟨?_, h.1.2⟩, h.2⟩
    cases lo with
    | none => rfl
    | some l => simp only [decide_eq_true_eq]; exact Nat.lt_trans (hlo l rfl) h.1.1

/-- A key at or below the bound of a map is not listed in it. -/
theorem cellGet_below {α : Type} [DecidableEq α] {d : α} : ∀ {m : List (Nat × α)} {a k : Nat},
    cellWfFrom d (some a) m = true → k ≤ a → cellGet d m k = d
  | [], _, _, _, _ => rfl
  | (x, v) :: t, a, k, h, hk => by
    simp only [cellWfFrom, Bool.and_eq_true, decide_eq_true_eq] at h
    have hx : x ≠ k := by omega
    rw [cellGet, if_neg hx]
    exact cellGet_below h.2 (by omega)

/-- A write keeps the form, above any bound that its key is above. -/
theorem cellPut_wfFrom {α : Type} [DecidableEq α] {d : α} : ∀ {m : List (Nat × α)} {lo : Option Nat} {k : Nat} (v : α),
    cellWfFrom d lo m = true → (∀ l, lo = some l → l < k) → cellWfFrom d lo (cellPut d m k v) = true
  | [], lo, k, v, _, hk => by
    rw [cellPut]
    split
    · rfl
    · cases lo with
      | none => simp_all [cellWfFrom]
      | some l => have := hk l rfl; simp_all [cellWfFrom]
  | (a, u) :: t, lo, k, v, h, hk => by
    simp only [cellWfFrom, Bool.and_eq_true, decide_eq_true_eq] at h
    have hka : ∀ l, some k = some l → l < a ∨ ¬ k < a := by intro l e; cases e; omega
    rw [cellPut]
    split
    · rename_i hlt
      split
      · simp [cellWfFrom, h]
      · rename_i hv
        cases lo with
        | none => simp [cellWfFrom, h.1.2, h.2, hv, hlt]
        | some l => simp [cellWfFrom, h.1.2, h.2, hv, hlt, hk l rfl]
    · split
      · rename_i _ hkeq
        subst hkeq
        split
        · exact cellWfFrom_weaken h.2 hk
        · rename_i hv
          cases lo with
          | none => simp [cellWfFrom, h.2, hv]
          | some l => simp [cellWfFrom, h.2, hv, hk l rfl]
      · have ih := cellPut_wfFrom (m := t) (lo := some a) (k := k) v h.2 (by intro l e; cases e; omega)
        simp [cellWfFrom, h.1, ih]

/-- A write keeps the canonical form. -/
theorem cellPut_wf {α : Type} [DecidableEq α] {d : α} {m : List (Nat × α)} (k : Nat) (v : α) (h : cellWf d m = true) :
    cellWf d (cellPut d m k v) = true := cellPut_wfFrom v h (by simp)

/-- What was written is read. -/
theorem cellGet_put_self_from {α : Type} [DecidableEq α] {d : α} : ∀ {m : List (Nat × α)} {lo : Option Nat} (k : Nat) (v : α),
    cellWfFrom d lo m = true → cellGet d (cellPut d m k v) k = v
  | [], _, k, v, _ => by rw [cellPut]; split <;> simp_all [cellGet]
  | (a, u) :: t, lo, k, v, h => by
    simp only [cellWfFrom, Bool.and_eq_true, decide_eq_true_eq] at h
    rw [cellPut]
    split
    · rename_i hlt
      split
      · rename_i hv
        rw [cellGet, if_neg (by omega), cellGet_below h.2 (by omega), hv]
      · simp [cellGet]
    · split
      · rename_i _ hkeq
        subst hkeq
        split
        · rename_i hv; rw [cellGet_below h.2 (Nat.le_refl _), hv]
        · simp [cellGet]
      · rename_i h1 h2
        rw [cellGet, if_neg (fun e => h2 e.symm)]
        exact cellGet_put_self_from k v h.2

theorem cellGet_put_self {α : Type} [DecidableEq α] {d : α} {m : List (Nat × α)} (k : Nat) (v : α) (h : cellWf d m = true) :
    cellGet d (cellPut d m k v) k = v := cellGet_put_self_from k v h

/-- Every other key reads as before. -/
theorem cellGet_put_of_ne {α : Type} [DecidableEq α] {d : α} : ∀ (m : List (Nat × α)) {k j : Nat} (v : α), j ≠ k →
    cellGet d (cellPut d m k v) j = cellGet d m j
  | [], k, j, v, h => by rw [cellPut]; split <;> simp_all [cellGet, Ne.symm]
  | (a, u) :: t, k, j, v, h => by
    have ih := cellGet_put_of_ne (d := d) t v h
    have hk : k ≠ j := Ne.symm h
    rw [cellPut]
    split
    · split
      · rfl
      · simp [cellGet, hk]
    · split
      · rename_i _ hkeq
        subst hkeq
        split <;> simp [cellGet, hk]
      · simp [cellGet, ih]

/-- Entries that a test selects keep the form. -/
theorem cellWfFrom_filter {α : Type} [DecidableEq α] {d : α} (p : Nat × α → Bool) : ∀ {m : List (Nat × α)} {lo : Option Nat},
    cellWfFrom d lo m = true → cellWfFrom d lo (m.filter p) = true
  | [], _, _ => rfl
  | (a, u) :: t, lo, h => by
    simp only [cellWfFrom, Bool.and_eq_true, decide_eq_true_eq] at h
    have ih := cellWfFrom_filter p h.2
    by_cases hp : p (a, u) = true
    · simp [hp, cellWfFrom, h.1, ih]
    · simp only [List.filter_cons, hp]
      refine cellWfFrom_weaken ih ?_
      intro l e; subst e
      simpa using h.1.1

/-! ### Overlays -/

theorem overWfFrom_weaken {m : List Host.Cell} {a : Nat} {lo : Option Nat} (h : overWfFrom (some a) m = true)
    (hlo : ∀ l, lo = some l → l < a) : overWfFrom lo m = true := by
  cases m with
  | nil => rfl
  | cons c t =>
    obtain ⟨k, v⟩ := c
    simp only [overWfFrom, Bool.and_eq_true, decide_eq_true_eq] at h ⊢
    refine ⟨?_, h.2⟩
    cases lo with
    | none => rfl
    | some l => simp only [decide_eq_true_eq]; exact Nat.lt_trans (hlo l rfl) h.1

theorem overPut_wfFrom : ∀ {m : List Host.Cell} {lo : Option Nat} {k : Nat} (v : Byte), overWfFrom lo m = true →
    (∀ l, lo = some l → l < k) → overWfFrom lo (overPut m k v) = true
  | [], lo, k, v, _, hk => by
    cases lo with
    | none => rfl
    | some l => simp [overPut, overWfFrom, hk l rfl]
  | (a, u) :: t, lo, k, v, h, hk => by
    simp only [overWfFrom, Bool.and_eq_true] at h
    rw [overPut]
    split
    · rename_i hlt
      cases lo with
      | none => simp [overWfFrom, h.2, hlt]
      | some l => simp [overWfFrom, h.2, hlt, hk l rfl]
    · split
      · rename_i _ hkeq
        subst hkeq
        cases lo with
        | none => simp [overWfFrom, h.2]
        | some l => simp [overWfFrom, h.2, hk l rfl]
      · have ih := overPut_wfFrom (m := t) (lo := some a) (k := k) v h.2 (by intro l e; cases e; omega)
        simp [overWfFrom, h.1, ih]

/-- A write to an overlay keeps its form. -/
theorem overPut_wf {m : List Host.Cell} (k : Nat) (v : Byte) (h : overWf m = true) : overWf (overPut m k v) = true :=
  overPut_wfFrom v h (by simp)

theorem overWfFrom_filter (p : Host.Cell → Bool) : ∀ {m : List Host.Cell} {lo : Option Nat}, overWfFrom lo m = true →
    overWfFrom lo (m.filter p) = true
  | [], _, _ => rfl
  | (a, u) :: t, lo, h => by
    simp only [overWfFrom, Bool.and_eq_true] at h
    have ih := overWfFrom_filter p h.2
    by_cases hp : p (a, u) = true
    · simp [hp, overWfFrom, h.1, ih]
    · simp only [List.filter_cons, hp]
      refine overWfFrom_weaken ih ?_
      intro l e; subst e
      simpa using h.1

/-- An overlay lists what was put in it. -/
theorem overGet_put_self : ∀ (m : List Host.Cell) (k : Nat) (v : Byte), overGet (overPut m k v) k = some v
  | [], k, v => by simp [overPut, overGet]
  | (a, u) :: t, k, v => by
    rw [overPut]
    split
    · simp [overGet]
    · split
      · simp [overGet]
      · rename_i _ hne
        rw [overGet, if_neg (fun e => hne e.symm)]
        exact overGet_put_self t k v

theorem overGet_put_of_ne : ∀ (m : List Host.Cell) {k j : Nat} (v : Byte), j ≠ k → overGet (overPut m k v) j = overGet m j
  | [], k, j, v, h => by simp [overPut, overGet, Ne.symm h]
  | (a, u) :: t, k, j, v, h => by
    have hk : k ≠ j := Ne.symm h
    rw [overPut]
    split
    · simp [overGet, hk]
    · split
      · rename_i _ hkeq
        subst hkeq
        simp [overGet, hk]
      · simp [overGet, overGet_put_of_ne t v h]

/-! ### The state's memories -/

/-- The parts of the canonical form. -/
theorem State.memoryWf_iff {s : State} : s.memoryWf = true ↔
    Memory.wf s.dram = true ∧ overWf s.l2 = true ∧ (s.posted.all fun p => inWindow p.pa) = true ∧ overWf s.hostMem = true ∧
      ∀ b ∈ s.blocks, cellWf 0#8 b.spad = true ∧ cellWf 0#32 b.acc = true := by
  simp only [State.memoryWf, Bool.and_eq_true, List.all_eq_true, and_assoc]

/-- What keeps the form at each element of a list keeps it over the list. -/
theorem foldl_memoryWf {α : Type} (f : State → α → State)
    (hf : ∀ (s : State) (x : α), s.memoryWf = true → (f s x).memoryWf = true) :
    ∀ (l : List α) {s : State}, s.memoryWf = true → (l.foldl f s).memoryWf = true
  | [], _, h => h
  | x :: xs, s, h => foldl_memoryWf f hf xs (hf s x h)

/-- Two states with the same memories and blocks have the form alike. -/
theorem State.memoryWf_congr {s t : State} (h1 : t.dram = s.dram) (h2 : t.l2 = s.l2) (h3 : t.posted = s.posted)
    (h4 : t.hostMem = s.hostMem) (h5 : t.blocks = s.blocks) : t.memoryWf = s.memoryWf := by
  simp [State.memoryWf, h1, h2, h3, h4, h5]

/-- A byte written keeps the form. -/
theorem State.writeByte_memoryWf {s : State} (pa : Nat) (b : Byte) (g : Agent) (rs : List (Nat × Word) := [])
    (po : Nat := 0) (h : s.memoryWf = true) : (s.writeByte pa b g rs po).memoryWf = true := by
  rw [State.memoryWf_iff] at h ⊢
  unfold State.writeByte
  split
  · rename_i hw
    exact ⟨h.1, h.2.1, by simpa [hw] using h.2.2.1, h.2.2.2⟩
  · split
    · exact ⟨cellPut_wf _ _ h.1, h.2⟩
    · exact ⟨h.1, overPut_wf _ _ h.2.1, h.2.2⟩

theorem State.putBytes_memoryWf (g : Agent) (rs : List (Nat × Word) := []) (po : Nat := 0) : ∀ (l : List (Nat × Byte)) {s : State},
    s.memoryWf = true → (s.putBytes g l rs po).memoryWf = true
  | [], _, h => h
  | (pa, b) :: rest, _, h => State.putBytes_memoryWf g rs po rest (State.writeByte_memoryWf pa b g rs po h)

/-- An event that joins the log changes no memory. -/
theorem State.note_memoryWf {s : State} (e : MemEvent) (h : s.memoryWf = true) : (s.note e).memoryWf = true := h

theorem State.wakeWaits_memoryWf {s : State} (pas : List Nat) (t : MemTag) (h : s.memoryWf = true) :
    (s.wakeWaits pas t).memoryWf = true := h

/-- A write keeps the form. -/
theorem State.storeBytes_memoryWf {s : State} (l : List (Nat × Byte)) (t : MemTag) (rs : List (Nat × Word) := [])
    (h : s.memoryWf = true) : (s.storeBytes l t rs).memoryWf = true :=
  State.wakeWaits_memoryWf _ _ (State.putBytes_memoryWf _ rs _ l (State.note_memoryWf _ h))

theorem State.writePhys_memoryWf {s : State} (pa : Nat) (bs : List Byte) (t : MemTag) (h : s.memoryWf = true) :
    (s.writePhys pa bs t).memoryWf = true := State.storeBytes_memoryWf _ t _ h

theorem State.writeVirt_memoryWf {s : State} (ctx va : Nat) (bs : List Byte) (t : MemTag) (h : s.memoryWf = true) :
    (s.writeVirt ctx va bs t).memoryWf = true := State.storeBytes_memoryWf _ t _ h

theorem Memory.fold_write_wf : ∀ (l : List Host.Cell) {m : List Host.Cell}, Memory.wf m = true →
    Memory.wf (l.foldl (fun m c => Memory.write m c.1 c.2) m) = true
  | [], _, h => h
  | _ :: rest, _, h => Memory.fold_write_wf rest (cellPut_wf _ _ h)

/-- What the device has filled goes back to memory in the form. -/
theorem State.flushFills_memoryWf {s : State} (lo hi : Nat) (h : s.memoryWf = true) : (s.flushFills lo hi).memoryWf = true := by
  unfold State.flushFills
  split
  · rw [State.memoryWf_iff] at h ⊢
    exact ⟨Memory.fold_write_wf _ h.1, overWfFrom_filter _ h.2.1, h.2.2⟩
  · exact h

/-- A write back keeps the form. -/
theorem State.writeBack_memoryWf {s : State} (lo hi : Nat) (drop : Bool) (h : s.memoryWf = true) :
    (s.writeBack lo hi drop).memoryWf = true := by
  replace h := State.flushFills_memoryWf lo hi h
  rw [State.memoryWf_iff] at h ⊢
  unfold State.writeBack
  cases drop with
  | false => exact ⟨Memory.fold_write_wf _ h.1, h.2⟩
  | true => exact ⟨Memory.fold_write_wf _ h.1, overWfFrom_filter _ h.2.1, h.2.2⟩

/-- So does a slice that gives up what it has no room for. -/
theorem State.fitSlice_memoryWf {s : State} (slice : Nat) (h : s.memoryWf = true) : (s.fitSlice slice).memoryWf = true := by
  exact foldl_memoryWf _ (fun _ _ h => State.writeBack_memoryWf _ _ _ h) _ h

theorem State.fitL2_memoryWf {s : State} (h : s.memoryWf = true) : s.fitL2.memoryWf = true := by
  unfold State.fitL2
  split
  · exact h
  · exact foldl_memoryWf _ (fun _ c h => State.fitSlice_memoryWf c h) _ h

/-- A range that the device fills keeps the form: over a window it is posted. -/
theorem State.fillRange_memoryWf {s : State} (pa n : Nat) (h : s.memoryWf = true) : (s.fillRange pa n).memoryWf = true := by
  rw [State.memoryWf_iff] at h ⊢
  unfold State.fillRange
  split
  · refine ⟨h.1, h.2.1, ?_, h.2.2.2⟩
    simp only [List.all_append, h.2.2.1, Bool.true_and, List.all_eq_true, List.mem_filterMap]
    rintro p ⟨i, _, hp⟩
    split at hp
    · rename_i hw
      cases hp
      exact hw
    · cases hp
  · exact ⟨h.1, overWfFrom_filter _ h.2.1, h.2.2⟩

/-- A page moved to another frame keeps the form. -/
theorem State.copyFrame_memoryWf {s : State} (old new size : Nat) (h : s.memoryWf = true) :
    (s.copyFrame old new size).memoryWf = true := by
  exact foldl_memoryWf _ (fun _ _ h => State.writeByte_memoryWf _ _ _ _ _ h) _ h

/-- A harvest writes page-table entries and keeps the form. -/
theorem State.harvestEntry_memoryWf {s : State} (e : TlbEntry) (h : s.memoryWf = true) :
    (s.harvestEntry e).memoryWf = true := by
  unfold State.harvestEntry
  refine State.storeBytes_memoryWf _ _ _ ?_
  split <;> exact h

theorem State.harvestAll_memoryWf : ∀ (l : List TlbEntry) {s : State}, s.memoryWf = true → (s.harvestAll l).memoryWf = true
  | [], _, h => h
  | e :: es, _, h => State.harvestAll_memoryWf es (State.harvestEntry_memoryWf e h)

theorem State.harvest_memoryWf {s : State} (p : TlbEntry → Bool) (drop : Bool) (h : s.memoryWf = true) :
    (s.harvest p drop).memoryWf = true := by
  have h1 := State.harvestAll_memoryWf (s.tlb.filter p) h
  unfold State.harvest
  cases drop <;> simpa [State.memoryWf] using h1

/-- A block replaced by one whose own memories have the form. -/
theorem State.setBlock_memoryWf {s : State} {b : Block} (h : s.memoryWf = true) (h1 : cellWf 0#8 b.spad = true)
    (h2 : cellWf 0#32 b.acc = true) : (s.setBlock b).memoryWf = true := by
  rw [State.memoryWf_iff] at h ⊢
  refine ⟨h.1, h.2.1, h.2.2.1, h.2.2.2.1, ?_⟩
  intro x hx
  simp only [State.setBlock_blocks, List.mem_map] at hx
  obtain ⟨y, hy, rfl⟩ := hx
  split
  · exact ⟨h1, h2⟩
  · exact h.2.2.2.2 y hy

/-- A block of the state has the form. -/
theorem State.block?_wf {s : State} {b : Nat} {blk : Block} (h : s.memoryWf = true) (hb : s.block? b = some blk) :
    cellWf 0#8 blk.spad = true ∧ cellWf 0#32 blk.acc = true :=
  (State.memoryWf_iff.1 h).2.2.2.2 blk (List.mem_of_find?_eq_some hb)

/-- An update of a warp keeps the form. -/
theorem State.updWarp_memoryWf {s : State} (b wi : Nat) (f : Warp → Warp) (h : s.memoryWf = true) :
    (s.updWarp b wi f).memoryWf = true := by
  unfold State.updWarp
  split
  · rename_i blk w hw
    have hb : s.block? b = some blk := by
      simp only [State.warp?, Option.bind_eq_some_iff, Option.map_eq_some_iff, Prod.mk.injEq] at hw
      obtain ⟨x, hx, _, _, rfl, _⟩ := hw
      exact hx
    exact State.setBlock_memoryWf h (State.block?_wf h hb).1 (State.block?_wf h hb).2
  · exact h

/-- A write to scratchpad keeps the form. -/
theorem Block.spadWrite_wf : ∀ (vs : List Byte) {b : Block} (x : Nat), cellWf 0#8 b.spad = true → cellWf 0#32 b.acc = true →
    cellWf 0#8 (b.spadWrite x vs).spad = true ∧ cellWf 0#32 (b.spadWrite x vs).acc = true
  | [], _, _, h1, h2 => ⟨h1, h2⟩
  | _ :: vs, _, x, h1, h2 => Block.spadWrite_wf vs (x + 1) (cellPut_wf _ _ h1) h2

/-- Noting which queue headers a write has spoiled changes no memory. -/
@[simp] theorem Block.spoilQueues_spad (b : Block) (x n : Nat) : (b.spoilQueues x n).spad = b.spad := by
  unfold Block.spoilQueues; split <;> rfl
@[simp] theorem Block.spoilQueues_acc (b : Block) (x n : Nat) : (b.spoilQueues x n).acc = b.acc := by
  unfold Block.spoilQueues; split <;> rfl

theorem State.spadWrite_memoryWf {s : State} (bid x : Nat) (vs : List Byte) (h : s.memoryWf = true) :
    (s.spadWrite bid x vs).memoryWf = true := by
  unfold State.spadWrite
  split
  · rename_i b hb
    obtain ⟨h1, h2⟩ := State.block?_wf h hb
    obtain ⟨h3, h4⟩ := Block.spadWrite_wf vs x h1 h2
    exact State.setBlock_memoryWf h (by rwa [Block.spoilQueues_spad]) (by rwa [Block.spoilQueues_acc])
  · exact h

theorem acc_fold_wf : ∀ (ws : List (Nat × Word)) {m : List (Nat × Word)}, cellWf 0#32 m = true →
    cellWf 0#32 (ws.foldl (fun m x => cellPut 0#32 m x.1 x.2) m) = true
  | [], _, h => h
  | _ :: rest, _, h => acc_fold_wf rest (cellPut_wf _ _ h)

/-- A write to accumulator lines keeps the form. -/
theorem State.writeAcc_memoryWf {s : State} (bid : Nat) (ws : List (Nat × Word)) (h : s.memoryWf = true) :
    (s.writeAcc bid ws).memoryWf = true := by
  unfold State.writeAcc
  split
  · rename_i b hb
    obtain ⟨h1, h2⟩ := State.block?_wf h hb
    exact State.setBlock_memoryWf h h1 (acc_fold_wf ws h2)
  · exact h

/-- Reset's memories have the form. -/
theorem reset_memoryWf : State.reset.memoryWf = true := rfl

/-! ### Reading one byte after a write -/

/-- The filled range that holds an address. -/
theorem find?_cons_fill (r : Nat × Nat × Nat) (rs : List (Nat × Nat × Nat)) (x : Nat) :
    (r :: rs).find? (fun r => decide (r.1 ≤ x) && decide (x < r.1 + r.2.1)) =
      if r.1 ≤ x ∧ x < r.1 + r.2.1 then some r else rs.find? (fun r => decide (r.1 ≤ x) && decide (x < r.1 + r.2.1)) := by
  by_cases h : r.1 ≤ x ∧ x < r.1 + r.2.1
  · simp [h]
  · rw [if_neg h, List.find?_cons_of_neg]
    simpa using h

/-- A range that holds an address is not empty. -/
theorem find?_nonempty_fill (l : List (Nat × Nat × Nat)) (x : Nat) :
    (l.filter fun r => r.2.1 != 0).find? (fun r => decide (r.1 ≤ x) && decide (x < r.1 + r.2.1)) =
      l.find? (fun r => decide (r.1 ≤ x) && decide (x < r.1 + r.2.1)) := by
  rw [List.find?_filter]
  congr 1
  funext r
  by_cases h : r.2.1 = 0
  · simp [h]
  · simp [h]

/-- A byte cut from the filled ranges leaves the others' free bytes as they were, and is itself in none. -/
theorem cutByte_find (pa x : Nat) : ∀ rs : List (Nat × Nat × Nat),
    ((cutByte pa rs).find? (fun r => decide (r.1 ≤ x) && decide (x < r.1 + r.2.1))).map (fun r => r.2.2 + (x - r.1)) =
      if x = pa then none
      else (rs.find? (fun r => decide (r.1 ≤ x) && decide (x < r.1 + r.2.1))).map (fun r => r.2.2 + (x - r.1))
  | [] => by simp [cutByte]
  | (b, n, k) :: rs => by
    have ih := cutByte_find pa x rs
    rw [find?_cons_fill]
    simp only [cutByte, List.flatMap_cons] at ih ⊢
    by_cases hp : b ≤ pa ∧ pa < b + n
    · rw [if_pos hp, List.find?_append, find?_nonempty_fill, find?_cons_fill, find?_cons_fill, List.find?_nil]
      dsimp only
      by_cases hx : x = pa
      · rw [if_neg (by omega), if_neg (by omega), Option.none_or, ih, if_pos hx, if_pos hx]
      · by_cases hb : b ≤ x ∧ x < b + n
        · by_cases hl : x < pa
          · rw [if_pos (by omega), if_neg hx, if_pos hb]; rfl
          · rw [if_neg (by omega), if_pos (by omega), if_neg hx, if_pos hb]
            simp only [Option.some_or, Option.map_some, Option.some.injEq]
            omega
        · rw [if_neg (by omega), if_neg (by omega), Option.none_or, ih, if_neg hb]
    · rw [if_neg hp, List.singleton_append, find?_cons_fill]
      dsimp only
      by_cases hx : b ≤ x ∧ x < b + n
      · have : x ≠ pa := by omega
        simp [hx, this]
      · rw [if_neg hx, if_neg hx, ih]

/-- A byte read, over the number of its free byte where it has one. -/
theorem State.readByte_eq (s : State) (x : Nat) : s.readByte x =
    match (s.filled.find? (fun r => decide (r.1 ≤ x) && decide (x < r.1 + r.2.1))).map (fun r => r.2.2 + (x - r.1)) with
    | some k => Config.freeByte k
    | none => match overGet s.l2 x with | some b => b | none => Memory.read s.dram x := by
  unfold State.readByte State.fillOf
  cases s.filled.find? _ <;> rfl

/-- A byte that is not written reads as before. -/
theorem State.readByte_writeByte_of_ne (s : State) {pa x : Nat} (b : Byte) (g : Agent) (rs : List (Nat × Word) := [])
    (po : Nat := 0) (h : x ≠ pa) : (s.writeByte pa b g rs po).readByte x = s.readByte x := by
  rw [State.readByte_eq, State.readByte_eq]
  by_cases h1 : inWindow pa = true
  · simp only [State.writeByte, h1, if_true]
  · by_cases h2 : s.uncached pa = true
    · simp only [State.writeByte, h1, h2, if_true, Bool.false_eq_true, if_false, cutByte_find, h, Memory.read, Memory.write,
        cellGet_put_of_ne _ _ h]
    · simp only [State.writeByte, h1, h2, Bool.false_eq_true, if_false, cutByte_find, h, overGet_put_of_ne _ _ h]

/-- A byte written outside windows and bank regions is read. -/
theorem State.readByte_writeByte_self (s : State) {pa : Nat} (b : Byte) (g : Agent) (h1 : inWindow pa = false)
    (h2 : s.uncached pa = false) : (s.writeByte pa b g).readByte pa = b := by
  rw [State.readByte_eq]
  simp [State.writeByte, h1, h2, cutByte_find, overGet_put_self]

theorem State.readByte_putBytes_of_not_mem (g : Agent) (rs : List (Nat × Word) := []) (po : Nat := 0) :
    ∀ (l : List (Nat × Byte)) (s : State) {x : Nat}, (∀ c ∈ l, c.1 ≠ x) → (s.putBytes g l rs po).readByte x = s.readByte x
  | [], _, _, _ => rfl
  | (pa, b) :: rest, s, x, h => by
    rw [State.putBytes, State.readByte_putBytes_of_not_mem g rs po rest _ fun c hc => h c (List.mem_cons_of_mem _ hc)]
    exact State.readByte_writeByte_of_ne s b g rs po (Ne.symm (h (pa, b) (List.mem_cons_self ..)))

/-- A write changes no byte outside those it lists. -/
theorem State.readByte_storeBytes_of_not_mem (l : List (Nat × Byte)) (s : State) (t : MemTag) {x : Nat} (h : ∀ c ∈ l, c.1 ≠ x) :
    (s.storeBytes l t).readByte x = s.readByte x := State.readByte_putBytes_of_not_mem _ _ _ l _ h

/-- An update of a warp changes no byte. -/
@[simp] theorem State.readByte_updWarp (s : State) (b wi : Nat) (f : Warp → Warp) (x : Nat) :
    (s.updWarp b wi f).readByte x = s.readByte x := by simp [State.readByte_eq]

/-- Nor does a block that is replaced. -/
@[simp] theorem State.readByte_setBlock (s : State) (b : Block) (x : Nat) : (s.setBlock b).readByte x = s.readByte x := rfl

end Sys2Proof.Machine
end

