-- ==== Sys2Proof/Tests/Slice0.lean ====
section
/-!
SUPPORT. Tests: words of every encoding decode to their instructions, ill-formed instructions are refused, single steps on
small states give what the manual's tables and worked examples say, and for each statement a state and operands that meet
its hypotheses.
-/
namespace Sys2Proof.Tests
open Sys2Proof Sys2Proof.Machine

/- One theorem after the other: a check that waits for another keeps its stack. -/
set_option Elab.async false

/-! ### Decoding: words written out from the encodings of R13, R15, R16, R24, R30, R37, R288 and the class chapters -/

/-- The operands of the words below: D 0x05, A 0x06, B 0x07, C 0x08, guard P7 and no other bit. -/
def wordOps : Opnds := { (default : Opnds) with d := 5#8, a := 6#8, b := 7#8, c := 8#8, g := 7#3 }

/-- Every word of the list decodes to its instruction, and is what the encoder gives for it. -/
def decodesAll (ws : List (DWord × Instr)) : Prop :=
  ws.map (fun x => decode x.1) = ws.map (fun x => .ok x.2) ∧ ws.map (fun x => encode x.2) = ws.map (fun x => some x.1)

theorem test_words_control : decodesAll
    [(0x0005060708070000#64, .nop wordOps), (0x0205060708070000#64, .brx wordOps),
     (0x0405060708070000#64, .ret wordOps), (0x0505060708070000#64, .exit wordOps),
     (0x0605060708070000#64, .join wordOps), (0x0705060708070000#64, .yield wordOps),
     (0x0805060708070000#64, .sleep wordOps), (0x0805060708170000#64, .sleepProm wordOps),
     (0x0805060708270000#64, .sleepFor wordOps), (0x0905060708070000#64, .trap wordOps),
     (0x0A05060708070000#64, .bkpt wordOps)] := by
  exact ⟨rfl, rfl⟩

theorem test_words_launch : decodesAll
    [(0x1005060708070000#64, .spawn wordOps), (0x1105060708070000#64, .jdec wordOps),
     (0x1205060708070000#64, .swpt wordOps), (0x1305060708070000#64, .phase wordOps),
     (0x1405060708070000#64, .rbacq wordOps), (0x1505060708070000#64, .rbrel wordOps)] := by
  exact ⟨rfl, rfl⟩

theorem test_words_integer : decodesAll
    [(0x1805060708070000#64, .iaddReg wordOps), (0x1805060708170000#64, .iaddImm wordOps),
     (0x1905060708070000#64, .isubReg wordOps), (0x1905060708170000#64, .isubImm wordOps),
     (0x1A05060708070000#64, .imulReg wordOps), (0x1A05060708170000#64, .imulImm wordOps),
     (0x1B05060708070000#64, .imulhReg wordOps), (0x1B05060708170000#64, .imulhImm wordOps),
     (0x1C05060708070000#64, .imad wordOps), (0x1D05060708070000#64, .imadw wordOps),
     (0x1E05060708070000#64, .iminReg wordOps), (0x1E05060708170000#64, .iminImm wordOps),
     (0x1F05060708070000#64, .imaxReg wordOps), (0x1F05060708170000#64, .imaxImm wordOps),
     (0x2005060708070000#64, .iabs wordOps), (0x2105060708070000#64, .itestReg wordOps),
     (0x2105060708170000#64, .itestImm wordOps), (0x2205060708070000#64, .selReg wordOps),
     (0x2205060708170000#64, .selImm wordOps)] := by
  exact ⟨rfl, rfl⟩

theorem test_words_bits : decodesAll
    [(0x2305060708570000#64, .blutReg 5#3 wordOps), (0x2305060708D70000#64, .blutImm 5#3 wordOps),
     (0x2405060708070000#64, .shlReg wordOps), (0x2405060708170000#64, .shlImm wordOps),
     (0x2505060708070000#64, .shrReg wordOps), (0x2505060708170000#64, .shrImm wordOps),
     (0x2605060708070000#64, .shf wordOps), (0x2705060708070000#64, .popc wordOps),
     (0x2805060708070000#64, .clz wordOps), (0x2905060708070000#64, .brev wordOps),
     (0x2A05060708070000#64, .bfeReg wordOps), (0x2A05060708170000#64, .bfeImm wordOps),
     (0x2B05060708070000#64, .bfi wordOps), (0x2C05060708070000#64, .leaReg wordOps),
     (0x2C05060708170000#64, .leaImm wordOps), (0x2D05060708070000#64, .mov wordOps),
     (0x2D05060708170000#64, .movP2v wordOps), (0x2D05060708270000#64, .movV2p wordOps),
     (0x2D05060708370000#64, .movLaneReg wordOps), (0x2D05060708470000#64, .movLaneImm wordOps),
     (0x2D05060708570000#64, .movUnif wordOps), (0x2F05060708370000#64, .plop 3#3 wordOps)] := by
  exact ⟨rfl, rfl⟩

theorem test_words_float : decodesAll
    [(0x3005060708070000#64, .faddReg wordOps), (0x3005060708170000#64, .faddImm wordOps),
     (0x3105060708070000#64, .fmulReg wordOps), (0x3105060708170000#64, .fmulImm wordOps),
     (0x3205060708070000#64, .ffma wordOps), (0x3305060708070000#64, .fminReg wordOps),
     (0x3305060708170000#64, .fminImm wordOps), (0x3405060708070000#64, .fmaxReg wordOps),
     (0x3405060708170000#64, .fmaxImm wordOps), (0x3505060708470000#64, .fsetpReg 2#3 wordOps),
     (0x3505060708570000#64, .fsetpImm 2#3 wordOps), (0x3605060708070000#64, .fsfun .rcp wordOps),
     (0x3605060708170000#64, .fsfun .rsq wordOps), (0x3605060708270000#64, .fsfun .sqrt wordOps),
     (0x3605060708370000#64, .fsfun .exp2 wordOps), (0x3605060708470000#64, .fsfun .log2 wordOps),
     (0x3605060708570000#64, .fsfun .tanh wordOps), (0x3605060708670000#64, .fsfun .sin wordOps),
     (0x3605060708770000#64, .fsfun .cos wordOps), (0x3705060708070000#64, .hadd2Reg wordOps),
     (0x3705060708170000#64, .hadd2Imm wordOps), (0x3805060708070000#64, .hmul2Reg wordOps),
     (0x3805060708170000#64, .hmul2Imm wordOps), (0x3905060708070000#64, .hfma2 wordOps),
     (0x3A05060708070000#64, .fdot2 wordOps), (0x3B05060708070000#64, .fclass wordOps),
     (0x3C05060708070000#64, .cvt wordOps), (0x3D05060708670000#64, .pack 6#3 wordOps),
     (0x3E05060708770000#64, .unpack 7#3 wordOps), (0x3F05060708070000#64, .rxcvtEnc wordOps),
     (0x3F05060708170000#64, .rxcvtDec wordOps)] := by
  exact ⟨rfl, rfl⟩

theorem test_words_exchange : decodesAll
    [(0x4005060708070000#64, .lxchgReg .idx wordOps), (0x4005060708170000#64, .lxchgReg .up wordOps),
     (0x4005060708270000#64, .lxchgReg .down wordOps), (0x4005060708370000#64, .lxchgReg .xor wordOps),
     (0x4005060708470000#64, .lxchgImm .idx wordOps), (0x4005060708570000#64, .lxchgImm .up wordOps),
     (0x4005060708670000#64, .lxchgImm .down wordOps), (0x4005060708770000#64, .lxchgImm .xor wordOps),
     (0x4105060708070000#64, .vote .all wordOps), (0x4105060708170000#64, .vote .any wordOps),
     (0x4105060708270000#64, .vote .uni wordOps), (0x4205060708070000#64, .ballot wordOps),
     (0x4305060708070000#64, .matchAny wordOps), (0x4305060708170000#64, .matchAll wordOps),
     (0x4405060708070000#64, .redux .add wordOps), (0x4405060708170000#64, .redux .min wordOps),
     (0x4405060708270000#64, .redux .max wordOps), (0x4405060708370000#64, .redux .and wordOps),
     (0x4405060708470000#64, .redux .or wordOps), (0x4405060708570000#64, .redux .xor wordOps),
     (0x4405060708670000#64, .redux .fadd wordOps), (0x4405060708770000#64, .redux .fmin wordOps),
     (0x4405060708870000#64, .redux .fmax wordOps), (0x4505060708070000#64, .xpair wordOps),
     (0x4605060708070000#64, .xshfl wordOps)] := by
  exact ⟨rfl, rfl⟩

theorem test_words_memory : decodesAll
    [(0x4805060708070000#64, .ldReg wordOps), (0x4805060708170000#64, .ldImm wordOps),
     (0x4805060708270000#64, .ldPrivReg wordOps), (0x4805060708370000#64, .ldPrivImm wordOps),
     (0x4905060708070000#64, .stReg wordOps), (0x4905060708170000#64, .stImm wordOps),
     (0x4905060708270000#64, .stPrivReg wordOps), (0x4905060708370000#64, .stPrivImm wordOps),
     (0x4A05060708070000#64, .ldsReg wordOps), (0x4A05060708170000#64, .ldsImm wordOps),
     (0x4B05060708070000#64, .stsReg wordOps), (0x4B05060708170000#64, .stsImm wordOps),
     (0x4C05060708070000#64, .ldcReg wordOps), (0x4C05060708170000#64, .ldcImm wordOps),
     (0x4D05060708070000#64, .lda wordOps), (0x4E05060708070000#64, .prefReg wordOps),
     (0x4E05060708170000#64, .prefImm wordOps), (0x4F05060708070000#64, .copy wordOps),
     (0x5005060708070000#64, .gath wordOps), (0x5105060708070000#64, .arrinit wordOps),
     (0x5205060708070000#64, .arrive wordOps), (0x5305060708070000#64, .arrwait wordOps),
     (0x5305060708170000#64, .arrwaitTest wordOps), (0x5405060708070000#64, .publish wordOps),
     (0x5505060708070000#64, .cctlWb wordOps), (0x5505060708170000#64, .cctlWbinv wordOps),
     (0x5505060708270000#64, .cctlConst wordOps), (0x7E05060708070000#64, .tlbhHarv wordOps),
     (0x7E05060708170000#64, .tlbhInv wordOps)] := by
  exact ⟨rfl, rfl⟩

theorem test_words_ordering : decodesAll
    [(0x5805060708070000#64, .atom .add wordOps), (0x5805060708170000#64, .atom .min wordOps),
     (0x5805060708270000#64, .atom .max wordOps), (0x5805060708370000#64, .atom .and wordOps),
     (0x5805060708470000#64, .atom .or wordOps), (0x5805060708570000#64, .atom .xor wordOps),
     (0x5805060708670000#64, .atom .exch wordOps), (0x5805060708770000#64, .atom .inc wordOps),
     (0x5805060708870000#64, .atom .dec wordOps), (0x5805060708970000#64, .atom .fadd wordOps),
     (0x5805060708A70000#64, .atom .fmin wordOps), (0x5805060708B70000#64, .atom .fmax wordOps),
     (0x5905060708070000#64, .acas wordOps), (0x5A05060708070000#64, .atoms .add wordOps),
     (0x5A05060708170000#64, .atoms .min wordOps), (0x5A05060708270000#64, .atoms .max wordOps),
     (0x5A05060708370000#64, .atoms .and wordOps), (0x5A05060708470000#64, .atoms .or wordOps),
     (0x5A05060708570000#64, .atoms .xor wordOps), (0x5A05060708670000#64, .atoms .exch wordOps),
     (0x5A05060708770000#64, .atoms .inc wordOps), (0x5A05060708870000#64, .atoms .dec wordOps),
     (0x5A05060708970000#64, .atoms .fadd wordOps), (0x5A05060708A70000#64, .atoms .fmin wordOps),
     (0x5A05060708B70000#64, .atoms .fmax wordOps), (0x5A05060708C70000#64, .atoms .cas wordOps),
     (0x5B05060708070000#64, .fence .acq wordOps), (0x5B05060708170000#64, .fence .rel wordOps),
     (0x5B05060708270000#64, .fence .ar wordOps), (0x5C05060708070000#64, .waita .eq wordOps),
     (0x5C05060708170000#64, .waita .ne wordOps), (0x5C05060708270000#64, .waita .ltu wordOps),
     (0x5C05060708370000#64, .waita .geu wordOps)] := by
  exact ⟨rfl, rfl⟩

theorem test_words_queues : decodesAll
    [(0x6005060708070000#64, .qinit wordOps), (0x6005060708170000#64, .qinitGrant wordOps),
     (0x6105060708070000#64, .qpush wordOps), (0x6205060708070000#64, .qpop wordOps),
     (0x6305060708070000#64, .qtryPop wordOps), (0x6305060708170000#64, .qtryPush wordOps),
     (0x6405060708070000#64, .circCast wordOps), (0x6505060708070000#64, .circBind wordOps),
     (0x6605060708070000#64, .circCap wordOps), (0x6705060708070000#64, .circWr wordOps),
     (0x6805060708070000#64, .circRel wordOps), (0x6905060708070000#64, .circPeek wordOps),
     (0x6A05060708070000#64, .circTurn wordOps)] := by
  exact ⟨rfl, rfl⟩

theorem test_words_matrix : decodesAll
    [(0x6C05060708070000#64, .setshapeReg wordOps), (0x6C05060708170000#64, .setshapeImm wordOps),
     (0x6C05060708270000#64, .setshapeTail wordOps), (0x6D05060708070000#64, .getshape .grant wordOps),
     (0x6D05060708170000#64, .getshape .tail wordOps), (0x6D05060708270000#64, .getshape .req wordOps),
     (0x6E05060708070000#64, .mma wordOps), (0x6F05060708070000#64, .mmas wordOps),
     (0x7005060708070000#64, .accz wordOps), (0x7105060708070000#64, .accld wordOps),
     (0x7105060708170000#64, .accldDec wordOps), (0x7105060708270000#64, .accldTscale wordOps),
     (0x7205060708070000#64, .accst wordOps), (0x7205060708170000#64, .accstSp wordOps),
     (0x7305060708070000#64, .fragld .a wordOps), (0x7305060708170000#64, .fragld .b wordOps),
     (0x7305060708270000#64, .fragld .scA wordOps), (0x7305060708370000#64, .fragld .scB wordOps)] := by
  exact ⟨rfl, rfl⟩

theorem test_words_proxy : decodesAll
    [(0x7405060708A70000#64, .pldReg 5#3 wordOps), (0x7405060708B70000#64, .pldImm 5#3 wordOps),
     (0x7505060708070000#64, .pmat wordOps), (0x7505060708170000#64, .pmatS wordOps),
     (0x7605060708070000#64, .pfree wordOps), (0x7605060708170000#64, .pfreeP wordOps),
     (0x7705060708070000#64, .pdot wordOps), (0x7805060708070000#64, .pred .add wordOps),
     (0x7805060708170000#64, .pred .min wordOps), (0x7805060708270000#64, .pred .max wordOps),
     (0x7805060708370000#64, .pred .fadd wordOps), (0x7805060708470000#64, .pred .fmin wordOps),
     (0x7805060708570000#64, .pred .fmax wordOps), (0x7905060708070000#64, .pqry wordOps),
     (0x7905060708170000#64, .pqryP wordOps)] := by
  exact ⟨rfl, rfl⟩

theorem test_words_system : decodesAll
    [(0x7D05060708070000#64, .nlaunch wordOps), (0x7D05060708170000#64, .nresume wordOps),
     (0x7D05060708270000#64, .nstat wordOps), (0x7C05060708070000#64, .tret wordOps),
     (0x7C05060708170000#64, .tretSkip wordOps), (0x7A05060708070000#64, .csrr wordOps),
     (0x7B05060708070000#64, .csrw wordOps)] := by
  exact ⟨rfl, rfl⟩

/-- The halves of the pair words: X has D 5, A 6 and guard P7; Y has D 8, A 9 and guard P1. -/
def pairX : HalfOpnds := { d := 5#8, a := 6#8, sa := false, g := 7#3, gn := false, mod := 0#4 }
def pairY : HalfOpnds := { d := 8#8, a := 9#8, sa := false, g := 1#3, gn := false, mod := 0#4 }

theorem test_words_pairs : decodesAll
    [(0x8105067004101220#64, .pairMov pairX ⟨.iadd, pairY⟩),
     (0x8205067006101220#64, .pairIadd pairX ⟨.isub, pairY⟩),
     (0x8305067008101220#64, .pairIsub pairX ⟨.imul, pairY⟩),
     (0x840506700A101220#64, .pairImul pairX ⟨.imin, pairY⟩),
     (0x850506700C101220#64, .pairImin pairX ⟨.imax, pairY⟩),
     (0x860506700E101220#64, .pairImax pairX ⟨.and, pairY⟩),
     (0x8705067010101220#64, .pairAnd pairX ⟨.or, pairY⟩),
     (0x8805067012101220#64, .pairOr pairX ⟨.xor, pairY⟩),
     (0x8905067014101220#64, .pairXor pairX ⟨.shl, pairY⟩),
     (0x8A05067016101220#64, .pairShl pairX ⟨.shr, pairY⟩),
     (0x8B05067018101220#64, .pairShr pairX ⟨.fadd, pairY⟩),
     (0x8C0506701A101220#64, .pairFadd pairX ⟨.fmul, pairY⟩),
     (0x8D0506701C101220#64, .pairFmul pairX ⟨.fmin, pairY⟩),
     (0x8E0506701E101220#64, .pairFmin pairX ⟨.fmax, pairY⟩),
     (0x8F05067020101220#64, .pairFmax pairX ⟨.hadd2, pairY⟩),
     (0x9005067022101220#64, .pairHadd2 pairX ⟨.hmul2, pairY⟩),
     (0x9105067042101220#64, .pairHmul2 pairX ⟨.movi8, pairY⟩),
     (0xA105067044101220#64, .pairMovi8 pairX ⟨.iaddImm, pairY⟩),
     (0xA205067046101220#64, .pairIaddImm pairX ⟨.isubImm, pairY⟩),
     (0xA305067048101220#64, .pairIsubImm pairX ⟨.imulImm, pairY⟩),
     (0xA40506704A101220#64, .pairImulImm pairX ⟨.iminImm, pairY⟩),
     (0xA50506704C101220#64, .pairIminImm pairX ⟨.imaxImm, pairY⟩),
     (0xA60506704E101220#64, .pairImaxImm pairX ⟨.andImm, pairY⟩),
     (0xA705067050101220#64, .pairAndImm pairX ⟨.orImm, pairY⟩),
     (0xA805067052101220#64, .pairOrImm pairX ⟨.xorImm, pairY⟩),
     (0xA905067054101220#64, .pairXorImm pairX ⟨.shlImm, pairY⟩),
     (0xAA05067056101220#64, .pairShlImm pairX ⟨.shrImm, pairY⟩),
     (0xAB05067002101220#64, .pairShrImm pairX ⟨.mov, pairY⟩)] := by
  exact ⟨rfl, rfl⟩

/-- The same for bank words. -/
def decodesBank (ws : List (Word × Instr)) : Prop :=
  ws.map (fun x => decodeBank x.1) = ws.map (fun x => .ok x.2) ∧ ws.map (fun x => encodeBank x.2) = ws.map (fun x => some x.1)

theorem test_words_bank : decodesBank
    [(0x00801234#32, .nli 1#4 0x1234#16), (0x00811234#32, .nliH 1#4 0x1234#16), (0x08918000#32, .nadd 1#4 2#4 3#4),
     (0x1090FFFF#32, .naddi 1#4 2#4 0xFFFF#16), (0x1890001F#32, .nshl 1#4 2#4 31#5),
     (0x2093FFFE#32, .nbr .geu 1#4 2#4 0xFFFE#16), (0x28100000#32, .crd 2#4), (0x28110000#32, .crdRef 2#4),
     (0x30100000#32, .wr 2#4), (0x38800000#32, .bpop 1#4), (0x40000000#32, .nend), (0x80800007#32, .xget 1#4 7#3),
     (0x88000000#32, .xnext), (0x90800200#32, .xcadd .f32x2 1#4), (0x98800005#32, .xli 1#4 5#16),
     (0x98810005#32, .xliF2 1#4 5#16), (0xA0918000#32, .xadd .i64 1#4 2#4 3#4),
     (0xA8918100#32, .xsub .i32x2 1#4 2#4 3#4), (0xB0918200#32, .xmul .f32x2 1#4 2#4 3#4),
     (0xB891A100#32, .xfma .i32x2 1#4 2#4 3#4 4#4), (0xC0918300#32, .xmin .u64 1#4 2#4 3#4),
     (0xC8918400#32, .xmax .u32x2 1#4 2#4 3#4), (0xD0918200#32, .xlop .xor 1#4 2#4 3#4),
     (0xD8900100#32, .xhsum .i32x2 1#4 2#4), (0xE0100000#32, .xsend 2#4), (0xE8950003#32, .xbr .ge 1#4 2#4 3#16),
     (0xF0000000#32, .xend)] := by
  exact ⟨rfl, rfl⟩

/-- The layouts of their own: a header with wait mask 0x801, set-flags 3 and 10 and LEN 5; BRA and CALL with TGT −2, RJ 1,
guard not P2; and MOVI of 0x12345678 to S9. -/
theorem test_words_layouts : decodesAll
    [(0x7F8019E850000000#64, .clauseStart { wait := 0x801#12, s1v := true, s1 := 3#4, s2v := true, s2 := 10#4, len := 5#6, rsv := 0#28 }),
     (0x01FFFFFE001A0000#64, .bra { tgt := 0xFFFFFE#24, rj := 1#12, gn := true, g := 2#3, rsv := 0#16 }),
     (0x03FFFFFE001A0000#64, .call { tgt := 0xFFFFFE#24, rj := 1#12, gn := true, g := 2#3, rsv := 0#16 }),
     (0x2E09123456780800#64, .movi { d := 9#8, imm := 0x12345678#32, rsvHi := 0#4, sd := true, rsvLo := 0#11 })] := by
  exact ⟨rfl, rfl⟩

/-- The rows that stand beside CSRR and CSRW: ENG_ERR is CSR 0x010, and PX_LOST3 is CSR 0x027 (R263, R314). -/
theorem test_words_csrs : decodesAll
    [(0x7A05000010070800#64, .engErrRead { wordOps with a := 0#8, b := 0#8, c := 0x10#8, sd := true }),
     (0x7B00060027070400#64, .pxLostClear { wordOps with d := 0#8, b := 0#8, c := 0x27#8, sa := true })] := by
  exact ⟨rfl, rfl⟩

/-- Words that the chapters print beside their assembly (07, 09, 10, 11, 12, 13, 14, 15). -/
theorem test_printed_words : decodesAll
    [(0x2306_0400_FFC7_0008#64, .blutImm 4#3 { wordOps with d := 6#8, a := 4#8, b := 0#8, c := 0xFF#8, mod := 8#6 }),
     (0x2101_0500_6417_0000#64, .itestImm { wordOps with d := 1#8, a := 5#8, b := 0#8, c := 100#8 }),
     (0x4003_0200_0177_0005#64, .lxchgImm .xor { wordOps with d := 3#8, a := 2#8, b := 0#8, c := 1#8, mod := 5#6 }),
     (0x5A03_0106_07C7_0000#64, .atoms .cas { wordOps with d := 3#8, a := 1#8, b := 6#8, c := 7#8 }),
     (0x5909_040A_0B07_040C#64, .acas { wordOps with d := 9#8, a := 4#8, b := 10#8, c := 11#8, sa := true, mod := 12#6 }),
     (0x5C0A_0C0E_0F37_0F00#64, .waita .geu { wordOps with d := 10#8, a := 12#8, b := 14#8, c := 15#8, sd := true, sa := true, sb := true, sc := true }),
     (0x6700_0208_0307_0601#64, .circWr { wordOps with d := 0#8, a := 2#8, b := 8#8, c := 3#8, sa := true, sb := true, mod := 1#6 }),
     (0x711E_1415_1627_0781#64, .accldTscale { wordOps with d := 30#8, a := 20#8, b := 21#8, c := 22#8, sa := true, sb := true, sc := true, fs := true, mod := 1#6 }),
     (0x6E00_141A_1D07_0000#64, .mma { wordOps with d := 0#8, a := 20#8, b := 26#8, c := 29#8 }),
     (0x740C_0100_0017_0000#64, .pldImm 0#3 { wordOps with d := 12#8, a := 1#8, b := 0#8, c := 0#8 }),
     (0x7D09_0607_0027_0E80#64, .nstat { wordOps with d := 9#8, a := 6#8, b := 7#8, c := 0#8, sd := true, sa := true, sb := true, fs := true })] := by
  exact ⟨rfl, rfl⟩

/-- The reasons for which a word is refused: a form of 11 in bits 63 and 62, an opcode, a SUB, a pair operation and a bank
opcode that no table lists, a nonzero reserved field of a bank word, and a word cut short (R12, R25, R37, R288). -/
theorem test_refused_words :
    [decode 0xC000000000000000#64, decode 0x0B05060708070000#64, decode 0x7E05060708270000#64, decode 0x8000000000000000#64] =
      [.error .reservedForm, .error .unlistedOpcode, .error .unassignedSub, .error .unassignedPairOp] ∧
    [decodeBank 0x48000000#32, decodeBank 0x08910001#32] = [.error .unlistedOpcode, .error .reservedField] ∧
    decodeBytes [0#8, 0#8, 7#8] = .error .shortWord := by
  exact ⟨rfl, rfl, rfl⟩

/-! ### Well-formedness: one ill-formed instruction for each check, each refused with the detail of R40 -/

/-- IADD V5, V6, V7: well-formed. -/
def okOps : Opnds := { wordOps with c := 0#8 }

theorem test_wf_accepts : WellFormed (.iaddReg okOps) ∧ WellFormed (.nop { wordOps with d := 0#8, a := 0#8, b := 0#8, c := 0#8 }) ∧
    BankWellFormed (.xmin .u64 1#4 2#4 3#4) := by
  exact ⟨rfl, rfl, rfl⟩

/-- An operand field or S bit that is not used, a MOD bit that is not assigned, RU and FS where they do not apply (R17), an
IMM16 bit or an S bit of an immediate form (R14): 0x05. -/
theorem test_wf_reserved :
    [Instr.iaddReg wordOps, .iaddReg { okOps with sc := true }, .iaddReg { okOps with mod := 4#6 }, .iaddReg { okOps with ru := true },
     .iaddReg { okOps with fs := true }, .iaddImm { okOps with sb := true }, .swpt { wordOps with d := 0#8, a := 0#8 },
     .movi { d := 5#8, imm := 0#32, rsvHi := 1#4, sd := false, rsvLo := 0#11 },
     .bra { tgt := 0#24, rj := 0#12, gn := false, g := 7#3, rsv := 1#16 },
     .clauseStart { wait := 0#12, s1v := false, s1 := 0#4, s2v := false, s2 := 0#4, len := 1#6, rsv := 1#28 }].map
      (fun i => illegalDetail i DecodeCtx.widest) = List.replicate 10 (some 0x05) := rfl

/-- A reserved specifier, a source-only destination, a system scalar as destination and a predicate beyond P7 (R18, R20):
0x02; a vector register beyond the allocation (R20): 0x03; a vector source beside a scalar destination (R21): 0x04. -/
theorem test_wf_specifiers :
    [Instr.iaddReg { okOps with a := 0xF6#8 }, .iaddReg { okOps with d := 0xF4#8 }, .iaddReg { okOps with d := 0x60#8, sd := true, sa := true, sb := true },
     .itestReg { okOps with d := 8#8 }].map (fun i => illegalDetail i DecodeCtx.widest) = List.replicate 4 (some 0x02) ∧
    illegalDetail (.iaddReg { okOps with d := 16#8 }) { DecodeCtx.widest with blocks := 2 } = some 0x03 ∧
    illegalDetail (.iaddReg { okOps with sd := true }) DecodeCtx.widest = some 0x04 := by
  exact ⟨rfl, rfl, rfl⟩

/-- A pair whose halves name one register twice modulo 4 (R27): 0x06, one destination or ZERO (R26): 0x07; a HOLD of no
named operand, or latch 3 (R28): 0x08; an unset latch (R28): 0x09; a header of no words, of flag 12, and of one flag twice
(R30): 0x0A. -/
theorem test_wf_pairs_latches_headers :
    illegalDetail (.pairIadd pairX ⟨.mov, { pairY with a := 10#8 }⟩) DecodeCtx.widest = some 0x06 ∧
    illegalDetail (.pairIadd { pairX with d := 0xF3#8 } ⟨.mov, pairY⟩) DecodeCtx.widest = some 0x07 ∧
    [Instr.iaddReg { okOps with hslot := 3#2 }, .iaddReg { okOps with hold := 3#2 }].map (fun i => illegalDetail i DecodeCtx.widest) =
      List.replicate 2 (some 0x08) ∧
    illegalDetail (.iaddReg { okOps with a := 0xF0#8 }) { DecodeCtx.widest with latches := [none, none, none] } = some 0x09 ∧
    [(0, false, 0), (1, true, 12), (1, false, 3)].map (fun x => illegalDetail (.clauseStart
      { wait := 0#12, s1v := x.2.1, s1 := BitVec.ofNat 4 x.2.2, s2v := false, s2 := 0#4, len := BitVec.ofNat 6 x.1, rsv := 0#28 })
      DecodeCtx.widest) = List.replicate 3 (some 0x0A) := by
  exact ⟨rfl, rfl, rfl, rfl, rfl⟩

/-- What the place adds: a set-flag that the header does not name (R33): 0x0C; a branch that is not the last word (R31):
0x0D; a class chapter's own case, FSFUN's rounding on LOG2 (R138), and a bank mode that XCADD does not take (R289). -/
theorem test_wf_place :
    illegalDetail (.ldsImm okOps) { DecodeCtx.widest with flag1 := false } = some 0x0C ∧
    illegalDetail (.bra { tgt := 0#24, rj := 0#12, gn := false, g := 7#3, rsv := 0#16 }) { DecodeCtx.widest with last := false } = some 0x0D ∧
    (illegalDetail (.fsfun .log2 { okOps with b := 0#8, mod := 1#6 }) DecodeCtx.widest).isSome = true ∧
    ¬ BankWellFormed (.xcadd .u64 0#4) := by
  exact ⟨rfl, rfl, rfl, fun h => h.1 rfl⟩

/-! ### Small states -/

/-- A path at a word address, with lanes 0 to 3, flag 0 as set-flag 1 and flag 1 as set-flag 2. -/
def tPath : Path :=
  { Path.at 0x10080#64 0xF#32 none with clause := { s1 := some 0, s2 := some 1, left := 1 } }

/-- A warp of 96 vector registers; its private area lies at 0x18000, its latches are set. -/
def tWarp : Warp :=
  { Warp.start 12 0 0#64 0 0x18000 with path0 := some tPath, latches := List.replicate 3 { tag := some (0#8, false), valid := 0 } }

/-- The warp with the word `v` in vector register `n` in every lane, with kind tag `px`. -/
def withV (n : Nat) (v : Word) (px : Bool) (w : Warp) : Warp :=
  { w with vregs := setNth w.vregs n { lanes := List.replicate 32 { val := v, px := px }, uni := !px } }

/-- The warp with a scalar register set. -/
def withS (n : Nat) (v : Word) (w : Warp) : Warp := { w with sregs := setNth w.sregs n v }

/-- The kernel object: 4 KiB of private area, 256 constant bytes at its offset 0x400, one branch table, four scratchpad
units and four units of accumulator lines. -/
def tObj : KObj := { probeObj with privsz := 4096, constsz := 256, constoff := 0x400, ntab := 1, tdir := 0x200 }

def tRecord : Record := { probeRecord 0 with obj := some tObj }

def tBlock (ws : List Warp) : Block := { probeBlock 0 0 0#64 with warps := ws }

/-- A state with these warps in block 0 of context 0 on core 0, whose TLB maps 0x10000 to 0x1FFFF to the physical page
0x50000; warp 0, slot 0 acts. -/
def tState (ws : List Warp) : State :=
  { State.reset with
    actor := .warp 0 0 0, nextId := 100, blocks := [tBlock ws], records := [tRecord]
    cores := setNth State.reset.cores 0 { Core.idle with ctx := some 0 }
    ctxs := setNth State.reset.ctxs 0 { Ctx.created with live := true }
    tlb := [{ home := 0, ctx := 0, base := 0x10000, size := 0x10000, pa := 0x50000, pte := 0x40000, x := true, w := true
              win := none, a := true, d := true, out := false }] }

/-- What slot 0 of warp 0 sees there. -/
def tAx (ws : List Warp) : Actx :=
  { bid := 0, wi := 0, slot := 0, blk := tBlock ws, w := ws.headD tWarp, p := ((ws.headD tWarp).path0).getD tPath, core := 0 }

def t0 : State := tState [tWarp]
def a0 : Actx := tAx [tWarp]

/-- Operands of the registers V5, V6, V7 and V8 under guard P7. -/
def tOps : Opnds := wordOps

/-- Equal entries read the same, and so does a place past them. -/
theorem nth_same {α : Type} (d : α) (n k : Nat) : nth d (List.replicate n d) k = d := by
  induction n generalizing k with
  | zero => simp [nth]
  | succ n ih => cases k with
    | zero => rfl
    | succ k => exact ih k

/-- The predicates of a warp that has written none hold no proxy. -/
theorem zero_preds (w : Warp) (h : w.preds = List.replicate 7 predZero) (n l : Nat) : (w.pred n l).px = none := by
  unfold Warp.pred
  split
  · rfl
  · rw [h, nth_same, predZero, nth_same]

theorem t0_acts : t0.Acts a0 tOps.gn tOps.g := ⟨rfl, rfl, by decide⟩


/-- A move that keeps both divergence stacks on chip fills and spills nothing. -/
theorem spill_none (s : State) (a : Actx) (w : Warp) (h0 : a.w.stack.length ≤ 16) (h1 : w.stack.length ≤ 16) : s.spillFault a w = (none, s) := by
  simp only [State.spillFault, stackFills, stackSpills, if_pos h0, if_pos h1]
  rfl

/-- A move of a shallow stack has a next state. -/
theorem moves_shallow (s : State) (a : Actx) (extra : Nat) (f : Warp → Warp) (h : a.w.stack.length + extra ≤ s.divCapacity a.blk)
    (hp : 2 ≤ extra → s.csrwPends a.bid a.wi (1 - a.slot) = false) (h0 : a.w.stack.length ≤ 16) (h1 : (f a.w).stack.length ≤ 16) :
    ∃ t, s.MovesTo a extra f t := ⟨_, h, hp, s, spill_none s a _ h0 h1, rfl⟩

/-! ### Single steps: the worked fragments of the manual, and values computed by hand from its rules -/

/-- The warp after one word of a warp with these lanes in vector registers. -/
def oneStep (word : DWord) (w : Warp) : Option Warp :=
  match decode word with
  | .ok i =>
    match exec i (tState [w]) with
    | .next t => (t.block? 0).bind (·.warps[0]?)
    | _ => none
  | .error _ => none

/-- A warp of 32 lanes in slot 0. -/
def wide : Warp := { tWarp with path0 := some { tPath with mask := BitVec.allOnes 32 } }
/-- Lanes 0 to 3 of a vector register as given, the others 5. -/
def withLanes (n : Nat) (vs : List Word) (w : Warp) : Warp :=
  { w with vregs := setNth w.vregs n { lanes := (vs ++ List.replicate (32 - vs.length) 5#32).map fun (v : Word) => { val := v, px := false }, uni := false } }
/-- The words of a vector register in lanes 0 to 4. -/
def lanes5 (n : Nat) (w : Option Warp) : Option (List Word) := w.map fun w => (List.range 5).map fun l => ((w.vreg n).lane l).val

/-- V4 of the worked fragment of 07_integer_and_uniform.md. -/
def worked : Warp := withLanes 4 [0xC805#32, 0x3205#32, 0x6405#32, 0xFF05#32] wide

/-- 07_integer_and_uniform.md, step 1. -/
theorem test_bfe : lanes5 5 (oneStep 0x2A05040808170001#64 worked) = some [200#32, 50#32, 100#32, 255#32, 0#32] := by decide +kernel
/-- 07_integer_and_uniform.md, step 2. -/
theorem test_imin :
    lanes5 5 (oneStep 0x1E05050064170000#64 (withLanes 5 [200#32, 50#32, 100#32, 255#32] wide)) = some [100#32, 50#32, 100#32, 100#32, 5#32] := by
  decide +kernel
/-- 07_integer_and_uniform.md, step 3. -/
theorem test_itest :
    (oneStep 0x2101050064170000#64 (withLanes 5 [100#32, 50#32, 100#32, 100#32] wide)).map (fun w => (List.range 5).map fun l => (w.pred 1 l).val) =
      some [true, false, true, true, false] := by
  decide +kernel
/-- 07_integer_and_uniform.md, step 4: AND writes 5 in every lane, and the register is tagged uniform. -/
theorem test_and : (oneStep 0x23060400FFC70008#64 worked).map (fun w => ((w.vreg 6).uni, ((w.vreg 6).lane 31).val)) = some (true, 5#32) := by
  decide +kernel
/-- 07_integer_and_uniform.md, step 5. -/
theorem test_movUnif : (oneStep 0x2D02060000570800#64 (withV 6 5#32 false wide)).map (·.sreg 2) = some 1#32 := by decide +kernel

/-- 08_floating_point.md, quantising four values: the first PACK, and the second. -/
theorem test_pack_first :
    lanes5 4 (oneStep 0x3D040001F3270008#64 (withV 1 0x43FA0000#32 false (withV 0 0x43960000#32 false wide))) = some (List.replicate 5 0x7E79#32) := by
  decide +kernel
theorem test_pack_second :
    lanes5 4 (oneStep 0x3D04020304270018#64 (withV 4 0x7E79#32 false (withV 3 0x3C000000#32 false (withV 2 0xBE99999A#32 false wide)))) =
      some (List.replicate 5 0x04AA7E79#32) := by
  decide +kernel
/-- 08_floating_point.md, quantising four values: UNPACK takes element 1. -/
theorem test_unpack : lanes5 5 (oneStep 0x3E05040001270000#64 (withV 4 0x04AA7E79#32 false wide)) = some (List.replicate 5 0x43E00000#32) := by
  decide +kernel

/-- 04_number_formats.md, the residues of -1000, and back. -/
theorem test_rxcvt : rxenc (-1000) = 0x140C04 ∧ rxdec 0x140C04 = -1000 := by decide

/-- 09_lane_exchange.md: BALLOT collects P1, and LXCHG.XOR 1 swaps neighbours. -/
theorem test_ballot :
    (oneStep 0x4206010000070800#64 { wide with preds := setNth wide.preds 1 ((List.range 32).map fun l => { val := l % 3 == 0, px := none }) }).map (·.sreg 6) =
      some 0x49249249#32 := by
  decide +kernel
theorem test_lxchg : lanes5 3 (oneStep 0x4003020001770005#64 (withLanes 2 [1#32, 2#32, 3#32, 4#32, 9#32] wide)) = some [2#32, 1#32, 4#32, 3#32, 5#32] := by
  decide +kernel

/-- IABS of -2^31 with and without SAT (R120). -/
theorem test_iabs :
    lanes5 5 (oneStep 0x2005060000070002#64 (withV 6 0x80000000#32 false wide)) = some (List.replicate 5 0x7FFFFFFF#32) ∧
    lanes5 5 (oneStep 0x2005060000070000#64 (withV 6 0x80000000#32 false wide)) = some (List.replicate 5 0x80000000#32) := by
  decide +kernel
/-- IADD wraps, and saturates under SAT (R118). -/
theorem test_iadd :
    lanes5 5 (oneStep 0x1805060700070000#64 (withV 7 2#32 false (withV 6 0x7FFFFFFF#32 false wide))) = some (List.replicate 5 0x80000001#32) ∧
    lanes5 5 (oneStep 0x1805060700070002#64 (withV 7 2#32 false (withV 6 0x7FFFFFFF#32 false wide))) = some (List.replicate 5 0x7FFFFFFF#32) := by
  decide +kernel
/-- A guarded instruction leaves inactive lanes as they were (R19, R20): IADD under P1, which lane 0 alone holds. -/
theorem test_guard :
    lanes5 5 (oneStep 0x1805060700010000#64
      { withV 7 2#32 false (withV 6 3#32 false wide) with preds := setNth wide.preds 1 ({ val := true, px := none } :: List.replicate 31 { val := false, px := none }) }) =
      some [5#32, 0#32, 0#32, 0#32, 0#32] := by
  decide +kernel
/-! ### Witnesses: for each statement, a state and operands that meet its hypotheses -/

/-- The slot's mask, but no active lane: guard not P7. And a proxy predicate in P0. -/
def pxPredWarp : Warp := { tWarp with preds := setNth tWarp.preds 0 (List.replicate 32 { val := false, px := some 1#32 }) }

theorem witness_IdleAndProxyGuards :
    (∃ (o : Opnds) (s : State) (a : Actx), s.actx = some a ∧ a.guardPx o.g = false ∧ a.lanes o = 0#32) ∧
    (∃ (o : Opnds) (s : State) (a : Actx), s.actx = some a ∧ ∃ l, a.p.mask.getLsbD l = true ∧ (a.w.pred o.g.toNat l).px ≠ none) :=
  ⟨⟨{ tOps with gn := true }, t0, a0, rfl, rfl, rfl⟩,
   ⟨{ tOps with g := 0#3 }, tState [pxPredWarp], tAx [pxPredWarp], rfl, 0, rfl, by decide⟩⟩

theorem witness_IntegerResults : ∃ (o : Opnds) (s : State) (a : Actx), ∀ r ∈ integerRows 0#3 o, s.ActsOn a o r.xs := by
  refine ⟨tOps, t0, a0, fun r hr => ⟨t0_acts, ?_⟩⟩
  have h : ∀ r ∈ integerRows 0#3 tOps, t0.anyPx a0 (a0.active tOps.gn tOps.g) r.xs = false := by decide
  exact h r hr

theorem witness_FloatResults : ∃ (o : Opnds) (s : State) (a : Actx), ∀ r ∈ floatRows .rcp 0#3 o, s.ActsOn a o r.xs := by
  refine ⟨tOps, t0, a0, fun r hr => ⟨t0_acts, ?_⟩⟩
  have h : ∀ r ∈ floatRows .rcp 0#3 tOps, t0.anyPx a0 (a0.active tOps.gn tOps.g) r.xs = false := by decide
  exact h r hr

theorem witness_PredicateResultsAndMoves :
    (∃ (o : Opnds) (s : State) (a : Actx), (∀ r ∈ testRows 0#3 o, s.ActsOn a o r.xs) ∧ a.plainPreds o [o.a.toNat, o.b.toNat, o.c.toNat]
      ∧ o.sd = false ∧ s.ActsOn a o [o.srcA, o.srcB] ∧ s.ActsOn a o [o.srcA, o.immS] ∧ a.plainPreds o [o.mod.toNat % 8]) ∧
    (∃ (o : Opnds) (s : State) (a : Actx), o.sd = true ∧ s.ActsOn a o [o.srcA, o.srcB] ∧ a.plainPreds o [o.mod.toNat % 8]) := by
  refine ⟨⟨tOps, t0, a0, fun r hr => ⟨t0_acts, ?_⟩, fun n _ l _ => zero_preds _ rfl n l, rfl, ⟨t0_acts, rfl⟩, ⟨t0_acts, rfl⟩,
    fun n _ l _ => zero_preds _ rfl n l⟩, ⟨{ tOps with sd := true, sa := true, sb := true }, t0, a0, rfl, ⟨⟨rfl, rfl, by decide⟩, rfl⟩,
    fun n _ l _ => zero_preds _ rfl n l⟩⟩
  have h : ∀ r ∈ testRows 0#3 tOps, t0.anyPx a0 (a0.active tOps.gn tOps.g) r.xs = false := by decide
  exact h r hr

theorem witness_MoviWritesItsImmediate : ∃ (s : State) (a : Actx), s.actx = some a := ⟨t0, a0, rfl⟩

theorem witness_PredicateMoves :
    (∃ (o : Opnds) (s : State) (a : Actx), s.ActsOn a o [o.srcA] ∧ a.plainPreds o (List.range 7) ∧
      (s.src a o.srcA ((s.val a o.srcB 0).toNat % 32)).px = false) ∧
    (∃ (o : Opnds) (s : State) (a : Actx), s.Acts a o.gn o.g ∧ (s.src a o.srcA ((s.val a o.srcB 0).toNat % 32)).px = true) :=
  ⟨⟨tOps, t0, a0, ⟨t0_acts, rfl⟩, fun n _ l _ => zero_preds _ rfl n l, rfl⟩,
   ⟨tOps, tState [withV 6 0#32 true tWarp], tAx [withV 6 0#32 true tWarp], ⟨rfl, rfl, by decide⟩, rfl⟩⟩

theorem witness_PairResults :
    (∃ (o : Opnds) (s : State) (a : Actx), s.ActsOn a o [o.srcA, o.srcB, o.srcC, .reg (o.c + 1#8) o.sc] ∧ s.ActsOn a o [o.srcA]
      ∧ o.c ≠ 0xF3#8 ∧ o.mod.getLsbD 0 = false) ∧
    (∃ (o : Opnds) (s : State) (a : Actx), s.ActsOn a o [o.srcA, o.srcB, o.srcC, o.srcC] ∧ o.c = 0xF3#8 ∧ o.mod.getLsbD 0 = true) ∧
    (∃ (x y : HalfOpnds) (s : State) (a : Actx), s.actx = some a ∧ a.guardPx x.g = false ∧ a.guardPx y.g = false ∧
      a.active x.gn x.g ≠ 0#32 ∧ a.active y.gn y.g = 0#32 ∧ s.anyPx a (a.active x.gn x.g) [.reg x.a x.sa, .reg x.d false] = false) :=
  ⟨⟨tOps, t0, a0, ⟨t0_acts, rfl⟩, ⟨t0_acts, rfl⟩, by decide, rfl⟩,
   ⟨{ tOps with c := 0xF3#8, mod := 1#6 }, t0, a0, ⟨⟨rfl, rfl, by decide⟩, rfl⟩, rfl, rfl⟩,
   ⟨pairX, pairY, t0, a0, rfl, rfl, rfl, by decide, rfl, rfl⟩⟩

theorem witness_ExchangeResults : ∃ (o : Opnds) (s : State) (a : Actx), s.ActsOn a o [o.srcA, o.srcB] ∧ s.ActsOn a o [o.srcA] ∧
    s.ActsOn a o [o.srcA, .imm (BitVec.ofNat 32 (o.imm16.toNat % 32))] ∧ a.plainPreds o [o.a.toNat] :=
  ⟨tOps, t0, a0, ⟨t0_acts, rfl⟩, ⟨t0_acts, rfl⟩, ⟨t0_acts, rfl⟩, fun n _ l _ => zero_preds _ rfl n l⟩

theorem witness_ReduxResults : ∃ (o : Opnds) (s : State) (a : Actx), s.ActsOn a o [o.srcA] := ⟨tOps, t0, a0, t0_acts, rfl⟩

theorem witness_ResultFrames :
    (∃ (o : Opnds) (s : State) (a : Actx), (∀ r ∈ integerRows 0#3 o ++ floatRows .rcp 0#3 o, s.ActsOn a o r.xs) ∧ a.w.takes o.d o.sd) ∧
    (∃ (o : Opnds) (s : State) (a : Actx), s.ActsOn a o [o.srcA] ∧ a.w.takes o.d o.sd ∧ o.sd = true) ∧
    (∃ (o : Opnds) (s : State) (a : Actx), s.ActsOn a o [o.srcA] ∧ a.w.takes o.d o.sd ∧ o.d = 0xF3#8) ∧
    (∃ (o : Opnds) (s : State) (a : Actx), (∀ r ∈ testRows 0#3 o, s.ActsOn a o r.xs) ∧ o.d.toNat < a.w.preds.length ∧ a.plainPreds o [o.a.toNat]) := by
  refine ⟨⟨tOps, t0, a0, fun r hr => ⟨t0_acts, ?_⟩, ?_⟩, ⟨{ tOps with sd := true, sa := true }, t0, a0, ⟨⟨rfl, rfl, by decide⟩, rfl⟩, ?_, rfl⟩,
    ⟨{ tOps with d := 0xF3#8 }, t0, a0, ⟨⟨rfl, rfl, by decide⟩, rfl⟩, .inl rfl, rfl⟩,
    ⟨{ tOps with d := 6#8 }, t0, a0, fun r hr => ⟨⟨rfl, rfl, by decide⟩, ?_⟩, by decide, fun n _ l _ => zero_preds _ rfl n l⟩⟩
  · have h : ∀ r ∈ integerRows 0#3 tOps ++ floatRows .rcp 0#3 tOps, t0.anyPx a0 (a0.active tOps.gn tOps.g) r.xs = false := by decide
    exact h r hr
  · exact .inr (by decide : 5 < a0.w.vregs.length)
  · exact (by decide : 5 < a0.w.sregs.length)
  · have h : ∀ r ∈ testRows 0#3 { tOps with d := 6#8 }, t0.anyPx a0 (a0.active tOps.gn tOps.g) r.xs = false := by decide
    exact h r hr

/-- Every vector register of a warp that has written none is tagged uniform and holds one plain value. -/
theorem witness_UniformTagIsSound : ∃ (o : Opnds) (s : State) (a : Actx), s.ActsOn a o [o.srcA, o.srcB, o.srcC] ∧ s.ActsOn a o [o.srcA] ∧
    ∀ n, (a.w.vreg n).uni = true → uniformLanes ((a.w.vreg n).lanes) = true := by
  refine ⟨tOps, t0, a0, ⟨t0_acts, rfl⟩, ⟨t0_acts, rfl⟩, fun n _ => ?_⟩
  have h : a0.w.vreg n = VReg.zero := by
    unfold Warp.vreg
    split
    · rfl
    · exact nth_same VReg.zero 96 n
  rw [h]
  decide

/-- The word of IADD V5, V6, V7 stands at the program counter, and slot 0 of warp 0 issues next. -/
def tFetch (w : DWord) : State := { t0.writePhys 0x50080 (leBytes 8 w.toNat) with agenda := [.issue 0 0 0] }
def tFetched (w : DWord) : State := { tFetch w with agenda := [], actor := .warp 0 0 0 }

theorem witness_StepRuns_native :
    let s := tFetch 0x1805060700070000#64
    let s0 := tFetched 0x1805060700070000#64
    s.dev.powered = true ∧ s.agenda = .issue 0 0 0 :: [] ∧ s0.actx = some a0 ∧ s0.mayIssue a0 = true ∧
    (s0.codeLimits a0).1 ≤ a0.p.pc.toNat ∧ a0.p.pc.toNat < (s0.codeLimits a0).2 ∧ a0.p.pc.toNat < 2 ^ 57 ∧
    (s0.fetchWord a0).1 = .ok 0x1805060700070000#64 ∧
    (let i := Instr.iaddReg okOps
     decode 0x1805060700070000#64 = .ok i ∧ placeDetail a0.w a0.p (.ok i) = none ∧ clauseFits a0.p.pc.toNat (s0.codeLimits a0).2 (.ok i) = true ∧
     flagsClear a0.w i = true ∧ (s0.fetchWord a0).2.pmatHolds 0 0 (a0.w.namedRegs i) = false) :=
  ⟨rfl, rfl, rfl, rfl, by decide, by decide, by decide, rfl, rfl, rfl, rfl, rfl, rfl⟩

theorem witness_StepRuns_illegal :
    let s0 := tFetched 0x8000000000000000#64
    (s0.fetchWord a0).1 = .ok 0x8000000000000000#64 ∧ decode 0x8000000000000000#64 = .error .unassignedPairOp ∧ s0.mayIssue a0 = true :=
  ⟨rfl, rfl, rfl⟩

/-- A bank context that runs this code, its address thread at the first word. -/
def tBankCtx (code : List Word) : BankCtx :=
  { (probeLaunch 7 0#32).context 0 with
    state := .running, launch := { probeLaunch 7 0#32 with code := code, aentry := 1, issuer := (0, 0), block := 0 }
    apc := 0, dq := [List.replicate 64 1#8], bq := [8#64] }

/-- The state in which that context is the first of channel 0 and one of its threads acts. -/
def tBank (code : List Word) (arith : Bool) : State :=
  { t0 with
    actor := .bank 0 0 arith
    chans := setNth State.reset.chans 0 { Chan.empty with cx := setNth Chan.empty.cx 0 (some (tBankCtx code)) } }

theorem witness_StepRuns_bank_and_event :
    (let s := { tBank [0x00800005#32] false with agenda := [.bankIssue 0 0 false 0] }
     let k := tBankCtx [0x00800005#32]
     s.dev.powered = true ∧ s.bankCtx? 0 0 = some k ∧ k.state = .running ∧ k.over false = false ∧ k.launch.code[k.pc false]? = some 0x00800005#32 ∧
     decodeBank 0x00800005#32 = .ok (.nli 1#4 5#16) ∧ bankThread (.nli 1#4 5#16) = false ∧ k.cause? false (.nli 1#4 5#16) = none) ∧
    isEvent .seamPass = true ∧
    (t0.translate a0.core a0.blk.ctx a0.p.pc.toNat .fetch).1 = .ok 0x50080 ∧ (∀ i, i < 8 → inWindow (0x50080 + i) = false) ∧
    (∃ s : State, s.dev.powered = false ∧ s.agenda = [.elapse 1]) :=
  ⟨⟨rfl, rfl, rfl, rfl, rfl, rfl, rfl, rfl⟩, rfl, by decide +kernel, by decide,
   ⟨{ t0 with agenda := [.elapse 1], dev := { t0.dev with powered := false } }, rfl, rfl⟩⟩

theorem witness_StepsKeepMemoryCanonical : ∃ s t : State, s.memoryWf = true ∧ step s = .next t :=
  ⟨{ t0 with agenda := [.elapse 1] }, ({ t0 with agenda := [] } : State).passTime 1, rfl, rfl⟩

/-- A warp whose slot 1 holds lanes 4 to 7 too. -/
def twoPaths : Warp := { tWarp with path1 := some { tPath with mask := 0xF0#32 } }

/-- A warp whose P0 is 1 in lanes 0 and 1. -/
def halfWarp (w : Warp) : Warp :=
  { w with preds := setNth w.preds 0 (List.replicate 2 { val := true, px := none } ++ List.replicate 30 { val := false, px := none }) }

/-- The moves of BRA: the whole path to an address, or two groups. -/
def wholeMove (a : Actx) (pc : DWord) (w : Warp) : Warp := (w.jump a.slot pc).settled
def bothMove (a : Actx) (m : Mask) (w : Warp) : Warp :=
  (w.split a.slot [(a.p.pc + 8#64, a.p.mask &&& ~~~m), (a.p.pc + 32#64, m)] (a.p.pc + 24#64)).settled

theorem witness_Branches_bra :
    (∃ (gn : Bool) (g : BitVec 3) (s t : State) (a : Actx), s.actx = some a ∧ a.guardLanes gn g = some 0#32 ∧ s.MovesTo a 0 (wholeMove a (a.p.pc + 8#64)) t) ∧
    (∃ (gn : Bool) (g : BitVec 3) (s t : State) (a : Actx) (m : Mask), s.actx = some a ∧ a.guardLanes gn g = some m ∧ m ≠ 0#32 ∧ a.p.mask &&& ~~~m = 0#32 ∧
      s.MovesTo a 0 (wholeMove a (a.p.pc + 32#64)) t) ∧
    (∃ (gn : Bool) (g : BitVec 3) (s t : State) (a : Actx) (m : Mask), s.actx = some a ∧ a.guardLanes gn g = some m ∧ m ≠ 0#32 ∧ a.p.mask &&& ~~~m ≠ 0#32 ∧
      a.w.path (1 - a.slot) = none ∧ s.MovesTo a 1 (bothMove a m) t) ∧
    (∃ (gn : Bool) (g : BitVec 3) (s t : State) (a : Actx) (m : Mask), s.actx = some a ∧ a.guardLanes gn g = some m ∧ m ≠ 0#32 ∧ a.p.mask &&& ~~~m ≠ 0#32 ∧
      a.w.path (1 - a.slot) ≠ none ∧ s.MovesTo a 2 (bothMove a m) t) := by
  obtain ⟨t1, h1⟩ := moves_shallow t0 a0 0 (wholeMove a0 (a0.p.pc + 8#64)) (by decide) (by decide) (by decide) (by decide)
  obtain ⟨t2, h2⟩ := moves_shallow t0 a0 0 (wholeMove a0 (a0.p.pc + 32#64)) (by decide) (by decide) (by decide) (by decide)
  obtain ⟨t3, h3⟩ := moves_shallow (tState [halfWarp tWarp]) (tAx [halfWarp tWarp]) 1 (bothMove (tAx [halfWarp tWarp]) 3#32) (by decide) (by decide)
    (by decide) (by decide +kernel)
  obtain ⟨t4, h4⟩ := moves_shallow (tState [halfWarp twoPaths]) (tAx [halfWarp twoPaths]) 2 (bothMove (tAx [halfWarp twoPaths]) 3#32) (by decide)
    (fun _ => rfl) (by decide) (by decide +kernel)
  exact ⟨⟨true, 7#3, t0, t1, a0, rfl, by decide, h1⟩, ⟨false, 7#3, t0, t2, a0, 15#32, rfl, by decide, by decide, by decide, h2⟩,
    ⟨false, 0#3, _, t3, _, 3#32, rfl, by decide, by decide, by decide, rfl, h3⟩,
    ⟨false, 0#3, _, t4, _, 3#32, rfl, by decide, by decide, by decide, by decide, h4⟩⟩

/-- CALL opens a record. -/
theorem witness_Branches_call :
    let m := a0.active false 7#3
    let enter (w : Warp) : Warp := (({ w with
        stack := .join { id := w.nextJoin, seq := w.nextJoin, rejoin := a0.p.pc + 8#64, mask := a0.p.mask, arrived := a0.p.mask &&& ~~~m
                         parent := a0.p.join, call := true } :: w.stack
        nextJoin := w.nextJoin + 1 } : Warp).setPath a0.slot (some (Path.at (a0.p.pc + 32#64) m (some w.nextJoin)))).settled
    t0.Acts a0 false 7#3 ∧ ∃ t, t0.MovesTo a0 1 enter t :=
  ⟨t0_acts, moves_shallow t0 a0 1 _ (by decide) (by decide) (by decide) (by decide)⟩

/-- The branch table of the kernel object: two entries with rejoin offset 3 and target offset 5; the directory entry gives
its length 2 and place 0x208. -/
def tTables : State :=
  { t0 with l2 := (leBytes 8 0x20800000002 ++ leBytes 8 0x300000005 ++ leBytes 8 0x300000005).zipIdx.map fun x => (0x50200 + x.2, x.1) }

theorem witness_Branches_brx :
    tTables.Acts a0 false 7#3 ∧ a0.crossLanes 7#3 = [] ∧ tTables.anyPx a0 (a0.active false 7#3) [.reg 6#8 false] = false ∧
    tTables.record? a0.blk.record = some tRecord ∧ tTables.kobj a0.blk = some tObj ∧ 0 < tObj.ntab ∧ a0.p.mask = a0.active false 7#3 ∧
    (∃ (s : State) (a : Actx), s.actx = some a ∧ s.anyPx a (a.active false 7#3) [.reg 6#8 false] = true) :=
  ⟨⟨rfl, rfl, by decide⟩, rfl, rfl, rfl, rfl, by decide, rfl,
   ⟨tState [withV 6 0#32 true tWarp], tAx [withV 6 0#32 true tWarp], rfl, rfl⟩⟩

/-- The directory entry and both table entries are read: the lanes' index 0 is below the length 2, and the entries agree. -/
theorem witness_Branches_brx_table :
    (tTables.readConst 0 0 (tRecord.kobj + tObj.tdir) 8).1.toOption = some (leBytes 8 0x20800000002) ∧
    ((tTables.readConst 0 0 (tRecord.kobj + tObj.tdir) 8).2.readEntries a0 (tRecord.kobj + 0x208) [0, 0, 1]).1.toOption =
      some [(3, 5, true), (3, 5, true), (3, 5, true)] := by
  decide +kernel

/-- A path of lanes 0 to 3 under join record 0, which is a CALL record waiting for them. -/
def calledWarp : Warp :=
  { tWarp with path0 := some { tPath with join := some 0 }, nextJoin := 1
               stack := [.join { id := 0, seq := 0, rejoin := 0x10100#64, mask := 0xF#32, arrived := 0#32, parent := none, call := true }] }

theorem witness_ReturnsJoinsAndExits :
    (t0.Acts a0 false 7#3 ∧ a0.w.callRec a0.p.join = none ∧ a0.p.join = none ∧ t0.spillFault a0 (a0.w.leaveHandler.exit 0 15#32 none) = (none, t0)) ∧
    (let s := tState [calledWarp]
     let a := tAx [calledWarp]
     s.Acts a false 7#3 ∧ a.w.callRec a.p.join = some 0 ∧ a.p.join = some 0 ∧ a.lanes tOps = 15#32 ∧
     (∃ t, s.MovesTo a 0 (fun w => (w.ret a.slot 15#32 a.p.join 0).settled) t) ∧
     (∃ t, s.MovesTo a 0 (fun w => ((w.nextWord a.slot).arriveAt a.slot 0 15#32).settled) t) ∧
     s.spillFault a (a.w.leaveHandler.exit 0 15#32 (some 0)) = (none, s)) :=
  ⟨⟨t0_acts, rfl, rfl, spill_none _ _ _ (by decide) (by decide)⟩, ⟨rfl, rfl, by decide⟩, rfl, rfl, by decide,
   moves_shallow _ _ 0 _ (by decide) (by decide) (by decide) (by decide), moves_shallow _ _ 0 _ (by decide) (by decide) (by decide) (by decide),
   spill_none _ _ _ (by decide) (by decide)⟩

/-- Lanes 0 to 3 in slot 0, the others exited. -/
theorem witness_LanesKeepOnePlace :
    ∃ (w : Warp) (p : Path) (m0 m1 : Mask), w.lanesOk ∧ w.joinsOk ∧ w.path 0 = some p ∧ p.join = some 0 ∧ (w.joinRec? 0).isSome = true ∧
      m0 ||| m1 = p.mask ∧ m0 &&& m1 = 0#32 ∧ m0 &&& ~~~p.mask = 0#32 := by
  refine ⟨{ calledWarp with exited := 0xFFFFFFF0#32 }, { tPath with join := some 0 }, 1#32, 14#32, ?_, ⟨by decide, ?_⟩, rfl, rfl, rfl, rfl, rfl, rfl⟩
  · have h : ∀ l : Fin 32, ({ calledWarp with exited := 0xFFFFFFF0#32 } : Warp).places l.val = 1 := by decide
    exact fun l hl => h ⟨l, hl⟩
  · intro r hr
    simp only [calledWarp, List.mem_singleton, StackEntry.join.injEq] at hr
    subst hr
    decide

/-- A warp asleep until cycle 0, plainly, and on a promise for the object at scratchpad offset 8. -/
def asleep (w : Wait) : Warp := { tWarp with path0 := some { tPath with wait := w } }
def sleeping (w : Wait) : State := { tState [asleep w] with actor := .device, args := [0, 0, 0] }

theorem witness_ClausesAndSleeps :
    (∃ (o : Opnds) (s : State) (a : Actx), s.Acts a o.gn o.g ∧ (s.scalar a o.a o.sa - BitVec.ofNat 32 (s.cycle (clusterOf a.core))).toInt ≤ 0
      ∧ o.imm16 ≠ 0#16) ∧
    (∃ (o : Opnds) (s : State) (a : Actx), s.Acts a o.gn o.g ∧ 0 < (s.scalar a o.a o.sa - BitVec.ofNat 32 (s.cycle (clusterOf a.core))).toInt
      ∧ s.checkObj a (s.scalar a o.b o.sb).toNat = none) ∧
    (∃ a, (sleeping (.sleep 0)).actxAt 0 0 0 = some a ∧ a.p.held = false ∧ a.p.wait = .sleep 0) ∧
    (∃ a, (sleeping (.sleepProm 0 8 false false)).actxAt 0 0 0 = some a ∧ a.p.wait = .sleepProm 0 8 false false ∧
      ((sleeping (.sleepProm 0 8 false false)).arrObj a.bid 8).phase = false ∧
      ((sleeping (.sleepProm 0 8 true false)).arrObj a.bid 8).phase ≠ true) :=
  ⟨⟨{ tOps with sa := true }, t0, a0, ⟨rfl, rfl, by decide⟩, by decide, by decide⟩,
   ⟨{ tOps with sa := true, sb := true }, tState [withS 6 9#32 tWarp], tAx [withS 6 9#32 tWarp], ⟨rfl, rfl, by decide⟩, by decide, rfl⟩,
   ⟨tAx [asleep (.sleep 0)], rfl, rfl, rfl⟩, ⟨tAx [asleep (.sleepProm 0 8 false false)], rfl, rfl, by decide, by decide⟩⟩

theorem witness_TrapsByDesign : ∃ (o : Opnds) (s : State) (a : Actx), s.Acts a o.gn o.g := ⟨tOps, t0, a0, t0_acts⟩

/-- A warp with these words in V6 and V7, and the state and view of its slot. -/
def tV (x y : Word) : Warp := withV 7 y false (withV 6 x false tWarp)
def sV (x y : Word) : State := tState [tV x y]
def aV (x y : Word) : Actx := tAx [tV x y]

/-- A global load and store at 0x10100, a private one at 0x40; and each of the traps: a proxy address, a misaligned address,
one past the space and one in a page that is not mapped. -/
theorem witness_GlobalAccesses :
    (let s := sV 0x10100#32 0#32
     let a := aV 0x10100#32 0#32
     a.flagFull false = false ∧ s.anyPx a (a.lanes tOps) (addrSrcs tOps false false) = false ∧ (∀ l ∈ s.loadLanes tOps false (a.lanes tOps),
       s.address a tOps false false l % 4 = 0 ∧ 0 ≤ s.address a tOps false false l ∧ s.address a tOps false false l + 4 ≤ 2 ^ 57) ∧
     (∀ l ∈ lanesOf (a.lanes tOps), s.dataPx a tOps l = false) ∧
     (s.translateLanes a .read [(0, [(0x10100, 4)]), (3, [(0x10100, 4)])]).1.isOk = true ∧
     (s.translateLanes a .write [(0, [(0x10100, 4)]), (3, [(0x10100, 4)])]).1.isOk = true) ∧
    (let s := sV 0x40#32 0#32
     let a := aV 0x40#32 0#32
     (∀ l ∈ lanesOf (a.lanes tOps), 0 ≤ s.address a tOps false false l ∧ s.address a tOps false false l + 4 ≤ (s.extent a .priv : Int)) ∧
     (s.translateLanes a .write [(0, a.w.pieces .priv 0 0x40 4)]).1.isOk = true) := by
  decide +kernel

theorem witness_GlobalAccesses_traps :
    (let w := withV 6 0x10100#32 true tWarp
     (tState [w]).Counts (tAx [w]) tOps ∧ (tState [w]).anyPx (tAx [w]) ((tAx [w]).lanes tOps) (addrSrcs tOps false false) = true) ∧
    (let w := withV 5 0#32 true (tV 0x10100#32 0#32)
     (tState [w]).dataPx (tAx [w]) tOps 0 = true) ∧
    (let f (x y : Word) : Int := (sV x y).address (aV x y) tOps false false 0
     f 0x10102#32 0#32 % 4 ≠ 0 ∧ ((sV 0x1000#32 0#32).extent (aV 0x1000#32 0#32) .priv : Int) < f 0x1000#32 0#32 + 4 ∧
     ((sV 0x40000#32 0#32).translateLanes (aV 0x40000#32 0#32) .read [(0, [(0x40000, 4)])]).1.isOk = false) :=
  ⟨⟨⟨⟨rfl, rfl, by decide⟩, rfl⟩, rfl⟩, rfl, by decide +kernel⟩

theorem witness_Scratchpad :
    (let s := sV 0x40#32 0#32
     let a := aV 0x40#32 0#32
     s.Counts a tOps ∧ cellWf 0#8 a.blk.spad = true ∧ s.anyPx a (a.lanes tOps) (addrSrcs tOps false false) = false ∧
     (∀ l ∈ lanesOf (a.lanes tOps), s.dataPx a tOps l = false ∧ s.address a tOps false false l % 4 = 0 ∧ 0 ≤ s.address a tOps false false l ∧
       s.address a tOps false false l + 4 ≤ (s.extent a .spad : Int) ∧ s.address a tOps false false l + 4 ≤ (s.extent a .const : Int)) ∧
     (s.constLanes a (tRecord.kobj + tObj.constoff) (s.address a tOps false false) 4 [0, 1]).1.isOk = true) :=
  ⟨⟨⟨rfl, rfl, by decide⟩, rfl⟩, rfl, rfl, by decide, by decide +kernel⟩

theorem witness_MemoryReadsWhatWasWritten : Memory.wf t0.dram = true ∧ overWf t0.l2 = true ∧ inWindow 0x50000 = false ∧ t0.uncached 0x50000 = false ∧
    (∃ pa, inWindow pa = true) ∧ (∃ (s : State) (pa : Nat), s.uncached pa = true ∧ inWindow pa = false ∧ Memory.wf s.dram = true ∧ overWf s.l2 = true) :=
  ⟨rfl, rfl, rfl, rfl, ⟨0x8000000000000, by decide⟩, ⟨tBank [] false, 0, by decide +kernel, rfl, rfl, rfl⟩⟩

/-- A load of one lane, and a store of two lanes to one word, in flight for warp 0. -/
def tLoad : Op := { id := 5, block := 0, warp := 0, core := 0, ctx := 0, flag := some 0, epoch := none, srcs := none, data := (0#32, []), routes := [],
                    kind := .load [{ lane := 0, bytes := [0x50100, 0x50101, 0x50102, 0x50103], dst := 5, scalar := false, sz := 0 }] }
def tStore : Op := { tLoad with id := 6, epoch := some (0, 0)
                                kind := .store [(0, [(0x50100, 1#8), (0x50101, 2#8)]), (1, [(0x50101, 3#8)])] }
def tFlight (op : Op) (args : List Nat) : State := { t0 with actor := .device, args := args, ops := [op] }

theorem witness_GlobalMemory :
    (let s := tFlight tLoad [5, 1]
     s.op? (s.arg 0) = some tLoad ∧ (∀ x ∈ [0x50100, 0x50101, 0x50102, 0x50103], inWindow x = false) ∧ (s.arg 1).testBit 0 = true ∧
     s.earlierTouch 5 0 0 [0x50100, 0x50101, 0x50102, 0x50103] = false) ∧
    (let op := { tLoad with kind := .fill [.lane 5 0 7#32] }
     (tFlight op [5]).op? 5 = some op) ∧
    (let s := tFlight tStore [6]
     s.op? (s.arg 0) = some tStore ∧ s.storeDue tStore tStore.kind.bytes = true ∧ s.block? 0 = some a0.blk ∧ a0.blk.ending = none ∧
     a0.blk.warps.any (fun w => !w.ended) = true ∧ s.uncached 0x50101 = false ∧ inWindow 0x50101 = false) :=
  ⟨⟨rfl, by decide, rfl, rfl⟩, rfl, ⟨rfl, rfl, rfl, rfl, rfl, rfl, rfl⟩⟩

/-- The scratchpad of block 0 with these bytes. -/
def withSpad (bs : List Host.Cell) (s : State) : State := { s with blocks := s.blocks.map fun (b : Block) => { b with spad := bs } }
def atSpad (bs : List Host.Cell) (a : Actx) : Actx := { a with blk := { a.blk with spad := bs } }

/-- An arrival object at offset 0 in phase 0; and one in phase 1 with and without its error. -/
theorem witness_ArrivalObjects :
    (let o := { tOps with a := 6#8, sa := true }
     t0.Acts a0 o.gn o.g ∧ (t0.scalar a0 o.a o.sa).toNat % 8 = 0 ∧ (t0.scalar a0 o.a o.sa).toNat + 8 ≤ t0.spadSize a0.blk ∧
     (t0.arrObj 0 0).phase = o.imm16.getLsbD 0 ∧ (t0.arrObj 0 0).phase ≠ { o with c := 1#8 }.imm16.getLsbD 0 ∧ (t0.arrObj 0 0).err = false) ∧
    (let s := withSpad [(7, 0x40#8)] t0
     ∃ n : Nat, n = 0 ∧ ((s.arrObj 0 n).err = true ∨ ((withSpad [(7, 0x80#8)] t0).arrObj 0 n).phase = true)) ∧
    (∃ (o : Opnds) (s : State) (a : Actx), s.Acts a o.gn o.g ∧ (s.scalar a o.a o.sa).toNat % 8 ≠ 0) :=
  ⟨⟨⟨rfl, rfl, by decide⟩, by decide, by decide, by decide, by decide, by decide⟩, ⟨0, rfl, by decide⟩,
   ⟨{ tOps with sa := true }, tState [withS 6 4#32 tWarp], tAx [withS 6 4#32 tWarp], ⟨rfl, rfl, by decide⟩, by decide⟩⟩

/-- The operands S6, S7 and S8 as scalars. -/
def sOps : Opnds := { tOps with sa := true, sb := true, sc := true, sd := true }
def sW (a b c : Word) : Warp := withS 8 c (withS 7 b (withS 6 a tWarp))
def sS (a b c : Word) : State := tState [sW a b c]
def sA (a b c : Word) : Actx := tAx [sW a b c]

theorem witness_Transfers_lda_gath :
    (let s := sV 0x40#32 0x10100#32
     let a := aV 0x40#32 0x10100#32
     let o := { tOps with sc := true }
     s.Acts a o.gn o.g ∧ s.anyPx a (a.lanes o) [o.srcA, o.srcB] = false ∧ (s.scalar a o.c o.sc).toNat = 0 ∧
     ∀ l ∈ lanesOf (a.lanes o), (s.val a o.srcA l).toNat % 4 = 0 ∧ (s.val a o.srcB l).toNat % 4 = 0 ∧ (s.val a o.srcA l).toNat + 4 ≤ s.spadSize a.blk) ∧
    (∀ n ∈ [0, 1], let s := withSpad [(6, 4#8), (9, 1#8), (10, BitVec.ofNat 8 n)] (sS 0#32 0#32 0#32)
     let d := gathDesc (leNat (s.spadRead 0 0 32))
     d.count = n ∧ d.row = 4 ∧ d.rowp = 4 ∧ d.rsv = false ∧ d.arr = 0 ∧ d.dst = 0 ∧ d.idx = 0 ∧ d.base = 0 ∧ d.stride = 0) :=
  ⟨⟨⟨rfl, rfl, by decide⟩, rfl, rfl, by decide +kernel⟩, by decide +kernel⟩

/-- A window of context 0 over its first 64 KiB. -/
def tWindow : Window := { phys1 := 0x60000, phys0 := 0x50000, vbase := 0, size := 1, cur := false, v := true }
def withCtx (f : Ctx → Ctx) (s : State) : State := { s with ctxs := setNth s.ctxs 0 (f (s.ctx 0)) }

theorem witness_Transfers_copy :
    (∀ n ∈ [0#32, 64#32], let s := withCtx (fun c => { c with windows := [tWindow] }) (sS 0#32 0#32 n)
     let a := sA 0#32 0#32 n
     s.actx = some a ∧ (s.scalar a 8#8 true).toNat = n.toNat ∧ (s.scalar a 9#8 true).toNat = 0 ∧
     s.pairVal a 6#8 true 0 + n.toNat ≤ s.spadSize a.blk ∧ ((s.ctx 0).windowOf (s.pairVal a 6#8 true 0) n.toNat).isSome = true) := by
  simp only [List.forall_mem_cons]
  exact ⟨⟨rfl, rfl, rfl, by decide, rfl⟩, ⟨rfl, rfl, rfl, by decide, rfl⟩, fun _ h => nomatch h⟩

/-- A gather of one row of a word from 0x10100 to scratchpad offset 0x20, in flight. -/
def tXfer : Xfer :=
  { id := 9, engine := .gath, ctx := 0, block := 0, warp := 0, core := 0, window := none, base := 0, stride := 0, list := 0
    units := [{ srcSpad := false, src := 0x10100, idx := none, dstSpad := true, dst := 0x20, len := 4 }], arr := 0, err := false, held := none, start := 0, clash := false
    into := [(0x20, 4)], rows := 0, touched := [] }
def tMoving (x : Xfer) : State := { t0 with actor := .device, args := [9], xfers := [x] }

theorem witness_Transfers_arrival :
    (let s := tMoving tXfer
     s.xfer? (s.arg 0) = some tXfer ∧ ((s.moveUnits 9 1).xfer? 9).map (fun x => (x.units, x.held)) = some ([], none)) ∧
    (let s := tMoving { tXfer with held := some 3 }
     ((s.moveUnits 9 1).xfer? 9).map (·.held) = some (some 3)) ∧
    (let s := tMoving tXfer
     tXfer.behind 0 { srcSpad := false, src := 0x10100, idx := none, dstSpad := true, dst := 0x20, len := 4 } = false ∧
     s.block? 0 = some a0.blk ∧ (s.engineAddrs tXfer .read false [0x10100, 0x10101, 0x10102, 0x10103]).1.toOption =
       some [some 0x50100, some 0x50101, some 0x50102, some 0x50103] ∧
     s.earlierTouch 9 0 0 [0x50100, 0x50101, 0x50102, 0x50103] = false ∧ inWindow 0x50100 = false) :=
  ⟨⟨rfl, by decide +kernel⟩, by decide +kernel, ⟨rfl, rfl, by decide +kernel, rfl, rfl⟩⟩

theorem witness_CachesAndTables_issue :
    (let s := withCtx (fun c => { c with windows := [tWindow] }) (sS 0#32 64#32 0#32)
     let a := sA 0#32 64#32 0#32
     s.Counts a sOps ∧ (s.ctx a.blk.ctx).windows[(s.scalar a sOps.a true).toNat]? = some tWindow ∧ tWindow.v = true ∧
     (s.scalar a sOps.b true).toNat = 64) ∧
    (let s := sS 0x10000#32 0#32 0#32
     let a := sA 0x10000#32 0#32 0#32
     s.Counts a sOps ∧ s.pairVal a sOps.a true 0 = 0x10000 ∧ (s.scalar a sOps.b true).toNat = 0 ∧ (s.ctx a.blk.ctx).windows[0]? = none) ∧
    (let s := sS 0#32 0x2000000#32 0#32
     s.Counts (sA 0#32 0x2000000#32 0#32) sOps ∧ 2 ^ 57 ≤ s.pairVal (sA 0#32 0x2000000#32 0#32) sOps.a true 0) :=
  ⟨⟨⟨⟨rfl, rfl, by decide⟩, rfl⟩, rfl, rfl, rfl⟩, ⟨⟨⟨rfl, rfl, by decide⟩, rfl⟩, rfl, rfl, rfl⟩, ⟨⟨⟨rfl, rfl, by decide⟩, rfl⟩, by decide +kernel⟩⟩

theorem witness_CachesAndTables_complete :
    (∀ k ∈ [OpKind.cctl true [(0x50100, 0x50140)], .cctlConst, .tlbh (some 0x10000), .tlbh none, .publish 0],
      let op := { tLoad with kind := k }
      (tFlight op [5]).op? 5 = some op ∧ (tFlight op [5]).block? op.block = some a0.blk ∧ a0.blk.ending = none ∧
      a0.blk.warps.any (fun w => !w.ended) = true ∧ op.core < (tFlight op [5]).cores.length ∧ op.ctx < (tFlight op [5]).ctxs.length) ∧
    (∀ w ∈ a0.blk.warps, t0.epochClosed w = true) ∧
    (withCtx (fun c => { c with memExp := 1#32 }) t0).arg 0 = 0 ∧ ((withCtx (fun c => { c with memExp := 1#32 }) t0).ctx 0).memExp.getLsbD 0 = true ∧
    (t0.ctx 0).memExp.getLsbD 0 = false := by
  exact ⟨by decide +kernel, by decide +kernel, rfl, rfl, rfl⟩

/-- ATOM and ACAS at 0x10100, and ATOMS at scratchpad offset 0x40. -/
theorem witness_Atomics_issue :
    (let s := sV 0x10100#32 3#32
     let a := aV 0x10100#32 3#32
     s.Counts a tOps ∧ s.anyPx a (a.lanes tOps) (atomSrcs tOps false true) = false ∧
     (∀ l ∈ lanesOf (a.lanes tOps), (s.val a tOps.srcA l).toNat % 4 = 0 ∧ (s.val a tOps.srcA l).toNat + 4 ≤ 2 ^ 57) ∧
     (s.translateLanes a .write [(0, [(0x10100, 4)]), (1, [(0x10100, 4)])]).1.toOption =
       some [(0, [0x50100, 0x50101, 0x50102, 0x50103]), (1, [0x50100, 0x50101, 0x50102, 0x50103])] ∧
     s.serviceFits (sectorRequests [{ lane := 0, pa := 0x50100, b := 3, c := 0 }, { lane := 1, pa := 0x50100, b := 3, c := 0 }]) = true) ∧
    (let s := sV 0x40#32 3#32
     let a := aV 0x40#32 3#32
     s.Counts a tOps ∧ s.anyPx a (a.lanes tOps) (atomSrcs tOps false true) = false ∧
     ∀ l ∈ lanesOf (a.lanes tOps), (s.val a tOps.srcA l).toNat % 4 = 0 ∧ (s.val a tOps.srcA l).toNat + 4 ≤ s.spadSize a.blk) :=
  ⟨⟨⟨⟨rfl, rfl, by decide⟩, rfl⟩, rfl, by decide +kernel, by decide +kernel, by decide +kernel⟩,
   ⟨⟨⟨rfl, rfl, by decide⟩, rfl⟩, rfl, by decide +kernel⟩⟩

/-- An ADD of 3 by one lane at 0x50100, with and without a second sector; and one behind an earlier store of its warp. -/
def tAtom (reqs : List (Nat × List AtomLane)) : Op := { tLoad with kind := .atomic .add false 4 reqs (some 5) 4 }
def tServe (reqs : List (Nat × List AtomLane)) (more : List Op) : State :=
  { t0 with actor := .device, args := [2], ops := more ++ [tAtom reqs], service := [(2, 5, 0x2808)] }

theorem witness_Atomics_service :
    (∀ reqs ∈ [[(0x2808, [{ lane := 0, pa := 0x50100, b := 3, c := 0 }])], [(0x2808, [{ lane := 0, pa := 0x50100, b := 3, c := 0 }]), (0x2809, [])]],
      (tServe reqs []).service.find? (fun q => q.1 == 2) = some (2, 5, 0x2808) ∧ (tServe reqs []).op? 5 = some (tAtom reqs) ∧
      (reqs.find? fun r => r.1 == 0x2808) = some (0x2808, [{ lane := 0, pa := 0x50100, b := 3, c := 0 }]) ∧
      (tServe reqs []).earlierTouch 5 0 0 [0x50100, 0x50101, 0x50102, 0x50103] = false ∧
      (tServe reqs [{ tStore with id := 4 }]).earlierTouch 5 0 0 [0x50100, 0x50101, 0x50102, 0x50103] = true) ∧
    (∀ i, i < 4 → inWindow (0x50100 + i) = false ∧ t0.uncached (0x50100 + i) = false) ∧ overWf t0.l2 = true ∧
    atomFn .add false 32 5 3 0 = some 8 := by
  decide +kernel

theorem witness_FencesAndWaits :
    (∀ k ∈ [FenceKind.acq, .rel, .ar], t0.fenceMet a0 k 5 = true) ∧
    (let s : State := { t0 with ops := [tLoad] }
     s.Acts a0 tOps.gn tOps.g ∧ (∃ q ∈ s.ops, q.block = a0.bid ∧ q.warp = a0.wi ∧ ∃ ls, q.kind = .load ls) ∧ s.fenceMet a0 .acq 5 = false) ∧
    (let s : State := { t0 with ops := [tStore] }
     ∃ q ∈ s.ops, q.block = a0.bid ∧ q.warp = a0.wi ∧ ∃ ps, q.kind = .store ps) ∧
    ({ t0 with ops := [tStore] } : State).epochClosed { tWarp with writeEpoch := some (0, 0) } = false ∧
    (∀ q ∈ t0.ops, q.epoch ≠ some (0, nth 0 (nth [] t0.clocks 0) 0)) :=
  ⟨by decide +kernel, ⟨⟨rfl, rfl, by decide⟩, ⟨tLoad, by simp, rfl, rfl, _, rfl⟩, by decide +kernel⟩, ⟨tStore, by simp, rfl, rfl, _, rfl⟩,
   by decide +kernel, by decide⟩

/-- WAITA at 0x10100: the word 0 equals the expected 0, and differs from an expected 1; and its misaligned form. -/
def tEntry : WaitEntry :=
  { id := 3, block := 0, warp := 0, slot := 0, pa := 0x50100, mask := 1#32, expected := 1#32, cmp := .eq, dst := 5, start := 0
    there := true, hit := none, barred := false }

theorem witness_WaitEntries :
    (let s := sS 0x10100#32 0#32 1#32
     let a := sA 0x10100#32 0#32 1#32
     let o := { sOps with b := 8#8 }
     s.Acts a o.gn o.g ∧ s.pairVal a o.a true 0 = 0x10100 ∧ (∀ l, s.laneAddr a o.a true true (fun _ => 0) l = 0x10100) ∧
     (s.translate 0 0 0x10100 .read).1.toOption = some 0x50100 ∧ waitHolds .eq (0#32 &&& 1#32) (1#32 &&& 1#32) = false ∧
     waitHolds .ne (0#32 &&& 1#32) (1#32 &&& 1#32) = true ∧ (s.waits.filter fun y => sliceOf y.pa == sliceOf 0x50100).length < 256) ∧
    (∃ (s : State) (a : Actx), s.Acts a false 7#3 ∧ s.pairVal a 6#8 true 0 % 4 ≠ 0) ∧
    (let s : State := { t0 with waits := [tEntry] }
     s.waits.find? (fun e => e.id == 3) = some tEntry ∧ s.actxAt tEntry.block tEntry.warp tEntry.slot = some a0 ∧ tEntry.hit = none ∧
     bits (s.ctx a0.blk.ctx).memExp 20 16 ≠ 0) ∧
    ({ t0 with waits := [{ tEntry with hit := some 0 }] } : State).waits.find? (fun e => e.id == 3) = some { tEntry with hit := some 0 } :=
  ⟨⟨⟨rfl, rfl, by decide⟩, rfl, fun _ => rfl, by decide +kernel, rfl, rfl, by decide⟩,
   ⟨sS 2#32 0#32 0#32, sA 2#32 0#32 0#32, ⟨rfl, rfl, by decide⟩, by decide +kernel⟩, ⟨rfl, rfl, rfl, by decide⟩, rfl⟩

/-- A queue with header 0: RING 0x40, SIZE 4, ALLOW 3, HEAD 1, COUNT 1; and one of SIZE 4 whose ALLOW and COUNT are 0. -/
def tQueue (allow count : Nat) : List Host.Cell :=
  ({ ring := 0x40, size := 4, allow := allow, head := 1, count := count, rest := 1 } : QHead).bytes.zipIdx.filterMap fun x =>
    if x.1 = 0#8 then none else some (x.2, x.1)

/-- Queue 0 has an entry and allowance, or neither; its ring does not overlap its header. -/
theorem witness_QueuesAreFirstInFirstOut :
    let b := { tBlock [tWarp] with spad := tQueue 3 1 }
    let s := withSpad (tQueue 3 1) t0
    s.block? b.id = some b ∧ cellWf 0#8 b.spad = true ∧ (s.queue 0 0).ok (s.spadSize b) = true ∧ 16 * 0 + 16 ≤ (s.queue 0 0).ring ∧
    0 < (s.queue 0 0).allow ∧ 0 < (s.queue 0 0).count := by
  decide +kernel

/-- A PMAT.S of warp 0 whose value has not come. -/
def tPmats : Op := { tLoad with kind := .pmats [{ lane := 0, home := 3, slot := 0, ext := 4, keep := [] }] }

/-- The header lies in the scratchpad, is well formed when the warp's turn comes, and nothing earlier is left before it. -/
def turnsAt (s : State) (a : Actx) (o : Opnds) (allow count : Nat) : Bool :=
  let q := (s.queueTurn a o).queue a.bid (o.mod.toNat % 16)
  decide (16 * (o.mod.toNat % 16) + 16 ≤ s.spadSize a.blk) && decide ((s.drainSpad a.bid a.wi s.nextId s.ops.length).oldestSpad a.bid a.wi = none) &&
    q.ok (s.spadSize a.blk) && q.allow == allow && q.count == count && (s.queueTurn a o).fenceMet a .rel 0 && (s.queueTurn a o).fenceMet a .acq 0

theorem witness_Queues_headers :
    (let o := { sOps with mod := 0#6 }
     let s := withSpad (tQueue 3 1) (sS 0x40#32 4#32 0#32)
     let a := atSpad (tQueue 3 1) (sA 0x40#32 4#32 0#32)
     s.Acts a o.gn o.g ∧ turnsAt s a o 3 1 = true ∧
       ({ ring := 0x40, size := 4, allow := 4, head := 0, count := 0, rest := 1 } : QHead).ok (s.spadSize a.blk) = true) ∧
    (let s := withSpad (tQueue 0 0) (sS 0x40#32 0#32 0#32)
     let a := atSpad (tQueue 0 0) (sA 0x40#32 0#32 0#32)
     turnsAt s a sOps 0 0 = true ∧ (s.scalar a sOps.b true).toNat = 0) ∧
    ((t0.queueTurn a0 sOps).queue 0 0).ok (t0.spadSize a0.blk) = false ∧
    ({ ring := 0xFFFF0, size := 4096, allow := 4096, head := 0, count := 0, rest := 1 } : QHead).ok (t0.spadSize a0.blk) = false ∧
    (({ t0 with records := [{ tRecord with obj := some { tObj with variants := [] } }] } : State).spadSize a0.blk) < 16 * 0 + 16 ∧
    (({ t0 with ops := [tPmats] } : State).drainSpad 0 0 t0.nextId 1).oldestSpad 0 0 ≠ none := by
  exact ⟨⟨⟨rfl, rfl, by decide⟩, by decide +kernel, by decide +kernel⟩, ⟨by decide +kernel, by decide +kernel⟩, by decide +kernel, by decide +kernel,
    by decide +kernel, by decide +kernel⟩

/-- A push and a pop that wait at queue 0. -/
def tWaiter (push : Bool) : QWaiter := { warp := 0, slot := 0, queue := 0, push := push, handle := 9#32, dst := 5#8, po := 0 }
def tWaiting (push : Bool) (spad : List Host.Cell) (args : List Nat) : State :=
  { t0 with actor := .device, args := args
            blocks := [{ tBlock [asleep .blocked] with qwait := [tWaiter push], spad := spad }] }

theorem witness_Queues_events :
    (∀ push ∈ [true, false], let s := tWaiting push (tQueue 3 1) [0, 0, if push then 1 else 0]
      (s.block? 0).bind (fun b => b.front 0 (s.arg 2 == 1)) = some (tWaiter push) ∧ (s.queue 0 0).ok (s.spadSize a0.blk) = true ∧
      (s.queue 0 0).room (s.arg 2 == 1) = true) ∧
    (tState [asleep .blocked]).actxAt 0 0 0 = some (tAx [asleep .blocked]) ∧
    (∃ (s : State) (b : Block) (w : Warp), s.block? (s.arg 0) = some b ∧ s.queueStuck b = true ∧ b.warps[0]? = some w ∧ w.ended = false) ∧
    (∃ (s : State) (b : Block), s.block? (s.arg 0) = some b ∧ s.queueStuck b = false) :=
  ⟨by decide +kernel, rfl, ⟨tWaiting true (tQueue 0 0) [0], { tBlock [asleep .blocked] with qwait := [tWaiter true], spad := tQueue 0 0 },
   asleep .blocked, rfl, by decide +kernel, rfl, rfl⟩, ⟨t0, a0.blk, rfl, by decide +kernel⟩⟩

/-- Context 0 with a page table that maps its first 512 MiB to themselves, for reads, writes and code, and these bytes
beside it. -/
def tPages (bs : List Host.Cell) (s : State) : State :=
  { withCtx (fun c => { c with ptRoot := 0x20000#64, qdBase := 0x30000#64, trapVec := 0x11000#64, trapLen := 0x100#32 }) s with
    l2 := bs ++ [(0x20000, 3#8), (0x20001, 0x10#8), (0x20002, 2#8), (0x21000, 3#8), (0x21001, 0x20#8), (0x21002, 2#8), (0x22000, 0xE3#8)] }

/-- Queue 0's descriptor: ring 0x31000 of 16 records, enabled, TAIL as given; and a record of kernel object 0x10000 with one
block and this JOIN at physical address 0x50100. -/
def tDescriptor (tail : Byte) : List Host.Cell := [(0x30001, 0x10#8), (0x30002, 3#8), (0x30008, 4#8), (0x30009, 1#8), (0x30010, tail)]
def tRec (join ctx : Byte) : List Host.Cell :=
  [(0x50102, 1#8), (0x50108, ctx), (0x5010C, join), (0x50114, 1#8), (0x50124, 1#8), (0x50128, 1#8), (0x5012A, 1#8)]
def tSpawn (tail join ctx : Byte) : State :=
  let s := tPages [] (sS 0x10100#32 0#32 0#32)
  { s with l2 := s.l2 ++ tDescriptor tail ++ tRec join ctx }
def tSpawnA : Actx := sA 0x10100#32 0#32 0#32

/-- The 64 bytes of the record as one number, with its JOIN and context. -/
def tRecNat (join ctx : Nat) : Nat := 0x10000 + ctx * 2 ^ 64 + join * 2 ^ 96 + 2 ^ 160 + 2 ^ 288 + 2 ^ 320 + 2 ^ 336

/-- A good record of a queue with room, one whose JOIN is 1, one whose queue is full and one of another context. -/
theorem witness_SpawnsDecrementsAndPhases_spawn :
    (tSpawn 0#8 0#8 0#8).Counts tSpawnA sOps ∧ (tSpawn 0#8 0#8 0#8).storesOpen tSpawnA = false ∧
    ({ tSpawn 0#8 0#8 0#8 with ops := [tStore] } : State).storesOpen tSpawnA = true ∧
    (∀ x ∈ [(0, 0), (1, 0), (0, 1)], (Rec.ofNat (tRecNat x.1 x.2)).valid 0 = (x.2 == 0) ∧ (Rec.ofNat (tRecNat x.1 x.2)).join = x.1 ∧
      (Rec.ofNat (tRecNat x.1 x.2)).ctx = x.2 ∧ (Rec.ofNat (tRecNat x.1 x.2)).qid = 0) ∧
    (∀ tail ∈ [0, 16], let d := QDesc.ofNat (0x31000 + 0x104 * 2 ^ 64 + tail * 2 ^ 128)
      d.ok = true ∧ d.en = true ∧ d.host = false ∧ d.ctx = 0 ∧ d.full = (tail == 16)) := by
  refine ⟨⟨⟨rfl, rfl, by decide⟩, rfl⟩, ?_⟩
  decide +kernel

theorem witness_SpawnsDecrementsAndPhases_record : leNat ((tSpawn 0#8 1#8 0#8).readPhys 0x50100 64) = tRecNat 1 0 := by
  decide +kernel

theorem witness_SpawnsDecrementsAndPhases_queue :
    (tSpawn 16#8 0#8 0#8).qdesc 0 0 = some (QDesc.ofNat (0x31000 + 0x104 * 2 ^ 64 + 16 * 2 ^ 128)) ∧
    ((tSpawn 0#8 0#8 0#8).walk 0 0x31000 .write).isOk = true ∧ ((tSpawn 0#8 0#8 0#8).translate 0 0 0x10100 .read).1.toOption = some 0x50100 := by
  decide +kernel

theorem witness_SpawnsDecrementsAndPhases_jdec :
    (let s := tSpawn 0#8 2#8 0#8
     s.earlierTouch s.nextId 0 0 ((List.range 64).map (0x50100 + ·)) = false ∧ (s.service.filter fun q => q.1 == atomicOwner 0x50100).length < 256) ∧
    (∀ j ∈ [0#8, 1#8, 2#8], leNat ((tSpawn 0#8 j 0#8).readPhys (0x50100 + 12) 4) = j.toNat) ∧ inWindow 0x50100 = false ∧
    (∃ (s : State) (a : Actx), s.Counts a sOps ∧ (s.scalar a sOps.a true).toNat % 64 ≠ 0) :=
  ⟨by decide +kernel, by decide +kernel, rfl, ⟨sS 4#32 0#32 0#32, sA 4#32 0#32 0#32, ⟨⟨rfl, rfl, by decide⟩, rfl⟩, by decide⟩⟩

/-- A size-class table of one class, limit 5 and code 0x80, at offset 0x100 of the kernel object. -/
def tClassed : State :=
  let v : Variant := { swmap := 0, sctab := 0x100, entry := 64, accl := 4, spad := 4, nwarp := 1, regb := 12 }
  { sS 3#32 0#32 0#32 with records := [{ tRecord with obj := some { tObj with variants := [v] } }]
                           l2 := [(0x50100, 1#8), (0x50108, 0x80#8), (0x5010C, 5#8)] }

theorem witness_SpawnsDecrementsAndPhases_phase :
    (let s := tClassed
     (s.variantOf a0.blk).map (·.sctab) = some 0x100 ∧ (s.readTable (sA 3#32 0#32 0#32) 0x10100 8).1.toOption = some (leBytes 8 1) ∧
     (s.readTable (sA 3#32 0#32 0#32) 0x10108 8).1.toOption = some (leBytes 8 0x500000080) ∧
     classEntries (leBytes 8 0x500000080) 1 = [(5, 0x80)] ∧ ascending [5] = true ∧ tObj.codestart ≤ 0x80 ∧ 0x80 < tObj.codelim) ∧
    (t0.variantOf a0.blk).map (·.sctab) = some 0 := by
  decide +kernel

/-- A core's pool with room; a warp of 30 blocks; and a pool that other warps have used up, with its reserve free, held and
empty. -/
def tRegs (b : Nat) : Warp := { tWarp with b := b, vregs := List.replicate (8 * b) VReg.zero }
def tCrowd (n fromReserve : Nat) : State :=
  { t0 with blocks := [tBlock [tWarp], { tBlock (List.replicate n (tRegs 30) ++ [{ tRegs 30 with fromReserve := fromReserve }]) with id := 1 }] }

theorem witness_BlocksOfRegistersAndSwitches_blocks :
    (let n := 3
     t0.Acts a0 false 7#3 ∧ a0.w.b + n ≤ 30 ∧ n ≤ t0.poolFree 0 ∧ 30 < (tRegs 30).b + n ∧ (t0.core 0).holder = none ∧
     (tCrowd 70 0).poolFree 0 < n ∧ n ≤ (tCrowd 70 0).reserveFree 0 ∧ (tCrowd 70 30).reserveFree 0 < n ∧
     bits (t0.ctx 0).schedExp 12 8 ≠ 0 ∧ bits ((withCtx (fun c => { c with schedExp := 0#32 }) t0).ctx 0).schedExp 12 8 = 0) ∧
    (t0.variantOf a0.blk).map (·.regb) = some 30 ∧ (tRegs 12).vregs.length = 8 * (tRegs 12).b :=
  ⟨⟨⟨rfl, rfl, by decide⟩, by decide +kernel⟩, rfl, by decide +kernel⟩

/-- Warp 0 is parked for 3 blocks since cycle 0. -/
def tParked (args : List Nat) (cycle : Nat) : State :=
  { tState [asleep .blocked] with
    actor := .device, args := args, cyc := List.replicate 32 (BitVec.ofNat 64 cycle)
    cores := setNth State.reset.cores 0 { Core.idle with ctx := some 0, parks := [(0, 0, 0, 3, 0)] } }

theorem witness_BlocksOfRegistersAndSwitches_parks :
    (let s := tParked [0] 0
     (s.core (s.arg 0)).parks = (0, 0, 0, 3, 0) :: [] ∧ s.actxAt 0 0 0 = some (tAx [asleep .blocked]) ∧ 3 ≤ s.poolFree 0) ∧
    (let s := tParked [0, 0, 0] (2 ^ 21)
     s.actxAt (s.arg 0) (s.arg 1) (s.arg 2) = some (tAx [asleep .blocked]) ∧
     (s.core 0).parks.find? (fun p => p.1 == 0 && p.2.1 == 0 && p.2.2.1 == 0) = some (0, 0, 0, 3, 0) ∧
     0 + 2 ^ min (bits (s.ctx 0).schedExp 12 8) 30 < s.cycle (clusterOf 0)) :=
  ⟨⟨rfl, rfl, by decide +kernel⟩, ⟨rfl, rfl, by decide +kernel⟩⟩

/-- A posted request for variant 1, and a warp of lanes 0 to 3 only. -/
def tRequest : Reshape := { target := 1, grow := false, record := none, extra := 0, warps := 0, spadBase := 0, accBase := 0 }
def fourLanes : Warp := { tWarp with exited := 0xFFFFFFF0#32 }
def tSwitch (x : SwitchWait) (w : Warp) (cycle : Nat) : State :=
  { tState [w] with
    actor := .device, args := [0], cyc := List.replicate 32 (BitVec.ofNat 64 cycle)
    blocks := [{ tBlock [w] with reshape := some tRequest, switches := [x] }] }

theorem witness_BlocksOfRegistersAndSwitches_arrivals :
    (let a := { tAx [fourLanes] with blk := { tBlock [fourLanes] with reshape := some tRequest } }
     ({ tState [fourLanes] with blocks := [a.blk] } : State).Acts a false 7#3 ∧ a.lanes tOps = ~~~a.w.exited ∧ a.w.path (1 - a.slot) = none ∧
     a.w.stack = [] ∧ a.blk.reshape ≠ none ∧ a.w.frame = none ∧ a.p.wait = .ready) ∧
    a0.lanes tOps ≠ ~~~a0.w.exited ∧
    (let x : SwitchWait := { k := 2, start := 0, arrived := [], spoiled := false, whole := false, passed := false }
     (tSwitch x tWarp 2000).block? 0 = some { tBlock [tWarp] with reshape := some tRequest, switches := [x] } ∧
     (tBlock [tWarp]).allArrived x = false ∧ x.start + 1024 ≤ (tSwitch x tWarp 2000).cycle (clusterOf 0) ∧
     (tSwitch x tWarp 0).cycle (clusterOf 0) < x.start + 1024 ∧ (tBlock [tWarp]).allArrived { x with arrived := [(0, 0)] } = true) :=
  ⟨⟨⟨rfl, rfl, by decide⟩, rfl, rfl, rfl, by decide, rfl, rfl⟩, by decide, by decide +kernel⟩

/-- A kernel object with a switch map at offset 0x300, from point 2 to variant 1 at RESUME 0x48, where SWPT 2 stands before a
header. -/
def tMapped (swmap : Nat) : State :=
  let v : Variant := { swmap := swmap, sctab := 0, entry := 64, accl := 4, spad := 4, nwarp := 1, regb := 12 }
  { tPages [(0x1004A, 7#8), (0x1004B, 2#8), (0x1004F, 0x12#8), (0x10053, 0x10#8), (0x10057, 0x7F#8), (0x10300, 1#8), (0x10302, 0x21#8),
      (0x10304, 0x48#8)] (tSwitch { k := 2, start := 0, arrived := [(0, 0)], spoiled := false, whole := true, passed := false } tWarp 0) with
    records := [{ tRecord with obj := some { tObj with variants := [v, { v with swmap := 0 }] } }] }

theorem witness_BlocksOfRegistersAndSwitches_maps :
    (let s := tMapped 0x300
     let m : SwitchMap := { target := 1, resume := 0x48, entries := [] }
     let v : Variant := { swmap := 0x300, sctab := 0, entry := 64, accl := 4, spad := 4, nwarp := 1, regb := 12 }
     (s.blockMap (tBlock [tWarp]) fun k t => k == 2 && t == 1).toOption = some (.found m) ∧
     s.mapOk 0 0x10000 { tObj with variants := [v, { v with swmap := 0 }] } v { v with swmap := 0 } 2 m = true ∧ s.switchDrained 0 = true) ∧
    ((tMapped 0).blockMap (tBlock [tWarp]) fun k t => k == 2 && t == 1).toOption = some .absent := by
  decide +kernel

/-- XPAIR of core 8, in another cluster, with key 5: a partner that is not one, a full table, a matching offer, none, and no wait. -/
def tPairing (offers : List Offer) (pairs : List WarpPair) : State :=
  { withCtx (fun c => { c with coreMask := List.replicate 8 0xFFFFFFFF#32 }) (sS 8#32 5#32 0#32) with offers := offers, pairs := pairs }
def tOffer : Offer := { block := 1, warp := 0, slot := 0, core := 8, partner := 0, key := 5#32, dst := 9, start := 0 }
def tPair (post0 post1 : Option Post) : WarpPair :=
  { id := 4, block0 := 0, warp0 := 0, block1 := 1, warp1 := 0, cluster := 0, post0 := post0, post1 := post1, owed0 := none, owed1 := none, count := 0 }

theorem witness_PairsOfWarps_xpair :
    (let s := tPairing [] []
     let a := sA 8#32 5#32 0#32
     s.Acts a false 7#3 ∧ (s.scalar a 6#8 true).toNat = 8 ∧ clusterOf 8 ≠ clusterOf a.core ∧ (s.ctx 0).inPartition 8 = true ∧
     bits (s.ctx 0).schedExp 20 16 ≠ 0) ∧
    clusterOf 1 = clusterOf 0 ∧
    (∃ s : State, 64 ≤ (s.pairs.filter fun p => p.cluster == clusterOf (min 8 0)).length ∧ s = tPairing [] (List.replicate 64 { tPair none none with block0 := 7, block1 := 8 })) ∧
    (let s := { tPairing [tOffer] [] with blocks := [tBlock [sW 8#32 5#32 0#32], { tBlock [tWarp] with id := 1, loc := .core 8 }] }
     s.offers.find? (fun q => q.core == 8 && q.partner == 0 && q.key == 5#32 && ((s.block? q.block).map (·.ctx)) == some 0) = some tOffer) ∧
    bits ((withCtx (fun c => { c with schedExp := 0#32 }) t0).ctx 0).schedExp 20 16 = 0 :=
  ⟨⟨⟨rfl, rfl, by decide⟩, rfl, by decide, rfl, by decide⟩, rfl, ⟨_, by decide +kernel, rfl⟩, by decide +kernel, rfl⟩

/-- Both posts of a pair, in lanes 0 to 3 of each warp. -/
def tPost : Post := { slot := 0, active := 0xF#32, vals := List.replicate 32 7#32, dst := 5#8, pc := 1 }

theorem witness_PairsOfWarps_posts :
    (let s : State := { tState [asleep .blocked] with
       actor := .device, args := [0, 0, 0], offers := [{ tOffer with block := 0, core := 0 }], cyc := List.replicate 32 0x100000#64 }
     s.offers.find? (fun q => q.block == s.arg 0 && q.warp == s.arg 1 && q.slot == s.arg 2) = some { tOffer with block := 0, core := 0 } ∧
     (s.block? 0).isSome = true ∧ 0 + 2 ^ min (bits (s.ctx 0).schedExp 20 16) 30 ≤ s.cycle (clusterOf 0)) ∧
    t0.ActsOn a0 tOps [tOps.srcA] ∧ t0.pairOf 0 0 = none ∧
    ({ t0 with pairs := [tPair none (some tPost)] } : State).pairOf 0 0 = some (tPair none (some tPost)) ∧
    (let s : State := { t0 with actor := .device, args := [4], pairs := [tPair (some tPost) (some tPost)] }
     s.pairs.find? (fun p => p.id == s.arg 0) = some (tPair (some tPost) (some tPost)) ∧ s.actxAt 0 0 tPost.slot = some a0 ∧
     tPost.active &&& tPost.active ≠ 0#32) :=
  ⟨by decide +kernel, ⟨⟨rfl, rfl, by decide⟩, rfl⟩, rfl, rfl, ⟨rfl, rfl, by decide⟩⟩

/-- Context 0 has a handler at 0x11000. -/
def tHandled (w : Warp) : State := withCtx (fun c => { c with trapVec := 0x11000#64, trapLen := 0x100#32 }) (tState [w])

theorem witness_TrapEntryAndReturn_entry :
    (let s := tHandled tWarp
     s.warp? 0 0 = some (tBlock [tWarp], tWarp) ∧ tWarp.path 0 = some tPath ∧ (tBlock [tWarp]).core? = some 0 ∧ tWarp.frame = none ∧
     (s.ctx 0).trapVec ≠ 0#64 ∧ s.drained 0 0 tWarp = true ∧ (tBlock [tWarp]).switching = false ∧ s.lendable 0 = some false) ∧
    (let t : Trap := { code := 0x10#8, detail := 0#8, addr := 0#64, slot := 0, skip := true, seq := 0 }
     let w := { tWarp with trap := some t }
     let s := { tHandled w with actor := .device, args := [0, 0] }
     s.warp? (s.arg 0) (s.arg 1) = some (tBlock [w], w) ∧ w.ended = false ∧ s.drained 0 0 w = true ∧ s.lendable 0 = some false) ∧
    ((t0.ctx 0).trapVec = 0#64 ∧ a0.blk.ending = none ∧ ∀ o ∈ t0.ops, o.block = 0 → o.kind.isStore = false) ∧
    (∃ (s : State) (blk : Block), s.block? (s.arg 0) = some blk ∧ blk.ending ≠ none ∧ ∀ o ∈ s.ops, o.block = s.arg 0 → o.kind.isStore = false) :=
  ⟨⟨rfl, rfl, rfl, rfl, by decide, by decide +kernel, rfl, by decide +kernel⟩, ⟨rfl, rfl, by decide +kernel, by decide +kernel⟩,
   ⟨rfl, rfl, by decide⟩, ⟨{ t0 with blocks := [{ a0.blk with ending := some (0x10, 0, 0#64, 0#64) }] }, _, rfl, by decide, by decide⟩⟩

/-- A warp in its handler, entered by lanes 0 to 3 of slot 0. -/
def tInHandler : Warp :=
  { tWarp with
    trapMask := 0xF#32, trapPc := 0x10080#64, trapCause := 0x20010#32, lent := lentBlock, vregs := List.replicate 240 VReg.zero, b := 30
    path1 := some { tPath with mask := 0xF0#32, held := true }
    frame := some { vregs := List.replicate 8 VReg.zero, sregs := List.replicate 8 5#32, latches := [], clause := { s1 := none, s2 := none, left := 3 }
                    slot := 0, wait := .ready, fromReserve := false } }

theorem witness_TrapEntryAndReturn_return :
    (let s := tState [tInHandler]
     let a := tAx [tInHandler]
     s.Acts a false 7#3 ∧ a.lanes tOps = a.w.trapMask ∧ s.busy 0 0 = false ∧ a.w.pending = false ∧ s.warp? 0 0 = some (a.blk, a.w) ∧
     a.w.path 0 = some a.p ∧ a.w.sregs.length = 96 ∧ (a.w.frame.map fun f => (f.sregs.length, f.vregs.length)) = some (8, (a.w.vregs.drop 232).length) ∧
     a.w.vregs.length ≤ 240 ∧ a.w.path 1 ≠ none ∧ a.w.trapCause.getLsbD 17 = true) ∧
    (t0.Acts a0 false 7#3 ∧ a0.w.frame = none) :=
  ⟨⟨⟨rfl, rfl, by decide⟩, rfl, rfl, by decide +kernel, rfl, rfl, by decide, by decide +kernel, by decide +kernel, by decide, rfl⟩,
   ⟨⟨rfl, rfl, by decide⟩, rfl⟩⟩

theorem witness_ControlRegisterInstructions :
    (∃ (o : Opnds) (s : State) (a : Actx), s.Acts a o.gn o.g ∧ o.imm16.toNat % 4096 = 0x020 ∧ (s.core a.core).engErr = none) ∧
    ({ t0 with cores := setNth t0.cores 0 { t0.core 0 with engErr := some 4#57 } } : State).core 0 = { t0.core 0 with engErr := some 4#57 } ∧
    (∀ num ∈ [0x020, 0x021, 0x02C, 0x024], let op := { tLoad with kind := .csrw 0 num 3#32 }
      (tFlight op [5]).op? 5 = some op ∧ op.ctx < (tFlight op [5]).ctxs.length ∧ ((tFlight op [5]).ctx 0).pxLost.length = 8) :=
  ⟨⟨{ tOps with b := 0#8, c := 0x20#8 }, t0, a0, ⟨rfl, rfl, by decide⟩, rfl, rfl⟩, rfl, by decide +kernel⟩

/-- A block that has stopped, one whose fetch met an absent page and one that is to be replayed. -/
def tLeaving (b : Block) (f : List FaultWait) : State := { tState [tWarp] with actor := .device, args := [0, 0], blocks := [b], faultWaits := f }
def tFault (w : FaultWaiter) (passed : Bool) : FaultWait :=
  { id := 6, ctx := 0, va := 0x12000, write := false, fetch := true, waiter := w, seq := some 0#32, passed := passed, pc := 0#64, core := 0, code := 4 }

theorem witness_BlocksLeaveAndReturn :
    (let b := { tBlock [tWarp] with stopping := true }
     (tLeaving b []).block? 0 = some b ∧ b.core? = some 0 ∧ b.ending = none ∧ b.switches = [] ∧ (tLeaving b []).savable b = true ∧
     (tLeaving b []).blockHeld 0 = false) ∧
    (∃ f ∈ (tLeaving (tBlock [tWarp]) [tFault (.swap 0) false]).faultWaits, f.waiter = .swap 0) ∧
    (∃ f ∈ (tLeaving (tBlock [tWarp]) [tFault (.replay 0) false]).faultWaits, f.waiter = .replay 0) ∧
    (∀ l ∈ [Where.resume, .fresh], let b := { tBlock [tWarp] with loc := l }
     let s := withCtx (fun c => { c with coreMask := List.replicate 8 1#32, partWord := 0x8210#32 }) (tLeaving b [])
     s.block? 0 = some b ∧ s.mayRestore b 0 = true ∧ (s.fits 0 0 (s.savedNeed b)).isSome = true ∧
     (s.firstFit 0 0 tObj).isSome = true ∧ s.record? b.record = some tRecord) :=
  ⟨⟨rfl, rfl, rfl, rfl, by decide +kernel, rfl⟩, ⟨tFault (.swap 0) false, List.mem_singleton_self _, rfl⟩,
   ⟨tFault (.replay 0) false, List.mem_singleton_self _, rfl⟩, by decide +kernel⟩

/-- A fault ring of 16 records at 0x12000 that holds none, and one record held for it; and a full ring. -/
def tRing (tail : Word) (s : State) : State :=
  withCtx (fun c => { c with frBase := 0x12004#64, frTail := tail
                             heldRecs := [{ addr := 0#64, pc := 0#64, core := 0, kind := 0, detail := 1#8, code := 4#8, wait := none }] }) s

theorem witness_FaultRecordsAndContexts_records :
    (let s := tRing 0#32 { t0 with args := [0] }
     (s.ctx 0).ringLog = some 4 ∧ (s.ctx 0).heldRecs ≠ [] ∧ 0 < s.ctxs.length ∧ ((s.ctx 0).frTail - (s.ctx 0).frHead).toNat < 2 ^ 4) ∧
    (t0.ctx 0).ringLog = none ∧ t0.dev.ready = true := by
  decide +kernel

theorem witness_FaultRecordsAndContexts_rewalk :
    (∀ passed ∈ [true, false], ({ t0 with args := [6], faultWaits := [tFault (.swap 0) passed] } : State).faultWaits.find? (fun x => x.id == 6) =
      some (tFault (.swap 0) passed)) ∧
    (let f := { tFault (.warp 0 0 0) true with fetch := false }
     let s := { tPages [] (tState [asleep (.parked 6)]) with args := [6], faultWaits := [f] }
     s.waiterAway f = true ∧ (s.walk 0 0x12000 f.access).isOk = true ∧ s.warp? 0 0 = some (tBlock [asleep (.parked 6)], asleep (.parked 6)) ∧
     (asleep (.parked 6)).path 0 = some { tPath with wait := .parked 6 }) ∧
    (let s := { tPages [] t0 with l2 := [(0x20000, 3#8), (0x20001, 0x10#8), (0x20002, 2#8), (0x21000, 3#8), (0x21001, 0x20#8), (0x21002, 2#8), (0x22000, 0xE1#8)] }
     (match s.walk 0 0x12000 .read with | .error d => d == 0x01 | .ok _ => false) = true) :=
  ⟨by decide +kernel, ⟨rfl, by decide +kernel, rfl, rfl⟩, by decide +kernel⟩

theorem witness_FaultRecordsAndContexts_contexts :
    (let s : State := { t0 with actor := .device, args := [0], blocks := [{ tBlock [tWarp] with loc := .resume }] }
     s.dev.ready = true ∧ s.arg 0 < s.ctxs.length ∧ s.ctxIdle 0 = true ∧ (s.ctx 0).live = true ∧ (s.ctx 0).pwBase = 0#64 ∧
     ((withCtx (fun c => { c with pwBase := 0x1000#64 }) s).ctx 0).pwBase ≠ 0#64) ∧
    t0.ctxIdle 0 = false := by
  decide +kernel

/-- The stop of core 0 passes rank 0 at tick 0: a stitch of context 0 at position 0, and a request of warp 0 for its handle. -/
def tStitch (hold : Bool) : Stitch :=
  { payload := List.replicate 8 3#32, visible := List.replicate 8 2#32, ctx := 0, hold := hold, serial := 4#32, res := none, captured := 0 }
def tReq (k : CircKind) : CircReq :=
  { id := 8, block := 0, warp := 0, slot := 0, core := 0, ctx := 0, kind := k, handle := 0#32, dst := 8, active := 0xF#32
    claimed := true, passed := false, mine := false }
def tHolder (hs : List HoldRec) : Warp := { asleep .blocked with holds := hs }
def tRinged (x : Option Stitch) (k : CircKind) (hs : List HoldRec) : State :=
  { tState [tHolder hs] with
    actor := .device, args := [0, 0]
    ring := { Ring.cleared with pos := setNth Ring.cleared.pos 0 { gen := 0#5, stitch := x }, reqs := [tReq k] } }

theorem ring_alone (x : Option Stitch) (k : CircKind) (hs : List HoldRec) :
    (tRinged x k hs).AloneAtStop (tReq k) 0 (tAx [tHolder hs]) :=
  ⟨rfl, rfl, rfl, (by decide : 0 < 256), (by decide : 0 / 4 = (0 + 640 - stopOf 0) % 320), rfl, rfl, (setNth_length _ _ _).trans List.length_replicate, rfl, (by decide : 0 < 2), rfl⟩

theorem ring_stitch (k : CircKind) (hold : Bool) (hs : List HoldRec) (h : (tRinged (some (tStitch hold)) k hs).stolen (tStitch hold) = false) :
    (tRinged (some (tStitch hold)) k hs).AtStitch (tReq k) 0 (tAx [tHolder hs]) (tStitch hold) :=
  ⟨ring_alone _ _ _, (by decide : 8 + 8 ≤ 96), (by decide : bits 0#32 10 0 = 0), rfl, rfl, (by decide : (0#5).toNat = bits 0#32 15 11), h, rfl⟩

theorem witness_CircularPasses :
    (tRinged (some (tStitch false)) .peek []).AtStitch (tReq .peek) 0 (tAx [tHolder []]) (tStitch false) ∧
    (tRinged (some (tStitch false)) .cap []).AtStitch (tReq .cap) 0 (tAx [tHolder []]) (tStitch false) ∧
    (tRinged (some (tStitch false)) .bind []).AtStitch (tReq .bind) 0 (tAx [tHolder []]) (tStitch false) ∧
    (let hs : List HoldRec := [{ handle := 0#32, serial := 4#32 }]
     (tRinged (some (tStitch true)) (.wr true [] 1) hs).AtStitch (tReq (.wr true [] 1)) 0 (tAx [tHolder hs]) (tStitch true) ∧
     (tRinged (some (tStitch true)) (.rel 1) hs).AtStitch (tReq (.rel 1)) 0 (tAx [tHolder hs]) (tStitch true)) ∧
    ((tRinged none (.cast []) []).AloneAtStop (tReq (.cast [])) 0 (tAx [tHolder []]) ∧ ((tRinged none (.cast []) []).ring.at 0).stitch = none) ∧
    ((tRinged none .peek []).AloneAtStop (tReq .peek) 0 (tAx [tHolder []]) ∧ (tReq .peek).isCast = false ∧ bits (tReq .peek).handle 10 0 = 0) :=
  ⟨ring_stitch _ _ _ rfl, ring_stitch _ _ _ rfl, ring_stitch _ _ _ rfl, ⟨ring_stitch _ _ _ (by decide), ring_stitch _ _ _ (by decide)⟩,
   ⟨ring_alone _ _ _, rfl⟩, ring_alone _ _ _, rfl, rfl⟩

theorem witness_CircularInstructionsAndTime :
    (let bad (h : Word) : Bool := bits h 31 16 != 0 || decide (1280 ≤ bits h 10 0)
     bad 0#32 = false ∧ bad 0x10000#32 = true ∧ bad 1280#32 = true) ∧
    (let w := { sW 1#32 0#32 0#32 with holds := List.replicate 4 { handle := 0#32, serial := 0#32 } }
     (tState [w]).Acts (tAx [w]) false 7#3 ∧ 4 ≤ (w.holds.filter fun r => r.handle != (tState [w]).scalar (tAx [w]) 6#8 true).length) ∧
    (let w := { tWarp with turn := some 0, gate := some 0 }
     (tState [w]).Acts (tAx [w]) false 7#3) ∧
    (let s := { tRinged none (.cast []) [] with ring := { Ring.cleared with reqs := [{ tReq (.cast []) with claimed := false }] } }
     (s.ring.reqs.find? fun x => x.isCast && !x.claimed).isSome = true ∧ s.circUsed 0 < (s.ctx 0).circLimit ∧ s.circFull < 1024 ∧
     ((withCtx (fun c => { c with circLimit := 0 }) s).ctx 0).circLimit ≤ s.circUsed 0) :=
  ⟨⟨rfl, rfl, rfl⟩, ⟨⟨rfl, rfl, by decide⟩, by decide +kernel⟩, ⟨rfl, rfl, by decide⟩, by decide +kernel⟩

theorem witness_CircularTime :
    (let s := { tRinged (some (tStitch true)) .peek [] with ring := { (tRinged (some (tStitch true)) .peek []).ring with stopsDone := [0] } }
     s.ring.seamDone = false ∧ s.ring.stopsDone.contains 0 = true) ∧
    (let s := { tRinged (some (tStitch true)) .peek [] with ring := { (tRinged (some (tStitch true)) .peek []).ring with tick := 320 * 64 } }
     (s.ring.at 0).stitch = some (tStitch true) ∧ bits (s.ctx 0).circExp 15 0 = 64 ∧ (tStitch true).captured + 64 ≤ s.ring.tick / 320) ∧
    (tRinged (some (tStitch true)) .peek []).ring.tick / 320 < (tStitch true).captured + bits ((tRinged none .peek []).ctx 0).circExp 15 0 ∧
    (let q : Release := { core := 0, ctx := 0, handle := 0#32, serial := 4#32 }
     let s := { tRinged (some (tStitch true)) .peek [] with ring := { (tRinged (some (tStitch true)) .peek []).ring with releases := [q] } }
     s.arg 1 / 4 = s.rankAt (s.arg 0) ∧ s.ring.stopsDone.contains 0 = false ∧ bits q.handle 10 0 = s.arg 1 ∧
     (s.ring.at 0).gen.toNat = bits q.handle 15 11 ∧ (tStitch true).serial = q.serial) :=
  ⟨⟨rfl, rfl⟩, ⟨rfl, rfl, by decide⟩, by decide, ⟨rfl, rfl, rfl, rfl, rfl⟩⟩

/-- A request of 20 × 8 × 16 in S6, and one of no rows. -/
theorem witness_ShapesAreGranted :
    ((sS 0x100814#32 0#32 0#32).Acts (sA 0x100814#32 0#32 0#32) false 7#3 ∧
     ((sS 0x100814#32 0#32 0#32).scalar (sA 0x100814#32 0#32 0#32) 6#8 true).toNat = 20 + 8 * 2 ^ 8 + 16 * 2 ^ 16) ∧
    ((sS 0x100800#32 0#32 0#32).scalar (sA 0x100800#32 0#32 0#32) 6#8 true).toNat % 2 ^ 8 = 0 :=
  ⟨⟨⟨rfl, rfl, by decide⟩, by decide⟩, by decide⟩

/-- A granted shape of 8-bit integers, 16 × 8 × 16, with its fragments in V20 and V24; the format word accumulates in INT32. -/
def tShape (chg : Bool) : Shape :=
  { v := true, chg := chg, fmt := 5#3, reqM := 16#8, reqN := 8#8, reqK := 16#9, gm := 16#7, gn := 8#8, gk := 16#9, tm := 0#7, tn := 0#8, tk := 0#9 }
def fullPath : Path := { tPath with mask := 0xFFFFFFFF#32 }
def tMat (x : Shape) : Warp := { withV 8 0x155#32 false tWarp with path0 := some fullPath, shapes := setNth tWarp.shapes 0 x }
def mmaOps : Opnds := { tOps with d := 0#8, a := 20#8, b := 24#8, c := 8#8 }

theorem witness_ShapesAreReadAndKept :
    (t0.Acts a0 false 7#3 ∧ (nth Shape.none a0.w.shapes 0).v = false) ∧
    ((tState [tMat (tShape false)]).Acts (tAx [tMat (tShape false)]) false 7#3 ∧ (nth Shape.none (tMat (tShape false)).shapes 0).v = true) ∧
    (0 < (tShape false).reqM.toNat ∧ 0 < (tShape false).reqN.toNat ∧ 0 < (tShape false).reqK.toNat) :=
  ⟨⟨⟨rfl, rfl, by decide⟩, rfl⟩, ⟨⟨rfl, rfl, by decide⟩, rfl⟩, by decide⟩

theorem witness_MatrixTiles_traps :
    (t0.Acts a0 false 7#3 ∧ a0.lanes mmaOps ≠ BitVec.allOnes 32) ∧
    (∀ x ∈ [Shape.none, tShape true, tShape false], (tAx [tMat x]).lanes mmaOps = BitVec.allOnes 32) ∧
    (nth Shape.none (tMat Shape.none).shapes 0).v = false ∧ (nth Shape.none (tMat (tShape true)).shapes 0).chg = true ∧
    (tMat (tShape false)).hasRun 95 ((tShape false).ra) = false ∧
    (tState [tMat (tShape false)]).accLines (tBlock []) < 4 * (7 * 256 + 255) + upDiv (16 * 8) 32 :=
  ⟨⟨⟨rfl, rfl, by decide⟩, by decide⟩, by decide +kernel, rfl, rfl, by decide, by decide⟩

theorem witness_MatrixTiles_tile :
    (let w := tMat (tShape false)
     let s := tState [w]
     let a := tAx [w]
     let regs := matRegs mmaOps false (tShape false) 32
     regs = [20, 21, 24] ∧ w.hasRun 20 (tShape false).ra = true ∧ w.hasRun 24 (tShape false).rb = true ∧
     4 * 0 + upDiv (16 * 8) 32 ≤ s.accLines a.blk ∧ s.pmatHolds 0 0 regs = false ∧ s.tileHolds 0 0 0 4 = false ∧
     s.anyPx a (a.lanes mmaOps) [mmaOps.srcC] = false ∧ (∀ r ∈ [20, 21, 24], ∀ k ∈ (w.vreg r).lanes, k.px = false) ∧
     (∀ l, l < 32 → s.val a mmaOps.srcC l = 0x155#32) ∧ formatOk false 5 0x155#32 = true) := by
  refine ⟨by decide, by decide, by decide, by decide, rfl, rfl, rfl, ?_, ?_, rfl⟩
  · simp only [List.forall_mem_cons]
    have h : ∀ k ∈ VReg.zero.lanes, k.px = false := by decide
    exact ⟨h, h, h, fun _ h => nomatch h⟩
  · intro l hl
    interval_cases l <;> rfl

/-- The tile of that MMA, with the registers it read, in flight. -/
def tTile : OpKind := .tile mmaOps false (tShape false) 0x155#32 ((List.range 240).map (tMat (tShape false)).vreg)

theorem witness_MatrixTiles_formats :
    (let w := { tMat (tShape false) with vregs := setNth tWarp.vregs 8 { lanes := List.replicate 5 (KVal.plain 0x155#32) ++ List.replicate 27 (KVal.plain 0#32), uni := false } }
     (tState [w]).val (tAx [w]) mmaOps.srcC 5 ≠ 0x155#32 ∧ ∀ k, k < 5 → (tState [w]).val (tAx [w]) mmaOps.srcC k = 0x155#32) ∧
    (let op := { tLoad with kind := tTile }
     (tFlight op [5]).op? 5 = some op ∧ (tFlight op [5]).oldestSpad 0 0 = some op ∧ (tFlight op [5]).ops.Nodup ∧
     (tFlight op [5]).block? op.block = some a0.blk ∧ a0.blk.ending = none ∧ a0.blk.warps.any (fun w => !w.ended) = true ∧ cellWf 0#32 a0.blk.acc = true ∧
     ((a0.blk.tile mmaOps false (tShape false) 0x155#32 ((List.range 240).map (tMat (tShape false)).vreg)).map (·.1)).Nodup) ∧
    (let s : State := { t0 with actor := .device, args := [6], ops := [tPmats, { tLoad with id := 6, kind := tTile }] }
     s.op? 6 = some { tLoad with id := 6, kind := tTile } ∧ s.oldestSpad 0 0 = some tPmats) := by
  refine ⟨⟨by decide, ?_⟩, ⟨rfl, rfl, by decide, rfl, rfl, rfl, rfl, by decide +kernel⟩, rfl, rfl⟩
  intro k hk
  interval_cases k <;> rfl

theorem witness_AccumulatorAndFragments_lines :
    (let o := { sOps with b := 0#8, c := 1#8, d := 5#8, sd := false }
     let s := sS 0#32 0#32 0#32
     let a := sA 0#32 0#32 0#32
     s.Acts a false 7#3 ∧ s.block? a.bid = some a.blk ∧ cellWf 0#32 a.blk.acc = true ∧ a.flagFull o.fs = false ∧
     1 + (5 + 1) ≤ s.accLines a.blk ∧ s.tileHolds 0 0 1 6 = false ∧ (s.scalar a o.a o.sa).toNat = 0 ∧ 0 + 128 * 1 ≤ s.spadSize a.blk ∧
     (∀ l, l < 32 → (s.accSource a o 0 l).px = false) ∧ s.accLines a.blk < 0x708 + 1) :=
  ⟨⟨rfl, rfl, by decide⟩, rfl, rfl, rfl, by decide, rfl, rfl, by decide, fun l hl => by interval_cases l <;> rfl, by decide⟩

/-- FRAGLD.A of the shape, with the offset in S16 and the pitch in S17. -/
def fragOps : Opnds := { tOps with d := 20#8, a := 16#8, b := 17#8, c := 0#8, sa := true, sb := true, mod := 0#6 }
def tFrag (off pitch : Word) : Warp := withS 17 pitch (withS 16 off (tMat (tShape false)))

theorem witness_AccumulatorAndFragments_fragments :
    (let f (x y : Word) : Prop := (tState [tFrag x y]).Acts (tAx [tFrag x y]) false 7#3 ∧ (tAx [tFrag x y]).lanes fragOps = BitVec.allOnes 32 ∧
       (tState [tFrag x y]).scalar (tAx [tFrag x y]) 16#8 true = x ∧ (tState [tFrag x y]).scalar (tAx [tFrag x y]) 17#8 true = y
     f 0#32 16#32 ∧ f 2#32 16#32 ∧ f 0#32 18#32) ∧
    (let w := tFrag 0#32 16#32
     fragRegs .a (tShape false) 32 = 2 ∧ fragDims .a (tShape false) 32 = (16, 16, 16, 16, 8) ∧ w.hasRun 20 2 = true ∧
     (tState [w]).pmatHolds 0 0 [20, 21] = false ∧ 0 + 15 * 16 + 16 ≤ (tState [w]).spadSize (tBlock [w])) :=
  ⟨⟨⟨⟨rfl, rfl, by decide⟩, rfl, rfl, rfl⟩, ⟨⟨rfl, rfl, by decide⟩, rfl, rfl, rfl⟩, ⟨⟨rfl, rfl, by decide⟩, rfl, rfl, rfl⟩⟩,
   ⟨by decide, by decide, by decide, rfl, by decide⟩⟩

/-- Core 0 holds chunk 0 of home 80, the home of physical address 0x50100; its homes are as after reset. -/
def withChunk (s : State) : State :=
  { s with cores := setNth s.cores 0 { Core.idle with ctx := some 0, chunks := [{ home := 80, base := 0, used := 0 }] } }

theorem witness_ProxyLoads :
    (let s := withChunk (sV 0x10100#32 0#32)
     let a := aV 0x10100#32 0#32
     let o := { tOps with c := 0#8 }
     s.Acts a o.gn o.g ∧ s.anyPx a (a.lanes o) (addrSrcs o false (o.mod.getLsbD 2)) = false ∧
     s.accessAddr a o false false 0 = 0x10100 ∧ s.accessAddr a o false false 3 = 0x10100 ∧
     (s.translateList 0 0 .read [0x10100, 0x10100]).1.toOption = some [0x50100, 0x50100] ∧
     inWindow 0x50100 = false ∧ (s.ctx 0).lost (channelOf 0x50100) = false ∧ channelOf 0x50100 = 80 ∧ 80 < s.homes.length ∧
     s.storesOk 0 ∧ o.d ≠ 0xF3#8 ∧ a.w.takes o.d false ∧ (s.takeRuns 0 0 [(80, 0, 4)]).isOk = true) :=
  ⟨⟨rfl, rfl, by decide⟩, rfl, rfl, rfl, by decide, rfl, rfl, by decide, by decide +kernel, ⟨by decide +kernel, by decide +kernel⟩, by decide,
   .inr (by decide : 5 < (aV 0x10100#32 0#32).w.vregs.length), rfl⟩

theorem witness_ProxyLoads_traps :
    (let w := withV 6 0#32 true tWarp
     (tState [w]).anyPx (tAx [w]) ((tAx [w]).lanes tOps) (addrSrcs tOps false false) = true) ∧
    (let f (x : Word) : Int := (sV x 0#32).accessAddr (aV x 0#32) tOps false false 0
     f 0x10102#32 % 4 ≠ 0) ∧
    (let w := withV 7 0x2000000#32 false (withV 6 0#32 false tWarp)
     (tState [w]).accessAddr (tAx [w]) { tOps with mod := 4#6 } true true 0 = 2 ^ 57 + 0x708) := by
  refine ⟨rfl, by decide, by decide⟩

/-- V6 holds a proxy word of one word at home 80, slot 0, and V7 a plain word; V8 a proxy word of four words. -/
def tPx (h8 : Word) : Warp := withV 8 h8 true (withV 6 0x50000000#32 true tWarp)

theorem witness_ProxyResultsFormAtHomes :
    (let w := tPx 0#32
     let s := withChunk (tState [w])
     let a := tAx [w]
     s.Acts a tOps.gn tOps.g ∧ (s.src a tOps.srcA 0) = { val := 0x50000000#32, px := true } ∧ (s.src a tOps.srcB 0).px = false ∧
     extClash (proxiesOf [s.src a tOps.srcA 0, s.src a tOps.srcB 0]) = false ∧ (s.ctx 0).lost (pxHome 0x50000000#32) = false ∧
     pxHome 0x50000000#32 = 80 ∧ s.storesOk 0 ∧ tOps.sd = false ∧ tOps.d ≠ 0xF3#8 ∧ a.w.takes tOps.d false ∧
     (s.takeRuns 0 0 [(80, 0, 4)]).isOk = true) ∧
    extClash [0x50000040#32, 0x50000080#32] = true ∧
    ({ Ctx.created with pxLost := setNth Ctx.created.pxLost 2 0x10000#32 } : Ctx).lost 80 = true ∧
    proxiesOf [(t0.src a0 tOps.srcA 0)] = [] ∧
    (let w := withV 7 0x50000200#32 true (tPx 0#32)
     let s := tState [w]
     let a := tAx [w]
     pdotDetail [(s.src a tOps.srcA 0, s.src a tOps.srcB 0, KVal.plain 0#32)] = none) :=
  ⟨⟨⟨rfl, rfl, by decide⟩, rfl, rfl, by decide, rfl, by decide, ⟨by decide +kernel, by decide +kernel⟩, rfl, by decide,
    .inr (by decide : 5 < (tAx [tPx 0#32]).w.vregs.length), rfl⟩, by decide, by decide, rfl, by decide⟩

theorem witness_ProxyInstructions :
    (t0.Acts a0 false 7#3 ∧ (∀ l ∈ lanesOf (a0.lanes tOps), (t0.rd a0 6#8 false l).px = false) ∧ a0.flagFull false = false ∧
     (∀ l ∈ lanesOf (a0.lanes tOps), (t0.rd a0 6#8 false l).val.toNat % 4 = 0 ∧ (t0.rd a0 6#8 false l).val.toNat + 4 ≤ t0.spadSize a0.blk)) ∧
    ((tState [tPx 0#32]).Acts (tAx [tPx 0#32]) false 7#3 ∧ (∀ l ∈ lanesOf ((tAx [tPx 0#32]).lanes tOps),
      ((tState [tPx 0#32]).rd (tAx [tPx 0#32]) 6#8 false l).px = true ∧ pxExt ((tState [tPx 0#32]).rd (tAx [tPx 0#32]) 6#8 false l).val = 0)) ∧
    ((tState [tPx 0x50000080#32]).rd (tAx [tPx 0x50000080#32]) 8#8 false 0).px = true ∧ pxExt 0x50000080#32 = 2 ∧
    ((sV 2#32 0#32).rd (aV 2#32 0#32) 6#8 false 0).val.toNat % 4 ≠ 0 ∧
    (sV 0x40000#32 0#32).spadSize (tBlock []) < ((sV 0x40000#32 0#32).rd (aV 0x40000#32 0#32) 6#8 false 0).val.toNat + 4 :=
  ⟨⟨⟨rfl, rfl, by decide⟩, by decide, rfl, by decide⟩, ⟨⟨rfl, rfl, by decide⟩, by decide⟩, rfl, by decide, by decide, by decide⟩

/-- One request of core 0 to home 80, which holds the formed run of slot 0; the warp has its handle in V6. -/
def tPxReq (k : PxKind) (served : Bool) : PxReq :=
  { id := 7, core := 0, home := 80, ctx := 0, block := 0, warp := 0, pathSlot := 0, kind := k, served := served, lost := false, data := [], sent := 0, since := none }
def tRun (slot count : Nat) : Run := { slot := slot, ext := 0, count := count, ctx := 0, formed := true, temp := false, refs := count }
def tHomed (k : PxKind) (served : Bool) (count : Nat) : State :=
  { tState [tPx 0#32] with actor := .device, args := [7, 0, 0], pxReqs := [tPxReq k served]
                           homes := setNth State.reset.homes 80 { runs := [tRun 0 count], words := [(0, 9#32)] } }

theorem witness_ProxyHomes_requests :
    (∀ k ∈ [PxKind.snapshot 0x50100 1 0 0, .operate (.iadd false false) [.run 80 0 0, .plain 1#32] 1 0, .drop 0, .copy 80 0 0 0],
      (tHomed k false 1).pxReq? 7 = some (tPxReq k false) ∧ (tHomed k false 1).firstAt (tPxReq k false) 80 = true ∧
      ((tHomed k false 1).home 80).run? 0 = some (tRun 0 1) ∧ cellWf 0#32 ((tHomed k false 1).home 80).words = true) ∧
    80 < (tHomed (.drop 0) false 1).homes.length ∧ 80 < (tHomed (.drop 0) false 1).chans.length ∧
    ((tHomed (.drop 0) false 2).home 80).run? 0 = some (tRun 0 2) ∧
    (tHomed (.snapshot 0x50100 1 0 0) false 1).earlierTouch 7 0 0 (PxKind.snapshot 0x50100 1 0 0).bytes = false ∧
    (tHomed (.copy 80 0 0 0) false 1).quotaFits 0 80 (runSlots 0) = true ∧
    ((tHomed (.copy 80 0 0 0) false 1).freeGroup 80 (runSlots 0) 2 0).isSome = true := by
  decide +kernel

theorem witness_ProxyHomes_completion_crossing :
    (let k := PxKind.operate (.iadd false false) [] 0 0
     (tHomed k true 1).pxReq? 7 = some (tPxReq k true) ∧ (tHomed k true 1).warp? 0 0 = some (tBlock [tPx 0#32], tPx 0#32) ∧ (tPx 0#32).frame = none) ∧
    (let w := { tPx 0#32 with path0 := some { tPath with wait := .crossing [] } }
     let s := { tHomed (.cross 0 2) false 1 with args := [0, 0, 0], blocks := [tBlock [w]] }
     (s.pxReqs.filter fun x => x.block == s.arg 0 && x.warp == s.arg 1 && x.pathSlot == s.arg 2) = [tPxReq (.cross 0 2) false] ∧
     s.firstAt (tPxReq (.cross 0 2) false) 80 = true ∧ s.warp? 0 0 = some (tBlock [w], w) ∧ (w.path 0).map (·.wait) = some (.crossing []) ∧
     (s.home 80).run? 0 = some (tRun 0 1)) :=
  ⟨⟨rfl, rfl, rfl⟩, ⟨rfl, rfl, rfl, rfl, rfl⟩⟩

def tChunkReq (asked : Bool) : ChunkReq := { core := 0, home := 80, chunks := 1, block := 0, warp := 0, slot := 0, asked := asked, start := 0, id := 0, answer := .none }
def tAsking (asked : Bool) (quota : Word) (ns : Nat) : State :=
  { withCtx (fun c => { c with pxQuota := quota }) (tState [asleep .blocked]) with
    actor := .device, args := [0, 80, 0], chunkReqs := [tChunkReq asked], ns := ns }

theorem witness_ProxyHomes_chunks :
    (tAsking false 8192#32 0).chunkReq? 0 80 false = some (tChunkReq false) ∧ (tAsking true 8192#32 0).chunkReq? 0 80 true = some (tChunkReq true) ∧
    (tAsking true 8192#32 0).freeGroup 80 8 1 0 = some 0 ∧ (tAsking true 8192#32 0).slotsHeld 0 80 + 8 ≤ bits ((tAsking true 8192#32 0).ctx 0).pxQuota 15 0 ∧
    bits ((tAsking true 0#32 0).ctx 0).pxQuota 15 0 < (tAsking true 0#32 0).slotsHeld 0 80 + 8 ∧
    ¬ (0 + bits ((tAsking true 0#32 0).ctx 0).pxExp 15 0 ≤ (tAsking true 0#32 0).ns) ∧
    0 + bits ((tAsking true 0#32 0).ctx 0).pxExp 15 0 ≤ (tAsking true 0#32 5000).ns ∧
    (let s := { withChunk t0 with args := [0, 80, 0] }
     (s.core 0).chunks.find? (fun x => x.home == 80 && x.base == 0) = some { home := 80, base := 0, used := 0 } ∧
     ¬ (0 + 4096 ≤ s.cycle (clusterOf 0)) ∧ ¬ (16 < (s.core 0).chunks.length)) ∧
    (let s := { withChunk t0 with args := [0, 80, 0], cyc := List.replicate 32 5000#64 }
     0 + 4096 ≤ s.cycle (clusterOf 0)) := by
  decide +kernel

theorem witness_BankRegisterInstructions :
    (∀ i ∈ [Instr.nli 1#4 5#16, .nbr .eq 1#4 2#4 3#16, .bpop 1#4, .nend], (tBank [0#32] false).BankDoes 0 0 (tBankCtx [0#32]) i) ∧
    (∀ i ∈ [Instr.xget 1#4 0#3, .xcadd .f32x2 1#4, .xadd .i64 1#4 2#4 3#4, .xbr .ne 1#4 2#4 3#16, .xsend 1#4, .xend],
      (tBank [0#32] true).BankDoes 0 0 (tBankCtx [0#32]) i) := by
  simp only [List.forall_mem_cons, State.BankDoes]
  refine ⟨⟨⟨?_, ?_, ?_, ?_, ?_, ?_⟩, ⟨?_, ?_, ?_, ?_, ?_, ?_⟩, ⟨?_, ?_, ?_, ?_, ?_, ?_⟩, ⟨?_, ?_, ?_, ?_, ?_, ?_⟩, fun _ h => nomatch h⟩,
    ⟨?_, ?_, ?_, ?_, ?_, ?_⟩, ⟨?_, ?_, ?_, ?_, ?_, ?_⟩, ⟨?_, ?_, ?_, ?_, ?_, ?_⟩, ⟨?_, ?_, ?_, ?_, ?_, ?_⟩, ⟨?_, ?_, ?_, ?_, ?_, ?_⟩,
    ⟨?_, ?_, ?_, ?_, ?_, ?_⟩, fun _ h => nomatch h⟩ <;> rfl

/-- A descriptor of one code word for channel 0, a region of one span at virtual address 0, and one that is ill-formed. -/
def tDesc : Nat := 1 + 0x40 * 2 ^ 448 + 2 ^ 640 + 2 ^ 688 + 7 * 2 ^ 736

theorem witness_BankLaunches_descriptor :
    descOk tDesc = true ∧ descOk 0 = false ∧ (tPages [] t0).regionSpans 0 0 1 = some [0] ∧ t0.regionSpans 0 0 1 = none ∧
    (t0.liveHandles 0).length < 64 ∧ (sS 0x10100#32 0#32 0#32).pairVal (sA 0x10100#32 0#32 0#32) 6#8 true 0 % 128 = 0 ∧
    (sS 4#32 0#32 0#32).pairVal (sA 4#32 0#32 0#32) 6#8 true 0 % 128 ≠ 0 ∧ (sA 4#32 0#32 0#32).flagFull false = false ∧
    ((sS 0x10100#32 0#32 0#32).loadRange (sA 0x10100#32 0#32 0#32) 0x10100 128).1.isOk = true := by
  decide +kernel

/-- A launch by warp 0 of context 0 with handle 0 runs, is stopped, or has ended at channel 0. -/
def tLaunched (st : BankState) : State :=
  { tBank [0#32] false with
    actor := .warp 0 0 0
    chans := setNth State.reset.chans 0 { Chan.empty with cx := setNth Chan.empty.cx 0 (some { tBankCtx [0#32] with state := st }) } }

theorem witness_BankLaunches_handles :
    (∀ st ∈ [BankState.running, .stopped, .stepped, .done], ((tLaunched st).launches 0).find? (fun l => l.handle.toNat == 0) = some (tBankCtx [0#32]).launch ∧
      (tLaunched st).bankPlace 0 0#32 0 = some 0 ∧ ((tLaunched st).bankCtx? 0 0).map (·.state) = some st) ∧
    (tBankCtx [0#32]).launch.mask.getLsbD 0 = true ∧ ((tBankCtx [0#32]).launch.block, (tBankCtx [0#32]).launch.warp) = (0, 0) ∧
    ((t0.launches 0).find? fun l => l.handle.toNat == 0) = none ∧
    (let s := { t0 with args := [0], chans := setNth State.reset.chans 0 { Chan.empty with queue := [(tBankCtx [0#32]).launch] } }
     0 < s.chans.length ∧ (s.chan 0).freePlace = some 0 ∧ (s.chan 0).queue = [(tBankCtx [0#32]).launch]) := by
  decide +kernel

theorem witness_BankLaunches_ends :
    (∀ e ∈ [true, false], let k := { tBankCtx [0#32] with aEnded := e, xEnded := e }
      k.state = .running ∧ k.aEnded = e) ∧
    (let k := { tBankCtx [0#32] with apc := 1 }
     k.over false = false ∧ k.launch.code.length ≤ k.pc false) := by
  decide

/-- N2 = 64 is a region offset of the context; CRD and WR of it. -/
def tColumn (f : BankCtx → BankCtx) : BankCtx := f { tBankCtx [0#32] with n := setNth (tBankCtx [0#32]).n 2 64#32 }
def tColumns (f : BankCtx → BankCtx) (arith : Bool) : State :=
  { tBank [0#32] arith with
    chans := setNth State.reset.chans 0 { Chan.empty with cx := setNth Chan.empty.cx 0 (some (tColumn f)), marked := [(1, 2)]
                                                          disturb := [((1, 2), Config.disturbThreshold)] } }

theorem witness_BankColumnsAndChannels_columns :
    (let k := tColumn id
     (tColumns id false).BankDoes 0 0 k (.crd 2#4) ∧ (tColumns id false).BankDoes 0 0 k (.wr 2#4) ∧ k.bq = 8#64 :: [] ∧
     (tColumns id false).columnTurn 0 0 = true ∧ k.launch.step = false ∧ k.launch.region.length = 1 ∧
     (∀ i, i < 8 → inWindow (regionAddr k.launch.region 0 64 + i) = false ∧ overGet (tColumns id false).l2 (regionAddr k.launch.region 0 64 + i) = none) ∧
     0 < ((tColumns id false).chan 0).cx.length) := by
  refine ⟨⟨rfl, rfl, rfl, rfl, by decide, rfl⟩, ⟨rfl, rfl, rfl, rfl, by decide, rfl⟩, rfl, by decide +kernel, rfl, rfl, by decide +kernel, by decide⟩

theorem witness_BankColumnsAndChannels_behind : (tColumns id false).behindLauncher (tColumn id).launch (regionAddr [0] 0 64) 64 = false := by
  decide +kernel

theorem witness_BankColumnsAndChannels_stops :
    (bankThread .xnext ≠ false ∧ bankThread .nend ≠ true) ∧
    ((tBankCtx [0#32]).n[3]? = some 0#32 ∧ (65 : Nat) % 64 ≠ 0 ∧ 1 * 8192 ≤ 8192) ∧
    (∃ k, k = tColumn (fun k => { k with bq := [], xEnded := true }) ∧ k.bq = [] ∧ k.xEnded = true ∧ k.over false = false) ∧
    (∃ k, k = tColumn (fun k => { k with bq := [], dq := [], launch := { k.launch with code := [0x88000000#32] } }) ∧ k.bq = [] ∧
      k.waitOf true = some .dataEmpty ∧ k.xEnded = false) ∧
    (∃ k, k = tColumn (fun k => { k with dq := [], aEnded := true }) ∧ k.dq = [] ∧ k.aEnded = true ∧ k.over true = false) :=
  ⟨⟨by decide, by decide⟩, ⟨rfl, by decide, by decide⟩, ⟨_, rfl, rfl, rfl, rfl⟩, ⟨_, rfl, rfl, rfl, rfl⟩, ⟨_, rfl, rfl, rfl, rfl⟩⟩

theorem witness_BankColumnsAndChannels_channels :
    (let s := { tColumns id false with actor := .device, args := [0, 2, 1] }
     (s.arg 2, s.arg 1) ∈ (s.chan 0).marked ∧ ((s.arg 2, s.arg 1), Config.disturbThreshold) ∈ (s.chan 0).disturb ∧
     s.proxyCommand 0 = none ∧ s.columnNext 0 = none ∧ (s.chan 0).idle < 2 ^ 20) ∧
    ((1, 1) ∉ ((tColumns id false).chan 0).marked ∧ ∀ n, ((1, 1), n) ∈ ((tColumns id false).chan 0).disturb → n < Config.disturbThreshold) ∧
    (let s := { t0 with args := [0], chans := setNth State.reset.chans 0 { Chan.empty with idle := 2 ^ 20 } }
     2 ^ 20 ≤ (s.chan 0).idle ∧ (s.chan 0).cx.length = 4) ∧ ∀ x ∈ t0.ctxs, x.pxLost.length = 8 := by
  refine ⟨⟨.head _, .head _, rfl, rfl, by decide⟩, ⟨by decide, fun n h => ?_⟩, ⟨by decide, rfl⟩, by decide +kernel⟩
  simp only [tColumns, State.chan] at h
  cases h with
  | tail _ h => exact nomatch h

/-- Context 0 owns host-fed queue 0 with HEAD 0 and the TAIL given; one slot holds it, or it waits for one. -/
def tHosted (tail flags : Byte) : State :=
  let s := tPages [] { t0 with actor := .device }
  { s with l2 := s.l2 ++ [(0x30001, 0x10#8), (0x30002, 3#8), (0x30008, 4#8), (0x30009, flags), (0x30010, tail)] }

theorem witness_QueuesAndSlots_doorbells :
    (tHosted 1#8 3#8).queueOwner 0 = some 0 ∧
    ((tHosted 1#8 3#8).qdesc 0 0).map (fun d => (d.ok, d.host, d.logn, (d.tail - d.head).toNat)) = some (true, true, 4, 1) ∧
    ((tHosted 1#8 1#8).qdesc 0 0).map (fun d => d.host) = some false ∧ ((t0.qdesc 0 0)).isNone = true := by
  decide +kernel

theorem witness_QueuesAndSlots_unowned : t0.queueOwner 0 = none := by
  decide +kernel

/-- A record of queue 0 is partly placed; its slot is 0, mapped at time 0, and queue 0 also waits since then. -/
def tQueued (r : Record) (ns : Nat) (wait : Bool) : State :=
  let s := withCtx (fun c => { c with coreMask := List.replicate 8 0xFFFFFFFF#32, partWord := 0x8210#32, privSize := 0x1000#32, saveSize := 0x1000#32 })
    (tHosted 1#8 3#8)
  { s with
    args := [0], ns := ns, blocks := [], records := [r], qtails := [(0, 0, 1#32)], hwslots := setNth s.hwslots 0 (some { ctx := 0, queue := 0, mapped := 0 })
    cores := State.reset.cores, qwaits := if wait then [{ ctx := 0, queue := 0, since := 0, levels := 0 }] else [] }
def tHead : Head := { r := { tRecord with count := 2, next := 0 }, fresh := false, ok := true }

theorem witness_QueuesAndSlots_slots :
    (tQueued tHead.r 0 false).queueHead 0 0 = some tHead ∧ (tQueued tHead.r 60000 true).hwslots[0]? = some (some { ctx := 0, queue := 0, mapped := 0 }) ∧
    (tQueued tHead.r 60000 true).waiting.map (·.1) = [0] ∧ (tQueued tHead.r 60000 true).hwslots.findIdx? (·.isNone) = some 1 ∧
    0 + 50000 ≤ (tQueued tHead.r 60000 true).ns ∧ (tQueued tHead.r 0 false).ns < 0 + 50000 ∧ (tQueued tHead.r 0 false).waiting = [] := by
  decide +kernel

theorem witness_DispatchAndPlacement_heads :
    t0.heads = [] ∧ (tQueued tHead.r 0 false).heads = [tHead] ∧ ((tQueued tHead.r 0 false).ctx 0).hasCore 0 = true ∧ 0 ∈ coresOf 0 := by
  decide +kernel

theorem witness_DispatchAndPlacement_placed :
    (let s := tQueued tHead.r 0 false
     tHead.ok = true ∧ tHead.r.count ≠ 0 ∧ tHead.r.held = none ∧ s.headObj tHead = some tObj ∧ s.resumeWaits 0 0 = false ∧
     (s.shares 0 tObj).isSome = true ∧ tHead.r.next + 1 ≠ tHead.r.first + tHead.r.count ∧ (∀ b ∈ s.blocks, b.id ≠ s.nextId) ∧
     tHead.r ∈ s.records ∧ (s.records.map (·.id)).Nodup) := by
  decide +kernel

theorem witness_DispatchAndPlacement_core : ((tQueued tHead.r 0 false).chooseCore 0 0 tObj).isSome = true := by
  decide +kernel

/-- The ring of queue 0 holds an invalid record, and a valid one of no blocks. -/
theorem witness_DispatchAndPlacement_rings :
    (let s := { tQueued tHead.r 0 false with records := [] }
     s.heads.map (·.ok) = [false]) ∧
    (let s := { tQueued tHead.r 0 false with records := [] }
     let s1 := { s with l2 := s.l2 ++ [(0x31002, 1#8), (0x31024, 1#8), (0x31028, 1#8), (0x3102A, 1#8)] }
     s1.heads.map (fun h => (h.ok, h.r.count)) = [(true, 0)]) := by
  decide +kernel


/-- A head with a request open since the time given; no core may take a block of context 0. -/
def tMakes (room : Option Nat) : State :=
  withCtx (fun c => { c with coreMask := List.replicate 8 0#32 }) (tQueued { tHead.r with room := room, id := 5 } 100 false)

theorem witness_RoomIsMadeAndRecordsEnd_shrink :
    t0.slotHead 0 = none ∧ (tQueued { tHead.r with room := some 7 } 0 false).slotHead 0 = some { tHead with r := { tHead.r with room := some 7 } } ∧
    (tQueued tHead.r 0 false).slotHead 0 = some tHead ∧ (tQueued tHead.r 0 false).lacksRoom tHead = none ∧
    (let s := tMakes none
     let h := { tHead with r := { tHead.r with id := 5 } }
     s.slotHead 0 = some h ∧ h.r.room = none ∧ s.lacksRoom h = some tObj ∧ (s.dropGrows 0).lacksRoom h ≠ none ∧ h.fresh = false ∧
     ∃ r ∈ s.records, r.id = h.r.id) ∧
    ((tMakes (some 200)).slotHead 0).map (·.r.room) = some (some 200) ∧ (tMakes (some 200)).ns < 200 := by
  refine ⟨by decide, by decide +kernel, by decide +kernel, by decide +kernel,
    ⟨by decide +kernel, rfl, by decide +kernel, by decide +kernel, rfl, _, List.mem_singleton_self _, rfl⟩, by decide +kernel, by decide⟩

/-- A block of lower priority runs beside a head whose request is due. -/
theorem witness_RoomIsMadeAndRecordsEnd_preempt :
    (let s := { tMakes (some 50) with args := [0], blocks := [tBlock [tWarp]] }
     ((s.slotHead 0).map (·.r.room) = some (some 50)) ∧ (s.blocks.map (·.id)).Nodup ∧ (execPriorityPreempt s matches .next _)) := by
  decide +kernel

/-- A block in variant 1 of two, with a map to variant 0; and one that holds no map. -/
def tGrows (swmap : Nat) : State :=
  let v : Variant := { swmap := 0, sctab := 0, entry := 64, accl := 4, spad := 4, nwarp := 1, regb := 12 }
  let s := tPages [(0x10300, 1#8), (0x10302, 0x20#8), (0x10304, 0x48#8)] { t0 with actor := .device, args := [0] }
  { s with
    cores := setNth State.reset.cores 0 { Core.idle with ctx := some 0, part := 0x8210#32 }, blocks := [{ tBlock [tWarp] with variant := 1 }]
    records := [{ tRecord with obj := some { tObj with variants := [v, { v with swmap := swmap }] } }] }

theorem witness_RoomIsMadeAndRecordsEnd_grow :
    (let s := tGrows 0x300
     let b := { tBlock [tWarp] with variant := 1 }
     s.block? 0 = some b ∧ s.runs b = true ∧ b.reshape = none ∧ (∀ r ∈ s.records, r.ctx = b.ctx → r.room = none) ∧ (s.growOf b).isSome = true) ∧
    (let s := tGrows 0
     let b := { tBlock [tWarp] with variant := 1 }
     s.block? 0 = some b ∧ s.growOf b = none) := by
  decide +kernel

/-- Core 0 is context 1's since time 0, and the head needs it. -/
def tYields (ns : Nat) : State :=
  let s := withCtx (fun c => { c with coreMask := 1#32 :: List.replicate 7 0#32 }) (tQueued tHead.r ns false)
  { s with cores := setNth s.cores 0 { Core.idle with ctx := some 1, part := 0x8210#32 } }

theorem witness_RoomIsMadeAndRecordsEnd_yield :
    (let s := tYields 50000
     0 < s.cores.length ∧ (s.core 0).ctx = some 1 ∧ (s.core 0).closed = false ∧ (s.core 0).taken + 50000 ≤ s.ns ∧ s.heads = [tHead] ∧
     tHead.r.ctx ≠ 1 ∧ s.needsCore 0 tHead = true ∧ s.canTake 0 0 ((s.headObj tHead).getD default) = false) ∧
    (tYields 0).ns < ((tYields 0).core 0).taken + 50000 := by
  decide +kernel

theorem witness_RoomIsMadeAndRecordsEnd_ends :
    (t0.record? 0 = some tRecord ∧ tRecord.ended ≠ tRecord.count) ∧
    (let r := { tRecord with ended := 1 }
     let s := { t0 with records := [r], args := [0] }
     s.record? 0 = some r ∧ r.next = r.first + r.count ∧ r.ended = r.count ∧ s.recordDrained r = true ∧ r.cont = 0) := by
  decide +kernel

/-- A record at 0x32000 for queue 0 waits to be pushed: room in its ring, no room, and one before it. -/
def tDefers (tail : Byte) (waiting : List (Nat × Nat × Nat)) (i : Nat) : State :=
  let s := tHosted tail 1#8
  { s with
    l2 := s.l2 ++ [(0x32002, 1#8), (0x32014, 1#8), (0x32024, 1#8), (0x32028, 1#8), (0x3202A, 1#8)]
    deferred := waiting, args := [i] }

theorem witness_RoomIsMadeAndRecordsEnd_deferred :
    (let s := tDefers 1#8 [(0, 0x32000, 3)] 0
     s.deferred[0]? = some (0, 0x32000, 3) ∧ s.deferred.take 0 = [] ∧ (s.pushReady 0 0x32000 3).isSome = true) ∧
    (let s := tDefers 16#8 [(0, 0x32000, 3)] 0
     s.deferred[0]? = some (0, 0x32000, 3) ∧ (s.pushReady 0 0x32000 3).isNone = true) ∧
    (let s := tDefers 1#8 [(0, 0x33000, 2), (0, 0x32000, 3)] 1
     s.deferred[1]? = some (0, 0x32000, 3) ∧ s.queueOf (0, 0x33000, 2) = s.queueOf (0, 0x32000, 3)) := by
  decide +kernel

/-- Waveguide 3 with the flits given, in a device at this time. -/
def tWave (demand : List (Nat × Nat)) (unfurl : Option Nat) (ns : Nat) : State :=
  { t0 with
    args := [3], ns := ns, dev := { DevCsrs.up with furlEn := true }
    waveguides := [{ Waveguide.fresh 3 with demand := demand, unfurlAt := unfurl }] }

theorem witness_FabricAndPorts_waveguides :
    (let w := (tWave [(0, 1), (5, 2)] none 0).waveguide 3
     w.burgee = 0 ∧ ∃ f ∈ w.demand, f.1 ≠ w.burgee) ∧
    (let s := tWave [] none (2 ^ 20)
     s.dev.furlEn = true ∧ (s.waveguide 3).demand = [] ∧ (s.waveguide 3).unfurlAt = none ∧ (s.waveguide 3).idleSince + 2 ^ s.dev.furlTime ≤ s.ns) ∧
    (tWave [] none 0).ns < ((tWave [] none 0).waveguide 3).idleSince + 2 ^ (tWave [] none 0).dev.furlTime ∧
    ((tWave [] (some 4) 0).waveguide 3).unfurlAt ≠ none ∧ t0.dev.ready = true := by
  refine ⟨⟨rfl, (5, 2), by decide, by decide⟩, by decide +kernel, by decide, by decide, rfl⟩

/-- Buffers 0 and 1 are full, and each head waits for the other. -/
def tStuck (cycle : Nat) : State :=
  { t0 with
    args := [0], cyc := List.replicate 32 (BitVec.ofNat 64 cycle)
    buffers := [{ id := 0, packets := [1] :: List.replicate (bufferRoom 0 - 1) [1], escape := none, since := 0 },
      { id := 1, packets := [0] :: List.replicate (bufferRoom 1 - 1) [0], escape := none, since := 0 }] }

theorem witness_FabricAndPorts_deadlock :
    let s := tStuck 4096
    ∃ d, s.headWaits (s.buffer (s.arg 0)) = some d ∧ s.headWaits (s.buffer d) = some (s.buffer (s.arg 0)).id ∧ d ≠ s.arg 0 ∧
      (s.buffer (s.arg 0)).id = s.arg 0 ∧ (s.buffer d).escape = none ∧ (s.buffer (s.arg 0)).escape = none ∧
      (s.buffer (s.arg 0)).since + 4096 ≤ s.stationTime (s.arg 0) ∧ (s.buffer d).packets.length ≤ bufferRoom d ∧
      (s.buffer (s.arg 0)).packets.length ≤ bufferRoom (s.arg 0) ∧ (∀ p ∈ (s.buffer (s.arg 0)).packets, p = [d]) ∧
      ∀ p ∈ (s.buffer d).packets, p = [s.arg 0] := by
  have room : ∀ n, 0 < bufferRoom n := fun n => Nat.lt_of_lt_of_le Nat.zero_lt_one (Nat.le_max_left _ _)
  have full : ∀ n, n < 2 → (State.buffer (tStuck 4096) n).full = true := by
    intro n hn
    interval_cases n <;>
      · simp only [Buffer.full, State.buffer, tStuck, List.find?_cons, List.length_cons, List.length_replicate, beq_self_eq_true, Option.getD_some,
          Nat.reduceBEq, decide_eq_true_eq]
        have := room 0
        have := room 1
        omega
  have len : ∀ n, n < 2 → (State.buffer (tStuck 4096) n).packets.length ≤ bufferRoom n := by
    intro n hn
    interval_cases n <;>
      · simp only [State.buffer, tStuck, List.find?_cons, List.length_cons, List.length_replicate, beq_self_eq_true, Option.getD_some, Nat.reduceBEq]
        have := room 0
        have := room 1
        omega
  have all : ∀ n, n < 2 → ∀ p ∈ (State.buffer (tStuck 4096) n).packets, p = [1 - n] := by
    intro n hn p hp
    interval_cases n <;>
      · simp only [State.buffer, tStuck, List.find?_cons, beq_self_eq_true, Option.getD_some, Nat.reduceBEq, List.mem_cons, List.mem_replicate] at hp
        tauto
  exact ⟨1, if_pos (full 1 (by decide)), if_pos (full 0 (by decide)), by decide, rfl, rfl, rfl, by decide +kernel, len 1 (by decide), len 0 (by decide),
    all 0 (by decide), all 1 (by decide)⟩

theorem witness_FabricAndPorts_probes :
    (tStuck 0).stationTime 0 < ((tStuck 0).buffer 0).since + 4096 ∧ (t0.buffer 7).packets = [] := by
  decide +kernel

/-- A port of slice 0 and stack 0 sends a read or a write of sector 0; its reply. -/
def tPort (ports : List PortReq) (slice : Nat) : State := { t0 with args := [slice, 0, 0, 0, 2, 0xFF], ports := ports }
def tPortReq (write : Bool) : PortReq :=
  { slice := 0, stack := 0, tag := 0#3, write := write, chan := 0, sector := 0, mask := BitVec.allOnes 64, data := List.replicate 64 7#8 }

theorem witness_FabricAndPorts_ports :
    (tPort [] 0).portReady 0 0 0 0 2 = true ∧ (tPort [] 0).uncached (sectorAddr 0 0 0) = false ∧ (tPort [] 1).portReady 1 0 0 0 2 = false ∧
    (∀ w ∈ [false, true], let s := { tPort [tPortReq w] 0 with args := [0, 0, 0] }
      s.replyTo 0 0 0 w = some (tPortReq w) ∧ Memory.wf s.dram = true ∧ overWf s.l2 = true) ∧
    (∀ i, i < 64 → inHbm (sectorAddr 0 0 0 + i) = true) := by
  decide +kernel

theorem witness_HostAccesses_writes :
    (∃ s : State, s.dev.ready = false) ∧
    (let s := { t0 with args := [0, 0x40, 0, 1, 2, 5, 6] }
     Memory.wf s.dram = true ∧ overWf s.l2 = true ∧ (∀ x, s.uncached x = true → overGet s.l2 x = none) ∧ s.dev.ready = true ∧ s.arg 0 = 0 ∧
     s.arg 3 ≠ 0 ∧ s.arg 1 + s.arg 4 ≤ 2 ^ 39 ∧ s.args.length = 5 + s.arg 4) ∧
    (let s := { t0 with args := [1, 0x40, 0, 1, 2, 5, 6] }
     s.arg 0 ≠ 0 ∧ s.arg 3 ≠ 0 ∧ s.arg 1 + s.arg 4 ≤ 2 ^ 44 ∧ s.args.length = 5 + s.arg 4) ∧
    (let s := { t0 with args := [0x40, 1, 2, 5, 6] }
     s.arg 1 ≠ 0 ∧ s.arg 0 + s.arg 2 ≤ 2 ^ 39 ∧ s.args.length = 3 + s.arg 2) ∧
    (let s := { t0 with args := [0, 0x40, 0, 0, 2] }
     s.arg 2 = 0 ∧ s.arg 3 = 0 ∧ s.arg 0 = 0 ∧ s.arg 1 + s.arg 4 ≤ 2 ^ 39) :=
  ⟨⟨{ t0 with dev := { t0.dev with ready := false } }, rfl⟩, ⟨rfl, rfl, fun _ _ => rfl, rfl, rfl, by decide, by decide, rfl⟩,
   ⟨by decide, by decide, by decide, rfl⟩, ⟨by decide, by decide, rfl⟩, ⟨rfl, rfl, rfl, by decide⟩⟩

/-- PART of context 1 takes 48 ways in all, or does not; the two CSRs halves of which are named; and MIG_REQ. -/
theorem witness_HostAccesses_registers :
    (let s := { t0 with args := [1, 1, 0x040, 0x8210] }
     let v : Word := BitVec.ofNat 32 (s.arg 3)
     s.arg 0 ≠ 0 ∧ s.arg 1 < s.ctxs.length ∧ s.ctxIdle 1 = true ∧ bits v 5 0 + bits v 11 6 + bits v 17 12 = 32) ∧
    (let v : Word := 0x10410#32
     bits v 5 0 + bits v 11 6 + bits v 17 12 = 48 ∧ bits v 5 0 ≠ 0) ∧
    (∀ n ∈ [0x041, 0x043, 0x04D], ∃ s : State, s.arg 2 = n ∧ s.arg 0 ≠ 0) ∧
    (let s := { t0 with args := [1], migQueue := List.replicate 64 { ctx := 0, va := 0, toPool := false } }
     s.arg 0 ≠ 0 ∧ 64 ≤ s.migQueue.length ∧ s.migDropped ≠ BitVec.allOnes 16) ∧
    (t0.arg 0 = 0 ∧ t0.arg 0 < t0.peerRoute.length) := by
  refine ⟨by decide +kernel, by decide, fun n _ => ⟨{ t0 with args := [1, 0, n] }, rfl, Nat.one_ne_zero⟩, by decide, by decide⟩

/-- A request to move a 2 MiB page, to the tier where it is or to the other. -/
def tMoves (toPool : Bool) : State :=
  { t0 with
    migQueue := [{ ctx := 0, va := 0, toPool := toPool }]
    ctxs := setNth t0.ctxs 0 { t0.ctx 0 with ptRoot := 0x20000#64 }
    l2 := [(0x20000, 3#8), (0x20001, 0x10#8), (0x20002, 2#8), (0x21000, 3#8), (0x21001, 0x20#8), (0x21002, 2#8), (0x22000, 3#8), (0x22001, 0x40#8),
      (0x22002, 2#8), (0x24000, 0xE3#8)] }

theorem witness_HostAccesses_moves :
    (let s := tMoves true
     s.migQueue = { ctx := 0, va := 0, toPool := true } :: [] ∧ (({ s with migQueue := [] } : State).movable 0 0 true).isSome = true) ∧
    (let s := tMoves false
     s.migQueue = { ctx := 0, va := 0, toPool := false } :: [] ∧ (({ s with migQueue := [] } : State).movable 0 0 false).isNone = true) := by
  decide +kernel

theorem witness_BringUpAndPower :
    (∃ s : State, s.arg 0 = 0 ∧ Memory.wf s.dram = true) ∧ (∃ s : State, 1 ≤ s.arg 0 ∧ s.arg 0 ≤ 5) ∧ inPool (2 ^ 48) = true ∧
    (∃ s : State, s.dev.attBusy = true) ∧ (t0.dev.attBusy = false ∧ t0.dev.ready = true) ∧
    (∃ s : State, 8 ≤ s.arg 1 ∧ s.arg 1 ≤ 16 ∧ s.arg 0 < s.dev.clkStat.length) ∧ (∃ s : State, s.arg 1 < 8) ∧
    (∃ b ∈ t0.blocks, b.core?.isSome = true ∧ b.ctx < 64) ∧ ∃ s : State, s.blocks = [] :=
  ⟨⟨t0, rfl, rfl⟩, ⟨{ t0 with args := [5] }, by decide, by decide⟩, by decide, ⟨{ t0 with dev := { t0.dev with attBusy := true } }, rfl⟩, ⟨rfl, rfl⟩,
   ⟨{ t0 with args := [0, 8] }, by decide, by decide, by decide⟩, ⟨t0, by decide⟩, ⟨_, List.mem_singleton_self _, rfl, by decide⟩, State.reset, rfl⟩

theorem witness_NativeRoundTrip :
    encode (.iaddReg wordOps) = some 0x1805060708070000#64 ∧ (decode 0x1805060708070000#64).toOption = some (.iaddReg wordOps) := by
  decide

theorem witness_BankRoundTrip :
    BankWellFormed (.xliF2 1#4 5#16) ∧ encodeBank (.xliF2 1#4 5#16) = some 0x98810005#32 ∧
    (decodeBank 0x98810005#32).toOption = some (.xliF2 1#4 5#16) ∧ (encode (.iaddReg wordOps)).isSome = true := by
  exact ⟨(rfl : (encodeBank (.xliF2 1#4 5#16)).isSome = true), by decide, by decide, by decide⟩
/-- The slot that `a` sees has its turn. -/
def turnOf (s : State) (a : Actx) : Prop := s.actx = some a ∧ s.mayIssue a = true ∧ s.slotTurn a = true ∧ s.warpTurn a = true

/-- A warp of one path at an address, with some words of its clause left. -/
def atPc (pc : DWord) (left : Nat) : Warp := { tWarp with path0 := some { tPath with pc := pc, clause := { tPath.clause with left := left } } }

/-- The word due lies below code start, at the limit, past the space, or in a page that is not mapped. -/
theorem witness_StepRuns_limits :
    (∀ pc ∈ [0x10038#64, 0x20000#64, 0x200000000000000#64], turnOf (tState [atPc pc 1]) (tAx [atPc pc 1])) ∧
    (0x10038 : Nat) < (t0.codeLimits a0).1 ∧ (t0.codeLimits a0).2 ≤ 0x20000 ∧ 2 ^ 57 ≤ 0x200000000000000 ∧
    (let s := { t0 with tlb := [] }
     turnOf s a0 ∧ (s.fetchWord a0).1.isOk = false) := by
  simp only [List.forall_mem_cons]
  exact ⟨⟨⟨rfl, rfl, rfl, rfl⟩, ⟨rfl, rfl, rfl, rfl⟩, ⟨rfl, rfl, rfl, rfl⟩, fun _ h => nomatch h⟩, by decide, by decide, by decide,
    ⟨rfl, rfl, rfl, rfl⟩, rfl⟩

/-- A header of two words whose second lies at the code limit, a word that a header's place does not admit, one that decodes to
nothing, and a word that names a register a PMAT has yet to write. -/
theorem witness_StepRuns_words :
    (let w := atPc 0x1FFF8#64 0
     let s := (tState [w]).writePhys 0x5FFF8 (leBytes 8 0x7F00000020000000)
     turnOf s (tAx [w]) ∧ (s.fetchWord (tAx [w])).1 = .ok 0x7F00000020000000#64 ∧ wordAligned (tAx [w]).p = true ∧
     (match decode 0x7F00000020000000#64 with
      | .ok (.clauseStart h) => decide ((s.codeLimits (tAx [w])).2 < (tAx [w]).p.pc.toNat + 8 * (h.len.toNat + 1))
      | _ => false) = true) ∧
    (let w := atPc 0x10080#64 0
     let s := (tState [w]).writePhys 0x50080 (leBytes 8 0x1805060700070000)
     turnOf s (tAx [w]) ∧ (s.fetchWord (tAx [w])).1 = .ok 0x1805060700070000#64 ∧ placeDetail (tAx [w]).w (tAx [w]).p (decode 0x1805060700070000#64) = some 0x0B) ∧
    placeDetail tWarp tPath (decode 0x8000000000000000#64) = some 0x01 ∧ placeDetail tWarp { tPath with pc := 0x10084#64 } (decode 0#64) = some 0x0B ∧
    (let s := { tFetched 0x1805060700070000#64 with ops := [{ tLoad with kind := .pmat 5 [{ lane := 0, home := 3, slot := 0, ext := 0, keep := [] }] [] }] }
     turnOf s a0 ∧ (s.fetchWord a0).1 = .ok 0x1805060700070000#64 ∧ placeDetail a0.w a0.p (decode 0x1805060700070000#64) = none ∧
     (s.fetchWord a0).2.pmatHolds 0 0 (a0.w.namedRegs (.iaddReg okOps)) = true) :=
  ⟨⟨⟨rfl, rfl, rfl, rfl⟩, rfl, rfl, by decide +kernel⟩, ⟨⟨rfl, rfl, rfl, rfl⟩, rfl, rfl⟩, rfl, rfl, ⟨⟨rfl, rfl, rfl, rfl⟩, rfl, rfl, rfl⟩⟩

/-- The header of a clause waits for flag 0, which counts. -/
theorem witness_StepRuns_waits : ∃ (w : Warp) (h : Header), decode 0x7F00100020000000#64 = .ok (.clauseStart h) ∧ flagsClear w (.clauseStart h) = false :=
  ⟨{ tWarp with flags := List.replicate 12 1 }, _, rfl, by decide⟩

/-- NOP issues, ARRWAIT on an object in the phase it waits for stays, and an event has no issuing slot. -/
theorem witness_StepRuns_issued :
    (exec (.nop tOps) t0 = .next (t0.retire a0) ∧ t0.actx = some a0 ∧ t0.fillFault (t0.retire a0) = none ∧
     ∃ blk w, (t0.retire a0).warp? 0 0 = some (blk, w) ∧ w.ended = false ∧ w.trap = none ∧ w.frame.isSome = a0.w.frame.isSome ∧
      a0.p.wait = .ready ∧ w.path 0 ≠ some a0.p ∧ ∀ p id, w.path 0 = some p → p.wait ≠ .parked id) ∧
    (let o := { tOps with a := 6#8, sa := true, c := 0#8 }
     exec (.arrwait o) t0 = .next t0 ∧ t0.warp? 0 0 = some (a0.blk, a0.w) ∧ a0.w.path 0 = some a0.p) ∧
    ({ t0 with actor := .device } : State).actx = none ∧ t0.l2.length ≤ 65536 :=
  ⟨⟨rfl, rfl, by decide +kernel, _, _, rfl, rfl, rfl, rfl, rfl, by decide, by
      intro p id h
      cases h
      exact Wait.noConfusion⟩, ⟨by rfl, rfl, rfl⟩, rfl, by decide⟩
/-- P0 of lane 1 is a proxy predicate of a run of home 80; the branch has asked for its bit, or has it. -/
def pxWarp (w : Wait) : Warp :=
  { tWarp with path0 := some { tPath with wait := w }
               preds := setNth tWarp.preds 0 (setNth (nth [] tWarp.preds 0) 1 { val := false, px := some 0x50000000#32 }) }

/-- The bit is yet to be asked for, with the home there and lost; it is missing; and it has come, as 1 for lane 1 alone. -/
theorem witness_Branches_crossing :
    (let s := tState [pxWarp .ready]
     let a := tAx [pxWarp .ready]
     s.actx = some a ∧ a.crossLanes 0#3 = [(1, 0x50000000#32)] ∧ (∀ got, a.p.wait ≠ .crossing got) ∧ (s.ctx 0).lost (pxHome 0x50000000#32) = false ∧
     ((withCtx (fun c => { c with pxLost := setNth c.pxLost 2 0x10000#32 }) s).ctx 0).lost (pxHome 0x50000000#32) = true) ∧
    (tAx [pxWarp (.crossing [])]).guardLanes false 0#3 = none ∧ (tAx [pxWarp (.crossing [(1, true)])]).guardLanes false 0#3 = some 2#32 ∧
    (tAx [pxWarp (.crossing [(1, false)])]).guardLanes false 0#3 = some 0#32 ∧ a0.guardLanes false 7#3 = some 0xF#32 := by
  refine ⟨⟨rfl, by decide +kernel, ?_, rfl, rfl⟩, by decide +kernel, by decide +kernel, by decide +kernel, by decide +kernel⟩
  intro got h
  exact Wait.noConfusion h

/-- A branch table of two entries, the second with the upper half given; lanes 0 to 3 read the indexes of V6. -/
def tTable (hi : Nat) (w : Warp) : State :=
  { tState [w] with
    l2 := (leBytes 8 0x20800000002 ++ leBytes 8 0x300000005 ++ leBytes 8 (hi * 2 ^ 32 + 5)).zipIdx.map fun x => (0x50200 + x.2, x.1) }
def idx1 : Warp := withV 6 1#32 false tWarp

/-- An index at the length of its table, a table that is not there, an entry with a reserved field, and one whose rejoin differs. -/
theorem witness_Branches_brx_faults :
    (leNat (leBytes 8 0x20800000002) % 2 ^ 16 = 2 ∧ ((tState [withV 6 2#32 false tWarp]).val (tAx [withV 6 2#32 false tWarp]) (.reg 6#8 false) 0).toNat = 2) ∧
    tObj.ntab ≤ (1#16).toNat ∧
    (∀ hi ∈ [0x10003, 4], ((tTable hi idx1).readConst 0 0 (tRecord.kobj + tObj.tdir) 8).1.toOption = some (leBytes 8 0x20800000002)) ∧
    ((((tTable 0x10003 idx1).readConst 0 0 (tRecord.kobj + tObj.tdir) 8).2.readEntries (tAx [idx1]) (tRecord.kobj + 0x208) [1, 0]).1.toOption.map
      fun es => es.any fun e => !e.2.2) = some true ∧
    (((tTable 4 idx1).readConst 0 0 (tRecord.kobj + tObj.tdir) 8).2.readEntries (tAx [idx1]) (tRecord.kobj + 0x208) [1, 0]).1.toOption =
      some [(4, 5, true), (3, 5, true)] := by
  decide +kernel

/-- Lanes 0 and 1 go to the entry's target and lanes 2 and 3 to the next word, in two groups. -/
theorem witness_Branches_brx_groups :
    (let goal (l : Nat) : DWord := if l < 2 then 0x100A8#64 else 0x10088#64
     groupLanes ((lanesOf (0xF#32)).map fun l => (l, goal l)) = [(0x100A8#64, 3#32), (0x10088#64, 12#32)]) ∧
    (let a := tAx [halfWarp tWarp]
     a.guardLanes false 0#3 = some 3#32 ∧ a.w.stack.length + 1 ≤ (tTable 3 (halfWarp tWarp)).divCapacity a.blk) := by
  decide

/-- A promise whose deadline has passed: kept, missed under PROMTRAP, and missed without it. -/
theorem witness_ClausesAndSleeps_promise :
    (let o := { tOps with sa := true, sb := true }
     t0.Acts a0 o.gn o.g ∧ (t0.scalar a0 o.a o.sa - BitVec.ofNat 32 (t0.cycle (clusterOf a0.core))).toInt ≤ 0 ∧
     t0.checkObj a0 (t0.scalar a0 o.b o.sb).toNat = none ∧ (t0.arrObj 0 0).phase = o.mod.getLsbD 0 ∧ (t0.arrObj 0 0).phase ≠ ({ o with mod := 1#6 } : Opnds).mod.getLsbD 0) ∧
    (t0.ctx 0).schedExp.getLsbD 0 = false ∧ ((withCtx (fun c => { c with schedExp := c.schedExp ||| 1#32 }) t0).ctx 0).schedExp.getLsbD 0 = true ∧
    ((t0.yieldTo a0).warp? 0 0).isSome = true :=
  ⟨⟨⟨rfl, rfl, by decide⟩, by decide, by decide +kernel, by decide, by decide⟩, rfl, rfl, rfl⟩
/-- An LDS and an STS of lanes 0 and 1 in flight, behind nothing. -/
theorem witness_Scratchpad_completion :
    (∀ k ∈ [OpKind.lds [ldsLane tOps 0x40 0, ldsLane tOps 0x44 1], .sts [(0x40, [1#8, 2#8]), (0x41, [3#8])]],
      (tFlight { tLoad with kind := k } [5]).op? ((tFlight { tLoad with kind := k } [5]).arg 0) = some { tLoad with kind := k } ∧
      (tFlight { tLoad with kind := k } [5]).oldestSpad 0 0 = some { tLoad with kind := k }) ∧
    t0.block? 0 = some a0.blk ∧ cellWf 0#8 a0.blk.spad = true ∧ ∃ x, x ∈ [(0x40, [1#8, 2#8]), (0x41, [3#8])] ∧ (0x3F : Nat) < x.1 :=
  ⟨by decide +kernel, rfl, rfl, (0x40, _), List.mem_cons_self, by decide⟩

/-- A load returns the newest point of its byte, and one older that a store has passed; the prefetch has no guard to fail. -/
theorem witness_Memory_times :
    (let q := MemTag.warp 0 0 0 9
     t0.readTime q none [0x50100] t0.memTime = some t0.memTime ∧
     let s := t0.storeBytes [(0x50100, 1#8)] (MemTag.warp 1 0 8 7)
     s.readTime q none [0x50100] 0 = some 0 ∧ 0 < s.memTime ∧ (∀ x ∈ [0x50100], inWindow x = false)) ∧
    (let s := tFlight tLoad [5, 1]
     s.arg 2 = 0 ∧ (s.readyLanes tLoad s.memTime 1 [{ lane := 0, bytes := [0x50100, 0x50101, 0x50102, 0x50103], dst := 5, scalar := false, sz := 0 }]).length = 1) := by
  decide +kernel

/-- An object to which nothing has yet to arrive, and one to which a transfer has. -/
theorem witness_ArrivalObjects_due :
    t0.spadReady = t0 ∧ t0.arrivalDue 0 0 = false ∧ ({ t0 with xfers := [tXfer] } : State).arrivalDue 0 0 = true ∧
    ({ t0 with xfers := [tXfer] } : State).spadReady = { t0 with xfers := [tXfer] } := ⟨rfl, by decide +kernel, by decide +kernel, rfl⟩

/-- A unit in each direction between scratchpad offset 0x20 and 0x10100 or 0x10180, of a transfer whose sides do not overlap. -/
def tUnit (from_ to_ : Bool) : XUnit := { srcSpad := from_, src := if from_ then 0x20 else 0x10180, idx := none, dstSpad := to_, dst := if to_ then 0x20 else 0x10100, len := 4 }
def tMove (from_ to_ : Bool) : Xfer := { tXfer with engine := .copy, units := [tUnit from_ to_] }

theorem witness_Transfers_units :
    (∀ u ∈ [(true, false), (false, true), (false, false)], let x := tMove u.1 u.2
      let s := tMoving x
      s.xfer? 9 = some x ∧ x.units[0]? = some (tUnit u.1 u.2) ∧ x.held = none ∧ x.behind 0 (tUnit u.1 u.2) = false ∧ x.clash = false ∧
      (s.engineAddrs x .read false [0x10180, 0x10181, 0x10182, 0x10183]).1.toOption = some [some 0x50180, some 0x50181, some 0x50182, some 0x50183] ∧
      (s.engineAddrs x .write true [0x10100, 0x10101, 0x10102, 0x10103]).1.toOption = some [some 0x50100, some 0x50101, some 0x50102, some 0x50103] ∧
      s.earlierTouch 9 0 0 [0x50180, 0x50181, 0x50182, 0x50183, 0x50100, 0x50101, 0x50102, 0x50103] = false ∧
      s.readTime x.readTag (some x.start) [0x50180, 0x50181, 0x50182, 0x50183] s.memTime = some s.memTime) ∧
    t0.block? 0 = some a0.blk ∧ cellWf 0#8 a0.blk.spad = true ∧ t0.memoryWf = true ∧
    (∀ i, i < 4 → inWindow (0x50100 + i) = false ∧ inWindow (0x50180 + i) = false ∧ t0.uncached (0x50100 + i) = false) ∧
    [0x50100, 0x50101, 0x50102, 0x50103].Nodup ∧ (sS 0#32 0#32 0#32).spadReady = sS 0#32 0#32 0#32 :=
  ⟨by decide +kernel, rfl, rfl, by decide +kernel, by decide +kernel, by decide, rfl⟩

/-- A period of the die's cluster 0 has passed, or has not. -/
theorem witness_CachesAndTables_harvest :
    (let s := { t0 with actor := .device, args := [0], cyc := List.replicate 32 (2 ^ 20) }
     s.arg 0 < 4 ∧ nth 0 s.harvests (s.arg 0) < s.cycle (8 * s.arg 0) / 2 ^ 20) ∧
    t0.cycle 0 / 2 ^ 20 ≤ nth 0 t0.harvests 0 ∧ 4 ≤ ({ t0 with args := [4] } : State).arg 0 ∧ (t0.fillOf 0x50100 = none) := by
  decide +kernel

/-- The scratchpad has an ATOMS of one lane to apply; its compare and swap finds the word unequal. -/
theorem witness_Atomics_scratchpad :
    (let op := { tLoad with kind := .atoms .add false 4 [{ lane := 0, pa := 0x40, b := 3, c := 0 }] (some 5) }
     (tFlight op [5]).block? 0 = some a0.blk ∧ cellWf 0#8 a0.blk.spad = true ∧ leNat ((tFlight op [5]).spadRead 0 0x40 4) = 0) ∧
    atomFn .add false 32 0 3 0 = some 3 ∧ atomFn .cas false 32 0 3 7 = none ∧
    (let s := tServe [(0x2808, [{ lane := 0, pa := 0x50100, b := 3, c := 0 }])] []
     (s.service.filter fun q => q.1 == s.arg 0)[s.arg 1]? = some (2, 5, 0x2808)) := by
  decide +kernel

/-- A fence behind an LDS, an atomic, an ATOMS, a JDEC, a WAITA, a store and a posted write; and behind an open epoch. -/
theorem witness_FencesAndWaits_holds :
    (∀ k ∈ [OpKind.lds [], .atomic .add false 4 [] none 4, .atoms .add false 4 [] none, .jdec 0 0 0],
      ({ t0 with ops := [{ tLoad with kind := k }] } : State).fenceMet a0 .rel 0 = false) ∧
    ({ t0 with waits := [tEntry] } : State).fenceMet a0 .acq 0 = false ∧ ({ t0 with ops := [{ tLoad with kind := .sts [] }] } : State).fenceMet a0 .rel 0 = false ∧
    (let p : Posted := { pa := 2 ^ 51, val := 0#8, agent := .warp 0 0, route := 0#32 }
     ({ t0 with posted := [p] } : State).fenceMet a0 .rel 5 = false) ∧
    t0.actxAt a0.bid a0.wi a0.slot = some a0 := by
  refine ⟨by decide +kernel, by decide +kernel, by decide +kernel, by decide +kernel, rfl⟩

/-- A request that has not reached its slice: to a window, behind a store to its word, with its condition met, and with it not. -/
theorem witness_WaitEntries_requests :
    (let e := { tEntry with there := false }
     (∀ x ∈ [e, { e with pa := 2 ^ 51 }, { e with expected := 0#32 }],
       ({ t0 with args := [3], waits := [x] } : State).waits.find? (fun y => y.id == 3) = some x ∧ x.there = false) ∧
     inWindow e.pa = false ∧ inWindow (2 ^ 51) = true ∧
     ({ t0 with ops := [{ tStore with id := 1 }] } : State).earlierTouch 3 0 0 [0x50100, 0x50101, 0x50102, 0x50103] = true ∧
     t0.earlierTouch 3 0 0 [0x50100, 0x50101, 0x50102, 0x50103] = false ∧
     waitHolds .eq (0#32 &&& 1#32) (1#32 &&& 1#32) = false ∧ waitHolds .eq (0#32 &&& 1#32) (0#32 &&& 1#32) = true) ∧
    (let full := List.replicate 256 tEntry
     256 ≤ (full.filter fun y => y.there && sliceOf y.pa == sliceOf 0x50100).length) := by
  decide +kernel
/-- A size class whose code lies before the code range. -/
theorem witness_SpawnsDecrementsAndPhases_outside :
    (let bs := leBytes 8 0x500000020
     classEntries bs 1 = [(5, 0x20)] ∧ (0x20 : Nat) < tObj.codestart ∧ ascending ((classEntries bs 1).map (·.1)) = true) ∧
    ((∀ i, i < 4 → (tSpawn 0#8 1#8 0#8).uncached (0x50100 + 12 + i) = false) ∧ overWf (tSpawn 0#8 1#8 0#8).l2 = true) ∧
    (tSpawn 0#8 0#8 0#8).earlierTouch (tSpawn 0#8 0#8 0#8).nextId 0 0 ((List.range 64).map (0x50100 + ·)) = false := by
  decide +kernel

/-- A warp of 12 blocks and REGB 12 holds the reserve, and one of 13 blocks gives up one. -/
theorem witness_BlocksOfRegistersAndSwitches_release :
    (let s := { tClassed with cores := setNth tClassed.cores 0 { tClassed.core 0 with holder := some (0, 0) } }
     (s.variantOf a0.blk).map (·.regb) = some 12 ∧ (sA 3#32 0#32 0#32).w.b < 12 + 1 ∧ (sA 3#32 0#32 0#32).w.b = 12 + 0 ∧ (s.core 0).holder = some (0, 0) ∧
     s.Acts (sA 3#32 0#32 0#32) false 7#3) ∧
    (tClassed.core 0).holder ≠ some (0, 0) ∧
    (let a := { tAx [asleep .blocked] with slot := 1 }
     ∃ slot n start, (a.bid, a.wi, slot, n, start) ∈ ((tParked [0] 0).core a.core).parks) :=
  ⟨⟨rfl, by decide, rfl, rfl, ⟨rfl, rfl, by decide⟩⟩, by decide, 0, 3, 0, List.mem_singleton_self _⟩

/-- A point that the only warp has reached within its 1,024 cycles, and one that a warp still lacks at their end. -/
theorem witness_BlocksOfRegistersAndSwitches_grace :
    (let x : SwitchWait := { k := 2, start := 0, arrived := [(0, 0)], spoiled := false, whole := true, passed := false }
     let b := { tBlock [tWarp] with reshape := some tRequest, switches := [x] }
     (tSwitch x tWarp 0).block? 0 = some b ∧ b.loc = .core 0 ∧ b.ending = none ∧ b.stopping = false ∧ b.switches = [x]) ∧
    (let x : SwitchWait := { k := 2, start := 0, arrived := [], spoiled := false, whole := false, passed := false }
     x.start + 1024 ≤ (tSwitch x tWarp 1024).cycle (clusterOf 0) ∧ (tSwitch x tWarp 1023).cycle (clusterOf 0) < x.start + 1024) :=
  ⟨⟨rfl, rfl, rfl, rfl, rfl⟩, by decide, by decide⟩

/-- The offer still stands when its partner's XPAIR looks; a warp has posted already; no lane is active on both sides. -/
theorem witness_PairsOfWarps_again :
    (let s := { tPairing [tOffer] [] with blocks := [tBlock [sW 8#32 5#32 0#32], { tBlock [tWarp] with id := 1, loc := .core 8 }] }
     let a := sA 8#32 5#32 0#32
     (((s.loseIdemp a).endPairs a.bid a.wi).endOffers).offers = [tOffer]) ∧
    (let s : State := { t0 with pairs := [tPair (some tPost) none] }
     s.pairOf 0 0 = some (tPair (some tPost) none) ∧ (tPair (some tPost) none).post0 ≠ none ∧ s.ActsOn a0 tOps [tOps.srcA]) ∧
    t0.actxAt 0 0 tPost.slot = some a0 ∧ tPost.active &&& ({ tPost with active := 0xF0#32 } : Post).active = 0#32 := by
  refine ⟨by decide +kernel, ⟨rfl, by decide, ⟨rfl, rfl, by decide⟩, rfl⟩, rfl, by decide⟩

/-- No older entry waits for a block of registers; the oldest asynchronous trap of a warp at a boundary is next. -/
theorem witness_TrapEntryAndReturn_waits :
    (let t : Trap := { code := 0x10#8, detail := 0#8, addr := 0#64, slot := 0, skip := true, seq := 100 }
     let s := (tHandled tWarp).withTrap 0 0 t
     s.lendable 0 = some false ∧ s.entriesBefore 0 t < s.poolFree 0 + s.reserveFree 0 ∧ tWarp.trap = none) ∧
    (let x : AsyncTrap := { code := 0x24#8, detail := 1#8, addr := 0#64 }
     let w := { tWarp with async := [x] }
     let s := { tHandled w with actor := .device, args := [0, 0] }
     s.warp? 0 0 = some (tBlock [w], w) ∧ w.trap = none ∧ w.async = [x] ∧ w.asyncSlot = some 0 ∧ w.path 0 = some tPath ∧ w.frame = none ∧
     w.isParked = false ∧ (tBlock [w]).stopping = false ∧ (tBlock [w]).ending = none ∧ s.blockHeld 0 = false ∧ (tBlock [w]).switching = false ∧
     (s.ctx 0).trapVec ≠ 0#64 ∧ (t0.ctx 0).trapVec = 0#64) := by
  decide +kernel

/-- A handler entered by slot 0 alone, whose path resumes at a rejoin point of its join record, or in the open. -/
def tAlone (pc : DWord) : Warp :=
  { tInHandler with
    path1 := none, path0 := some { tPath with join := some 0 }, trapPc := pc, nextJoin := 1
    stack := [.join { id := 0, seq := 0, rejoin := 0x10100#64, mask := 0xF#32, arrived := 0#32, parent := none, call := false }] }

theorem witness_TrapEntryAndReturn_resumes :
    (let f : Frame := { vregs := List.replicate 8 VReg.zero, sregs := List.replicate 8 5#32, latches := [], clause := { s1 := none, s2 := none, left := 3 }
                        slot := 0, wait := .ready, fromReserve := false }
     (tAlone 0x10100#64).frame = some f ∧ (tAlone 0x10100#64).vregs.length = 8 * (tAlone 0x10100#64).b ∧
     ((tAlone 0x10100#64).backAt 0 { tPath with join := some 0 } f 0 false).dueAtRejoin 0 = some (0, 0xF#32) ∧
     ((tAlone 0x10088#64).backAt 0 { tPath with join := some 0 } f 0 false).dueAtRejoin 0 = none ∧
     ((tAlone 0x10088#64).backAt 0 { tPath with join := some 0 } f 0 false).dueAtRejoin 1 = none ∧ (tAlone 0x10088#64).path 1 = none) ∧
    (tState [{ tInHandler with path1 := none }]).busy 0 0 = false ∧
    ({ tState [tInHandler] with ops := [tLoad] } : State).busy 0 0 = true := by
  decide +kernel

/-- The number fields that name CSRs, in a context with a value set in each; and the two writes of the expert controls. -/
theorem witness_ControlRegisterInstructions_numbers :
    (∀ n ∈ [0x011, 0x020, 0x042, 0x05C, 0x080], ({ tOps with b := BitVec.ofNat 8 (n / 256), c := BitVec.ofNat 8 n } : Opnds).imm16.toNat % 4096 = n) ∧
    (∀ num ∈ [0x022, 0x023], let op := { tLoad with kind := .csrw 0 num 3#32 }
      (tFlight op [5]).op? 5 = some op ∧ op.ctx < (tFlight op [5]).ctxs.length) := by
  decide +kernel

/-- A wait of the context whose record FR_HEAD passes, and one it does not; KILL finds a stitch of the context. -/
theorem witness_FaultRecordsAndContexts_passes :
    (let s : State := { t0 with args := [0, 1], faultWaits := [tFault (.swap 0) false] }
     s.dev.ready = true ∧ s.arg 0 < s.ctxs.length ∧ (tFault (.swap 0) false).ctx = s.arg 0 ∧ (tFault (.swap 0) false).seq = some 0#32 ∧
     0 < (BitVec.ofNat 32 (s.arg 1) - 0#32).toInt ∧ ¬ 0 < (BitVec.ofNat 32 0 - 0#32).toInt) ∧
    ((tRinged (some (tStitch true)) .peek []).ring.at 0).stitch = some (tStitch true) ∧ (tStitch true).ctx = 0 :=
  ⟨by decide +kernel, rfl, rfl⟩
/-- The holder reads its own stitch again with CAP; a WR finds that its hold is lost. -/
theorem witness_CircularPasses_holder :
    (let hs : List HoldRec := [{ handle := 0#32, serial := 4#32 }]
     (tRinged (some (tStitch true)) .cap hs).AtStitch (tReq .cap) 0 (tAx [tHolder hs]) (tStitch true) ∧ (tReq .cap).passed = false ∧
     hs.find? (fun h => h.handle == (tReq .cap).handle) = some { handle := 0#32, serial := 4#32 }) ∧
    (let hs : List HoldRec := [{ handle := 0#32, serial := 5#32 }]
     (tRinged (some (tStitch true)) (.wr false [] 1) hs).AtStitch (tReq (.wr false [] 1)) 0 (tAx [tHolder hs]) (tStitch true) ∧
     (5#32 : Word) ≠ (tStitch true).serial) :=
  ⟨⟨ring_stitch _ _ _ (by decide), rfl, rfl⟩, ring_stitch _ _ _ (by decide), by decide⟩

/-- Every position of the ring is occupied by another context. -/
theorem witness_CircularInstructions_full :
    let s := { t0 with ring := { Ring.cleared with pos := List.replicate 1280 { gen := 0#5, stitch := some { tStitch false with ctx := 1 } }
                                                   reqs := [{ tReq (.cast []) with claimed := false }] } }
    1024 ≤ s.circFull ∧ s.circUsed 0 < (s.ctx 0).circLimit := by
  decide +kernel

/-- A grant whose K falls on a salvaged die. -/
theorem witness_ShapesAreReadAndKept_restore :
    let x : Shape := { tShape false with reqK := 256#9, gk := 256#9, tk := 3#9, reqM := 16#8 }
    x.v = true ∧ 0 < x.reqM.toNat ∧ 0 < x.reqN.toNat ∧ 0 < x.reqK.toNat ∧ (x.regrant true).gk ≠ x.gk := by
  decide

/-- Registers beyond the warp's, a first row beyond the scratchpad of 16 KiB, and a second row beyond it. -/
theorem witness_AccumulatorAndFragments_limits :
    (tFrag 0#32 16#32).hasRun 95 2 = false ∧ (tState [tFrag 0x4000#32 16#32]).scalar (tAx [tFrag 0x4000#32 16#32]) 16#8 true = 0x4000#32 ∧
    (tState [tFrag 0x3FF0#32 16#32]).scalar (tAx [tFrag 0x3FF0#32 16#32]) 16#8 true = 0x3FF0#32 ∧
    (tState [tFrag 0x4000#32 16#32]).spadSize (tBlock []) = 16384 ∧ (tState [tFrag 0x3FF0#32 16#32]).spadSize (tBlock []) = 16384 ∧
    t0.spadTurnOf a0 = t0 ∧ t0.oldestSpad 0 0 = none :=
  ⟨by decide, rfl, rfl, rfl, rfl, rfl, rfl⟩
/-- V6 holds a proxy in lane 0 alone, of the given extent; V7 is plain. -/
def tMixed (h : Word) : Warp :=
  { tWarp with vregs := setNth tWarp.vregs 6 { lanes := { val := h, px := true } :: List.replicate 31 (KVal.plain 5#32), uni := false } }

/-- A capable instruction with a proxy of one word in lane 0 and plain words elsewhere, into a register, a predicate and P7; with a
proxy of four words under ITEST; and with its home lost. -/
theorem witness_ProxyResults_forms :
    (let s := withChunk (tState [tMixed 0x50000000#32])
     let a := tAx [tMixed 0x50000000#32]
     s.Acts a false 7#3 ∧ proxiesOf ([tOps.srcA, tOps.srcB].map fun x => s.src a x 0) = [0x50000000#32] ∧
     proxiesOf ([tOps.srcA, tOps.srcB].map fun x => s.src a x 1) = [] ∧ (s.ctx 0).lost 80 = false ∧ 80 < s.homes.length ∧
     s.storesOk 0 ∧ (PxDst.reg 5#8 false).keeps a.w ∧ (PxDst.pred 1).keeps a.w ∧ (s.takeRuns 0 0 [(80, 0, 1)]).isOk = true ∧
     ((withCtx (fun c => { c with pxLost := setNth c.pxLost 2 0x10000#32 }) s).ctx 0).lost (pxHome 0x50000000#32) = true) ∧
    extClash [0x50000000#32] = false ∧ pxExt 0x50000080#32 ≠ 0 ∧ (PxDst.pred 7) = .pred ({ tOps with d := 7#8 } : Opnds).d.toNat ∧
    (∀ h cmp op, (capableForms h cmp op tOps).length = 33) :=
  ⟨⟨⟨rfl, rfl, by decide⟩, by decide +kernel, by decide +kernel, rfl, by decide +kernel, ⟨by decide +kernel, by decide +kernel⟩,
     ⟨rfl, by decide, .inr (by decide : 5 < (tAx [tMixed 0x50000000#32]).w.vregs.length)⟩, ⟨by decide, by decide⟩, rfl, rfl⟩,
   by decide, by decide, rfl, fun _ _ _ => rfl⟩

/-- MOV and SEL of a handle whose run has a few references, and of one at the count of 255. -/
theorem witness_ProxyResults_moves :
    (∀ n ∈ [3, 255], let s := { withChunk (tState [tMixed 0x50000000#32]) with homes := setNth State.reset.homes 80 { runs := [tRun 0 n], words := [] } }
      let a := tAx [tMixed 0x50000000#32]
      ((lanesOf (a.lanes tOps)).filter fun l => (s.src a tOps.srcA l).px && !(s.ctx 0).lost (pxHome (s.src a tOps.srcA l).val)) = [0] ∧
      (s.overCount [(0, 0x50000000#32)]).length = (if n = 255 then 1 else 0) ∧ (s.takeRuns 0 0 [(80, 0, 1)]).isOk = true ∧
      (s.home 80).live? 0 = some (tRun 0 n)) ∧
    (tRun 0 3).refs + 32 ≤ 255 ∧ (tAx [tMixed 0x50000000#32]).plainPreds tOps [0] := by
  refine ⟨by decide +kernel, by decide, ?_⟩
  intro n _ l _
  exact zero_preds _ rfl n l

/-- Requests that a home may serve, a run that is live with its count and references, and the whole store without one free slot. -/
theorem witness_ProxyHomes_served :
    (∀ k ∈ [PxKind.snapshot 0x50100 1 0 0, .operate (.iadd false false) [.run 80 0 0, .plain 1#32] 1 0],
      (tHomed k false 1).proxyServes (tPxReq k false) = true ∧ (tPxReq k false).served = false) ∧
    ((tHomed (.copy 80 0 0 0) false 1).home 80).live? 0 = some (tRun 0 1) ∧
    (tHomed (.copy 80 0 0 0) false 1).freeGroup 80 (runSlots 0) (32768 / runSlots 0) 0 = some 1 ∧
    (let s := { withChunk t0 with args := [0, 80, 0] }
     (s.home 80).held 0 8 = false ∧ ({ s with homes := setNth s.homes 80 { runs := [tRun 0 1], words := [] } } : State).home 80 = { runs := [tRun 0 1], words := [] }) ∧
    (let c := { Core.idle with ctx := some 0, chunks := List.replicate 17 { home := 80, base := 0, used := 0 } }
     16 < c.chunks.length) := by
  decide +kernel

/-- PMAT.S behind the warp's earlier scratchpad accesses, with a lost home; PMAT of a lost home. -/
theorem witness_ProxyInstructions_turns :
    t0.spadTurnOf a0 = t0 ∧ t0.oldestSpad 0 0 = none ∧ t0.block? 0 = some a0.blk ∧ cellWf 0#8 a0.blk.spad = true ∧
    ((withCtx (fun c => { c with pxLost := setNth c.pxLost 2 0x10000#32 }) (tState [tPx 0#32])).ctx 0).lost (pxHome 0x50000000#32) = true ∧
    a0.w.resolve 6#8 false = (6, false) :=
  ⟨rfl, rfl, rfl, rfl, rfl, rfl⟩

/-- A channel with no refresh due whose only context is the one given. -/
def tServed (k : BankCtx) : State :=
  { tBank [0#32] false with chans := setNth State.reset.chans 0 { Chan.empty with cx := setNth Chan.empty.cx 0 (some k) } }

/-- Under STEP a WR or CRD halts its context; with REF a CRD.REF marks its row; a context whose due word belongs to its other
thread. -/
def tStep : BankCtx := tColumn fun k => { k with launch := { k.launch with step := true, code := [0#32] } }
def tRefs : BankCtx := tColumn fun k => { k with launch := { k.launch with ref := true } }

theorem witness_BankColumnsAndChannels_step :
    ((tServed tStep).BankDoes 0 0 tStep (.wr 2#4) ∧ (tServed tStep).BankDoes 0 0 tStep (.crd 2#4) ∧ tStep.launch.step = true ∧
     (tServed tRefs).BankDoes 0 0 tRefs (.crdRef 2#4) ∧ tRefs.launch.ref = true) ∧
    (∀ k ∈ [tStep, tRefs], (tServed k).columnTurn 0 0 = true ∧ (tServed k).columnServes 0 = true ∧
      (tServed k).behindLauncher k.launch (regionAddr k.launch.region 0 64) 8 = false ∧
      (tServed k).behindLauncher k.launch (regionAddr k.launch.region 0 64) 64 true = false) ∧
    (bankThread .xnext ≠ false ∧ (encodeBank .xnext).isSome = true) ∧ (bankThread (.crd 2#4) ≠ true ∧ (encodeBank (.crd 2#4)).isSome = true) := by
  refine ⟨⟨⟨rfl, rfl, rfl, rfl, by decide, rfl⟩, ⟨rfl, rfl, rfl, rfl, by decide, rfl⟩, rfl, ⟨rfl, rfl, rfl, rfl, by decide, rfl⟩, rfl⟩, by decide +kernel,
    by decide, by decide⟩

/-- A burst finds a proxy request first, or a CRD of the only context of the channel under STEP. -/
def tBurst : BankCtx := tColumn fun k => { k with launch := { k.launch with step := true, code := [0x28100000#32] } }
def tBurstAt : State :=
  { tBank [0#32] false with
    args := [0], actor := .device, chans := setNth State.reset.chans 0 { Chan.empty with cx := setNth Chan.empty.cx 0 (some tBurst) } }

theorem witness_BankColumnsAndChannels_burst :
    (let r := tPxReq (.operate (.iadd false false) [.run 80 0 0, .plain 1#32] 1 0) false
     let s := { tHomed r.kind false 1 with args := [80] }
     s.proxyCommand (s.arg 0) = some r ∧ s.proxyServes r = true ∧ s.pxReq? r.id = some r ∧
     (s.pxReqs.all fun y => match y.kind with | .copy _ _ _ _ => false | _ => true) = true) ∧
    (tBurstAt.pxReqs = [] ∧ tBurstAt.columnServes 0 = true ∧ (tBurstAt.bankCtx? 0 1 = none ∧ tBurstAt.bankCtx? 0 2 = none ∧ tBurstAt.bankCtx? 0 3 = none) ∧
     tBurstAt.bankCtx? 0 0 = some tBurst ∧ tBurst.launch.step = true ∧ tBurst.state = .running ∧
     tBurst.due false = some (.crd 2#4) ∧ tBurst.cause? false (.crd 2#4) = none ∧ tBurst.waits (.crd 2#4) = none ∧
     tBurstAt.behindLauncher tBurst.launch (regionAddr [0] 0 64) 64 true = false) ∧
    tBurstAt.proxyCommand 0 = none ∧ tBurstAt.columnNext 0 = some 0 ∧ t0.proxyCommand 0 = none ∧ t0.columnNext 0 = none := by
  decide +kernel

/-- A descriptor that asks for a notification, with its object misaligned, beyond the scratchpad, and inside it. -/
theorem witness_BankLaunches_notify :
    (∀ x ∈ [(4, false), (0x4000, true), (0x40, true)], let d := tDesc + 2 ^ 258 + x.1 * 2 ^ 704
      descOk d = true ∧ d.testBit 258 = true ∧ d >>> 704 % 2 ^ 32 = x.1 ∧ (x.1 % 8 == 0) = x.2) ∧ t0.spadSize a0.blk = 16384 := by
  decide +kernel

/-- The head's record names an object in a page that is not present, with a fault ring and without one; a record is held. -/
def tLost : Record := { tHead.r with obj := none, kobj := 0x20000000 }
def tAbsent (base : DWord) : State :=
  let s := withCtx (fun c => { c with frBase := base }) (tQueued tLost 0 false)
  { s with l2 := s.l2 ++ [(0x22008, 0xE1#8)] }

theorem witness_DispatchAndPlacement_held :
    (tAbsent 0#64).heads = [{ tHead with r := tLost }] ∧ (tAbsent 0x12004#64).heads = [{ tHead with r := tLost }] ∧
    (match (tAbsent 0x12004#64).readObj 0 0 0x20000000 with | .absent x => x == 0x20000000 | _ => false) = true ∧
    ((tAbsent 0#64).ctx 0).hasCore 0 = true ∧ ((tAbsent 0#64).ctx 0).ringLog = none ∧ ((tAbsent 0x12004#64).ctx 0).ringLog ≠ none ∧
    ((tQueued { tHead.r with held := some 6 } 0 false).heads.map fun h => (h.ok, h.r.held)) = [(true, some 6)] := by
  decide +kernel

/-- The head lacks room; a block of lower priority leaves it room when it goes, or none runs. -/
theorem witness_RoomIsMade_frees :
    (let r := { tHead.r with room := some 50, id := 5, prio := 3 }
     let s := { withCtx (fun c => { c with coreMask := List.replicate 8 0#32 }) (tQueued r 100 false) with args := [0], blocks := [tBlock [tWarp]] }
     let b := tBlock [tWarp]
     s.slotHead 0 = some { tHead with r := r } ∧ (50 : Nat) ≤ s.ns ∧ s.lacksRoom { tHead with r := r } = some tObj ∧
     (∀ b ∈ s.blocks, b.ctx = r.ctx → b.stopping = false) ∧
     b ∈ s.blocks ∧ b.ctx = r.ctx ∧ b.prio < r.prio ∧ s.runs b = true ∧ b.core? = some 0 ∧
     ∃ v ∈ tObj.variants, (s.fitsBeside (fun x => x.id != b.id) [] 0 b.ctx v.need).isSome = true) ∧
    (tMakes (some 50)).blocks = [] := by
  decide +kernel

/-- Every frame of a tier meets a range in use. -/
theorem freeFrame_none {used : List (Nat × Nat)} {base count size : Nat} (hs : 0 < size) (hc : 0 < count)
    (h : (base, count * size) ∈ used) : ∀ fuel n, freeFrame used base count size fuel n = none := by
  intro fuel
  induction fuel with
  | zero => intro n; rfl
  | succ fuel ih =>
    intro n
    have hn : n % count * size + size ≤ count * size := by
      have := Nat.mod_lt n hc
      calc n % count * size + size = (n % count + 1) * size := by ring
        _ ≤ count * size := Nat.mul_le_mul_right _ this
    simp only [freeFrame]
    split
    · next hf =>
      have := List.find?_eq_none.mp hf _ h
      simp only [Bool.and_eq_true, decide_eq_true_eq, not_and] at this
      omega
    · exact ih _

/-- No range in use reaches a tier: the first frame looked at is free. -/
theorem freeFrame_some {used : List (Nat × Nat)} {base count size : Nat} (h : ∀ r ∈ used, r.1 + r.2 ≤ base) {fuel : Nat} (h0 : 0 < fuel) (n : Nat) :
    freeFrame used base count size fuel n = some (base + n % count * size) := by
  obtain ⟨k, rfl⟩ := Nat.exists_eq_succ_of_ne_zero (Nat.pos_iff_ne_zero.mp h0)
  have hf : (used.find? fun r => decide (r.1 < base + n % count * size + size) && decide (base + n % count * size < r.1 + r.2)) = none := by
    refine List.find?_eq_none.mpr fun r hr => ?_
    have := h r hr
    simp only [Bool.and_eq_true, decide_eq_true_eq, not_and]
    omega
  simp only [freeFrame, hf]

/-- The pool has a frame when nothing in use reaches it, and none when a range takes it up. -/
theorem frameAt_pool {s : State} (h : ∀ r ∈ s.inUse, r.1 + r.2 ≤ 2 ^ 48) (size : Nat) (x : Word) :
    s.frameAt true size x = some (2 ^ 48 + x.toNat % (2 ^ 44 / size) * size) := by
  simp only [State.frameAt, if_true]
  exact freeFrame_some h (Nat.succ_pos _) _

theorem frameAt_full {s : State} {size : Nat} (hs : 0 < size) (hc : 0 < 2 ^ 44 / size) (h : (2 ^ 48, 2 ^ 44 / size * size) ∈ s.inUse) (x : Word) :
    s.frameAt true size x = none := by
  simp only [State.frameAt, if_true]
  exact freeFrame_none hs hc h _ _

/-- A page of the device's memory moves to the pool, which holds nothing; and a window takes up the whole pool. -/
def tPool : State := { tMoves true with migQueue := [] }
def tTaken : State := withCtx (fun c => { c with windows := [{ phys1 := 0, phys0 := 2 ^ 48, vbase := 0, size := 2 ^ 28, cur := false, v := true }] }) tPool
def tLeaf : Leaf := { base := 0, size := 2097152, pa := 0, pte := 147456, x := true, w := true, win := none }

theorem pool_use : ∀ r ∈ tPool.draw.2.inUse, r.1 + r.2 ≤ 2 ^ 48 := by decide +kernel
theorem pool_taken : (2 ^ 48, 2 ^ 44 / 2097152 * 2097152) ∈ tTaken.draw.2.inUse := by decide +kernel
theorem pool_leaf : tPool.movable 0 0 true = some tLeaf ∧ tTaken.movable 0 0 true = some tLeaf ∧
    (∀ i, i < 8 → inWindow (tLeaf.pte + i) = false) ∧ tPool.tlb.map (·.pte) = [0x40000] := by decide +kernel

theorem witness_HostAccesses_frames :
    (∃ new, tPool.draw.2.frameAt true tLeaf.size tPool.draw.1 = some new ∧ tLeaf.pte + 8 ≤ new ∧ 0x40000 + 8 ≤ new) ∧
    tTaken.draw.2.frameAt true tLeaf.size tTaken.draw.1 = none :=
  ⟨⟨_, frameAt_pool pool_use _ _, Nat.le_trans (by decide : tLeaf.pte + 8 ≤ 2 ^ 48) (Nat.le_add_right _ _),
    Nat.le_trans (by decide : 0x40000 + 8 ≤ 2 ^ 48) (Nat.le_add_right _ _)⟩, frameAt_full (by decide) (by decide) pool_taken _⟩

/-- A read or write of a BAR0 register: DEV_ID, BOOT_STAT, FURL_CTL, a route and CSR 0x040 of context 1; and one before READY. -/
theorem witness_HostAccesses_bar0 :
    (∀ off ∈ [0x600000, 0x600004, 0x600018, 0x580000, 0x1100], let s : State := { t0 with args := [2, off, 0, 0, 4] }
      s.arg 0 = 2 ∧ s.arg 3 = 0 ∧ s.arg 4 = 4 ∧ s.arg 1 = off ∧ s.dev.ready = true) ∧
    (0x1100 : Nat) = 0x1000 * 1 + 4 * 0x040 ∧
    (let s : State := { t0 with args := [2, 0x1000, 0, 0, 4], dev := { t0.dev with ready := false } }
     s.dev.ready = false ∧ s.arg 1 < 0x600000) ∧
    (let s : State := { t0 with args := [2, 0x1100, 0, 1, 4, 0x10, 0x82, 0, 0] }
     s.arg 3 ≠ 0 ∧ s.args.drop 5 = [0x10, 0x82, 0, 0] ∧ (0x040 : Nat) ≠ 0x052) ∧
    (let s : State := { t0 with args := [1, 0, 0x040, 5] }
     s.arg 0 ≠ 0 ∧ s.arg 1 < s.ctxs.length ∧ s.ctxIdle (s.arg 1) = false ∧ anyTime (s.arg 2) = false ∧ anyTime 0x043 = true) := by
  decide +kernel

/-- The slice lists a byte that an outstanding write carries; a report is written to the host's memory. -/
theorem witness_FabricAndPorts_ack :
    (let s := { tPort [tPortReq true] 0 with args := [0, 0, 0], l2 := [(sectorAddr 0 0 0 + 3, 7#8)] }
     overWf s.l2 = true ∧ (tPortReq true).data.length = 64 ∧ (tPortReq true).mask.getLsbD 3 = true ∧ overGet s.l2 (sectorAddr 0 0 0 + 3) = some (nth 0#8 (tPortReq true).data 3)) ∧
    (let s : State := { t0 with dev := { t0.dev with attBusy := true } }
     overWf s.hostMem = true ∧ 0 < s.report.length) := by
  decide +kernel
/-- A page of peer 0's window, whose bytes a write posts with the route that an operation holds. -/
theorem witness_MemoryReads_peers :
    let pa := 2 ^ 51 + 2 ^ 50
    inWindow pa = true ∧ 2 ^ 51 + 2 ^ 50 + 2 ^ 44 * 0 ≤ pa ∧ pa < 2 ^ 51 + 2 ^ 50 + 2 ^ 44 * (0 + 1) := by
  decide

/-- A load whose lane no earlier access of its warp holds back; scratchpad instructions of a warp with nothing left to make. -/
theorem witness_loads_and_turns :
    (tFlight tLoad [5, 1]).earlierTouch 5 0 0 [0x50100, 0x50101, 0x50102, 0x50103] true = false ∧
    t0.spadReady = t0 ∧ t0.spadHeld = false ∧
    (let s := sS 0#32 0#32 0#32
     s.spadReady = s ∧ s.spadHeld = false) ∧
    (∀ u ∈ [(true, false), (false, true), (false, false)],
      (tMoving (tMove u.1 u.2)).earlierTouch 9 0 0 [0x50180, 0x50181, 0x50182, 0x50183] true = false ∧ (tMove u.1 u.2).touched = []) ∧
    tXfer.touched = [] ∧
    (tMoving tXfer).readTime tXfer.readTag (some tXfer.start) [0x50100, 0x50101] (tMoving tXfer).memTime = some (tMoving tXfer).memTime :=
  ⟨by decide +kernel, rfl, rfl, ⟨rfl, rfl⟩, by decide +kernel, rfl, by decide +kernel⟩

/-- A PUBLISH of a loaded window with nothing left to wait for. -/
theorem witness_CachesAndTables_publish :
    let op := { tLoad with kind := .publish 0 }
    let s := withCtx (fun c => { c with windows := [tWindow] }) (tFlight op [5])
    s.op? (s.arg 0) = some op ∧ (s.ctx op.ctx).windows[0]? = some tWindow ∧ s.xfers = [] ∧ (∀ q ∈ s.ops, ¬ q.id < op.id) ∧
    (∀ w ∈ a0.blk.warps, s.epochClosed w = true) := by
  decide +kernel

/-- A WAITA whose request finds an earlier store of its warp to the word, and one that finds none. -/
theorem witness_WaitEntries_earlier :
    (let s : State := { t0 with waits := [{ tEntry with id := 8, there := false }], ops := [tStore] }
     s.earlierTouch 8 0 0 [0x50100, 0x50101, 0x50102, 0x50103] true = true) ∧
    (let s : State := { t0 with waits := [{ tEntry with there := false }] }
     s.earlierTouch 3 0 0 [0x50100, 0x50101, 0x50102, 0x50103] true = false) := by
  decide +kernel

/-- A withdrawn XSHFL is owed to the path of the other slot, or to the path that executes it again. -/
theorem witness_PairsOfWarps_owed :
    (let p : WarpPair := { tPair none none with owed0 := some (0x10080#64, 0xF0#32) }
     let s := { tState [twoPaths] with pairs := [p] }
     let a := tAx [twoPaths]
     s.ActsOn a tOps [tOps.srcA] ∧ s.pairOf a.bid a.wi = some p ∧ (p.block0 = a.bid ∧ p.warp0 = a.wi) ∧ p.post0 = none ∧
     a.w.owesElsewhere a.slot (0x10080#64, 0xF0#32) = true) ∧
    (let p : WarpPair := { tPair none none with owed0 := some (0x10080#64, 0xF#32) }
     ({ t0 with pairs := [p] } : State).pairOf 0 0 = some p ∧ a0.w.owesElsewhere 0 (0x10080#64, 0xF#32) = false) :=
  ⟨⟨⟨⟨rfl, rfl, by decide⟩, rfl⟩, rfl, ⟨rfl, rfl⟩, rfl, by decide +kernel⟩, by decide +kernel⟩

/-- An asynchronous trap of a slot that sleeps, of one that waits and of one that runs; none has a CSRW on its way. -/
theorem witness_TrapEntryAndReturn_async :
    (∀ w ∈ [Wait.sleep 100, .blocked, .ready], let x : AsyncTrap := { code := 0x24#8, detail := 1#8, addr := 0#64 }
      let u := { asleep w with async := [x] }
      let s := { tHandled u with actor := .device, args := [0, 0] }
      s.warp? 0 0 = some (tBlock [u], u) ∧ u.async = [x] ∧ u.asyncSlot = some 0 ∧ u.path 0 = some { tPath with wait := w } ∧
      s.csrwPends 0 0 0 = false ∧ (s.ctx 0).trapVec ≠ 0#64) := by
  decide +kernel

/-- The fault ring is full; a page that stays absent is reported again where there is no ring, a full one, and one with room that
holds a record already. -/
theorem witness_FaultRecords_full :
    (let s := tRing 16#32 { t0 with args := [0] }
     (s.ctx 0).ringLog = some 4 ∧ 2 ^ 4 ≤ ((s.ctx 0).frTail - (s.ctx 0).frHead).toNat ∧ (s.ctx 0).heldRecs.length = 1) ∧
    (let f := { tFault (.warp 0 0 0) true with fetch := false, va := 0x20000000 }
     let s := { tPages [(0x22008, 0xE1#8)] (tState [asleep (.parked 6)]) with args := [6], faultWaits := [f] }
     s.faultWaits.find? (fun x => x.id == s.arg 0) = some f ∧ f.passed = true ∧ s.waiterAway f = true ∧ f.ctx < s.ctxs.length ∧
     (match s.walk f.ctx f.va f.access with | .error d => d == 0x01 | .ok _ => false) = true ∧ (s.ctx 0).ringLog = none ∧
     ((tRing 0#32 s).ctx 0).ringLog = some 4 ∧ (((tRing 0#32 s).ctx 0).frTail - ((tRing 0#32 s).ctx 0).frHead).toNat < 2 ^ 4 ∧
     2 ^ 4 ≤ (((tRing 16#32 s).ctx 0).frTail - ((tRing 16#32 s).ctx 0).frHead).toNat) := by
  decide +kernel

/-- PMAT.S of the plain words of V7 at the offsets of V6, and of the proxies of V6 in V8's place. -/
def tPmatsW : Warp := withV 7 0x50000000#32 true (withV 6 0x40#32 false tWarp)

theorem witness_ProxyInstructions_pmats :
    (let s := tState [tPmatsW]
     let a := tAx [tPmatsW]
     s.Acts a false 7#3 ∧ a.flagFull tOps.fs = false ∧ s.anyPx a (a.lanes tOps) [tOps.srcA] = false ∧ s.spadTurnOf a = s ∧
     s.oldestSpad a.bid a.wi = none ∧ s.block? a.bid = some a.blk ∧
     (∀ l ∈ lanesOf (a.lanes tOps), (s.rd a 6#8 false l).val.toNat % 4 = 0 ∧ (s.rd a 7#8 false l).px = true ∧
       (s.rd a 6#8 false l).val.toNat + 4 * 2 ^ pxExt (s.rd a 7#8 false l).val ≤ s.spadSize a.blk ∧
       (s.ctx 0).lost (pxHome (s.rd a 7#8 false l).val) = false)) :=
  ⟨⟨rfl, rfl, by decide⟩, rfl, rfl, rfl, rfl, rfl, by decide +kernel⟩

/-- Requests of every kind that home 80 may serve: runs of the context are at hand, and a materialisation's run is named. -/
def tMatOp : Op := { tLoad with id := 5, kind := .pmat 9 [{ lane := 2, home := 80, slot := 0, ext := 0, keep := [] }] [] }
def tMatOp2 : Op := { tLoad with id := 5, kind := .pmat 9 [{ lane := 2, home := 80, slot := 0, ext := 0, keep := [] }, { lane := 3, home := 80, slot := 0, ext := 0, keep := [] }] [] }
def tAsked (k : PxKind) (served : Bool) : State := { tHomed k served 1 with ops := [tMatOp] }

theorem witness_ProxyHomes_kinds :
    (∀ k ∈ [PxKind.operate (.iadd false false) [.run 80 0 0, .plain 1#32] 1 0, .dup 0 1 0, .mat 5 2, .cross 0 2],
      (tAsked k false).pxReq? ((tAsked k false).arg 0) = some (tPxReq k false) ∧ (tAsked k false).firstAt (tPxReq k false) 80 = true ∧
      (tAsked k false).proxyServes (tPxReq k false) = true) ∧
    ((tAsked (.mat 5 2) false).matRun 5 2 = some (80, 0, 0)) ∧
    (((tAsked (.mat 5 2) false).home 80).run? 0 = some (tRun 0 1) ∧ (tRun 0 1).ctx = (tPxReq (.mat 5 2) false).ctx) ∧
    pdotUneven (.iadd false false) [.run 80 0 0, .plain 1#32] = false ∧ cellWf 0#32 ((tAsked (.dup 0 1 0) false).home 80).words = true := by
  decide +kernel

/-- Replies that have come and replies that have not; the last lane of a PMAT, and one with another to come. -/
theorem witness_ProxyHomes_replies :
    (∀ k ∈ [PxKind.snapshot 0x50100 1 0 0, .operate (.iadd false false) [] 0 0, .dup 0 1 0],
      (tAsked k true).replyDue (tPxReq k true) = true ∧ (tAsked k true).groupServed (tPxReq k true) = true ∧ k.target.isSome = true ∧
      (tAsked k false).replyDue (tPxReq k false) = false) ∧
    (let k := PxKind.mat 5 2
     (tAsked k true).replyDue (tPxReq k true) = true ∧ (tAsked k true).op? 5 = some tMatOp ∧
     ({ tAsked k true with ops := [tMatOp2] } : State).op? 5 = some tMatOp2 ∧
     (∀ lanes ∈ [[({ lane := 2, home := 80, slot := 0, ext := 0, keep := [] } : MatLane)],
         [{ lane := 2, home := 80, slot := 0, ext := 0, keep := [] }, { lane := 3, home := 80, slot := 0, ext := 0, keep := [] }]],
       (lanes.find? fun y => y.lane == 2) = some { lane := 2, home := 80, slot := 0, ext := 0, keep := [] }) ∧
     (tAsked k false).replyDue (tPxReq k false) = false) ∧
    (tAsked (.cross 0 2) true).replyDue (tPxReq (.cross 0 2) true) = true := by
  decide +kernel

/-- A copy from home 112 for a result at home 80 whose words have come: with room, and with none for a context without quota,
before its wait began, while it lasts and when it is over. -/
def tCopyReq (since : Option Nat) : PxReq := { tPxReq (.copy 112 3 0 0) false with data := [9#32], since := since }
def tCopies (quota : Word) (since : Option Nat) (ns : Nat) : State :=
  { withCtx (fun c => { c with pxQuota := quota }) (tHomed (.drop 0) false 1) with pxReqs := [tCopyReq since], ns := ns }

theorem witness_ProxyHomes_copies :
    (let s := tHomed (.copy 80 0 0 0) false 1
     let r := tPxReq (.copy 80 0 0 0) false
     r.data = [] ∧ s.proxyServes r = true ∧ (s.home 80).live? 0 = some (tRun 0 1) ∧ (tRun 0 1).formed = true ∧
     (s.home 80).run? 0 = some (tRun 0 1) ∧ (tRun 0 1).ctx = r.ctx) ∧
    (let s := tCopies 8192#32 none 0
     s.pxReq? (s.arg 0) = some (tCopyReq none) ∧ s.proxyServes (tCopyReq none) = true ∧ (tCopyReq none).data ≠ [] ∧ s.copyPassed (tCopyReq none) = true ∧
     s.quotaFits 0 80 (runSlots 0) = true ∧ s.freeGroup 80 (runSlots 0) (32768 / runSlots 0) 0 = some 1) ∧
    (∀ x ∈ [none, some 0], let s := tCopies 0#32 x 0
     s.proxyServes (tCopyReq x) = true ∧ s.quotaFits 0 80 (runSlots 0) = false ∧ (s.reclaim 80).quotaFits 0 80 (runSlots 0) = false) ∧
    ((tCopies 0#32 (some 0) 0).reclaim 80).waitedOut 0 0 = false ∧ ((tCopies 0#32 (some 0) 5000).reclaim 80).waitedOut 0 0 = true := by
  decide +kernel

/-- A reply that has come for the bit of a branch. -/
theorem witness_ProxyHomes_crossing :
    (let w := { tPx 0#32 with path0 := some { tPath with wait := .crossing [] } }
     let s := { tHomed (.cross 0 2) true 1 with args := [0, 0, 0], blocks := [tBlock [w]] }
     (s.pxReqs.filter fun x => x.block == s.arg 0 && x.warp == s.arg 1 && x.pathSlot == s.arg 2) = [tPxReq (.cross 0 2) true] ∧
     s.replyDue (tPxReq (.cross 0 2) true) = true ∧ s.warp? 0 0 = some (tBlock [w], w) ∧
     (w.path 0).map (·.wait) = some (.crossing [])) := by
  decide +kernel

/-- PRED over 4 words by the fixed tree, PDOT of 8-bit integers, and one word of a sum: values worked out by hand. -/
theorem test_homeFn :
    (HomeFn.pred .max true).run 1 [[3#32, 9#32, 4#32, 1#32]] = [9#32] ∧
    (HomeFn.pdot 7 0#6).run 1 [[0x01020304#32], [0xFF010101#32], [10#32]] = [18#32] ∧
    (HomeFn.iadd false false).run 2 [[1#32, 2#32], [5#32]] = [6#32, 7#32] := by
  decide +kernel
/-- The last block of a record: the core is found, and the record leaves its ring, which it empties, or which holds another. -/
theorem witness_DispatchAndPlacement_last :
    (let r := { tHead.r with count := 1, next := 0 }
     let h := { tHead with r := r }
     let s := tQueued r 0 false
     s.heads = [h] ∧ h.ok = true ∧ h.r.held = none ∧ h.r.obj = some tObj ∧ h.r.next + 1 = h.r.first + h.r.count ∧
     (s.lookHead 0 h).resumeWaits 0 h.r.prio = false ∧ ((s.lookHead 0 h).shares 0 tObj).isSome = true ∧
     ((s.lookHead 0 h).chooseCore 0 0 tObj).isSome = true) ∧
    (∀ tail ∈ [1, 2], let s := { tQueued tHead.r 0 false with qtails := [(0, 0, BitVec.ofNat 32 tail)] }
     (s.qdesc 0 0).map (fun d => (s.tailOf 0 0 d - d.head).toNat) = some tail) := by
  decide +kernel

/-- The object at 0x10000 is not valid: it holds no header. -/
theorem witness_DispatchAndPlacement_invalid :
    (let r := { tHead.r with obj := none, kobj := 0x10000 }
     let s := tQueued r 0 false
     s.heads = [{ tHead with r := r }] ∧ (match s.readObj 0 0 0x10000 with | .invalid => true | _ => false) = true) := by
  decide +kernel

/-- A request to grow, set aside on the only core of the partition, is all that keeps a block out. -/
def tGrown : State :=
  let s := withCtx (fun c => { c with coreMask := 1#32 :: List.replicate 7 0#32 }) (tQueued { tHead.r with id := 5 } 100 false)
  { s with
    args := [0], cores := setNth s.cores 0 { Core.idle with ctx := some 0, part := 0x8210#32 }, records := s.records ++ [tRecord]
    blocks := [{ tBlock [tWarp] with reshape := some { tRequest with grow := true, extra := 980 } }] }

theorem witness_RoomIsMade_grows :
    let h := { tHead with r := { tHead.r with id := 5 } }
    tGrown.slotHead 0 = some h ∧ h.r.room = none ∧ tGrown.lacksRoom h = some tObj ∧
    ((tGrown.lookHead (tGrown.homeDie h.r.ctx) h).dropGrows h.r.ctx).lacksRoom h = none := by
  decide +kernel

/-- Requests to shrink: one of the record, one of another record and one whose switch has passed. -/
theorem witness_RoomIsMade_shrinks :
    (let b := { tBlock [tWarp] with reshape := some { tRequest with record := some 5 } }
     let c := { b with switches := [{ k := 2, start := 0, arrived := [], spoiled := false, whole := true, passed := true }] }
     (b.reshape.map (·.record) = some (some 5) ∧ b.switching = false) ∧ c.switching = true ∧ (some 6 ≠ some 5) ∧
     ({ t0 with blocks := [b, c] } : State).blocks[0]? = some b) := by
  decide +kernel

/-- Records that have ended, alone of their kernel and beside another; with a continuation that is no record's address, and one on
an absent page. -/
def tEnded (cont : Nat) (more : List Record) : State :=
  { tPages [(0x22008, 0xE1#8)] t0 with records := { tRecord with ended := 1, cont := cont } :: more, args := [0] }

theorem witness_RoomIsMade_ends :
    (∀ cont ∈ [0, 4, 0x20000000], ∀ more ∈ [[], [{ tRecord with id := 9 }]], let s := tEnded cont more
      s.record? (s.arg 0) = some { tRecord with ended := 1, cont := cont } ∧ s.recordDrained { tRecord with ended := 1, cont := cont } = true ∧
      tRecord.next = tRecord.first + tRecord.count ∧ tRecord.count = 1) ∧
    (match (tEnded 0x20000000 []).readVirt 0 0x20000000 64 with | .error d => d == 0x01 | .ok _ => false) = true ∧
    (match ((tEnded 0x20000000 []).harvest (fun e => e.ctx == 0) false).readVirt 0 0x20000000 64 with | .error d => d == 0x01 | .ok _ => false) = true := by
  decide +kernel

/-- A write of the port whose byte a later write of the same sector carries too. -/
theorem witness_FabricAndPorts_later :
    (let s := { tPort [tPortReq true, { tPortReq true with tag := 1#3, data := List.replicate 64 9#8 }] 0 with
       args := [0, 0, 0], l2 := [(sectorAddr 0 0 0 + 3, 7#8)] }
     s.replyTo 0 0 0 true = some (tPortReq true) ∧ s.laterWrite (tPortReq true) 3 = true ∧
     overGet s.l2 (sectorAddr 0 0 0 + 3) = some 7#8) ∧
    (tPort [tPortReq true] 0).laterWrite (tPortReq true) 3 = false := by
  decide +kernel

/-- CSRs by number, with an IDLE context and one that runs; a number that the host does not write. -/
theorem witness_HostAccesses_csrs :
    (∀ e ∈ Ctx.created.csrTable 0xFFFFFFFF#32, let s : State := { t0 with args := [1, 1, e.1, 0xFFFFFFFF] }
      s.arg 0 ≠ 0 ∧ s.arg 1 < s.ctxs.length ∧ s.ctxIdle (s.arg 1) = true ∧ s.arg 2 = e.1) ∧
    (Ctx.created.csrTable 0#32).length = 41 ∧ (∀ e ∈ Ctx.created.csrTable 0#32, e.1 ≠ 0x030 ∧ e.1 ≠ 0x040) := by
  decide +kernel

/-- A request that its page admits, one with a reserved bit and one for a full queue; reads past the L2, of BAR4 and by a peer. -/
theorem witness_HostAccesses_requests :
    (let s := { tMoves true with migQueue := [], args := [1, 0], migReq := 1#64 }
     let r : DWord := BitVec.ofNat 32 (s.arg 1) ++ s.migReq.extractLsb' 0 32
     s.arg 0 ≠ 0 ∧ r.extractLsb' 57 7 = 0#7 ∧ r.extractLsb' 14 2 = 0#2 ∧ r.extractLsb' 1 7 = 0#7 ∧ s.migQueue.length < 64 ∧
     (s.movable (r.extractLsb' 8 6).toNat (65536 * (r.extractLsb' 16 41).toNat) (r.getLsbD 0)).isSome = true) ∧
    (let s := { tMoves true with args := [1, 0x2000000] }
     ¬ ((BitVec.ofNat 32 (s.arg 1) ++ s.migReq.extractLsb' 0 32 : DWord).extractLsb' 57 7 = 0#7)) ∧
    (let s : State := { t0 with args := [1, 0x40, 1, 0, 2] }
     s.arg 2 ≠ 0 ∧ s.arg 3 = 0 ∧ s.arg 0 < 2 ∧ s.arg 1 + s.arg 4 ≤ (if s.arg 0 = 0 then 2 ^ 39 else 2 ^ 44)) ∧
    (let s : State := { t0 with args := [1, 0x40, 0, 0, 2] }
     s.arg 2 = 0 ∧ s.arg 3 = 0 ∧ s.arg 0 = 1 ∧ s.arg 1 + s.arg 4 ≤ 2 ^ 44) ∧
    (let s : State := { t0 with args := [0x40, 0, 2] }
     s.arg 1 = 0 ∧ s.arg 0 + s.arg 2 ≤ 2 ^ 39) ∧
    (∀ b ∈ [0, 1], let s : State := { t0 with args := [2, 0x600008, 0, 1, 4, b, 0, 0, 0] }
      s.arg 0 = 2 ∧ s.arg 3 ≠ 0 ∧ s.arg 4 = 4 ∧ s.args.drop 5 = [b, 0, 0, 0] ∧ s.arg 1 = 0x600008) := by
  decide +kernel

/-- A block is saved, and none is on a core or has a transfer under way. -/
theorem witness_BringUpAndPower_saved :
    (let s : State := { t0 with blocks := [{ tBlock [tWarp] with loc := .resume }] }
     s.blocks.length = 1 ∧ ∀ b ∈ s.blocks, b.core?.isSome = false ∧ ∀ x ∈ s.xfers, x.block ≠ b.id) := by
  decide +kernel

/-- XMIN and XMAX of a NaN and 1, of two NaNs, and of zeros of two signs, in F32x2 mode (R289, R290). -/
theorem test_bankMinMax :
    (let k := { tBankCtx [0#32] with x := [0x7FC0000180000000#64, 0x3F80000000000000#64, 0x7FC000027FC00003#64] ++ List.replicate 13 0#64 }
     let s : State := { tBank [0#32] true with chans := setNth State.reset.chans 0 { Chan.empty with cx := setNth Chan.empty.cx 0 (some k) } }
     let x (i : Instr) : Option DWord := match exec i s with | .next t => (t.bankCtx? 0 0).map fun k => nth 0#64 k.x 5 | _ => none
     x (.xmin .f32x2 5#4 0#4 1#4) = some 0x3F80000080000000#64 ∧ x (.xmax .f32x2 5#4 0#4 1#4) = some 0x3F80000000000000#64 ∧
     x (.xmin .f32x2 5#4 2#4 2#4) = some 0x7FC000007FC00000#64) := by
  decide +kernel

/-- Nothing of the launching warp is before its descriptor. -/
theorem witness_BankLaunches_turn : t0.earlierTouch t0.nextId 0 0 ((List.range 128).map (0x50100 + ·)) true = false := by
  decide +kernel

/-- R170, R325: a program may write the constant space of its kernel object, and not its header, code or tables. -/
theorem test_constant_space_may_change :
    let k : KObj := { probeObj with codelim := 0x100, vtab := 0x100, constsz := 0x100, constoff := 0x180, ntab := 1, tdir := 0x140 }
    k.fixed 0x17C = true ∧ k.fixed 0x180 = false ∧ k.fixed 0x27F = false ∧ k.fixed 0x280 = false ∧ k.fixed 0x80 = true ∧
    k.fixed 0x3F = true ∧ k.fixed 0x140 = true := by decide
/-- An answer that has come, and one whose flit waits for the waveguide of home 80 and cluster 0. -/
def tAnswered (x : ChunkAnswer) (demand : List (Nat × Nat)) : State :=
  { tAsking true 8192#32 0 with
    chunkReqs := [{ tChunkReq true with id := 5, answer := x }], waveguides := [{ Waveguide.fresh (replyWave 80 0) with demand := demand }] }

theorem witness_ProxyHomes_answers :
    (∀ x ∈ [ChunkAnswer.granted [0], .refused 1], let r := { tChunkReq true with id := 5, answer := x }
      (tAnswered x []).chunkReq? 0 80 true = some r ∧ (tAnswered x []).flitSent (replyWave r.home r.core) r.id = true ∧
      (tAnswered x [(34, 5)]).chunkReq? 0 80 true = some r ∧ (tAnswered x [(34, 5)]).flitSent (replyWave r.home r.core) r.id = false) ∧
    (tChunkReq true).core < t0.cores.length := by
  decide +kernel

/-- A copy served or refused whose answer has come or not, alone or beside another copy of its slot. -/
theorem witness_ProxyHomes_copyAnswers :
    (∀ lost ∈ [true, false], let r := { tPxReq (.copy 112 3 0 0) true with lost := lost, data := [2#32] }
      let s (more : List PxReq) (demand : List (Nat × Nat)) : State :=
        { tHomed (.drop 0) false 1 with pxReqs := r :: more, waveguides := [{ Waveguide.fresh (replyWave 80 0) with demand := demand }] }
      (s [] []).pxReq? 7 = some r ∧ r.served = true ∧ (s [] []).flitSent (replyWave r.home r.core) r.id = true ∧
      (s [] [(34, 7)]).flitSent (replyWave r.home r.core) r.id = false ∧
      (lost = false → (s [] []).awaitsCopies r = false ∧ (s [{ tCopyReq none with id := 8 }] []).awaitsCopies r = true) ∧
      ((s [] []).chunkReqs.any fun c => c.block == r.block && c.warp == r.warp && c.slot == r.pathSlot) = false) := by
  decide +kernel

/-- The run of a request's target was given away to a later request of its home, or stands. -/
theorem witness_ProxyHomes_superseded :
    (let k := PxKind.dup 0 1 0
     (tAsked k true).superseded (tPxReq k true) 1 = false ∧ k.target = some 1 ∧
     ({ tAsked k true with pxReqs := [tPxReq k true, { tPxReq k false with id := 8 }] } : State).superseded (tPxReq k true) 1 = true ∧
     ({ tAsked k true with pxReqs := [tPxReq k true, { tPxReq k false with id := 8 }] } : State).groupServed (tPxReq k true) = true) := by
  decide +kernel

/-- SEL between proxies of two and of four words, and of two and two. -/
def tSel (h : Word) : Warp := withV 7 h true (withV 6 0x50000040#32 true tWarp)

theorem witness_ProxyResults_sel :
    (extClash (proxiesOf [(tState [tSel 0x50000080#32]).src (tAx [tSel 0x50000080#32]) tOps.srcA 0,
       (tState [tSel 0x50000080#32]).src (tAx [tSel 0x50000080#32]) tOps.srcB 0]) = true ∧
     ((tAx [tSel 0x50000080#32]).lanes tOps).getLsbD 0 = true) ∧
    (∀ l ∈ lanesOf ((tAx [tSel 0x50000040#32]).lanes tOps), extClash (proxiesOf [(tState [tSel 0x50000040#32]).src (tAx [tSel 0x50000040#32]) tOps.srcA l,
       (tState [tSel 0x50000040#32]).src (tAx [tSel 0x50000040#32]) tOps.srcB l]) = false) ∧
    ∀ h, (tAx [tSel h]).plainPreds tOps [0] :=
  ⟨⟨by decide, by decide⟩, by decide, fun _ n _ l _ => zero_preds _ rfl n l⟩

/-- The warp parked for blocks has waited within REGWAIT, or longer. -/
theorem witness_Blocks_late :
    (let late (s : State) : Prop := 0 + 2 ^ min (bits (s.ctx 0).schedExp 12 8) 30 < s.cycle (clusterOf 0)
     ¬ late (tParked [0] 0) ∧ late (tParked [0] (2 ^ 21))) ∧ (asleep .blocked).b + 3 ≤ 30 := by
  decide +kernel

/-- A CAP beside four records, of which one of its own handle stands or does not. -/
theorem witness_CircularInstructions_records :
    (let hs : List HoldRec := { handle := 0#32, serial := 4#32 } :: List.replicate 3 { handle := 9#32, serial := 1#32 }
     let a := tAx [tHolder hs]
     (tRinged (some (tStitch true)) .cap hs).recordsUsed a 0#32 = 4 ∧
     ((tRinged (some (tStitch true)) .cap hs).liveStitch 0 0#32 = some (tStitch true) ∧ a.w.holdsStitch 0#32 (tStitch true) = true ∧
      (tRinged (some (tStitch true)) .cap hs).stolen (tStitch true) = false) ∧
     (tRinged (some { tStitch true with serial := 5#32 }) .cap hs).recordsUsed a 0#32 = 3) := by
  decide +kernel

/-- A PUBLISH with what its warp did before performed, and with a store, an unreached WAITA or an unacknowledged write left. -/
theorem witness_CachesAndTables_release :
    (let op := { tLoad with id := 9, kind := .publish 0 }
     let s := tFlight op [9]
     s.publishMet op = true ∧ ({ s with ops := [{ tLoad with kind := .sts [] }, op] } : State).publishMet op = false ∧
     ({ s with waits := [{ tEntry with there := false }] } : State).publishMet op = false ∧
     ({ s with posted := [{ pa := 2 ^ 51, val := 0#8, agent := .warp 0 0, route := 0#32 }] } : State).publishMet op = false) := by
  decide +kernel

/-- A WAITA of the warp that has not reached its slice, and one that has. -/
theorem witness_FencesAndWaits_unreached :
    (∃ e ∈ ({ t0 with waits := [{ tEntry with there := false }] } : State).waits, e.block = a0.bid ∧ e.warp = a0.wi ∧ e.there = false) ∧
    ({ t0 with waits := [{ tEntry with there := false }] } : State).fenceMet a0 .rel 0 = false ∧
    ({ t0 with waits := [tEntry] } : State).fenceMet a0 .rel 0 = true := by
  decide +kernel

/-- A refresh of channel 0 past its deadline, whose row is marked or not, and one past the threshold of disturbance. -/
theorem witness_FabricAndPorts_refresh :
    (let at_ (c : Chan) : State := { tPort [tPortReq false] 0 with args := [0, 0, 0], chans := setNth State.reset.chans 0 c }
     (at_ { Chan.empty with due := [(0, 5)] }).refreshDue (32 * 0 + 0) = true ∧ (at_ { Chan.empty with due := [(0, 5)], marked := [(0, 5)] }).refreshDue 0 = false ∧
     (at_ { Chan.empty with due := [(0, 5)] }).replyTo 0 0 0 false = some (tPortReq false) ∧ (tPort [tPortReq false] 0).refreshDue 0 = false) := by
  decide +kernel

/-- A byte that a write carries lies in a range that the device filled. -/
theorem witness_FabricAndPorts_filled :
    (let s : State := { tPort [tPortReq true] 0 with args := [0, 0, 0], filled := [(sectorAddr 0 0 0, 64, 3)] }
     s.replyTo 0 0 0 true = some (tPortReq true) ∧ s.fillOf (sectorAddr 0 0 0 + 3) ≠ none ∧ (tPortReq true).mask.getLsbD 3 = true ∧
     s.refreshDue 0 = false ∧ s.laterWrite (tPortReq true) 3 = false) := by
  decide +kernel

/-- The object of a record whose block is placed has been written since the record became ready, or has not. -/
theorem witness_DispatchAndPlacement_changed :
    (let s (t : Nat) : State := { tPages [] t0 with readyAt := [(tRecord.ready, t)], log := [{ MemEvent.of (MemTag.warp 0 0 0 3) with time := 2, writes := [(0x10000, 0#8)] }] }
     (s 1).objectChanged tRecord tObj = true ∧ (s 2).objectChanged tRecord tObj = false ∧ t0.objectChanged tRecord tObj = false) := by
  decide +kernel

/-- Blocks placed at one time, the second with the later draw, are of one or the other age, and of both when all is equal. -/
theorem witness_RoomIsMade_younger :
    (let b := { tBlock [tWarp] with placed := (5, 1) }
     b.younger { b with placed := (4, 9) } = true ∧ b.younger { b with placed := (5, 2) } = false ∧ b.younger b = true) := by
  decide

/-- No stack is deeper than 16, and nothing that a flag counts was in flight. -/
theorem witness_StepRuns_beside :
    (∀ b ∈ (t0.retire a0).blocks, ∀ w ∈ b.warps, w.stack.length ≤ 16) ∧ ∀ o ∈ (t0.retire a0).ops, o.flag = none ∨ t0.op? o.id = none := by
  decide +kernel

/-- Bring-up that succeeds, that fails, that finds a bad image, and that stays under way with a failure to come or none. -/
theorem witness_BringUpAndPower_flash :
    (∀ x ∈ [(0, false), (1, true), (2, false), (3, true)], let s : State := { t0 with args := [x.1], dev := { t0.dev with badImage := x.2, salv := 3#4 } }
      s.arg 0 = x.1 ∧ s.arg 1 = 0 ∧ s.dev.badImage = x.2) ∧
    (∀ x ∈ [false, true], let s : State := { t0 with args := [0, 1], dev := { t0.dev with badImage := x } }
      s.arg 1 ≠ 0 ∧ (s.bringUp [] []).dev.booting = some (if x then 2 else 0)) ∧
    (∃ (s : State) (f : Nat), s.dev.booting = some f) :=
  ⟨by decide +kernel, by decide +kernel, { t0 with dev := { t0.dev with booting := some 2 } }, 2, rfl⟩

/-- LOST of home 80 is cleared by the host while a register holds a handle of it. -/
theorem witness_HostAccesses_cleared :
    (let c := { (tState [tPx 0#32]).ctx 0 with pxLost := setNth ((tState [tPx 0#32]).ctx 0).pxLost 2 0x10000#32 }
     let s : State := { withCtx (fun _ => c) (tState [tPx 0#32]) with args := [1, 0, 0x026, 0] }
     c.lost 80 = true ∧ ¬ (s.arg 2 < 0x024 ∨ 0x02B < s.arg 2) ∧ s.arg 1 < s.ctxs.length ∧ s.arg 0 ≠ 0) := by
  decide +kernel

/-- Nothing else has written the headers on which the waiters wait: settling leaves the state as it is. -/
theorem witness_Queues_settled :
    (∀ push : Bool, let s := tWaiting push (tQueue 3 1) [0, 0, if push then 1 else 0]
      s.settleWaited (s.arg 0) (s.arg 1) = s) ∧
    (let s := tWaiting true (tQueue 0 0) [0]
     (List.range 16).foldl (fun (t : State) (n : Nat) => t.settleWaited (s.arg 0) n) s = s ∧ s.block? (s.arg 0) ≠ none) :=
  ⟨fun push => by cases push <;> rfl, rfl, by decide⟩
/-- R132, R245: RXCVT.ENC into ZERO, whose number is no multiple of 4, and a run of ACCLD discarded at ZERO. -/
theorem test_discardedRuns :
    illegalDetail (.rxcvtEnc { okOps with d := 0xF3#8, b := 0#8, c := 0#8 }) DecodeCtx.widest = some 0x0F ∧
    (∀ m ∈ [0#6, 1#6, 2#6, 3#6, 7#6], 0x02 ∉ details (.accld { okOps with d := 0xF3#8, mod := m, a := 0#8, b := 0#8 }) DecodeCtx.widest) := by
  decide

/-- R107: a parked warp whose wait is over takes no block, and traps: it takes its handler's frame. -/
theorem test_lateWakeTraps :
    (match exec .rbacqWake (withCtx (fun c => { c with trapVec := 0x11000#64, trapLen := 0x100#32 }) (tParked [0] (2 ^ 21))) with
     | .next t => (t.warp? 0 0).map fun (x : Block × Warp) => (x.2.b, x.2.frame.isSome || x.2.trap.isSome)
     | _ => none) = some (12, true) := by
  decide +kernel

/-- R10, R374: the salvaged dies of a die outlive a reset, READY and ERR are 0 while bring-up is under way, and BAR0 then takes
no write but that of BOOT_CTL. -/
theorem test_bringUpUnderWay :
    (match exec .bootReset { t0 with dev := { t0.dev with salv := 3#4 }, args := [0, 1] } with
     | .next t => (t.dev.salv, t.dev.ready, t.dev.bootErr, (t.takeAction .bringUpEnds).1.dev.ready)
     | _ => (0#4, true, 1#8, false)) = (3#4, false, 0#8, true) ∧
    (match exec .bootReset { t0 with dev := { t0.dev with badImage := true }, args := [0] } with
     | .next t => (t.dev.ready, t.dev.bootErr, ((t.takeAction .flash).1).dev.badImage)
     | _ => (true, 0#8, true)) = (false, 2#8, false) := by
  decide +kernel

/-- R297: no read of a slice returns after a refresh of its channel has reached its deadline, until the row is refreshed. -/
theorem test_refreshFirst :
    (let s : State := { tPort [tPortReq false] 0 with args := [0, 0, 0] }
     let n (u : State) : Option Nat := match exec .rdrsp u with | .next t => some t.ports.length | _ => none
     n s = some 0 ∧ n (s.takeAction (.refreshDeadline 0 2 5)).1 = some 1) := by
  decide +kernel

/-- R197: ARRIVE joins the record of accesses to the scratchpad, as a read and a write of its object's bytes. -/
theorem test_arriveIsLogged :
    (match exec (.arrive { tOps with a := 6#8, sa := true, b := 0#8, c := 1#8 }) t0 with
     | .next t => t.log.head?.map fun e => (e.reads.length, e.writes.length)
     | _ => none) = some (8, 8) := by
  decide +kernel
end Sys2Proof.Tests
end

section
/-!
PROOF. Instruction words: what the printed words decode to (O1), where encoding and decoding part (O2), and MOVI (O11).
-/
namespace Sys2Proof.Machine
open Sys2Proof

/-! ### Printed words -/

/-- Settles O1, by decoding each word. -/
theorem decodesTheWords : Obligations.DecodesTheWords := by
  refine ⟨rfl, rfl, rfl, rfl, rfl, rfl, rfl, ⟨_, rfl, rfl, rfl, rfl, rfl⟩, rfl, rfl, rfl⟩

/-! ### A word shared by two rows -/

/-- CSRR whose number is that of ENG_ERR. The reads of ENG_ERR are a row of their own (R314), and both rows share one opcode, so
the word of this term decodes to the other constructor. -/
def csrrOfEngErr : Instr := .csrr { (default : Opnds) with c := 0x10#8 }

theorem decode_csrrOfEngErr : (encode csrrOfEngErr).map decode = some (.ok (.engErrRead { (default : Opnds) with c := 0x10#8 })) := by
  decide

/-- Refutes O2: CSRR of the number of ENG_ERR has a word, and that word decodes to the read of ENG_ERR. -/
theorem not_nativeRoundTrip : ¬ Obligations.NativeRoundTrip := by
  rintro ⟨decode_encode, -⟩
  obtain ⟨w, hw⟩ : ∃ w, encode csrrOfEngErr = some w := ⟨_, rfl⟩
  have hread := decode_csrrOfEngErr
  rw [hw, Option.map_some, decode_encode _ _ hw] at hread
  exact absurd hread (by decide)

/-! ### The MOVI layout (R15) -/

/-- Bit k of a MOVI word, by the field that holds it. -/
theorem getLsbD_packMovi (o : MoviOpnds) (k : Nat) : (packMovi o).getLsbD k =
    if k < 11 then o.rsvLo.getLsbD k else if k < 12 then o.sd && decide (k = 11) else if k < 16 then o.rsvHi.getLsbD (k - 12)
    else if k < 48 then o.imm.getLsbD (k - 16) else if k < 56 then o.d.getLsbD (k - 48) else (0x2E#7).getLsbD (k - 56) := by
  simp only [packMovi, BitVec.getLsbD_append, BitVec.getLsbD_ofBool]
  grind

theorem unpackMovi_packMovi (o : MoviOpnds) : unpackMovi (packMovi o) = o := by
  obtain ⟨d, imm, rsvHi, sd, rsvLo⟩ := o
  simp only [unpackMovi, MoviOpnds.mk.injEq]
  refine ⟨?_, ?_, ?_, by simp only [getLsbD_packMovi]; simp, ?_⟩ <;> ext i hi <;>
    rw [BitVec.getElem_extractLsb', getLsbD_packMovi] <;> grind

theorem decode_packMovi (o : MoviOpnds) : decode (packMovi o) = .ok (.movi o) := by
  have hform : (packMovi o).getLsbD 63 = false := by simp only [getLsbD_packMovi]; simp
  have hop : (packMovi o).extractLsb' 56 7 = 0x2E#7 := by
    ext i hi
    rw [BitVec.getElem_extractLsb', getLsbD_packMovi]
    grind
  simp only [decode, hform, decodeFull, hop, unpackMovi_packMovi]
  rfl

/-- Settles O11: the meaning of MOVI, and the round trip of its layout. -/
theorem moviWritesItsImmediate : Obligations.MoviWritesItsImmediate := by
  intro o s a ha
  exact ⟨by simp [execMovi, ha], decode_packMovi o⟩

end Sys2Proof.Machine
end

section
/-!
PROOF. The word operations as the formulas of their rules, pair words and the instructions of several registers (O13).
-/
namespace Sys2Proof.Machine
open Sys2Proof

/-! ### The word operations and the formulas of the rules -/

@[simp] theorem getElem_refWord (f : Nat → Bool) (i : Nat) (h : i < 32) : (Ref.word f)[i] = f i :=
  BitVec.getElem_ofFnLE _ i h

/-- A word is fixed by its residue: what an operation computes in the integers is the word operation (R118). -/
theorem ofInt_rdInt (u : Bool) (a : Word) : BitVec.ofInt 32 (rdInt u a) = a := by
  cases u <;> simp [rdInt]

theorem narrow_rdInt (u u' : Bool) (a : Word) : narrow false u (rdInt u' a) = a := ofInt_rdInt u' a

theorem rdInt_lt_iff (u : Bool) (a b : Word) : rdInt u a < rdInt u b ↔ Ref.below u a b = true := by
  cases u <;> simp [rdInt, Ref.below, BitVec.ult, BitVec.slt]

theorem clampInt_eq_max_min {lo hi : Int} (h : lo ≤ hi) (v : Int) : clampInt v lo hi = max lo (min hi v) := by
  unfold clampInt; split <;> [skip; split] <;> omega

theorem iaddW_eq (sat u : Bool) (a b : Word) : iaddW sat u a b = Ref.iadd sat u a b := by
  unfold iaddW narrow Ref.iadd
  cases sat with
  | false => simp [BitVec.ofInt_add, ofInt_rdInt]
  | true =>
    cases u with
    | false => simp [rdInt, intRange, clampInt_eq_max_min]
    | true =>
      simp only [rdInt, intRange, if_true, Bool.not_true, Bool.false_eq_true, if_false]
      rw [clampInt_eq_max_min (by decide), ← BitVec.ofInt_natCast]
      congr 1
      omega

theorem isubW_eq (sat u : Bool) (a b : Word) : isubW sat u a b = Ref.isub sat u a b := by
  unfold isubW narrow Ref.isub
  cases sat with
  | false => simp [Int.sub_eq_add_neg, BitVec.ofInt_add, BitVec.ofInt_neg, ofInt_rdInt, BitVec.sub_eq_add_neg]
  | true =>
    cases u with
    | false => simp [rdInt, intRange, clampInt_eq_max_min]
    | true =>
      have := a.isLt
      simp only [rdInt, intRange, if_true, Bool.not_true, Bool.false_eq_true, if_false]
      rw [clampInt_eq_max_min (by decide), ← BitVec.ofInt_natCast]
      congr 1
      omega

theorem imulW_eq (a b : Word) : imulW a b = a * b := by
  simp [imulW, narrow, BitVec.ofInt_mul]

theorem iminW_eq (u : Bool) (a b : Word) : iminW u a b = Ref.imin u a b := by
  have key := rdInt_lt_iff u b a
  unfold iminW Ref.imin
  split
  · rw [min_eq_right (by grind), narrow_rdInt]
  · rw [min_eq_left (by grind), narrow_rdInt]

theorem imaxW_eq (u : Bool) (a b : Word) : imaxW u a b = Ref.imax u a b := by
  have key := rdInt_lt_iff u a b
  unfold imaxW Ref.imax
  split
  · rw [max_eq_right (by grind), narrow_rdInt]
  · rw [max_eq_left (by grind), narrow_rdInt]

theorem shlW_eq (a b : Word) : shlW a b = Ref.shl a b := by
  ext i hi
  simp only [shlW, Ref.shl, getElem_refWord]
  split <;> simp <;> grind

theorem shrW_eq (s : Bool) (a b : Word) : shrW s a b = Ref.shr s a b := by
  ext i hi
  simp only [shrW, Ref.shr, getElem_refWord]
  cases s with
  | false => simp; grind
  | true => simp [BitVec.getElem_sshiftRight]; grind

theorem imadwW_eq (u : Bool) (a b lo hi : Word) :
    imadwW u a b (hi.toNat * 2 ^ 32 + lo.toNat) = Ref.imadw u a b lo hi := by
  have hcat : BitVec.ofInt 64 ((hi.toNat * 2 ^ 32 + lo.toNat : Nat) : Int) = hi ++ lo := by
    rw [BitVec.ofInt_natCast]
    apply BitVec.eq_of_toNat_eq
    rw [BitVec.toNat_append, ← Nat.shiftLeft_add_eq_or_of_lt lo.isLt]
    simp [Nat.shiftLeft_eq]
    omega
  unfold imadwW Ref.imadw
  rw [BitVec.ofInt_add, hcat, BitVec.ofInt_mul]
  cases u with
  | true => simp [rdInt]
  | false => simp [rdInt, BitVec.signExtend]


theorem halves_eq_halfWords (f : Nat → Nat → Nat) (a b : Word) :
    (halves fun i => f (elem 16 a i) (elem 16 b i)) = Ref.halfWords (fun x y => BitVec.ofNat 16 (f x.toNat y.toNat)) a b := by
  have half (x : Word) : elem 16 x 0 = (x.extractLsb' 0 16).toNat ∧ elem 16 x 1 = (x.extractLsb' 16 16).toNat := by
    simp [elem, BitVec.extractLsb'_toNat, Nat.shiftRight_eq_div_pow]
  simp only [halves, Ref.halfWords, half]
  apply BitVec.eq_of_toNat_eq
  rw [BitVec.toNat_append, ← Nat.shiftLeft_add_eq_or_of_lt (BitVec.isLt _)]
  simp only [w32, BitVec.toNat_ofNat, Nat.shiftLeft_eq]
  omega

theorem and_eq_word (a b : Word) : a &&& b = Ref.word fun i => a.getLsbD i && b.getLsbD i := by
  ext i hi; simp [hi]

theorem or_eq_word (a b : Word) : a ||| b = Ref.word fun i => a.getLsbD i || b.getLsbD i := by
  ext i hi; simp [hi]

theorem xor_eq_word (a b : Word) : a ^^^ b = Ref.word fun i => a.getLsbD i != b.getLsbD i := by
  ext i hi; simp [hi]

/-! ### Pair words (R24 to R26) -/

/-- Each pair operation is the operation of its full form (R25). -/
theorem pairOp_fn_eq (p : PairOp) (md : BitVec 4) (d a : Word) : p.fn md d a = Ref.pair p md d a := by
  have hmod : BitVec.zeroExtend 6 md = (0#2 ++ md : BitVec 6) := by
    ext i hi
    rw [BitVec.zeroExtend, BitVec.getElem_setWidth, ← BitVec.getLsbD_eq_getElem, BitVec.getLsbD_append]
    grind
  cases p <;>
    simp only [PairOp.fn, Ref.pair, iaddW_eq, isubW_eq, imulW_eq, iminW_eq, imaxW_eq, shlW_eq, shrW_eq, w32, hadd2W, hmul2W,
      halfFmt, halves_eq_halfWords, and_eq_word, or_eq_word, xor_eq_word, hmod, Bool.false_eq_true, if_false]

theorem exec_pairInstr (p : PairOp) (x : HalfOpnds) (y : PairHalf) (s : State) :
    exec (Ref.pairInstr p x y) s = s.pairWord p x y := by cases p <;> rfl

theorem pairOp_srcA_eq (p : PairOp) (h : HalfOpnds) :
    p.srcA h = if p.isImm then .imm (Ref.pairImm p h.a) else .reg h.a h.sa := by cases p <;> rfl

theorem anyPx_cons (s : State) (a : Actx) (m : Mask) (x : Src) (xs : List Src) :
    s.anyPx a m (x :: xs) = (s.anyPx a m [x] || s.anyPx a m xs) := by
  rw [Bool.eq_iff_iff]
  simp only [State.anyPx, List.any_cons, List.any_nil, Bool.or_false, Bool.or_eq_true, List.any_eq_true, and_or_left, exists_or]

/-- The sources of a half hold no proxy when A and, where it is read, D hold none. -/
theorem anyPx_pairOp_srcs {s : State} {a : Actx} {m : Mask} (p : PairOp) (h : HalfOpnds)
    (hA : s.anyPx a m [p.srcA h] = false) (hD : p ≠ .mov → p ≠ .movi8 → s.anyPx a m [.reg h.d false] = false) :
    s.anyPx a m (p.srcs h) = false := by
  by_cases hp : p = .mov ∨ p = .movi8
  · obtain rfl | rfl := hp <;> exact hA
  · push Not at hp
    have hsrcs : p.srcs h = [.reg h.d false, p.srcA h] := by unfold PairOp.srcs; split <;> simp_all
    rw [hsrcs, anyPx_cons, hA, hD hp.1 hp.2, Bool.or_self]

/-- A pair word with plain guards and plain sources writes its two results and retires (R26). -/
theorem pairWord_acts {s : State} {a : Actx} (p : PairOp) (x : HalfOpnds) (y : PairHalf) (ha : s.actx = some a)
    (hgx : a.guardPx x.g = false) (hgy : a.guardPx y.o.g = false)
    (hx : s.anyPx a (a.active x.gn x.g) (p.srcs x) = false) (hy : s.anyPx a (a.active y.o.gn y.o.g) (y.op.srcs y.o) = false) :
    let s1 := if a.active x.gn x.g = 0#32 then s else s.wr a x.d false (a.active x.gn x.g) (s.halfVal a p x)
    let s2 := if a.active y.o.gn y.o.g = 0#32 then s1
      else s1.wr a y.o.d false (a.active y.o.gn y.o.g) (s.halfVal a y.op y.o)
    s.pairWord p x y = .next (s2.retire a) := by
  simp [State.pairWord, ha, hgx, hgy, hx, hy]

/-! ### The instructions of several registers (R119, R145) -/

theorem intVal_elem8 (v : Word) (i : Nat) : intVal true 8 (elem 8 v i) = (v.extractLsb' (8 * i) 8).toInt := by
  simp only [intVal, elem, sextInt, BitVec.toInt_eq_toNat_cond, BitVec.extractLsb'_toNat, Nat.shiftRight_eq_div_pow]
  norm_num
  split <;> split <;> omega

theorem wrRun_eq_foldl (s : State) (a : Actx) (d : Nat) (sd : Bool) (m : Mask) (v : Nat → Nat → Word) (n : Nat) :
    s.wrRun a d sd m v n = (List.range n).foldl (fun (t : State) i => t.wr a (BitVec.ofNat 8 (d + i)) sd m (v i)) s := by
  induction n with
  | zero => rfl
  | succ n ih => simp [State.wrRun, List.range_succ, ih]

/-- The specifier that holds the high word of IMADW's C (R119). -/
def imadwHigh (o : Opnds) : Src := if o.c = 0xF3#8 then o.srcC else .reg (o.c + 1#8) o.sc

/-- The 64-bit result of IMADW in a lane; C = ZERO reads 0 (R119). -/
def imadwResult (s : State) (a : Actx) (o : Opnds) (l : Nat) : DWord :=
  let zero := o.c = 0xF3#8 ∧ o.sc = false
  Ref.imadw (o.mod.getLsbD 0) (s.val a o.srcA l) (s.val a o.srcB l)
    (if zero then 0#32 else s.val a o.srcC l) (if zero then 0#32 else s.val a (imadwHigh o) l)

theorem imadwW_eq_result (s : State) (a : Actx) (o : Opnds) (l : Nat) :
    imadwW (o.m 0) (s.val a o.srcA l) (s.val a o.srcB l)
      (if o.c = 0xF3#8 ∧ (!o.sc) = true then 0 else (s.val a (imadwHigh o) l).toNat * 2 ^ 32 + (s.val a o.srcC l).toNat)
      = imadwResult s a o l := by
  unfold imadwResult
  rw [← imadwW_eq]
  by_cases hz : o.c = 0xF3#8 ∧ o.sc = false
  · simp [hz, Opnds.m]
  · have hz' : ¬(o.c = 0xF3#8 ∧ (!o.sc) = true) := by simpa using hz
    simp only [if_neg hz, if_neg hz', Opnds.m]

theorem exec_imadw_acts {o : Opnds} {s : State} {a : Actx} (h : s.ActsOn a o [o.srcA, o.srcB, o.srcC, imadwHigh o]) :
    exec (.imadw o) s = .next (((s.wr a o.d o.sd (a.lanes o) fun l => (imadwResult s a o l).extractLsb' 0 32).wr a
      (o.d + 1#8) o.sd (a.lanes o) fun l => (imadwResult s a o l).extractLsb' 32 32).retire a) := by
  obtain ⟨hacts, hpx⟩ := h
  simp only [exec_imadw, execImadw, run_acts hacts, ← imadwHigh.eq_1, imadwW_eq_result]
  rw [if_neg]
  simpa [Actx.lanes] using hpx


/-- Settles O13: each part is its instruction's course with the result written by the formula of its rule. -/
theorem pairResults : Obligations.PairResults := by
  refine ⟨⟨fun o s a h => exec_imadw_acts h, ?_⟩, ?_⟩
  · intro o s a ⟨hacts, hpx⟩
    have hplain : s.anyPx a (a.lanes o) [o.srcA] ≠ true := by simpa [Actx.lanes] using hpx
    constructor <;> intro hmod <;>
      simp only [exec_rxcvtEnc, execRxcvtEnc, run_acts hacts, if_neg hplain, Opnds.m, hmod, if_true, Bool.false_eq_true, if_false,
        wrRun_eq_foldl, intVal_elem8, w32]
  · intro p x y s a ha hgx hgy src mx my plain v hpx hpy
    have hsrc (q : PairOp) (h : HalfOpnds) : q.srcA h = src q h := pairOp_srcA_eq q h
    have hv (q : PairOp) (h : HalfOpnds) : s.halfVal a q h = v q h := by
      funext l
      simp only [State.halfVal, pairOp_fn_eq, hsrc, v]
    have hsrcs (q : PairOp) (h : HalfOpnds) (m : Mask) (hp : plain q h m) : s.anyPx a m (q.srcs h) = false :=
      anyPx_pairOp_srcs q h (by rw [hsrc]; exact hp.1) hp.2
    rw [exec_pairInstr, pairWord_acts p x y ha hgx hgy (hsrcs _ _ _ hpx) (hsrcs _ _ _ hpy), hv, hv]

end Sys2Proof.Machine
end

section
/-!
PROOF. Guards: which instructions evaluate theirs before they act, and what that decides (O7).
-/
namespace Sys2Proof.Machine
open Sys2Proof

/-- The instruction evaluates the guard of its operand fields before it does anything else (R22). -/
def Guards (s : State) (i : Instr) (o : Opnds) : Prop := ∃ act, exec i s = s.guarded o.gn o.g act

section
variable {s : State} {i : Instr} {o : Opnds}

theorem guards_run {act : Actx → Mask → State} (h : exec i s = s.run o act) : Guards s i o := ⟨act, h⟩

theorem guards_plainOp {xs : List Src} {f : Actx → Nat → Word} (h : exec i s = s.plainOp o xs f) : Guards s i o := guards_run h

theorem guards_capable {dst : PxDst} {xs : List Src} {fn : HomeFn} (h : exec i s = s.capable o dst xs fn) : Guards s i o :=
  guards_run h

theorem guards_select {b : Src} (h : exec i s = s.select o b) : Guards s i o := guards_run h

theorem guards_moveLane {b : Src} (h : exec i s = s.moveLane o b) : Guards s i o := guards_run h

theorem guards_lxchg {mode : LxMode} {b : Src} (h : exec i s = s.lxchg mode o b) : Guards s i o := guards_run h

end

/-- Each of these instructions evaluates its guard first, in one of the shared courses. -/
theorem guards_guardedInstrs (h : BitVec 3) (op : ReduxOp) (lx : LxMode) (vm : VoteMode) (fn : SfFn) (o : Opnds) (s : State) :
    ∀ i ∈ guardedInstrs h op lx vm fn o, Guards s i o := by
  simp only [guardedInstrs, List.forall_mem_append, List.forall_mem_cons, List.not_mem_nil, IsEmpty.forall_iff, implies_true,
    and_true]
  refine ⟨⟨⟨⟨guards_run (exec_ret o s), guards_run (exec_exit o s), guards_run (exec_join o s), guards_run (exec_sleep o s),
      guards_run (exec_sleepProm o s), guards_run (exec_sleepFor o s), guards_run (exec_trap o s),
      guards_run (exec_bkpt o s), guards_run (exec_swpt o s), guards_run (exec_phase o s), guards_run (exec_rbacq o s),
      guards_run (exec_rbrel o s), guards_capable (exec_iaddReg o s), guards_capable (exec_iaddImm o s),
      guards_capable (exec_isubReg o s), guards_capable (exec_isubImm o s), guards_capable (exec_imulReg o s),
      guards_capable (exec_imulImm o s), guards_plainOp (exec_imulhReg o s), guards_plainOp (exec_imulhImm o s),
      guards_capable (exec_imad o s), guards_run (exec_imadw o s)⟩,
    ⟨guards_capable (exec_iminReg o s), guards_capable (exec_iminImm o s), guards_capable (exec_imaxReg o s),
      guards_capable (exec_imaxImm o s), guards_plainOp (exec_iabs o s), guards_capable (exec_itestReg o s),
      guards_capable (exec_itestImm o s), guards_select (exec_selReg o s), guards_select (exec_selImm o s),
      guards_capable (exec_blutReg h o s), guards_capable (exec_blutImm h o s), guards_capable (exec_shlReg o s),
      guards_capable (exec_shlImm o s), guards_capable (exec_shrReg o s), guards_capable (exec_shrImm o s),
      guards_plainOp (exec_shf o s), guards_plainOp (exec_popc o s), guards_plainOp (exec_clz o s),
      guards_plainOp (exec_brev o s), guards_plainOp (exec_bfeReg o s), guards_plainOp (exec_bfeImm o s),
      guards_plainOp (exec_bfi o s), guards_plainOp (exec_leaReg o s), guards_plainOp (exec_leaImm o s),
      guards_run (exec_mov o s), guards_run (exec_movP2v o s), guards_run (exec_movV2p o s),
      guards_moveLane (exec_movLaneReg o s), guards_moveLane (exec_movLaneImm o s), guards_run (exec_movUnif o s),
      guards_run (exec_plop h o s)⟩⟩,
    ⟨guards_capable (exec_faddReg o s), guards_capable (exec_faddImm o s), guards_capable (exec_fmulReg o s),
      guards_capable (exec_fmulImm o s), guards_capable (exec_ffma o s), guards_capable (exec_fminReg o s),
      guards_capable (exec_fminImm o s), guards_capable (exec_fmaxReg o s), guards_capable (exec_fmaxImm o s),
      guards_capable (exec_fsetpReg h o s), guards_capable (exec_fsetpImm h o s), guards_plainOp (exec_hadd2Reg o s),
      guards_plainOp (exec_hadd2Imm o s), guards_plainOp (exec_hmul2Reg o s), guards_plainOp (exec_hmul2Imm o s),
      guards_plainOp (exec_hfma2 o s), guards_plainOp (exec_fdot2 o s), guards_plainOp (exec_fclass o s),
      guards_capable (exec_cvt o s), guards_plainOp (exec_pack h o s), guards_plainOp (exec_unpack h o s),
      guards_run (exec_rxcvtEnc o s), guards_plainOp (exec_rxcvtDec o s), guards_run (exec_ballot o s),
      guards_plainOp (exec_matchAny o s), guards_run (exec_matchAll o s), guards_run (exec_xpair o s),
      guards_run (exec_xshfl o s)⟩⟩,
    ⟨guards_plainOp (exec_fsfun fn o s), guards_lxchg (exec_lxchgReg lx o s), guards_lxchg (exec_lxchgImm lx o s),
      guards_run (exec_vote vm o s), guards_run (exec_redux op o s)⟩⟩

theorem guardPx_of_proxy {a : Actx} {g : BitVec 3} (h : ∃ l, a.p.mask.getLsbD l = true ∧ (a.w.pred g.toNat l).px ≠ none) :
    a.guardPx g = true := by
  obtain ⟨l, hl, hpx⟩ := h
  rw [Actx.guardPx, List.any_eq_true]
  exact ⟨l, by simpa [lanesOf, hl] using BitVec.lt_of_getLsbD hl, by simpa [Option.isSome_iff_ne_none] using hpx⟩


/-- Settles O7: every such instruction evaluates its guard first, and the guard alone decides. -/
theorem idleAndProxyGuards : Obligations.IdleAndProxyGuards := by
  refine ⟨⟨?_, ?_⟩, ?_, ?_⟩
  · intro h op lx vm fn o i hi s a ha hg hl
    obtain ⟨act, hact⟩ := guards_guardedInstrs h op lx vm fn o s i hi
    rw [hact, guarded_idle ha hg hl]
  · intro t s a ha hg hl
    rw [exec_call, execCall, guarded_idle ha hg hl]
  · intro h op lx vm fn o i hi s a ha hpx
    obtain ⟨act, hact⟩ := guards_guardedInstrs h op lx vm fn o s i hi
    rw [hact, guarded_proxy ha (guardPx_of_proxy hpx)]
  · intro t s a ha hpx
    rw [exec_call, execCall, guarded_proxy ha (guardPx_of_proxy hpx)]

end Sys2Proof.Machine
end

section
/-!
PROOF. What an instruction with a result leaves unchanged (O16).
-/
namespace Sys2Proof.Machine
open Sys2Proof

/-- A warp of lane 0 whose path comes to the rejoin point of its innermost record with its next word. -/
def rejoiningWarp : Warp :=
  { (default : Warp) with
    path0 := some { Path.at 0x1000#64 1#32 (some 0) with clause := { s1 := none, s2 := none, left := 1 } }
    stack := [.join { id := 0, seq := 0, rejoin := 0x1008#64, mask := 1#32, arrived := 0#32, parent := none, call := false }]
    nextJoin := 1 }

/-- A block of that warp on core 0. -/
def rejoiningBlock : Block := { (default : Block) with loc := .core 0, warps := [rejoiningWarp] }

/-- The device after reset with that block placed and its warp's slot 0 to issue. -/
def rejoiningState : State := { State.reset with actor := .warp 0 0 0, blocks := [rejoiningBlock] }

/-- MOVI of 0 to ZERO. -/
def moviToZero : MoviOpnds := { (default : MoviOpnds) with d := 0xF3#8 }

/-- The view of the slot. -/
def rejoiningView : Actx :=
  { bid := 0, wi := 0, slot := 0, blk := rejoiningBlock, w := rejoiningWarp
    p := { Path.at 0x1000#64 1#32 (some 0) with clause := { s1 := none, s2 := none, left := 1 } }, core := 0 }

theorem actx_rejoining : rejoiningState.actx = some rejoiningView := rfl

/-- The arrival at the record writes it anew, and the count of the warp's join-record writes moves on (R64, R67). -/
theorem nextJoin_movi_rejoining :
    exec (.movi moviToZero) rejoiningState = .next (rejoiningState.retire rejoiningView) ∧
    ((rejoiningState.retire rejoiningView).warp? rejoiningView.bid rejoiningView.wi).map (·.2.nextJoin) = some 2 := ⟨rfl, rfl⟩

/-- Refutes O16: MOVI to ZERO on a path that comes to its rejoin point moves the warp's count of join records on, which the
frame holds fixed. -/
theorem not_resultFrames : ¬ Obligations.ResultFrames := by
  rintro ⟨⟨-, -, movi⟩, -⟩
  obtain ⟨hexec, hnext⟩ := nextJoin_movi_rejoining
  obtain ⟨t, ht, -, blk, w, hw, same, -⟩ :=
    movi moviToZero rejoiningState rejoiningView actx_rejoining (Or.inl rfl)
  obtain rfl : rejoiningState.retire rejoiningView = t := by
    simpa using hexec.symm.trans ht
  have h2 : w.nextJoin = 2 := by simpa [hw] using hnext
  have h1 : w.nextJoin = 1 := congrArg Warp.nextJoin same
  omega

end Sys2Proof.Machine
end

section
/-!
PROOF. Headers, NOP, YIELD and the SLEEP forms (O21).
-/
namespace Sys2Proof.Machine
open Sys2Proof

/-! ### Sleeping (R81) -/

/-- The time left to a deadline, by the low word of the cluster's counter (R81). -/
def State.timeLeft (s : State) (a : Actx) (deadline : Word) : Int :=
  (deadline - BitVec.ofNat 32 (s.cycle (clusterOf a.core))).toInt

theorem ahead_eq (s : State) (a : Actx) (d : Word) : s.ahead a d = (s.timeLeft a d).toNat := rfl

theorem sleepFor_zero (s : State) (a : Actx) : s.sleepFor a 0 = s.retire a := rfl

theorem sleepFor_pos {s : State} {a : Actx} {n : Nat} (h : n ≠ 0) :
    s.sleepFor a n = s.updWarp a.bid a.wi fun w => w.setWait a.slot (.sleep (s.cycle (clusterOf a.core) + n)) := if_neg h

section
variable {s : State} {a : Actx} {obj : Nat} {ph : Bool}

/-- A promise that was kept observes the arrivals and the path goes on. -/
theorem promise_kept (u : Nat) (late : Bool) (h : (s.arrObj a.bid obj).phase ≠ ph) :
    s.promise a u obj ph late =
      ((s.updWarp a.bid a.wi fun w => w.setWait a.slot .ready).observe a.bid a.wi a.core obj).retire a := by
  simp [State.promise, h]

theorem promise_missed_traps (u : Nat) (h : (s.arrObj a.bid obj).phase = ph) (htrap : (s.ctx a.blk.ctx).schedExp.getLsbD 0 = true) :
    s.promise a u obj ph false = (s.updWarp a.bid a.wi fun w => w.setWait a.slot .ready).raise a Code.missprom 0 := by
  simp only [State.promise, h, htrap, bne_self_eq_false, Bool.false_eq_true, if_false, if_true]

theorem promise_missed_waits (u : Nat) (h : (s.arrObj a.bid obj).phase = ph) (htrap : (s.ctx a.blk.ctx).schedExp.getLsbD 0 = false) :
    s.promise a u obj ph false = s.updWarp a.bid a.wi fun w => w.setWait a.slot (.sleepProm u obj ph true) := by
  simp only [State.promise, h, htrap, bne_self_eq_false, Bool.false_eq_true, if_false]

end

section
variable {o : Opnds} {s : State} {a : Actx}

theorem exec_sleep_acts (h : s.Acts a o.gn o.g) :
    exec (.sleep o) s = .next (s.sleepFor a (s.timeLeft a (s.scalar a o.a o.sa)).toNat) := by
  rw [exec_sleep, execSleep, run_acts h]; rfl

theorem exec_sleepFor_acts (h : s.Acts a o.gn o.g) : exec (.sleepFor o) s = .next (s.sleepFor a o.imm16.toNat) := by
  rw [exec_sleepFor, execSleepFor, run_acts h]

/-- SLEEP.PROM with a good arrival object looks at its promise at once, or sleeps until the deadline. -/
theorem exec_sleepProm_acts (h : s.Acts a o.gn o.g) (hobj : s.checkObj a (s.scalar a o.b o.sb).toNat = none) :
    exec (.sleepProm o) s = .next (
      let obj := (s.scalar a o.b o.sb).toNat
      let now := s.cycle (clusterOf a.core)
      let n := (s.timeLeft a (s.scalar a o.a o.sa)).toNat
      if n = 0 then s.promise a now obj (o.mod.getLsbD 0) false
      else s.updWarp a.bid a.wi fun w => w.setWait a.slot (.sleepProm (now + n) obj (o.mod.getLsbD 0) false)) := by
  rw [exec_sleepProm, execSleepProm, run_acts h]
  simp only [hobj, ahead_eq, Opnds.m]
  rfl

end

/-- A sleep that is due ends, and a promise that is due is looked at (R81). -/
theorem exec_sleepWake_due {s : State} {a : Actx} {u : Nat} (ha : s.actxAt (s.arg 0) (s.arg 1) (s.arg 2) = some a)
    (hheld : a.p.held = false) (hu : u ≤ s.cycle (clusterOf a.core)) :
    (a.p.wait = .sleep u → exec .sleepWake s = .next (s.retire a)) ∧
    (∀ obj ph late, a.p.wait = .sleepProm u obj ph late → exec .sleepWake s = .next (s.promise a u obj ph late)) := by
  constructor
  · intro hw; simp [execSleepWake, ha, hheld, hw, hu]
  · intro obj ph late hw; simp [execSleepWake, ha, hheld, hw, hu]

/-! ### YIELD (R80) -/

/-- A block looked up after every block was changed in place. -/
theorem block?_map (s : State) (f : Block → Block) (hid : ∀ x, (f x).id = x.id) (b : Nat) :
    ({ s with blocks := s.blocks.map f } : State).block? b = (s.block? b).map f := by
  simp only [State.block?, List.find?_map]
  congr 2
  funext x
  simp [hid]

/-- YIELD makes each other ready warp of the core older by one, and changes nothing else of any warp. -/
theorem warp?_yieldTo {s : State} {a : Actx} {b wi : Nat} {blk : Block} {w : Warp}
    (h : (s.yieldTo a).warp? b wi = some (blk, w)) :
    ∃ b0 w0, s.warp? b wi = some (b0, w0) ∧ w = { w0 with age := w.age } ∧
      w.age = (if b0.loc = .core a.core ∧ s.warpReady b wi = true ∧ ¬(b = a.bid ∧ wi = a.wi) then w0.age + 1 else w0.age) := by
  rw [State.warp?, State.yieldTo, block?_map _ _ (fun x => by split <;> rfl)] at h
  simp only [Option.bind_eq_some_iff, Option.map_eq_some_iff, Prod.mk.injEq] at h
  obtain ⟨_, ⟨b0, hb0, rfl⟩, w', hw, rfl, rfl⟩ := h
  have hid : b0.id = b := State.block?_id hb0
  by_cases hcore : b0.loc = .core a.core
  · simp only [hcore, beq_self_eq_true, if_true, List.getElem?_map, List.getElem?_zipIdx, Option.map_map,
      Option.map_eq_some_iff, Nat.zero_add, Function.comp_apply] at hw
    obtain ⟨w0, hw0, rfl⟩ := hw
    refine ⟨b0, w0, by simp [State.warp?, hb0, hw0], ?_⟩
    rw [hid]
    split <;> simp_all <;> tauto
  · have hcore' : (b0.loc == .core a.core) = false := by simpa using hcore
    simp only [hcore', Bool.false_eq_true, if_false] at hw
    exact ⟨b0, w', by simp [State.warp?, hb0, hw], rfl, by rw [if_neg (by tauto)]⟩


/-- Settles O21, one instruction after the other. -/
theorem clausesAndSleeps : Obligations.ClausesAndSleeps := by
  refine ⟨⟨?_, ?_, ?_, fun s a b wi blk w h => warp?_yieldTo h⟩, ?_, ?_⟩
  · intro h s a ha
    simp [execClauseStart, ha, Actx.next]
  · intro o s a ha
    simp [execNop, ha]
  · intro o s a ha
    simp [execYield, ha]
  · intro o s a hacts now left rest
    rw [exec_sleep_acts hacts, exec_sleepFor_acts hacts]
    have hleft : s.timeLeft a (s.scalar a o.a o.sa) = left := rfl
    refine ⟨fun h => ?_, fun h => ?_, fun h => ?_, fun h => ?_, fun hobj h => ?_, fun hobj h => ?_⟩
    · rw [hleft, Int.toNat_of_nonpos h, sleepFor_zero]
    · rw [hleft, sleepFor_pos (by omega)]
    · rw [h]; rfl
    · rw [sleepFor_pos fun h0 => h (BitVec.eq_of_toNat_eq h0)]
    · rw [exec_sleepProm_acts hacts hobj, hleft]
      simp only [if_neg (show left.toNat ≠ 0 by omega), now]
    · rw [exec_sleepProm_acts hacts hobj, hleft]
      simp only [Int.toNat_of_nonpos h, if_true]
      exact ⟨fun hp => by rw [promise_kept _ false hp], fun hp ht => by rw [promise_missed_traps _ hp ht],
        fun hp ht => by rw [promise_missed_waits _ hp ht]⟩
  · intro s a u ha hheld hu
    obtain ⟨hsleep, hprom⟩ := exec_sleepWake_due ha hheld hu
    refine ⟨hsleep, fun obj ph hw => ?_⟩
    rw [hprom obj ph false hw]
    exact ⟨fun h => by rw [promise_kept u false h], fun h ht => by rw [promise_missed_traps u h ht],
      fun h ht => by rw [promise_missed_waits u h ht]⟩

end Sys2Proof.Machine
end

section
/-!
PROOF. A step runs the instruction that is due, or raises the trap of its word (O4).
-/
namespace Sys2Proof.Machine
open Sys2Proof

/-! ### The action a step takes -/

/-- What a step does with what its action gave: it performs the instruction or event that runs, or ends there. -/
def State.conclude (r : State) : State × Option Instr → Host.Outcome State Fault Refusal
  | (s1, some i) => s1.perform i
  | (s1, none) => .next (r.after s1)

/-- A step of a device with power takes the first action of its agenda. -/
theorem step_agenda {s : State} {act : Action} {rest : List Action} (hp : s.dev.powered = true) (h : s.agenda = act :: rest) :
    step s = ({ s with agenda := rest } : State).conclude (({ s with agenda := rest } : State).takeAction act) := by
  simp only [step, State.nextAction, h, hp, Bool.not_true, Bool.false_and, Bool.false_eq_true, if_false]
  rcases ({ s with agenda := rest } : State).takeAction act with ⟨s1, _ | i⟩ <;> rfl

theorem step_unpowered {s : State} (hp : s.dev.powered = false) (h : ∀ args rest, s.agenda ≠ .event .powerOnReset args :: rest)
    (hne : s.agenda ≠ []) : step s = .fault .unpowered := by
  obtain ⟨act, rest, hag⟩ := List.exists_cons_of_ne_nil hne
  have hon : powersOn act = false := by
    unfold powersOn
    split
    · exact absurd hag (h _ _)
    · rfl
  simp [step, State.nextAction, hag, hp, hon]

/-! ### The word due (R31, R38 to R40) -/

section
variable {s s1 : State} {a : Actx}

theorem due_eq_dueWord {b wi slot : Nat} (ha : ({ s with actor := .warp b wi slot } : State).actx = some a)
    (hmay : ({ s with actor := .warp b wi slot } : State).mayIssue a = true)
    (hslot : ({ s with actor := .warp b wi slot } : State).slotTurn a = true)
    (hwarp : ({ s with actor := .warp b wi slot } : State).warpTurn a = true) :
    s.due b wi slot = ({ s with actor := .warp b wi slot } : State).dueWord a := by
  simp only [State.due, ha, hmay, hslot, hwarp, Bool.and_self, if_true]

/-- The path's address lies within the code limits and the 57-bit space (R38). -/
def State.InCode (s : State) (a : Actx) : Prop :=
  (s.codeLimits a).1 ≤ a.p.pc.toNat ∧ a.p.pc.toNat < (s.codeLimits a).2 ∧ a.p.pc.toNat < 2 ^ 57

/-- The word is a clause header. -/
def isHeader : Except DecodeError Instr → Bool
  | .ok (.clauseStart _) => true
  | _ => false

/-- A header where one is due has its clause below the code limit (R38). -/
def State.ClauseFits (s : State) (a : Actx) (d : Except DecodeError Instr) : Prop :=
  wordAligned a.p = true → a.p.clause.left = 0 → clauseFits a.p.pc.toNat (s.codeLimits a).2 d = true

theorem State.InCode.not_outside (h : s.InCode a) :
    ¬(a.p.pc.toNat < (s.codeLimits a).1 ∨ (s.codeLimits a).2 ≤ a.p.pc.toNat ∨ 2 ^ 57 ≤ a.p.pc.toNat) := by
  obtain ⟨h1, h2, h3⟩ := h
  omega

theorem State.ClauseFits.not_beyond {d : Except DecodeError Instr} (h : s.ClauseFits a d) :
    ¬(wordAligned a.p && a.p.clause.left == 0 && !clauseFits a.p.pc.toNat (s.codeLimits a).2 d) = true := by
  intro hb
  simp only [Bool.and_eq_true, beq_iff_eq, Bool.not_eq_true'] at hb
  obtain ⟨⟨hal, hleft⟩, hbig⟩ := hb
  rw [h hal hleft] at hbig
  exact absurd hbig (by decide)

theorem dueWord_outside (h : a.p.pc.toNat < (s.codeLimits a).1 ∨ (s.codeLimits a).2 ≤ a.p.pc.toNat ∨ 2 ^ 57 ≤ a.p.pc.toNat) :
    s.dueWord a = (s.raiseTrap a.bid a.wi a.slot Code.codeend 0 0#64 false, none) := by
  simp only [State.dueWord, Bool.or_eq_true, decide_eq_true_eq, or_assoc]
  exact if_pos h

theorem dueWord_fetchFault {d : Nat} (h : s.InCode a) (hf : s.fetchWord a = (.error d, s1)) :
    s.dueWord a = (s1.fetchFault a d, none) := by
  simp only [State.dueWord, hf, Bool.or_eq_true, decide_eq_true_eq, or_assoc]
  exact if_neg h.not_outside

theorem dueWord_beyond {w : DWord} (h : s.InCode a) (hf : s.fetchWord a = (.ok w, s1)) (hal : wordAligned a.p = true)
    (hleft : a.p.clause.left = 0) (hbig : clauseFits a.p.pc.toNat (s.codeLimits a).2 (decode w) = false) :
    s.dueWord a = (s1.raiseTrap a.bid a.wi a.slot Code.codeend 0 0#64 false, none) := by
  simp only [State.dueWord, hf, Bool.or_eq_true, decide_eq_true_eq, or_assoc]
  refine (if_neg h.not_outside).trans (if_pos ?_)
  rw [hal, hleft, hbig]
  rfl

theorem dueWord_illegal {w : DWord} {n : Nat} (h : s.InCode a) (hf : s.fetchWord a = (.ok w, s1)) (hfit : s.ClauseFits a (decode w))
    (hn : placeDetail a.w a.p (decode w) = some n) :
    s.dueWord a = (s1.raiseTrap a.bid a.wi a.slot Code.illegal n 0#64
      (decide (a.p.clause.left ≠ 0) && !isHeader (decode w)), none) := by
  simp only [State.dueWord, hf, hn, Bool.or_eq_true, decide_eq_true_eq, or_assoc]
  refine (if_neg h.not_outside).trans ((if_neg hfit.not_beyond).trans ?_)
  have hne : (a.p.clause.left != 0) = decide (a.p.clause.left ≠ 0) := by
    rw [bne, decide_not]; rfl
  rw [Bool.and_comm, hne]
  rfl

theorem dueWord_runs {w : DWord} {i : Instr} (h : s.InCode a) (hf : s.fetchWord a = (.ok w, s1))
    (hfit : s.ClauseFits a (decode w)) (hi : decode w = .ok i) (hn : placeDetail a.w a.p (.ok i) = none)
    (hgo : flagsClear a.w i = true ∧ s1.pmatHolds a.bid a.wi (a.w.namedRegs i) = false) :
    s.dueWord a = (s1.updWarp a.bid a.wi fun w => w.setTag (operandFields i), some i) := by
  rw [hi] at hfit
  simp only [State.dueWord, hf, hi, hn, Bool.or_eq_true, decide_eq_true_eq, or_assoc]
  refine (if_neg h.not_outside).trans ((if_neg hfit.not_beyond).trans (if_pos ?_))
  simp [hgo]

theorem dueWord_stalls {w : DWord} {i : Instr} (h : s.InCode a) (hf : s.fetchWord a = (.ok w, s1))
    (hfit : s.ClauseFits a (decode w)) (hi : decode w = .ok i) (hn : placeDetail a.w a.p (.ok i) = none)
    (hgo : flagsClear a.w i = false ∨ s1.pmatHolds a.bid a.wi (a.w.namedRegs i) = true) :
    s.dueWord a = (s1.stall a, none) := by
  rw [hi] at hfit
  simp only [State.dueWord, hf, hi, hn, Bool.or_eq_true, decide_eq_true_eq, or_assoc]
  refine (if_neg h.not_outside).trans ((if_neg hfit.not_beyond).trans (if_neg ?_))
  rcases hgo with hgo | hgo <;> simp [hgo]

end

/-! ### The ILLEGAL detail of a word at its place -/

theorem least_eq_none : ∀ {ds : List Nat}, least ds = none ↔ ds = []
  | [] => by simp [least]
  | d :: ds => by simp only [least, reduceCtorEq, iff_false]; split <;> simp

/-- The lowest of a list is of the list and no greater than any of it. -/
theorem least_eq_some : ∀ {ds : List Nat} {n : Nat}, least ds = some n → n ∈ ds ∧ ∀ m ∈ ds, n ≤ m
  | [], n, h => by simp [least] at h
  | d :: ds, n, h => by
    simp only [least] at h
    split at h
    next hn => simp_all [least_eq_none]
    next e he =>
      obtain ⟨hmem, hle⟩ := least_eq_some he
      obtain rfl : min d e = n := by simpa using h
      refine ⟨?_, fun m hm => ?_⟩
      · rcases le_total d e with hde | hde <;> simp [hde, hmem]
      · rcases List.mem_cons.mp hm with rfl | hm
        · exact min_le_left _ _
        · exact (min_le_right _ _).trans (hle m hm)

/-- The details that apply to a decoded word at its place (R31, R40). -/
def detailsAt (w : Warp) (p : Path) : Instr → List Nat
  | .clauseStart h => headerDetails h ++ (if p.clause.left ≠ 0 then [0x0B] else [])
  | i => details i (decodeCtxOf w p) ++ (if p.clause.left = 0 then [0x0B] else [])

theorem placeDetail_ok {w : Warp} {p : Path} (h : wordAligned p = true) (i : Instr) :
    placeDetail w p (.ok i) = least (detailsAt w p i) := by
  have hdue : viol (p.clause.left == 0) 0x0B = if p.clause.left = 0 then [0x0B] else [] := by simp [viol]
  have hin : viol (!(p.clause.left == 0)) 0x0B = if p.clause.left ≠ 0 then [0x0B] else [] := by simp [viol]
  simp only [placeDetail, h, Bool.not_true, Bool.false_eq_true, if_false, hdue, hin]
  cases i <;> rfl

/-! ### What a step does beside its instruction -/

theorem fitL2_of_small {s : State} (h : s.l2.length ≤ 65536) : s.fitL2 = s := if_pos h

theorem spilled_of_small (s : State) (b : Block) (w : Warp) {w1 : Warp} (h : w1.stack.length ≤ 16) : s.spilled b w w1 = s := by
  simp [State.spilled, stackSpills, h]

theorem foldl_const {α β : Type} {f : α → β → α} {a : α} : ∀ {l : List β}, (∀ b ∈ l, f a b = a) → l.foldl f a = a
  | [], _ => rfl
  | b :: l, h => by
    rw [List.foldl_cons, h b (by simp), foldl_const fun c hc => h c (by simp [hc])]

/-- No stack holds more than 16 entries: nothing is spilled (R67). -/
theorem spillBeside_of_small (s : State) {t : State} (h : ∀ b ∈ t.blocks, ∀ w ∈ b.warps, w.stack.length ≤ 16) :
    s.spillBeside t = t := by
  refine foldl_const fun b _ => foldl_const fun x _ => ?_
  split
  next blk w1 hw =>
    simp only [State.warp?, State.block?, Option.bind_eq_some_iff, Option.map_eq_some_iff, Prod.mk.injEq] at hw
    obtain ⟨_, hblk, _, hw1, rfl, rfl⟩ := hw
    rw [spilled_of_small t b x.1 (h _ (List.mem_of_find?_eq_some hblk) _ (List.mem_of_getElem? hw1)), ite_self]
  next => rfl

/-- No flag-counted operation was in flight already: nothing was written early (R35). -/
theorem earlyWrites_of_new (s : State) {t : State} (h : ∀ o ∈ t.ops, o.flag = none ∨ s.op? o.id = none) : s.earlyWrites t = t := by
  refine foldl_const fun o ho => ?_
  unfold State.noteSources
  rcases h o ho with hflag | hnew
  · simp only [hflag, Option.isNone_none, Bool.true_or, if_true]
    split <;> rfl
  · simp only [hnew]

/-! ### The word has issued -/

/-- The path waits at a branch for the bits of an implicit crossing (R74). -/
def crosses : Wait → Bool
  | .crossing _ => true
  | _ => false

theorem perform_next {s t : State} {i : Instr} (h : exec i s = .next t) : s.perform i = .next (s.stepped i t).fitL2 := by
  simp only [State.perform, h]

section
variable {s t : State} {a : Actx} {blk : Block} {w : Warp}
variable (ha : s.actx = some a) (hw : t.warp? a.bid a.wi = some (blk, w)) (hlive : w.ended = false) (htrap : w.trap = none)
  (hframe : w.frame.isSome = a.w.frame.isSome)
include ha hw hlive htrap hframe

/-- The warp neither ended, nor trapped, nor entered a handler: whether its word has issued follows from its path. -/
theorem issued_eq (i : Instr) : s.issued i t =
    if w.path a.slot = some a.p then t.stall a
    else if (w.path a.slot).any Path.isParked || crosses a.p.wait then t
    else t.noteIssue a i := by
  have hgo : (w.ended || w.trap.isSome || (a.w.frame.isNone && w.frame.isSome)) = false := by
    rw [hlive, htrap, hframe]
    cases a.w.frame <;> rfl
  simp only [State.issued, ha, hw, hgo, Bool.false_eq_true, if_false]
  rfl

theorem issued_stalled (i : Instr) (hp : w.path a.slot = some a.p) : s.issued i t = t.stall a := by
  rw [issued_eq ha hw hlive htrap hframe, if_pos hp]

theorem issued_moved (i : Instr) (hready : a.p.wait = .ready) (hp : w.path a.slot ≠ some a.p)
    (hpark : ∀ p id, w.path a.slot = some p → p.wait ≠ .parked id) : s.issued i t = t.noteIssue a i := by
  have hnot : (w.path a.slot).any Path.isParked = false := by
    rw [Option.any_eq_false]
    intro p hpath
    unfold Path.isParked
    split
    next id hwait => exact absurd hwait (hpark p id hpath)
    next => rfl
  rw [issued_eq ha hw hlive htrap hframe, if_neg hp, hnot, hready]
  rfl

end

/-! ### A bank thread's word and a fetched word -/

/-- A thread of a running bank context that nothing stops runs its decoded word (R283, R292). -/
theorem bankDue_runs {s : State} {chan cx : Nat} {arith : Bool} {age : Nat} {k : BankCtx} {w : Word} {i : Instr}
    (hk : s.bankCtx? chan cx = some k) (hrun : k.state = .running) (hover : k.over arith = false)
    (hw : k.launch.code[k.pc arith]? = some w) (hi : decodeBank w = .ok i) (hthread : bankThread i = arith)
    (hcause : k.cause? arith i = none) :
    s.bankDue chan cx arith age = ({ s with actor := .bank chan cx arith, args := [age] }, some i) := by
  have hk' : ({ s with actor := .bank chan cx arith, args := [age] } : State).bankCtx? chan cx = some k := hk
  have hdueCause : k.dueCause arith = none := by simp [BankCtx.dueCause, hover, hw, hi, hcause]
  have hdue : k.due arith = some i := by simp [BankCtx.due, hover, hw, hi, hthread]
  simp [State.bankDue, hk', hrun, hdueCause, hdue]

/-- At the newest time of the log no write is undone. -/
theorem byteAt_memTime (s : State) (pa : Nat) : s.byteAt s.memTime pa = s.readByte pa := by
  unfold State.byteAt State.memTime
  rcases s.log with _ | ⟨e, es⟩ <;> simp

/-- Bytes that lie in no window are read as the log has them, and the read changes nothing (R191). -/
theorem loadBytesAt_plain (s : State) (t : Nat) {l : List Nat} (h : ∀ pa ∈ l, inWindow pa = false) :
    s.loadBytesAt t l = (l.map (s.byteAt t), s) := by
  induction l with
  | nil => rfl
  | cons pa l ih =>
    rw [State.loadBytesAt, h pa (by simp), ih fun x hx => h x (by simp [hx])]
    rfl

theorem loadBytes_plain (s : State) {l : List Nat} (h : ∀ pa ∈ l, inWindow pa = false) : s.loadBytes l = (l.map s.readByte, s) := by
  rw [State.loadBytes, loadBytesAt_plain s s.memTime h]
  simp [byteAt_memTime]

theorem fetchWord_translated {s t : State} {a : Actx} {pa : Nat} (h : s.translate a.core a.blk.ctx a.p.pc.toNat .fetch = (.ok pa, t))
    (hplain : ∀ i, i < 8 → inWindow (pa + i) = false) :
    (s.fetchWord a).1 = .ok (BitVec.ofNat 64 (leNat (t.readPhys pa 8))) := by
  simp only [State.fetchWord, h]
  rw [loadBytes_plain t (by simpa using hplain), List.map_map]
  rfl

/-- Settles O4: the step's agenda gives its action, and the word due is looked at case by case (R31, R38 to R40). -/
theorem stepRunsTheDecodedInstruction : Obligations.StepRunsTheDecodedInstruction := by
  refine ⟨?_, ?_, ?_, ?_, ?_, ?_, fun s pa t a h hp => fetchWord_translated h hp, fun s hp hag hne => step_unpowered hp hag hne⟩
  · intro s b wi slot rest a hp hag r s0 trap ha hmay hslot hwarp
    have hstep : step s = r.conclude (s0.dueWord a) := by
      rw [step_agenda hp hag]
      exact congrArg r.conclude (due_eq_dueWord ha hmay hslot hwarp)
    refine ⟨fun hout => by rw [hstep, dueWord_outside hout]; rfl, fun h1 h2 h3 => ?_⟩
    have hin : s0.InCode a := ⟨h1, h2, h3⟩
    refine ⟨fun d s1 hf => by rw [hstep, dueWord_fetchFault hin hf]; rfl, fun w s1 hf => ⟨?_, fun hfit => ⟨?_, ?_⟩⟩⟩
    · intro h hdec hal hleft hbig
      have hnot : clauseFits a.p.pc.toNat (s0.codeLimits a).2 (decode w) = false := by
        rw [hdec]
        exact decide_eq_false (by omega)
      rw [hstep, dueWord_beyond hin hf hal hleft hnot]
      rfl
    · intro n hn
      rw [hstep, dueWord_illegal hin hf hfit hn]
      rfl
    · intro i hi hn
      exact ⟨fun hflags hheld => by rw [hstep, dueWord_runs hin hf hfit hi hn ⟨hflags, hheld⟩]; rfl,
        fun hwait => by rw [hstep, dueWord_stalls hin hf hfit hi hn hwait]; rfl⟩
  · intro w p
    refine ⟨fun hal d => by simp [placeDetail, hal], fun hal => ⟨fun e => by simp [placeDetail, hal], fun i => ?_⟩⟩
    have hds := placeDetail_ok (w := w) hal i
    exact ⟨by rw [hds]; exact least_eq_none, fun n hn => least_eq_some (hds ▸ hn)⟩
  · intro s i t hexec
    refine ⟨perform_next hexec, fun hff => by simp [State.stepped, hff], fun ha => by simp [State.issued, ha], ?_⟩
    intro a blk w ha hw hlive htrap hframe
    exact ⟨issued_stalled ha hw hlive htrap hframe i, issued_moved ha hw hlive htrap hframe i⟩
  · intro s t
    refine ⟨fun hff => by simp [State.after, hff], fitL2_of_small, fun hstack hops => ?_⟩
    rw [State.beside, spillBeside_of_small s hstack, earlyWrites_of_new s hops]
  · intro s chan cx arith age rest k w i hp hag s0 hk hrun hover hw hi hthread hcause
    have hk' : ({ s with agenda := rest } : State).bankCtx? chan cx = some k := hk
    rw [step_agenda hp hag]
    exact congrArg ({ s with agenda := rest } : State).conclude (bankDue_runs hk' hrun hover hw hi hthread hcause)
  · intro s i args rest hp hag hev
    rw [step_agenda hp hag, State.takeAction]
    simp [hev, State.conclude]

end Sys2Proof.Machine
end

section
/-!
PROOF. Loads and stores issue, or trap (O23).
-/
namespace Sys2Proof.Machine
open Sys2Proof

/-! ### What LD and ST share -/

theorem exec_loadForm {o : Opnds} {i : Instr} {imm priv : Bool} (h : (i, imm, priv) ∈ loadForms o) (s : State) :
    exec i s = s.load o imm priv := by
  simp only [loadForms, List.mem_cons, Prod.mk.injEq, List.not_mem_nil, or_false] at h
  rcases h with ⟨rfl, rfl, rfl⟩ | ⟨rfl, rfl, rfl⟩ | ⟨rfl, rfl, rfl⟩ | ⟨rfl, rfl, rfl⟩ <;> rfl

theorem exec_storeForm {o : Opnds} {i : Instr} {imm priv : Bool} (h : (i, imm, priv) ∈ storeForms o) (s : State) :
    exec i s = s.store o imm priv := by
  simp only [storeForms, List.mem_cons, Prod.mk.injEq, List.not_mem_nil, or_false] at h
  rcases h with ⟨rfl, rfl, rfl⟩ | ⟨rfl, rfl, rfl⟩ | ⟨rfl, rfl, rfl⟩ | ⟨rfl, rfl, rfl⟩ <;> rfl

theorem not_mem_storeForms {o : Opnds} {i : Instr} {x : Bool × Bool} (h : (i, x) ∈ loadForms o) : (i, x) ∉ storeForms o := by
  simp only [loadForms, List.mem_cons, Prod.mk.injEq, List.not_mem_nil, or_false] at h
  rcases h with ⟨rfl, rfl⟩ | ⟨rfl, rfl⟩ | ⟨rfl, rfl⟩ | ⟨rfl, rfl⟩ <;> simp [storeForms]

/-- A flag-counted instruction whose flag has room acts on its active lanes (R22, R33). -/
theorem counted_acts {s : State} {a : Actx} {o : Opnds} (h : s.Counts a o) (act : Actx → Mask → State) :
    s.counted o act = .next (act a (a.lanes o)) := by
  obtain ⟨hacts, hflag⟩ := h
  simp only [State.counted, hacts.1, hflag, Bool.false_and, Bool.false_eq_true, if_false]
  exact run_acts hacts act

/-- The size code is the low three bits of MOD (R166). -/
theorem sizeCode_eq (o : Opnds) : bits o.mod 2 0 = o.mod.toNat % 8 := rfl

theorem accessAddr_eq (s : State) (a : Actx) (o : Opnds) (imm a64 : Bool) : s.accessAddr a o imm a64 = s.address a o imm a64 := by
  funext l
  cases imm <;> cases a64 <;> rfl

theorem firstBad_some {ls : List Nat} {x : Nat → Int} {bad : Int → Bool} {l : Nat} (h : (ls.find? fun l => bad (x l)) = some l) :
    firstBad ls x bad = some (x l) := by
  rw [firstBad, h]
  rfl

theorem firstBad_none {ls : List Nat} {x : Nat → Int} {bad : Int → Bool} (h : (ls.find? fun l => bad (x l)) = none) :
    firstBad ls x bad = none := by
  rw [firstBad, h]
  rfl

/-! ### The checks of an address, in their order (R169) -/

section
variable (s : State) (a : Actx) (sp : Space) {ls : List Nat} {x : Nat → Int} {size : Nat}

/-- A lane's address is not a multiple of the access size. -/
def misaligned (x : Nat → Int) (size l : Nat) : Bool := decide (x l % (size : Int) ≠ 0)

/-- A lane's access leaves the space. -/
def State.outside (s : State) (a : Actx) (sp : Space) (x : Nat → Int) (size l : Nat) : Bool :=
  decide (x l < 0) || decide ((s.extent a sp : Int) < x l + size)

theorem misaligned_eq (x : Nat → Int) (size : Nat) : misaligned x size = fun l => x l % (size : Int) != 0 := by
  funext l
  exact decide_not

theorem checkAddr_misaligned {l : Nat} (h : ls.find? (misaligned x size) = some l) :
    s.checkAddr a sp ls x size = some (s.raiseAt a Code.misalign 0 (BitVec.ofInt 64 (x l))) := by
  rw [misaligned_eq] at h
  simp only [State.checkAddr, firstBad_some (bad := fun y => y % (size : Int) != 0) h]

theorem checkAddr_outside {l : Nat} (h : ls.find? (misaligned x size) = none) (hout : ls.find? (s.outside a sp x size) = some l) :
    s.checkAddr a sp ls x size = some (s.raiseAt a Code.dfault (if sp = .global then 0x03 else 0x07) (BitVec.ofInt 64 (x l))) := by
  rw [misaligned_eq] at h
  simp only [State.checkAddr, firstBad_none (bad := fun y => y % (size : Int) != 0) h,
    firstBad_some (bad := fun y => decide (y < 0) || decide ((s.extent a sp : Int) < y + size)) hout]

theorem checkAddr_inside (h : ls.find? (misaligned x size) = none) (hout : ls.find? (s.outside a sp x size) = none) :
    s.checkAddr a sp ls x size = none := by
  rw [misaligned_eq] at h
  simp only [State.checkAddr, firstBad_none (bad := fun y => y % (size : Int) != 0) h,
    firstBad_none (bad := fun y => decide (y < 0) || decide ((s.extent a sp : Int) < y + size)) hout]

/-- Every lane's access is aligned and inside the space. -/
theorem checkAddr_fits (h : ∀ l ∈ ls, x l % (size : Int) = 0 ∧ 0 ≤ x l ∧ x l + size ≤ (s.extent a sp : Int)) :
    s.checkAddr a sp ls x size = none := by
  refine checkAddr_inside s a sp (List.find?_eq_none.mpr fun l hl => ?_) (List.find?_eq_none.mpr fun l hl => ?_)
  · simp [misaligned, (h l hl).1]
  · obtain ⟨_, h0, h1⟩ := h l hl
    simp only [State.outside, Bool.or_eq_true, decide_eq_true_eq]
    omega

end

/-! ### The outcomes of LD and ST -/

section
variable {s : State} {a : Actx} {o : Opnds} {imm priv : Bool}

/-- The space of a form (R158). -/
def spaceOf (priv : Bool) : Space := if priv then .priv else .global

/-- The lanes whose addresses an LD or ST checks and translates (R169). -/
def State.accessLanes (s : State) (a : Actx) (o : Opnds) (priv store : Bool) : List Nat :=
  if store then lanesOf (a.lanes o) else s.loadLanes o priv (a.lanes o)

/-- LD or ST. -/
def State.access (s : State) (o : Opnds) (imm priv store : Bool) : Host.Outcome State Fault Refusal :=
  if store then s.store o imm priv else s.load o imm priv

/-- What an access does once no source holds a proxy and its addresses pass the checks: it issues, or a page faults. -/
def State.issueAccess (s : State) (a : Actx) (o : Opnds) (priv store : Bool) :
    Except (Nat × Nat) (List (Nat × List Nat)) × State → State
  | (.error (va, d), s1) => s1.dataFault a va d store
  | (.ok lanes, s1) =>
    if store then (s1.startStore a o (lanes.flatMap (s.laneStore a o))).retire a
    else ((s1.useLane o priv).startOp a o (.load (lanes.flatMap (laneLoads o)))).retire a

variable (hc : s.Counts a o)
include hc

theorem access_proxy (store : Bool)
    (hpx : s.anyPx a (a.lanes o) (addrSrcs o imm (o.m 3 && !priv)) = true ∨
      (store = true ∧ (lanesOf (a.lanes o)).any (s.dataPx a o) = true)) :
    s.access o imm priv store = .next (s.raise a Code.pxuse 0x01) := by
  cases store
  · have hpx' := hpx.resolve_right (by simp)
    simp only [State.access, State.load, counted_acts hc, hpx', if_true, Bool.false_eq_true, if_false]
  · have hpx' : (s.anyPx a (a.lanes o) (addrSrcs o imm (o.m 3 && !priv)) || (lanesOf (a.lanes o)).any (s.dataPx a o)) = true := by
      simpa using hpx
    simp only [State.access, State.store, counted_acts hc, hpx', if_true]

variable (hpx : s.anyPx a (a.lanes o) (addrSrcs o imm (o.m 3 && !priv)) = false)
include hpx

/-- With no proxy among its sources an access checks its addresses, then translates their pages. -/
theorem access_plain (store : Bool) (hdata : store = true → (lanesOf (a.lanes o)).any (s.dataPx a o) = false) :
    s.access o imm priv store = .next
      ((s.checkAddr a (spaceOf priv) (s.accessLanes a o priv store) (s.address a o imm (o.m 3 && !priv))
          (szBytes (o.mod.toNat % 8))).getD
        (s.issueAccess a o priv store (s.translateLanes a (if store then .write else .read) (a.lanePieces (spaceOf priv)
          (s.accessLanes a o priv store) (s.address a o imm (o.m 3 && !priv)) (szBytes (o.mod.toNat % 8)))))) := by
  cases store
  · simp only [State.access, State.load, counted_acts hc, hpx, Bool.false_eq_true, if_false, accessAddr_eq, sizeCode_eq,
      State.accessLanes, spaceOf]
    split
    next s2 hck => rw [hck]; rfl
    next hck =>
      rw [hck, Option.getD_none]
      split <;> next htr => rw [htr]; rfl
  · simp only [State.access, State.store, counted_acts hc, hpx, hdata, Bool.false_or, Bool.false_eq_true, if_false, if_true,
      accessAddr_eq, sizeCode_eq, State.accessLanes, spaceOf]
    split
    next s2 hck => rw [hck]; rfl
    next hck =>
      rw [hck, Option.getD_none]
      split <;> next htr => rw [htr]; rfl

/-- An access whose addresses pass the checks translates their pages. -/
theorem access_checked (store : Bool)
    (hdata : store = true → (lanesOf (a.lanes o)).any (s.dataPx a o) = false)
    {r : Except (Nat × Nat) (List (Nat × List Nat)) × State}
    (hck : s.checkAddr a (spaceOf priv) (s.accessLanes a o priv store) (s.address a o imm (o.m 3 && !priv))
      (szBytes (o.mod.toNat % 8)) = none)
    (hr : s.translateLanes a (if store then .write else .read) (a.lanePieces (spaceOf priv) (s.accessLanes a o priv store)
      (s.address a o imm (o.m 3 && !priv)) (szBytes (o.mod.toNat % 8))) = r) :
    s.access o imm priv store = .next (s.issueAccess a o priv store r) := by
  rw [access_plain hc hpx store hdata, hck, hr]
  rfl

end

theorem dataPx_none {s : State} {a : Actx} {o : Opnds} {m : Mask} (h : ∀ l ∈ lanesOf m, s.dataPx a o l = false) :
    (lanesOf m).any (s.dataPx a o) = false := by
  rw [List.any_eq_false]
  intro l hl
  simp [h l hl]

theorem mem_lanesOf_of_getLsbD {m : Mask} {l : Nat} (h : m.getLsbD l = true) : l ∈ lanesOf m := by
  simpa [lanesOf, h] using BitVec.lt_of_getLsbD h

theorem dataFault_delivered (s : State) (a : Actx) (va : Nat) {d : Nat} (store : Bool) (h : d ≠ 0x01) :
    s.dataFault a va d store = s.raiseAt a Code.dfault d (BitVec.ofNat 64 va) := if_pos h

/-- A store's access is one part but for 16 bytes, which are two (R191). -/
theorem laneStore_whole (s : State) (a : Actx) {o : Opnds} (h : o.mod.toNat % 8 ≠ 2) (y : Nat × List Nat) :
    s.laneStore a o y = [(y.1, y.2.zip (s.storedBytes a o y.1))] := if_neg h

/-- Settles O23: an access answers a proxy, checks its addresses in order, then issues or faults on a page. -/
theorem globalAccesses : Obligations.GlobalAccesses := by
  refine ⟨?_, ?_⟩
  · intro o s s1 a lanes i imm priv a64 size sp x fits hc hpx
    refine ⟨fun hi hfits htr => ?_, fun hi hdata hfits htr => ⟨?_, fun hsz y _ => laneStore_whole s a hsz y⟩⟩
    · rw [exec_loadForm hi]
      exact access_checked hc hpx false (by simp) (checkAddr_fits s a sp hfits) htr
    · rw [exec_storeForm hi]
      have hplain : ∀ l ∈ lanesOf (a.lanes o), s.dataPx a o l = false := fun l hl => hdata l (List.mem_filter.mp hl).2
      exact access_checked hc hpx true (fun _ => dataPx_none hplain) (checkAddr_fits s a sp hfits) htr
  · intro o s a i imm priv a64 size sp x off out hc
    refine ⟨fun hi hpx => ?_, fun hi hpx => ?_, fun ls hls hpx => ?_⟩
    · rcases List.mem_append.mp hi with hi | hi
      · rw [exec_loadForm hi]
        exact access_proxy hc false (.inl hpx)
      · rw [exec_storeForm hi]
        exact access_proxy hc true (.inl hpx)
    · obtain ⟨l, hl, hp⟩ := hpx
      rw [exec_storeForm hi]
      exact access_proxy hc true (.inr ⟨rfl, List.any_eq_true.mpr ⟨l, mem_lanesOf_of_getLsbD hl, hp⟩⟩)
    · obtain ⟨store, hi, hlanes, hdata, hacc⟩ : ∃ store, exec i s = s.access o imm priv store ∧ ls = s.accessLanes a o priv store ∧
          (store = true → (lanesOf (a.lanes o)).any (s.dataPx a o) = false) ∧
          ((if (i, imm, priv) ∈ storeForms o then Access.write else Access.read) = if store then .write else .read) := by
        rcases hls with ⟨hi, rfl⟩ | ⟨hi, rfl, hdata⟩
        · exact ⟨false, exec_loadForm hi s, rfl, by simp, by rw [if_neg (not_mem_storeForms hi)]; rfl⟩
        · exact ⟨true, exec_storeForm hi s, rfl, fun _ => dataPx_none hdata, by rw [if_pos hi]; rfl⟩
      have hspace : (if spaceOf priv = .global then 0x03 else 0x07) = if priv then 0x07 else 0x03 := by cases priv <;> rfl
      subst hlanes
      refine ⟨fun l hoff => ?_, fun l hoff hout => ?_, fun va d s1 acc hoff hout hacc' htr hd => ?_⟩
      · rw [hi, access_plain hc hpx store hdata,
          checkAddr_misaligned s a (spaceOf priv) (x := s.address a o imm (o.m 3 && !priv)) hoff]
        rfl
      · rw [hi, access_plain hc hpx store hdata,
          checkAddr_outside s a (spaceOf priv) (x := s.address a o imm (o.m 3 && !priv)) hoff hout,
          hspace]
        rfl
      · rw [hacc', hacc] at htr
        rw [hi, access_checked hc hpx store hdata (checkAddr_inside s a (spaceOf priv) hoff hout) htr, State.issueAccess,
          dataFault_delivered s1 a va store hd]

end Sys2Proof.Machine
end

section
/-!
PROOF. Loads return what memory holds, and stores reach it (O26).
-/
namespace Sys2Proof.Machine
open Sys2Proof

/-! ### What a store leaves alone (R170, R191) -/

/-- Blocks and channels stand as they did. -/
structure State.KeepsCourse (s t : State) : Prop where
  blocks : t.blocks = s.blocks
  chans : t.chans = s.chans

theorem State.KeepsCourse.refl (s : State) : s.KeepsCourse s := ⟨rfl, rfl⟩

theorem State.KeepsCourse.trans {s t u : State} (h : s.KeepsCourse t) (h' : t.KeepsCourse u) : s.KeepsCourse u :=
  ⟨h'.blocks.trans h.blocks, h'.chans.trans h.chans⟩

theorem State.KeepsCourse.uncached {s t : State} (h : s.KeepsCourse t) (pa : Nat) : t.uncached pa = s.uncached pa := by
  simp only [State.uncached, State.chan, h.chans]

theorem State.KeepsCourse.block? {s t : State} (h : s.KeepsCourse t) (b : Nat) : t.block? b = s.block? b := by
  simp only [State.block?, h.blocks]

theorem keepsCourse_foldl {α : Type} {f : State → α → State} (hf : ∀ (s : State) (x : α), s.KeepsCourse (f s x)) :
    ∀ (l : List α) (s : State), s.KeepsCourse (l.foldl f s)
  | [], s => .refl s
  | x :: xs, s => (hf s x).trans (keepsCourse_foldl hf xs (f s x))

theorem keepsCourse_writeByte (s : State) (pa : Nat) (b : Byte) (g : Agent) (rs : List (Nat × Word)) (po : Nat) :
    s.KeepsCourse (s.writeByte pa b g rs po) := by
  unfold State.writeByte
  split
  · exact ⟨rfl, rfl⟩
  · split <;> exact ⟨rfl, rfl⟩

theorem keepsCourse_putBytes (g : Agent) (rs : List (Nat × Word)) (po : Nat) :
    ∀ (l : List (Nat × Byte)) (s : State), s.KeepsCourse (s.putBytes g l rs po)
  | [], s => .refl s
  | (pa, b) :: rest, s => (keepsCourse_writeByte s pa b g rs po).trans (keepsCourse_putBytes g rs po rest _)

theorem keepsCourse_storeBytes (s : State) (l : List (Nat × Byte)) (t : MemTag) (rs : List (Nat × Word)) :
    s.KeepsCourse (s.storeBytes l t rs) :=
  have hput := keepsCourse_putBytes t.agent rs t.po l (s.note { MemEvent.of t with writes := s.replaced l })
  ⟨hput.blocks, hput.chans⟩

theorem keepsCourse_stampAll (core : Nat) : ∀ (l : List Nat) (s : State), s.KeepsCourse (s.stampAll core l)
  | [], s => .refl s
  | pa :: rest, s =>
    have hfirst : s.KeepsCourse (s.stampSector core pa) := ⟨rfl, rfl⟩
    hfirst.trans (keepsCourse_stampAll core rest _)

theorem keepsCourse_applyPart (op : Op) (s : State) (p : Nat × List (Nat × Byte)) : s.KeepsCourse (s.applyPart op p) :=
  (keepsCourse_storeBytes s _ _ _).trans (keepsCourse_stampAll op.core _ _)

/-! ### The bytes that a store writes (R164, R191) -/

/-- What a byte holds after writes one after another: the last value that they name for it. -/
def lastValue (pa : Nat) (v : Byte) (l : List (Nat × Byte)) : Byte := l.foldl (fun v c => if c.1 = pa then c.2 else v) v

theorem lastValue_of_not_mem {pa : Nat} (v : Byte) {l : List (Nat × Byte)} (h : ∀ x ∈ l, x.1 ≠ pa) : lastValue pa v l = v :=
  foldl_const fun c hc => if_neg (h c hc)

theorem lastValue_append_cons (pa : Nat) (v b : Byte) (before : List (Nat × Byte)) {after : List (Nat × Byte)}
    (h : ∀ x ∈ after, x.1 ≠ pa) : lastValue pa v (before ++ (pa, b) :: after) = b := by
  rw [lastValue, List.foldl_append, List.foldl_cons, if_pos rfl]
  exact lastValue_of_not_mem b h

@[simp] theorem readByte_stampAll (core pa : Nat) : ∀ (l : List Nat) (s : State), (s.stampAll core l).readByte pa = s.readByte pa
  | [], _ => rfl
  | x :: rest, s => readByte_stampAll core pa rest (s.stampSector core x)

/-- A byte written outside windows and bank regions is read, on whatever routes the write is sent. -/
theorem readByte_writeByte_routed (s : State) {pa : Nat} (b : Byte) (g : Agent) (rs : List (Nat × Word)) (po : Nat)
    (hw : inWindow pa = false) (hu : s.uncached pa = false) : (s.writeByte pa b g rs po).readByte pa = b := by
  have hsame : s.writeByte pa b g rs po = s.writeByte pa b g := by simp [State.writeByte, hw]
  rw [hsame, State.readByte_writeByte_self s b g hw hu]

theorem readByte_putBytes_cached (g : Agent) (rs : List (Nat × Word)) (po : Nat) {pa : Nat} (hw : inWindow pa = false) :
    ∀ (l : List (Nat × Byte)) (s : State), s.uncached pa = false → (s.putBytes g l rs po).readByte pa = lastValue pa (s.readByte pa) l
  | [], _, _ => rfl
  | (x, b) :: rest, s, hu => by
    have hu' : (s.writeByte x b g rs po).uncached pa = false := by rw [(keepsCourse_writeByte s x b g rs po).uncached, hu]
    rw [State.putBytes, readByte_putBytes_cached g rs po hw rest _ hu']
    have hfirst : (s.writeByte x b g rs po).readByte pa = if x = pa then b else s.readByte pa := by
      by_cases hx : x = pa
      · subst hx
        rw [readByte_writeByte_routed s b g rs po hw hu, if_pos rfl]
      · rw [State.readByte_writeByte_of_ne s b g rs po (Ne.symm hx), if_neg hx]
    rw [hfirst]
    rfl

theorem readByte_applyPart_of_not_mem (op : Op) (s : State) {p : Nat × List (Nat × Byte)} {pa : Nat} (h : ∀ x ∈ p.2, x.1 ≠ pa) :
    (s.applyPart op p).readByte pa = s.readByte pa := by
  rw [State.applyPart, readByte_stampAll]
  exact State.readByte_putBytes_of_not_mem _ _ _ p.2 _ h

theorem readByte_applyPart_cached (op : Op) (s : State) (p : Nat × List (Nat × Byte)) {pa : Nat} (hw : inWindow pa = false)
    (hu : s.uncached pa = false) : (s.applyPart op p).readByte pa = lastValue pa (s.readByte pa) p.2 := by
  rw [State.applyPart, readByte_stampAll]
  exact readByte_putBytes_cached _ _ _ hw p.2 (s.note _) hu

theorem readByte_applyParts_of_not_mem (op : Op) {pa : Nat} : ∀ (parts : List (Nat × List (Nat × Byte))) (s : State),
    (∀ x ∈ parts.flatMap (·.2), x.1 ≠ pa) → (parts.foldl (fun s p => s.applyPart op p) s).readByte pa = s.readByte pa
  | [], _, _ => rfl
  | p :: ps, s, h => by
    rw [List.flatMap_cons, List.forall_mem_append] at h
    rw [List.foldl_cons, readByte_applyParts_of_not_mem op ps _ h.2, readByte_applyPart_of_not_mem op s h.1]

theorem readByte_applyParts_cached (op : Op) {pa : Nat} (hw : inWindow pa = false) :
    ∀ (parts : List (Nat × List (Nat × Byte))) (s : State), s.uncached pa = false →
      (parts.foldl (fun s p => s.applyPart op p) s).readByte pa = lastValue pa (s.readByte pa) (parts.flatMap (·.2))
  | [], _, _ => rfl
  | p :: ps, s, hu => by
    have hu' : (s.applyPart op p).uncached pa = false := by rw [(keepsCourse_applyPart op s p).uncached, hu]
    rw [List.foldl_cons, readByte_applyParts_cached op hw ps _ hu', readByte_applyPart_cached op s p hw hu, List.flatMap_cons,
      lastValue, lastValue, lastValue, List.foldl_append]

/-! ### An operation of a block that lives on completes (R33) -/

/-- A block lives on: it is not being ended, and some warp of it has not ended. -/
structure Block.LivesOn (b : Block) : Prop where
  notEnding : b.ending = none
  running : b.warps.any (fun w => !w.ended) = true

theorem tryTerminate_living {s : State} {b : Nat} {blk : Block} (hb : s.block? b = some blk) (h : blk.LivesOn) : s.tryTerminate b = s := by
  simp only [State.tryTerminate, hb, h.notEnding]

theorem reap_living {s : State} {b : Nat} {blk : Block} (hb : s.block? b = some blk) (h : blk.LivesOn) : s.reap b = s := by
  have hnot : blk.warps.all (·.ended) = false := by
    obtain ⟨w, hw, he⟩ := List.any_eq_true.mp h.running
    exact List.all_eq_false.mpr ⟨w, hw, by simpa using he⟩
  simp only [State.reap, hb, hnot, Bool.false_and, Bool.false_eq_true, if_false]

theorem setNth_eq_modify {α : Type} (l : List α) (i : Nat) {x : α} (f : α → α) (h : l[i]? = some x) :
    setNth l i (f x) = l.modify i f := by
  refine List.ext_getElem? fun k => ?_
  rw [setNth_getElem?, List.getElem?_modify]
  by_cases hk : k = i
  · subst hk
    simp [h]
  · simp [hk, Ne.symm hk]

/-- What an update of one element leaves as it was in each element, it leaves in the list. -/
theorem map_modify_eq {α β : Type} {g : α → β} {f : α → α} (h : ∀ x, g (f x) = g x) (l : List α) (i : Nat) :
    (l.modify i f).map g = l.map g := by
  refine List.ext_getElem? fun k => ?_
  rw [List.getElem?_map, List.getElem?_modify, List.getElem?_map]
  cases l[k]? with
  | none => rfl
  | some x => by_cases hk : i = k <;> simp [hk, h]

/-- The blocks after a warp was updated in place. -/
theorem State.block?_updWarp (s : State) (b wi : Nat) (f : Warp → Warp) (b' : Nat) :
    (s.updWarp b wi f).block? b' = (s.block? b').map fun x => if b' = b then { x with warps := x.warps.modify wi f } else x := by
  unfold State.updWarp
  cases hw : s.warp? b wi with
  | none =>
    cases hb' : s.block? b' with
    | none => rfl
    | some x =>
      by_cases h : b' = b
      · subst h
        have hlen : x.warps[wi]? = none := by simpa [State.warp?, hb'] using hw
        have hsame : x.warps.modify wi f = x.warps := List.modify_eq_self (by simpa using hlen)
        simp [hsame]
      · simp [h]
  | some p =>
    obtain ⟨blk, w⟩ := p
    simp only [State.warp?, Option.bind_eq_some_iff, Option.map_eq_some_iff, Prod.mk.injEq] at hw
    obtain ⟨_, hb, _, hwi, rfl, rfl⟩ := hw
    have hid := State.block?_id hb
    simp only [State.setWarp, State.block?_setBlock, setNth_eq_modify _ wi f hwi]
    by_cases h : b' = b
    · subst h
      simp [hb, hid]
    · simp [h, hid]

/-- What an update of warps leaves as it was in each, it leaves in a block that lives on. -/
theorem Block.LivesOn.modify {b : Block} (h : b.LivesOn) (wi : Nat) {f : Warp → Warp} (hf : ∀ w, (f w).ended = w.ended) :
    Block.LivesOn { b with warps := b.warps.modify wi f } := by
  have hany : ∀ l : List Warp, l.any (fun w => !w.ended) = (l.map (·.ended)).any (!·) := fun l => by rw [List.any_map]; rfl
  refine ⟨h.notEnding, ?_⟩
  rw [hany, map_modify_eq hf, ← hany]
  exact h.running

theorem Warp.countDown_ended (w : Warp) (f : Option Nat) : (w.countDown f).ended = w.ended := by
  cases f <;> rfl

/-- The state with an operation no longer in flight and its flag counted down. -/
def State.countedDown (s : State) (op : Op) : State :=
  ({ s with ops := s.ops.filter fun x => x.id != op.id } : State).updWarp op.block op.warp fun w => w.countDown op.flag

/-- An operation of a block that lives on completes with nothing more than that. -/
theorem finishOp_living {s : State} {op : Op} {blk : Block} (hb : s.block? op.block = some blk) (h : blk.LivesOn) :
    s.finishOp op = s.countedDown op := by
  have hb' : (s.countedDown op).block? op.block =
      some { blk with warps := blk.warps.modify op.warp fun w => w.countDown op.flag } := by
    have hsame : ({ s with ops := s.ops.filter fun x => x.id != op.id } : State).block? op.block = some blk := hb
    rw [State.countedDown, State.block?_updWarp, hsame, Option.map_some, if_pos rfl]
  have hlive := h.modify op.warp (f := fun w => w.countDown op.flag) fun w => w.countDown_ended op.flag
  calc s.finishOp op = ((s.countedDown op).tryTerminate op.block).reap op.block := rfl
    _ = s.countedDown op := by rw [tryTerminate_living hb' hlive, reap_living hb' hlive]

theorem readByte_countedDown (s : State) (op : Op) (pa : Nat) : (s.countedDown op).readByte pa = s.readByte pa :=
  State.readByte_updWarp _ op.block op.warp _ pa

theorem id_ne_of_mem_countedDown {s : State} {op o : Op} (h : o ∈ (s.countedDown op).ops) : o.id ≠ op.id := by
  rw [State.countedDown, State.updWarp_ops] at h
  simpa using (List.mem_filter.mp h).2

/-! ### The lanes of a load (R170, R198) -/

theorem memTime_note (s : State) (e : MemEvent) : (s.note e).memTime = s.memTime + 1 := rfl

/-- An event that writes nothing does not change what the log has of bytes at an earlier time. -/
theorem byteAt_note (s : State) {e : MemEvent} {t : Nat} (he : e.writes = []) (ht : t ≤ s.memTime) (pa : Nat) :
    (s.note e).byteAt t pa = s.byteAt t pa := by
  have hnew : (decide (t < s.memTime + 1)) = true := decide_eq_true (by omega)
  simp only [State.byteAt, State.note, List.takeWhile_cons, hnew, if_true, List.foldl_cons, he, List.find?_nil]
  rfl

theorem byteAt_updWarp (s : State) (b wi : Nat) (f : Warp → Warp) (t pa : Nat) :
    (s.updWarp b wi f).byteAt t pa = s.byteAt t pa := by
  simp only [State.byteAt, State.updWarp_log, State.readByte_updWarp]

/-- A warp but for the clocks that its loads have returned (R208). -/
def Warp.unclocked (w : Warp) : Warp := { w with retClock := [] }

theorem Block.unclocked_eq (b : Block) : b.unclocked = { b with warps := b.warps.map Warp.unclocked } := rfl

/-- Nothing of a state changed but the record of accesses and the clocks that warps' loads have returned. -/
def State.SameButReads (s t : State) : Prop :=
  { t with blocks := s.blocks, log := s.log } = s ∧
    ∀ b, (t.block? b).map Block.unclocked = (s.block? b).map Block.unclocked

theorem State.SameButReads.refl (s : State) : s.SameButReads s := ⟨rfl, fun _ => rfl⟩

theorem State.SameButReads.trans {s t u : State} (h : s.SameButReads t) (h' : t.SameButReads u) : s.SameButReads u := by
  obtain ⟨hrest, hblocks⟩ := h
  obtain ⟨hrest', hblocks'⟩ := h'
  have hback : ({ u with blocks := s.blocks, log := s.log } : State) = { t with blocks := s.blocks, log := s.log } :=
    congrArg (fun x : State => { x with blocks := s.blocks, log := s.log }) hrest'
  exact ⟨hback.trans hrest, fun b => (hblocks' b).trans (hblocks b)⟩

theorem sameButReads_note (s : State) (e : MemEvent) : s.SameButReads (s.note e) := ⟨rfl, fun _ => rfl⟩

theorem updWarp_blocks_back (s : State) (b wi : Nat) (f : Warp → Warp) :
    { s.updWarp b wi f with blocks := s.blocks, log := s.log } = s := by
  unfold State.updWarp
  split <;> rfl

theorem sameButReads_updWarp (s : State) (b wi : Nat) {f : Warp → Warp}
    (hf : ∀ w, (f w).unclocked = w.unclocked) : s.SameButReads (s.updWarp b wi f) := by
  refine ⟨updWarp_blocks_back s b wi f, fun b' => ?_⟩
  rw [State.block?_updWarp, Option.map_map]
  congr 1
  funext x
  simp only [Function.comp]
  split
  · rw [Block.unclocked_eq, Block.unclocked_eq, map_modify_eq hf]
  · rfl

section
variable (op : Op)

/-- A lane's load at a time of the log, with its bytes in no window. -/
theorem performLane_plain (s : State) {x : LaneLoad} {t : Nat} (hx : ∀ pa ∈ x.bytes, inWindow pa = false) (ht : t ≤ s.memTime) :
    (s.performLane op t x).2 = regWrites x.dst x.scalar (x.lane % 32) (loadWords x.sz (x.bytes.map (s.byteAt t))) ∧
      s.SameButReads (s.performLane op t x).1 ∧ t ≤ (s.performLane op t x).1.memTime ∧
      ∀ pa, (s.performLane op t x).1.byteAt t pa = s.byteAt t pa := by
  have hread : s.readAt op.tag x.bytes t = (x.bytes.map (s.byteAt t), s.note { MemEvent.of op.tag with
      reads := (x.bytes.filter fun pa => !inWindow pa).map fun pa => (pa, lastWrite s.log t pa) }) := by
    rw [State.readAt, loadBytesAt_plain s t hx]
  rw [State.performLane, hread]
  refine ⟨rfl, (sameButReads_note s _).trans (sameButReads_updWarp _ _ _ fun w => rfl), ?_, fun pa => ?_⟩
  · rw [State.memTime, State.updWarp_log, ← State.memTime, memTime_note]
    omega
  · rw [byteAt_updWarp, byteAt_note s rfl ht]

theorem performLanes_plain {t : Nat} : ∀ (xs : List LaneLoad) (s : State), (∀ x ∈ xs, ∀ pa ∈ x.bytes, inWindow pa = false) →
    t ≤ s.memTime → (s.performLanes op t xs).2 =
        xs.flatMap (fun x => regWrites x.dst x.scalar (x.lane % 32) (loadWords x.sz (x.bytes.map (s.byteAt t)))) ∧
      s.SameButReads (s.performLanes op t xs).1
  | [], s, _, _ => ⟨rfl, .refl s⟩
  | x :: xs, s, hplain, ht => by
    rw [List.forall_mem_cons] at hplain
    obtain ⟨hwrites, hsame, ht1, hbytes⟩ := performLane_plain op s hplain.1 ht
    obtain ⟨hwrites', hsame'⟩ := performLanes_plain xs (s.performLane op t x).1 hplain.2 ht1
    refine ⟨?_, hsame.trans hsame'⟩
    rw [State.performLanes, List.flatMap_cons]
    simp only [hwrites, hwrites', funext hbytes]

end

/-- A load of a warp may return its bytes as they now stand (R198). -/
theorem readTime_newest (s : State) (q : MemTag) (pas : List Nat) : s.readTime q none pas s.memTime = some s.memTime := by
  simp [State.readTime]

theorem mem_readyLanes {s : State} {op : Op} {t m : Nat} {lanes : List LaneLoad} {x : LaneLoad} :
    x ∈ s.readyLanes op t m lanes ↔ x ∈ lanes ∧ m.testBit x.lane = true ∧
      s.earlierTouch op.id op.block op.warp x.bytes true = false ∧ s.readTime op.tag none x.bytes t = some (min t s.memTime) := by
  simp [State.readyLanes, and_assoc]

/-- Every lane that is chosen and not held back may be performed at the newest point. -/
theorem readyLanes_newest {s : State} {op : Op} {m : Nat} {lanes : List LaneLoad}
    (h : ∀ x ∈ lanes, m.testBit x.lane = true ∧ s.earlierTouch op.id op.block op.warp x.bytes true = false) :
    s.readyLanes op s.memTime m lanes = lanes := by
  refine List.filter_eq_self.mpr fun x hx => ?_
  obtain ⟨hm, htouch⟩ := h x hx
  simp [hm, htouch, readTime_newest]

/-- A load whose remaining lanes are all performed at the newest point completes. -/
theorem exec_loadComplete_newest {s : State} {op : Op} {lanes : List LaneLoad} (hop : s.op? (s.arg 0) = some op)
    (hk : op.kind = .load lanes) (hage : s.arg 2 = 0)
    (hready : ∀ x ∈ lanes, (s.arg 1).testBit x.lane = true ∧ s.earlierTouch op.id op.block op.warp x.bytes true = false) :
    exec .loadComplete s = .next ((((s.performLanes op s.memTime lanes).1.applyWrites op.core op.block op.warp
      (s.performLanes op s.memTime lanes).2).setOp op.id (.load [])).finishOp op) := by
  have hrest : lanes.filter (fun x => !lanes.contains x) = [] := by simp
  simp only [exec_loadComplete, execLoadComplete, hop, hk, hage, Nat.sub_zero, readyLanes_newest hready, hrest,
    List.isEmpty_nil, if_true]

theorem exec_loadComplete_fill {s : State} {op : Op} {ws : List RegWrite} (hop : s.op? (s.arg 0) = some op) (hk : op.kind = .fill ws) :
    exec .loadComplete s = .next ((s.applyWrites op.core op.block op.warp ws).finishOp op) := by
  simp only [exec_loadComplete, execLoadComplete, hop, hk]

theorem exec_storeAccept_due {s : State} {op : Op} {parts : List (Nat × List (Nat × Byte))} (hop : s.op? (s.arg 0) = some op)
    (hk : op.kind = .store parts) (hdue : s.storeDue op op.kind.bytes = true) :
    exec .storeAccept s = .next ((parts.foldl (fun s p => s.applyPart op p) s).finishOp op) := by
  rw [exec_storeAccept, execStoreAccept, hop]
  simp only [hk] at hdue ⊢
  rw [if_pos hdue]

/-- Settles O26: lanes are read at the newest point of the log, and a store's parts are applied one after another. -/
theorem globalMemory : Obligations.GlobalMemory := by
  refine ⟨⟨fun s op hop => ⟨fun lanes hk hage hlanes => ?_, fun ws hk => exec_loadComplete_fill hop hk⟩,
    fun s op t m lanes x hx => mem_readyLanes.mp hx⟩, ?_⟩
  · obtain ⟨hwrites, hsame⟩ := performLanes_plain op lanes s (fun x hx => (hlanes x hx).2.2) (Nat.le_refl s.memTime)
    refine ⟨(s.performLanes op s.memTime lanes).1, ?_, hsame⟩
    rw [exec_loadComplete_newest hop hk hage fun x hx => ⟨(hlanes x hx).1, (hlanes x hx).2.1⟩, hwrites, funext (byteAt_memTime s)]
  · intro s op blk parts hop hk hdue hb hending halive _ _
    have hcourse := keepsCourse_foldl (keepsCourse_applyPart op) parts s
    have hfinish := finishOp_living ((hcourse.block? op.block).trans hb) ⟨hending, halive⟩
    rw [exec_storeAccept_due hop hk hdue, hfinish]
    refine ⟨_, rfl, fun o ho => id_ne_of_mem_countedDown ho, fun pa hpa => ?_, fun pa b before after hsplit hafter hw hu => ?_⟩
    · rw [readByte_countedDown, readByte_applyParts_of_not_mem op parts s hpa]
    · rw [readByte_countedDown, readByte_applyParts_cached op hw parts s hu, hsplit, lastValue_append_cons pa _ b before hafter]

end Sys2Proof.Machine
end

section
/-!
PROOF. Words of the accumulator and bytes of scratchpad after writes, and a warp's accesses to them in their order.
-/
namespace Sys2Proof.Machine
open Sys2Proof

/-! ### Several writes to a sparse map -/

section
variable {α : Type} [DecidableEq α] {d : α}

theorem cellGet_puts_of_not_mem : ∀ (ws : List (Nat × α)) (m : List (Nat × α)) {k : Nat}, (∀ v, (k, v) ∉ ws) →
    cellGet d (ws.foldl (fun m x => cellPut d m x.1 x.2) m) k = cellGet d m k
  | [], _, _, _ => rfl
  | (j, u) :: ws, m, k, h => by
    have hne : k ≠ j := fun e => h u (by simp [e])
    rw [List.foldl_cons, cellGet_puts_of_not_mem ws _ fun v hv => h v (List.mem_cons_of_mem _ hv), cellGet_put_of_ne m u hne]

/-- A key to which the writes give one value holds it. -/
theorem cellGet_puts_of_mem : ∀ {ws : List (Nat × α)} {m : List (Nat × α)} {k : Nat} {v : α}, cellWf d m = true →
    (k, v) ∈ ws → (∀ u, (k, u) ∈ ws → u = v) → cellGet d (ws.foldl (fun m x => cellPut d m x.1 x.2) m) k = v
  | (j, u) :: ws, m, k, v, hwf, hmem, hone => by
    rw [List.foldl_cons]
    by_cases hlater : (k, v) ∈ ws
    · exact cellGet_puts_of_mem (cellPut_wf j u hwf) hlater fun u' hu => hone u' (List.mem_cons_of_mem _ hu)
    · obtain ⟨rfl, rfl⟩ : k = j ∧ v = u := by simpa [hlater] using hmem
      have hlast : ∀ u', (k, u') ∉ ws := fun u' hu => hlater (hone u' (List.mem_cons_of_mem _ hu) ▸ hu)
      rw [cellGet_puts_of_not_mem ws _ hlast, cellGet_put_self k v hwf]

end

/-! ### Accumulator words (R241) -/

theorem accNow_of_block {s : State} {b : Nat} {blk : Block} (h : s.block? b = some blk) (i : Nat) : s.accNow b i = blk.accWord i := by
  rw [State.accNow, h]

theorem line_eq_accNow (s : State) (b x l : Nat) : s.line b x l = s.accNow b (32 * x + l) := by
  unfold State.line State.accNow
  cases s.block? b <;> rfl

theorem block?_writeAcc {s : State} {b : Nat} {blk : Block} (h : s.block? b = some blk) (ws : List (Nat × Word)) :
    (s.writeAcc b ws).block? b = some { blk with acc := ws.foldl (fun m x => cellPut 0#32 m x.1 x.2) blk.acc } := by
  simp only [State.writeAcc, h, State.block?_setBlock, State.block?_id h, if_true, Option.map_some]

/-- Words are written: a word that is named once holds its value, and a word that is not named its old one. -/
theorem accNow_writeAcc {s : State} {b : Nat} {blk : Block} {ws : List (Nat × Word)} {i : Nat} {v : Word} {p : Prop} [Decidable p]
    (hb : s.block? b = some blk) (hwf : cellWf 0#32 blk.acc = true) (h : ∀ u, (i, u) ∈ ws ↔ p ∧ u = v) :
    (s.writeAcc b ws).accNow b i = if p then v else s.accNow b i := by
  rw [accNow_of_block (block?_writeAcc hb ws), accNow_of_block hb]
  by_cases hp : p
  · rw [if_pos hp]
    exact cellGet_puts_of_mem hwf ((h v).mpr ⟨hp, rfl⟩) fun u hu => ((h u).mp hu).2
  · rw [if_neg hp]
    exact cellGet_puts_of_not_mem ws blk.acc fun u hu => hp ((h u).mp hu).1

/-- An access to accumulator words changes blocks and the record of accesses only. -/
theorem putAcc_rest (s : State) (t : MemTag) (b : Nat) (reads : Bool) (ws : List (Nat × Word)) :
    { s.putAcc t b reads ws with blocks := s.blocks, log := s.log } = s := by
  rw [State.putAcc, State.writeAcc]
  split <;> rfl

@[simp] theorem putAcc_ops (s : State) (t : MemTag) (b : Nat) (reads : Bool) (ws : List (Nat × Word)) :
    (s.putAcc t b reads ws).ops = s.ops := by
  rw [State.putAcc, State.writeAcc]
  split <;> rfl

theorem accNow_putAcc {s : State} {b : Nat} {blk : Block} {ws : List (Nat × Word)} {i : Nat} {v : Word} {p : Prop} [Decidable p]
    (t : MemTag) (reads : Bool) (hb : s.block? b = some blk) (hwf : cellWf 0#32 blk.acc = true) (h : ∀ u, (i, u) ∈ ws ↔ p ∧ u = v) :
    (s.putAcc t b reads ws).accNow b i = if p then v else s.accNow b i :=
  accNow_writeAcc (s := s.noteAcc t b _ _) hb hwf h

@[simp] theorem readByte_putAcc (s : State) (t : MemTag) (b : Nat) (reads : Bool) (ws : List (Nat × Word)) (pa : Nat) :
    (s.putAcc t b reads ws).readByte pa = s.readByte pa := by
  rw [State.putAcc, State.writeAcc]
  split <;> rfl

theorem accNow_updWarp (s : State) (b wi : Nat) (f : Warp → Warp) (b' i : Nat) : (s.updWarp b wi f).accNow b' i = s.accNow b' i := by
  rw [State.accNow, State.accNow, State.block?_updWarp]
  cases s.block? b' with
  | none => rfl
  | some blk =>
    simp only [Option.map_some]
    split <;> rfl

/-! ### Scratchpad bytes (R158) -/

theorem spadByte_spadWrite : ∀ (vs : List Byte) {b : Block} (x y : Nat), cellWf 0#8 b.spad = true →
    (b.spadWrite x vs).spadByte y = if x ≤ y ∧ y < x + vs.length then nth 0#8 vs (y - x) else b.spadByte y
  | [], b, x, y, _ => by
    rw [if_neg (by simp)]
    rfl
  | v :: vs, b, x, y, h => by
    rw [Block.spadWrite, spadByte_spadWrite vs (x + 1) y (cellPut_wf x v h), List.length_cons]
    by_cases hxy : y = x
    · subst hxy
      rw [if_neg (by omega), if_pos (by omega), Nat.sub_self]
      exact cellGet_put_self y v h
    · by_cases hin : x + 1 ≤ y ∧ y < x + 1 + vs.length
      · have hidx : y - x = y - (x + 1) + 1 := by omega
        rw [if_pos hin, if_pos (by omega), hidx]
        rfl
      · rw [if_neg hin, if_neg (by omega)]
        exact cellGet_put_of_ne b.spad v hxy

theorem spadWrite_id : ∀ (vs : List Byte) (b : Block) (x : Nat), (b.spadWrite x vs).id = b.id
  | [], _, _ => rfl
  | _ :: vs, _, x => spadWrite_id vs _ (x + 1)

theorem spoilQueues_id (b : Block) (x n : Nat) : (b.spoilQueues x n).id = b.id := by
  unfold Block.spoilQueues
  split <;> rfl

theorem spadRead_of_block {s : State} {b : Nat} {blk : Block} (h : s.block? b = some blk) (x n : Nat) :
    s.spadRead b x n = blk.spadBytes x n := by
  rw [State.spadRead, h]

theorem spadRead_spadWrite {s : State} {b : Nat} {blk : Block} (h : s.block? b = some blk) (x : Nat) (vs : List Byte) (y n : Nat) :
    (s.spadWrite b x vs).spadRead b y n = (blk.spadWrite x vs).spadBytes y n := by
  have hid : ((blk.spadWrite x vs).spoilQueues x vs.length).id = b := by
    rw [spoilQueues_id, spadWrite_id, State.block?_id h]
  have hblock : (s.spadWrite b x vs).block? b = some ((blk.spadWrite x vs).spoilQueues x vs.length) := by
    simp only [State.spadWrite, h, State.block?_setBlock, hid, if_true, Option.map_some]
  simp only [spadRead_of_block hblock, Block.spadBytes, Block.spadByte, Block.spoilQueues_spad]

/-! ### Words stored as bytes (R1) -/

theorem leNat_leBytes_word (v : Word) : leNat (leBytes 4 v.toNat) = v.toNat := by
  have hrange : List.range 4 = [0, 1, 2, 3] := rfl
  have hv := v.isLt
  simp only [leBytes, hrange, List.map_cons, List.map_nil, leNat, BitVec.toNat_ofNat, Nat.shiftRight_eq_div_pow]
  omega

/-- A byte of the number of a list of bytes. -/
theorem leNat_byte : ∀ (bs : List Byte) (e : Nat), leNat bs / 256 ^ e % 256 = (nth 0#8 bs e).toNat
  | [], e => by simp [leNat, nth]
  | b :: bs, 0 => by
    have hb := b.isLt
    rw [leNat, pow_zero, Nat.div_one, Nat.add_mul_mod_self_left, Nat.mod_eq_of_lt hb]
    rfl
  | b :: bs, e + 1 => by
    have hrest : (b.toNat + 256 * leNat bs) / 256 = leNat bs := by
      rw [Nat.add_mul_div_left _ _ (by decide), Nat.div_eq_of_lt b.isLt, Nat.zero_add]
    rw [leNat, pow_succ', ← Nat.div_div_eq_div_mul, hrest, leNat_byte bs e]
    rfl

theorem leNat_lt : ∀ bs : List Byte, leNat bs < 256 ^ bs.length
  | [] => Nat.one_pos
  | b :: bs => by
    have hb := b.isLt
    have ih := leNat_lt bs
    rw [leNat, List.length_cons, pow_succ']
    omega

theorem leNat_concat : ∀ (bs : List Byte) (b : Byte), leNat (bs ++ [b]) = leNat bs + b.toNat * 256 ^ bs.length
  | [], b => by simp [leNat]
  | c :: bs, b => by
    rw [List.cons_append, leNat, leNat_concat bs b, leNat, List.length_cons, pow_succ]
    ring

/-- Bytes summed at their places are a number of these bytes. -/
theorem sum_bytes_eq_leNat (g : Nat → Byte) (n : Nat) :
    (List.range n).foldl (fun acc e => acc + (g e).toNat * 2 ^ (8 * e)) 0 = leNat ((List.range n).map g) := by
  induction n with
  | zero => rfl
  | succ n ih =>
    rw [List.range_succ, List.foldl_append, ih, List.map_append, List.map_singleton, leNat_concat, List.length_map, List.length_range,
      List.foldl_cons, List.foldl_nil, pow_mul]
    norm_num

/-- A byte of a word made of four. -/
theorem extractLsb'_fourBytes (g : Nat → Byte) {e : Nat} (he : e < 4) :
    (w32 ((List.range 4).foldl (fun acc e => acc + (g e).toNat * 2 ^ (8 * e)) 0)).extractLsb' (8 * e) 8 = g e := by
  have hnth : nth 0#8 ((List.range 4).map g) e = g e := by
    rw [nth_eq_getD]
    simp [he]
  have hlt : leNat ((List.range 4).map g) < 2 ^ 32 := by simpa using leNat_lt ((List.range 4).map g)
  refine BitVec.eq_of_toNat_eq ?_
  rw [sum_bytes_eq_leNat, BitVec.extractLsb'_toNat, w32, BitVec.toNat_ofNat, Nat.mod_eq_of_lt hlt, Nat.shiftRight_eq_div_pow, pow_mul]
  exact (leNat_byte _ e).trans (congrArg BitVec.toNat hnth)

/-- Words as bytes, one word after another. -/
def wordBytes (n : Nat) (f : Nat → Word) : List Byte := (List.range n).flatMap fun i => leBytes 4 (f i).toNat

theorem wordBytes_eq_map (n : Nat) (f : Nat → Word) :
    wordBytes n f = (List.range (4 * n)).map fun j => BitVec.ofNat 8 ((f (j / 4)).toNat >>> (8 * (j % 4))) := by
  induction n with
  | zero => rfl
  | succ n ih =>
    have hlast : ∀ i ∈ List.range 4, BitVec.ofNat 8 ((f n).toNat >>> (8 * i)) =
        BitVec.ofNat 8 ((f ((4 * n + i) / 4)).toNat >>> (8 * ((4 * n + i) % 4))) := by
      intro i hi
      have hi4 := List.mem_range.mp hi
      have hdiv : (4 * n + i) / 4 = n := by omega
      have hmod : (4 * n + i) % 4 = i := by omega
      rw [hdiv, hmod]
    have hcat : wordBytes (n + 1) f = wordBytes n f ++ leBytes 4 (f n).toNat := by
      simp [wordBytes, List.range_succ]
    rw [hcat, ih, Nat.mul_succ, List.range_add, List.map_append, List.map_map, leBytes, List.map_congr_left hlast]
    rfl

@[simp] theorem length_wordBytes (n : Nat) (f : Nat → Word) : (wordBytes n f).length = 4 * n := by
  rw [wordBytes_eq_map, List.length_map, List.length_range]

theorem nth_wordBytes (f : Nat → Word) {n j : Nat} (h : j < 4 * n) :
    nth 0#8 (wordBytes n f) j = BitVec.ofNat 8 ((f (j / 4)).toNat >>> (8 * (j % 4))) := by
  rw [wordBytes_eq_map, nth_eq_getD]
  simp [h]

section
variable {b : Block} (h : cellWf 0#8 b.spad = true) (x n : Nat) (f : Nat → Word)
include h

theorem spadBytes_words_inside {k : Nat} (hk : k < n) :
    (b.spadWrite x (wordBytes n f)).spadBytes (x + 4 * k) 4 = leBytes 4 (f k).toNat := by
  refine List.map_congr_left fun i hi => ?_
  have hi4 := List.mem_range.mp hi
  have hoff : x + 4 * k + i - x = 4 * k + i := by omega
  have hdiv : (4 * k + i) / 4 = k := by omega
  have hmod : (4 * k + i) % 4 = i := by omega
  rw [spadByte_spadWrite _ _ _ h, length_wordBytes, if_pos (by omega), hoff, nth_wordBytes f (by omega), hdiv, hmod]

theorem spadBytes_words_outside {y k : Nat} (hy : y + k ≤ x ∨ x + 4 * n ≤ y) :
    (b.spadWrite x (wordBytes n f)).spadBytes y k = b.spadBytes y k := by
  refine List.map_congr_left fun i hi => ?_
  have hik := List.mem_range.mp hi
  rw [spadByte_spadWrite _ _ _ h, length_wordBytes, if_neg (by omega)]

end

/-! ### The order of a warp's accesses (R199, R256) -/

/-- With no access of the warp before it left, an access is made in the state that the earlier ones leave. -/
theorem behindSpad_clear {s : State} {a : Actx} (h : (s.spadTurnOf a).oldestSpad a.bid a.wi = none) (act : State → State) :
    s.behindSpad a act = act (s.spadTurnOf a) := by
  have hnone : ((s.drainSpad a.bid a.wi s.nextId s.ops.length).oldestSpad a.bid a.wi).isSome = false := by
    rw [← State.spadTurnOf, h]
    rfl
  simp only [State.behindSpad, hnone, Bool.false_eq_true, if_false]
  rfl

/-- Nothing is drained when the oldest access comes after the bound. -/
theorem drainSpad_later {s : State} {b wi upto : Nat} (h : ∀ op, s.oldestSpad b wi = some op → upto < op.id) :
    ∀ n, s.drainSpad b wi upto n = s
  | 0 => rfl
  | n + 1 => by
    rw [State.drainSpad]
    cases hop : s.oldestSpad b wi with
    | none => rfl
    | some op =>
      have hlt := h op hop
      dsimp only
      split
      · rfl
      · exact if_neg (by omega)

/-- A PMAT.S that waits for its values holds back what is behind it. -/
theorem drainSpad_held {s : State} {b wi : Nat} {op : Op} {ls} (h : s.oldestSpad b wi = some op) (hk : op.kind = .pmats ls) (upto : Nat) :
    ∀ n, s.drainSpad b wi upto n = s
  | 0 => rfl
  | n + 1 => by simp only [State.drainSpad, h, hk]

end Sys2Proof.Machine
end

section
/-!
PROOF. The elements of a tile.
-/
namespace Sys2Proof.Machine
open Sys2Proof

/-! ### Elements of a fragment (R239, R240) -/

theorem matWidth_dvd (fmt : Nat) : matWidth fmt ∣ 32 := by
  unfold matWidth
  split <;> decide

/-- An element whose width divides a word lies in one word, at the bit that its number gives. -/
theorem fragElem_eq_placedElem (regs : List VReg) (base idx : Nat) {width : Nat} (h : width ∣ 32) :
    fragElem regs base idx width = placedElem regs base idx width := by
  have hbit : width * (idx * width % 32 / width) = idx * width % 32 :=
    Nat.mul_div_cancel' ((Nat.dvd_mod_iff h).mpr (Nat.dvd_mul_left width idx))
  simp only [fragElem, placedElem, elem, hbit, Nat.shiftRight_eq_div_pow]

/-- Element k of a row of a fragment, zero at and beyond the depth in use (R250). -/
def Shape.usedElem (x : Shape) (regs : List VReg) (base r k : Nat) : Nat :=
  if k < x.dep then placedElem regs base (r * x.gk.toNat + k) (matWidth x.fmt.toNat) else 0

theorem matTerms_eq (regs : List VReg) (o : Opnds) (x : Shape) (i j : Nat) : matTerms regs o x i j =
    (List.range x.gk.toNat).map fun k => (x.usedElem regs o.a.toNat i k, x.usedElem regs o.b.toNat j k) := by
  refine List.map_congr_left fun k _ => ?_
  simp only [Shape.usedElem, fragElem_eq_placedElem _ _ _ (matWidth_dvd x.fmt.toNat)]
  split <;> rfl

/-! ### The two chains (R57, R58) -/

/-- The term of a number goes into the chain of its parity. -/
def intoChain (k : Nat) (t : FVal) (c : FVal × FVal) : FVal × FVal :=
  if k % 2 = 0 then (rn (c.1.add false t), c.2) else (c.1, rn (c.2.add false t))

theorem dotChains_eq_foldl : ∀ (ts : List (FVal × FVal)) (k : Nat) (c : FVal × FVal), dotChains (decide (k % 2 = 0)) c.1 c.2 ts =
    ((ts.map fun t => t.1.mul t.2).zipIdx k).foldl (fun c p => intoChain p.2 p.1 c) c
  | [], _, _ => rfl
  | (a, b) :: ts, k, c => by
    rw [List.map_cons, List.zipIdx_cons, List.foldl_cons, ← dotChains_eq_foldl ts (k + 1)]
    by_cases hk : k % 2 = 0
    · have hk' : (k + 1) % 2 ≠ 0 := by omega
      simp [dotChains, intoChain, hk, hk']
    · have hk' : (k + 1) % 2 = 0 := by omega
      simp [dotChains, intoChain, hk, hk']

theorem dotSum_eq_chains (ts : List (FVal × FVal)) : dotSum ts =
    rn ((chainsOf (ts.map fun t => t.1.mul t.2)).1.add false (chainsOf (ts.map fun t => t.1.mul t.2)).2) := by
  have h := dotChains_eq_foldl ts 0 (.fin false 0 0, .fin false 0 0)
  simp only [dotSum]
  exact congrArg (fun c : FVal × FVal => rn (c.1.add false c.2)) h

/-- The sum of one block of an MMAS, scaled (R58). -/
def scaledSum (bs af bf : Nat) (ea eb : Nat → Nat) (ts : List (Nat × Nat)) (j : Nat) : FVal :=
  rn ((((((ts.drop (j * bs)).take bs).foldl (fun (acc : FVal) t => acc.add false ((matVal af t.1).mul (matVal bf t.2))) (.fin false 0 0)).mul
    (e8m0Val (ea j))).mul (e8m0Val (eb j))))

/-- The chains of an MMAS run over its blocks as far as the depth goes: those beyond it follow all those before it. -/
theorem dotsChains_eq_foldl (bs dep af bf : Nat) (ea eb : Nat → Nat) (ts : List (Nat × Nat)) : ∀ (n j : Nat) (c : FVal × FVal),
    dotsChains bs dep af bf ea eb ts n j c.1 c.2 =
      (((List.range' j n).filter fun j => decide (j * bs < dep)).map fun j => (j, scaledSum bs af bf ea eb ts j)).foldl
        (fun c p => intoChain p.1 p.2 c) c
  | 0, _, _ => rfl
  | n + 1, j, c => by
    rw [List.range'_succ, dotsChains]
    by_cases hdep : dep ≤ j * bs
    · have hall : (j :: List.range' (j + 1) n).filter (fun j => decide (j * bs < dep)) = [] := by
        refine List.filter_eq_nil_iff.mpr fun k hk => ?_
        have hjk : j ≤ k := by
          rw [← List.range'_succ, List.mem_range'_1] at hk
          exact hk.1
        simpa using hdep.trans (Nat.mul_le_mul_right bs hjk)
      rw [if_pos hdep, hall]
      rfl
    · rw [if_neg hdep, List.filter_cons_of_pos (by simpa using hdep), List.map_cons, List.foldl_cons,
        ← dotsChains_eq_foldl bs dep af bf ea eb ts n (j + 1)]
      by_cases hj : j % 2 = 0 <;> simp [hj, intoChain, scaledSum]

/-! ### The elements of MMA and MMAS (R250) -/

theorem mmaElem_float {f : Word} (h : bits f 9 8 = 0) (c : Word) (ts : List (Nat × Nat)) : mmaElem f c ts =
    intoAcc c f (chainsOf (ts.map fun t => (matVal (bits f 3 0) t.1).mul (matVal (bits f 7 4) t.2))) := by
  simp only [mmaElem, h, dot, dotSum_eq_chains, List.map_map, intoAcc, w32]
  rfl

theorem mmaElem_int32 {f : Word} (h : bits f 9 8 = 1) (c : Word) (ts : List (Nat × Nat)) : mmaElem f c ts =
    c + BitVec.ofInt 32 (ts.map fun t => sextInt t.1 8 * sextInt t.2 8).sum := by
  simp only [mmaElem, h, BitVec.ofInt_add, BitVec.ofInt_toInt]

theorem mmaElem_rx32 {f : Word} (h : bits f 9 8 = 2) (c : Word) (ts : List (Nat × Nat)) : mmaElem f c ts =
    BitVec.ofNat 32 (rxenc (rxdec c.toNat + (ts.map fun t => sextInt t.1 8 * sextInt t.2 8).sum)) := by
  simp only [mmaElem, h, w32]

/-- Block j of an MMAS's terms, over the products of a row and a column. -/
theorem scaledSum_map (bs af bf n : Nat) (ea eb u v : Nat → Nat) (j : Nat) :
    scaledSum bs af bf ea eb ((List.range n).map fun k => (u k, v k)) j =
      rn ((((((List.range n).drop (j * bs)).take bs).foldl (fun (acc : FVal) k => acc.add false ((matVal af (u k)).mul (matVal bf (v k))))
        (.fin false 0 0)).mul (e8m0Val (ea j))).mul (e8m0Val (eb j))) := by
  rw [scaledSum, ← List.map_drop, ← List.map_take, List.foldl_map]

theorem mmasElem_eq (regs : List VReg) (o : Opnds) (x : Shape) (f c : Word) (i j : Nat) : mmasElem regs o x f c i j =
    intoAcc c f (blockChainsOf (((List.range (x.blocks (blockSize f))).filter fun b => decide (b * blockSize f < x.dep)).map fun b =>
      (b, scaledSum (blockSize f) (bits f 3 0) (bits f 7 4)
        (fun b => placedElem regs (o.a.toNat + x.ra) (i * x.blocks (blockSize f) + b) 8)
        (fun b => placedElem regs (o.b.toNat + x.rb) (j * x.blocks (blockSize f) + b) 8) (matTerms regs o x i j) b))) := by
  have h := dotsChains_eq_foldl (blockSize f) x.dep (bits f 3 0) (bits f 7 4)
    (fun b => placedElem regs (o.a.toNat + x.ra) (i * x.blocks (blockSize f) + b) 8)
    (fun b => placedElem regs (o.b.toNat + x.rb) (j * x.blocks (blockSize f) + b) 8) (matTerms regs o x i j)
    (x.blocks (blockSize f)) 0 (.fin false 0 0, .fin false 0 0)
  rw [← List.range_eq_range'] at h
  simp only [mmasElem, fragElem_eq_placedElem _ _ _ (by decide : 8 ∣ 32), h]
  rfl

/-! ### The words of a tile (R241, R250) -/

theorem length_tile (b : Block) (o : Opnds) (scaled : Bool) (x : Shape) (f : Word) (regs : List VReg) :
    (b.tile o scaled x f regs).length = x.rows * x.cols := by
  simp [Block.tile, List.length_flatMap]

theorem mem_tile (b : Block) (o : Opnds) (scaled : Bool) (x : Shape) (f : Word) (regs : List VReg) {r c : Nat}
    (hr : r < x.rows) (hc : c < x.cols) :
    (32 * mmaBase o + r * x.gn.toNat + c, if scaled then mmasElem regs o x f (b.accWord (32 * mmaBase o + r * x.gn.toNat + c)) r c
      else mmaElem f (b.accWord (32 * mmaBase o + r * x.gn.toNat + c)) (matTerms regs o x r c)) ∈ b.tile o scaled x f regs :=
  List.mem_flatMap.mpr ⟨r, List.mem_range.mpr hr, List.mem_map.mpr ⟨c, List.mem_range.mpr hc, rfl⟩⟩

end Sys2Proof.Machine
end

section
/-!
PROOF. Matrix instructions issue or trap, and their tiles are written (O46).
-/
namespace Sys2Proof.Machine
open Sys2Proof

/-! ### MMA and MMAS at issue (R246) -/

theorem exec_matrixForm (scaled : Bool) (o : Opnds) (s : State) :
    exec (if scaled then .mmas o else .mma o) s = s.matrix o scaled := by cases scaled <;> rfl

theorem lanesOf_allOnes : lanesOf (BitVec.allOnes 32) = List.range 32 := by decide

/-- The fragments of an MMA or MMAS, with their scales, lie in the warp's registers (R240). -/
def Warp.hasFragments (w : Warp) (o : Opnds) (scaled : Bool) (x : Shape) (bs : Nat) : Bool :=
  w.hasRun o.a.toNat (x.ra + (if scaled then x.rsa bs else 0)) && w.hasRun o.b.toNat (x.rb + (if scaled then x.rsb bs else 0))

/-- A source of an MMA or MMAS holds a proxy. -/
def State.matrixPx (s : State) (a : Actx) (o : Opnds) (scaled : Bool) (x : Shape) : Bool :=
  s.anyPx a (a.lanes o) [o.srcC] ||
    (matRegs o scaled x (blockSize (s.val a o.srcC 0))).any fun r => (a.w.vreg r).lanes.any (·.px)

/-- What an MMA or MMAS without proxies does: it compares its format words and takes its tile into flight. -/
def State.issueTile (s : State) (a : Actx) (o : Opnds) (scaled : Bool) (x : Shape) : State :=
  match (List.range 32).find? fun l => s.val a o.srcC l != s.val a o.srcC 0 with
  | some l => s.raise a Code.fmtdiv l
  | none =>
    if !formatOk scaled x.fmt.toNat (s.val a o.srcC 0) then s.raise a Code.illconv 0x04
    else (s.pushOp a none none (.tile o scaled x (s.val a o.srcC 0) ((List.range 240).map a.w.vreg))).retire a

section
variable {s : State} {a : Actx} {o : Opnds} {scaled : Bool} {x : Shape}
  (h : s.Acts a o.gn o.g) (hx : a.w.shape (bits o.mod 2 0) = x)
include h

theorem matrix_missingLane (hm : a.lanes o ≠ BitVec.allOnes 32) : s.matrix o scaled = .next (s.raise a Code.illconv 0x01) := by
  simp only [State.matrix, run_acts h, if_pos hm]

variable (hm : a.lanes o = BitVec.allOnes 32)
include hx hm

theorem matrix_ungranted (hv : x.v = false) : s.matrix o scaled = .next (s.raise a Code.illconv 0x02) := by
  simp [State.matrix, run_acts h, hm, hx, hv]

variable (hv : x.v = true)
include hv

theorem matrix_changed (hc : x.chg = true) : s.matrix o scaled = .next (s.raise a Code.shchg (bits o.mod 2 0)) := by
  simp [State.matrix, run_acts h, hm, hx, hv, hc]

variable (hc : x.chg = false)
include hc

/-- Past its shape, an MMA or MMAS looks at its registers, its lines, what is still to come, and proxies. -/
theorem matrix_shaped : s.matrix o scaled = .next (
    if !a.w.hasFragments o scaled x (blockSize (s.val a o.srcC 0)) then s.raise a Code.illconv 0x05
    else if s.accLines a.blk < mmaBase o + x.lines then s.raise a Code.illconv 0x03
    else if s.pmatHolds a.bid a.wi (matRegs o scaled x (blockSize (s.val a o.srcC 0))) || s.tileHolds a.bid a.wi (mmaBase o) x.lines then s
    else if s.matrixPx a o scaled x then s.raise a Code.pxuse 0x01
    else s.issueTile a o scaled x) := by
  simp only [State.matrix, run_acts h, hm, hx, hv, hc, ne_eq, not_true_eq_false, Bool.not_true, Bool.false_eq_true, if_false,
    lanesOf_allOnes, State.matrixPx]
  rfl

theorem matrix_outsideRegisters (hr : a.w.hasFragments o scaled x (blockSize (s.val a o.srcC 0)) = false) :
    s.matrix o scaled = .next (s.raise a Code.illconv 0x05) := by
  simp only [matrix_shaped h hx hm hv hc, hr, Bool.not_false, if_true]

variable (hr : a.w.hasFragments o scaled x (blockSize (s.val a o.srcC 0)) = true)
include hr

theorem matrix_outsideLines (hl : s.accLines a.blk < mmaBase o + x.lines) :
    s.matrix o scaled = .next (s.raise a Code.illconv 0x03) := by
  simp only [matrix_shaped h hx hm hv hc, hr, hl, Bool.not_true, Bool.false_eq_true, if_false, if_true]

variable (hl : mmaBase o + x.lines ≤ s.accLines a.blk)
  (hpm : s.pmatHolds a.bid a.wi (matRegs o scaled x (blockSize (s.val a o.srcC 0))) = false)
  (htl : s.tileHolds a.bid a.wi (mmaBase o) x.lines = false)
include hl hpm htl

theorem matrix_proxy (hpx : s.matrixPx a o scaled x = true) : s.matrix o scaled = .next (s.raise a Code.pxuse 0x01) := by
  simp only [matrix_shaped h hx hm hv hc, hr, Nat.not_lt.mpr hl, hpm, htl, hpx, Bool.or_false, Bool.not_true, Bool.false_eq_true,
    if_false, if_true]

theorem matrix_plain (hpx : s.matrixPx a o scaled x = false) : s.matrix o scaled = .next (s.issueTile a o scaled x) := by
  simp only [matrix_shaped h hx hm hv hc, hr, Nat.not_lt.mpr hl, hpm, htl, hpx, Bool.or_false, Bool.not_true, Bool.false_eq_true, if_false]

end

theorem matrixPx_iff {s : State} {a : Actx} {o : Opnds} {scaled : Bool} {x : Shape} : s.matrixPx a o scaled x = true ↔
    s.anyPx a (a.lanes o) [o.srcC] = true ∨
      ∃ r ∈ matRegs o scaled x (blockSize (s.val a o.srcC 0)), ∃ k ∈ (a.w.vreg r).lanes, k.px = true := by
  simp only [State.matrixPx, Bool.or_eq_true, List.any_eq_true]

theorem matrixPx_none {s : State} {a : Actx} {o : Opnds} {scaled : Bool} {x : Shape} (hc : s.anyPx a (a.lanes o) [o.srcC] = false)
    (hregs : ∀ r ∈ matRegs o scaled x (blockSize (s.val a o.srcC 0)), ∀ k ∈ (a.w.vreg r).lanes, k.px = false) :
    s.matrixPx a o scaled x = false := by
  rw [← Bool.not_eq_true, matrixPx_iff, hc]
  rintro (hpx | ⟨r, hr, k, hk, hpx⟩)
  · exact Bool.false_ne_true hpx
  · exact Bool.false_ne_true ((hregs r hr k hk).symm.trans hpx)

section
variable {s : State} {a : Actx} {o : Opnds} {scaled : Bool} {x : Shape}

theorem issueTile_formatsDiffer {l : Nat} (hl : l < 32) (hbefore : ∀ k, k < l → s.val a o.srcC k = s.val a o.srcC 0)
    (hne : s.val a o.srcC l ≠ s.val a o.srcC 0) : s.issueTile a o scaled x = s.raise a Code.fmtdiv l := by
  have hfind : (List.range 32).find? (fun l => s.val a o.srcC l != s.val a o.srcC 0) = some l :=
    List.find?_range_eq_some.mpr ⟨by simpa using hne, List.mem_range.mpr hl, fun k hk => by simpa using hbefore k hk⟩
  rw [State.issueTile, hfind]

variable (h : ∀ l, l < 32 → s.val a o.srcC l = s.val a o.srcC 0)
include h

theorem formats_equal : (List.range 32).find? (fun l => s.val a o.srcC l != s.val a o.srcC 0) = none :=
  List.find?_eq_none.mpr fun l hl => by simpa using h l (List.mem_range.mp hl)

theorem issueTile_badFormat (hbad : formatOk scaled x.fmt.toNat (s.val a o.srcC 0) = false) :
    s.issueTile a o scaled x = s.raise a Code.illconv 0x04 := by
  simp only [State.issueTile, formats_equal h, hbad, Bool.not_false, if_true]

theorem issueTile_goodFormat (hok : formatOk scaled x.fmt.toNat (s.val a o.srcC 0) = true) : s.issueTile a o scaled x =
    (s.pushOp a none none (.tile o scaled x (s.val a o.srcC 0) ((List.range 240).map a.w.vreg))).retire a := by
  simp only [State.issueTile, formats_equal h, hok, Bool.not_true, Bool.false_eq_true, if_false]

end

/-! ### A tile is written (R199, R251) -/

theorem op?_id {s : State} {id : Nat} {op : Op} (h : s.op? id = some op) : op.id = id := by
  simpa using List.find?_some h

theorem op?_self {s : State} {id : Nat} {op : Op} (h : s.op? id = some op) : s.op? op.id = some op := by
  rw [op?_id h, h]

theorem op?_setOp (s : State) (id : Nat) (k : OpKind) : (s.setOp id k).op? id = (s.op? id).map fun o => { o with kind := k } := by
  have hid : ((fun o : Op => o.id == id) ∘ fun o : Op => if o.id = id then { o with kind := k } else o) = fun o => o.id == id := by
    funext o
    simp only [Function.comp]
    split <;> rfl
  rw [State.op?, State.setOp, List.find?_map, hid]
  cases hop : s.ops.find? (fun o => o.id == id) with
  | none => simp [State.op?, hop]
  | some op =>
    have hop' : op.id = id := op?_id hop
    simp [State.op?, hop, hop']

theorem oldestSpad_some {s : State} {b wi : Nat} {op : Op} (h : s.oldestSpad b wi = some op) :
    op ∈ s.ops ∧ op.block = b ∧ op.warp = wi ∧ op.kind.onSpad = true := by
  have htest := List.find?_some h
  simp only [Bool.and_eq_true, beq_iff_eq] at htest
  obtain ⟨⟨hblock, hwarp⟩, hon⟩ := htest
  exact ⟨List.mem_of_find?_eq_some h, hblock, hwarp, hon⟩

/-- Once an operation has no access left to make, the oldest access of its warp is another's. -/
theorem oldestSpad_setOp {s : State} {b wi id : Nat} {k : OpKind} {y : Op} (hk : k.onSpad = false)
    (h : (s.setOp id k).oldestSpad b wi = some y) : y ∈ s.ops ∧ y.id ≠ id ∧ y.block = b ∧ y.warp = wi ∧ y.kind.onSpad = true := by
  obtain ⟨hmem, hblock, hwarp, hon⟩ := oldestSpad_some h
  obtain ⟨z, hz, rfl⟩ := List.mem_map.mp hmem
  by_cases hid : z.id = id
  · rw [if_pos hid] at hon
    simp [hk] at hon
  · rw [if_neg hid] at hblock hwarp hon ⊢
    exact ⟨hz, hid, hblock, hwarp, hon⟩

section
variable {s : State} {op : Op} {o : Opnds} {scaled : Bool} {x : Shape} {f : Word} {regs : List VReg}
  (hop : s.op? (s.arg 0) = some op) (hk : op.kind = .tile o scaled x f regs)
include hop hk

/-- A PMAT.S that waits for its values keeps the tile waiting. -/
theorem exec_tileWrite_held {q : Op} {ls} (hq : s.oldestSpad op.block op.warp = some q) (hpm : q.kind = .pmats ls) :
    exec .tileWrite s = .next s := by
  simp only [exec_tileWrite, execTileWrite, hop, hk, State.spadTurn, drainSpad_held hq hpm, op?_self hop]

/-- The state with the words of a tile written and its operation's access made. -/
def State.tileWritten (s : State) (op : Op) (ws : List (Nat × Word)) : State :=
  (s.putAcc op.tag op.block true ws).setOp op.id (.done [])

variable {blk : Block} (hq : s.oldestSpad op.block op.warp = some op)
  (hlater : ∀ y ∈ s.ops, y ≠ op → y.block = op.block → y.warp = op.warp → y.kind.onSpad = true → op.id < y.id)
  (hb : s.block? op.block = some blk)
include hq hlater hb

/-- A tile that is its warp's oldest access is written, and no other access of the warp with it. -/
theorem spadTurn_tile : s.spadTurn op = (s.tileWritten op (blk.tile o scaled x f regs), some { op with kind := .done [] }) := by
  obtain ⟨n, hn⟩ : ∃ n, s.ops.length = n + 1 := Nat.exists_eq_add_one.mpr (List.length_pos_of_mem (oldestSpad_some hq).1)
  have hperform : s.performSpad op = s.tileWritten op (blk.tile o scaled x f regs) := by
    simp only [State.performSpad, hk, hb, State.tileWritten]
  have hrest : ∀ y, (s.tileWritten op (blk.tile o scaled x f regs)).oldestSpad op.block op.warp = some y → op.id < y.id := by
    intro y hy
    obtain ⟨hmem, hid, hblock, hwarp, hon⟩ := oldestSpad_setOp rfl hy
    rw [putAcc_ops] at hmem
    exact hlater y hmem (fun e => hid (congrArg Op.id e)) hblock hwarp hon
  have hdrain : s.drainSpad op.block op.warp op.id s.ops.length = s.tileWritten op (blk.tile o scaled x f regs) := by
    rw [hn, State.drainSpad, hq]
    simp only [hk, Nat.le_refl, if_true, hperform, drainSpad_later hrest]
  have hop' : (s.tileWritten op (blk.tile o scaled x f regs)).op? op.id = some { op with kind := .done [] } := by
    rw [State.tileWritten, op?_setOp, State.op?, putAcc_ops, ← State.op?, op?_self hop, Option.map_some]
  rw [State.spadTurn, hdrain, hop']

theorem exec_tileWrite_due (hlive : blk.LivesOn) :
    exec .tileWrite s = .next ((s.tileWritten op (blk.tile o scaled x f regs)).countedDown op) := by
  have hb' : (s.tileWritten op (blk.tile o scaled x f regs)).block? op.block = some { blk with
      acc := (blk.tile o scaled x f regs).foldl (fun m x => cellPut 0#32 m x.1 x.2) blk.acc } :=
    block?_writeAcc (s := s.noteAcc op.tag op.block _ _) hb _
  simp only [exec_tileWrite, execTileWrite, hop, hk, spadTurn_tile hop hk hq hlater hb,
    ← finishOp_living hb' ⟨hlive.notEnding, hlive.running⟩]

end

/-- Each word of the accumulator after a tile is written: the tile's where it has one, else as it was. -/
theorem accNow_tileWritten {s : State} {op : Op} {blk : Block} {ws : List (Nat × Word)} (hb : s.block? op.block = some blk)
    (hwf : cellWf 0#32 blk.acc = true) {i : Nat} {v : Word} {p : Prop} [Decidable p] (h : ∀ u, (i, u) ∈ ws ↔ p ∧ u = v) :
    ((s.tileWritten op ws).countedDown op).accNow op.block i = if p then v else s.accNow op.block i := by
  rw [State.countedDown, accNow_updWarp]
  exact accNow_putAcc (s := s) op.tag true hb hwf h

/-- Settles O46: MMA and MMAS by their checks in order, the tile element by element, and its words over the lines. -/
theorem matrixTiles : Obligations.MatrixTiles := by
  refine ⟨?_, ?_, ?_⟩
  · intro scaled o s a h i x f0 bs lines base regs inside
    rw [show exec i s = s.matrix o scaled from exec_matrixForm scaled o s]
    refine ⟨matrix_missingLane h, fun hm => ⟨matrix_ungranted h rfl hm, matrix_changed h rfl hm,
      matrix_outsideRegisters h rfl hm, matrix_outsideLines h rfl hm, fun hv hc hin hl hpm htl =>
        ⟨fun hpx => matrix_proxy h rfl hm hv hc hin hl hpm htl (matrixPx_iff.mpr hpx), fun hpx hregs => ?_⟩⟩⟩
    rw [matrix_plain h (x := x) rfl hm hv hc hin hl hpm htl (matrixPx_none hpx hregs)]
    exact ⟨fun l hl hbefore hne => congrArg _ (issueTile_formatsDiffer hl hbefore hne),
      fun heq hbad => congrArg _ (issueTile_badFormat heq hbad), fun heq hok => congrArg _ (issueTile_goodFormat heq hok)⟩
  · intro b o scaled x f regs base bs rows cols dep gk nb wd elA elB fval isum scale block ws
    refine ⟨length_tile b o scaled x f regs, fun r c hr hc => ⟨_, mem_tile b o scaled x f regs hr hc, ?_, ?_, ?_, ?_⟩⟩
    · intro hs hf
      rw [hs, if_neg Bool.false_ne_true, mmaElem_float hf, matTerms_eq, List.map_map]
      rfl
    · intro hs hf
      rw [hs, if_neg Bool.false_ne_true, mmaElem_int32 hf, matTerms_eq, List.map_map]
      rfl
    · intro hs hf
      rw [hs, if_neg Bool.false_ne_true, mmaElem_rx32 hf, matTerms_eq, List.map_map]
      rfl
    · intro hs
      rw [hs, if_pos rfl, mmasElem_eq, matTerms_eq]
      simp only [scaledSum_map]
      rfl
  · intro s op q o scaled x f regs blk hop hk hq
    refine ⟨fun ls hpm => exec_tileWrite_held hop hk hq hpm, ?_⟩
    rintro rfl hlater - hb hending halive ws hnd hwf
    refine ⟨_, exec_tileWrite_due hop hk hq hlater hb ⟨hending, halive⟩, fun y hy => id_ne_of_mem_countedDown hy, fun pa => ?_,
      fun n l _ => ⟨fun v hv => ?_, fun hnot => ?_⟩⟩
    · rw [readByte_countedDown]
      exact readByte_putAcc s q.tag q.block true _ pa
    · have honce : ∀ u, (32 * n + l, u) ∈ ws ↔ True ∧ u = v := fun u =>
        ⟨fun hu => ⟨trivial, congrArg Prod.snd (List.inj_on_of_nodup_map hnd hu hv rfl)⟩, fun ⟨_, hu⟩ => hu ▸ hv⟩
      rw [line_eq_accNow, accNow_tileWritten hb hwf honce, if_pos trivial]
    · have hnone : ∀ u, (32 * n + l, u) ∈ ws ↔ False ∧ u = 0#32 := fun u => by simp [hnot u]
      rw [line_eq_accNow, accNow_tileWritten hb hwf hnone, if_neg not_false, line_eq_accNow]

end Sys2Proof.Machine
end

section
/-!
PROOF. Accesses to accumulator lines in their warp's turn: what ACCZ and ACCST write, and what ACCLD reads.
-/
namespace Sys2Proof.Machine
open Sys2Proof

/-! ### Accesses to accumulator lines (R252 to R254) -/

theorem withLines_beyond {s : State} {a : Actx} {lo n : Nat} (h : s.accLines a.blk < lo + n) (act : State → State) :
    s.withLines a lo n act = s.raise a Code.illconv 0x03 := if_pos h

/-- An access to lines has its turn (R256): its lines are the block's, no tile is still to write them, and no earlier
access of the warp is left in the state in which it is made. -/
structure State.LinesReady (s : State) (a : Actx) (lo n : Nat) (q : State) : Prop where
  turn : q = s.spadTurnOf a
  clear : q.oldestSpad a.bid a.wi = none
  inside : lo + n ≤ s.accLines a.blk
  written : s.tileHolds a.bid a.wi lo n = false

theorem withLines_ready {s q : State} {a : Actx} {lo n : Nat} (h : s.LinesReady a lo n q) (act : State → State) :
    s.withLines a lo n act = act q := by
  obtain ⟨rfl, hclear, hl, ht⟩ := h
  rw [State.withLines, if_neg (Nat.not_lt.mpr hl), ht, if_neg Bool.false_ne_true, behindSpad_clear hclear]

/-- The state with words of the acting warp's block written, as one access of the warp. -/
def State.wordsWritten (q : State) (a : Actx) (ws : List (Nat × Word)) : State :=
  q.fresh.2.putAcc (MemTag.warp a.bid a.wi a.core q.nextId) a.bid false ws

theorem wordsWritten_rest (q : State) (a : Actx) (ws : List (Nat × Word)) :
    { q.wordsWritten a ws with blocks := q.blocks, log := q.log, nextId := q.nextId } = q := by
  have h := putAcc_rest q.fresh.2 (MemTag.warp a.bid a.wi a.core q.nextId) a.bid false ws
  exact congrArg (fun x : State => { x with nextId := q.nextId }) h

theorem line_wordsWritten {q : State} {a : Actx} {b : Block} {ws : List (Nat × Word)} {x l : Nat} {v : Word} {p : Prop} [Decidable p]
    (hb : q.block? a.bid = some b) (hwf : cellWf 0#32 b.acc = true) (h : ∀ u, (32 * x + l, u) ∈ ws ↔ p ∧ u = v) :
    (q.wordsWritten a ws).line a.bid x l = if p then v else q.line a.bid x l := by
  rw [line_eq_accNow, line_eq_accNow]
  exact accNow_putAcc (s := q.fresh.2) (MemTag.warp a.bid a.wi a.core q.nextId) false hb hwf h

/-! ### ACCZ (R252) -/

/-- Zeros for n lines from a line on. -/
def zeroLines (lo n : Nat) : List (Nat × Word) := (List.range (32 * n)).map fun i => (32 * lo + i, 0#32)

theorem mem_zeroLines {lo n x l : Nat} {v : Word} (hl : l < 32) :
    (32 * x + l, v) ∈ zeroLines lo n ↔ (lo ≤ x ∧ x < lo + n) ∧ v = 0#32 := by
  simp only [zeroLines, List.mem_map, List.mem_range, Prod.mk.injEq]
  constructor
  · rintro ⟨i, hi, hix, rfl⟩
    exact ⟨by omega, rfl⟩
  · rintro ⟨hx, rfl⟩
    exact ⟨32 * (x - lo) + l, by omega, by omega, rfl⟩

/-! ### ACCST (R254) -/

/-- Words for the lanes of a mask in n lines from a line on. -/
def lineWords (lo n : Nat) (m : Mask) (f : Nat → Nat → Word) : List (Nat × Word) :=
  (List.range n).flatMap fun i => (lanesOf m).map fun l => (32 * (lo + i) + l, f i l)

theorem mem_lanesOf {m : Mask} {l : Nat} : l ∈ lanesOf m ↔ m.getLsbD l = true :=
  ⟨fun h => (List.mem_filter.mp h).2, mem_lanesOf_of_getLsbD⟩

theorem mem_lineWords {lo n x l : Nat} {m : Mask} {f : Nat → Nat → Word} {v : Word} (hl : l < 32) :
    (32 * x + l, v) ∈ lineWords lo n m f ↔ (lo ≤ x ∧ x < lo + n ∧ m.getLsbD l = true) ∧ v = f (x - lo) l := by
  simp only [lineWords, List.mem_flatMap, List.mem_map, List.mem_range, Prod.mk.injEq, mem_lanesOf]
  constructor
  · rintro ⟨i, hi, k, hk, hix, rfl⟩
    have hk32 := BitVec.lt_of_getLsbD hk
    obtain ⟨rfl, rfl⟩ : x = lo + i ∧ k = l := by omega
    exact ⟨⟨by omega, by omega, hk⟩, by rw [Nat.add_sub_cancel_left]⟩
  · rintro ⟨⟨hlo, hhi, hm⟩, rfl⟩
    exact ⟨x - lo, by omega, l, hm, by omega, rfl⟩

/-- A source of an ACCST holds a proxy. -/
def State.accPx (s : State) (a : Actx) (o : Opnds) : Bool :=
  (lanesOf (a.lanes o)).any fun l => (List.range (bits o.mod 2 0 + 1)).any fun i => (s.accSource a o i l).px

theorem accPx_none {s : State} {a : Actx} {o : Opnds}
    (h : ∀ i l, i < bits o.mod 2 0 + 1 → (a.lanes o).getLsbD l = true → (s.accSource a o i l).px = false) : s.accPx a o = false := by
  refine List.any_eq_false.mpr fun l hl => ?_
  rw [Bool.not_eq_true, List.any_eq_false]
  intro i hi
  simp [h i l (List.mem_range.mp hi) (mem_lanesOf.mp hl)]

section
variable {s : State} {a : Actx} {o : Opnds}

theorem execAccz_acts (h : s.Acts a o.gn o.g) : execAccz o s = .next (s.withLines a o.imm16.toNat (o.d.toNat + 1) fun q =>
    (q.wordsWritten a (zeroLines o.imm16.toNat (o.d.toNat + 1))).retire a) := by
  rw [execAccz, run_acts h]
  rfl

theorem execAccst_plain (h : s.Acts a o.gn o.g) (hpx : s.accPx a o = false) :
    execAccst o s = .next (s.withLines a o.imm16.toNat (bits o.mod 2 0 + 1) fun q =>
      (q.wordsWritten a (lineWords o.imm16.toNat (bits o.mod 2 0 + 1) (a.lanes o) fun i l => (s.accSource a o i l).val)).retire a) := by
  rw [execAccst, run_acts h]
  exact congrArg Host.Outcome.next (if_neg (by simpa [State.accPx] using hpx))

/-! ### ACCST.SP (R254) -/

/-- The state with lines read and stored to scratchpad at a byte, as one image of 128 bytes each. -/
def State.imageStored (q : State) (a : Actx) (lo n at_ : Nat) : State :=
  let t := MemTag.warp a.bid a.wi a.core q.nextId
  ((q.noteAcc t a.bid ((List.range (32 * n)).map (32 * lo + ·)) []).noteSpad t a.bid [] ((List.range (128 * n)).map (at_ + ·))).spadWrite
    a.bid at_ (wordBytes (32 * n) fun i => q.accNow a.bid (32 * lo + i))

theorem execAccstSp_placed (h : s.Counts a o) (hal : (s.scalar a o.a o.sa).toNat % 4 = 0)
    (hfit : (s.scalar a o.a o.sa).toNat + 128 * (bits o.mod 2 0 + 1) ≤ s.spadSize a.blk) :
    execAccstSp o s = .next (s.withLines a o.imm16.toNat (bits o.mod 2 0 + 1) fun q =>
      ((q.imageStored a o.imm16.toNat (bits o.mod 2 0 + 1) (s.scalar a o.a o.sa).toNat).startOp a o (.done [])).retire a) := by
  rw [execAccstSp, counted_acts h]
  dsimp only
  rw [if_neg (by simpa using hal), if_neg (Nat.not_lt.mpr hfit)]
  rfl

theorem spadRead_imageStored {q : State} {a : Actx} {b : Block} (hb : q.block? a.bid = some b) (lo n at_ y k : Nat) :
    (q.imageStored a lo n at_).spadRead a.bid y k =
      (b.spadWrite at_ (wordBytes (32 * n) fun i => q.accNow a.bid (32 * lo + i))).spadBytes y k :=
  spadRead_spadWrite (s := (q.noteAcc _ a.bid _ []).noteSpad _ a.bid [] _) hb at_ _ y k

/-! ### ACCLD (R253) -/

/-- The lanes of lines from a line on, read as one access of the warp. -/
def State.linesRead (q : State) (a : Actx) (o : Opnds) (x : Nat) : State :=
  q.noteAcc (MemTag.warp a.bid a.wi a.core q.nextId) a.bid
    ((List.range (bits o.mod 2 0 + 1)).flatMap fun i => (lanesOf (a.lanes o)).map fun l => 32 * (x + i) + l) []

/-- What an ACCLD brings to its registers from lines from a line on, through a function of a word; ZERO discards. -/
def State.lineLoads (q : State) (a : Actx) (o : Opnds) (x : Nat) (f : Word → Word) : List RegWrite :=
  if o.d = 0xF3#8 then [] else (List.range (bits o.mod 2 0 + 1)).flatMap fun i => (lanesOf (a.lanes o)).map fun l =>
    .lane (o.d.toNat + i) l (f (q.line a.bid (x + i) l))

theorem accLoad_acts (h : s.Counts a o) (line : Actx → Nat) (f : Actx → Word → Word) :
    s.accLoad o line f = .next (s.withLines a (line a) (bits o.mod 2 0 + 1) fun q =>
      ((q.linesRead a o (line a)).startOp a o (.done (q.lineLoads a o (line a) (f a)))).retire a) := by
  simp only [State.accLoad, counted_acts h, State.linesRead, State.lineLoads, line_eq_accNow]

end

end Sys2Proof.Machine
end

section
/-!
PROOF. FRAGLD, and what the instructions over lines and fragments do (O47).
-/
namespace Sys2Proof.Machine
open Sys2Proof

/-! ### FRAGLD at issue (R246, R255) -/

/-- Where a row of a fragment ends in scratchpad. -/
def fragRowEnd (dims : Nat × Nat × Nat × Nat × Nat) (off pitch r : Nat) : Nat :=
  off + r * pitch + upDiv (dims.2.2.2.1 * dims.2.2.2.2) 8

/-- What a FRAGLD brings to its registers; ZERO discards. -/
def State.fragLoads (q : State) (a : Actx) (o : Opnds) (dims : Nat × Nat × Nat × Nat × Nat) (regs off pitch : Nat) : List RegWrite :=
  if o.d = 0xF3#8 then []
  else (List.range (32 * regs)).map fun i => .lane (o.d.toNat + i / 32) (i % 32) (q.fragWord a.bid dims off pitch i)

/-- What a FRAGLD past its registers does: it checks its offset, its pitch and its rows, and reads them in its warp's turn. -/
def State.fragRows (s : State) (a : Actx) (o : Opnds) (dims : Nat × Nat × Nat × Nat × Nat) (regs off pitch : Nat) : State :=
  if off % 4 ≠ 0 then s.raiseAt a Code.misalign 0 (BitVec.ofNat 64 off)
  else if pitch % 4 ≠ 0 then s.raiseAt a Code.misalign 0 (BitVec.ofNat 64 pitch)
  else
    match (List.range dims.2.2.1).find? fun r => decide (fragRowEnd dims off pitch r > s.spadSize a.blk) with
    | some r => s.raiseAt a Code.dfault 0x07 (BitVec.ofNat 64 (off + r * pitch))
    | none => s.behindSpad a fun q =>
      ((q.noteSpad (MemTag.warp a.bid a.wi a.core q.nextId) a.bid (distinct (fragBytes dims off pitch)) []).startOp a o
        (.done (q.fragLoads a o dims regs off pitch))).retire a

section
variable {s : State} {a : Actx} {o : Opnds} {x : Shape} (part : FragPart) (h : s.Counts a o)
include h

theorem fragld_missingLane (hm : a.lanes o ≠ BitVec.allOnes 32) : execFragld part o s = .next (s.raise a Code.illconv 0x01) := by
  simp only [execFragld, counted_acts h, if_pos hm]

variable (hx : a.w.shape (bits o.mod 5 3) = x) (hm : a.lanes o = BitVec.allOnes 32)
include hx hm

theorem fragld_ungranted (hv : x.v = false) : execFragld part o s = .next (s.raise a Code.illconv 0x02) := by
  simp [execFragld, counted_acts h, hm, hx, hv]

variable (hv : x.v = true)
include hv

theorem fragld_changed (hc : x.chg = true) : execFragld part o s = .next (s.raise a Code.shchg (bits o.mod 5 3)) := by
  simp [execFragld, counted_acts h, hm, hx, hv, hc]

variable (hc : x.chg = false) {bs : Nat} (hbs : (if o.m 0 then 16 else 32) = bs)
include hc hbs

theorem fragld_outsideRegisters (hd : o.d ≠ 0xF3#8) (hr : a.w.hasRun o.d.toNat (fragRegs part x bs) = false) :
    execFragld part o s = .next (s.raise a Code.illconv 0x05) := by
  simp [execFragld, counted_acts h, hm, hx, hv, hc, hbs, hd, hr]

theorem fragld_inside (hr : o.d = 0xF3#8 ∨ a.w.hasRun o.d.toNat (fragRegs part x bs) = true)
    (hpm : s.pmatHolds a.bid a.wi (runOf o.d.toNat (fragRegs part x bs)) = false) :
    execFragld part o s = .next (s.fragRows a o (fragDims part x bs) (fragRegs part x bs) (s.scalar a o.a o.sa).toNat
      (s.scalar a o.b o.sb).toNat) := by
  have hr' : (decide (o.d ≠ 0xF3#8) && !a.w.hasRun o.d.toNat (fragRegs part x bs)) = false := by
    rcases hr with hd | hr
    · simp [hd]
    · simp [hr]
  simp only [execFragld, counted_acts h, hm, hx, hv, hc, hbs, hr', hpm, ne_eq, not_true_eq_false, Bool.not_true, Bool.false_eq_true,
    if_false]
  rfl

end

section
variable {s : State} {a : Actx} {o : Opnds} {dims : Nat × Nat × Nat × Nat × Nat} {regs off pitch : Nat}

theorem fragRows_offset (h : off % 4 ≠ 0) : s.fragRows a o dims regs off pitch = s.raiseAt a Code.misalign 0 (BitVec.ofNat 64 off) :=
  if_pos h

variable (ho : off % 4 = 0)
include ho

theorem fragRows_pitch (h : pitch % 4 ≠ 0) :
    s.fragRows a o dims regs off pitch = s.raiseAt a Code.misalign 0 (BitVec.ofNat 64 pitch) := by
  rw [State.fragRows, if_neg (not_not.mpr ho), if_pos h]

variable (hp : pitch % 4 = 0)
include hp

theorem fragRows_beyond {r : Nat} (hr : r < dims.2.2.1) (hbefore : ∀ k, k < r → fragRowEnd dims off pitch k ≤ s.spadSize a.blk)
    (hout : s.spadSize a.blk < fragRowEnd dims off pitch r) :
    s.fragRows a o dims regs off pitch = s.raiseAt a Code.dfault 0x07 (BitVec.ofNat 64 (off + r * pitch)) := by
  have hfind : (List.range dims.2.2.1).find? (fun r => decide (fragRowEnd dims off pitch r > s.spadSize a.blk)) = some r :=
    List.find?_range_eq_some.mpr ⟨decide_eq_true hout, List.mem_range.mpr hr, fun k hk => by simpa using hbefore k hk⟩
  rw [State.fragRows, if_neg (not_not.mpr ho), if_neg (not_not.mpr hp), hfind]

theorem fragRows_inside {q : State} (hq : q = s.spadTurnOf a) (hclear : q.oldestSpad a.bid a.wi = none)
    (hin : ∀ r, r < dims.2.2.1 → fragRowEnd dims off pitch r ≤ s.spadSize a.blk) : s.fragRows a o dims regs off pitch =
      ((q.noteSpad (MemTag.warp a.bid a.wi a.core q.nextId) a.bid (distinct (fragBytes dims off pitch)) []).startOp a o
        (.done (q.fragLoads a o dims regs off pitch))).retire a := by
  subst hq
  have hfind : (List.range dims.2.2.1).find? (fun r => decide (fragRowEnd dims off pitch r > s.spadSize a.blk)) = none :=
    List.find?_eq_none.mpr fun r hr => by simpa using hin r (List.mem_range.mp hr)
  rw [State.fragRows, if_neg (not_not.mpr ho), if_neg (not_not.mpr hp), hfind]
  exact behindSpad_clear hclear _

end

/-! ### The words of a fragment (R255) -/

theorem fragLoads_zero (q : State) (a : Actx) {o : Opnds} (dims : Nat × Nat × Nat × Nat × Nat) (regs off pitch : Nat)
    (h : o.d = 0xF3#8) : q.fragLoads a o dims regs off pitch = [] := if_pos h

section
variable (q : State) (a : Actx) {o : Opnds} (dims : Nat × Nat × Nat × Nat × Nat) (regs off pitch : Nat) (h : o.d ≠ 0xF3#8)
include h

theorem length_fragLoads : (q.fragLoads a o dims regs off pitch).length = 32 * regs := by
  rw [State.fragLoads, if_neg h, List.length_map, List.length_range]

theorem mem_fragLoads {k l : Nat} (hk : k < regs) (hl : l < 32) :
    .lane (o.d.toNat + k) l (q.fragWord a.bid dims off pitch (32 * k + l)) ∈ q.fragLoads a o dims regs off pitch := by
  have hdiv : (32 * k + l) / 32 = k := by omega
  have hmod : (32 * k + l) % 32 = l := by omega
  rw [State.fragLoads, if_neg h]
  exact List.mem_map.mpr ⟨32 * k + l, List.mem_range.mpr (by omega), by rw [hdiv, hmod]⟩

end

/-- An element of an 8-bit fragment: a byte of its row, and 0 beyond the rows and columns in use. -/
def State.fragByte (q : State) (b : Nat) (dims : Nat × Nat × Nat × Nat × Nat) (off pitch idx : Nat) : Byte :=
  let row := idx / dims.2.1
  let col := idx % dims.2.1
  if row < dims.1 ∧ row < dims.2.2.1 ∧ col < dims.2.2.2.1 then BitVec.ofNat 8 (leNat (q.spadRead b (off + row * pitch + col) 1)) else 0#8

theorem extractLsb'_fragWord (q : State) (b : Nat) {dims : Nat × Nat × Nat × Nat × Nat} (hw : dims.2.2.2.2 = 8) (off pitch i : Nat)
    {e : Nat} (he : e < 4) : (q.fragWord b dims off pitch i).extractLsb' (8 * e) 8 = q.fragByte b dims off pitch (i * 4 + e) := by
  obtain ⟨nr, nc, kr, kc, w⟩ := dims
  obtain rfl : w = 8 := hw
  rw [← extractLsb'_fourBytes (fun e => q.fragByte b (nr, nc, kr, kc, 8) off pitch (i * 4 + e)) he]
  have helem : ∀ idx, (q.fragByte b (nr, nc, kr, kc, 8) off pitch idx).toNat =
      if idx / nc < nr ∧ idx / nc < kr ∧ idx % nc < kc then
        leNat (q.spadRead b (off + idx / nc * pitch + idx % nc * 8 / 8) (max 1 (8 / 8))) / 2 ^ (idx % nc * 8 % 8) % 2 ^ 8
      else 0 := by
    intro idx
    rw [State.fragByte]
    dsimp only
    split
    · simp
    · rfl
  simp only [State.fragWord, helem]

/-- Settles O47: each access over lines or scratchpad in its warp's turn, and the words it writes or brings one by one. -/
theorem accumulatorAndFragments : Obligations.AccumulatorAndFragments := by
  refine ⟨?_, ?_⟩
  · intro o s q a b h hq hclear hb hwf m n lo at_ plain placed fits read load
    have hready : ∀ {x n : Nat}, fits x n → s.LinesReady a x n q := fun hfit => ⟨hq, hclear, hfit.1, hfit.2⟩
    refine ⟨fun hl => ?_, fun hl hpx => ?_, fun hl hfl => ⟨?_, ?_, fun hp => ?_⟩, fun hl hfl => ?_, fun hfit => ?_, fun hfit hpx => ?_,
      fun hfit hfl hp hsp => ?_, fun hfit hfl => ⟨?_, ?_⟩, fun hfit hfl => ?_⟩
    · rw [exec_accz, execAccz_acts h, withLines_beyond hl]
    · rw [exec_accst, execAccst_plain h (accPx_none hpx), withLines_beyond hl]
    · rw [exec_accld, execAccld, accLoad_acts ⟨h, hfl⟩, withLines_beyond hl]
    · rw [exec_accldDec, execAccldDec, accLoad_acts ⟨h, hfl⟩, withLines_beyond hl]
    · rw [exec_accstSp, execAccstSp_placed ⟨h, hfl⟩ hp.1 hp.2, withLines_beyond hl]
    · rw [exec_accldTscale, execAccldTscale, accLoad_acts ⟨h, hfl⟩, withLines_beyond hl]
    · rw [exec_accz, execAccz_acts h, withLines_ready (hready hfit)]
      refine ⟨_, rfl, wordsWritten_rest q a _, fun x l hl => line_wordsWritten hb hwf fun u => ?_⟩
      rw [mem_zeroLines hl, ← Nat.add_assoc, Nat.lt_succ_iff]
    · rw [exec_accst, execAccst_plain h (accPx_none hpx), withLines_ready (hready hfit)]
      exact ⟨_, rfl, wordsWritten_rest q a _, fun x l hl => line_wordsWritten hb hwf fun u => mem_lineWords hl⟩
    · rw [exec_accstSp, execAccstSp_placed ⟨h, hfl⟩ hp.1 hp.2, withLines_ready (hready hfit)]
      refine ⟨_, rfl, fun x => ?_, fun x hx => ?_⟩
      · have hword : 32 * (lo + x / 32) + x % 32 = 32 * lo + x := by omega
        rw [spadRead_imageStored hb]
        split
        next hx => rw [spadBytes_words_inside hsp _ _ _ hx, leNat_leBytes_word, line_eq_accNow, hword]
        next hx => rw [spadBytes_words_outside hsp _ _ _ (.inr (by omega)), spadRead_of_block hb]
      · rw [spadRead_imageStored hb, spadBytes_words_outside hsp _ _ _ (.inl hx), spadRead_of_block hb]
    · rw [exec_accld, execAccld, accLoad_acts ⟨h, hfl⟩, withLines_ready (hready hfit)]
      rfl
    · rw [exec_accldDec, execAccldDec, accLoad_acts ⟨h, hfl⟩, withLines_ready (hready hfit)]
      rfl
    · rw [exec_accldTscale, execAccldTscale, accLoad_acts ⟨h, hfl⟩, withLines_ready (hready hfit)]
      rfl
  · intro part o s q a h hfl hq hclear n x bs off pitch dims regs rowEnd
    have hc : s.Counts a o := ⟨h, hfl⟩
    rw [exec_fragld]
    refine ⟨fragld_missingLane part hc, fragld_ungranted part hc rfl, fragld_changed part hc rfl,
      fun hm hv hchg hd hr => fragld_outsideRegisters part hc rfl hm hv hchg rfl hd hr, fun hm hv hchg hr hpm => ?_⟩
    rw [fragld_inside part hc (x := x) rfl hm hv hchg (bs := bs) rfl hr hpm]
    refine ⟨fun ho => congrArg _ (fragRows_offset ho), fun ho hp => congrArg _ (fragRows_pitch ho hp),
      fun r ho hp hr hbefore hout => congrArg _ (fragRows_beyond ho hp hr hbefore hout), fun ho hp hin =>
      ⟨q.fragLoads a o dims regs off pitch, congrArg _ (fragRows_inside ho hp hq hclear hin), fragLoads_zero q a dims regs off pitch,
        fun hd => ⟨length_fragLoads q a dims regs off pitch hd, fun k l hk hl => ⟨_, mem_fragLoads q a dims regs off pitch hd hk hl,
          fun hw e he => extractLsb'_fragWord q a.bid hw off pitch _ he⟩⟩⟩⟩

end Sys2Proof.Machine
end

section
/-!
PROOF. Every lane stays in one place when paths split and meet (O20).
-/
namespace Sys2Proof.Machine
open Sys2Proof

/-! ### Counting the places of a lane (R61) -/

/-- 1 for a lane of the mask, else 0. -/
def laneCount (m : Mask) (l : Nat) : Nat := if m.getLsbD l then 1 else 0

/-- 1 for a lane of the path of a slot, else 0. -/
def slotCount (p : Option Path) (l : Nat) : Nat :=
  match p with
  | some p => laneCount p.mask l
  | none => 0

/-- The lanes that an entry of the divergence stack keeps: those of a suspended path, or those that have arrived. -/
def StackEntry.lanes : StackEntry → Mask
  | .path p => p.mask
  | .join r => r.arrived

def stackCount (st : List StackEntry) (l : Nat) : Nat := (st.map fun e => laneCount e.lanes l).sum

theorem places_eq (w : Warp) (l : Nat) :
    w.places l = slotCount w.path0 l + slotCount w.path1 l + laneCount w.exited l + stackCount w.stack l := by
  have hentry : (fun e : StackEntry => laneCount e.lanes l) = fun e => match e with
      | .path p => if p.mask.getLsbD l then 1 else 0
      | .join r => if r.arrived.getLsbD l then 1 else 0 := by
    funext e
    cases e <;> rfl
  simp only [stackCount, hentry]
  unfold Warp.places
  cases w.path0 <;> cases w.path1 <;> rfl

@[simp] theorem stackCount_nil (l : Nat) : stackCount [] l = 0 := rfl

@[simp] theorem stackCount_cons (e : StackEntry) (st : List StackEntry) (l : Nat) :
    stackCount (e :: st) l = laneCount e.lanes l + stackCount st l := by simp [stackCount]

@[simp] theorem stackCount_append (st st' : List StackEntry) (l : Nat) :
    stackCount (st ++ st') l = stackCount st l + stackCount st' l := by simp [stackCount]

theorem laneCount_or {m n : Mask} {l : Nat} (h : laneCount m l + laneCount n l ≤ 1) :
    laneCount (m ||| n) l = laneCount m l + laneCount n l := by
  simp only [laneCount, BitVec.getLsbD_or] at *
  cases hm : m.getLsbD l <;> cases hn : n.getLsbD l <;> simp_all

theorem laneCount_zero (l : Nat) : laneCount 0#32 l = 0 := by simp [laneCount]

/-- Two masks without a common lane. -/
theorem laneCount_disjoint {m n : Mask} (h : m &&& n = 0#32) (l : Nat) : laneCount m l + laneCount n l ≤ 1 := by
  have hl := congrArg (·.getLsbD l) h
  simp only [BitVec.getLsbD_and, BitVec.getLsbD_zero] at hl
  simp only [laneCount]
  cases hm : m.getLsbD l <;> cases hn : n.getLsbD l <;> simp_all

/-- A mask less some of its own lanes. -/
theorem laneCount_sdiff {m n : Mask} {l : Nat} (h : m &&& ~~~n = 0#32) (hl : l < 32) :
    laneCount (n &&& ~~~m) l + laneCount m l = laneCount n l := by
  have h' := congrArg (·.getLsbD l) h
  simp only [BitVec.getLsbD_and, BitVec.getLsbD_not, BitVec.getLsbD_zero, hl, decide_true, Bool.true_and] at h'
  simp only [laneCount, BitVec.getLsbD_and, BitVec.getLsbD_not, hl, decide_true, Bool.true_and]
  cases hm : m.getLsbD l <;> cases hn : n.getLsbD l <;> simp_all

/-! ### The identities of the open records -/

def joinIds (st : List StackEntry) : List Nat := st.filterMap fun e => match e with | .join r => some r.id | .path _ => none

theorem mem_joinIds {st : List StackEntry} {i : Nat} : i ∈ joinIds st ↔ ∃ r, StackEntry.join r ∈ st ∧ r.id = i := by
  simp only [joinIds, List.mem_filterMap]
  constructor
  · rintro ⟨_ | p, he, hi⟩
    · exact ⟨_, he, by simpa using hi⟩
    · simp at hi
  · rintro ⟨r, hr, rfl⟩
    exact ⟨_, hr, rfl⟩

theorem joinsOk_iff (w : Warp) : w.joinsOk ↔ (joinIds w.stack).Nodup ∧ ∀ i ∈ joinIds w.stack, i < w.nextJoin := by
  refine and_congr Iff.rfl ⟨fun h i hi => ?_, fun h r hr => h _ (mem_joinIds.2 ⟨r, hr, rfl⟩)⟩
  obtain ⟨r, hr, rfl⟩ := mem_joinIds.1 hi
  exact h r hr

theorem joinsOk_mono {w w' : Warp} (h : w.joinsOk) (hids : (joinIds w'.stack).Sublist (joinIds w.stack))
    (hnext : w.nextJoin ≤ w'.nextJoin) : w'.joinsOk := by
  rw [joinsOk_iff] at *
  obtain ⟨hnodup, hlt⟩ := h
  exact ⟨hnodup.sublist hids, fun i hi => (hlt i (hids.subset hi)).trans_le hnext⟩

@[simp] theorem joinIds_cons_path (p : Path) (st : List StackEntry) : joinIds (.path p :: st) = joinIds st := rfl
@[simp] theorem joinIds_cons_join (r : JoinRec) (st : List StackEntry) : joinIds (.join r :: st) = r.id :: joinIds st := rfl
@[simp] theorem joinIds_append (st st' : List StackEntry) : joinIds (st ++ st') = joinIds st ++ joinIds st' :=
  List.filterMap_append

/-- An open record stands in the stack. -/
theorem mem_of_joinRec? {w : Warp} {j : Nat} {r : JoinRec} (h : w.joinRec? j = some r) : StackEntry.join r ∈ w.stack ∧ r.id = j := by
  obtain ⟨e, he, hr⟩ := List.exists_of_findSome?_eq_some h
  cases e with
  | path p => simp at hr
  | join q =>
    simp only [Option.ite_none_right_eq_some, Option.some.injEq] at hr
    obtain ⟨hid, rfl⟩ := hr
    exact ⟨he, hid⟩

/-- The record of an identity stands once in the stack: what lies above and below it has other identities. -/
theorem stack_eq_of_joinRec? {w : Warp} {j : Nat} {r : JoinRec} (hok : w.joinsOk) (h : w.joinRec? j = some r) :
    r.id = j ∧ ∃ above below, w.stack = above ++ .join r :: below ∧ j ∉ joinIds above ∧ j ∉ joinIds below := by
  obtain ⟨hmem, hid⟩ := mem_of_joinRec? h
  obtain ⟨above, below, hst⟩ := List.append_of_mem hmem
  refine ⟨hid, above, below, hst, ?_⟩
  have hnodup := ((joinsOk_iff w).1 hok).1
  rw [hst, joinIds_append, joinIds_cons_join, hid, List.nodup_append] at hnodup
  obtain ⟨-, hbelow, hapart⟩ := hnodup
  exact ⟨fun ha => hapart _ ha _ (by simp) rfl, (List.nodup_cons.1 hbelow).1⟩

/-- An entry after the record of its identity was written anew as `q`. -/
def StackEntry.renewed (q : JoinRec) : StackEntry → StackEntry
  | .join x => if x.id = q.id then .join q else .join x
  | .path p => .path p

/-- The entry is no record of the identity `j`. -/
def StackEntry.isNot (j : Nat) : StackEntry → Bool
  | .join x => x.id != j
  | .path _ => true

theorem setJoin_stack_eq (w : Warp) (q : JoinRec) : (w.setJoin q).stack = w.stack.map (StackEntry.renewed { q with seq := w.nextJoin }) :=
  List.map_congr_left fun e _ => by cases e <;> rfl

theorem dropJoin_stack_eq (w : Warp) (j : Nat) : (w.dropJoin j).stack = w.stack.filter (StackEntry.isNot j) :=
  List.filter_congr fun e _ => by cases e <;> rfl

theorem map_renewed_of_notMem {st : List StackEntry} {q : JoinRec} (h : q.id ∉ joinIds st) : st.map (StackEntry.renewed q) = st := by
  conv_rhs => rw [← List.map_id st]
  refine List.map_congr_left fun e he => ?_
  cases e with
  | path p => rfl
  | join x => exact if_neg fun hx => h (mem_joinIds.2 ⟨x, he, hx⟩)

theorem filter_isNot_of_notMem {st : List StackEntry} {j : Nat} (h : j ∉ joinIds st) : st.filter (StackEntry.isNot j) = st := by
  refine List.filter_eq_self.2 fun e he => ?_
  cases e with
  | path p => rfl
  | join x => exact bne_iff_ne.2 fun hx => h (mem_joinIds.2 ⟨x, he, hx⟩)

section
variable {w : Warp} {r : JoinRec} {above below : List StackEntry}

theorem setJoin_stack {q : JoinRec} (hst : w.stack = above ++ .join r :: below) (hid : q.id = r.id)
    (ha : r.id ∉ joinIds above) (hb : r.id ∉ joinIds below) :
    (w.setJoin q).stack = above ++ .join { q with seq := w.nextJoin } :: below := by
  rw [← hid] at ha hb
  rw [setJoin_stack_eq, hst, List.map_append, List.map_cons, map_renewed_of_notMem (by exact ha), map_renewed_of_notMem (by exact hb),
    StackEntry.renewed, if_pos hid.symm]

theorem dropJoin_stack (hst : w.stack = above ++ .join r :: below) (ha : r.id ∉ joinIds above) (hb : r.id ∉ joinIds below) :
    (w.dropJoin r.id).stack = above ++ below := by
  simp only [dropJoin_stack_eq, hst, List.filter_append, List.filter_cons, filter_isNot_of_notMem ha, filter_isNot_of_notMem hb,
    StackEntry.isNot, bne_self_eq_false, Bool.false_eq_true, if_false]

end

/-! ### What each move does to the places of a lane -/

theorem places_setPath (w : Warp) {slot : Nat} (p : Option Path) (l : Nat) :
    (w.setPath slot p).places l + slotCount (w.path slot) l = w.places l + slotCount p l := by
  simp only [places_eq, Warp.setPath_exited, Warp.setPath_stack]
  unfold Warp.setPath Warp.path
  split <;> dsimp only <;> omega

theorem slotCount_le_places (w : Warp) (slot l : Nat) : slotCount (w.path slot) l + stackCount w.stack l ≤ w.places l := by
  rw [places_eq, Warp.path]
  split <;> omega

theorem places_pushPath (w : Warp) (p : Path) (l : Nat) : (w.pushPath p).places l = w.places l + laneCount p.mask l := by
  simp only [places_eq, Warp.pushPath, stackCount_cons, StackEntry.lanes]
  omega

theorem joinsOk_setPath {w : Warp} (slot : Nat) (p : Option Path) (h : w.joinsOk) : (w.setPath slot p).joinsOk :=
  joinsOk_mono h (by simp) (by simp)

theorem joinsOk_pushPath {w : Warp} (p : Path) (h : w.joinsOk) : (w.pushPath p).joinsOk :=
  joinsOk_mono h (by simp [Warp.pushPath]) (Nat.le_succ _)

theorem popPath_some : ∀ {st t : List StackEntry} {p : Path}, popPath st = some (p, t) →
    joinIds t = joinIds st ∧ ∀ l, stackCount t l + laneCount p.mask l = stackCount st l
  | .path q :: st, t, p, h => by
    obtain ⟨rfl, rfl⟩ : q = p ∧ st = t := by simpa [popPath] using h
    exact ⟨rfl, fun l => by simp only [stackCount_cons, StackEntry.lanes]; omega⟩
  | .join r :: st, t, p, h => by
    simp only [popPath, Option.map_eq_some_iff, Prod.mk.injEq, Prod.exists] at h
    obtain ⟨q, t', hpop, rfl, rfl⟩ := h
    obtain ⟨hids, hcount⟩ := popPath_some hpop
    exact ⟨by simp [hids], fun l => by have := hcount l; simp only [stackCount_cons]; omega⟩

theorem refillSlot_keeps (w : Warp) (slot : Nat) :
    (∀ l, (w.refillSlot slot).places l = w.places l) ∧ (w.joinsOk → (w.refillSlot slot).joinsOk) := by
  unfold Warp.refillSlot
  split
  next p t hfree hpop =>
    obtain ⟨hids, hcount⟩ := popPath_some hpop
    refine ⟨fun l => ?_, fun h => joinsOk_setPath _ _ (joinsOk_mono h (hids ▸ List.Sublist.refl _) le_rfl)⟩
    have hset := places_setPath { w with stack := t } (slot := slot) (some { p with seq := 0 }) l
    have hfree' : Warp.path { w with stack := t } slot = none := hfree
    have := hcount l
    rw [hfree'] at hset
    simp only [places_eq, slotCount] at hset ⊢
    omega
  next => exact ⟨fun _ => rfl, id⟩

theorem refill_keeps (w : Warp) : (∀ l, w.refill.places l = w.places l) ∧ (w.joinsOk → w.refill.joinsOk) := by
  obtain ⟨hp0, hj0⟩ := refillSlot_keeps w 0
  obtain ⟨hp1, hj1⟩ := refillSlot_keeps (w.refillSlot 0) 1
  exact ⟨fun l => (hp1 l).trans (hp0 l), fun h => hj1 (hj0 h)⟩

theorem removeLanes_stack (w : Warp) (slot : Nat) (m : Mask) :
    (w.removeLanes slot m).stack = w.stack ∧ (w.removeLanes slot m).nextJoin = w.nextJoin ∧ (w.removeLanes slot m).exited = w.exited := by
  unfold Warp.removeLanes
  split
  next => exact ⟨rfl, rfl, rfl⟩
  next => dsimp only; split <;> simp

theorem places_removeLanes {w : Warp} {slot : Nat} {p : Path} {m : Mask} (hp : w.path slot = some p) (hm : m &&& ~~~p.mask = 0#32)
    {l : Nat} (hl : l < 32) : (w.removeLanes slot m).places l + laneCount m l = w.places l := by
  have hsub := laneCount_sdiff hm hl
  simp only [Warp.removeLanes, hp]
  split
  next hall =>
    have hset := places_setPath w (slot := slot) none l
    rw [hall, laneCount_zero] at hsub
    simp only [hp, slotCount] at hset
    omega
  next =>
    have hset := places_setPath w (slot := slot) (some { p with mask := p.mask &&& ~~~m }) l
    simp only [hp, slotCount] at hset
    omega

theorem joinsOk_removeLanes {w : Warp} (slot : Nat) (m : Mask) (h : w.joinsOk) : (w.removeLanes slot m).joinsOk := by
  obtain ⟨hstack, hnext, -⟩ := removeLanes_stack w slot m
  exact joinsOk_mono h (by rw [hstack]) hnext.ge

/-- A record whose lanes the path takes over goes, and its path takes a slot or goes onto the stack (R64). -/
theorem complete_keeps {w : Warp} {slot : Nat} {r q : JoinRec} (hok : w.joinsOk) (hq : w.joinRec? r.id = some q) :
    (w.complete slot r).joinsOk ∧ ∀ l, (w.complete slot r).places l + laneCount q.arrived l = w.places l + laneCount r.mask l := by
  obtain ⟨hid, above, below, hst, ha, hb⟩ := stack_eq_of_joinRec? hok hq
  have hdrop : (w.dropJoin r.id).stack = above ++ below := by
    rw [← hid] at ha hb ⊢
    exact dropJoin_stack hst ha hb
  have hdropOk : (w.dropJoin r.id).joinsOk := joinsOk_mono hok (by rw [hdrop, hst]; simp) le_rfl
  have hcount (l : Nat) : (w.dropJoin r.id).places l + laneCount q.arrived l = w.places l := by
    simp only [places_eq, hdrop, hst, stackCount_append, stackCount_cons, StackEntry.lanes]
    simp only [Warp.dropJoin]
    omega
  have hset {k : Nat} (hk : ((w.dropJoin r.id).path k).isNone = true) (l : Nat) :
      ((w.dropJoin r.id).setPath k (some (Path.at r.rejoin r.mask r.parent))).places l = (w.dropJoin r.id).places l + laneCount r.mask l := by
    have := places_setPath (w.dropJoin r.id) (slot := k) (some (Path.at r.rejoin r.mask r.parent)) l
    rw [Option.isNone_iff_eq_none.1 hk] at this
    simpa [slotCount, Path.at] using this
  unfold Warp.complete
  dsimp only
  split
  next hk => exact ⟨joinsOk_setPath _ _ hdropOk, fun l => by have := hset hk l; have := hcount l; omega⟩
  next =>
    split
    next hk => exact ⟨joinsOk_setPath _ _ hdropOk, fun l => by have := hset hk l; have := hcount l; omega⟩
    next =>
      refine ⟨joinsOk_pushPath _ hdropOk, fun l => ?_⟩
      have := hcount l
      rw [places_pushPath]
      simp only [Path.at]
      omega

/-! ### Splits, arrivals and exits -/

/-- A join record is opened. -/
def Warp.pushJoin (w : Warp) (r : JoinRec) : Warp := { w with stack := .join r :: w.stack, nextJoin := w.nextJoin + 1 }

/-- The record that a split of the path `p` opens, at which no lane has arrived (R63). -/
def Warp.splitRec (w : Warp) (p : Path) (rejoin : DWord) : JoinRec :=
  { id := w.nextJoin, seq := w.nextJoin, rejoin := rejoin, mask := p.mask, arrived := 0#32, parent := p.join, call := false }

/-- The warp of a split whose record is open and whose first group has the slot (R63). -/
def Warp.opened (w : Warp) (slot : Nat) (p : Path) (pc0 : DWord) (m0 : Mask) (rejoin : DWord) : Warp :=
  (w.pushJoin (w.splitRec p rejoin)).setPath slot (some (Path.at pc0 m0 (some w.nextJoin)))

theorem split_two {w : Warp} {slot : Nat} {p : Path} (hp : w.path slot = some p) (pc0 pc1 rejoin : DWord) (m0 m1 : Mask) :
    w.split slot [(pc0, m0), (pc1, m1)] rejoin =
      (match (w.opened slot p pc0 m0 rejoin).path (1 - slot) with
        | some q => (w.opened slot p pc0 m0 rejoin).pushPath q
        | none => w.opened slot p pc0 m0 rejoin).setPath (1 - slot) (some (Path.at pc1 m1 (some w.nextJoin))) := by
  unfold Warp.split
  rw [hp]
  rfl

theorem joinsOk_opened {w : Warp} (slot : Nat) (p : Path) (pc0 : DWord) (m0 : Mask) (rejoin : DWord) (hjoins : w.joinsOk) :
    (w.opened slot p pc0 m0 rejoin).joinsOk := by
  refine joinsOk_setPath _ _ ?_
  rw [joinsOk_iff] at hjoins ⊢
  obtain ⟨hnodup, hlt⟩ := hjoins
  refine ⟨List.nodup_cons.2 ⟨fun hmem => absurd (hlt _ hmem) (lt_irrefl _), hnodup⟩, fun i hi => ?_⟩
  obtain rfl | hi := List.mem_cons.1 hi
  · exact Nat.lt_succ_self _
  · exact (hlt i hi).trans (Nat.lt_succ_self _)

theorem places_opened {w : Warp} {slot : Nat} {p : Path} (hp : w.path slot = some p) (pc0 : DWord) (m0 : Mask) (rejoin : DWord) (l : Nat) :
    (w.opened slot p pc0 m0 rejoin).places l + laneCount p.mask l = w.places l + laneCount m0 l := by
  have hset := places_setPath (w.pushJoin (w.splitRec p rejoin)) (slot := slot) (some (Path.at pc0 m0 (some w.nextJoin))) l
  have hpath : (w.pushJoin (w.splitRec p rejoin)).path slot = some p := hp
  have hpush : (w.pushJoin (w.splitRec p rejoin)).places l = w.places l := by
    simp only [places_eq, Warp.pushJoin, stackCount_cons, StackEntry.lanes, Warp.splitRec, laneCount_zero, Nat.zero_add]
  rw [hpath, hpush] at hset
  exact hset

theorem split_keeps {w : Warp} {slot : Nat} {p : Path} {m0 m1 : Mask} (hlanes : w.lanesOk) (hjoins : w.joinsOk)
    (hp : w.path slot = some p) (hor : m0 ||| m1 = p.mask) (hand : m0 &&& m1 = 0#32) (pc0 pc1 rejoin : DWord) :
    (w.split slot [(pc0, m0), (pc1, m1)] rejoin).lanesOk ∧ (w.split slot [(pc0, m0), (pc1, m1)] rejoin).joinsOk := by
  rw [split_two hp]
  have hopen := joinsOk_opened slot p pc0 m0 rejoin hjoins
  have hcount := places_opened hp pc0 m0 rejoin
  have hmask (l : Nat) : laneCount p.mask l = laneCount m0 l + laneCount m1 l := hor ▸ laneCount_or (laneCount_disjoint hand l)
  generalize w.opened slot p pc0 m0 rejoin = w1 at hopen hcount ⊢
  have hset (v : Warp) (l : Nat) := places_setPath v (slot := 1 - slot) (some (Path.at pc1 m1 (some w.nextJoin))) l
  cases hq : w1.path (1 - slot) with
  | none =>
    refine ⟨fun l hl => ?_, joinsOk_setPath _ _ hopen⟩
    have hone := hlanes l hl
    have h1 := hset w1 l
    rw [hq] at h1
    have h2 := hcount l
    rw [hmask l] at h2
    simp only [slotCount, Path.at] at h1 ⊢
    omega
  | some q =>
    refine ⟨fun l hl => ?_, joinsOk_setPath _ _ (joinsOk_pushPath _ hopen)⟩
    have hone := hlanes l hl
    have hq' : (w1.pushPath q).path (1 - slot) = some q := hq
    have h1 := hset (w1.pushPath q) l
    rw [hq', places_pushPath] at h1
    have h2 := hcount l
    rw [hmask l] at h2
    simp only [slotCount, Path.at] at h1 ⊢
    omega

theorem joinRec?_of_stack {w : Warp} {q : JoinRec} {above below : List StackEntry} (hst : w.stack = above ++ .join q :: below)
    (ha : q.id ∉ joinIds above) : w.joinRec? q.id = some q := by
  have hnone : (above.findSome? fun e => match e with | .join r => if r.id = q.id then some r else none | .path _ => none) = none := by
    rw [List.findSome?_eq_none_iff]
    intro e he
    cases e with
    | path p => rfl
    | join x => exact if_neg fun hx => ha (mem_joinIds.2 ⟨x, he, hx⟩)
  rw [Warp.joinRec?, hst, List.findSome?_append]
  refine (congrArg (Option.or · _) hnone).trans ?_
  simp

/-- Lanes that arrive leave the path and are counted at the record; a full record gives its lanes to its own path (R64). -/
theorem arriveAt_keeps {w : Warp} {slot j : Nat} {p : Path} {m : Mask} (hlanes : w.lanesOk) (hjoins : w.joinsOk)
    (hp : w.path slot = some p) (hj : (w.joinRec? j).isSome = true) (hm : m &&& ~~~p.mask = 0#32) :
    (w.arriveAt slot j m).lanesOk ∧ (w.arriveAt slot j m).joinsOk := by
  obtain ⟨r, hr⟩ := Option.isSome_iff_exists.1 hj
  obtain ⟨hid, above, below, hst, ha, hb⟩ := stack_eq_of_joinRec? hjoins hr
  subst hid
  set q : JoinRec := { r with arrived := r.arrived ||| m } with hq
  have hnew : (w.setJoin q).stack = above ++ .join { q with seq := w.nextJoin } :: below := setJoin_stack hst rfl ha hb
  have hnewOk : (w.setJoin q).joinsOk := joinsOk_mono hjoins (by rw [hnew, hst]; simp [hq]) (Nat.le_succ _)
  obtain ⟨hstack, -, -⟩ := removeLanes_stack (w.setJoin q) slot m
  set w1 := (w.setJoin q).removeLanes slot m with hw1
  have hok1 : w1.joinsOk := joinsOk_removeLanes slot m hnewOk
  have hlanes1 : w1.lanesOk := by
    intro l hl
    have hone := hlanes l hl
    have hat := slotCount_le_places w slot l
    have hrem := places_removeLanes (w := w.setJoin q) (p := p) hp hm hl
    have hsub := laneCount_sdiff hm hl
    have hset : (w.setJoin q).places l + laneCount r.arrived l = w.places l + laneCount q.arrived l := by
      simp only [places_eq, hnew, hst, stackCount_append, stackCount_cons, StackEntry.lanes]
      simp only [Warp.setJoin]
      omega
    rw [hp, hst] at hat
    simp only [stackCount_append, stackCount_cons, StackEntry.lanes, slotCount] at hat
    have hor : laneCount q.arrived l = laneCount r.arrived l + laneCount m l := laneCount_or (by omega)
    rw [← hw1] at hrem
    omega
  have hrec : w1.joinRec? q.id = some { q with seq := w.nextJoin } :=
    joinRec?_of_stack (q := { q with seq := w.nextJoin }) (hstack.trans hnew) ha
  have hdone : (if q.arrived = q.mask then w1.complete slot q else w1).lanesOk ∧ (if q.arrived = q.mask then w1.complete slot q else w1).joinsOk := by
    split
    next hfull =>
      obtain ⟨hcomplete, hcount⟩ := complete_keeps (slot := slot) hok1 hrec
      refine ⟨fun l hl => ?_, hcomplete⟩
      have hone := hlanes1 l hl
      have hc := hcount l
      rw [← hfull] at hc
      dsimp only at hc
      omega
    next => exact ⟨hlanes1, hok1⟩
  have harrive : w.arriveAt slot r.id m = (if q.arrived = q.mask then w1.complete slot q else w1).refill := by
    rw [Warp.arriveAt, hr]
  obtain ⟨hplaces, hrefill⟩ := refill_keeps (if q.arrived = q.mask then w1.complete slot q else w1)
  rw [harrive]
  exact ⟨fun l hl => (hplaces l).trans (hdone.1 l hl), hrefill hdone.2⟩

/-- Without a record to leave, the lanes that are gone make room for suspended paths (R65). -/
theorem leave_none (w : Warp) (slot : Nat) (m : Mask) : w.leave slot m none none = w.refill := by
  have hchain : w.chain (w.stack.length + 1) none none = [] := by rw [Warp.chain]
  rw [Warp.leave, hchain]
  rfl

theorem exit_keeps {w : Warp} {slot : Nat} {p : Path} {m : Mask} (hlanes : w.lanesOk) (hp : w.path slot = some p)
    (hm : m &&& ~~~p.mask = 0#32) : (({ w.removeLanes slot m with exited := w.exited ||| m } : Warp).leave slot m none none).lanesOk := by
  intro l hl
  obtain ⟨hplaces, -⟩ := refill_keeps ({ w.removeLanes slot m with exited := w.exited ||| m } : Warp)
  rw [leave_none, hplaces]
  obtain ⟨hstack, -, hexited⟩ := removeLanes_stack w slot m
  have hone := hlanes l hl
  have hsub := laneCount_sdiff hm hl
  have hrem := places_removeLanes hp hm hl
  have hor : laneCount (w.exited ||| m) l = laneCount w.exited l + laneCount m l := by
    refine laneCount_or ?_
    rw [places_eq] at hone
    have hat : laneCount p.mask l ≤ slotCount w.path0 l + slotCount w.path1 l := by
      unfold Warp.path at hp
      split at hp <;> simp [hp, slotCount]
    omega
  simp only [places_eq, hexited] at hrem hone ⊢
  omega

/-- Settles O20: each move takes a lane from one place and puts it in another. -/
theorem lanesKeepOnePlace : Obligations.LanesKeepOnePlace := by
  intro w hlanes hjoins
  obtain ⟨hrefillPlaces, hrefillJoins⟩ := refill_keeps w
  exact ⟨fun slot p pc0 pc1 rejoin m0 m1 _ hp hor hand => split_keeps hlanes hjoins hp hor hand pc0 pc1 rejoin,
    fun slot j p m _ hp hj hm => arriveAt_keeps hlanes hjoins hp hj hm, fun l hl => (hrefillPlaces l).trans (hlanes l hl),
    hrefillJoins hjoins, fun slot p m _ hp _ hm => exit_keeps hlanes hp hm⟩

end Sys2Proof.Machine
end

section
/-!
PROOF. Branches, calls, returns, exits and traps by design: how they move the paths of their warp (O18, O19, O22).
-/
namespace Sys2Proof.Machine
open Sys2Proof

/-! ### Views and moves of a warp -/

theorem actxAt_eq_some {s : State} {b wi slot : Nat} {a : Actx} (h : s.actxAt b wi slot = some a) :
    a.bid = b ∧ a.wi = wi ∧ a.slot = slot ∧ s.warp? b wi = some (a.blk, a.w) ∧ a.w.path slot = some a.p ∧ a.blk.core? = some a.core := by
  unfold State.actxAt at h
  split at h
  next => simp at h
  next blk w hw =>
    split at h
    next p c hp hc =>
      obtain rfl := Option.some.inj h
      exact ⟨rfl, rfl, rfl, hw, hp, hc⟩
    next => simp at h

theorem actx_eq_some {s : State} {a : Actx} (h : s.actx = some a) :
    s.actxAt a.bid a.wi a.slot = some a ∧ s.warp? a.bid a.wi = some (a.blk, a.w) ∧ a.w.path a.slot = some a.p ∧ a.blk.core? = some a.core := by
  unfold State.actx at h
  split at h
  next b wi slot _ =>
    obtain ⟨rfl, rfl, rfl, hw, hp, hc⟩ := actxAt_eq_some h
    exact ⟨h, hw, hp, hc⟩
  next => simp at h

/-- A move that has room, whose spills and fills translate, and that waits for no CSRW, gives the moved paths (R63, R67). -/
theorem moveWarp_movesTo {s t : State} {a : Actx} {extra : Nat} {f : Warp → Warp} (h : s.MovesTo a extra f t) :
    s.moveWarp a extra f = t := by
  obtain ⟨hroom, hcsrw, s1, hspill, rfl⟩ := h
  have hfree : ¬((decide (extra ≥ 2) && s.csrwPends a.bid a.wi (1 - a.slot)) = true) := by
    simp only [Bool.and_eq_true, decide_eq_true_eq, not_and, Bool.not_eq_true]
    exact hcsrw
  rw [State.moveWarp, if_neg (by omega), if_neg hfree, hspill]

/-! ### Masks of lanes -/

theorem getLsbD_maskOf_foldl : ∀ (ls : List Nat) (m : Mask) (l : Nat), l < 32 →
    (ls.foldl (fun m l => m ||| BitVec.twoPow 32 l) m).getLsbD l = (m.getLsbD l || decide (l ∈ ls))
  | [], m, l, _ => by simp
  | x :: xs, m, l, hl => by
    rw [List.foldl_cons, getLsbD_maskOf_foldl xs _ l hl, BitVec.getLsbD_or, BitVec.getLsbD_twoPow]
    by_cases hx : x = l <;> simp [hx, hl, Ne.symm]

theorem getLsbD_maskOf (ls : List Nat) {l : Nat} (hl : l < 32) : (maskOf ls).getLsbD l = decide (l ∈ ls) := by
  rw [maskOf, getLsbD_maskOf_foldl ls _ l hl, BitVec.getLsbD_zero, Bool.false_or]

theorem getLsbD_refMask (m : Mask) (f : Nat → Bool) {l : Nat} (hl : l < 32) : (Ref.mask m f).getLsbD l = (m.getLsbD l && f l) := by
  rw [BitVec.getLsbD_eq_getElem hl, Ref.mask, getElem_refWord]

/-- The lanes of a mask that a test selects. -/
theorem maskOf_filter_lanesOf (m : Mask) (f : Nat → Bool) : maskOf ((lanesOf m).filter f) = Ref.mask m f := by
  refine BitVec.eq_of_getLsbD_eq fun l hl => ?_
  rw [getLsbD_maskOf _ hl, getLsbD_refMask m f hl, Bool.eq_iff_iff]
  simp [mem_lanesOf]

theorem lanesOf_sorted (m : Mask) : (lanesOf m).Pairwise (· < ·) := List.pairwise_lt_range.filter _

theorem lt_of_mem_lanesOf {m : Mask} {l : Nat} (h : l ∈ lanesOf m) : l < 32 := BitVec.lt_of_getLsbD (mem_lanesOf.1 h)

theorem lanesOf_eq_nil {m : Mask} : lanesOf m = [] ↔ m = 0#32 := by
  constructor
  · intro h
    refine BitVec.eq_of_getLsbD_eq fun l _ => ?_
    rw [BitVec.getLsbD_zero, ← Bool.not_eq_true, ← mem_lanesOf, h]
    simp
  · rintro rfl
    decide

/-! ### The guard of a branch (R73, R74) -/

/-- The requests for the bits of proxy predicates, one to the home of each (R74). -/
def State.askBits (s : State) (a : Actx) (px : List (Nat × Word)) : State :=
  px.foldl (fun s x => s.pushReq a.core (pxHome x.2) a.blk.ctx a.bid a.wi a.slot (.cross (pxSlot x.2) x.1)) s

theorem askBits_spec (a : Actx) : ∀ (px : List (Nat × Word)) (s : State), (s.askBits a px).blocks = s.blocks ∧
    ∃ ds, (s.askBits a px).pxReqs = s.pxReqs ++ ds ∧
      (∀ r ∈ ds, r.block = a.bid ∧ r.warp = a.wi ∧ r.pathSlot = a.slot ∧ r.served = false) ∧
      (ds.map fun r => (r.home, r.kind)) = px.map fun x => (pxHome x.2, .cross (pxSlot x.2) x.1)
  | [], s => ⟨rfl, [], by simp [State.askBits]⟩
  | x :: xs, s => by
    obtain ⟨hblocks, ds, hreqs, hds, hkinds⟩ :=
      askBits_spec a xs (s.pushReq a.core (pxHome x.2) a.blk.ctx a.bid a.wi a.slot (.cross (pxSlot x.2) x.1))
    refine ⟨hblocks, _ :: ds, hreqs.trans (List.append_assoc _ _ _), ?_, ?_⟩
    · intro r hr
      obtain rfl | hr := List.mem_cons.1 hr
      · exact ⟨rfl, rfl, rfl, rfl⟩
      · exact hds r hr
    · rw [List.map_cons, hkinds, List.map_cons]

theorem warp?_of_blocks {s t : State} (h : t.blocks = s.blocks) (b wi : Nat) : t.warp? b wi = s.warp? b wi := by
  rw [State.warp?, State.warp?, State.block?, State.block?, h]

theorem warp?_updWarp_self {s : State} {b wi : Nat} {blk : Block} {w : Warp} (h : s.warp? b wi = some (blk, w)) (f : Warp → Warp) :
    (s.updWarp b wi f).warp? b wi = some ({ blk with warps := setNth blk.warps wi (f w) }, f w) := by
  rw [State.updWarp, h]
  simp only [State.warp?, Option.bind_eq_some_iff, Option.map_eq_some_iff, Prod.mk.injEq] at h
  obtain ⟨_, hb, _, hw, rfl, rfl⟩ := h
  simp only [State.setWarp, State.warp?, State.block?_setBlock, State.block?_id hb, if_pos, hb, Option.map_some, Option.bind_some,
    setNth_getElem?, hw]

theorem crossed_eq_none {p : Path} (h : ∀ got, p.wait ≠ .crossing got) : p.crossed = none := by
  unfold Path.crossed
  split
  next got hw => exact absurd hw (h got)
  next => rfl

section
variable {s : State} {a : Actx} {gn : Bool} {g : BitVec 3} (ha : s.actx = some a)
include ha

theorem branchGuard_decided {m : Mask} (hm : a.guardLanes gn g = some m) (act : Actx → Mask → State) :
    s.branchGuard gn g act = .next (act a m) := by
  simp only [State.branchGuard, ha]
  unfold Actx.guardLanes at hm
  split at hm
  next hpx => 
    obtain rfl := Option.some.inj hm
    simp [hpx]
  next x xs got hpx hwait =>
    split at hm
    next hall =>
      obtain rfl := Option.some.inj hm
      have hcrossed : a.p.crossed = some got := by rw [Path.crossed, hwait]
      simp only [hpx, hcrossed, hall, List.isEmpty_cons, Bool.false_eq_true, if_false, if_true, ← maskOf_filter_lanesOf]
      refine congrArg (fun f => Host.Outcome.next (act a (maskOf ((lanesOf a.p.mask).filter f)))) (funext fun l => ?_)
      cases got.find? fun y => y.1 == l <;> rfl
    next => simp at hm
  next => simp at hm

theorem branchGuard_incomplete {got : List (Nat × Bool)} (hpx : a.crossLanes g ≠ []) (hwait : a.p.wait = .crossing got)
    (hm : a.guardLanes gn g = none) (act : Actx → Mask → State) : s.branchGuard gn g act = .next s := by
  have hcrossed : a.p.crossed = some got := by rw [Path.crossed, hwait]
  obtain ⟨x, xs, hcons⟩ := List.exists_cons_of_ne_nil hpx
  have hall : ¬(((x :: xs).all fun x => got.any fun y => y.1 == x.1) = true) := by
    intro hall
    simp only [Actx.guardLanes, hcons, hwait, if_pos hall, reduceCtorEq] at hm
  simp only [State.branchGuard, ha, hcons, hcrossed, List.isEmpty_cons, Bool.false_eq_true, if_false, if_neg hall]

theorem branchGuard_lost {n xs : List (Nat × Word)} {x : Nat × Word} (hwait : ∀ got, a.p.wait ≠ .crossing got)
    (hpx : a.crossLanes g = n ++ x :: xs) (hn : ∀ y ∈ n, (s.ctx a.blk.ctx).lost (pxHome y.2) = false)
    (hx : (s.ctx a.blk.ctx).lost (pxHome x.2) = true) (act : Actx → Mask → State) :
    s.branchGuard gn g act = .next (s.raise a Code.pxlost (pxHome x.2)) := by
  have hfind : (a.crossLanes g).find? (fun x => (s.ctx a.blk.ctx).lost (pxHome x.2)) = some x := by
    rw [hpx, List.find?_append, List.find?_eq_none.2 fun y hy => by simp [hn y hy], Option.none_or, List.find?_cons_of_pos (by exact hx)]
  have hne : (a.crossLanes g).isEmpty = false := by simp [hpx]
  simp only [State.branchGuard, ha, hne, Bool.false_eq_true, if_false, crossed_eq_none hwait, hfind]

theorem branchGuard_asks (hwait : ∀ got, a.p.wait ≠ .crossing got) (hpx : a.crossLanes g ≠ [])
    (hhomes : ∀ x ∈ a.crossLanes g, (s.ctx a.blk.ctx).lost (pxHome x.2) = false) (act : Actx → Mask → State) :
    ∃ t, s.branchGuard gn g act = .next t ∧ s.AsksBits a g t := by
  have hfind : (a.crossLanes g).find? (fun x => (s.ctx a.blk.ctx).lost (pxHome x.2)) = none :=
    List.find?_eq_none.2 fun y hy => by simp [hhomes y hy]
  have hne : (a.crossLanes g).isEmpty = false := by simpa using hpx
  obtain ⟨-, hw, hp, -⟩ := actx_eq_some ha
  obtain ⟨hblocks, hreqs⟩ := askBits_spec a (a.crossLanes g) (s.updWarp a.bid a.wi fun w => w.setWait a.slot (.crossing []))
  refine ⟨(s.updWarp a.bid a.wi fun w => w.setWait a.slot (.crossing [])).askBits a (a.crossLanes g), ?_, ?_, ?_⟩
  · simp only [State.branchGuard, ha, hne, Bool.false_eq_true, if_false, crossed_eq_none hwait, hfind]
    rfl
  · refine ⟨_, _, _, (warp?_of_blocks hblocks _ _).trans (warp?_updWarp_self hw _), ?_, rfl⟩
    rw [Warp.path_setWait_self, hp]
    rfl
  · simpa using hreqs

end

/-! ### Groups of lanes (R75) -/

/-- Lanes with their targets, in the order of the lanes. -/
def LanesSorted (xs : List (Nat × DWord)) : Prop := xs.Pairwise (fun x y => x.1 < y.1) ∧ ∀ x ∈ xs, x.1 < 32

/-- Each group has an address that some lane goes to, and every address has a group. -/
theorem mem_groupLanes_fst : ∀ (xs : List (Nat × DWord)) (pc : DWord), (∃ g ∈ groupLanes xs, g.1 = pc) ↔ ∃ x ∈ xs, x.2 = pc
  | [], pc => by simp [groupLanes]
  | (l, pc0) :: xs, pc => by
    have ih := mem_groupLanes_fst xs pc
    by_cases hpc : pc0 = pc
    · simp [groupLanes, hpc]
    · rw [groupLanes, List.exists_mem_cons_iff, List.exists_mem_cons_iff, ← ih]
      refine or_congr Iff.rfl ⟨fun ⟨g, hg, hgpc⟩ => ⟨g, (List.mem_filter.1 hg).1, hgpc⟩, fun ⟨g, hg, hgpc⟩ =>
        ⟨g, List.mem_filter.2 ⟨hg, bne_iff_ne.2 fun he => hpc (he.symm.trans hgpc)⟩, hgpc⟩⟩

/-- A group holds the lanes that go to its address. -/
theorem getLsbD_groupLanes : ∀ {xs : List (Nat × DWord)}, ∀ g ∈ groupLanes xs, ∀ {l : Nat}, l < 32 →
    (g.2.getLsbD l = true ↔ (l, g.1) ∈ xs)
  | [], g, hg, _, _ => by simp [groupLanes] at hg
  | (k, pc) :: xs, g, hg, l, hl => by
    have ih : ∀ g ∈ groupLanes xs, (g.2.getLsbD l = true ↔ (l, g.1) ∈ xs) := fun g hg => getLsbD_groupLanes g hg hl
    simp only [groupLanes, List.mem_cons, List.mem_filter, bne_iff_ne] at hg
    obtain rfl | ⟨hg, hne⟩ := hg
    · simp only [BitVec.getLsbD_or, getLsbD_maskOf _ hl, Bool.or_eq_true, decide_eq_true_eq, List.mem_cons, List.not_mem_nil, or_false,
        Prod.mk.injEq, and_true]
      refine or_congr Iff.rfl ?_
      split
      next g hfind =>
        have hpc : g.1 = pc := by simpa using List.find?_some hfind
        rw [ih g (List.mem_of_find?_eq_some hfind), hpc]
      next hfind =>
        have hnone : ¬∃ x ∈ xs, x.2 = pc := by
          rw [← mem_groupLanes_fst]
          rintro ⟨g, hg, hpc⟩
          exact absurd (List.find?_eq_none.1 hfind g hg) (by simp [hpc])
        exact ⟨fun h => by simp at h, fun h => absurd ⟨_, h, rfl⟩ hnone⟩
    · rw [ih g hg, List.mem_cons, Prod.mk.injEq]
      simp [hne]

/-- The groups have addresses of their own, in the order of their lowest lanes. -/
theorem groupLanes_sorted : ∀ {xs : List (Nat × DWord)}, LanesSorted xs →
    (groupLanes xs).Pairwise fun x y => x.1 ≠ y.1 ∧ ∃ l, x.2.getLsbD l = true ∧ ∀ n, n ≤ l → y.2.getLsbD n = false
  | [], _ => List.Pairwise.nil
  | (l, pc) :: xs, ⟨hsorted, hlt⟩ => by
    obtain ⟨hfirst, hrest⟩ := List.pairwise_cons.1 hsorted
    have hl : l < 32 := hlt _ List.mem_cons_self
    have hmem := getLsbD_groupLanes (xs := (l, pc) :: xs)
    rw [groupLanes] at hmem ⊢
    refine List.pairwise_cons.2 ⟨fun g hg => ⟨?_, l, ?_, fun n hn => ?_⟩,
      (groupLanes_sorted ⟨hrest, fun x hx => hlt x (List.mem_cons_of_mem _ hx)⟩).filter _⟩
    · exact fun he => absurd he.symm (by simpa using (List.mem_filter.1 hg).2)
    · exact (hmem _ List.mem_cons_self hl).2 List.mem_cons_self
    · rw [← Bool.not_eq_true, getLsbD_groupLanes g (List.mem_filter.1 hg).1 (by omega)]
      intro hn'
      have := hfirst _ hn'
      dsimp only at this
      omega

section
variable (m : Mask) (goal : Nat → DWord)

/-- The lanes of a mask with where each goes. -/
def laneGoals : List (Nat × DWord) := (lanesOf m).map fun l => (l, goal l)

theorem mem_laneGoals {l : Nat} {pc : DWord} : (l, pc) ∈ laneGoals m goal ↔ m.getLsbD l = true ∧ goal l = pc := by
  simp only [laneGoals, List.mem_map, mem_lanesOf, Prod.mk.injEq]
  exact ⟨fun ⟨k, hk, hkl, hgoal⟩ => hkl ▸ ⟨hk, hgoal⟩, fun ⟨hl, hgoal⟩ => ⟨l, hl, rfl, hgoal⟩⟩

theorem laneGoals_sorted : LanesSorted (laneGoals m goal) := by
  refine ⟨List.pairwise_map.2 (lanesOf_sorted m), fun x hx => ?_⟩
  obtain ⟨l, hl, rfl⟩ := List.mem_map.1 hx
  exact lt_of_mem_lanesOf hl

theorem laneGoals_congr {goal' : Nat → DWord} (h : ∀ l, m.getLsbD l = true → goal l = goal' l) : laneGoals m goal = laneGoals m goal' :=
  List.map_congr_left fun l hl => by rw [h l (mem_lanesOf.1 hl)]

/-- The groups of the lanes of a mask: the lanes of each address, each address that a lane goes to, and their order (R75). -/
theorem groupLanes_laneGoals :
    (∀ g ∈ groupLanes (laneGoals m goal), g.2 ≠ 0#32 ∧ ∀ l, g.2.getLsbD l = (m.getLsbD l && goal l == g.1)) ∧
    (∀ l, m.getLsbD l = true → ∃ g ∈ groupLanes (laneGoals m goal), g.1 = goal l) ∧
    (groupLanes (laneGoals m goal)).Pairwise fun x y => x.1 ≠ y.1 ∧ ∃ l, x.2.getLsbD l = true ∧ ∀ n, n ≤ l → y.2.getLsbD n = false := by
  have hlanes (g : DWord × Mask) (hg : g ∈ groupLanes (laneGoals m goal)) (l : Nat) : g.2.getLsbD l = (m.getLsbD l && goal l == g.1) := by
    by_cases hl : l < 32
    · rw [Bool.eq_iff_iff, getLsbD_groupLanes g hg hl, mem_laneGoals]
      simp
    · rw [BitVec.getLsbD_of_ge _ _ (by omega), BitVec.getLsbD_of_ge _ _ (by omega), Bool.false_and]
  refine ⟨fun g hg => ⟨fun hzero => ?_, hlanes g hg⟩, fun l hl => ?_, groupLanes_sorted (laneGoals_sorted m goal)⟩
  · obtain ⟨⟨l, pc⟩, hmem, hpc⟩ := (mem_groupLanes_fst _ g.1).1 ⟨g, hg, rfl⟩
    obtain ⟨hl, hgoal⟩ := (mem_laneGoals m goal).1 hmem
    have hin := hlanes g hg l
    rw [hzero, hl, hgoal, BitVec.getLsbD_zero] at hin
    exact absurd hpc (by simpa using hin)
  · exact (mem_groupLanes_fst _ _).2 ⟨_, (mem_laneGoals m goal).2 ⟨hl, rfl⟩, rfl⟩

/-- Where all lanes go to one address there is one group. -/
theorem groupLanes_one {pc : DWord} (hm : m ≠ 0#32) (h : ∀ l, m.getLsbD l = true → goal l = pc) :
    ∃ m', groupLanes (laneGoals m goal) = [(pc, m')] := by
  obtain ⟨-, hall, hpair⟩ := groupLanes_laneGoals m goal
  have hpc (g : DWord × Mask) (hg : g ∈ groupLanes (laneGoals m goal)) : g.1 = pc := by
    obtain ⟨⟨l, q⟩, hmem, hq⟩ := (mem_groupLanes_fst _ g.1).1 ⟨g, hg, rfl⟩
    obtain ⟨hl, hgoal⟩ := (mem_laneGoals m goal).1 hmem
    exact hq.symm.trans (hgoal.symm.trans (h l hl))
  obtain ⟨l, hl⟩ := List.exists_mem_of_ne_nil _ fun hnil => hm (lanesOf_eq_nil.1 hnil)
  obtain ⟨g, hg, -⟩ := hall l (mem_lanesOf.1 hl)
  rcases hgs : groupLanes (laneGoals m goal) with _ | ⟨x, _ | ⟨y, rest⟩⟩
  · simp [hgs] at hg
  · exact ⟨x.2, by rw [← hpc x (by simp [hgs])]⟩
  · rw [hgs] at hpair hpc
    have hne := ((List.pairwise_cons.1 hpair).1 y List.mem_cons_self).1
    exact absurd ((hpc x (by simp)).trans (hpc y (by simp)).symm) hne

end

/-! ### Entries of a permitted-target table (R69, R75) -/

theorem mem_distinct {α : Type} [DecidableEq α] {x : α} : ∀ {l : List α}, x ∈ distinct l ↔ x ∈ l
  | [] => Iff.rfl
  | y :: ys => by
    have ih := mem_distinct (x := x) (l := ys)
    by_cases h : x = y <;> simp [distinct, ih, h]

theorem nodup_distinct {α : Type} [DecidableEq α] : ∀ l : List α, (distinct l).Nodup
  | [] => List.nodup_nil
  | _ :: ys => List.nodup_cons.2 ⟨by simp, (nodup_distinct ys).filter _⟩

/-- More than one element is left of a list just where two of its elements differ. -/
theorem one_lt_length_distinct {α : Type} [DecidableEq α] (l : List α) :
    1 < (distinct l).length ↔ ∃ x ∈ l, ∃ y ∈ l, x ≠ y := by
  have hnodup := nodup_distinct l
  constructor
  · intro h
    rcases hd : distinct l with _ | ⟨x, _ | ⟨y, rest⟩⟩
    · simp [hd] at h
    · simp [hd] at h
    · rw [hd, List.nodup_cons] at hnodup
      exact ⟨x, mem_distinct.1 (by simp [hd]), y, mem_distinct.1 (by simp [hd]), fun he => hnodup.1 (by simp [he])⟩
  · rintro ⟨x, hx, y, hy, hne⟩
    by_contra hle
    have hone (z : α) (hz : z ∈ l) : z ∈ distinct l := mem_distinct.2 hz
    rcases hd : distinct l with _ | ⟨z, _ | ⟨z', rest⟩⟩
    · simpa [hd] using hone x hx
    · exact hne ((by simpa [hd] using hone x hx : x = z).trans (by simpa [hd] using hone y hy : y = z).symm)
    · simp [hd] at hle

theorem length_readEntries : ∀ {is : List Nat} {s t : State} {a : Actx} {base : Nat} {ents : List (Int × Int × Bool)},
    s.readEntries a base is = (.ok ents, t) → ents.length = is.length
  | [], _, _, _, _, _, h => by
    obtain ⟨rfl, -⟩ : [] = _ ∧ _ := by simpa [State.readEntries] using h
    rfl
  | i :: is, s, t, a, base, ents, h => by
    unfold State.readEntries at h
    split at h
    next => simp at h
    next bs s1 _ =>
      split at h
      next => simp at h
      next r s2 hrest =>
        obtain ⟨rfl, -⟩ : tableEntry bs :: r = ents ∧ _ := by simpa using h
        rw [List.length_cons, List.length_cons, length_readEntries hrest]

/-- The entries trap a BRX: one is reserved, or two disagree on the rejoin offset. -/
theorem entriesBad_iff (ents : List (Int × Int × Bool)) :
    ((ents.any fun e => !e.2.2) || decide ((distinct (ents.map (·.1))).length > 1)) = true ↔
      (∃ e ∈ ents, e.2.2 = false) ∨ ∃ e ∈ ents, ∃ e' ∈ ents, e.1 ≠ e'.1 := by
  rw [Bool.or_eq_true, List.any_eq_true, decide_eq_true_eq, gt_iff_lt, one_lt_length_distinct]
  simp

/-! ### BRX (R75) -/

/-- Where a BRX sends a lane: an active lane to the target of its entry, another to the next word. -/
def Actx.brxGoal (a : Actx) (m : Mask) (ents : List (Int × Int × Bool)) (l : Nat) : DWord :=
  match ((lanesOf m).zip ents).find? fun x => x.1 == l with
  | some x => wordsFrom a.p.pc x.2.2.1
  | none => a.next

theorem laneGoals_brxGoal (a : Actx) (m : Mask) (ents : List (Int × Int × Bool)) :
    laneGoals a.p.mask (a.brxGoal m ents) = (lanesOf a.p.mask).map fun l => (l,
      match ((lanesOf m).zip ents).find? fun x => x.1 == l with
      | some (_, (_, tg, _)) => wordsFrom a.p.pc tg
      | none => a.next) := by
  refine List.map_congr_left fun l _ => ?_
  rw [Actx.brxGoal]
  cases ((lanesOf m).zip ents).find? fun x => x.1 == l <;> rfl

/-- Lanes that all go to one address move their path whole. -/
theorem brxMove_one {s : State} {a : Actx} {m m' : Mask} {ents : List (Int × Int × Bool)} {pc : DWord}
    (h : groupLanes (laneGoals a.p.mask (a.brxGoal m ents)) = [(pc, m')]) :
    s.brxMove a m ents = s.moveWarp a 0 fun w => (w.jump a.slot pc).settled := by
  rw [laneGoals_brxGoal] at h
  unfold State.brxMove
  dsimp only
  split
  next hgs => 
    have := h.symm.trans hgs
    simp_all
  next hne => exact absurd h (hne pc m')

/-- Lanes that go to several addresses split into their groups. -/
theorem brxMove_many {s : State} {a : Actx} {m : Mask} {ents : List (Int × Int × Bool)} {gs : List (DWord × Mask)}
    (h : groupLanes (laneGoals a.p.mask (a.brxGoal m ents)) = gs) (hmany : 2 ≤ gs.length) :
    s.brxMove a m ents = s.moveWarp a (a.splitEntries gs.length) fun w =>
      (w.split a.slot gs (wordsFrom a.next (nth (0, 0, true) ents 0).1)).settled := by
  subst h
  rw [laneGoals_brxGoal] at hmany ⊢
  unfold State.brxMove
  dsimp only
  split
  next hgs => 
    have := hgs ▸ hmany
    simp_all
  next => rfl

theorem brxGoal_eq {a : Actx} {m : Mask} {ents : List (Int × Int × Bool)} {goal : Nat → DWord} (hlen : ents.length = (lanesOf m).length)
    (hact : ∀ (n l : Nat) (e : Int × Int × Bool), (lanesOf m)[n]? = some l → ents[n]? = some e → goal l = wordsFrom a.p.pc e.2.1)
    (hidle : ∀ l, m.getLsbD l = false → goal l = a.next) (l : Nat) : a.brxGoal m ents l = goal l := by
  unfold Actx.brxGoal
  split
  next x hfind =>
    have hl : x.1 = l := by simpa using List.find?_some hfind
    obtain ⟨n, hn⟩ := List.mem_iff_getElem?.1 (List.mem_of_find?_eq_some hfind)
    obtain ⟨hlane, hent⟩ := List.getElem?_zip_eq_some.1 hn
    rw [hact n l x.2 (hl ▸ hlane) hent]
  next hfind =>
    refine (hidle l ?_).symm
    rw [← Bool.not_eq_true, ← mem_lanesOf]
    intro hmem
    obtain ⟨n, hn, hlane⟩ := List.mem_iff_getElem.1 hmem
    have hzip : ((lanesOf m).zip ents)[n]? = some (l, ents[n]) :=
      List.getElem?_zip_eq_some.2 ⟨by simp [hn, hlane], by simp [hlen ▸ hn]⟩
    exact absurd (List.find?_eq_none.1 hfind _ (List.mem_of_getElem? hzip)) (by simp)

theorem guardLanes_sub {a : Actx} {gn : Bool} {g : BitVec 3} {m : Mask} (h : a.guardLanes gn g = some m) {l : Nat}
    (hl : m.getLsbD l = true) : a.p.mask.getLsbD l = true := by
  have hlt := BitVec.lt_of_getLsbD hl
  have hmask : ∃ f, m = Ref.mask a.p.mask f := by
    unfold Actx.guardLanes at h
    split at h
    next => exact ⟨_, (Option.some.inj h).symm.trans (maskOf_filter_lanesOf _ _)⟩
    next =>
      split at h
      next => exact ⟨_, (Option.some.inj h).symm⟩
      next => simp at h
    next => simp at h
  obtain ⟨f, rfl⟩ := hmask
  rw [getLsbD_refMask _ _ hlt, Bool.and_eq_true] at hl
  exact hl.1

section
variable {s s1 s2 t : State} {a : Actx} {o : Opnds} {m : Mask} (ha : s.actx = some a) (hm : a.guardLanes o.gn o.g = some m)
include ha hm

theorem brx_idle (hzero : m = 0#32) (ht : s.MovesTo a 0 (fun w => (w.jump a.slot (a.p.pc + 8#64)).settled) t) :
    exec (.brx o) s = .next t := by
  rw [exec_brx, execBrx, branchGuard_decided ha hm, if_pos hzero]
  exact congrArg _ (moveWarp_movesTo ht)

theorem brx_proxy (hne : m ≠ 0#32) (hpx : s.anyPx a m [o.srcA] = true) : exec (.brx o) s = .next (s.raise a Code.pxuse 0x01) := by
  rw [exec_brx, execBrx, branchGuard_decided ha hm, if_neg hne, if_pos hpx]

section
variable {r : Record} {k : KObj} (hne : m ≠ 0#32) (hpx : s.anyPx a m [o.srcA] = false) (hr : s.record? a.blk.record = some r)
  (hk : s.kobj a.blk = some k)
include hne hpx hr hk

theorem brx_noTable (hn : k.ntab ≤ o.imm16.toNat) : exec (.brx o) s = .next (s.raise a Code.illegal 0x0E) := by
  rw [exec_brx, execBrx, branchGuard_decided ha hm, if_neg hne, if_neg (by simp [hpx])]
  simp only [hr, hk, if_pos hn]

variable {dir : List Byte} (hn : o.imm16.toNat < k.ntab)
  (hdir : s.readConst a.core a.blk.ctx (r.kobj + k.tdir + 8 * o.imm16.toNat) 8 = (.ok dir, s1))
include hn hdir

theorem brx_beyond (hout : ∃ l, m.getLsbD l = true ∧ leNat dir % 2 ^ 16 ≤ (s.val a o.srcA l).toNat) :
    exec (.brx o) s = .next (s1.raise a Code.illegal 0x0E) := by
  obtain ⟨l, hl, hle⟩ := hout
  have hany : ((lanesOf m).map fun l => (s.val a o.srcA l).toNat).any (fun i => decide (leNat dir % 2 ^ 16 ≤ i)) = true :=
    List.any_eq_true.2 ⟨_, List.mem_map.2 ⟨l, mem_lanesOf.2 hl, rfl⟩, decide_eq_true hle⟩
  rw [exec_brx, execBrx, branchGuard_decided ha hm, if_neg hne, if_neg (by simp [hpx])]
  simp only [hr, hk, if_neg (Nat.not_le.2 hn), hdir, if_pos hany]

variable {ents : List (Int × Int × Bool)} (hin : ∀ l, m.getLsbD l = true → (s.val a o.srcA l).toNat < leNat dir % 2 ^ 16)
  (hents : s1.readEntries a (r.kobj + leNat dir / 2 ^ 32) ((lanesOf m).map fun l => (s.val a o.srcA l).toNat) = (.ok ents, s2))
include hin hents

/-- With its indices inside the table a BRX looks at the entries. -/
theorem brx_entries : exec (.brx o) s = .next
    (if ents.any (fun e => !e.2.2) || (distinct (ents.map (·.1))).length > 1 then s2.raise a Code.illegal 0x0F else s2.brxMove a m ents) := by
  have hany : ¬((lanesOf m).map fun l => (s.val a o.srcA l).toNat).any (fun i => decide (leNat dir % 2 ^ 16 ≤ i)) = true := by
    rw [List.any_map, Bool.not_eq_true, List.any_eq_false]
    intro l hl
    simpa using hin l (mem_lanesOf.1 hl)
  rw [exec_brx, execBrx, branchGuard_decided ha hm, if_neg hne, if_neg (by simp [hpx])]
  simp only [hr, hk, if_neg (Nat.not_le.2 hn), hdir, if_neg hany, hents]

theorem brx_badEntries (hbad : (∃ e ∈ ents, e.2.2 = false) ∨ ∃ e ∈ ents, ∃ e' ∈ ents, e.1 ≠ e'.1) :
    exec (.brx o) s = .next (s2.raise a Code.illegal 0x0F) := by
  rw [brx_entries ha hm hne hpx hr hk hn hdir hin hents, if_pos ((entriesBad_iff ents).2 hbad)]

variable {rj : Int} {goal : Nat → DWord} (hgood : ∀ e ∈ ents, e.1 = rj ∧ e.2.2 = true)
  (hact : ∀ (n l : Nat) (e : Int × Int × Bool), (lanesOf m)[n]? = some l → ents[n]? = some e →
    goal l = a.p.pc + BitVec.ofInt 64 (8 * e.2.1))
  (hidle : ∀ l, m.getLsbD l = false → goal l = a.p.pc + 8#64)
include hgood

/-- Entries that agree move the path. -/
theorem brx_moves : exec (.brx o) s = .next (s2.brxMove a m ents) := by
  rw [brx_entries ha hm hne hpx hr hk hn hdir hin hents, if_neg]
  rw [entriesBad_iff]
  rintro (⟨e, he, hrsv⟩ | ⟨e, he, e', he', hrj⟩)
  · exact absurd hrsv (by simp [(hgood e he).2])
  · exact hrj ((hgood e he).1.trans (hgood e' he').1.symm)

include hact hidle

theorem brx_whole {pc : DWord} (hone : ∀ l, a.p.mask.getLsbD l = true → goal l = pc)
    (ht : s2.MovesTo a 0 (fun w => (w.jump a.slot pc).settled) t) : exec (.brx o) s = .next t := by
  have hgoal : a.brxGoal m ents = goal := funext (brxGoal_eq (by simpa using length_readEntries hents) hact hidle)
  have hmask : a.p.mask ≠ 0#32 := by
    obtain ⟨l, hl⟩ := List.exists_mem_of_ne_nil _ fun hnil => hne (lanesOf_eq_nil.1 hnil)
    intro hzero
    have hin := guardLanes_sub hm (mem_lanesOf.1 hl)
    simp [hzero] at hin
  obtain ⟨m', hgs⟩ := groupLanes_one a.p.mask goal hmask hone
  rw [brx_moves ha hm hne hpx hr hk hn hdir hin hents hgood, brxMove_one (by rw [hgoal, hgs]), moveWarp_movesTo ht]

theorem brx_splits (hmany : 2 ≤ (groupLanes (laneGoals a.p.mask goal)).length)
    (ht : s2.MovesTo a (1 + (if a.w.path (1 - a.slot) = none then 0 else 1) + ((groupLanes (laneGoals a.p.mask goal)).length - 2))
      (fun w => (w.split a.slot (groupLanes (laneGoals a.p.mask goal)) (a.p.pc + 8#64 + BitVec.ofInt 64 (8 * rj))).settled) t) :
    exec (.brx o) s = .next t := by
  have hlen := length_readEntries hents
  have hgoal : a.brxGoal m ents = goal := funext (brxGoal_eq (by simpa using hlen) hact hidle)
  have hrj : (nth (0, 0, true) ents 0).1 = rj := by
    cases ents with
    | nil => exact absurd (lanesOf_eq_nil.1 (by simpa using hlen.symm)) hne
    | cons e es => exact (hgood e (by simp)).1
  have hcount : a.splitEntries (groupLanes (laneGoals a.p.mask goal)).length =
      1 + (if a.w.path (1 - a.slot) = none then 0 else 1) + ((groupLanes (laneGoals a.p.mask goal)).length - 2) := by
    rw [Actx.splitEntries]
    cases a.w.path (1 - a.slot) <;> rfl
  rw [brx_moves ha hm hne hpx hr hk hn hdir hin hents hgood, brxMove_many (by rw [hgoal]) hmany, hrj, hcount]
  exact congrArg _ (moveWarp_movesTo ht)

end

end

/-! ### BRA, CALL and BRX (R73 to R76) -/

/-- Settles O18: what the guard decides, then where the groups of lanes go (R73 to R76). -/
theorem branches : Obligations.Branches := by
  refine ⟨⟨?_, ?_, ?_⟩, ?_⟩
  · intro s a i gn g hi ha hpx
    obtain ⟨act, hact⟩ : ∃ act, exec i s = s.branchGuard gn g act := by
      obtain ⟨t, rfl, rfl, rfl⟩ | ⟨o, rfl, rfl, rfl⟩ := hi
      · exact ⟨_, exec_bra t s⟩
      · exact ⟨_, exec_brx o s⟩
    rw [hact]
    exact ⟨fun hwait hhomes => branchGuard_asks ha hwait hpx hhomes act,
      fun n x xs hwait hcross hn hx => branchGuard_lost ha hwait hcross hn hx act,
      fun ⟨got, hwait⟩ hm => branchGuard_incomplete ha hpx hwait hm act⟩
  · intro o s t a m ha hm target next whole both
    have hact := branchGuard_decided ha hm
    refine ⟨fun hzero ht => ?_, fun hne (hall : a.others m = 0#32) ht => ?_, fun hne (hsome : a.others m ≠ 0#32) ht => ?_⟩
    · rw [exec_bra, execBra, hact, if_pos hzero]
      exact congrArg _ (moveWarp_movesTo ht)
    · rw [exec_bra, execBra, hact, if_neg hne, if_pos hall]
      exact congrArg _ (moveWarp_movesTo ht)
    · have hcount : a.splitEntries 2 = if a.w.path (1 - a.slot) = none then 1 else 2 := by
        rw [Actx.splitEntries]
        cases a.w.path (1 - a.slot) <;> rfl
      rw [exec_bra, execBra, hact, if_neg hne, if_neg hsome, hcount]
      exact congrArg _ (moveWarp_movesTo ht)
  · intro o s t a h m target enter ht
    rw [exec_call, execCall, guarded_acts h]
    exact congrArg _ (moveWarp_movesTo ht)
  · intro o s s1 s2 t a r k dir ents m ha hm whole
    refine ⟨brx_idle ha hm, brx_proxy ha hm, fun hne hpx hr hk => ⟨brx_noTable ha hm hne hpx hr hk, fun hn hdir =>
      ⟨brx_beyond ha hm hne hpx hr hk hn hdir, fun hin hents => ⟨brx_badEntries ha hm hne hpx hr hk hn hdir hin hents,
        fun rj goal hgood hact hidle => ⟨fun pc => brx_whole ha hm hne hpx hr hk hn hdir hin hents hgood hact hidle,
          brx_splits ha hm hne hpx hr hk hn hdir hin hents hgood hact hidle, groupLanes_laneGoals a.p.mask goal⟩⟩⟩⟩⟩

/-! ### RET, JOIN and EXIT (R77 to R79) -/

/-- Outside its paths and its join records, `w'` is `w`. -/
def Warp.PathsOnly (w w' : Warp) : Prop :=
  w' = { w with path0 := w'.path0, path1 := w'.path1, stack := w'.stack, nextJoin := w'.nextJoin }

namespace Warp.PathsOnly

theorem refl (w : Warp) : w.PathsOnly w := rfl

theorem trans {u v w : Warp} (h1 : u.PathsOnly v) (h2 : v.PathsOnly w) : u.PathsOnly w := by
  unfold Warp.PathsOnly at *
  rw [h1] at h2
  exact h2

/-- What does not read the paths and records stands. -/
theorem field {α : Type} {w w' : Warp} (h : w.PathsOnly w') (f : Warp → α)
    (hf : ∀ p0 p1 st n, f { w with path0 := p0, path1 := p1, stack := st, nextJoin := n } = f w := by exact fun _ _ _ _ => rfl) :
    f w' = f w := (congrArg f h).trans (hf _ _ _ _)

theorem setPath (w : Warp) (slot : Nat) (p : Option Path) : w.PathsOnly (w.setPath slot p) := by
  unfold Warp.setPath
  split <;> rfl

theorem setJoin (w : Warp) (r : JoinRec) : w.PathsOnly (w.setJoin r) := rfl

theorem dropJoin (w : Warp) (j : Nat) : w.PathsOnly (w.dropJoin j) := rfl

theorem pushPath (w : Warp) (p : Path) : w.PathsOnly (w.pushPath p) := rfl

theorem nextWord (w : Warp) (slot : Nat) : w.PathsOnly (w.nextWord slot) := by
  unfold Warp.nextWord
  split
  · exact setPath _ _ _
  · exact refl w

theorem removeLanes (w : Warp) (slot : Nat) (m : Mask) : w.PathsOnly (w.removeLanes slot m) := by
  unfold Warp.removeLanes
  split
  · exact refl w
  · dsimp only
    split <;> exact setPath _ _ _

theorem refillSlot (w : Warp) (slot : Nat) : w.PathsOnly (w.refillSlot slot) := by
  unfold Warp.refillSlot
  split
  next p t _ _ => exact trans (v := { w with stack := t }) rfl (setPath _ _ _)
  next => exact refl w

theorem refill (w : Warp) : w.PathsOnly w.refill := (refillSlot w 0).trans (refillSlot _ 1)

theorem complete (w : Warp) (slot : Nat) (r : JoinRec) : w.PathsOnly (w.complete slot r) := by
  refine (dropJoin w r.id).trans ?_
  unfold Warp.complete
  dsimp only
  split
  · exact setPath _ _ _
  · split
    · exact setPath _ _ _
    · exact pushPath _ _

theorem arriveAt (w : Warp) (slot j : Nat) (m : Mask) : w.PathsOnly (w.arriveAt slot j m) := by
  unfold Warp.arriveAt
  split
  next => exact refl w
  next r _ =>
    refine ((setJoin w { r with arrived := r.arrived ||| m }).trans (removeLanes _ slot m)).trans (trans ?_ (refill _))
    split
    · exact complete _ _ _
    · exact refl _

theorem settle : ∀ (fuel : Nat) (w : Warp), w.PathsOnly (Warp.settle fuel w)
  | 0, w => refl w
  | fuel + 1, w => by
    unfold Warp.settle
    split
    next j m _ => exact (arriveAt w 0 j m).trans (settle fuel _)
    next =>
      split
      next j m _ => exact (arriveAt w 1 j m).trans (settle fuel _)
      next => exact refl w

theorem settled (w : Warp) : w.PathsOnly w.settled := settle _ w

theorem shrinkJoins (m : Mask) : ∀ (js : List Nat) (w : Warp), w.PathsOnly (w.shrinkJoins m js)
  | [], w => refl w
  | j :: js, w => by
    unfold Warp.shrinkJoins
    split
    next => exact shrinkJoins m js w
    next r _ => exact (setJoin w _).trans (shrinkJoins m js _)

theorem closeJoins (slot : Nat) : ∀ (js : List Nat) (w : Warp), w.PathsOnly (w.closeJoins slot js)
  | [], w => refl w
  | j :: js, w => by
    unfold Warp.closeJoins
    split
    next => exact closeJoins slot js w
    next r _ =>
      refine trans ?_ (closeJoins slot js _)
      split
      · exact dropJoin w j
      · split
        · exact complete w slot r
        · exact refl w

theorem leave (w : Warp) (slot : Nat) (m : Mask) (j stop : Option Nat) : w.PathsOnly (w.leave slot m j stop) :=
  ((shrinkJoins m _ w).trans (closeJoins slot _ _)).trans (refill _)

end Warp.PathsOnly

/-- The lanes that exit are counted as exited (R78). -/
theorem exited_exit (w : Warp) (slot : Nat) (m : Mask) (j : Option Nat) : (w.exit slot m j).exited = w.exited ||| m := by
  have hleft := ((Warp.PathsOnly.nextWord w slot).trans (.removeLanes _ slot m)).field Warp.exited
  refine ((Warp.PathsOnly.leave _ slot m j none).trans (.settled _)).field Warp.exited |>.trans ?_
  rw [hleft]

/-- Settles O19: the records that RET, JOIN and EXIT name, and the lanes that leave (R77 to R79). -/
theorem returnsJoinsAndExits : Obligations.ReturnsJoinsAndExits := by
  intro o s s1 t a h m back join leave
  refine ⟨fun hnone => ?_, fun f hrec ht => ?_, fun hnone => ?_, fun j hj ht => ?_, fun hspill => ⟨_, ?_, rfl, fun l _ hl => ?_⟩⟩
  · rw [exec_ret, execRet, run_acts h, hnone]
  · rw [exec_ret, execRet, run_acts h, hrec]
    exact congrArg _ (moveWarp_movesTo ht)
  · rw [exec_join, execJoin, run_acts h, hnone]
  · rw [exec_join, execJoin, run_acts h, hj]
    exact congrArg _ (moveWarp_movesTo ht)
  · rw [exec_exit, execExit, run_acts h]
    dsimp only
    rw [hspill]
  · rw [exited_exit, BitVec.getLsbD_or, hl, Bool.or_true]

/-! ### Traps by design (R82) -/

/-- Settles O22: each raises its code once its guard is plain and some lane is active (R82). -/
theorem trapsByDesign : Obligations.TrapsByDesign := by
  intro o s a h
  have hdetail : bits o.imm16 7 0 = o.imm16.toNat % 256 := by simp [bits]
  constructor
  · rw [exec_trap, execTrap, run_acts h, hdetail]
    rfl
  · rw [exec_bkpt, execBkpt, run_acts h, hdetail]
    rfl

end Sys2Proof.Machine
end

section
/-!
PROOF. Entering the handler of a trap (O38).
-/
namespace Sys2Proof.Machine
open Sys2Proof

/-! ### What a translation depends on (R162, R173) -/

/-- What the device's own units translate and read by stands the same in both states. -/
structure State.SameGround (s t : State) : Prop where
  dram : t.dram = s.dram
  l2 : t.l2 = s.l2
  filled : t.filled = s.filled
  drawn : t.drawn = s.drawn
  ctxs : t.ctxs = s.ctxs
  peerRoute : t.peerRoute = s.peerRoute
  records : t.records = s.records

namespace State.SameGround
variable {s t u : State}

theorem refl (s : State) : s.SameGround s := ⟨rfl, rfl, rfl, rfl, rfl, rfl, rfl⟩

theorem trans (h : s.SameGround t) (h' : t.SameGround u) : s.SameGround u :=
  ⟨h'.dram.trans h.dram, h'.l2.trans h.l2, h'.filled.trans h.filled, h'.drawn.trans h.drawn, h'.ctxs.trans h.ctxs,
    h'.peerRoute.trans h.peerRoute, h'.records.trans h.records⟩

theorem readByte (h : s.SameGround t) (pa : Nat) : t.readByte pa = s.readByte pa := by
  simp only [State.readByte_eq, h.filled, h.l2, h.dram]

theorem ctx (h : s.SameGround t) (c : Nat) : t.ctx c = s.ctx c := by rw [State.ctx, State.ctx, h.ctxs]

theorem paValid (h : s.SameGround t) (pa : Nat) : t.paValid pa = s.paValid pa := by simp only [State.paValid, h.peerRoute]

theorem freeOr (h : s.SameGround t) (k pa : Nat) : t.freeOr k pa = s.freeOr k pa := by
  simp only [State.freeOr, h.drawn, h.readByte]

theorem walkFrom (h : s.SameGround t) (ctx va : Nat) (acc : Access) :
    ∀ fuel level table, t.walkFrom ctx va acc fuel level table = s.walkFrom ctx va acc fuel level table
  | 0, _, _ => rfl
  | fuel + 1, level, table => by
    simp only [State.walkFrom, State.leafOf, h.freeOr, h.ctx, h.paValid, h.walkFrom ctx va acc fuel]

theorem physOf (h : s.SameGround t) (ctx va : Nat) (acc : Access) : t.physOf ctx va acc = s.physOf ctx va acc := by
  simp only [State.physOf, State.walk, State.leafPhys, h.walkFrom, h.ctx, h.paValid]

theorem kobj (h : s.SameGround t) {b b' : Block} (hb : b'.record = b.record) : t.kobj b' = s.kobj b := by
  rw [State.kobj, State.kobj, State.record?, State.record?, h.records, hb]

theorem trapArea (h : s.SameGround t) {b b' : Block} {w w' : Warp} (hb : b'.record = b.record) (hw : w'.privb = w.privb) :
    t.trapArea b' w' = s.trapArea b w := by rw [State.trapArea, State.trapArea, h.kobj hb, hw]

end State.SameGround

theorem sameGround_updWarp (s : State) (b wi : Nat) (f : Warp → Warp) : s.SameGround (s.updWarp b wi f) := by
  constructor <;> simp

/-! ### What the device fills (R306) -/

theorem fillRange_blocks (s : State) (pa n : Nat) : (s.fillRange pa n).blocks = s.blocks := by
  unfold State.fillRange
  split <;> rfl

theorem fillVirt_blocks (ctx : Nat) : ∀ (fuel va n : Nat) (s : State), (s.fillVirt ctx fuel va n).blocks = s.blocks
  | 0, _, _, _ => rfl
  | fuel + 1, va, n, s => by
    unfold State.fillVirt
    split
    · rfl
    · refine (fillVirt_blocks ctx fuel _ _ _).trans ?_
      split
      · exact fillRange_blocks _ _ _
      · rfl

/-- A filled range changes no byte outside it. -/
theorem readByte_fillRange_of_outside (s : State) {pa n x : Nat} (h : x < pa ∨ pa + n ≤ x) : (s.fillRange pa n).readByte x = s.readByte x := by
  unfold State.fillRange
  split
  · rfl
  · have hfilled : (s.filled.filter fun r => !(decide (pa ≤ r.1) && decide (r.1 + r.2.1 ≤ pa + n))).find?
        (fun r => decide (r.1 ≤ x) && decide (x < r.1 + r.2.1)) = s.filled.find? fun r => decide (r.1 ≤ x) && decide (x < r.1 + r.2.1) := by
      rw [List.find?_filter]
      congr 1
      funext r
      grind
    have hl2 : ∀ l : List Host.Cell, overGet (l.filter fun c => !(decide (pa ≤ c.1) && decide (c.1 < pa + n))) x = overGet l x := by
      intro l
      induction l with
      | nil => rfl
      | cons c l ih =>
        obtain ⟨a, v⟩ := c
        by_cases hin : pa ≤ a ∧ a < pa + n
        · have hne : a ≠ x := by omega
          rw [List.filter_cons_of_neg (by simp [hin]), ih, overGet, if_neg hne]
        · rw [List.filter_cons_of_pos (by simp; omega), overGet, overGet, ih]
    simp only [State.readByte_eq, find?_cons_fill, hfilled, hl2]
    rw [if_neg (by omega)]

/-- Filling part of one 64 KiB page changes no byte outside the place of that page. -/
theorem readByte_fillVirt_of_outside (s : State) {ctx va n x : Nat} (hpage : va % 65536 + n ≤ 65536)
    (hx : ∀ pa, s.physOf ctx va .write = .ok pa → x < pa ∨ pa + n ≤ x) : (s.fillVirt ctx 2 va n).readByte x = s.readByte x := by
  have hk : min n (65536 - va % 65536) = n := by omega
  simp only [State.fillVirt, hk, Nat.sub_self, if_true]
  split
  · rfl
  · split
    next pa hpa => exact readByte_fillRange_of_outside s (hx pa hpa)
    next => rfl

/-! ### Withdrawing what a path waits for -/

/-- The same block at the same place. -/
structure Block.SameSite (b b' : Block) : Prop where
  id : b'.id = b.id
  ctx : b'.ctx = b.ctx
  record : b'.record = b.record
  loc : b'.loc = b.loc

theorem Block.SameSite.trans {a b c : Block} (h : a.SameSite b) (h' : b.SameSite c) : a.SameSite c :=
  ⟨h'.id.trans h.id, h'.ctx.trans h.ctx, h'.record.trans h.record, h'.loc.trans h.loc⟩

/-- The warp when the instruction in which a slot is blocked is withdrawn: the slot waits for `x` instead. -/
def Warp.wokenAt (w : Warp) (slot : Nat) (x : Wait) : Warp := if w.blockedAt slot then w.setWait slot x else w

theorem warp?_eq_some {s : State} {b wi : Nat} {blk : Block} {w : Warp} :
    s.warp? b wi = some (blk, w) ↔ s.block? b = some blk ∧ blk.warps[wi]? = some w := by
  simp only [State.warp?, Option.bind_eq_some_iff, Option.map_eq_some_iff, Prod.mk.injEq]
  constructor
  · rintro ⟨_, hb, _, hw, rfl, rfl⟩
    exact ⟨hb, hw⟩
  · rintro ⟨hb, hw⟩
    exact ⟨_, hb, _, hw, rfl, rfl⟩

theorem warp?_setBlock {s : State} {b wi : Nat} {blk x : Block} {w w' : Warp} (h : s.warp? b wi = some (blk, w)) (hid : x.id = blk.id)
    (hw : x.warps[wi]? = some w') : (s.setBlock x).warp? b wi = some (x, w') := by
  obtain ⟨hb, -⟩ := warp?_eq_some.1 h
  refine warp?_eq_some.2 ⟨?_, hw⟩
  rw [State.block?_setBlock, hid, State.block?_id hb, if_pos rfl, hb, Option.map_some]

theorem warp?_setWarp {s : State} {b wi : Nat} {blk : Block} {w : Warp} (h : s.warp? b wi = some (blk, w)) (w' : Warp) :
    (s.setWarp blk wi w').warp? b wi = some ({ blk with warps := setNth blk.warps wi w' }, w') := by
  obtain ⟨-, hw⟩ := warp?_eq_some.1 h
  exact warp?_setBlock (x := { blk with warps := setNth blk.warps wi w' }) h rfl (by simp [setNth_getElem?, hw])

theorem withdraw_sameGround (s : State) (b wi slot : Nat) (keep : Bool) : s.SameGround (s.withdraw b wi slot keep) := by
  unfold State.withdraw
  dsimp only
  split
  · exact ⟨rfl, rfl, rfl, rfl, rfl, rfl, rfl⟩
  · split <;> exact ⟨rfl, rfl, rfl, rfl, rfl, rfl, rfl⟩

/-- The wait of a slot whose instruction is withdrawn: a SWPT that has arrived retires, another instruction issues again (R105). -/
def Block.wakeWait (blk : Block) (wi slot : Nat) : Wait :=
  if blk.switches.any fun x => x.arrived.contains (wi, slot) then .retiring else .ready

/-- A block in which the instruction of a warp's slot has been withdrawn. -/
def Block.withdrawn (blk : Block) (wi slot : Nat) (w : Warp) : Block :=
  { blk with
    warps := setNth blk.warps wi (w.setWait slot (blk.wakeWait wi slot))
    qwait := blk.qwait.filter fun q => !(q.warp == wi && q.slot == slot)
    switches := (blk.switches.map fun (x : SwitchWait) =>
      { x with arrived := x.arrived.filter fun a => a != (wi, slot)
               whole := x.whole && !x.arrived.contains (wi, slot) }).filter fun x => !x.arrived.isEmpty }

theorem withdraw_blocks {s : State} {b wi : Nat} {blk : Block} {w : Warp} (h : s.warp? b wi = some (blk, w)) (slot : Nat) (keep : Bool) :
    (s.withdraw b wi slot keep).blocks = if w.blockedAt slot then (s.setBlock (blk.withdrawn wi slot w)).blocks else s.blocks := by
  have hcopies : (s.withdrawCopies b wi slot).warp? b wi = some (blk, w) := h
  simp only [State.withdraw, hcopies]
  split <;> rfl

theorem withdraw_warp? {s : State} {b wi : Nat} {blk : Block} {w : Warp} (h : s.warp? b wi = some (blk, w)) (slot : Nat) (keep : Bool) :
    ∃ blk1 x, (s.withdraw b wi slot keep).warp? b wi = some (blk1, w.wokenAt slot x) ∧ blk.SameSite blk1 ∧
      (x = .ready ∨ x = .retiring) := by
  have hblocks := withdraw_blocks h slot keep
  unfold Warp.wokenAt
  by_cases hblocked : w.blockedAt slot = true
  · rw [if_pos hblocked] at hblocks
    refine ⟨blk.withdrawn wi slot w, blk.wakeWait wi slot, ?_, ⟨rfl, rfl, rfl, rfl⟩, ?_⟩
    · rw [if_pos hblocked, warp?_of_blocks hblocks]
      refine warp?_setBlock h rfl ?_
      simp [Block.withdrawn, setNth_getElem?, (warp?_eq_some.1 h).2]
    · unfold Block.wakeWait
      split <;> simp
  · rw [if_neg hblocked] at hblocks
    refine ⟨blk, .ready, ?_, ⟨rfl, rfl, rfl, rfl⟩, .inl rfl⟩
    rw [if_neg hblocked, warp?_of_blocks hblocks, h]

theorem pathsOnly_setWait (w : Warp) (slot : Nat) (x : Wait) : w.PathsOnly (w.setWait slot x) := by
  unfold Warp.setWait
  split
  · exact .setPath _ _ _
  · exact .refl w

theorem pathsOnly_wokenAt (w : Warp) (slot : Nat) (x : Wait) : w.PathsOnly (w.wokenAt slot x) := by
  unfold Warp.wokenAt
  split
  · exact pathsOnly_setWait w slot x
  · exact .refl w

theorem path_setWait_of_ne (w : Warp) {k slot : Nat} (x : Wait) (hk : k < 2) (hs : slot < 2) (h : k ≠ slot) :
    (w.setWait slot x).path k = w.path k := by
  unfold Warp.setWait
  split
  · exact Warp.path_setPath_of_ne _ _ hk hs h
  · rfl

/-- Withdrawing changes no more of a path than what it waits for, and its slot no longer waits in an instruction. -/
theorem path_wokenAt {w : Warp} {k : Nat} {p : Path} (hp : w.path k = some p) {slot : Nat} (x : Wait) (hk : k < 2) (hs : slot < 2) :
    ∃ y, (w.wokenAt slot x).path k = some { p with wait := y } ∧ (k = slot → p.wait = .blocked → y = x) ∧
      ((∀ z, p.wait ≠ .crossing z) → p.wait ≠ .blocked → y = p.wait) := by
  unfold Warp.wokenAt
  by_cases hks : k = slot
  · subst hks
    by_cases hb : w.blockedAt k = true
    · rw [if_pos hb, Warp.path_setWait_self, hp]
      refine ⟨x, rfl, fun _ _ => rfl, fun hcross hblock => ?_⟩
      rcases hw : p.wait with _ | _ | _ | _ | _ | z | _ | _ <;> simp [Warp.blockedAt, hp, hw] at hb
      · exact absurd hw hblock
      · exact absurd hw (hcross z)
    · rw [if_neg hb]
      refine ⟨p.wait, hp, fun _ hblock => ?_, fun _ _ => rfl⟩
      simp [Warp.blockedAt, hp, hblock] at hb
  · refine ⟨p.wait, ?_, fun h => absurd h hks, fun _ _ => rfl⟩
    split
    · rw [path_setWait_of_ne w x hk hs hks, hp]
    · exact hp

/-! ### The handler of a trap (R305, R306, R315) -/

theorem trapCause_fields (t : Trap) : (trapCauseOf t).extractLsb' 0 8 = t.code ∧ (trapCauseOf t).extractLsb' 8 8 = t.detail ∧
    (trapCauseOf t).getLsbD 16 = decide (t.slot ≠ 0) ∧ (trapCauseOf t).getLsbD 17 = t.skip := by
  have hcode := t.code.isLt
  have hdetail := t.detail.isLt
  have hslot : (if t.slot = 0 then 0 else 2 ^ 16) = 2 ^ 16 * (decide (t.slot ≠ 0)).toNat := by by_cases h : t.slot = 0 <;> simp [h]
  have hskip : (if t.skip = true then 2 ^ 17 else 0) = 2 ^ 17 * t.skip.toNat := by cases t.skip <;> rfl
  have hs1 := Bool.toNat_le (decide (t.slot ≠ 0))
  have hs2 := Bool.toNat_le t.skip
  have hbit (x : Nat) (b : Bool) (h : x % 2 = b.toNat) : decide (x % 2 = 1) = b := by rw [h]; cases b <;> rfl
  unfold trapCauseOf
  rw [hslot, hskip]
  refine ⟨BitVec.eq_of_toNat_eq ?_, BitVec.eq_of_toNat_eq ?_, ?_, ?_⟩
  · simp only [BitVec.extractLsb'_toNat, BitVec.toNat_ofNat, Nat.shiftRight_eq_div_pow]
    omega
  · simp only [BitVec.extractLsb'_toNat, BitVec.toNat_ofNat, Nat.shiftRight_eq_div_pow]
    omega
  · rw [BitVec.getLsbD_ofNat, Nat.testBit_eq_decide_div_mod_eq]
    simp only [Nat.reduceLT, decide_true, Bool.true_and]
    exact hbit _ _ (by omega)
  · rw [BitVec.getLsbD_ofNat, Nat.testBit_eq_decide_div_mod_eq]
    simp only [Nat.reduceLT, decide_true, Bool.true_and]
    exact hbit _ _ (by omega)

theorem nth_append_left {α : Type} (d : α) {l : List α} (l' : List α) {n : Nat} (h : n < l.length) : nth d (l ++ l') n = nth d l n := by
  rw [nth_eq_getD, nth_eq_getD, List.getElem?_append_left h]

theorem nth_append_right {α : Type} (d : α) {l : List α} (l' : List α) {n : Nat} (h : l.length ≤ n) :
    nth d (l ++ l') n = nth d l' (n - l.length) := by
  rw [nth_eq_getD, nth_eq_getD, List.getElem?_append_right h]

theorem nth_take {α : Type} (d : α) (l : List α) {n k : Nat} (h : n < k) : nth d (l.take k) n = nth d l n := by
  rw [nth_eq_getD, nth_eq_getD, List.getElem?_take_of_lt h]

theorem nth_of_length_le {α : Type} (d : α) {l : List α} {n : Nat} (h : l.length ≤ n) : nth d l n = d := by
  rw [nth_eq_getD, List.getElem?_eq_none h, Option.getD_none]

/-- Replacing V232 to V239 leaves the registers below them. -/
theorem nth_putTop (vregs top : List VReg) {n : Nat} (h : n < 232) : nth VReg.zero (putTop vregs top) n = nth VReg.zero vregs n := by
  unfold putTop
  split
  · rw [List.take_append_drop]
  · rw [nth_append_left _ _ (by rw [List.length_take]; omega), nth_take _ _ h]

theorem vreg_of_lt (w : Warp) {n : Nat} (h : n < 232) : w.vreg n = nth VReg.zero w.vregs n := by
  have hnot : ¬ w.lends n = true := by simp [Warp.lends]; omega
  rw [Warp.vreg, if_neg hnot]

/-- The lent block reads zero in every lane. -/
theorem lane_lentBlock {n l : Nat} (hn : n < 8) (hl : l < 32) : (nth VReg.zero lentBlock n).lane l = KVal.plain 0#32 := by
  have hreg : nth VReg.zero lentBlock n = { lanes := List.replicate 32 { val := 0#32, px := false }, uni := true } := by
    rw [nth_eq_getD, lentBlock, List.getElem?_replicate, if_pos hn, Option.getD_some]
  rw [hreg, VReg.lane, nth_eq_getD, List.getElem?_replicate, if_pos hl, Option.getD_some, KVal.plain]

/-- The frame that a trap entry saves (R306). -/
def Warp.trapFrame (w : Warp) (t : Trap) (p : Path) (reserve : Bool) : Frame :=
  { vregs := (w.vregs.drop 232).take 8, sregs := (w.sregs.drop 88).take 8, latches := w.latches
    clause := p.clause, slot := t.slot, wait := p.wait, fromReserve := reserve }

theorem entered_enter {w : Warp} {t : Trap} {p : Path} (hslot : t.slot < 2) (vec : DWord) (reserve : Bool) :
    w.Entered (w.enter t p vec reserve) t p vec := by
  obtain ⟨hcode, hdetail, hbit, hskip⟩ := trapCause_fields t
  have hpath : (w.enter t p vec reserve).path t.slot = some { p with pc := vec, clause := { s1 := none, s2 := none, left := 0 }, wait := .ready } := by
    unfold Warp.enter
    exact Warp.path_setPath_self _ _ _
  have hframe : (w.enter t p vec reserve).frame = some (w.trapFrame t p reserve) := by
    simp [Warp.enter, Warp.trapFrame]
  have hvregs : (w.enter t p vec reserve).vregs = putTop w.vregs lentBlock := by simp [Warp.enter]
  have hlent : (w.enter t p vec reserve).lent = lentBlock := by simp [Warp.enter]
  constructor
  case code => simpa [Warp.enter] using hcode
  case detail => simpa [Warp.enter] using hdetail
  case slotBit => simpa [Warp.enter] using hbit
  case skipBit => simpa [Warp.enter] using hskip
  case pc => simp [Warp.enter]
  case addr => simp [Warp.enter]
  case mask => simp [Warp.enter]
  case frame => exact ⟨_, hframe, rfl, rfl, rfl, rfl⟩
  case lent =>
    intro n l h1 h2 hl
    have hlends : (w.enter t p vec reserve).lends n = true := by simp [Warp.lends, hframe, h1, Nat.le_of_lt_succ h2]
    rw [Warp.vreg, if_pos hlends, hlent]
    exact lane_lentBlock (by omega) hl
  case own =>
    intro n hn
    rw [vreg_of_lt _ hn, vreg_of_lt _ hn, hvregs, nth_putTop _ _ hn]
  case rest => simp [Warp.enter]
  case starts => exact ⟨_, hpath, rfl, rfl, rfl, rfl⟩
  case other =>
    intro q hq
    unfold Warp.enter at hq
    rw [Warp.path_setPath_of_ne _ _ (by omega) hslot (by omega)] at hq
    unfold Warp.path at hq
    split at hq <;> · obtain ⟨q', -, rfl⟩ := Option.map_eq_some_iff.1 hq; rfl

/-- What a warp saves at the entry of a trap of its path does not depend on what its paths wait for. -/
theorem Warp.Entered.congr {v w w' : Warp} {t : Trap} {p p' : Path} {vec : DWord} (h : v.Entered w' t p' vec)
    (hvregs : v.vregs = w.vregs) (hsregs : v.sregs = w.sregs) (hlatches : v.latches = w.latches) (hpreds : v.preds = w.preds)
    (hshapes : v.shapes = w.shapes) (hp : ∃ x, p' = { p with wait := x }) : w.Entered w' t p vec := by
  obtain ⟨x, rfl⟩ := hp
  obtain ⟨hcode, hdetail, hbit, hskip, hpc, haddr, hmask, hframe, hlent, hown, hrest, hstarts, hother⟩ := h
  rw [hvregs, hsregs, hlatches] at hframe
  rw [hsregs, hpreds, hshapes] at hrest
  refine ⟨hcode, hdetail, hbit, hskip, hpc, haddr, hmask, hframe, hlent, fun n hn => ?_, hrest, hstarts, hother⟩
  rw [hown n hn, vreg_of_lt v hn, vreg_of_lt w hn, hvregs]

/-! ### Trap entry (R305, R306) -/

/-- A trap that can be entered is entered (R305, R306). -/
theorem tryEnter_enters {s : State} {b wi core : Nat} {blk : Block} {w : Warp} {p : Path} {lends : Bool} {t : Trap}
    (hw : s.warp? b wi = some (blk, w)) (ht : w.trap = some t) (hp : w.path t.slot = some p) (hslot : t.slot < 2)
    (hcore : blk.core? = some core) (hdrained : s.drained b wi w = true) (hvec : (s.ctx blk.ctx).trapVec ≠ 0#64)
    (hswitch : blk.switching = false) (hlend : s.lendable core = some lends)
    (hroom : s.entriesBefore core t < s.poolFree core + s.reserveFree core) :
    (∃ blk1 w1, (s.tryEnter b wi).warp? b wi = some (blk1, w1) ∧ w.Entered w1 t p (s.ctx blk.ctx).trapVec) ∧
      s.SameButTrapArea (s.tryEnter b wi) blk w := by
  have hnote : (s.setBlock blk.noteHandler).warp? b wi = some (blk.noteHandler, w) :=
    warp?_setBlock hw rfl (warp?_eq_some.1 hw).2
  obtain ⟨blk1, x, hw1, hsite1, -⟩ := withdraw_warp? hnote 0 true
  obtain ⟨blk2, y, hw2, hsite2, -⟩ := withdraw_warp? hw1 1 true
  obtain ⟨z, hp1, -⟩ := path_wokenAt hp x hslot (slot := 0) (by omega)
  obtain ⟨z', hp2, -⟩ := path_wokenAt hp1 y hslot (slot := 1) (by omega)
  have hsite : blk.SameSite blk2 := .trans (b := blk.noteHandler) ⟨rfl, rfl, rfl, rfl⟩ (hsite1.trans hsite2)
  have honly : w.PathsOnly ((w.wokenAt 0 x).wokenAt 1 y) := (pathsOnly_wokenAt w 0 x).trans (pathsOnly_wokenAt _ 1 y)
  have hground : s.SameGround (((s.setBlock blk.noteHandler).withdraw b wi 0).withdraw b wi 1) :=
    .trans (t := s.setBlock blk.noteHandler) ⟨rfl, rfl, rfl, rfl, rfl, rfl, rfl⟩
      ((withdraw_sameGround _ b wi 0 true).trans (withdraw_sameGround _ b wi 1 true))
  generalize hs2 : ((s.setBlock blk.noteHandler).withdraw b wi 0).withdraw b wi 1 = s2 at hw2 hground
  generalize hww : (w.wokenAt 0 x).wokenAt 1 y = w2 at hw2 hp2 honly
  have henter : s.tryEnter b wi = (s2.setWarp blk2 wi
      (w2.enter t { p with wait := z'.saved (s2.cycle (clusterOf core)) } (s2.ctx blk.ctx).trapVec lends)).fillVirt
        blk.ctx 2 (s2.trapArea blk2 w2) 4096 := by
    simp only [State.tryEnter, hw, ht, hcore, if_neg hvec, hdrained, hswitch, decide_eq_true hroom, hlend, hs2, hw2, hp2, Bool.not_false,
      Bool.and_self, if_true]
  rw [henter, hground.trapArea hsite.record (honly.field Warp.privb), hground.ctx]
  refine ⟨⟨_, _, (warp?_of_blocks (fillVirt_blocks _ _ _ _ _) b wi).trans (warp?_setWarp hw2 _), ?_⟩, fun hpage pa hout => ?_⟩
  · exact (entered_enter (w := w2) hslot _ _).congr (honly.field Warp.vregs) (honly.field Warp.sregs) (honly.field Warp.latches)
      (honly.field Warp.preds) (honly.field Warp.shapes) ⟨_, rfl⟩
  · have hsame : s.SameGround (s2.setWarp blk2 wi
        (w2.enter t { p with wait := z'.saved (s2.cycle (clusterOf core)) } (s.ctx blk.ctx).trapVec lends)) :=
      hground.trans ⟨rfl, rfl, rfl, rfl, rfl, rfl, rfl⟩
    rw [readByte_fillVirt_of_outside _ hpage, hsame.readByte]
    intro q hq
    rw [hsame.physOf] at hq
    exact hout q hq

/-- Whether a warp has something in flight does not depend on its trap and its paths. -/
theorem drained_withTrap {s : State} {b wi : Nat} {w : Warp} {t : Trap} (h : s.drained b wi w = true) :
    (s.withTrap b wi t).drained b wi { w with trap := some t } = true := by
  simpa [State.drained, State.busy, State.snapshotsDue, State.epochClosed, State.withTrap, Warp.pending, Warp.handles] using h

/-- The trap that a path in a slot raises (R305). -/
def State.newTrap (s : State) (slot code detail : Nat) (addr : DWord) (skip : Bool) : Trap :=
  { code := BitVec.ofNat 8 code, detail := BitVec.ofNat 8 detail, addr := addr, slot := slot, skip := skip, seq := s.nextId }

/-- A precise trap that can be entered at once is entered (R305). -/
theorem raiseTrap_enters {s : State} {b wi slot core : Nat} {blk : Block} {w : Warp} {p : Path} {lends : Bool} {code detail : Nat}
    {addr : DWord} {skip : Bool} {t : Trap} (ht : t = s.newTrap slot code detail addr skip)
    (hw : s.warp? b wi = some (blk, w)) (hp : w.path slot = some p) (hslot : slot < 2) (hcore : blk.core? = some core)
    (hframe : w.frame = none) (htrap : w.trap = none) (hvec : (s.ctx blk.ctx).trapVec ≠ 0#64) (hdrained : s.drained b wi w = true)
    (hswitch : blk.switching = false) (hlend : (s.withTrap b wi t).lendable core = some lends)
    (hroom : (s.withTrap b wi t).entriesBefore core t < (s.withTrap b wi t).poolFree core + (s.withTrap b wi t).reserveFree core) :
    (∃ blk1 w1, (s.raiseTrap b wi slot code detail addr skip).warp? b wi = some (blk1, w1) ∧
      w.Entered w1 t p (s.ctx blk.ctx).trapVec) ∧ s.SameButTrapArea (s.raiseTrap b wi slot code detail addr skip) blk w := by
  have hraise : s.raiseTrap b wi slot code detail addr skip = (s.withTrap b wi t).tryEnter b wi := by
    subst ht
    simp [State.raiseTrap, hw, hp, htrap, hvec, hframe, State.withTrap, State.newTrap]
  obtain ⟨blk0, hw0, hsite, hsame⟩ : ∃ blk0, (s.withTrap b wi t).warp? b wi = some (blk0, { w with trap := some t }) ∧ blk.SameSite blk0 ∧
      blk0.switching = blk.switching :=
    ⟨_, warp?_updWarp_self (s := { s with nextId := s.nextId + 1 }) hw _, ⟨rfl, rfl, rfl, rfl⟩, rfl⟩
  have hcore0 : blk0.core? = blk.core? := by rw [Block.core?, hsite.loc, Block.core?]
  have hground : s.SameGround (s.withTrap b wi t) :=
    .trans (t := { s with nextId := s.nextId + 1 }) ⟨rfl, rfl, rfl, rfl, rfl, rfl, rfl⟩ (sameGround_updWarp _ b wi _)
  have htslot : t.slot = slot := by rw [ht, State.newTrap]
  obtain ⟨⟨blk1, w1, hw1, hentered⟩, hbytes⟩ := tryEnter_enters (p := p) hw0 rfl (by rw [htslot]; exact hp) (by omega)
    (hcore0.trans hcore) (drained_withTrap hdrained) (by rw [hground.ctx, hsite.ctx]; exact hvec) (hsame.trans hswitch) hlend hroom
  rw [hraise]
  rw [hground.ctx, hsite.ctx] at hentered
  rw [State.SameButTrapArea, hground.trapArea (w := w) (w' := { w with trap := some t }) hsite.record rfl, hsite.ctx] at hbytes
  refine ⟨⟨blk1, w1, hw1, hentered.congr rfl rfl rfl rfl rfl ⟨p.wait, rfl⟩⟩, fun hpage pa hout => ?_⟩
  rw [hbytes hpage pa fun q hq => ?_, hground.readByte]
  rw [hground.physOf] at hq
  exact hout q hq

/-- A slot that stops for an asynchronous trap (R81, R305). -/
theorem stopSlot_spec {s : State} {b wi slot : Nat} {blk : Block} {w : Warp} {p : Path} (hw : s.warp? b wi = some (blk, w))
    (hp : w.path slot = some p) (hslot : slot < 2) (now : Nat) (rest : List AsyncTrap) (t : Trap) :
    ∃ blk1 w1 q, (s.stopSlot b wi slot now rest t).warp? b wi = some (blk1, w1) ∧ w1.async = rest ∧ w1.trap = some t ∧
      w1.path slot = some q ∧ q.pc = p.pc ∧ q.mask = p.mask ∧ w1.sregs = w.sregs ∧ w1.vregs = w.vregs ∧ w1.preds = w.preds ∧
      (p.wait = .blocked → q.wait ≠ .blocked) ∧ ∀ u, p.wait = .sleep u → q.wait = .slept (u - now) none := by
  obtain ⟨blk1, x, hw1, -, hx⟩ := withdraw_warp? hw slot true
  obtain ⟨y, hp1, hblocked, hother⟩ := path_wokenAt hp x hslot hslot
  have honly := pathsOnly_wokenAt w slot x
  have hp2 : Warp.path { w.wokenAt slot x with async := rest, trap := some t } slot = some { p with wait := y } := hp1
  refine ⟨_, _, { p with wait := y.saved now }, warp?_updWarp_self hw1 _, ?_⟩
  dsimp only
  rw [hp2]
  refine ⟨by simp, by simp, by rw [Warp.path_setWait_self, hp2]; rfl, rfl, rfl, ?_, ?_, ?_, fun h => ?_, fun u h => ?_⟩
  · rw [Warp.setWait_sregs]
    exact honly.field Warp.sregs
  · rw [Warp.setWait_vregs]
    exact honly.field Warp.vregs
  · rw [Warp.setWait_preds]
    exact honly.field Warp.preds
  · rw [hblocked rfl h]
    rcases hx with rfl | rfl <;> simp [Wait.saved]
  · rw [hother (by simp [h]) (by simp [h]), h]
    rfl

end Sys2Proof.Machine
end

section
/-!
PROOF. Traps that no handler takes end their block, and TRET returns from a handler (O38).
-/
namespace Sys2Proof.Machine
open Sys2Proof

/-! ### Which warps have ended (R78, R308) -/

/-- Whether a warp has ended, where it exists. -/
def State.ended? (s : State) (b i : Nat) : Option Bool := (s.warp? b i).map (·.2.ended)

/-- The same warps have ended in both states. -/
def State.KeepsEnded (s t : State) : Prop := ∀ b i, t.ended? b i = s.ended? b i

theorem State.KeepsEnded.refl (s : State) : s.KeepsEnded s := fun _ _ => rfl

theorem State.KeepsEnded.trans {s t u : State} (h : s.KeepsEnded t) (h' : t.KeepsEnded u) : s.KeepsEnded u :=
  fun b i => (h' b i).trans (h b i)

theorem keepsEnded_of_blocks {s t : State} (h : t.blocks = s.blocks) : s.KeepsEnded t := fun b i => by
  rw [State.ended?, State.ended?, warp?_of_blocks h]

theorem keepsEnded_foldl {α : Type} {f : State → α → State} (hf : ∀ (s : State) (x : α), s.KeepsEnded (f s x)) :
    ∀ (l : List α) (s : State), s.KeepsEnded (l.foldl f s)
  | [], s => .refl s
  | x :: xs, s => (hf s x).trans (keepsEnded_foldl hf xs (f s x))

theorem ended?_updWarp (s : State) (b wi : Nat) (f : Warp → Warp) (b' i : Nat) : (s.updWarp b wi f).ended? b' i =
    if b' = b ∧ i = wi then (s.warp? b wi).map (fun x => (f x.2).ended) else s.ended? b' i := by
  have h := congrArg (Option.map Warp.ended) (State.warp?_updWarp s b wi f b' i)
  rw [Option.map_map] at h
  refine h.trans ?_
  split <;> rw [Option.map_map] <;> rfl

theorem keepsEnded_updWarp (s : State) (b wi : Nat) {f : Warp → Warp} (hf : ∀ w, (f w).ended = w.ended) : s.KeepsEnded (s.updWarp b wi f) := by
  intro b' i
  rw [ended?_updWarp]
  split
  next h =>
    obtain ⟨rfl, rfl⟩ := h
    simp only [hf]
    rfl
  next => rfl

theorem ended?_eq (s : State) (b i : Nat) : s.ended? b i = (s.block? b).bind fun x => (x.warps.map (·.ended))[i]? := by
  rw [State.ended?, State.warp?]
  cases s.block? b with
  | none => rfl
  | some x =>
    simp only [Option.bind_some, Option.map_map, List.getElem?_map]
    rfl

theorem keepsEnded_setBlock {s : State} {x blk : Block} (hb : s.block? x.id = some blk)
    (hx : x.warps.map (·.ended) = blk.warps.map (·.ended)) : s.KeepsEnded (s.setBlock x) := by
  intro b i
  rw [ended?_eq, ended?_eq, State.block?_setBlock]
  split
  next h =>
    rw [h, hb]
    simp only [Option.map_some, Option.bind_some, hx]
  next => rfl

theorem map_ended_setNth {ws : List Warp} {i : Nat} {w w' : Warp} (hw : ws[i]? = some w) (h : w'.ended = w.ended) :
    (setNth ws i w').map (·.ended) = ws.map (·.ended) := by
  refine List.ext_getElem? fun k => ?_
  rw [List.getElem?_map, List.getElem?_map, setNth_getElem?]
  split
  next hk =>
    subst hk
    simp [hw, h]
  next => rfl

theorem keepsEnded_setWarp {s : State} {b wi : Nat} {blk : Block} {w w' : Warp} (hw : s.warp? b wi = some (blk, w))
    (h : w'.ended = w.ended) : s.KeepsEnded (s.setWarp blk wi w') := by
  obtain ⟨hb, hwi⟩ := warp?_eq_some.1 hw
  exact keepsEnded_setBlock (x := { blk with warps := setNth blk.warps wi w' }) (State.block?_id hb ▸ hb) (map_ended_setNth hwi h)

theorem unref_blocks (s : State) (core home slot : Nat) : (s.unref core home slot).blocks = s.blocks := by
  unfold State.unref
  split <;> rfl

theorem dropRefs_blocks (core ctx b wi : Nat) : ∀ (hs : List Word) (s : State), (s.dropRefs core ctx b wi hs).blocks = s.blocks
  | [], _ => rfl
  | h :: hs, s => by
    refine (dropRefs_blocks core ctx b wi hs _).trans ?_
    split
    · rfl
    · exact unref_blocks s core _ _

theorem keepsEnded_withdraw (s : State) (b wi slot : Nat) (keep : Bool) : s.KeepsEnded (s.withdraw b wi slot keep) := by
  cases hw : s.warp? b wi with
  | none =>
    have hcopies : (s.withdrawCopies b wi slot).warp? b wi = none := hw
    refine keepsEnded_of_blocks ?_
    simp only [State.withdraw, hcopies]
    rfl
  | some x =>
    obtain ⟨blk, w⟩ := x
    obtain ⟨hb, hwi⟩ := warp?_eq_some.1 hw
    have hblocks := withdraw_blocks hw slot keep
    split at hblocks
    next =>
      refine .trans (keepsEnded_setBlock (x := blk.withdrawn wi slot w) (State.block?_id hb ▸ hb) ?_) (keepsEnded_of_blocks hblocks)
      exact map_ended_setNth hwi (Warp.setWait_ended _ _ _)
    next => exact keepsEnded_of_blocks hblocks

theorem ended_nextWord_settled (w : Warp) (slot : Nat) : ((w.nextWord slot).settled).ended = w.ended :=
  ((Warp.PathsOnly.nextWord w slot).trans (.settled _)).field Warp.ended

theorem keepsEnded_setPreds (s : State) (core b wi n : Nat) (m : Mask) (f : Nat → PredLane) : s.KeepsEnded (s.setPreds core b wi n m f) := by
  unfold State.setPreds
  split
  · exact .refl s
  · split
    next => exact .refl s
    next blk w hw =>
      refine .trans (keepsEnded_setWarp hw ?_) (keepsEnded_of_blocks (dropRefs_blocks _ _ _ _ _ _))
      rfl

theorem keepsEnded_wakePost (s : State) (b wi : Nat) (p : Option Post) : s.KeepsEnded (s.wakePost b wi p) := by
  unfold State.wakePost
  split
  next x blk w _ _ => exact (keepsEnded_setPreds s _ b wi _ _ _).trans (keepsEnded_updWarp _ b wi fun w => ended_nextWord_settled w _)
  next => exact .refl s

theorem keepsEnded_endPairs (s : State) (b wi : Nat) : s.KeepsEnded (s.endPairs b wi) := by
  refine .trans (t := { s with pairs := s.pairs.filter fun p => !((p.block0 == b && p.warp0 == wi) || (p.block1 == b && p.warp1 == wi)) })
    (keepsEnded_of_blocks rfl) (keepsEnded_foldl (fun s p => ?_) _ _)
  exact (keepsEnded_wakePost s _ _ _).trans (keepsEnded_wakePost _ _ _ _)

/-- Noting a switch point's last arrival and passing on the bank contexts of a warp end no warp (R105, R284). -/
theorem keepsEnded_passOn {t u : State} (h : u.blocks = t.blocks) (b wi now : Nat) :
    let noted : State := match u.block? b with | some x => u.setBlock (x.noteWhole now) | none => u
    t.KeepsEnded (match (noted.block? b).bind (·.firstLive) with | some n => noted.passOwner b wi n | none => noted) := by
  intro noted
  have hnoted : u.KeepsEnded noted := by
    unfold noted
    split
    next x hx => exact keepsEnded_setBlock (x := x.noteWhole now) (blk := x) (State.block?_id hx ▸ hx) rfl
    next => exact .refl u
  refine (keepsEnded_of_blocks h).trans (hnoted.trans ?_)
  split
  · exact keepsEnded_of_blocks rfl
  · exact .refl _

/-- A warp that has just ended: it holds no path, trap or proxy (R78). -/
def Warp.endedNow (w : Warp) : Warp :=
  { w with
    ended := true, path0 := none, path1 := none, stack := [], holds := [], frame := none, lent := []
    trap := none, gate := none, turn := none
    vregs := w.vregs.map (fun r => { r with lanes := r.lanes.map (fun k => if k.px then { val := 0#32, px := false } else k) })
    preds := w.preds.map (fun p => p.map (fun q => if q.px.isSome then { val := false, px := none } else q)) }

/-- What ends with a warp before it is marked as ended: its waits, its pairs and its references (R78, R155, R269). -/
def State.unwound (s : State) (b wi : Nat) (blk : Block) (w : Warp) : State :=
  (((s.withdraw b wi 0).withdraw b wi 1).endPairs b wi).dropRefs ((blk.core?).getD 0) blk.ctx b wi w.handles

theorem keepsEnded_unwound (s : State) (b wi : Nat) (blk : Block) (w : Warp) : s.KeepsEnded (s.unwound b wi blk w) :=
  (((keepsEnded_withdraw s b wi 0 true).trans (keepsEnded_withdraw _ b wi 1 true)).trans (keepsEnded_endPairs _ b wi)).trans
    (keepsEnded_of_blocks (dropRefs_blocks _ _ _ _ _ _))

/-- After its warp is marked as ended the end of a warp ends no other (R78, R105, R284). -/
theorem endWarp_marks {s : State} {b wi : Nat} {blk : Block} {w : Warp} (hw : s.warp? b wi = some (blk, w)) (h : w.ended = false) :
    ((s.unwound b wi blk w).updWarp b wi Warp.endedNow).KeepsEnded (s.endWarp b wi) := by
  simp only [State.endWarp, hw, h, Bool.false_eq_true, if_false]
  refine keepsEnded_passOn ?_ b wi (s.cycle (clusterOf ((blk.core?).getD 0)))
  rfl

/-- A warp that ends has ended, and every other warp is as it was (R78). -/
theorem ended?_endWarp (s : State) (b wi b' i : Nat) : (s.endWarp b wi).ended? b' i =
    if b' = b ∧ i = wi then (s.ended? b wi).map (fun _ => true) else s.ended? b' i := by
  cases hw : s.warp? b wi with
  | none =>
    have hsame : s.endWarp b wi = s := by simp only [State.endWarp, hw]
    rw [hsame]
    split
    next h =>
      obtain ⟨rfl, rfl⟩ := h
      simp [State.ended?, hw]
    next => rfl
  | some x =>
    obtain ⟨blk, w⟩ := x
    cases hended : w.ended with
    | true =>
      have hsame : s.endWarp b wi = s := by simp only [State.endWarp, hw, hended, if_true]
      rw [hsame]
      split
      next h =>
        obtain ⟨rfl, rfl⟩ := h
        simp [State.ended?, hw, hended]
      next => rfl
    | false =>
      have hkeep := keepsEnded_unwound s b wi blk w
      rw [endWarp_marks hw hended, ended?_updWarp, ← hkeep b wi, ← hkeep b' i, State.ended?.eq_def _ b wi, Option.map_map]
      rfl

theorem ended?_foldl_endWarp (b i : Nat) : ∀ (l : List Nat) (s : State), (l.foldl (fun s i => s.endWarp b i) s).ended? b i =
    if i ∈ l then (s.ended? b i).map (fun _ => true) else s.ended? b i
  | [], s => by simp
  | x :: xs, s => by
    rw [List.foldl_cons, ended?_foldl_endWarp b i xs, ended?_endWarp]
    by_cases hx : i = x
    · subst hx
      by_cases hmem : i ∈ xs <;> simp [hmem, Option.map_map, Function.comp_def]
    · by_cases hmem : i ∈ xs <;> simp [hmem, hx]

/-! ### The end of a block (R308) -/

theorem over?_iff {t : State} {b : Nat} : t.over? b ↔ ∀ i, t.ended? b i ≠ some false := by
  unfold State.over?
  simp only [ended?_eq]
  cases t.block? b with
  | none => simp
  | some blk =>
    simp only [Option.bind_some, List.getElem?_map, ne_eq, Option.map_eq_some_iff, not_exists, not_and, Bool.not_eq_false]
    exact ⟨fun h i w hw => h w (List.mem_of_getElem? hw), fun h w hw => by
      obtain ⟨i, hi⟩ := List.mem_iff_getElem?.1 hw
      exact h i w hi⟩

theorem writeVirt_blocks (s : State) (ctx va : Nat) (bs : List Byte) (t : MemTag) : (s.writeVirt ctx va bs t).blocks = s.blocks :=
  (keepsCourse_storeBytes s _ t []).blocks

theorem writeHeld_blocks (s : State) (ctx : Nat) : (s.writeHeld ctx).blocks = s.blocks := by
  unfold State.writeHeld
  dsimp only
  split
  · split
    · split <;> exact writeVirt_blocks _ _ _ _ _
    · rfl
  · rfl

theorem postRecord_blocks (s : State) (ctx : Nat) (r : FaultRec) : (s.postRecord ctx r).blocks = s.blocks := by
  unfold State.postRecord
  split
  · rfl
  · exact writeHeld_blocks _ _

theorem writeStatus_blocks (s : State) (chan : Nat) (k : BankCtx) : (s.writeStatus chan k).blocks = s.blocks := by
  unfold State.writeStatus
  refine (writeVirt_blocks _ _ _ _ _).trans ?_
  dsimp only [State.note]
  split <;> rfl

theorem foldl_blocks {α : Type} {f : State → α → State} (hf : ∀ (s : State) (x : α), (f s x).blocks = s.blocks) :
    ∀ (l : List α) (s : State), (l.foldl f s).blocks = s.blocks
  | [], _ => rfl
  | x :: xs, s => (foldl_blocks hf xs (f s x)).trans (hf s x)

theorem abortBank_blocks (s : State) (b : Nat) : (s.abortBank b).blocks = s.blocks := by
  refine foldl_blocks (fun s i => ?_) _ s
  dsimp only
  split
  · rfl
  · exact foldl_blocks (fun s k => writeStatus_blocks s i k) _ _

theorem vacate_blocks (s : State) (c : Nat) : (s.vacate c).blocks = s.blocks := by
  unfold State.vacate
  split <;> rfl

theorem noteBlockEnd_blocks (s : State) (blk : Block) : (s.noteBlockEnd blk).blocks = s.blocks := by
  unfold State.noteBlockEnd
  dsimp only
  split <;> rfl

/-- A block that leaves is gone, and another stays as it is. -/
theorem reap_over {s : State} {b : Nat} (h : s.over? b) : (s.reap b).over? b := by
  unfold State.reap
  split
  next => exact h
  next blk hb =>
    split
    next =>
      have hgone : (s.blocks.filter fun x => x.id != b).find? (fun x => x.id == b) = none := by
        rw [List.find?_filter, List.find?_eq_none]
        intro x _
        by_cases hx : x.id = b <;> simp [hx]
      have hover {t : State} (ht : t.blocks = s.blocks.filter fun x => x.id != b) : t.over? b := by
        have hnone : t.block? b = none := by rw [State.block?, ht, hgone]
        rw [State.over?, hnone]
        trivial
      dsimp only
      split
      · exact hover (((vacate_blocks _ _).trans (abortBank_blocks _ _)).trans (noteBlockEnd_blocks _ _))
      · exact hover ((abortBank_blocks _ _).trans (noteBlockEnd_blocks _ _))
    next => exact h

/-- A block that is to be ended ends when no store of it is in flight (R308). -/
theorem tryTerminate_over {s : State} {b : Nat} {blk : Block} (hb : s.block? b = some blk) (hending : blk.ending ≠ none)
    (hstores : ∀ o ∈ s.ops, o.block = b → o.kind.isStore = false) : (s.tryTerminate b).over? b := by
  obtain ⟨⟨code, detail, pc, addr⟩, he⟩ := Option.ne_none_iff_exists'.1 hending
  have hany : (s.ops.any fun o => o.block == b && o.kind.isStore) = false := by
    rw [List.any_eq_false]
    intro o ho
    by_cases hob : o.block = b <;> simp [hob, hstores o ho]
  simp only [State.tryTerminate, hb, he, hany, Bool.false_eq_true, if_false]
  refine reap_over (over?_iff.2 fun i => ?_)
  rw [keepsEnded_of_blocks (postRecord_blocks _ _ _) b i, ended?_foldl_endWarp]
  split
  next => 
    cases (s.setBlock { blk with ending := none }).ended? b i <;> simp
  next hi =>
    have hid := State.block?_id hb
    have hlen : blk.warps.length ≤ i := by simpa using hi
    rw [keepsEnded_setBlock (x := { blk with ending := none }) (blk := blk) (by rw [hid, hb]) rfl b i, ended?_eq, hb]
    simp [hlen]

theorem terminate_over {s : State} {b : Nat} {blk : Block} (hb : s.block? b = some blk) (hending : blk.ending = none)
    (hstores : ∀ o ∈ s.ops, o.block = b → o.kind.isStore = false) (code detail : Nat) (pc addr : DWord) :
    (s.terminate b code detail pc addr).over? b := by
  simp only [State.terminate, hb, hending, Option.isSome_none, Bool.false_or]
  split
  next hall =>
    rw [State.over?, hb]
    simp only [Bool.and_eq_true, List.all_eq_true] at hall
    exact hall.2
  next =>
    have hset : (s.setBlock { blk with ending := some (code, detail, pc, addr) }).block? b =
        some { blk with ending := some (code, detail, pc, addr) } := by
      rw [State.block?_setBlock, State.block?_id hb, if_pos rfl, hb, Option.map_some]
    exact tryTerminate_over hset (by simp) hstores

/-- A trap that no handler can take ends the block (R308). -/
theorem raiseTrap_over {s : State} {b wi slot : Nat} {blk : Block} {w : Warp} {p : Path} {code detail : Nat} {addr : DWord} {skip : Bool}
    (hw : s.warp? b wi = some (blk, w)) (hp : w.path slot = some p) (htrap : w.trap = none)
    (hnone : (s.ctx blk.ctx).trapVec = 0#64 ∨ w.frame ≠ none) (hending : blk.ending = none)
    (hstores : ∀ o ∈ s.ops, o.block = b → o.kind.isStore = false) : (s.raiseTrap b wi slot code detail addr skip).over? b := by
  have hends : (decide ((s.ctx blk.ctx).trapVec = 0#64) || w.frame.isSome) = true := by
    rw [Bool.or_eq_true, decide_eq_true_eq, Option.isSome_iff_ne_none]
    exact hnone
  have hterm : s.raiseTrap b wi slot code detail addr skip = s.terminate b code detail p.pc addr := by
    simp only [State.raiseTrap, hw, hp, htrap, Option.isSome_none, Bool.false_eq_true, if_false, hends, if_true]
  rw [hterm]
  exact terminate_over (warp?_eq_some.1 hw).1 hending hstores _ _ _ _

/-! ### TRET (R309) -/

theorem readByte_dropRefs (core ctx b wi pa : Nat) : ∀ (hs : List Word) (s : State), (s.dropRefs core ctx b wi hs).readByte pa = s.readByte pa
  | [], _ => rfl
  | h :: hs, s => by
    refine (readByte_dropRefs core ctx b wi pa hs _).trans ?_
    split
    · rfl
    · unfold State.unref
      split <;> rfl

section
variable {s : State} {a : Actx} {o : Opnds} (h : s.Acts a o.gn o.g)
include h

theorem trapReturn_illegal (skip : Bool) (hbad : a.w.frame = none ∨ a.lanes o ≠ a.w.trapMask) :
    s.trapReturn o skip = .next (s.raise a Code.illegal 0x0F) := by
  rw [State.trapReturn, run_acts h]
  cases hf : a.w.frame with
  | none => rfl
  | some f =>
    have hlanes : a.lanes o ≠ a.w.trapMask := hbad.resolve_left (by simp [hf])
    simp only [if_pos hlanes]

variable {f : Frame} (hf : a.w.frame = some f) (hlanes : a.lanes o = a.w.trapMask)
include hf hlanes

theorem trapReturn_waits (skip : Bool) (hbusy : s.busy a.bid a.wi = true ∨ a.w.pending = true) : s.trapReturn o skip = .next s := by
  have hwait : (s.busy a.bid a.wi || a.w.pending) = true := by rwa [Bool.or_eq_true]
  rw [State.trapReturn, run_acts h, hf]
  simp only [if_neg (not_not.2 hlanes), if_pos hwait]

theorem trapReturn_returns (skip : Bool) (hbusy : s.busy a.bid a.wi = false) (hpending : a.w.pending = false) :
    ∃ t : State, s.trapReturn o skip = .next t ∧
      t.warp? a.bid a.wi = some ({ a.blk with warps := setNth a.blk.warps a.wi (a.w.returned a.slot a.p f (s.cycle (clusterOf a.core)) skip) },
        a.w.returned a.slot a.p f (s.cycle (clusterOf a.core)) skip) ∧
      ∀ pa, t.readByte pa = s.readByte pa := by
  obtain ⟨-, hw, -, -⟩ := actx_eq_some h.1
  have hdropped : (s.dropHandler a).warp? a.bid a.wi = some (a.blk, a.w) := (warp?_of_blocks (dropRefs_blocks _ _ _ _ _ _) _ _).trans hw
  refine ⟨(s.dropHandler a).updWarp a.bid a.wi fun w => w.returned a.slot a.p f (s.cycle (clusterOf a.core)) skip, ?_,
    warp?_updWarp_self hdropped _, fun pa => ?_⟩
  · rw [State.trapReturn, run_acts h, hf]
    simp only [if_neg (not_not.2 hlanes), hbusy, hpending, Bool.or_self, Bool.false_eq_true, if_false]
  · rw [State.readByte_updWarp]
    exact readByte_dropRefs _ _ _ _ _ _ s

end

/-- A warp after TRET is the warp back at its path, once the paths at their rejoin points have arrived (R64, R309). -/
theorem returned_eq (w : Warp) (slot : Nat) (p : Path) (f : Frame) (now : Nat) (skip : Bool) :
    w.returned slot p f now skip = (w.backAt slot p f now skip).settled := rfl

theorem settle_none {w : Warp} (fuel : Nat) (h0 : w.dueAtRejoin 0 = none) (h1 : w.dueAtRejoin 1 = none) :
    Warp.settle (fuel + 1) w = w := by rw [Warp.settle, h0, h1]

theorem settle_first {w : Warp} {j : Nat} {m : Mask} (fuel : Nat) (h0 : w.dueAtRejoin 0 = some (j, m)) :
    Warp.settle (fuel + 1) w = Warp.settle fuel (w.arriveAt 0 j m) := by rw [Warp.settle, h0]

theorem settle_second {w : Warp} {j : Nat} {m : Mask} (fuel : Nat) (h0 : w.dueAtRejoin 0 = none) (h1 : w.dueAtRejoin 1 = some (j, m)) :
    Warp.settle (fuel + 1) w = Warp.settle fuel (w.arriveAt 1 j m) := by rw [Warp.settle, h0, h1]

section
variable {w : Warp} {slot : Nat} {p : Path} {f : Frame} (now : Nat) (skip : Bool) (hf : w.frame = some f)
include hf

/-- The warp back at its path, field by field: its registers, its latches and its other path. -/
theorem backAt_fields (hslot : slot < 2) :
    let w0 := w.backAt slot p f now skip
    w0.frame = none ∧ w0.sregs = w.sregs.take 88 ++ f.sregs ∧ w0.preds = w.preds ∧
    w0.latches = f.latches.map (fun (l : Latch) => { l with valid := 0 }) ∧
    w0.vregs = (if f.vregs.isEmpty then w.vregs else putTop w.vregs (f.vregs.map fun (r : VReg) => { r with uni := false })) ∧
    w0.path (1 - slot) = (w.path (1 - slot)).map fun (q : Path) => { q with held := false } := by
  intro w0
  simp only [w0, Warp.backAt, Warp.leaveHandler, hf, Warp.setPath_frame, Warp.setPath_sregs, Warp.setPath_preds, Warp.setPath_latches,
    Warp.setPath_vregs, true_and]
  rw [Warp.path_setPath_of_ne _ _ (by omega) hslot (by omega)]
  unfold Warp.path
  split <;> rfl

variable (hslot : slot < 2)
include hslot

theorem returned_fields :
    let w1 := w.returned slot p f now skip
    w1.frame = none ∧ w1.sregs = w.sregs.take 88 ++ f.sregs ∧ w1.preds = w.preds ∧
    w1.latches = f.latches.map (fun (l : Latch) => { l with valid := 0 }) ∧
    w1.vregs = (if f.vregs.isEmpty then w.vregs else putTop w.vregs (f.vregs.map fun (r : VReg) => { r with uni := false })) := by
  have honly := Warp.PathsOnly.settled (w.backAt slot p f now skip)
  obtain ⟨hframe, hsregs, hpreds, hlatches, hvregs, -⟩ := backAt_fields (p := p) now skip hf hslot
  exact ⟨(honly.field Warp.frame).trans hframe, (honly.field Warp.sregs).trans hsregs, (honly.field Warp.preds).trans hpreds,
    (honly.field Warp.latches).trans hlatches, (honly.field Warp.vregs).trans hvregs⟩

theorem vreg_returned {n : Nat} : (w.returned slot p f now skip).vreg n =
    nth VReg.zero (if f.vregs.isEmpty then w.vregs else putTop w.vregs (f.vregs.map fun (r : VReg) => { r with uni := false })) n := by
  obtain ⟨hframe, -, -, -, hvregs⟩ := returned_fields (p := p) now skip hf hslot
  have hnot : ¬(w.returned slot p f now skip).lends n = true := by simp [Warp.lends, hframe]
  rw [Warp.vreg, if_neg hnot, hvregs]

/-- The registers below V232 are the warp's own (R309). -/
theorem vreg_returned_own {n : Nat} (hn : n < 232) : (w.returned slot p f now skip).vreg n = w.vreg n := by
  rw [vreg_returned now skip hf hslot, vreg_of_lt w hn]
  split
  · rfl
  · exact nth_putTop _ _ hn

/-- V232 to V239 hold what the frame holds, where the warp has them (R309). -/
theorem lane_vreg_returned (hlen : f.vregs.length = (w.vregs.drop 232).length) (hb : w.vregs.length ≤ 240) {n : Nat} (hn : n < f.vregs.length)
    (h8 : w.vregs.length % 8 = 0) (l : Nat) :
    ((w.returned slot p f now skip).vreg (232 + n)).lane l = (nth VReg.zero f.vregs n).lane l := by
  have hfull : w.vregs.length = 240 := by
    rw [List.length_drop] at hlen
    omega
  have hne : ¬ f.vregs.isEmpty = true := by
    rw [List.isEmpty_iff_length_eq_zero]
    omega
  have htake : (w.vregs.take 232).length = 232 := by rw [List.length_take, hfull]; rfl
  rw [vreg_returned now skip hf hslot, if_neg hne, putTop, if_neg (by omega), nth_append_right _ _ (by omega), htake,
    Nat.add_sub_cancel_left, nth_eq_getD, nth_eq_getD, List.getElem?_map]
  cases f.vregs[n]? <;> rfl

/-- S88 to S95 hold what the frame holds (R309). -/
theorem sreg_returned (hs : w.sregs.length = 96) (hfs : f.sregs.length = 8) (n : Nat) :
    (w.returned slot p f now skip).sreg n = if 88 ≤ n ∧ n < 96 then nth 0#32 f.sregs (n - 88) else w.sreg n := by
  obtain ⟨-, hsregs, -⟩ := returned_fields (p := p) now skip hf hslot
  have htake : (w.sregs.take 88).length = 88 := by rw [List.length_take, hs]; rfl
  rw [Warp.sreg, hsregs, Warp.sreg]
  split
  next h => rw [nth_append_right _ _ (by omega), htake]
  next h =>
    by_cases hn : n < 88
    · rw [nth_append_left _ _ (by omega), nth_take _ _ hn]
    · rw [nth_of_length_le _ (by rw [List.length_append, htake, hfs]; omega), nth_of_length_le _ (by omega)]

end

/-- Settles O38: a trap is entered or ends its block, and a TRET gives back what the entry saved. -/
theorem trapEntryAndReturn : Obligations.TrapEntryAndReturn := by
  refine ⟨⟨?_, ?_, ?_, ?_, ?_, ?_⟩, ?_, ?_⟩
  · intro s b wi slot core blk w p lends code detail addr skip hw hp hslot hcore hframe htrap hvec hdrained hswitch t s0 s1 hlend hroom
    exact raiseTrap_enters rfl hw hp hslot hcore hframe htrap hvec hdrained hswitch hlend hroom
  · intro s core blk w p lends t hw ht hp hslot hcore hended hdrained hvec hswitch hlend hroom
    obtain ⟨⟨blk1, w1, hw1, hentered⟩, hbytes⟩ := tryEnter_enters hw ht hp hslot hcore hdrained hvec hswitch hlend hroom
    refine ⟨_, blk1, w1, ?_, hw1, hentered, hbytes⟩
    have hid := State.block?_id (warp?_eq_some.1 hw).1
    simp [execTrapEntry, hw, hcore, hended, ht, hid]
  · intro s core slot blk w p x rest hw hcore hended htrap hasync hslot hp hframe hpark hstop hending hheld hswitch hcsrw t
    have hid := State.block?_id (warp?_eq_some.1 hw).1
    rw [hid] at hheld hcsrw
    have hentry : exec .trapEntry s = .next (s.takeAsync blk (s.arg 1) w) := by
      simp [execTrapEntry, hw, hcore, hended, htrap]
    rw [hentry]
    constructor <;> intro hvec <;>
      simp [State.takeAsync, hasync, hslot, hframe, hpark, hstop, hending, hheld, hswitch, hcsrw, hid, hp, hvec, hcore, t]
  · intro s b wi slot now rest t blk w p hw hp hslot
    exact stopSlot_spec hw hp hslot now rest t
  · intro s b wi slot blk w p code detail addr skip hw hp htrap hnone hending hstores
    exact raiseTrap_over hw hp htrap hnone hending hstores
  · intro s blk hb hending hstores
    exact ⟨_, rfl, tryTerminate_over hb hending hstores⟩
  · intro skip o s a h i
    have hi : exec i s = s.trapReturn o skip := by
      unfold i
      cases skip <;> rfl
    rw [hi]
    exact ⟨trapReturn_illegal h skip, fun f hf hlanes => trapReturn_waits h hf hlanes skip,
      fun f hf hlanes => trapReturn_returns h hf hlanes skip⟩
  · intro w slot p f now skip hf hp hslot hs hfs hlen hvregs hb w0 w1
    obtain ⟨hframe, -, hpreds, hlatches, -⟩ := returned_fields (p := p) now skip hf hslot
    obtain ⟨-, -, -, -, -, hother⟩ := backAt_fields (p := p) now skip hf hslot
    refine ⟨hframe, fun n l hn _ => by rw [vreg_returned_own now skip hf hslot hn],
      fun n l hn _ => lane_vreg_returned now skip hf hslot hlen (by omega) hn (by omega) l,
      sreg_returned now skip hf hslot hs hfs, hpreds, fun x hx => ?_, fun h0 h1 => ?_, fun j m h0 => ?_, fun j m h0 h1 => ?_⟩
    · rw [hlatches] at hx
      obtain ⟨l, -, rfl⟩ := List.mem_map.1 hx
      rfl
    · have hsame : w1 = w0 := settle_none _ h0 h1
      rw [hsame]
      exact ⟨rfl, hother⟩
    · exact settle_first _ h0
    · exact settle_second _ h0 h1

end Sys2Proof.Machine
end

section
/-!
PROOF. The work of homes on the requests of their cores: results and snapshots formed, replies and drops (O51).
-/
namespace Sys2Proof.Machine
open Sys2Proof

/-! ### Flits, replies and requests, field by field -/

theorem setWaveguide_eq (s : State) (w : Waveguide) : ∃ ws, s.setWaveguide w = { s with waveguides := ws } := by
  unfold State.setWaveguide
  split
  · exact ⟨_, rfl⟩
  · exact ⟨_, rfl⟩

/-- Flits join a waveguide, and nothing else changes. -/
theorem sendFlit_eq (s : State) (id st flit n : Nat) : ∃ ws, s.sendFlit id st flit n = { s with waveguides := ws } :=
  setWaveguide_eq s _

theorem replyFlit_eq (s : State) (home core flit n : Nat) : ∃ ws, s.replyFlit home core flit n = { s with waveguides := ws } :=
  sendFlit_eq s _ _ flit n

@[simp] theorem replyFlit_blocks (s : State) (home core flit n : Nat) : (s.replyFlit home core flit n).blocks = s.blocks := by
  obtain ⟨ws, h⟩ := replyFlit_eq s home core flit n
  rw [h]

@[simp] theorem replyFlit_homes (s : State) (home core flit n : Nat) : (s.replyFlit home core flit n).homes = s.homes := by
  obtain ⟨ws, h⟩ := replyFlit_eq s home core flit n
  rw [h]

@[simp] theorem replyFlit_pxReqs (s : State) (home core flit n : Nat) : (s.replyFlit home core flit n).pxReqs = s.pxReqs := by
  obtain ⟨ws, h⟩ := replyFlit_eq s home core flit n
  rw [h]

@[simp] theorem retireMicro_blocks (s : State) (c : Nat) : (s.retireMicro c).blocks = s.blocks := rfl
@[simp] theorem retireMicro_homes (s : State) (c : Nat) : (s.retireMicro c).homes = s.homes := rfl
@[simp] theorem retireMicro_pxReqs (s : State) (c : Nat) : (s.retireMicro c).pxReqs = s.pxReqs := rfl
@[simp] theorem setPxReq_homes (s : State) (r : PxReq) : (s.setPxReq r).homes = s.homes := rfl
@[simp] theorem formRun_pxReqs (s : State) (home slot : Nat) (ws : List Word) : (s.formRun home slot ws).pxReqs = s.pxReqs := rfl

@[simp] theorem answered_blocks (s : State) (r : PxReq) (ws : List Word) : (s.answered r ws).blocks = s.blocks := by
  simp [State.answered, State.setPxReq]

@[simp] theorem answered_homes (s : State) (r : PxReq) (ws : List Word) : (s.answered r ws).homes = s.homes := by
  simp [State.answered]

theorem answered_pxReqs (s : State) (r : PxReq) (ws : List Word) : (s.answered r ws).pxReqs =
    s.pxReqs.map fun (x : PxReq) => if x.id = r.id then { r with served := true, data := ws } else x := by
  simp [State.answered, State.setPxReq]

theorem pxReq?_mem {s : State} {id : Nat} {r : PxReq} (h : s.pxReq? id = some r) : r ∈ s.pxReqs := List.mem_of_find?_eq_some h

/-- A request changed in place stands among the requests. -/
theorem mem_setPxReq {s : State} {r r' : PxReq} (h : r ∈ s.pxReqs) (hid : r'.id = r.id) : r' ∈ (s.setPxReq r').pxReqs :=
  List.mem_map.2 ⟨r, h, if_pos hid.symm⟩

theorem served_answered {s : State} {r : PxReq} (h : r ∈ s.pxReqs) (ws : List Word) :
    ∃ q ∈ (s.answered r ws).pxReqs, q.id = r.id ∧ q.served = true := by
  rw [answered_pxReqs]
  exact ⟨{ r with served := true, data := ws }, List.mem_map.2 ⟨r, h, if_pos rfl⟩, rfl, rfl⟩

/-! ### Runs that receive their words (R260, R264) -/

/-- The words of a run stand in the store of its home. -/
def Home.HoldsWords (h : Home) (slot : Nat) (ws : List Word) : Prop :=
  ∀ i, i < ws.length → cellGet 0#32 h.words (16 * slot + i) = nth 0#32 ws i

/-- The words of a run in their home's store, the run formed where there is one, and the request served. -/
def State.FormedFor (t : State) (home id slot : Nat) (ws : List Word) : Prop :=
  (t.home home).HoldsWords slot ws ∧ (∀ x, (t.home home).run? slot = some x → x.formed = true) ∧
    ∃ q ∈ t.pxReqs, q.id = id ∧ q.served = true

/-- Words put one after another, from a key on, are read at their keys. -/
theorem cellGet_putRun {m : List (Nat × Word)} (h : cellWf 0#32 m = true) (base : Nat) (ws : List Word) {i : Nat} (hi : i < ws.length) :
    cellGet 0#32 (ws.zipIdx.foldl (fun m x => cellPut 0#32 m (base + x.2) x.1) m) (base + i) = nth 0#32 ws i := by
  have hfold : ws.zipIdx.foldl (fun m x => cellPut 0#32 m (base + x.2) x.1) m =
      (ws.zipIdx.map fun x => (base + x.2, x.1)).foldl (fun m x => cellPut 0#32 m x.1 x.2) m := by
    rw [List.foldl_map]
  have hword : nth 0#32 ws i = ws[i] := by rw [nth_eq_getD, List.getElem?_eq_getElem hi, Option.getD_some]
  rw [hfold, hword]
  refine cellGet_puts_of_mem h (List.mem_map.2 ⟨(ws[i], i), List.mem_zipIdx_iff_getElem?.2 (List.getElem?_eq_getElem hi), rfl⟩) ?_
  intro u hu
  obtain ⟨⟨v, j⟩, hv, he⟩ := List.mem_map.1 hu
  obtain ⟨hj, rfl⟩ : base + j = base + i ∧ v = u := Prod.mk.inj he
  obtain rfl : j = i := by omega
  exact Option.some.inj ((List.mem_zipIdx_iff_getElem?.1 hv).symm.trans (List.getElem?_eq_getElem hi))

theorem find?_markFormed (slot : Nat) : ∀ (rs : List Run) {x : Run},
    (markFormed slot rs).find? (fun r => r.slot == slot) = some x → x.formed = true
  | r :: rs, x, h => by
    by_cases hr : r.slot = slot
    · simp only [markFormed, if_pos hr, List.find?_cons, beq_iff_eq.2 hr, Option.some.injEq] at h
      rw [← h]
    · simp only [markFormed, if_neg hr, List.find?_cons, beq_eq_false_iff_ne.2 hr] at h
      exact find?_markFormed slot rs h

/-- To mark a run as formed keeps what else is said of each run. -/
theorem mem_markFormed {slot : Nat} : ∀ {rs : List Run} {x : Run}, x ∈ rs → ∃ y ∈ markFormed slot rs, { y with formed := x.formed } = x
  | r :: rs, x, h => by
    by_cases hr : r.slot = slot
    · rw [markFormed, if_pos hr]
      obtain rfl | hx := List.mem_cons.1 h
      · exact ⟨_, List.mem_cons_self, rfl⟩
      · exact ⟨x, List.mem_cons_of_mem _ hx, rfl⟩
    · rw [markFormed, if_neg hr]
      obtain rfl | hx := List.mem_cons.1 h
      · exact ⟨x, List.mem_cons_self, rfl⟩
      · obtain ⟨y, hy, he⟩ := mem_markFormed hx
        exact ⟨y, List.mem_cons_of_mem _ hy, he⟩

theorem formRun_home {s : State} {home : Nat} (h : home < s.homes.length) (slot : Nat) (ws : List Word) :
    (s.formRun home slot ws).home home =
      { runs := markFormed slot (s.home home).runs
        words := ws.zipIdx.foldl (fun m x => cellPut 0#32 m (16 * slot + x.2) x.1) (s.home home).words } :=
  State.home_setHome_self s _ h

theorem home_of_homes {s t : State} (h : t.homes = s.homes) (home : Nat) : t.home home = s.home home := by
  rw [State.home, State.home, h]

/-- A state whose homes are those of a run just formed, and in which the request is served. -/
theorem formedFor_of_formRun {s t : State} {home id slot : Nat} {ws : List Word} (hlen : home < s.homes.length)
    (hwf : cellWf 0#32 (s.home home).words = true) (ht : t.homes = (s.formRun home slot ws).homes)
    (hq : ∃ q ∈ t.pxReqs, q.id = id ∧ q.served = true) : t.FormedFor home id slot ws := by
  have hhome := (home_of_homes ht home).trans (formRun_home hlen slot ws)
  refine ⟨?_, ?_, hq⟩
  · intro i hi
    rw [hhome]
    exact cellGet_putRun hwf _ ws hi
  · intro x hx
    rw [hhome] at hx
    exact find?_markFormed slot _ hx

theorem formedFor_answered {s : State} {r : PxReq} (hr : r ∈ s.pxReqs) (hlen : r.home < s.homes.length)
    (hwf : cellWf 0#32 (s.home r.home).words = true) (slot : Nat) (ws : List Word) :
    ((s.formRun r.home slot ws).answered r []).FormedFor r.home r.id slot ws :=
  formedFor_of_formRun hlen hwf (answered_homes _ _ _) (served_answered (s := s.formRun r.home slot ws) hr [])

/-! ### Snapshots (R274) -/

theorem loadBytesAt_frame (t : Nat) : ∀ (pas : List Nat) (s : State), (s.loadBytesAt t pas).2.homes = s.homes ∧
    (s.loadBytesAt t pas).2.pxReqs = s.pxReqs
  | [], _ => ⟨rfl, rfl⟩
  | pa :: pas, s => by
    rw [State.loadBytesAt]
    split
    · exact loadBytesAt_frame t pas { s with drawn := s.drawn + 1 }
    · exact loadBytesAt_frame t pas s

theorem readAt_homes (s : State) (q : MemTag) (pas : List Nat) (t : Nat) : (s.readAt q pas t).2.homes = s.homes :=
  (loadBytesAt_frame t pas s).1

theorem readAt_pxReqs (s : State) (q : MemTag) (pas : List Nat) (t : Nat) : (s.readAt q pas t).2.pxReqs = s.pxReqs :=
  (loadBytesAt_frame t pas s).2

/-- The words of bytes, four bytes each. -/
def wordsOfBytes (n : Nat) (bs : List Byte) : List Word := (List.range n).map fun i => BitVec.ofNat 32 (leNat ((bs.drop (4 * i)).take 4))

/-- The time of the memory log at which a snapshot reads its bytes, for the age that it names (R198). -/
def State.snapshotTime (s : State) (r : PxReq) (age : Nat) : Nat :=
  (s.readTime (MemTag.warp r.block r.warp r.core r.id) none r.kind.bytes (s.memTime - age)).getD s.memTime

theorem takeSnapshot_forms {s : State} {r : PxReq} {id pa n slot g : Nat} (hr : s.pxReq? id = some r) (hk : r.kind = .snapshot pa n slot g)
    (hserved : r.served = false) (hfirst : s.firstAt r r.home = true) (hserves : s.proxyServes r = true)
    (htouch : s.earlierTouch r.id r.block r.warp r.kind.bytes true = false) (hlen : r.home < s.homes.length)
    (hwf : cellWf 0#32 (s.home r.home).words = true) (age : Nat) :
    (s.takeSnapshot id age).FormedFor r.home r.id slot
      (wordsOfBytes n (s.readAt (MemTag.warp r.block r.warp r.core r.id) r.kind.bytes (s.snapshotTime r age)).1) := by
  have hbytes : r.kind.bytes = (PxKind.snapshot pa n slot g).bytes := by rw [hk]
  rw [hbytes] at htouch
  simp only [State.takeSnapshot, hr, hk, hserved, hfirst, hserves, htouch, Bool.not_true, Bool.or_false, Bool.false_eq_true, if_false,
    State.snapshotTime]
  refine formedFor_of_formRun (s := State.updWarp _ _ _ _) ?_ ?_ (answered_homes _ _ _) (served_answered ?_ [])
  · simpa [readAt_homes] using hlen
  · rw [home_of_homes (s := s) (by simp [readAt_homes])]
    exact hwf
  · simpa [readAt_pxReqs] using pxReq?_mem hr

/-! ### Results, second runs, materialised words and crossed bits (R74, R264, R267) -/

/-- The words of a run in its home's store. -/
def State.storedWords (s : State) (home slot ext : Nat) : List Word :=
  (List.range (2 ^ ext)).map fun i => cellGet 0#32 (s.home home).words (16 * slot + i)

/-- The slot holds a run of a context. -/
def State.OwnsRun (s : State) (ctx home slot : Nat) : Prop := ∃ q, (s.home home).run? slot = some q ∧ q.ctx = ctx

/-- The words of a source: its run's, or the one plain word. -/
def State.wordsOfSrc (s : State) : PxSrc → List Word
  | .plain v => [v]
  | .run home slot ext => s.storedWords home slot ext

theorem runWords_of_owns {s : State} {ctx home slot : Nat} (h : s.OwnsRun ctx home slot) (ext : Nat) :
    s.runWords ctx home slot ext = (s.storedWords home slot ext, s) := by
  obtain ⟨q, hq, rfl⟩ := h
  simp only [State.runWords, hq, if_true, State.storedWords]

theorem srcWords_of_owns {s : State} {ctx : Nat} : ∀ {srcs : List PxSrc},
    (∀ x ∈ srcs, ∀ home slot ext, x = .run home slot ext → s.OwnsRun ctx home slot) → s.srcWords ctx srcs = (srcs.map s.wordsOfSrc, s)
  | [], _ => rfl
  | .plain v :: srcs, h => by
    rw [State.srcWords, srcWords_of_owns fun x hx => h x (List.mem_cons_of_mem _ hx)]
    rfl
  | .run home slot ext :: srcs, h => by
    simp only [State.srcWords, runWords_of_owns (h _ List.mem_cons_self home slot ext rfl),
      srcWords_of_owns fun x hx => h x (List.mem_cons_of_mem _ hx), List.map_cons, State.wordsOfSrc]

section
variable {s : State} {r : PxReq} {id : Nat} (hr : s.pxReq? id = some r) (hserved : r.served = false)
  (hfirst : s.firstAt r r.home = true) (hserves : s.proxyServes r = true)
include hr hserved hfirst hserves

theorem proxyOperate_operate {fn : HomeFn} {srcs : List PxSrc} {slot ext : Nat} (hk : r.kind = .operate fn srcs slot ext)
    (heven : pdotUneven fn srcs = false)
    (hown : ∀ x ∈ srcs, ∀ home sl e, x = .run home sl e → s.OwnsRun r.ctx home sl) :
    s.proxyOperate id = (s.formRun r.home slot (fn.run (2 ^ ext) (srcs.map s.wordsOfSrc))).answered r [] := by
  simp [State.proxyOperate, hr, hserved, hfirst, hserves, hk, heven, srcWords_of_owns hown]

theorem proxyOperate_dup {src slot ext : Nat} (hk : r.kind = .dup src slot ext) (hown : s.OwnsRun r.ctx r.home src) :
    s.proxyOperate id = (s.formRun r.home slot (s.storedWords r.home src ext)).answered r [] := by
  simp [State.proxyOperate, hr, hserved, hfirst, hserves, hk, runWords_of_owns hown]

theorem proxyOperate_mat {op lane home slot ext : Nat} (hk : r.kind = .mat op lane) (hrun : s.matRun op lane = some (home, slot, ext))
    (hown : s.OwnsRun r.ctx home slot) : s.proxyOperate id = s.answered r (s.storedWords home slot ext) := by
  simp [State.proxyOperate, hr, hserved, hfirst, hserves, hk, hrun, runWords_of_owns hown]

theorem proxyOperate_cross {slot lane : Nat} (hk : r.kind = .cross slot lane) (hown : s.OwnsRun r.ctx r.home slot) :
    s.proxyOperate id = s.answered r (s.storedWords r.home slot 0) := by
  simp [State.proxyOperate, hr, hserved, hfirst, hserves, hk, runWords_of_owns hown]

end

/-! ### Drops (R260, R269) -/

/-- A run of a home replaced: the first at its slot is the new one. -/
theorem find?_replaceRun {slot : Nat} {x y : Run} (hy : y.slot = slot) : ∀ {rs : List Run}, rs.find? (fun r => r.slot == slot) = some x →
    (replaceRun x y rs).find? (fun r => r.slot == slot) = some y
  | r :: rs, h => by
    by_cases hr : r.slot = slot
    · obtain rfl : r = x := by simpa [hr] using h
      simp [replaceRun, hy]
    · have hrest : rs.find? (fun r => r.slot == slot) = some x := by simpa [hr] using h
      have hx : x.slot = slot := by simpa using List.find?_some hrest
      have hne : r ≠ x := fun e => hr (e ▸ hx)
      rw [replaceRun, if_neg hne, List.find?_cons, beq_eq_false_iff_ne.2 hr]
      exact find?_replaceRun hy hrest

/-- The run that a drop leaves at its home: none with the last reference. -/
def State.dropped (s : State) (r : PxReq) (x : Run) : State :=
  if x.count ≤ 1 then (s.endReq r.id).setHome r.home { s.home r.home with runs := (s.home r.home).runs.erase x }
  else (s.endReq r.id).setRun r.home x { x with count := x.count - 1, refs := min x.refs (x.count - 1) }

theorem execProxyDrop_eq {s : State} {r : PxReq} {slot : Nat} {x : Run} (hr : s.pxReq? (s.arg 0) = some r) (hk : r.kind = .drop slot)
    (hfirst : s.firstAt r r.home = true) (hx : (s.home r.home).run? slot = some x) (hctx : x.ctx = r.ctx) :
    execProxyDrop s = .next ((s.dropped r x).reap r.block) := by
  by_cases hcount : x.count ≤ 1
  · simp [execProxyDrop, hr, hk, hfirst, hx, hctx, State.dropped, hcount]
  · simp [execProxyDrop, hr, hk, hfirst, hx, hctx, State.dropped, hcount]

/-- A drop changes the home's runs and ends its request, and no more. -/
theorem dropped_frame (s : State) (r : PxReq) (x : Run) : { s.dropped r x with pxReqs := s.pxReqs, homes := s.homes } = s ∧
    (s.dropped r x).pxReqs = s.pxReqs.filter (fun q => q.id != r.id) ∧ ∀ h, h ≠ r.home → (s.dropped r x).home h = s.home h := by
  unfold State.dropped
  split
  · exact ⟨rfl, rfl, fun h hh => State.home_setHome_of_ne _ _ hh⟩
  · exact ⟨rfl, rfl, fun h hh => State.home_setHome_of_ne _ _ hh⟩

theorem dropped_last {s : State} {r : PxReq} {x : Run} (hlen : r.home < s.homes.length) (h : x.count ≤ 1) :
    ((s.dropped r x).home r.home).runs = (s.home r.home).runs.erase x := by
  rw [State.dropped, if_pos h, State.home_setHome_self (s.endReq r.id) _ hlen]

theorem dropped_more {s : State} {r : PxReq} {x : Run} {slot : Nat} (hlen : r.home < s.homes.length) (h : 1 < x.count)
    (hx : (s.home r.home).run? slot = some x) : ((s.dropped r x).home r.home).run? slot =
      some { x with count := x.count - 1, refs := min x.refs (x.count - 1) } := by
  have hslot : x.slot = slot := by simpa using List.find?_some hx
  rw [State.dropped, if_neg (by omega), State.setRun, State.home_setHome_self (s.endReq r.id) _ hlen]
  exact find?_replaceRun (y := { x with count := x.count - 1, refs := min x.refs (x.count - 1) }) hslot hx

/-! ### Completions (R267, R275) -/

theorem target_mat (op lane : Nat) : (PxKind.mat op lane).target = none := rfl

section
variable {s : State} {r : PxReq} (hr : s.pxReq? (s.arg 0) = some r)
include hr

theorem execProxyCompletion_early (hdue : s.replyDue r = false) (hk : r.kind.target.isSome = true ∨ ∃ op lane, r.kind = .mat op lane) :
    execProxyCompletion s = .next s := by
  obtain ht | ⟨op, lane, hk⟩ := hk
  · cases hkind : r.kind with
    | mat op lane => rw [hkind, target_mat] at ht; cases ht
    | snapshot => simp [execProxyCompletion, hr, hkind, hdue, PxKind.target]
    | operate => simp [execProxyCompletion, hr, hkind, hdue, PxKind.target]
    | dup => simp [execProxyCompletion, hr, hkind, hdue, PxKind.target]
    | drop => simp [execProxyCompletion, hr, hkind, PxKind.target]
    | copy => simp [execProxyCompletion, hr, hkind, PxKind.target]
    | cross => simp [execProxyCompletion, hr, hkind, PxKind.target]
  · simp [execProxyCompletion, hr, hk, hdue]

theorem execProxyCompletion_target {slot : Nat} (hk : r.kind.target = some slot) (hdue : s.replyDue r = true)
    (hgroup : s.groupServed r = true) : execProxyCompletion s =
      .next ((if s.superseded r slot then s else s.updWarp r.block r.warp (Warp.unpend r.home slot)).endReq r.id) := by
  cases hkind : r.kind with
  | mat op lane => rw [hkind, target_mat] at hk; cases hk
  | snapshot => rw [hkind] at hk; simp [execProxyCompletion, hr, hkind, hk, hdue, hgroup]
  | operate => rw [hkind] at hk; simp [execProxyCompletion, hr, hkind, hk, hdue, hgroup]
  | dup => rw [hkind] at hk; simp [execProxyCompletion, hr, hkind, hk, hdue, hgroup]
  | drop => rw [hkind] at hk; cases hk
  | copy => rw [hkind] at hk; cases hk
  | cross => rw [hkind] at hk; cases hk

end

end Sys2Proof.Machine
end

section
/-!
PROOF. Copies from home to home, lanes of a materialisation, and all that a home does with a request (O51).
-/
namespace Sys2Proof.Machine
open Sys2Proof

/-! ### Lanes of a materialisation (R275) -/

/-- The state when a lane of a PMAT has come: the register is written with the last. -/
def State.pmatArrived (s : State) (r : PxReq) (op : Op) (lane reg : Nat) (lanes : List MatLane) (got : List (Nat × Word)) : State :=
  let rest := lanes.filter fun y => y.lane != lane
  let all := got ++ [(lane, if r.lost then 0#32 else nth 0#32 r.data 0)]
  if rest = [] then ((s.endReq r.id).applyReg op.core op.block op.warp reg all).finishOp op
  else (s.endReq r.id).setOp op.id (.pmat reg rest all)

theorem arriveLane_pmat {s : State} {r : PxReq} {op : Op} {lane reg : Nat} {lanes : List MatLane} {got : List (Nat × Word)}
    {x : MatLane} (hop : op.kind = .pmat reg lanes got) (hx : lanes.find? (fun y => y.lane == lane) = some x) :
    s.arriveLane r op lane r.lost = s.pmatArrived r op lane reg lanes got := by
  simp only [State.arriveLane, hop, hx, State.pmatArrived, List.isEmpty_iff]

theorem execProxyCompletion_pmat {s : State} {r : PxReq} {id lane reg : Nat} {op : Op} {lanes : List MatLane}
    {got : List (Nat × Word)} {x : MatLane} (hr : s.pxReq? (s.arg 0) = some r) (hk : r.kind = .mat id lane) (hdue : s.replyDue r = true)
    (ho : s.op? id = some op) (hop : op.kind = .pmat reg lanes got) (hx : lanes.find? (fun y => y.lane == lane) = some x) :
    execProxyCompletion s =
      .next ((s.drainSpad op.block op.warp (op.id - 1) s.ops.length).pmatArrived r op lane reg lanes got) := by
  simp [execProxyCompletion, hr, hk, hdue, ho, OpKind.onSpad, hop, ← arriveLane_pmat (s := s.drainSpad _ _ _ _) hop hx]

/-! ### Copies (R262, R266) -/

/-- A copy's home has a free group for the run within the quota of the context. -/
def State.RoomFor (s : State) (r : PxReq) (ext slot : Nat) : Prop :=
  s.quotaFits r.ctx r.home (runSlots ext) = true ∧ s.freeGroup r.home (runSlots ext) (32768 / runSlots ext) 0 = some slot

/-- The place that a copy's home has for its run. -/
def State.copyPlace (s : State) (r : PxReq) (ext : Nat) : Option Nat :=
  if s.quotaFits r.ctx r.home (runSlots ext) then s.freeGroup r.home (runSlots ext) (32768 / runSlots ext) 0 else none

theorem copyPlace_eq_some {s : State} {r : PxReq} {ext slot : Nat} : s.copyPlace r ext = some slot ↔ s.RoomFor r ext slot := by
  simp [State.copyPlace, State.RoomFor]

theorem copyPlace_eq_none {s : State} {r : PxReq} {ext : Nat} (h : ∀ slot, ¬ s.RoomFor r ext slot) : s.copyPlace r ext = none :=
  Option.eq_none_iff_forall_ne_some.2 fun slot hs => h slot (copyPlace_eq_some.1 hs)

section
variable {s : State} {r : PxReq} {id srcHome srcSlot slot0 ext : Nat} (hr : s.pxReq? id = some r)
  (hk : r.kind = .copy srcHome srcSlot slot0 ext)
include hr hk

theorem proxyCopy_served (hserved : r.served = true) : s.proxyCopy id = s.copyAnswered r := by
  simp [State.proxyCopy, hr, hk, hserved]

theorem proxyCopy_read (hserved : r.served = false) (hserves : s.proxyServes r = true) (hdata : r.data = [])
    (hfirst : s.firstAt r srcHome = true) {x : Run} (hx : (s.home srcHome).live? srcSlot = some x) (hformed : x.formed = true)
    (hown : s.OwnsRun r.ctx srcHome srcSlot) : s.proxyCopy id =
      ((s.setPxReq { r with data := s.storedWords srcHome srcSlot ext }).retireMicro srcHome).copyFlit srcHome r.home r.id
        (flitCount (s.storedWords srcHome srcSlot ext).length) := by
  simp [State.proxyCopy, hr, hk, hserved, hserves, hdata, hfirst, hx, hformed, State.readCopy, runWords_of_owns hown]

section
variable (hserved : r.served = false) (hserves : s.proxyServes r = true) (hdata : r.data.isEmpty = false) (hpassed : s.copyPassed r = true)
include hserved hserves hdata hpassed

theorem proxyCopy_lands {slot : Nat} (h : s.RoomFor r ext slot) : s.proxyCopy id = s.landCopy r srcHome srcSlot ext slot := by
  have hplace := copyPlace_eq_some.2 h
  rw [State.copyPlace] at hplace
  simp only [State.proxyCopy, hr, hk, hserved, hserves, hdata, hpassed, hplace, Bool.not_true, Bool.false_eq_true, if_false]

variable (hs : ∀ slot, ¬ s.RoomFor r ext slot) (hback : ∀ slot, ¬ (s.reclaim r.home).RoomFor r ext slot)
include hs hback

theorem proxyCopy_starts (h : r.since = none) : s.proxyCopy id = (s.reclaim r.home).setPxReq { r with since := some s.ns } := by
  have hplace := copyPlace_eq_none hs
  have hplace' := copyPlace_eq_none hback
  rw [State.copyPlace] at hplace hplace'
  simp only [State.proxyCopy, hr, hk, hserved, hserves, hdata, hpassed, hplace, hplace', h, Bool.not_true, Bool.false_eq_true, if_false]

theorem proxyCopy_waits {t : Nat} (h : r.since = some t) (hout : (s.reclaim r.home).waitedOut r.ctx t = false) :
    s.proxyCopy id = s.reclaim r.home := by
  have hplace := copyPlace_eq_none hs
  have hplace' := copyPlace_eq_none hback
  rw [State.copyPlace] at hplace hplace'
  simp only [State.proxyCopy, hr, hk, hserved, hserves, hdata, hpassed, hplace, hplace', h, hout, Bool.not_true, Bool.false_eq_true, if_false]

theorem proxyCopy_refuses {t : Nat} (h : r.since = some t) (hout : (s.reclaim r.home).waitedOut r.ctx t = true) :
    s.proxyCopy id = (s.reclaim r.home).refuseCopy r ((s.reclaim r.home).refusal r.ctx r.home (runSlots ext)) := by
  have hplace := copyPlace_eq_none hs
  have hplace' := copyPlace_eq_none hback
  rw [State.copyPlace] at hplace hplace'
  simp only [State.proxyCopy, hr, hk, hserved, hserves, hdata, hpassed, hplace, hplace', h, hout, Bool.not_true, Bool.false_eq_true, if_false,
    if_true]

end

end

section
variable {s : State} {r : PxReq} (hlen : r.home < s.homes.length) (srcHome srcSlot ext slot : Nat)

theorem landCopy_homes : (s.landCopy r srcHome srcSlot ext slot).homes =
    ((s.addRun r.home { slot := slot, ext := ext, count := 1, refs := 1, ctx := r.ctx, formed := false, temp := true }).formRun
      r.home slot r.data).homes := by
  simp [State.landCopy]

include hlen

theorem landCopy_forms (hr : r ∈ s.pxReqs) (hwf : cellWf 0#32 (s.home r.home).words = true) :
    (s.landCopy r srcHome srcSlot ext slot).FormedFor r.home r.id slot r.data := by
  refine formedFor_of_formRun (by simpa [State.addRun] using hlen) ?_ (landCopy_homes srcHome srcSlot ext slot) ?_
  · rw [State.addRun, State.home_setHome_self s _ hlen]
    exact hwf
  · refine ⟨{ r with kind := .copy srcHome srcSlot slot ext, served := true }, ?_, rfl, rfl⟩
    rw [State.landCopy, replyFlit_pxReqs, retireMicro_pxReqs]
    exact mem_setPxReq hr rfl

/-- The home of a copy that has landed holds its temporary run. -/
theorem landCopy_run : ∃ x ∈ ((s.landCopy r srcHome srcSlot ext slot).home r.home).runs, x.slot = slot ∧ x.temp = true ∧ x.ctx = r.ctx := by
  have hnew : ({ slot := slot, ext := ext, count := 1, refs := 1, ctx := r.ctx, formed := false, temp := true } : Run) ∈
      ((s.addRun r.home { slot := slot, ext := ext, count := 1, refs := 1, ctx := r.ctx, formed := false, temp := true }).home r.home).runs := by
    rw [State.addRun, State.home_setHome_self s _ hlen]
    simp
  obtain ⟨y, hy, he⟩ := mem_markFormed (slot := slot) hnew
  refine ⟨y, ?_, congrArg Run.slot he, congrArg Run.temp he, congrArg Run.ctx he⟩
  rw [home_of_homes (landCopy_homes srcHome srcSlot ext slot), formRun_home (by simpa [State.addRun] using hlen)]
  exact hy

end

section
variable {s : State} {r : PxReq}

theorem copyAnswered_early (h : s.flitSent (replyWave r.home r.core) r.id = false) : s.copyAnswered r = s := by
  simp [State.copyAnswered, h]

theorem copyAnswered_lost (h : s.flitSent (replyWave r.home r.core) r.id = true) (hlost : r.lost = true) :
    s.copyAnswered r = (s.withdraw r.block r.warp r.pathSlot).raiseTrap r.block r.warp r.pathSlot Code.pxexh
      (nth 0#32 r.data 0).toNat 0#64 true := by
  simp [State.copyAnswered, h, hlost]

theorem copyAnswered_last (h : s.flitSent (replyWave r.home r.core) r.id = true) (hlost : r.lost = false)
    (hawait : s.awaitsCopies r = false)
    (hchunks : (s.chunkReqs.any fun c => c.block == r.block && c.warp == r.warp && c.slot == r.pathSlot) = false) :
    s.copyAnswered r = s.wake r.block r.warp r.pathSlot := by
  simp only [State.copyAnswered, h, hlost, hawait, hchunks, Bool.not_true, Bool.or_false, Bool.false_eq_true, if_false]

theorem copyAnswered_more (h : s.flitSent (replyWave r.home r.core) r.id = true) (hlost : r.lost = false)
    (hawait : s.awaitsCopies r = true) : s.copyAnswered r = s := by
  simp [State.copyAnswered, h, hlost, hawait]

end

end Sys2Proof.Machine
end

section
/-!
PROOF. The handles of a warp when a run is formed, and the functions that homes compute: word by word, by the fixed tree, and as a dot
product (O51).
-/
namespace Sys2Proof.Machine
open Sys2Proof

/-! ### PEND in the handles of a warp (R258, R267) -/

/-- To clear PEND leaves a word that is not pending as it is. -/
theorem clearPend_eq (home slot : Nat) (h : Word) :
    clearPend home slot h = if pxHome h = home ∧ pxSlot h = slot then h &&& 0xFFFFFFFD#32 else h := by
  unfold clearPend
  by_cases hrun : pxHome h = home ∧ pxSlot h = slot
  · by_cases hpend : pxPend h = true
    · rw [if_pos ⟨hrun.1, hrun.2, hpend⟩, if_pos hrun]
    · have hbit : h.getLsbD 1 = false := Bool.not_eq_true _ ▸ hpend
      have hkeep : h &&& 0xFFFFFFFD#32 = h := by
        refine BitVec.eq_of_getLsbD_eq fun i hi => ?_
        have hmask : ∀ j < 32, (0xFFFFFFFD#32).getLsbD j = (j != 1) := by decide
        rw [BitVec.getLsbD_and, hmask i hi]
        by_cases h1 : i = 1
        · rw [h1, hbit, Bool.false_and]
        · simp [h1]
      rw [if_neg fun hc => hpend hc.2.2, if_pos hrun, hkeep]
  · rw [if_neg fun hc => hrun ⟨hc.1, hc.2.1⟩, if_neg hrun]

theorem nth_map_of_fixed {α β : Type} {f : α → β} {d : α} {e : β} (h : f d = e) (l : List α) (n : Nat) :
    nth e (l.map f) n = f (nth d l n) := by
  rw [nth_eq_getD, nth_eq_getD, List.getElem?_map]
  cases l[n]? with
  | none => exact h.symm
  | some x => rfl

/-- A lane with its proxy word changed. -/
def KVal.mapHandle (f : Word → Word) (k : KVal) : KVal := if k.px = true then { k with val := f k.val } else k

theorem lane_mapHandles (f : Word → Word) (r : VReg) (l : Nat) : (r.mapHandles f).lane l = (r.lane l).mapHandle f :=
  nth_map_of_fixed (f := KVal.mapHandle f) (d := { val := 0#32, px := false }) rfl r.lanes l

theorem nth_map_mapHandles (f : Word → Word) (rs : List VReg) (n : Nat) :
    nth VReg.zero (rs.map (VReg.mapHandles f)) n = (nth VReg.zero rs n).mapHandles f :=
  nth_map_of_fixed (f := VReg.mapHandles f) (d := VReg.zero) rfl rs n

theorem lane_clearPend (home slot : Nat) (r : VReg) (l : Nat) : (r.mapHandles (clearPend home slot)).lane l =
    (r.lane l).mapHandle fun h => if pxHome h = home ∧ pxSlot h = slot then h &&& 0xFFFFFFFD#32 else h := by
  rw [lane_mapHandles, funext (clearPend_eq home slot)]

theorem lane_nth_clearPend (home slot : Nat) (rs : List VReg) (n l : Nat) :
    (nth VReg.zero (rs.map (VReg.mapHandles (clearPend home slot))) n).lane l =
      ((nth VReg.zero rs n).lane l).mapHandle fun h => if pxHome h = home ∧ pxSlot h = slot then h &&& 0xFFFFFFFD#32 else h := by
  rw [nth_map_mapHandles, lane_clearPend]

theorem lends_mapHandles (f : Word → Word) (w : Warp) (n : Nat) : (w.mapHandles f).lends n = w.lends n := by
  simp [Warp.lends, Warp.mapHandles]

theorem vreg_mapHandles (f : Word → Word) (w : Warp) (n : Nat) : (w.mapHandles f).vreg n = (w.vreg n).mapHandles f := by
  rw [Warp.vreg, Warp.vreg, lends_mapHandles]
  split
  · exact nth_map_mapHandles f w.lent _
  · exact nth_map_mapHandles f w.vregs n

/-- A lane of a predicate with its proxy word changed. -/
def PredLane.mapHandle (f : Word → Word) (q : PredLane) : PredLane := { q with px := q.px.map f }

theorem pred_mapHandles (f : Word → Word) (w : Warp) (n l : Nat) :
    (w.mapHandles f).pred n l = (w.pred n l).mapHandle f := by
  rw [Warp.pred, Warp.pred]
  split
  · rfl
  · have hpred : nth predZero (w.mapHandles f).preds n = (nth predZero w.preds n).map (PredLane.mapHandle f) :=
      nth_map_of_fixed (f := List.map (PredLane.mapHandle f)) (d := predZero) rfl w.preds n
    rw [hpred]
    exact nth_map_of_fixed (f := PredLane.mapHandle f) (d := { val := false, px := none }) rfl _ l

/-! ### Results word by word (R264) -/

theorem run_of_reduces_false {fn : HomeFn} (h : fn.reduces = false) (n : Nat) (srcs : List (List Word)) :
    fn.run n srcs = (List.range n).map fun i => fn.word (sourceWord srcs 0 i) (sourceWord srcs 1 i) (sourceWord srcs 2 i) := by
  cases fn with
  | pdot => cases h
  | pred => cases h
  | _ => rfl

theorem nth_map_range {α : Type} (d : α) (f : Nat → α) {n i : Nat} (h : i < n) : nth d ((List.range n).map f) i = f i := by
  simp [nth_eq_getD, h]

/-! ### The fixed tree (R153, R279) -/

theorem fixedTree_congr {f : Word → Word → Word} : ∀ (e : Nat) {g g' : Nat → Word}, (∀ i, i < 2 ^ e → g i = g' i) →
    fixedTree f e g = fixedTree f e g'
  | 0, _, _, h => h 0 (by simp)
  | e + 1, _, _, h => by
    rw [fixedTree, fixedTree, fixedTree_congr e fun i hi => h i (by omega),
      fixedTree_congr e fun i hi => h (i + 2 ^ e) (by omega)]

/-- The tree over neighbours combined is the tree of one level more. -/
theorem fixedTree_pairs (f : Word → Word → Word) : ∀ (e : Nat) (g : Nat → Word),
    fixedTree f e (fun i => f (g (2 * i)) (g (2 * i + 1))) = fixedTree f (e + 1) g
  | 0, _ => rfl
  | e + 1, g => by
    have hshift : (fun i => f (g (2 * (i + 2 ^ e))) (g (2 * (i + 2 ^ e) + 1))) =
        fun i => f (g (2 * i + 2 ^ (e + 1))) (g (2 * i + 1 + 2 ^ (e + 1))) := by
      funext i
      congr 2 <;> omega
    rw [fixedTree, hshift, fixedTree_pairs f e g, fixedTree_pairs f e fun i => g (i + 2 ^ (e + 1))]
    rfl

theorem length_pairUp {f : Word → Word → Word} : ∀ (n : Nat) {l : List Word}, l.length = 2 * n → (pairUp f l).length = n
  | 0, [], _ => rfl
  | n + 1, _ :: _ :: t, h => by
    have ht : t.length = 2 * n := by simp only [List.length_cons] at h; omega
    rw [pairUp, List.length_cons, length_pairUp n ht]

theorem nth_pairUp {f : Word → Word → Word} : ∀ (n : Nat) {l : List Word} {i : Nat}, l.length = 2 * n → i < n →
    nth 0#32 (pairUp f l) i = f (nth 0#32 l (2 * i)) (nth 0#32 l (2 * i + 1))
  | _ + 1, _ :: _ :: _, 0, _, _ => rfl
  | n + 1, _ :: _ :: t, i + 1, h, hi => by
    have ht : t.length = 2 * n := by simp only [List.length_cons] at h; omega
    exact nth_pairUp n (l := t) (i := i) ht (by omega)

/-- Neighbours combined until one word is left are the fixed tree. -/
theorem treeFold_eq_fixedTree (f : Word → Word → Word) : ∀ (n e : Nat) {l : List Word}, e ≤ n → l.length = 2 ^ e →
    treeFold f n l = some (fixedTree f e fun i => nth 0#32 l i)
  | 0, 0, [_], _, _ => rfl
  | n + 1, 0, [x], _, _ => treeFold_eq_fixedTree f n 0 (l := [x]) (by omega) rfl
  | n + 1, e + 1, l, he, hl => by
    have hl' : l.length = 2 * 2 ^ e := by rw [hl]; omega
    rw [treeFold, treeFold_eq_fixedTree f n e (by omega) (length_pairUp _ hl'),
      fixedTree_congr e fun i hi => nth_pairUp (2 ^ e) hl' hi, fixedTree_pairs f e fun i => nth 0#32 l i]

/-! ### Dot products (R57, R278) -/

/-- The elements of a run, by their numbers. -/
theorem flatMap_elems {β : Type} (f : Word → Nat → β) {c : Nat} (hc : 0 < c) : ∀ (ws : List Word),
    ws.flatMap (fun x => (List.range c).map (f x)) = (List.range (ws.length * c)).map fun k => f (nth 0#32 ws (k / c)) (k % c)
  | [] => by simp
  | x :: ws => by
    rw [List.flatMap_cons, flatMap_elems f hc ws, List.length_cons, Nat.succ_mul, Nat.add_comm, List.range_add, List.map_append,
      List.map_map]
    congr 1
    · refine List.map_congr_left fun k hk => ?_
      rw [Nat.div_eq_of_lt (List.mem_range.1 hk), Nat.mod_eq_of_lt (List.mem_range.1 hk)]
      rfl
    · refine List.map_congr_left fun k _ => ?_
      rw [Function.comp_apply, Nat.add_div_left k hc, Nat.add_mod_left]
      rfl

theorem pxElems_eq {fmt : Nat} (h : fmt ≤ 5) (x : Word) : pxElems fmt x =
    (List.range (32 / (homeFloat fmt).width)).map fun i => (homeFloat fmt).val (elem (homeFloat fmt).width x i) := by
  match fmt, h with
  | 0, _ => rfl
  | 1, _ => rfl
  | 2, _ => rfl
  | 3, _ => rfl
  | 4, _ => rfl
  | 5, _ => rfl

/-- The value of an integer element of a run. -/
def runInt (signed : Bool) (x : Nat) : Int := if signed then sextInt x 8 else x

theorem pxInts_eq (fmt : Nat) (x : Word) : pxInts fmt x = (List.range 4).map fun i => runInt (fmt == 7) (elem 8 x i) := by
  refine List.map_congr_left fun i _ => ?_
  have hlt : elem 8 x i % 2 ^ 8 = elem 8 x i := Nat.mod_mod _ _
  rw [intVal, runInt, hlt]

/-- The products of a dot product of floating-point runs. -/
def dotTerms (fmt : Nat) (ws us : List Word) : List FVal :=
  let w := (homeFloat fmt).width
  (List.range (ws.length * (32 / w))).map fun k =>
    ((homeFloat fmt).val (runElem w (32 / w) ws k)).mul ((homeFloat fmt).val (runElem w (32 / w) us k))

/-- The sum of the products of integer runs. -/
def intDot (signed : Bool) (ws us : List Word) : Int :=
  ((List.range (ws.length * 4)).map fun k => runInt signed (runElem 8 4 ws k) * runInt signed (runElem 8 4 us k)).sum

section
variable {fmt : Nat} {ws us : List Word} (hlen : ws.length = us.length)
include hlen

theorem pxElems_products (h : fmt ≤ 5) :
    ((ws.flatMap (pxElems fmt)).zip (us.flatMap (pxElems fmt))).map (fun t => t.1.mul t.2) = dotTerms fmt ws us := by
  have hpos : 0 < 32 / (homeFloat fmt).width := by
    match fmt, h with
    | 0, _ => decide
    | 1, _ => decide
    | 2, _ => decide
    | 3, _ => decide
    | 4, _ => decide
    | 5, _ => decide
  rw [funext (pxElems_eq h), flatMap_elems _ hpos, flatMap_elems _ hpos, ← hlen, List.zip_map', List.map_map]
  rfl

theorem pxInts_products (fmt : Nat) : (((ws.flatMap (pxInts fmt)).zip (us.flatMap (pxInts fmt))).map fun (x : Int × Int) => x.1 * x.2).sum =
    intDot (fmt == 7) ws us := by
  rw [funext (pxInts_eq fmt), flatMap_elems _ (by decide), flatMap_elems _ (by decide), ← hlen, List.zip_map', List.map_map]
  rfl

theorem pdotW_int (h : fmt = 7 ∨ fmt = 9) (m : BitVec 6) (c : Word) :
    pdotW fmt m ws us c = c + BitVec.ofInt 32 (intDot (fmt == 7) ws us) := by
  rw [pdotW, if_pos h, pxInts_products hlen, BitVec.ofInt_add, BitVec.ofInt_toInt]

theorem pdotW_float (h : fmt ≤ 5) (m : BitVec 6) (c : Word) : pdotW fmt m ws us c =
    BitVec.ofNat 32 (FloatFmt.fp32.enc ((FloatFmt.fp32.val c.toNat).add (Rnd.ofBits m.toNat == .rdn)
      (rn ((chainsOf (dotTerms fmt ws us)).1.add false (chainsOf (dotTerms fmt ws us)).2))) (Rnd.ofBits m.toNat) false (m.getLsbD 3)) := by
  rw [pdotW, if_neg (by omega), w32, dot, dotSum_eq_chains, pxElems_products hlen h]

end

end Sys2Proof.Machine
end

section
/-!
PROOF. Crossed bits come, and homes grant, refuse and take back chunks of slots; with this, the work of homes as a whole (O51).
-/
namespace Sys2Proof.Machine
open Sys2Proof

/-! ### A crossed bit comes (R74) -/

theorem execProxyCrossing_one {s : State} {r : PxReq} {slot lane : Nat}
    (h : (s.pxReqs.filter fun x => x.block == s.arg 0 && x.warp == s.arg 1 && x.pathSlot == s.arg 2) = [r])
    (hk : r.kind = .cross slot lane) : execProxyCrossing s = .next (s.crossBit r lane) := by
  simp only [execProxyCrossing, h, List.foldl_cons, List.foldl_nil, hk]

/-- A warp updated in place, in which a slot's path waits for something else. -/
theorem updWarp_waits {s : State} {b wi slot : Nat} {blk : Block} {w : Warp} {p : Path} {f : Warp → Warp} {x : Wait}
    (hw : s.warp? b wi = some (blk, w)) (hp : w.path slot = some p) (hf : f w = w.setWait slot x) : ∃ b1 w1,
      (s.updWarp b wi f).warp? b wi = some (b1, w1) ∧ w1.path slot = some { p with wait := x } := by
  refine ⟨_, _, warp?_updWarp_self hw f, ?_⟩
  rw [hf, Warp.path_setWait_self, hp, Option.map_some]

theorem crossBit_brings {s : State} {r : PxReq} {blk : Block} {w : Warp} {p : Path} {got : List (Nat × Bool)}
    (hdue : s.replyDue r = true) (hw : s.warp? r.block r.warp = some (blk, w)) (hp : w.path r.pathSlot = some p)
    (hwait : p.wait = .crossing got) (lane : Nat) : ∃ b1 w1, (s.crossBit r lane).warp? r.block r.warp = some (b1, w1) ∧
      w1.path r.pathSlot = some { p with wait := .crossing (got ++ [(lane, (nth 0#32 r.data 0).getLsbD 0)]) } := by
  have hw' : (s.endReq r.id).warp? r.block r.warp = some (blk, w) := hw
  simp only [State.crossBit, hdue, Bool.not_true, Bool.false_eq_true, if_false]
  exact updWarp_waits hw' hp (by simp only [hp, hwait])

/-! ### Free groups and quotas (R261 to R263) -/

/-- A free group is aligned, and meets no run and no reservation. -/
theorem freeGroup_eq_some {s : State} {home n base : Nat} : ∀ {fuel i : Nat}, s.freeGroup home n fuel i = some base →
    n ∣ base ∧ (s.home home).taken base n = false ∧ s.reserved home base n = false
  | fuel + 1, i, h => by
    rw [State.freeGroup] at h
    split at h
    next => exact freeGroup_eq_some h
    next hfree =>
      obtain rfl := Option.some.inj h
      obtain ⟨htaken, hres⟩ := Bool.or_eq_false_iff.1 (Bool.not_eq_true _ ▸ hfree)
      exact ⟨Nat.dvd_mul_right n i, htaken, hres⟩

theorem quotaFits_eq_true {s : State} {ctx home n : Nat} :
    s.quotaFits ctx home n = true ↔ s.slotsHeld ctx home + n ≤ min 32768 (bits (s.ctx ctx).pxQuota 15 0) := by
  rw [State.quotaFits, decide_eq_true_iff]

/-- A home has no chunk to give: no free group, or none within the quota. -/
def State.Short (s : State) (ctx home : Nat) : Prop :=
  s.freeGroup home 8 4096 0 = none ∨ min 32768 (bits (s.ctx ctx).pxQuota 15 0) < s.slotsHeld ctx home + 8

theorem grantChunks_one {s : State} {ctx home base : Nat} (hbase : s.freeGroup home 8 4096 0 = some base)
    (hfits : s.quotaFits ctx home 8 = true) (id : Nat) :
    s.grantChunks id ctx home [] 1 = some (s.answerChunks id (.granted [base])) := by
  simp only [State.grantChunks, hbase, hfits, if_true, List.nil_append]

theorem grantChunks_short {s : State} {ctx home : Nat} (h : s.Short ctx home) (id : Nat) : s.grantChunks id ctx home [] 1 = none := by
  obtain hnone | hover := h
  · simp only [State.grantChunks, hnone]
  · have hfits : s.quotaFits ctx home 8 = false := Bool.eq_false_iff.2 fun hq => by
      have := quotaFits_eq_true.1 hq
      omega
    cases hbase : s.freeGroup home 8 4096 0 with
    | none => simp only [State.grantChunks, hbase]
    | some base => simp only [State.grantChunks, hbase, hfits, Bool.false_eq_true, if_false]

/-! ### Answers to requests for chunks (R261, R262) -/

theorem execChunkRequest_asks {s : State} {r : ChunkReq} (hr : s.chunkReq? (s.arg 0) (s.arg 1) false = some r) :
    execChunkRequest s = .next { s with
      chunkReqs := s.chunkReqs.map fun (x : ChunkReq) => if x = r then { r with asked := true, start := s.ns } else x } := by
  simp only [execChunkRequest, hr]

theorem answerReq_grants {s : State} {r : ChunkReq} {ctx base : Nat} (hone : r.chunks = 1)
    (hbase : s.freeGroup r.home 8 4096 0 = some base) (hfits : s.quotaFits ctx r.home 8 = true) :
    s.answerReq r ctx = (s.answerChunks r.id (.granted [base])).replyFlit r.home r.core r.id := by
  simp only [State.answerReq, hone, grantChunks_one hbase hfits]

section
variable {s : State} {r : ChunkReq} {ctx : Nat} (hone : r.chunks = 1) (hs : s.Short ctx r.home) (hback : (s.reclaim r.home).Short ctx r.home)
include hone hs hback

theorem answerReq_waits (hout : (s.reclaim r.home).waitedOut ctx r.start = false) : s.answerReq r ctx = s.reclaim r.home := by
  simp only [State.answerReq, hone, grantChunks_short hs, grantChunks_short hback, hout, Bool.false_eq_true, if_false]

theorem answerReq_refuses (hout : (s.reclaim r.home).waitedOut ctx r.start = true) : s.answerReq r ctx =
    ((s.reclaim r.home).answerChunks r.id (.refused ((s.reclaim r.home).refusal ctx r.home 8))).replyFlit r.home r.core r.id := by
  simp only [State.answerReq, hone, grantChunks_short hs, grantChunks_short hback, hout, if_true, Nat.mul_one]

end

theorem refusal_eq (s : State) (ctx home n : Nat) : s.refusal ctx home n =
    if min 32768 (bits (s.ctx ctx).pxQuota 15 0) < s.slotsHeld ctx home + n then 0x02 else 0x01 := by
  by_cases h : s.quotaFits ctx home n = true
  · rw [State.refusal, if_pos h, if_neg (Nat.not_lt.2 (quotaFits_eq_true.1 h))]
  · rw [State.refusal, if_neg h, if_pos (Nat.not_le.1 fun hle => h (quotaFits_eq_true.2 hle))]

section
variable {s : State} {r : ChunkReq} {blk : Block} (hr : s.chunkReq? (s.arg 0) (s.arg 1) true = some r) (hb : s.block? r.block = some blk)
include hr hb

theorem execChunkGrant_asked (h : r.answer = .none) : execChunkGrant s = .next (s.answerReq r blk.ctx) := by
  simp only [execChunkGrant, hr, hb, h]

theorem execChunkGrant_early (h : r.answer ≠ .none) (hcome : s.flitSent (replyWave r.home r.core) r.id = false) :
    execChunkGrant s = .next s := by
  cases ha : r.answer with
  | none => exact absurd ha h
  | granted bs => simp only [execChunkGrant, hr, hb, ha, hcome, Bool.false_eq_true, if_false]
  | refused d => simp only [execChunkGrant, hr, hb, ha, hcome, Bool.false_eq_true, if_false]

theorem execChunkGrant_refused {d : Nat} (h : r.answer = .refused d) (hcome : s.flitSent (replyWave r.home r.core) r.id = true) :
    execChunkGrant s = .next (s.refused r d) := by
  simp only [execChunkGrant, hr, hb, h, hcome, if_true]

theorem execChunkGrant_granted {bs : List Nat} (h : r.answer = .granted bs) (hcome : s.flitSent (replyWave r.home r.core) r.id = true) :
    execChunkGrant s = .next (s.granted r) := by
  simp only [execChunkGrant, hr, hb, h, hcome, if_true]

end

/-- The core holds the chunks that a home has granted. -/
theorem granted_chunks {s : State} {r : ChunkReq} {bs : List Nat} (h : r.answer = .granted bs) (hlen : r.core < s.cores.length) :
    ((s.granted r).core r.core).chunks = (s.core r.core).chunks ++
      bs.map fun base => { home := r.home, base := base, used := s.cycle (clusterOf r.core) } := by
  have hcore := State.core_setCore_self { s with chunkReqs := s.chunkReqs.erase r } { s.core r.core with
    chunks := (s.core r.core).chunks ++ r.bases.map fun b => ({ home := r.home, base := b, used := s.cycle (clusterOf r.core) } : Chunk) } hlen
  have hbases : r.bases = bs := by rw [ChunkReq.bases, h]
  rw [State.granted, State.wake, State.core, State.updWarp_cores]
  rw [← hbases]
  exact congrArg Core.chunks hcore

/-- The slot that waited for chunks issues again. -/
theorem granted_wakes {s : State} {r : ChunkReq} {blk : Block} {w : Warp} {p : Path} (hw : s.warp? r.block r.warp = some (blk, w))
    (hp : w.path r.slot = some p) : ∃ b1 w1 p1, (s.granted r).warp? r.block r.warp = some (b1, w1) ∧ w1.path r.slot = some p1 ∧
      p1.wait = .ready ∧ p1.pc = p.pc := by
  have hw' : (({ s with chunkReqs := s.chunkReqs.erase r }).setCore r.core { s.core r.core with
    chunks := (s.core r.core).chunks ++ r.bases.map fun b =>
      ({ home := r.home, base := b, used := s.cycle (clusterOf r.core) } : Chunk) }).warp? r.block r.warp = some (blk, w) := hw
  obtain ⟨b1, w1, hw1, hp1⟩ := updWarp_waits hw' hp (f := fun w => w.setWait r.slot .ready) rfl
  exact ⟨b1, w1, _, hw1, hp1, rfl, rfl⟩

/-! ### Chunks that go back (R261) -/

section
variable {s : State} {k : Chunk}
  (hk : (s.core (s.arg 0)).chunks.find? (fun x => x.home == s.arg 1 && x.base == s.arg 2) = some k)
include hk

theorem execChunkReturn_eq : execChunkReturn s =
    if k.used + 4096 ≤ s.cycle (clusterOf (s.arg 0)) ∨ (16 < (s.core (s.arg 0)).chunks.length ∧ (s.home k.home).held k.base 8 = false) then
      .next (s.setCore (s.arg 0) { s.core (s.arg 0) with chunks := (s.core (s.arg 0)).chunks.erase k })
    else .next s := by
  simp only [execChunkReturn, hk, Bool.or_eq_true, Bool.and_eq_true, decide_eq_true_eq, Bool.not_eq_true']

end

/-- A chunk goes back from its core, and nothing else changes. -/
theorem execChunkReturn_due {s : State} {k : Chunk}
    (hk : (s.core (s.arg 0)).chunks.find? (fun x => x.home == s.arg 1 && x.base == s.arg 2) = some k) (hlen : s.arg 0 < s.cores.length)
    (hdue : k.used + 4096 ≤ s.cycle (clusterOf (s.arg 0)) ∨
      (16 < (s.core (s.arg 0)).chunks.length ∧ (s.home k.home).held k.base 8 = false)) :
    ∃ t : State, execChunkReturn s = .next t ∧
      t.core (s.arg 0) = { s.core (s.arg 0) with chunks := (s.core (s.arg 0)).chunks.erase k } ∧
      (∀ x, x ≠ s.arg 0 → t.core x = s.core x) ∧ { t with cores := s.cores } = s :=
  ⟨_, (execChunkReturn_eq hk).trans (if_pos hdue), State.core_setCore_self s _ hlen, fun _ hx => State.core_setCore_of_ne s _ hx, rfl⟩

/-! ### The work of homes -/

/-- Settles O51. Each clause is what a lemma above says of the event: a home serves a request from its runs' words, and the reply, the drop,
the copy and the chunk follow its state. -/
theorem proxyHomes : Obligations.ProxyHomes := by
  unfold Obligations.ProxyHomes
  refine ⟨⟨?requests, ?handles, ?words, ?tree, ?products, ?crossing⟩, ?request, ?grant, ?giveBack⟩
  case requests =>
    intro s r hr hlen _
    refine ⟨?snapshot, ?work, ?answer, ?drop, ?early, ?superseded, ?formed, ?lane, ?copy, ?confirmed⟩
    case snapshot =>
      intro pa n slot g hk hserved hfirst hserves htouch hwf
      exact ⟨_, rfl, takeSnapshot_forms hr hk hserved hfirst hserves htouch hlen hwf (s.arg 1)⟩
    case work =>
      intro hserved hfirst hserves
      refine ⟨?_, ?_, ?_, ?_⟩
      · intro fn srcs slot ext hk heven hwf hown
        have ht := proxyOperate_operate hr hserved hfirst hserves hk heven hown
        refine ⟨_, congrArg Host.Outcome.next ht, ?_⟩
        exact formedFor_answered (pxReq?_mem hr) hlen hwf slot _
      · intro src slot ext hk hwf hown
        have ht := proxyOperate_dup hr hserved hfirst hserves hk hown
        exact ⟨_, congrArg Host.Outcome.next ht, formedFor_answered (pxReq?_mem hr) hlen hwf slot _⟩
      · intro op lane home slot ext hk hrun hown
        exact congrArg Host.Outcome.next (proxyOperate_mat hr hserved hfirst hserves hk hrun hown)
      · intro slot lane hk hown
        exact congrArg Host.Outcome.next (proxyOperate_cross hr hserved hfirst hserves hk hown)
    case answer => exact fun ws => ⟨answered_blocks s r ws, answered_homes s r ws, answered_pxReqs s r ws⟩
    case drop =>
      intro slot x hk hfirst hx hctx
      obtain ⟨hrest, hreqs, hothers⟩ := dropped_frame s r x
      exact ⟨s.dropped r x, execProxyDrop_eq hr hk hfirst hx hctx, hrest, hreqs, hothers, dropped_last hlen,
        fun hcount => dropped_more hlen hcount hx⟩
    case early => exact fun hdue hk => execProxyCompletion_early hr hdue hk
    case superseded =>
      intro slot hk hdue hgroup hsup
      refine (execProxyCompletion_target hr hk hdue hgroup).trans ?_
      rw [hsup, if_pos rfl]
    case formed =>
      intro slot hk hdue hgroup hsup
      refine (execProxyCompletion_target hr hk hdue hgroup).trans ?_
      rw [hsup, if_neg Bool.false_ne_true]
    case lane => exact fun id lane op reg lanes got x hk hdue ho hop hx => execProxyCompletion_pmat hr hk hdue ho hop hx
    case copy =>
      intro home sl slot0 ext hk hserved hserves
      refine ⟨?_, ?_⟩
      · intro x hdata hfirst hx hformed hown
        exact congrArg Host.Outcome.next (proxyCopy_read hr hk hserved hserves hdata hfirst hx hformed hown)
      · intro hdata hpassed
        have hempty : r.data.isEmpty = false := by simpa using hdata
        refine ⟨?_, ?_⟩
        · intro slot hroom hwf
          have ht := proxyCopy_lands hr hk hserved hserves hempty hpassed hroom
          exact ⟨_, congrArg Host.Outcome.next ht, landCopy_forms hlen home sl ext slot (pxReq?_mem hr) hwf,
            landCopy_run hlen home sl ext slot⟩
        · intro hnone
          have hs := fun slot => (hnone slot).1
          have hback := fun slot => (hnone slot).2
          refine ⟨?_, ?_, ?_⟩
          · exact fun h => congrArg Host.Outcome.next (proxyCopy_starts hr hk hserved hserves hempty hpassed hs hback h)
          · exact fun t h hout => congrArg Host.Outcome.next (proxyCopy_waits hr hk hserved hserves hempty hpassed hs hback h hout)
          · exact fun t h hout => congrArg Host.Outcome.next (proxyCopy_refuses hr hk hserved hserves hempty hpassed hs hback h hout)
    case confirmed =>
      intro home sl slot0 ext hk hserved
      have ht : exec .proxyCopy s = .next (s.copyAnswered r) := congrArg Host.Outcome.next (proxyCopy_served hr hk hserved)
      refine ⟨?_, fun hsent => ⟨?_, ?_, ?_⟩⟩
      · exact fun hsent => ht.trans (congrArg Host.Outcome.next (copyAnswered_early hsent))
      · exact fun hlost => ht.trans (congrArg Host.Outcome.next (copyAnswered_lost hsent hlost))
      · exact fun hlost hawait hchunks => ht.trans (congrArg Host.Outcome.next (copyAnswered_last hsent hlost hawait hchunks))
      · exact fun hlost hawait => ht.trans (congrArg Host.Outcome.next (copyAnswered_more hsent hlost hawait))
  case handles =>
    intro w home slot
    refine ⟨rfl, fun n l => ⟨?_, ?_, ?_⟩, ?_, ?_⟩
    · rw [Warp.unpend, vreg_mapHandles]
      exact lane_clearPend home slot _ l
    · exact lane_nth_clearPend home slot w.lent n l
    · rw [Warp.unpend, pred_mapHandles, funext (clearPend_eq home slot)]
      rfl
    · exact fun hf => by rw [Warp.unpend, Warp.mapHandles, hf, Option.map_none]
    · intro f hf
      refine ⟨{ f with vregs := f.vregs.map (VReg.mapHandles (clearPend home slot)) }, ?_, rfl, fun n l => ?_⟩
      · rw [Warp.unpend, Warp.mapHandles, hf, Option.map_some]
      · exact lane_nth_clearPend home slot f.vregs n l
  case words =>
    intro fn n srcs h
    rw [run_of_reduces_false h]
    exact ⟨by simp, fun i hi => nth_map_range _ _ hi⟩
  case tree =>
    intro op u e n ws he hlen
    rw [HomeFn.run]
    exact congrArg (fun x : Option Word => [x.getD 0#32]) (treeFold_eq_fixedTree (predFn op u) 8 e (by omega) hlen)
  case products =>
    intro m ws us c n fmt hlen
    exact ⟨fun h => congrArg (fun x => [x]) (pdotW_int hlen h m c), fun h => congrArg (fun x => [x]) (pdotW_float hlen h m c)⟩
  case crossing =>
    intro s r slot lane blk w p got hmine hk hdue hw _ _ hp hwait
    obtain ⟨b1, w1, hw1, hp1⟩ := crossBit_brings hdue hw hp hwait lane
    exact ⟨_, b1, w1, _, execProxyCrossing_one hmine hk, hw1, hp1, rfl⟩
  case request =>
    intro s r hr
    exact execChunkRequest_asks hr
  case grant =>
    intro s r blk hr hb
    refine ⟨execChunkGrant_asked hr hb, execChunkGrant_early hr hb, fun d => execChunkGrant_refused hr hb, ?free, ?come, ?short⟩
    case free =>
      intro hone base hbase hfits
      obtain ⟨haligned, htaken, hreserved⟩ := freeGroup_eq_some hbase
      exact ⟨answerReq_grants hone hbase (quotaFits_eq_true.2 hfits), Nat.mod_eq_zero_of_dvd haligned, htaken, hreserved⟩
    case come =>
      intro bs hbs hcome hlen
      exact ⟨_, execChunkGrant_granted hr hb hbs hcome, granted_chunks hbs hlen, fun w p hw _ _ hp => granted_wakes hw hp⟩
    case short =>
      intro _ _ hone hs hback
      refine ⟨answerReq_waits hone hs hback, fun hout => (answerReq_refuses hone hs hback hout).trans ?_⟩
      rw [refusal_eq]
      rfl
  case giveBack =>
    intro s k hk hlen
    exact ⟨execChunkReturn_due hk hlen, fun hdue => (execChunkReturn_eq hk).trans (if_neg hdue)⟩

end Sys2Proof.Machine
end

section
/-!
PROOF. SPAWN, JDEC and PHASE, and the decrement of a JOIN (O35).
-/
namespace Sys2Proof.Machine
open Sys2Proof

/-- The block of an identity after it was replaced. -/
theorem block?_setBlock_found {s : State} {n : Nat} {b x : Block} (h : s.block? n = some b) (hid : x.id = b.id) :
    (s.setBlock x).block? n = some x := by
  rw [State.block?_setBlock, hid, State.block?_id h, if_pos rfl, h, Option.map_some]

/-! ### The record that SPAWN and JDEC name (R103, R104) -/

theorem recordAt_misaligned {s : State} {a : Actx} {va : Nat} (acc : Access) (h : va % 64 ≠ 0) :
    s.recordAt a va acc = .error (s.raiseAt a Code.misalign 0 (BitVec.ofNat 64 va)) := if_pos h

theorem recordAt_translated {s s0 : State} {a : Actx} {va pa : Nat} {acc : Access} (h : va % 64 = 0)
    (ht : s.translate a.core a.blk.ctx va acc = (.ok pa, s0)) : s.recordAt a va acc = .ok (pa, s0.misuse a.blk.ctx [va]) := by
  simp only [State.recordAt, h, ne_eq, not_true_eq_false, if_false, ht]

/-! ### SPAWN (R103) -/

/-- The queue of a descriptor takes the records that a context spawns (R103). -/
def QDesc.takesSpawn (d : QDesc) (r : Rec) (ctx : Nat) : Bool := d.ok && r.valid d.ctx && r.ctx == ctx && d.en && !d.host

theorem takesSpawn_eq_false_iff (d : QDesc) (r : Rec) (ctx : Nat) :
    (!d.ok || !r.valid d.ctx || r.ctx != ctx || !d.en || d.host) = !d.takesSpawn r ctx := by
  simp [QDesc.takesSpawn, bne]

section
variable {s s0 : State} {a : Actx} {o : Opnds}

theorem execSpawn_storesOpen (h : s.Counts a o) (hopen : s.storesOpen a = true) : execSpawn o s = .next s := by
  simp only [execSpawn, counted_acts h, hopen, if_true]

theorem execSpawn_misaligned (h : s.Counts a o) (hopen : s.storesOpen a = false) (hal : (s.scalar a o.a o.sa).toNat % 64 ≠ 0) :
    execSpawn o s = .next (s.raiseAt a Code.misalign 0 (BitVec.ofNat 64 (s.scalar a o.a o.sa).toNat)) := by
  simp only [execSpawn, counted_acts h, hopen, Bool.false_eq_true, if_false, recordAt_misaligned _ hal]

/-- The bytes of a record at a physical address. -/
def recordPlaces (pa : Nat) : List Nat := (List.range 64).map (pa + ·)

/-- The record as SPAWN reads it, with the state that has logged the read (R103). -/
def State.spawnRead (s : State) (a : Actx) (pa : Nat) : List Byte × State :=
  s.readAt (MemTag.warp a.bid a.wi a.core s.nextId) (recordPlaces pa) s.memTime

section
variable {pa : Nat} (h : s.Counts a o) (hopen : s.storesOpen a = false) (hal : (s.scalar a o.a o.sa).toNat % 64 = 0)
  (ht : s.translate a.core a.blk.ctx (s.scalar a o.a o.sa).toNat .read = (.ok pa, s0))
  {s1 s2 : State} (hs1 : s1 = s0.misuse a.blk.ctx [(s.scalar a o.a o.sa).toNat])
  (hturn : s1.earlierTouch s1.nextId a.bid a.wi (recordPlaces pa) true = false)
  {bs : List Byte} (hread : s1.spawnRead a pa = (bs, s2))
include h hopen hal ht hs1 hturn hread

theorem execSpawn_noQueue (hd : s2.qdesc a.blk.ctx (Rec.ofNat (leNat bs)).qid = none) :
    execSpawn o s = .next (s2.raise a Code.qfault 0) := by
  subst hs1
  rw [recordPlaces] at hturn
  rw [State.spawnRead, recordPlaces] at hread
  simp only [execSpawn, counted_acts h, hopen, Bool.false_eq_true, if_false, recordAt_translated hal ht, hturn, hread, hd]

variable {d : QDesc} (hd : s2.qdesc a.blk.ctx (Rec.ofNat (leNat bs)).qid = some d)
include hd

theorem execSpawn_queue : execSpawn o s = .next (
    if d.takesSpawn (Rec.ofNat (leNat bs)) a.blk.ctx = false then s2.raise a Code.qfault 0
    else if (Rec.ofNat (leNat bs)).join ≠ 0 then s2.spawned a o 1#32
    else if d.full then s2.spawned a o 2#32
    else
      match s2.walk a.blk.ctx (d.entry d.tail) .write with
      | .error e => s2.dataFault a (d.entry d.tail) e true
      | .ok _ => (s2.fresh.2.pushRing a.blk.ctx (Rec.ofNat (leNat bs)).qid d bs s2.fresh.1).spawned a o 0#32) := by
  subst hs1
  rw [recordPlaces] at hturn
  rw [State.spawnRead, recordPlaces] at hread
  simp only [execSpawn, counted_acts h, hopen, Bool.false_eq_true, if_false, recordAt_translated hal ht, hturn, hread, hd,
    takesSpawn_eq_false_iff, Bool.not_eq_true'] <;> rfl

end
end

/-! ### JDEC (R104) -/

section
variable {s s0 : State} {a : Actx} {o : Opnds}

@[simp] theorem loseIdemp_ops (s : State) (a : Actx) : (s.loseIdemp a).ops = s.ops := by unfold State.loseIdemp; split <;> rfl
@[simp] theorem loseIdemp_service (s : State) (a : Actx) : (s.loseIdemp a).service = s.service := by
  unfold State.loseIdemp; split <;> rfl
@[simp] theorem loseIdemp_nextId (s : State) (a : Actx) : (s.loseIdemp a).nextId = s.nextId := by
  unfold State.loseIdemp; split <;> rfl

/-- The operation that joins those in flight. -/
def State.nextOp (s : State) (a : Actx) (flag : Option Nat) (epoch : Option (Nat × Nat)) (k : OpKind) : Op :=
  { id := s.nextId, block := a.bid, warp := a.wi, core := a.core, ctx := a.blk.ctx, flag := flag, epoch := epoch, kind := k
    srcs := none, data := (0#32, []), routes := s.routesOf k.written }

theorem pushOp_ops (s : State) (a : Actx) (flag : Option Nat) (epoch : Option (Nat × Nat)) (k : OpKind) :
    (s.pushOp a flag epoch k).ops = s.ops ++ [s.nextOp a flag epoch k] := rfl

/-- A decrement on its way to its record's service warp (R96, R104). -/
def State.sendDecrement (s : State) (a : Actx) (o : Opnds) (va pa : Nat) : State :=
  let e := s.writeEpochOf a.core
  let s1 := (s.loseIdemp a).pushOp a (a.flagOf o.fs) (some e) (.jdec va pa o.d.toNat)
  let s2 := { s1 with service := s1.service ++ [(atomicOwner pa, s.nextId, pa / 64)] }
  (s2.updWarp a.bid a.wi fun w => { w.countUp (a.flagOf o.fs) with writeEpoch := some e }).retire a

/-- The decrement is an operation of the warp, and joins the queue of the record's service warp. -/
theorem sendDecrement_queued (s : State) (a : Actx) (o : Opnds) (va pa : Nat) : ∃ op : Op,
    (s.sendDecrement a o va pa).service = s.service ++ [(atomicOwner pa, op.id, pa / 64)] ∧
      (s.sendDecrement a o va pa).ops = s.ops ++ [op] ∧ op.kind = .jdec va pa o.d.toNat ∧ op.block = a.bid ∧ op.warp = a.wi := by
  refine ⟨(s.loseIdemp a).nextOp a (a.flagOf o.fs) (some (s.writeEpochOf a.core)) (.jdec va pa o.d.toNat), ?_, ?_, rfl, rfl, rfl⟩
  · simp [State.sendDecrement, State.retire, State.nextOp, State.pushOp, State.fresh]
  · simp [State.sendDecrement, State.retire, pushOp_ops]

theorem execJdec_misaligned (h : s.Counts a o) (hal : (s.scalar a o.a o.sa).toNat % 64 ≠ 0) :
    execJdec o s = .next (s.raiseAt a Code.misalign 0 (BitVec.ofNat 64 (s.scalar a o.a o.sa).toNat)) := by
  simp only [execJdec, counted_acts h, recordAt_misaligned _ hal]

section
variable {pa : Nat} (h : s.Counts a o) (hal : (s.scalar a o.a o.sa).toNat % 64 = 0)
  (ht : s.translate a.core a.blk.ctx (s.scalar a o.a o.sa).toNat .write = (.ok pa, s0))
  {s1 : State} (hs1 : s1 = s0.misuse a.blk.ctx [(s.scalar a o.a o.sa).toNat])
  (hturn : s1.earlierTouch s1.nextId a.bid a.wi (recordPlaces pa) = false)
  {bs : List Byte} {s2 : State} (hread : s1.loadBytes (recordPlaces pa) = (bs, s2))
include h hal ht hs1 hturn hread

theorem execJdec_foreign (hctx : (Rec.ofNat (leNat bs)).ctx ≠ a.blk.ctx) : execJdec o s = .next (s2.raise a Code.qfault 0) := by
  subst hs1
  rw [recordPlaces] at hturn hread
  simp only [execJdec, counted_acts h, recordAt_translated hal ht, hread, hturn, Bool.false_eq_true, if_false, hctx, ne_eq,
    not_false_eq_true, if_true]

/-- The decrement is sent (R96). -/
theorem execJdec_sends (hctx : (Rec.ofNat (leNat bs)).ctx = a.blk.ctx)
    (hroom : (s2.service.filter fun q => q.1 == atomicOwner pa).length < 256) :
    execJdec o s = .next (s2.sendDecrement a o (s.scalar a o.a o.sa).toNat pa) := by
  subst hs1
  rw [recordPlaces] at hturn hread
  have hroom' : ¬ 256 ≤ (s2.service.filter fun q => q.1 == atomicOwner pa).length := by omega
  simp only [execJdec, counted_acts h, recordAt_translated hal ht, hread, hturn, Bool.false_eq_true, if_false, hctx, ne_eq,
    not_true_eq_false, hroom']
  rfl

end
end

/-! ### The decrement of a JOIN (R96) -/

section
variable {s : State} {pa : Nat}

/-- The places of a record's JOIN. -/
def joinPlaces (pa : Nat) : List Nat := (List.range 4).map (pa + 12 + ·)

theorem map_readByte_joinPlaces (s : State) (pa : Nat) : (joinPlaces pa).map s.readByte = s.readPhys (pa + 12) 4 :=
  List.map_map

theorem loadBytes_join (h : ∀ i, i < 4 → inWindow (pa + 12 + i) = false) :
    s.loadBytes (joinPlaces pa) = (s.readPhys (pa + 12) 4, s) := by
  rw [loadBytes_plain, map_readByte_joinPlaces]
  simpa [joinPlaces] using h

/-- A JOIN outside the windows is read as it stands, and written unless it is zero (R96). -/
theorem joinDec_eq (h : ∀ i, i < 4 → inWindow (pa + 12 + i) = false) (ctx va : Nat) (t : MemTag) : s.joinDec ctx va pa t =
    let old := leNat (s.readPhys (pa + 12) 4)
    let put (v : Option Nat) : State := s.storeAtom t (joinPlaces pa) (s.readPhys (pa + 12) 4) v
    if old = 0 then (0, put none) else (old, if old = 1 then (put (some (old - 1))).makeReady ctx va (pa + 12) else put (some (old - 1))) := by
  simp only [State.joinDec, ← joinPlaces.eq_def, loadBytes_join h]

theorem readByte_storeAtom_none (s : State) (t : MemTag) (l : List Nat) (old : List Byte) (x : Nat) :
    (s.storeAtom t l old none).readByte x = s.readByte x := rfl

/-- A number stored in a cached word is read. -/
theorem readPhys_storeAtom_join (h : ∀ i, i < 4 → inWindow (pa + 12 + i) = false ∧ s.uncached (pa + 12 + i) = false) (t : MemTag)
    (old : List Byte) (v : Nat) : (s.storeAtom t (joinPlaces pa) old (some v)).readPhys (pa + 12) 4 = leBytes 4 v := by
  refine List.map_congr_left fun i hi => ?_
  have hi4 : i < 4 := List.mem_range.1 hi
  refine (readByte_putBytes_cached t.agent [] t.po (h i hi4).1 _ (s.note _) (h i hi4).2).trans ?_
  interval_cases i <;> simp [lastValue, joinPlaces, leBytes, List.range_succ]

end

/-! ### PHASE (R106) -/

section
variable {s s1 s2 : State} {a : Actx} {o : Opnds} {r : Record} {k : KObj} {v : Variant} {hd bs : List Byte}
  (h : s.Acts a o.gn o.g) (hr : s.record? a.blk.record = some r) (hk : s.kobj a.blk = some k) (hv : s.variantOf a.blk = some v)
include h hr hk hv

theorem execPhase_noTable (hz : v.sctab = 0) :
    execPhase o s = .next ((s.wrSc a o.d.toNat 0xFFFFFFFF#32).retire a) := by
  simp only [execPhase, run_acts h, hr, hk, hv, hz, if_true]

theorem execPhase_table (hz : v.sctab ≠ 0) (hhead : s.readTable a (r.kobj + v.sctab) 8 = (.ok hd, s1)) (hlo : 1 ≤ leNat hd)
    (hhi : leNat hd ≤ 8) (htable : s1.readTable a (r.kobj + v.sctab + 8) (8 * leNat hd) = (.ok bs, s2)) :
    execPhase o s = .next (s2.choosePhase a o k r.kobj (s.scalar a o.a o.sa).toNat (classEntries bs (leNat hd))) := by
  have hcount : (decide (leNat hd = 0) || decide (leNat hd > 8)) = false := by simp; omega
  simp only [execPhase, run_acts h, hr, hk, hv, hz, if_false, hhead, hcount, Bool.false_eq_true, htable]

end

section
variable {s : State} {a : Actx} {o : Opnds} {k : KObj} {kobj n : Nat} {es : List (Nat × Nat)} (hasc : ascending (es.map (·.1)) = true)
include hasc

theorem choosePhase_none (hnone : ∀ e ∈ es, e.1 < n) :
    s.choosePhase a o k kobj n es = (s.wrSc a o.d.toNat 0xFFFFFFFF#32).retire a := by
  have hfind : es.findIdx? (fun e => decide (n ≤ e.1)) = none := by
    simpa [List.findIdx?_eq_none_iff] using hnone
  simp only [State.choosePhase, hasc, Bool.not_true, Bool.false_eq_true, if_false, hfind]

variable {i lim code : Nat} (he : es[i]? = some (lim, code)) (hlim : n ≤ lim) (hbefore : ∀ e ∈ es.take i, e.1 < n)
include he hlim hbefore

omit hasc in
/-- The first class whose limit is not below A. -/
theorem findIdx_class : es.findIdx? (fun e => decide (n ≤ e.1)) = some i := by
  obtain ⟨hi, hget⟩ := List.getElem?_eq_some_iff.1 he
  refine List.findIdx?_eq_some_iff_getElem.2 ⟨hi, by simpa [hget] using hlim, fun j hj => ?_⟩
  have hmem : es[j] ∈ es.take i := List.mem_take_iff_getElem.2 ⟨j, by omega, rfl⟩
  simpa using hbefore _ hmem

theorem choosePhase_outside (hcode : code < k.codestart ∨ k.codelim ≤ code) :
    s.choosePhase a o k kobj n es = s.raise a Code.illegal 0x0F := by
  have hnth : nth (0, 0) es i = (lim, code) := by rw [nth_eq_getD, he, Option.getD_some]
  have hout : (decide (code < k.codestart) || decide (k.codelim ≤ code)) = true := by simpa using hcode
  simp only [State.choosePhase, hasc, Bool.not_true, Bool.false_eq_true, if_false, findIdx_class he hlim hbefore, hnth, hout, if_true]

/-- The block of the warp receives the number of its class (R106). -/
def State.classed (s : State) (a : Actx) (i : Nat) : State :=
  match s.block? a.bid with
  | some b => s.setBlock { b with sizeclass := w32 i }
  | none => s

theorem choosePhase_inside (hlo : k.codestart ≤ code) (hhi : code < k.codelim) :
    s.choosePhase a o k kobj n es = ((s.wrSc a o.d.toNat (w32 i)).classed a i).goto a (BitVec.ofNat 64 (kobj + code)) := by
  have hnth : nth (0, 0) es i = (lim, code) := by rw [nth_eq_getD, he, Option.getD_some]
  have hin : (decide (code < k.codestart) || decide (k.codelim ≤ code)) = false := by simp; omega
  simp only [State.choosePhase, hasc, Bool.not_true, Bool.false_eq_true, if_false, findIdx_class he hlim hbefore, hnth, hin]
  rfl

end

theorem block?_classed (s : State) (a : Actx) (i : Nat) :
    (s.classed a i).block? a.bid = (s.block? a.bid).map fun (b : Block) => { b with sizeclass := BitVec.ofNat 32 i } := by
  unfold State.classed
  split
  next b hb => exact (block?_setBlock_found (x := { b with sizeclass := w32 i }) hb rfl).trans (hb ▸ rfl)
  next hb => rw [hb, Option.map_none]

/-! ### SPAWN, JDEC and PHASE -/

/-- Settles O35: SPAWN and JDEC by what stands at the record that they name, the decrement by the JOIN that it reads, PHASE by the
class that its table gives. -/
theorem spawnsDecrementsAndPhases : Obligations.SpawnsDecrementsAndPhases := by
  refine ⟨?instructions, ?decrement, ?phase⟩
  case instructions =>
    intro o s s0 s1 a pa h va places read s2 r
    refine ⟨execSpawn_storesOpen h, execSpawn_misaligned h, fun hopen hal ht hs1 hturn => ⟨?noQueue, ?queue⟩,
      execJdec_misaligned h, fun hal ht hs1 hturn => ⟨?foreign, ?sent, ?plain⟩⟩
    case noQueue => exact execSpawn_noQueue h hopen hal ht hs1 hturn (bs := read.1) (s2 := s2) rfl
    case queue =>
      intro d hd good
      have hspawn := execSpawn_queue h hopen hal ht hs1 hturn (bs := read.1) (s2 := s2) rfl hd
      refine ⟨fun hbad => ?_, fun hgood hjoin => ?_, fun hgood hjoin hfull => ?_, fun l hgood hjoin hroom hwalk => ?_⟩
      · exact hspawn.trans (congrArg _ (if_pos hbad))
      all_goals
        have htakes : ¬ d.takesSpawn r a.blk.ctx = false := Bool.not_eq_false _ ▸ hgood
        refine hspawn.trans (congrArg _ ((if_neg htakes).trans ?_))
      · exact if_pos hjoin
      · exact (if_neg (not_not.2 hjoin)).trans (if_pos hfull)
      · rw [if_neg (not_not.2 hjoin), if_neg (by simp [hroom]), hwalk]
    case foreign => exact execJdec_foreign h hal ht hs1 hturn (bs := (s1.loadBytes places).1) rfl
    case sent =>
      intro hctx hroom
      obtain ⟨op, hop⟩ := sendDecrement_queued (s1.loadBytes places).2 a o va pa
      exact ⟨_, op, execJdec_sends h hal ht hs1 hturn (bs := (s1.loadBytes places).1) rfl hctx hroom, hop⟩
    case plain =>
      intro hplain
      have hread : s1.loadBytes places = (s1.readPhys pa 64, s1) := by
        rw [loadBytes_plain s1 hplain, List.map_map]
        rfl
      exact ⟨by rw [hread], by rw [hread]⟩
  case decrement =>
    intro s ctx va pa t h _ old put
    have hjoin : s.joinDec ctx va pa t = if old = 0 then (0, put none) else
        (old, if old = 1 then (put (some (old - 1))).makeReady ctx va (pa + 12) else put (some (old - 1))) :=
      joinDec_eq (fun i hi => (h i hi).1) ctx va t
    refine ⟨?_, fun hzero => ?_, fun hmore => ?_, fun hone => ?_, readByte_storeAtom_none s t _ _, readPhys_storeAtom_join h t _⟩
    · rw [hjoin]
      split
      next hzero => exact hzero.symm
      next => rfl
    · rw [hjoin, if_pos hzero]
    · rw [hjoin, if_neg (by omega), if_neg (by omega)]
    · rw [hjoin, if_neg (by omega), if_pos hone, hone]
  case phase =>
    intro o s s1 s2 a r k v hd bs h hr hk hv n es
    refine ⟨execPhase_noTable h hr hk hv, fun hz hhead hlo hhi htable hasc => ?_⟩
    have hphase := execPhase_table h hr hk hv hz hhead hlo hhi htable
    refine ⟨fun hnone => ?_, fun i lim code he hlim hbefore hstart hend => ?_, fun i lim code he hlim hbefore hcode => ?_⟩
    · exact hphase.trans (congrArg _ (choosePhase_none hasc hnone))
    · exact ⟨_, hphase.trans (congrArg _ (choosePhase_inside hasc he hlim hbefore hstart hend)), block?_classed _ a i⟩
    · exact hphase.trans (congrArg _ (choosePhase_outside hasc he hlim hbefore hcode))

end Sys2Proof.Machine
end

section
/-!
PROOF. Register blocks of a warp, and switch points (O36).
-/
namespace Sys2Proof.Machine
open Sys2Proof

/-! ### RBACQ and RBREL (R97, R107, R108) -/

/-- The reserve gives nothing when it has a holder or too few blocks. -/
theorem reserve_refuses {s : State} {core n : Nat} (h : (s.core core).holder ≠ none ∨ s.reserveFree core < n) :
    ((s.core core).holder.isNone && decide (n ≤ s.reserveFree core)) = false := by
  rcases h with hholder | hfew
  · rw [Option.isNone_eq_false_iff.2 (Option.isSome_iff_ne_none.2 hholder), Bool.false_and]
  · rw [decide_eq_false (Nat.not_le.2 hfew), Bool.and_false]

/-- The state in which a warp has given up its highest register blocks, the handles in them dropped (R108, R269). -/
def State.released (s : State) (a : Actx) (n : Nat) : State :=
  (s.dropRefs a.core a.blk.ctx a.bid a.wi ((a.w.vregs.drop (8 * (a.w.b - n))).flatMap VReg.handles)).updWarp a.bid a.wi
    fun w => w.shed n

section
variable {s : State} {a : Actx} {o : Opnds} (h : s.Acts a o.gn o.g)
include h

theorem execRbacq_tooMany (hb : 30 < a.w.b + o.imm16.toNat) : execRbacq o s = .next (s.raise a Code.illegal 0x0F) := by
  simp only [execRbacq, run_acts h, gt_iff_lt, hb, if_true]

section
variable (hb : a.w.b + o.imm16.toNat ≤ 30)
include hb

theorem execRbacq_pool (hpool : o.imm16.toNat ≤ s.poolFree a.core) :
    execRbacq o s = .next ((s.updWarp a.bid a.wi fun w => w.gain o.imm16.toNat 0).retire a) := by
  simp only [execRbacq, run_acts h, gt_iff_lt, Nat.not_lt.2 hb, if_false, hpool, if_true]

variable (hpool : s.poolFree a.core < o.imm16.toNat)
include hpool

theorem execRbacq_reserve (hholder : (s.core a.core).holder = none) (hreserve : o.imm16.toNat ≤ s.reserveFree a.core) :
    execRbacq o s = .next (((s.setCore a.core { s.core a.core with holder := some (a.bid, a.wi) }).updWarp a.bid a.wi
      fun w => w.gain o.imm16.toNat o.imm16.toNat).retire a) := by
  simp only [execRbacq, run_acts h, gt_iff_lt, Nat.not_lt.2 hb, if_false, Nat.not_le.2 hpool, hholder, Option.isNone_none,
    Bool.true_and, hreserve, decide_true, if_true]

variable (hnone : (s.core a.core).holder ≠ none ∨ s.reserveFree a.core < o.imm16.toNat)
include hnone

theorem execRbacq_exhausted (hwait : s.regWait a.blk.ctx = 0) : execRbacq o s = .next (s.raise a Code.regexh 0) := by
  simp only [execRbacq, run_acts h, gt_iff_lt, Nat.not_lt.2 hb, if_false, Nat.not_le.2 hpool, reserve_refuses hnone, Bool.false_eq_true,
    hwait, if_true]

theorem execRbacq_parks (hwait : s.regWait a.blk.ctx ≠ 0) : execRbacq o s = .next ((s.blockSlot a).setCore a.core
    { s.core a.core with parks := (s.core a.core).parks ++ [(a.bid, a.wi, a.slot, o.imm16.toNat, s.cycle (clusterOf a.core))] }) := by
  simp only [execRbacq, run_acts h, gt_iff_lt, Nat.not_lt.2 hb, if_false, Nat.not_le.2 hpool, reserve_refuses hnone, Bool.false_eq_true,
    hwait]

end

section
variable {v : Variant} (hv : s.variantOf a.blk = some v)
include hv

theorem execRbrel_tooFew (hb : a.w.b < v.regb + o.imm16.toNat) : execRbrel o s = .next (s.raise a Code.illegal 0x0F) := by
  simp only [execRbrel, run_acts h, hv, hb, if_true]

variable (hb : v.regb + o.imm16.toNat ≤ a.w.b) {t : State} (ht : t = s.released a o.imm16.toNat)
include hb ht

theorem execRbrel_released : execRbrel o s = .next (
    (if a.w.b - o.imm16.toNat = v.regb ∧ (t.core a.core).holder = some (a.bid, a.wi) then
      t.setCore a.core { t.core a.core with holder := none } else t).retire a) := by
  subst ht
  simp only [execRbrel, run_acts h, hv, Nat.not_lt.2 hb, if_false]
  rfl

theorem execRbrel_keepsHolder (hkeep : v.regb + o.imm16.toNat < a.w.b ∨ (t.core a.core).holder ≠ some (a.bid, a.wi)) :
    execRbrel o s = .next (t.retire a) := by
  rw [execRbrel_released h hv hb ht, if_neg]
  rintro ⟨heq, hholder⟩
  exact hkeep.elim (by omega) fun hne => hne hholder

theorem execRbrel_freesReserve (heq : v.regb + o.imm16.toNat = a.w.b) (hholder : (t.core a.core).holder = some (a.bid, a.wi)) :
    execRbrel o s = .next ((t.setCore a.core { t.core a.core with holder := none }).retire a) := by
  rw [execRbrel_released h hv hb ht, if_pos ⟨by omega, hholder⟩]

end
end

/-- A warp parked in an RBACQ issues from neither slot (R107). -/
theorem mayIssue_parked {s : State} {a : Actx} {slot n start : Nat} (h : (a.bid, a.wi, slot, n, start) ∈ (s.core a.core).parks) :
    s.mayIssue a = false := by
  have hparked : s.acquiring a = true := List.any_eq_true.2 ⟨_, h, by simp⟩
  simp only [State.mayIssue, hparked, Bool.not_true, Bool.and_false, Bool.false_and]

/-! ### The registers that a warp gains (R107, R111) -/

section
variable {w : Warp} (hw : w.vregs.length = 8 * w.b) (n r : Nat)
include hw

theorem length_gain : (w.gain n r).vregs.length = 8 * (w.gain n r).b := by
  simp [Warp.gain, hw, Nat.mul_add]

theorem nth_gain_own {i : Nat} (hi : i < 8 * w.b) : nth VReg.zero (w.gain n r).vregs i = nth VReg.zero w.vregs i :=
  nth_append_left _ _ (by omega)

theorem nth_gain_new {i : Nat} (hi : 8 * w.b ≤ i) : nth VReg.zero (w.gain n r).vregs i = VReg.zero := by
  rw [Warp.gain, nth_append_right _ _ (by omega), nth_eq_getD, List.getElem?_replicate]
  split <;> rfl

end

/-! ### Parked warps (R107) -/

/-- A parked warp has waited for more than REGWAIT cycles. -/
theorem parkOver_iff {s : State} {a : Actx} {start : Nat} : s.parkOver a start = true ↔
    start + 2 ^ min (bits (s.ctx a.blk.ctx).schedExp 12 8) 30 < s.cycle (clusterOf a.core) := decide_eq_true_iff

section
variable {s : State} {a : Actx} {b wi slot n start : Nat} {rest : List (Nat × Nat × Nat × Nat × Nat)}
  (hparks : (s.core (s.arg 0)).parks = (b, wi, slot, n, start) :: rest) (ha : s.actxAt b wi slot = some a)
include hparks ha

theorem execRbacqWake_served (hlate : s.parkOver a start = false) (hb : a.w.b + n ≤ 30) (hpool : n ≤ s.poolFree (s.arg 0)) :
    execRbacqWake s =
      .next (((s.unpark (s.arg 0) (b, wi, slot, n, start)).updWarp a.bid a.wi fun w => w.gain n 0).retire a) := by
  simp only [execRbacqWake, hparks, ha, hlate, Bool.false_eq_true, if_false, gt_iff_lt, Nat.not_lt.2 hb, hpool, if_true]

theorem execRbacqWake_late (hlate : s.parkOver a start = true) :
    execRbacqWake s = .next (s.endPark a (s.arg 0) (b, wi, slot, n, start)) := by
  simp only [execRbacqWake, hparks, ha, hlate, if_true]

end

theorem execRegexh_late {s : State} {a : Actx} {n start : Nat} (ha : s.actxAt (s.arg 0) (s.arg 1) (s.arg 2) = some a)
    (hfind : (s.core a.core).parks.find? (fun p => p.1 == a.bid && p.2.1 == a.wi && p.2.2.1 == a.slot)
      = some (a.bid, a.wi, a.slot, n, start))
    (hlate : s.parkOver a start = true) : execRegexh s = .next (s.endPark a a.core (a.bid, a.wi, a.slot, n, start)) := by
  simp only [execRegexh, ha, hfind, hlate, if_true]

/-! ### The identities of the blocks -/

/-- The identities of the blocks of a state, in their order. -/
def State.blockIds (s : State) : List Nat := s.blocks.map (·.id)

theorem mem_blockIds {s : State} {n : Nat} : n ∈ s.blockIds ↔ ∃ b, s.block? n = some b := by
  simp only [State.blockIds, List.mem_map, State.block?, ← Option.isSome_iff_exists, List.find?_isSome, beq_iff_eq]

@[simp] theorem blockIds_setBlock (s : State) (b : Block) : (s.setBlock b).blockIds = s.blockIds := by
  simp only [State.blockIds, State.setBlock_blocks, List.map_map]
  refine List.map_congr_left fun x _ => ?_
  dsimp only [Function.comp]
  split
  next h => exact h.symm
  next => rfl

@[simp] theorem blockIds_updWarp (s : State) (b wi : Nat) (f : Warp → Warp) : (s.updWarp b wi f).blockIds = s.blockIds := by
  unfold State.updWarp
  split
  · exact blockIds_setBlock _ _
  · rfl

theorem foldl_blockIds {α : Type} {f : State → α → State} (hf : ∀ (s : State) (x : α), (f s x).blockIds = s.blockIds) :
    ∀ (l : List α) (s : State), (l.foldl f s).blockIds = s.blockIds
  | [], _ => rfl
  | x :: xs, s => (foldl_blockIds hf xs (f s x)).trans (hf s x)

/-! ### Arrivals at a switch point (R105) -/

theorem noSwitch_blockIds (s : State) (bid : Nat) (x : SwitchWait) : (s.noSwitch bid x).blockIds = s.blockIds := by
  have hend : (s.endSwitch bid x.k).blockIds = s.blockIds := by
    unfold State.endSwitch
    split
    · rfl
    · exact blockIds_setBlock _ _
  refine (foldl_blockIds (fun t p => ?_) _ _).trans hend
  split
  · exact blockIds_updWarp _ _ _ _
  · rfl

theorem endGrace_blockIds (s : State) (b : Block) (now : Nat) : (s.endGrace b now).blockIds = s.blockIds :=
  foldl_blockIds (fun t x => noSwitch_blockIds t b.id x) _ _

/-- What makes a SWPT an arrival at its switch point (R105; log entry 32). -/
def Actx.readyToSwitch (a : Actx) (o : Opnds) : Prop :=
  a.lanes o = ~~~a.w.exited ∧ a.w.path (1 - a.slot) = none ∧ a.w.stack = [] ∧ a.blk.reshape ≠ none ∧ a.w.frame = none ∧
    a.p.wait = .ready

theorem readyToSwitch_iff {a : Actx} {o : Opnds} : (a.lanes o == ~~~a.w.exited && (a.w.path (1 - a.slot)).isNone && a.w.stack.isEmpty &&
    a.blk.reshape.isSome && a.w.frame.isNone && a.p.wait == .ready) = true ↔ a.readyToSwitch o := by
  simp only [Actx.readyToSwitch, Bool.and_eq_true, beq_iff_eq, Option.isNone_iff_eq_none, List.isEmpty_iff, Option.isSome_iff_ne_none,
    and_assoc]

section
variable {s : State} {a : Actx} {o : Opnds} (h : s.Acts a o.gn o.g)
include h

theorem execSwpt_noArrival (hready : ¬ a.readyToSwitch o) : execSwpt o s = .next (s.retire a) := by
  have hno := Bool.eq_false_iff.2 (mt readyToSwitch_iff.1 hready)
  simp only [execSwpt, run_acts h, hno, Bool.not_false, if_true]

theorem execSwpt_arrives (hready : a.readyToSwitch o) : ∃ b,
    ((s.endGrace a.blk (s.cycle (clusterOf a.core))).blockSlot a).block? a.bid = some b ∧ execSwpt o s =
      .next (((s.endGrace a.blk (s.cycle (clusterOf a.core))).blockSlot a).setBlock
        (b.arriveSwitch (bits o.imm16 3 0) a.wi a.slot (s.cycle (clusterOf a.core)))) := by
  have hyes := readyToSwitch_iff.2 hready
  obtain ⟨-, hw, -⟩ := actx_eq_some h.1
  have hmem : a.bid ∈ ((s.endGrace a.blk (s.cycle (clusterOf a.core))).blockSlot a).blockIds := by
    rw [State.blockSlot, blockIds_updWarp, endGrace_blockIds]
    exact mem_blockIds.2 ⟨_, (warp?_eq_some.1 hw).1⟩
  obtain ⟨b, hb⟩ := mem_blockIds.1 hmem
  refine ⟨b, hb, ?_⟩
  simp only [execSwpt, run_acts h, hyes, Bool.not_true, Bool.false_eq_true, if_false, hb]

end

/-- The arrivals at a point as a block notes them: whole once every warp has arrived within the grace. -/
def Block.joined (b : Block) (now : Nat) (x : SwitchWait) : SwitchWait :=
  { x with whole := x.whole || (b.allArrived x && decide (now < x.start + 1024)) }

/-- The first arrival at a point. -/
def SwitchWait.first (k wi slot now : Nat) : SwitchWait :=
  { k := k, start := now, arrived := [(wi, slot)], spoiled := false, whole := false, passed := false }

/-- One more arrival at a point. -/
def SwitchWait.another (x : SwitchWait) (wi slot : Nat) : SwitchWait := { x with arrived := x.arrived ++ [(wi, slot)] }

section
variable {b : Block} {k wi slot now : Nat}

theorem arriveSwitch_first (h : ∀ x ∈ b.switches, x.k ≠ k) :
    (b.arriveSwitch k wi slot now).switches = (b.switches ++ [SwitchWait.first k wi slot now]).map (b.joined now) := by
  have hnone : (b.switches.any fun x => x.k == k) = false := by simpa using h
  simp only [Block.arriveSwitch, hnone, Bool.false_eq_true, if_false]
  rfl

theorem arriveSwitch_another {x : SwitchWait} (hx : x ∈ b.switches) (hk : x.k = k) :
    b.joined now (x.another wi slot) ∈ (b.arriveSwitch k wi slot now).switches := by
  have hsome : (b.switches.any fun x => x.k == k) = true := List.any_eq_true.2 ⟨x, hx, by simpa using hk⟩
  simp only [Block.arriveSwitch, hsome, if_true]
  exact List.mem_map.2 ⟨x.another wi slot, List.mem_map.2 ⟨x, hx, if_pos hk⟩, rfl⟩

end

/-! ### The end of the grace, and the decision (R101, R105) -/

section
variable {s : State} {b : Block} {core : Nat} {x : SwitchWait} (hb : s.block? (s.arg 0) = some b) (hcore : b.loc = .core core)
  (hx : b.switches = [x])
include hb hcore hx

theorem execSwitchGraceExpiry_over (hpassed : x.passed = false) (hwhole : x.whole = false)
    (hgrace : x.start + 1024 ≤ s.cycle (clusterOf core)) : execSwitchGraceExpiry s = .next (s.noSwitch b.id x) := by
  simp [execSwitchGraceExpiry, hb, Block.core?, hcore, State.endGrace, Block.graceOver, hx, hpassed, hwhole, hgrace]

theorem execSwitchGraceExpiry_early (h : s.cycle (clusterOf core) < x.start + 1024 ∨ x.whole = true) :
    execSwitchGraceExpiry s = .next s := by
  have hnot : (!x.passed && !x.whole && decide (x.start + 1024 ≤ s.cycle (clusterOf core))) = false := by
    rcases h with hearly | hwhole
    · rw [decide_eq_false (Nat.not_le.2 hearly), Bool.and_false]
    · simp [hwhole]
  simp [execSwitchGraceExpiry, hb, Block.core?, hcore, State.endGrace, Block.graceOver, hx, hnot]

theorem execSwitchApply_waits (hwhole : x.whole = false) : execSwitchApply s = .next s := by
  simp [execSwitchApply, hb, Block.core?, hcore, hx, hwhole]

theorem execSwitchApply_decides (hwhole : x.whole = true) (hending : b.ending = none) (hstop : b.stopping = false) :
    execSwitchApply s = .next (s.decideSwitch b core x) := by
  simp [execSwitchApply, hb, Block.core?, hcore, hx, hwhole, hending, hstop]

end

section
variable {s : State} {b : Block} {core : Nat} {x : SwitchWait} {q : Reshape} {r : Record} {k : KObj} {v : Variant}
  (hspoiled : x.spoiled = false) (hq : b.reshape = some q) (hr : s.record? b.record = some r) (hk : s.kobj b = some k)
  (hv : s.variantOf b = some v)
include hspoiled hq hr hk hv

theorem decideSwitch_found {t : Variant} {m : SwitchMap} (ht : k.variants[q.target]? = some t)
    (hmap : s.blockMap b (fun kk tt => kk == x.k && tt == q.target) = .ok (.found m)) (hok : s.mapOk b.ctx r.kobj k v t x.k m = true)
    (hdrained : s.switchDrained b.id = true) : s.decideSwitch b core x = s.applySwitch b core r q m t := by
  simp only [State.decideSwitch, hspoiled, Bool.false_eq_true, if_false, hq, hr, hk, hv, hmap, ht, hok, if_true, State.passSwitch,
    hdrained]

theorem decideSwitch_absent (hmap : s.blockMap b (fun kk tt => kk == x.k && tt == q.target) = .ok .absent) :
    s.decideSwitch b core x = s.noSwitch b.id x := by
  simp only [State.decideSwitch, hspoiled, Bool.false_eq_true, if_false, hq, hr, hk, hv, hmap]

end

/-! ### Register blocks and switch points -/

/-- Settles O36: RBACQ and RBREL by where their blocks come from and go to, parked warps by the time that they have waited, a switch point
by its arrivals, its grace and its decision. -/
theorem blocksOfRegistersAndSwitches : Obligations.BlocksOfRegistersAndSwitches := by
  refine ⟨⟨?instructions, ?parked, ?gained, ?woken, ?expired⟩, ?arrives, ?arrivals, ?decided⟩
  case instructions =>
    intro o s a h n c wait
    refine ⟨execRbacq_tooMany h, execRbacq_pool h, execRbacq_reserve h,
      fun hb hpool hnone => ⟨execRbacq_exhausted h hb hpool hnone, execRbacq_parks h hb hpool hnone⟩, fun v hv => ⟨execRbrel_tooFew h hv, ?_⟩⟩
    intro hb t ht
    exact ⟨execRbrel_keepsHolder h hv hb ht, execRbrel_freesReserve h hv hb ht⟩
  case parked =>
    rintro s a ⟨slot, n, start, h⟩
    exact mayIssue_parked h
  case gained =>
    intro w n r hw
    exact ⟨rfl, length_gain hw n r, fun i hi => nth_gain_own hw n r hi, fun i hi => nth_gain_new hw n r hi⟩
  case woken =>
    intro s a b wi slot n start rest hparks ha late left
    exact ⟨fun hlate => execRbacqWake_served hparks ha (Bool.eq_false_iff.2 (mt parkOver_iff.1 hlate)),
      fun hlate => execRbacqWake_late hparks ha (parkOver_iff.2 hlate)⟩
  case expired =>
    intro s a n start ha park hfind hlate
    exact execRegexh_late ha hfind (parkOver_iff.2 hlate)
  case arrives =>
    intro o s a h ready
    exact ⟨execSwpt_noArrival h, execSwpt_arrives h⟩
  case arrivals =>
    intro b k wi slot now joined one
    exact ⟨arriveSwitch_first, fun x hx hk => arriveSwitch_another hx hk⟩
  case decided =>
    intro s b core x hb hcore hx
    refine ⟨execSwitchGraceExpiry_over hb hcore hx, execSwitchGraceExpiry_early hb hcore hx, execSwitchApply_waits hb hcore hx,
      execSwitchApply_decides hb hcore hx, ?_, ?_⟩
    · intro q r k v t m hwhole hending hstop hspoiled hq hr hk hv ht hmap hok hdrained
      exact (execSwitchApply_decides hb hcore hx hwhole hending hstop).trans
        (congrArg _ (decideSwitch_found hspoiled hq hr hk hv ht hmap hok hdrained))
    · intro q r k v hwhole hending hstop hspoiled hq hr hk hv hmap
      exact (execSwitchApply_decides hb hcore hx hwhole hending hstop).trans
        (congrArg _ (decideSwitch_absent hspoiled hq hr hk hv hmap))

end Sys2Proof.Machine
end

section
/-!
PROOF. Blocks leave their cores, saved or aborted, and come back (O40).
-/
namespace Sys2Proof.Machine
open Sys2Proof

theorem block?_of_blocks {s t : State} (h : t.blocks = s.blocks) (n : Nat) : t.block? n = s.block? n := by
  rw [State.block?, State.block?, h]

/-! ### What a saved context keeps (R310, R311) -/

/-- What saving keeps of a warp: its registers, predicates, shapes and holds, and where the path of its first slot stands. -/
def Warp.kept (w : Warp) :=
  (w.sregs, w.preds, w.shapes, w.holds, w.vregs.map (·.lanes), w.path0.map fun (q : Path) => (q.pc, q.mask, q.join, q.clause))

/-- What saving keeps of a block. -/
def Block.kept (b : Block) := (b.spad, b.acc, b.variant, b.warps.map Warp.kept)

theorem kept_setWait (w : Warp) (slot : Nat) (x : Wait) : (w.setWait slot x).kept = w.kept := by
  have hpath : (w.setWait slot x).path0.map (fun (q : Path) => (q.pc, q.mask, q.join, q.clause)) =
      w.path0.map fun (q : Path) => (q.pc, q.mask, q.join, q.clause) := by
    unfold Warp.setWait Warp.setPath Warp.path
    by_cases hslot : slot = 0
    · cases h : w.path0 <;> simp [hslot, h]
    · cases w.path1 <;> simp [hslot]
  simp only [Warp.kept, Warp.setWait_sregs, Warp.setWait_preds, Warp.setWait_shapes, Warp.setWait_holds, Warp.setWait_vregs, hpath]

theorem kept_save (now : Nat) (w : Warp) : (Warp.save now w).kept = w.kept := by
  have huntrap : w.untrap.kept = w.kept ∧ w.untrap.path0 = w.path0 ∧ w.untrap.vregs = w.vregs := by
    unfold Warp.untrap
    split
    · exact ⟨rfl, rfl, rfl⟩
    · split <;> exact ⟨rfl, rfl, rfl⟩
  obtain ⟨hkept, hpath, hvregs⟩ := huntrap
  rw [← hkept]
  simp only [Warp.kept, Warp.save, List.map_map, Option.map_map, hpath, hvregs]
  rfl

theorem map_setNth_of_eq {α β : Type} {f : α → β} {l : List α} {i : Nat} {x y : α} (hx : l[i]? = some x) (h : f y = f x) :
    (setNth l i y).map f = l.map f := by
  refine List.ext_getElem? fun k => ?_
  rw [List.getElem?_map, List.getElem?_map, setNth_getElem?]
  split
  next hk =>
    subst hk
    simp [hx, h]
  next => rfl

theorem kept_spoilSwitches (b : Block) : b.spoilSwitches.kept = b.kept := by
  have hfold (n : Nat) (l : List (Nat × Nat)) : ∀ w : Warp,
      (l.foldl (fun (w : Warp) (y : Nat × Nat) => if y.1 = n then w.setWait y.2 .retiring else w) w).kept = w.kept := by
    induction l with
    | nil => exact fun _ => rfl
    | cons y ys ih =>
      intro w
      refine (ih _).trans ?_
      dsimp only
      split
      · exact kept_setWait _ _ _
      · rfl
  have hwarps : b.spoilSwitches.warps.map Warp.kept = b.warps.map Warp.kept := by
    simp only [Block.spoilSwitches, List.map_map]
    calc _ = b.warps.zipIdx.map (Warp.kept ∘ Prod.fst) := List.map_congr_left fun x _ => hfold x.2 _ x.1
      _ = b.warps.map Warp.kept := by rw [← List.map_map, List.zipIdx_map_fst]
  rw [Block.kept, hwarps]
  rfl

/-- Withdrawing what a path waits for keeps what is saved of every block. -/
theorem withdraw_kept (s : State) (b wi slot : Nat) (keep : Bool) (n : Nat) :
    ((s.withdraw b wi slot keep).block? n).map Block.kept = (s.block? n).map Block.kept := by
  cases hw : s.warp? b wi with
  | none =>
    have hcopies : (s.withdrawCopies b wi slot).warp? b wi = none := hw
    simp only [State.withdraw, hcopies]
    rfl
  | some x =>
    obtain ⟨blk, w⟩ := x
    obtain ⟨hb, hwi⟩ := warp?_eq_some.1 hw
    have hblocks := withdraw_blocks hw slot keep
    split at hblocks
    next =>
      rw [block?_of_blocks hblocks, State.block?_setBlock]
      split
      next hn =>
        have hid : n = b := hn.trans (State.block?_id (blk := blk) hb)
        have hkept : (blk.withdrawn wi slot w).kept = blk.kept := by
          simp only [Block.kept, Block.withdrawn, map_setNth_of_eq hwi (kept_setWait w slot _)]
        rw [hid, hb, Option.map_map, Option.map_some, Option.map_some]
        exact congrArg some hkept
      next => rfl
    next => rw [block?_of_blocks hblocks]

theorem withdrawAll_kept (s : State) (b : Block) (n : Nat) :
    ((s.withdrawAll b).block? n).map Block.kept = (s.block? n).map Block.kept := by
  have hfold (l : List Nat) : ∀ s : State, ((l.foldl (fun s i => (s.withdraw b.id i 0).withdraw b.id i 1) s).block? n).map Block.kept =
      (s.block? n).map Block.kept := by
    induction l with
    | nil => exact fun _ => rfl
    | cons i is ih => exact fun s => (ih _).trans ((withdraw_kept _ _ _ _ _ n).trans (withdraw_kept _ _ _ _ _ n))
  exact hfold _ s

theorem freeHolder_blocks (s : State) (core b : Nat) : (s.freeHolder core b).blocks = s.blocks := by
  unfold State.freeHolder
  dsimp only
  split
  · split <;> rfl
  · rfl

/-- A block as its saved context has it. -/
def Block.savedAt (b : Block) (loc : Where) (now : Nat) : Block :=
  { b with loc := loc, stopping := false, reshape := none, warps := b.warps.map (Warp.save now) }

theorem kept_savedAt (b : Block) (loc : Where) (now : Nat) : (b.savedAt loc now).kept = b.kept := by
  have hsave : Warp.kept ∘ Warp.save now = Warp.kept := funext (kept_save now)
  simp only [Block.kept, Block.savedAt, List.map_map, hsave]

theorem flags_savedAt {b : Block} {loc : Where} {now : Nat} {w : Warp} (h : w ∈ (b.savedAt loc now).warps) :
    w.flags = List.replicate 12 0 := by
  obtain ⟨_, -, rfl⟩ := List.mem_map.1 h
  rfl

/-- A block that is saved leaves its core with what a context keeps, its flags clear (R310, R311). -/
theorem saveBlock_saves {s : State} {n core : Nat} {blk : Block} (loc : Where) (hb : s.block? n = some blk)
    (hcore : blk.core? = some core) : ∃ b1, (s.saveBlock n loc).block? n = some b1 ∧ b1.loc = loc ∧ b1.kept = blk.kept ∧
      ∀ w ∈ b1.warps, w.flags = List.replicate 12 0 := by
  have hkept := withdrawAll_kept (s.setBlock blk.spoilSwitches) blk n
  rw [block?_setBlock_found (x := blk.spoilSwitches) hb rfl, Option.map_some, kept_spoilSwitches, Option.map_eq_some_iff] at hkept
  obtain ⟨b, hb1, hbk⟩ := hkept
  refine ⟨b.savedAt loc (((s.setBlock blk.spoilSwitches).withdrawAll blk).cycle (clusterOf core)), ?_, rfl,
    (kept_savedAt _ _ _).trans hbk, fun w => flags_savedAt⟩
  simp only [State.saveBlock, hb, hcore, hb1]
  rw [State.fillSave, block?_of_blocks (fillVirt_blocks _ _ _ _ _), block?_of_blocks (vacate_blocks _ _),
    block?_of_blocks (freeHolder_blocks _ _ _)]
  exact block?_setBlock_found (x := b.savedAt loc _) hb1 rfl

/-- Two warps of which saving keeps the same. -/
theorem kept_eq_iff {w w1 : Warp} : w1.kept = w.kept ↔ w1.sregs = w.sregs ∧ w1.preds = w.preds ∧ w1.shapes = w.shapes ∧
    w1.holds = w.holds ∧ w1.vregs.map (·.lanes) = w.vregs.map (·.lanes) ∧
    (w1.path0.map fun (q : Path) => (q.pc, q.mask, q.join, q.clause)) =
      w.path0.map fun (q : Path) => (q.pc, q.mask, q.join, q.clause) := by
  simp only [Warp.kept, Prod.mk.injEq]

/-! ### Blocks that are aborted (R98) -/

/-- The blocks, by their identities, and the operations in flight are the same in both states. -/
structure State.KeepsRoster (s t : State) : Prop where
  ids : t.blockIds = s.blockIds
  ops : t.ops = s.ops

namespace State.KeepsRoster
variable {s t u : State}

theorem refl (s : State) : s.KeepsRoster s := ⟨rfl, rfl⟩

theorem trans (h : s.KeepsRoster t) (h' : t.KeepsRoster u) : s.KeepsRoster u := ⟨h'.ids.trans h.ids, h'.ops.trans h.ops⟩

theorem foldl {α : Type} {f : State → α → State} (hf : ∀ (s : State) (x : α), s.KeepsRoster (f s x)) :
    ∀ (l : List α) (s : State), s.KeepsRoster (l.foldl f s)
  | [], s => .refl s
  | x :: xs, s => (hf s x).trans (foldl hf xs (f s x))

theorem setBlock (s : State) (b : Block) : s.KeepsRoster (s.setBlock b) := ⟨blockIds_setBlock s b, rfl⟩

theorem updWarp (s : State) (b wi : Nat) (f : Warp → Warp) : s.KeepsRoster (s.updWarp b wi f) := ⟨by simp, by simp⟩

theorem dropRefs (core ctx b wi : Nat) : ∀ (hs : List Word) (s : State), s.KeepsRoster (s.dropRefs core ctx b wi hs)
  | [], s => .refl s
  | h :: hs, s => by
    refine .trans ?_ (dropRefs core ctx b wi hs _)
    split
    · exact .refl s
    · unfold State.unref
      split <;> exact ⟨rfl, rfl⟩

theorem withdraw (s : State) (b wi slot : Nat) (keep : Bool) : s.KeepsRoster (s.withdraw b wi slot keep) := by
  unfold State.withdraw
  dsimp only
  split
  · exact ⟨rfl, rfl⟩
  · split
    · exact ⟨blockIds_setBlock _ _, rfl⟩
    · exact ⟨rfl, rfl⟩

theorem setPreds (s : State) (core b wi n : Nat) (m : Mask) (f : Nat → PredLane) : s.KeepsRoster (s.setPreds core b wi n m f) := by
  unfold State.setPreds
  split
  · exact .refl s
  · split
    · exact .refl s
    · exact .trans (.setBlock _ _) (.dropRefs _ _ _ _ _ _)

theorem wakePost (s : State) (b wi : Nat) (p : Option Post) : s.KeepsRoster (s.wakePost b wi p) := by
  unfold State.wakePost
  split
  · exact .trans (.setPreds _ _ _ _ _ _ _) (.updWarp _ _ _ _)
  · exact .refl s

theorem endPairs (s : State) (b wi : Nat) : s.KeepsRoster (s.endPairs b wi) := by
  refine .trans (t := { s with pairs := s.pairs.filter fun p => !((p.block0 == b && p.warp0 == wi) || (p.block1 == b && p.warp1 == wi)) })
    ⟨rfl, rfl⟩ (.foldl (fun s p => ?_) _ _)
  exact .trans (.wakePost s _ _ _) (.wakePost _ _ _ _)

theorem unwound (s : State) (b wi : Nat) (blk : Block) (w : Warp) : s.KeepsRoster (s.unwound b wi blk w) :=
  (((withdraw s b wi 0 true).trans (.withdraw _ b wi 1 true)).trans (.endPairs _ b wi)).trans (.dropRefs _ _ _ _ _ _)

theorem endWarp (s : State) (b wi : Nat) : s.KeepsRoster (s.endWarp b wi) := by
  unfold State.endWarp
  split
  next => exact .refl s
  next blk w _ =>
    split
    · exact .refl s
    · have hmarked := (unwound s b wi blk w).trans (.updWarp _ b wi Warp.endedNow)
      dsimp only
      split
      · split
        · exact hmarked.trans ⟨blockIds_setBlock _ _, rfl⟩
        · exact hmarked.trans ⟨rfl, rfl⟩
      · split
        · exact hmarked.trans ⟨blockIds_setBlock _ _, rfl⟩
        · exact hmarked.trans ⟨rfl, rfl⟩

end State.KeepsRoster

/-- What an abort discards at once: the block's operations and transfers; its record keeps the epochs of its stores (R96, R98). -/
def State.discarded (s : State) (n : Nat) (blk : Block) : State :=
  { s with
    ops := s.ops.filter fun o => o.block != n
    service := s.service.filter fun q => !(s.ops.any fun o => o.id == q.2.1 && o.block == n)
    xfers := s.xfers.filter fun x => x.block != n
    records := s.records.map fun (r : Record) =>
      if r.id = blk.record then { r with epochs := distinct (r.epochs ++ blk.warps.filterMap fun (w : Warp) => w.writeEpoch) } else r }

/-- A block as an abort leaves it. -/
def Block.emptied (b : Block) : Block :=
  { b with loc := .replay, warps := [], spad := [], acc := [], stopping := false, reshape := none
           switches := [], qwait := [], qspoiled := [] }

theorem freeHolder_ops (s : State) (core b : Nat) : (s.freeHolder core b).ops = s.ops := by
  unfold State.freeHolder
  dsimp only
  split
  · split <;> rfl
  · rfl

theorem vacate_ops (s : State) (c : Nat) : (s.vacate c).ops = s.ops := by
  unfold State.vacate
  split <;> rfl

/-- A block that is aborted is on no core and holds no warps, and nothing of it is in flight (R98). -/
theorem abortBlock_aborts {s : State} {n core : Nat} {blk : Block} (hb : s.block? n = some blk) (hcore : blk.core? = some core) :
    ∃ b1, (s.abortBlock n).block? n = some b1 ∧ b1.loc = .replay ∧ b1.warps = [] ∧ ∀ o ∈ (s.abortBlock n).ops, o.block ≠ n := by
  have hroster := State.KeepsRoster.foldl (fun s i => .endWarp s n i) (List.range blk.warps.length) (s.discarded n blk)
  have hmem : n ∈ (s.discarded n blk).blockIds := mem_blockIds.2 ⟨blk, hb⟩
  rw [← hroster.ids] at hmem
  obtain ⟨b, hb1⟩ := mem_blockIds.1 hmem
  have habort : s.abortBlock n = ((((List.range blk.warps.length).foldl (fun s i => s.endWarp n i) (s.discarded n blk)).setBlock
      b.emptied).freeHolder core n).vacate core := by
    simp only [State.discarded] at hb1
    simp only [State.abortBlock, hb, hcore, hb1]
    rfl
  refine ⟨b.emptied, ?_, rfl, rfl, fun o ho => ?_⟩
  · rw [habort, block?_of_blocks (vacate_blocks _ _), block?_of_blocks (freeHolder_blocks _ _ _)]
    exact block?_setBlock_found hb1 rfl
  · rw [habort, vacate_ops, freeHolder_ops, State.setBlock_ops, hroster.ops] at ho
    simpa using (List.mem_filter.1 ho).2

/-! ### Blocks that come back (R312) -/

theorem takeUp_blocks (s : State) (core ctx : Nat) : (s.takeUp core ctx).blocks = s.blocks := by
  unfold State.takeUp
  dsimp only
  split <;> rfl

theorem carryMarks_blocks (s : State) (old core : Nat) : (s.carryMarks old core).blocks = s.blocks := by
  unfold State.carryMarks
  split <;> rfl

/-- What a warp holds in registers, scalars, predicates and flags. -/
def Warp.registers (w : Warp) := (w.vregs, w.sregs, w.preds, w.flags)

theorem registers_restoreWarps (now : Nat) (salvaged : Bool) : ∀ (slots : List Nat) (ws : List Warp),
    (restoreWarps now salvaged slots ws).map Warp.registers = ws.map Warp.registers
  | _, [] => rfl
  | slots, w :: ws => by
    unfold restoreWarps
    split
    · rw [List.map_cons, registers_restoreWarps now salvaged slots ws, List.map_cons]
    · rw [List.map_cons, registers_restoreWarps now salvaged (slots.drop 1) ws, List.map_cons]
      rfl

/-- A saved block as it stands on its new core. -/
def State.restored (s : State) (b : Block) (core : Nat) (place : Nat × Nat) : Block :=
  { b with
    loc := .core core
    warps := restoreWarps (s.cycle (clusterOf core)) (s.salvaged core) (s.freeSlots core (b.warps.filter fun w => !w.ended).length) b.warps
    spadBase := place.1, accBase := place.2, lastCore := core }

theorem block?_restoreBlock {s : State} {n : Nat} {blk : Block} (core : Nat) (place : Nat × Nat) (hb : s.block? n = some blk) :
    (s.restoreBlock blk core place).block? n = some (s.restored blk core place) := by
  have htake : (s.takeUp core blk.ctx).block? n = some blk := (block?_of_blocks (takeUp_blocks _ _ _) n).trans hb
  rw [State.restoreBlock, block?_of_blocks (carryMarks_blocks _ _ _)]
  exact block?_setBlock_found (x := s.restored blk core place) htake rfl

/-! ### The events -/

section
variable {s : State} {blk : Block} (hb : s.block? (s.arg 0) = some blk)
include hb

theorem execPreempt_saves (hstop : blk.stopping = true) (hending : blk.ending = none) (hheld : s.blockHeld blk.id = false)
    (hsave : s.savable blk = true) : execPreempt s = .next (s.saveBlock (s.arg 0) .resume) := by
  rw [State.block?_id hb] at hheld
  simp [execPreempt, hb, hstop, hending, hheld, hsave, State.block?_id hb]

theorem execIfaultSwapOut_saves (hwait : ∃ f ∈ s.faultWaits, f.waiter = .swap blk.id) (hending : blk.ending = none)
    (hsave : s.savable blk = true) : execIfaultSwapOut s = .next (s.saveBlock (s.arg 0) .swapped) := by
  obtain ⟨f, hf, hw⟩ := hwait
  have hany : (s.faultWaits.any fun f => f.holds blk.id true) = true := List.any_eq_true.2 ⟨f, hf, by simp [FaultWait.holds, hw]⟩
  rw [State.block?_id hb] at hany
  simp [execIfaultSwapOut, hb, hany, hending, hsave, State.block?_id hb]

theorem execBlockReplay_aborts (hwait : ∃ f ∈ s.faultWaits, f.waiter = .replay blk.id) (hending : blk.ending = none) :
    execBlockReplay s = .next (s.abortBlock (s.arg 0)) := by
  obtain ⟨f, hf, hw⟩ := hwait
  have hany : (s.faultWaits.any fun f => f.holds blk.id false) = true := List.any_eq_true.2 ⟨f, hf, by simp [FaultWait.holds, hw]⟩
  rw [State.block?_id hb] at hany
  simp [execBlockReplay, hb, hany, hending, State.block?_id hb]

variable (hmay : s.mayRestore blk (s.arg 1) = true)
include hmay

theorem execBlockRestore_saved {place : Nat × Nat} (hloc : blk.loc = .resume)
    (hfits : s.fits (s.arg 1) blk.ctx (s.savedNeed blk) = some place) :
    execBlockRestore s = .next (s.restoreBlock blk (s.arg 1) place) := by
  simp only [execBlockRestore, hb, hmay, Bool.not_true, Bool.false_eq_true, if_false, hloc, hfits]

theorem execBlockRestore_aborted {r : Record} {k : KObj} {vi : Nat} {v : Variant} {place : Nat × Nat} (hloc : blk.loc = .fresh)
    (hr : s.record? blk.record = some r) (hk : r.obj = some k) (hfits : s.firstFit (s.arg 1) blk.ctx k = some (vi, v, place)) :
    execBlockRestore s = .next (s.placeAgain blk r k vi v (s.arg 1) place) := by
  simp only [execBlockRestore, hb, hmay, Bool.not_true, Bool.false_eq_true, if_false, hloc, hr, hk, hfits]

end

/-! ### Blocks that leave and return -/

/-- Settles O40: what saving keeps is kept by each step of it, an abort leaves neither warps nor operations, and a restore places a block
with the registers of its saved warps. -/
theorem blocksLeaveAndReturn : Obligations.BlocksLeaveAndReturn := by
  refine ⟨?leaves, ?aborted, ?returns⟩
  case leaves =>
    intro s blk core hb hcore hending _ hsave saved
    have hsaved (loc : Where) : saved (s.saveBlock (s.arg 0) loc) loc := by
      obtain ⟨b1, hb1, hloc, hkept, hflags⟩ := saveBlock_saves loc hb hcore
      obtain ⟨hspad, hacc, hvariant, hwarps⟩ : b1.spad = blk.spad ∧ b1.acc = blk.acc ∧ b1.variant = blk.variant ∧
          b1.warps.map Warp.kept = blk.warps.map Warp.kept := by simpa only [Block.kept, Prod.mk.injEq] using hkept
      refine ⟨b1, hb1, hloc, by simpa using congrArg List.length hwarps, hspad, hacc, hvariant, fun i w _ hw => ?_⟩
      have hi : b1.warps[i]?.map Warp.kept = some w.kept := by
        rw [← List.getElem?_map, hwarps, List.getElem?_map, hw, Option.map_some]
      obtain ⟨w1, hw1, hkw⟩ := Option.map_eq_some_iff.1 hi
      obtain ⟨hsregs, hpreds, hshapes, hholds, hvregs, hpath⟩ := kept_eq_iff.1 hkw
      exact ⟨w1, hw1, hsregs, hpreds, hshapes, hholds, hflags w1 (List.mem_of_getElem? hw1), hvregs, hpath⟩
    exact ⟨fun hstop hheld => ⟨_, execPreempt_saves hb hstop hending hheld hsave, hsaved .resume⟩,
      fun hwait => ⟨_, execIfaultSwapOut_saves hb hwait hending hsave, hsaved .swapped⟩⟩
  case aborted =>
    intro s blk core hb hcore hending hwait
    obtain ⟨b1, hb1, hgone⟩ := abortBlock_aborts hb hcore
    exact ⟨_, b1, execBlockReplay_aborts hb hwait hending, hb1, hgone⟩
  case returns =>
    intro s blk hb hmay
    refine ⟨fun place hloc hfits => ?_, fun r k vi v place hloc hr hk hfits => execBlockRestore_aborted hb hmay hloc hr hk hfits⟩
    exact ⟨_, _, execBlockRestore_saved hb hmay hloc hfits, block?_restoreBlock _ place hb, rfl, rfl, rfl, registers_restoreWarps _ _ _ _⟩

end Sys2Proof.Machine
end

section
/-!
PROOF. Doorbells, hardware slots, quanta and aging (O55).
-/
namespace Sys2Proof.Machine
open Sys2Proof

/-! ### What a write of memory leaves alone (R191) -/

/-- The states differ in no more than the bytes of memory, the log of accesses and the waits on words. -/
def State.SameButMemory (s t : State) : Prop :=
  { t with dram := s.dram, l2 := s.l2, filled := s.filled, posted := s.posted, log := s.log, waits := s.waits } = s

namespace State.SameButMemory
variable {s t u : State}

theorem refl (s : State) : s.SameButMemory s := rfl

theorem trans (h : s.SameButMemory t) (h' : t.SameButMemory u) : s.SameButMemory u := by
  have hu := congrArg
    (fun x : State => { x with dram := s.dram, l2 := s.l2, filled := s.filled, posted := s.posted, log := s.log, waits := s.waits }) h'
  exact hu.trans h

/-- What does not look at memory is the same. -/
theorem field {α : Type} (h : s.SameButMemory t) (f : State → α)
    (hf : f { t with dram := s.dram, l2 := s.l2, filled := s.filled, posted := s.posted, log := s.log, waits := s.waits } = f t) :
    f t = f s := hf.symm.trans (congrArg f h)

theorem writeByte (s : State) (pa : Nat) (b : Byte) (g : Agent) (rs : List (Nat × Word)) (po : Nat) :
    s.SameButMemory (s.writeByte pa b g rs po) := by
  unfold State.writeByte
  split
  · rfl
  · split <;> rfl

theorem putBytes (g : Agent) (rs : List (Nat × Word)) (po : Nat) : ∀ (l : List (Nat × Byte)) (s : State),
    s.SameButMemory (s.putBytes g l rs po)
  | [], s => .refl s
  | (pa, b) :: rest, s => (writeByte s pa b g rs po).trans (putBytes g rs po rest _)

theorem storeBytes (s : State) (l : List (Nat × Byte)) (t : MemTag) (rs : List (Nat × Word)) : s.SameButMemory (s.storeBytes l t rs) :=
  .trans (t := s.note { MemEvent.of t with writes := s.replaced l }) rfl
    (.trans (putBytes t.agent rs t.po l _) rfl)

theorem writeVirt (s : State) (ctx va : Nat) (bs : List Byte) (t : MemTag) : s.SameButMemory (s.writeVirt ctx va bs t) :=
  storeBytes _ _ _ _

end State.SameButMemory

/-! ### Sorted lists -/

theorem insertBy_eq_orderedInsert {α : Type} (before : α → α → Bool) (x : α) :
    ∀ l : List α, insertBy before x l = l.orderedInsert (fun a b => before a b = true) x
  | [] => rfl
  | y :: ys => by rw [insertBy, List.orderedInsert_cons, insertBy_eq_orderedInsert before x ys]

theorem sortBy_eq_insertionSort {α : Type} (before : α → α → Bool) :
    ∀ l : List α, sortBy before l = l.insertionSort fun a b => before a b = true
  | [] => rfl
  | x :: xs => by rw [sortBy, sortBy_eq_insertionSort before xs, insertBy_eq_orderedInsert, List.insertionSort_cons]

theorem mem_sortBy {α : Type} {before : α → α → Bool} {x : α} {l : List α} : x ∈ sortBy before l ↔ x ∈ l := by
  rw [sortBy_eq_insertionSort, List.mem_insertionSort]

/-- A list sorted by a total and transitive order is in that order. -/
theorem pairwise_sortBy {α : Type} {before : α → α → Bool} (total : ∀ a b, before a b = true ∨ before b a = true)
    (trans : ∀ a b c, before a b = true → before b c = true → before a c = true) (l : List α) :
    (sortBy before l).Pairwise fun a b => before a b = true := by
  have : Std.Total fun a b : α => before a b = true := ⟨total⟩
  have : IsTrans α fun a b => before a b = true := ⟨trans⟩
  rw [sortBy_eq_insertionSort]
  exact List.pairwise_insertionSort _ l

/-! ### Waiting for a slot (R89) -/

/-- A queue begins to wait unless it waits or holds a slot. -/
theorem noteWaiting_cases (s : State) (c q : Nat) :
    (s.noteWaiting c q = s ∧
      ((∃ w ∈ s.qwaits, w.ctx = c ∧ w.queue = q) ∨ ∃ x, some x ∈ s.hwslots ∧ x.ctx = c ∧ x.queue = q)) ∨
    s.noteWaiting c q = { s with qwaits := s.qwaits ++ [{ ctx := c, queue := q, since := s.ns, levels := 0 }] } := by
  dsimp only [State.noteWaiting]
  split
  · next h =>
    refine .inl ⟨rfl, ?_⟩
    rcases Bool.or_eq_true_iff.1 h with hslot | hwait
    · obtain ⟨y, hy, hq⟩ := List.any_eq_true.1 hslot
      cases y with
      | none => exact absurd hq Bool.false_ne_true
      | some x => exact .inr ⟨x, hy, by simpa using hq⟩
    · exact .inl (by simpa using hwait)
  · exact .inr rfl

@[simp] theorem State.noteWaiting_ready (s : State) (c q : Nat) : (s.noteWaiting c q).ready = s.ready := by
  rcases noteWaiting_cases s c q with ⟨h, -⟩ | h <;> rw [h]

@[simp] theorem State.noteWaiting_hwslots (s : State) (c q : Nat) : (s.noteWaiting c q).hwslots = s.hwslots := by
  rcases noteWaiting_cases s c q with ⟨h, -⟩ | h <;> rw [h]

@[simp] theorem State.noteWaiting_readByte (s : State) (c q pa : Nat) : (s.noteWaiting c q).readByte pa = s.readByte pa := by
  rcases noteWaiting_cases s c q with ⟨h, -⟩ | h
  · rw [h]
  · rw [h]; rfl

/-- A queue that has been told to wait for a slot waits for one or holds one. -/
theorem noteWaiting_waits_or_holds (s : State) (c q : Nat) :
    (∃ w ∈ (s.noteWaiting c q).qwaits, w.ctx = c ∧ w.queue = q) ∨
      ∃ x, some x ∈ (s.noteWaiting c q).hwslots ∧ x.ctx = c ∧ x.queue = q := by
  rcases noteWaiting_cases s c q with ⟨h, hw⟩ | h <;> rw [h]
  · exact hw
  · exact .inl ⟨_, List.mem_concat_self, rfl, rfl⟩

/-- A queue that is to wait for a slot and holds none waits. -/
theorem mem_qwaits_noteWaiting {s : State} {c q : Nat} (h : ∀ x, some x ∈ s.hwslots → ¬ (x.ctx = c ∧ x.queue = q)) :
    ∃ w ∈ (s.noteWaiting c q).qwaits, w.ctx = c ∧ w.queue = q := by
  refine (noteWaiting_waits_or_holds s c q).resolve_right ?_
  rintro ⟨x, hx, hq⟩
  exact h x (by rwa [State.noteWaiting_hwslots] at hx) hq

/-- A queue waits with the effective priority of its head (R89). -/
theorem mem_waiting (s : State) (p : Nat) (w : QueueWait) : (p, w) ∈ s.waiting ↔
    w ∈ s.qwaits ∧ ∃ h, s.queueHead w.ctx w.queue = some h ∧ p = waitPrio h w s.ns := by
  simp only [State.waiting, mem_sortBy, List.mem_filterMap, Option.map_eq_some_iff, Prod.mk.injEq]
  constructor
  · rintro ⟨w', hw, h, hh, rfl, rfl⟩
    exact ⟨hw, h, hh, rfl⟩
  · rintro ⟨hw, h, hh, rfl⟩
    exact ⟨w, hw, h, hh, rfl, rfl⟩

/-- No queue that waits ranks above one before it. -/
theorem waiting_sorted (s : State) : s.waiting.Pairwise fun x y => y.1 ≤ x.1 := by
  refine (pairwise_sortBy (fun x y => ?_) (fun x y z => ?_) _).imp fun {x y} h => ?_
  all_goals simp only [Bool.or_eq_true, Bool.and_eq_true, decide_eq_true_eq, beq_iff_eq] at *; omega

/-! ### QTAIL_WRITE (R88) -/

/-- A record that a doorbell gives is ready behind what the host wrote before it (R339, R357). -/
def State.noteOrder (first : Nat) (s : State) (i : Nat) : State :=
  let s1 := s.noteHosted (first + i)
  { s1 with readyAt := s1.readyAt ++ [(first + i, s1.memTime)] }

/-- So are the `n` records that one doorbell gives, in their order. -/
def State.noteOrders (s : State) (first n : Nat) : State := (List.range n).foldl (State.noteOrder first) s

/-- A new TAIL that R88 has the device take: written, and its new records ready. -/
def State.tailTaken (s : State) (c q : Nat) (d : QDesc) (v : Word) : State :=
  let s1 := (s.setTail c q v).noteTail c q v
  State.noteOrders
    { s1 with
      ready := s1.ready ++ (List.range (v - d.tail).toNat).map (fun i => (c, q, d.tail + BitVec.ofNat 32 i, s1.nextId + i))
      nextId := s1.nextId + (v - d.tail).toNat }
    s1.nextId (v - d.tail).toNat

theorem foldl_field {α β : Type} {f : State → α → State} {g : State → β} (hf : ∀ s x, g (f s x) = g s) :
    ∀ (l : List α) (s : State), g (l.foldl f s) = g s
  | [], _ => rfl
  | x :: l, s => by rw [List.foldl_cons, foldl_field hf l, hf]

theorem State.noteHosted_ready (s : State) (o : Nat) : (s.noteHosted o).ready = s.ready := by
  dsimp only [State.noteHosted]; split <;> rfl

theorem State.noteHosted_readByte (s : State) (o pa : Nat) : (s.noteHosted o).readByte pa = s.readByte pa := by
  dsimp only [State.noteHosted]; split <;> rfl

theorem State.noteOrders_ready (s : State) (first n : Nat) : (s.noteOrders first n).ready = s.ready :=
  foldl_field (f := State.noteOrder first) (g := State.ready) (fun s i => State.noteHosted_ready s (first + i)) (List.range n) s

theorem State.noteOrders_readByte (s : State) (first n pa : Nat) : (s.noteOrders first n).readByte pa = s.readByte pa :=
  foldl_field (f := State.noteOrder first) (g := fun s => s.readByte pa) (fun s i => State.noteHosted_readByte s (first + i) pa)
    (List.range n) s

theorem tailTaken_readByte (s : State) (c q : Nat) (d : QDesc) (v : Word) (pa : Nat) :
    (s.tailTaken c q d v).readByte pa = (s.setTail c q v).readByte pa :=
  State.noteOrders_readByte _ _ _ pa

/-- The new records are ready, in their order. -/
theorem tailTaken_ready (s : State) (c q : Nat) (d : QDesc) (v : Word) :
    ((s.tailTaken c q d v).ready.map fun e => (e.1, e.2.1, e.2.2.1)) = (s.ready.map fun e => (e.1, e.2.1, e.2.2.1)) ++
      (List.range (v - d.tail).toNat).map fun i => (c, q, d.tail + BitVec.ofNat 32 i) := by
  have hset : (s.setTail c q v).ready = s.ready := (State.SameButMemory.writeVirt s c _ _ _).field State.ready rfl
  rw [State.tailTaken, State.noteOrders_ready, List.map_append, List.map_map]
  exact congrArg (· ++ _) (congrArg _ hset)

section
variable {s : State} {c q : Nat} {d : QDesc} {v : Word} (hd : s.qdesc c q = some d)
include hd

theorem takeTail_ignores (h : d.host = false ∨ (v - d.head).toNat < d.held ∨ 2 ^ d.logn < (v - d.head).toNat) : s.takeTail c q v = s := by
  have hcond : (!d.ok || !d.host || decide ((v - d.head).toNat < d.held) || decide (2 ^ d.logn < (v - d.head).toNat)) = true := by
    simp only [Bool.or_eq_true, Bool.not_eq_true', decide_eq_true_eq]
    tauto
  simp only [State.takeTail, hd, hcond, if_true]

theorem takeTail_takes (hok : d.ok = true) (hhost : d.host = true) (hback : d.held ≤ (v - d.head).toNat)
    (hring : (v - d.head).toNat ≤ 2 ^ d.logn) :
    s.takeTail c q v = if v = d.head then s.tailTaken c q d v else (s.tailTaken c q d v).noteWaiting c q := by
  simp only [State.takeTail, hd, hok, hhost, Nat.not_lt.2 hback, Nat.not_lt.2 hring, decide_false, Bool.not_true, Bool.or_false,
    Bool.false_eq_true, if_false]
  rfl

end

/-! ### QUEUE_SLOT_MAP, QUANTUM_EXPIRY and PRIORITY_AGING (R89) -/

theorem execQueueSlotMap_maps {s : State} {i p : Nat} {w : QueueWait} {rest : List (Nat × QueueWait)}
    (hfree : s.hwslots.findIdx? (·.isNone) = some i) (hw : s.waiting = (p, w) :: rest) :
    execQueueSlotMap s = .next { s with
      hwslots := setNth s.hwslots i (some { ctx := w.ctx, queue := w.queue, mapped := s.ns })
      qwaits := s.qwaits.filter fun x => !(x.ctx == w.ctx && x.queue == w.queue) } := by
  simp only [execQueueSlotMap, hfree, hw]

section
variable {s : State} {x : HwSlot} (hx : s.hwslots[s.arg 0]? = some (some x))
include hx

theorem execQuantumExpiry_eq : execQuantumExpiry s =
    if x.mapped + 50000 ≤ s.ns ∧ (s.waiting.any fun w => decide (((s.queueHead x.ctx x.queue).map (·.r.prio)).getD 0 ≤ w.1)) then
      .next ({ s with hwslots := setNth s.hwslots (s.arg 0) none }.noteWaiting x.ctx x.queue)
    else .next s := by
  have hn : nth none s.hwslots (s.arg 0) = some x := by rw [nth_eq_getD, hx]; rfl
  simp only [execQuantumExpiry, hn]

/-- A queue whose slot is taken holds no other. -/
theorem noSlot_setNth_none (hother : ∀ j y, j ≠ s.arg 0 → s.hwslots[j]? = some (some y) → ¬ (y.ctx = x.ctx ∧ y.queue = x.queue)) :
    ∀ y, some y ∈ setNth s.hwslots (s.arg 0) none → ¬ (y.ctx = x.ctx ∧ y.queue = x.queue) := by
  intro y hy
  obtain ⟨j, hj⟩ := List.mem_iff_getElem?.1 hy
  rw [setNth_getElem?] at hj
  split at hj
  · next h => rw [h, hx] at hj; simp at hj
  · next h => exact hother j y h hj

end

/-- Settles O55: the clauses follow R88 and R89 event by event; a queue waits by the effective priority of its head, and the list of
those that wait is sorted by it. -/
theorem queuesAndSlots : Obligations.QueuesAndSlots := by
  unfold Obligations.QueuesAndSlots
  refine ⟨fun s hready hown => ?_, fun s c d hready hown hd => ⟨fun h => ?_, fun hok hhost hback hring => ?_⟩,
    fun s i p w rest hfree hw => ?_, fun s x hx => ⟨fun h => ?_, fun h => ?_, fun htime hwait hother => ?_⟩, fun s => ?_, mem_waiting⟩
  · simp only [exec_qtailWrite, execQtailWrite, hready, hown, Bool.not_true, Bool.false_eq_true, if_false]
  · simp only [exec_qtailWrite, execQtailWrite, hready, hown, Bool.not_true, Bool.false_eq_true, if_false, takeTail_ignores hd h]
  · refine ⟨s.takeTail c (s.arg 0) (BitVec.ofNat 32 (s.arg 1)), ?_, fun pa => ?_, ?_, fun hv => ?_⟩
    · simp only [exec_qtailWrite, execQtailWrite, hready, hown, Bool.not_true, Bool.false_eq_true, if_false]
    all_goals rw [takeTail_takes hd hok hhost hback hring]
    · split
      · exact tailTaken_readByte ..
      · rw [State.noteWaiting_readByte]; exact tailTaken_readByte ..
    · split
      · exact tailTaken_ready ..
      · rw [State.noteWaiting_ready]; exact tailTaken_ready ..
    · rw [if_neg hv]
      exact noteWaiting_waits_or_holds ..
  · obtain ⟨hi, hnone, -⟩ := List.findIdx?_eq_some_iff_getElem.1 hfree
    refine ⟨_, (exec_queueSlotMap s).trans (execQueueSlotMap_maps hfree hw), ?_, fun j hj => ?_, fun x hx => ?_, fun y hy => ?_⟩
    · rw [setNth_getElem?, if_pos rfl, List.getElem?_eq_getElem hi]; rfl
    · rw [setNth_getElem?, if_neg hj]
    · simpa [imp_iff_not_or] using (List.mem_filter.1 hx).2
    · exact (List.pairwise_cons.1 (hw ▸ waiting_sorted s)).1 y hy
  · rw [exec_quantumExpiry, execQuantumExpiry_eq hx, if_neg fun hc => Nat.not_le.2 h hc.1]
  · rw [exec_quantumExpiry, execQuantumExpiry_eq hx, if_neg]
    rintro ⟨-, hany⟩
    obtain ⟨y, hy, hle⟩ := List.any_eq_true.1 hany
    exact Nat.not_le.2 (h y hy) (of_decide_eq_true hle)
  · obtain ⟨y, hy, hle⟩ := hwait
    refine ⟨{ s with hwslots := setNth s.hwslots (s.arg 0) none }.noteWaiting x.ctx x.queue, ?_, ?_,
      mem_qwaits_noteWaiting (noSlot_setNth_none hx hother)⟩
    · rw [exec_quantumExpiry, execQuantumExpiry_eq hx, if_pos ⟨htime, List.any_eq_true.2 ⟨y, hy, decide_eq_true hle⟩⟩]
    · rw [State.noteWaiting_hwslots, setNth_getElem?, if_pos rfl, hx]; rfl
  · refine ⟨_, exec_priorityAging s, rfl, List.length_map .., fun i w hw => ?_⟩
    rw [List.getElem?_map, hw]; rfl

end Sys2Proof.Machine
end

section
/-!
PROOF. DISPATCH and the state in which a block starts (O56).
-/
namespace Sys2Proof.Machine
open Sys2Proof

/-! ### What the dispatcher's reads leave alone (R163, R325) -/

/-- The states differ in no more than the cached translations and the free values drawn. -/
def State.SameButTlb (s t : State) : Prop := { t with tlb := s.tlb, drawn := s.drawn } = s

namespace State.SameButTlb
variable {s t u : State}

theorem refl (s : State) : s.SameButTlb s := rfl

theorem trans (h : s.SameButTlb t) (h' : t.SameButTlb u) : s.SameButTlb u := by
  have hu := congrArg (fun x : State => { x with tlb := s.tlb, drawn := s.drawn }) h'
  exact hu.trans h

/-- What looks at no translation is the same. -/
theorem field {α : Type} (h : s.SameButTlb t) (f : State → α) (hf : f { t with tlb := s.tlb, drawn := s.drawn } = f t) : f t = f s :=
  hf.symm.trans (congrArg f h)

theorem draws (h : s.SameButTlb t) (n : Nat) : s.SameButTlb { t with drawn := n } := h

theorem tlbRoom (s : State) (home cap : Nat) : s.SameButTlb (s.tlbRoom home cap) := by
  unfold State.tlbRoom
  split
  · rfl
  · split <;> rfl

theorem tlbFill (s : State) (home cap ctx : Nat) (l : Leaf) (write : Bool) : s.SameButTlb (s.tlbFill home cap ctx l write) :=
  (tlbRoom s home cap).trans rfl

theorem translateDie (s : State) (die ctx va : Nat) : s.SameButTlb (s.translateDie die ctx va).2 := by
  unfold State.translateDie
  split
  · rfl
  · split
    · rfl
    · split
      · rfl
      · exact .trans (t := s.walked) rfl (tlbFill _ _ _ _ _ _)

theorem foldl {α : Type} {f : State → α → State} (hf : ∀ (s : State) (x : α), s.SameButTlb (f s x)) :
    ∀ (l : List α) (s : State), s.SameButTlb (l.foldl f s)
  | [], s => refl s
  | x :: l, s => (hf s x).trans (foldl hf l (f s x))

theorem lookObj (s : State) (die ctx kobj : Nat) : s.SameButTlb (s.lookObj die ctx kobj) := by
  have hlook (vas : List Nat) (s : State) : s.SameButTlb (vas.foldl (fun (s : State) va => (s.translateDie die ctx va).2) s) :=
    foldl (fun s va => translateDie s die ctx va) vas s
  unfold State.lookObj
  refine draws ?_ _
  split
  · exact hlook _ s
  · dsimp only
    split
    · exact hlook _ s
    · exact (hlook _ s).trans (hlook _ _)

theorem lookHead (s : State) (die : Nat) (h : Head) : s.SameButTlb (s.lookHead die h) := by
  unfold State.lookHead
  split
  · rfl
  · exact lookObj s die h.r.ctx h.r.kobj

end State.SameButTlb

theorem lookHead_readByte (s : State) (die : Nat) (h : Head) (pa : Nat) : (s.lookHead die h).readByte pa = s.readByte pa :=
  (State.SameButTlb.lookHead s die h).field (·.readByte pa) rfl

theorem lookHead_blocks (s : State) (die : Nat) (h : Head) : (s.lookHead die h).blocks = s.blocks :=
  (State.SameButTlb.lookHead s die h).field State.blocks rfl

theorem lookHead_records (s : State) (die : Nat) (h : Head) : (s.lookHead die h).records = s.records :=
  (State.SameButTlb.lookHead s die h).field State.records rfl

/-- A head that is not to be checked is not looked at. -/
theorem lookHead_of_settled {s : State} {die : Nat} {h : Head} (hs : h.ok = false ∨ h.r.count = 0 ∨ h.r.held ≠ none) :
    s.lookHead die h = s := by
  have hcond : (!h.ok || h.r.count == 0 || h.r.held.isSome || h.r.obj.isSome) = true := by
    simp only [Bool.or_eq_true, Bool.not_eq_true', beq_iff_eq, Option.isSome_iff_ne_none]
    tauto
  rw [State.lookHead, if_pos hcond]

/-! ### Heads of queues (R89, R91) -/

/-- The head of a queue is a popped record unless it is in the ring alone. -/
theorem mem_records_of_queueHead {s : State} {c q : Nat} {h : Head} (hh : s.queueHead c q = some h) (hfresh : h.fresh = false) :
    h.r ∈ s.records := by
  unfold State.queueHead at hh
  split at hh
  · cases hh
  · dsimp only at hh
    split at hh
    · cases hh
    · split at hh
      · next hfind =>
        cases hh
        exact List.mem_of_find?_eq_some hfind
      · split at hh
        · cases hh
        · cases hh
          cases hfresh

theorem mem_records_of_mem_heads {s : State} {h : Head} (hh : h ∈ s.heads) (hfresh : h.fresh = false) : h.r ∈ s.records := by
  obtain ⟨hsorted, -⟩ := List.mem_filter.1 hh
  obtain ⟨y, -, hy⟩ := List.mem_filterMap.1 (mem_sortBy.1 hsorted)
  obtain ⟨x, -, hx⟩ := Option.bind_eq_some_iff.1 hy
  exact mem_records_of_queueHead hx hfresh

/-! ### The record of a head (R91) -/

theorem claim_blocks (s : State) (h : Head) : (s.claim h).2.blocks = s.blocks := by
  unfold State.claim; split <;> rfl

/-- A claimed record is that of its head, but for its number. -/
theorem claim_fst (s : State) (h : Head) : (s.claim h).1 = { h.r with id := (s.claim h).1.id } := by
  unfold State.claim; split <;> rfl

theorem claim_of_old {s : State} {h : Head} (hold : h.fresh = false) : s.claim h = (h.r, s) := by
  rw [State.claim, hold]; rfl

theorem claim_fst_mem {s : State} {h : Head} (hold : h.fresh = false → h.r ∈ s.records) : (s.claim h).1 ∈ (s.claim h).2.records := by
  cases hfresh : h.fresh with
  | false => rw [claim_of_old hfresh]; exact hold hfresh
  | true =>
    rw [State.claim, hfresh]
    exact List.mem_concat_self

/-! ### A wait on a page (R319, R380) -/

theorem writeHeld_records (s : State) (ctx : Nat) : (s.writeHeld ctx).records = s.records := by
  have hwrite (va : Nat) (bs : List Byte) : (s.writeVirt ctx va bs).records = s.records :=
    (State.SameButMemory.writeVirt s ctx va bs _).field State.records rfl
  unfold State.writeHeld
  dsimp only
  split
  · split
    · split <;> exact hwrite _ _
    · rfl
  · rfl

/-- Writing a fault record changes of a wait no more than its sequence number. -/
theorem mem_faultWaits_writeHeld {s : State} {f : FaultWait} (hf : f ∈ s.faultWaits) (ctx : Nat) :
    ∃ q, { f with seq := q } ∈ (s.writeHeld ctx).faultWaits := by
  have hwrite (va : Nat) (bs : List Byte) : (s.writeVirt ctx va bs).faultWaits = s.faultWaits :=
    (State.SameButMemory.writeVirt s ctx va bs _).field State.faultWaits rfl
  have hsame : { f with seq := f.seq } ∈ s.faultWaits := hf
  unfold State.writeHeld
  dsimp only
  split
  · split
    · split
      · next i _ =>
        dsimp only [State.setCtx]
        rw [hwrite]
        by_cases hi : f.id = i
        · exact ⟨_, List.mem_map.2 ⟨f, hf, if_pos hi⟩⟩
        · exact ⟨f.seq, List.mem_map.2 ⟨f, hf, if_neg hi⟩⟩
      · exact ⟨f.seq, (hwrite _ _).symm ▸ hsame⟩
    · exact ⟨f.seq, hsame⟩
  · exact ⟨f.seq, hsame⟩

theorem postRecord_records (s : State) (ctx : Nat) (r : FaultRec) : (s.postRecord ctx r).records = s.records := by
  unfold State.postRecord
  split
  · rfl
  · exact writeHeld_records _ _

theorem mem_faultWaits_postRecord {s : State} {f : FaultWait} (hf : f ∈ s.faultWaits) (ctx : Nat) (r : FaultRec) :
    ∃ q, { f with seq := q } ∈ (s.postRecord ctx r).faultWaits := by
  unfold State.postRecord
  split
  · exact ⟨f.seq, hf⟩
  · exact mem_faultWaits_writeHeld (s := s.setCtx ctx _) hf ctx

section
variable (s : State) (ctx va : Nat) (write fetch : Bool) (waiter : FaultWaiter) (core code : Nat) (pc : DWord)

theorem pageWait_blocks : (s.pageWait ctx va write fetch waiter core code pc).2.blocks = s.blocks := postRecord_blocks ..

theorem pageWait_records : (s.pageWait ctx va write fetch waiter core code pc).2.records = s.records := postRecord_records ..

/-- The wait that a page wait begins. -/
theorem pageWait_waits : ∃ w ∈ (s.pageWait ctx va write fetch waiter core code pc).2.faultWaits,
    w.id = (s.pageWait ctx va write fetch waiter core code pc).1 ∧ w.ctx = ctx ∧ w.va = va ∧ w.waiter = waiter := by
  obtain ⟨q, hq⟩ := mem_faultWaits_postRecord (s := { s.fresh.2 with faultWaits := s.faultWaits ++
    [({ id := s.nextId, ctx := ctx, va := va, write := write, fetch := fetch, waiter := waiter, seq := none, passed := false
        pc := pc, core := core, code := code } : FaultWait)] }) List.mem_concat_self ctx
    { addr := BitVec.ofNat 64 va, pc := pc, core := core, kind := 0, detail := 1#8, code := BitVec.ofNat 8 code, wait := some s.nextId }
  exact ⟨_, hq, rfl, rfl, rfl, rfl⟩

end

theorem mem_records_setRecord {s : State} {r r' : Record} (h : r ∈ s.records) (hid : r.id = r'.id) : r' ∈ (s.setRecord r').records :=
  List.mem_map.2 ⟨r, h, if_pos hid⟩

/-- The wait of a record at the head of its queue for a page of its kernel object (R325). -/
def State.objectWait (s : State) (r : Record) (va : Nat) : Nat × State :=
  s.draw.2.pageWait r.ctx va false false (.dispatch r.id) (bits s.draw.1 7 0) Code.dfault (BitVec.ofNat 64 r.kobj)

theorem holdHead_eq (s : State) (h : Head) (va : Nat) : s.holdHead h va =
    ((s.claim h).2.objectWait (s.claim h).1 va).2.setRecord
      { (s.claim h).1 with held := some ((s.claim h).2.objectWait (s.claim h).1 va).1 } := rfl

theorem holdHead_blocks (s : State) (h : Head) (va : Nat) : (s.holdHead h va).blocks = s.blocks := by
  rw [holdHead_eq, State.setRecord_blocks]
  exact (pageWait_blocks ..).trans (claim_blocks s h)

theorem setRecord_records_congr {s t : State} (h : t.records = s.records) (r : Record) :
    (t.setRecord r).records = (s.setRecord r).records := congrArg (List.map _) h

/-- A record that is held stays at the head of its queue, behind a wait on the page it lacks (R325). -/
theorem holdHead_holds {s : State} {h : Head} (hold : h.fresh = false → h.r ∈ s.records) (va : Nat) :
    ∃ (r : Record) (w : FaultWait), r ∈ (s.holdHead h va).records ∧
      (r.ctx, r.queue, r.kobj, r.next) = (h.r.ctx, h.r.queue, h.r.kobj, h.r.next) ∧ r.held = some w.id ∧
      w ∈ (s.holdHead h va).faultWaits ∧ w.ctx = h.r.ctx ∧ w.va = va ∧ w.waiter = .dispatch r.id := by
  obtain ⟨w, hw, hid, hctx, hva, hwaiter⟩ := pageWait_waits (s.claim h).2.draw.2 (s.claim h).1.ctx va false false
    (.dispatch (s.claim h).1.id) (bits (s.claim h).2.draw.1 7 0) Code.dfault (BitVec.ofNat 64 (s.claim h).1.kobj)
  have hmem : (s.claim h).1 ∈ ((s.claim h).2.objectWait (s.claim h).1 va).2.records :=
    (pageWait_records ..).symm ▸ claim_fst_mem hold
  have hr := claim_fst s h
  rw [holdHead_eq]
  refine ⟨_, w, mem_records_setRecord hmem rfl, ?_, congrArg some hid.symm, hw, ?_, hva, hwaiter⟩
  · rw [hr]
  · rw [hctx, hr]

/-! ### HEAD advances (R87, R89) -/

section
variable {s : State} {c q : Nat} {d : QDesc} (hd : s.qdesc c q = some d)
include hd

theorem advanceHead_readByte (pa : Nat) : (s.advanceHead c q).readByte pa = (s.setHead c q (d.head + 1#32)).readByte pa := by
  simp only [State.advanceHead, hd]
  split <;> rfl

theorem advanceHead_ready :
    (s.advanceHead c q).ready = s.ready.filter fun e => !(e.1 == c && e.2.1 == q && e.2.2.1 == d.head) := by
  have hset : (s.setHead c q (d.head + 1#32)).ready = s.ready := (State.SameButMemory.writeVirt s c _ _ _).field State.ready rfl
  simp only [State.advanceHead, hd]
  split <;> rw [← hset]

/-- A queue that empties yields its slot. -/
theorem noSlot_advanceHead (hlast : (s.tailOf c q d - d.head).toNat = 1) :
    ∀ x, some x ∈ (s.advanceHead c q).hwslots → ¬ (x.ctx = c ∧ x.queue = q) := by
  intro x hx
  simp only [State.advanceHead, hd, hlast, if_true] at hx
  obtain ⟨y, -, hy⟩ := List.mem_map.1 hx
  cases y with
  | none => cases hy
  | some z =>
    dsimp only at hy
    split at hy
    · cases hy
    · next hz => cases hy; exact hz

theorem advanceHead_hwslots (hlast : (s.tailOf c q d - d.head).toNat ≠ 1) : (s.advanceHead c q).hwslots = s.hwslots := by
  have hset : (s.setHead c q (d.head + 1#32)).hwslots = s.hwslots := (State.SameButMemory.writeVirt s c _ _ _).field State.hwslots rfl
  simp only [State.advanceHead, hd, hlast, if_false]
  exact hset

end

theorem advanceHead_ctxs (s : State) (c q : Nat) : (s.advanceHead c q).ctxs = s.ctxs := by
  have hset (v : Word) : (s.setHead c q v).ctxs = s.ctxs := (State.SameButMemory.writeVirt s c _ _ _).field State.ctxs rfl
  unfold State.advanceHead
  split
  · rfl
  · dsimp only
    split <;> exact hset _

theorem queueError_ctxQerr {s : State} {c : Nat} (hc : c < s.ctxs.length) (q : Nat) :
    ((s.queueError c q).ctx c).ctxQerr = BitVec.ofNat 32 (2 ^ 31 + q % 4096) := by
  rw [State.queueError, State.ctx_setCtx_self _ _ hc]

/-- CTX_QERR names the queue of a record that is discarded (R86). -/
theorem discardHead_ctxQerr {s : State} {h : Head} (hc : h.r.ctx < s.ctxs.length) :
    ((s.discardHead h).ctx h.r.ctx).ctxQerr = BitVec.ofNat 32 (2 ^ 31 + h.r.queue % 4096) := by
  have hlen : h.r.ctx < (s.advanceHead h.r.ctx h.r.queue).ctxs.length := by rwa [advanceHead_ctxs]
  have hq := queueError_ctxQerr hlen h.r.queue
  unfold State.discardHead
  dsimp only
  split
  · exact hq
  · exact hq

/-! ### DISPATCH (R91) -/

section
variable {s : State} {h : Head} (hheads : s.heads = [h]) (hcore : ∃ c ∈ coresOf (s.arg 0), (s.ctx h.r.ctx).hasCore c = true)
include hheads hcore

theorem dispatchable_eq : (s.heads.filter fun h => (coresOf (s.arg 0)).any (s.ctx h.r.ctx).hasCore) = [h] := by
  rw [hheads, List.filter_singleton, List.any_eq_true.2 hcore]; rfl

theorem execDispatch_takes {t : State} (ht : s.takeHead (s.arg 0) h = some t) : exec .dispatch s = .next t := by
  simp [execDispatch, dispatchable_eq hheads hcore, State.dispatchFrom, ht]

theorem execDispatch_stays (ht : s.takeHead (s.arg 0) h = none) : exec .dispatch s = .next (s.lookHead (s.arg 0 / 8) h) := by
  simp [execDispatch, dispatchable_eq hheads hcore, State.dispatchFrom, ht]

end

section
variable {s : State} {cl : Nat} {h : Head}

theorem takeHead_discards (hok : h.ok = false) : s.takeHead cl h = some (s.discardHead h) := by
  rw [State.takeHead, lookHead_of_settled (.inl hok), hok]; rfl

theorem takeHead_pops (hok : h.ok = true) (hcount : h.r.count = 0) :
    s.takeHead cl h = some ((s.claim h).2.advanceHead h.r.ctx h.r.queue) := by
  simp only [State.takeHead, lookHead_of_settled (.inr (.inl hcount)), hok, hcount, Bool.not_true, Bool.false_eq_true, if_false, if_true]

variable (hok : h.ok = true) (hcount : h.r.count ≠ 0)
include hok hcount

theorem takeHead_held (hheld : h.r.held ≠ none) : s.takeHead cl h = none := by
  simp only [State.takeHead, hok, hcount, Option.isSome_iff_ne_none.2 hheld, Bool.not_true, Bool.false_eq_true, if_false, if_true]

variable (hheld : h.r.held = none)
include hheld

theorem takeHead_valid {k : KObj} (hk : h.r.obj = some k ∨ (h.r.obj = none ∧ s.readObj (cl / 8) h.r.ctx h.r.kobj = .valid k)) :
    s.takeHead cl h = (s.lookHead (cl / 8) h).placeNext cl h k := by
  rcases hk with hobj | ⟨hobj, hread⟩
  · simp only [State.takeHead, hok, hcount, hheld, hobj, Option.isSome_none, Bool.not_true, Bool.false_eq_true, if_false]
  · simp only [State.takeHead, hok, hcount, hheld, hobj, hread, Option.isSome_none, Bool.not_true, Bool.false_eq_true, if_false]

variable (hobj : h.r.obj = none)
include hobj

theorem takeHead_invalid (hread : s.readObj (cl / 8) h.r.ctx h.r.kobj = .invalid) :
    s.takeHead cl h = some ((s.lookHead (cl / 8) h).discardHead h) := by
  simp only [State.takeHead, hok, hcount, hheld, hobj, hread, Option.isSome_none, Bool.not_true, Bool.false_eq_true, if_false]

theorem takeHead_absent {va : Nat} (hread : s.readObj (cl / 8) h.r.ctx h.r.kobj = .absent va) : s.takeHead cl h =
    if ((s.lookHead (cl / 8) h).ctx h.r.ctx).ringLog.isNone then some ((s.lookHead (cl / 8) h).discardHead h)
    else some ((s.lookHead (cl / 8) h).holdHead h va) := by
  simp only [State.takeHead, hok, hcount, hheld, hobj, hread, Option.isSome_none, Bool.not_true, Bool.false_eq_true, if_false]

end

theorem placeNext_places {s : State} {cl vi core : Nat} {h : Head} {k : KObj} {v : Variant} {place : Nat × Nat} {areas : List Nat}
    (hresume : s.resumeWaits h.r.ctx h.r.prio = false) (hshares : s.shares h.r.ctx k = some areas)
    (hchoose : s.chooseCore cl h.r.ctx k = some (vi, v, core, place)) :
    let t := (s.claim h).2.placeBlock { (s.claim h).1 with obj := some k } k vi v core place areas
    s.placeNext cl h k = some (if h.r.next + 1 = h.r.first + h.r.count then t.advanceHead h.r.ctx h.r.queue else t) := by
  have hr := claim_fst s h
  have hctx : (s.claim h).1.ctx = h.r.ctx := by rw [hr]
  have hqueue : (s.claim h).1.queue = h.r.queue := by rw [hr]
  have hnext : (s.claim h).1.next = h.r.next := by rw [hr]
  have hfirst : (s.claim h).1.first = h.r.first := by rw [hr]
  have hcount : (s.claim h).1.count = h.r.count := by rw [hr]
  simp only [State.placeNext, hresume, hshares, hchoose, hctx, hqueue, hnext, hfirst, hcount, Bool.false_eq_true, if_false]

/-! ### The block that starts (R85) -/

theorem nth_replicate_self {α : Type} (d : α) (k n : Nat) : nth d (List.replicate k d) n = d := by
  rw [nth_eq_getD, List.getElem?_replicate]
  split <;> rfl

/-- A warp at its start: R85. -/
structure Warp.Starts (w : Warp) (regb frame : Nat) (entry : DWord) : Prop where
  path0 : w.path0 = some (Path.at entry (BitVec.allOnes 32) none)
  path1 : w.path1 = none
  exited : w.exited = 0#32
  stack : w.stack = []
  ended : w.ended = false
  vregs : w.vregs.length = 8 * regb
  lanes : ∀ n l, l < 32 → (w.vreg n).lane l = KVal.plain 0#32
  sregs : ∀ n, w.sreg n = if n = 0 then BitVec.ofNat 32 frame else if n = 1 then BitVec.ofNat 32 (frame / 2 ^ 32) else 0#32
  preds : ∀ n l, n < 7 → l < 32 → w.pred n l = { val := false, px := none }
  flags : ∀ x ∈ w.flags, x = 0
  shapes : ∀ x ∈ w.shapes, x.v = false
  holds : w.holds = []
  frame : w.frame = none

theorem starts_start (regb frame : Nat) (entry : DWord) (hwslot privb : Nat) :
    (Warp.start regb frame entry hwslot privb).Starts regb frame entry where
  path0 := rfl
  path1 := rfl
  exited := rfl
  stack := rfl
  ended := rfl
  vregs := List.length_replicate
  lanes n l _ := by
    have hreg : (Warp.start regb frame entry hwslot privb).vreg n = VReg.zero := nth_replicate_self VReg.zero (8 * regb) n
    rw [hreg]
    exact nth_replicate_self _ 32 l
  sregs n := by
    match n with
    | 0 => rfl
    | 1 => rfl
    | m + 2 => exact nth_replicate_self 0#32 94 m
  preds n l hn _ := by
    rw [Warp.pred, if_neg (by omega)]
    have hreg : nth predZero (Warp.start regb frame entry hwslot privb).preds n = predZero := nth_replicate_self predZero 7 n
    rw [hreg]
    exact nth_replicate_self _ 32 l
  flags x hx := (List.mem_replicate.1 hx).2
  shapes x hx := (List.mem_replicate.1 hx).2 ▸ rfl
  holds := rfl
  frame := rfl

theorem length_startWarps (s : State) (b : Block) (v : Variant) (kobj frame core : Nat) :
    (s.startWarps b v kobj frame core).length = v.nwarp := by
  rw [State.startWarps, List.length_map, List.length_range]

theorem starts_of_startWarps {s : State} {b : Block} {v : Variant} {kobj frame core i : Nat} {w : Warp}
    (h : (s.startWarps b v kobj frame core)[i]? = some w) : w.Starts v.regb frame (BitVec.ofNat 64 (kobj + v.entry)) := by
  obtain ⟨j, -, rfl⟩ := List.mem_map.1 (List.mem_of_getElem? h)
  exact starts_start ..

/-- The block of a record's next index, without its warps. -/
def State.bareBlock (s : State) (r : Record) (k : KObj) (vi core : Nat) (place : Nat × Nat) (areas : List Nat) : Block :=
  { id := s.nextId, ctx := r.ctx, record := r.id, index := r.next, prio := r.prio, loc := .core core, placed := s.placedNow
    variant := vi, sizeclass := 0#32, idemp := k.idemp, warps := [], spad := [], acc := [], spadBase := place.1, accBase := place.2
    qwait := [], qspoiled := [], reshape := none, switches := [], stopping := false, ending := none, lastCore := core
    privAt := areas, privUnits := k.areaUnits, saveUnits := k.saveUnits }

/-- The state as a block is placed, before it starts. -/
def State.numbered (s : State) : State := { s.fresh.2 with drawn := s.drawn + 1 }

/-- The block that starts. -/
def State.startedBlock (s : State) (r : Record) (k : KObj) (vi : Nat) (v : Variant) (core : Nat) (place : Nat × Nat)
    (areas : List Nat) : Block :=
  { s.bareBlock r k vi core place areas with
    warps := s.numbered.startWarps (s.bareBlock r k vi core place areas) v r.kobj r.frame core }

theorem noteStart_blocks (s : State) (b : Block) (r : Record) (core : Nat) : (s.noteStart b r core).blocks = s.blocks := by
  unfold State.noteStart
  split
  · rfl
  · refine foldl_field (g := State.blocks) ?_ _ s
    exact fun _ _ => rfl

theorem noteStart_records (s : State) (b : Block) (r : Record) (core : Nat) : (s.noteStart b r core).records = s.records := by
  unfold State.noteStart
  split
  · rfl
  · refine foldl_field (g := State.records) ?_ _ s
    exact fun _ _ => rfl

theorem takeUp_records (s : State) (core ctx : Nat) : (s.takeUp core ctx).records = s.records := by
  unfold State.takeUp
  dsimp only
  split <;> rfl

/-- What is left of a block whose request may be withdrawn: the block, or the block without its request. -/
def Block.LeftOf (b b0 : Block) : Prop := b = b0 ∨ b = b0.dropReshape

theorem Block.LeftOf.id {b b0 : Block} (h : b.LeftOf b0) : b.id = b0.id := by rcases h with rfl | rfl <;> rfl
theorem Block.LeftOf.ctx {b b0 : Block} (h : b.LeftOf b0) : b.ctx = b0.ctx := by rcases h with rfl | rfl <;> rfl
theorem Block.LeftOf.prio {b b0 : Block} (h : b.LeftOf b0) : b.prio = b0.prio := by rcases h with rfl | rfl <;> rfl
theorem Block.LeftOf.stopping {b b0 : Block} (h : b.LeftOf b0) : b.stopping = b0.stopping := by rcases h with rfl | rfl <;> rfl

theorem Block.LeftOf.reshape {b b0 : Block} {q : Reshape} (h : b.LeftOf b0) (hq : b.reshape = some q) : b0.reshape = some q := by
  rcases h with rfl | rfl
  · exact hq
  · cases hq

theorem mem_dropShrinks {s : State} {n : Nat} {b : Block} (h : b ∈ (s.dropShrinks n).blocks) : ∃ b0 ∈ s.blocks, b.LeftOf b0 := by
  obtain ⟨b0, hb0, rfl⟩ := List.mem_map.1 h
  refine ⟨b0, hb0, ?_⟩
  split
  · split
    · exact .inr rfl
    · exact .inl rfl
  · exact .inl rfl

section
variable {s : State} {r : Record} {k : KObj} {vi : Nat} {v : Variant} {core : Nat} {place : Nat × Nat} {areas : List Nat}

theorem startBlock_blocks : (s.startBlock r k vi v core place areas).blocks =
    ((s.numbered.takeUp core r.ctx).dropShrinks r.id).blocks ++ [s.startedBlock r k vi v core place areas] :=
  noteStart_blocks ..

theorem startBlock_records : (s.startBlock r k vi v core place areas).records =
    (s.setRecord { r with next := r.next + 1, room := none }).records :=
  (noteStart_records ..).trans (setRecord_records_congr (takeUp_records s.numbered core r.ctx) _)

/-- A block that starts has the next number. -/
theorem block?_startBlock (hnew : ∀ b ∈ s.blocks, b.id ≠ s.nextId) :
    (s.startBlock r k vi v core place areas).block? s.nextId = some (s.startedBlock r k vi v core place areas) := by
  have hold : ((s.numbered.takeUp core r.ctx).dropShrinks r.id).blocks.find? (fun x => x.id == s.nextId) = none := by
    refine List.find?_eq_none.2 fun b hb => ?_
    obtain ⟨b0, hb0, hleft⟩ := mem_dropShrinks hb
    rw [takeUp_blocks] at hb0
    simpa [hleft.id] using hnew b0 hb0
  have hid : ((s.startedBlock r k vi v core place areas).id == s.nextId) = true := beq_self_eq_true s.nextId
  rw [State.block?, startBlock_blocks, List.find?_append, hold, Option.none_or, List.find?_singleton, if_pos hid]

theorem placeBlock_eq : s.placeBlock r k vi v core place areas =
    if s.objectChanged r k then (s.startBlock r k vi v core place areas).spoilBlock s.nextId
    else s.startBlock r k vi v core place areas := rfl

end

/-- Settles O56: DISPATCH follows R91 by what its one head is, and a block that starts is the one R85 gives. -/
theorem dispatchAndPlacement : Obligations.DispatchAndPlacement := by
  unfold Obligations.DispatchAndPlacement
  refine ⟨fun s hheads => ?_, fun s h hheads hcore => ⟨fun hok => ?_, fun hok hcount => ?_, fun hok hcount hheld => ?_,
    fun hok hcount hheld hobj => ⟨fun hread => ?_, fun va hread => ⟨fun hring => ?_, fun hring => ?_⟩⟩,
    fun k areas vi v core place hok hcount hheld hk hresume hshares hchoose => ?_⟩,
    fun s die h => ⟨lookHead_blocks s die h, lookHead_records s die h, lookHead_readByte s die h⟩,
    fun s c q d hd => ⟨advanceHead_ready hd, advanceHead_readByte hd, noSlot_advanceHead hd, advanceHead_hwslots hd⟩,
    fun s h => discardHead_ctxQerr,
    fun s r k vi v core place areas hnew hr hnodup => ⟨fun hsame => ?_, fun hchanged => ?_, ?_⟩⟩
  · simp only [exec_dispatch, execDispatch, hheads, List.filter_nil, State.dispatchFrom]
  · exact execDispatch_takes hheads hcore (takeHead_discards hok)
  · exact execDispatch_takes hheads hcore (takeHead_pops hok hcount)
  · rw [execDispatch_stays hheads hcore (takeHead_held hok hcount hheld), lookHead_of_settled (.inr (.inr hheld))]
  · exact execDispatch_takes hheads hcore (takeHead_invalid hok hcount hheld hobj hread)
  · refine execDispatch_takes hheads hcore ?_
    rw [takeHead_absent hok hcount hheld hobj hread, if_pos (Option.isNone_iff_eq_none.2 hring)]
  · have hold : h.fresh = false → h.r ∈ (s.lookHead (s.arg 0 / 8) h).records := fun hfresh => by
      rw [lookHead_records]
      exact mem_records_of_mem_heads (hheads ▸ List.mem_singleton_self h) hfresh
    have htake := takeHead_absent hok hcount hheld hobj hread
    rw [if_neg fun hnone => hring (Option.isNone_iff_eq_none.1 hnone)] at htake
    obtain ⟨r, w, hr, hsame, hwait, hw, hctx, hva, hwaiter⟩ := holdHead_holds hold va
    exact ⟨_, r, w, execDispatch_takes hheads hcore htake, hr, hsame, hwait, hw, hctx, hva, hwaiter,
      (holdHead_blocks ..).trans (lookHead_blocks ..)⟩
  · have htake := (takeHead_valid (cl := s.arg 0) hok hcount hheld hk).trans (placeNext_places hresume hshares hchoose)
    refine ⟨fun hlast => execDispatch_takes hheads hcore ?_, fun hlast => execDispatch_takes hheads hcore ?_⟩
    · rw [htake, if_neg hlast]
    · rw [htake, if_pos hlast]
  · rw [placeBlock_eq, hsame]; rfl
  · rw [placeBlock_eq, hchanged]; rfl
  · refine ⟨_, block?_startBlock hnew, rfl, rfl, rfl, rfl, rfl, rfl, rfl, rfl, rfl, length_startWarps .., ?_, fun i w hw => ?_⟩
    · refine ⟨{ r with next := r.next + 1, room := none }, ?_, rfl, rfl⟩
      rw [startBlock_records]
      exact mem_records_setRecord hr rfl
    · obtain ⟨h0, h1, hexited, hstack, hended, hvregs, hlanes, hsregs, hpreds, hflags, hshapes, hholds, hframe⟩ := starts_of_startWarps hw
      exact ⟨h0, h1, hexited, hstack, hended, hvregs, hlanes, hsregs, hpreds, hflags, hshapes, hholds, hframe⟩

end Sys2Proof.Machine
end

section
/-!
PROOF. Making room, yielding cores and the end of a record (O57).
-/
namespace Sys2Proof.Machine
open Sys2Proof

/-! ### Requests that are withdrawn (R92, R105) -/

theorem mem_dropGrows {s : State} {n : Nat} {b : Block} (h : b ∈ (s.dropGrows n).blocks) : ∃ b0 ∈ s.blocks, b.LeftOf b0 := by
  obtain ⟨b0, hb0, rfl⟩ := List.mem_map.1 h
  refine ⟨b0, hb0, ?_⟩
  split
  · split
    · exact .inr rfl
    · exact .inl rfl
  · exact .inl rfl

/-- A block has been asked to shrink for a record, and its switch has not passed its checks. -/
def Block.AskedFor (b : Block) (n : Nat) : Prop := ∃ q, b.reshape = some q ∧ q.record = some n ∧ b.switching = false

section
variable {s : State} {n i : Nat} {b : Block} (hb : s.blocks[i]? = some b)
include hb

theorem dropShrinks_asked (h : b.AskedFor n) : (s.dropShrinks n).blocks[i]? = some b.dropReshape := by
  obtain ⟨q, hq, hrecord, hswitching⟩ := h
  simp only [State.dropShrinks, List.getElem?_map, hb, Option.map_some, hq, hrecord, hswitching, Bool.false_eq_true, not_false_eq_true,
    and_self, if_true]

theorem dropShrinks_unasked (h : ¬ b.AskedFor n) : (s.dropShrinks n).blocks[i]? = some b := by
  simp only [State.dropShrinks, List.getElem?_map, hb, Option.map_some]
  cases hq : b.reshape with
  | none => rfl
  | some q =>
    refine congrArg some (if_neg fun hc => h ⟨q, hq, hc.1, ?_⟩)
    simpa using hc.2

end

/-! ### Blocks that may be displaced (R92) -/

theorem mem_below {s : State} {ctx prio : Nat} {b : Block} :
    b ∈ s.below ctx prio ↔ b ∈ s.blocks ∧ b.ctx = ctx ∧ b.prio < prio ∧ s.runs b = true := by
  simp only [State.below, mem_sortBy, List.mem_filter, Bool.and_eq_true, beq_iff_eq, decide_eq_true_eq, and_assoc]

/-- One block is displaced no later than another: its priority is lower, or the same and it is the younger. -/
def Block.goesBefore (x y : Block) : Prop := x.prio < y.prio ∨ (x.prio = y.prio ∧ x.younger y = true)

theorem Block.younger_iff (x y : Block) : x.younger y = true ↔
    y.placed.1 < x.placed.1 ∨ (x.placed.1 = y.placed.1 ∧ (y.placed.2 < x.placed.2 ∨ (x.placed.2 = y.placed.2 ∧ y.id ≤ x.id))) := by
  simp only [Block.younger, Bool.or_eq_true, Bool.and_eq_true, beq_iff_eq, decide_eq_true_eq]

theorem Block.goesBefore_refl (b : Block) : b.goesBefore b := .inr ⟨rfl, (Block.younger_iff b b).2 (by omega)⟩

theorem below_sorted (s : State) (ctx prio : Nat) : (s.below ctx prio).Pairwise Block.goesBefore := by
  refine (pairwise_sortBy (fun x y => ?_) (fun x y z => ?_) _).imp fun {x y} h => ?_
  all_goals simp only [Bool.or_eq_true, Bool.and_eq_true, beq_iff_eq, decide_eq_true_eq, Block.younger_iff, Block.goesBefore] at *; omega

/-- The first element of a sorted list that meets a test is before every other that meets it. -/
theorem before_of_find?_of_pairwise {α : Type} {R : α → α → Prop} {p : α → Bool} (hrefl : ∀ a, R a a) {l : List α} {b x : α}
    (hl : l.Pairwise R) (hb : l.find? p = some b) (hx : x ∈ l) (hp : p x = true) : R b x := by
  obtain ⟨-, as, bs, rfl, has⟩ := List.find?_eq_some_iff_append.1 hb
  rcases List.mem_append.1 hx with h | h
  ·     exact absurd hp (by simpa using has x h)
  · rcases List.mem_cons.1 h with rfl | h
    · exact hrefl x
    · exact List.rel_of_pairwise_cons (List.pairwise_append.1 hl).2.1 h

/-! ### PRIORITY_PREEMPT (R92) -/

theorem block?_dropShrinks_of_mem {s : State} {b : Block} (hb : b ∈ s.blocks) (n : Nat) : ∃ c, (s.dropShrinks n).block? b.id = some c := by
  obtain ⟨i, hi⟩ := List.mem_iff_getElem?.1 hb
  refine Option.isSome_iff_exists.1 (List.find?_isSome.2 ?_)
  by_cases h : b.AskedFor n
  · exact ⟨_, List.mem_of_getElem? (dropShrinks_asked hi h), beq_self_eq_true b.id⟩
  · exact ⟨_, List.mem_of_getElem? (dropShrinks_unasked hi h), beq_self_eq_true b.id⟩

/-- A block leaves room on its core for a variant of a kernel when it goes. -/
def State.leavesRoom (s : State) (k : KObj) (b : Block) : Bool :=
  b.core?.any fun core => k.variants.any fun v => (s.fitsBeside (fun x => x.id != b.id) [] core b.ctx v.need).isSome

theorem leavesRoom_iff {s : State} {k : KObj} {b : Block} : s.leavesRoom k b = true ↔
    ∃ core, b.core? = some core ∧ ∃ v ∈ k.variants, (s.fitsBeside (fun x => x.id != b.id) [] core b.ctx v.need).isSome = true := by
  simp only [State.leavesRoom, Option.any_eq_true, List.any_eq_true]

/-- Once the time has come, PRIORITY_PREEMPT goes on where no block of the context is stopping. -/
theorem preempts_now {s : State} {c n : Nat} (hn : n ≤ s.ns) (hstop : ∀ b ∈ s.blocks, b.ctx = c → b.stopping = false) :
    (decide (s.ns < n) || s.blocks.any fun b => b.ctx == c && b.stopping) = false := by
  simpa [hn] using hstop

section
variable {s : State} {h : Head} (hh : s.slotHead (s.arg 0) = some h)
include hh

/-- PRIORITY_PREEMPT changes nothing, or stops a block that may be displaced. -/
theorem execPriorityPreempt_cases : execPriorityPreempt s = .next s ∨ ∃ b ∈ s.below h.r.ctx h.r.prio, ∃ c,
    (s.dropShrinks h.r.id).block? b.id = some c ∧
      execPriorityPreempt s = .next ((s.dropShrinks h.r.id).setBlock { c with stopping := true }) := by
  simp only [execPriorityPreempt, hh]
  split
  · split
    · exact .inl rfl
    · split
      · exact .inl rfl
      · next b hb =>
        have hbelow := List.mem_of_find?_eq_some hb
        obtain ⟨c, hc⟩ := block?_dropShrinks_of_mem (mem_below.1 hbelow).1 h.r.id
        exact .inr ⟨b, hbelow, c, hc, by rw [hc]⟩
  · exact .inl rfl

variable {n : Nat} (hroom : h.r.room = some n)
include hroom

theorem execPriorityPreempt_early (hn : s.ns < n) : execPriorityPreempt s = .next s := by
  cases hk : s.lacksRoom h with
  | none => simp only [execPriorityPreempt, hh, hroom, hk]
  | some k => simp only [execPriorityPreempt, hh, hroom, hk, hn, decide_true, Bool.true_or, if_true]

variable {k : KObj} (hn : n ≤ s.ns) (hk : s.lacksRoom h = some k) (hstop : ∀ b ∈ s.blocks, b.ctx = h.r.ctx → b.stopping = false)
include hn hk hstop

theorem execPriorityPreempt_none (hb : (s.below h.r.ctx h.r.prio).find? (s.leavesRoom k) = none) : execPriorityPreempt s = .next s := by
  have hgo := preempts_now hn hstop
  unfold State.leavesRoom at hb
  simp only [execPriorityPreempt, hh, hroom, hk, hgo, hb, Bool.false_eq_true, if_false]

theorem execPriorityPreempt_some {b c : Block} (hb : (s.below h.r.ctx h.r.prio).find? (s.leavesRoom k) = some b)
    (hc : (s.dropShrinks h.r.id).block? b.id = some c) :
    execPriorityPreempt s = .next ((s.dropShrinks h.r.id).setBlock { c with stopping := true }) := by
  have hgo := preempts_now hn hstop
  unfold State.leavesRoom at hb
  simp only [execPriorityPreempt, hh, hroom, hk, hgo, hb, hc, Bool.false_eq_true, if_false]

end

/-- A block that is stopping after a pre-emption was stopping before, or has the context and the priority of the block that it chose. -/
theorem stopping_of_mem_preempted {s : State} {n : Nat} {b b' c : Block} (hnodup : (s.blocks.map (·.id)).Nodup) (hb : b ∈ s.blocks)
    (hc : (s.dropShrinks n).block? b.id = some c) (hb' : b' ∈ ((s.dropShrinks n).setBlock { c with stopping := true }).blocks)
    (hstop : b'.stopping = true) : (∃ b0 ∈ s.blocks, b0.id = b'.id ∧ b0.stopping = true) ∨ (b'.ctx = b.ctx ∧ b'.prio = b.prio) := by
  obtain ⟨x, hx, rfl⟩ := List.mem_map.1 hb'
  split at hstop
  · next hid =>
    obtain ⟨b0, hb0, hleft⟩ := mem_dropShrinks (List.mem_of_find?_eq_some hc)
    obtain rfl : b0 = b := List.inj_on_of_nodup_map hnodup hb0 hb (hleft.id.symm.trans (State.block?_id hc))
    rw [if_pos hid]
    exact .inr ⟨hleft.ctx, hleft.prio⟩
  · next hid =>
    obtain ⟨b0, hb0, hleft⟩ := mem_dropShrinks hx
    rw [if_neg hid]
    exact .inl ⟨b0, hb0, hleft.id.symm, hleft.stopping.symm.trans hstop⟩

/-! ### SHRINK_REQUEST (R92, R105) -/

/-- A block is asked to shrink to a later variant. -/
theorem shrinkOf_spec {s : State} {b : Block} {k : KObj} {n : Nat} {q : Reshape} (h : s.shrinkOf b k n = some q) :
    b.variant < q.target ∧ q.grow = false := by
  unfold State.shrinkOf at h
  split at h
  · obtain ⟨x, -, hx⟩ := List.exists_of_findSome?_eq_some h
    split at hx
    · next hcond =>
      split at hx
      · cases hx
      · split at hx
        · cases hx
          exact ⟨of_decide_eq_true (Bool.and_eq_true_iff.1 hcond).1, rfl⟩
        · cases hx
    · cases hx
  · cases h

/-- What holds of the blocks, and of every block of a list with a shrink request, holds after shrink requests to blocks of the
list. -/
theorem forall_postShrinks {P : Block → Prop} {k : KObj} {n : Nat} : ∀ (l : List Block) (cores : List Nat) (s : State),
    (∀ b ∈ s.blocks, P b) → (∀ b ∈ l, ∀ (t : State) (q : Reshape), t.shrinkOf b k n = some q → P { b with reshape := some q }) →
    ∀ b ∈ (State.postShrinks k n l cores s).blocks, P b
  | [], _, _, hs, _ => hs
  | x :: xs, cores, s, hs, hl => by
    have hxs := fun b hb => hl b (List.mem_cons_of_mem x hb)
    unfold State.postShrinks
    split
    · exact forall_postShrinks xs cores s hs hxs
    · split
      · exact forall_postShrinks xs cores s hs hxs
      · next q hq =>
        refine forall_postShrinks xs _ _ (fun b hb => ?_) hxs
        obtain ⟨y, hy, rfl⟩ := List.mem_map.1 hb
        split
        · exact hl x (List.mem_cons_self ..) s q hq
        · exact hs y hy

theorem postShrinks_records {k : KObj} {n : Nat} : ∀ (l : List Block) (cores : List Nat) (s : State),
    (State.postShrinks k n l cores s).records = s.records
  | [], _, _ => rfl
  | x :: xs, cores, s => by
    unfold State.postShrinks
    split
    · exact postShrinks_records xs cores s
    · split
      · exact postShrinks_records xs cores s
      · exact postShrinks_records xs _ _

section
variable {s : State} {h : Head} (hh : s.slotHead (s.arg 0) = some h)
include hh

theorem execShrinkRequest_asked (hroom : h.r.room ≠ none) : execShrinkRequest s = .next s := by
  simp only [execShrinkRequest, hh, Option.isSome_iff_ne_none.2 hroom, if_true]

variable (hroom : h.r.room = none)
include hroom

theorem execShrinkRequest_hasRoom (hk : s.lacksRoom h = none) : execShrinkRequest s = .next s := by
  simp only [execShrinkRequest, hh, hroom, hk, Option.isSome_none, Bool.false_eq_true, if_false]

variable {k : KObj} (hk : s.lacksRoom h = some k)
include hk

theorem execShrinkRequest_grown (hlacks : ((s.lookHead (s.homeDie h.r.ctx) h).dropGrows h.r.ctx).lacksRoom h = none) :
    execShrinkRequest s = .next ((s.lookHead (s.homeDie h.r.ctx) h).dropGrows h.r.ctx) := by
  simp only [execShrinkRequest, hh, hroom, hk, hlacks, Option.isSome_none, Option.isNone_none, Bool.false_eq_true, if_false, if_true]

/-- The state once a popped record has asked blocks to shrink, before its own wait is noted. -/
theorem execShrinkRequest_shrinks (hlacks : ((s.lookHead (s.homeDie h.r.ctx) h).dropGrows h.r.ctx).lacksRoom h ≠ none)
    (hfresh : h.fresh = false) :
    let s1 := (s.lookHead (s.homeDie h.r.ctx) h).dropGrows h.r.ctx
    let s2 := State.postShrinks k h.r.id (s1.below h.r.ctx h.r.prio) [] s1
    execShrinkRequest s = .next (s2.setRecord { h.r with room := some (s.ns + s2.shrinkTime h.r.id) }) := by
  have hnone : (((s.lookHead (s.homeDie h.r.ctx) h).dropGrows h.r.ctx).lacksRoom h).isNone = false :=
    Option.isNone_eq_false_iff.2 (Option.isSome_iff_ne_none.2 hlacks)
  simp only [execShrinkRequest, hh, hroom, hk, hnone, claim_of_old hfresh, Option.isSome_none, Bool.false_eq_true, if_false]

end

/-- A request of a block was there before, or asks a block of lower priority of a context to shrink. -/
def Block.RequestFrom (s : State) (ctx prio : Nat) (b : Block) : Prop :=
  ∀ q, b.reshape = some q → (∃ b0 ∈ s.blocks, b0.reshape = some q) ∨ (b.ctx = ctx ∧ b.prio < prio ∧ b.variant < q.target ∧ q.grow = false)

theorem requestFrom_postShrinks {s t : State} {ctx prio n : Nat} {k : KObj} (ht : ∀ b ∈ t.blocks, b.RequestFrom s ctx prio) :
    ∀ b ∈ (State.postShrinks k n (t.below ctx prio) [] t).blocks, b.RequestFrom s ctx prio := by
  refine forall_postShrinks _ _ _ ht fun b hb u q hq q' hq' => ?_
  cases hq'
  obtain ⟨-, hctx, hprio, -⟩ := mem_below.1 hb
  obtain ⟨htarget, hgrow⟩ := shrinkOf_spec hq
  exact .inr ⟨hctx, hprio, htarget, hgrow⟩

theorem requestFrom_dropGrows {s t : State} (ht : t.blocks = s.blocks) (c ctx prio : Nat) :
    ∀ b ∈ (t.dropGrows c).blocks, b.RequestFrom s ctx prio := by
  intro b hb q hq
  obtain ⟨b0, hb0, hleft⟩ := mem_dropGrows hb
  exact .inl ⟨b0, ht ▸ hb0, hleft.reshape hq⟩

/-! ### GROW_REQUEST and CONTEXT_YIELD (R93, R105) -/

/-- A block is asked to grow to an earlier variant. -/
theorem growOf_spec {s : State} {b : Block} {q : Reshape} (h : s.growOf b = some q) : q.target < b.variant ∧ q.grow = true := by
  unfold State.growOf at h
  split at h
  · obtain ⟨x, -, hx⟩ := List.exists_of_findSome?_eq_some h
    split at hx
    · next hcond =>
      obtain ⟨p, -, rfl⟩ := Option.map_eq_some_iff.1 hx
      exact ⟨of_decide_eq_true (Bool.and_eq_true_iff.1 hcond).1, rfl⟩
    · cases hx
  · cases h

section
variable {s : State} {b : Block} (hb : s.block? (s.arg 0) = some b)
include hb

theorem execGrowRequest_none (h : s.runs b = false ∨ b.reshape ≠ none ∨ s.growOf b = none) : execGrowRequest s = .next s := by
  simp only [execGrowRequest, hb]
  split
  · rfl
  · next hcond =>
    simp only [Bool.or_eq_true, Bool.not_eq_true', not_or, Bool.not_eq_true, Option.isSome_eq_false_iff, Option.isNone_iff_eq_none] at hcond
    obtain ⟨⟨hruns, hreshape⟩, -⟩ := hcond
    have hgrow : s.growOf b = none := (h.resolve_left hruns).resolve_left fun hne => hne hreshape
    rw [hgrow]

theorem execGrowRequest_grows {q : Reshape} (hruns : s.runs b = true) (hreshape : b.reshape = none)
    (hroom : ∀ r ∈ s.records, r.ctx = b.ctx → r.room = none) (hq : s.growOf b = some q) :
    execGrowRequest s = .next (s.setBlock { b with reshape := some q }) := by
  have hwaits : (s.records.any fun r => r.ctx == b.ctx && r.room.isSome) = false := by simpa using hroom
  simp only [execGrowRequest, hb, hruns, hreshape, hwaits, hq, Option.isSome_none, Bool.not_true, Bool.or_false, Bool.false_eq_true, if_false]

end

section
variable {s : State} {x : Nat} (hx : (s.core (s.arg 0)).ctx = some x)
include hx

theorem execContextYield_keeps (h : s.ns < (s.core (s.arg 0)).taken + 50000 ∨ s.heads = []) : execContextYield s = .next s := by
  simp only [execContextYield, hx]
  split
  · rfl
  · next hcond =>
    simp only [Bool.or_eq_true, decide_eq_true_eq, not_or] at hcond
    rw [h.resolve_left hcond.2, List.find?_nil]

theorem execContextYield_closes {h : Head} (hclosed : (s.core (s.arg 0)).closed = false) (htime : (s.core (s.arg 0)).taken + 50000 ≤ s.ns)
    (hheads : s.heads = [h]) (hctx : h.r.ctx ≠ x) (hneeds : s.needsCore (s.arg 0) h = true)
    (htake : s.canTake (s.arg 0) h.r.ctx ((s.headObj h).getD default) = false) :
    execContextYield s = .next (s.setCore (s.arg 0) { s.core (s.arg 0) with closed := true, next := some h.r.ctx }) := by
  have hfind : (h.r.ctx != x && s.needsCore (s.arg 0) h && !s.canTake (s.arg 0) h.r.ctx ((s.headObj h).getD default)) = true := by
    simp [hctx, hneeds, htake]
  simp only [execContextYield, hx, hclosed, Nat.not_lt.2 htime, hheads, List.find?_singleton, hfind, decide_false, Bool.or_false,
    Bool.false_eq_true, if_false, if_true]

end

/-- A core that is closed for its context takes no block of it. -/
theorem takes_of_closed {s : State} {core x : Nat} (hx : (s.core core).ctx = some x) (hclosed : (s.core core).closed = true) :
    s.takes core x = false := by
  simp only [State.takes, hx, hclosed, Bool.not_true, Bool.and_false]

/-! ### The end of a record (R95, R96) -/

/-- What looks neither at memory nor at what was drawn is the same after a harvest (R163). -/
theorem harvestAll_field {α : Type} {f : State → α} (hmem : ∀ s t, s.SameButMemory t → f t = f s)
    (hdrawn : ∀ (s : State) (n : Nat), f { s with drawn := n } = f s) : ∀ (l : List TlbEntry) (s : State), f (s.harvestAll l) = f s
  | [], _ => rfl
  | e :: es, s => by
    rw [State.harvestAll, harvestAll_field hmem hdrawn es, State.harvestEntry]
    refine (hmem _ _ (State.SameButMemory.storeBytes _ _ _ _)).trans ?_
    split
    · exact hdrawn ..
    · rfl

/-- A harvest writes the flag bytes of the entries alone (R163). -/
theorem harvestAll_readByte {pa : Nat} : ∀ (l : List TlbEntry) (s : State), (∀ e ∈ l, pa ≠ e.pte + 1) →
    (s.harvestAll l).readByte pa = s.readByte pa
  | [], _, _ => rfl
  | e :: es, s, h => by
    have hpa : pa ≠ e.pte + 1 := h e (List.mem_cons_self ..)
    rw [State.harvestAll, harvestAll_readByte es _ fun e' he' => h e' (List.mem_cons_of_mem e he'), State.harvestEntry]
    refine (State.readByte_storeBytes_of_not_mem _ _ _ fun c hc => ?_).trans ?_
    · rw [List.mem_singleton.1 hc]
      exact hpa.symm
    · split <;> rfl

theorem harvest_readByte {s : State} {p : TlbEntry → Bool} (drop : Bool) {pa : Nat} (h : ∀ e ∈ s.tlb, p e = true → pa ≠ e.pte + 1) :
    (s.harvest p drop).readByte pa = s.readByte pa :=
  harvestAll_readByte (s.tlb.filter p) s fun e he => h e (List.mem_filter.1 he).1 (List.mem_filter.1 he).2

/-- What a record's end works with: the records, blocks and queues of the service warps. -/
def State.roster (s : State) := (s.records, s.blocks, s.deferred, s.service, s.ready)

theorem harvest_roster (s : State) (p : TlbEntry → Bool) (drop : Bool) : (s.harvest p drop).roster = s.roster :=
  harvestAll_field (f := State.roster) (fun _ _ h => h.field State.roster rfl) (fun _ _ => rfl) (s.tlb.filter p) s

section
variable {s : State} {r : Record}

theorem kernelEnd_more (h : ∃ x ∈ s.records, x.id ≠ r.id ∧ x.ctx = r.ctx ∧ x.kobj = r.kobj) : s.kernelEnd r = s := by
  obtain ⟨x, hx, hid, hctx, hkobj⟩ := h
  exact if_pos (List.any_eq_true.2 ⟨x, hx, by simp [hid, hctx, hkobj]⟩)

theorem kernelEnd_last (h : ¬ ∃ x ∈ s.records, x.id ≠ r.id ∧ x.ctx = r.ctx ∧ x.kobj = r.kobj) :
    s.kernelEnd r = s.harvest (fun e => e.ctx == r.ctx) false := by
  refine if_neg fun hany => h ?_
  obtain ⟨x, hx, hcond⟩ := List.any_eq_true.1 hany
  simp only [Bool.and_eq_true, bne_iff_ne, ne_eq, beq_iff_eq] at hcond
  exact ⟨x, hx, hcond.1.1, hcond.1.2, hcond.2⟩

theorem endJdec_none (h : r.cont = 0) : s.endJdec r = some s := if_pos h

theorem endJdec_misaligned (h : r.cont % 64 ≠ 0) : s.endJdec r = some (s.queueError r.ctx r.qid) := by
  have hne : r.cont ≠ 0 := fun h0 => h (by rw [h0])
  simp only [State.endJdec, if_neg hne, if_pos h]

theorem endJdec_absent (hne : r.cont ≠ 0) (hal : r.cont % 64 = 0) (hread : s.readVirt r.ctx r.cont 64 = .error 0x01) :
    s.endJdec r = none := by
  simp only [State.endJdec, if_neg hne, hal, hread, ne_eq, not_true_eq_false, if_false, if_true]

variable (hr : s.record? (s.arg 0) = some r)
include hr

theorem execBlockEndJdec_early (h : r.next ≠ r.first + r.count ∨ r.ended ≠ r.count) : execBlockEndJdec s = .next s := by
  have hcond : (r.placed && r.ended == r.count && s.recordDrained r) = false := by
    rcases h with h | h <;> simp [Record.placed, h]
  simp only [execBlockEndJdec, hr, hcond, Bool.false_eq_true, if_false]

variable (hnext : r.next = r.first + r.count) (hended : r.ended = r.count) (hdrained : s.recordDrained r = true)
include hnext hended hdrained

omit hr in
theorem ends_now : (r.placed && r.ended == r.count && s.recordDrained r) = true := by
  simp [Record.placed, hnext, hended, hdrained]

theorem execBlockEndJdec_ends {t : State} (ht : (s.kernelEnd r).endJdec r = some t) :
    execBlockEndJdec s = .next { t with records := t.records.filter fun x => x.id != r.id } := by
  simp only [execBlockEndJdec, hr, ends_now hnext hended hdrained, ht, if_true]

theorem execBlockEndJdec_waits (ht : (s.kernelEnd r).endJdec r = none) : execBlockEndJdec s = .next s := by
  simp only [execBlockEndJdec, hr, ends_now hnext hended hdrained, ht, if_true]

/-- What becomes of a record that has ended, by its continuation. -/
theorem execBlockEndJdec_continues {k : State} (hk : s.kernelEnd r = k) :
    (r.cont = 0 → execBlockEndJdec s = .next { k with records := k.records.filter fun x => x.id != r.id }) ∧
    (r.cont % 64 ≠ 0 →
      execBlockEndJdec s = .next { k.queueError r.ctx r.qid with records := k.records.filter fun x => x.id != r.id }) ∧
    (r.cont ≠ 0 → r.cont % 64 = 0 → k.readVirt r.ctx r.cont 64 = .error 0x01 → execBlockEndJdec s = .next s) :=
  ⟨fun h0 => execBlockEndJdec_ends hr hnext hended hdrained (hk ▸ endJdec_none h0),
    fun hal => execBlockEndJdec_ends hr hnext hended hdrained (hk ▸ endJdec_misaligned hal),
    fun hne hal hread => execBlockEndJdec_waits hr hnext hended hdrained (hk ▸ endJdec_absent hne hal hread)⟩

end

/-! ### DEFERRED_PUSH (R95) -/

section
variable {s : State} {d : Nat × Nat × Nat} (hd : s.deferred[s.arg 0]? = some d)
include hd

theorem execDeferredPush_pushes {t : State} (hfirst : ∀ e ∈ s.deferred.take (s.arg 0), e.1 = d.1 → s.queueOf e ≠ s.queueOf d)
    (ht : s.pushReady d.1 d.2.1 d.2.2 = some t) :
    execDeferredPush s = .next { t with deferred := t.deferred.eraseIdx (s.arg 0) } := by
  have hnone : ((s.deferred.take (s.arg 0)).any fun e => e.1 == d.1 && s.queueOf e == s.queueOf d) = false := by
    simp only [List.any_eq_false, Bool.and_eq_true, beq_iff_eq, not_and]
    exact hfirst
  simp only [execDeferredPush, hd, hnone, ht, Bool.false_eq_true, if_false]

theorem execDeferredPush_waits (h : s.pushReady d.1 d.2.1 d.2.2 = none ∨
    ∃ e ∈ s.deferred.take (s.arg 0), e.1 = d.1 ∧ s.queueOf e = s.queueOf d) : execDeferredPush s = .next s := by
  simp only [execDeferredPush, hd]
  split
  · rfl
  · next hfirst =>
    have hpush := h.resolve_right fun ⟨e, he, hctx, hqueue⟩ => hfirst (List.any_eq_true.2 ⟨e, he, by simp [hctx, hqueue]⟩)
    rw [hpush]

end

/-! ### The clauses together -/

section
variable {s : State} {h : Head} (hh : s.slotHead (s.arg 0) = some h)
include hh

/-- SHRINK_REQUEST notes from when a block may be pre-empted, and asks blocks of lower priority alone. -/
theorem shrinkRequest_notes {k : KObj} (hroom : h.r.room = none) (hk : s.lacksRoom h = some k)
    (hlacks : ((s.lookHead (s.homeDie h.r.ctx) h).dropGrows h.r.ctx).lacksRoom h ≠ none) (hfresh : h.fresh = false)
    (hr : ∃ r ∈ s.records, r.id = h.r.id) : ∃ t : State, execShrinkRequest s = .next t ∧
      (∃ r ∈ t.records, r.id = h.r.id ∧ r.obj = h.r.obj ∧ ∃ n, r.room = some n ∧ s.ns ≤ n) ∧
      ∀ b ∈ t.blocks, b.RequestFrom s h.r.ctx h.r.prio := by
  obtain ⟨r, hr, hid⟩ := hr
  refine ⟨_, execShrinkRequest_shrinks hh hroom hk hlacks hfresh, ⟨_, mem_records_setRecord (r := r) ?_ hid, rfl, rfl, _, rfl, ?_⟩, ?_⟩
  · rw [postShrinks_records]
    exact (lookHead_records ..).symm ▸ hr
  · exact Nat.le_add_right ..
  · rw [State.setRecord_blocks]
    exact requestFrom_postShrinks (requestFrom_dropGrows (lookHead_blocks ..) _ _ _)

variable {n : Nat} {k : KObj} (hroom : h.r.room = some n) (hn : n ≤ s.ns) (hk : s.lacksRoom h = some k)
  (hstop : ∀ b ∈ s.blocks, b.ctx = h.r.ctx → b.stopping = false)
include hroom hn hk hstop

/-- Of the blocks that may be displaced and leave room, PRIORITY_PREEMPT stops the one that goes before the others. -/
theorem priorityPreempt_stops (hfrees : ∃ b ∈ s.below h.r.ctx h.r.prio, s.leavesRoom k b = true) :
    ∃ b c, (b ∈ s.below h.r.ctx h.r.prio ∧ s.leavesRoom k b = true) ∧
      (∀ x ∈ s.below h.r.ctx h.r.prio, s.leavesRoom k x = true → b.goesBefore x) ∧ (s.dropShrinks h.r.id).block? b.id = some c ∧
      execPriorityPreempt s = .next ((s.dropShrinks h.r.id).setBlock { c with stopping := true }) := by
  obtain ⟨b, hb⟩ := Option.isSome_iff_exists.1 (List.find?_isSome.2 hfrees)
  have hbelow := List.mem_of_find?_eq_some hb
  obtain ⟨c, hc⟩ := block?_dropShrinks_of_mem (mem_below.1 hbelow).1 h.r.id
  exact ⟨b, c, ⟨hbelow, List.find?_some hb⟩,
    fun x hx hp => before_of_find?_of_pairwise Block.goesBefore_refl (below_sorted ..) hb hx hp, hc,
    execPriorityPreempt_some hh hroom hn hk hstop hb hc⟩

end

/-- What frees room for a record by going: a block that may be displaced, and leaves room. -/
theorem frees_iff {s : State} {h : Head} {k : KObj} {b : Block} :
    (b ∈ s.blocks ∧ b.ctx = h.r.ctx ∧ b.prio < h.r.prio ∧ s.runs b = true ∧
      ∃ core, b.core? = some core ∧ ∃ v ∈ k.variants, (s.fitsBeside (fun x => x.id != b.id) [] core b.ctx v.need).isSome = true) ↔
    b ∈ s.below h.r.ctx h.r.prio ∧ s.leavesRoom k b = true := by
  rw [mem_below, leavesRoom_iff, and_assoc, and_assoc, and_assoc]

/-- Settles O57: each event is followed through its branches; blocks that may be displaced are sorted by what goes first, and the
harvest at a kernel's end writes the entries' flag bytes alone. -/
theorem roomIsMadeAndRecordsEnd : Obligations.RoomIsMadeAndRecordsEnd := by
  unfold Obligations.RoomIsMadeAndRecordsEnd
  refine ⟨fun s hnone => ⟨?_, ?_⟩,
    fun s h hh => ⟨execShrinkRequest_asked hh, fun hk => ?_, fun k hroom hk => execShrinkRequest_grown hh hroom hk,
      fun k hroom hk hlacks hfresh hr => ?_, fun n hroom hn => execPriorityPreempt_early hh hroom hn,
      fun n k hroom hn hk hstop => ⟨fun hnone => ?_, fun hfrees => ?_⟩,
      ⟨rfl, List.length_map .., fun i b hb => ⟨dropShrinks_asked hb, dropShrinks_unasked hb⟩, fun b => ⟨rfl, rfl⟩⟩,
      fun u c => ⟨rfl, fun n hn => ?_⟩, fun hnodup t ht b hb hstop => ?_⟩,
    fun s b hb => ⟨execGrowRequest_none hb, fun q hruns hreshape hroom hq =>
      ⟨execGrowRequest_grows hb hruns hreshape hroom hq, growOf_spec hq⟩⟩,
    fun s x hcore hx => ⟨execContextYield_keeps hx, fun h hclosed htime hheads hctx hneeds htake => ?_⟩,
    fun s r hr => ⟨execBlockEndJdec_early hr, fun hnext hended hdrained => ?_⟩,
    fun s d hd => ⟨fun t hfirst ht => execDeferredPush_pushes hd hfirst ht, execDeferredPush_waits hd⟩⟩
  · simp only [exec_shrinkRequest, execShrinkRequest, hnone]
  · simp only [exec_priorityPreempt, execPriorityPreempt, hnone]
  · by_cases hroom : h.r.room = none
    · exact execShrinkRequest_hasRoom hh hroom hk
    · exact execShrinkRequest_asked hh hroom
  · obtain ⟨t, ht, hnoted, hasked⟩ := shrinkRequest_notes hh hroom hk hlacks hfresh hr
    exact ⟨t, ht, hnoted, fun b hb q hq _ => hasked b hb q hq⟩
  · refine execPriorityPreempt_none hh hroom hn hk hstop (List.find?_eq_none.2 fun b hb hp => hnone b (frees_iff.2 ⟨hb, hp⟩))
  · obtain ⟨x, hx⟩ := hfrees
    obtain ⟨b, c, hb, hbefore, hc, hexec⟩ := priorityPreempt_stops hh hroom hn hk hstop ⟨x, frees_iff.1 hx⟩
    exact ⟨b, c, frees_iff.2 hb, fun y hy => hbefore y (frees_iff.1 hy).1 (frees_iff.1 hy).2, hc, hexec⟩
  · rw [State.block?_setBlock, if_neg hn]
  · rcases execPriorityPreempt_cases hh with hsame | ⟨b0, hb0, c, hc, hexec⟩
    · obtain rfl : s = t := by injection hsame.symm.trans ht
      exact .inl ⟨b, hb, rfl, hstop⟩
    · obtain rfl : (s.dropShrinks h.r.id).setBlock { c with stopping := true } = t := by injection hexec.symm.trans ht
      obtain ⟨hmem, hctx, hprio, -⟩ := mem_below.1 hb0
      refine (stopping_of_mem_preempted hnodup hmem hc hb hstop).imp_right fun ⟨hbctx, hbprio⟩ => ?_
      exact ⟨hbctx.trans hctx, hbprio ▸ hprio⟩
  · refine ⟨_, execContextYield_closes hx hclosed htime hheads hctx hneeds htake, ?_, takes_of_closed (core := s.arg 0) ?_ ?_, rfl⟩
    all_goals rw [State.core_setCore_self _ _ hcore]
    exact hx
  · have hends {k : State} (hk : s.kernelEnd r = k) := execBlockEndJdec_continues hr hnext hended hdrained hk
    have hroster := harvest_roster s (fun e => e.ctx == r.ctx) false
    simp only [State.roster, Prod.mk.injEq] at hroster
    obtain ⟨hrecords, hblocks, hdeferred, hservice, hready⟩ := hroster
    exact ⟨fun hmore => hends (kernelEnd_more hmore), fun hlast => ⟨hends (kernelEnd_last hlast), hrecords, hblocks, hdeferred,
      hservice, hready, fun pa hpa => harvest_readByte false fun e he hctx => hpa e he (beq_iff_eq.1 hctx)⟩⟩

end Sys2Proof.Machine
end

section
/-!
PROOF. The integer instructions: each word operation is the formula of its rule, and each instruction writes it (O8).
-/
namespace Sys2Proof.Machine
open Sys2Proof

/-! ### Arithmetic (R118, R120, R126) -/

theorem imadW_eq (a b c : Word) : imadW a b c = a * b + c := by
  simp [imadW, narrow, BitVec.ofInt_add, BitVec.ofInt_mul]

/-- The high half of a 64-bit integer is its quotient by 2^32, rounded down. -/
theorem extractHigh_ofInt (p : Int) : (BitVec.ofInt 64 p).extractLsb' 32 32 = BitVec.ofInt 32 (p / 2 ^ 32) := by
  apply BitVec.eq_of_toNat_eq
  simp only [BitVec.extractLsb'_toNat, BitVec.toNat_ofInt, Nat.shiftRight_eq_div_pow]
  omega

theorem imulhW_eq (u : Bool) (a b : Word) : imulhW u a b = Ref.imulh u a b := by
  have key : Ref.imulh u a b = (BitVec.ofInt 64 (rdInt u a * rdInt u b)).extractLsb' 32 32 := by
    rw [BitVec.ofInt_mul]
    cases u with
    | true => simp [Ref.imulh, rdInt]
    | false => simp [Ref.imulh, rdInt, BitVec.signExtend]
  rw [key, extractHigh_ofInt]
  rfl

theorem iabsW_eq (sat : Bool) (a : Word) : iabsW sat a = Ref.iabs sat a := by
  unfold Ref.iabs iabsW narrow
  by_cases hmin : a = 0x80000000#32
  · subst hmin
    cases sat <;> decide
  · rw [if_neg hmin]
    have hne : a.toNat ≠ 2 ^ 31 := fun h => hmin (BitVec.eq_of_toNat_eq h)
    have hlt := a.isLt
    have hcond := BitVec.toInt_eq_toNat_cond a
    have hbound : (a.toInt.natAbs : Int) ≤ 2 ^ 31 - 1 := by split at hcond <;> omega
    have hclamp : clampInt (a.toInt.natAbs : Int) (intRange true 32).1 (intRange true 32).2 = a.toInt.natAbs := by
      rw [clampInt_eq_max_min (by decide)]
      change max (-2 ^ 31) (min (2 ^ 31 - 1) (a.toInt.natAbs : Int)) = _
      omega
    rw [Bool.not_false, hclamp, ite_self, BitVec.ofInt_natCast]
    apply BitVec.eq_of_toNat_eq
    rw [BitVec.msb_eq_decide]
    split at hcond <;> split <;> simp_all <;> omega

theorem leaW_eq (n : Nat) (a b : Word) : leaW n a b = Ref.lea n a b := by
  rw [leaW, Ref.lea, BitVec.shiftLeft_eq_mul_twoPow]
  congr 2
  apply BitVec.eq_of_toNat_eq
  simp

/-! ### Counts, shifts and tables (R123 to R125) -/

theorem brevW_eq (a : Word) : brevW a = Ref.brev a := by
  ext i hi
  simp [brevW, Ref.brev, BitVec.getElem_reverse, BitVec.getMsbD_eq_getLsbD, hi]

theorem popcW_eq (a : Word) : popcW a = Ref.popc a := by
  rw [popcW, Ref.popc, w32, List.countP_eq_length_filter]

theorem clzW_eq (a : Word) : clzW a = Ref.clz a := by
  unfold clzW Ref.clz w32 bitLen
  by_cases h : a = 0#32
  · simp [h]
  · have hne : a.toNat ≠ 0 := by simpa [← BitVec.toNat_inj] using h
    rw [if_neg h, if_neg hne]
    congr 1
    omega

theorem getLsbD_concatWords (a b : Word) (k : Nat) :
    (b ++ a : DWord).getLsbD k = if k < 32 then a.getLsbD k else b.getLsbD (k - 32) := by
  rw [BitVec.getLsbD_append]

theorem shfW_eq (l : Bool) (a b c : Word) : shfW l a b c = Ref.shf l a b c := by
  ext i hi
  cases l with
  | true =>
    have hlt : i + 32 < 64 := by omega
    simp only [shfW, Ref.shf, if_true, getElem_refWord, BitVec.getElem_extractLsb', BitVec.getLsbD_shiftLeft, getLsbD_concatWords,
      Nat.add_comm 32 i, hlt, decide_true, Bool.true_and, ← decide_not, Nat.not_lt]
  | false =>
    simp only [shfW, Ref.shf, Bool.false_eq_true, if_false, getElem_refWord, BitVec.getElem_extractLsb', BitVec.getLsbD_ushiftRight,
      getLsbD_concatWords, Nat.zero_add, Nat.add_comm i]

/-- A bit of a union of words, taken over the indices that a test selects. -/
theorem getElem_foldl_or (p : Nat → Bool) (t : Nat → Word) {k : Nat} (hk : k < 32) : ∀ (l : List Nat) (acc : Word),
    (l.foldl (fun acc i => if p i then acc ||| t i else acc) acc)[k] = (acc[k] || l.any fun i => p i && (t i)[k])
  | [], acc => by simp
  | i :: l, acc => by
    rw [List.foldl_cons, getElem_foldl_or p t hk l, List.any_cons]
    cases p i <;> simp [Bool.or_assoc]

/-- Of the eight terms of a table the bits of the sources select one. -/
theorem any_lutTerm (lut : BitVec 8) (x y z : Bool) :
    ((List.range 8).any fun i => lut.getLsbD i && ((x == i.testBit 0) && (y == i.testBit 1) && (z == i.testBit 2))) =
      lut.getLsbD (Ref.lutIndex x y z) := by
  have h8 : List.range 8 = [0, 1, 2, 3, 4, 5, 6, 7] := rfl
  cases x <;> cases y <;> cases z <;> simp [h8, Ref.lutIndex, Nat.testBit]

theorem getElem_complementUnless (v : Bool) (a : Word) {i : Nat} (hi : i < 32) : (if v then a else ~~~a)[i] = (a[i] == v) := by
  cases v <;> simp

theorem blutW_eq (lut : BitVec 8) (a b c : Word) : blutW lut a b c = Ref.blut lut a b c := by
  ext i hi
  rw [blutW, getElem_foldl_or (fun n => lut.getLsbD n) _ hi]
  simp only [BitVec.getElem_and, getElem_complementUnless, any_lutTerm, Ref.blut, getElem_refWord, BitVec.getLsbD_eq_getElem hi,
    BitVec.getElem_zero, Bool.false_or]

/-! ### Bit fields (R125) -/

theorem getLsbD_refWord (f : Nat → Bool) {i : Nat} (hi : i < 32) : (Ref.word f).getLsbD i = f i := by
  rw [BitVec.getLsbD_eq_getElem hi, getElem_refWord]

theorem bfiW_eq (a b c : Word) : bfiW a b c = Ref.bfi a b c := by
  refine BitVec.eq_of_getLsbD_eq fun i hi => ?_
  have hpos : bits c 7 0 = c.toNat % 256 := rfl
  have hlen : bits c 15 8 = c.toNat / 256 % 256 := by simp [bits, Nat.shiftRight_eq_div_pow]
  simp only [bfiW, Ref.bfi, getLsbD_refWord _ hi, hpos, hlen, BitVec.getLsbD_or, BitVec.getLsbD_and, BitVec.getLsbD_not,
    BitVec.getLsbD_ofNat, Nat.testBit_mul_two_pow, Nat.testBit_two_pow_sub_one]
  generalize c.toNat % 256 = pos
  generalize c.toNat / 256 % 256 = len
  by_cases hfield : pos ≤ i ∧ i < pos + len
  · have hlt : i - pos < len := by omega
    simp [hfield, hlt, hi, BitVec.getLsbD]
  · have hout : (decide (i ≥ pos) && decide (i - pos < len)) = false := by grind
    simp [hfield, hout, hi]

/-- The low bits of a word are the same read signed or unsigned. -/
theorem rdInt_mod_pow (u : Bool) (a : Word) {n : Nat} (hn : n ≤ 32) : rdInt u a % (2 ^ n : Nat) = (a.toNat % 2 ^ n : Nat) := by
  cases u with
  | true => rfl
  | false =>
    have hdvd : ((2 ^ n : Nat) : Int) ∣ ((2 ^ 32 : Nat) : Int) := Int.natCast_dvd_natCast.2 (Nat.pow_dvd_pow 2 hn)
    rw [rdInt, if_neg Bool.false_ne_true, BitVec.toInt_eq_toNat_bmod, ← Int.emod_emod_of_dvd _ hdvd, Int.bmod_emod,
      Int.emod_emod_of_dvd _ hdvd, Int.natCast_emod]

/-- A word shifted down, with what its type puts above it. -/
def shiftedDown (u : Bool) (a : Word) (pos : Nat) : Word := if u then a >>> pos else a.sshiftRight pos

theorem rdInt_div_pow (u : Bool) (a : Word) (pos : Nat) : rdInt u a / (2 ^ pos : Nat) = rdInt u (shiftedDown u a pos) := by
  cases u with
  | true => simp [rdInt, shiftedDown, Nat.shiftRight_eq_div_pow]
  | false => simp [rdInt, shiftedDown, BitVec.toInt_sshiftRight, Int.shiftRight_eq_div_pow]

theorem sextInt_eq_toInt (x n : Nat) : sextInt x n = (BitVec.ofNat n x).toInt := by
  unfold sextInt
  rw [BitVec.toInt_eq_toNat_cond]
  simp only [BitVec.toNat_ofNat]
  obtain _ | k := n
  · simp [Nat.mod_one]
  · simp [Nat.pow_succ]
    grind

theorem getLsbD_shiftedDown (u : Bool) (a : Word) (pos : Nat) {k : Nat} (hk : k < 32) :
    (shiftedDown u a pos).getLsbD k = if pos + k < 32 then a.getLsbD (pos + k) else !u && a.getLsbD 31 := by
  unfold shiftedDown
  cases u with
  | true =>
    rw [if_pos rfl, BitVec.getLsbD_ushiftRight]
    split
    · rfl
    · exact BitVec.getLsbD_of_ge _ _ (by omega)
  | false =>
    rw [if_neg Bool.false_ne_true, BitVec.getLsbD_sshiftRight, BitVec.msb_eq_getLsbD_last]
    simp [Nat.not_le.2 hk]

/-- BFE takes the low bits of the shifted word and extends them. -/
theorem bfeW_eq_extend (u : Bool) (a : Word) (pos len : Nat) :
    bfeW u a pos len =
      let field := (shiftedDown u a pos).setWidth (min len 32)
      if u then field.setWidth 32 else field.signExtend 32 := by
  have hn : min len 32 ≤ 32 := by omega
  simp only [bfeW]
  rw [rdInt_div_pow, rdInt_mod_pow u _ hn, Int.toNat_natCast, sextInt_eq_toInt]
  cases u with
  | true =>
    apply BitVec.eq_of_toNat_eq
    rw [if_pos rfl, if_pos rfl, BitVec.ofInt_natCast]
    simp
  | false =>
    rw [if_neg Bool.false_ne_true, if_neg Bool.false_ne_true, BitVec.signExtend]
    congr 2
    apply BitVec.eq_of_toNat_eq
    simp

theorem bfeW_eq (u : Bool) (a : Word) (pos len : Nat) : bfeW u a pos len = Ref.bfe u a pos len := by
  refine BitVec.eq_of_getLsbD_eq fun i hi => ?_
  rw [bfeW_eq_extend]
  simp only [Ref.bfe, getLsbD_refWord _ hi]
  have hn : min len 32 ≤ 32 := by omega
  generalize min len 32 = n at hn
  by_cases hin : i < n
  · rw [if_pos hin, ← getLsbD_shiftedDown u a pos hi]
    cases u with
    | true => simp [hi, hin]
    | false => rw [if_neg Bool.false_ne_true, BitVec.getLsbD_signExtend]; simp [hi, hin]
  · rw [if_neg hin]
    cases u with
    | true => simp [hin]
    | false =>
      rw [if_neg Bool.false_ne_true, BitVec.getLsbD_signExtend, BitVec.msb_eq_getLsbD_last]
      obtain _ | k := n
      · simp
      · have hlast : pos + (k + 1) - 1 = pos + k := rfl
        rw [hlast, ← getLsbD_shiftedDown false a pos (by omega)]
        simp [hi, hin]

/-! ### Rows of the tables -/

theorem Row.completes_of_capable {o : Opnds} {i : Instr} {xs : List Src} {f : Word → Word → Word → Word} {fn : HomeFn}
    (hexec : ∀ s, exec i s = s.capable o (.reg o.d o.sd) xs fn)
    (hf : ∀ (s : State) a l, fn.word (s.operand a xs l 0) (s.operand a xs l 1) (s.operand a xs l 2) =
      f (s.operand a xs l 0) (s.operand a xs l 1) (s.operand a xs l 2)) :
    (⟨i, xs, f⟩ : Row).Completes o := by
  intro s a h
  rw [hexec, capable_acts h, funext (hf s a)]
  rfl

theorem Row.completes_of_plainOp {o : Opnds} {i : Instr} {xs : List Src} {f : Word → Word → Word → Word}
    {g : State → Actx → Nat → Word} (hexec : ∀ s, exec i s = s.plainOp o xs (g s))
    (hg : ∀ s a l, g s a l = f (s.operand a xs l 0) (s.operand a xs l 1) (s.operand a xs l 2)) :
    (⟨i, xs, f⟩ : Row).Completes o := by
  intro s a h
  rw [hexec, plainOp_acts h, funext (hg s a)]

theorem bits_imm16_high (o : Opnds) : bits o.imm16 15 8 = o.imm16.toNat / 256 := by
  have := o.imm16.isLt
  simp [bits, Nat.shiftRight_eq_div_pow]
  omega

/-- Settles O8: each instruction takes the course of a capable or a plain one, and its word operation is the rule's formula. -/
theorem integerResults : Obligations.IntegerResults := by
  intro h o
  simp only [integerRows, List.forall_mem_append, List.forall_mem_cons, List.not_mem_nil, IsEmpty.forall_iff, implies_true, and_true]
  refine ⟨⟨?iaddReg, ?iaddImm, ?isubReg, ?isubImm, ?imulReg, ?imulImm, ?imulhReg, ?imulhImm, ?imad, ?iminReg, ?iminImm, ?imaxReg,
    ?imaxImm, ?iabs⟩, ?blutReg, ?blutImm, ?shlReg, ?shlImm, ?shrReg, ?shrImm, ?shf, ?popc, ?clz, ?brev, ?bfeReg, ?bfeImm, ?bfi,
    ?leaReg, ?leaImm⟩
  case iaddReg => exact Row.completes_of_capable (exec_iaddReg o) fun _ _ _ => iaddW_eq _ _ _ _
  case iaddImm => exact Row.completes_of_capable (exec_iaddImm o) fun _ _ _ => iaddW_eq _ _ _ _
  case isubReg => exact Row.completes_of_capable (exec_isubReg o) fun _ _ _ => isubW_eq _ _ _ _
  case isubImm => exact Row.completes_of_capable (exec_isubImm o) fun _ _ _ => isubW_eq _ _ _ _
  case imulReg => exact Row.completes_of_capable (exec_imulReg o) fun _ _ _ => imulW_eq _ _
  case imulImm => exact Row.completes_of_capable (exec_imulImm o) fun _ _ _ => imulW_eq _ _
  case imulhReg => exact Row.completes_of_plainOp (exec_imulhReg o) fun _ _ _ => imulhW_eq _ _ _
  case imulhImm => exact Row.completes_of_plainOp (exec_imulhImm o) fun _ _ _ => imulhW_eq _ _ _
  case imad => exact Row.completes_of_capable (exec_imad o) fun _ _ _ => imadW_eq _ _ _
  case iminReg => exact Row.completes_of_capable (exec_iminReg o) fun _ _ _ => iminW_eq _ _ _
  case iminImm => exact Row.completes_of_capable (exec_iminImm o) fun _ _ _ => iminW_eq _ _ _
  case imaxReg => exact Row.completes_of_capable (exec_imaxReg o) fun _ _ _ => imaxW_eq _ _ _
  case imaxImm => exact Row.completes_of_capable (exec_imaxImm o) fun _ _ _ => imaxW_eq _ _ _
  case iabs => exact Row.completes_of_plainOp (exec_iabs o) fun _ _ _ => iabsW_eq _ _
  case blutReg => exact Row.completes_of_capable (exec_blutReg h o) fun _ _ _ => blutW_eq _ _ _ _
  case blutImm => exact Row.completes_of_capable (exec_blutImm h o) fun _ _ _ => blutW_eq _ _ _ _
  case shlReg => exact Row.completes_of_capable (exec_shlReg o) fun _ _ _ => shlW_eq _ _
  case shlImm => exact Row.completes_of_capable (exec_shlImm o) fun _ _ _ => shlW_eq _ _
  case shrReg => exact Row.completes_of_capable (exec_shrReg o) fun _ _ _ => shrW_eq _ _ _
  case shrImm => exact Row.completes_of_capable (exec_shrImm o) fun _ _ _ => shrW_eq _ _ _
  case shf => exact Row.completes_of_plainOp (exec_shf o) fun _ _ _ => shfW_eq _ _ _ _
  case popc => exact Row.completes_of_plainOp (exec_popc o) fun _ _ _ => popcW_eq _
  case clz => exact Row.completes_of_plainOp (exec_clz o) fun _ _ _ => clzW_eq _
  case brev => exact Row.completes_of_plainOp (exec_brev o) fun _ _ _ => brevW_eq _
  case bfeReg => exact Row.completes_of_plainOp (exec_bfeReg o) fun _ _ _ => bfeW_eq _ _ _ _
  case bfeImm =>
    refine Row.completes_of_plainOp (exec_bfeImm o) fun _ _ _ => ?_
    rw [bfeW_eq, bits_imm16_high]
    rfl
  case bfi => exact Row.completes_of_plainOp (exec_bfi o) fun _ _ _ => bfiW_eq _ _ _
  case leaReg => exact Row.completes_of_plainOp (exec_leaReg o) fun _ _ _ => leaW_eq _ _ _
  case leaImm => exact Row.completes_of_plainOp (exec_leaImm o) fun _ _ _ => leaW_eq _ _ _

end Sys2Proof.Machine
end

section
/-!
PROOF. Predicates from comparisons and tables, and the moves of plain values (O10).
-/
namespace Sys2Proof.Machine
open Sys2Proof

/-! ### Comparisons and table bits (R121, R123, R136) -/

theorem rdInt_inj {u : Bool} {a b : Word} : rdInt u a = rdInt u b ↔ a = b :=
  ⟨fun h => by rw [← ofInt_rdInt u a, h, ofInt_rdInt], congrArg _⟩

theorem itestW_eq (cmp : BitVec 3) (u : Bool) (a b : Word) : itestW cmp u a b = Ref.itest cmp u a b := by
  have hlt (x y : Word) : decide (rdInt u x < rdInt u y) = Ref.below u x y := by
    rw [Bool.eq_iff_iff, decide_eq_true_iff, rdInt_lt_iff]
  have hle (x y : Word) : decide (rdInt u x ≤ rdInt u y) = !Ref.below u y x := by
    rw [← hlt, ← decide_not, decide_eq_decide, Int.not_lt]
  have heq : decide (rdInt u a = rdInt u b) = (a == b) := by
    rw [beq_eq_decide, decide_eq_decide, rdInt_inj]
  unfold itestW Ref.itest
  split <;> simp only [hlt, hle, heq, ne_eq, decide_not, bne]

theorem lutBit_eq (lut : BitVec 8) (a b c : Bool) : lutBit lut a b c = lut.getLsbD (Ref.lutIndex a b c) := by
  cases a <;> cases b <;> cases c <;> rfl

theorem immFp_eq (o : Opnds) : immFp o = .imm (o.imm16 ++ 0#16) := by
  unfold immFp w32
  congr 1
  apply BitVec.eq_of_toNat_eq
  have := o.imm16.isLt
  rw [BitVec.toNat_append, BitVec.toNat_ofNat, BitVec.toNat_ofNat, Nat.zero_mod, Nat.or_zero, Nat.shiftLeft_eq]
  omega

/-- An instruction of a row completes: it writes the row's bit in each active lane of Pd and retires. -/
def Row.Tests (r : Row) (o : Opnds) : Prop :=
  ∀ (s : State) (a : Actx), s.ActsOn a o r.xs →
    exec r.i s = .next ((s.wrP a o.d.toNat (a.lanes o) fun l =>
      r.f (s.operand a r.xs l 0) (s.operand a r.xs l 1) 0#32 == 1#32).retire a)

theorem Row.tests_of_capable {o : Opnds} {i : Instr} {xs : List Src} {f : Word → Word → Word → Word} {fn : HomeFn}
    (hexec : ∀ s, exec i s = s.capable o (.pred o.d.toNat) xs fn) (hf : ∀ x y z, (fn.word x y z != 0#32) = (f x y 0#32 == 1#32)) :
    (⟨i, xs, f⟩ : Row).Tests o := by
  intro s a h
  rw [hexec, capable_acts h]
  simp only [State.writePx, hf]
  rfl

theorem boolW_ne_zero (b : Bool) : (boolW b != 0#32) = ((if b then 1#32 else 0#32) == 1#32) := by
  cases b <;> rfl

theorem itest_bit (cmp : BitVec 3) (u : Bool) (x y z : Word) :
    ((HomeFn.itest cmp u).word x y z != 0#32) = ((if Ref.itest cmp u x y then 1#32 else 0#32) == 1#32) := by
  rw [HomeFn.word, itestW_eq, boolW_ne_zero]

theorem fsetp_bit (cmp : BitVec 3) (m : BitVec 6) (x y z : Word) :
    ((HomeFn.fsetp cmp m).word x y z != 0#32) =
      ((if fSetp cmp (m.getLsbD 2) x.toNat y.toNat then 1#32 else 0#32) == 1#32) := by
  rw [HomeFn.word, boolW_ne_zero]

theorem testRows_test (cmp : BitVec 3) (o : Opnds) : ∀ r ∈ testRows cmp o, r.Tests o := by
  simp only [testRows, List.forall_mem_cons, List.not_mem_nil, IsEmpty.forall_iff, implies_true, and_true]
  refine ⟨?itestReg, ?itestImm, ?fsetpReg, ?fsetpImm⟩
  case itestReg => exact Row.tests_of_capable (exec_itestReg o) (itest_bit _ _)
  case itestImm => exact Row.tests_of_capable (exec_itestImm o) (itest_bit _ _)
  case fsetpReg => exact Row.tests_of_capable (exec_fsetpReg cmp o) (fsetp_bit cmp o.mod)
  case fsetpImm => exact immFp_eq o ▸ Row.tests_of_capable (exec_fsetpImm cmp o) (fsetp_bit cmp o.mod)

/-! ### Plain moves (R122, R127) -/

theorem newLanes_congr {r : VReg} {m : Mask} {f g : Nat → KVal} (h : ∀ l, m.getLsbD l = true → f l = g l) :
    r.newLanes m f = r.newLanes m g := by
  refine List.map_congr_left fun l _ => ?_
  split
  next hl => exact h l hl
  next => rfl

/-- A write reads its values in the lanes of the mask alone, and for a scalar register the word of lane 0. -/
theorem wrK_congr {s : State} {a : Actx} {d : BitVec 8} {sd : Bool} {m : Mask} {f g : Nat → KVal}
    (h : ∀ l, m.getLsbD l = true → f l = g l) (h0 : (f 0).val = (g 0).val) : s.wrK a d sd m f = s.wrK a d sd m g := by
  have hwrite (r : VReg) : r.write m f = r.write m g := by rw [VReg.write, newLanes_congr h]; rfl
  simp only [State.wrK, State.wrVec, hwrite, h0]

theorem px_of_anyPx {s : State} {a : Actx} {m : Mask} {xs : List Src} (h : s.anyPx a m xs = false) {x : Src} (hx : x ∈ xs) {l : Nat}
    (hl : m.getLsbD l = true) : (s.src a x l).px = false := by
  simp only [State.anyPx, List.any_eq_false, Bool.not_eq_true] at h
  exact h l (mem_lanesOf.2 hl) x hx

/-- Values that are plain in the active lanes move without a reference, and the instruction retires. -/
theorem moveLanes_plain {s : State} {a : Actx} {o : Opnds} {m : Mask} {pick : Nat → KVal}
    (h : ∀ l, m.getLsbD l = true → (pick l).px = false) :
    s.moveLanes a o m pick = (s.wr a o.d o.sd m fun l => (pick l).val).retire a := by
  have hnone : ((lanesOf m).filterMap fun l =>
      if (pick l).px && !(s.ctx a.blk.ctx).lost (pxHome (pick l).val) then some (l, (pick l).val) else none) = [] := by
    refine List.filterMap_eq_nil_iff.2 fun l hl => ?_
    rw [h l (mem_lanesOf.1 hl)]
    rfl
  simp only [State.moveLanes, hnone, ite_self]
  refine congrArg (State.retire · a) (wrK_congr (fun l hl => ?_) rfl)
  change pick l = KVal.plain (pick l).val
  rw [KVal.plain, ← h l hl]

theorem soleLane_mem {m : Mask} (s : State) (h : m ≠ 0#32) : m.getLsbD (s.soleLane m) = true := by
  have hpos : 0 < (lanesOf m).length := List.length_pos_of_ne_nil (mt lanesOf_eq_nil.1 h)
  rw [← mem_lanesOf, State.soleLane, nth_eq_getD, Nat.max_eq_right hpos]
  rw [List.getElem?_eq_getElem (Nat.mod_lt _ hpos)]
  exact List.getElem_mem _

theorem plainPreds_any {a : Actx} {o : Opnds} {ns : List Nat} (h : a.plainPreds o ns) {n : Nat} (hn : n ∈ ns) :
    ((lanesOf (a.lanes o)).any fun l => (a.w.pred n l).px.isSome) = false := by
  simp only [List.any_eq_false, Option.isSome_iff_ne_none, not_not]
  exact fun l hl => h n hn l (mem_lanesOf.1 hl)

theorem exec_sel {o : Opnds} {i : Instr} {b : Src} (h : (i, b) ∈ [(Instr.selReg o, o.srcB), (.selImm o, o.immS)]) (s : State) :
    exec i s = s.select o b := by
  simp only [List.mem_cons, Prod.mk.injEq, List.not_mem_nil, or_false] at h
  obtain ⟨rfl, rfl⟩ | ⟨rfl, rfl⟩ := h <;> rfl

/-- SEL with plain sources and a plain predicate writes the source that the predicate selects. -/
theorem select_plain {o : Opnds} {s : State} {a : Actx} {b : Src} (h : s.ActsOn a o [o.srcA, b])
    (hp : a.plainPreds o [o.mod.toNat % 8]) : s.select o b =
      .next (((if o.sd then { s with drawn := s.drawn + 1 } else s : State).wr a o.d o.sd (a.lanes o) fun l =>
        if s.selBit a o (a.lanes o) l then s.val a b l else s.val a o.srcA l).retire a) := by
  obtain ⟨hacts, hpx⟩ := h
  have hA {l : Nat} (hl : (a.lanes o).getLsbD l = true) : (s.src a o.srcA l).px = false := px_of_anyPx hpx (by simp) hl
  have hB {l : Nat} (hl : (a.lanes o).getLsbD l = true) : (s.src a b l).px = false := px_of_anyPx hpx (by simp) hl
  have hclash : ((lanesOf (a.lanes o)).any fun l => extClash (proxiesOf [s.src a o.srcA l, s.src a b l])) = false := by
    simp only [List.any_eq_false]
    intro l hl
    simp [proxiesOf, hA (mem_lanesOf.1 hl), hB (mem_lanesOf.1 hl), extClash, distinct]
  have hpred : ((lanesOf (a.lanes o)).any fun l => (a.w.pred (bits o.mod 2 0) l).px.isSome) = false :=
    plainPreds_any hp (List.mem_singleton_self _)
  simp only [State.select, run_acts hacts, hpred, hclash, Bool.false_eq_true, if_false]
  rw [moveLanes_plain fun l hl => by split <;> simp only [hA hl, hB hl]]
  simp only [apply_ite KVal.val]
  rfl

/-- Settles O10: comparisons are capable instructions whose result is a bit, and the moves of plain values are plain writes. -/
theorem predicateResultsAndMoves : Obligations.PredicateResultsAndMoves := by
  refine ⟨⟨?test, ?plop⟩, ?mov, ?sel, ?movUnif⟩
  case test => exact fun cmp o r hr s a h => testRows_test cmp o r hr s a h
  case plop =>
    intro h o s a hacts hp
    have hplain : ((lanesOf (a.lanes o)).any fun l => (a.w.pred o.a.toNat l).px.isSome || (a.w.pred o.b.toNat l).px.isSome ||
        (a.w.pred o.c.toNat l).px.isSome) = false := by
      simp only [List.any_eq_false, Bool.or_eq_true, Option.isSome_iff_ne_none]
      intro l hl
      have hl := mem_lanesOf.1 hl
      simp [hp _ _ l hl]
    simp only [exec_plop, execPlop, run_acts hacts, hplain, Bool.false_eq_true, if_false, lutBit_eq]
    rfl
  case mov =>
    intro o s a ⟨hacts, hpx⟩
    have hplain (l : Nat) (hl : (a.lanes o).getLsbD l = true) : (s.src a o.srcA l).px = false :=
      px_of_anyPx hpx (List.mem_singleton_self _) hl
    rw [exec_mov, execMov, run_acts hacts, moveLanes_plain hplain]
    rfl
  case sel =>
    intro o s a i b hi h hp
    rw [exec_sel hi, select_plain h hp]
    constructor
    · intro hsd
      simp only [hsd, State.selBit, Bool.false_eq_true, if_false]
      rfl
    · intro hsd
      refine ⟨s.soleLane (a.lanes o), soleLane_mem s h.1.2.2, ?_⟩
      simp only [hsd, State.selBit, if_true]
      rfl
  case movUnif =>
    intro o s a hacts
    rw [exec_movUnif, execMovUnif, run_acts hacts]
    rfl

end Sys2Proof.Machine
end

section
/-!
PROOF. Moves between predicates, lanes and words (O12).
-/
namespace Sys2Proof.Machine
open Sys2Proof

/-! ### Predicates as bits of a word (R128) -/

/-- The number with the bits that a test selects among the first `k`. -/
def selectedBits (f : Nat → Bool) (k : Nat) : Nat := (List.range k).foldl (fun acc n => acc + if f n then 2 ^ n else 0) 0

theorem selectedBits_succ (f : Nat → Bool) (k : Nat) :
    selectedBits f (k + 1) = selectedBits f k + if f k then 2 ^ k else 0 := by
  rw [selectedBits, List.range_succ, List.foldl_append]
  rfl

theorem selectedBits_lt (f : Nat → Bool) : ∀ k, selectedBits f k < 2 ^ k
  | 0 => Nat.one_pos
  | k + 1 => by
    have ih := selectedBits_lt f k
    rw [selectedBits_succ, Nat.pow_succ]
    split <;> omega

theorem testBit_selectedBits (f : Nat → Bool) (i : Nat) : ∀ k, (selectedBits f k).testBit i = (decide (i < k) && f i)
  | 0 => by simp [selectedBits]
  | k + 1 => by
    have ih := testBit_selectedBits f i k
    have hlt := selectedBits_lt f k
    rw [selectedBits_succ]
    obtain h | rfl | h := Nat.lt_trichotomy i k
    · have h' : i < k + 1 := by omega
      split
      · rw [Nat.add_comm, Nat.testBit_two_pow_add_gt h, ih]
        simp [h, h']
      · rw [Nat.add_zero, ih]
        simp [h, h']
    · split
      next hf => rw [Nat.add_comm, Nat.testBit_two_pow_add_eq, Nat.testBit_lt_two_pow hlt]; simp [hf]
      next hf => rw [Nat.add_zero, Nat.testBit_lt_two_pow hlt]; simp [hf]
    · have hle : 2 ^ (k + 1) ≤ 2 ^ i := Nat.pow_le_pow_right (by decide) h
      rw [Nat.testBit_lt_two_pow]
      · simp; omega
      · rw [Nat.pow_succ] at hle
        split <;> omega

theorem w32_selectedBits (f : Nat → Bool) : w32 (selectedBits f 8) = Ref.word fun n => decide (n < 8) && f n := by
  refine BitVec.eq_of_getLsbD_eq fun i hi => ?_
  rw [getLsbD_refWord _ hi, w32, BitVec.getLsbD_ofNat, testBit_selectedBits]
  simp [hi]

theorem wrPreds_eq_foldl (a : Actx) (m : Mask) (mask : BitVec 16) (v : Nat → Word) : ∀ (ns : List Nat) (s : State),
    s.wrPreds a m mask.toNat v ns = ns.foldl (fun (t : State) n =>
      if mask.getLsbD n = true then t.wrP a n m (fun l => (v l).getLsbD n) else t) s
  | [], _ => rfl
  | _ :: ns, _ => wrPreds_eq_foldl a m mask v ns _

/-- Settles O12: the moves read plain predicates, or a lane that holds none of the proxies, and write what they read. -/
theorem predicateMoves : Obligations.PredicateMoves := by
  refine ⟨?p2v, ?v2p, ?lane⟩
  case p2v =>
    intro o s a hacts hp
    have hplain : ((lanesOf (a.lanes o)).any fun l => (List.range 7).any fun n => (a.w.pred n l).px.isSome) = false := by
      simp only [List.any_eq_false, Bool.not_eq_true, Option.isSome_eq_false_iff, Option.isNone_iff_eq_none]
      exact fun l hl n hn => hp n hn l (mem_lanesOf.1 hl)
    simp only [exec_movP2v, execMovP2v, run_acts hacts, hplain, Bool.false_eq_true, if_false]
    simp only [← selectedBits.eq_1 (fun n => (a.w.pred n _).val), w32_selectedBits]
  case v2p =>
    intro o s a ⟨hacts, hpx⟩
    have hplain : s.anyPx a (a.lanes o) [o.srcA] ≠ true := by simpa [Actx.lanes] using hpx
    simp only [exec_movV2p, execMovV2p, run_acts hacts, if_neg hplain, wrPreds_eq_foldl]
  case lane =>
    intro o s a i b hi hacts k
    have hexec : exec i s = s.moveLane o b := by
      simp only [List.mem_cons, Prod.mk.injEq, List.not_mem_nil, or_false] at hi
      obtain ⟨rfl, rfl⟩ | ⟨rfl, rfl⟩ := hi <;> rfl
    have hif : exec i s = .next (if s.anyPx a (a.lanes o) [o.srcA] || k.px then s.raise a Code.pxuse 0x01
        else (s.wr a o.d o.sd (a.lanes o) fun _ => k.val).retire a) := by
      rw [hexec, State.moveLane, run_acts hacts]
    refine ⟨fun hA hk => ?_, fun h => ?_⟩
    · rw [hif, hA, hk]
      rfl
    · rw [hif, if_pos]
      simpa using h

end Sys2Proof.Machine
end

section
/-!
PROOF. The acting warp after a write of a destination, and that writes keep the uniform tags sound (O17).
-/
namespace Sys2Proof.Machine
open Sys2Proof

/-! ### Vector registers after a write -/

theorem nth_setNth {α : Type} (d : α) (l : List α) (n k : Nat) (v : α) :
    nth d (setNth l n v) k = if k = n ∧ n < l.length then v else nth d l k := by
  by_cases hk : k = n
  · subst hk
    by_cases hlt : k < l.length
    · rw [nth_setNth_self d l k v hlt, if_pos ⟨rfl, hlt⟩]
    · rw [if_neg (by simp [hlt]), nth_eq_getD, nth_eq_getD, setNth_getElem?, List.getElem?_eq_none (by omega)]
      simp
  · rw [nth_setNth_of_ne d l n k v hk, if_neg (by simp [hk])]

/-- A number that the warp reaches reads the register put there, and every other number what it read before. -/
theorem vreg_setVreg (w : Warp) (n : Nat) (r : VReg) (k : Nat) [Decidable (w.reaches n)] :
    (w.setVreg n r).vreg k = if k = n ∧ w.reaches n then r else w.vreg k := by
  by_cases hn : w.lends n = true
  · have hreach : w.reaches n ↔ n - 232 < w.lent.length := by rw [Warp.reaches, if_pos hn]
    have hge : 232 ≤ n := by simp [Warp.lends] at hn; omega
    rw [Warp.setVreg, if_pos hn]
    by_cases hk : w.lends k = true
    · have hk' : 232 ≤ k := by simp [Warp.lends] at hk; omega
      have hiff : k - 232 = n - 232 ↔ k = n := by omega
      have hlend : ({ w with lent := setNth w.lent (n - 232) r } : Warp).lends k = true := hk
      rw [Warp.vreg, if_pos hlend, Warp.vreg, if_pos hk, nth_setNth]
      simp only [hiff, hreach]
    · have hne : k ≠ n := fun he => hk (he ▸ hn)
      have hlend : ¬ ({ w with lent := setNth w.lent (n - 232) r } : Warp).lends k = true := hk
      rw [if_neg (by simp [hne]), Warp.vreg, if_neg hlend, Warp.vreg, if_neg hk]
  · have hreach : w.reaches n ↔ n < w.vregs.length := by rw [Warp.reaches, if_neg hn]
    rw [Warp.setVreg, if_neg hn]
    by_cases hk : w.lends k = true
    · have hne : k ≠ n := fun he => hn (he ▸ hk)
      have hlend : ({ w with vregs := setNth w.vregs n r } : Warp).lends k = true := hk
      rw [if_neg (by simp [hne]), Warp.vreg, if_pos hlend, Warp.vreg, if_pos hk]
    · have hlend : ¬ ({ w with vregs := setNth w.vregs n r } : Warp).lends k = true := hk
      rw [Warp.vreg, if_neg hlend, Warp.vreg, if_neg hk, nth_setNth]
      simp only [hreach]

/-- A lane of a register after a write of the lanes of a mask. -/
theorem lane_write (r : VReg) (m : Mask) (f : Nat → KVal) {l : Nat} (hl : l < 32) :
    (r.write m f).lane l = if m.getLsbD l then f l else r.lane l := by
  rw [VReg.write, VReg.lane, nth_eq_getD, VReg.newLanes, List.getElem?_map, List.getElem?_range hl]
  rfl

/-! ### The acting warp after a write -/

/-- The warp after a write of the destination D in the lanes of a mask (R20, R21, R42). -/
def Warp.putD (w : Warp) (d : BitVec 8) (sd : Bool) (m : Mask) (f : Nat → KVal) : Warp :=
  if sd then { w with sregs := setNth w.sregs d.toNat (f 0).val }
  else if d = 0xF3#8 then w
  else w.setVreg d.toNat ((w.vreg d.toNat).write m f)

section
variable {s : State} {a : Actx} {blk : Block} {w : Warp}

theorem wrK_warp? (hw : s.warp? a.bid a.wi = some (blk, w)) (d : BitVec 8) (sd : Bool) (m : Mask) (f : Nat → KVal) :
    ∃ blk', (s.wrK a d sd m f).warp? a.bid a.wi = some (blk', w.putD d sd m f) := by
  unfold State.wrK Warp.putD
  split
  · exact ⟨_, warp?_updWarp_self hw _⟩
  · split
    · exact ⟨blk, hw⟩
    · have hset := warp?_setWarp hw (w.setVreg d.toNat ((w.vreg d.toNat).write m f))
      rw [State.wrVec, hw]
      exact ⟨_, (warp?_of_blocks (dropRefs_blocks _ _ _ _ _ _) _ _).trans hset⟩

/-- Retiring moves the paths of the acting warp alone. -/
theorem retire_warp? (hw : s.warp? a.bid a.wi = some (blk, w)) :
    ∃ blk' w', (s.retire a).warp? a.bid a.wi = some (blk', w') ∧ w.PathsOnly w' :=
  ⟨_, _, warp?_updWarp_self hw _, (Warp.PathsOnly.nextWord w a.slot).trans (.settled _)⟩

end

/-! ### Uniform tags (R111) -/

/-- Each vector register of the warp that is tagged uniform holds one plain value in its lanes. -/
def Warp.UniformSound (w : Warp) : Prop := ∀ n, (w.vreg n).uni = true → uniformLanes (w.vreg n).lanes = true

theorem uniform_write {r : VReg} {m : Mask} {f : Nat → KVal} (h : (r.write m f).uni = true) :
    uniformLanes (r.write m f).lanes = true :=
  (Bool.and_eq_true_iff.1 h).2

theorem Warp.UniformSound.putD {w : Warp} (h : w.UniformSound) (d : BitVec 8) (sd : Bool) (m : Mask) (f : Nat → KVal) :
    (w.putD d sd m f).UniformSound := by
  classical
  unfold Warp.putD
  split
  · exact h
  · split
    · exact h
    · intro k hk
      rw [vreg_setVreg] at hk ⊢
      split at hk
      next hc => rw [if_pos hc]; exact uniform_write hk
      next hc => rw [if_neg hc]; exact h k hk

theorem Warp.UniformSound.pathsOnly {w w' : Warp} (h : w.UniformSound) (hp : w.PathsOnly w') : w'.UniformSound := by
  intro n
  have hn : w'.vreg n = w.vreg n := hp.field (fun w => w.vreg n)
  rw [hn]
  exact h n

/-- An instruction that writes a plain destination and retires keeps the tags of its warp sound. -/
theorem uniformSound_of_wr {s : State} {a : Actx} {i : Instr} {d : BitVec 8} {sd : Bool} {m : Mask} {v : Nat → Word}
    (ha : s.actx = some a) (h : a.w.UniformSound) (hexec : exec i s = .next ((s.wr a d sd m v).retire a)) :
    ∃ t blk w, exec i s = .next t ∧ t.warp? a.bid a.wi = some (blk, w) ∧ w.UniformSound := by
  obtain ⟨-, hw, -⟩ := actx_eq_some ha
  obtain ⟨blk1, hwr⟩ := wrK_warp? hw d sd m fun l => KVal.plain (v l)
  obtain ⟨blk2, w2, hretire, hpaths⟩ := retire_warp? hwr
  exact ⟨_, blk2, w2, hexec, hretire, (h.putD d sd m _).pathsOnly hpaths⟩

/-! ### The instructions of the two tables -/

/-- An instruction of a row, with plain sources, writes some word in each active lane of D and retires. -/
def Row.Writes (r : Row) (o : Opnds) : Prop :=
  ∀ (s : State) (a : Actx), s.ActsOn a o r.xs → ∃ v, exec r.i s = .next ((s.wr a o.d o.sd (a.lanes o) v).retire a)

theorem Row.writes_of_capable {o : Opnds} {i : Instr} {xs : List Src} {f : Word → Word → Word → Word} {fn : HomeFn}
    (hexec : ∀ s, exec i s = s.capable o (.reg o.d o.sd) xs fn) : (⟨i, xs, f⟩ : Row).Writes o :=
  fun s _ h => ⟨_, (hexec s).trans (capable_acts h _ _)⟩

theorem Row.writes_of_plainOp {o : Opnds} {i : Instr} {xs : List Src} {f : Word → Word → Word → Word} {g : State → Actx → Nat → Word}
    (hexec : ∀ s, exec i s = s.plainOp o xs (g s)) : (⟨i, xs, f⟩ : Row).Writes o :=
  fun s _ h => ⟨_, (hexec s).trans (plainOp_acts h _)⟩

/-- An immediate among the sources holds no proxy. -/
theorem actsOn_of_imm {s : State} {a : Actx} {o : Opnds} {x : Src} {v : Word} (h : s.ActsOn a o [x, .imm v]) : s.ActsOn a o [x] := by
  obtain ⟨hacts, hpx⟩ := h
  rw [anyPx_cons, Bool.or_eq_false_iff] at hpx
  exact ⟨hacts, hpx.1⟩

theorem integerRows_write (h : BitVec 3) (o : Opnds) : ∀ r ∈ integerRows h o, r.Writes o :=
  fun r hr s a hacts => ⟨_, integerResults h o r hr s a hacts⟩

theorem floatRows_write (fn : SfFn) (fmt : BitVec 3) (o : Opnds) : ∀ r ∈ floatRows fn fmt o, r.Writes o := by
  simp only [floatRows, List.forall_mem_append, List.forall_mem_cons, List.not_mem_nil, IsEmpty.forall_iff, implies_true, and_true,
    ← immFp_eq]
  exact ⟨⟨Row.writes_of_capable (exec_faddReg o), Row.writes_of_capable (exec_faddImm o), Row.writes_of_capable (exec_fmulReg o),
      Row.writes_of_capable (exec_fmulImm o), Row.writes_of_capable (exec_ffma o), Row.writes_of_capable (exec_fminReg o),
      Row.writes_of_capable (exec_fminImm o), Row.writes_of_capable (exec_fmaxReg o), Row.writes_of_capable (exec_fmaxImm o),
      Row.writes_of_plainOp (exec_fsfun fn o), Row.writes_of_plainOp (exec_hadd2Reg o),
      fun s _ h => ⟨_, (exec_hadd2Imm o s).trans (plainOp_acts (actsOn_of_imm h) _)⟩, Row.writes_of_plainOp (exec_hmul2Reg o),
      fun s _ h => ⟨_, (exec_hmul2Imm o s).trans (plainOp_acts (actsOn_of_imm h) _)⟩⟩,
    Row.writes_of_plainOp (exec_hfma2 o), Row.writes_of_plainOp (exec_fdot2 o), Row.writes_of_plainOp (exec_fclass o),
    Row.writes_of_capable (exec_cvt o), Row.writes_of_plainOp (exec_pack fmt o), Row.writes_of_plainOp (exec_unpack fmt o),
    Row.writes_of_plainOp (exec_rxcvtDec o)⟩

/-- Settles O17: each instruction writes plain words to its destination, and a write tags a register uniform only where it is. -/
theorem uniformTagIsSound : Obligations.UniformTagIsSound := by
  refine ⟨?rows, ?mov, ?movi⟩
  case rows =>
    intro h fn o r hr s a hacts hsound
    have hwrites : r.Writes o := (List.mem_append.1 hr).elim (integerRows_write h o r) (floatRows_write fn h o r)
    obtain ⟨v, hexec⟩ := hwrites s a hacts
    exact uniformSound_of_wr hacts.1.1 hsound hexec
  case mov =>
    intro o s a hacts hsound
    exact uniformSound_of_wr hacts.1.1 hsound (predicateResultsAndMoves.2.1 o s a hacts)
  case movi =>
    intro o s a ha hsound
    exact uniformSound_of_wr ha hsound (moviWritesItsImmediate o s a ha).1

end Sys2Proof.Machine
end

section
/-!
PROOF. What proxy words name, and what operations on runs, references and requests leave standing.
-/
namespace Sys2Proof.Machine
open Sys2Proof

/-! ### The fields of a proxy word (R258, R259) -/

theorem toNat_mkProxy (home slot ext fmt : Nat) (pend : Bool) : (mkProxy home slot ext fmt pend).toNat =
    home % 256 * 2 ^ 24 + slot % 2 ^ 15 * 2 ^ 9 + ext % 8 * 64 + fmt % 16 * 4 + (if pend then 2 else 0) := by
  rw [mkProxy, BitVec.toNat_ofNat, Nat.mod_eq_of_lt]
  split <;> omega

section
variable {home slot ext fmt : Nat}

theorem pxHome_mkProxy (h : home < 256) : pxHome (mkProxy home slot ext fmt true) = home := by
  simp only [pxHome, bits, toNat_mkProxy, Nat.shiftRight_eq_div_pow, if_true]
  omega

theorem pxSlot_mkProxy (h : slot < 2 ^ 15) : pxSlot (mkProxy home slot ext fmt true) = slot := by
  have hstale : pxStale (mkProxy home slot ext fmt true) = false := by
    rw [pxStale, BitVec.getLsbD, toNat_mkProxy, Nat.testBit_zero, if_pos rfl, decide_eq_false_iff_not]
    omega
  simp only [pxSlot, hstale, bits, toNat_mkProxy, Nat.shiftRight_eq_div_pow, if_true, Bool.false_eq_true, if_false]
  omega

theorem pxExt_mkProxy (h : ext < 8) : pxExt (mkProxy home slot ext fmt true) = ext := by
  simp only [pxExt, bits, toNat_mkProxy, Nat.shiftRight_eq_div_pow, if_true]
  omega

theorem pxFmt_mkProxy (h : fmt < 16) : pxFmt (mkProxy home slot ext fmt true) = fmt := by
  simp only [pxFmt, bits, toNat_mkProxy, Nat.shiftRight_eq_div_pow, if_true]
  omega

theorem pxPend_mkProxy : pxPend (mkProxy home slot ext fmt true) = true := by
  rw [pxPend, BitVec.getLsbD, toNat_mkProxy, Nat.testBit_eq_decide_div_mod_eq, decide_eq_true_iff, if_pos rfl]
  omega

end

theorem pxExt_lt (w : Word) : pxExt w < 8 := Nat.mod_lt _ (by decide)

theorem pxFmt_lt (w : Word) : pxFmt w < 16 := Nat.mod_lt _ (by decide)

theorem foldl_max_lt {n : Nat} : ∀ {l : List Nat} {k : Nat}, k < n → (∀ x ∈ l, x < n) → l.foldl max k < n
  | [], _, hk, _ => hk
  | x :: xs, _, hk, h =>
    foldl_max_lt (l := xs) (Nat.max_lt.2 ⟨hk, h x List.mem_cons_self⟩) fun y hy => h y (List.mem_cons_of_mem _ hy)

theorem resultExt_lt (ws : List Word) : resultExt ws < 8 := by
  refine foldl_max_lt (by decide) fun x hx => ?_
  obtain ⟨w, -, rfl⟩ := List.mem_map.1 hx
  exact pxExt_lt w

theorem resultFmt_lt (fn : HomeFn) (first : Word) : resultFmt fn first < 16 := by
  have hfirst := pxFmt_lt first
  unfold resultFmt
  split
  case h_1 | h_2 => decide
  case h_3 | h_4 => split <;> decide
  case h_5 => exact hfirst

/-! ### Runs and requests that stand (R267, R269) -/

/-- Every run of every home still stands in `t`, but for its counts, and every request still waits. -/
structure State.KeepsProxies (s t : State) : Prop where
  runs : ∀ home, ∀ r ∈ (s.home home).runs, ∃ r' ∈ (t.home home).runs,
    r'.slot = r.slot ∧ r'.ext = r.ext ∧ r'.ctx = r.ctx ∧ r'.formed = r.formed
  reqs : ∀ q ∈ s.pxReqs, q ∈ t.pxReqs

/-- A run of the context stands at a slot of a home, its value not formed. -/
def State.unformedRun (t : State) (ctx home slot ext : Nat) : Prop :=
  ∃ r ∈ (t.home home).runs, r.slot = slot ∧ r.ext = ext ∧ r.ctx = ctx ∧ r.formed = false

namespace State.KeepsProxies
variable {s t u : State}

theorem of_eq (hh : t.homes = s.homes) (hq : t.pxReqs = s.pxReqs) : s.KeepsProxies t :=
  ⟨fun home r hr => ⟨r, home_of_homes hh home ▸ hr, rfl, rfl, rfl, rfl⟩, fun _ h => hq ▸ h⟩

theorem refl (s : State) : s.KeepsProxies s := of_eq rfl rfl

theorem trans (h : s.KeepsProxies t) (h' : t.KeepsProxies u) : s.KeepsProxies u := by
  refine ⟨fun home r hr => ?_, fun q hq => h'.reqs q (h.reqs q hq)⟩
  obtain ⟨r1, hr1, hslot, hext, hctx, hformed⟩ := h.runs home r hr
  obtain ⟨r2, hr2, hslot', hext', hctx', hformed'⟩ := h'.runs home r1 hr1
  exact ⟨r2, hr2, hslot'.trans hslot, hext'.trans hext, hctx'.trans hctx, hformed'.trans hformed⟩

theorem asks (h : s.KeepsProxies t) {core home : Nat} {k : PxKind} (ha : s.asks core home k) : t.asks core home k := by
  obtain ⟨q, hq, hrest⟩ := ha
  exact ⟨q, h.reqs q hq, hrest⟩

theorem unformedRun (h : s.KeepsProxies t) {ctx home slot ext : Nat} (hr : s.unformedRun ctx home slot ext) :
    t.unformedRun ctx home slot ext := by
  obtain ⟨r, hr, hslot, hext, hctx, hformed⟩ := hr
  obtain ⟨r', hr', hslot', hext', hctx', hformed'⟩ := h.runs home r hr
  exact ⟨r', hr', hslot'.trans hslot, hext'.trans hext, hctx'.trans hctx, hformed'.trans hformed⟩

/-- One home's runs change in their counts alone, and may be joined by others. -/
theorem setHome {n : Nat} {x : Home} (h : ∀ r ∈ (s.home n).runs, ∃ r' ∈ x.runs,
    r'.slot = r.slot ∧ r'.ext = r.ext ∧ r'.ctx = r.ctx ∧ r'.formed = r.formed) : s.KeepsProxies (s.setHome n x) := by
  refine ⟨fun home r hr => ?_, fun _ hq => hq⟩
  have hhome : (s.setHome n x).home home = if home = n ∧ n < s.homes.length then x else s.home home := nth_setNth _ _ _ _ _
  rw [hhome]
  split
  next hc => exact h r (hc.1 ▸ hr)
  next => exact ⟨r, hr, rfl, rfl, rfl, rfl⟩

theorem addRun (s : State) (home : Nat) (r : Run) : s.KeepsProxies (s.addRun home r) :=
  setHome fun x hx => ⟨x, List.mem_append_left _ hx, rfl, rfl, rfl, rfl⟩

theorem mem_replaceRun {old new r : Run} : ∀ {rs : List Run}, r ∈ rs → ∃ r' ∈ replaceRun old new rs, r' = r ∨ (r = old ∧ r' = new)
  | x :: xs, h => by
    unfold replaceRun
    obtain rfl | h := List.mem_cons.1 h
    · split
      next he => exact ⟨new, List.mem_cons_self, .inr ⟨he, rfl⟩⟩
      next => exact ⟨r, List.mem_cons_self, .inl rfl⟩
    · split
      next => exact ⟨r, List.mem_cons_of_mem _ h, .inl rfl⟩
      next =>
        obtain ⟨r', hr', he⟩ := mem_replaceRun h
        exact ⟨r', List.mem_cons_of_mem _ hr', he⟩

theorem setRun (s : State) (home : Nat) (r : Run) (count refs : Nat) :
    s.KeepsProxies (s.setRun home r { r with count := count, refs := refs }) := by
  refine setHome fun x hx => ?_
  obtain ⟨x', hx', rfl | ⟨rfl, rfl⟩⟩ := mem_replaceRun (old := r) (new := { r with count := count, refs := refs }) hx
  · exact ⟨x', hx', rfl, rfl, rfl, rfl⟩
  · exact ⟨_, hx', rfl, rfl, rfl, rfl⟩

theorem addRefs (s : State) (home slot n : Nat) : s.KeepsProxies (s.addRefs home slot n) := by
  unfold State.addRefs
  split
  next r _ => exact setRun s home r _ _
  next => exact refl s

theorem mem_unrefRun {slot : Nat} {r : Run} : ∀ {rs : List Run}, r ∈ rs → ∃ r' ∈ unrefRun slot rs,
    r'.slot = r.slot ∧ r'.ext = r.ext ∧ r'.ctx = r.ctx ∧ r'.formed = r.formed
  | x :: xs, h => by
    unfold unrefRun
    obtain rfl | h := List.mem_cons.1 h
    · split
      · exact ⟨_, List.mem_cons_self, rfl, rfl, rfl, rfl⟩
      · exact ⟨r, List.mem_cons_self, rfl, rfl, rfl, rfl⟩
    · split
      · exact ⟨r, List.mem_cons_of_mem _ h, rfl, rfl, rfl, rfl⟩
      · obtain ⟨r', hr', he⟩ := mem_unrefRun h
        exact ⟨r', List.mem_cons_of_mem _ hr', he⟩

theorem unref (s : State) (core home slot : Nat) : s.KeepsProxies (s.unref core home slot) := by
  unfold State.unref
  split
  · exact setHome fun _ => mem_unrefRun
  · exact refl s

theorem pushReq (s : State) (core home ctx b wi slot : Nat) (k : PxKind) : s.KeepsProxies (s.pushReq core home ctx b wi slot k) :=
  ⟨fun _ r hr => ⟨r, hr, rfl, rfl, rfl, rfl⟩, fun _ hq => List.mem_append_left _ hq⟩

theorem dropRefs (core ctx b wi : Nat) : ∀ (hs : List Word) (s : State), s.KeepsProxies (s.dropRefs core ctx b wi hs)
  | [], s => refl s
  | h :: hs, s => by
    refine trans ?_ (dropRefs core ctx b wi hs _)
    split
    · exact refl s
    · exact (unref s core _ _).trans (pushReq _ _ _ _ _ _ _ _)

theorem foldl {α : Type} {f : State → α → State} (hf : ∀ (s : State) (x : α), s.KeepsProxies (f s x)) :
    ∀ (l : List α) (s : State), s.KeepsProxies (l.foldl f s)
  | [], s => refl s
  | x :: xs, s => (hf s x).trans (foldl hf xs _)

theorem updWarp (s : State) (b wi : Nat) (f : Warp → Warp) : s.KeepsProxies (s.updWarp b wi f) :=
  of_eq (State.updWarp_homes s b wi f) (State.updWarp_pxReqs s b wi f)

theorem setWarp (s : State) (blk : Block) (wi : Nat) (w : Warp) : s.KeepsProxies (s.setWarp blk wi w) := of_eq rfl rfl

theorem touchChunk (s : State) (core home slot : Nat) : s.KeepsProxies (s.touchChunk core home slot) := of_eq rfl rfl

theorem wrK (s : State) (a : Actx) (d : BitVec 8) (sd : Bool) (m : Mask) (f : Nat → KVal) : s.KeepsProxies (s.wrK a d sd m f) := by
  unfold State.wrK
  split
  · exact updWarp s _ _ _
  · split
    · exact refl s
    · unfold State.wrVec
      split
      · exact refl s
      next blk w _ => exact (setWarp s _ _ _).trans (dropRefs _ _ _ _ _ _)

theorem wrPred (s : State) (a : Actx) (n : Nat) (m : Mask) (f : Nat → PredLane) : s.KeepsProxies (s.wrPred a n m f) := by
  unfold State.wrPred State.setPreds
  split
  · exact refl s
  · split
    · exact refl s
    next blk w _ => exact (setWarp s _ _ _).trans (dropRefs _ _ _ _ _ _)

theorem writePx (s : State) (a : Actx) (dst : PxDst) (m : Mask) (isPx : Nat → Bool) (handle plain : Nat → Word) :
    s.KeepsProxies (s.writePx a dst m isPx handle plain) := by
  cases dst with
  | reg d sd => exact wrK s a d sd m _
  | pred n => exact wrPred s a n m _

theorem retire (s : State) (a : Actx) : s.KeepsProxies (s.retire a) := updWarp s _ _ _

end State.KeepsProxies

/-- The handle made for a run of its own names it. -/
theorem newRun_mkProxy {t : State} {ctx home slot ext : Nat} (h : t.unformedRun ctx home slot ext) (hhome : home < 256)
    (hslot : slot < 2 ^ 15) (hext : ext < 8) (fmt : Nat) : t.newRun ctx home ext (mkProxy home slot ext fmt true) := by
  refine ⟨pxHome_mkProxy hhome, pxExt_mkProxy hext, pxPend_mkProxy, ?_⟩
  rwa [pxSlot_mkProxy hslot]

/-! ### Requests sent one after another (R267) -/

theorem pushReqs_spec {α : Type} (core ctx b wi slot : Nat) (home : α → Nat) (kind : α → PxKind) : ∀ (l : List α) (s : State),
    let t := l.foldl (fun (s : State) x => s.pushReq core (home x) ctx b wi slot (kind x)) s
    t.blocks = s.blocks ∧ t.homes = s.homes ∧ ∀ x ∈ l, t.asks core (home x) (kind x)
  | [], _ => ⟨rfl, rfl, fun _ h => absurd h (List.not_mem_nil)⟩
  | x :: xs, s => by
    obtain ⟨hblocks, hhomes, hasks⟩ := pushReqs_spec core ctx b wi slot home kind xs (s.pushReq core (home x) ctx b wi slot (kind x))
    refine ⟨hblocks, hhomes, fun y hy => ?_⟩
    obtain rfl | hy := List.mem_cons.1 hy
    · refine (State.KeepsProxies.foldl (fun s z => .pushReq s core (home z) ctx b wi slot (kind z)) xs _).asks ?_
      exact ⟨_, List.mem_append_right _ (List.mem_singleton_self _), rfl, rfl, rfl, rfl⟩
    · exact hasks y hy

/-! ### Runs taken from a reservation (R261) -/

/-- The run that a capable instruction takes at a slot. -/
def freshRun (ctx slot ext count : Nat) : Run :=
  { slot := slot, ext := ext, count := count, refs := count, ctx := ctx, formed := false, temp := false }

theorem takeRuns_cons {s t : State} {core ctx home ext count : Nat} {rest : List (Nat × Nat × Nat)} {slots : List Nat}
    (h : s.takeRuns core ctx ((home, ext, count) :: rest) = .ok (slots, t)) : ∃ slot rest', slots = slot :: rest' ∧
      s.freeRun core home ext = some slot ∧
      ((s.addRun home (freshRun ctx slot ext count)).touchChunk core home slot).takeRuns core ctx rest = .ok (rest', t) := by
  rw [State.takeRuns] at h
  split at h
  next => simp at h
  next slot hslot =>
    have hfree : s.freeRun core home ext = some slot := by
      split at hslot
      · simp at hslot
      · exact hslot
    dsimp only at h
    split at h
    next => simp at h
    next rest' t' hrest =>
      simp only [Except.ok.injEq, Prod.mk.injEq] at h
      obtain ⟨rfl, rfl⟩ := h
      exact ⟨slot, rest', rfl, hfree, hrest⟩

/-- A slot that a reservation gives lies in a chunk of it, and so in the store. -/
theorem freeRun_lt {s : State} {core home ext slot : Nat} (hok : s.storesOk core) (h : s.freeRun core home ext = some slot) :
    slot < 2 ^ 15 := by
  have hmem : slot ∈ (s.core core).candidates home (runSlots ext) := List.mem_of_find?_eq_some h
  obtain ⟨base, hbase, hslot⟩ := List.mem_flatMap.1 (mem_sortBy.1 hmem)
  obtain ⟨i, hi, rfl⟩ := List.mem_map.1 hslot
  obtain ⟨k, hk, rfl⟩ := List.mem_map.1 hbase
  have hbound := hok.2 k (List.mem_filter.1 hk).1
  have hlt : runSlots ext * i < 8 := by
    have hi := List.mem_range.1 hi
    have hpos : 0 < runSlots ext := by
      have := Nat.two_pow_pos ext
      unfold runSlots
      omega
    calc runSlots ext * i < runSlots ext * (8 / runSlots ext) := Nat.mul_lt_mul_of_pos_left hi hpos
      _ ≤ 8 := Nat.mul_div_le 8 _
  omega

theorem core_touchChunk (s : State) (core home slot : Nat) :
    ∀ k ∈ ((s.touchChunk core home slot).core core).chunks, ∃ k0 ∈ (s.core core).chunks, k.base = k0.base := by
  intro k hk
  have hcore : (s.touchChunk core home slot).core core = if core = core ∧ core < s.cores.length then _ else s.core core :=
    nth_setNth _ _ _ _ _
  rw [hcore] at hk
  split at hk
  · obtain ⟨k0, hk0, rfl⟩ := List.mem_map.1 hk
    refine ⟨k0, hk0, ?_⟩
    split <;> rfl
  · exact ⟨k, hk, rfl⟩

/-- One run taken leaves the stores' sizes as they are. -/
theorem storesOk_take {s : State} {core : Nat} (h : s.storesOk core) (home slot : Nat) (r : Run) :
    ((s.addRun home r).touchChunk core home slot).storesOk core := by
  refine ⟨le_of_eq_of_le (setNth_length _ _ _) h.1, fun k hk => ?_⟩
  obtain ⟨k0, hk0, he⟩ := core_touchChunk _ _ _ _ k hk
  exact he ▸ h.2 k0 hk0

theorem takeRuns_frame {core ctx : Nat} : ∀ {runs : List (Nat × Nat × Nat)} {s t : State} {slots : List Nat},
    s.takeRuns core ctx runs = .ok (slots, t) →
      t.blocks = s.blocks ∧ t.homes.length = s.homes.length ∧ slots.length = runs.length ∧ s.KeepsProxies t
  | [], s, t, slots, h => by
    simp only [State.takeRuns, Except.ok.injEq, Prod.mk.injEq] at h
    obtain ⟨rfl, rfl⟩ := h
    exact ⟨rfl, rfl, rfl, .refl s⟩
  | (home, ext, count) :: rest, s, t, slots, h => by
    obtain ⟨slot, rest', rfl, -, hrest⟩ := takeRuns_cons h
    obtain ⟨hblocks, hlen, hslots, hkeeps⟩ := takeRuns_frame hrest
    refine ⟨hblocks, hlen.trans (setNth_length _ _ _), by simp [hslots], ?_⟩
    exact (State.KeepsProxies.addRun s home _).trans ((State.KeepsProxies.touchChunk _ core home slot).trans hkeeps)

/-- Each run taken stands at its home under the slot that the reservation gave it. -/
theorem takeRuns_runs {core ctx : Nat} : ∀ {runs : List (Nat × Nat × Nat)} {s t : State} {slots : List Nat},
    s.takeRuns core ctx runs = .ok (slots, t) → s.storesOk core → (∀ r ∈ runs, r.1 < s.homes.length) →
      ∀ x ∈ runs.zip slots, x.2 < 2 ^ 15 ∧ t.unformedRun ctx x.1.1 x.2 x.1.2.1
  | [], _, _, _, _, _, _, _, hx => absurd hx (by simp)
  | (home, ext, count) :: rest, s, t, slots, h, hok, hhomes, x, hx => by
    obtain ⟨slot, rest', rfl, hfree, hrest⟩ := takeRuns_cons h
    obtain rfl | hx := List.mem_cons.1 hx
    · refine ⟨freeRun_lt hok hfree, (takeRuns_frame hrest).2.2.2.unformedRun ?_⟩
      have hhome : ((s.addRun home (freshRun ctx slot ext count)).touchChunk core home slot).home home =
          { s.home home with runs := (s.home home).runs ++ [freshRun ctx slot ext count] } :=
        s.home_setHome_self _ (hhomes _ List.mem_cons_self)
      exact ⟨freshRun ctx slot ext count, by rw [hhome]; simp, rfl, rfl, rfl, rfl⟩
    · refine takeRuns_runs hrest (storesOk_take hok _ _ _) (fun r hr => ?_) x hx
      exact lt_of_lt_of_eq (hhomes r (List.mem_cons_of_mem _ hr)) (setNth_length _ _ _).symm

/-- The same for runs that are listed for other things, each with the slot that its own run was given. -/
theorem takeRuns_zip {α : Type} {f : α → Nat × Nat × Nat} {xs : List α} {core ctx : Nat} {s t : State} {slots : List Nat}
    (h : s.takeRuns core ctx (xs.map f) = .ok (slots, t)) (hok : s.storesOk core) (hhomes : ∀ x ∈ xs, (f x).1 < s.homes.length) :
    slots.length = xs.length ∧ ∀ x slot, (x, slot) ∈ xs.zip slots → slot < 2 ^ 15 ∧ t.unformedRun ctx (f x).1 slot (f x).2.1 := by
  refine ⟨(takeRuns_frame h).2.2.1.trans (List.length_map _), fun x slot hx => ?_⟩
  refine takeRuns_runs h hok (List.forall_mem_map.2 hhomes) (f x, slot) ?_
  rw [List.zip_map_left]
  exact List.mem_map_of_mem hx

theorem exists_mem_zip {α β : Type} {xs : List α} {ys : List β} (hlen : ys.length = xs.length) {x : α} (hx : x ∈ xs) :
    ∃ y, (x, y) ∈ xs.zip ys := by
  obtain ⟨i, hi, rfl⟩ := List.getElem_of_mem hx
  refine ⟨ys[i], ?_⟩
  rw [← List.getElem_zip (h := by simp; omega)]
  exact List.getElem_mem _

end Sys2Proof.Machine
end

section
/-!
PROOF. Capable instructions with proxy sources: the checks, the runs taken and the requests sent (R264, R265, R271).
-/
namespace Sys2Proof.Machine
open Sys2Proof

/-! ### What a destination holds after a write (R264) -/

theorem pred_setPreds {w : Warp} {n l : Nat} (hn : n < 7) (hlen : n < w.preds.length) (f : Nat → PredLane) (hl : l < 32) :
    ({ w with preds := setNth w.preds n ((List.range 32).map f) } : Warp).pred n l = f l := by
  rw [Warp.pred, if_neg (by omega), nth_setNth_self _ _ _ _ hlen, nth_map_range _ _ hl]

theorem wrPred_warp? {s : State} {a : Actx} {blk : Block} {w : Warp} (hw : s.warp? a.bid a.wi = some (blk, w)) {n : Nat} (hn : n < 7)
    (hlen : n < w.preds.length) (m : Mask) (f : Nat → PredLane) : ∃ blk' w', (s.wrPred a n m f).warp? a.bid a.wi = some (blk', w') ∧
      ∀ l, l < 32 → m.getLsbD l = true → w'.pred n l = f l := by
  have hset := warp?_setWarp hw
    { w with preds := setNth w.preds n ((List.range 32).map fun l => if m.getLsbD l then f l else w.pred n l) }
  rw [State.wrPred, State.setPreds, if_neg (by omega), hw]
  refine ⟨_, _, (warp?_of_blocks (dropRefs_blocks _ _ _ _ _ _) _ _).trans hset, fun l hl hm => ?_⟩
  rw [pred_setPreds hn hlen _ hl, if_pos hm]

theorem wrK_lane {s : State} {a : Actx} {blk : Block} {w : Warp} (hw : s.warp? a.bid a.wi = some (blk, w)) {d : BitVec 8}
    (hd : d ≠ 0xF3#8) (htakes : w.takes d false) (m : Mask) (f : Nat → KVal) :
    ∃ blk' w', (s.wrK a d false m f).warp? a.bid a.wi = some (blk', w') ∧
      ∀ l, l < 32 → m.getLsbD l = true → (w'.vreg d.toNat).lane l = f l := by
  classical
  obtain ⟨blk', hput⟩ := wrK_warp? hw d false m f
  refine ⟨blk', _, hput, fun l hl hm => ?_⟩
  have hreach : w.reaches d.toNat := (htakes : d = 0xF3#8 ∨ w.reaches d.toNat).resolve_left hd
  rw [Warp.putD, if_neg Bool.false_ne_true, if_neg hd, vreg_setVreg, if_pos ⟨rfl, hreach⟩, lane_write _ _ _ hl, if_pos hm]

/-- A destination that keeps a handle holds in each written lane the handle or the plain word. -/
theorem writePx_warp? {s : State} {a : Actx} {blk : Block} {w : Warp} (hw : s.warp? a.bid a.wi = some (blk, w)) {dst : PxDst}
    (hkeeps : dst.keeps w) (m : Mask) (isPx : Nat → Bool) (handle plain : Nat → Word) : ∃ blk' w',
      (s.writePx a dst m isPx handle plain).warp? a.bid a.wi = some (blk', w') ∧ ∀ l, l < 32 → m.getLsbD l = true →
        (isPx l = true → w'.hasHandle l (handle l) dst) ∧ (isPx l = false → w'.hasPlain l (plain l) dst) := by
  cases dst with
  | reg d sd =>
    obtain ⟨rfl, hd, htakes⟩ := hkeeps
    obtain ⟨blk', w', hw', hlane⟩ := wrK_lane hw hd htakes m fun l =>
      if isPx l then { val := handle l, px := true } else KVal.plain (plain l)
    refine ⟨blk', w', hw', fun l hl hm => ⟨fun hpx => ?_, fun hpx => ?_⟩⟩
    · exact (hlane l hl hm).trans (if_pos hpx)
    · exact (hlane l hl hm).trans (by rw [hpx]; rfl)
  | pred n =>
    obtain ⟨hn, hlen⟩ := hkeeps
    obtain ⟨blk', w', hw', hlane⟩ := wrPred_warp? hw hn hlen m fun l =>
      if isPx l then { val := false, px := some (handle l) } else { val := plain l != 0#32, px := none }
    refine ⟨blk', w', hw', fun l hl hm => ⟨fun hpx => ?_, fun hpx => ?_⟩⟩
    · exact (hlane l hl hm).trans (if_pos hpx)
    · exact (hlane l hl hm).trans (by rw [hpx]; rfl)

/-- The same once the instruction has retired; the runs and requests stand. -/
theorem writePx_retire {s : State} {a : Actx} {blk : Block} {w : Warp} (hw : s.warp? a.bid a.wi = some (blk, w)) {dst : PxDst}
    (hkeeps : dst.keeps w) (m : Mask) (isPx : Nat → Bool) (handle plain : Nat → Word) :
    s.KeepsProxies ((s.writePx a dst m isPx handle plain).retire a) ∧ ∃ blk' w',
      ((s.writePx a dst m isPx handle plain).retire a).warp? a.bid a.wi = some (blk', w') ∧ ∀ l, l < 32 → m.getLsbD l = true →
        (isPx l = true → w'.hasHandle l (handle l) dst) ∧ (isPx l = false → w'.hasPlain l (plain l) dst) := by
  obtain ⟨blk1, w1, hw1, hlanes⟩ := writePx_warp? hw hkeeps m isPx handle plain
  obtain ⟨blk2, w2, hw2, hpaths⟩ := retire_warp? hw1
  have hhandle (l : Nat) : w2.hasHandle l (handle l) dst = w1.hasHandle l (handle l) dst :=
    hpaths.field fun w => w.hasHandle l (handle l) dst
  have hplain (l : Nat) : w2.hasPlain l (plain l) dst = w1.hasPlain l (plain l) dst :=
    hpaths.field fun w => w.hasPlain l (plain l) dst
  refine ⟨(State.KeepsProxies.writePx s a dst m isPx handle plain).trans (.retire _ a), blk2, w2, hw2, fun l hl hm => ?_⟩
  rw [hhandle, hplain]
  exact hlanes l hl hm

/-! ### Lanes with proxy sources -/

/-- The active lanes with a proxy among their sources. -/
def pxLanes (m : Mask) (ks : Nat → List KVal) : List Nat := (lanesOf m).filter fun l => !(proxiesOf (ks l)).isEmpty

/-- Proxy sources of one lane whose extents the instruction does not accept (R264, R265). -/
def PxClash (fn : HomeFn) (ks : List KVal) : Prop :=
  extClash (proxiesOf ks) = true ∨ (fn.compares = true ∧ ∃ w ∈ proxiesOf ks, pxExt w ≠ 0)

theorem any_px_eq (ks : List KVal) : ks.any (·.px) = !(proxiesOf ks).isEmpty := by
  rw [Bool.eq_iff_iff]
  simp [proxiesOf]

theorem mem_pxLanes {m : Mask} {ks : Nat → List KVal} {l : Nat} : l ∈ pxLanes m ks ↔ m.getLsbD l = true ∧ proxiesOf (ks l) ≠ [] := by
  simp [pxLanes, mem_lanesOf]

theorem pxLanes_sorted (m : Mask) (ks : Nat → List KVal) : (pxLanes m ks).Pairwise (· < ·) := (lanesOf_sorted m).filter _

section
variable {s : State} {a : Actx} {m : Mask} {dst : PxDst} {fn : HomeFn} {ks : Nat → List KVal} {plain : Nat → Word}

/-- The check of extents, as `capableLanes` makes it. -/
def extBad (fn : HomeFn) (m : Mask) (ks : Nat → List KVal) : Bool :=
  let ws := (pxLanes m ks).map fun l => proxiesOf (ks l)
  ws.any extClash || (fn.compares && ws.any fun x => x.any fun w => pxExt w != 0)

theorem extBad_iff : extBad fn m ks = true ↔ ∃ l, m.getLsbD l = true ∧ PxClash fn (ks l) := by
  have hne {l : Nat} (h : PxClash fn (ks l)) : proxiesOf (ks l) ≠ [] := by
    intro he
    obtain h | ⟨-, w, hw, -⟩ := h
    · rw [he] at h
      exact absurd h (by decide)
    · exact absurd (he ▸ hw) (List.not_mem_nil)
  simp only [extBad, Bool.or_eq_true, Bool.and_eq_true, List.any_eq_true, List.mem_map, bne_iff_ne]
  constructor
  · rintro (⟨_, ⟨l, hl, rfl⟩, hx⟩ | ⟨hc, _, ⟨l, hl, rfl⟩, w, hw, hx⟩)
    · exact ⟨l, (mem_pxLanes.1 hl).1, .inl hx⟩
    · exact ⟨l, (mem_pxLanes.1 hl).1, .inr ⟨hc, w, hw, hx⟩⟩
  · rintro ⟨l, hl, hclash⟩
    have hmem := mem_pxLanes.2 ⟨hl, hne hclash⟩
    obtain hx | ⟨hc, w, hw, hx⟩ := hclash
    · exact .inl ⟨_, ⟨l, hmem, rfl⟩, hx⟩
    · exact .inr ⟨hc, _, ⟨l, hmem, rfl⟩, w, hw, hx⟩

/-- The home that the context has lost, the first in the order of the lanes and their sources (R271). -/
def State.lostHome (s : State) (a : Actx) (m : Mask) (ks : Nat → List KVal) : Option Nat :=
  (((pxLanes m ks).map fun l => proxiesOf (ks l)).flatMap fun x => x.map pxHome).find? fun h => (s.ctx a.blk.ctx).lost h

theorem capableLanes_eq : s.capableLanes a m dst fn ks plain =
    if extBad fn m ks then s.raise a Code.pxuse 0x03
    else if (pxLanes m ks).isEmpty then (s.writePx a dst m (fun _ => false) (fun _ => 0#32) plain).retire a
    else if dst = .pred 7 then s.retire a
    else
      match s.lostHome a m ks with
      | some h => s.raise a Code.pxlost h
      | none => s.formAtHome a m dst fn ks (pxLanes m ks) plain := by
  have hpl : (lanesOf m).filter (fun l => (ks l).any (·.px)) = pxLanes m ks :=
    List.filter_congr fun l _ => any_px_eq (ks l)
  unfold State.capableLanes
  rw [hpl]
  rfl

theorem capableLanes_clash (h : ∃ l, m.getLsbD l = true ∧ PxClash fn (ks l)) :
    s.capableLanes a m dst fn ks plain = s.raise a Code.pxuse 0x03 := by
  rw [capableLanes_eq, if_pos (extBad_iff.2 h)]

section
variable (hclear : ∀ l, m.getLsbD l = true → ¬ PxClash fn (ks l)) (hpx : ∃ l, m.getLsbD l = true ∧ proxiesOf (ks l) ≠ [])
include hclear hpx

theorem capableLanes_clear : s.capableLanes a m dst fn ks plain = if dst = .pred 7 then s.retire a
    else
      match s.lostHome a m ks with
      | some h => s.raise a Code.pxlost h
      | none => s.formAtHome a m dst fn ks (pxLanes m ks) plain := by
  have hbad : ¬ extBad fn m ks = true := fun h => by
    obtain ⟨l, hl, hclash⟩ := extBad_iff.1 h
    exact hclear l hl hclash
  obtain ⟨l, hl, hne⟩ := hpx
  have hsome : ¬ (pxLanes m ks).isEmpty = true := by
    rw [List.isEmpty_iff]
    exact List.ne_nil_of_mem (mem_pxLanes.2 ⟨hl, hne⟩)
  rw [capableLanes_eq, if_neg hbad, if_neg hsome]

theorem capableLanes_discards (hdst : dst = .pred 7) : s.capableLanes a m dst fn ks plain = s.retire a := by
  rw [capableLanes_clear hclear hpx, if_pos hdst]

theorem capableLanes_lost (hdst : dst ≠ .pred 7) {h : Nat} (hlost : s.lostHome a m ks = some h) :
    s.capableLanes a m dst fn ks plain = s.raise a Code.pxlost h := by
  rw [capableLanes_clear hclear hpx, if_neg hdst, hlost]

theorem capableLanes_forms (hdst : dst ≠ .pred 7) (hlost : s.lostHome a m ks = none) :
    s.capableLanes a m dst fn ks plain = s.formAtHome a m dst fn ks (pxLanes m ks) plain := by
  rw [capableLanes_clear hclear hpx, if_neg hdst, hlost]

end

theorem lostHome_none (h : ∀ l ∈ pxLanes m ks, ∀ w ∈ proxiesOf (ks l), (s.ctx a.blk.ctx).lost (pxHome w) = false) :
    s.lostHome a m ks = none := by
  simp only [State.lostHome, List.find?_eq_none, List.mem_flatMap, List.mem_map]
  rintro _ ⟨_, ⟨l, hl, rfl⟩, w, hw, rfl⟩
  rw [h l hl w hw]
  exact Bool.false_ne_true

/-- The first proxy of the lowest lane that has one at a lost home decides. -/
theorem lostHome_some {l : Nat} {w : Word} {ws : List Word} (hm : m.getLsbD l = true) (hl : proxiesOf (ks l) = w :: ws)
    (hlost : (s.ctx a.blk.ctx).lost (pxHome w) = true)
    (hlow : ∀ k, k < l → m.getLsbD k = true → ∀ x ∈ proxiesOf (ks k), (s.ctx a.blk.ctx).lost (pxHome x) = false) :
    s.lostHome a m ks = some (pxHome w) := by
  have hmem : l ∈ pxLanes m ks := mem_pxLanes.2 ⟨hm, by simp [hl]⟩
  obtain ⟨before, after, hsplit⟩ := List.append_of_mem hmem
  have hbefore : ∀ k ∈ before, k < l ∧ m.getLsbD k = true := by
    intro k hk
    have hsorted := pxLanes_sorted m ks
    rw [hsplit, List.pairwise_append] at hsorted
    exact ⟨hsorted.2.2 k hk l List.mem_cons_self, (mem_pxLanes.1 (hsplit ▸ List.mem_append_left _ hk)).1⟩
  have hnone : ((before.map fun l => proxiesOf (ks l)).flatMap fun x => x.map pxHome).find?
      (fun h => (s.ctx a.blk.ctx).lost h) = none := by
    simp only [List.find?_eq_none, List.mem_flatMap, List.mem_map]
    rintro _ ⟨_, ⟨k, hk, rfl⟩, x, hx, rfl⟩
    rw [hlow k (hbefore k hk).1 (hbefore k hk).2 x hx]
    exact Bool.false_ne_true
  rw [State.lostHome, hsplit, List.map_append, List.flatMap_append, List.find?_append, hnone]
  simp [hl, hlost]

end

end Sys2Proof.Machine
end

section
/-!
PROOF. Capable instructions form the results of lanes with proxy sources at one home (R264).
-/
namespace Sys2Proof.Machine
open Sys2Proof

section
variable {s : State} {a : Actx} {m : Mask} {dst : PxDst} {fn : HomeFn} {ks : Nat → List KVal} {plain : Nat → Word}

/-! ### Sources at one home -/

/-- The proxies of each lane lie at the home of its first one. -/
def OneHome (m : Mask) (ks : Nat → List KVal) : Prop :=
  ∀ l ∈ pxLanes m ks, ∀ w ∈ proxiesOf (ks l), pxHome w = pxHome (nth 0#32 (proxiesOf (ks l)) 0)

theorem awayOf_oneHome {ws : List Word} (h : ∀ w ∈ ws, pxHome w = pxHome (nth 0#32 ws 0)) : awayOf ws = [] := by
  cases ws with
  | nil => rfl
  | cons w ws =>
    have hnone : (w :: ws).filter (fun x => pxHome x != pxHome w) = [] := by
      refine List.filter_eq_nil_iff.2 fun x hx => ?_
      rw [h x hx]
      simp [nth]
    rw [awayOf, hnone]
    rfl

theorem copies_oneHome (h : OneHome m ks) : distinct ((pxLanes m ks).flatMap fun l => awayOf (proxiesOf (ks l))) = [] := by
  have hnil : ((pxLanes m ks).flatMap fun l => awayOf (proxiesOf (ks l))) = [] :=
    List.flatMap_eq_nil_iff.2 fun l hl => awayOf_oneHome (h l hl)
  rw [hnil]
  rfl

/-- A home reads each source of such a lane where it lies. -/
theorem pxSrc_oneHome {home : Nat} {ls : List KVal} (h : ∀ w ∈ proxiesOf ls, pxHome w = home) :
    ls.map (s.pxSrc a home) = ls.map fun k =>
      if k.px then .run (pxHome k.val) (pxSlot k.val) (pxExt k.val) else .plain k.val := by
  refine List.map_congr_left fun k hk => ?_
  unfold State.pxSrc
  by_cases hpx : k.px = true
  · have hhome : pxHome k.val = home := h k.val (List.mem_map_of_mem (List.mem_filter.2 ⟨hk, hpx⟩))
    simp [hpx, hhome]
  · simp [hpx]

/-! ### The requests of the lanes -/

/-- The requests of the lanes with proxy sources, each once. -/
def State.groupsOf (s : State) (a : Actx) (m : Mask) (fn : HomeFn) (ks : Nat → List KVal) : List PxGroup :=
  distinct ((pxLanes m ks).map fun l => s.groupOf a fn (ks l))

/-- The runs that the results of the requests take: home, extent and count. -/
def State.groupRuns (s : State) (a : Actx) (m : Mask) (fn : HomeFn) (ks : Nat → List KVal) : List (Nat × Nat × Nat) :=
  (s.groupsOf a m fn ks).map fun g => (g.home, g.ext, ((pxLanes m ks).filter fun l => s.groupOf a fn (ks l) = g).length)

/-- The requests, each with the slot of its result, are sent (R264). -/
def State.sendGroups (s : State) (a : Actx) (gs : List (PxGroup × Nat)) : State :=
  gs.foldl (fun (s : State) (x : PxGroup × Nat) =>
    s.pushReq a.core x.1.home a.blk.ctx a.bid a.wi a.slot (.operate x.1.fn x.1.srcs x.2 x.1.ext)) s

theorem sendGroups_spec (gs : List (PxGroup × Nat)) : (s.sendGroups a gs).blocks = s.blocks ∧ s.KeepsProxies (s.sendGroups a gs) ∧
    ∀ x ∈ gs, (s.sendGroups a gs).asks a.core x.1.home (.operate x.1.fn x.1.srcs x.2 x.1.ext) := by
  obtain ⟨hblocks, -, hasks⟩ := pushReqs_spec a.core a.blk.ctx a.bid a.wi a.slot (fun x : PxGroup × Nat => x.1.home)
    (fun x => .operate x.1.fn x.1.srcs x.2 x.1.ext) gs s
  exact ⟨hblocks, .foldl (fun s x => .pushReq s _ _ _ _ _ _ _) gs s, hasks⟩

theorem useCopies_nil (s : State) (a : Actx) : s.useCopies a [] = s := by
  simp [State.useCopies]

theorem discards_of_keeps {w : Warp} (h : dst.keeps w) : dst.discards = false := by
  cases dst with
  | reg d sd =>
    obtain ⟨-, hd, -⟩ := h
    simp [PxDst.discards, hd]
  | pred n => rfl

/-- With every source at its home and the runs at hand, the requests are sent and the handles written. -/
theorem formAtHome_sends (hone : OneHome m ks) (hdst : dst.discards = false) {slots : List Nat} {t : State}
    (hruns : s.takeRuns a.core a.blk.ctx (s.groupRuns a m fn ks) = .ok (slots, t)) :
    s.formAtHome a m dst fn ks (pxLanes m ks) plain =
      let gs := (s.groupsOf a m fn ks).zip slots
      ((t.sendGroups a gs).writePx a dst m (fun l => (pxLanes m ks).contains l)
        (fun l => groupHandle gs (s.groupOf a fn (ks l))) plain).retire a := by
  rw [State.groupRuns] at hruns
  unfold State.formAtHome
  simp only [copies_oneHome hone, List.filter_nil, List.isEmpty_nil, Bool.not_true, Bool.false_eq_true, if_false, List.any_nil, hdst,
    ← State.groupsOf.eq_1, hruns, useCopies_nil, State.dropRefs]
  rfl

theorem groupHandle_eq {groups : List PxGroup} {slots : List Nat} (hlen : slots.length = groups.length) {g : PxGroup}
    (hg : g ∈ groups) :
    ∃ slot, (g, slot) ∈ groups.zip slots ∧ groupHandle (groups.zip slots) g = mkProxy g.home slot g.ext g.fmt true := by
  obtain ⟨_, hmem⟩ := exists_mem_zip hlen hg
  cases hfind : (groups.zip slots).find? fun x => x.1 = g with
  | none => exact absurd (List.find?_eq_none.1 hfind _ hmem) (by simp)
  | some x =>
    obtain ⟨g', slot⟩ := x
    obtain rfl : g' = g := by simpa using List.find?_some hfind
    exact ⟨slot, List.mem_of_find?_eq_some hfind, by rw [groupHandle, hfind]⟩

/-- A lane of the destination holds the pending handle of a run that the home of a request is asked to form. -/
def State.Forms (t : State) (a : Actx) (w : Warp) (l : Nat) (dst : PxDst) (g : PxGroup) : Prop :=
  ∃ slot, slot < 2 ^ 15 ∧ w.hasHandle l (mkProxy g.home slot g.ext g.fmt true) dst ∧
    t.unformedRun a.blk.ctx g.home slot g.ext ∧ t.asks a.core g.home (.operate g.fn g.srcs slot g.ext)

theorem first_mem {ws : List Word} (h : ws ≠ []) : nth 0#32 ws 0 ∈ ws := by
  cases ws with
  | nil => exact absurd rfl h
  | cons w ws => exact List.mem_cons_self

theorem groupsOf_home {n : Nat} (h : ∀ l ∈ pxLanes m ks, ∀ w ∈ proxiesOf (ks l), pxHome w < n) :
    ∀ g ∈ s.groupsOf a m fn ks, g.home < n := by
  intro g hg
  obtain ⟨l, hl, rfl⟩ := List.mem_map.1 (mem_distinct.1 hg)
  exact h l hl _ (first_mem (mem_pxLanes.1 hl).2)

/-- Once the requests are sent, every lane with a proxy source holds the pending handle of a run that its home is asked to form,
and every other active lane the plain word (R264). -/
theorem formAtHome_results {blk : Block} {w : Warp} (hw : s.warp? a.bid a.wi = some (blk, w)) (hkeeps : dst.keeps w)
    (hone : OneHome m ks) (hhomes : ∀ l ∈ pxLanes m ks, ∀ w ∈ proxiesOf (ks l), pxHome w < s.homes.length) (hok : s.storesOk a.core)
    {slots : List Nat} {u : State} (hruns : s.takeRuns a.core a.blk.ctx (s.groupRuns a m fn ks) = .ok (slots, u)) :
    ∃ t b1 w1, s.formAtHome a m dst fn ks (pxLanes m ks) plain = t ∧ t.warp? a.bid a.wi = some (b1, w1) ∧
      (∀ l, m.getLsbD l = true → proxiesOf (ks l) = [] → w1.hasPlain l (plain l) dst) ∧
      ∀ l ∈ pxLanes m ks, t.Forms a w1 l dst (s.groupOf a fn (ks l)) := by
  obtain ⟨hublocks, -, -, -⟩ := takeRuns_frame hruns
  obtain ⟨hlen, hstand⟩ := takeRuns_zip hruns hok (groupsOf_home hhomes)
  obtain ⟨hvblocks, hsent, hasks⟩ := sendGroups_spec (s := u) (a := a) ((s.groupsOf a m fn ks).zip slots)
  have hv := (warp?_of_blocks (hvblocks.trans hublocks) a.bid a.wi).trans hw
  obtain ⟨hend, b1, w1, hw1, hlanes⟩ := writePx_retire hv hkeeps m (fun l => (pxLanes m ks).contains l)
    (fun l => groupHandle ((s.groupsOf a m fn ks).zip slots) (s.groupOf a fn (ks l))) plain
  refine ⟨_, b1, w1, formAtHome_sends hone (discards_of_keeps hkeeps) hruns, hw1, fun l hl hnone => ?_, fun l hl => ?_⟩
  · refine (hlanes l (BitVec.lt_of_getLsbD hl) hl).2 ?_
    simp [mem_pxLanes, hnone]
  · have hm := (mem_pxLanes.1 hl).1
    have hgroup : s.groupOf a fn (ks l) ∈ s.groupsOf a m fn ks := mem_distinct.2 (List.mem_map_of_mem hl)
    obtain ⟨slot, hmem, hhandle⟩ := groupHandle_eq hlen hgroup
    obtain ⟨hslot, hrun⟩ := hstand _ slot hmem
    have hheld := (hlanes l (BitVec.lt_of_getLsbD hm) hm).1 (by simpa using hl)
    exact ⟨slot, hslot, hhandle ▸ hheld, (hsent.trans hend).unformedRun hrun, hend.asks (hasks _ hmem)⟩

end

end Sys2Proof.Machine
end

section
/-!
PROOF. The capable forms, register and immediate, and what becomes of their lanes with proxy sources (R115, R133, R278, R279).
-/
namespace Sys2Proof.Machine
open Sys2Proof

/-! ### Each form is a capable instruction over its sources -/

/-- PDOT's form, which checks its sources first (R278). -/
def pdotForm (o : Opnds) : CapableForm := ⟨.pdot o, [o.srcA, o.srcB, o.srcC], .reg o.d o.sd, .pdot 0 o.mod⟩

/-- The instruction of a form is `capable` over its sources. -/
def CapableForm.Runs (f : CapableForm) (o : Opnds) : Prop := ∀ s, exec f.i s = s.capable o f.dst f.xs f.fn

theorem capableForms_run (h cmp : BitVec 3) (op : PredOp) (o : Opnds) : ∀ f ∈ capableForms h cmp op o, f.Runs o ∨ f = pdotForm o := by
  simp only [capableForms, List.forall_mem_append, List.forall_mem_cons, List.not_mem_nil, IsEmpty.forall_iff, implies_true, and_true,
    ← immFp_eq]
  exact ⟨⟨.inl (exec_iaddReg o), .inl (exec_iaddImm o), .inl (exec_isubReg o), .inl (exec_isubImm o), .inl (exec_imulReg o),
      .inl (exec_imulImm o), .inl (exec_imad o), .inl (exec_iminReg o), .inl (exec_iminImm o), .inl (exec_imaxReg o),
      .inl (exec_imaxImm o), .inl (exec_itestReg o), .inl (exec_itestImm o), .inl (exec_blutReg h o), .inl (exec_blutImm h o),
      .inl (exec_shlReg o), .inl (exec_shlImm o), .inl (exec_shrReg o), .inl (exec_shrImm o)⟩,
    .inl (exec_faddReg o), .inl (exec_faddImm o), .inl (exec_fmulReg o), .inl (exec_fmulImm o), .inl (exec_ffma o),
      .inl (exec_fminReg o), .inl (exec_fminImm o), .inl (exec_fmaxReg o), .inl (exec_fmaxImm o), .inl (exec_fsetpReg cmp o),
      .inl (exec_fsetpImm cmp o), .inl (exec_cvt o), .inl (exec_pred op o), .inr rfl⟩

/-- PDOT goes on with proxies as its first two sources in every lane alone. -/
theorem px_of_pdotDetail {ls : List (KVal × KVal × KVal)} (h : pdotDetail ls = none) {x : KVal × KVal × KVal} (hx : x ∈ ls) :
    x.1.px = true ∧ x.2.1.px = true := by
  unfold pdotDetail at h
  dsimp only at h
  split at h
  · simp at h
  · split at h
    · simp at h
    · split at h
      · simp at h
      next hnot =>
        simp only [List.any_eq_true, not_exists, not_and, Bool.or_eq_true, Bool.not_eq_true', not_or, Bool.not_eq_false] at hnot
        exact hnot x hx

section
variable {s : State} {a : Actx} {o : Opnds} {f : CapableForm}

/-- The sources of PDOT pass its checks in the active lanes (R265, R278). -/
def State.pdotPasses (s : State) (a : Actx) (o : Opnds) : Prop :=
  pdotDetail ((lanesOf (a.lanes o)).map fun l => (s.src a o.srcA l, s.src a o.srcB l, s.src a o.srcC l)) = none

/-- What the sources of a form read in a lane. -/
def CapableForm.sources (f : CapableForm) (s : State) (a : Actx) (l : Nat) : List KVal := f.xs.map fun x => s.src a x l

/-- The plain result of a form in a lane. -/
def CapableForm.word (f : CapableForm) (s : State) (a : Actx) (l : Nat) : Word :=
  f.fn.word (s.operand a f.xs l 0) (s.operand a f.xs l 1) (s.operand a f.xs l 2)

theorem proxiesOf_eq_nil {ks : List KVal} : proxiesOf ks = [] ↔ ∀ k ∈ ks, k.px = false := by
  simp [proxiesOf]

/-- A form with plain sources in its active lanes writes the plain results. -/
theorem exec_form_plain (hruns : f.Runs o) (hacts : s.Acts a o.gn o.g)
    (hplain : ∀ l, (a.lanes o).getLsbD l = true → proxiesOf (f.sources s a l) = []) :
    exec f.i s = .next ((s.writePx a f.dst (a.lanes o) (fun _ => false) (fun _ => 0#32) (f.word s a)).retire a) := by
  have hpx : s.anyPx a (a.lanes o) f.xs = false := by
    simp only [State.anyPx, List.any_eq_false, Bool.not_eq_true]
    exact fun l hl x hx => proxiesOf_eq_nil.1 (hplain l (mem_lanesOf.1 hl)) _ (List.mem_map_of_mem hx)
  rw [hruns, capable_acts ⟨hacts, hpx⟩]
  rfl

/-- A form, and PDOT with sources that its checks accept, takes the course of its lanes; where a lane has no proxy source its plain
result is the form's word. -/
theorem exec_form (hf : f.Runs o ∨ f = pdotForm o) (hacts : s.Acts a o.gn o.g)
    (hdot : f.i = .pdot o → s.pdotPasses a o) :
    ∃ plain, (∀ l, (a.lanes o).getLsbD l = true → proxiesOf (f.sources s a l) = [] → plain l = f.word s a l) ∧
      exec f.i s = .next (s.capableLanes a (a.lanes o) f.dst f.fn (f.sources s a) plain) := by
  obtain hruns | rfl := hf
  · refine ⟨f.word s a, fun _ _ _ => rfl, ?_⟩
    rw [hruns, State.capable, run_acts hacts]
    simp only [nth_map_operand]
    rfl
  · have hdetail := hdot rfl
    refine ⟨fun _ => 0#32, fun l hl hnone => ?_, ?_⟩
    · have hA := (px_of_pdotDetail hdetail (List.mem_map_of_mem (mem_lanesOf.2 hl))).1
      have hA' := proxiesOf_eq_nil.1 hnone (s.src a o.srcA l) List.mem_cons_self
      rw [hA] at hA'
      exact absurd hA' (by decide)
    · change exec (.pdot o) s = _
      simp only [exec_pdot, execPdot, run_acts hacts]
      rw [hdetail]
      rfl

/-! ### Lanes with a proxy source -/

/-- A lane formed at a home holds a pending handle that names its run, and the home reads the lane's sources where they lie. -/
theorem newHandle_of_forms {t : State} {w : Warp} {l : Nat} {dst : PxDst} {fn : HomeFn} {ks : List KVal} {first : Word}
    (hfirst : first = nth 0#32 (proxiesOf ks) 0) (hone : ∀ x ∈ proxiesOf ks, pxHome x = pxHome first) (hhome : pxHome first < 256)
    (h : t.Forms a w l dst (s.groupOf a fn ks)) :
    let ext := if fn.reduces || fn.compares then 0 else resultExt (proxiesOf ks)
    ∃ x : Word, w.hasHandle l x dst ∧ pxFmt x = resultFmt (fn.of first) first ∧ t.newRun a.blk.ctx (pxHome first) ext x ∧
      t.asks a.core (pxHome first) (.operate (fn.of first) (ks.map fun k =>
        if k.px then .run (pxHome k.val) (pxSlot k.val) (pxExt k.val) else .plain k.val) (pxSlot x) ext) := by
  subst hfirst
  intro ext
  obtain ⟨slot, hslot, hheld, hrun, hasks⟩ := h
  have hext : ext < 8 := by
    unfold ext
    split
    · decide
    · exact resultExt_lt _
  refine ⟨_, hheld, pxFmt_mkProxy (resultFmt_lt _ _), newRun_mkProxy hrun hhome hslot hext _, ?_⟩
  rw [pxSlot_mkProxy hslot, ← pxSrc_oneHome (s := s) (a := a) hone]
  exact hasks

/-! ### What a form answers where a lane has a proxy source -/

section
variable (hform : f.Runs o ∨ f = pdotForm o) (hacts : s.Acts a o.gn o.g)
  (hdot : f.i = .pdot o → s.pdotPasses a o)
include hform hacts hdot

theorem exec_form_clash (h : ∃ l, (a.lanes o).getLsbD l = true ∧ PxClash f.fn (f.sources s a l)) :
    exec f.i s = .next (s.raise a Code.pxuse 0x03) := by
  obtain ⟨plain, -, hexec⟩ := exec_form hform hacts hdot
  rw [hexec, capableLanes_clash h]

variable (hclear : ∀ l, (a.lanes o).getLsbD l = true → ¬ PxClash f.fn (f.sources s a l))
  (hpx : ∃ l, (a.lanes o).getLsbD l = true ∧ proxiesOf (f.sources s a l) ≠ [])
include hclear hpx

theorem exec_form_discards (hdst : f.dst = .pred 7) : exec f.i s = .next (s.retire a) := by
  obtain ⟨plain, -, hexec⟩ := exec_form hform hacts hdot
  rw [hexec, capableLanes_discards hclear hpx hdst]

theorem exec_form_lost (hdst : f.dst ≠ .pred 7) {l : Nat} (hm : (a.lanes o).getLsbD l = true) (hl : proxiesOf (f.sources s a l) ≠ [])
    (hlost : (s.ctx a.blk.ctx).lost (pxHome (nth 0#32 (proxiesOf (f.sources s a l)) 0)) = true)
    (hlow : ∀ k, k < l → (a.lanes o).getLsbD k = true →
      ∀ x ∈ proxiesOf (f.sources s a k), (s.ctx a.blk.ctx).lost (pxHome x) = false) :
    exec f.i s = .next (s.raise a Code.pxlost (pxHome (nth 0#32 (proxiesOf (f.sources s a l)) 0))) := by
  obtain ⟨plain, -, hexec⟩ := exec_form hform hacts hdot
  obtain ⟨w, ws, hws⟩ := List.exists_cons_of_ne_nil hl
  rw [hws] at hlost ⊢
  rw [hexec, capableLanes_lost hclear hpx hdst (lostHome_some hm hws hlost hlow)]
  rfl

/-- The lanes with proxy sources at one home that is not lost are formed there, and the others hold the plain result (R264). -/
theorem exec_form_results (hhomes : ∀ l ∈ pxLanes (a.lanes o) (f.sources s a), ∀ w ∈ proxiesOf (f.sources s a l),
      (s.ctx a.blk.ctx).lost (pxHome w) = false ∧ pxHome w = pxHome (nth 0#32 (proxiesOf (f.sources s a l)) 0) ∧
        pxHome w < s.homes.length)
    (hok : s.storesOk a.core) (hkeeps : f.dst.keeps a.w) {slots : List Nat} {u : State}
    (hruns : s.takeRuns a.core a.blk.ctx (s.groupRuns a (a.lanes o) f.fn (f.sources s a)) = .ok (slots, u)) :
    ∃ t b1 w1, exec f.i s = .next t ∧ t.warp? a.bid a.wi = some (b1, w1) ∧
      (∀ l, (a.lanes o).getLsbD l = true → proxiesOf (f.sources s a l) = [] → w1.hasPlain l (f.word s a l) f.dst) ∧
      ∀ l ∈ pxLanes (a.lanes o) (f.sources s a), t.Forms a w1 l f.dst (s.groupOf a f.fn (f.sources s a l)) := by
  obtain ⟨plain, hword, hexec⟩ := exec_form hform hacts hdot
  obtain ⟨-, hw, -⟩ := actx_eq_some hacts.1
  have hdst : f.dst ≠ .pred 7 := fun he => by
    rw [he] at hkeeps
    exact absurd hkeeps.1 (by decide)
  have hlost := lostHome_none fun l hl w hw => (hhomes l hl w hw).1
  obtain ⟨t, b1, w1, ht, hw1, hplain, hforms⟩ := formAtHome_results (plain := plain) hw hkeeps
    (fun l hl w hw => (hhomes l hl w hw).2.1) (fun l hl w hw => (hhomes l hl w hw).2.2) hok hruns
  refine ⟨t, b1, w1, ?_, hw1, fun l hl hnone => hword l hl hnone ▸ hplain l hl hnone, hforms⟩
  rw [hexec, capableLanes_forms hclear hpx hdst hlost, ht]

end

end

end Sys2Proof.Machine
end

section
/-!
PROOF. MOV and SEL move handles: references, and runs of their own beyond a count of 255 (R122, R127, R269).
-/
namespace Sys2Proof.Machine
open Sys2Proof

/-! ### The run that a core counts at a slot (R343) -/

/-- A run appended behind the live one does not hide it. -/
theorem live?_append {x : Home} {slot : Nat} {q : Run} (h : x.live? slot = some q) (rs : List Run) :
    ({ x with runs := x.runs ++ rs } : Home).live? slot = some q := by
  unfold Home.live? at h ⊢
  rw [List.find?_append, h]
  rfl

theorem live?_spec {x : Home} {slot : Nat} {q : Run} (h : x.live? slot = some q) : q.slot = slot ∧ q.refs ≠ 0 := by
  simpa using List.find?_some h

/-- The first run that passes a test, replaced by one that passes it too. -/
theorem find?_replaceRun_self {p : Run → Bool} {x y : Run} (hy : p y = true) : ∀ {rs : List Run}, rs.find? p = some x →
    (replaceRun x y rs).find? p = some y
  | r :: rs, h => by
    by_cases hr : p r = true
    · obtain rfl : r = x := by simpa [hr] using h
      simp [replaceRun, hy]
    · have hrest : rs.find? p = some x := by simpa [hr] using h
      have hne : r ≠ x := fun e => hr (e ▸ List.find?_some hrest)
      rw [replaceRun, if_neg hne, List.find?_cons_of_neg hr]
      exact find?_replaceRun_self hy hrest

/-- A run that fails a test, replaced by one that fails it too. -/
theorem find?_replaceRun_of_neg {p : Run → Bool} {x y : Run} (hx : ¬ p x = true) (hy : ¬ p y = true) : ∀ rs : List Run,
    (replaceRun x y rs).find? p = rs.find? p
  | [] => rfl
  | r :: rs => by
    unfold replaceRun
    split
    next he => rw [List.find?_cons_of_neg hy, he, List.find?_cons_of_neg hx]
    next => rw [List.find?_cons, List.find?_cons, find?_replaceRun_of_neg hx hy rs]

theorem find?_unrefRun_of_ne {slot k : Nat} (h : k ≠ slot) : ∀ rs : List Run,
    (unrefRun k rs).find? (fun r => r.slot == slot && r.refs != 0) = rs.find? fun r => r.slot == slot && r.refs != 0
  | [] => rfl
  | r :: rs => by
    unfold unrefRun
    split
    next hc =>
      rw [List.find?_cons_of_neg (by simp [hc.1, h]), List.find?_cons_of_neg (by simp [hc.1, h])]
    next => rw [List.find?_cons, List.find?_cons, find?_unrefRun_of_ne h rs]

section
variable {s t : State} {home slot : Nat} {q : Run}

theorem home_setHome (s : State) (n : Nat) (x : Home) (k : Nat) :
    (s.setHome n x).home k = if k = n ∧ n < s.homes.length then x else s.home k := nth_setNth _ _ _ _ _

theorem live?_addRun (h : (s.home home).live? slot = some q) (home' : Nat) (r : Run) :
    ((s.addRun home' r).home home).live? slot = some q := by
  rw [State.addRun, home_setHome]
  split
  next hc => exact hc.1 ▸ live?_append (hc.1 ▸ h) [r]
  next => exact h

theorem live?_takeRuns {core ctx : Nat} : ∀ {runs : List (Nat × Nat × Nat)} {s t : State} {slots : List Nat},
    s.takeRuns core ctx runs = .ok (slots, t) → (s.home home).live? slot = some q → (t.home home).live? slot = some q
  | [], s, t, slots, h, hq => by
    simp only [State.takeRuns, Except.ok.injEq, Prod.mk.injEq] at h
    exact h.2 ▸ hq
  | (home', ext, count) :: rest, s, t, slots, h, hq => by
    obtain ⟨slot', rest', -, -, hrest⟩ := takeRuns_cons h
    exact live?_takeRuns (s := (s.addRun home' (freshRun ctx slot' ext count)).touchChunk core home' slot') hrest
      (live?_addRun hq home' _)

theorem live?_unref_of_ne {core home' slot' : Nat} (hne : ¬ (home' = home ∧ slot' = slot)) :
    ((s.unref core home' slot').home home).live? slot = (s.home home).live? slot := by
  unfold State.unref
  split
  · rw [home_setHome]
    split
    next hc =>
      obtain ⟨rfl, -⟩ := hc
      exact find?_unrefRun_of_ne (fun he => hne ⟨rfl, he⟩) _
    next => rfl
  · rfl

/-- Drops of other handles leave the run as it is. -/
theorem live?_dropRefs {core ctx b wi : Nat} : ∀ {hs : List Word} {s : State}, (∀ h ∈ hs, ¬ (pxHome h = home ∧ pxSlot h = slot)) →
    ((s.dropRefs core ctx b wi hs).home home).live? slot = (s.home home).live? slot
  | [], _, _ => rfl
  | h :: hs, s, hne => by
    refine (live?_dropRefs fun x hx => hne x (List.mem_cons_of_mem _ hx)).trans ?_
    split
    · rfl
    · exact live?_unref_of_ne (hne h List.mem_cons_self)

theorem live?_addRefs_self (hlen : home < s.homes.length) (h : (s.home home).live? slot = some q) (n : Nat) :
    ((s.addRefs home slot n).home home).live? slot = some { q with count := q.count + n, refs := q.refs + n } := by
  obtain ⟨hslot, hrefs⟩ := live?_spec h
  rw [State.addRefs, h]
  simp only [State.setRun, home_setHome, hlen, and_self, if_true]
  exact find?_replaceRun_self (by simp [hslot]; omega) h

theorem live?_addRefs_of_ne {home' slot' : Nat} (hne : ¬ (home' = home ∧ slot' = slot)) (n : Nat) :
    ((s.addRefs home' slot' n).home home).live? slot = (s.home home).live? slot := by
  unfold State.addRefs
  split
  next r hr =>
    rw [State.setRun, home_setHome]
    split
    next hc =>
      obtain ⟨rfl, -⟩ := hc
      have hslot : r.slot ≠ slot := fun he => hne ⟨rfl, (live?_spec hr).1 ▸ he⟩
      exact find?_replaceRun_of_neg (by simp [hslot]) (by simp [hslot]) _
    next => rfl
  next => rfl

theorem homes_length_addRefs (s : State) (home slot n : Nat) : (s.addRefs home slot n).homes.length = s.homes.length := by
  unfold State.addRefs
  split
  · exact setNth_length _ _ _
  · rfl

theorem addRefs_blocks (s : State) (home slot n : Nat) : (s.addRefs home slot n).blocks = s.blocks := by
  unfold State.addRefs
  split <;> rfl

end

/-! ### References added lane by lane -/

/-- A reference is added for each lane that receives a handle. -/
def State.refLanes (s : State) (ws : List (Nat × Word)) : State :=
  ws.foldl (fun (s : State) (x : Nat × Word) => s.addRefs (pxHome x.2) (pxSlot x.2) 1) s

/-- The handle names the run at a slot of a home. -/
def names (home slot : Nat) (w : Word) : Bool := pxHome w == home && pxSlot w == slot

theorem names_iff {home slot : Nat} {w : Word} : names home slot w = true ↔ pxHome w = home ∧ pxSlot w = slot := by
  simp [names]

theorem live?_refLanes {home slot : Nat} : ∀ {ws : List (Nat × Word)} {s : State} {q : Run}, home < s.homes.length →
    (s.home home).live? slot = some q →
      ((s.refLanes ws).home home).live? slot = some { q with
        count := q.count + (ws.filter fun x => names home slot x.2).length
        refs := q.refs + (ws.filter fun x => names home slot x.2).length }
  | [], _, _, _, h => h
  | x :: ws, s, q, hlen, h => by
    have hlen' : home < (s.addRefs (pxHome x.2) (pxSlot x.2) 1).homes.length := by rwa [homes_length_addRefs]
    by_cases hx : names home slot x.2 = true
    · obtain ⟨rfl, rfl⟩ := names_iff.1 hx
      refine (live?_refLanes hlen' (live?_addRefs_self hlen h 1)).trans ?_
      simp [hx, Nat.add_assoc, Nat.add_comm 1]
    · refine (live?_refLanes hlen' ((live?_addRefs_of_ne (mt names_iff.2 hx) 1).trans h)).trans ?_
      simp [hx]

theorem refLanes_blocks : ∀ (ws : List (Nat × Word)) (s : State), (s.refLanes ws).blocks = s.blocks
  | [], _ => rfl
  | _ :: ws, s => (refLanes_blocks ws _).trans (addRefs_blocks s _ _ _)

/-! ### The lanes that receive a handle, and those beyond the count (R269) -/

theorem filterMap_ite_some {α β : Type} (p : α → Bool) (f : α → β) (l : List α) :
    (l.filterMap fun x => if p x then some (f x) else none) = (l.filter p).map f := by
  induction l with
  | nil => rfl
  | cons x xs ih => cases h : p x <;> simp [h, ih]

/-- The lanes that receive a handle whose home is not lost. -/
def State.movedLanes (s : State) (a : Actx) (m : Mask) (pick : Nat → KVal) : List Nat :=
  (lanesOf m).filter fun l => (pick l).px && !(s.ctx a.blk.ctx).lost (pxHome (pick l).val)

/-- Those lanes with their handles. -/
def State.movedHandles (s : State) (a : Actx) (m : Mask) (pick : Nat → KVal) : List (Nat × Word) :=
  (s.movedLanes a m pick).map fun l => (l, (pick l).val)

theorem movedHandles_length_le (s : State) (a : Actx) (m : Mask) (pick : Nat → KVal) : (s.movedHandles a m pick).length ≤ 32 := by
  rw [State.movedHandles, List.length_map]
  calc (s.movedLanes a m pick).length ≤ (lanesOf m).length := List.length_filter_le _ _
    _ ≤ (List.range 32).length := List.length_filter_le _ _
    _ = 32 := List.length_range

/-- A lane beyond the count receives a handle, and the run it names has nearly all the references there can be. -/
theorem mem_overCount {s : State} {ws : List (Nat × Word)} {x : Nat × Word} (h : x ∈ s.overCount ws) : x ∈ ws ∧
    ∀ q, (s.home (pxHome x.2)).live? (pxSlot x.2) = some q → 255 < q.refs + ws.length := by
  obtain ⟨⟨y, i⟩, hy, hsome⟩ := List.mem_filterMap.1 h
  simp only [Option.ite_none_right_eq_some, Option.some.injEq] at hsome
  obtain ⟨hcount, rfl⟩ := hsome
  obtain ⟨hlt, hget⟩ := List.mem_zipIdx' hy
  refine ⟨hget ▸ List.getElem_mem hlt, fun q hq => ?_⟩
  have hbefore := List.length_filter_le (fun z => pxHome z.2 == pxHome y.2 && pxSlot z.2 == pxSlot y.2) (ws.take i)
  rw [List.length_take] at hbefore
  rw [hq] at hcount
  dsimp only at hcount
  omega

section
variable {s : State} {a : Actx} {m : Mask} {pick : Nat → KVal}

/-- The lanes beyond the count with their handles. -/
def State.beyondHandles (s : State) (a : Actx) (m : Mask) (pick : Nat → KVal) : List (Nat × Word) :=
  s.overCount (s.movedHandles a m pick)

/-- The lanes within the count with their handles. -/
def State.keptHandles (s : State) (a : Actx) (m : Mask) (pick : Nat → KVal) : List (Nat × Word) :=
  (s.movedHandles a m pick).filter fun x => !((s.beyondHandles a m pick).any fun y => y.1 == x.1)

theorem mem_movedHandles {x : Nat × Word} (h : x ∈ s.movedHandles a m pick) : x.1 ∈ s.movedLanes a m pick ∧ x.2 = (pick x.1).val := by
  obtain ⟨l, hl, rfl⟩ := List.mem_map.1 h
  exact ⟨hl, rfl⟩

theorem mem_beyondHandles {x : Nat × Word} (h : x ∈ s.beyondHandles a m pick) : x.1 ∈ s.movedLanes a m pick ∧ x.2 = (pick x.1).val :=
  mem_movedHandles (mem_overCount h).1

/-- A run with room for a reference of every lane has all its new handles among those within the count. -/
theorem keptHandles_names {home slot : Nat} {q : Run} (hq : (s.home home).live? slot = some q) (hroom : q.refs + 32 ≤ 255) :
    ((s.keptHandles a m pick).filter fun x => names home slot x.2).length =
      ((s.movedLanes a m pick).filter fun l => names home slot (pick l).val).length := by
  have hkept : (s.keptHandles a m pick).filter (fun x => names home slot x.2) =
      (s.movedHandles a m pick).filter fun x => names home slot x.2 := by
    rw [State.keptHandles, List.filter_filter]
    refine List.filter_congr fun x hx => ?_
    by_cases hn : names home slot x.2 = true
    · have hnone : ((s.beyondHandles a m pick).any fun y => y.1 == x.1) = false := by
        simp only [List.any_eq_false, beq_iff_eq]
        intro y hy hxy
        have hval : y.2 = x.2 := by rw [(mem_beyondHandles hy).2, (mem_movedHandles hx).2, hxy]
        obtain ⟨rfl, rfl⟩ := names_iff.1 hn
        have hcount := (mem_overCount hy).2 q (by rw [hval]; exact hq)
        have hlen := movedHandles_length_le s a m pick
        omega
      rw [hn, hnone]
      rfl
    · rw [Bool.not_eq_true] at hn
      rw [hn]
      rfl
  rw [hkept, State.movedHandles, List.filter_map, List.length_map]
  rfl

/-! ### The move -/

/-- What a lane of D receives: the handle of a run of its own beyond the count, and what it is given elsewhere. -/
def movedValue (fresh : List ((Nat × Word) × Nat)) (pick : Nat → KVal) (l : Nat) : KVal :=
  match fresh.find? fun x => x.1.1 == l with
  | some (x, slot) => { val := mkProxy (pxHome x.2) slot (pxExt x.2) (pxFmt x.2) true, px := true }
  | none => pick l

/-- Each home is asked to copy a run for a lane beyond the count. -/
def State.sendDups (s : State) (a : Actx) (fresh : List ((Nat × Word) × Nat)) : State :=
  fresh.foldl (fun (s : State) (x : (Nat × Word) × Nat) =>
    s.pushReq a.core (pxHome x.1.2) a.blk.ctx a.bid a.wi a.slot (.dup (pxSlot x.1.2) x.2 (pxExt x.1.2))) s

/-- The runs that the lanes beyond the count take. -/
def State.beyondRuns (s : State) (a : Actx) (m : Mask) (pick : Nat → KVal) : List (Nat × Nat × Nat) :=
  (s.beyondHandles a m pick).map fun x => (pxHome x.2, pxExt x.2, 1)

theorem moveLanes_moves {o : Opnds} (hd : o.d ≠ 0xF3#8) (hsd : o.sd = false) {slots : List Nat} {u : State}
    (hruns : s.takeRuns a.core a.blk.ctx (s.beyondRuns a m pick) = .ok (slots, u)) :
    s.moveLanes a o m pick =
      let fresh := (s.beyondHandles a m pick).zip slots
      ((((u.sendDups a fresh).refLanes (s.keptHandles a m pick)).wrK a o.d false m (movedValue fresh pick)).retire a) := by
  have hws : (if (o.d = 0xF3#8 && !o.sd) = true then [] else (lanesOf m).filterMap fun l =>
      if (pick l).px && !(s.ctx a.blk.ctx).lost (pxHome (pick l).val) then some (l, (pick l).val) else none) =
      s.movedHandles a m pick := by
    rw [if_neg (by simp [hd]), filterMap_ite_some]
    rfl
  unfold State.moveLanes
  simp only [hws]
  rw [State.beyondRuns, State.beyondHandles] at hruns
  rw [hruns, hsd]
  rfl

end

end Sys2Proof.Machine
end

section
/-!
PROOF. What a move of handles leaves in D and at the homes, and the settlement of the proxy results (O49).
-/
namespace Sys2Proof.Machine
open Sys2Proof

section
variable {s : State} {a : Actx} {m : Mask} {pick : Nat → KVal}

/-! ### What D and the homes hold after a move (R269) -/

theorem sendDups_spec (fresh : List ((Nat × Word) × Nat)) : (s.sendDups a fresh).blocks = s.blocks ∧
    (s.sendDups a fresh).homes = s.homes ∧ s.KeepsProxies (s.sendDups a fresh) ∧
    ∀ x ∈ fresh, (s.sendDups a fresh).asks a.core (pxHome x.1.2) (.dup (pxSlot x.1.2) x.2 (pxExt x.1.2)) := by
  obtain ⟨hblocks, hhomes, hasks⟩ := pushReqs_spec a.core a.blk.ctx a.bid a.wi a.slot (fun x : (Nat × Word) × Nat => pxHome x.1.2)
    (fun x => .dup (pxSlot x.1.2) x.2 (pxExt x.1.2)) fresh s
  exact ⟨hblocks, hhomes, .foldl (fun s x => .pushReq s _ _ _ _ _ _ _) fresh s, hasks⟩

/-- A lane of D after a write and the retirement; the runs and requests stand. -/
theorem wrK_retire {blk : Block} {w : Warp} (hw : s.warp? a.bid a.wi = some (blk, w)) {d : BitVec 8} (hd : d ≠ 0xF3#8)
    (htakes : w.takes d false) (m : Mask) (f : Nat → KVal) : s.KeepsProxies ((s.wrK a d false m f).retire a) ∧ ∃ blk' w',
      ((s.wrK a d false m f).retire a).warp? a.bid a.wi = some (blk', w') ∧
      ∀ l, l < 32 → m.getLsbD l = true → (w'.vreg d.toNat).lane l = f l := by
  obtain ⟨blk1, w1, hw1, hlane⟩ := wrK_lane hw hd htakes m f
  obtain ⟨blk2, w2, hw2, hpaths⟩ := retire_warp? hw1
  have hvreg : w2.vreg d.toNat = w1.vreg d.toNat := hpaths.field fun w => w.vreg d.toNat
  exact ⟨(State.KeepsProxies.wrK s a d false m f).trans (.retire _ a), blk2, w2, hw2, fun l hl hm => hvreg ▸ hlane l hl hm⟩

/-- A write of D drops the handles that its lanes held; another run keeps its counts. -/
theorem live?_wrK_retire {blk : Block} {w : Warp} (hw : s.warp? a.bid a.wi = some (blk, w)) {d : BitVec 8} {home slot : Nat} {q : Run}
    (hq : (s.home home).live? slot = some q)
    (hheld : ∀ l, m.getLsbD l = true → ((w.vreg d.toNat).lane l).px = true → ¬ names home slot ((w.vreg d.toNat).lane l).val = true)
    (f : Nat → KVal) : (((s.wrK a d false m f).retire a).home home).live? slot = some q := by
  have hretire : ((s.wrK a d false m f).retire a).home home = (s.wrK a d false m f).home home :=
    home_of_homes (State.updWarp_homes _ _ _ _) home
  rw [hretire, State.wrK, if_neg Bool.false_ne_true]
  split
  · exact hq
  · rw [State.wrVec, hw]
    refine (live?_dropRefs fun x hx => ?_).trans hq
    obtain ⟨l, hl, hx⟩ := List.mem_filterMap.1 hx
    simp only [Option.ite_none_right_eq_some, Option.some.injEq] at hx
    obtain ⟨hpx, rfl⟩ := hx
    exact mt names_iff.2 (hheld l (mem_lanesOf.1 hl) hpx)

theorem beyondHandles_home (h : ∀ l ∈ s.movedLanes a m pick, pxHome (pick l).val < s.homes.length) :
    ∀ x ∈ s.beyondHandles a m pick, pxHome x.2 < s.homes.length := by
  intro x hx
  obtain ⟨hl, hval⟩ := mem_beyondHandles hx
  rw [hval]
  exact h x.1 hl

/-- A lane beyond the count finds the slot of a run of its own. -/
theorem movedValue_beyond {slots : List Nat} (hlen : slots.length = (s.beyondHandles a m pick).length) {l : Nat} {w : Word}
    (hx : (l, w) ∈ s.beyondHandles a m pick) : ∃ slot, ((l, w), slot) ∈ (s.beyondHandles a m pick).zip slots ∧
      movedValue ((s.beyondHandles a m pick).zip slots) pick l =
        { val := mkProxy (pxHome w) slot (pxExt w) (pxFmt w) true, px := true } := by
  obtain ⟨_, hmem⟩ := exists_mem_zip hlen hx
  cases hfind : ((s.beyondHandles a m pick).zip slots).find? fun x => x.1.1 == l with
  | none => exact absurd (List.find?_eq_none.1 hfind _ hmem) (by simp)
  | some y =>
    obtain ⟨⟨k, w'⟩, slot⟩ := y
    obtain rfl : k = l := by simpa using List.find?_some hfind
    have hy := List.mem_of_find?_eq_some hfind
    obtain rfl : w' = w := (mem_beyondHandles (List.of_mem_zip hy).1).2.trans (mem_beyondHandles hx).2.symm
    exact ⟨slot, hy, by rw [movedValue, hfind]⟩

theorem movedValue_kept {slots : List Nat} {l : Nat} (h : ∀ w, (l, w) ∉ s.beyondHandles a m pick) :
    movedValue ((s.beyondHandles a m pick).zip slots) pick l = pick l := by
  have hnone : ((s.beyondHandles a m pick).zip slots).find? (fun x => x.1.1 == l) = none := by
    refine List.find?_eq_none.2 fun x hx => ?_
    obtain ⟨⟨k, w⟩, slot⟩ := x
    rw [beq_iff_eq]
    rintro rfl
    exact h w (List.of_mem_zip hx).1
  rw [movedValue, hnone]

/-- MOV and SEL leave what they picked in the lanes of D, with one reference more for each handle; a lane beyond the count holds a
pending run of its own, which the home is asked to copy. -/
theorem moveLanes_results {o : Opnds} {blk : Block} {w : Warp} (hw : s.warp? a.bid a.wi = some (blk, w)) (hd : o.d ≠ 0xF3#8)
    (hsd : o.sd = false) (htakes : w.takes o.d false) (hok : s.storesOk a.core)
    (hhomes : ∀ l ∈ s.movedLanes a m pick, pxHome (pick l).val < s.homes.length) {slots : List Nat} {u : State}
    (hruns : s.takeRuns a.core a.blk.ctx (s.beyondRuns a m pick) = .ok (slots, u)) :
    ∃ b1 w1, (s.moveLanes a o m pick).warp? a.bid a.wi = some (b1, w1) ∧
      (∀ l, m.getLsbD l = true → (∀ x, (l, x) ∉ s.beyondHandles a m pick) → (w1.vreg o.d.toNat).lane l = pick l) ∧
      (∀ l x, (l, x) ∈ s.beyondHandles a m pick → ∃ h : Word, (w1.vreg o.d.toNat).lane l = { val := h, px := true } ∧
        pxFmt h = pxFmt x ∧ (s.moveLanes a o m pick).newRun a.blk.ctx (pxHome x) (pxExt x) h ∧
        (s.moveLanes a o m pick).asks a.core (pxHome x) (.dup (pxSlot x) (pxSlot h) (pxExt x))) ∧
      ∀ home slot q, home < s.homes.length → (s.home home).live? slot = some q → q.refs + 32 ≤ 255 →
        (∀ l, m.getLsbD l = true → ((w.vreg o.d.toNat).lane l).px = true → ¬ names home slot ((w.vreg o.d.toNat).lane l).val = true) →
        let n := ((s.movedLanes a m pick).filter fun l => names home slot (pick l).val).length
        ((s.moveLanes a o m pick).home home).live? slot = some { q with count := q.count + n, refs := q.refs + n } := by
  obtain ⟨hublocks, hulen, -, -⟩ := takeRuns_frame hruns
  obtain ⟨hlen, hstand⟩ := takeRuns_zip hruns hok (beyondHandles_home hhomes)
  obtain ⟨hdblocks, hdhomes, hsent, hasks⟩ := sendDups_spec (s := u) (a := a) ((s.beyondHandles a m pick).zip slots)
  rw [moveLanes_moves hd hsd hruns]
  dsimp only
  set v := u.sendDups a ((s.beyondHandles a m pick).zip slots)
  have hrefs : v.KeepsProxies (v.refLanes (s.keptHandles a m pick)) := .foldl (fun s x => .addRefs s _ _ 1) _ _
  have hv := (warp?_of_blocks ((refLanes_blocks (s.keptHandles a m pick) v).trans (hdblocks.trans hublocks)) a.bid a.wi).trans hw
  obtain ⟨hend, b1, w1, hw1, hlane⟩ := wrK_retire hv hd htakes m (movedValue ((s.beyondHandles a m pick).zip slots) pick)
  refine ⟨b1, w1, hw1, fun l hm hkept => ?_, fun l x hx => ?_, fun home slot q hlt hq hroom hheld => ?_⟩
  · rw [hlane l (BitVec.lt_of_getLsbD hm) hm, movedValue_kept hkept]
  · obtain ⟨slot, hmem, hvalue⟩ := movedValue_beyond hlen hx
    obtain ⟨hslot, hrun⟩ := hstand _ slot hmem
    have hm := mem_lanesOf.1 (List.mem_filter.1 (mem_beyondHandles hx).1).1
    have hhome : pxHome x < s.homes.length := beyondHandles_home hhomes (l, x) hx
    refine ⟨_, (hlane l (BitVec.lt_of_getLsbD hm) hm).trans hvalue, pxFmt_mkProxy (pxFmt_lt x),
      newRun_mkProxy ((hsent.trans (hrefs.trans hend)).unformedRun hrun) (hhome.trans_le hok.1) hslot (pxExt_lt x) _, ?_⟩
    rw [pxSlot_mkProxy hslot]
    exact (hrefs.trans hend).asks (hasks ((l, x), slot) hmem)
  · have hsentq : (v.home home).live? slot = some q :=
      (congrArg (·.live? slot) (home_of_homes hdhomes home)).trans (live?_takeRuns hruns hq)
    have hlt' : home < v.homes.length := by rwa [hdhomes, hulen]
    have hcounted := live?_refLanes (ws := s.keptHandles a m pick) hlt' hsentq
    rw [keptHandles_names hq hroom] at hcounted
    exact live?_wrK_retire hv hcounted hheld _

end

/-! ### MOV and SEL -/

theorem exec_mov_moves {s : State} {a : Actx} {o : Opnds} (hacts : s.Acts a o.gn o.g) :
    exec (.mov o) s = .next (s.moveLanes a o (a.lanes o) (s.src a o.srcA)) := by
  rw [exec_mov, execMov, run_acts hacts]

theorem select_clash {s : State} {a : Actx} {o : Opnds} {b : Src} (hacts : s.Acts a o.gn o.g) (hp : a.plainPreds o [bits o.mod 2 0])
    (h : ∃ l, (a.lanes o).getLsbD l = true ∧ extClash (proxiesOf [s.src a o.srcA l, s.src a b l]) = true) :
    s.select o b = .next (s.raise a Code.pxuse 0x03) := by
  have hpred := plainPreds_any hp (List.mem_singleton_self _)
  have hclash : ((lanesOf (a.lanes o)).any fun l => extClash (proxiesOf [s.src a o.srcA l, s.src a b l])) = true := by
    obtain ⟨l, hl, hc⟩ := h
    exact List.any_eq_true.2 ⟨l, mem_lanesOf.2 hl, hc⟩
  simp only [State.select, run_acts hacts, hpred, hclash, Bool.false_eq_true, if_false, if_true]

theorem select_moves {s : State} {a : Actx} {o : Opnds} {b : Src} (hacts : s.Acts a o.gn o.g) (hp : a.plainPreds o [bits o.mod 2 0])
    (hsd : o.sd = false) (h : ∀ l, (a.lanes o).getLsbD l = true → extClash (proxiesOf [s.src a o.srcA l, s.src a b l]) = false) :
    s.select o b = .next (s.moveLanes a o (a.lanes o) fun l =>
      s.src a (if (a.w.pred (bits o.mod 2 0) l).val = o.mod.getLsbD 3 then o.srcA else b) l) := by
  have hpred := plainPreds_any hp (List.mem_singleton_self _)
  have hclash : ((lanesOf (a.lanes o)).any fun l => extClash (proxiesOf [s.src a o.srcA l, s.src a b l])) = false := by
    simp only [List.any_eq_false, Bool.not_eq_true]
    exact fun l hl => h l (mem_lanesOf.1 hl)
  have hpick : (fun l => if s.selBit a o (a.lanes o) l then s.src a b l else s.src a o.srcA l) = fun l =>
      s.src a (if (a.w.pred (bits o.mod 2 0) l).val = o.mod.getLsbD 3 then o.srcA else b) l := by
    funext l
    by_cases he : (a.w.pred (bits o.mod 2 0) l).val = o.mod.getLsbD 3
    · rw [if_pos he, if_neg (by simpa [State.selBit, Opnds.m, hsd] using he)]
    · rw [if_neg he, if_pos (by simpa [State.selBit, Opnds.m, hsd] using he)]
  simp only [State.select, run_acts hacts, hpred, hclash, hpick, hsd, Bool.false_eq_true, if_false]

/-- Settles O49: a capable form takes the course of its lanes, whose runs are taken and whose requests are sent, and MOV and SEL
move the handles that they pick. -/
theorem proxyResultsFormAtHomes : Obligations.ProxyResultsFormAtHomes := by
  refine ⟨?forms, ?moves, ?clash⟩
  case forms =>
    intro h cmp op o s a f hf hacts m ks v px one ext first clash lost pl
    have hform := capableForms_run h cmp op o f hf
    have hlt {l : Nat} (hl : m.getLsbD l = true) : l < 32 := BitVec.lt_of_getLsbD hl
    refine ⟨fun hdot hplain => ?plain, fun hdot => ⟨fun ⟨l, _, hl⟩ => exec_form_clash hform hacts hdot ⟨l, hl⟩,
      fun hclear ⟨l, _, hl⟩ => ?_⟩⟩
    case plain =>
      refine exec_form_plain (hform.resolve_right fun he => hdot (he ▸ rfl)) hacts fun l hl => ?_
      exact not_not.1 (hplain l (hlt hl) hl)
    have hclear' (k : Nat) (hk : m.getLsbD k = true) : ¬ PxClash f.fn (f.sources s a k) := hclear k (hlt hk) hk
    refine ⟨exec_form_discards hform hacts hdot hclear' ⟨l, hl⟩,
      fun hdst k _ hm hpx hlost hlow => exec_form_lost hform hacts hdot hclear' ⟨l, hl⟩ hdst hm hpx hlost hlow,
      fun hhomes hok hkeeps ⟨⟨slots, u⟩, hruns⟩ => ?_⟩
    obtain ⟨t, b1, w1, hexec, hw1, hplain, hforms⟩ := exec_form_results hform hacts hdot hclear' ⟨l, hl⟩ hhomes hok hkeeps hruns
    refine ⟨t, b1, w1, hexec, hw1, fun k _ hm hnone => hplain k hm (not_not.1 hnone), fun k hk => ?_⟩
    have hfirst := (hhomes k hk _ (first_mem (mem_pxLanes.1 hk).2)).2.2
    exact newHandle_of_forms rfl (fun x hx => (hhomes k hk x hx).2.1) (hfirst.trans_le hok.1) (hforms k hk)
  case moves =>
    intro o s a i pick hacts hsd hd htakes hok p clear hpick m moved ws beyond hhomes ⟨⟨slots, u⟩, hruns⟩
    have hexec : exec i s = .next (s.moveLanes a o m pick) := by
      obtain ⟨rfl, rfl⟩ | ⟨hp, ⟨rfl, hclear, rfl⟩ | ⟨rfl, hclear, rfl⟩⟩ := hpick
      · exact exec_mov_moves hacts
      · exact select_moves hacts hp hsd hclear
      · exact select_moves hacts hp hsd hclear
    obtain ⟨-, hw, -⟩ := actx_eq_some hacts.1
    obtain ⟨b1, w1, hw1, hkept, hbeyond, hcounts⟩ := moveLanes_results hw hd hsd htakes hok hhomes hruns
    exact ⟨_, b1, w1, hexec, hw1, fun l _ => hkept l, hbeyond, fun home slot q hlen hq hroom hheld =>
      hcounts home slot q hlen hq hroom fun l hl hpx => mt names_iff.1 (hheld l hl hpx)⟩
  case clash => exact fun o s a i b hi hacts hp h => (exec_sel hi s).trans (select_clash hacts hp h)

end Sys2Proof.Machine
end

section
/-!
PROOF. The floating-point and conversion instructions: each form takes the course of a capable or a plain instruction, and the
words of its sources give the value of the number formats (O9).
-/
namespace Sys2Proof.Machine
open Sys2Proof

/-! ### Packed 16-bit operations (R131, R139) -/

theorem hadd2W_eq (bf : Bool) (m : BitVec 6) (a b : Word) :
    hadd2W bf m a b = Ref.halfWords (fun p q => BitVec.ofNat 16 (fAdd (halfFmt bf) m p.toNat q.toNat)) a b :=
  halves_eq_halfWords (fAdd (halfFmt bf) m) a b

theorem hmul2W_eq (bf : Bool) (m : BitVec 6) (a b : Word) :
    hmul2W bf m a b = Ref.halfWords (fun p q => BitVec.ofNat 16 (fMul (halfFmt bf) m p.toNat q.toNat)) a b :=
  halves_eq_halfWords (fMul (halfFmt bf) m) a b

theorem immHalf_eq (o : Opnds) : immHalf o = .imm (o.imm16 ++ o.imm16) := by
  unfold immHalf w32
  congr 1
  apply BitVec.eq_of_toNat_eq
  have hlt := o.imm16.isLt
  rw [BitVec.toNat_append, ← Nat.shiftLeft_add_eq_or_of_lt hlt, BitVec.toNat_ofNat, Nat.shiftLeft_eq]
  omega

/-- A plain instruction that names its immediate in its function alone has the row with the immediate as the last source. -/
theorem Row.completes_of_plainOp_imm {o : Opnds} {i : Instr} {x : Src} {v : Word} {f : Word → Word → Word → Word}
    {g : State → Actx → Nat → Word} (hexec : ∀ s, exec i s = s.plainOp o [x] (g s))
    (hg : ∀ s a l, g s a l = f (s.val a x l) v 0#32) : (⟨i, [x, .imm v], f⟩ : Row).Completes o := by
  intro s a h
  rw [hexec, plainOp_acts (actsOn_of_imm h), funext (hg s a)]
  rfl

/-! ### PACK and UNPACK (R143, R144) -/

/-- The third operand of PACK is the word of C for the narrow formats, and 0 for the 16-bit formats, which do not read C. -/
theorem operand_packC (s : State) (a : Actx) (fmt : BitVec 3) (o : Opnds) (l : Nat) :
    s.operand a ([o.srcA, o.srcB] ++ packC fmt o) l 2 = if fmt.toNat ≤ 1 then 0#32 else s.val a o.srcC l := by
  unfold packC
  split <;> rfl

theorem bits_imm16_low (o : Opnds) : bits o.imm16 2 0 = o.imm16.toNat % 8 := by
  simp [bits]

/-- Settles O9: each instruction takes the course of a capable or a plain one, whose function of the operands is the row's; the
immediates of R131 are the patterns widened and doubled, and PACK reads C for the narrow formats alone. -/
theorem floatResults : Obligations.FloatResults := by
  intro fn fmt o
  simp only [floatRows, List.forall_mem_append, List.forall_mem_cons, List.not_mem_nil, IsEmpty.forall_iff, implies_true, and_true]
  refine ⟨⟨?faddReg, ?faddImm, ?fmulReg, ?fmulImm, ?ffma, ?fminReg, ?fminImm, ?fmaxReg, ?fmaxImm, ?fsfun, ?hadd2Reg, ?hadd2Imm,
    ?hmul2Reg, ?hmul2Imm⟩, ?hfma2, ?fdot2, ?fclass, ?cvt, ?pack, ?unpack, ?rxcvtDec⟩
  case faddReg => exact Row.completes_of_capable (exec_faddReg o) fun _ _ _ => rfl
  case faddImm => exact immFp_eq o ▸ Row.completes_of_capable (exec_faddImm o) fun _ _ _ => rfl
  case fmulReg => exact Row.completes_of_capable (exec_fmulReg o) fun _ _ _ => rfl
  case fmulImm => exact immFp_eq o ▸ Row.completes_of_capable (exec_fmulImm o) fun _ _ _ => rfl
  case ffma => exact Row.completes_of_capable (exec_ffma o) fun _ _ _ => rfl
  case fminReg => exact Row.completes_of_capable (exec_fminReg o) fun _ _ _ => rfl
  case fminImm => exact immFp_eq o ▸ Row.completes_of_capable (exec_fminImm o) fun _ _ _ => rfl
  case fmaxReg => exact Row.completes_of_capable (exec_fmaxReg o) fun _ _ _ => rfl
  case fmaxImm => exact immFp_eq o ▸ Row.completes_of_capable (exec_fmaxImm o) fun _ _ _ => rfl
  case fsfun => exact Row.completes_of_plainOp (exec_fsfun fn o) fun _ _ _ => rfl
  case hadd2Reg => exact Row.completes_of_plainOp (exec_hadd2Reg o) fun _ _ _ => hadd2W_eq _ _ _ _
  case hadd2Imm =>
    refine Row.completes_of_plainOp_imm (exec_hadd2Imm o) fun _ _ _ => ?_
    rw [hadd2W_eq, immHalf_eq]
    rfl
  case hmul2Reg => exact Row.completes_of_plainOp (exec_hmul2Reg o) fun _ _ _ => hmul2W_eq _ _ _ _
  case hmul2Imm =>
    refine Row.completes_of_plainOp_imm (exec_hmul2Imm o) fun _ _ _ => ?_
    rw [hmul2W_eq, immHalf_eq]
    rfl
  case hfma2 => exact Row.completes_of_plainOp (exec_hfma2 o) fun _ _ _ => rfl
  case fdot2 => exact Row.completes_of_plainOp (exec_fdot2 o) fun _ _ _ => rfl
  case fclass => exact Row.completes_of_plainOp (exec_fclass o) fun _ _ _ => rfl
  case cvt => exact Row.completes_of_capable (exec_cvt o) fun _ _ _ => rfl
  case pack =>
    refine Row.completes_of_plainOp (exec_pack fmt o) fun _ _ _ => ?_
    rw [operand_packC]
    rfl
  case unpack =>
    refine Row.completes_of_plainOp (exec_unpack fmt o) fun _ _ _ => ?_
    rw [bits_imm16_low]
    rfl
  case rxcvtDec => exact Row.completes_of_plainOp (exec_rxcvtDec o) fun _ _ _ => rfl

end Sys2Proof.Machine
end

section
/-!
PROOF. The exchanges between the lanes of a warp: LXCHG, VOTE, BALLOT and MATCH (O14).
-/
namespace Sys2Proof.Machine
open Sys2Proof

/-! ### Plain sources (R147) -/

/-- An instruction that traps on a proxy source acts when its sources are plain. -/
theorem run_actsOn {s : State} {a : Actx} {o : Opnds} {xs : List Src} (h : s.ActsOn a o xs) (trap act : Actx → Mask → State) :
    (s.run o fun a m => if s.anyPx a m xs then trap a m else act a m) = .next (act a (a.lanes o)) := by
  obtain ⟨hacts, hpx⟩ := h
  rw [run_acts hacts, Actx.lanes, if_neg (ne_true_of_eq_false hpx)]

theorem predPx_lanes {a : Actx} {o : Opnds} (hp : a.plainPreds o [o.a.toNat]) : a.predPx (a.lanes o) o.a.toNat = false :=
  plainPreds_any hp (List.mem_singleton_self _)

/-! ### LXCHG (R150) -/

/-- The source lane counted in the naturals is the one counted in the integers: a lane below 0 is below every segment. -/
theorem lxchgLane_eq (mode : LxMode) (w b : Nat) (m : Mask) (l : Nat) : lxchgLane mode w b m l = Ref.lxchg mode w b m l := by
  have hbase : l % w ≤ l := Nat.mod_le l w
  unfold lxchgLane Ref.lxchg
  cases mode with
  | idx =>
    have hsrc : ((l : Int) - l % w + b % w).toNat = l - l % w + b % w := by omega
    simp only [hsrc]
  | up =>
    have hsrc : ((l : Int) - b).toNat = l - b := by omega
    have hok : l - l % w + b ≤ l ↔ (l : Int) - l % w ≤ l - b := by omega
    simp only [hsrc, hok]
  | down =>
    have hsrc : ((l : Int) + b).toNat = l + b := by omega
    have hok : l + b < l - l % w + w ↔ (l : Int) + b < l - l % w + w := by omega
    simp only [hsrc, hok]
  | xor => rfl

theorem exec_lxchg {mode : LxMode} {o : Opnds} {i : Instr} {b : Src}
    (h : (i, b) ∈ [(Instr.lxchgReg mode o, o.srcB), (.lxchgImm mode o, .imm (BitVec.ofNat 32 (o.imm16.toNat % 32)))]) (s : State) :
    exec i s = s.lxchg mode o b := by
  simp only [List.mem_cons, Prod.mk.injEq, List.not_mem_nil, or_false] at h
  obtain ⟨rfl, rfl⟩ | ⟨rfl, rfl⟩ := h
  · rfl
  · have hb : bits o.imm16 4 0 = o.imm16.toNat % 32 := by simp [bits]
    rw [exec_lxchgImm, execLxchgImm, hb, w32]

theorem lxchg_acts {mode : LxMode} {o : Opnds} {s : State} {a : Actx} {b : Src} (h : s.ActsOn a o [o.srcA, b]) :
    s.lxchg mode o b = .next ((s.wr a o.d false (a.lanes o) fun l =>
      s.val a o.srcA (Ref.lxchg mode (2 ^ (o.mod.toNat % 8)) (s.val a b l).toNat (a.lanes o) l)).retire a) := by
  rw [State.lxchg, run_actsOn h]
  simp only [lxchgLane_eq, sizeCode_eq]

/-! ### VOTE and BALLOT (R151) -/

/-- The vote of the lanes of a list. -/
def voteOf (mode : VoteMode) (ls : List Nat) (x : Nat → Bool) : Bool :=
  match mode with
  | .all => ls.all x
  | .any => ls.any x
  | .uni => ls.all x || !ls.any x

theorem voteOf_all {ls : List Nat} {x : Nat → Bool} : voteOf .all ls x = true ↔ ∀ l ∈ ls, x l = true := List.all_eq_true

theorem voteOf_any {ls : List Nat} {x : Nat → Bool} : voteOf .any ls x = true ↔ ∃ l ∈ ls, x l = true := List.any_eq_true

/-- The lanes agree when all of them vote 1 or none does. -/
theorem voteOf_uni {ls : List Nat} {x : Nat → Bool} : voteOf .uni ls x = true ↔ ∀ l ∈ ls, ∀ k ∈ ls, x l = x k := by
  simp only [voteOf, Bool.or_eq_true, List.all_eq_true, Bool.not_eq_true', List.any_eq_false]
  constructor
  · rintro (h | h) l hl k hk
    · rw [h l hl, h k hk]
    · rw [Bool.eq_false_of_not_eq_true (h l hl), Bool.eq_false_of_not_eq_true (h k hk)]
  · intro h
    by_cases hone : ∃ k ∈ ls, x k = true
    · obtain ⟨k, hk, hx⟩ := hone
      exact .inl fun l hl => (h l hl k hk).trans hx
    · exact .inr fun l hl hx => hone ⟨l, hl, hx⟩

section
variable {o : Opnds} {s : State} {a : Actx} (h : s.Acts a o.gn o.g) (hp : a.plainPreds o [o.a.toNat])
include h hp

theorem exec_vote_acts (mode : VoteMode) : exec (.vote mode o) s =
    .next ((s.wrP a o.d.toNat (a.lanes o) fun _ => voteOf mode (lanesOf (a.lanes o)) (s.voteBit a o)).retire a) := by
  simp only [exec_vote, execVote, run_acts h, predPx_lanes hp, Bool.false_eq_true, if_false]
  cases mode <;> rfl

theorem exec_ballot_acts : exec (.ballot o) s =
    .next ((s.wr a o.d o.sd (a.lanes o) fun _ => Ref.mask (a.lanes o) (s.voteBit a o)).retire a) := by
  simp only [exec_ballot, execBallot, run_acts h, predPx_lanes hp, Bool.false_eq_true, if_false, maskOf_filter_lanesOf]
  rfl

end

/-! ### MATCH (R152) -/

/-- All lanes of the mask hold one word. -/
def State.allMatch (s : State) (a : Actx) (x : Src) (m : Mask) : Bool :=
  (lanesOf m).all fun l => (lanesOf m).all fun k => s.val a x k == s.val a x l

theorem allMatch_iff {s : State} {a : Actx} {x : Src} {m : Mask} : s.allMatch a x m = true ↔
    ∀ l k, m.getLsbD l = true → m.getLsbD k = true → s.val a x l = s.val a x k := by
  simp only [State.allMatch, List.all_eq_true, mem_lanesOf, beq_iff_eq]
  exact ⟨fun h l k hl hk => h k hk l hl, fun h l hl k hk => h k l hk hl⟩

theorem exec_matchAny_acts {o : Opnds} {s : State} {a : Actx} (h : s.ActsOn a o [o.srcA]) : exec (.matchAny o) s =
    .next ((s.wr a o.d o.sd (a.lanes o) fun l => Ref.mask (a.lanes o) fun k => s.val a o.srcA k == s.val a o.srcA l).retire a) := by
  rw [exec_matchAny, execMatchAny, plainOp_acts h]
  simp only [maskOf_filter_lanesOf]
  rfl

theorem exec_matchAll_acts {o : Opnds} {s : State} {a : Actx} (h : s.ActsOn a o [o.srcA]) : exec (.matchAll o) s =
    .next (((s.wr a o.d o.sd (a.lanes o) fun _ => if s.allMatch a o.srcA (a.lanes o) then a.lanes o else 0#32).wrP a o.c.toNat
      (a.lanes o) fun _ => s.allMatch a o.srcA (a.lanes o)).retire a) := by
  rw [exec_matchAll, execMatchAll, run_actsOn h]
  rfl

/-- Settles O14: each exchange is its rule over the active lanes. -/
theorem exchangeResults : Obligations.ExchangeResults := by
  refine ⟨?lxchg, ?vote, ?ballot, ?matchAny, ?matchAll⟩
  case lxchg => exact fun mode o s a i b hi h => (exec_lxchg hi s).trans (lxchg_acts h)
  case vote =>
    intro mode o s a h hp
    refine ⟨_, exec_vote_acts h hp mode, ?_, ?_, ?_⟩
    · rintro rfl
      simp only [voteOf_all, mem_lanesOf]
    · rintro rfl
      simp only [voteOf_any, mem_lanesOf]
    · rintro rfl
      simp only [voteOf_uni, mem_lanesOf]
      exact ⟨fun h l k hl hk => h l hl k hk, fun h l hl k hk => h l k hl hk⟩
  case ballot => exact fun o s a h hp => exec_ballot_acts h hp
  case matchAny => exact fun o s a h => exec_matchAny_acts h
  case matchAll => exact fun o s a h => ⟨_, allMatch_iff, exec_matchAll_acts h⟩

end Sys2Proof.Machine
end

section
/-!
PROOF. REDUX: what the fixed tree makes of the active lanes' words, for any relation that its operation keeps (O15).
-/
namespace Sys2Proof.Machine
open Sys2Proof

/-! ### The fixed tree with absent lanes (R153) -/

/-- An operation keeps a relation between the words combined and their combination. -/
structure Combines (f : Word → Word → Word) (R : List Word → Word → Prop) : Prop where
  one : ∀ v, R [v] v
  join : ∀ {l k : List Word} {v w : Word}, R l v → R k w → R (l ++ k) (f v w)

/-- A lane of the tree stands for the words below it: it is absent exactly where there is none. -/
def StandsFor (R : List Word → Word → Prop) (l : List Word) (x : Option Word) : Prop :=
  match x with
  | some r => R l r
  | none => l = []

section
variable {f : Word → Word → Word} {R : List Word → Word → Prop}

theorem standsFor_toList (h : Combines f R) : ∀ x : Option Word, StandsFor R x.toList x
  | some v => h.one v
  | none => rfl

theorem standsFor_append (h : Combines f R) : ∀ {l k : List Word} {x y : Option Word}, StandsFor R l x → StandsFor R k y →
    StandsFor R (l ++ k) (optFold f x y)
  | _, _, some _, some _, hx, hy => h.join hx hy
  | _, _, some _, none, hx, hy => by rw [show _ = [] from hy, List.append_nil]; exact hx
  | _, _, none, _, hx, hy => by rw [show _ = [] from hx]; exact hy

theorem standsFor_pairUp (h : Combines f R) : ∀ {ls : List (List Word)} {xs : List (Option Word)}, List.Forall₂ (StandsFor R) ls xs →
    List.Forall₂ (StandsFor R) (pairUp (· ++ ·) ls) (pairUp (optFold f) xs)
  | _, _, .nil => .nil
  | _, _, .cons hx .nil => .cons hx .nil
  | _, _, .cons hx (.cons hy hs) => .cons (standsFor_append h hx hy) (standsFor_pairUp h hs)

theorem flatten_pairUp {α : Type} : ∀ ls : List (List α), (pairUp (· ++ ·) ls).flatten = ls.flatten
  | [] => rfl
  | [_] => rfl
  | l :: k :: t => by rw [pairUp, List.flatten_cons, flatten_pairUp t, List.append_assoc]; rfl

theorem length_pairUp_half {α : Type} (f : α → α → α) : ∀ l : List α, (pairUp f l).length = (l.length + 1) / 2
  | [] => by simp [pairUp]
  | [_] => by simp [pairUp]
  | _ :: _ :: t => by
    rw [pairUp, List.length_cons, length_pairUp_half f t, List.length_cons, List.length_cons]
    omega

/-- The tree's last lane stands for the words of all lanes, in their order. -/
theorem treeFold_standsFor (h : Combines f R) : ∀ {n : Nat} {ls : List (List Word)} {xs : List (Option Word)},
    List.Forall₂ (StandsFor R) ls xs → 0 < xs.length → xs.length ≤ 2 ^ n →
    ∃ x, treeFold (optFold f) n xs = some x ∧ StandsFor R ls.flatten x
  | 0, _, _, .cons (a := l) (b := x) hx .nil, _, _ => ⟨x, rfl, by rwa [List.flatten_singleton]⟩
  | 0, _, _, .cons _ (.cons _ _), _, hle => by simp at hle
  | n + 1, ls, xs, hs, hpos, hle => by
    obtain ⟨x, htree, hx⟩ := treeFold_standsFor h (n := n) (standsFor_pairUp h hs) (by rw [length_pairUp_half]; omega)
      (by rw [length_pairUp_half]; omega)
    exact ⟨x, htree, by rwa [flatten_pairUp] at hx⟩

end

/-! ### The tree over the lanes of a mask -/

/-- The words of the active lanes, the other lanes absent. -/
def laneWords (m : Mask) (v : Nat → Word) : List (Option Word) :=
  (List.range 32).map fun l => if m.getLsbD l then some (v l) else none

theorem flatten_laneWords (m : Mask) (v : Nat → Word) : ((laneWords m v).map Option.toList).flatten = (lanesOf m).map v := by
  rw [lanesOf, ← filterMap_ite_some, laneWords, List.map_map, ← List.flatMap_def, List.filterMap_eq_flatMap_toList]
  rfl

/-- What the tree of REDUX makes of the active lanes. -/
def reduxTree (f : Word → Word → Word) (m : Mask) (v : Nat → Word) : Option (Option Word) := treeFold (optFold f) 5 (laneWords m v)

theorem reduxTree_standsFor {f : Word → Word → Word} {R : List Word → Word → Prop} (h : Combines f R) (m : Mask) (v : Nat → Word) :
    ∃ x, reduxTree f m v = some x ∧ StandsFor R ((lanesOf m).map v) x := by
  rw [← flatten_laneWords]
  refine treeFold_standsFor h ?_ (by simp [laneWords]) (by simp [laneWords])
  exact List.forall₂_map_left_iff.2 (List.forall₂_same.2 fun x _ => standsFor_toList h x)

theorem reduxTree_eq_some (f : Word → Word → Word) {m : Mask} (hm : m ≠ 0#32) (v : Nat → Word) : ∃ r, reduxTree f m v = some (some r) := by
  obtain ⟨x, htree, hx⟩ := reduxTree_standsFor (f := f) (R := fun _ _ => True) ⟨fun _ => trivial, fun _ _ => trivial⟩ m v
  cases x with
  | some r => exact ⟨r, htree⟩
  | none => exact absurd (lanesOf_eq_nil.1 (List.map_eq_nil_iff.1 hx)) hm

/-- The result has every relation to the words of the active lanes that the operation keeps. -/
theorem Combines.holds {f : Word → Word → Word} {R : List Word → Word → Prop} (h : Combines f R) {m : Mask} {v : Nat → Word} {r : Word}
    (hr : reduxTree f m v = some (some r)) : R ((lanesOf m).map v) r := by
  obtain ⟨x, htree, hx⟩ := reduxTree_standsFor h m v
  obtain rfl : some r = x := Option.some.inj (hr.symm.trans htree)
  exact hx

theorem exec_redux_acts {op : ReduxOp} {o : Opnds} {s : State} {a : Actx} {r : Word} (h : s.ActsOn a o [o.srcA])
    (hr : reduxTree (reduxFn op o.mod) (a.lanes o) (s.val a o.srcA) = some (some r)) :
    exec (.redux op o) s = .next ((s.wr a o.d o.sd (a.lanes o) fun _ => r).retire a) := by
  rw [reduxTree, laneWords] at hr
  rw [exec_redux, execRedux, run_actsOn h]
  simp only [hr, Option.getD_some]

/-! ### The integer operations -/

theorem combines_add : Combines (· + ·) fun l r => r = l.sum where
  one v := (List.sum_singleton).symm
  join := by
    rintro l k _ _ rfl rfl
    exact List.sum_append.symm

theorem combines_xor : Combines (· ^^^ ·) fun l r => r = l.foldl (· ^^^ ·) 0#32 where
  one v := (BitVec.zero_xor).symm
  join := by
    rintro l k _ _ rfl rfl
    rw [List.foldl_append, ← List.foldl_assoc (op := HXor.hXor), BitVec.xor_zero]

/-- Bit by bit, AND is "every word". -/
theorem combines_and : Combines (· &&& ·) fun l r => ∀ i < 32, (r.getLsbD i = true ↔ ∀ v ∈ l, v.getLsbD i = true) where
  one v i _ := by rw [List.forall_mem_singleton]
  join hl hk i hi := by
    rw [BitVec.getLsbD_and, Bool.and_eq_true, hl i hi, hk i hi, List.forall_mem_append]

/-- Bit by bit, OR is "some word". -/
theorem combines_or : Combines (· ||| ·) fun l r => ∀ i < 32, (r.getLsbD i = true ↔ ∃ v ∈ l, v.getLsbD i = true) where
  one v i _ := by simp only [List.mem_singleton, exists_eq_left]
  join hl hk i hi := by
    rw [BitVec.getLsbD_or, Bool.or_eq_true, hl i hi, hk i hi]
    simp only [List.mem_append, or_and_right, exists_or]

theorem below_eq_false_iff {u : Bool} {x y : Word} : Ref.below u x y = false ↔ rdInt u y ≤ rdInt u x := by
  rw [← Bool.not_eq_true, ← rdInt_lt_iff, Int.not_lt]

/-- An operation that answers the operand with the least key gives a word of the list with the least key. -/
theorem combines_least {f : Word → Word → Word} {key : Word → Int}
    (h : ∀ x y, f x y = x ∧ key x ≤ key y ∨ f x y = y ∧ key y ≤ key x) :
    Combines f fun l r => r ∈ l ∧ ∀ v ∈ l, key r ≤ key v where
  one v := ⟨List.mem_singleton_self v, List.forall_mem_singleton.2 le_rfl⟩
  join := by
    rintro l k x y ⟨hx, hl⟩ ⟨hy, hk⟩
    obtain ⟨heq, hle⟩ | ⟨heq, hle⟩ := h x y <;> rw [heq]
    · exact ⟨List.mem_append_left _ hx, List.forall_mem_append.2 ⟨hl, fun v hv => hle.trans (hk v hv)⟩⟩
    · exact ⟨List.mem_append_right _ hy, List.forall_mem_append.2 ⟨fun v hv => hle.trans (hl v hv), hk⟩⟩

theorem combines_min (u : Bool) : Combines (iminW u) fun l r => r ∈ l ∧ ∀ v ∈ l, rdInt u r ≤ rdInt u v := by
  refine combines_least fun x y => ?_
  obtain h | h := le_total (rdInt u x) (rdInt u y)
  · exact .inl ⟨by rw [iminW, min_eq_left h, narrow_rdInt], h⟩
  · exact .inr ⟨by rw [iminW, min_eq_right h, narrow_rdInt], h⟩

theorem combines_max (u : Bool) : Combines (imaxW u) fun l r => r ∈ l ∧ ∀ v ∈ l, -rdInt u r ≤ -rdInt u v := by
  refine combines_least (key := fun x => -rdInt u x) fun x y => ?_
  obtain h | h := le_total (rdInt u x) (rdInt u y)
  · exact .inr ⟨by rw [imaxW, max_eq_right h, narrow_rdInt], Int.neg_le_neg h⟩
  · exact .inl ⟨by rw [imaxW, max_eq_left h, narrow_rdInt], Int.neg_le_neg h⟩

theorem forall_mem_lanes {m : Mask} {v : Nat → Word} {P : Word → Prop} :
    (∀ x ∈ (lanesOf m).map v, P x) ↔ ∀ l, m.getLsbD l = true → P (v l) := by
  simp only [List.forall_mem_map, mem_lanesOf]

theorem exists_mem_lanes {m : Mask} {v : Nat → Word} {P : Word → Prop} :
    (∃ x ∈ (lanesOf m).map v, P x) ↔ ∃ l, m.getLsbD l = true ∧ P (v l) := by
  simp only [List.mem_map, mem_lanesOf, exists_exists_and_eq_and]

theorem mem_map_lanes {m : Mask} {v : Nat → Word} {r : Word} (h : r ∈ (lanesOf m).map v) : ∃ l, m.getLsbD l = true ∧ r = v l := by
  obtain ⟨l, hl, rfl⟩ := List.mem_map.1 h
  exact ⟨l, mem_lanesOf.1 hl, rfl⟩

/-- Settles O15: the tree over the active lanes has a result, which stands in each relation that the operation keeps. -/
theorem reduxResults : Obligations.ReduxResults := by
  intro op o s a h v on
  have ⟨⟨_, _, hlanes⟩, _⟩ := h
  obtain ⟨r, hr⟩ := reduxTree_eq_some (reduxFn op o.mod) hlanes v
  refine ⟨r, exec_redux_acts h hr, ?add, ?and, ?or, ?xor, ?min, ?max, ?float⟩
  case add =>
    rintro rfl
    exact combines_add.holds hr
  case and =>
    rintro rfl i hi
    exact (combines_and.holds hr i hi).trans forall_mem_lanes
  case or =>
    rintro rfl i hi
    exact (combines_or.holds hr i hi).trans exists_mem_lanes
  case xor =>
    rintro rfl
    exact (combines_xor.holds hr).trans List.foldl_map
  case min =>
    rintro rfl
    obtain ⟨hmem, hleast⟩ := (combines_min _).holds hr
    exact ⟨mem_map_lanes hmem, fun l hl => below_eq_false_iff.2 (forall_mem_lanes.1 hleast l hl)⟩
  case max =>
    rintro rfl
    obtain ⟨hmem, hgreatest⟩ := (combines_max _).holds hr
    exact ⟨mem_map_lanes hmem, fun l hl => below_eq_false_iff.2 (Int.neg_le_neg_iff.1 (forall_mem_lanes.1 hgreatest l hl))⟩
  case float => exact fun _ => (congrArg Option.join hr).symm

end Sys2Proof.Machine
end

section
/-!
PROOF. Pairs of warps: the outcomes of XPAIR in their order, XSHFL, XPAIR_TIMEOUT and the commit (O37).
-/
namespace Sys2Proof.Machine
open Sys2Proof

/-! ### XPAIR (R154) -/

section
variable {o : Opnds} {s : State} {a : Actx}

/-- The state in which XPAIR looks for a partner: the warp's pair and its idempotent treatment have ended, and the offers whose
time is over are withdrawn. -/
def State.beforeOffer (s : State) (a : Actx) : State := ((s.loseIdemp a).endPairs a.bid a.wi).endOffers

/-- The core that XPAIR names in Sa is none that it may name. -/
abbrev State.BadPartner (s : State) (a : Actx) (o : Opnds) : Prop :=
  256 ≤ (s.scalar a o.a o.sa).toNat ∨ clusterOf ((s.scalar a o.a o.sa).toNat % 256) = clusterOf a.core ∨
    (s.ctx a.blk.ctx).inPartition ((s.scalar a o.a o.sa).toNat % 256) = false

/-- The offer that XPAIR makes. -/
def State.offerOf (s : State) (a : Actx) (o : Opnds) : Offer :=
  { block := a.bid, warp := a.wi, slot := a.slot, core := a.core, partner := (s.scalar a o.a o.sa).toNat % 256
    key := s.scalar a o.b o.sb, dst := o.d.toNat, start := s.cycle (clusterOf a.core) }

/-- The pair table of the anchor's cluster is full (log entry 106). -/
abbrev State.PairTableFull (s : State) (x : Offer) : Prop :=
  64 ≤ (s.pairs.filter fun p => p.cluster == clusterOf (min x.partner x.core)).length

/-- The oldest offer of a warp of the context on the named core that matches an offer. -/
def State.matching (s : State) (ctx : Nat) (x : Offer) : Option Offer :=
  s.offers.find? fun q => q.core == x.partner && q.partner == x.core && q.key == x.key && ((s.block? q.block).map (·.ctx)) == some ctx

/-- XPAIR retires with a status. -/
def State.pairStatus (s : State) (a : Actx) (o : Opnds) (v : Word) : State := (s.wrSc a o.d.toNat v).retire a

/-- The outcomes of XPAIR form a chain. -/
theorem exec_xpair_acts (h : s.Acts a o.gn o.g) : exec (.xpair o) s = .next (
    if s.BadPartner a o then (s.beforeOffer a).pairStatus a o 2#32
    else if (s.beforeOffer a).PairTableFull (s.offerOf a o) then (s.beforeOffer a).pairStatus a o 3#32
    else match (s.beforeOffer a).matching a.blk.ctx (s.offerOf a o) with
      | some q => (((s.beforeOffer a).addPair q (s.offerOf a o)).answer q.block q.warp q.slot q.dst 0#32).pairStatus a o 0#32
      | none =>
        if bits (s.ctx a.blk.ctx).schedExp 20 16 = 0 then (s.beforeOffer a).pairStatus a o 1#32
        else { (s.beforeOffer a).blockSlot a with offers := (s.beforeOffer a).offers ++ [s.offerOf a o] }) := by
  simp only [exec_xpair, execXpair, run_acts h, ge_iff_le, Bool.or_eq_true, decide_eq_true_eq, beq_iff_eq, Bool.not_eq_true', or_assoc]
  rfl

section
variable (h : s.Acts a o.gn o.g)
include h

theorem exec_xpair_bad (hbad : s.BadPartner a o) : exec (.xpair o) s = .next ((s.beforeOffer a).pairStatus a o 2#32) := by
  rw [exec_xpair_acts h, if_pos hbad]

variable (hgood : ¬ s.BadPartner a o)
include hgood

theorem exec_xpair_full (hfull : (s.beforeOffer a).PairTableFull (s.offerOf a o)) :
    exec (.xpair o) s = .next ((s.beforeOffer a).pairStatus a o 3#32) := by
  rw [exec_xpair_acts h, if_neg hgood, if_pos hfull]

variable (hroom : ¬ (s.beforeOffer a).PairTableFull (s.offerOf a o))
include hroom

theorem exec_xpair_pairs {q : Offer} (hq : (s.beforeOffer a).matching a.blk.ctx (s.offerOf a o) = some q) : exec (.xpair o) s = .next
    ((((s.beforeOffer a).addPair q (s.offerOf a o)).answer q.block q.warp q.slot q.dst 0#32).pairStatus a o 0#32) := by
  rw [exec_xpair_acts h, if_neg hgood, if_neg hroom, hq]

variable (hnone : (s.beforeOffer a).matching a.blk.ctx (s.offerOf a o) = none)
include hnone

theorem exec_xpair_ends (hzero : bits (s.ctx a.blk.ctx).schedExp 20 16 = 0) :
    exec (.xpair o) s = .next ((s.beforeOffer a).pairStatus a o 1#32) := by
  rw [exec_xpair_acts h, if_neg hgood, if_neg hroom, hnone]
  simp only [hzero, if_true]

theorem exec_xpair_waits (hwait : bits (s.ctx a.blk.ctx).schedExp 20 16 ≠ 0) : exec (.xpair o) s =
    .next { (s.beforeOffer a).blockSlot a with offers := (s.beforeOffer a).offers ++ [s.offerOf a o] } := by
  rw [exec_xpair_acts h, if_neg hgood, if_neg hroom, hnone]
  simp only [hwait, if_false]

end

end

/-! ### XPAIR_TIMEOUT (R154, R316) -/

theorem offerOver_of_waited {s : State} {q : Offer} {b : Block} (hb : s.block? q.block = some b)
    (h : q.start + 2 ^ min (bits (s.ctx b.ctx).schedExp 20 16) 30 ≤ s.cycle (clusterOf q.core)) : s.offerOver q = true := by
  rw [State.offerOver, hb, decide_eq_true_eq]
  exact h

theorem exec_xpairTimeout_over {s : State} {q : Offer}
    (hq : s.offers.find? (fun q => q.block == s.arg 0 && q.warp == s.arg 1 && q.slot == s.arg 2) = some q) (h : s.offerOver q = true) :
    exec .xpairTimeout s = .next (s.endOffer q) := by
  simp only [exec_xpairTimeout, execXpairTimeout, hq, h, if_true]

/-! ### XSHFL (R156) -/

/-- The warp of a view is the pair's first, the anchor's. -/
abbrev WarpPair.First (p : WarpPair) (a : Actx) : Prop := p.block0 = a.bid ∧ p.warp0 = a.wi

/-- The post of a view's warp. -/
def WarpPair.postOf (p : WarpPair) (a : Actx) : Option Post := if p.First a then p.post0 else p.post1

/-- The place and lanes of the path of a view's warp whose withdrawn XSHFL keeps its count. -/
def WarpPair.owedOf (p : WarpPair) (a : Actx) : Option (DWord × Mask) := if p.First a then p.owed0 else p.owed1

/-- The pair with a post of a view's warp, to which nothing is owed any more. -/
def WarpPair.posted (p : WarpPair) (a : Actx) (x : Post) : WarpPair :=
  if p.First a then { p with post0 := some x, owed0 := none } else { p with post1 := some x, owed1 := none }

theorem posted_id (p : WarpPair) (a : Actx) (x : Post) : (p.posted a x).id = p.id := by
  unfold WarpPair.posted
  split <;> rfl

theorem postOf_posted (p : WarpPair) (a : Actx) (x : Post) : (if p.First a then (p.posted a x).post0 else (p.posted a x).post1) = some x := by
  unfold WarpPair.posted
  split <;> rfl

/-- The post of an XSHFL: A of every lane, with the active lanes. -/
def State.postOf (s : State) (a : Actx) (o : Opnds) : Post :=
  { slot := a.slot, active := a.lanes o, vals := (List.range 32).map (s.val a o.srcA), dst := o.d, pc := o.c.toNat }

/-- The state in which an XSHFL has posted, and its slot is blocked. -/
def State.posts (s : State) (a : Actx) (o : Opnds) (p : WarpPair) : State :=
  { s.blockSlot a with pairs := s.pairs.map fun q => if q.id = p.id then p.posted a (s.postOf a o) else q }

/-- The XSHFL of a view's warp has to wait before it posts. -/
def WarpPair.holdsBack (p : WarpPair) (a : Actx) : Bool := (p.postOf a).isSome || (p.owedOf a).any (a.w.owesElsewhere a.slot)

section
variable {o : Opnds} {s : State} {a : Actx} (h : s.ActsOn a o [o.srcA])
include h

theorem exec_xshfl_acts : exec (.xshfl o) s = .next (
    match s.pairOf a.bid a.wi with
    | none => (s.wrP a o.c.toNat (a.lanes o) fun _ => false).retire a
    | some p => if p.holdsBack a then s else s.posts a o p) := by
  rw [exec_xshfl, execXshfl, run_actsOn h]
  cases s.pairOf a.bid a.wi with
  | none => rfl
  | some p =>
    simp only [State.posts, State.postOf, WarpPair.holdsBack, WarpPair.postOf, WarpPair.owedOf, WarpPair.posted, Bool.and_eq_true,
      beq_iff_eq]
    rfl

theorem exec_xshfl_alone (hp : s.pairOf a.bid a.wi = none) :
    exec (.xshfl o) s = .next ((s.wrP a o.c.toNat (a.lanes o) fun _ => false).retire a) := by
  rw [exec_xshfl_acts h, hp]

theorem exec_xshfl_posts {p : WarpPair} (hp : s.pairOf a.bid a.wi = some p) (hpost : p.postOf a = none)
    (howed : ∀ x, p.owedOf a = some x → a.w.owesElsewhere a.slot x = false) : exec (.xshfl o) s = .next (s.posts a o p) := by
  have hfree : p.holdsBack a = false := by
    rw [WarpPair.holdsBack, hpost, Option.isSome_none, Bool.false_or, Option.any_eq_false]
    exact howed
  rw [exec_xshfl_acts h, hp]
  simp only [hfree, Bool.false_eq_true, if_false]

theorem exec_xshfl_waits {p : WarpPair} (hp : s.pairOf a.bid a.wi = some p)
    (hbusy : p.postOf a ≠ none ∨ ∃ x, p.owedOf a = some x ∧ a.w.owesElsewhere a.slot x = true) : exec (.xshfl o) s = .next s := by
  have hheld : p.holdsBack a = true := by
    rwa [WarpPair.holdsBack, Bool.or_eq_true, Option.isSome_iff_ne_none, Option.any_eq_true]
  rw [exec_xshfl_acts h, hp]
  simp only [hheld, if_true]

end

/-- A slot that is blocked is seen to wait. -/
theorem actxAt_blockSlot {s : State} {a : Actx} (h : s.actx = some a) :
    ((s.blockSlot a).actxAt a.bid a.wi a.slot).map (·.p.wait) = some .blocked := by
  obtain ⟨-, hw, hp, hcore⟩ := actx_eq_some h
  have hcore' : Block.core? { a.blk with warps := setNth a.blk.warps a.wi (a.w.setWait a.slot .blocked) } = some a.core := hcore
  simp only [State.actxAt, State.blockSlot, warp?_updWarp_self hw, Warp.path_setWait_self, hp, Option.map_some, hcore']

theorem mem_posts {s : State} {a : Actx} {p : WarpPair} (o : Opnds) (hp : s.pairOf a.bid a.wi = some p) :
    p.posted a (s.postOf a o) ∈ (s.posts a o p).pairs :=
  List.mem_map.2 ⟨p, List.mem_of_find?_eq_some hp, if_pos rfl⟩

/-! ### XSHFL_COMMIT (R156) -/

/-- Both posts of a pair are taken, and its count goes up. -/
def State.takePosts (s : State) (p : WarpPair) : State :=
  { s with pairs := s.pairs.map fun (q : WarpPair) => if q.id = p.id then { q with post0 := none, post1 := none, count := q.count + 1 } else q }

theorem exec_xshflCommit_posts {s : State} {p : WarpPair} {x y : Post} (hp : s.pairs.find? (fun p => p.id == s.arg 0) = some p)
    (hx : p.post0 = some x) (hy : p.post1 = some y) : exec .xshflCommit s =
    .next (((s.takePosts p).commitSide p.block0 p.warp0 x y).commitSide p.block1 p.warp1 y x) := by
  simp only [exec_xshflCommit, execXshflCommit, hp, hx, hy, State.takePosts]

section
variable {s : State} {b wi : Nat} {mine theirs : Post} {a : Actx} (ha : s.actxAt b wi mine.slot = some a)
include ha

theorem commitSide_meets (hboth : mine.active &&& theirs.active ≠ 0#32) : s.commitSide b wi mine theirs =
    ((s.wr a mine.dst false (mine.active &&& theirs.active) fun l => nth 0#32 theirs.vals l).wrP a mine.pc mine.active
      fun l => (mine.active &&& theirs.active).getLsbD l).retire a := by
  simp only [State.commitSide, ha, hboth, if_false]

theorem commitSide_misses (hboth : mine.active &&& theirs.active = 0#32) : s.commitSide b wi mine theirs =
    (s.wrP a mine.pc mine.active fun _ => false).retire a := by
  simp only [State.commitSide, ha, hboth, if_true, BitVec.getLsbD_zero]

end

/-- Settles O37: the outcomes of XPAIR in their order, the three courses of XSHFL, and the events of pairs. -/
theorem pairsOfWarps : Obligations.PairsOfWarps := by
  refine ⟨?xpair, ?timeout, ?xshfl, ?commit, ?meets, ?misses⟩
  case xpair =>
    exact fun o s a h => ⟨exec_xpair_bad h, exec_xpair_full h, fun q hgood hroom hq => exec_xpair_pairs h hgood hroom hq,
      exec_xpair_ends h, exec_xpair_waits h⟩
  case timeout => exact fun s q b hq hb h => exec_xpairTimeout_over hq (offerOver_of_waited hb h)
  case xshfl =>
    intro o s a h
    refine ⟨exec_xshfl_alone h, fun p hp hpost howed => ?_, fun p hp hbusy => exec_xshfl_waits h hp hbusy⟩
    exact ⟨_, _, exec_xshfl_posts h hp hpost howed, actxAt_blockSlot h.1.1, mem_posts o hp, posted_id p a _, _, postOf_posted p a _, rfl,
      rfl, fun l hl => nth_map_range _ _ hl⟩
  case commit => exact fun s p x y hp hx hy => exec_xshflCommit_posts hp hx hy
  case meets => exact fun s b wi mine theirs a ha hboth => commitSide_meets ha hboth
  case misses => exact fun s b wi mine theirs a ha hboth => commitSide_misses ha hboth

end Sys2Proof.Machine
end

section
/-!
PROOF. A byte written at its home slice is the byte read there (O25).
-/
namespace Sys2Proof.Machine
open Sys2Proof

/-! ### One byte written (R170, R299, R359) -/

section
variable {s : State} {pa : Nat} (b : Byte) (g : Agent) (rs : List (Nat × Word)) (po : Nat)

theorem writeByte_window (hw : inWindow pa = true) : s.writeByte pa b g rs po =
    { s with posted := s.posted ++ [{ pa := pa, val := b, agent := g, route := s.routeFor pa rs, po := po }] } := by
  rw [State.writeByte, if_pos hw]

/-- A byte of a running bank context's region is written at its channel. -/
theorem dram_writeByte_uncached (hwf : Memory.wf s.dram = true) (hw : inWindow pa = false) (hu : s.uncached pa = true) :
    Memory.read (s.writeByte pa b g rs po).dram pa = b := by
  rw [State.writeByte, if_neg (by simp [hw]), if_pos hu]
  exact cellGet_put_self pa b hwf

theorem readByte_writeByte_window (hw : inWindow pa = true) (x : Nat) : (s.writeByte pa b g rs po).readByte x = s.readByte x := by
  rw [writeByte_window b g rs po hw]
  rfl

@[simp] theorem writeByte_log : (s.writeByte pa b g rs po).log = s.log := by
  unfold State.writeByte
  split
  · rfl
  · split <;> rfl

end

theorem routeFor_nil (s : State) (pa : Nat) : s.routeFor pa [] = s.routeOf pa := by
  unfold State.routeFor
  cases peerOf pa <;> rfl

/-- The window of peer n is the n-th range of 2^44 bytes above the host's (R359). -/
theorem peerOf_of_range {pa n : Nat} (hw : inWindow pa = true) (hlo : 2 ^ 51 + 2 ^ 50 + 2 ^ 44 * n ≤ pa)
    (hhi : pa < 2 ^ 51 + 2 ^ 50 + 2 ^ 44 * (n + 1)) : peerOf pa = some n := by
  have hquot : (pa - (2 ^ 51 + 2 ^ 50)) / 2 ^ 44 = n := by omega
  have hbase : decide (2 ^ 51 + 2 ^ 50 ≤ pa) = true := decide_eq_true (by omega)
  rw [peerOf, hw, hbase, hquot]
  rfl

theorem routeFor_of_range (s : State) {pa n : Nat} (r : Word) (hw : inWindow pa = true) (hlo : 2 ^ 51 + 2 ^ 50 + 2 ^ 44 * n ≤ pa)
    (hhi : pa < 2 ^ 51 + 2 ^ 50 + 2 ^ 44 * (n + 1)) : s.routeFor pa [(n, r)] = r := by
  simp [State.routeFor, peerOf_of_range hw hlo hhi]

/-! ### Earlier points of a byte's coherence order (R191) -/

theorem putBytes_log (g : Agent) (rs : List (Nat × Word)) (po : Nat) : ∀ (l : List (Nat × Byte)) (s : State),
    (s.putBytes g l rs po).log = s.log
  | [], _ => rfl
  | (_, b) :: rest, _ => (putBytes_log g rs po rest _).trans (writeByte_log b g rs po)

/-- Bytes written elsewhere or to windows leave a byte as it was. -/
theorem readByte_putBytes_of_window (g : Agent) (rs : List (Nat × Word)) (po : Nat) {x : Nat} :
    ∀ (l : List (Nat × Byte)) (s : State), (∀ y ∈ l, y.1 = x → inWindow x = true) →
      (s.putBytes g l rs po).readByte x = s.readByte x
  | [], _, _ => rfl
  | (pa, b) :: rest, s, h => by
    rw [List.forall_mem_cons] at h
    rw [State.putBytes, readByte_putBytes_of_window g rs po rest _ h.2]
    by_cases hx : pa = x
    · exact readByte_writeByte_window b g rs po (by rw [hx, h.1 hx]) x
    · exact State.readByte_writeByte_of_ne s b g rs po (Ne.symm hx)

/-- What a write replaces of a byte is its old value; a byte that the write does not replace reads as before. -/
theorem replaced_cases (s : State) (l : List (Nat × Byte)) (x : Nat) :
    ((s.replaced l).find? fun w => w.1 == x) = some (x, s.readByte x) ∨
      ((s.replaced l).find? fun w => w.1 == x) = none ∧ ∀ y ∈ l, y.1 = x → inWindow x = true := by
  cases hf : (s.replaced l).find? fun w => w.1 == x with
  | none =>
    refine .inr ⟨rfl, fun y hy hyx => ?_⟩
    by_contra hw
    have hmem : (y.1, s.readByte y.1) ∈ s.replaced l :=
      List.mem_map.mpr ⟨y, List.mem_filter.mpr ⟨hy, by simpa [hyx] using hw⟩, rfl⟩
    exact List.find?_eq_none.mp hf _ hmem (by simp [hyx])
  | some w =>
    left
    obtain ⟨y, _, rfl⟩ := List.mem_map.mp (List.mem_of_find?_eq_some hf)
    have hyx : y.1 = x := by simpa using List.find?_some hf
    rw [hyx]

/-- A write is undone at every earlier point. -/
theorem byteAt_storeBytes (s : State) (w : MemTag) (l : List (Nat × Byte)) (rs : List (Nat × Word)) {t : Nat} (x : Nat)
    (ht : t ≤ s.memTime) : (s.storeBytes l w rs).byteAt t x = s.byteAt t x := by
  have hlog : (s.storeBytes l w rs).log = (s.note { MemEvent.of w with writes := s.replaced l }).log := putBytes_log _ _ _ l _
  have hnew : decide (t < s.memTime + 1) = true := decide_eq_true (by omega)
  simp only [State.byteAt, hlog, State.note, List.takeWhile_cons, hnew, if_true, List.foldl_cons]
  congr 1
  rcases replaced_cases s l x with hold | ⟨hnone, hwin⟩
  · simp only [hold]
  · simp only [hnone]
    exact readByte_putBytes_of_window _ rs _ l (s.note { MemEvent.of w with writes := s.replaced l }) hwin

/-! ### The point that a read takes (R192, R198) -/

/-- The newest point, or the newest one up to `t` that the read may return, or else the first such one after `t`. -/
theorem readTime_cases {s : State} {q : MemTag} {start : Option Nat} {pas : List Nat} {t u : Nat}
    (h : s.readTime q start pas t = some u) : u = s.memTime ∨
    ((List.range (min t s.memTime + 1)).reverse ++ (List.range (s.memTime - t)).map (t + 1 + ·)).find?
      (mayReturn s.log { MemEvent.of q with time := s.memTime + 1, reads := pas.map fun x => (x, 0) } pas) = some u := by
  dsimp only [State.readTime] at h
  rcases ite_eq_iff.mp h with ⟨_, hnew⟩ | ⟨_, hfind⟩
  · exact .inl (Option.some.inj hnew).symm
  · exact .inr hfind

/-- A search down from a time and then up from it ends no later than the time unless nothing up to it is found. -/
theorem find?_around {p : Nat → Bool} {m t u : Nat}
    (h : ((List.range (min t m + 1)).reverse ++ (List.range (m - t)).map (t + 1 + ·)).find? p = some u) :
    p u = true ∧ u ≤ m ∧ (u ≤ t ∨ ∀ v, v ≤ t → p v = false) := by
  refine ⟨List.find?_some h, ?_⟩
  rw [List.find?_append, Option.or_eq_some_iff] at h
  rcases h with hdown | ⟨hnone, hup⟩
  · have := List.mem_of_find?_eq_some hdown
    rw [List.mem_reverse, List.mem_range] at this
    omega
  · obtain ⟨i, hi, rfl⟩ := List.mem_map.mp (List.mem_of_find?_eq_some hup)
    rw [List.mem_range] at hi
    refine ⟨by omega, .inr fun v hv => ?_⟩
    have := List.find?_eq_none.mp hnone v (List.mem_reverse.mpr (List.mem_range.mpr (by omega)))
    simpa using this

theorem readAt_newest (s : State) (q : MemTag) {pas : List Nat} (h : ∀ x ∈ pas, inWindow x = false) :
    (s.readAt q pas s.memTime).1 = pas.map s.readByte := by
  rw [State.readAt, loadBytesAt_plain s s.memTime h, funext (byteAt_memTime s)]

/-- Settles O25: a write changes its own byte alone, at its home, at its channel or in the posted writes; the log undoes it at
every earlier point. -/
theorem memoryReadsWhatWasWritten : Obligations.MemoryReadsWhatWasWritten := by
  refine ⟨fun s pa b g hdram hl2 => ⟨?_, ?_, ?_, ?_, ?_⟩, fun s q pas h => readAt_newest s q h,
    fun s w l t x ht => byteAt_storeBytes s w l [] x ht, fun s q start pas t u h => ?_⟩
  · exact fun hw hu => State.readByte_writeByte_self s b g hw hu
  · exact fun hw hu => dram_writeByte_uncached b g [] 0 hdram hw hu
  · exact fun q hq => State.readByte_writeByte_of_ne s b g [] 0 hq
  · refine fun hw => ⟨?_, readByte_writeByte_window b g [] 0 hw⟩
    rw [writeByte_window b g [] 0 hw, routeFor_nil]
  · intro n r hw hlo hhi
    rw [writeByte_window b g [(n, r)] 0 hw, routeFor_of_range s r hw hlo hhi]
  · rcases readTime_cases h with rfl | hfind
    · exact ⟨Nat.le_refl _, .inr (.inl rfl), .inl rfl⟩
    · obtain ⟨hmay, hle, hearly⟩ := find?_around hfind
      exact ⟨hle, hearly.imp_right .inr, .inr hmay⟩

end Sys2Proof.Machine
end

section
/-!
PROOF. Scratchpad and constant accesses and prefetches issue, and scratchpad accesses are made in their turn (O24).
-/
namespace Sys2Proof.Machine
open Sys2Proof

/-! ### LDS, STS and LDC at issue (R169, R170) -/

section
variable {s : State} {a : Actx} {o : Opnds} {imm : Bool} (hc : s.Counts a o)
  (hpx : s.anyPx a (a.lanes o) (addrSrcs o imm false) = false)
include hc hpx

theorem loadSpad_plain (hfits : s.checkAddr a .spad (lanesOf (a.lanes o)) (s.address a o imm false) (szBytes (o.mod.toNat % 8)) = none) :
    s.loadSpad o imm = .next ((s.startOp a o (.lds ((s.loadLanes o false (a.lanes o)).map fun l =>
      ldsLane o (s.address a o imm false l).toNat l))).retire a) := by
  simp only [State.loadSpad, counted_acts hc, hpx, Bool.false_eq_true, if_false, accessAddr_eq, sizeCode_eq, hfits]
  rfl

theorem storeSpad_plain (hdata : (lanesOf (a.lanes o)).any (s.dataPx a o) = false)
    (hfits : s.checkAddr a .spad (lanesOf (a.lanes o)) (s.address a o imm false) (szBytes (o.mod.toNat % 8)) = none) :
    s.storeSpad o imm = .next ((s.startOp a o (.sts ((lanesOf (a.lanes o)).map fun l =>
      ((s.address a o imm false l).toNat, s.storedBytes a o l)))).retire a) := by
  simp only [State.storeSpad, counted_acts hc, hpx, hdata, Bool.or_false, Bool.false_eq_true, if_false, accessAddr_eq, sizeCode_eq, hfits]
  rfl

theorem loadConst_plain {s1 : State} {lanes : List (Nat × List Byte)}
    (hfits : s.checkAddr a .const (lanesOf (a.lanes o)) (s.address a o imm false) (szBytes (o.mod.toNat % 8)) = none)
    (hread : s.constLanes a (((s.record? a.blk.record).map (·.kobj)).getD 0 + ((s.kobj a.blk).map (·.constoff)).getD 0)
      (s.address a o imm false) (szBytes (o.mod.toNat % 8)) (s.loadLanes o false (a.lanes o)) = (.ok lanes, s1)) :
    s.loadConst o imm = .next ((s1.startOp a o (.fill (lanes.flatMap fun y =>
      regWrites o.d.toNat o.sd y.1 (loadWords (o.mod.toNat % 8) y.2)))).retire a) := by
  simp only [State.loadConst, counted_acts hc, hpx, Bool.false_eq_true, if_false, accessAddr_eq, sizeCode_eq, hfits, hread, loadedRegs]

end

/-- Every active lane's access is aligned and inside its space. -/
theorem checkAddr_lanes (s : State) (a : Actx) (sp : Space) {m : Mask} {x : Nat → Int} {size : Nat}
    (h : ∀ l, m.getLsbD l = true → x l % (size : Int) = 0 ∧ 0 ≤ x l ∧ x l + size ≤ (s.extent a sp : Int)) :
    s.checkAddr a sp (lanesOf m) x size = none :=
  checkAddr_fits s a sp fun l hl => h l (List.mem_filter.mp hl).2

theorem dataPx_none_lanes {s : State} {a : Actx} {o : Opnds} {m : Mask} (h : ∀ l, m.getLsbD l = true → s.dataPx a o l = false) :
    (lanesOf m).any (s.dataPx a o) = false :=
  dataPx_none fun l hl => h l (List.mem_filter.mp hl).2

section
variable {o : Opnds} {i : Instr} {imm : Bool} (s : State)

theorem exec_ldsForm (h : (i, imm) ∈ [(Instr.ldsReg o, false), (.ldsImm o, true)]) : exec i s = s.loadSpad o imm := by
  simp only [List.mem_cons, Prod.mk.injEq, List.not_mem_nil, or_false] at h
  rcases h with ⟨rfl, rfl⟩ | ⟨rfl, rfl⟩ <;> rfl

theorem exec_stsForm (h : (i, imm) ∈ [(Instr.stsReg o, false), (.stsImm o, true)]) : exec i s = s.storeSpad o imm := by
  simp only [List.mem_cons, Prod.mk.injEq, List.not_mem_nil, or_false] at h
  rcases h with ⟨rfl, rfl⟩ | ⟨rfl, rfl⟩ <;> rfl

theorem exec_ldcForm (h : (i, imm) ∈ [(Instr.ldcReg o, false), (.ldcImm o, true)]) : exec i s = s.loadConst o imm := by
  simp only [List.mem_cons, Prod.mk.injEq, List.not_mem_nil, or_false] at h
  rcases h with ⟨rfl, rfl⟩ | ⟨rfl, rfl⟩ <;> rfl

theorem exec_prefForm (h : (i, imm) ∈ [(Instr.prefReg o, false), (.prefImm o, true)]) : exec i s = s.prefetch o imm := by
  simp only [List.mem_cons, Prod.mk.injEq, List.not_mem_nil, or_false] at h
  rcases h with ⟨rfl, rfl⟩ | ⟨rfl, rfl⟩ <;> rfl

end

/-! ### PREF (R172) -/

namespace State.SameButTlb

/-- A look-up of a core changes cached translations alone. -/
theorem translate (s : State) (core ctx va : Nat) (acc : Access) (shadow : Bool) :
    s.SameButTlb (s.translate core ctx va acc shadow).2 := by
  have huse (e : TlbEntry) (t : State) (ht : s.SameButTlb t) : s.SameButTlb
      (if (acc == .write && !e.w) || (acc == .fetch && !e.x) then ((.error 0x02 : Except Nat Nat), t)
        else (t.leafPhys ctx va e.base e.pa e.win shadow, t.tlbTouch [core, 256 + dieOf core] ctx va (acc == .write))).2 := by
    split
    · exact ht
    · exact ht.trans rfl
  unfold State.translate
  dsimp only
  split
  · rfl
  · split
    · exact huse _ s rfl
    · exact huse _ _ (tlbFill s _ _ _ _ _)
    ·
      split
      · rfl
      · exact .trans (t := s.walked) rfl ((tlbFill _ _ _ _ _ _).trans (tlbFill _ _ _ _ _ _))

theorem touchPages (core ctx : Nat) : ∀ (xs : List Int) (s : State), s.SameButTlb (s.touchPages core ctx xs)
  | [], s => refl s
  | x :: xs, s => by
    refine .trans ?_ (touchPages core ctx xs _)
    split
    · rfl
    · have ht := translate s core ctx x.toNat .read false
      cases hr : s.translate core ctx x.toNat .read with
      | mk r s1 =>
        rw [hr] at ht
        cases r with
        | ok _ => exact ht
        | error _ => rfl

end State.SameButTlb

theorem prefetch_plain {s : State} {a : Actx} {o : Opnds} {imm : Bool} (h : s.Acts a o.gn o.g)
    (hpx : s.anyPx a (a.lanes o) (addrSrcs o imm (o.m 3)) = false) : s.prefetch o imm =
      .next ((s.touchPages a.core a.blk.ctx ((lanesOf (a.lanes o)).map (s.accessAddr a o imm (o.m 3)))).retire a) := by
  simp only [State.prefetch, run_acts h, hpx, Bool.false_eq_true, if_false]

/-! ### A scratchpad access in its turn (R199) -/

@[simp] theorem spadWrite_ops (s : State) (b x : Nat) (vs : List Byte) : (s.spadWrite b x vs).ops = s.ops := by
  unfold State.spadWrite
  split <;> rfl

@[simp] theorem noteSpad_ops (s : State) (t : MemTag) (b : Nat) (rs ws : List Nat) : (s.noteSpad t b rs ws).ops = s.ops := rfl

theorem spadParts_cons (s : State) (t : MemTag) (b : Nat) (p : Nat × List Byte) (ps : List (Nat × List Byte)) :
    s.spadParts t b (p :: ps) =
      ((s.noteSpad t b [] ((List.range p.2.length).map (p.1 + ·))).spadWrite b p.1 p.2).spadParts t b ps := rfl

@[simp] theorem spadParts_ops (t : MemTag) (b : Nat) : ∀ (ps : List (Nat × List Byte)) (s : State), (s.spadParts t b ps).ops = s.ops
  | [], _ => rfl
  | p :: ps, s => by rw [spadParts_cons, spadParts_ops t b ps, spadWrite_ops, noteSpad_ops]

@[simp] theorem spadAtoms_ops (t : MemTag) (b : Nat) (op : AtomOp) (u : Bool) (size : Nat) (dst : Option Nat) :
    ∀ (xs : List AtomLane) (s : State), (s.spadAtoms t b op u size dst xs).1.ops = s.ops
  | [], _ => rfl
  | x :: xs, s => by
    rw [State.spadAtoms]
    dsimp only
    rw [spadAtoms_ops t b op u size dst xs]
    split
    · rw [spadWrite_ops, noteSpad_ops]
    · exact noteSpad_ops ..

theorem setOp_ops_congr {s t : State} (h : t.ops = s.ops) (id : Nat) (k : OpKind) : (t.setOp id k).ops = (s.setOp id k).ops := by
  rw [State.setOp, State.setOp, h]

/-- An access that is made leaves its operation with none to make, and every other operation as it was. -/
theorem performSpad_ops (s : State) {op : Op} (hon : op.kind.onSpad = true) (hpm : ∀ ls, op.kind ≠ .pmats ls) :
    ∃ k, k.onSpad = false ∧ (s.performSpad op).ops = (s.setOp op.id k).ops := by
  unfold State.performSpad
  split
  next => exact ⟨_, rfl, rfl⟩
  next parts _ => exact ⟨.done [], rfl, setOp_ops_congr (spadParts_ops op.tag op.block parts s) op.id _⟩
  next k u size lanes dst _ => exact ⟨.done _, rfl, setOp_ops_congr (spadAtoms_ops op.tag op.block k u size dst lanes s) op.id _⟩
  next =>
    refine ⟨.done [], rfl, setOp_ops_congr ?_ op.id _⟩
    split
    · exact putAcc_ops ..
    · rfl
  next hlds hsts hatoms htile =>
    exfalso
    revert hon
    cases hk : op.kind with
    | lds ls => exact absurd hk (hlds ls)
    | sts ls => exact absurd hk (hsts ls)
    | atoms k u size ls dst => exact absurd hk (hatoms k u size ls dst)
    | tile o sc x f regs => exact absurd hk (htile o sc x f regs)
    | pmats ls => exact absurd hk (hpm ls)
    | _ => simp [OpKind.onSpad]

theorem op?_of_ops {s t : State} (h : t.ops = s.ops) (id : Nat) : t.op? id = s.op? id := by rw [State.op?, State.op?, h]

/-- The operations of an identity have no access to scratchpad left to make. -/
def State.SpadDone (s : State) (id : Nat) : Prop := ∀ q ∈ s.ops, q.id = id → q.kind.onSpad = false

theorem spadDone_setOp (s : State) {id : Nat} {k : OpKind} (hk : k.onSpad = false) : (s.setOp id k).SpadDone id := by
  intro q hq hid
  obtain ⟨z, _, rfl⟩ := List.mem_map.mp hq
  by_cases hz : z.id = id
  · rw [if_pos hz]
    exact hk
  · rw [if_neg hz] at hid
    exact absurd hid hz

theorem State.SpadDone.of_ops {s t : State} {id : Nat} (h : s.SpadDone id) (ho : t.ops = s.ops) : t.SpadDone id := by
  intro q hq
  exact h q (ho ▸ hq)

theorem State.SpadDone.setOp {s : State} {id j : Nat} (h : s.SpadDone id) (hj : j ≠ id) (k : OpKind) : (s.setOp j k).SpadDone id := by
  intro q hq hid
  obtain ⟨z, hz, rfl⟩ := List.mem_map.mp hq
  by_cases hzj : z.id = j
  · rw [if_pos hzj] at hid
    exact absurd (hzj.symm.trans hid) hj
  · rw [if_neg hzj] at hid ⊢
    exact h z hz hid

theorem op?_setOp_of_ne (s : State) {id j : Nat} (hj : j ≠ id) (k : OpKind) : (s.setOp j k).op? id = s.op? id := by
  rw [State.op?, State.setOp, List.find?_map]
  have hid : ((fun o : Op => o.id == id) ∘ fun o : Op => if o.id = j then { o with kind := k } else o) = fun o => o.id == id := by
    funext o
    simp only [Function.comp]
    split <;> rfl
  rw [hid, ← State.op?]
  cases hop : s.op? id with
  | none => rfl
  | some op =>
    have hne : op.id ≠ j := fun e => hj (e.symm.trans (op?_id hop))
    rw [Option.map_some, if_neg hne]

/-- An operation with no access left to make stays as it is while the accesses of warps are made. -/
theorem op?_drainSpad {id : Nat} (b wi upto : Nat) : ∀ (n : Nat) (s : State), s.SpadDone id → (s.drainSpad b wi upto n).op? id = s.op? id
  | 0, _, _ => rfl
  | n + 1, s, h => by
    rw [State.drainSpad]
    cases hop : s.oldestSpad b wi with
    | none => rfl
    | some op =>
      obtain ⟨hmem, _, _, hon⟩ := oldestSpad_some hop
      have hne : op.id ≠ id := fun e => Bool.false_ne_true ((h op hmem e).symm.trans hon)
      dsimp only
      split
      · rfl
      next hpm =>
        split
        · obtain ⟨k, _, hops⟩ := performSpad_ops s hon hpm
          rw [op?_drainSpad b wi upto n _ ((h.setOp hne k).of_ops hops), op?_of_ops hops, op?_setOp_of_ne s hne k]
        · rfl

/-- The access that is its warp's oldest is made first in its turn, and its operation then has what the access gave it. -/
theorem spadTurn_oldest {s : State} {op : Op} {k : OpKind} (hop : s.op? op.id = some op) (hq : s.oldestSpad op.block op.warp = some op)
    (hpm : ∀ ls, op.kind ≠ .pmats ls) (hk : k.onSpad = false) (hops : (s.performSpad op).ops = (s.setOp op.id k).ops) :
    s.spadTurn op = ((s.performSpad op).drainSpad op.block op.warp op.id (s.ops.length - 1), some { op with kind := k }) := by
  have hlen : s.ops.length = s.ops.length - 1 + 1 := by
    have := List.length_pos_of_mem (oldestSpad_some hq).1
    omega
  have hdrain : s.drainSpad op.block op.warp op.id s.ops.length =
      (s.performSpad op).drainSpad op.block op.warp op.id (s.ops.length - 1) := by
    rw [hlen, State.drainSpad, hq, Nat.add_sub_cancel]
    dsimp only
    split
    next ls hls => exact absurd hls (hpm ls)
    next => rw [if_pos (Nat.le_refl _)]
  have hdone : (s.performSpad op).SpadDone op.id := (spadDone_setOp s hk).of_ops hops
  have hop' := op?_drainSpad op.block op.warp op.id (s.ops.length - 1) _ hdone
  rw [op?_of_ops hops, op?_setOp, hop, Option.map_some] at hop'
  rw [State.spadTurn, hdrain, hop']

section
variable {s : State} {op : Op} (hop : s.op? (s.arg 0) = some op) (hq : s.oldestSpad op.block op.warp = some op)
include hop hq

theorem exec_loadComplete_lds {lanes : List LaneLoad} (hk : op.kind = .lds lanes) :
    exec .loadComplete s = .next ((((s.performSpad op).drainSpad op.block op.warp op.id (s.ops.length - 1)).applyWrites
      op.core op.block op.warp (lanes.flatMap fun x => regWrites x.dst x.scalar (x.lane % 32) (loadWords x.sz (s.spadLane op.block x)))).finishOp
        op) := by
  have hops : (s.performSpad op).ops = (s.setOp op.id (.fill (lanes.flatMap fun x => x.regs (s.spadLane op.block x)))).ops := by
    rw [State.performSpad, hk]
    rfl
  have hturn := spadTurn_oldest (op?_self hop) hq (by simp [hk]) rfl hops
  simp only [exec_loadComplete, execLoadComplete, hop, hk, hturn]
  rfl

theorem exec_operationComplete_sts {parts : List (Nat × List Byte)} (hk : op.kind = .sts parts) :
    exec .operationComplete s = .next ((((s.performSpad op).drainSpad op.block op.warp op.id (s.ops.length - 1)).applyWrites
      op.core op.block op.warp []).finishOp op) := by
  have hops : (s.performSpad op).ops = (s.setOp op.id (.done [])).ops := by
    rw [State.performSpad, hk]
    exact setOp_ops_congr (spadParts_ops op.tag op.block parts s) op.id _
  have hturn := spadTurn_oldest (op?_self hop) hq (by simp [hk]) rfl hops
  simp only [exec_operationComplete, execOperationComplete, State.complete, hop, hk, hturn]

end

/-! ### What an STS writes (R164, R199) -/

theorem spadWrite_acc : ∀ (vs : List Byte) (b : Block) (x : Nat), (b.spadWrite x vs).acc = b.acc
  | [], _, _ => rfl
  | _ :: vs, _, x => spadWrite_acc vs _ (x + 1)

theorem spadWrite_warps : ∀ (vs : List Byte) (b : Block) (x : Nat), (b.spadWrite x vs).warps = b.warps
  | [], _, _ => rfl
  | _ :: vs, _, x => spadWrite_warps vs _ (x + 1)

theorem spadWrite_wf : ∀ (vs : List Byte) (b : Block) (x : Nat), cellWf 0#8 b.spad = true → cellWf 0#8 (b.spadWrite x vs).spad = true
  | [], _, _, h => h
  | v :: vs, b, x, h => spadWrite_wf vs { b with spad := cellPut 0#8 b.spad x v } (x + 1) (cellPut_wf x v h)

theorem spoilQueues_eq (b : Block) (x n : Nat) : b.spoilQueues x n = { b with qspoiled := (b.spoilQueues x n).qspoiled } := by
  unfold Block.spoilQueues
  split <;> rfl

/-- A block with the bytes of a part of an STS written. -/
def Block.putPart (b : Block) (p : Nat × List Byte) : Block := (b.spadWrite p.1 p.2).spoilQueues p.1 p.2.length

theorem putPart_frame (b : Block) (p : Nat × List Byte) :
    (b.putPart p).id = b.id ∧ (b.putPart p).acc = b.acc ∧ (b.putPart p).warps = b.warps ∧
      (b.putPart p).spad = (b.spadWrite p.1 p.2).spad := by
  rw [Block.putPart, spoilQueues_eq]
  exact ⟨spadWrite_id _ _ _, spadWrite_acc _ _ _, spadWrite_warps _ _ _, rfl⟩

/-- Parts written one after another change the block's scratchpad, and no other part of it that an instruction sees. -/
theorem putParts_frame : ∀ (ps : List (Nat × List Byte)) (b : Block), (ps.foldl Block.putPart b).id = b.id ∧
    (ps.foldl Block.putPart b).acc = b.acc ∧ (ps.foldl Block.putPart b).warps = b.warps
  | [], _ => ⟨rfl, rfl, rfl⟩
  | p :: ps, b => by
    obtain ⟨hid, hacc, hwarps, _⟩ := putPart_frame b p
    obtain ⟨hid', hacc', hwarps'⟩ := putParts_frame ps (b.putPart p)
    exact ⟨hid'.trans hid, hacc'.trans hacc, hwarps'.trans hwarps⟩

theorem spadByte_putPart {b : Block} (h : cellWf 0#8 b.spad = true) (p : Nat × List Byte) (y : Nat) :
    (b.putPart p).spadByte y = if p.1 ≤ y ∧ y < p.1 + p.2.length then nth 0#8 p.2 (y - p.1) else b.spadByte y := by
  rw [← spadByte_spadWrite p.2 p.1 y h, Block.spadByte, Block.spadByte, (putPart_frame b p).2.2.2]

theorem putPart_wf {b : Block} (h : cellWf 0#8 b.spad = true) (p : Nat × List Byte) : cellWf 0#8 (b.putPart p).spad = true := by
  rw [(putPart_frame b p).2.2.2]
  exact spadWrite_wf _ _ _ h

theorem putParts_wf : ∀ (ps : List (Nat × List Byte)) {b : Block}, cellWf 0#8 b.spad = true →
    cellWf 0#8 (ps.foldl Block.putPart b).spad = true
  | [], _, h => h
  | p :: ps, _, h => putParts_wf ps (putPart_wf h p)

/-- A byte that no part covers keeps its value. -/
theorem spadByte_putParts_outside {y : Nat} : ∀ (ps : List (Nat × List Byte)) {b : Block}, cellWf 0#8 b.spad = true →
    (∀ q ∈ ps, y < q.1 ∨ q.1 + q.2.length ≤ y) → (ps.foldl Block.putPart b).spadByte y = b.spadByte y
  | [], _, _, _ => rfl
  | p :: ps, b, h, hout => by
    rw [List.forall_mem_cons] at hout
    rw [List.foldl_cons, spadByte_putParts_outside ps (putPart_wf h p) hout.2, spadByte_putPart h, if_neg (by omega)]

/-- A byte holds what the last part that covers it gives. -/
theorem spadByte_putParts_last {y : Nat} (n : List (Nat × List Byte)) {q : Nat × List Byte} {m : List (Nat × List Byte)} {b : Block}
    (h : cellWf 0#8 b.spad = true) (hlo : q.1 ≤ y) (hhi : y < q.1 + q.2.length)
    (hafter : ∀ r ∈ m, y < r.1 ∨ r.1 + r.2.length ≤ y) :
    ((n ++ q :: m).foldl Block.putPart b).spadByte y = nth 0#8 q.2 (y - q.1) := by
  have hwf := putParts_wf n h
  rw [List.foldl_append, List.foldl_cons, spadByte_putParts_outside m (putPart_wf hwf q) hafter, spadByte_putPart hwf, if_pos ⟨hlo, hhi⟩]

theorem block?_spadWrite {s : State} {n : Nat} {b : Block} (h : s.block? n = some b) (x : Nat) (vs : List Byte) (k : Nat) :
    (s.spadWrite n x vs).block? k = if k = n then some (b.putPart (x, vs)) else s.block? k := by
  have hid : (b.putPart (x, vs)).id = n := (putPart_frame b (x, vs)).1.trans (State.block?_id h)
  have hput : s.spadWrite n x vs = s.setBlock (b.putPart (x, vs)) := by simp only [State.spadWrite, h, Block.putPart]
  rw [hput, State.block?_setBlock, hid]
  split
  next hk => rw [hk, h, Option.map_some]
  next => rfl

theorem block?_spadParts (t : MemTag) {n : Nat} : ∀ (ps : List (Nat × List Byte)) {s : State} {b : Block}, s.block? n = some b →
    ∀ k, (s.spadParts t n ps).block? k = if k = n then some (ps.foldl Block.putPart b) else s.block? k
  | [], s, b, h, k => by
    by_cases hk : k = n
    · rw [if_pos hk, hk]
      exact h
    · rw [if_neg hk]
      rfl
  | p :: ps, s, b, h, k => by
    have hwrite := block?_spadWrite (s := s.noteSpad t n [] ((List.range p.2.length).map (p.1 + ·))) h p.1 p.2
    have hself := hwrite n
    rw [if_pos rfl] at hself
    rw [spadParts_cons, block?_spadParts t ps hself k, hwrite]
    split
    · rfl
    · rfl

/-- The states differ in no more than the blocks and the record of accesses. -/
def State.SameButBlocks (s t : State) : Prop := { t with blocks := s.blocks, log := s.log } = s

namespace State.SameButBlocks
variable {s t u : State}

theorem refl (s : State) : s.SameButBlocks s := rfl

theorem trans (h : s.SameButBlocks t) (h' : t.SameButBlocks u) : s.SameButBlocks u := by
  have hu := congrArg (fun x : State => { x with blocks := s.blocks, log := s.log }) h'
  exact hu.trans h

/-- What looks at neither is the same. -/
theorem field {α : Type} (h : s.SameButBlocks t) (f : State → α) (hf : f { t with blocks := s.blocks, log := s.log } = f t) :
    f t = f s := hf.symm.trans (congrArg f h)

theorem noteSpad (s : State) (t : MemTag) (n : Nat) (rs ws : List Nat) : s.SameButBlocks (s.noteSpad t n rs ws) := rfl

theorem spadWrite (s : State) (n x : Nat) (vs : List Byte) : s.SameButBlocks (s.spadWrite n x vs) := by
  unfold State.spadWrite
  split <;> rfl

theorem spadParts (t : MemTag) (n : Nat) : ∀ (ps : List (Nat × List Byte)) (s : State), s.SameButBlocks (s.spadParts t n ps)
  | [], s => refl s
  | p :: ps, s => by
    rw [spadParts_cons]
    exact ((noteSpad s t n _ _).trans (spadWrite _ n p.1 p.2)).trans (spadParts t n ps _)

end State.SameButBlocks

/-! ### An STS that issues changes no memory and no register (R169, R199) -/

/-- A flag that counts up changes no register. -/
theorem countUp_registers (w : Warp) (f : Option Nat) : (w.countUp f).vregs = w.vregs ∧ (w.countUp f).sregs = w.sregs ∧
    (w.countUp f).preds = w.preds := by
  cases f <;> exact ⟨rfl, rfl, rfl⟩

/-- An operation that is put into flight and whose instruction retires leaves memory, the block's storage and the registers. -/
theorem startOp_retire_keeps {s : State} {a : Actx} (hw : s.warp? a.bid a.wi = some (a.blk, a.w)) (o : Opnds) (k : OpKind) :
    ∃ blk w, ((s.startOp a o k).retire a).warp? a.bid a.wi = some (blk, w) ∧ ((s.startOp a o k).retire a).dram = s.dram ∧
      ((s.startOp a o k).retire a).l2 = s.l2 ∧ blk.acc = a.blk.acc ∧ blk.spad = a.blk.spad ∧ w.vregs = a.w.vregs ∧
      w.sregs = a.w.sregs ∧ w.preds = a.w.preds := by
  have hpush : (s.pushOp a (a.flagOf o.fs) none k).warp? a.bid a.wi = some (a.blk, a.w) := hw
  have hstart := warp?_updWarp_self hpush fun w => w.countUp (a.flagOf o.fs)
  have hretire := warp?_updWarp_self hstart fun w => (w.nextWord a.slot).settled
  obtain ⟨hv, hs, hp⟩ := countUp_registers a.w (a.flagOf o.fs)
  have hpaths := (Warp.PathsOnly.nextWord (a.w.countUp (a.flagOf o.fs)) a.slot).trans (.settled _)
  exact ⟨_, _, hretire, (State.updWarp_dram ..).trans (State.updWarp_dram ..), (State.updWarp_l2 ..).trans (State.updWarp_l2 ..),
    rfl, rfl, (hpaths.field Warp.vregs).trans hv, (hpaths.field Warp.sregs).trans hs, (hpaths.field Warp.preds).trans hp⟩

/-- Settles O24: the forms issue past their checks, an access is made first in its turn, and the parts of an STS are written one
after another. -/
theorem scratchpad : Obligations.Scratchpad := by
  refine ⟨⟨fun o s a i imm => ⟨fun hc hpx => ⟨?_, ?_, ?_⟩, ?_⟩, fun s op hop hq => ⟨?_, ?_⟩⟩, ?_, ?_⟩
  · intro hi hfits
    rw [exec_ldsForm s hi, loadSpad_plain hc hpx (checkAddr_lanes s a .spad hfits)]
  · intro hi hfits hdata
    rw [exec_stsForm s hi, storeSpad_plain hc hpx (dataPx_none_lanes hdata) (checkAddr_lanes s a .spad hfits)]
  · intro s1 lanes hi hfits hread
    rw [exec_ldcForm s hi, loadConst_plain hc hpx (checkAddr_lanes s a .const hfits) hread]
  · intro hi hacts hpx
    rw [exec_prefForm s hi, prefetch_plain hacts hpx]
    exact ⟨_, rfl, congrArg (fun x : State => { x with pageHits := s.pageHits })
      (State.SameButTlb.touchPages a.core a.blk.ctx ((lanesOf (a.lanes o)).map (s.accessAddr a o imm (o.m 3))) s)⟩
  · intro lanes hk
    refine ⟨?_, exec_loadComplete_lds hop hq hk⟩
    rw [State.performSpad, hk]
    rfl
  · exact fun parts hk => exec_operationComplete_sts hop hq hk
  · intro o s a i imm hi size x hc hpx hlanes
    have hdata := dataPx_none_lanes fun l hl => (hlanes l hl).1
    have hfits := checkAddr_lanes s a .spad fun l hl => (hlanes l hl).2
    obtain ⟨blk, w, hkeeps⟩ := startOp_retire_keeps (actx_eq_some hc.1.1).2.1 o
      (.sts ((lanesOf (a.lanes o)).map fun l => ((x l).toNat, s.storedBytes a o l)))
    exact ⟨_, blk, w, (exec_stsForm s hi).trans (storeSpad_plain hc hpx hdata hfits), hkeeps⟩
  · intro s op b parts hk hb hwf
    have hperform : s.performSpad op = (s.spadParts op.tag op.block parts).setOp op.id (.done []) := by rw [State.performSpad, hk]
    have hrest := State.SameButBlocks.spadParts op.tag op.block parts s
    have hdram : (s.spadParts op.tag op.block parts).dram = s.dram := hrest.field State.dram rfl
    have hl2 : (s.spadParts op.tag op.block parts).l2 = s.l2 := hrest.field State.l2 rfl
    have hblock := block?_spadParts op.tag parts hb
    obtain ⟨_, hacc, hwarps⟩ := putParts_frame parts b
    rw [hperform]
    refine ⟨parts.foldl Block.putPart b, (hblock op.block).trans (if_pos rfl), hacc, hwarps, hdram, hl2, fun n hn => (hblock n).trans (if_neg hn), fun p => ⟨spadByte_putParts_outside parts hwf, ?_⟩⟩
    rintro n q m rfl hlo hhi hafter
    exact spadByte_putParts_last n hwf hlo hhi hafter

end Sys2Proof.Machine
end

section
/-!
PROOF. A CSRW whose block is being ended (O39).
-/
namespace Sys2Proof.Machine
open Sys2Proof

/-- A block of context 1 on core 0 that the device is to end, with no warp left. -/
def endingBlock : Block := { (default : Block) with ctx := 1, loc := .core 0, ending := some (0, 0, 0#64, 0#64) }

/-- A CSRW of 0 to SCHED_EXP of context 0, held by that block. -/
def csrwOfContext0 : Op := { (default : Op) with ctx := 0, kind := .csrw 0 0x020 0#32 }

/-- Context 1 with a ring of 16 fault records, all of which wait for the host. -/
def fullRing : Ctx := { Ctx.created with frBase := 4#64, frTail := 16#32 }

/-- The device after reset with these. -/
def csrwState : State :=
  { State.reset with args := [0], blocks := [endingBlock], ops := [csrwOfContext0], ctxs := setNth State.reset.ctxs 1 fullRing }

/-- Once the CSRW has completed nothing keeps the block from ending, and its fault record is held for context 1 (R308, R319). -/
theorem heldRecs_complete_csrwState :
    exec .operationComplete csrwState = .next (csrwState.complete csrwOfContext0) ∧
    ((csrwState.complete csrwOfContext0).ctx 1).heldRecs ≠ (csrwState.ctx 1).heldRecs := by
  refine ⟨rfl, ?_⟩
  decide +kernel

/-- Refutes O39: the block that a CSRW of context 0 belongs to is of context 1 and ends with it, and context 1 takes its fault
record. -/
theorem not_controlRegisterInstructions : ¬ Obligations.ControlRegisterInstructions := by
  rintro ⟨-, completes⟩
  obtain ⟨hexec, hheld⟩ := heldRecs_complete_csrwState
  obtain ⟨t, ht, hothers, -⟩ := completes csrwState csrwOfContext0 0 0x020 0#32 rfl rfl (by decide)
  obtain rfl : csrwState.complete csrwOfContext0 = t := by simpa using hexec.symm.trans ht
  exact hheld (congrArg Ctx.heldRecs (hothers 1 (by decide)))

end Sys2Proof.Machine
end

section
/-!
PROOF. Arrival objects are set up, advanced, awaited and tested (O27).
-/
namespace Sys2Proof.Machine
open Sys2Proof

/-! ### Bytes of a number, and bytes read back (R1, R158) -/

theorem length_leBytes (n x : Nat) : (leBytes n x).length = n := by rw [leBytes, List.length_map, List.length_range]

theorem leNat_leBytes (x : Nat) : ∀ n, leNat (leBytes n x) = x % 256 ^ n
  | 0 => by simp [leBytes, leNat, Nat.mod_one]
  | n + 1 => by
    have hcat : leBytes (n + 1) x = leBytes n x ++ [BitVec.ofNat 8 (x >>> (8 * n))] := by simp [leBytes, List.range_succ]
    have hpow : (2 : Nat) ^ (8 * n) = 256 ^ n := pow_mul 2 8 n
    have hsplit : x % 256 ^ (n + 1) = x % 256 ^ n + 256 ^ n * (x / 256 ^ n % 2 ^ 8) := Nat.mod_mul
    rw [hcat, leNat_concat, leNat_leBytes x n, length_leBytes, BitVec.toNat_ofNat, Nat.shiftRight_eq_div_pow, hpow, hsplit,
      Nat.mul_comm (256 ^ n)]

/-- Bytes that were written to scratchpad are read. -/
theorem spadBytes_spadWrite_self {b : Block} (h : cellWf 0#8 b.spad = true) (x : Nat) (vs : List Byte) :
    (b.spadWrite x vs).spadBytes x vs.length = vs := by
  refine List.ext_getElem (by simp [Block.spadBytes]) fun i h1 h2 => ?_
  have hin : x ≤ x + i ∧ x + i < x + vs.length := by omega
  have hget : (b.spadWrite x vs).spadByte (x + i) = vs[i] := by
    rw [spadByte_spadWrite vs x (x + i) h, if_pos hin, Nat.add_sub_cancel_left, nth_eq_getD]
    simp [h2]
  simpa [Block.spadBytes] using hget

/-! ### An object from its bytes (R174) -/

/-- The fields of an object's bytes are the object's, its counts modulo 2^16. -/
theorem ofNat_bytes (x : ArrObj) (old : Nat) : ArrObj.ofNat (leNat (x.bytes old)) =
    { x with expected := x.expected % 2 ^ 16, arrived := x.arrived % 2 ^ 16 } := by
  obtain ⟨phase, err, expected, arrived⟩ := x
  have hpow : (256 : Nat) ^ 8 = 2 ^ 64 := by norm_num
  simp only [ArrObj.bytes, leNat_leBytes, hpow, ArrObj.ofNat, ArrObj.mk.injEq, Nat.testBit_eq_decide_div_mod_eq]
  cases phase <;> cases err <;> simp only [Bool.false_eq_true, if_false, if_true, decide_eq_true_eq, decide_eq_false_iff_not] <;>
    omega

/-- The object at whose offset its bytes were written. -/
theorem arrObj_spadWrite {s : State} {bid : Nat} {blk : Block} (hb : s.block? bid = some blk) (hwf : cellWf 0#8 blk.spad = true)
    (obj old : Nat) {x : ArrObj} (he : x.expected < 2 ^ 16) (ha : x.arrived < 2 ^ 16) :
    (s.spadWrite bid obj (x.bytes old)).arrObj bid obj = x := by
  have hlen : (x.bytes old).length = 8 := length_leBytes _ _
  have hread := spadBytes_spadWrite_self hwf obj (x.bytes old)
  rw [hlen] at hread
  rw [State.arrObj, spadRead_spadWrite hb, hread, ofNat_bytes, Nat.mod_eq_of_lt he, Nat.mod_eq_of_lt ha]

theorem arrObj_lt (s : State) (bid obj : Nat) : (s.arrObj bid obj).expected < 2 ^ 16 ∧ (s.arrObj bid obj).arrived < 2 ^ 16 :=
  ⟨Nat.mod_lt _ (by norm_num), Nat.mod_lt _ (by norm_num)⟩

/-- An arrival keeps the counts in their fields: it starts the count again before that passes what is expected. -/
theorem arrive_lt {x : ArrObj} (he : x.expected < 2 ^ 16) (n : Nat) (err : Bool) :
    (x.arrive n err).expected < 2 ^ 16 ∧ (x.arrive n err).arrived < 2 ^ 16 := by
  dsimp only [ArrObj.arrive]
  split
  · exact ⟨he, by norm_num⟩
  · exact ⟨he, by dsimp only; omega⟩

theorem arrive_short {x : ArrObj} {n : Nat} (err : Bool) (h : x.arrived + n < x.expected) :
    x.arrive n err = { x with err := x.err || err, arrived := x.arrived + n } := if_neg (by omega)

theorem arrive_full {x : ArrObj} {n : Nat} (err : Bool) (h : x.expected ≤ x.arrived + n) :
    x.arrive n err = { phase := !x.phase, err := x.err || err, expected := x.expected, arrived := 0 } := if_pos h

theorem arrObj_arriveObj {s : State} {bid : Nat} {blk : Block} (hb : s.block? bid = some blk) (hwf : cellWf 0#8 blk.spad = true)
    (obj n : Nat) (err : Bool) : (s.arriveObj bid obj n err).arrObj bid obj = (s.arrObj bid obj).arrive n err := by
  obtain ⟨he, ha⟩ := arrive_lt (arrObj_lt s bid obj).1 n err
  exact arrObj_spadWrite hb hwf obj _ he ha

/-! ### Instructions over an arrival object (R174 to R176) -/

/-- With the earlier accesses of the warp applied and none left, an instruction over scratchpad acts. -/
theorem afterSpad_clear {s q : State} (hq : q = s.spadReady) (hheld : q.spadHeld = false) (gn : Bool) (g : BitVec 3)
    (act : State → Host.Outcome State Fault Refusal) : s.afterSpad gn g act = act q := by
  subst hq
  unfold State.afterSpad
  cases hs : s.actx with
  | none => simp only [State.spadReady, hs]
  | some a => simp only [hheld, Bool.false_and, Bool.false_eq_true, if_false]

theorem checkObj_good {s : State} {a : Actx} {obj : Nat} (h : obj % 8 = 0) (hin : obj + 8 ≤ s.spadSize a.blk) :
    s.checkObj a obj = none := by
  simp only [State.checkObj, h, ne_eq, not_true_eq_false, if_false, gt_iff_lt, Nat.not_lt.mpr hin]

theorem checkObj_misaligned {s : State} (a : Actx) {obj : Nat} (h : obj % 8 ≠ 0) :
    s.checkObj a obj = some (s.raiseAt a Code.misalign 0 (BitVec.ofNat 64 obj)) := if_pos h

section
variable {s : State} {a : Actx} {o : Opnds} (h : s.Acts a o.gn o.g) (act : Actx → Mask → Nat → State)
include h

theorem withObj_good (hal : (s.scalar a o.a o.sa).toNat % 8 = 0) (hin : (s.scalar a o.a o.sa).toNat + 8 ≤ s.spadSize a.blk) :
    s.withObj o act = .next (act a (a.lanes o) (s.scalar a o.a o.sa).toNat) := by
  rw [State.withObj, run_acts h]
  simp only [checkObj_good hal hin]

theorem withObj_misaligned (hal : (s.scalar a o.a o.sa).toNat % 8 ≠ 0) :
    s.withObj o act = .next (s.raiseAt a Code.misalign 0 (BitVec.ofNat 64 (s.scalar a o.a o.sa).toNat)) := by
  rw [State.withObj, run_acts h]
  simp only [checkObj_misaligned a hal]

end

section
variable {s q : State} {a : Actx} {o : Opnds} (hq : q = s.spadReady) (hheld : q.spadHeld = false) (h : q.Acts a o.gn o.g)
include hq hheld h

theorem exec_arrinit_acts (hal : (q.scalar a o.a o.sa).toNat % 8 = 0)
    (hin : (q.scalar a o.a o.sa).toNat + 8 ≤ q.spadSize a.blk) : exec (.arrinit o) s = .next (
      let obj := (q.scalar a o.a o.sa).toNat
      if q.arrivalDue a.bid obj then
        (((q.freeBytes 8).2.noteObj a obj false true).spadWrite a.bid obj (q.freeBytes 8).1).retire a
      else ((q.noteObj a obj false true).spadWrite a.bid obj
        (ArrObj.bytes { phase := false, err := false, expected := o.imm16.toNat, arrived := 0 } (leNat (q.spadRead a.bid obj 8)))).retire a) := by
  rw [exec_arrinit, execArrinit, afterSpad_clear hq hheld, withObj_good h _ hal hin]

theorem exec_arrive_acts (hal : (q.scalar a o.a o.sa).toNat % 8 = 0)
    (hin : (q.scalar a o.a o.sa).toNat + 8 ≤ q.spadSize a.blk) : exec (.arrive o) s = .next
      (((q.noteObj a (q.scalar a o.a o.sa).toNat true true).arriveObj a.bid (q.scalar a o.a o.sa).toNat o.imm16.toNat false).retire a) := by
  rw [exec_arrive, execArrive, afterSpad_clear hq hheld, withObj_good h _ hal hin]

theorem exec_arrwait_acts (hal : (q.scalar a o.a o.sa).toNat % 8 = 0)
    (hin : (q.scalar a o.a o.sa).toNat + 8 ≤ q.spadSize a.blk) : exec (.arrwait o) s = .next (
      let obj := (q.scalar a o.a o.sa).toNat
      let x := q.arrObj a.bid obj
      if x.phase = o.imm16.getLsbD 0 then q
      else if x.err then (q.observe a.bid a.wi a.core obj).raise a Code.dfault 0x05
      else (q.observe a.bid a.wi a.core obj).retire a) := by
  rw [exec_arrwait, execArrwait, afterSpad_clear hq hheld, withObj_good h _ hal hin]

theorem exec_arrwaitTest_acts (hal : (q.scalar a o.a o.sa).toNat % 8 = 0)
    (hin : (q.scalar a o.a o.sa).toNat + 8 ≤ q.spadSize a.blk) : exec (.arrwaitTest o) s = .next (
      let obj := (q.scalar a o.a o.sa).toNat
      let done := (q.arrObj a.bid obj).phase != o.imm16.getLsbD 0
      ((if done then q.observe a.bid a.wi a.core obj else q.noteObj a obj true false).wrP a o.d.toNat (a.lanes o) fun _ => done).retire a) := by
  rw [exec_arrwaitTest, execArrwaitTest, afterSpad_clear hq hheld, withObj_good h _ hal hin]

theorem exec_object_misaligned (hal : (q.scalar a o.a o.sa).toNat % 8 ≠ 0) {i : Instr}
    (hi : i ∈ [Instr.arrinit o, .arrive o, .arrwait o, .arrwaitTest o]) :
    exec i s = .next (q.raiseAt a Code.misalign 0 (BitVec.ofNat 64 (q.scalar a o.a o.sa).toNat)) := by
  simp only [List.mem_cons, List.not_mem_nil, or_false] at hi
  rcases hi with rfl | rfl | rfl | rfl
  · rw [exec_arrinit, execArrinit, afterSpad_clear hq hheld, withObj_misaligned h _ hal]
  · rw [exec_arrive, execArrive, afterSpad_clear hq hheld, withObj_misaligned h _ hal]
  · rw [exec_arrwait, execArrwait, afterSpad_clear hq hheld, withObj_misaligned h _ hal]
  · rw [exec_arrwaitTest, execArrwaitTest, afterSpad_clear hq hheld, withObj_misaligned h _ hal]

end

theorem block?_of_warp? {s : State} {b wi : Nat} {blk : Block} {w : Warp} (h : s.warp? b wi = some (blk, w)) :
    s.block? b = some blk := by
  simp only [State.warp?, Option.bind_eq_some_iff, Option.map_eq_some_iff, Prod.mk.injEq] at h
  obtain ⟨_, hb, _, _, rfl, _⟩ := h
  exact hb

/-- Settles O27: each instruction past its checks, and an object read back from the bytes it was written as. -/
theorem arrivalObjects : Obligations.ArrivalObjects := by
  refine ⟨fun o s q a hq hheld h => ⟨fun hal hin => ⟨fun hdue => ?_, fun hdue => ?_, ?_⟩, fun hal i hi => ?_⟩,
    fun o s q a hq hheld h => ⟨fun hal hin => ⟨fun hph => ?_, fun hph herr => ?_, fun hph herr => ?_, fun hph => ?_, fun hph => ?_⟩,
      fun hal i hi => ?_⟩, fun x n err => ⟨arrive_short err, arrive_full err⟩⟩
  · have hb := block?_of_warp? (actx_eq_some h.1).2.1
    refine ⟨_, (exec_arrinit_acts hq hheld h hal hin).trans (congrArg _ (if_neg (by simp [hdue]))), fun hwf => ?_⟩
    exact arrObj_spadWrite (s := q.noteObj a _ false true) hb hwf _ _ o.imm16.isLt (by norm_num)
  · exact (exec_arrinit_acts hq hheld h hal hin).trans (congrArg _ (if_pos hdue))
  · have hb := block?_of_warp? (actx_eq_some h.1).2.1
    exact ⟨_, exec_arrive_acts hq hheld h hal hin, fun hwf => arrObj_arriveObj (s := q.noteObj a _ true true) hb hwf _ _ _⟩
  · exact exec_object_misaligned hq hheld h hal (List.mem_append_left [Instr.arrwait o, .arrwaitTest o] hi)
  · exact (exec_arrwait_acts hq hheld h hal hin).trans (congrArg _ (if_pos hph))
  · exact (exec_arrwait_acts hq hheld h hal hin).trans (congrArg _ ((if_neg hph).trans (if_pos herr)))
  · exact (exec_arrwait_acts hq hheld h hal hin).trans (congrArg _ ((if_neg hph).trans (if_neg (by simp [herr]))))
  · rw [exec_arrwaitTest_acts hq hheld h hal hin]
    simp only [hph, bne_self_eq_false, Bool.false_eq_true, if_false]
  · rw [exec_arrwaitTest_acts hq hheld h hal hin]
    simp only [bne_iff_ne.mpr hph, if_true]
  · exact exec_object_misaligned hq hheld h hal (List.mem_append_right [Instr.arrinit o, .arrive o] hi)

end Sys2Proof.Machine
end

section
/-!
PROOF. Lines of the L2 go back to memory, and no byte reads otherwise (R185).
-/
namespace Sys2Proof.Machine
open Sys2Proof

/-! ### Overlays (R170) -/

theorem overGet_filter_keys (p : Nat → Bool) (x : Nat) : ∀ m : List Host.Cell,
    overGet (m.filter fun c => p c.1) x = if p x then overGet m x else none
  | [] => by simp [overGet]
  | (a, v) :: m => by
    have ih := overGet_filter_keys p x m
    by_cases hax : a = x
    · subst hax
      by_cases hp : p a = true
      · simp [hp, overGet]
      · simpa [hp, overGet] using ih
    · by_cases hp : p a = true
      · simp [hp, overGet, hax, ih]
      · simp [hp, overGet, hax, ih]

theorem mem_of_overGet {x : Nat} {v : Byte} : ∀ {m : List Host.Cell}, overGet m x = some v → (x, v) ∈ m
  | (a, u) :: m, h => by
    rw [overGet] at h
    split at h
    next hax => rw [hax, Option.some.inj h]; exact List.mem_cons_self ..
    next => exact List.mem_cons_of_mem _ (mem_of_overGet h)

/-- The keys of an overlay in its form lie above its bound. -/
theorem lt_of_mem_overWf {x : Nat} {v : Byte} : ∀ {m : List Host.Cell} {lo : Nat}, overWfFrom (some lo) m = true → (x, v) ∈ m → lo < x
  | (a, u) :: m, lo, h, hmem => by
    simp only [overWfFrom, Bool.and_eq_true, decide_eq_true_eq] at h
    obtain ⟨hlo, hrest⟩ := h
    rcases List.mem_cons.mp hmem with heq | hmem
    · rw [Prod.mk.inj heq |>.1]
      exact hlo
    · exact hlo.trans (lt_of_mem_overWf hrest hmem)

/-- An overlay in its form lists a key once. -/
theorem overGet_of_mem {x : Nat} {v : Byte} : ∀ {m : List Host.Cell} {lo : Option Nat}, overWfFrom lo m = true → (x, v) ∈ m →
    overGet m x = some v
  | (a, u) :: m, lo, h, hmem => by
    simp only [overWfFrom, Bool.and_eq_true] at h
    rw [overGet]
    rcases List.mem_cons.mp hmem with heq | hmem
    · rw [if_pos (Prod.mk.inj heq).1.symm, (Prod.mk.inj heq).2]
    · rw [if_neg (Nat.ne_of_lt (lt_of_mem_overWf h.2 hmem)), overGet_of_mem h.2 hmem]

/-! ### Filled ranges (R67) -/

/-- The number of the free byte at an address that the device has filled. -/
def fillNo (rs : List (Nat × Nat × Nat)) (x : Nat) : Option Nat :=
  (rs.find? fun r => decide (r.1 ≤ x) && decide (x < r.1 + r.2.1)).map fun r => r.2.2 + (x - r.1)

theorem readByte_eq_fillNo (s : State) (x : Nat) : s.readByte x =
    match fillNo s.filled x with
    | some k => Config.freeByte k
    | none => match overGet s.l2 x with | some b => b | none => Memory.read s.dram x := State.readByte_eq s x

theorem fillNo_isSome (s : State) (x : Nat) : (fillNo s.filled x).isSome = (s.fillOf x).isSome := Option.isSome_map

theorem readByte_of_parts {s t : State} {x : Nat} (hf : fillNo t.filled x = fillNo s.filled x) (hl : overGet t.l2 x = overGet s.l2 x)
    (hd : Memory.read t.dram x = Memory.read s.dram x) : t.readByte x = s.readByte x := by
  rw [readByte_eq_fillNo, readByte_eq_fillNo, hf, hl, hd]

/-- A byte that is neither filled nor in the L2 is the memory's. -/
theorem readByte_of_dram {s : State} {x : Nat} (hf : fillNo s.filled x = none) (hl : overGet s.l2 x = none) :
    s.readByte x = Memory.read s.dram x := by
  rw [readByte_eq_fillNo, hf, hl]

theorem fillNo_cons (b n k x : Nat) (rs : List (Nat × Nat × Nat)) :
    fillNo ((b, n, k) :: rs) x = if b ≤ x ∧ x < b + n then some (k + (x - b)) else fillNo rs x := by
  rw [fillNo, find?_cons_fill]
  split <;> rfl

theorem fillNo_append (l rs : List (Nat × Nat × Nat)) (x : Nat) : fillNo (l ++ rs) x = (fillNo l x).or (fillNo rs x) := by
  rw [fillNo, List.find?_append, Option.map_or]
  rfl

theorem fillNo_nonempty (l : List (Nat × Nat × Nat)) (x : Nat) : fillNo (l.filter fun r => r.2.1 != 0) x = fillNo l x := by
  rw [fillNo, find?_nonempty_fill, fillNo]

/-- A range cut from the filled ranges leaves the others' free bytes as they were, and none in it. -/
theorem fillNo_cutRange (lo hi x : Nat) : ∀ rs : List (Nat × Nat × Nat),
    fillNo (cutRange lo hi rs) x = if lo ≤ x ∧ x < hi then none else fillNo rs x
  | [] => by simp [cutRange, fillNo]
  | (b, n, k) :: rs => by
    have hcut : cutRange lo hi ((b, n, k) :: rs) =
        ([(b, min lo (b + n) - b, k), (max hi b, b + n - max hi b, k + (max hi b - b))].filter fun r => r.2.1 != 0) ++
          cutRange lo hi rs := rfl
    rw [hcut, fillNo_append, fillNo_nonempty, fillNo_cutRange lo hi x rs, fillNo_cons, fillNo_cons, fillNo_cons]
    by_cases hr : b ≤ x ∧ x < b + n
    · by_cases hin : lo ≤ x ∧ x < hi
      · rw [if_neg (by omega), if_neg (by omega), if_pos hin, if_pos hin]
        rfl
      · by_cases hlo : x < lo
        · rw [if_pos (by omega), if_neg hin, if_pos hr, if_neg hin]
          rfl
        · have hplace : k + (max hi b - b) + (x - max hi b) = k + (x - b) := by omega
          rw [if_neg (by omega), if_pos (by omega), if_neg hin, if_pos hr, if_neg hin, hplace]
          rfl
    · rw [if_neg (by omega), if_neg (by omega), if_neg hr]
      rfl

/-! ### Filled bytes that go back to memory (R185) -/

theorem fillNo_of_mem {rs : List (Nat × Nat × Nat)} {r : Nat × Nat × Nat} {x : Nat} (h : r ∈ rs) (hlo : r.1 ≤ x) (hhi : x < r.1 + r.2.1) :
    (fillNo rs x).isSome = true := by
  rw [fillNo, Option.isSome_map, List.find?_isSome]
  exact ⟨r, h, by simp [hlo, hhi]⟩

theorem exists_of_fillNo {rs : List (Nat × Nat × Nat)} {x : Nat} (h : (fillNo rs x).isSome = true) :
    ∃ r ∈ rs, r.1 ≤ x ∧ x < r.1 + r.2.1 := by
  rw [fillNo, Option.isSome_map, List.find?_isSome] at h
  simpa using h

/-- What goes back of a range is each of its filled bytes, as it reads. -/
theorem mem_filledIn {s : State} {lo hi x : Nat} {v : Byte} : (x, v) ∈ s.filledIn lo hi ↔
    lo ≤ x ∧ x < hi ∧ (fillNo s.filled x).isSome = true ∧ v = s.readByte x := by
  simp only [State.filledIn, List.mem_flatMap, List.mem_reverse, List.mem_map, List.mem_range, Prod.mk.injEq]
  constructor
  · rintro ⟨r, hr, i, hi', rfl, rfl⟩
    exact ⟨by omega, by omega, fillNo_of_mem hr (by omega) (by omega), rfl⟩
  · rintro ⟨hlo, hhi, hsome, rfl⟩
    obtain ⟨r, hr, hrlo, hrhi⟩ := exists_of_fillNo hsome
    have hx : max lo r.1 + (x - max lo r.1) = x := by omega
    exact ⟨r, hr, x - max lo r.1, by omega, hx, by rw [hx]⟩

/-- Where a range meets no filled one, no byte of it is filled. -/
theorem fillNo_none_of_disjoint {s : State} {lo hi x : Nat}
    (h : ¬ (s.filled.any fun r => decide (r.1 < hi) && decide (lo < r.1 + r.2.1)) = true) (hlo : lo ≤ x) (hhi : x < hi) :
    fillNo s.filled x = none := by
  rw [← Option.not_isSome_iff_eq_none]
  intro hsome
  obtain ⟨r, hr, hrlo, hrhi⟩ := exists_of_fillNo hsome
  refine h (List.any_eq_true.mpr ⟨r, hr, ?_⟩)
  simp only [Bool.and_eq_true, decide_eq_true_eq]
  omega

section
variable (s : State) (lo hi x : Nat)

theorem fillNo_flushFills : fillNo (s.flushFills lo hi).filled x = if lo ≤ x ∧ x < hi then none else fillNo s.filled x := by
  unfold State.flushFills
  split
  next => exact fillNo_cutRange lo hi x s.filled
  next hnone =>
    split
    next hin => exact fillNo_none_of_disjoint hnone hin.1 hin.2
    next => rfl

theorem overGet_flushFills : overGet (s.flushFills lo hi).l2 x =
    if lo ≤ x ∧ x < hi ∧ (fillNo s.filled x).isSome = true then none else overGet s.l2 x := by
  unfold State.flushFills
  split
  next =>
    have hfilter := overGet_filter_keys (fun y => !(decide (lo ≤ y) && decide (y < hi) && (s.fillOf y).isSome)) x s.l2
    rw [hfilter]
    simp only [← fillNo_isSome, Bool.not_eq_true', Bool.and_eq_false_imp, Bool.and_eq_true, decide_eq_true_eq]
    grind
  next hnone =>
    rw [if_neg]
    rintro ⟨hlo, hhi, hsome⟩
    rw [fillNo_none_of_disjoint hnone hlo hhi] at hsome
    exact Bool.false_ne_true hsome

theorem read_flushFills (hwf : Memory.wf s.dram = true) : Memory.read (s.flushFills lo hi).dram x =
    if lo ≤ x ∧ x < hi ∧ (fillNo s.filled x).isSome = true then s.readByte x else Memory.read s.dram x := by
  unfold State.flushFills
  split
  next =>
    split
    next hin =>
      exact cellGet_puts_of_mem hwf (mem_filledIn.mpr ⟨hin.1, hin.2.1, hin.2.2, rfl⟩) fun u hu => (mem_filledIn.mp hu).2.2.2
    next hout =>
      refine cellGet_puts_of_not_mem _ _ fun v hv => hout ?_
      obtain ⟨h1, h2, h3, _⟩ := mem_filledIn.mp hv
      exact ⟨h1, h2, h3⟩
  next hnone =>
    rw [if_neg]
    rintro ⟨hlo, hhi, hsome⟩
    rw [fillNo_none_of_disjoint hnone hlo hhi] at hsome
    exact Bool.false_ne_true hsome

/-- No byte reads otherwise once what the device has filled of a range went back to memory. -/
theorem readByte_flushFills (hwf : Memory.wf s.dram = true) : (s.flushFills lo hi).readByte x = s.readByte x := by
  by_cases hin : lo ≤ x ∧ x < hi ∧ (fillNo s.filled x).isSome = true
  · rw [readByte_of_dram (by rw [fillNo_flushFills, if_pos ⟨hin.1, hin.2.1⟩]) (by rw [overGet_flushFills, if_pos hin]),
      read_flushFills s lo hi x hwf, if_pos hin]
  · refine readByte_of_parts ?_ (by rw [overGet_flushFills, if_neg hin]) (by rw [read_flushFills s lo hi x hwf, if_neg hin])
    rw [fillNo_flushFills]
    split
    next hrange =>
      refine (Option.not_isSome_iff_eq_none.mp fun hsome => hin ⟨hrange.1, hrange.2, hsome⟩).symm
    next => rfl

end

/-! ### A write back (R185) -/

/-- The memories that a write back reads and writes are in their forms. -/
structure State.HomesWf (s : State) : Prop where
  dram : Memory.wf s.dram = true
  l2 : overWf s.l2 = true

theorem State.HomesWf.flushFills {s : State} (h : s.HomesWf) (lo hi : Nat) : (s.flushFills lo hi).HomesWf := by
  unfold State.flushFills
  split
  · exact ⟨Memory.fold_write_wf _ h.dram, overWfFrom_filter _ h.l2⟩
  · exact h

theorem writeBack_dram (s : State) (lo hi : Nat) (drop : Bool) : (s.writeBack lo hi drop).dram =
    ((s.flushFills lo hi).l2.filter fun c => decide (lo ≤ c.1) && decide (c.1 < hi)).foldl (fun m c => Memory.write m c.1 c.2)
      (s.flushFills lo hi).dram := by cases drop <;> rfl

theorem writeBack_filled (s : State) (lo hi : Nat) (drop : Bool) : (s.writeBack lo hi drop).filled = (s.flushFills lo hi).filled := by
  cases drop <;> rfl

theorem State.HomesWf.writeBack {s : State} (h : s.HomesWf) (lo hi : Nat) (drop : Bool) : (s.writeBack lo hi drop).HomesWf := by
  refine ⟨?_, ?_⟩
  · rw [writeBack_dram]
    exact Memory.fold_write_wf _ (h.flushFills lo hi).dram
  · cases drop with
    | false => exact (h.flushFills lo hi).l2
    | true => exact overWfFrom_filter _ (h.flushFills lo hi).l2

section
variable {s : State} (h : s.HomesWf) (lo hi : Nat) (drop : Bool) (x : Nat)

/-- The lines stay in the L2, or leave it. -/
theorem overGet_writeBack (s : State) (lo hi : Nat) (drop : Bool) (x : Nat) : overGet (s.writeBack lo hi drop).l2 x =
    if drop = true ∧ lo ≤ x ∧ x < hi then none else overGet (s.flushFills lo hi).l2 x := by
  cases drop with
  | false => rfl
  | true =>
    have hfilter := overGet_filter_keys (fun y => !(decide (lo ≤ y) && decide (y < hi))) x (s.flushFills lo hi).l2
    refine hfilter.trans ?_
    by_cases hin : lo ≤ x ∧ x < hi
    · simp [hin]
    · simp only [true_and, if_neg hin]
      rw [if_pos]
      rw [Bool.not_eq_true', Bool.and_eq_false_imp]
      simpa using hin

include h

theorem read_writeBack_outside (hout : ¬ (lo ≤ x ∧ x < hi)) : Memory.read (s.writeBack lo hi drop).dram x = Memory.read s.dram x := by
  have hflush := read_flushFills s lo hi x h.dram
  rw [if_neg fun hin => hout ⟨hin.1, hin.2.1⟩] at hflush
  rw [writeBack_dram, ← hflush]
  refine cellGet_puts_of_not_mem _ _ fun v hv => hout ?_
  simpa using (List.mem_filter.mp hv).2

/-- Memory then holds each byte of the range as it read. -/
theorem read_writeBack_inside (hlo : lo ≤ x) (hhi : x < hi) : Memory.read (s.writeBack lo hi drop).dram x = s.readByte x := by
  have hwf := h.flushFills lo hi
  have hnone : fillNo (s.flushFills lo hi).filled x = none := by rw [fillNo_flushFills, if_pos ⟨hlo, hhi⟩]
  rw [← readByte_flushFills s lo hi x h.dram, readByte_eq_fillNo, hnone, writeBack_dram]
  dsimp only
  cases hl : overGet (s.flushFills lo hi).l2 x with
  | some b =>
    refine cellGet_puts_of_mem hwf.dram (List.mem_filter.mpr ⟨mem_of_overGet hl, by simp [hlo, hhi]⟩) fun u hu => ?_
    exact Option.some.inj ((overGet_of_mem hwf.l2 (List.mem_filter.mp hu).1).symm.trans hl)
  | none =>
    refine cellGet_puts_of_not_mem _ _ fun v hv => ?_
    rw [overGet_of_mem hwf.l2 (List.mem_filter.mp hv).1] at hl
    cases hl

/-- A write back changes no byte that is read. -/
theorem readByte_writeBack : (s.writeBack lo hi drop).readByte x = s.readByte x := by
  by_cases hin : lo ≤ x ∧ x < hi
  · have hdram := read_writeBack_inside h lo hi drop x hin.1 hin.2
    have hnone : fillNo (s.writeBack lo hi drop).filled x = none := by rw [writeBack_filled, fillNo_flushFills, if_pos hin]
    rw [readByte_eq_fillNo, hnone, overGet_writeBack]
    dsimp only
    split
    next b hb =>
      have hl : overGet (s.flushFills lo hi).l2 x = some b := by
        split at hb
        · cases hb
        · exact hb
      have hflush : fillNo (s.flushFills lo hi).filled x = none := by rw [fillNo_flushFills, if_pos hin]
      rw [← readByte_flushFills s lo hi x h.dram, readByte_eq_fillNo, hflush, hl]
    next => exact hdram
  · rw [← readByte_flushFills s lo hi x h.dram]
    refine readByte_of_parts (by rw [writeBack_filled]) (by rw [overGet_writeBack, if_neg fun hd => hin hd.2]) ?_
    rw [read_writeBack_outside h lo hi drop x hin, read_flushFills s lo hi x h.dram, if_neg fun hd => hin ⟨hd.1, hd.2.1⟩]

end

/-- Ranges that go back one after another. -/
def State.writeBacks (s : State) (drop : Bool) (rs : List (Nat × Nat)) : State := rs.foldl (fun s r => s.writeBack r.1 r.2 drop) s

theorem writeBacks_cons (s : State) (drop : Bool) (r : Nat × Nat) (rs : List (Nat × Nat)) :
    s.writeBacks drop (r :: rs) = (s.writeBack r.1 r.2 drop).writeBacks drop rs := rfl

theorem State.HomesWf.writeBacks (drop : Bool) : ∀ (rs : List (Nat × Nat)) {s : State}, s.HomesWf → (s.writeBacks drop rs).HomesWf
  | [], _, h => h
  | r :: rs, _, h => writeBacks drop rs (h.writeBack r.1 r.2 drop)

theorem readByte_writeBacks (drop : Bool) (x : Nat) : ∀ (rs : List (Nat × Nat)) {s : State}, s.HomesWf →
    (s.writeBacks drop rs).readByte x = s.readByte x
  | [], _, _ => rfl
  | r :: rs, _, h =>
    (readByte_writeBacks drop x rs (h.writeBack r.1 r.2 drop)).trans (readByte_writeBack h r.1 r.2 drop x)

/-- A byte that memory holds as it reads, and that is no longer in the L2 where the lines are dropped. -/
def State.CleanAt (s : State) (drop : Bool) (x : Nat) : Prop :=
  Memory.read s.dram x = s.readByte x ∧ (drop = true → overGet s.l2 x = none)

theorem cleanAt_writeBack {s : State} (h : s.HomesWf) (lo hi : Nat) (drop : Bool) {x : Nat} (hin : lo ≤ x ∧ x < hi) :
    (s.writeBack lo hi drop).CleanAt drop x :=
  ⟨by rw [read_writeBack_inside h lo hi drop x hin.1 hin.2, readByte_writeBack h], fun hd => by rw [overGet_writeBack, if_pos ⟨hd, hin⟩]⟩

theorem State.CleanAt.writeBack {s : State} {drop : Bool} {x : Nat} (hx : s.CleanAt drop x) (h : s.HomesWf) (lo hi : Nat) :
    (s.writeBack lo hi drop).CleanAt drop x := by
  by_cases hin : lo ≤ x ∧ x < hi
  · exact cleanAt_writeBack h lo hi drop hin
  · refine ⟨by rw [read_writeBack_outside h lo hi drop x hin, readByte_writeBack h, hx.1], fun hd => ?_⟩
    rw [overGet_writeBack, if_neg fun hc => hin hc.2, overGet_flushFills, hx.2 hd, ite_self]

theorem State.CleanAt.writeBacks {drop : Bool} {x : Nat} : ∀ (rs : List (Nat × Nat)) {s : State}, s.CleanAt drop x → s.HomesWf →
    (s.writeBacks drop rs).CleanAt drop x
  | [], _, hx, _ => hx
  | r :: rs, s, hx, h => by
    rw [writeBacks_cons]
    exact State.CleanAt.writeBacks rs (hx.writeBack h r.1 r.2) (h.writeBack r.1 r.2 drop)

theorem cleanAt_writeBacks {drop : Bool} {x : Nat} {rs : List (Nat × Nat)} (hr : ∃ r ∈ rs, r.1 ≤ x ∧ x < r.2) :
    ∀ {s : State}, s.HomesWf → (s.writeBacks drop rs).CleanAt drop x := by
  induction rs with
  | nil =>
    obtain ⟨r, hmem, _⟩ := hr
    cases hmem
  | cons r rs ih =>
    intro s h
    rw [writeBacks_cons]
    obtain ⟨q, hq, hin⟩ := hr
    rcases List.mem_cons.mp hq with rfl | hq
    · exact State.CleanAt.writeBacks rs (cleanAt_writeBack h q.1 q.2 drop hin) (h.writeBack q.1 q.2 drop)
    · exact ih ⟨q, hq, hin⟩ (h.writeBack r.1 r.2 drop)

end Sys2Proof.Machine
end

section
/-!
PROOF. PUBLISH, CCTL and TLBH issue, and what they do when they complete (O29).
-/
namespace Sys2Proof.Machine
open Sys2Proof

/-! ### At issue (R184 to R186) -/

section
variable {s : State} {a : Actx} {o : Opnds} (hc : s.Counts a o)
include hc

/-- The window that a PUBLISH names is loaded. -/
def State.windowLoaded (s : State) (a : Actx) (w : Nat) : Bool :=
  match (s.ctx a.blk.ctx).windows[w]? with | some x => x.v | none => false

theorem exec_publish_counts : exec (.publish o) s = .next (
    let w := (s.scalar a o.a o.sa).toNat
    if decide (w < 256) && s.windowLoaded a w then ((s.loseIdemp a).startOp a o (.publish w)).retire a else s.raise a Code.qfault 0) := by
  rw [exec_publish, execPublish, counted_acts hc]
  rfl

theorem exec_publish_loaded (hw : (s.scalar a o.a o.sa).toNat < 256) (hl : s.windowLoaded a (s.scalar a o.a o.sa).toNat = true) :
    exec (.publish o) s = .next (((s.loseIdemp a).startOp a o (.publish (s.scalar a o.a o.sa).toNat)).retire a) := by
  rw [exec_publish_counts hc]
  simp only [hw, hl, decide_true, Bool.and_self, if_true]

theorem exec_publish_unloaded (h : 256 ≤ (s.scalar a o.a o.sa).toNat ∨ s.windowLoaded a (s.scalar a o.a o.sa).toNat = false) :
    exec (.publish o) s = .next (s.raise a Code.qfault 0) := by
  have hnot : ¬ (decide ((s.scalar a o.a o.sa).toNat < 256) && s.windowLoaded a (s.scalar a o.a o.sa).toNat) = true := by
    rw [Bool.and_eq_true, decide_eq_true_eq]
    rintro ⟨hw, hl⟩
    rcases h with hbig | hnone
    · omega
    · exact Bool.false_ne_true (hnone.symm.trans hl)
  rw [exec_publish_counts hc]
  exact congrArg _ (if_neg hnot)

variable (inv : Bool)

theorem cacheControl_counts : s.cacheControl o inv = .next (
    let x := s.pairVal a o.a o.sa 0
    let n := (s.scalar a o.b o.sb).toNat
    if 2 ^ 57 < x + n ∨ 2 ^ 57 ≤ x then s.raiseAt a Code.dfault 0x03 (BitVec.ofNat 64 x)
    else
      let r := if n = 0 then ([], s) else s.lineRanges a.core a.blk.ctx x (x + n) (n / 65536 + 2)
      (r.2.startOp a o (.cctl inv r.1)).retire a) := by
  rw [State.cacheControl, counted_acts hc]
  simp only [Bool.or_eq_true, decide_eq_true_eq, gt_iff_lt]

variable (hx : ¬ (2 ^ 57 < s.pairVal a o.a o.sa 0 + (s.scalar a o.b o.sb).toNat ∨ 2 ^ 57 ≤ s.pairVal a o.a o.sa 0))
include hx

theorem cacheControl_empty (hn : (s.scalar a o.b o.sb).toNat = 0) :
    s.cacheControl o inv = .next ((s.startOp a o (.cctl inv [])).retire a) := by
  rw [cacheControl_counts hc]
  simp only [if_neg hx, if_pos hn]

theorem cacheControl_lines (hn : (s.scalar a o.b o.sb).toNat ≠ 0) {rs : List (Nat × Nat)} {s1 : State}
    (hr : s.lineRanges a.core a.blk.ctx (s.pairVal a o.a o.sa 0) (s.pairVal a o.a o.sa 0 + (s.scalar a o.b o.sb).toNat)
      ((s.scalar a o.b o.sb).toNat / 65536 + 2) = (rs, s1)) :
    s.cacheControl o inv = .next ((s1.startOp a o (.cctl inv rs)).retire a) := by
  rw [cacheControl_counts hc]
  simp only [if_neg hx, if_neg hn, hr]

end

theorem exec_cctlForm {o : Opnds} {i : Instr} {inv : Bool} (h : (i, inv) ∈ [(Instr.cctlWb o, false), (.cctlWbinv o, true)]) (s : State) :
    exec i s = s.cacheControl o inv := by
  simp only [List.mem_cons, Prod.mk.injEq, List.not_mem_nil, or_false] at h
  rcases h with ⟨rfl, rfl⟩ | ⟨rfl, rfl⟩ <;> rfl

/-! ### At completion (R183 to R186) -/

theorem exec_operationComplete_op {s : State} {op : Op} (hop : s.op? (s.arg 0) = some op) :
    exec .operationComplete s = .next (s.complete op) := by
  simp only [exec_operationComplete, execOperationComplete, hop]

theorem keepsCourse_writeBack (s : State) (lo hi : Nat) (drop : Bool) : s.KeepsCourse (s.writeBack lo hi drop) := by
  have hflush : s.KeepsCourse (s.flushFills lo hi) := by
    unfold State.flushFills
    split <;> exact ⟨rfl, rfl⟩
  cases drop <;> exact ⟨hflush.blocks, hflush.chans⟩

theorem keepsCourse_writeBacks (drop : Bool) (rs : List (Nat × Nat)) (s : State) : s.KeepsCourse (s.writeBacks drop rs) :=
  keepsCourse_foldl (fun s (r : Nat × Nat) => keepsCourse_writeBack s r.1 r.2 drop) rs s

/-- A harvest writes memory and changes cached translations alone. -/
theorem harvestAll_tlb : ∀ (es : List TlbEntry) (s : State), (s.harvestAll es).tlb = s.tlb
  | [], _ => rfl
  | e :: es, s => by
    rw [State.harvestAll, harvestAll_tlb es, State.harvestEntry, (State.SameButMemory.storeBytes _ _ _ _).field State.tlb rfl]
    split <;> rfl

theorem keepsCourse_harvestAll : ∀ (es : List TlbEntry) (s : State), s.KeepsCourse (s.harvestAll es)
  | [], s => .refl s
  | e :: es, s => by
    have hentry : s.KeepsCourse (s.harvestEntry e) := by
      have hdraw : s.KeepsCourse (if inWindow e.pte then { s with drawn := s.drawn + 1 } else s) := by split <;> exact ⟨rfl, rfl⟩
      exact hdraw.trans (keepsCourse_storeBytes _ _ _ _)
    exact hentry.trans (keepsCourse_harvestAll es _)

theorem keepsCourse_harvest (s : State) (p : TlbEntry → Bool) (drop : Bool) : s.KeepsCourse (s.harvest p drop) :=
  ⟨(keepsCourse_harvestAll _ s).blocks, (keepsCourse_harvestAll _ s).chans⟩

/-- What a harvest that drops selects is cached no more. -/
theorem not_mem_harvest (s : State) {p : TlbEntry → Bool} {e : TlbEntry} (h : p e = true) : e ∉ (s.harvest p true).tlb := by
  intro he
  have htest := (List.mem_filter.mp he).2
  simp [h] at htest

/-- No translation of the page of an address is cached in the context after its shoot-down (R186). -/
theorem not_cached_shootDown (s : State) (ctx va : Nat) {e : TlbEntry} (he : e ∈ (s.shootDown ctx va).tlb) (hctx : e.ctx = ctx) :
    ¬ (e.base ≤ va ∧ va < e.base + e.size) := fun hin => not_mem_harvest s (by simp [hctx, hin]) he

/-! ### The flip of a window (R183, R184) -/

/-- A window with its other side visible. -/
def Window.flip (x : Window) : Window := { x with cur := !x.cur }

/-- The state with a window's visible side flipped, and what of the context is in flight moved to that side. -/
def State.flipped (s : State) (op : Op) (w : Nat) : State :=
  let c := s.ctx op.ctx
  let s1 := s.setCtx op.ctx { c with windows := c.windows.zipIdx.map fun x => if x.2 = w then x.1.flip else x.1 }
  match c.windows[w]? with
  | some x => s1.moveSides op.ctx x.visible x.flip.visible
  | none => s1

/-- The state with the flip in the record of accesses and in the window table. -/
def State.published (s : State) (op : Op) (w : Nat) : State :=
  let cell := (s.ctx op.ctx).pwBase.toNat + 32 * w
  ((s.flipped op w).note { MemEvent.of (MemTag.warp op.block op.warp op.core op.id) with
    flip := (s.ctx op.ctx).windows[w]?.map fun x => x.flip.visible }).writePhys cell [s.readByte cell ^^^ 2#8]

theorem publish_met {s : State} {op : Op} {w : Nat} (hx : ∀ x ∈ s.xfers, x.ctx = op.ctx → x.window ≠ some w)
    (hmet : s.publishMet op = true) : s.publish op w = (s.published op w).finishOp op := by
  have hnone : (s.xfers.any fun x => x.ctx == op.ctx && x.window == some w) = false := by
    rw [List.any_eq_false]
    intro x hmem
    rw [Bool.and_eq_true, beq_iff_eq, beq_iff_eq]
    exact fun h => hx x hmem h.1 h.2
  rw [State.publish, hnone, hmet]
  rfl

theorem flipped_blocks (s : State) (op : Op) (w : Nat) : (s.flipped op w).blocks = s.blocks := by
  unfold State.flipped
  dsimp only
  split <;> rfl

theorem flipped_ctxs (s : State) (op : Op) (w : Nat) : (s.flipped op w).ctxs = setNth s.ctxs op.ctx { s.ctx op.ctx with
    windows := (s.ctx op.ctx).windows.zipIdx.map fun x => if x.2 = w then x.1.flip else x.1 } := by
  unfold State.flipped
  dsimp only
  split <;> rfl

theorem flipped_ops {s : State} {op : Op} {w : Nat} {x : Window} (h : (s.ctx op.ctx).windows[w]? = some x) :
    (s.flipped op w).ops = (s.moveSides op.ctx x.visible x.flip.visible).ops := by
  rw [State.flipped, h]
  rfl

section
variable (s : State) (op : Op) (w : Nat)

theorem sameButMemory_published : (s.flipped op w).SameButMemory (s.published op w) :=
  .trans (t := (s.flipped op w).note _) rfl (State.SameButMemory.storeBytes _ _ _ _)

theorem published_blocks : (s.published op w).blocks = s.blocks :=
  ((sameButMemory_published s op w).field State.blocks rfl).trans (flipped_blocks s op w)

theorem published_ops {x : Window} (h : (s.ctx op.ctx).windows[w]? = some x) :
    (s.published op w).ops = (s.moveSides op.ctx x.visible x.flip.visible).ops :=
  ((sameButMemory_published s op w).field State.ops rfl).trans (flipped_ops h)

theorem published_window (hctx : op.ctx < s.ctxs.length) {x : Window} (h : (s.ctx op.ctx).windows[w]? = some x) :
    ((s.published op w).ctx op.ctx).windows[w]? = some x.flip := by
  have hctxs : (s.published op w).ctxs = (s.flipped op w).ctxs := (sameButMemory_published s op w).field State.ctxs rfl
  rw [State.ctx, hctxs, flipped_ctxs, nth_setNth_self _ _ _ _ hctx]
  simp [h]

end

section
variable {s : State} {op : Op} {blk : Block} (hop : s.op? (s.arg 0) = some op) (hb : s.block? op.block = some blk) (hlive : blk.LivesOn)
include hb hlive

/-- After changes that leave the blocks, the operation of a block that lives on completes with nothing more. -/
theorem finishOp_keeps {t : State} (ht : t.blocks = s.blocks) : t.finishOp op = t.countedDown op := by
  have hb' : t.block? op.block = some blk := by rw [State.block?, ht, ← State.block?, hb]
  exact finishOp_living hb' hlive

include hop

theorem exec_operationComplete_cctl {inv : Bool} {rs : List (Nat × Nat)} (hk : op.kind = .cctl inv rs) :
    exec .operationComplete s = .next ((s.writeBacks inv rs).countedDown op) := by
  rw [exec_operationComplete_op hop, ← finishOp_keeps hb hlive (keepsCourse_writeBacks inv rs s).blocks, State.complete, hk]
  rfl

theorem exec_operationComplete_cctlConst (hk : op.kind = .cctlConst) :
    exec .operationComplete s = .next ((s.setCore op.core { s.core op.core with consts := [] }).countedDown op) := by
  have hblocks : (s.setCore op.core { s.core op.core with consts := [] }).blocks = s.blocks := rfl
  rw [exec_operationComplete_op hop, ← finishOp_keeps hb hlive hblocks, State.complete, hk]

theorem exec_operationComplete_tlbhInv {va : Nat} (hk : op.kind = .tlbh (some va)) :
    exec .operationComplete s = .next ((s.shootDown op.ctx va).countedDown op) := by
  have hblocks : (s.shootDown op.ctx va).blocks = s.blocks := (keepsCourse_harvest s _ true).blocks
  rw [exec_operationComplete_op hop, ← finishOp_keeps hb hlive hblocks, State.complete, hk]

theorem exec_operationComplete_publish {w : Nat} (hk : op.kind = .publish w) (hx : ∀ x ∈ s.xfers, x.ctx = op.ctx → x.window ≠ some w)
    (hmet : s.publishMet op = true) : exec .operationComplete s = .next ((s.published op w).countedDown op) := by
  rw [exec_operationComplete_op hop, ← finishOp_keeps hb hlive (published_blocks s op w), ← publish_met hx hmet, State.complete, hk]

end

@[simp] theorem countedDown_dram (s : State) (op : Op) : (s.countedDown op).dram = s.dram := State.updWarp_dram ..
@[simp] theorem countedDown_l2 (s : State) (op : Op) : (s.countedDown op).l2 = s.l2 := State.updWarp_l2 ..
@[simp] theorem countedDown_tlb (s : State) (op : Op) : (s.countedDown op).tlb = s.tlb := State.updWarp_tlb ..

theorem countedDown_ctx (s : State) (op : Op) (c : Nat) : (s.countedDown op).ctx c = s.ctx c := by
  rw [State.ctx, State.countedDown, State.updWarp_ctxs]
  rfl

theorem countedDown_core (s : State) (op : Op) (c : Nat) : (s.countedDown op).core c = s.core c := by
  rw [State.core, State.countedDown, State.updWarp_cores]
  rfl

theorem countedDown_ops (s : State) (op : Op) : (s.countedDown op).ops = s.ops.filter fun q => q.id != op.id := State.updWarp_ops ..

/-- Settles O29: the forms issue past their checks, a write back makes memory hold what is read, and a PUBLISH flips its window. -/
theorem cachesAndTables : Obligations.CachesAndTables := by
  refine ⟨fun o s s1 a rs hc => ⟨exec_publish_loaded hc, exec_publish_unloaded hc, fun i inv hi => ⟨?_, ?_, ?_⟩, ?_, ?_, ?_⟩,
    fun s op blk hop hb hending halive hdram hl2 => ⟨?_, ?_, ?_, ?_, ?_⟩, fun s => ⟨?_, ?_⟩⟩
  · intro hbad
    rw [exec_cctlForm hi, cacheControl_counts hc]
    exact congrArg _ (if_pos hbad)
  · intro hend hlo hn
    rw [exec_cctlForm hi, cacheControl_empty hc inv (by omega) hn]
  · intro hend hlo hn hr
    rw [exec_cctlForm hi, cacheControl_lines hc inv (by omega) hn hr]
  · rw [exec_cctlConst, execCctlConst, counted_acts hc]
  · rw [exec_tlbhHarv, execTlbhHarv, counted_acts hc]
  · rw [exec_tlbhInv, execTlbhInv, counted_acts hc]
  · intro inv rs hk
    have hwf : s.HomesWf := ⟨hdram, hl2⟩
    refine ⟨_, exec_operationComplete_cctl hop hb ⟨hending, halive⟩ hk, fun q hq => id_ne_of_mem_countedDown hq, fun pa => ?_,
      fun r hr pa hlo hhi => ?_⟩
    · rw [readByte_countedDown, readByte_writeBacks inv pa rs hwf]
    · obtain ⟨hread, hgone⟩ := cleanAt_writeBacks (drop := inv) ⟨r, hr, hlo, hhi⟩ hwf
      rw [countedDown_dram, countedDown_l2, hread, readByte_writeBacks inv pa rs hwf]
      exact ⟨rfl, hgone⟩
  · intro hk hcore
    refine ⟨_, exec_operationComplete_cctlConst hop hb ⟨hending, halive⟩ hk, fun q hq => id_ne_of_mem_countedDown hq, ?_⟩
    rw [countedDown_core]
    exact congrArg Core.consts (nth_setNth_self _ _ _ _ hcore)
  · intro va hk
    refine ⟨_, exec_operationComplete_tlbhInv hop hb ⟨hending, halive⟩ hk, fun q hq => id_ne_of_mem_countedDown hq, fun e he hctx => ?_⟩
    rw [countedDown_tlb] at he
    exact not_cached_shootDown s op.ctx va he hctx
  · intro hk
    rw [exec_operationComplete_op hop, State.complete, hk]
  · intro w hk hx hmet hctx
    refine ⟨_, exec_operationComplete_publish hop hb ⟨hending, halive⟩ hk hx hmet, fun q hq => id_ne_of_mem_countedDown hq,
      fun x hwin => ⟨?_, ?_⟩⟩
    · rw [countedDown_ctx, published_window s op w hctx hwin]
      rfl
    · rw [countedDown_ops, published_ops s op w hwin]
      rfl
  · intro hd hlt
    rw [exec_tlbHarvestPeriodic, execTlbHarvestPeriodic]
    exact if_neg (by simp only [Bool.or_eq_true, decide_eq_true_eq]; omega)
  · intro h
    rw [exec_tlbHarvestPeriodic, execTlbHarvestPeriodic]
    exact if_pos (by simp only [Bool.or_eq_true, decide_eq_true_eq]; omega)

end Sys2Proof.Machine
end

section
/-!
PROOF. Every operation of the machine keeps the memories in canonical form (O6): what the form says, and one lemma
for each operation, in the model's order. An operation that writes a memory keeps the form by the laws of that
memory; any other keeps it because the operations that it is made of do.
-/
namespace Sys2Proof.Machine
open Sys2Proof

/-! ### The form, and what it says nothing of -/

/-- The memories of one block stand in canonical form: its part of `State.memoryWf`. -/
def Block.memoryWf (b : Block) : Prop := cellWf 0#8 b.spad = true ∧ cellWf 0#32 b.acc = true

/-- The form of a block's memories says nothing of its other fields. -/
theorem Block.memoryWf_with {b : Block} (h : b.memoryWf)
    (id ctx record index prio variant spadBase accBase lastCore privUnits saveUnits : Nat) (loc : Where)
    (placed : Nat × Nat) (sizeclass : Word) (idemp stopping : Bool) (warps : List Warp) (qwait : List QWaiter)
    (qspoiled privAt : List Nat) (reshape : Option Reshape) (switches : List SwitchWait)
    (ending : Option (Nat × Nat × DWord × DWord)) :
    ({ b with
      id := id, ctx := ctx, record := record, index := index, prio := prio, loc := loc, placed := placed,
      variant := variant, sizeclass := sizeclass, idemp := idemp, warps := warps, spadBase := spadBase,
      accBase := accBase, qwait := qwait, qspoiled := qspoiled, reshape := reshape, switches := switches,
      stopping := stopping, ending := ending, lastCore := lastCore, privAt := privAt, privUnits := privUnits,
      saveUnits := saveUnits } : Block).memoryWf := h

theorem State.mem_blocks_memoryWf {s : State} {b : Block} (h : s.memoryWf = true) (hb : b ∈ s.blocks) : b.memoryWf :=
  (State.memoryWf_iff.1 h).2.2.2.2 b hb

theorem State.block?_memoryWf {s : State} {n : Nat} {b : Block} (h : s.memoryWf = true) (hb : s.block? n = some b) :
    b.memoryWf := State.block?_wf h hb

theorem State.warp?_memoryWf {s : State} {n wi : Nat} {b : Block} {w : Warp} (h : s.memoryWf = true)
    (hw : s.warp? n wi = some (b, w)) : b.memoryWf := by
  simp only [State.warp?, Option.bind_eq_some_iff, Option.map_eq_some_iff, Prod.mk.injEq] at hw
  obtain ⟨x, hx, _, _, rfl, _⟩ := hw
  exact State.block?_memoryWf h hx

theorem State.actx_memoryWf {s : State} {a : Actx} (h : s.memoryWf = true) (ha : s.actx = some a) : a.blk.memoryWf := by
  grind [State.actx, State.actxAt, State.warp?_memoryWf, State.block?_memoryWf]

/-- The form says nothing of the fields beside the memories and the blocks, so an update of any of them keeps it. -/
theorem State.memoryWf_with {s : State} (h : s.memoryWf = true)
    (actor : Actor) (args harvests copyEnd : List Nat) (agenda : List Action) (choices drawn ns nextId : Nat)
    (cyc : List DWord) (cores : List Core) (ctxs : List Ctx) (filled service deferred : List (Nat × Nat × Nat))
    (log : List MemEvent) (tlb : List TlbEntry) (ops : List Op) (xfers : List Xfer) (waits : List WaitEntry)
    (clocks : List (List Nat)) (sectorClock : List (Nat × List Nat)) (offers : List Offer) (pairs : List WarpPair)
    (ring : Ring) (homes : List Home) (pxReqs : List PxReq) (chunkReqs : List ChunkReq) (chans : List Chan)
    (hwslots : List (Option HwSlot)) (qwaits : List QueueWait) (records : List Record)
    (qtails : List (Nat × Nat × Word)) (ready : List (Nat × Nat × Word × Nat)) (readyAt : List (Nat × Nat))
    (faultWaits : List FaultWait) (migReq : DWord) (migQueue : List MigReq) (migDropped : BitVec 16)
    (migMoves pageHits : List (Nat × Nat × Nat × Nat)) (hinv hinvLo : Word) (peerRoute : List Word)
    (hostReply portReply : List Byte) (waveguides : List Waveguide) (buffers : List Buffer) (ports : List PortReq)
    (portHead : BitVec 128) (dev : DevCsrs) :
    ({ s with
      actor := actor, args := args, agenda := agenda, choices := choices, drawn := drawn, ns := ns, cyc := cyc,
      cores := cores, ctxs := ctxs, nextId := nextId, filled := filled, log := log, tlb := tlb, harvests := harvests,
      ops := ops, xfers := xfers, waits := waits, service := service, copyEnd := copyEnd, clocks := clocks,
      sectorClock := sectorClock, offers := offers, pairs := pairs, ring := ring, homes := homes, pxReqs := pxReqs,
      chunkReqs := chunkReqs, chans := chans, hwslots := hwslots, qwaits := qwaits, records := records,
      deferred := deferred, qtails := qtails, ready := ready, readyAt := readyAt, faultWaits := faultWaits,
      migReq := migReq, migQueue := migQueue, migDropped := migDropped, migMoves := migMoves, pageHits := pageHits,
      hinv := hinv, hinvLo := hinvLo, peerRoute := peerRoute, hostReply := hostReply, waveguides := waveguides,
      buffers := buffers, ports := ports, portReply := portReply, portHead := portHead, dev := dev } : State).memoryWf = true := h

/-- The same where the blocks change too, each block that is left or new having the form. -/
theorem State.memoryWf_withBlocks {s : State} (h : s.memoryWf = true) (blocks : List Block) (hb : ∀ b ∈ blocks, b.memoryWf)
    (actor : Actor) (args harvests copyEnd : List Nat) (agenda : List Action) (choices drawn ns nextId : Nat)
    (cyc : List DWord) (cores : List Core) (ctxs : List Ctx) (filled service deferred : List (Nat × Nat × Nat))
    (log : List MemEvent) (tlb : List TlbEntry) (ops : List Op) (xfers : List Xfer) (waits : List WaitEntry)
    (clocks : List (List Nat)) (sectorClock : List (Nat × List Nat)) (offers : List Offer) (pairs : List WarpPair)
    (ring : Ring) (homes : List Home) (pxReqs : List PxReq) (chunkReqs : List ChunkReq) (chans : List Chan)
    (hwslots : List (Option HwSlot)) (qwaits : List QueueWait) (records : List Record)
    (qtails : List (Nat × Nat × Word)) (ready : List (Nat × Nat × Word × Nat)) (readyAt : List (Nat × Nat))
    (faultWaits : List FaultWait) (migReq : DWord) (migQueue : List MigReq) (migDropped : BitVec 16)
    (migMoves pageHits : List (Nat × Nat × Nat × Nat)) (hinv hinvLo : Word) (peerRoute : List Word)
    (hostReply portReply : List Byte) (waveguides : List Waveguide) (buffers : List Buffer) (ports : List PortReq)
    (portHead : BitVec 128) (dev : DevCsrs) :
    ({ s with
      blocks := blocks, actor := actor, args := args, agenda := agenda, choices := choices, drawn := drawn, ns := ns,
      cyc := cyc, cores := cores, ctxs := ctxs, nextId := nextId, filled := filled, log := log, tlb := tlb,
      harvests := harvests, ops := ops, xfers := xfers, waits := waits, service := service, copyEnd := copyEnd,
      clocks := clocks, sectorClock := sectorClock, offers := offers, pairs := pairs, ring := ring, homes := homes,
      pxReqs := pxReqs, chunkReqs := chunkReqs, chans := chans, hwslots := hwslots, qwaits := qwaits,
      records := records, deferred := deferred, qtails := qtails, ready := ready, readyAt := readyAt,
      faultWaits := faultWaits, migReq := migReq, migQueue := migQueue, migDropped := migDropped,
      migMoves := migMoves, pageHits := pageHits, hinv := hinv, hinvLo := hinvLo, peerRoute := peerRoute,
      hostReply := hostReply, waveguides := waveguides, buffers := buffers, ports := ports, portReply := portReply,
      portHead := portHead, dev := dev } : State).memoryWf = true :=
  have ⟨hd, hl, hp, hh, _⟩ := State.memoryWf_iff.1 h
  State.memoryWf_iff.2 ⟨hd, hl, hp, hh, hb⟩

/-- A block replaced by one that has the form. -/
theorem State.setBlock_memoryWf_of_block {s : State} {b : Block} (h : s.memoryWf = true) (hb : b.memoryWf) :
    (s.setBlock b).memoryWf = true := State.setBlock_memoryWf h hb.1 hb.2

theorem State.setWarp_memoryWf {s : State} {b : Block} (wi : Nat) (w : Warp) (h : s.memoryWf = true) (hb : b.memoryWf) :
    (s.setWarp b wi w).memoryWf = true := State.setBlock_memoryWf h hb.1 hb.2

/-- A block that lists no byte and no word has the form. -/
theorem Block.memoryWf_of_empty {b : Block} (hs : b.spad = []) (ha : b.acc = []) : b.memoryWf := by
  simp [Block.memoryWf, hs, ha, cellWf, cellWfFrom]

theorem Block.spadWrite_memoryWf {b : Block} (x : Nat) (vs : List Byte) (h : b.memoryWf) : (b.spadWrite x vs).memoryWf :=
  Block.spadWrite_wf vs x h.1 h.2

/-! ### Updates of one block that leave its memories alone -/

theorem Block.noteWhole_memoryWf {b : Block} (now : Nat) (h : b.memoryWf) : (b.noteWhole now).memoryWf := h
theorem Block.noteHandler_memoryWf {b : Block} (h : b.memoryWf) : b.noteHandler.memoryWf := h
theorem Block.spoilSwitches_memoryWf {b : Block} (h : b.memoryWf) : b.spoilSwitches.memoryWf := h
theorem Block.dropReshape_memoryWf {b : Block} (h : b.memoryWf) : b.dropReshape.memoryWf := h
theorem Block.arriveSwitch_memoryWf {b : Block} (k wi slot now : Nat) (h : b.memoryWf) :
    (b.arriveSwitch k wi slot now).memoryWf := by
  unfold Block.arriveSwitch
  split <;> exact h

/-- A choice between two states that have the form. -/
theorem ite_memoryWf {c : Prop} [Decidable c] {s t : State} (hs : s.memoryWf = true) (ht : t.memoryWf = true) :
    (if c then s else t).memoryWf = true := by
  split
  · exact hs
  · exact ht

/-! ### The operations over the machine (R159 to R163, R42) -/

theorem State.setCtx_memoryWf {s : State} (c : Nat) (x : Ctx) (hm : s.memoryWf = true) :
    (s.setCtx c x).memoryWf = true := hm

theorem State.setCore_memoryWf {s : State} (c : Nat) (x : Core) (hm : s.memoryWf = true) :
    (s.setCore c x).memoryWf = true := hm

theorem State.setRecord_memoryWf {s : State} (r : Record) (hm : s.memoryWf = true) :
    (s.setRecord r).memoryWf = true := hm

theorem State.setHome_memoryWf {s : State} (h : Nat) (x : Home) (hm : s.memoryWf = true) :
    (s.setHome h x).memoryWf = true := hm

theorem State.setChan_memoryWf {s : State} (c : Nat) (x : Chan) (hm : s.memoryWf = true) :
    (s.setChan c x).memoryWf = true := hm

theorem State.fresh_memoryWf {s : State} (hm : s.memoryWf = true) : (s.fresh).2.memoryWf = true := hm

theorem State.draw_memoryWf {s : State} (hm : s.memoryWf = true) : (s.draw).2.memoryWf = true := hm

theorem State.loadBytesAt_memoryWf {s : State} (t : Nat) (ls : List Nat) (hm : s.memoryWf = true) :
    (s.loadBytesAt t ls).2.memoryWf = true := by
  induction ls generalizing s t with
  | nil => grind [State.loadBytesAt]
  | cons x xs ih => grind [State.loadBytesAt, State.memoryWf_with]

theorem State.loadBytes_memoryWf {s : State} (l : List Nat) (hm : s.memoryWf = true) :
    (s.loadBytes l).2.memoryWf = true := State.loadBytesAt_memoryWf _ _ hm

theorem State.walked_memoryWf {s : State} (hm : s.memoryWf = true) : (s.walked).memoryWf = true := hm

theorem State.shootDown_memoryWf {s : State} (ctx va : Nat) (hm : s.memoryWf = true) :
    (s.shootDown ctx va).memoryWf = true := State.harvest_memoryWf _ _ hm

theorem State.tlbDrop_memoryWf {s : State} (e : TlbEntry) (hm : s.memoryWf = true) :
    (s.tlbDrop e).memoryWf = true := hm

theorem State.tlbRoom_memoryWf {s : State} (home cap : Nat) (hm : s.memoryWf = true) :
    (s.tlbRoom home cap).memoryWf = true := by
  grind [State.tlbRoom, State.tlbDrop_memoryWf]

theorem State.tlbFill_memoryWf {s : State} (home cap ctx : Nat) (l : Leaf) (write : Bool) (hm : s.memoryWf = true) :
    (s.tlbFill home cap ctx l write).memoryWf = true := State.tlbRoom_memoryWf _ _ hm

theorem State.tlbTouch_memoryWf {s : State} (homes : List Nat) (ctx va : Nat) (write : Bool) (hm : s.memoryWf = true) :
    (s.tlbTouch homes ctx va write).memoryWf = true := hm

theorem State.noteHit_memoryWf {s : State} (ctx base home : Nat) (hm : s.memoryWf = true) :
    (s.noteHit ctx base home).memoryWf = true := by
  grind [State.noteHit, State.memoryWf_with]

theorem State.noteHits_memoryWf {s : State} (core ctx : Nat) (l : List (Nat × Nat)) (hm : s.memoryWf = true) :
    (s.noteHits core ctx l).memoryWf = true := by
  grind [State.noteHits, State.noteHit_memoryWf, foldl_memoryWf]

theorem State.translate_memoryWf {s : State} (core ctx va : Nat) (acc : Access) (shadow : Bool)
    (hm : s.memoryWf = true) : (s.translate core ctx va acc shadow).2.memoryWf = true := by
  grind [State.translate, State.tlbTouch_memoryWf, State.tlbFill_memoryWf, State.walked_memoryWf]

theorem State.translateDie_memoryWf {s : State} (die ctx va : Nat) (hm : s.memoryWf = true) :
    (s.translateDie die ctx va).2.memoryWf = true := by
  grind [State.translateDie, State.tlbTouch_memoryWf, State.walked_memoryWf, State.tlbFill_memoryWf]

theorem State.translateList_memoryWf {s : State} (core ctx : Nat) (acc : Access) (ls : List Nat)
    (hm : s.memoryWf = true) : (s.translateList core ctx acc ls).2.memoryWf = true := by
  induction ls generalizing s core ctx acc with
  | nil => grind [State.translateList]
  | cons x xs ih => grind [State.translateList, State.translate_memoryWf]

theorem State.fillVirt_memoryWf {s : State} (ctx n2 n3 n4 : Nat) (hm : s.memoryWf = true) :
    (s.fillVirt ctx n2 n3 n4).memoryWf = true := by
  induction n2 generalizing s ctx n3 n4 with
  | zero => grind [State.fillVirt]
  | succ n ih => grind [State.fillVirt, State.fillRange_memoryWf]

theorem State.pushReq_memoryWf {s : State} (core home ctx block warp slot : Nat) (k : PxKind) (hm : s.memoryWf = true) :
    (s.pushReq core home ctx block warp slot k).memoryWf = true := hm

theorem State.unref_memoryWf {s : State} (core home slot : Nat) (hm : s.memoryWf = true) :
    (s.unref core home slot).memoryWf = true := by
  grind [State.unref, State.setHome_memoryWf]

theorem State.dropRefs_memoryWf {s : State} (core ctx block warp : Nat) (ls : List Word) (hm : s.memoryWf = true) :
    (s.dropRefs core ctx block warp ls).memoryWf = true := by
  induction ls generalizing s core ctx block warp with
  | nil => grind [State.dropRefs]
  | cons x xs ih => grind [State.dropRefs, State.unref_memoryWf, State.pushReq_memoryWf]

theorem State.staleAt_memoryWf {s : State} (ctx : Nat) (gone : Nat → Bool) (hm : s.memoryWf = true) :
    (s.staleAt ctx gone).memoryWf = true := by
  grind [State.staleAt, State.mem_blocks_memoryWf, State.memoryWf_withBlocks, Block.memoryWf_with]

theorem State.clearedLost_memoryWf {s : State} (ctx : Nat) (old : Ctx) (hm : s.memoryWf = true) :
    (s.clearedLost ctx old).memoryWf = true := by
  grind [State.clearedLost, State.staleAt_memoryWf]

theorem State.withdrawCopies_memoryWf {s : State} (b wi slot : Nat) (hm : s.memoryWf = true) :
    (s.withdrawCopies b wi slot).memoryWf = true := hm

theorem State.withdraw_memoryWf {s0 : State} (b wi slot : Nat) (keep : Bool) (hm : s0.memoryWf = true) :
    (s0.withdraw b wi slot keep).memoryWf = true := by
  grind [State.withdraw, State.withdrawCopies_memoryWf, State.warp?_memoryWf, State.setBlock_memoryWf_of_block,
    State.memoryWf_with, Block.memoryWf_with]

theorem State.writeStatus_memoryWf {s : State} (chan : Nat) (b : BankCtx) (hm : s.memoryWf = true) :
    (s.writeStatus chan b).memoryWf = true := by
  grind [State.writeStatus, State.note_memoryWf, State.writeVirt_memoryWf, State.memoryWf_with]

theorem State.setPreds_memoryWf {s : State} (core bid wi n : Nat) (m : Mask) (f : Nat → PredLane)
    (hm : s.memoryWf = true) : (s.setPreds core bid wi n m f).memoryWf = true := by
  grind [State.setPreds, State.warp?_memoryWf, State.dropRefs_memoryWf, State.setWarp_memoryWf]

theorem State.wakePost_memoryWf {s : State} (b wi : Nat) (p : Option Post) (hm : s.memoryWf = true) :
    (s.wakePost b wi p).memoryWf = true := by
  unfold State.wakePost
  grind [State.updWarp_memoryWf, State.setPreds_memoryWf]

theorem State.endPairs_memoryWf {s : State} (b wi : Nat) (hm : s.memoryWf = true) :
    (s.endPairs b wi).memoryWf = true := by
  grind [State.endPairs, State.wakePost_memoryWf, foldl_memoryWf, State.memoryWf_with]

theorem State.passOwner_memoryWf {s : State} (b wi next : Nat) (hm : s.memoryWf = true) :
    (s.passOwner b wi next).memoryWf = true := hm

theorem State.endWarp_memoryWf {s : State} (b wi : Nat) (hm : s.memoryWf = true) :
    (s.endWarp b wi).memoryWf = true := by
  grind [State.endWarp, State.endPairs_memoryWf, State.withdraw_memoryWf, State.dropRefs_memoryWf,
    State.updWarp_memoryWf, State.block?_memoryWf, State.setBlock_memoryWf_of_block, Block.noteWhole_memoryWf,
    State.passOwner_memoryWf, State.memoryWf_with]

theorem State.abortBank_memoryWf {s : State} (b : Nat) (hm : s.memoryWf = true) :
    (s.abortBank b).memoryWf = true := by
  grind [State.abortBank, State.writeStatus_memoryWf, State.setChan_memoryWf, foldl_memoryWf]

theorem State.vacate_memoryWf {s : State} (c : Nat) (hm : s.memoryWf = true) : (s.vacate c).memoryWf = true := by
  grind [State.vacate, State.setCore_memoryWf]

theorem State.noteBlockEnd_memoryWf {s : State} (blk : Block) (hm : s.memoryWf = true) :
    (s.noteBlockEnd blk).memoryWf = true := by
  grind [State.noteBlockEnd, State.fresh_memoryWf, State.note_memoryWf]

theorem State.reap_memoryWf {s : State} (b : Nat) (hm : s.memoryWf = true) : (s.reap b).memoryWf = true := by
  grind [State.reap, State.abortBank_memoryWf, State.noteBlockEnd_memoryWf, State.vacate_memoryWf,
    State.mem_blocks_memoryWf, State.memoryWf_withBlocks]

theorem State.writeHeld_memoryWf {s : State} (ctx : Nat) (hm : s.memoryWf = true) :
    (s.writeHeld ctx).memoryWf = true := by
  grind [State.writeHeld, State.writeVirt_memoryWf, State.setCtx_memoryWf, State.memoryWf_with]

theorem State.postRecord_memoryWf {s : State} (ctx : Nat) (r : FaultRec) (hm : s.memoryWf = true) :
    (s.postRecord ctx r).memoryWf = true := by
  grind [State.postRecord, State.writeHeld_memoryWf, State.setCtx_memoryWf]

theorem State.tryTerminate_memoryWf {s : State} (b : Nat) (hm : s.memoryWf = true) :
    (s.tryTerminate b).memoryWf = true := by
  grind [State.tryTerminate, State.block?_memoryWf, State.endWarp_memoryWf, State.setBlock_memoryWf_of_block,
    State.postRecord_memoryWf, State.reap_memoryWf, foldl_memoryWf, Block.memoryWf_with]

theorem State.terminate_memoryWf {s : State} (b code detail : Nat) (pc addr : DWord) (hm : s.memoryWf = true) :
    (s.terminate b code detail pc addr).memoryWf = true := by
  grind [State.terminate, State.block?_memoryWf, State.tryTerminate_memoryWf, State.setBlock_memoryWf_of_block,
    Block.memoryWf_with]

theorem State.tryEnter_memoryWf {s : State} (b wi : Nat) (hm : s.memoryWf = true) :
    (s.tryEnter b wi).memoryWf = true := by
  unfold State.tryEnter
  repeat' split
  all_goals grind [State.terminate_memoryWf, State.setBlock_memoryWf_of_block, State.withdraw_memoryWf,
    State.setWarp_memoryWf, State.fillVirt_memoryWf, State.warp?_memoryWf, Block.noteHandler_memoryWf]

theorem State.raiseTrap_memoryWf {s : State} (b wi slot code detail : Nat) (addr : DWord) (skip : Bool)
    (hm : s.memoryWf = true) : (s.raiseTrap b wi slot code detail addr skip).memoryWf = true := by
  grind [State.raiseTrap, State.terminate_memoryWf, State.tryEnter_memoryWf, State.updWarp_memoryWf,
    State.memoryWf_with]

/-! ### Operands and retirement (R22, R23) -/

theorem State.wrVec_memoryWf {s : State} (a : Actx) (n : Nat) (m : Mask) (f : Nat → KVal) (hm : s.memoryWf = true) :
    (s.wrVec a n m f).memoryWf = true := by
  grind [State.wrVec, State.warp?_memoryWf, State.dropRefs_memoryWf, State.setWarp_memoryWf]

theorem State.wrSc_memoryWf {s : State} (a : Actx) (n : Nat) (v : Word) (hm : s.memoryWf = true) :
    (s.wrSc a n v).memoryWf = true := State.updWarp_memoryWf _ _ _ hm

theorem State.wrK_memoryWf {s : State} (a : Actx) (d : BitVec 8) (sd : Bool) (m : Mask) (f : Nat → KVal)
    (hm : s.memoryWf = true) : (s.wrK a d sd m f).memoryWf = true := by
  grind [State.wrK, State.wrSc_memoryWf, State.wrVec_memoryWf]

theorem State.wr_memoryWf {s : State} (a : Actx) (d : BitVec 8) (sd : Bool) (m : Mask) (f : Nat → Word)
    (hm : s.memoryWf = true) : (s.wr a d sd m f).memoryWf = true := State.wrK_memoryWf _ _ _ _ _ hm

theorem State.wrPred_memoryWf {s : State} (a : Actx) (n : Nat) (m : Mask) (f : Nat → PredLane)
    (hm : s.memoryWf = true) : (s.wrPred a n m f).memoryWf = true := State.setPreds_memoryWf _ _ _ _ _ _ hm

theorem State.wrP_memoryWf {s : State} (a : Actx) (n : Nat) (m : Mask) (f : Nat → Bool) (hm : s.memoryWf = true) :
    (s.wrP a n m f).memoryWf = true := State.wrPred_memoryWf _ _ _ _ hm

theorem State.retire_memoryWf {s : State} (a : Actx) (hm : s.memoryWf = true) :
    (s.retire a).memoryWf = true := State.updWarp_memoryWf _ _ _ hm

theorem State.goto_memoryWf {s : State} (a : Actx) (pc : DWord) (hm : s.memoryWf = true) :
    (s.goto a pc).memoryWf = true := State.updWarp_memoryWf _ _ _ hm

theorem State.blockSlot_memoryWf {s : State} (a : Actx) (hm : s.memoryWf = true) :
    (s.blockSlot a).memoryWf = true := State.updWarp_memoryWf _ _ _ hm

theorem State.raise_memoryWf {s : State} (a : Actx) (code detail : Nat) (hm : s.memoryWf = true) :
    (s.raise a code detail).memoryWf = true := State.raiseTrap_memoryWf _ _ _ _ _ _ _ hm

theorem State.raiseAt_memoryWf {s : State} (a : Actx) (code detail : Nat) (addr : DWord) (hm : s.memoryWf = true) :
    (s.raiseAt a code detail addr).memoryWf = true := State.raiseTrap_memoryWf _ _ _ _ _ _ _ hm

theorem State.guarded_memoryWf {s : State} {gn : Bool} {g : BitVec 3} {act : Actx → Mask → State}
    (hm : s.memoryWf = true) (hact : ∀ a m, a.blk.memoryWf → (act a m).memoryWf = true) {t : State}
    (e : s.guarded gn g act = .next t) : t.memoryWf = true := by
  grind [State.guarded, State.actx_memoryWf, State.raise_memoryWf, State.retire_memoryWf]

theorem State.run_memoryWf {s : State} {o : Opnds} {act : Actx → Mask → State} (hm : s.memoryWf = true)
    (hact : ∀ a m, a.blk.memoryWf → (act a m).memoryWf = true) {t : State} (e : s.run o act = .next t) :
    t.memoryWf = true := State.guarded_memoryWf hm hact e

theorem State.plainOp_memoryWf {s : State} {o : Opnds} {xs : List Src} {f : Actx → Nat → Word}
    (hm : s.memoryWf = true) {t : State} (e : s.plainOp o xs f = .next t) : t.memoryWf = true := by
  refine State.run_memoryWf hm (fun a m _ => ?_) e
  grind [State.raise_memoryWf, State.wr_memoryWf, State.retire_memoryWf]

/-! ### Page faults, spills and misuse (R67, R380) -/

theorem State.pageWait_memoryWf {s : State} (ctx va : Nat) (write fetch : Bool) (waiter : FaultWaiter)
    (core code : Nat) (pc : DWord) (hm : s.memoryWf = true) :
    (s.pageWait ctx va write fetch waiter core code pc).2.memoryWf = true := by
  grind [State.pageWait, State.fresh_memoryWf, State.postRecord_memoryWf, State.memoryWf_with]

theorem State.park_memoryWf {s : State} (b wi slot id : Nat) (hm : s.memoryWf = true) :
    (s.park b wi slot id).memoryWf = true := State.updWarp_memoryWf _ _ _ hm

theorem State.dataFault_memoryWf {s : State} (a : Actx) (va detail : Nat) (write : Bool) (hm : s.memoryWf = true) :
    (s.dataFault a va detail write).memoryWf = true := by
  grind [State.dataFault, State.raiseAt_memoryWf, State.terminate_memoryWf, State.pageWait_memoryWf,
    State.park_memoryWf]

theorem State.fetchFault_memoryWf {s : State} (a : Actx) (detail : Nat) (hm : s.memoryWf = true) :
    (s.fetchFault a detail).memoryWf = true := by
  grind [State.fetchFault, State.raiseTrap_memoryWf, State.terminate_memoryWf, State.pageWait_memoryWf,
    State.park_memoryWf]

theorem State.spillFault_memoryWf {s : State} (a : Actx) (w1 : Warp) (hm : s.memoryWf = true) :
    (s.spillFault a w1).2.memoryWf = true := by
  grind [State.spillFault, State.translateList_memoryWf]

theorem State.spilled_memoryWf {s : State} (b : Block) (w w1 : Warp) (hm : s.memoryWf = true) :
    (s.spilled b w w1).memoryWf = true := by
  grind [State.spilled, State.fillVirt_memoryWf, foldl_memoryWf]

theorem State.spillBeside_memoryWf {s t : State} (hm : t.memoryWf = true) : (s.spillBeside t).memoryWf = true := by
  refine foldl_memoryWf _ (fun u b hu => foldl_memoryWf _ (fun v x hv => ?_) _ hu) _ hm
  grind [State.spilled_memoryWf]

theorem State.touchArea_memoryWf {s : State} (b : Block) (wi : Nat) (w : Warp) (va : Nat) (hb : b.memoryWf)
    (hm : s.memoryWf = true) : (s.touchArea b wi w va).memoryWf = true := by
  grind [State.touchArea, State.setWarp_memoryWf, State.memoryWf_with]

theorem State.misuse_memoryWf {s : State} (ctx : Nat) (vas : List Nat) (hm : s.memoryWf = true) :
    (s.misuse ctx vas).memoryWf = true := by
  grind [State.misuse, State.warp?_memoryWf, State.touchArea_memoryWf, foldl_memoryWf]

theorem State.spoilBlock_memoryWf {s : State} (b : Nat) (hm : s.memoryWf = true) :
    (s.spoilBlock b).memoryWf = true := by
  grind [State.spoilBlock, State.updWarp_memoryWf, foldl_memoryWf, State.memoryWf_with]

theorem State.changeObject_memoryWf {s : State} (ctx : Nat) (vas : List Nat) (hm : s.memoryWf = true) :
    (s.changeObject ctx vas).memoryWf = true := by
  grind [State.changeObject, State.spoilBlock_memoryWf, foldl_memoryWf]

theorem State.changeObjectAt_memoryWf {s : State} (pas : List Nat) (hm : s.memoryWf = true) :
    (s.changeObjectAt pas).memoryWf = true := by
  grind [State.changeObjectAt, State.spoilBlock_memoryWf, foldl_memoryWf]

theorem State.loseIdemp_memoryWf {s : State} (a : Actx) (hm : s.memoryWf = true) :
    (s.loseIdemp a).memoryWf = true := by
  grind [State.loseIdemp, State.block?_memoryWf, State.setBlock_memoryWf_of_block, Block.memoryWf_with]

/-! ### Operations in flight and their flags (R33, R34) -/

theorem State.pushOp_memoryWf {s : State} (a : Actx) (flag : Option Nat) (epoch : Option (Nat × Nat)) (k : OpKind)
    (hm : s.memoryWf = true) : (s.pushOp a flag epoch k).memoryWf = true := hm

theorem State.startOp_memoryWf {s : State} (a : Actx) (o : Opnds) (k : OpKind) (hm : s.memoryWf = true) :
    (s.startOp a o k).memoryWf = true := by
  grind [State.startOp, State.updWarp_memoryWf, State.pushOp_memoryWf]

theorem State.setOp_memoryWf {s : State} (id : Nat) (k : OpKind) (hm : s.memoryWf = true) :
    (s.setOp id k).memoryWf = true := hm

theorem State.finishOp_memoryWf {s : State} (o : Op) (hm : s.memoryWf = true) : (s.finishOp o).memoryWf = true := by
  grind [State.finishOp, State.reap_memoryWf, State.tryTerminate_memoryWf, State.updWarp_memoryWf,
    State.memoryWf_with]

theorem State.counted_memoryWf {s : State} {o : Opnds} {act : Actx → Mask → State} (hm : s.memoryWf = true)
    (hact : ∀ a m, a.blk.memoryWf → (act a m).memoryWf = true) {t : State} (e : s.counted o act = .next t) :
    t.memoryWf = true := by
  have hrun := State.run_memoryWf (o := o) hm hact (t := t)
  grind [State.counted]

/-! ### Proxies at their homes (R115) -/

theorem State.addRun_memoryWf {s : State} (home : Nat) (r : Run) (hm : s.memoryWf = true) :
    (s.addRun home r).memoryWf = true := hm

theorem State.setRun_memoryWf {s : State} (home : Nat) (old new : Run) (hm : s.memoryWf = true) :
    (s.setRun home old new).memoryWf = true := hm

theorem State.touchChunk_memoryWf {s : State} (core home slot : Nat) (hm : s.memoryWf = true) :
    (s.touchChunk core home slot).memoryWf = true := hm

theorem State.takeRuns_memoryWf {s : State} {core ctx : Nat} {l : List (Nat × Nat × Nat)} {slots : List Nat}
    {t : State} (hm : s.memoryWf = true) (e : s.takeRuns core ctx l = .ok (slots, t)) : t.memoryWf = true := by
  induction l generalizing s slots with
  | nil => cases e; exact hm
  | cons x xs ih =>
    obtain ⟨home, ext, count⟩ := x
    simp only [State.takeRuns] at e
    grind [State.addRun_memoryWf, State.touchChunk_memoryWf]

theorem State.askChunks_memoryWf {s : State} (a : Actx) (home : Nat) (runs : List (Nat × Nat × Nat))
    (hm : s.memoryWf = true) : (s.askChunks a home runs).memoryWf = true := by
  grind [State.askChunks, State.fresh_memoryWf, State.blockSlot_memoryWf, State.memoryWf_with]

theorem State.useCopies_memoryWf {s : State} (a : Actx) (cs : List (Nat × Nat × Nat × Nat)) (hm : s.memoryWf = true) :
    (s.useCopies a cs).memoryWf = true := by
  grind [State.useCopies, State.pushReq_memoryWf, foldl_memoryWf, State.memoryWf_with]

theorem State.writePx_memoryWf {s : State} (a : Actx) (dst : PxDst) (m : Mask) (isPx : Nat → Bool)
    (handle plain : Nat → Word) (hm : s.memoryWf = true) : (s.writePx a dst m isPx handle plain).memoryWf = true := by
  unfold State.writePx
  grind [State.wrK_memoryWf, State.wrPred_memoryWf]

theorem State.formAtHome_memoryWf {s : State} (a : Actx) (m : Mask) (dst : PxDst) (fn : HomeFn) (ks : Nat → List KVal)
    (pl : List Nat) (plain : Nat → Word) (hm : s.memoryWf = true) :
    (s.formAtHome a m dst fn ks pl plain).memoryWf = true := by
  unfold State.formAtHome
  dsimp only
  split
  · exact foldl_memoryWf _ (fun _ _ h => State.pushReq_memoryWf _ _ _ _ _ _ _ h) _ (State.blockSlot_memoryWf _ hm)
  · split
    · exact State.blockSlot_memoryWf _ hm
    · split
      · exact State.askChunks_memoryWf _ _ _ hm
      · rename_i e
        exact State.retire_memoryWf _ (State.writePx_memoryWf _ _ _ _ _ _ (State.dropRefs_memoryWf _ _ _ _ _
          (State.useCopies_memoryWf _ _ (foldl_memoryWf _ (fun _ _ h => State.pushReq_memoryWf _ _ _ _ _ _ _ h) _
            (State.takeRuns_memoryWf hm e)))))

theorem State.capableLanes_memoryWf {s : State} (a : Actx) (m : Mask) (dst : PxDst) (fn : HomeFn)
    (ks : Nat → List KVal) (plain : Nat → Word) (hm : s.memoryWf = true) :
    (s.capableLanes a m dst fn ks plain).memoryWf = true := by
  grind [State.capableLanes, State.raise_memoryWf, State.retire_memoryWf, State.writePx_memoryWf,
    State.formAtHome_memoryWf]

theorem State.capable_memoryWf {s : State} {o : Opnds} {dst : PxDst} {xs : List Src} {fn : HomeFn}
    (hm : s.memoryWf = true) {t : State} (e : s.capable o dst xs fn = .next t) : t.memoryWf = true :=
  State.run_memoryWf hm (fun _ _ _ => State.capableLanes_memoryWf _ _ _ _ _ _ hm) e

theorem State.addRefs_memoryWf {s : State} (home slot n : Nat) (hm : s.memoryWf = true) :
    (s.addRefs home slot n).memoryWf = true := by
  grind [State.addRefs, State.setRun_memoryWf]

theorem State.moveLanes_memoryWf {s : State} (a : Actx) (o : Opnds) (m : Mask) (pick : Nat → KVal)
    (hm : s.memoryWf = true) : (s.moveLanes a o m pick).memoryWf = true := by
  unfold State.moveLanes
  dsimp only
  split
  · exact State.askChunks_memoryWf _ _ _ hm
  · rename_i e
    exact State.retire_memoryWf _ (State.wrK_memoryWf _ _ _ _ _ (foldl_memoryWf _ (fun _ _ h => State.addRefs_memoryWf _ _ _ h) _
      (foldl_memoryWf _ (fun _ _ h => State.pushReq_memoryWf _ _ _ _ _ _ _ h) _ (State.takeRuns_memoryWf hm e))))

/-! ### Instructions with a result -/

theorem execIaddReg_memoryWf {s : State} (o : Opnds) (hm : s.memoryWf = true) {t : State}
    (e : execIaddReg o s = .next t) : t.memoryWf = true := State.capable_memoryWf hm e

theorem execIaddImm_memoryWf {s : State} (o : Opnds) (hm : s.memoryWf = true) {t : State}
    (e : execIaddImm o s = .next t) : t.memoryWf = true := State.capable_memoryWf hm e

theorem execIsubReg_memoryWf {s : State} (o : Opnds) (hm : s.memoryWf = true) {t : State}
    (e : execIsubReg o s = .next t) : t.memoryWf = true := State.capable_memoryWf hm e

theorem execIsubImm_memoryWf {s : State} (o : Opnds) (hm : s.memoryWf = true) {t : State}
    (e : execIsubImm o s = .next t) : t.memoryWf = true := State.capable_memoryWf hm e

theorem execImulReg_memoryWf {s : State} (o : Opnds) (hm : s.memoryWf = true) {t : State}
    (e : execImulReg o s = .next t) : t.memoryWf = true := State.capable_memoryWf hm e

theorem execImulImm_memoryWf {s : State} (o : Opnds) (hm : s.memoryWf = true) {t : State}
    (e : execImulImm o s = .next t) : t.memoryWf = true := State.capable_memoryWf hm e

theorem execImulhReg_memoryWf {s : State} (o : Opnds) (hm : s.memoryWf = true) {t : State}
    (e : execImulhReg o s = .next t) : t.memoryWf = true := State.plainOp_memoryWf hm e

theorem execImulhImm_memoryWf {s : State} (o : Opnds) (hm : s.memoryWf = true) {t : State}
    (e : execImulhImm o s = .next t) : t.memoryWf = true := State.plainOp_memoryWf hm e

theorem execImad_memoryWf {s : State} (o : Opnds) (hm : s.memoryWf = true) {t : State} (e : execImad o s = .next t) :
    t.memoryWf = true := State.capable_memoryWf hm e

theorem execImadw_memoryWf {s : State} (o : Opnds) (hm : s.memoryWf = true) {t : State} (e : execImadw o s = .next t) :
    t.memoryWf = true := by
  refine State.run_memoryWf hm (fun a m ha => ?_) e
  grind [State.raise_memoryWf, State.wr_memoryWf, State.retire_memoryWf]

theorem execIminReg_memoryWf {s : State} (o : Opnds) (hm : s.memoryWf = true) {t : State}
    (e : execIminReg o s = .next t) : t.memoryWf = true := State.capable_memoryWf hm e

theorem execIminImm_memoryWf {s : State} (o : Opnds) (hm : s.memoryWf = true) {t : State}
    (e : execIminImm o s = .next t) : t.memoryWf = true := State.capable_memoryWf hm e

theorem execImaxReg_memoryWf {s : State} (o : Opnds) (hm : s.memoryWf = true) {t : State}
    (e : execImaxReg o s = .next t) : t.memoryWf = true := State.capable_memoryWf hm e

theorem execImaxImm_memoryWf {s : State} (o : Opnds) (hm : s.memoryWf = true) {t : State}
    (e : execImaxImm o s = .next t) : t.memoryWf = true := State.capable_memoryWf hm e

theorem execIabs_memoryWf {s : State} (o : Opnds) (hm : s.memoryWf = true) {t : State} (e : execIabs o s = .next t) :
    t.memoryWf = true := State.plainOp_memoryWf hm e

theorem execItestReg_memoryWf {s : State} (o : Opnds) (hm : s.memoryWf = true) {t : State}
    (e : execItestReg o s = .next t) : t.memoryWf = true := State.capable_memoryWf hm e

theorem execItestImm_memoryWf {s : State} (o : Opnds) (hm : s.memoryWf = true) {t : State}
    (e : execItestImm o s = .next t) : t.memoryWf = true := State.capable_memoryWf hm e

theorem State.select_memoryWf {s : State} (o : Opnds) (b : Src) (hm : s.memoryWf = true) {t : State}
    (e : s.select o b = .next t) : t.memoryWf = true := by
  refine State.run_memoryWf hm (fun a m ha => ?_) e
  grind [State.raise_memoryWf, State.moveLanes_memoryWf, State.memoryWf_with]

theorem execSelReg_memoryWf {s : State} (o : Opnds) (hm : s.memoryWf = true) {t : State}
    (e : execSelReg o s = .next t) : t.memoryWf = true := State.select_memoryWf _ _ hm e

theorem execSelImm_memoryWf {s : State} (o : Opnds) (hm : s.memoryWf = true) {t : State}
    (e : execSelImm o s = .next t) : t.memoryWf = true := State.select_memoryWf _ _ hm e

theorem execBlutReg_memoryWf {s : State} (lutHi : BitVec 3) (o : Opnds) (hm : s.memoryWf = true) {t : State}
    (e : execBlutReg lutHi o s = .next t) : t.memoryWf = true := State.capable_memoryWf hm e

theorem execBlutImm_memoryWf {s : State} (lutHi : BitVec 3) (o : Opnds) (hm : s.memoryWf = true) {t : State}
    (e : execBlutImm lutHi o s = .next t) : t.memoryWf = true := State.capable_memoryWf hm e

theorem execShlReg_memoryWf {s : State} (o : Opnds) (hm : s.memoryWf = true) {t : State}
    (e : execShlReg o s = .next t) : t.memoryWf = true := State.capable_memoryWf hm e

theorem execShlImm_memoryWf {s : State} (o : Opnds) (hm : s.memoryWf = true) {t : State}
    (e : execShlImm o s = .next t) : t.memoryWf = true := State.capable_memoryWf hm e

theorem execShrReg_memoryWf {s : State} (o : Opnds) (hm : s.memoryWf = true) {t : State}
    (e : execShrReg o s = .next t) : t.memoryWf = true := State.capable_memoryWf hm e

theorem execShrImm_memoryWf {s : State} (o : Opnds) (hm : s.memoryWf = true) {t : State}
    (e : execShrImm o s = .next t) : t.memoryWf = true := State.capable_memoryWf hm e

theorem execShf_memoryWf {s : State} (o : Opnds) (hm : s.memoryWf = true) {t : State} (e : execShf o s = .next t) :
    t.memoryWf = true := State.plainOp_memoryWf hm e

theorem execPopc_memoryWf {s : State} (o : Opnds) (hm : s.memoryWf = true) {t : State} (e : execPopc o s = .next t) :
    t.memoryWf = true := State.plainOp_memoryWf hm e

theorem execClz_memoryWf {s : State} (o : Opnds) (hm : s.memoryWf = true) {t : State} (e : execClz o s = .next t) :
    t.memoryWf = true := State.plainOp_memoryWf hm e

theorem execBrev_memoryWf {s : State} (o : Opnds) (hm : s.memoryWf = true) {t : State} (e : execBrev o s = .next t) :
    t.memoryWf = true := State.plainOp_memoryWf hm e

theorem execBfeReg_memoryWf {s : State} (o : Opnds) (hm : s.memoryWf = true) {t : State}
    (e : execBfeReg o s = .next t) : t.memoryWf = true := State.plainOp_memoryWf hm e

theorem execBfeImm_memoryWf {s : State} (o : Opnds) (hm : s.memoryWf = true) {t : State}
    (e : execBfeImm o s = .next t) : t.memoryWf = true := State.plainOp_memoryWf hm e

theorem execBfi_memoryWf {s : State} (o : Opnds) (hm : s.memoryWf = true) {t : State} (e : execBfi o s = .next t) :
    t.memoryWf = true := State.plainOp_memoryWf hm e

theorem execLeaReg_memoryWf {s : State} (o : Opnds) (hm : s.memoryWf = true) {t : State}
    (e : execLeaReg o s = .next t) : t.memoryWf = true := State.plainOp_memoryWf hm e

theorem execLeaImm_memoryWf {s : State} (o : Opnds) (hm : s.memoryWf = true) {t : State}
    (e : execLeaImm o s = .next t) : t.memoryWf = true := State.plainOp_memoryWf hm e

theorem execMov_memoryWf {s : State} (o : Opnds) (hm : s.memoryWf = true) {t : State} (e : execMov o s = .next t) :
    t.memoryWf = true := by
  refine State.run_memoryWf hm (fun a m ha => ?_) e
  grind [State.moveLanes_memoryWf]

theorem execMovP2v_memoryWf {s : State} (o : Opnds) (hm : s.memoryWf = true) {t : State}
    (e : execMovP2v o s = .next t) : t.memoryWf = true := by
  refine State.run_memoryWf hm (fun a m ha => ?_) e
  grind [State.raise_memoryWf, State.retire_memoryWf, State.wr_memoryWf]

theorem State.wrPreds_memoryWf {s : State} (a : Actx) (m : Mask) (mask : Nat) (v : Nat → Word) (ls : List Nat)
    (hm : s.memoryWf = true) : (s.wrPreds a m mask v ls).memoryWf = true := by
  induction ls generalizing s a m mask v with
  | nil => grind [State.wrPreds]
  | cons x xs ih => grind [State.wrPreds, State.wrP_memoryWf]

theorem execMovV2p_memoryWf {s : State} (o : Opnds) (hm : s.memoryWf = true) {t : State}
    (e : execMovV2p o s = .next t) : t.memoryWf = true := by
  refine State.run_memoryWf hm (fun a m ha => ?_) e
  grind [State.raise_memoryWf, State.retire_memoryWf, State.wrPreds_memoryWf]

theorem State.moveLane_memoryWf {s : State} (o : Opnds) (b : Src) (hm : s.memoryWf = true) {t : State}
    (e : s.moveLane o b = .next t) : t.memoryWf = true := by
  refine State.run_memoryWf hm (fun a m ha => ?_) e
  grind [State.raise_memoryWf, State.retire_memoryWf, State.wr_memoryWf]

theorem execMovLaneReg_memoryWf {s : State} (o : Opnds) (hm : s.memoryWf = true) {t : State}
    (e : execMovLaneReg o s = .next t) : t.memoryWf = true := State.moveLane_memoryWf _ _ hm e

theorem execMovLaneImm_memoryWf {s : State} (o : Opnds) (hm : s.memoryWf = true) {t : State}
    (e : execMovLaneImm o s = .next t) : t.memoryWf = true := State.moveLane_memoryWf _ _ hm e

theorem execMovUnif_memoryWf {s : State} (o : Opnds) (hm : s.memoryWf = true) {t : State}
    (e : execMovUnif o s = .next t) : t.memoryWf = true := by
  refine State.run_memoryWf hm (fun a m ha => ?_) e
  grind [State.retire_memoryWf, State.wr_memoryWf]

theorem execMovi_memoryWf {s : State} (o : MoviOpnds) (hm : s.memoryWf = true) {t : State}
    (e : execMovi o s = .next t) : t.memoryWf = true := by
  grind [execMovi, State.retire_memoryWf, State.wr_memoryWf]

theorem execPlop_memoryWf {s : State} (lutHi : BitVec 3) (o : Opnds) (hm : s.memoryWf = true) {t : State}
    (e : execPlop lutHi o s = .next t) : t.memoryWf = true := by
  refine State.run_memoryWf hm (fun a m ha => ?_) e
  grind [State.raise_memoryWf, State.retire_memoryWf, State.wrP_memoryWf]

theorem State.pairWord_memoryWf {s : State} (p : PairOp) (x : HalfOpnds) (y : PairHalf) (hm : s.memoryWf = true)
    {t : State} (e : s.pairWord p x y = .next t) : t.memoryWf = true := by
  grind [State.pairWord, State.raise_memoryWf, State.wr_memoryWf, State.retire_memoryWf]

theorem execPairMov_memoryWf {s : State} (x : HalfOpnds) (y : PairHalf) (hm : s.memoryWf = true) {t : State}
    (e : execPairMov x y s = .next t) : t.memoryWf = true := State.pairWord_memoryWf _ _ _ hm e

theorem execPairIadd_memoryWf {s : State} (x : HalfOpnds) (y : PairHalf) (hm : s.memoryWf = true) {t : State}
    (e : execPairIadd x y s = .next t) : t.memoryWf = true := State.pairWord_memoryWf _ _ _ hm e

theorem execPairIsub_memoryWf {s : State} (x : HalfOpnds) (y : PairHalf) (hm : s.memoryWf = true) {t : State}
    (e : execPairIsub x y s = .next t) : t.memoryWf = true := State.pairWord_memoryWf _ _ _ hm e

theorem execPairImul_memoryWf {s : State} (x : HalfOpnds) (y : PairHalf) (hm : s.memoryWf = true) {t : State}
    (e : execPairImul x y s = .next t) : t.memoryWf = true := State.pairWord_memoryWf _ _ _ hm e

theorem execPairImin_memoryWf {s : State} (x : HalfOpnds) (y : PairHalf) (hm : s.memoryWf = true) {t : State}
    (e : execPairImin x y s = .next t) : t.memoryWf = true := State.pairWord_memoryWf _ _ _ hm e

theorem execPairImax_memoryWf {s : State} (x : HalfOpnds) (y : PairHalf) (hm : s.memoryWf = true) {t : State}
    (e : execPairImax x y s = .next t) : t.memoryWf = true := State.pairWord_memoryWf _ _ _ hm e

theorem execPairAnd_memoryWf {s : State} (x : HalfOpnds) (y : PairHalf) (hm : s.memoryWf = true) {t : State}
    (e : execPairAnd x y s = .next t) : t.memoryWf = true := State.pairWord_memoryWf _ _ _ hm e

theorem execPairOr_memoryWf {s : State} (x : HalfOpnds) (y : PairHalf) (hm : s.memoryWf = true) {t : State}
    (e : execPairOr x y s = .next t) : t.memoryWf = true := State.pairWord_memoryWf _ _ _ hm e

theorem execPairXor_memoryWf {s : State} (x : HalfOpnds) (y : PairHalf) (hm : s.memoryWf = true) {t : State}
    (e : execPairXor x y s = .next t) : t.memoryWf = true := State.pairWord_memoryWf _ _ _ hm e

theorem execPairShl_memoryWf {s : State} (x : HalfOpnds) (y : PairHalf) (hm : s.memoryWf = true) {t : State}
    (e : execPairShl x y s = .next t) : t.memoryWf = true := State.pairWord_memoryWf _ _ _ hm e

theorem execPairShr_memoryWf {s : State} (x : HalfOpnds) (y : PairHalf) (hm : s.memoryWf = true) {t : State}
    (e : execPairShr x y s = .next t) : t.memoryWf = true := State.pairWord_memoryWf _ _ _ hm e

theorem execPairFadd_memoryWf {s : State} (x : HalfOpnds) (y : PairHalf) (hm : s.memoryWf = true) {t : State}
    (e : execPairFadd x y s = .next t) : t.memoryWf = true := State.pairWord_memoryWf _ _ _ hm e

theorem execPairFmul_memoryWf {s : State} (x : HalfOpnds) (y : PairHalf) (hm : s.memoryWf = true) {t : State}
    (e : execPairFmul x y s = .next t) : t.memoryWf = true := State.pairWord_memoryWf _ _ _ hm e

theorem execPairFmin_memoryWf {s : State} (x : HalfOpnds) (y : PairHalf) (hm : s.memoryWf = true) {t : State}
    (e : execPairFmin x y s = .next t) : t.memoryWf = true := State.pairWord_memoryWf _ _ _ hm e

theorem execPairFmax_memoryWf {s : State} (x : HalfOpnds) (y : PairHalf) (hm : s.memoryWf = true) {t : State}
    (e : execPairFmax x y s = .next t) : t.memoryWf = true := State.pairWord_memoryWf _ _ _ hm e

theorem execPairHadd2_memoryWf {s : State} (x : HalfOpnds) (y : PairHalf) (hm : s.memoryWf = true) {t : State}
    (e : execPairHadd2 x y s = .next t) : t.memoryWf = true := State.pairWord_memoryWf _ _ _ hm e

theorem execPairHmul2_memoryWf {s : State} (x : HalfOpnds) (y : PairHalf) (hm : s.memoryWf = true) {t : State}
    (e : execPairHmul2 x y s = .next t) : t.memoryWf = true := State.pairWord_memoryWf _ _ _ hm e

theorem execPairMovi8_memoryWf {s : State} (x : HalfOpnds) (y : PairHalf) (hm : s.memoryWf = true) {t : State}
    (e : execPairMovi8 x y s = .next t) : t.memoryWf = true := State.pairWord_memoryWf _ _ _ hm e

theorem execPairIaddImm_memoryWf {s : State} (x : HalfOpnds) (y : PairHalf) (hm : s.memoryWf = true) {t : State}
    (e : execPairIaddImm x y s = .next t) : t.memoryWf = true := State.pairWord_memoryWf _ _ _ hm e

theorem execPairIsubImm_memoryWf {s : State} (x : HalfOpnds) (y : PairHalf) (hm : s.memoryWf = true) {t : State}
    (e : execPairIsubImm x y s = .next t) : t.memoryWf = true := State.pairWord_memoryWf _ _ _ hm e

theorem execPairImulImm_memoryWf {s : State} (x : HalfOpnds) (y : PairHalf) (hm : s.memoryWf = true) {t : State}
    (e : execPairImulImm x y s = .next t) : t.memoryWf = true := State.pairWord_memoryWf _ _ _ hm e

theorem execPairIminImm_memoryWf {s : State} (x : HalfOpnds) (y : PairHalf) (hm : s.memoryWf = true) {t : State}
    (e : execPairIminImm x y s = .next t) : t.memoryWf = true := State.pairWord_memoryWf _ _ _ hm e

theorem execPairImaxImm_memoryWf {s : State} (x : HalfOpnds) (y : PairHalf) (hm : s.memoryWf = true) {t : State}
    (e : execPairImaxImm x y s = .next t) : t.memoryWf = true := State.pairWord_memoryWf _ _ _ hm e

theorem execPairAndImm_memoryWf {s : State} (x : HalfOpnds) (y : PairHalf) (hm : s.memoryWf = true) {t : State}
    (e : execPairAndImm x y s = .next t) : t.memoryWf = true := State.pairWord_memoryWf _ _ _ hm e

theorem execPairOrImm_memoryWf {s : State} (x : HalfOpnds) (y : PairHalf) (hm : s.memoryWf = true) {t : State}
    (e : execPairOrImm x y s = .next t) : t.memoryWf = true := State.pairWord_memoryWf _ _ _ hm e

theorem execPairXorImm_memoryWf {s : State} (x : HalfOpnds) (y : PairHalf) (hm : s.memoryWf = true) {t : State}
    (e : execPairXorImm x y s = .next t) : t.memoryWf = true := State.pairWord_memoryWf _ _ _ hm e

theorem execPairShlImm_memoryWf {s : State} (x : HalfOpnds) (y : PairHalf) (hm : s.memoryWf = true) {t : State}
    (e : execPairShlImm x y s = .next t) : t.memoryWf = true := State.pairWord_memoryWf _ _ _ hm e

theorem execPairShrImm_memoryWf {s : State} (x : HalfOpnds) (y : PairHalf) (hm : s.memoryWf = true) {t : State}
    (e : execPairShrImm x y s = .next t) : t.memoryWf = true := State.pairWord_memoryWf _ _ _ hm e

end Sys2Proof.Machine
end

section
/-!
PROOF. Every operation of the machine keeps the memories in canonical form (O6), continued.
-/
namespace Sys2Proof.Machine
open Sys2Proof

/-! ### Exchange between lanes and warps (R150 to R156) -/

theorem State.lxchg_memoryWf {s : State} (mode : LxMode) (o : Opnds) (b : Src) (hm : s.memoryWf = true) {t : State}
    (e : s.lxchg mode o b = .next t) : t.memoryWf = true := by
  refine State.run_memoryWf hm (fun a m ha => ?_) e
  grind [State.raise_memoryWf, State.retire_memoryWf, State.wr_memoryWf]

theorem execLxchgReg_memoryWf {s : State} (mode : LxMode) (o : Opnds) (hm : s.memoryWf = true) {t : State}
    (e : execLxchgReg mode o s = .next t) : t.memoryWf = true := State.lxchg_memoryWf _ _ _ hm e

theorem execLxchgImm_memoryWf {s : State} (mode : LxMode) (o : Opnds) (hm : s.memoryWf = true) {t : State}
    (e : execLxchgImm mode o s = .next t) : t.memoryWf = true := State.lxchg_memoryWf _ _ _ hm e

theorem execVote_memoryWf {s : State} (mode : VoteMode) (o : Opnds) (hm : s.memoryWf = true) {t : State}
    (e : execVote mode o s = .next t) : t.memoryWf = true := by
  refine State.run_memoryWf hm (fun a m ha => ?_) e
  grind [State.raise_memoryWf, State.retire_memoryWf, State.wrP_memoryWf]

theorem execBallot_memoryWf {s : State} (o : Opnds) (hm : s.memoryWf = true) {t : State}
    (e : execBallot o s = .next t) : t.memoryWf = true := by
  refine State.run_memoryWf hm (fun a m ha => ?_) e
  grind [State.raise_memoryWf, State.retire_memoryWf, State.wr_memoryWf]

theorem execMatchAny_memoryWf {s : State} (o : Opnds) (hm : s.memoryWf = true) {t : State}
    (e : execMatchAny o s = .next t) : t.memoryWf = true := State.plainOp_memoryWf hm e

theorem execMatchAll_memoryWf {s : State} (o : Opnds) (hm : s.memoryWf = true) {t : State}
    (e : execMatchAll o s = .next t) : t.memoryWf = true := by
  refine State.run_memoryWf hm (fun a m ha => ?_) e
  grind [State.raise_memoryWf, State.retire_memoryWf, State.wrP_memoryWf, State.wr_memoryWf]

theorem execRedux_memoryWf {s : State} (op : ReduxOp) (o : Opnds) (hm : s.memoryWf = true) {t : State}
    (e : execRedux op o s = .next t) : t.memoryWf = true := by
  refine State.run_memoryWf hm (fun a m ha => ?_) e
  grind [State.raise_memoryWf, State.retire_memoryWf, State.wr_memoryWf]

theorem State.answer_memoryWf {s : State} (b wi slot d : Nat) (v : Word) (hm : s.memoryWf = true) :
    (s.answer b wi slot d v).memoryWf = true := by
  grind [State.answer, State.retire_memoryWf, State.wrSc_memoryWf]

theorem State.addPair_memoryWf {s : State} (x y : Offer) (hm : s.memoryWf = true) :
    (s.addPair x y).memoryWf = true := hm

theorem State.endOffer_memoryWf {s : State} (q : Offer) (hm : s.memoryWf = true) :
    (s.endOffer q).memoryWf = true := State.answer_memoryWf _ _ _ _ _ hm

theorem State.endOffers_memoryWf {s : State} (hm : s.memoryWf = true) : (s.endOffers).memoryWf = true := by
  grind [State.endOffers, State.endOffer_memoryWf, foldl_memoryWf]

theorem execXpair_memoryWf {s : State} (o : Opnds) (hm : s.memoryWf = true) {t : State} (e : execXpair o s = .next t) :
    t.memoryWf = true := by
  refine State.run_memoryWf hm (fun a m ha => ?_) e
  grind [State.endOffers_memoryWf, State.endPairs_memoryWf, State.loseIdemp_memoryWf, State.retire_memoryWf,
    State.wrSc_memoryWf, State.answer_memoryWf, State.addPair_memoryWf, State.blockSlot_memoryWf, State.memoryWf_with]

theorem execXpairTimeout_memoryWf {s : State} (hm : s.memoryWf = true) {t : State} (e : execXpairTimeout s = .next t) :
    t.memoryWf = true := by
  grind [execXpairTimeout, State.endOffer_memoryWf]

theorem execXshfl_memoryWf {s : State} (o : Opnds) (hm : s.memoryWf = true) {t : State} (e : execXshfl o s = .next t) :
    t.memoryWf = true := by
  refine State.run_memoryWf hm (fun a m ha => ?_) e
  grind [State.raise_memoryWf, State.retire_memoryWf, State.wrP_memoryWf, State.blockSlot_memoryWf,
    State.memoryWf_with]

theorem State.commitSide_memoryWf {s : State} (b wi : Nat) (mine theirs : Post) (hm : s.memoryWf = true) :
    (s.commitSide b wi mine theirs).memoryWf = true := by
  grind [State.commitSide, State.wr_memoryWf, State.retire_memoryWf, State.wrP_memoryWf]

theorem execXshflCommit_memoryWf {s : State} (hm : s.memoryWf = true) {t : State} (e : execXshflCommit s = .next t) :
    t.memoryWf = true := by
  grind [execXshflCommit, State.commitSide_memoryWf, State.memoryWf_with]

/-! ### Reads at a point of the coherence order (R191) -/

theorem State.readAt_memoryWf {s : State} (q : MemTag) (pas : List Nat) (t : Nat) (hm : s.memoryWf = true) :
    (s.readAt q pas t).2.memoryWf = true := by
  grind [State.readAt, State.loadBytesAt_memoryWf, State.note_memoryWf]

theorem State.barWaits_memoryWf {s : State} (pas : List Nat) (t : MemTag) (hm : s.memoryWf = true) :
    (s.barWaits pas t).memoryWf = true := hm

theorem State.storeAtom_memoryWf {s : State} (t : MemTag) (bytes : List Nat) (old : List Byte) (v : Option Nat)
    (routes : List (Nat × Word)) (hm : s.memoryWf = true) : (s.storeAtom t bytes old v routes).memoryWf = true := by
  unfold State.storeAtom
  grind [State.barWaits_memoryWf, State.note_memoryWf, State.wakeWaits_memoryWf, State.putBytes_memoryWf]

theorem State.readSingly_memoryWf {s : State} (q : MemTag) (start : Option Nat) (t : Nat) (ls : List Nat)
    (hm : s.memoryWf = true) : (s.readSingly q start t ls).2.memoryWf = true := by
  induction ls generalizing s q start t with
  | nil => grind [State.readSingly]
  | cons x xs ih => grind [State.readSingly, State.readAt_memoryWf]

theorem State.readGroups_memoryWf {s : State} (q : MemTag) (start : Option Nat) (t : Nat) (ls : List (List Nat))
    (hm : s.memoryWf = true) : (s.readGroups q start t ls).2.memoryWf = true := by
  induction ls generalizing s q start t with
  | nil => grind [State.readGroups]
  | cons x xs ih => grind [State.readGroups, State.readAt_memoryWf, State.readSingly_memoryWf]

theorem State.readSpan_memoryWf {s : State} (q : MemTag) (start : Option Nat) (pas : List Nat) (t : Nat)
    (hm : s.memoryWf = true) : (s.readSpan q start pas t).2.memoryWf = true := State.readGroups_memoryWf _ _ _ _ hm

theorem State.readOnce_memoryWf {s : State} (q : MemTag) (start : Option Nat) (pas : List Nat) (t : Nat)
    (hm : s.memoryWf = true) : (s.readOnce q start pas t).2.memoryWf = true := State.readGroups_memoryWf _ _ _ _ hm

theorem State.observe_memoryWf {s : State} (b wi core obj : Nat) (hm : s.memoryWf = true) :
    (s.observe b wi core obj).memoryWf = true := hm

/-! ### What the memory instructions share (R158 to R169) -/

theorem State.checkAddr_memoryWf {s : State} (a : Actx) (sp : Space) (ls : List Nat) (addr : Nat → Int) (size : Nat)
    (hm : s.memoryWf = true) {t : State} (e : s.checkAddr a sp ls addr size = some t) : t.memoryWf = true := by
  grind [State.checkAddr, State.raiseAt_memoryWf]

theorem State.translateLanes_memoryWf {s : State} (a : Actx) (acc : Access) (ls : List (Nat × List (Nat × Nat)))
    (hm : s.memoryWf = true) : (s.translateLanes a acc ls).2.memoryWf = true := by
  induction ls generalizing s a acc with
  | nil => grind [State.translateLanes]
  | cons x xs ih => grind [State.translateLanes, State.translateList_memoryWf, State.noteHits_memoryWf,
    State.misuse_memoryWf, State.changeObject_memoryWf]

theorem State.stampSector_memoryWf {s : State} (core pa : Nat) (hm : s.memoryWf = true) :
    (s.stampSector core pa).memoryWf = true := hm

theorem State.stampAll_memoryWf {s : State} (core : Nat) (ls : List Nat) (hm : s.memoryWf = true) :
    (s.stampAll core ls).memoryWf = true := by
  induction ls generalizing s core with
  | nil => grind [State.stampAll]
  | cons x xs ih => grind [State.stampAll, State.stampSector_memoryWf]

theorem State.fillConst_memoryWf {s : State} {core ctx va : Nat} {t : State} (hm : s.memoryWf = true)
    (e : s.fillConst core ctx va = .ok t) : t.memoryWf = true := by
  grind [State.fillConst, State.translate_memoryWf, State.loadBytes_memoryWf, State.setCore_memoryWf]

theorem State.readConst_memoryWf {s : State} (core ctx va n : Nat) (hm : s.memoryWf = true) :
    (s.readConst core ctx va n).2.memoryWf = true := by
  induction n generalizing s va with
  | zero => exact hm
  | succ n ih =>
    unfold State.readConst
    grind [State.fillConst_memoryWf]

theorem State.arriveObj_memoryWf {s : State} (bid obj n : Nat) (err : Bool) (hm : s.memoryWf = true) :
    (s.arriveObj bid obj n err).memoryWf = true := State.spadWrite_memoryWf _ _ _ hm

theorem State.checkObj_memoryWf {s : State} (a : Actx) (obj : Nat) (hm : s.memoryWf = true) {t : State}
    (e : s.checkObj a obj = some t) : t.memoryWf = true := by
  grind [State.checkObj, State.raiseAt_memoryWf]

theorem State.applyWrite_memoryWf {s : State} (core b wi : Nat) (w : RegWrite) (hm : s.memoryWf = true) :
    (s.applyWrite core b wi w).memoryWf = true := by
  unfold State.applyWrite
  grind [State.updWarp_memoryWf, State.warp?_memoryWf, State.dropRefs_memoryWf, State.setWarp_memoryWf]

theorem State.applyReg_memoryWf {s : State} (core b wi r : Nat) (lv : List (Nat × Word)) (hm : s.memoryWf = true) :
    (s.applyReg core b wi r lv).memoryWf = true := by
  grind [State.applyReg, State.warp?_memoryWf, State.dropRefs_memoryWf, State.setWarp_memoryWf]

theorem State.applyWrites_memoryWf {s : State} (core b wi : Nat) (ws : List RegWrite) (hm : s.memoryWf = true) :
    (s.applyWrites core b wi ws).memoryWf = true := by
  grind [State.applyWrites, State.applyReg_memoryWf, State.applyWrite_memoryWf, foldl_memoryWf]

/-! ### Accesses to scratchpad in their order (R199) -/

theorem State.noteSpad_memoryWf {s : State} (t : MemTag) (bid : Nat) (reads writes : List Nat)
    (hm : s.memoryWf = true) : (s.noteSpad t bid reads writes).memoryWf = true := hm

theorem State.noteObj_memoryWf {s : State} (a : Actx) (obj : Nat) (reads writes : Bool) (hm : s.memoryWf = true) :
    (s.noteObj a obj reads writes).memoryWf = true := hm

theorem State.noteAcc_memoryWf {s : State} (t : MemTag) (bid : Nat) (reads writes : List Nat) (hm : s.memoryWf = true) :
    (s.noteAcc t bid reads writes).memoryWf = true := hm

theorem State.putAcc_memoryWf {s : State} (t : MemTag) (bid : Nat) (reads : Bool) (ws : List (Nat × Word))
    (hm : s.memoryWf = true) : (s.putAcc t bid reads ws).memoryWf = true := by
  grind [State.putAcc, State.writeAcc_memoryWf, State.noteAcc_memoryWf]

theorem State.spadParts_memoryWf {s : State} (t : MemTag) (bid : Nat) (parts : List (Nat × List Byte))
    (hm : s.memoryWf = true) : (s.spadParts t bid parts).memoryWf = true := by
  grind [State.spadParts, State.spadWrite_memoryWf, State.noteSpad_memoryWf, foldl_memoryWf]

theorem State.spadAtoms_memoryWf {s : State} (t : MemTag) (bid : Nat) (op : AtomOp) (u : Bool) (size : Nat)
    (dst : Option Nat) (ls : List AtomLane) (hm : s.memoryWf = true) :
    (s.spadAtoms t bid op u size dst ls).1.memoryWf = true := by
  induction ls generalizing s t bid op u size dst with
  | nil => grind [State.spadAtoms]
  | cons x xs ih => grind [State.spadAtoms, State.noteSpad_memoryWf, State.spadWrite_memoryWf]

theorem State.performSpad_memoryWf {s : State} (op : Op) (hm : s.memoryWf = true) :
    (s.performSpad op).memoryWf = true := by
  grind [State.performSpad, State.setOp_memoryWf, State.noteSpad_memoryWf, State.spadParts_memoryWf,
    State.spadAtoms_memoryWf, State.putAcc_memoryWf]

theorem State.drainSpad_memoryWf {s : State} (b wi upto n4 : Nat) (hm : s.memoryWf = true) :
    (s.drainSpad b wi upto n4).memoryWf = true := by
  induction n4 generalizing s b wi upto with
  | zero => grind [State.drainSpad]
  | succ n ih => grind [State.drainSpad, State.performSpad_memoryWf]

theorem State.behindSpad_memoryWf {s : State} (a : Actx) {act : State → State} (hm : s.memoryWf = true)
    (hact : ∀ u : State, u.memoryWf = true → (act u).memoryWf = true) : (s.behindSpad a act).memoryWf = true := by
  grind [State.behindSpad, State.drainSpad_memoryWf]

theorem State.spadReady_memoryWf {s : State} (hm : s.memoryWf = true) : (s.spadReady).memoryWf = true := by
  grind [State.spadReady, State.drainSpad_memoryWf]

theorem State.afterSpad_memoryWf {s : State} {gn : Bool} {g : BitVec 3}
    {act : State → Host.Outcome State Fault Refusal} (hm : s.memoryWf = true) {t : State}
    (hact : ∀ u : State, u.memoryWf = true → act u = .next t → t.memoryWf = true) (e : s.afterSpad gn g act = .next t) :
    t.memoryWf = true := by
  have hready := State.spadReady_memoryWf hm
  grind [State.afterSpad]

/-! ### What software touches too early (R6, R35) -/

theorem State.noteSources_memoryWf {u : State} (s t : State) (o : Op) (hm : u.memoryWf = true) :
    (s.noteSources t u o).memoryWf = true := by
  unfold State.noteSources
  split
  · dsimp only
    split
    · exact hm
    · exact State.memoryWf_with (State.setOp_memoryWf _ _ (State.applyWrites_memoryWf _ _ _ _ hm)) ..
  · exact hm

theorem State.earlyWrites_memoryWf {t : State} (s : State) (hm : t.memoryWf = true) :
    (s.earlyWrites t).memoryWf = true :=
  foldl_memoryWf _ (fun _ o h => State.noteSources_memoryWf s t o h) _ hm

theorem State.noteRegs_memoryWf {s : State} (a : Actx) (i : Instr) (hm : s.memoryWf = true) :
    (s.noteRegs a i).memoryWf = true := hm

theorem State.touchSpad_memoryWf {s : State} (b : Nat) (is : List Nat) (hm : s.memoryWf = true) :
    (s.touchSpad b is).memoryWf = true := by
  grind [State.touchSpad, State.spadWrite_memoryWf, foldl_memoryWf, State.memoryWf_with]

theorem State.changeList_memoryWf {s : State} (b : Nat) (is : List Nat) (hm : s.memoryWf = true) :
    (s.changeList b is).memoryWf = true := hm

theorem State.noteXfer_memoryWf {s : State} (x : Xfer) (hm : s.memoryWf = true) : (s.noteXfer x).memoryWf = true := by
  grind [State.noteXfer, State.changeList_memoryWf, State.touchSpad_memoryWf, State.memoryWf_with]

theorem State.noteSpadUse_memoryWf {s : State} (a : Actx) (hm : s.memoryWf = true) :
    (s.noteSpadUse a).memoryWf = true := by
  grind [State.noteSpadUse, State.changeList_memoryWf, State.touchSpad_memoryWf, State.noteXfer_memoryWf,
    State.memoryWf_with]

theorem State.noteEarly_memoryWf {s : State} (a : Actx) (i : Instr) (hm : s.memoryWf = true) :
    (s.noteEarly a i).memoryWf = true := by
  grind [State.noteEarly, State.noteRegs_memoryWf, State.noteSpadUse_memoryWf]

/-! ### The word that is due (R31) -/

theorem State.fetchWord_memoryWf {s : State} (a : Actx) (hm : s.memoryWf = true) :
    (s.fetchWord a).2.memoryWf = true := by
  grind [State.fetchWord, State.translate_memoryWf, State.loadBytes_memoryWf]

theorem State.switchLatches_memoryWf {s : State} (a : Actx) (hm : s.memoryWf = true) :
    (s.switchLatches a).memoryWf = true := by
  grind [State.switchLatches, State.mem_blocks_memoryWf, State.memoryWf_withBlocks, Block.memoryWf_with]

theorem State.noteIssue_memoryWf {s : State} (a : Actx) (i : Instr) (hm : s.memoryWf = true) :
    (s.noteIssue a i).memoryWf = true := by
  grind [State.noteIssue, State.updWarp_memoryWf, State.switchLatches_memoryWf, State.noteEarly_memoryWf]

theorem State.stall_memoryWf {s : State} (a : Actx) (hm : s.memoryWf = true) :
    (s.stall a).memoryWf = true := State.updWarp_memoryWf _ _ _ hm

theorem State.issued_memoryWf {t : State} (s : State) (i : Instr) (hm : t.memoryWf = true) :
    (s.issued i t).memoryWf = true := by
  grind [State.issued, State.stall_memoryWf, State.noteIssue_memoryWf]

theorem State.fillFaultOf_memoryWf {s : State} (t : State) (b wi : Nat) (hm : s.memoryWf = true) {u : State}
    (e : s.fillFaultOf t b wi = some u) : u.memoryWf = true := by
  grind [State.fillFaultOf, State.spillFault_memoryWf, State.dataFault_memoryWf, State.withdraw_memoryWf]

theorem State.fillFault_memoryWf {s t u : State} (hm : s.memoryWf = true) (e : s.fillFault t = some u) :
    u.memoryWf = true := by
  obtain ⟨b, _, hb⟩ := List.exists_of_findSome?_eq_some e
  obtain ⟨wi, _, hw⟩ := List.exists_of_findSome?_eq_some hb
  exact State.fillFaultOf_memoryWf _ _ _ hm hw

theorem State.beside_memoryWf {t : State} (s : State) (hm : t.memoryWf = true) : (s.beside t).memoryWf = true :=
  State.earlyWrites_memoryWf s (State.spillBeside_memoryWf hm)

theorem State.stepped_memoryWf {s t : State} (i : Instr) (hs : s.memoryWf = true) (hm : t.memoryWf = true) :
    (s.stepped i t).memoryWf = true := by
  unfold State.stepped
  cases e : s.fillFault t with
  | none => exact State.beside_memoryWf s (State.issued_memoryWf s i hm)
  | some u => exact State.fillFault_memoryWf hs e

theorem State.dueWord_memoryWf {s : State} (a : Actx) (hm : s.memoryWf = true) : (s.dueWord a).1.memoryWf = true := by
  grind [State.dueWord, State.raiseTrap_memoryWf, State.fetchWord_memoryWf, State.fetchFault_memoryWf,
    State.updWarp_memoryWf, State.stall_memoryWf]

theorem State.due_memoryWf {s : State} (b wi slot : Nat) (hm : s.memoryWf = true) :
    (s.due b wi slot).1.memoryWf = true := by
  grind [State.due, State.dueWord_memoryWf, State.memoryWf_with]

/-! ### Branches, joins, and sleeps (R63 to R82) -/

theorem State.moveWarp_memoryWf {s : State} (a : Actx) (extra : Nat) (f : Warp → Warp) (hm : s.memoryWf = true) :
    (s.moveWarp a extra f).memoryWf = true := by
  grind [State.moveWarp, State.raise_memoryWf, State.spillFault_memoryWf, State.dataFault_memoryWf,
    State.updWarp_memoryWf, State.withdraw_memoryWf]

theorem execClauseStart_memoryWf {s : State} (h : Header) (hm : s.memoryWf = true) {t : State}
    (e : execClauseStart h s = .next t) : t.memoryWf = true := by
  grind [execClauseStart, State.updWarp_memoryWf]

theorem execNop_memoryWf {s : State} (x0 : Opnds) (hm : s.memoryWf = true) {t : State} (e : execNop x0 s = .next t) :
    t.memoryWf = true := by
  grind [execNop, State.retire_memoryWf]

theorem State.branchGuard_memoryWf {s : State} {gn : Bool} {g : BitVec 3} {act : Actx → Mask → State}
    (hm : s.memoryWf = true) (hact : ∀ a m, a.blk.memoryWf → (act a m).memoryWf = true) {t : State}
    (e : s.branchGuard gn g act = .next t) : t.memoryWf = true := by
  grind [State.branchGuard, State.actx_memoryWf, State.raise_memoryWf, State.pushReq_memoryWf, State.updWarp_memoryWf,
    foldl_memoryWf]

theorem execBra_memoryWf {s : State} (t : BranchOpnds) (hm : s.memoryWf = true) {u : State}
    (e : execBra t s = .next u) : u.memoryWf = true := by
  refine State.branchGuard_memoryWf hm (fun a m ha => ?_) e
  grind [State.moveWarp_memoryWf]

theorem State.readEntries_memoryWf {s : State} (a : Actx) (base : Nat) (l : List Nat) (hm : s.memoryWf = true) :
    (s.readEntries a base l).2.memoryWf = true := by
  induction l generalizing s with
  | nil => exact hm
  | cons x xs ih =>
    unfold State.readEntries
    grind [State.readConst_memoryWf]

theorem State.brxMove_memoryWf {s : State} (a : Actx) (m : Mask) (ents : List (Int × Int × Bool))
    (hm : s.memoryWf = true) : (s.brxMove a m ents).memoryWf = true := by
  grind [State.brxMove, State.moveWarp_memoryWf]

theorem execBrx_memoryWf {s : State} (o : Opnds) (hm : s.memoryWf = true) {t : State} (e : execBrx o s = .next t) :
    t.memoryWf = true := by
  refine State.branchGuard_memoryWf hm (fun a m ha => ?_) e
  grind [State.moveWarp_memoryWf, State.raise_memoryWf, State.readConst_memoryWf, State.dataFault_memoryWf,
    State.readEntries_memoryWf, State.brxMove_memoryWf]

theorem execCall_memoryWf {s : State} (t : BranchOpnds) (hm : s.memoryWf = true) {u : State}
    (e : execCall t s = .next u) : u.memoryWf = true := by
  refine State.guarded_memoryWf hm (fun a m ha => ?_) e
  grind [State.moveWarp_memoryWf]

theorem execRet_memoryWf {s : State} (o : Opnds) (hm : s.memoryWf = true) {t : State} (e : execRet o s = .next t) :
    t.memoryWf = true := by
  refine State.run_memoryWf hm (fun a m ha => ?_) e
  grind [State.raise_memoryWf, State.moveWarp_memoryWf]

theorem State.endIfExited_memoryWf {s : State} (b wi : Nat) (hm : s.memoryWf = true) :
    (s.endIfExited b wi).memoryWf = true := by
  grind [State.endIfExited, State.reap_memoryWf, State.endWarp_memoryWf]

theorem State.dropHandler_memoryWf {s : State} (a : Actx) (hm : s.memoryWf = true) :
    (s.dropHandler a).memoryWf = true := State.dropRefs_memoryWf _ _ _ _ _ hm

theorem execExit_memoryWf {s : State} (o : Opnds) (hm : s.memoryWf = true) {t : State} (e : execExit o s = .next t) :
    t.memoryWf = true := by
  refine State.run_memoryWf hm (fun a m ha => ?_) e
  grind [State.spillFault_memoryWf, State.dataFault_memoryWf, State.endIfExited_memoryWf, State.updWarp_memoryWf,
    State.dropHandler_memoryWf]

theorem execJoin_memoryWf {s : State} (o : Opnds) (hm : s.memoryWf = true) {t : State} (e : execJoin o s = .next t) :
    t.memoryWf = true := by
  refine State.run_memoryWf hm (fun a m ha => ?_) e
  grind [State.retire_memoryWf, State.moveWarp_memoryWf]

theorem State.yieldTo_memoryWf {s : State} (a : Actx) (hm : s.memoryWf = true) : (s.yieldTo a).memoryWf = true := by
  grind [State.yieldTo, State.mem_blocks_memoryWf, State.memoryWf_withBlocks, Block.memoryWf_with]

theorem execYield_memoryWf {s : State} (x0 : Opnds) (hm : s.memoryWf = true) {t : State}
    (e : execYield x0 s = .next t) : t.memoryWf = true := by
  grind [execYield, State.retire_memoryWf, State.updWarp_memoryWf, State.yieldTo_memoryWf]

theorem State.sleepFor_memoryWf {s : State} (a : Actx) (n : Nat) (hm : s.memoryWf = true) :
    (s.sleepFor a n).memoryWf = true := by
  grind [State.sleepFor, State.retire_memoryWf, State.updWarp_memoryWf]

theorem execSleep_memoryWf {s : State} (o : Opnds) (hm : s.memoryWf = true) {t : State} (e : execSleep o s = .next t) :
    t.memoryWf = true := by
  refine State.run_memoryWf hm (fun a m ha => ?_) e
  grind [State.sleepFor_memoryWf]

theorem execSleepFor_memoryWf {s : State} (o : Opnds) (hm : s.memoryWf = true) {t : State}
    (e : execSleepFor o s = .next t) : t.memoryWf = true := by
  refine State.run_memoryWf hm (fun a m ha => ?_) e
  grind [State.sleepFor_memoryWf]

theorem State.promise_memoryWf {s : State} (a : Actx) (until_ obj : Nat) (ph late : Bool) (hm : s.memoryWf = true) :
    (s.promise a until_ obj ph late).memoryWf = true := by
  grind [State.promise, State.updWarp_memoryWf, State.retire_memoryWf, State.observe_memoryWf, State.raise_memoryWf]

theorem execSleepProm_memoryWf {s : State} (o : Opnds) (hm : s.memoryWf = true) {t : State}
    (e : execSleepProm o s = .next t) : t.memoryWf = true := by
  refine State.run_memoryWf hm (fun a m ha => ?_) e
  grind [State.checkObj_memoryWf, State.promise_memoryWf, State.updWarp_memoryWf]

theorem execSleepWake_memoryWf {s : State} (hm : s.memoryWf = true) {t : State} (e : execSleepWake s = .next t) :
    t.memoryWf = true := by
  grind [execSleepWake, State.retire_memoryWf, State.promise_memoryWf]

theorem execTrap_memoryWf {s : State} (o : Opnds) (hm : s.memoryWf = true) {t : State} (e : execTrap o s = .next t) :
    t.memoryWf = true := by
  refine State.run_memoryWf hm (fun a m ha => ?_) e
  grind [State.raise_memoryWf]

theorem execBkpt_memoryWf {s : State} (o : Opnds) (hm : s.memoryWf = true) {t : State} (e : execBkpt o s = .next t) :
    t.memoryWf = true := by
  refine State.run_memoryWf hm (fun a m ha => ?_) e
  grind [State.raise_memoryWf]

end Sys2Proof.Machine
end

section
/-!
PROOF. Every operation of the machine keeps the memories in canonical form (O6), continued.
-/
namespace Sys2Proof.Machine
open Sys2Proof

/-! ### Loads and stores (R168 to R172) -/

theorem State.useLane_memoryWf {s : State} (o : Opnds) (priv : Bool) (hm : s.memoryWf = true) :
    (s.useLane o priv).memoryWf = true := by
  grind [State.useLane, State.memoryWf_with]

theorem State.load_memoryWf {s : State} (o : Opnds) (imm priv : Bool) (hm : s.memoryWf = true) {t : State}
    (e : s.load o imm priv = .next t) : t.memoryWf = true := by
  refine State.counted_memoryWf hm (fun a m ha => ?_) e
  grind [State.raise_memoryWf, State.checkAddr_memoryWf, State.translateLanes_memoryWf, State.dataFault_memoryWf,
    State.retire_memoryWf, State.startOp_memoryWf, State.useLane_memoryWf]

theorem State.startStore_memoryWf {s : State} (a : Actx) (o : Opnds) (parts : List (Nat × List (Nat × Byte)))
    (hm : s.memoryWf = true) : (s.startStore a o parts).memoryWf = true := by
  grind [State.startStore, State.updWarp_memoryWf, State.pushOp_memoryWf]

theorem State.store_memoryWf {s : State} (o : Opnds) (imm priv : Bool) (hm : s.memoryWf = true) {t : State}
    (e : s.store o imm priv = .next t) : t.memoryWf = true := by
  refine State.counted_memoryWf hm (fun a m ha => ?_) e
  grind [State.raise_memoryWf, State.checkAddr_memoryWf, State.translateLanes_memoryWf, State.dataFault_memoryWf,
    State.retire_memoryWf, State.startStore_memoryWf]

theorem execLdReg_memoryWf {s : State} (o : Opnds) (hm : s.memoryWf = true) {t : State} (e : execLdReg o s = .next t) :
    t.memoryWf = true := State.load_memoryWf _ _ _ hm e

theorem execLdImm_memoryWf {s : State} (o : Opnds) (hm : s.memoryWf = true) {t : State} (e : execLdImm o s = .next t) :
    t.memoryWf = true := State.load_memoryWf _ _ _ hm e

theorem execLdPrivReg_memoryWf {s : State} (o : Opnds) (hm : s.memoryWf = true) {t : State}
    (e : execLdPrivReg o s = .next t) : t.memoryWf = true := State.load_memoryWf _ _ _ hm e

theorem execLdPrivImm_memoryWf {s : State} (o : Opnds) (hm : s.memoryWf = true) {t : State}
    (e : execLdPrivImm o s = .next t) : t.memoryWf = true := State.load_memoryWf _ _ _ hm e

theorem execStReg_memoryWf {s : State} (o : Opnds) (hm : s.memoryWf = true) {t : State} (e : execStReg o s = .next t) :
    t.memoryWf = true := State.store_memoryWf _ _ _ hm e

theorem execStImm_memoryWf {s : State} (o : Opnds) (hm : s.memoryWf = true) {t : State} (e : execStImm o s = .next t) :
    t.memoryWf = true := State.store_memoryWf _ _ _ hm e

theorem execStPrivReg_memoryWf {s : State} (o : Opnds) (hm : s.memoryWf = true) {t : State}
    (e : execStPrivReg o s = .next t) : t.memoryWf = true := State.store_memoryWf _ _ _ hm e

theorem execStPrivImm_memoryWf {s : State} (o : Opnds) (hm : s.memoryWf = true) {t : State}
    (e : execStPrivImm o s = .next t) : t.memoryWf = true := State.store_memoryWf _ _ _ hm e

theorem State.loadSpad_memoryWf {s : State} (o : Opnds) (imm : Bool) (hm : s.memoryWf = true) {t : State}
    (e : s.loadSpad o imm = .next t) : t.memoryWf = true := by
  refine State.counted_memoryWf hm (fun a m ha => ?_) e
  grind [State.raise_memoryWf, State.checkAddr_memoryWf, State.retire_memoryWf, State.startOp_memoryWf]

theorem State.storeSpad_memoryWf {s : State} (o : Opnds) (imm : Bool) (hm : s.memoryWf = true) {t : State}
    (e : s.storeSpad o imm = .next t) : t.memoryWf = true := by
  refine State.counted_memoryWf hm (fun a m ha => ?_) e
  grind [State.raise_memoryWf, State.checkAddr_memoryWf, State.retire_memoryWf, State.startOp_memoryWf]

theorem State.constLanes_memoryWf {s : State} (a : Actx) (base : Nat) (x : Nat → Int) (size : Nat) (ls : List Nat)
    (hm : s.memoryWf = true) : (s.constLanes a base x size ls).2.memoryWf = true := by
  induction ls generalizing s a base x size with
  | nil => grind [State.constLanes]
  | cons x xs ih => grind [State.constLanes, State.readConst_memoryWf]

theorem State.loadConst_memoryWf {s : State} (o : Opnds) (imm : Bool) (hm : s.memoryWf = true) {t : State}
    (e : s.loadConst o imm = .next t) : t.memoryWf = true := by
  refine State.counted_memoryWf hm (fun a m ha => ?_) e
  grind [State.raise_memoryWf, State.checkAddr_memoryWf, State.constLanes_memoryWf, State.dataFault_memoryWf,
    State.retire_memoryWf, State.startOp_memoryWf]

theorem execLdsReg_memoryWf {s : State} (o : Opnds) (hm : s.memoryWf = true) {t : State}
    (e : execLdsReg o s = .next t) : t.memoryWf = true := State.loadSpad_memoryWf _ _ hm e

theorem execLdsImm_memoryWf {s : State} (o : Opnds) (hm : s.memoryWf = true) {t : State}
    (e : execLdsImm o s = .next t) : t.memoryWf = true := State.loadSpad_memoryWf _ _ hm e

theorem execStsReg_memoryWf {s : State} (o : Opnds) (hm : s.memoryWf = true) {t : State}
    (e : execStsReg o s = .next t) : t.memoryWf = true := State.storeSpad_memoryWf _ _ hm e

theorem execStsImm_memoryWf {s : State} (o : Opnds) (hm : s.memoryWf = true) {t : State}
    (e : execStsImm o s = .next t) : t.memoryWf = true := State.storeSpad_memoryWf _ _ hm e

theorem execLdcReg_memoryWf {s : State} (o : Opnds) (hm : s.memoryWf = true) {t : State}
    (e : execLdcReg o s = .next t) : t.memoryWf = true := State.loadConst_memoryWf _ _ hm e

theorem execLdcImm_memoryWf {s : State} (o : Opnds) (hm : s.memoryWf = true) {t : State}
    (e : execLdcImm o s = .next t) : t.memoryWf = true := State.loadConst_memoryWf _ _ hm e

theorem State.touchPages_memoryWf {s : State} (core ctx : Nat) (ls : List Int) (hm : s.memoryWf = true) :
    (s.touchPages core ctx ls).memoryWf = true := by
  induction ls generalizing s core ctx with
  | nil => grind [State.touchPages]
  | cons x xs ih => grind [State.touchPages, State.translate_memoryWf]

theorem State.prefetch_memoryWf {s : State} (o : Opnds) (imm : Bool) (hm : s.memoryWf = true) {t : State}
    (e : s.prefetch o imm = .next t) : t.memoryWf = true := by
  refine State.run_memoryWf hm (fun a m ha => ?_) e
  grind [State.raise_memoryWf, State.retire_memoryWf, State.touchPages_memoryWf]

theorem execPrefReg_memoryWf {s : State} (o : Opnds) (hm : s.memoryWf = true) {t : State}
    (e : execPrefReg o s = .next t) : t.memoryWf = true := State.prefetch_memoryWf _ _ hm e

theorem execPrefImm_memoryWf {s : State} (o : Opnds) (hm : s.memoryWf = true) {t : State}
    (e : execPrefImm o s = .next t) : t.memoryWf = true := State.prefetch_memoryWf _ _ hm e

theorem State.performLane_memoryWf {s : State} (op : Op) (t : Nat) (x : LaneLoad) (hm : s.memoryWf = true) :
    (s.performLane op t x).1.memoryWf = true := by
  grind [State.performLane, State.readAt_memoryWf, State.updWarp_memoryWf]

theorem State.performLanes_memoryWf {s : State} (op : Op) (t : Nat) (ls : List LaneLoad) (hm : s.memoryWf = true) :
    (s.performLanes op t ls).1.memoryWf = true := by
  induction ls generalizing s op t with
  | nil => grind [State.performLanes]
  | cons x xs ih => grind [State.performLanes, State.performLane_memoryWf]

theorem State.spadTurn_memoryWf {s : State} (op : Op) (hm : s.memoryWf = true) :
    (s.spadTurn op).1.memoryWf = true := State.drainSpad_memoryWf _ _ _ _ hm

theorem execLoadComplete_memoryWf {s : State} (hm : s.memoryWf = true) {t : State} (e : execLoadComplete s = .next t) :
    t.memoryWf = true := by
  unfold execLoadComplete at e
  repeat' split at e
  all_goals grind [State.performLanes_memoryWf, State.setOp_memoryWf, State.applyWrites_memoryWf,
    State.finishOp_memoryWf, State.spadTurn_memoryWf]

theorem State.landPart_memoryWf {s : State} (id m : Nat) (hm : s.memoryWf = true) :
    (s.landPart id m).memoryWf = true := by
  unfold State.landPart
  repeat' split
  all_goals grind [State.setOp_memoryWf, State.applyWrites_memoryWf, State.spadTurn_memoryWf]

theorem State.applyPart_memoryWf {s : State} (op : Op) (p : Nat × List (Nat × Byte)) (hm : s.memoryWf = true) :
    (s.applyPart op p).memoryWf = true := by
  grind [State.applyPart, State.stampAll_memoryWf, State.storeBytes_memoryWf]

theorem execStoreAccept_memoryWf {s : State} (hm : s.memoryWf = true) {t : State} (e : execStoreAccept s = .next t) :
    t.memoryWf = true := by
  grind [execStoreAccept, State.finishOp_memoryWf, State.applyPart_memoryWf, foldl_memoryWf]

theorem State.drainPart_memoryWf {s : State} (id i : Nat) (hm : s.memoryWf = true) :
    (s.drainPart id i).memoryWf = true := by
  grind [State.drainPart, State.setOp_memoryWf, State.applyPart_memoryWf]

/-! ### Engines, windows, and cache control (R174 to R186) -/

theorem State.withObj_memoryWf {s : State} {o : Opnds} {act : Actx → Mask → Nat → State} (hm : s.memoryWf = true)
    (hact : ∀ a m obj, (act a m obj).memoryWf = true) {t : State} (e : s.withObj o act = .next t) :
    t.memoryWf = true := by
  refine State.run_memoryWf hm (fun a m _ => ?_) e
  grind [State.checkObj_memoryWf]

theorem State.freeBytes_memoryWf {s : State} (n : Nat) (hm : s.memoryWf = true) :
    (s.freeBytes n).2.memoryWf = true := hm

theorem State.noteArrival_memoryWf {s : State} (t : MemTag) (b obj : Nat) (hm : s.memoryWf = true) :
    (s.noteArrival t b obj).memoryWf = true := hm

theorem State.arriveEmpty_memoryWf {s : State} (a : Actx) (agent : Nat → Agent) (obj : Nat) (hm : s.memoryWf = true) :
    (s.arriveEmpty a agent obj).memoryWf = true := by
  grind [State.arriveEmpty, State.fresh_memoryWf, State.arriveObj_memoryWf, State.noteArrival_memoryWf]

theorem execArrinit_memoryWf {s0 : State} (o : Opnds) (hm : s0.memoryWf = true) {t : State}
    (e : execArrinit o s0 = .next t) : t.memoryWf = true := by
  refine State.afterSpad_memoryWf hm (fun s hs e => State.withObj_memoryWf hs (fun a m obj => ?_) e) e
  grind [State.freeBytes_memoryWf, State.retire_memoryWf, State.spadWrite_memoryWf, State.noteObj_memoryWf]

theorem execArrive_memoryWf {s0 : State} (o : Opnds) (hm : s0.memoryWf = true) {t : State}
    (e : execArrive o s0 = .next t) : t.memoryWf = true := by
  refine State.afterSpad_memoryWf hm (fun s hs e => State.withObj_memoryWf hs (fun a m obj => ?_) e) e
  grind [State.retire_memoryWf, State.arriveObj_memoryWf, State.noteObj_memoryWf]

theorem execArrwait_memoryWf {s0 : State} (o : Opnds) (hm : s0.memoryWf = true) {t : State}
    (e : execArrwait o s0 = .next t) : t.memoryWf = true := by
  refine State.afterSpad_memoryWf hm (fun s hs e => State.withObj_memoryWf hs (fun a m obj => ?_) e) e
  grind [State.raise_memoryWf, State.observe_memoryWf, State.retire_memoryWf]

theorem execArrwaitTest_memoryWf {s0 : State} (o : Opnds) (hm : s0.memoryWf = true) {t : State}
    (e : execArrwaitTest o s0 = .next t) : t.memoryWf = true := by
  refine State.afterSpad_memoryWf hm (fun s hs e => State.withObj_memoryWf hs (fun a m obj => ?_) e) e
  grind [State.retire_memoryWf, State.wrP_memoryWf, State.observe_memoryWf, State.noteObj_memoryWf]

theorem State.setXfer_memoryWf {s : State} (x : Xfer) (hm : s.memoryWf = true) : (s.setXfer x).memoryWf = true := hm

theorem State.startXfer_memoryWf {s : State} (a : Actx) (e : Engine) (window : Option Nat) (base stride list : Nat)
    (units : List XUnit) (arr : Nat) (clash : Bool) (hm : s.memoryWf = true) :
    (s.startXfer a e window base stride list units arr clash).memoryWf = true := hm

theorem State.engineAddr_memoryWf {s : State} (x : Xfer) (acc : Access) (shadow : Bool)
    (last : Option (Nat × Except Nat Nat)) (va : Nat) (hm : s.memoryWf = true) :
    (s.engineAddr x acc shadow last va).2.memoryWf = true := by
  unfold State.engineAddr
  grind [State.translate_memoryWf]

theorem State.engineRun_memoryWf {s : State} (x : Xfer) (acc : Access) (shadow : Bool)
    (x4 : Option (Nat × Except Nat Nat)) (ls : List Nat) (hm : s.memoryWf = true) :
    (s.engineRun x acc shadow x4 ls).2.memoryWf = true := by
  induction ls generalizing s x acc shadow x4 with
  | nil => grind [State.engineRun]
  | cons x xs ih => grind [State.engineRun, State.engineAddr_memoryWf]

theorem State.engineAddrs_memoryWf {s : State} (x : Xfer) (acc : Access) (shadow : Bool) (vas : List Nat)
    (hm : s.memoryWf = true) :
    (s.engineAddrs x acc shadow vas).2.memoryWf = true := State.engineRun_memoryWf _ _ _ _ _ hm

theorem State.engineRead_memoryWf {s : State} (x : Xfer) (t : Nat) (ras : List (Option Nat)) (hm : s.memoryWf = true) :
    (s.engineRead x t ras).2.memoryWf = true := State.readSpan_memoryWf _ _ _ _ hm

theorem State.holdXfer_memoryWf {s : State} (x : Xfer) (va : Nat) (write : Bool) (hm : s.memoryWf = true) :
    (s.holdXfer x va write).memoryWf = true := by
  grind [State.holdXfer, State.draw_memoryWf, State.pageWait_memoryWf, State.setXfer_memoryWf]

theorem State.noteEngErr_memoryWf {s : State} (core : Nat) (va : Option Nat) (hm : s.memoryWf = true) :
    (s.noteEngErr core va).memoryWf = true := by
  unfold State.noteEngErr
  grind [State.setCore_memoryWf]

theorem State.unitBytes_memoryWf {s : State} (x : Xfer) (t : Nat) (u : XUnit) (src : Nat) (ras : List (Option Nat))
    (hm : s.memoryWf = true) : (s.unitBytes x t u src ras).2.memoryWf = true := by
  grind [State.unitBytes, State.freeBytes_memoryWf, State.engineRead_memoryWf]

theorem State.landUnit_memoryWf {s : State} (x : Xfer) (i t : Nat) (u : XUnit) (src : Nat)
    (ras was : List (Option Nat)) (hm : s.memoryWf = true) : (s.landUnit x i t u src ras was).memoryWf = true := by
  grind [State.landUnit, State.noteHits_memoryWf, State.changeObject_memoryWf, State.misuse_memoryWf,
    State.unitBytes_memoryWf, State.spadWrite_memoryWf, State.noteSpad_memoryWf, State.stampAll_memoryWf,
    State.storeBytes_memoryWf, State.setXfer_memoryWf, State.noteEngErr_memoryWf, State.memoryWf_with]

theorem State.moveUnit_memoryWf {s : State} (id i age : Nat) (hm : s.memoryWf = true) :
    (s.moveUnit id i age).memoryWf = true := by
  unfold State.moveUnit
  repeat' split
  all_goals grind [State.engineAddrs_memoryWf, State.holdXfer_memoryWf, State.landUnit_memoryWf]

theorem State.moveUnits_memoryWf {s : State} (id n2 : Nat) (hm : s.memoryWf = true) :
    (s.moveUnits id n2).memoryWf = true := by
  induction n2 generalizing s id with
  | zero => grind [State.moveUnits]
  | succ n ih => grind [State.moveUnits, State.moveUnit_memoryWf]

theorem execEngineArrival_memoryWf {s : State} (hm : s.memoryWf = true) {t : State}
    (e : execEngineArrival s = .next t) : t.memoryWf = true := by
  grind [execEngineArrival, State.moveUnits_memoryWf, State.reap_memoryWf, State.arriveObj_memoryWf,
    State.noteArrival_memoryWf, State.memoryWf_with]

theorem State.checkSpad_memoryWf {s : State} (a : Actx) (at_ n : Nat) (hm : s.memoryWf = true) {t : State}
    (e : s.checkSpad a at_ n = some t) : t.memoryWf = true := by
  grind [State.checkSpad, State.raiseAt_memoryWf]

theorem execLda_memoryWf {s : State} (o : Opnds) (hm : s.memoryWf = true) {t : State} (e : execLda o s = .next t) :
    t.memoryWf = true := by
  refine State.run_memoryWf hm (fun a m ha => ?_) e
  grind [State.raise_memoryWf, State.raiseAt_memoryWf, State.checkObj_memoryWf, State.retire_memoryWf,
    State.startXfer_memoryWf]

theorem execGath_memoryWf {s0 : State} (o : Opnds) (hm : s0.memoryWf = true) {t : State} (e : execGath o s0 = .next t) :
    t.memoryWf = true := by
  refine State.afterSpad_memoryWf hm (fun s hs => State.run_memoryWf hs fun a m _ => ?_) e
  extract_lets sa mis
  have hmis (x : Nat) : (mis x).memoryWf = true := State.raiseAt_memoryWf _ _ _ _ hs
  clear_value mis
  clear e
  refine ite_memoryWf hs (ite_memoryWf (hmis _) ?_)
  split
  next s1 hcheck => exact State.checkSpad_memoryWf _ _ _ hs hcheck
  next =>
    refine ite_memoryWf (hmis _) (ite_memoryWf (hmis _) (ite_memoryWf (hmis _) (ite_memoryWf (hmis _) (ite_memoryWf (hmis _)
      (ite_memoryWf (State.raise_memoryWf _ _ _ hs) ?_)))))
    grind [State.checkSpad_memoryWf, State.checkObj_memoryWf, State.arriveEmpty_memoryWf, State.startXfer_memoryWf,
      State.retire_memoryWf]

theorem execCopy_memoryWf {s0 : State} (o : Opnds) (hm : s0.memoryWf = true) {t : State} (e : execCopy o s0 = .next t) :
    t.memoryWf = true := by
  grind [execCopy, State.afterSpad_memoryWf, State.run_memoryWf, State.raiseAt_memoryWf, State.checkSpad_memoryWf,
    State.checkObj_memoryWf, State.loseIdemp_memoryWf, State.wrSc_memoryWf, State.retire_memoryWf,
    State.arriveEmpty_memoryWf, State.startXfer_memoryWf, State.memoryWf_with]

theorem execPublish_memoryWf {s : State} (o : Opnds) (hm : s.memoryWf = true) {t : State}
    (e : execPublish o s = .next t) : t.memoryWf = true := by
  refine State.counted_memoryWf hm (fun a m ha => ?_) e
  grind [State.retire_memoryWf, State.startOp_memoryWf, State.loseIdemp_memoryWf, State.raise_memoryWf]

theorem State.lineRanges_memoryWf {s : State} (core ctx lo hi n5 : Nat) (hm : s.memoryWf = true) :
    (s.lineRanges core ctx lo hi n5).2.memoryWf = true := by
  induction n5 generalizing s core ctx lo hi with
  | zero => grind [State.lineRanges]
  | succ n ih => grind [State.lineRanges, State.translate_memoryWf]

theorem State.cacheControl_memoryWf {s : State} (o : Opnds) (inv : Bool) (hm : s.memoryWf = true) {t : State}
    (e : s.cacheControl o inv = .next t) : t.memoryWf = true := by
  refine State.counted_memoryWf hm (fun a m ha => ?_) e
  grind [State.raiseAt_memoryWf, State.lineRanges_memoryWf, State.retire_memoryWf, State.startOp_memoryWf]

theorem execCctlWb_memoryWf {s : State} (o : Opnds) (hm : s.memoryWf = true) {t : State}
    (e : execCctlWb o s = .next t) : t.memoryWf = true := State.cacheControl_memoryWf _ _ hm e

theorem execCctlWbinv_memoryWf {s : State} (o : Opnds) (hm : s.memoryWf = true) {t : State}
    (e : execCctlWbinv o s = .next t) : t.memoryWf = true := State.cacheControl_memoryWf _ _ hm e

theorem execCctlConst_memoryWf {s : State} (o : Opnds) (hm : s.memoryWf = true) {t : State}
    (e : execCctlConst o s = .next t) : t.memoryWf = true := by
  refine State.counted_memoryWf hm (fun a m ha => ?_) e
  grind [State.retire_memoryWf, State.startOp_memoryWf]

theorem execTlbhHarv_memoryWf {s : State} (o : Opnds) (hm : s.memoryWf = true) {t : State}
    (e : execTlbhHarv o s = .next t) : t.memoryWf = true := by
  refine State.counted_memoryWf hm (fun a m ha => ?_) e
  grind [State.retire_memoryWf, State.startOp_memoryWf]

theorem execTlbhInv_memoryWf {s : State} (o : Opnds) (hm : s.memoryWf = true) {t : State}
    (e : execTlbhInv o s = .next t) : t.memoryWf = true := by
  refine State.counted_memoryWf hm (fun a m ha => ?_) e
  grind [State.retire_memoryWf, State.startOp_memoryWf]

theorem execTlbHarvestPeriodic_memoryWf {s : State} (hm : s.memoryWf = true) {t : State}
    (e : execTlbHarvestPeriodic s = .next t) : t.memoryWf = true := by
  grind [execTlbHarvestPeriodic, State.harvest_memoryWf, State.memoryWf_with]

theorem State.moveSides_memoryWf {s : State} (ctx : Nat) (old new : Nat × Nat) (hm : s.memoryWf = true) :
    (s.moveSides ctx old new).memoryWf = true := hm

theorem State.publish_memoryWf {s : State} (op : Op) (w : Nat) (hm : s.memoryWf = true) :
    (s.publish op w).memoryWf = true := by
  grind [State.publish, State.setCtx_memoryWf, State.moveSides_memoryWf, State.finishOp_memoryWf,
    State.writePhys_memoryWf, State.note_memoryWf]

theorem State.complete_memoryWf {s : State} (op : Op) (hm : s.memoryWf = true) : (s.complete op).memoryWf = true := by
  grind [State.complete, State.finishOp_memoryWf, State.applyWrites_memoryWf, State.publish_memoryWf,
    State.writeBack_memoryWf, State.setCore_memoryWf, State.harvest_memoryWf, State.shootDown_memoryWf,
    State.clearedLost_memoryWf, State.setCtx_memoryWf, State.retire_memoryWf, State.spadTurn_memoryWf, foldl_memoryWf]

theorem execOperationComplete_memoryWf {s : State} (hm : s.memoryWf = true) {t : State}
    (e : execOperationComplete s = .next t) : t.memoryWf = true := by
  grind [execOperationComplete, State.complete_memoryWf]

/-! ### Records and queue descriptors (R84 to R96) -/

theorem State.setTail_memoryWf {s : State} (ctx q : Nat) (v : Word) (hm : s.memoryWf = true) :
    (s.setTail ctx q v).memoryWf = true := State.writeVirt_memoryWf _ _ _ _ hm

theorem State.setHead_memoryWf {s : State} (ctx q : Nat) (v : Word) (hm : s.memoryWf = true) :
    (s.setHead ctx q v).memoryWf = true := State.writeVirt_memoryWf _ _ _ _ hm

theorem State.queueError_memoryWf {s : State} (ctx q : Nat) (hm : s.memoryWf = true) :
    (s.queueError ctx q).memoryWf = true := hm

theorem State.noteWaiting_memoryWf {s : State} (ctx q : Nat) (hm : s.memoryWf = true) :
    (s.noteWaiting ctx q).memoryWf = true := by
  grind [State.noteWaiting, State.memoryWf_with]

theorem State.noteTail_memoryWf {s : State} (ctx q : Nat) (v : Word) (hm : s.memoryWf = true) :
    (s.noteTail ctx q v).memoryWf = true := hm

theorem State.pushRing_memoryWf {s : State} (ctx q : Nat) (d : QDesc) (bytes : List Byte) (order : Nat)
    (hm : s.memoryWf = true) : (s.pushRing ctx q d bytes order).memoryWf = true := by
  grind [State.pushRing, State.setTail_memoryWf, State.writeVirt_memoryWf, State.noteTail_memoryWf,
    State.noteWaiting_memoryWf, State.memoryWf_with]

theorem State.pushReady_memoryWf {s : State} (ctx va order : Nat) (hm : s.memoryWf = true) {t : State}
    (e : s.pushReady ctx va order = some t) : t.memoryWf = true := by
  grind [State.pushReady, State.queueError_memoryWf, State.pushRing_memoryWf]

theorem State.noteReady_memoryWf {s : State} (order place : Nat) (hm : s.memoryWf = true) :
    (s.noteReady order place).memoryWf = true := hm

theorem State.makeReady_memoryWf {s : State} (ctx va place : Nat) (hm : s.memoryWf = true) :
    (s.makeReady ctx va place).memoryWf = true := by
  grind [State.makeReady, State.queueError_memoryWf, State.fresh_memoryWf, State.noteReady_memoryWf,
    State.pushReady_memoryWf, State.memoryWf_with]

theorem State.joinDec_memoryWf {s0 : State} (ctx va pa : Nat) (t : MemTag) (routes : List (Nat × Word))
    (hm : s0.memoryWf = true) : (s0.joinDec ctx va pa t routes).2.memoryWf = true := by
  grind [State.joinDec, State.loadBytes_memoryWf, State.storeAtom_memoryWf, State.makeReady_memoryWf]

/-! ### Atomics, fences and waits (R201 to R209) -/

theorem State.startAtomic_memoryWf {s : State} (a : Actx) (o : Opnds) (op : AtomOp)
    (reqs : List (Nat × List AtomLane)) (hm : s.memoryWf = true) : (s.startAtomic a o op reqs).memoryWf = true := by
  grind [State.startAtomic, State.pushOp_memoryWf, State.updWarp_memoryWf, State.memoryWf_with]

theorem State.atomic_memoryWf {s : State} (op : AtomOp) (o : Opnds) (hm : s.memoryWf = true) {t : State}
    (e : s.atomic op o = .next t) : t.memoryWf = true := by
  refine State.counted_memoryWf hm (fun a m ha => ?_) e
  grind [State.raise_memoryWf, State.checkAddr_memoryWf, State.translateLanes_memoryWf, State.dataFault_memoryWf,
    State.retire_memoryWf, State.startAtomic_memoryWf, State.loseIdemp_memoryWf, State.memoryWf_with]

theorem execAtom_memoryWf {s : State} (op : AtomOp) (o : Opnds) (hm : s.memoryWf = true) {t : State}
    (e : execAtom op o s = .next t) : t.memoryWf = true := State.atomic_memoryWf _ _ hm e

theorem execAcas_memoryWf {s : State} (o : Opnds) (hm : s.memoryWf = true) {t : State} (e : execAcas o s = .next t) :
    t.memoryWf = true := State.atomic_memoryWf _ _ hm e

theorem State.atomLane_memoryWf {s : State} (op : Op) (k : AtomOp) (u : Bool) (size : Nat) (dst : Option Nat)
    (scope : Nat) (x : AtomLane) (hm : s.memoryWf = true) :
    (s.atomLane op k u size dst scope x).1.memoryWf = true := by
  grind [State.atomLane, State.loadBytes_memoryWf, State.updWarp_memoryWf, State.storeAtom_memoryWf,
    State.stampAll_memoryWf]

theorem State.atomLanes_memoryWf {s : State} (op : Op) (k : AtomOp) (u : Bool) (size : Nat) (dst : Option Nat)
    (scope : Nat) (ls : List AtomLane) (hm : s.memoryWf = true) :
    (s.atomLanes op k u size dst scope ls).1.memoryWf = true := by
  induction ls generalizing s op k u size dst scope with
  | nil => grind [State.atomLanes]
  | cons x xs ih => grind [State.atomLanes, State.atomLane_memoryWf]

theorem State.serveJdec_memoryWf {s : State} (op : Op) (va pa dst : Nat) (hm : s.memoryWf = true) :
    (s.serveJdec op va pa dst).memoryWf = true := by
  grind [State.serveJdec, State.joinDec_memoryWf, State.updWarp_memoryWf, State.stampAll_memoryWf,
    State.finishOp_memoryWf, State.applyWrites_memoryWf]

theorem execAtomicServiceRequest_memoryWf {s : State} (hm : s.memoryWf = true) {t : State}
    (e : execAtomicServiceRequest s = .next t) : t.memoryWf = true := by
  unfold execAtomicServiceRequest at e
  repeat' split at e
  all_goals grind [State.atomLanes_memoryWf, State.setOp_memoryWf, State.applyWrites_memoryWf,
    State.finishOp_memoryWf, State.serveJdec_memoryWf, State.memoryWf_with]

theorem execAtoms_memoryWf {s : State} (op : AtomOp) (o : Opnds) (hm : s.memoryWf = true) {t : State}
    (e : execAtoms op o s = .next t) : t.memoryWf = true := by
  refine State.counted_memoryWf hm (fun a m ha => ?_) e
  grind [State.raise_memoryWf, State.checkAddr_memoryWf, State.retire_memoryWf, State.startOp_memoryWf]

theorem State.acquire_memoryWf {s : State} (a : Actx) (hm : s.memoryWf = true) :
    (s.acquire a).memoryWf = true := State.updWarp_memoryWf _ _ _ hm

theorem State.noteFence_memoryWf {s : State} (a : Actx) (kind : FenceKind) (scope : Nat) (hm : s.memoryWf = true) :
    (s.noteFence a kind scope).memoryWf = true := hm

theorem execFence_memoryWf {s : State} (kind : FenceKind) (o : Opnds) (hm : s.memoryWf = true) {t : State}
    (e : execFence kind o s = .next t) : t.memoryWf = true := by
  refine State.run_memoryWf hm (fun a m ha => ?_) e
  grind [State.retire_memoryWf, State.updWarp_memoryWf, State.noteFence_memoryWf, State.acquire_memoryWf]

theorem execEpochClose_memoryWf {s : State} (hm : s.memoryWf = true) {t : State} (e : execEpochClose s = .next t) :
    t.memoryWf = true := by
  grind [execEpochClose, State.memoryWf_with]

theorem State.waitRead_memoryWf {s : State} (e : WaitEntry) (core t : Nat) (hm : s.memoryWf = true) :
    (s.waitRead e core t).memoryWf = true := by
  grind [State.waitRead, State.updWarp_memoryWf, State.note_memoryWf]

theorem execWaita_memoryWf {s : State} (cmp : WaitCmp) (o : Opnds) (hm : s.memoryWf = true) {t : State}
    (e : execWaita cmp o s = .next t) : t.memoryWf = true := by
  refine State.run_memoryWf hm (fun a m ha => ?_) e
  grind [State.checkAddr_memoryWf, State.translate_memoryWf, State.dataFault_memoryWf, State.misuse_memoryWf,
    State.blockSlot_memoryWf, State.fresh_memoryWf, State.memoryWf_with]

theorem State.endWait_memoryWf {s : State} (e : WaitEntry) (status : Word) (hm : s.memoryWf = true) :
    (s.endWait e status).memoryWf = true := State.answer_memoryWf _ _ _ _ _ hm

theorem State.registerWait_memoryWf {s : State} (id : Nat) (hm : s.memoryWf = true) :
    (s.registerWait id).memoryWf = true := by
  grind [State.registerWait, State.endWait_memoryWf, State.waitRead_memoryWf, State.memoryWf_with]

theorem execWaitaWake_memoryWf {s : State} (hm : s.memoryWf = true) {t : State} (e : execWaitaWake s = .next t) :
    t.memoryWf = true := by
  grind [execWaitaWake, State.registerWait_memoryWf, State.endWait_memoryWf, State.waitRead_memoryWf]

theorem execWaitaTimeout_memoryWf {s : State} (hm : s.memoryWf = true) {t : State} (e : execWaitaTimeout s = .next t) :
    t.memoryWf = true := by
  grind [execWaitaTimeout, State.endWait_memoryWf]

end Sys2Proof.Machine
end

section
/-!
PROOF. Every operation of the machine keeps the memories in canonical form (O6), continued.
-/
namespace Sys2Proof.Machine
open Sys2Proof

/-! ### Queues (R211 to R216) -/

theorem State.queueWrite_memoryWf {s : State} (bid x : Nat) (vs : List Byte) (hm : s.memoryWf = true) :
    (s.queueWrite bid x vs).memoryWf = true := by
  grind [State.queueWrite, State.block?_memoryWf, State.setBlock_memoryWf_of_block, Block.spadWrite_memoryWf]

theorem State.setQueue_memoryWf {s : State} (bid n : Nat) (q : QHead) (hm : s.memoryWf = true) :
    (s.setQueue bid n q).memoryWf = true := by
  grind [State.setQueue, State.block?_memoryWf, State.setBlock_memoryWf_of_block, Block.spadWrite_memoryWf,
    Block.memoryWf_with]

theorem State.settleQueue_memoryWf {s : State} (bid n : Nat) (hm : s.memoryWf = true) :
    (s.settleQueue bid n).memoryWf = true := by
  grind [State.settleQueue, State.freeBytes_memoryWf, State.setQueue_memoryWf]

theorem State.qpush_memoryWf {s : State} (bid n : Nat) (h : Word) (hm : s.memoryWf = true) :
    (s.qpush bid n h).memoryWf = true := by
  grind [State.qpush, State.setQueue_memoryWf, State.queueWrite_memoryWf]

theorem State.qpop_memoryWf {s : State} (bid n : Nat) (hm : s.memoryWf = true) :
    (s.qpop bid n).2.memoryWf = true := State.setQueue_memoryWf _ _ _ hm

theorem State.noteQueue_memoryWf {s : State} (bid wi core po : Nat) (reads writes : List Nat) (hm : s.memoryWf = true) :
    (s.noteQueue bid wi core po reads writes).memoryWf = true := hm

theorem State.queueFence_memoryWf {s : State} (bid wi core po : Nat) (k : FenceKind) (hm : s.memoryWf = true) :
    (s.queueFence bid wi core po k).memoryWf = true := hm

theorem State.pushAs_memoryWf {s : State} (bid n wi core po : Nat) (h : Word) (hm : s.memoryWf = true) :
    (s.pushAs bid n wi core po h).memoryWf = true := by
  grind [State.pushAs, State.queueFence_memoryWf, State.noteQueue_memoryWf, State.qpush_memoryWf]

theorem State.popAs_memoryWf {s : State} (bid n wi core po : Nat) (hm : s.memoryWf = true) :
    (s.popAs bid n wi core po).2.memoryWf = true := by
  grind [State.popAs, State.queueFence_memoryWf, State.noteQueue_memoryWf, State.qpop_memoryWf]

theorem State.putQueue_memoryWf {s : State} (a : Actx) (n : Nat) (reads : Bool) (q : QHead) (hm : s.memoryWf = true) :
    (s.putQueue a n reads q).memoryWf = true := by
  grind [State.putQueue, State.fresh_memoryWf, State.setQueue_memoryWf, State.noteQueue_memoryWf]

theorem State.sawQueue_memoryWf {s : State} (a : Actx) (n : Nat) (hm : s.memoryWf = true) :
    (s.sawQueue a n).memoryWf = true := hm

theorem State.queuePlace_memoryWf {s : State} (hm : s.memoryWf = true) : (s.queuePlace).memoryWf = true := hm

theorem State.serveWaiter_memoryWf {s : State} (bid n : Nat) (x : QWaiter) (hm : s.memoryWf = true) :
    (s.serveWaiter bid n x).memoryWf = true := by
  grind [State.serveWaiter, State.block?_memoryWf, State.setBlock_memoryWf_of_block, State.retire_memoryWf,
    State.pushAs_memoryWf, State.popAs_memoryWf, State.queuePlace_memoryWf, State.wrSc_memoryWf, Block.memoryWf_with]

theorem State.serveQueue_memoryWf {s : State} (bid n n3 : Nat) (hm : s.memoryWf = true) :
    (s.serveQueue bid n n3).memoryWf = true := by
  induction n3 generalizing s bid n with
  | zero => grind [State.serveQueue]
  | succ n ih => grind [State.serveQueue, State.serveWaiter_memoryWf]

theorem State.settleWaited_memoryWf {s : State} (bid n : Nat) (hm : s.memoryWf = true) :
    (s.settleWaited bid n).memoryWf = true := by
  grind [State.settleWaited, State.settleQueue_memoryWf]

theorem State.serveAll_memoryWf {s : State} (bid n : Nat) (hm : s.memoryWf = true) :
    (s.serveAll bid n).memoryWf = true := by
  grind [State.serveAll, State.serveQueue_memoryWf, State.settleWaited_memoryWf]

theorem State.joinWaiters_memoryWf {s : State} (a : Actx) (n : Nat) (push : Bool) (h : Word) (dst : BitVec 8)
    (hm : s.memoryWf = true) : (s.joinWaiters a n push h dst).memoryWf = true := by
  grind [State.joinWaiters, State.blockSlot_memoryWf, State.queuePlace_memoryWf, State.block?_memoryWf,
    State.setBlock_memoryWf_of_block, Block.memoryWf_with]

theorem execQueueWaiterRelease_memoryWf {s : State} (hm : s.memoryWf = true) {t : State}
    (e : execQueueWaiterRelease s = .next t) : t.memoryWf = true := by
  grind [execQueueWaiterRelease, State.settleWaited_memoryWf, State.serveAll_memoryWf, State.serveWaiter_memoryWf]

theorem State.unstick_memoryWf {s : State} (b : Block) (wi : Nat) (hm : s.memoryWf = true) :
    (s.unstick b wi).memoryWf = true := by
  grind [State.unstick, State.draw_memoryWf, State.raiseTrap_memoryWf, State.withdraw_memoryWf]

theorem execQueueDeadlock_memoryWf {s0 : State} (hm : s0.memoryWf = true) {t : State}
    (e : execQueueDeadlock s0 = .next t) : t.memoryWf = true := by
  unfold execQueueDeadlock at e
  grind [State.settleWaited_memoryWf, State.unstick_memoryWf, foldl_memoryWf]

theorem State.withQueue_memoryWf {s : State} {o : Opnds} {init : Bool}
    {act : State → Actx → Mask → Nat → QHead → State} (hm : s.memoryWf = true)
    (hact : ∀ (u : State) a m n q, u.memoryWf = true → (act u a m n q).memoryWf = true) {t : State}
    (e : s.withQueue o init act = .next t) : t.memoryWf = true := by
  refine State.run_memoryWf hm (fun a m _ => ?_) e
  dsimp only
  split
  · exact State.raiseAt_memoryWf _ _ _ _ hm
  · refine State.behindSpad_memoryWf _ hm fun u hu => ?_
    grind [State.settleQueue_memoryWf, State.serveAll_memoryWf, State.raise_memoryWf]

theorem execQinit_memoryWf {s : State} (o : Opnds) (hm : s.memoryWf = true) {t : State} (e : execQinit o s = .next t) :
    t.memoryWf = true := by
  refine State.withQueue_memoryWf hm (fun a m ha => ?_) e
  grind [State.raise_memoryWf, State.putQueue_memoryWf, State.serveAll_memoryWf, State.retire_memoryWf]

theorem execQinitGrant_memoryWf {s : State} (o : Opnds) (hm : s.memoryWf = true) {t : State}
    (e : execQinitGrant o s = .next t) : t.memoryWf = true := by
  refine State.withQueue_memoryWf hm (fun a m ha => ?_) e
  grind [State.serveAll_memoryWf, State.retire_memoryWf, State.putQueue_memoryWf]

theorem State.pushNow_memoryWf {s : State} (a : Actx) (n : Nat) (h : Word) (hm : s.memoryWf = true) :
    (s.pushNow a n h).memoryWf = true := by
  grind [State.pushNow, State.pushAs_memoryWf, State.queuePlace_memoryWf]

theorem State.popNow_memoryWf {s : State} (a : Actx) (n : Nat) (hm : s.memoryWf = true) :
    (s.popNow a n).2.memoryWf = true := by
  grind [State.popNow, State.popAs_memoryWf, State.queuePlace_memoryWf]

theorem execQpush_memoryWf {s : State} (o : Opnds) (hm : s.memoryWf = true) {t : State} (e : execQpush o s = .next t) :
    t.memoryWf = true := by
  refine State.withQueue_memoryWf hm (fun a m ha => ?_) e
  grind [State.joinWaiters_memoryWf, State.serveAll_memoryWf, State.retire_memoryWf, State.pushNow_memoryWf]

theorem execQpop_memoryWf {s : State} (o : Opnds) (hm : s.memoryWf = true) {t : State} (e : execQpop o s = .next t) :
    t.memoryWf = true := by
  refine State.withQueue_memoryWf hm (fun a m ha => ?_) e
  grind [State.joinWaiters_memoryWf, State.serveAll_memoryWf, State.retire_memoryWf, State.wrSc_memoryWf,
    State.popNow_memoryWf]

theorem execQtryPop_memoryWf {s : State} (o : Opnds) (hm : s.memoryWf = true) {t : State}
    (e : execQtryPop o s = .next t) : t.memoryWf = true := by
  refine State.withQueue_memoryWf hm (fun a m ha => ?_) e
  grind [State.retire_memoryWf, State.wrP_memoryWf, State.sawQueue_memoryWf, State.serveAll_memoryWf,
    State.wrSc_memoryWf, State.popNow_memoryWf]

theorem execQtryPush_memoryWf {s : State} (o : Opnds) (hm : s.memoryWf = true) {t : State}
    (e : execQtryPush o s = .next t) : t.memoryWf = true := by
  refine State.withQueue_memoryWf hm (fun a m ha => ?_) e
  grind [State.retire_memoryWf, State.wrP_memoryWf, State.sawQueue_memoryWf, State.serveAll_memoryWf,
    State.pushNow_memoryWf]

/-! ### The Circular (R217 to R232) -/

theorem State.setStitch_memoryWf {s : State} (p : Nat) (x : Option Stitch) (hm : s.memoryWf = true) :
    (s.setStitch p x).memoryWf = true := hm

theorem State.bindOff_memoryWf {s : State} (p : Nat) (hm : s.memoryWf = true) : (s.bindOff p).memoryWf = true := hm

theorem State.mark_memoryWf {s : State} (core p : Nat) (hm : s.memoryWf = true) :
    (s.mark core p).memoryWf = true := hm

theorem State.steal_memoryWf {s : State} (p : Nat) (hm : s.memoryWf = true) : (s.steal p).memoryWf = true := by
  grind [State.steal, State.setStitch_memoryWf]

theorem execHoldTheft_memoryWf {s : State} (hm : s.memoryWf = true) {t : State} (e : execHoldTheft s = .next t) :
    t.memoryWf = true := by
  grind [execHoldTheft, State.steal_memoryWf]

theorem State.circReq_memoryWf {s : State} (a : Actx) (m : Mask) (kind : CircKind) (h : Word) (dst : BitVec 8)
    (hm : s.memoryWf = true) : (s.circReq a m kind h dst).memoryWf = true := by
  grind [State.circReq, State.fresh_memoryWf, State.loseIdemp_memoryWf, State.blockSlot_memoryWf, State.memoryWf_with]

theorem State.withHandle_memoryWf {s : State} {o : Opnds} {act : Actx → Mask → Word → State} (hm : s.memoryWf = true)
    (hact : ∀ a m h, (act a m h).memoryWf = true) {t : State} (e : s.withHandle o act = .next t) :
    t.memoryWf = true := by
  refine State.run_memoryWf hm (fun a m _ => ?_) e
  grind [State.raise_memoryWf]

theorem execCircCast_memoryWf {s : State} (o : Opnds) (hm : s.memoryWf = true) {t : State}
    (e : execCircCast o s = .next t) : t.memoryWf = true := by
  refine State.run_memoryWf hm (fun a m ha => ?_) e
  grind [State.circReq_memoryWf]

theorem execCircBind_memoryWf {s : State} (o : Opnds) (hm : s.memoryWf = true) {t : State}
    (e : execCircBind o s = .next t) : t.memoryWf = true := by
  refine State.withHandle_memoryWf hm (fun _ _ _ => ?_) e
  grind [State.circReq_memoryWf]

theorem execCircCap_memoryWf {s : State} (o : Opnds) (hm : s.memoryWf = true) {t : State}
    (e : execCircCap o s = .next t) : t.memoryWf = true := by
  refine State.withHandle_memoryWf hm (fun _ _ _ => ?_) e
  grind [State.raise_memoryWf, State.circReq_memoryWf]

theorem execCircWr_memoryWf {s : State} (o : Opnds) (hm : s.memoryWf = true) {t : State}
    (e : execCircWr o s = .next t) : t.memoryWf = true := by
  refine State.withHandle_memoryWf hm (fun _ _ _ => ?_) e
  grind [State.circReq_memoryWf]

theorem execCircRel_memoryWf {s : State} (o : Opnds) (hm : s.memoryWf = true) {t : State}
    (e : execCircRel o s = .next t) : t.memoryWf = true := by
  refine State.withHandle_memoryWf hm (fun _ _ _ => ?_) e
  grind [State.circReq_memoryWf]

theorem execCircPeek_memoryWf {s : State} (o : Opnds) (hm : s.memoryWf = true) {t : State}
    (e : execCircPeek o s = .next t) : t.memoryWf = true := by
  refine State.withHandle_memoryWf hm (fun _ _ _ => ?_) e
  grind [State.circReq_memoryWf]

theorem execCircTurn_memoryWf {s : State} (o : Opnds) (hm : s.memoryWf = true) {t : State}
    (e : execCircTurn o s = .next t) : t.memoryWf = true := by
  refine State.run_memoryWf hm (fun a m ha => ?_) e
  grind [State.retire_memoryWf, State.updWarp_memoryWf, State.loseIdemp_memoryWf]

theorem State.dropReq_memoryWf {s : State} (id : Nat) (hm : s.memoryWf = true) : (s.dropReq id).memoryWf = true := hm

theorem State.setReq_memoryWf {s : State} (r : CircReq) (hm : s.memoryWf = true) : (s.setReq r).memoryWf = true := hm

theorem execCastClaim_memoryWf {s : State} (hm : s.memoryWf = true) {t : State} (e : execCastClaim s = .next t) :
    t.memoryWf = true := by
  grind [execCastClaim, State.answer_memoryWf, State.dropReq_memoryWf, State.setReq_memoryWf]

theorem State.giveOctet_memoryWf {s : State} (r : CircReq) (vals : List Word) (hm : s.memoryWf = true) :
    (s.giveOctet r vals).memoryWf = true := by
  grind [State.giveOctet, State.retire_memoryWf, State.wrSc_memoryWf, foldl_memoryWf]

theorem State.givePred_memoryWf {s : State} (r : CircReq) (pc : Nat) (v : Bool) (hm : s.memoryWf = true) :
    (s.givePred r pc v).memoryWf = true := by
  grind [State.givePred, State.retire_memoryWf, State.wrP_memoryWf]

theorem State.examine_memoryWf {s : State} (p : Nat) (r : CircReq) (hm : s.memoryWf = true) :
    (s.examine p r).memoryWf = true := by
  grind [State.examine, State.raiseTrap_memoryWf, State.withdraw_memoryWf, State.dropReq_memoryWf,
    State.updWarp_memoryWf, State.setReq_memoryWf, State.setStitch_memoryWf]

theorem State.commit_memoryWf {s : State} (p : Nat) (r : CircReq) (x : Stitch) (hm : s.memoryWf = true) :
    (s.commit p r x).memoryWf = true := by
  grind [State.commit, State.dropReq_memoryWf, State.giveOctet_memoryWf, State.updWarp_memoryWf, State.mark_memoryWf,
    State.setStitch_memoryWf, State.bindOff_memoryWf, State.givePred_memoryWf]

theorem State.occupy_memoryWf {s : State} (p : Nat) (r : CircReq) (vals : List Word) (hm : s.memoryWf = true) :
    (s.occupy p r vals).memoryWf = true := by
  grind [State.occupy, State.answer_memoryWf, State.mark_memoryWf, State.setStitch_memoryWf, State.dropReq_memoryWf]

theorem State.letGo_memoryWf {s : State} (core p : Nat) (hm : s.memoryWf = true) :
    (s.letGo core p).memoryWf = true := by
  grind [State.letGo, State.setStitch_memoryWf, foldl_memoryWf, State.memoryWf_with]

theorem State.lapse_memoryWf {s : State} (core p : Nat) (hm : s.memoryWf = true) :
    (s.lapse core p).memoryWf = true := by
  grind [State.lapse, State.setStitch_memoryWf]

theorem State.passPos_memoryWf {s : State} (core p : Nat) (hm : s.memoryWf = true) :
    (s.passPos core p).memoryWf = true := by
  grind [State.passPos, State.letGo_memoryWf, State.steal_memoryWf, State.lapse_memoryWf, State.examine_memoryWf,
    State.occupy_memoryWf, State.commit_memoryWf, foldl_memoryWf]

theorem State.passTurns_memoryWf {s : State} (core : Nat) (hm : s.memoryWf = true) :
    (s.passTurns core).memoryWf = true := by
  grind [State.passTurns, State.mem_blocks_memoryWf, State.memoryWf_withBlocks, Block.memoryWf_with]

theorem State.passStop_memoryWf {s : State} (core : Nat) (hm : s.memoryWf = true) :
    (s.passStop core).memoryWf = true := by
  grind [State.passStop, State.passPos_memoryWf, State.passTurns_memoryWf, State.memoryWf_with]

theorem execStopPass_memoryWf {s : State} (hm : s.memoryWf = true) {t : State} (e : execStopPass s = .next t) :
    t.memoryWf = true := by
  grind [execStopPass, State.passStop_memoryWf]

theorem State.seam_memoryWf {s : State} (k : Nat) (hm : s.memoryWf = true) : (s.seam k).memoryWf = true := hm

theorem State.passSeam_memoryWf {s : State} (hm : s.memoryWf = true) : (s.passSeam).memoryWf = true := by
  grind [State.passSeam, State.passStop_memoryWf, State.seam_memoryWf]

theorem execSeamPass_memoryWf {s : State} (hm : s.memoryWf = true) {t : State} (e : execSeamPass s = .next t) :
    t.memoryWf = true := by
  grind [execSeamPass, State.passSeam_memoryWf]

theorem execWarpEndRelease_memoryWf {s : State} (hm : s.memoryWf = true) {t : State}
    (e : execWarpEndRelease s = .next t) : t.memoryWf = true := by
  grind [execWarpEndRelease, State.letGo_memoryWf, State.steal_memoryWf]

theorem State.ringTick_memoryWf {s : State} (hm : s.memoryWf = true) : (s.ringTick).memoryWf = true := by
  grind [State.ringTick, State.passSeam_memoryWf, State.passStop_memoryWf, foldl_memoryWf, State.memoryWf_with]

/-! ### Matrix instructions (R237 to R256) -/

theorem State.setShape_memoryWf {s : State} (o : Opnds) (req : Actx → Nat × Nat × Nat) (hm : s.memoryWf = true)
    {t : State} (e : s.setShape o req = .next t) : t.memoryWf = true := by
  refine State.run_memoryWf hm (fun a m ha => ?_) e
  grind [State.retire_memoryWf, State.wrSc_memoryWf, State.updWarp_memoryWf]

theorem execSetshapeReg_memoryWf {s : State} (o : Opnds) (hm : s.memoryWf = true) {t : State}
    (e : execSetshapeReg o s = .next t) : t.memoryWf = true := State.setShape_memoryWf _ _ hm e

theorem execSetshapeImm_memoryWf {s : State} (o : Opnds) (hm : s.memoryWf = true) {t : State}
    (e : execSetshapeImm o s = .next t) : t.memoryWf = true := State.setShape_memoryWf _ _ hm e

theorem execSetshapeTail_memoryWf {s : State} (o : Opnds) (hm : s.memoryWf = true) {t : State}
    (e : execSetshapeTail o s = .next t) : t.memoryWf = true := by
  refine State.run_memoryWf hm (fun a m ha => ?_) e
  grind [State.raise_memoryWf, State.retire_memoryWf, State.updWarp_memoryWf]

theorem execGetshape_memoryWf {s : State} (sel : ShapeSel) (o : Opnds) (hm : s.memoryWf = true) {t : State}
    (e : execGetshape sel o s = .next t) : t.memoryWf = true := by
  refine State.run_memoryWf hm (fun a m ha => ?_) e
  grind [State.updWarp_memoryWf, State.retire_memoryWf, State.wrSc_memoryWf]

theorem State.matrix_memoryWf {s : State} (o : Opnds) (scaled : Bool) (hm : s.memoryWf = true) {t : State}
    (e : s.matrix o scaled = .next t) : t.memoryWf = true := by
  refine State.run_memoryWf hm (fun a m ha => ?_) e
  grind [State.raise_memoryWf, State.retire_memoryWf, State.pushOp_memoryWf]

theorem execMma_memoryWf {s : State} (o : Opnds) (hm : s.memoryWf = true) {t : State} (e : execMma o s = .next t) :
    t.memoryWf = true := State.matrix_memoryWf _ _ hm e

theorem execMmas_memoryWf {s : State} (o : Opnds) (hm : s.memoryWf = true) {t : State} (e : execMmas o s = .next t) :
    t.memoryWf = true := State.matrix_memoryWf _ _ hm e

theorem execTileWrite_memoryWf {s : State} (hm : s.memoryWf = true) {t : State} (e : execTileWrite s = .next t) :
    t.memoryWf = true := by
  unfold execTileWrite at e
  repeat' split at e
  all_goals grind [State.spadTurn_memoryWf, State.finishOp_memoryWf]

theorem State.withLines_memoryWf {s : State} (a : Actx) (lo n : Nat) {act : State → State} (hm : s.memoryWf = true)
    (hact : ∀ u : State, u.memoryWf = true → (act u).memoryWf = true) : (s.withLines a lo n act).memoryWf = true := by
  grind [State.withLines, State.raise_memoryWf, State.behindSpad_memoryWf]

theorem execAccz_memoryWf {s : State} (o : Opnds) (hm : s.memoryWf = true) {t : State} (e : execAccz o s = .next t) :
    t.memoryWf = true :=
  State.run_memoryWf hm (fun _ _ _ => State.withLines_memoryWf _ _ _ hm fun _ hu =>
    State.retire_memoryWf _ (State.putAcc_memoryWf _ _ _ _ (State.fresh_memoryWf hu))) e

theorem State.accLoad_memoryWf {s : State} {o : Opnds} {line : Actx → Nat} {f : Actx → Word → Word}
    (hm : s.memoryWf = true) {t : State} (e : s.accLoad o line f = .next t) : t.memoryWf = true :=
  State.counted_memoryWf hm (fun _ _ _ => State.withLines_memoryWf _ _ _ hm fun _ hu =>
    State.retire_memoryWf _ (State.startOp_memoryWf _ _ _ (State.noteAcc_memoryWf _ _ _ _ hu))) e

theorem execAccld_memoryWf {s : State} (o : Opnds) (hm : s.memoryWf = true) {t : State} (e : execAccld o s = .next t) :
    t.memoryWf = true := State.accLoad_memoryWf hm e

theorem execAccldDec_memoryWf {s : State} (o : Opnds) (hm : s.memoryWf = true) {t : State}
    (e : execAccldDec o s = .next t) : t.memoryWf = true := State.accLoad_memoryWf hm e

theorem execAccldTscale_memoryWf {s : State} (o : Opnds) (hm : s.memoryWf = true) {t : State}
    (e : execAccldTscale o s = .next t) : t.memoryWf = true := State.accLoad_memoryWf hm e

theorem execAccst_memoryWf {s : State} (o : Opnds) (hm : s.memoryWf = true) {t : State} (e : execAccst o s = .next t) :
    t.memoryWf = true := by
  refine State.run_memoryWf hm (fun a m _ => ?_) e
  dsimp only
  split
  · exact State.raise_memoryWf _ _ _ hm
  · exact State.withLines_memoryWf _ _ _ hm fun _ hu =>
      State.retire_memoryWf _ (State.putAcc_memoryWf _ _ _ _ (State.fresh_memoryWf hu))

theorem execAccstSp_memoryWf {s : State} (o : Opnds) (hm : s.memoryWf = true) {t : State}
    (e : execAccstSp o s = .next t) : t.memoryWf = true := by
  refine State.counted_memoryWf hm (fun a m _ => ?_) e
  extract_lets n lo x
  split
  · exact State.raiseAt_memoryWf _ _ _ _ hm
  · split
    · exact State.raiseAt_memoryWf _ _ _ _ hm
    · exact State.withLines_memoryWf _ _ _ hm fun _ hu => State.retire_memoryWf _ (State.startOp_memoryWf _ _ _
        (State.spadWrite_memoryWf _ _ _ (State.noteSpad_memoryWf _ _ _ _ (State.noteAcc_memoryWf _ _ _ _ hu))))

theorem execFragld_memoryWf {s : State} (part : FragPart) (o : Opnds) (hm : s.memoryWf = true) {t : State}
    (e : execFragld part o s = .next t) : t.memoryWf = true := by
  refine State.counted_memoryWf hm (fun a m _ => ?_) e
  clear e
  have htrap (code detail : Nat) : (s.raise a code detail).memoryWf = true := State.raise_memoryWf _ _ _ hm
  have hfault (code detail : Nat) (x : DWord) : (s.raiseAt a code detail x).memoryWf = true := State.raiseAt_memoryWf _ _ _ _ hm
  refine ite_memoryWf (htrap _ _) (ite_memoryWf (htrap _ _) (ite_memoryWf (htrap _ _) (ite_memoryWf (htrap _ _) (ite_memoryWf hm
    (ite_memoryWf (hfault _ _ _) (ite_memoryWf (hfault _ _ _) ?_))))))
  split
  · exact hfault _ _ _
  · refine State.behindSpad_memoryWf a hm fun u hu => ?_
    grind [State.retire_memoryWf, State.startOp_memoryWf, State.noteSpad_memoryWf]

/-! ### Waveguides (R351, R354) -/

theorem State.setWaveguide_memoryWf {s : State} (w : Waveguide) (hm : s.memoryWf = true) :
    (s.setWaveguide w).memoryWf = true := by
  grind [State.setWaveguide, State.memoryWf_with]

theorem State.demandFlits_memoryWf {s : State} (id st n : Nat) (hm : s.memoryWf = true) :
    (s.demandFlits id st n).memoryWf = true := by
  grind [State.demandFlits, State.setWaveguide_memoryWf, State.memoryWf_with]

theorem State.sendFlit_memoryWf {s : State} (id st flit n : Nat) (hm : s.memoryWf = true) :
    (s.sendFlit id st flit n).memoryWf = true := State.setWaveguide_memoryWf _ hm

theorem State.replyFlit_memoryWf {s : State} (home core flit n : Nat) (hm : s.memoryWf = true) :
    (s.replyFlit home core flit n).memoryWf = true := State.sendFlit_memoryWf _ _ _ _ hm

theorem State.copyFlit_memoryWf {s : State} (srcHome home flit n : Nat) (hm : s.memoryWf = true) :
    (s.copyFlit srcHome home flit n).memoryWf = true := State.sendFlit_memoryWf _ _ _ _ hm

end Sys2Proof.Machine
end

section
/-!
PROOF. Every operation of the machine keeps the memories in canonical form (O6), continued.
-/
namespace Sys2Proof.Machine
open Sys2Proof

/-! ### Proxies and their memory (R257 to R281) -/

theorem State.pldBlocked_memoryWf {s : State} (a : Actx) (ls : List Nat) (hm : s.memoryWf = true) {t : State}
    (e : s.pldBlocked a ls = some t) : t.memoryWf = true := by
  induction ls generalizing s a with
  | nil => grind [State.pldBlocked]
  | cons x xs ih => grind [State.pldBlocked, State.raise_memoryWf]

theorem State.pldTake_memoryWf {s : State} (a : Actx) (o : Opnds) (fmt : Nat) (m : Mask) (vas pas : List Nat)
    (hm : s.memoryWf = true) : (s.pldTake a o fmt m vas pas).memoryWf = true := by
  grind [State.pldTake, State.takeRuns_memoryWf, State.askChunks_memoryWf, State.misuse_memoryWf,
    State.noteHits_memoryWf, State.pushReq_memoryWf, State.retire_memoryWf, State.dropRefs_memoryWf,
    State.wrVec_memoryWf, foldl_memoryWf]

theorem State.pld_memoryWf {s : State} (fmt : BitVec 3) (o : Opnds) (imm : Bool) (hm : s.memoryWf = true) {t : State}
    (e : s.pld fmt o imm = .next t) : t.memoryWf = true := by
  refine State.run_memoryWf hm (fun a m ha => ?_) e
  grind [State.raise_memoryWf, State.raiseAt_memoryWf, State.translateList_memoryWf, State.dataFault_memoryWf,
    State.pldBlocked_memoryWf, State.pldTake_memoryWf]

theorem execPldReg_memoryWf {s : State} (fmt : BitVec 3) (o : Opnds) (hm : s.memoryWf = true) {t : State}
    (e : execPldReg fmt o s = .next t) : t.memoryWf = true := State.pld_memoryWf _ _ _ hm e

theorem execPldImm_memoryWf {s : State} (fmt : BitVec 3) (o : Opnds) (hm : s.memoryWf = true) {t : State}
    (e : execPldImm fmt o s = .next t) : t.memoryWf = true := State.pld_memoryWf _ _ _ hm e

theorem State.askLanes_memoryWf {s : State} (a : Actx) (op : Nat) (ls : List MatLane) (hm : s.memoryWf = true) :
    (s.askLanes a op ls).memoryWf = true := by
  grind [State.askLanes, State.pushReq_memoryWf, foldl_memoryWf]

theorem execPmat_memoryWf {s : State} (o : Opnds) (hm : s.memoryWf = true) {t : State} (e : execPmat o s = .next t) :
    t.memoryWf = true := by
  refine State.run_memoryWf hm (fun a m ha => ?_) e
  grind [State.raise_memoryWf, State.retire_memoryWf, State.wr_memoryWf, State.pushOp_memoryWf,
    State.askLanes_memoryWf]

theorem State.spadKept_memoryWf {s : State} (t : MemTag) (bid : Nat) (bs : List Byte) (keep : List (Nat × Nat))
    (hm : s.memoryWf = true) : (s.spadKept t bid bs keep).memoryWf = true := by
  grind [State.spadKept, State.spadWrite_memoryWf, State.noteSpad_memoryWf, foldl_memoryWf]

theorem State.plainKept_memoryWf {s : State} (t : MemTag) (bid : Nat) (l3 : List (Nat × Word × List (Nat × Nat)))
    (l4 : List MatLane) (hm : s.memoryWf = true) : (s.plainKept t bid l3 l4).1.memoryWf = true := by
  induction l3 generalizing s t bid l4 with
  | nil => grind [State.plainKept]
  | cons x xs ih => grind [State.plainKept, State.spadKept_memoryWf]

theorem execPmatS_memoryWf {s : State} (o : Opnds) (hm : s.memoryWf = true) {t : State} (e : execPmatS o s = .next t) :
    t.memoryWf = true := by
  refine State.counted_memoryWf hm (fun a m ha => ?_) e
  grind [State.raise_memoryWf, State.raiseAt_memoryWf, State.behindSpad_memoryWf, State.plainKept_memoryWf,
    State.retire_memoryWf, State.askLanes_memoryWf, State.startOp_memoryWf]

theorem execPfree_memoryWf {s : State} (o : Opnds) (hm : s.memoryWf = true) {t : State} (e : execPfree o s = .next t) :
    t.memoryWf = true := by
  refine State.run_memoryWf hm (fun a m ha => ?_) e
  grind [State.retire_memoryWf, State.wrVec_memoryWf]

theorem execPfreeP_memoryWf {s : State} (o : Opnds) (hm : s.memoryWf = true) {t : State}
    (e : execPfreeP o s = .next t) : t.memoryWf = true := by
  refine State.run_memoryWf hm (fun a m ha => ?_) e
  grind [State.retire_memoryWf, State.wrP_memoryWf]

theorem execPqry_memoryWf {s : State} (o : Opnds) (hm : s.memoryWf = true) {t : State} (e : execPqry o s = .next t) :
    t.memoryWf = true := by
  refine State.run_memoryWf hm (fun a m ha => ?_) e
  grind [State.retire_memoryWf, State.wr_memoryWf]

theorem execPqryP_memoryWf {s : State} (o : Opnds) (hm : s.memoryWf = true) {t : State} (e : execPqryP o s = .next t) :
    t.memoryWf = true := by
  refine State.run_memoryWf hm (fun a m ha => ?_) e
  grind [State.retire_memoryWf, State.wr_memoryWf]

theorem execPdot_memoryWf {s : State} (o : Opnds) (hm : s.memoryWf = true) {t : State} (e : execPdot o s = .next t) :
    t.memoryWf = true := by
  refine State.run_memoryWf hm (fun a m ha => ?_) e
  grind [State.raise_memoryWf, State.capableLanes_memoryWf]

theorem execPred_memoryWf {s : State} (op : PredOp) (o : Opnds) (hm : s.memoryWf = true) {t : State}
    (e : execPred op o s = .next t) : t.memoryWf = true := State.capable_memoryWf hm e

theorem State.setPxReq_memoryWf {s : State} (r : PxReq) (hm : s.memoryWf = true) :
    (s.setPxReq r).memoryWf = true := hm

theorem State.endReq_memoryWf {s : State} (id : Nat) (hm : s.memoryWf = true) : (s.endReq id).memoryWf = true := hm

theorem State.drawWords_memoryWf {s : State} (n1 : Nat) (hm : s.memoryWf = true) :
    (s.drawWords n1).2.memoryWf = true := by
  induction n1 generalizing s with
  | zero => grind [State.drawWords]
  | succ n ih => grind [State.drawWords, State.draw_memoryWf]

theorem State.runWords_memoryWf {s : State} (ctx home slot ext : Nat) (hm : s.memoryWf = true) :
    (s.runWords ctx home slot ext).2.memoryWf = true := by
  grind [State.runWords, State.drawWords_memoryWf]

theorem State.formRun_memoryWf {s : State} (home slot : Nat) (ws : List Word) (hm : s.memoryWf = true) :
    (s.formRun home slot ws).memoryWf = true := hm

theorem State.srcWords_memoryWf {s : State} (ctx : Nat) (l : List PxSrc) (hm : s.memoryWf = true) :
    (s.srcWords ctx l).2.memoryWf = true := by
  induction l generalizing s with
  | nil => exact hm
  | cons x xs ih =>
    cases x with
    | plain v => exact ih hm
    | run home slot ext => exact ih (State.runWords_memoryWf _ _ _ _ hm)

theorem State.retireMicro_memoryWf {s : State} (chan : Nat) (hm : s.memoryWf = true) :
    (s.retireMicro chan).memoryWf = true := hm

theorem State.answered_memoryWf {s : State} (r : PxReq) (data : List Word) (hm : s.memoryWf = true) :
    (s.answered r data).memoryWf = true := by
  grind [State.answered, State.replyFlit_memoryWf, State.retireMicro_memoryWf, State.setPxReq_memoryWf]

theorem State.proxyOperate_memoryWf {s : State} (id : Nat) (hm : s.memoryWf = true) :
    (s.proxyOperate id).memoryWf = true := by
  grind [State.proxyOperate, State.srcWords_memoryWf, State.drawWords_memoryWf, State.answered_memoryWf,
    State.formRun_memoryWf, State.runWords_memoryWf, State.endReq_memoryWf]

theorem execProxyOperation_memoryWf {s : State} (hm : s.memoryWf = true) {t : State}
    (e : execProxyOperation s = .next t) : t.memoryWf = true := by
  grind [execProxyOperation, State.proxyOperate_memoryWf]

theorem State.takeSnapshot_memoryWf {s : State} (id age : Nat) (hm : s.memoryWf = true) :
    (s.takeSnapshot id age).memoryWf = true := by
  grind [State.takeSnapshot, State.readAt_memoryWf, State.updWarp_memoryWf, State.answered_memoryWf,
    State.formRun_memoryWf]

theorem execPldSnapshot_memoryWf {s : State} (hm : s.memoryWf = true) {t : State} (e : execPldSnapshot s = .next t) :
    t.memoryWf = true := by
  grind [execPldSnapshot, State.takeSnapshot_memoryWf]

theorem State.arriveLane_memoryWf {s : State} (r : PxReq) (op : Op) (lane : Nat) (lost : Bool)
    (hm : s.memoryWf = true) : (s.arriveLane r op lane lost).memoryWf = true := by
  grind [State.arriveLane, State.endReq_memoryWf, State.finishOp_memoryWf, State.applyReg_memoryWf,
    State.setOp_memoryWf, State.spadKept_memoryWf, State.memoryWf_with]

theorem execProxyCompletion_memoryWf {s : State} (hm : s.memoryWf = true) {t : State}
    (e : execProxyCompletion s = .next t) : t.memoryWf = true := by
  grind [execProxyCompletion, State.drainSpad_memoryWf, State.arriveLane_memoryWf, State.endReq_memoryWf,
    State.updWarp_memoryWf]

theorem execProxyDrop_memoryWf {s : State} (hm : s.memoryWf = true) {t : State} (e : execProxyDrop s = .next t) :
    t.memoryWf = true := by
  grind [execProxyDrop, State.endReq_memoryWf, State.reap_memoryWf, State.setHome_memoryWf, State.setRun_memoryWf]

theorem State.crossBit_memoryWf {s : State} (r : PxReq) (lane : Nat) (hm : s.memoryWf = true) :
    (s.crossBit r lane).memoryWf = true := by
  grind [State.crossBit, State.updWarp_memoryWf, State.endReq_memoryWf]

theorem execProxyCrossing_memoryWf {s : State} (hm : s.memoryWf = true) {t : State}
    (e : execProxyCrossing s = .next t) : t.memoryWf = true := by
  grind [execProxyCrossing, State.crossBit_memoryWf, foldl_memoryWf]

theorem State.answerChunks_memoryWf {s : State} (id : Nat) (a : ChunkAnswer) (hm : s.memoryWf = true) :
    (s.answerChunks id a).memoryWf = true := hm

theorem State.grantChunks_memoryWf {s : State} (id ctx home : Nat) (bases : List Nat) (n : Nat)
    (hm : s.memoryWf = true) {t : State} (e : s.grantChunks id ctx home bases n = some t) : t.memoryWf = true := by
  induction n generalizing s bases with
  | zero => cases e; exact hm
  | succ n ih =>
    simp only [State.grantChunks] at e
    grind [State.answerChunks_memoryWf]

theorem State.reclaim_memoryWf {s : State} (home : Nat) (hm : s.memoryWf = true) :
    (s.reclaim home).memoryWf = true := hm

theorem State.wake_memoryWf {s : State} (b wi slot : Nat) (hm : s.memoryWf = true) :
    (s.wake b wi slot).memoryWf = true := State.updWarp_memoryWf _ _ _ hm

theorem execChunkRequest_memoryWf {s : State} (hm : s.memoryWf = true) {t : State} (e : execChunkRequest s = .next t) :
    t.memoryWf = true := by
  grind [execChunkRequest, State.memoryWf_with]

theorem State.granted_memoryWf {s : State} (r : ChunkReq) (hm : s.memoryWf = true) :
    (s.granted r).memoryWf = true := by
  grind [State.granted, State.wake_memoryWf, State.setCore_memoryWf, State.memoryWf_with]

theorem State.refused_memoryWf {s : State} (r : ChunkReq) (detail : Nat) (hm : s.memoryWf = true) :
    (s.refused r detail).memoryWf = true := by
  grind [State.refused, State.raiseTrap_memoryWf, State.granted_memoryWf]

theorem State.answerReq_memoryWf {s : State} (r : ChunkReq) (ctx : Nat) (hm : s.memoryWf = true) :
    (s.answerReq r ctx).memoryWf = true := by
  grind [State.answerReq, State.grantChunks_memoryWf, State.replyFlit_memoryWf, State.reclaim_memoryWf,
    State.answerChunks_memoryWf]

theorem execChunkGrant_memoryWf {s : State} (hm : s.memoryWf = true) {t : State} (e : execChunkGrant s = .next t) :
    t.memoryWf = true := by
  grind [execChunkGrant, State.answerReq_memoryWf, State.granted_memoryWf, State.refused_memoryWf,
    State.memoryWf_with]

theorem execChunkReturn_memoryWf {s : State} (hm : s.memoryWf = true) {t : State} (e : execChunkReturn s = .next t) :
    t.memoryWf = true := by
  grind [execChunkReturn, State.setCore_memoryWf]

theorem State.readCopy_memoryWf {s : State} (r : PxReq) (srcHome srcSlot ext : Nat) (hm : s.memoryWf = true) :
    (s.readCopy r srcHome srcSlot ext).memoryWf = true := by
  grind [State.readCopy, State.runWords_memoryWf, State.copyFlit_memoryWf, State.retireMicro_memoryWf,
    State.setPxReq_memoryWf]

theorem State.landCopy_memoryWf {s : State} (r : PxReq) (srcHome srcSlot ext slot : Nat) (hm : s.memoryWf = true) :
    (s.landCopy r srcHome srcSlot ext slot).memoryWf = true := by
  grind [State.landCopy, State.formRun_memoryWf, State.addRun_memoryWf, State.replyFlit_memoryWf,
    State.retireMicro_memoryWf, State.setPxReq_memoryWf]

theorem State.refuseCopy_memoryWf {s : State} (r : PxReq) (detail : Nat) (hm : s.memoryWf = true) :
    (s.refuseCopy r detail).memoryWf = true := by
  grind [State.refuseCopy, State.replyFlit_memoryWf, State.setPxReq_memoryWf]

theorem State.copyAnswered_memoryWf {s : State} (r : PxReq) (hm : s.memoryWf = true) :
    (s.copyAnswered r).memoryWf = true := by
  grind [State.copyAnswered, State.raiseTrap_memoryWf, State.withdraw_memoryWf, State.wake_memoryWf]

theorem State.proxyCopy_memoryWf {s : State} (id : Nat) (hm : s.memoryWf = true) :
    (s.proxyCopy id).memoryWf = true := by
  unfold State.proxyCopy
  repeat' split
  all_goals grind [State.copyAnswered_memoryWf, State.readCopy_memoryWf, State.landCopy_memoryWf,
    State.reclaim_memoryWf, State.setPxReq_memoryWf, State.refuseCopy_memoryWf]

theorem execProxyCopy_memoryWf {s : State} (hm : s.memoryWf = true) {t : State} (e : execProxyCopy s = .next t) :
    t.memoryWf = true := by
  grind [execProxyCopy, State.proxyCopy_memoryWf]

/-! ### Bank contexts (R282 to R302) -/

theorem State.setBank_memoryWf {s : State} (chan cx : Nat) (k : Option BankCtx) (hm : s.memoryWf = true) :
    (s.setBank chan cx k).memoryWf = true := hm

theorem State.trapOwner_memoryWf {s : State} (l : BankLaunch) (chan code : Nat) (hm : s.memoryWf = true) :
    (s.trapOwner l chan code).memoryWf = true := State.updWarp_memoryWf _ _ _ hm

theorem State.bankReport_memoryWf {s : State} (l : BankLaunch) (chan : Nat) (code : Option Nat)
    (hm : s.memoryWf = true) : (s.bankReport l chan code).memoryWf = true := by
  unfold State.bankReport
  grind [State.arriveObj_memoryWf, State.noteArrival_memoryWf, State.trapOwner_memoryWf]

theorem State.bankStop_memoryWf {s : State} (chan cx : Nat) (k : BankCtx) (cause : Nat) (thread : Bool)
    (off : Option Word) (hm : s.memoryWf = true) : (s.bankStop chan cx k cause thread off).memoryWf = true := by
  unfold State.bankStop
  grind [State.bankReport_memoryWf, State.writeStatus_memoryWf, State.setBank_memoryWf]

theorem State.bankEnd_memoryWf {s : State} (chan cx : Nat) (k : BankCtx) (st : BankState) (hm : s.memoryWf = true) :
    (s.bankEnd chan cx k st).memoryWf = true := by
  grind [State.bankEnd, State.bankReport_memoryWf, State.writeStatus_memoryWf, State.setBank_memoryWf]

theorem State.bankStart_memoryWf {s : State} (chan cx : Nat) (l : BankLaunch) (hm : s.memoryWf = true) :
    (s.bankStart chan cx l).memoryWf = true := by
  grind [State.bankStart, State.writeBack_memoryWf, State.writeStatus_memoryWf, State.setBank_memoryWf,
    foldl_memoryWf]

theorem State.bankArrive_memoryWf {s : State} (l : BankLaunch) (chan : Nat) (hm : s.memoryWf = true) :
    (s.bankArrive l chan).memoryWf = true := by
  grind [State.bankArrive, State.bankStart_memoryWf, State.setChan_memoryWf]

theorem execBankLaunchStart_memoryWf {s : State} (hm : s.memoryWf = true) {t : State}
    (e : execBankLaunchStart s = .next t) : t.memoryWf = true := by
  grind [execBankLaunchStart, State.bankStart_memoryWf, State.setChan_memoryWf]

theorem State.loadRange_memoryWf {s : State} (a : Actx) (va n : Nat) (hm : s.memoryWf = true) :
    (s.loadRange a va n).2.memoryWf = true := by
  grind [State.loadRange, State.translateList_memoryWf]

theorem State.launchAll_memoryWf {s : State} (l : BankLaunch) (hm : s.memoryWf = true) :
    (s.launchAll l).memoryWf = true := by
  grind [State.launchAll, State.bankArrive_memoryWf, foldl_memoryWf]

theorem State.nctlDone_memoryWf {s : State} (a : Actx) (o : Opnds) (v : Word) (hm : s.memoryWf = true) :
    (s.nctlDone a o v).memoryWf = true := by
  grind [State.nctlDone, State.retire_memoryWf, State.startOp_memoryWf, State.loseIdemp_memoryWf]

theorem State.checkNotify_memoryWf {s : State} (a : Actx) (d : Nat) (hm : s.memoryWf = true) {t : State}
    (e : s.checkNotify a d = some t) : t.memoryWf = true := by
  grind [State.checkNotify, State.checkObj_memoryWf]

theorem State.launchFrom_memoryWf {s : State} (a : Actx) (o : Opnds) (d : Nat) (hm : s.memoryWf = true) :
    (s.launchFrom a o d).memoryWf = true := by
  grind [State.launchFrom, State.checkNotify_memoryWf, State.nctlDone_memoryWf, State.raiseAt_memoryWf,
    State.loadRange_memoryWf, State.dataFault_memoryWf, State.readAt_memoryWf, State.fresh_memoryWf,
    State.setCtx_memoryWf, State.launchAll_memoryWf]

theorem execNlaunch_memoryWf {s : State} (o : Opnds) (hm : s.memoryWf = true) {t : State}
    (e : execNlaunch o s = .next t) : t.memoryWf = true := by
  refine State.counted_memoryWf hm (fun _ _ _ => ?_) e
  grind [State.raiseAt_memoryWf, State.loadRange_memoryWf, State.dataFault_memoryWf, State.readAt_memoryWf,
    State.launchFrom_memoryWf, State.nctlDone_memoryWf]

theorem State.bankResume_memoryWf {s : State} (a : Actx) (mode : Nat) (h : Word) (chan : Nat) (hm : s.memoryWf = true) :
    (s.bankResume a mode h chan).1.memoryWf = true := by
  grind [State.bankResume, State.bankEnd_memoryWf, State.setBank_memoryWf]

theorem execNresume_memoryWf {s : State} (o : Opnds) (hm : s.memoryWf = true) {t : State}
    (e : execNresume o s = .next t) : t.memoryWf = true := by
  refine State.counted_memoryWf hm (fun _ _ _ => ?_) e
  grind [State.bankResume_memoryWf, State.nctlDone_memoryWf]

theorem State.noteNstat_memoryWf {s : State} (a : Actx) (h : Word) (chan : Nat) (hm : s.memoryWf = true) :
    (s.noteNstat a h chan).memoryWf = true := by
  grind [State.noteNstat, State.note_memoryWf, State.memoryWf_with]

theorem execNstat_memoryWf {s : State} (o : Opnds) (hm : s.memoryWf = true) {t : State} (e : execNstat o s = .next t) :
    t.memoryWf = true := by
  refine State.counted_memoryWf hm (fun _ _ _ => ?_) e
  grind [State.nctlDone_memoryWf, State.noteNstat_memoryWf]

theorem State.bankStopAt_memoryWf {s : State} (chan cx : Nat) (k : BankCtx) (arith : Bool) (i : Option Instr)
    (cause : Nat) (hm : s.memoryWf = true) :
    (s.bankStopAt chan cx k arith i cause).memoryWf = true := State.bankStop_memoryWf _ _ _ _ _ _ hm

theorem State.bankPut_memoryWf {s : State} (chan cx : Nat) (k : BankCtx) (hm : s.memoryWf = true) :
    (s.bankPut chan cx k).memoryWf = true := hm

theorem State.bankRun_memoryWf {s : State} (i : Instr) {act : State → Nat → Nat → BankCtx → State}
    (hm : s.memoryWf = true) (hact : ∀ (u : State) chan cx k, u.memoryWf = true → (act u chan cx k).memoryWf = true) :
    (s.bankRun i act).memoryWf = true := by
  grind [State.bankRun, State.bankStopAt_memoryWf]

theorem State.bankOp_memoryWf {s : State} {i : Instr} {f : BankCtx → BankCtx} (hm : s.memoryWf = true) {t : State}
    (e : s.bankOp i f = .next t) : t.memoryWf = true := by
  cases e
  exact State.bankRun_memoryWf _ hm fun _ _ _ _ hu => State.bankPut_memoryWf _ _ _ hu

theorem execNli_memoryWf {s : State} (d : BitVec 4) (imm : BitVec 16) (hm : s.memoryWf = true) {t : State}
    (e : execNli d imm s = .next t) : t.memoryWf = true := State.bankOp_memoryWf hm e

theorem execNliH_memoryWf {s : State} (d : BitVec 4) (imm : BitVec 16) (hm : s.memoryWf = true) {t : State}
    (e : execNliH d imm s = .next t) : t.memoryWf = true := State.bankOp_memoryWf hm e

theorem execNadd_memoryWf {s : State} (d a b : BitVec 4) (hm : s.memoryWf = true) {t : State}
    (e : execNadd d a b s = .next t) : t.memoryWf = true := State.bankOp_memoryWf hm e

theorem execNaddi_memoryWf {s : State} (d a : BitVec 4) (imm : BitVec 16) (hm : s.memoryWf = true) {t : State}
    (e : execNaddi d a imm s = .next t) : t.memoryWf = true := State.bankOp_memoryWf hm e

theorem execNshl_memoryWf {s : State} (d a : BitVec 4) (n : BitVec 5) (hm : s.memoryWf = true) {t : State}
    (e : execNshl d a n s = .next t) : t.memoryWf = true := State.bankOp_memoryWf hm e

theorem execNbr_memoryWf {s : State} (c : BankCmp) (d a : BitVec 4) (imm : BitVec 16) (hm : s.memoryWf = true)
    {t : State} (e : execNbr c d a imm s = .next t) : t.memoryWf = true := by
  cases e
  exact State.bankRun_memoryWf _ hm fun _ _ _ _ hu => State.bankPut_memoryWf _ _ _ hu

theorem State.activateRow_memoryWf {s : State} (chan bank row : Nat) (hm : s.memoryWf = true) :
    (s.activateRow chan bank row).memoryWf = true := hm

theorem State.columnDone_memoryWf {s : State} (chan cx : Nat) (k : BankCtx) (hm : s.memoryWf = true) :
    (s.columnDone chan cx k).memoryWf = true := by
  grind [State.columnDone, State.bankPut_memoryWf, State.setChan_memoryWf, State.writeStatus_memoryWf]

theorem State.columnRead_memoryWf {s : State} (i : Instr) (a : BitVec 4) (ref : Bool) (age : Nat)
    (hm : s.memoryWf = true) : (s.columnRead i a ref age).memoryWf = true := by
  refine State.bankRun_memoryWf _ hm fun u chan cx k hu => ?_
  grind [State.readOnce_memoryWf, State.activateRow_memoryWf, State.setChan_memoryWf, State.columnDone_memoryWf]

theorem State.columnWrite_memoryWf {s : State} (a : BitVec 4) (hm : s.memoryWf = true) :
    (s.columnWrite a).memoryWf = true := by
  refine State.bankRun_memoryWf _ hm fun u chan cx k hu => ?_
  grind [State.columnDone_memoryWf, State.writePhys_memoryWf, State.memoryWf_with]

theorem execCrd_memoryWf {s : State} (a : BitVec 4) (hm : s.memoryWf = true) {t : State} (e : execCrd a s = .next t) :
    t.memoryWf = true := by
  grind [execCrd, State.columnRead_memoryWf]

theorem execCrdRef_memoryWf {s : State} (a : BitVec 4) (hm : s.memoryWf = true) {t : State}
    (e : execCrdRef a s = .next t) : t.memoryWf = true := by
  grind [execCrdRef, State.columnRead_memoryWf]

theorem execWr_memoryWf {s : State} (a : BitVec 4) (hm : s.memoryWf = true) {t : State} (e : execWr a s = .next t) :
    t.memoryWf = true := by
  grind [execWr, State.columnWrite_memoryWf]

theorem execBpop_memoryWf {s : State} (d : BitVec 4) (hm : s.memoryWf = true) {t : State} (e : execBpop d s = .next t) :
    t.memoryWf = true := State.bankOp_memoryWf hm e

theorem execNend_memoryWf {s : State} (hm : s.memoryWf = true) {t : State} (e : execNend s = .next t) :
    t.memoryWf = true := by
  cases e
  exact State.bankRun_memoryWf _ hm fun _ _ _ _ hu => State.bankPut_memoryWf _ _ _ hu

theorem execXget_memoryWf {s : State} (d : BitVec 4) (w : BitVec 3) (hm : s.memoryWf = true) {t : State}
    (e : execXget d w s = .next t) : t.memoryWf = true := State.bankOp_memoryWf hm e

theorem execXnext_memoryWf {s : State} (hm : s.memoryWf = true) {t : State} (e : execXnext s = .next t) :
    t.memoryWf = true := State.bankOp_memoryWf hm e

theorem execXcadd_memoryWf {s : State} (m : BankMode) (d : BitVec 4) (hm : s.memoryWf = true) {t : State}
    (e : execXcadd m d s = .next t) : t.memoryWf = true := State.bankOp_memoryWf hm e

theorem execXli_memoryWf {s : State} (d : BitVec 4) (imm : BitVec 16) (hm : s.memoryWf = true) {t : State}
    (e : execXli d imm s = .next t) : t.memoryWf = true := State.bankOp_memoryWf hm e

theorem execXliF2_memoryWf {s : State} (d : BitVec 4) (imm : BitVec 16) (hm : s.memoryWf = true) {t : State}
    (e : execXliF2 d imm s = .next t) : t.memoryWf = true := State.bankOp_memoryWf hm e

theorem execXadd_memoryWf {s : State} (m : BankMode) (d a b : BitVec 4) (hm : s.memoryWf = true) {t : State}
    (e : execXadd m d a b s = .next t) : t.memoryWf = true := State.bankOp_memoryWf hm e

theorem execXsub_memoryWf {s : State} (m : BankMode) (d a b : BitVec 4) (hm : s.memoryWf = true) {t : State}
    (e : execXsub m d a b s = .next t) : t.memoryWf = true := State.bankOp_memoryWf hm e

theorem execXmul_memoryWf {s : State} (m : BankMode) (d a b : BitVec 4) (hm : s.memoryWf = true) {t : State}
    (e : execXmul m d a b s = .next t) : t.memoryWf = true := State.bankOp_memoryWf hm e

theorem execXfma_memoryWf {s : State} (m : BankMode) (d a b c : BitVec 4) (hm : s.memoryWf = true) {t : State}
    (e : execXfma m d a b c s = .next t) : t.memoryWf = true := State.bankOp_memoryWf hm e

theorem execXmin_memoryWf {s : State} (m : BankMode) (d a b : BitVec 4) (hm : s.memoryWf = true) {t : State}
    (e : execXmin m d a b s = .next t) : t.memoryWf = true := State.bankOp_memoryWf hm e

theorem execXmax_memoryWf {s : State} (m : BankMode) (d a b : BitVec 4) (hm : s.memoryWf = true) {t : State}
    (e : execXmax m d a b s = .next t) : t.memoryWf = true := State.bankOp_memoryWf hm e

theorem execXlop_memoryWf {s : State} (op : BankLop) (d a b : BitVec 4) (hm : s.memoryWf = true) {t : State}
    (e : execXlop op d a b s = .next t) : t.memoryWf = true := State.bankOp_memoryWf hm e

theorem execXhsum_memoryWf {s : State} (m : BankMode) (d a : BitVec 4) (hm : s.memoryWf = true) {t : State}
    (e : execXhsum m d a s = .next t) : t.memoryWf = true := State.bankOp_memoryWf hm e

theorem execXsend_memoryWf {s : State} (a : BitVec 4) (hm : s.memoryWf = true) {t : State}
    (e : execXsend a s = .next t) : t.memoryWf = true := State.bankOp_memoryWf hm e

theorem execXbr_memoryWf {s : State} (c : BankCmp) (d a : BitVec 4) (imm : BitVec 16) (hm : s.memoryWf = true)
    {t : State} (e : execXbr c d a imm s = .next t) : t.memoryWf = true := by
  cases e
  exact State.bankRun_memoryWf _ hm fun _ _ _ _ hu => State.bankPut_memoryWf _ _ _ hu

theorem execXend_memoryWf {s : State} (hm : s.memoryWf = true) {t : State} (e : execXend s = .next t) :
    t.memoryWf = true := by
  cases e
  exact State.bankRun_memoryWf _ hm fun _ _ _ _ hu => State.bankPut_memoryWf _ _ _ hu

theorem State.bankDue_memoryWf {s : State} (chan cx : Nat) (arith : Bool) (age : Nat) (hm : s.memoryWf = true) :
    (s.bankDue chan cx arith age).1.memoryWf = true := by
  grind [State.bankDue, State.bankStopAt_memoryWf, State.memoryWf_with]

theorem execBankContextStop_memoryWf {s : State} (hm : s.memoryWf = true) {t : State}
    (e : execBankContextStop s = .next t) : t.memoryWf = true := by
  grind [execBankContextStop, State.bankStopAt_memoryWf]

theorem execBankContextDone_memoryWf {s : State} (hm : s.memoryWf = true) {t : State}
    (e : execBankContextDone s = .next t) : t.memoryWf = true := by
  grind [execBankContextDone, State.bankEnd_memoryWf]

theorem execRefresh_memoryWf {s : State} (hm : s.memoryWf = true) {t : State} (e : execRefresh s = .next t) :
    t.memoryWf = true := by
  grind [execRefresh, State.setChan_memoryWf]

theorem execTargetedRefresh_memoryWf {s : State} (hm : s.memoryWf = true) {t : State}
    (e : execTargetedRefresh s = .next t) : t.memoryWf = true := by
  grind [execTargetedRefresh, State.setChan_memoryWf]

theorem State.burstCommand_memoryWf {s : State} (chan : Nat) (hm : s.memoryWf = true) :
    (s.burstCommand chan).memoryWf = true := by
  grind [State.burstCommand, State.takeSnapshot_memoryWf, State.proxyCopy_memoryWf, State.proxyOperate_memoryWf,
    State.columnRead_memoryWf, State.columnWrite_memoryWf, State.memoryWf_with]

theorem execBsuBurst_memoryWf {s : State} (hm : s.memoryWf = true) {t : State} (e : execBsuBurst s = .next t) :
    t.memoryWf = true := by
  cases e
  exact State.setChan_memoryWf _ _
    (State.memoryWf_with (foldl_memoryWf _ (fun _ _ h => State.burstCommand_memoryWf _ h) _ hm) ..)

theorem State.loseHome_memoryWf {s : State} (home : Nat) (hm : s.memoryWf = true) :
    (s.loseHome home).memoryWf = true := by
  grind [State.loseHome, State.withdraw_memoryWf, State.replyFlit_memoryWf, State.setHome_memoryWf,
    State.reap_memoryWf, foldl_memoryWf, State.memoryWf_with]

theorem State.resetBank_memoryWf {s : State} (chan : Nat) (hm : s.memoryWf = true) :
    (s.resetBank chan).memoryWf = true := by
  grind [State.resetBank, State.bankEnd_memoryWf, State.setChan_memoryWf, State.bankReport_memoryWf,
    State.writeStatus_memoryWf, foldl_memoryWf]

theorem execBsuWatchdogReset_memoryWf {s : State} (hm : s.memoryWf = true) {t : State}
    (e : execBsuWatchdogReset s = .next t) : t.memoryWf = true := by
  grind [execBsuWatchdogReset, State.resetBank_memoryWf, State.loseHome_memoryWf]

end Sys2Proof.Machine
end

section
/-!
PROOF. Every operation of the machine keeps the memories in canonical form (O6), continued.
-/
namespace Sys2Proof.Machine
open Sys2Proof

/-! ### Placement of blocks (R90, R91) -/

theorem State.takeUp_memoryWf {s : State} (core ctx : Nat) (hm : s.memoryWf = true) :
    (s.takeUp core ctx).memoryWf = true := by
  grind [State.takeUp, State.setCore_memoryWf]

theorem State.dropShrinks_memoryWf {s : State} (record : Nat) (hm : s.memoryWf = true) :
    (s.dropShrinks record).memoryWf = true := by
  grind [State.dropShrinks, Block.dropReshape_memoryWf, State.mem_blocks_memoryWf, State.memoryWf_withBlocks]

theorem State.noteStart_memoryWf {s : State} (b : Block) (r : Record) (core : Nat) (hm : s.memoryWf = true) :
    (s.noteStart b r core).memoryWf = true := by
  grind [State.noteStart, State.fresh_memoryWf, State.note_memoryWf, foldl_memoryWf]

theorem State.startBlock_memoryWf {s : State} (r : Record) (k : KObj) (vi : Nat) (v : Variant) (core : Nat)
    (at_ : Nat × Nat) (areas : List Nat) (hm : s.memoryWf = true) :
    (s.startBlock r k vi v core at_ areas).memoryWf = true := by
  have htake := State.dropShrinks_memoryWf r.id
    (State.takeUp_memoryWf (s := { s with nextId := s.nextId + 1, drawn := s.drawn + 1 }) core r.ctx hm)
  refine State.noteStart_memoryWf _ _ _ (State.setRecord_memoryWf _ (State.memoryWf_withBlocks htake _ (fun b hb => ?_) ..))
  obtain hb | hb := List.mem_append.1 hb
  · exact State.mem_blocks_memoryWf htake hb
  · rw [List.mem_singleton.1 hb]
    exact Block.memoryWf_of_empty rfl rfl

theorem State.placeBlock_memoryWf {s : State} (r : Record) (k : KObj) (vi : Nat) (v : Variant) (core : Nat)
    (at_ : Nat × Nat) (areas : List Nat) (hm : s.memoryWf = true) :
    (s.placeBlock r k vi v core at_ areas).memoryWf = true := by
  grind [State.placeBlock, State.startBlock_memoryWf, State.spoilBlock_memoryWf]

theorem State.placeAgain_memoryWf {s : State} (b : Block) (r : Record) (k : KObj) (vi : Nat) (v : Variant)
    (core : Nat) (at_ : Nat × Nat) (hm : s.memoryWf = true) : (s.placeAgain b r k vi v core at_).memoryWf = true := by
  grind [State.placeAgain, State.noteStart_memoryWf, State.setBlock_memoryWf_of_block, State.takeUp_memoryWf,
    State.spoilBlock_memoryWf, State.memoryWf_with, Block.memoryWf_of_empty]

theorem State.withdrawAll_memoryWf {s : State} (b : Block) (hm : s.memoryWf = true) :
    (s.withdrawAll b).memoryWf = true := by
  grind [State.withdrawAll, State.withdraw_memoryWf, foldl_memoryWf]

theorem State.freeHolder_memoryWf {s : State} (core b : Nat) (hm : s.memoryWf = true) :
    (s.freeHolder core b).memoryWf = true := by
  grind [State.freeHolder, State.setCore_memoryWf]

theorem State.fillSave_memoryWf {s : State} (ctx : Nat) (hm : s.memoryWf = true) :
    (s.fillSave ctx).memoryWf = true := State.fillVirt_memoryWf _ _ _ _ hm

theorem State.saveBlock_memoryWf {s : State} (bid : Nat) (loc : Where) (hm : s.memoryWf = true) :
    (s.saveBlock bid loc).memoryWf = true := by
  unfold State.saveBlock
  grind [State.block?_memoryWf, State.withdrawAll_memoryWf, State.setBlock_memoryWf_of_block,
    Block.spoilSwitches_memoryWf, State.fillSave_memoryWf, State.vacate_memoryWf, State.freeHolder_memoryWf,
    Block.memoryWf_with]

theorem State.abortBlock_memoryWf {s : State} (bid : Nat) (hm : s.memoryWf = true) :
    (s.abortBlock bid).memoryWf = true := by
  unfold State.abortBlock
  grind [State.endWarp_memoryWf, State.vacate_memoryWf, State.freeHolder_memoryWf, State.setBlock_memoryWf_of_block,
    foldl_memoryWf, State.memoryWf_with, Block.memoryWf_of_empty]

theorem State.routePairs_memoryWf {s : State} (bid core : Nat) (hm : s.memoryWf = true) :
    (s.routePairs bid core).memoryWf = true := hm

theorem State.carryMarks_memoryWf {s : State} (old core : Nat) (hm : s.memoryWf = true) :
    (s.carryMarks old core).memoryWf = true := by
  grind [State.carryMarks, State.memoryWf_with]

theorem State.restoreBlock_memoryWf {s : State} (b : Block) (core : Nat) (at_ : Nat × Nat) (hb : b.memoryWf)
    (hm : s.memoryWf = true) : (s.restoreBlock b core at_).memoryWf = true := by
  grind [State.restoreBlock, State.carryMarks_memoryWf, State.routePairs_memoryWf, State.setBlock_memoryWf_of_block,
    State.takeUp_memoryWf, Block.memoryWf_with]

/-! ### Traps and contexts (R304 to R321) -/

theorem execCsrr_memoryWf {s : State} (o : Opnds) (hm : s.memoryWf = true) {t : State} (e : execCsrr o s = .next t) :
    t.memoryWf = true := by
  refine State.run_memoryWf hm (fun _ _ _ => ?_) e
  grind [State.retire_memoryWf, State.wrSc_memoryWf]

theorem execEngErrRead_memoryWf {s : State} (o : Opnds) (hm : s.memoryWf = true) {t : State}
    (e : execEngErrRead o s = .next t) : t.memoryWf = true := by
  refine State.run_memoryWf hm (fun _ _ _ => ?_) e
  grind [State.retire_memoryWf, State.setCore_memoryWf, State.wrSc_memoryWf]

theorem State.csrWrite_memoryWf {s : State} (o : Opnds) (hm : s.memoryWf = true) {t : State}
    (e : s.csrWrite o = .next t) : t.memoryWf = true := by
  refine State.run_memoryWf hm (fun _ _ _ => ?_) e
  grind [State.blockSlot_memoryWf, State.pushOp_memoryWf, State.loseIdemp_memoryWf]

theorem execCsrw_memoryWf {s : State} (o : Opnds) (hm : s.memoryWf = true) {t : State} (e : execCsrw o s = .next t) :
    t.memoryWf = true := State.csrWrite_memoryWf _ hm e

theorem execPxLostClear_memoryWf {s : State} (o : Opnds) (hm : s.memoryWf = true) {t : State}
    (e : execPxLostClear o s = .next t) : t.memoryWf = true := State.csrWrite_memoryWf _ hm e

theorem State.trapReturn_memoryWf {s : State} (o : Opnds) (skip : Bool) (hm : s.memoryWf = true) {t : State}
    (e : s.trapReturn o skip = .next t) : t.memoryWf = true := by
  refine State.run_memoryWf hm (fun _ _ _ => ?_) e
  grind [State.raise_memoryWf, State.updWarp_memoryWf, State.dropHandler_memoryWf]

theorem execTret_memoryWf {s : State} (o : Opnds) (hm : s.memoryWf = true) {t : State} (e : execTret o s = .next t) :
    t.memoryWf = true := State.trapReturn_memoryWf _ _ hm e

theorem execTretSkip_memoryWf {s : State} (o : Opnds) (hm : s.memoryWf = true) {t : State}
    (e : execTretSkip o s = .next t) : t.memoryWf = true := State.trapReturn_memoryWf _ _ hm e

theorem State.stopSlot_memoryWf {s : State} (b wi slot now : Nat) (rest : List AsyncTrap) (t : Trap)
    (hm : s.memoryWf = true) : (s.stopSlot b wi slot now rest t).memoryWf = true := by
  grind [State.stopSlot, State.updWarp_memoryWf, State.withdraw_memoryWf]

theorem State.takeAsync_memoryWf {s : State} (blk : Block) (wi : Nat) (w : Warp) (hm : s.memoryWf = true) :
    (s.takeAsync blk wi w).memoryWf = true := by
  grind [State.takeAsync, State.terminate_memoryWf, State.tryEnter_memoryWf, State.stopSlot_memoryWf,
    State.memoryWf_with]

theorem execTrapEntry_memoryWf {s : State} (hm : s.memoryWf = true) {t : State} (e : execTrapEntry s = .next t) :
    t.memoryWf = true := by
  grind [execTrapEntry, State.tryEnter_memoryWf, State.takeAsync_memoryWf]

theorem execBlockTerminate_memoryWf {s : State} (hm : s.memoryWf = true) {t : State}
    (e : execBlockTerminate s = .next t) : t.memoryWf = true := by
  grind [execBlockTerminate, State.tryTerminate_memoryWf]

theorem execPreempt_memoryWf {s : State} (hm : s.memoryWf = true) {t : State} (e : execPreempt s = .next t) :
    t.memoryWf = true := by
  grind [execPreempt, State.saveBlock_memoryWf]

theorem execIfaultSwapOut_memoryWf {s : State} (hm : s.memoryWf = true) {t : State}
    (e : execIfaultSwapOut s = .next t) : t.memoryWf = true := by
  grind [execIfaultSwapOut, State.saveBlock_memoryWf]

theorem execBlockReplay_memoryWf {s : State} (hm : s.memoryWf = true) {t : State} (e : execBlockReplay s = .next t) :
    t.memoryWf = true := by
  grind [execBlockReplay, State.abortBlock_memoryWf]

theorem execFaultRecordWrite_memoryWf {s : State} (hm : s.memoryWf = true) {t : State}
    (e : execFaultRecordWrite s = .next t) : t.memoryWf = true := by
  grind [execFaultRecordWrite, State.writeHeld_memoryWf]

theorem execFrHeadWrite_memoryWf {s : State} (hm : s.memoryWf = true) {t : State} (e : execFrHeadWrite s = .next t) :
    t.memoryWf = true := by
  grind [execFrHeadWrite, State.setCtx_memoryWf, State.memoryWf_with]

theorem State.endPageWait_memoryWf {s : State} (id : Nat) (hm : s.memoryWf = true) :
    (s.endPageWait id).memoryWf = true := hm

theorem State.toResume_memoryWf {s : State} (bid id : Nat) (loc : Where) (hm : s.memoryWf = true) :
    (s.toResume bid id loc).memoryWf = true := by
  grind [State.toResume, State.mem_blocks_memoryWf, State.memoryWf_withBlocks, Block.memoryWf_with]

theorem State.endFault_memoryWf {s : State} (f : FaultWait) (reason : Option Nat) (hm : s.memoryWf = true) :
    (s.endFault f reason).memoryWf = true := by
  grind [State.endFault, State.endPageWait_memoryWf, State.updWarp_memoryWf, State.raiseTrap_memoryWf,
    State.toResume_memoryWf, State.memoryWf_with]

theorem execFaultRewalk_memoryWf {s : State} (hm : s.memoryWf = true) {t : State} (e : execFaultRewalk s = .next t) :
    t.memoryWf = true := by
  grind [execFaultRewalk, State.endFault_memoryWf, State.postRecord_memoryWf, State.memoryWf_with]

theorem execContextLoad_memoryWf {s : State} (hm : s.memoryWf = true) {t : State} (e : execContextLoad s = .next t) :
    t.memoryWf = true := by
  grind [execContextLoad, State.setCtx_memoryWf, State.memoryWf_with]

theorem State.bindOffAll_memoryWf {s : State} (ctx : Nat) (hm : s.memoryWf = true) :
    (s.bindOffAll ctx).memoryWf = true := by
  grind [State.bindOffAll, State.bindOff_memoryWf, foldl_memoryWf]

theorem State.freeProxies_memoryWf {s : State} (ctx : Nat) (hm : s.memoryWf = true) :
    (s.freeProxies ctx).memoryWf = true := hm

theorem State.endBanks_memoryWf {s : State} (ctx : Nat) (hm : s.memoryWf = true) :
    (s.endBanks ctx).memoryWf = true := by
  grind [State.endBanks, State.bankEnd_memoryWf, State.setChan_memoryWf, State.writeStatus_memoryWf, foldl_memoryWf]

theorem State.forget_memoryWf {s : State} (ctx : Nat) (hm : s.memoryWf = true) : (s.forget ctx).memoryWf = true := by
  grind [State.forget, State.mem_blocks_memoryWf, State.memoryWf_withBlocks]

theorem execContextKill_memoryWf {s : State} (hm : s.memoryWf = true) {t : State} (e : execContextKill s = .next t) :
    t.memoryWf = true := by
  grind [execContextKill, State.setCtx_memoryWf, State.forget_memoryWf, State.freeProxies_memoryWf,
    State.bindOffAll_memoryWf, State.endBanks_memoryWf]

theorem execContextStop_memoryWf {s : State} (hm : s.memoryWf = true) {t : State} (e : execContextStop s = .next t) :
    t.memoryWf = true := by
  grind [execContextStop, State.setCtx_memoryWf, State.mem_blocks_memoryWf, State.memoryWf_withBlocks,
    Block.memoryWf_with]

theorem execContextResume_memoryWf {s : State} (hm : s.memoryWf = true) {t : State}
    (e : execContextResume s = .next t) : t.memoryWf = true := by
  grind [execContextResume, State.setCtx_memoryWf]

theorem execHostTlbInvalidate_memoryWf {s : State} (hm : s.memoryWf = true) {t : State}
    (e : execHostTlbInvalidate s = .next t) : t.memoryWf = true := by
  grind [execHostTlbInvalidate, State.shootDown_memoryWf]

/-! ### Spawns, joins and switches (R100 to R107) -/

theorem State.recordAt_memoryWf {s : State} {a : Actx} {va : Nat} {acc : Access} (hm : s.memoryWf = true) :
    (∀ {t : State}, s.recordAt a va acc = .error t → t.memoryWf = true) ∧ ∀ {pa : Nat} {t : State}, s.recordAt a va
    acc = .ok (pa, t) → t.memoryWf = true := by
  have hx := State.translate_memoryWf a.core a.blk.ctx va acc false hm
  unfold State.recordAt
  constructor
  all_goals
    intros
    rename_i e
    grind [State.raiseAt_memoryWf, State.dataFault_memoryWf, State.misuse_memoryWf]

theorem State.spawned_memoryWf {s : State} (a : Actx) (o : Opnds) (v : Word) (hm : s.memoryWf = true) :
    (s.spawned a o v).memoryWf = true := by
  grind [State.spawned, State.retire_memoryWf, State.startOp_memoryWf, State.loseIdemp_memoryWf]

theorem execSpawn_memoryWf {s : State} (o : Opnds) (hm : s.memoryWf = true) {t : State} (e : execSpawn o s = .next t) :
    t.memoryWf = true := by
  refine State.counted_memoryWf hm (fun a m _ => ?_) e
  clear e
  dsimp only
  split
  · exact hm
  · split
    · exact (State.recordAt_memoryWf hm).1 ‹_›
    · rename_i pa s1 hr
      have hs1 := (State.recordAt_memoryWf hm).2 hr
      have hread := State.readAt_memoryWf (MemTag.warp a.bid a.wi a.core s1.nextId) ((List.range 64).map (pa + ·)) s1.memTime hs1
      clear hr
      repeat' split
      all_goals grind [State.raise_memoryWf, State.dataFault_memoryWf, State.spawned_memoryWf, State.fresh_memoryWf,
        State.pushRing_memoryWf]

theorem execJdec_memoryWf {s : State} (o : Opnds) (hm : s.memoryWf = true) {t : State} (e : execJdec o s = .next t) :
    t.memoryWf = true := by
  refine State.counted_memoryWf hm (fun a m _ => ?_) e
  clear e
  dsimp only
  split
  · exact (State.recordAt_memoryWf hm).1 ‹_›
  · rename_i pa s1 hr
    have hs1 := (State.recordAt_memoryWf hm).2 hr
    have hload := State.loadBytes_memoryWf ((List.range 64).map (pa + ·)) hs1
    split
    · exact hs1
    · split
      · exact State.raise_memoryWf _ _ _ hload
      · split
        · exact hload
        · exact State.retire_memoryWf _ (State.updWarp_memoryWf _ _ _ (State.memoryWf_with
            (State.pushOp_memoryWf _ _ _ _ (State.loseIdemp_memoryWf _ hload)) ..))

theorem execRbacq_memoryWf {s : State} (o : Opnds) (hm : s.memoryWf = true) {t : State} (e : execRbacq o s = .next t) :
    t.memoryWf = true := by
  refine State.run_memoryWf hm (fun _ _ _ => ?_) e
  grind [State.raise_memoryWf, State.retire_memoryWf, State.updWarp_memoryWf, State.setCore_memoryWf,
    State.blockSlot_memoryWf]

theorem State.unpark_memoryWf {s : State} (core : Nat) (p : Nat × Nat × Nat × Nat × Nat) (hm : s.memoryWf = true) :
    (s.unpark core p).memoryWf = true := hm

theorem State.endPark_memoryWf {s : State} (a : Actx) (core : Nat) (p : Nat × Nat × Nat × Nat × Nat)
    (hm : s.memoryWf = true) : (s.endPark a core p).memoryWf = true := by
  grind [State.endPark, State.raise_memoryWf, State.wake_memoryWf, State.unpark_memoryWf]

theorem execRbacqWake_memoryWf {s : State} (hm : s.memoryWf = true) {t : State} (e : execRbacqWake s = .next t) :
    t.memoryWf = true := by
  grind [execRbacqWake, State.unpark_memoryWf, State.endPark_memoryWf, State.wake_memoryWf, State.retire_memoryWf,
    State.updWarp_memoryWf]

theorem execRegexh_memoryWf {s : State} (hm : s.memoryWf = true) {t : State} (e : execRegexh s = .next t) :
    t.memoryWf = true := by
  grind [execRegexh, State.endPark_memoryWf]

theorem execRbrel_memoryWf {s : State} (o : Opnds) (hm : s.memoryWf = true) {t : State} (e : execRbrel o s = .next t) :
    t.memoryWf = true := by
  refine State.run_memoryWf hm (fun _ _ _ => ?_) e
  grind [State.raise_memoryWf, State.updWarp_memoryWf, State.dropRefs_memoryWf, State.setCore_memoryWf,
    State.retire_memoryWf]

theorem State.readTable_memoryWf {s : State} (a : Actx) (va n : Nat) (hm : s.memoryWf = true) :
    (s.readTable a va n).2.memoryWf = true := by
  grind [State.readTable, State.translateList_memoryWf, State.loadBytes_memoryWf]

theorem State.choosePhase_memoryWf {s : State} (a : Actx) (o : Opnds) (k : KObj) (kobj n : Nat)
    (es : List (Nat × Nat)) (hm : s.memoryWf = true) : (s.choosePhase a o k kobj n es).memoryWf = true := by
  grind [State.choosePhase, State.raise_memoryWf, State.retire_memoryWf, State.wrSc_memoryWf, State.block?_memoryWf,
    State.setBlock_memoryWf_of_block, State.goto_memoryWf, Block.memoryWf_with]

theorem execPhase_memoryWf {s : State} (o : Opnds) (hm : s.memoryWf = true) {t : State} (e : execPhase o s = .next t) :
    t.memoryWf = true := by
  refine State.run_memoryWf hm (fun _ _ _ => ?_) e
  grind [State.retire_memoryWf, State.wrSc_memoryWf, State.readTable_memoryWf, State.dataFault_memoryWf,
    State.raise_memoryWf, State.choosePhase_memoryWf]

theorem State.endSwitch_memoryWf {s : State} (bid k : Nat) (hm : s.memoryWf = true) :
    (s.endSwitch bid k).memoryWf = true := by
  grind [State.endSwitch, State.block?_memoryWf, State.setBlock_memoryWf_of_block, Block.memoryWf_with]

theorem State.noSwitch_memoryWf {s : State} (bid : Nat) (x : SwitchWait) (hm : s.memoryWf = true) :
    (s.noSwitch bid x).memoryWf = true := by
  grind [State.noSwitch, State.retire_memoryWf, State.endSwitch_memoryWf, foldl_memoryWf]

theorem State.endGrace_memoryWf {s : State} (b : Block) (now : Nat) (hm : s.memoryWf = true) :
    (s.endGrace b now).memoryWf = true := by
  grind [State.endGrace, State.noSwitch_memoryWf, foldl_memoryWf]

theorem execSwpt_memoryWf {s : State} (o : Opnds) (hm : s.memoryWf = true) {t : State} (e : execSwpt o s = .next t) :
    t.memoryWf = true := by
  refine State.run_memoryWf hm (fun _ _ _ => ?_) e
  grind [State.retire_memoryWf, State.blockSlot_memoryWf, State.endGrace_memoryWf, State.block?_memoryWf,
    State.setBlock_memoryWf_of_block, Block.arriveSwitch_memoryWf]

theorem State.badSwitch_memoryWf {s : State} (bid : Nat) (x : SwitchWait) (hm : s.memoryWf = true) :
    (s.badSwitch bid x).memoryWf = true := by
  grind [State.badSwitch, State.raiseTrap_memoryWf, State.wake_memoryWf, State.endSwitch_memoryWf, foldl_memoryWf]

theorem execSwitchGraceExpiry_memoryWf {s : State} (hm : s.memoryWf = true) {t : State}
    (e : execSwitchGraceExpiry s = .next t) : t.memoryWf = true := by
  grind [execSwitchGraceExpiry, State.endGrace_memoryWf]

/-- Units moved between stores of a switch stand in order (R101). -/
theorem movedCells_wf {α : Type} [DecidableEq α] (d : α) (old : List (Nat × α)) (es : List MapEntry)
    (kind width : Nat) : cellWf d (movedCells d old es kind width) = true := by
  unfold movedCells
  refine List.foldlRecOn _ _ (motive := fun m => cellWf d m = true) rfl fun m hm e _ => ?_
  exact List.foldlRecOn _ _ (motive := fun m => cellWf d m = true) hm fun m hm i _ => cellPut_wf _ _ hm

theorem State.applySwitch_memoryWf {s : State} (b : Block) (core : Nat) (r : Record) (q : Reshape) (m : SwitchMap)
    (v : Variant) (hm : s.memoryWf = true) : (s.applySwitch b core r q m v).memoryWf = true := by
  unfold State.applySwitch
  extract_lets pc s1
  have hs1 : s1.memoryWf = true := foldl_memoryWf _ (fun u i hu => by
    grind [State.endWarp_memoryWf, State.dropRefs_memoryWf, State.endPairs_memoryWf]) _ hm
  clear_value s1
  split
  · exact State.freeHolder_memoryWf _ _ (State.setRecord_memoryWf _ (State.setBlock_memoryWf hs1
      (movedCells_wf ..) (movedCells_wf ..)))
  · exact hs1

theorem State.passSwitch_memoryWf {s : State} (b : Block) (core : Nat) (x : SwitchWait) (r : Record) (q : Reshape)
    (m : SwitchMap) (v : Variant) (hb : b.memoryWf) (hm : s.memoryWf = true) :
    (s.passSwitch b core x r q m v).memoryWf = true := by
  grind [State.passSwitch, State.applySwitch_memoryWf, State.setBlock_memoryWf_of_block, Block.memoryWf_with]

theorem State.decideSwitch_memoryWf {s : State} (b : Block) (core : Nat) (x : SwitchWait) (hb : b.memoryWf)
    (hm : s.memoryWf = true) : (s.decideSwitch b core x).memoryWf = true := by
  unfold State.decideSwitch
  repeat' split
  all_goals grind [State.withdraw_memoryWf, State.wake_memoryWf, State.dataFault_memoryWf, State.noSwitch_memoryWf,
    State.badSwitch_memoryWf, State.passSwitch_memoryWf]

theorem execSwitchApply_memoryWf {s : State} (hm : s.memoryWf = true) {t : State} (e : execSwitchApply s = .next t) :
    t.memoryWf = true := by
  grind [execSwitchApply, State.block?_memoryWf, State.decideSwitch_memoryWf]

/-! ### Queues, quanta and dispatch (R87 to R95) -/

theorem State.lookObj_memoryWf {s : State} (die ctx kobj : Nat) (hm : s.memoryWf = true) :
    (s.lookObj die ctx kobj).memoryWf = true := by
  grind [State.lookObj, State.translateDie_memoryWf, foldl_memoryWf, State.memoryWf_with]

theorem State.advanceHead_memoryWf {s : State} (ctx q : Nat) (hm : s.memoryWf = true) :
    (s.advanceHead ctx q).memoryWf = true := by
  grind [State.advanceHead, State.setHead_memoryWf, State.memoryWf_with]

theorem State.claim_memoryWf {s : State} (h : Head) (hm : s.memoryWf = true) : (s.claim h).2.memoryWf = true := by
  grind [State.claim, State.fresh_memoryWf, State.memoryWf_with]

theorem State.discardHead_memoryWf {s : State} (h : Head) (hm : s.memoryWf = true) :
    (s.discardHead h).memoryWf = true := by
  grind [State.discardHead, State.queueError_memoryWf, State.advanceHead_memoryWf, State.memoryWf_with]

theorem State.holdHead_memoryWf {s : State} (h : Head) (va : Nat) (hm : s.memoryWf = true) :
    (s.holdHead h va).memoryWf = true := by
  grind [State.holdHead, State.claim_memoryWf, State.draw_memoryWf, State.pageWait_memoryWf, State.setRecord_memoryWf]

theorem State.placeNext_memoryWf {s : State} (cluster : Nat) (h : Head) (k : KObj) (hm : s.memoryWf = true)
    {t : State} (e : s.placeNext cluster h k = some t) : t.memoryWf = true := by
  grind [State.placeNext, State.claim_memoryWf, State.placeBlock_memoryWf, State.advanceHead_memoryWf]

theorem State.lookHead_memoryWf {s : State} (die : Nat) (h : Head) (hm : s.memoryWf = true) :
    (s.lookHead die h).memoryWf = true := by
  grind [State.lookHead, State.lookObj_memoryWf]

theorem State.takeHead_memoryWf {s0 : State} (cluster : Nat) (h : Head) (hm : s0.memoryWf = true) {t : State}
    (e : s0.takeHead cluster h = some t) : t.memoryWf = true := by
  grind [State.takeHead, State.lookHead_memoryWf, State.discardHead_memoryWf, State.advanceHead_memoryWf,
    State.claim_memoryWf, State.placeNext_memoryWf, State.holdHead_memoryWf]

theorem State.dispatchFrom_memoryWf {s : State} (cluster : Nat) (l : List Head) (back : List Nat)
    (hm : s.memoryWf = true) : (State.dispatchFrom cluster l back s).memoryWf = true := by
  induction l generalizing s back with
  | nil => exact hm
  | cons h hs ih =>
    unfold State.dispatchFrom
    grind [State.takeHead_memoryWf, State.lookHead_memoryWf]

theorem execDispatch_memoryWf {s : State} (hm : s.memoryWf = true) {t : State} (e : execDispatch s = .next t) :
    t.memoryWf = true := by
  cases e
  exact State.dispatchFrom_memoryWf _ _ _ hm

theorem execBlockRestore_memoryWf {s : State} (hm : s.memoryWf = true) {t : State} (e : execBlockRestore s = .next t) :
    t.memoryWf = true := by
  unfold execBlockRestore at e
  repeat' split at e
  all_goals grind [State.block?_memoryWf, State.restoreBlock_memoryWf, State.placeAgain_memoryWf]

theorem State.noteHosted_memoryWf {s : State} (order : Nat) (hm : s.memoryWf = true) :
    (s.noteHosted order).memoryWf = true := by
  grind [State.noteHosted, State.note_memoryWf]

theorem State.takeTail_memoryWf {s : State} (c q : Nat) (v : Word) (hm : s.memoryWf = true) :
    (s.takeTail c q v).memoryWf = true := by
  grind [State.takeTail, State.noteTail_memoryWf, State.setTail_memoryWf, State.noteHosted_memoryWf,
    State.noteWaiting_memoryWf, foldl_memoryWf, State.memoryWf_with]

theorem execQtailWrite_memoryWf {s : State} (hm : s.memoryWf = true) {t : State} (e : execQtailWrite s = .next t) :
    t.memoryWf = true := by
  grind [execQtailWrite, State.takeTail_memoryWf]

theorem execQueueSlotMap_memoryWf {s : State} (hm : s.memoryWf = true) {t : State} (e : execQueueSlotMap s = .next t) :
    t.memoryWf = true := by
  grind [execQueueSlotMap, State.memoryWf_with]

theorem execQuantumExpiry_memoryWf {s : State} (hm : s.memoryWf = true) {t : State}
    (e : execQuantumExpiry s = .next t) : t.memoryWf = true := by
  grind [execQuantumExpiry, State.noteWaiting_memoryWf, State.memoryWf_with]

theorem execPriorityAging_memoryWf {s : State} (hm : s.memoryWf = true) {t : State}
    (e : execPriorityAging s = .next t) : t.memoryWf = true := by
  grind [execPriorityAging, State.memoryWf_with]

theorem State.dropGrows_memoryWf {s : State} (ctx : Nat) (hm : s.memoryWf = true) :
    (s.dropGrows ctx).memoryWf = true := by
  grind [State.dropGrows, Block.dropReshape_memoryWf, State.mem_blocks_memoryWf, State.memoryWf_withBlocks]

theorem State.postShrinks_memoryWf {s : State} (k : KObj) (record : Nat) (l : List Block) (cores : List Nat)
    (hl : ∀ b ∈ l, b.memoryWf) (hm : s.memoryWf = true) : (State.postShrinks k record l cores s).memoryWf = true := by
  induction l generalizing s cores with
  | nil => exact hm
  | cons b bs ih =>
    obtain ⟨hb, hbs⟩ := List.forall_mem_cons.1 hl
    unfold State.postShrinks
    grind [State.setBlock_memoryWf_of_block, Block.memoryWf_with]

/-- The blocks that a request may shrink or pre-empt are blocks of the state. -/
theorem State.below_memoryWf {s : State} (ctx prio : Nat) (hm : s.memoryWf = true) :
    ∀ b ∈ s.below ctx prio, b.memoryWf := by
  intro b hb
  have hmem : b ∈ s.blocks := by
    simp only [State.below] at hb
    grind [mem_sortBy]
  exact State.mem_blocks_memoryWf hm hmem

theorem execShrinkRequest_memoryWf {s : State} (hm : s.memoryWf = true) {t : State}
    (e : execShrinkRequest s = .next t) : t.memoryWf = true := by
  unfold execShrinkRequest at e
  repeat' split at e
  all_goals grind [State.lookHead_memoryWf, State.dropGrows_memoryWf, State.claim_memoryWf, State.below_memoryWf,
    State.postShrinks_memoryWf, State.setRecord_memoryWf]

theorem execPriorityPreempt_memoryWf {s : State} (hm : s.memoryWf = true) {t : State}
    (e : execPriorityPreempt s = .next t) : t.memoryWf = true := by
  unfold execPriorityPreempt at e
  dsimp only at e
  repeat' split at e
  all_goals cases e
  any_goals exact hm
  · rename_i b hb
    have hb' := State.block?_memoryWf (State.dropShrinks_memoryWf _ hm) hb
    exact State.setBlock_memoryWf_of_block (b := { b with stopping := true }) (State.dropShrinks_memoryWf _ hm) hb'
  · exact State.dropShrinks_memoryWf _ hm

theorem execGrowRequest_memoryWf {s : State} (hm : s.memoryWf = true) {t : State} (e : execGrowRequest s = .next t) :
    t.memoryWf = true := by
  grind [execGrowRequest, State.block?_memoryWf, State.setBlock_memoryWf_of_block, Block.memoryWf_with]

theorem execContextYield_memoryWf {s : State} (hm : s.memoryWf = true) {t : State} (e : execContextYield s = .next t) :
    t.memoryWf = true := by
  grind [execContextYield, State.setCore_memoryWf]

theorem State.endJdec_memoryWf {s : State} (r : Record) (hm : s.memoryWf = true) {t : State}
    (e : s.endJdec r = some t) : t.memoryWf = true := by
  grind [State.endJdec, State.queueError_memoryWf, State.fresh_memoryWf, State.joinDec_memoryWf]

theorem State.kernelEnd_memoryWf {s : State} (r : Record) (hm : s.memoryWf = true) :
    (s.kernelEnd r).memoryWf = true := by
  grind [State.kernelEnd, State.harvest_memoryWf]

theorem execBlockEndJdec_memoryWf {s : State} (hm : s.memoryWf = true) {t : State} (e : execBlockEndJdec s = .next t) :
    t.memoryWf = true := by
  grind [execBlockEndJdec, State.endJdec_memoryWf, State.kernelEnd_memoryWf, State.memoryWf_with]

theorem execDeferredPush_memoryWf {s : State} (hm : s.memoryWf = true) {t : State} (e : execDeferredPush s = .next t) :
    t.memoryWf = true := by
  grind [execDeferredPush, State.pushReady_memoryWf, State.memoryWf_with]

end Sys2Proof.Machine
end

section
/-!
PROOF. Every operation of the machine keeps the memories in canonical form (O6), continued.
-/
namespace Sys2Proof.Machine
open Sys2Proof

/-! ### The fabric (R341 to R356) -/

theorem execBurgeePass_memoryWf {s : State} (hm : s.memoryWf = true) {t : State} (e : execBurgeePass s = .next t) :
    t.memoryWf = true := by
  grind [execBurgeePass, State.setWaveguide_memoryWf]

theorem execFurl_memoryWf {s : State} (hm : s.memoryWf = true) {t : State} (e : execFurl s = .next t) :
    t.memoryWf = true := by
  grind [execFurl, State.setWaveguide_memoryWf]

theorem execUnfurl_memoryWf {s : State} (hm : s.memoryWf = true) {t : State} (e : execUnfurl s = .next t) :
    t.memoryWf = true := by
  grind [execUnfurl, State.setWaveguide_memoryWf]

theorem execFurlCtlWrite_memoryWf {s : State} (hm : s.memoryWf = true) {t : State} (e : execFurlCtlWrite s = .next t) :
    t.memoryWf = true := by
  grind [execFurlCtlWrite, State.memoryWf_with]

theorem State.setBuffer_memoryWf {s : State} (b : Buffer) (hm : s.memoryWf = true) :
    (s.setBuffer b).memoryWf = true := by
  grind [State.setBuffer, State.memoryWf_with]

theorem State.queuePacket_memoryWf {s : State} (id : Nat) (route : List Nat) (hm : s.memoryWf = true) :
    (s.queuePacket id route).memoryWf = true := by
  grind [State.queuePacket, State.setBuffer_memoryWf]

theorem State.hopPacket_memoryWf {s0 : State} (id : Nat) (hm : s0.memoryWf = true) :
    (s0.hopPacket id).memoryWf = true := by
  grind [State.hopPacket, State.setBuffer_memoryWf]

theorem State.recoverStep_memoryWf {s : State} (cycle : List Nat) (hm : s.memoryWf = true) :
    (s.recoverStep cycle).memoryWf = true := by
  grind [State.recoverStep, State.setBuffer_memoryWf, foldl_memoryWf]

theorem State.recover_memoryWf {s : State} (cycle : List Nat) (n2 : Nat) (hm : s.memoryWf = true) :
    (s.recover cycle n2).memoryWf = true := by
  induction n2 generalizing s cycle with
  | zero => grind [State.recover]
  | succ n ih => grind [State.recover, State.recoverStep_memoryWf]

theorem execDeadlockProbe_memoryWf {s : State} (hm : s.memoryWf = true) {t : State}
    (e : execDeadlockProbe s = .next t) : t.memoryWf = true := by
  grind [execDeadlockProbe, State.recover_memoryWf]

theorem State.sendPacket_memoryWf {s : State} (slice stack chan sector tag : Nat) (k : PortKind) (mask : DWord)
    (hm : s.memoryWf = true) : (s.sendPacket slice stack chan sector tag k mask).memoryWf = true := by
  grind [State.sendPacket, State.memoryWf_with]

theorem execRdPacket_memoryWf {s : State} (hm : s.memoryWf = true) {t : State} (e : execRdPacket s = .next t) :
    t.memoryWf = true := by
  grind [execRdPacket, State.sendPacket_memoryWf]

theorem execWrPacket_memoryWf {s : State} (hm : s.memoryWf = true) {t : State} (e : execWrPacket s = .next t) :
    t.memoryWf = true := by
  grind [execWrPacket, State.sendPacket_memoryWf]

theorem execWrm_memoryWf {s : State} (hm : s.memoryWf = true) {t : State} (e : execWrm s = .next t) :
    t.memoryWf = true := by
  grind [execWrm, State.sendPacket_memoryWf]

theorem State.endPort_memoryWf {s : State} (r : PortReq) (hm : s.memoryWf = true) :
    (s.endPort r).memoryWf = true := hm

theorem execRdrsp_memoryWf {s : State} (hm : s.memoryWf = true) {t : State} (e : execRdrsp s = .next t) :
    t.memoryWf = true := by
  grind [execRdrsp, State.endPort_memoryWf, State.memoryWf_with]

theorem State.landByte_memoryWf {s : State} (later : Bool) (pa : Nat) (b : Byte) (hm : s.memoryWf = true) :
    (s.landByte later pa b).memoryWf = true := by
  obtain ⟨hd, hl, hp, hh, hb⟩ := State.memoryWf_iff.1 hm
  unfold State.landByte
  split
  · exact hm
  · split
    · exact State.memoryWf_iff.2 ⟨cellPut_wf _ _ hd, overWfFrom_filter _ hl, hp, hh, hb⟩
    · exact State.memoryWf_iff.2 ⟨cellPut_wf _ _ hd, hl, hp, hh, hb⟩

theorem State.landWrite_memoryWf {s : State} (r : PortReq) (hm : s.memoryWf = true) :
    (s.landWrite r).memoryWf = true :=
  foldl_memoryWf _ (fun _ _ h => State.landByte_memoryWf _ _ _ h) _ hm

theorem execWrack_memoryWf {s : State} (hm : s.memoryWf = true) {t : State} (e : execWrack s = .next t) :
    t.memoryWf = true := by
  grind [execWrack, State.endPort_memoryWf, State.landWrite_memoryWf, State.memoryWf_with]

/-! ### Host and peer accesses (R357 to R361) -/

theorem State.whenReady_memoryWf {s t u : State} (e : s.whenReady t = .next u) (hm : s.memoryWf = true)
    (ht : t.memoryWf = true) : u.memoryWf = true := by
  grind [State.whenReady]

theorem State.redirect_memoryWf {s : State} (f : Nat → Nat) (hm : s.memoryWf = true) :
    (s.redirect f).memoryWf = true := hm

theorem State.movePage_memoryWf {s : State} (ctx va : Nat) (l : Leaf) (new : Nat) (hm : s.memoryWf = true) :
    (s.movePage ctx va l new).memoryWf = true := by
  grind [State.movePage, State.loadBytes_memoryWf, State.shootDown_memoryWf, State.copyFrame_memoryWf,
    State.writePhys_memoryWf, State.redirect_memoryWf, State.memoryWf_with]

theorem State.move_memoryWf {s : State} (ctx va : Nat) (toPool : Bool) (hm : s.memoryWf = true) {t : State}
    (e : s.move ctx va toPool = some t) : t.memoryWf = true := by
  unfold State.move at e
  split at e
  · cases e
  · obtain ⟨new, _, rfl⟩ := Option.map_eq_some_iff.1 e
    exact State.movePage_memoryWf _ _ _ _ hm

theorem State.dropMig_memoryWf {s : State} (hm : s.memoryWf = true) : (s.dropMig).memoryWf = true := by
  grind [State.dropMig, State.draw_memoryWf, State.memoryWf_with]

theorem execMigrationMove_memoryWf {s : State} (hm : s.memoryWf = true) {t : State}
    (e : execMigrationMove s = .next t) : t.memoryWf = true := by
  unfold execMigrationMove at e
  split at e
  · cases e; exact hm
  · rename_i m rest _
    cases e
    cases hmove : ({ s with migQueue := rest } : State).move m.ctx m.va m.toPool with
    | none => exact State.dropMig_memoryWf (s := { s with migQueue := rest }) hm
    | some u => exact State.move_memoryWf (s := { s with migQueue := rest }) _ _ _ hm hmove

theorem State.pickMove_memoryWf {s : State} (ctx va : Nat) (toPool : Bool) (hm : s.memoryWf = true) :
    (s.pickMove ctx va toPool).memoryWf = true := by
  unfold State.pickMove
  cases e : s.move ctx va false with
  | none => grind
  | some t =>
    have ht := State.move_memoryWf _ _ _ hm e
    grind

theorem execMigReqWrite_memoryWf {s : State} (hm : s.memoryWf = true) {t : State} (e : execMigReqWrite s = .next t) :
    t.memoryWf = true := by
  unfold execMigReqWrite at e
  dsimp only at e
  split at e
  · exact State.whenReady_memoryWf e hm hm
  · refine State.whenReady_memoryWf e hm ?_
    split
    · exact hm
    · exact State.dropMig_memoryWf (s := { s with migReq := _ }) hm

theorem execMigStatRead_memoryWf {s : State} (hm : s.memoryWf = true) {t : State} (e : execMigStatRead s = .next t) :
    t.memoryWf = true := State.whenReady_memoryWf e hm hm

theorem execPeerRouteWrite_memoryWf {s : State} (hm : s.memoryWf = true) {t : State}
    (e : execPeerRouteWrite s = .next t) : t.memoryWf = true := State.whenReady_memoryWf e hm hm

theorem State.unstamp_memoryWf {s : State} (pa n : Nat) (hm : s.memoryWf = true) :
    (s.unstamp pa n).memoryWf = true := hm

theorem State.outsideWrite_memoryWf {s : State} (pa : Nat) (bs : List Byte) (hm : s.memoryWf = true) :
    (s.outsideWrite pa bs).memoryWf = true := by
  grind [State.outsideWrite, State.unstamp_memoryWf, State.writePhys_memoryWf, State.changeObjectAt_memoryWf]

theorem execPeerRequest_memoryWf {s : State} (hm : s.memoryWf = true) {t : State} (e : execPeerRequest s = .next t) :
    t.memoryWf = true := by
  unfold execPeerRequest at e
  dsimp only at e
  split at e
  · cases e; exact hm
  · split at e
    · exact State.whenReady_memoryWf e hm (State.outsideWrite_memoryWf _ _ hm)
    · exact State.whenReady_memoryWf e hm hm

theorem State.writeCtxCsr_memoryWf {s : State} (ctx num : Nat) (v : Word) (hm : s.memoryWf = true) :
    (s.writeCtxCsr ctx num v).memoryWf = true := by
  grind [State.writeCtxCsr, State.clearedLost_memoryWf, State.setCtx_memoryWf, State.draw_memoryWf]

theorem State.writeDevCsr_memoryWf {s : State} (off : Nat) (v : Word) (hm : s.memoryWf = true) :
    (s.writeDevCsr off v).memoryWf = true := by
  unfold State.writeDevCsr
  grind [State.draw_memoryWf, State.memoryWf_with]

theorem execCsrWrite_memoryWf {s : State} (hm : s.memoryWf = true) {t : State} (e : execCsrWrite s = .next t) :
    t.memoryWf = true := by
  refine State.whenReady_memoryWf e hm ?_
  split
  · exact State.writeCtxCsr_memoryWf _ _ _ hm
  · exact State.writeDevCsr_memoryWf _ _ hm

/-! ### Power, boot and clocks (R369 to R379) -/

theorem State.endBringUp_memoryWf {s : State} (hm : s.memoryWf = true) : (s.endBringUp).memoryWf = true := hm

theorem State.bringUp_memoryWf {s : State} {dram : List Host.Cell} (filled : List (Nat × Nat × Nat))
    (hm : s.memoryWf = true) (hd : Memory.wf dram = true) : (s.bringUp dram filled).memoryWf = true := by
  obtain ⟨_, _, _, hh, _⟩ := State.memoryWf_iff.1 hm
  unfold State.bringUp
  dsimp only
  split
  · exact State.memoryWf_iff.2 ⟨hd, rfl, rfl, hh, List.forall_mem_nil _⟩
  · exact State.memoryWf_iff.2 ⟨hd, rfl, rfl, hh, List.forall_mem_nil _⟩

theorem execPowerOnReset_memoryWf {s : State} (hm : s.memoryWf = true) {t : State} (e : execPowerOnReset s = .next t) :
    t.memoryWf = true := by
  cases e
  exact State.bringUp_memoryWf _ hm (cellWfFrom_filter _ (State.memoryWf_iff.1 hm).1)

theorem execBootReset_memoryWf {s : State} (hm : s.memoryWf = true) {t : State} (e : execBootReset s = .next t) :
    t.memoryWf = true := by
  cases e
  exact State.bringUp_memoryWf _ hm (State.memoryWf_iff.1 hm).1

theorem execAttestationGo_memoryWf {s : State} (hm : s.memoryWf = true) {t : State}
    (e : execAttestationGo s = .next t) : t.memoryWf = true := by
  grind [execAttestationGo, State.whenReady_memoryWf, State.memoryWf_with]

/-- Bytes listed one after another in an overlay keep its order. -/
theorem foldl_overPut_wf {α : Type} (f : α → Nat) (g : α → Byte) :
    ∀ (l : List α) {m : List Host.Cell}, overWf m = true → overWf (l.foldl (fun m x => overPut m (f x) (g x)) m) =
    true
  | [], _, h => h
  | _ :: xs, _, h => foldl_overPut_wf f g xs (overPut_wf _ _ h)

theorem execAttestationDone_memoryWf {s : State} (hm : s.memoryWf = true) {t : State}
    (e : execAttestationDone s = .next t) : t.memoryWf = true := by
  obtain ⟨hd, hl, hp, hh, hb⟩ := State.memoryWf_iff.1 hm
  unfold execAttestationDone at e
  generalize s.report = bytes at e
  by_cases hbusy : (!s.dev.attBusy) = true
  · rw [if_pos hbusy] at e
    rw [← Host.Outcome.next.inj e]
    exact hm
  · rw [if_neg hbusy] at e
    rw [← Host.Outcome.next.inj e]
    exact State.memoryWf_iff.2 ⟨hd, hl, hp, foldl_overPut_wf _ _ _ hh, hb⟩

theorem execClockStepChange_memoryWf {s : State} (hm : s.memoryWf = true) {t : State}
    (e : execClockStepChange s = .next t) : t.memoryWf = true := by
  grind [execClockStepChange, State.memoryWf_with]

theorem State.stopAll_memoryWf {s : State} (hm : s.memoryWf = true) : (s.stopAll).memoryWf = true := by
  grind [State.stopAll, State.mem_blocks_memoryWf, State.memoryWf_withBlocks, Block.memoryWf_with]

theorem execThermalTrip_memoryWf {s : State} (hm : s.memoryWf = true) {t : State} (e : execThermalTrip s = .next t) :
    t.memoryWf = true := by
  grind [execThermalTrip, State.stopAll_memoryWf, State.memoryWf_with]

/-! ### BAR0 (R357, R360) -/

theorem State.barRead_memoryWf {s : State} (r : Option HostReg) (hm : s.memoryWf = true) :
    (s.barRead r).2.memoryWf = true := by
  unfold State.barRead
  grind [State.draw_memoryWf, State.memoryWf_with]

theorem State.hostEvent_memoryWf {s : State} (args : List Nat) {f : State → Host.Outcome State Fault Refusal}
    (hm : s.memoryWf = true)
    (hf : ∀ {u : State}, u.memoryWf = true → ∀ {t : State}, f u = .next t → t.memoryWf = true) :
    (s.hostEvent args f).memoryWf = true := by
  unfold State.hostEvent
  split
  · rename_i e
    exact State.memoryWf_with (hf (u := { s with args := args }) hm e) ..
  · exact hm

theorem State.writeCtl_memoryWf {s : State} (c : Nat) (v : Word) (hm : s.memoryWf = true) :
    (s.writeCtl c v).memoryWf = true := by
  unfold State.writeCtl
  extract_lets s1 s2
  have hs1 : s1.memoryWf = true := State.hostEvent_memoryWf _ hm (by
    grind [execContextStop_memoryWf, execContextResume_memoryWf])
  have hs2 : s2.memoryWf = true := by
    have := State.hostEvent_memoryWf [c] hs1 execContextLoad_memoryWf
    grind
  have := State.hostEvent_memoryWf [c] hs2 execContextKill_memoryWf
  grind

theorem State.bootAgain_memoryWf {s : State} (hm : s.memoryWf = true) : s.bootAgain.memoryWf = true :=
  State.hostEvent_memoryWf _ (State.draw_memoryWf hm) execBootReset_memoryWf

theorem State.barWrite_memoryWf {s : State} (r : Option HostReg) (v : Word) (hm : s.memoryWf = true) :
    (s.barWrite r v).memoryWf = true := by
  unfold State.barWrite
  split
  · exact State.hostEvent_memoryWf _ hm execFrHeadWrite_memoryWf
  · exact State.writeCtl_memoryWf _ _ hm
  · exact State.hostEvent_memoryWf _ hm execCsrWrite_memoryWf
  · exact State.hostEvent_memoryWf _ hm execQtailWrite_memoryWf
  · exact hm
  · exact hm
  · exact State.hostEvent_memoryWf _ hm execHostTlbInvalidate_memoryWf
  · exact State.hostEvent_memoryWf _ hm execMigReqWrite_memoryWf
  · exact State.hostEvent_memoryWf _ hm execPeerRouteWrite_memoryWf
  · split
    · exact State.bootAgain_memoryWf hm
    · exact hm
  · split
    · exact State.hostEvent_memoryWf _ hm execAttestationGo_memoryWf
    · exact hm
  · exact State.hostEvent_memoryWf _ hm execFurlCtlWrite_memoryWf
  · exact State.hostEvent_memoryWf _ hm execCsrWrite_memoryWf
  · exact hm

theorem State.barReads_memoryWf {s : State} (n1 n2 : Nat) (hm : s.memoryWf = true) :
    (s.barReads n1 n2).2.memoryWf = true := by
  induction n1 generalizing s n2 with
  | zero => grind [State.barReads]
  | succ n ih => grind [State.barReads, State.barRead_memoryWf]

theorem State.barWrites_memoryWf {s : State} (off : Nat) (l : List Nat) (hm : s.memoryWf = true) :
    (s.barWrites off l).memoryWf = true := by
  induction s, off, l using State.barWrites.induct with
  | case1 s off b0 b1 b2 b3 rest ih =>
    unfold State.barWrites
    grind [State.barWrite_memoryWf]
  | case2 s off l h =>
    unfold State.barWrites
    grind

theorem execHostMemoryAccess_memoryWf {s : State} (hm : s.memoryWf = true) {t : State}
    (e : execHostMemoryAccess s = .next t) : t.memoryWf = true := by
  unfold execHostMemoryAccess at e
  split at e
  · split at e
    · cases e; exact State.barWrites_memoryWf _ _ hm
    · cases e; exact State.memoryWf_with (State.barReads_memoryWf _ _ hm) ..
  · by_cases hout : (if s.arg 0 ≠ 0 then 2 ^ 44 else 2 ^ 39) < s.arg 1 + s.arg 4
    · rw [if_pos hout] at e
      rw [← Host.Outcome.next.inj e]
      exact hm
    · rw [if_neg hout] at e
      split at e
      · exact State.whenReady_memoryWf e hm (State.outsideWrite_memoryWf _ _ hm)
      · exact State.whenReady_memoryWf e hm hm

/-! ### Choices of a step -/

theorem State.passCycles_memoryWf {s : State} (cluster n : Nat) (hm : s.memoryWf = true) :
    (s.passCycles cluster n).memoryWf = true := by
  grind [State.passCycles, State.mem_blocks_memoryWf, State.memoryWf_withBlocks, Block.memoryWf_with]

theorem State.passTime_memoryWf {s : State} (n : Nat) (hm : s.memoryWf = true) : (s.passTime n).memoryWf = true := hm

theorem State.refreshDeadline_memoryWf {s : State} (chan bank row : Nat) (hm : s.memoryWf = true) :
    (s.refreshDeadline chan bank row).memoryWf = true := hm

theorem State.evictTlb_memoryWf {s : State} (home : Nat) (hm : s.memoryWf = true) :
    (s.evictTlb home).memoryWf = true := by
  grind [State.evictTlb, State.tlbDrop_memoryWf]

theorem State.evictConst_memoryWf {s : State} (core line : Nat) (hm : s.memoryWf = true) :
    (s.evictConst core line).memoryWf = true := hm

theorem State.writeLine_memoryWf {s : State} (line : Nat) (hm : s.memoryWf = true) :
    (s.writeLine line).memoryWf = true := State.writeBack_memoryWf _ _ _ hm

theorem State.acknowledge_memoryWf {s : State} (w n : Nat) (hm : s.memoryWf = true) :
    (s.acknowledge w n).memoryWf = true := by
  induction n generalizing s with
  | zero => exact hm
  | succ n ih =>
    unfold State.acknowledge
    split
    · exact hm
    · rename_i p _
      obtain ⟨hd, hl, hp, hh, hb⟩ := State.memoryWf_iff.1 hm
      refine ih (State.memoryWf_iff.2 ⟨hd, hl, ?_, overPut_wf _ _ hh, hb⟩)
      simp only [List.all_eq_true] at hp ⊢
      exact fun q hq => hp q (List.mem_of_mem_erase hq)

theorem State.takeAction_memoryWf {s : State} (x1 : Action) (hm : s.memoryWf = true) :
    (s.takeAction x1).1.memoryWf = true := by
  unfold State.takeAction
  grind [State.due_memoryWf, State.bankDue_memoryWf, State.passCycles_memoryWf, State.passTime_memoryWf,
    State.ringTick_memoryWf, State.writeLine_memoryWf, State.evictTlb_memoryWf, State.evictConst_memoryWf,
    State.drainPart_memoryWf, State.moveUnit_memoryWf, State.acknowledge_memoryWf, State.landPart_memoryWf,
    State.demandFlits_memoryWf, State.queuePacket_memoryWf, State.hopPacket_memoryWf, State.pickMove_memoryWf,
    State.activateRow_memoryWf, State.refreshDeadline_memoryWf, State.endBringUp_memoryWf, State.memoryWf_with]

theorem State.nextAction_memoryWf {s : State} (hm : s.memoryWf = true) : (s.nextAction).2.memoryWf = true := by
  grind [State.nextAction, State.memoryWf_with]

/-! ### Floating-point instructions (R130 to R148) -/

theorem execFaddReg_memoryWf {s : State} (o : Opnds) (hm : s.memoryWf = true) {t : State}
    (e : execFaddReg o s = .next t) : t.memoryWf = true := State.capable_memoryWf hm e

theorem execFaddImm_memoryWf {s : State} (o : Opnds) (hm : s.memoryWf = true) {t : State}
    (e : execFaddImm o s = .next t) : t.memoryWf = true := State.capable_memoryWf hm e

theorem execFmulReg_memoryWf {s : State} (o : Opnds) (hm : s.memoryWf = true) {t : State}
    (e : execFmulReg o s = .next t) : t.memoryWf = true := State.capable_memoryWf hm e

theorem execFmulImm_memoryWf {s : State} (o : Opnds) (hm : s.memoryWf = true) {t : State}
    (e : execFmulImm o s = .next t) : t.memoryWf = true := State.capable_memoryWf hm e

theorem execFfma_memoryWf {s : State} (o : Opnds) (hm : s.memoryWf = true) {t : State} (e : execFfma o s = .next t) :
    t.memoryWf = true := State.capable_memoryWf hm e

theorem execFminReg_memoryWf {s : State} (o : Opnds) (hm : s.memoryWf = true) {t : State}
    (e : execFminReg o s = .next t) : t.memoryWf = true := State.capable_memoryWf hm e

theorem execFminImm_memoryWf {s : State} (o : Opnds) (hm : s.memoryWf = true) {t : State}
    (e : execFminImm o s = .next t) : t.memoryWf = true := State.capable_memoryWf hm e

theorem execFmaxReg_memoryWf {s : State} (o : Opnds) (hm : s.memoryWf = true) {t : State}
    (e : execFmaxReg o s = .next t) : t.memoryWf = true := State.capable_memoryWf hm e

theorem execFmaxImm_memoryWf {s : State} (o : Opnds) (hm : s.memoryWf = true) {t : State}
    (e : execFmaxImm o s = .next t) : t.memoryWf = true := State.capable_memoryWf hm e

theorem execFsetpReg_memoryWf {s : State} (cmp : BitVec 3) (o : Opnds) (hm : s.memoryWf = true) {t : State}
    (e : execFsetpReg cmp o s = .next t) : t.memoryWf = true := State.capable_memoryWf hm e

theorem execFsetpImm_memoryWf {s : State} (cmp : BitVec 3) (o : Opnds) (hm : s.memoryWf = true) {t : State}
    (e : execFsetpImm cmp o s = .next t) : t.memoryWf = true := State.capable_memoryWf hm e

theorem execFsfun_memoryWf {s : State} (fn : SfFn) (o : Opnds) (hm : s.memoryWf = true) {t : State}
    (e : execFsfun fn o s = .next t) : t.memoryWf = true := State.plainOp_memoryWf hm e

theorem execHadd2Reg_memoryWf {s : State} (o : Opnds) (hm : s.memoryWf = true) {t : State}
    (e : execHadd2Reg o s = .next t) : t.memoryWf = true := State.plainOp_memoryWf hm e

theorem execHadd2Imm_memoryWf {s : State} (o : Opnds) (hm : s.memoryWf = true) {t : State}
    (e : execHadd2Imm o s = .next t) : t.memoryWf = true := State.plainOp_memoryWf hm e

theorem execHmul2Reg_memoryWf {s : State} (o : Opnds) (hm : s.memoryWf = true) {t : State}
    (e : execHmul2Reg o s = .next t) : t.memoryWf = true := State.plainOp_memoryWf hm e

theorem execHmul2Imm_memoryWf {s : State} (o : Opnds) (hm : s.memoryWf = true) {t : State}
    (e : execHmul2Imm o s = .next t) : t.memoryWf = true := State.plainOp_memoryWf hm e

theorem execHfma2_memoryWf {s : State} (o : Opnds) (hm : s.memoryWf = true) {t : State} (e : execHfma2 o s = .next t) :
    t.memoryWf = true := State.plainOp_memoryWf hm e

theorem execFdot2_memoryWf {s : State} (o : Opnds) (hm : s.memoryWf = true) {t : State} (e : execFdot2 o s = .next t) :
    t.memoryWf = true := State.plainOp_memoryWf hm e

theorem execFclass_memoryWf {s : State} (o : Opnds) (hm : s.memoryWf = true) {t : State}
    (e : execFclass o s = .next t) : t.memoryWf = true := State.plainOp_memoryWf hm e

theorem execCvt_memoryWf {s : State} (o : Opnds) (hm : s.memoryWf = true) {t : State} (e : execCvt o s = .next t) :
    t.memoryWf = true := State.capable_memoryWf hm e

theorem execPack_memoryWf {s : State} (fmt : BitVec 3) (o : Opnds) (hm : s.memoryWf = true) {t : State}
    (e : execPack fmt o s = .next t) : t.memoryWf = true := State.plainOp_memoryWf hm e

theorem execUnpack_memoryWf {s : State} (fmt : BitVec 3) (o : Opnds) (hm : s.memoryWf = true) {t : State}
    (e : execUnpack fmt o s = .next t) : t.memoryWf = true := State.plainOp_memoryWf hm e

theorem State.wrRun_memoryWf {s : State} (a : Actx) (d : Nat) (sd : Bool) (m : Mask) (v : Nat → Nat → Word) (n6 : Nat)
    (hm : s.memoryWf = true) : (s.wrRun a d sd m v n6).memoryWf = true := by
  induction n6 generalizing s a d sd m v with
  | zero => grind [State.wrRun]
  | succ n ih => grind [State.wrRun, State.wr_memoryWf]

theorem execRxcvtEnc_memoryWf {s : State} (o : Opnds) (hm : s.memoryWf = true) {t : State}
    (e : execRxcvtEnc o s = .next t) : t.memoryWf = true := by
  refine State.run_memoryWf hm (fun _ _ _ => ?_) e
  grind [State.raise_memoryWf, State.retire_memoryWf, State.wr_memoryWf, State.wrRun_memoryWf]

theorem execRxcvtDec_memoryWf {s : State} (o : Opnds) (hm : s.memoryWf = true) {t : State}
    (e : execRxcvtDec o s = .next t) : t.memoryWf = true := State.plainOp_memoryWf hm e

/-! ### Every instruction and event -/

theorem exec_memoryWf {s : State} (i : Instr) (hm : s.memoryWf = true) {t : State} (e : exec i s = .next t) :
    t.memoryWf = true := by
  cases i with
  | clauseStart h => exact execClauseStart_memoryWf h hm e
  | nop o => exact execNop_memoryWf o hm e
  | bra t => exact execBra_memoryWf t hm e
  | brx o => exact execBrx_memoryWf o hm e
  | call t => exact execCall_memoryWf t hm e
  | ret o => exact execRet_memoryWf o hm e
  | exit o => exact execExit_memoryWf o hm e
  | join o => exact execJoin_memoryWf o hm e
  | yield o => exact execYield_memoryWf o hm e
  | sleep o => exact execSleep_memoryWf o hm e
  | sleepProm o => exact execSleepProm_memoryWf o hm e
  | sleepFor o => exact execSleepFor_memoryWf o hm e
  | sleepWake => exact execSleepWake_memoryWf hm e
  | trap o => exact execTrap_memoryWf o hm e
  | bkpt o => exact execBkpt_memoryWf o hm e
  | spawn o => exact execSpawn_memoryWf o hm e
  | jdec o => exact execJdec_memoryWf o hm e
  | swpt o => exact execSwpt_memoryWf o hm e
  | phase o => exact execPhase_memoryWf o hm e
  | rbacq o => exact execRbacq_memoryWf o hm e
  | rbrel o => exact execRbrel_memoryWf o hm e
  | rbacqWake => exact execRbacqWake_memoryWf hm e
  | regexh => exact execRegexh_memoryWf hm e
  | iaddReg o => exact execIaddReg_memoryWf o hm e
  | iaddImm o => exact execIaddImm_memoryWf o hm e
  | isubReg o => exact execIsubReg_memoryWf o hm e
  | isubImm o => exact execIsubImm_memoryWf o hm e
  | imulReg o => exact execImulReg_memoryWf o hm e
  | imulImm o => exact execImulImm_memoryWf o hm e
  | imulhReg o => exact execImulhReg_memoryWf o hm e
  | imulhImm o => exact execImulhImm_memoryWf o hm e
  | imad o => exact execImad_memoryWf o hm e
  | imadw o => exact execImadw_memoryWf o hm e
  | iminReg o => exact execIminReg_memoryWf o hm e
  | iminImm o => exact execIminImm_memoryWf o hm e
  | imaxReg o => exact execImaxReg_memoryWf o hm e
  | imaxImm o => exact execImaxImm_memoryWf o hm e
  | iabs o => exact execIabs_memoryWf o hm e
  | itestReg o => exact execItestReg_memoryWf o hm e
  | itestImm o => exact execItestImm_memoryWf o hm e
  | selReg o => exact execSelReg_memoryWf o hm e
  | selImm o => exact execSelImm_memoryWf o hm e
  | blutReg lutHi o => exact execBlutReg_memoryWf lutHi o hm e
  | blutImm lutHi o => exact execBlutImm_memoryWf lutHi o hm e
  | shlReg o => exact execShlReg_memoryWf o hm e
  | shlImm o => exact execShlImm_memoryWf o hm e
  | shrReg o => exact execShrReg_memoryWf o hm e
  | shrImm o => exact execShrImm_memoryWf o hm e
  | shf o => exact execShf_memoryWf o hm e
  | popc o => exact execPopc_memoryWf o hm e
  | clz o => exact execClz_memoryWf o hm e
  | brev o => exact execBrev_memoryWf o hm e
  | bfeReg o => exact execBfeReg_memoryWf o hm e
  | bfeImm o => exact execBfeImm_memoryWf o hm e
  | bfi o => exact execBfi_memoryWf o hm e
  | leaReg o => exact execLeaReg_memoryWf o hm e
  | leaImm o => exact execLeaImm_memoryWf o hm e
  | mov o => exact execMov_memoryWf o hm e
  | movP2v o => exact execMovP2v_memoryWf o hm e
  | movV2p o => exact execMovV2p_memoryWf o hm e
  | movLaneReg o => exact execMovLaneReg_memoryWf o hm e
  | movLaneImm o => exact execMovLaneImm_memoryWf o hm e
  | movUnif o => exact execMovUnif_memoryWf o hm e
  | movi o => exact execMovi_memoryWf o hm e
  | plop lutHi o => exact execPlop_memoryWf lutHi o hm e
  | pairMov x y => exact execPairMov_memoryWf x y hm e
  | pairIadd x y => exact execPairIadd_memoryWf x y hm e
  | pairIsub x y => exact execPairIsub_memoryWf x y hm e
  | pairImul x y => exact execPairImul_memoryWf x y hm e
  | pairImin x y => exact execPairImin_memoryWf x y hm e
  | pairImax x y => exact execPairImax_memoryWf x y hm e
  | pairAnd x y => exact execPairAnd_memoryWf x y hm e
  | pairOr x y => exact execPairOr_memoryWf x y hm e
  | pairXor x y => exact execPairXor_memoryWf x y hm e
  | pairShl x y => exact execPairShl_memoryWf x y hm e
  | pairShr x y => exact execPairShr_memoryWf x y hm e
  | pairFadd x y => exact execPairFadd_memoryWf x y hm e
  | pairFmul x y => exact execPairFmul_memoryWf x y hm e
  | pairFmin x y => exact execPairFmin_memoryWf x y hm e
  | pairFmax x y => exact execPairFmax_memoryWf x y hm e
  | pairHadd2 x y => exact execPairHadd2_memoryWf x y hm e
  | pairHmul2 x y => exact execPairHmul2_memoryWf x y hm e
  | pairMovi8 x y => exact execPairMovi8_memoryWf x y hm e
  | pairIaddImm x y => exact execPairIaddImm_memoryWf x y hm e
  | pairIsubImm x y => exact execPairIsubImm_memoryWf x y hm e
  | pairImulImm x y => exact execPairImulImm_memoryWf x y hm e
  | pairIminImm x y => exact execPairIminImm_memoryWf x y hm e
  | pairImaxImm x y => exact execPairImaxImm_memoryWf x y hm e
  | pairAndImm x y => exact execPairAndImm_memoryWf x y hm e
  | pairOrImm x y => exact execPairOrImm_memoryWf x y hm e
  | pairXorImm x y => exact execPairXorImm_memoryWf x y hm e
  | pairShlImm x y => exact execPairShlImm_memoryWf x y hm e
  | pairShrImm x y => exact execPairShrImm_memoryWf x y hm e
  | faddReg o => exact execFaddReg_memoryWf o hm e
  | faddImm o => exact execFaddImm_memoryWf o hm e
  | fmulReg o => exact execFmulReg_memoryWf o hm e
  | fmulImm o => exact execFmulImm_memoryWf o hm e
  | ffma o => exact execFfma_memoryWf o hm e
  | fminReg o => exact execFminReg_memoryWf o hm e
  | fminImm o => exact execFminImm_memoryWf o hm e
  | fmaxReg o => exact execFmaxReg_memoryWf o hm e
  | fmaxImm o => exact execFmaxImm_memoryWf o hm e
  | fsetpReg cmp o => exact execFsetpReg_memoryWf cmp o hm e
  | fsetpImm cmp o => exact execFsetpImm_memoryWf cmp o hm e
  | fsfun fn o => exact execFsfun_memoryWf fn o hm e
  | hadd2Reg o => exact execHadd2Reg_memoryWf o hm e
  | hadd2Imm o => exact execHadd2Imm_memoryWf o hm e
  | hmul2Reg o => exact execHmul2Reg_memoryWf o hm e
  | hmul2Imm o => exact execHmul2Imm_memoryWf o hm e
  | hfma2 o => exact execHfma2_memoryWf o hm e
  | fdot2 o => exact execFdot2_memoryWf o hm e
  | fclass o => exact execFclass_memoryWf o hm e
  | cvt o => exact execCvt_memoryWf o hm e
  | pack fmt o => exact execPack_memoryWf fmt o hm e
  | unpack fmt o => exact execUnpack_memoryWf fmt o hm e
  | rxcvtEnc o => exact execRxcvtEnc_memoryWf o hm e
  | rxcvtDec o => exact execRxcvtDec_memoryWf o hm e
  | lxchgReg mode o => exact execLxchgReg_memoryWf mode o hm e
  | lxchgImm mode o => exact execLxchgImm_memoryWf mode o hm e
  | vote mode o => exact execVote_memoryWf mode o hm e
  | ballot o => exact execBallot_memoryWf o hm e
  | matchAny o => exact execMatchAny_memoryWf o hm e
  | matchAll o => exact execMatchAll_memoryWf o hm e
  | redux op o => exact execRedux_memoryWf op o hm e
  | xpair o => exact execXpair_memoryWf o hm e
  | xpairTimeout => exact execXpairTimeout_memoryWf hm e
  | xshfl o => exact execXshfl_memoryWf o hm e
  | xshflCommit => exact execXshflCommit_memoryWf hm e
  | ldReg o => exact execLdReg_memoryWf o hm e
  | ldImm o => exact execLdImm_memoryWf o hm e
  | ldPrivReg o => exact execLdPrivReg_memoryWf o hm e
  | ldPrivImm o => exact execLdPrivImm_memoryWf o hm e
  | stReg o => exact execStReg_memoryWf o hm e
  | stImm o => exact execStImm_memoryWf o hm e
  | stPrivReg o => exact execStPrivReg_memoryWf o hm e
  | stPrivImm o => exact execStPrivImm_memoryWf o hm e
  | ldsReg o => exact execLdsReg_memoryWf o hm e
  | ldsImm o => exact execLdsImm_memoryWf o hm e
  | stsReg o => exact execStsReg_memoryWf o hm e
  | stsImm o => exact execStsImm_memoryWf o hm e
  | ldcReg o => exact execLdcReg_memoryWf o hm e
  | ldcImm o => exact execLdcImm_memoryWf o hm e
  | loadComplete => exact execLoadComplete_memoryWf hm e
  | storeAccept => exact execStoreAccept_memoryWf hm e
  | lda o => exact execLda_memoryWf o hm e
  | prefReg o => exact execPrefReg_memoryWf o hm e
  | prefImm o => exact execPrefImm_memoryWf o hm e
  | copy o => exact execCopy_memoryWf o hm e
  | gath o => exact execGath_memoryWf o hm e
  | engineArrival => exact execEngineArrival_memoryWf hm e
  | arrinit o => exact execArrinit_memoryWf o hm e
  | arrive o => exact execArrive_memoryWf o hm e
  | arrwait o => exact execArrwait_memoryWf o hm e
  | arrwaitTest o => exact execArrwaitTest_memoryWf o hm e
  | publish o => exact execPublish_memoryWf o hm e
  | cctlWb o => exact execCctlWb_memoryWf o hm e
  | cctlWbinv o => exact execCctlWbinv_memoryWf o hm e
  | cctlConst o => exact execCctlConst_memoryWf o hm e
  | tlbhHarv o => exact execTlbhHarv_memoryWf o hm e
  | tlbhInv o => exact execTlbhInv_memoryWf o hm e
  | tlbHarvestPeriodic => exact execTlbHarvestPeriodic_memoryWf hm e
  | atom op o => exact execAtom_memoryWf op o hm e
  | acas o => exact execAcas_memoryWf o hm e
  | atomicServiceRequest => exact execAtomicServiceRequest_memoryWf hm e
  | atoms op o => exact execAtoms_memoryWf op o hm e
  | fence kind o => exact execFence_memoryWf kind o hm e
  | epochClose => exact execEpochClose_memoryWf hm e
  | waita cmp o => exact execWaita_memoryWf cmp o hm e
  | waitaWake => exact execWaitaWake_memoryWf hm e
  | waitaTimeout => exact execWaitaTimeout_memoryWf hm e
  | qinit o => exact execQinit_memoryWf o hm e
  | qinitGrant o => exact execQinitGrant_memoryWf o hm e
  | qpush o => exact execQpush_memoryWf o hm e
  | qpop o => exact execQpop_memoryWf o hm e
  | qtryPop o => exact execQtryPop_memoryWf o hm e
  | qtryPush o => exact execQtryPush_memoryWf o hm e
  | queueWaiterRelease => exact execQueueWaiterRelease_memoryWf hm e
  | queueDeadlock => exact execQueueDeadlock_memoryWf hm e
  | circCast o => exact execCircCast_memoryWf o hm e
  | circBind o => exact execCircBind_memoryWf o hm e
  | circCap o => exact execCircCap_memoryWf o hm e
  | circWr o => exact execCircWr_memoryWf o hm e
  | circRel o => exact execCircRel_memoryWf o hm e
  | circPeek o => exact execCircPeek_memoryWf o hm e
  | circTurn o => exact execCircTurn_memoryWf o hm e
  | castClaim => exact execCastClaim_memoryWf hm e
  | stopPass => exact execStopPass_memoryWf hm e
  | seamPass => exact execSeamPass_memoryWf hm e
  | holdTheft => exact execHoldTheft_memoryWf hm e
  | warpEndRelease => exact execWarpEndRelease_memoryWf hm e
  | setshapeReg o => exact execSetshapeReg_memoryWf o hm e
  | setshapeImm o => exact execSetshapeImm_memoryWf o hm e
  | setshapeTail o => exact execSetshapeTail_memoryWf o hm e
  | getshape sel o => exact execGetshape_memoryWf sel o hm e
  | mma o => exact execMma_memoryWf o hm e
  | mmas o => exact execMmas_memoryWf o hm e
  | tileWrite => exact execTileWrite_memoryWf hm e
  | accz o => exact execAccz_memoryWf o hm e
  | accld o => exact execAccld_memoryWf o hm e
  | accldDec o => exact execAccldDec_memoryWf o hm e
  | accldTscale o => exact execAccldTscale_memoryWf o hm e
  | accst o => exact execAccst_memoryWf o hm e
  | accstSp o => exact execAccstSp_memoryWf o hm e
  | fragld part o => exact execFragld_memoryWf part o hm e
  | pldReg fmt o => exact execPldReg_memoryWf fmt o hm e
  | pldImm fmt o => exact execPldImm_memoryWf fmt o hm e
  | pmat o => exact execPmat_memoryWf o hm e
  | pmatS o => exact execPmatS_memoryWf o hm e
  | pfree o => exact execPfree_memoryWf o hm e
  | pfreeP o => exact execPfreeP_memoryWf o hm e
  | pdot o => exact execPdot_memoryWf o hm e
  | pred op o => exact execPred_memoryWf op o hm e
  | pqry o => exact execPqry_memoryWf o hm e
  | pqryP o => exact execPqryP_memoryWf o hm e
  | proxyOperation => exact execProxyOperation_memoryWf hm e
  | proxyCompletion => exact execProxyCompletion_memoryWf hm e
  | proxyCopy => exact execProxyCopy_memoryWf hm e
  | proxyDrop => exact execProxyDrop_memoryWf hm e
  | pldSnapshot => exact execPldSnapshot_memoryWf hm e
  | proxyCrossing => exact execProxyCrossing_memoryWf hm e
  | chunkRequest => exact execChunkRequest_memoryWf hm e
  | chunkGrant => exact execChunkGrant_memoryWf hm e
  | chunkReturn => exact execChunkReturn_memoryWf hm e
  | nlaunch o => exact execNlaunch_memoryWf o hm e
  | nresume o => exact execNresume_memoryWf o hm e
  | nstat o => exact execNstat_memoryWf o hm e
  | csrr o => exact execCsrr_memoryWf o hm e
  | csrw o => exact execCsrw_memoryWf o hm e
  | engErrRead o => exact execEngErrRead_memoryWf o hm e
  | pxLostClear o => exact execPxLostClear_memoryWf o hm e
  | tret o => exact execTret_memoryWf o hm e
  | tretSkip o => exact execTretSkip_memoryWf o hm e
  | trapEntry => exact execTrapEntry_memoryWf hm e
  | blockTerminate => exact execBlockTerminate_memoryWf hm e
  | preempt => exact execPreempt_memoryWf hm e
  | blockRestore => exact execBlockRestore_memoryWf hm e
  | ifaultSwapOut => exact execIfaultSwapOut_memoryWf hm e
  | blockReplay => exact execBlockReplay_memoryWf hm e
  | faultRecordWrite => exact execFaultRecordWrite_memoryWf hm e
  | frHeadWrite => exact execFrHeadWrite_memoryWf hm e
  | faultRewalk => exact execFaultRewalk_memoryWf hm e
  | qtailWrite => exact execQtailWrite_memoryWf hm e
  | queueSlotMap => exact execQueueSlotMap_memoryWf hm e
  | quantumExpiry => exact execQuantumExpiry_memoryWf hm e
  | priorityAging => exact execPriorityAging_memoryWf hm e
  | dispatch => exact execDispatch_memoryWf hm e
  | shrinkRequest => exact execShrinkRequest_memoryWf hm e
  | priorityPreempt => exact execPriorityPreempt_memoryWf hm e
  | growRequest => exact execGrowRequest_memoryWf hm e
  | switchGraceExpiry => exact execSwitchGraceExpiry_memoryWf hm e
  | switchApply => exact execSwitchApply_memoryWf hm e
  | contextYield => exact execContextYield_memoryWf hm e
  | blockEndJdec => exact execBlockEndJdec_memoryWf hm e
  | deferredPush => exact execDeferredPush_memoryWf hm e
  | migrationMove => exact execMigrationMove_memoryWf hm e
  | migReqWrite => exact execMigReqWrite_memoryWf hm e
  | migStatRead => exact execMigStatRead_memoryWf hm e
  | hostTlbInvalidate => exact execHostTlbInvalidate_memoryWf hm e
  | contextLoad => exact execContextLoad_memoryWf hm e
  | contextKill => exact execContextKill_memoryWf hm e
  | contextStop => exact execContextStop_memoryWf hm e
  | contextResume => exact execContextResume_memoryWf hm e
  | peerRouteWrite => exact execPeerRouteWrite_memoryWf hm e
  | csrWrite => exact execCsrWrite_memoryWf hm e
  | hostMemoryAccess => exact execHostMemoryAccess_memoryWf hm e
  | peerRequest => exact execPeerRequest_memoryWf hm e
  | burgeePass => exact execBurgeePass_memoryWf hm e
  | deadlockProbe => exact execDeadlockProbe_memoryWf hm e
  | furl => exact execFurl_memoryWf hm e
  | unfurl => exact execUnfurl_memoryWf hm e
  | rdPacket => exact execRdPacket_memoryWf hm e
  | wrPacket => exact execWrPacket_memoryWf hm e
  | wrm => exact execWrm_memoryWf hm e
  | rdrsp => exact execRdrsp_memoryWf hm e
  | wrack => exact execWrack_memoryWf hm e
  | bankLaunchStart => exact execBankLaunchStart_memoryWf hm e
  | bankContextStop => exact execBankContextStop_memoryWf hm e
  | bankContextDone => exact execBankContextDone_memoryWf hm e
  | bsuWatchdogReset => exact execBsuWatchdogReset_memoryWf hm e
  | refresh => exact execRefresh_memoryWf hm e
  | targetedRefresh => exact execTargetedRefresh_memoryWf hm e
  | bsuBurst => exact execBsuBurst_memoryWf hm e
  | nli d imm => exact execNli_memoryWf d imm hm e
  | nliH d imm => exact execNliH_memoryWf d imm hm e
  | nadd d a b => exact execNadd_memoryWf d a b hm e
  | naddi d a imm => exact execNaddi_memoryWf d a imm hm e
  | nshl d a sh => exact execNshl_memoryWf d a sh hm e
  | nbr cmp d a imm => exact execNbr_memoryWf cmp d a imm hm e
  | crd a => exact execCrd_memoryWf a hm e
  | crdRef a => exact execCrdRef_memoryWf a hm e
  | wr a => exact execWr_memoryWf a hm e
  | bpop d => exact execBpop_memoryWf d hm e
  | nend => exact execNend_memoryWf hm e
  | xget d w => exact execXget_memoryWf d w hm e
  | xnext => exact execXnext_memoryWf hm e
  | xcadd m d => exact execXcadd_memoryWf m d hm e
  | xli d imm => exact execXli_memoryWf d imm hm e
  | xliF2 d imm => exact execXliF2_memoryWf d imm hm e
  | xadd m d a b => exact execXadd_memoryWf m d a b hm e
  | xsub m d a b => exact execXsub_memoryWf m d a b hm e
  | xmul m d a b => exact execXmul_memoryWf m d a b hm e
  | xfma m d a b c => exact execXfma_memoryWf m d a b c hm e
  | xmin m d a b => exact execXmin_memoryWf m d a b hm e
  | xmax m d a b => exact execXmax_memoryWf m d a b hm e
  | xlop op d a b => exact execXlop_memoryWf op d a b hm e
  | xhsum m d a => exact execXhsum_memoryWf m d a hm e
  | xsend a => exact execXsend_memoryWf a hm e
  | xbr cmp d a imm => exact execXbr_memoryWf cmp d a imm hm e
  | xend => exact execXend_memoryWf hm e
  | powerOnReset => exact execPowerOnReset_memoryWf hm e
  | bootReset => exact execBootReset_memoryWf hm e
  | attestationGo => exact execAttestationGo_memoryWf hm e
  | attestationDone => exact execAttestationDone_memoryWf hm e
  | clockStepChange => exact execClockStepChange_memoryWf hm e
  | thermalTrip => exact execThermalTrip_memoryWf hm e
  | operationComplete => exact execOperationComplete_memoryWf hm e
  | furlCtlWrite => exact execFurlCtlWrite_memoryWf hm e

/-! ### A step (R36 to R40) -/

theorem State.after_memoryWf {s t : State} (hs : s.memoryWf = true) (ht : t.memoryWf = true) :
    (s.after t).memoryWf = true := by
  unfold State.after
  cases e : s.fillFault t with
  | none => exact State.fitL2_memoryWf (State.beside_memoryWf s ht)
  | some u => exact State.fitL2_memoryWf (State.fillFault_memoryWf hs e)

theorem State.perform_memoryWf {s : State} (i : Instr) (hm : s.memoryWf = true) {t : State}
    (e : s.perform i = .next t) : t.memoryWf = true := by
  unfold State.perform at e
  split at e
  · rename_i hx
    cases e
    exact State.fitL2_memoryWf (State.stepped_memoryWf i hm (exec_memoryWf i hm hx))
  · cases e
  · cases e

theorem step_memoryWf {s : State} (hm : s.memoryWf = true) {t : State} (e : step s = .next t) :
    t.memoryWf = true := by
  grind [step, State.nextAction_memoryWf, State.takeAction_memoryWf, State.perform_memoryWf, State.after_memoryWf]

/-- Settles O6: every operation that a step is made of keeps the form. -/
theorem stepsKeepMemoryCanonical : Obligations.StepsKeepMemoryCanonical :=
  fun _ _ hm e => step_memoryWf hm e

end Sys2Proof.Machine
end

section
/-!
PROOF. Page waits and fault records, and the life of a context (O41).
-/
namespace Sys2Proof.Machine
open Sys2Proof

/-! ### The record at the tail of a ring (R319) -/

/-- The low bytes of a number are those of its remainder. -/
theorem take_leBytes {k n : Nat} (h : k ≤ n) (x : Nat) : (leBytes n x).take k = leBytes k x := by
  rw [leBytes, ← List.map_take, List.take_range, Nat.min_eq_left h]
  rfl

theorem length_faultBytes (r : FaultRec) (ctx : Nat) (seq : Word) : (r.bytes ctx seq).length = 32 := length_leBytes _ _

/-- SEQ is the record's first word. -/
theorem seq_faultBytes (r : FaultRec) (ctx : Nat) (seq : Word) : leNat ((r.bytes ctx seq).take 4) = seq.toNat := by
  have hseq := seq.isLt
  rw [FaultRec.bytes, take_leBytes (by norm_num), leNat_leBytes]
  omega

/-- The entry of a ring that its tail names. -/
def Ctx.tailCell (c : Ctx) (n : Nat) : Nat := c.frBase.toNat - c.frBase.toNat % 4096 + 32 * (c.frTail.toNat % 2 ^ n)

/-- The state with a record written at the tail of a context's ring and the tail moved on, and these records still held. -/
def State.recordWritten (s : State) (ctx n : Nat) (r : FaultRec) (rest : List FaultRec) : State :=
  (s.writeVirt ctx ((s.ctx ctx).tailCell n) (r.bytes ctx (s.ctx ctx).frTail)).setCtx ctx
    { s.ctx ctx with frTail := (s.ctx ctx).frTail + 1#32, heldRecs := rest }

theorem recordWritten_faultWaits (s : State) (ctx n : Nat) (r : FaultRec) (rest : List FaultRec) :
    (s.recordWritten ctx n r rest).faultWaits = s.faultWaits :=
  (State.SameButMemory.writeVirt s ctx _ _ _).field State.faultWaits rfl

theorem recordWritten_ctx {s : State} {ctx : Nat} (h : ctx < s.ctxs.length) (n : Nat) (r : FaultRec) (rest : List FaultRec) :
    (s.recordWritten ctx n r rest).ctx ctx = { s.ctx ctx with frTail := (s.ctx ctx).frTail + 1#32, heldRecs := rest } := by
  have hctxs : (s.writeVirt ctx ((s.ctx ctx).tailCell n) (r.bytes ctx (s.ctx ctx).frTail)).ctxs = s.ctxs :=
    (State.SameButMemory.writeVirt s ctx _ _ _).field State.ctxs rfl
  exact State.ctx_setCtx_self _ _ (by rw [hctxs]; exact h)

/-- Which waits have their record written changes no byte. -/
theorem readByte_recordWritten (s : State) (ctx n : Nat) (r : FaultRec) (rest : List FaultRec) (ws : List FaultWait) (pa : Nat) :
    ({ s.recordWritten ctx n r rest with faultWaits := ws } : State).readByte pa =
      (s.writeVirt ctx ((s.ctx ctx).tailCell n) (r.bytes ctx (s.ctx ctx).frTail)).readByte pa := by
  unfold State.recordWritten
  generalize s.writeVirt ctx ((s.ctx ctx).tailCell n) (r.bytes ctx (s.ctx ctx).frTail) = t
  rfl

section
variable {s : State} {ctx : Nat}

theorem writeHeld_noRing (h : (s.ctx ctx).ringLog = none) : s.writeHeld ctx = s := by
  rw [State.writeHeld, h]

theorem writeHeld_noRecord (h : (s.ctx ctx).heldRecs = []) : s.writeHeld ctx = s := by
  rw [State.writeHeld, h]
  cases (s.ctx ctx).ringLog <;> rfl

variable {n : Nat} (hring : (s.ctx ctx).ringLog = some n)
include hring

theorem writeHeld_full (h : 2 ^ n ≤ ((s.ctx ctx).frTail - (s.ctx ctx).frHead).toNat) : s.writeHeld ctx = s := by
  rw [State.writeHeld, hring]
  cases (s.ctx ctx).heldRecs with
  | nil => rfl
  | cons r rest => exact if_neg (Nat.not_lt.mpr h)

/-- With room in the ring the oldest record that is held is written; of the waits, only the numbers of their records change. -/
theorem writeHeld_room {r : FaultRec} {rest : List FaultRec} (hheld : (s.ctx ctx).heldRecs = r :: rest)
    (hroom : ((s.ctx ctx).frTail - (s.ctx ctx).frHead).toNat < 2 ^ n) :
    ∃ ws, s.writeHeld ctx = { s.recordWritten ctx n r rest with faultWaits := ws } ∧
      ∀ x ∈ s.faultWaits, ∃ y ∈ ws, y.id = x.id ∧ y.waiter = x.waiter ∧ y.passed = x.passed := by
  have hgo : s.writeHeld ctx =
      match r.wait with
      | some i => { s.recordWritten ctx n r rest with
          faultWaits := (s.recordWritten ctx n r rest).faultWaits.map fun f =>
            if f.id = i then { f with seq := some (s.ctx ctx).frTail } else f }
      | none => s.recordWritten ctx n r rest := by
    rw [State.writeHeld, hring, hheld]
    exact if_pos hroom
  cases hw : r.wait with
  | none =>
    refine ⟨_, by rw [hgo, hw], fun x hx => ⟨x, ?_, rfl, rfl, rfl⟩⟩
    rw [recordWritten_faultWaits]
    exact hx
  | some i =>
    refine ⟨_, by rw [hgo, hw], fun x hx => ⟨_, List.mem_map_of_mem (recordWritten_faultWaits s ctx n r rest ▸ hx), ?_⟩⟩
    split <;> exact ⟨rfl, rfl, rfl⟩

/-- With room, the oldest record held is written at the tail. -/
theorem writeHeld_written {r : FaultRec} {rest : List FaultRec} (hheld : (s.ctx ctx).heldRecs = r :: rest)
    (hroom : ((s.ctx ctx).frTail - (s.ctx ctx).frHead).toNat < 2 ^ n) (hlen : ctx < s.ctxs.length) :
    ((s.writeHeld ctx).ctx ctx).frTail = (s.ctx ctx).frTail + 1#32 ∧ ((s.writeHeld ctx).ctx ctx).heldRecs = rest ∧
      ∀ pa, (s.writeHeld ctx).readByte pa =
        (s.writeVirt ctx ((s.ctx ctx).tailCell n) (r.bytes ctx (s.ctx ctx).frTail)).readByte pa := by
  obtain ⟨ws, hgo, _⟩ := writeHeld_room hring hheld hroom
  have hctx := recordWritten_ctx hlen n r rest
  rw [hgo]
  exact ⟨congrArg Ctx.frTail hctx, congrArg Ctx.heldRecs hctx, readByte_recordWritten s ctx n r rest ws⟩

end

/-- A wait is still the wait of its waiter, and passed or not as it was, after records were written. -/
theorem exists_wait_writeHeld (s : State) (ctx : Nat) {x : FaultWait} (hx : x ∈ s.faultWaits) :
    ∃ y ∈ (s.writeHeld ctx).faultWaits, y.id = x.id ∧ y.waiter = x.waiter ∧ y.passed = x.passed := by
  have hsame (h : s.writeHeld ctx = s) : ∃ y ∈ (s.writeHeld ctx).faultWaits, y.id = x.id ∧ y.waiter = x.waiter ∧ y.passed = x.passed :=
    ⟨x, h.symm ▸ hx, rfl, rfl, rfl⟩
  cases hring : (s.ctx ctx).ringLog with
  | none => exact hsame (writeHeld_noRing hring)
  | some n =>
    cases hheld : (s.ctx ctx).heldRecs with
    | nil => exact hsame (writeHeld_noRecord hheld)
    | cons r rest =>
      by_cases hroom : ((s.ctx ctx).frTail - (s.ctx ctx).frHead).toNat < 2 ^ n
      · obtain ⟨ws, hgo, hws⟩ := writeHeld_room hring hheld hroom
        rw [hgo]
        exact hws x hx
      · exact hsame (writeHeld_full hring (Nat.not_lt.mp hroom))

/-! ### A page is walked again (R380) -/

/-- The record that FAULT_REWALK posts for a page that stays absent. -/
def FaultWait.record (f : FaultWait) : FaultRec :=
  { addr := BitVec.ofNat 64 f.va, pc := f.pc, core := f.core, kind := 0, detail := 1#8, code := BitVec.ofNat 8 f.code, wait := some f.id }

/-- The state in which a wait counts from a new record. -/
def State.waitsAnew (s : State) (f : FaultWait) : State :=
  { s with faultWaits := s.faultWaits.map fun (x : FaultWait) => if x.id = f.id then { x with seq := none, passed := false } else x }

/-- The state with a record held behind those of its context. -/
def State.holdRecord (s : State) (ctx : Nat) (r : FaultRec) : State :=
  s.setCtx ctx { s.ctx ctx with heldRecs := (s.ctx ctx).heldRecs ++ [r] }

/-- A record that joins those held, once they are written as far as the ring has room. -/
theorem holdRecord_ctx {s : State} {ctx : Nat} (hctx : ctx < s.ctxs.length) (r : FaultRec) :
    (s.holdRecord ctx r).ctx ctx = { s.ctx ctx with heldRecs := (s.ctx ctx).heldRecs ++ [r] } := State.ctx_setCtx_self _ _ hctx

section
variable {s : State} {ctx n : Nat} {r : FaultRec} (hctx : ctx < s.ctxs.length) (hring : (s.ctx ctx).ringLog = some n)
include hctx hring

theorem writeHeld_held_full (hfull : 2 ^ n ≤ ((s.ctx ctx).frTail - (s.ctx ctx).frHead).toNat) :
    (s.holdRecord ctx r).writeHeld ctx = s.holdRecord ctx r :=
  writeHeld_full (by rw [holdRecord_ctx hctx]; exact hring) (by rw [holdRecord_ctx hctx]; exact hfull)

theorem writeHeld_held_written {h : FaultRec} {rest : List FaultRec} (hroom : ((s.ctx ctx).frTail - (s.ctx ctx).frHead).toNat < 2 ^ n)
    (hheld : (s.ctx ctx).heldRecs ++ [r] = h :: rest) :
    (((s.holdRecord ctx r).writeHeld ctx).ctx ctx).frTail = (s.ctx ctx).frTail + 1#32 ∧
      (((s.holdRecord ctx r).writeHeld ctx).ctx ctx).heldRecs = rest ∧
      ∀ pa, ((s.holdRecord ctx r).writeHeld ctx).readByte pa =
        ((s.holdRecord ctx r).writeVirt ctx ((s.ctx ctx).tailCell n) (h.bytes ctx (s.ctx ctx).frTail)).readByte pa := by
  have hhold := holdRecord_ctx hctx r
  have hlen : ctx < (s.holdRecord ctx r).ctxs.length := by
    rw [State.holdRecord, State.setCtx_ctxs, setNth_length]
    exact hctx
  have hwritten := writeHeld_written (s := s.holdRecord ctx r) (n := n) (r := h) (rest := rest) (by rw [hhold]; exact hring)
    (by rw [hhold]; exact hheld) (by rw [hhold]; exact hroom) hlen
  rw [hhold] at hwritten
  exact hwritten

end

theorem postRecord_noRing {s : State} {ctx : Nat} (h : (s.ctx ctx).ringLog = none) (r : FaultRec) : s.postRecord ctx r = s := by
  rw [State.postRecord, h]

theorem postRecord_ring {s : State} {ctx n : Nat} (h : (s.ctx ctx).ringLog = some n) (r : FaultRec) :
    s.postRecord ctx r = (s.holdRecord ctx r).writeHeld ctx := by
  rw [State.postRecord, h]
  rfl

section
variable {s : State} {f : FaultWait} (hf : s.faultWaits.find? (fun x => x.id == s.arg 0) = some f)
include hf

theorem execFaultRewalk_waits (h : f.passed = false) : exec .faultRewalk s = .next s := by
  simp only [exec_faultRewalk, execFaultRewalk, hf, h, Bool.not_false, Bool.true_or, if_true]

variable (hp : f.passed = true) (haway : s.waiterAway f = true)
include hp haway

theorem execFaultRewalk_present {leaf : Leaf} (h : s.walk f.ctx f.va f.access = .ok leaf) :
    exec .faultRewalk s = .next (s.endFault f none) := by
  simp only [exec_faultRewalk, execFaultRewalk, hf, hp, haway, Bool.not_true, Bool.or_self, Bool.false_eq_true, if_false, h]

theorem execFaultRewalk_fails {d : Nat} (hd : d ≠ 0x01) (h : s.walk f.ctx f.va f.access = .error d) :
    exec .faultRewalk s = .next (s.endFault f (some d)) := by
  simp only [exec_faultRewalk, execFaultRewalk, hf, hp, haway, Bool.not_true, Bool.or_self, Bool.false_eq_true, if_false, h, if_neg hd]

theorem execFaultRewalk_absent (h : s.walk f.ctx f.va f.access = .error 0x01) :
    exec .faultRewalk s = .next ((s.waitsAnew f).postRecord f.ctx f.record) := by
  simp only [exec_faultRewalk, execFaultRewalk, hf, hp, haway, Bool.not_true, Bool.or_self, Bool.false_eq_true, if_false, h, if_true]
  rfl

end

theorem mem_waitsAnew {s : State} {f : FaultWait} (hf : f ∈ s.faultWaits) :
    { f with seq := none, passed := false } ∈ (s.waitsAnew f).faultWaits :=
  List.mem_map.mpr ⟨f, hf, if_pos rfl⟩

/-- A wait whose page stays absent goes on, not passed. -/
theorem exists_wait_postRecord {s : State} {f : FaultWait} (hf : f ∈ s.faultWaits) :
    ∃ x ∈ ((s.waitsAnew f).postRecord f.ctx f.record).faultWaits, x.id = f.id ∧ x.waiter = f.waiter ∧ x.passed = false := by
  have hmem := mem_waitsAnew hf
  cases hring : ((s.waitsAnew f).ctx f.ctx).ringLog with
  | none =>
    rw [postRecord_noRing hring]
    exact ⟨_, hmem, rfl, rfl, rfl⟩
  | some n =>
    rw [postRecord_ring hring]
    exact exists_wait_writeHeld ((s.waitsAnew f).holdRecord f.ctx f.record) f.ctx hmem

/-! ### The end of a wait (R380) -/

theorem endFault_faultWaits (s : State) (f : FaultWait) {x : FaultWait} (hx : x ∈ (s.endFault f none).faultWaits) : x.id ≠ f.id := by
  have hgone (l : List FaultWait) (h : x ∈ l.filter fun y => y.id != f.id) : x.id ≠ f.id := by simpa using (List.mem_filter.mp h).2
  have hwaits : (s.endFault f none).faultWaits = s.faultWaits.filter fun y => y.id != f.id := by
    unfold State.endFault
    dsimp only
    split
    · rw [State.updWarp_faultWaits]
      rfl
    all_goals rfl
  exact hgone _ (hwaits ▸ hx)

/-- A parked path may issue again when its wait is over. -/
theorem endFault_parked {s : State} {f : FaultWait} {b wi slot : Nat} {blk : Block} {w : Warp} {p : Path}
    (hf : f.waiter = .warp b wi slot) (hw : s.warp? b wi = some (blk, w)) (hp : w.path slot = some p) (hwait : p.wait = .parked f.id) :
    ∃ blk1 w1 q, (s.endFault f none).warp? b wi = some (blk1, w1) ∧ w1.path slot = some q ∧ q.wait = .ready ∧ q.pc = p.pc := by
  have hend : s.endFault f none = (s.endPageWait f.id).updWarp b wi fun w =>
      match w.path slot with
      | some p => if p.wait = .parked f.id then w.setWait slot .ready else w
      | none => w := by
    rw [State.endFault, hf] <;> rfl
  have hw' : (s.endPageWait f.id).warp? b wi = some (blk, w) := hw
  rw [hend, warp?_updWarp_self hw']
  refine ⟨_, _, { p with wait := .ready }, rfl, ?_, rfl, rfl⟩
  simp only [hp, hwait, if_true, Warp.path_setWait_self, Option.map_some]

/-! ### The host's writes of a context's controls (R318, R321) -/

theorem windowTable_length {s : State} {base : Nat} (h : base ≠ 0) : (s.windowTable base).length = 256 := by
  rw [State.windowTable, if_neg h, List.length_map, List.length_range]

theorem windowTable_zero (s : State) : s.windowTable 0 = [] := if_pos rfl

/-- A context without its handles on the device: each step of a kill leaves the contexts' own CSRs. -/
theorem writeStatus_ctxs (s : State) (chan : Nat) (k : BankCtx) : (s.writeStatus chan k).ctxs = s.ctxs := by
  unfold State.writeStatus
  dsimp only
  rw [(State.SameButMemory.writeVirt _ _ _ _ _).field State.ctxs rfl]
  split <;> rfl

theorem arriveObj_ctxs (s : State) (b obj n : Nat) (err : Bool) : (s.arriveObj b obj n err).ctxs = s.ctxs :=
  (State.SameButBlocks.spadWrite s b obj _).field State.ctxs rfl

theorem bankReport_ctxs (s : State) (l : BankLaunch) (chan : Nat) (code : Option Nat) : (s.bankReport l chan code).ctxs = s.ctxs := by
  unfold State.bankReport
  split
  · split
    · exact arriveObj_ctxs _ _ _ _ _
    · rfl
  · split
    · exact State.updWarp_ctxs ..
    · rfl

theorem bankEnd_ctxs (s : State) (chan cx : Nat) (k : BankCtx) (st : BankState) : (s.bankEnd chan cx k st).ctxs = s.ctxs := by
  rw [State.bankEnd, bankReport_ctxs, writeStatus_ctxs]
  rfl

/-- A context of a channel ends when it is of a context that is killed. -/
def State.endBankOf (ctx chan : Nat) (s : State) (cx : Nat) : State :=
  match s.bankCtx? chan cx with
  | some k => if k.launch.ctx = ctx then s.bankEnd chan cx k .aborted else s
  | none => s

theorem endBankOf_ctxs (ctx chan : Nat) (s : State) (cx : Nat) : (State.endBankOf ctx chan s cx).ctxs = s.ctxs := by
  unfold State.endBankOf
  split
  · split
    · exact bankEnd_ctxs _ _ _ _ _
    · rfl
  · rfl

/-- What a kill leaves of a channel: its contexts of the killed one ended, and those queued with their status written. -/
def State.endChan (ctx : Nat) (s : State) (chan : Nat) : State :=
  let s1 := (List.range 4).foldl (State.endBankOf ctx chan) s
  let s2 := s1.setChan chan { s1.chan chan with queue := (s1.chan chan).queue.filter fun l => l.ctx != ctx }
  ((s1.chan chan).queue.filter fun l => l.ctx == ctx).foldl
    (fun (s : State) (l : BankLaunch) => s.writeStatus chan { l.context chan with state := .aborted }) s2

theorem endChan_ctxs (ctx : Nat) (s : State) (chan : Nat) : (State.endChan ctx s chan).ctxs = s.ctxs := by
  have hends : ((List.range 4).foldl (State.endBankOf ctx chan) s).ctxs = s.ctxs := foldl_field (endBankOf_ctxs ctx chan) _ s
  unfold State.endChan
  generalize (List.range 4).foldl (State.endBankOf ctx chan) s = s1 at hends ⊢
  dsimp only
  rw [foldl_field (g := State.ctxs) (fun t (k : BankLaunch) => writeStatus_ctxs t chan _)]
  exact hends

theorem endBanks_ctxs (s : State) (ctx : Nat) : (s.endBanks ctx).ctxs = s.ctxs :=
  foldl_field (f := State.endChan ctx) (endChan_ctxs ctx) (List.range s.chans.length) s

theorem bindOffAll_ctxs (s : State) (ctx : Nat) : (s.bindOffAll ctx).ctxs = s.ctxs := by
  refine foldl_field (g := State.ctxs) (fun s p => ?_) _ s
  split <;> rfl

/-- The stitch of a context at a position, if one lies there. -/
def State.stitchOf (s : State) (ctx p : Nat) : Prop := ((s.ring.at p).stitch.map (·.ctx)) = some ctx

theorem ring_bindOff_of_ne (s : State) {p k : Nat} (h : k ≠ p) : (s.bindOff p).ring.at k = s.ring.at k :=
  nth_setNth_of_ne _ _ _ _ _ h

theorem ring_bindOff_self (s : State) (p : Nat) (h : p < s.ring.pos.length) : ((s.bindOff p).ring.at p).stitch = none :=
  congrArg RingPos.stitch (nth_setNth_self _ _ _ _ h)

theorem length_bindOff (s : State) (p : Nat) : (s.bindOff p).ring.pos.length = s.ring.pos.length := setNth_length _ _ _

/-- Positions bound off one after another, where a stitch of the context lies. -/
theorem bindOffs_spec (ctx : Nat) (s : State) : ∀ n, n ≤ s.ring.pos.length →
    let t := (List.range n).foldl (fun (s : State) (p : Nat) =>
      if (((s.ring.at p).stitch).map (·.ctx)) = some ctx then s.bindOff p else s) s
    t.ring.pos.length = s.ring.pos.length ∧ ∀ p, p < n → ∀ y, (t.ring.at p).stitch = some y → y.ctx ≠ ctx
  | 0, _ => ⟨rfl, fun p hp => absurd hp (Nat.not_lt_zero p)⟩
  | n + 1, hn => by
    obtain ⟨hlen, hbefore⟩ := bindOffs_spec ctx s n (by omega)
    rw [List.range_succ, List.foldl_append, List.foldl_cons, List.foldl_nil]
    generalize (List.range n).foldl _ s = t at hlen hbefore ⊢
    dsimp only
    split
    next hstitch =>
      refine ⟨(length_bindOff t n).trans hlen, fun p hp y hy => ?_⟩
      by_cases hpn : p = n
      · subst hpn
        rw [ring_bindOff_self t p (by omega)] at hy
        cases hy
      · rw [ring_bindOff_of_ne t hpn] at hy
        exact hbefore p (by omega) y hy
    next hnone =>
      refine ⟨hlen, fun p hp y hy hctx => ?_⟩
      by_cases hpn : p = n
      · subst hpn
        exact hnone (by rw [hy, Option.map_some, hctx])
      · exact hbefore p (by omega) y hy hctx

/-- No stitch of the context lies on the ring once all were bound off (R222). -/
theorem no_stitch_bindOffAll (s : State) (ctx : Nat) {x : RingPos} (hx : x ∈ (s.bindOffAll ctx).ring.pos) {y : Stitch}
    (hy : x.stitch = some y) : y.ctx ≠ ctx := by
  obtain ⟨hlen, hnone⟩ := bindOffs_spec ctx s s.ring.pos.length (Nat.le_refl _)
  obtain ⟨p, hp, rfl⟩ := List.mem_iff_getElem.mp hx
  have hlen' : (s.bindOffAll ctx).ring.pos.length = s.ring.pos.length := hlen
  have hat : (s.bindOffAll ctx).ring.at p = (s.bindOffAll ctx).ring.pos[p] := by
    rw [Ring.at, nth_eq_getD, List.getElem?_eq_getElem hp, Option.getD_some]
  exact hnone p (by omega) y (by rw [← hy, ← hat]; rfl)

/-- A context killed: nothing of it is left but its CSRs as they are created. -/
def State.killed (s : State) (ctx : Nat) : State :=
  ((((s.endBanks ctx).bindOffAll ctx).freeProxies ctx).forget ctx).setCtx ctx Ctx.created

theorem forget_ctxs (s : State) (ctx : Nat) : (((((s.endBanks ctx).bindOffAll ctx).freeProxies ctx).forget ctx)).ctxs = s.ctxs :=
  (bindOffAll_ctxs _ ctx).trans (endBanks_ctxs s ctx)

theorem killed_ctx_self {s : State} {ctx : Nat} (h : ctx < s.ctxs.length) : (s.killed ctx).ctx ctx = Ctx.created :=
  State.ctx_setCtx_self _ _ (by rw [forget_ctxs]; exact h)

theorem killed_ctx_of_ne (s : State) {ctx x : Nat} (h : x ≠ ctx) : (s.killed ctx).ctx x = s.ctx x := by
  rw [State.killed, State.ctx_setCtx_of_ne _ _ h, State.ctx, forget_ctxs]
  rfl

/-- What is kept of a list without what is of a context is of another. -/
theorem ctx_ne_of_mem_filter {α : Type} {f : α → Nat} {c : Nat} {l : List α} {x : α} (h : x ∈ l.filter fun y => f y != c) :
    f x ≠ c := by simpa using (List.mem_filter.mp h).2

theorem no_run_killed (s : State) (ctx : Nat) {h : Home} (hh : h ∈ (s.killed ctx).homes) {r : Run} (hr : r ∈ h.runs) : r.ctx ≠ ctx := by
  obtain ⟨x, _, rfl⟩ := List.mem_map.mp hh
  exact ctx_ne_of_mem_filter hr

/-! ### A shoot-down by the host (R186) -/

theorem readByte_shootDown (s : State) (ctx va : Nat) {pa : Nat} (h : ∀ e ∈ s.tlb, e.ctx = ctx → pa ≠ e.pte + 1) :
    (s.shootDown ctx va).readByte pa = s.readByte pa := by
  refine harvest_readByte true fun e he htest => h e he ?_
  simp only [Bool.and_eq_true, beq_iff_eq] at htest
  exact htest.1.1

/-! ### FR_HEAD (R380) -/

/-- A wait whose record FR_HEAD passes, at a value of FR_HEAD. -/
def FaultWait.passedBy (ctx : Nat) (v : Word) (f : FaultWait) : FaultWait :=
  match f.seq with
  | some n => if f.ctx = ctx ∧ 0 < (v - n).toInt then { f with passed := true } else f
  | none => f

theorem passedBy_cases (ctx : Nat) (v : Word) (f : FaultWait) : f.passedBy ctx v = f ∨
    f.passedBy ctx v = { f with passed := true } ∧ f.ctx = ctx ∧ ∃ n, f.seq = some n ∧ 0 < (v - n).toInt := by
  unfold FaultWait.passedBy
  split
  next n hseq =>
    split
    next h => exact .inr ⟨rfl, h.1, n, hseq, h.2⟩
    next => exact .inl rfl
  next => exact .inl rfl

theorem passedBy_passed {ctx : Nat} {v n : Word} {f : FaultWait} (hctx : f.ctx = ctx) (hseq : f.seq = some n) (h : 0 < (v - n).toInt) :
    f.passedBy ctx v = { f with passed := true } := by
  rw [FaultWait.passedBy, hseq]
  exact if_pos ⟨hctx, h⟩

theorem exec_frHeadWrite_ready {s : State} (h : s.dev.ready = true) : exec .frHeadWrite s = .next
    { s.setCtx (s.arg 0) { s.ctx (s.arg 0) with frHead := BitVec.ofNat 32 (s.arg 1) } with
      faultWaits := s.faultWaits.map (FaultWait.passedBy (s.arg 0) (BitVec.ofNat 32 (s.arg 1))) } := by
  rw [exec_frHeadWrite, execFrHeadWrite, h]
  rfl

/-! ### The controls of a context (R318, R321) -/

/-- A block on a core stops with its context. -/
def Block.stopIn (ctx : Nat) (b : Block) : Block := if b.ctx = ctx ∧ b.core?.isSome then { b with stopping := true } else b

theorem stopIn_stopping {ctx : Nat} {b : Block} (hctx : (b.stopIn ctx).ctx = ctx) (hcore : (b.stopIn ctx).core?.isSome = true) :
    (b.stopIn ctx).stopping = true := by
  unfold Block.stopIn at hctx hcore ⊢
  by_cases h : b.ctx = ctx ∧ b.core?.isSome
  · rw [if_pos h]
  · rw [if_neg h] at hctx hcore
    exact absurd ⟨hctx, hcore⟩ h

section
variable {s : State}

theorem exec_contextLoad_idle (hready : s.dev.ready = true) (hidle : s.ctxIdle (s.arg 0) = true) : exec .contextLoad s = .next
    (({ s with drawn := s.drawn + 8192 } : State).setCtx (s.arg 0)
      { s.ctx (s.arg 0) with live := true, windows := s.windowTable (s.ctx (s.arg 0)).pwBase.toNat }) := by
  rw [exec_contextLoad, execContextLoad, hready, hidle]
  rfl

theorem exec_contextLoad_busy (hbusy : s.ctxIdle (s.arg 0) = false) : exec .contextLoad s = .next s := by
  rw [exec_contextLoad, execContextLoad, hbusy, Bool.and_false]
  rfl

theorem exec_contextStop_ready (hready : s.dev.ready = true) : exec .contextStop s = .next
    { s.setCtx (s.arg 0) { s.ctx (s.arg 0) with stop := true } with blocks := s.blocks.map (Block.stopIn (s.arg 0)) } := by
  rw [exec_contextStop, execContextStop, hready]
  rfl

theorem exec_contextResume_ready (hready : s.dev.ready = true) : exec .contextResume s = .next
    (s.setCtx (s.arg 0) { s.ctx (s.arg 0) with stop := false }) := by
  rw [exec_contextResume, execContextResume, hready]
  rfl

theorem exec_contextKill_idle (hready : s.dev.ready = true) (hlive : (s.ctx (s.arg 0)).live = true)
    (hidle : s.ctxIdle (s.arg 0) = true) : exec .contextKill s = .next (s.killed (s.arg 0)) := by
  rw [exec_contextKill, execContextKill]
  simp only [hready, hlive, hidle]
  rfl

theorem exec_contextKill_busy (hbusy : s.ctxIdle (s.arg 0) = false) : exec .contextKill s = .next s := by
  rw [exec_contextKill, execContextKill]
  simp only [hbusy, Bool.and_false]
  rfl

theorem exec_hostTlbInvalidate_ready (hready : s.dev.ready = true) : exec .hostTlbInvalidate s = .next
    (s.shootDown (s.arg 0 % 64) (s.arg 1)) := by
  rw [exec_hostTlbInvalidate, execHostTlbInvalidate, hready]
  rfl

end

/-- Settles O41: records are written at the tail with room and held without, a passed wait is walked again, and the controls of a
context change it alone. -/
theorem faultRecordsAndContexts : Obligations.FaultRecordsAndContexts := by
  refine ⟨⟨?_, fun s h => ?_, fun s n hring hfull => ?_, fun s hready hlen => ?_,
    fun s f hf => ⟨fun hp => ?_, fun hp haway => ⟨fun leaf hwalk => ?_, fun d hd hwalk => ?_, fun hwalk => ?_⟩⟩⟩, ?_⟩
  · intro s n r rest hring hheld hlen hroom c cell
    obtain ⟨htail, hheldRecs, hbytes⟩ := writeHeld_written hring hheld hroom hlen
    exact ⟨_, rfl, htail, hheldRecs, hbytes, length_faultBytes _ _ _, seq_faultBytes _ _ _⟩
  · rcases h with hring | hheld
    · exact congrArg _ (writeHeld_noRing hring)
    · exact congrArg _ (writeHeld_noRecord hheld)
  · exact congrArg _ (writeHeld_full hring hfull)
  · refine ⟨_, exec_frHeadWrite_ready hready, congrArg Ctx.frHead (State.ctx_setCtx_self _ _ hlen), List.length_map _,
      fun f hf hpass => ?_, fun f hf n hctx hseq hpos => ?_, fun pa => rfl⟩
    · obtain ⟨f', hf', rfl⟩ := List.mem_map.mp hf
      rcases passedBy_cases (s.arg 0) (BitVec.ofNat 32 (s.arg 1)) f' with hsame | ⟨hpassed, hctx, hseq⟩
      · rw [hsame] at hpass ⊢
        exact .inl ⟨f', hf', rfl, hpass⟩
      · rw [hpassed]
        exact .inr ⟨hctx, hseq⟩
    · exact List.mem_map.mpr ⟨f, hf, passedBy_passed hctx hseq hpos⟩
  · exact execFaultRewalk_waits hf hp
  · exact ⟨_, execFaultRewalk_present hf hp haway hwalk, fun x hx => endFault_faultWaits s f hx,
      fun b wi slot blk w p hwaiter hw _ _ hpath hwait => endFault_parked hwaiter hw hpath hwait⟩
  · exact execFaultRewalk_fails hf hp haway hd hwalk
  · refine ⟨_, execFaultRewalk_absent hf hp haway hwalk, exists_wait_postRecord (List.mem_of_find?_eq_some hf),
      fun hring => postRecord_noRing (s := s.waitsAnew f) hring f.record, fun n hring hctx => ?_⟩
    rw [postRecord_ring (s := s.waitsAnew f) hring]
    exact ⟨fun hfull => writeHeld_held_full (s := s.waitsAnew f) hctx hring hfull,
      fun h rest hroom hheld => writeHeld_held_written (s := s.waitsAnew f) hctx hring hroom hheld⟩
  intro s hready hlen ctx
  refine ⟨fun hidle => ?_, fun hbusy => ⟨exec_contextLoad_busy hbusy, exec_contextKill_busy hbusy⟩, ?_, ?_, fun hlive hidle => ?_, ?_⟩
  · refine ⟨_, exec_contextLoad_idle hready hidle, ?_, fun hbase => ?_, fun hbase => ?_, rfl, fun x hx => ?_⟩
    · exact congrArg Ctx.live (State.ctx_setCtx_self _ _ hlen)
    · exact (congrArg Ctx.windows (State.ctx_setCtx_self _ _ hlen)).trans (by rw [hbase]; exact windowTable_zero s)
    · refine (congrArg (fun c => c.windows.length) (State.ctx_setCtx_self _ _ hlen)).trans ?_
      exact windowTable_length fun h => hbase (BitVec.eq_of_toNat_eq h)
    · exact State.ctx_setCtx_of_ne _ _ hx
  · refine ⟨_, exec_contextStop_ready hready, congrArg Ctx.stop (State.ctx_setCtx_self _ _ hlen), fun b hb hctx hcore => ?_,
      fun b hb hctx => ?_⟩
    · obtain ⟨x, _, rfl⟩ := List.mem_map.mp hb
      exact stopIn_stopping hctx hcore
    · exact List.mem_map.mpr ⟨b, hb, if_neg fun h => hctx h.1⟩
  · exact ⟨_, exec_contextResume_ready hready, congrArg Ctx.stop (State.ctx_setCtx_self _ _ hlen),
      fun x hx => State.ctx_setCtx_of_ne _ _ hx⟩
  · exact ⟨s.killed ctx, exec_contextKill_idle hready hlive hidle, killed_ctx_self hlen,
      fun b hb => ctx_ne_of_mem_filter hb, fun r hr => ctx_ne_of_mem_filter hr, fun e he => ctx_ne_of_mem_filter he,
      fun h hh r hr => no_run_killed s ctx hh hr, fun x hx y hy => no_stitch_bindOffAll (s.endBanks ctx) ctx hx hy,
      fun w hw => ctx_ne_of_mem_filter hw, fun x hx => killed_ctx_of_ne s hx⟩
  · exact ⟨_, exec_hostTlbInvalidate_ready hready, fun e he hctx => not_cached_shootDown s _ _ he hctx,
      fun pa h => readByte_shootDown s _ _ h⟩

end Sys2Proof.Machine
end

section
/-!
PROOF. What the host and peers can read, write and ask for (O59).
-/
namespace Sys2Proof.Machine
open Sys2Proof

/-! ### A byte at its home, in the L2 or at its channel (R170, R299) -/

/-- The memories are in canonical form, and the L2 holds no byte that is applied at a channel. -/
structure State.AtHomes (s : State) : Prop where
  dram : Memory.wf s.dram = true
  l2 : overWf s.l2 = true
  apart : ∀ x, s.uncached x = true → overGet s.l2 x = none

section
variable {s t : State} {pa : Nat} {g : Agent} {rs : List (Nat × Word)} {po : Nat}

theorem State.AtHomes.congr (h : s.AtHomes) (hdram : t.dram = s.dram) (hl2 : t.l2 = s.l2) (hchans : t.chans = s.chans) : t.AtHomes := by
  refine ⟨hdram ▸ h.dram, hl2 ▸ h.l2, fun x hx => ?_⟩
  rw [hl2]
  refine h.apart x ?_
  simpa only [State.uncached, State.chan, hchans] using hx

theorem State.AtHomes.writeByte (h : s.AtHomes) (pa : Nat) (b : Byte) (g : Agent) (rs : List (Nat × Word)) (po : Nat) :
    (s.writeByte pa b g rs po).AtHomes := by
  unfold State.writeByte
  split
  · exact h.congr rfl rfl rfl
  · split
    next => exact ⟨cellPut_wf _ _ h.dram, h.l2, h.apart⟩
    next hcached =>
      refine ⟨h.dram, overPut_wf _ _ h.l2, fun x hx => ?_⟩
      have hne : x ≠ pa := fun hxpa => hcached (hxpa ▸ hx)
      exact (overGet_put_of_ne _ _ hne).trans (h.apart x hx)

theorem State.AtHomes.putBytes (g : Agent) (rs : List (Nat × Word)) (po : Nat) : ∀ (l : List (Nat × Byte)) {s : State},
    s.AtHomes → (s.putBytes g l rs po).AtHomes
  | [], _, h => h
  | (pa, b) :: rest, _, h => putBytes g rs po rest (h.writeByte pa b g rs po)

theorem State.AtHomes.storeBytes (h : s.AtHomes) (l : List (Nat × Byte)) (w : MemTag) (rs : List (Nat × Word)) : (s.storeBytes l w rs).AtHomes :=
  State.AtHomes.congr (s := (s.note { MemEvent.of w with writes := s.replaced l }).putBytes w.agent l rs w.po)
    (State.AtHomes.putBytes _ _ _ l (h.congr rfl rfl rfl)) rfl rfl rfl

/-- A byte written is the byte read, in the L2 or at its channel. -/
theorem State.AtHomes.readByte_writeByte (h : s.AtHomes) (b : Byte) (hw : inWindow pa = false) :
    (s.writeByte pa b g rs po).readByte pa = b := by
  by_cases hu : s.uncached pa = true
  · have hnone : overGet (s.writeByte pa b g rs po).l2 pa = none := by
      rw [State.writeByte, if_neg (by simp [hw]), if_pos hu]
      exact h.apart pa hu
    have hfill : (s.writeByte pa b g rs po).filled = cutByte pa s.filled := by
      rw [State.writeByte, if_neg (by simp [hw]), if_pos hu]
    rw [State.readByte_eq, hfill, cutByte_find, if_pos rfl, hnone]
    exact dram_writeByte_uncached b g rs po h.dram hw hu
  · exact readByte_writeByte_routed s b g rs po hw (by simpa using hu)

theorem State.AtHomes.readByte_putBytes (hw : inWindow pa = false) : ∀ (l : List (Nat × Byte)) {s : State}, s.AtHomes →
    (s.putBytes g l rs po).readByte pa = lastValue pa (s.readByte pa) l
  | [], _, _ => rfl
  | (x, b) :: rest, s, h => by
    have hfirst : (s.writeByte x b g rs po).readByte pa = if x = pa then b else s.readByte pa := by
      by_cases hx : x = pa
      · subst hx
        rw [h.readByte_writeByte b hw, if_pos rfl]
      · rw [State.readByte_writeByte_of_ne s b g rs po (Ne.symm hx), if_neg hx]
    rw [State.putBytes, readByte_putBytes hw rest (h.writeByte x b g rs po), hfirst]
    rfl

/-- Bytes written from an address upward hold, each at its own place, the last value named for it. -/
theorem lastValue_zipIdx (pa : Nat) : ∀ (bs : List Byte) (k i : Nat) (v : Byte),
    lastValue (pa + (k + i)) v ((bs.zipIdx k).map fun x => (pa + x.2, x.1)) = nth v bs i
  | [], _, _, _ => rfl
  | b :: bs, k, 0, v => by
    refine lastValue_append_cons (pa + k) v b [] fun x hx => ?_
    obtain ⟨y, hy, rfl⟩ := List.mem_map.mp hx
    have := List.le_snd_of_mem_zipIdx hy
    dsimp only
    omega
  | b :: bs, k, i + 1, v => by
    have hrest := lastValue_zipIdx pa bs (k + 1) i v
    rw [Nat.add_right_comm, Nat.add_assoc k i 1] at hrest
    rw [List.zipIdx_cons, List.map_cons, lastValue, List.foldl_cons, if_neg (by dsimp only; omega)]
    exact hrest

theorem State.AtHomes.readByte_writePhys (h : s.AtHomes) (bs : List Byte) (w : MemTag) {i : Nat} (hw : inWindow (pa + i) = false) :
    (s.writePhys pa bs w).readByte (pa + i) = nth (s.readByte (pa + i)) bs i := by
  have hstep := State.AtHomes.readByte_putBytes (g := w.agent) (rs := []) (po := w.po) hw (bs.zipIdx.map fun x => (pa + x.2, x.1))
    (s := s.note { MemEvent.of w with writes := s.replaced (bs.zipIdx.map fun x => (pa + x.2, x.1)) }) (h.congr rfl rfl rfl)
  have hlast := lastValue_zipIdx pa bs 0 i (s.readByte (pa + i))
  rw [Nat.zero_add] at hlast
  exact hstep.trans hlast

theorem readByte_writePhys_of_outside (s : State) (bs : List Byte) (w : MemTag) {x : Nat} (hx : x < pa ∨ pa + bs.length ≤ x) :
    (s.writePhys pa bs w).readByte x = s.readByte x := by
  refine State.readByte_storeBytes_of_not_mem _ s w fun c hc => ?_
  obtain ⟨y, hy, rfl⟩ := List.mem_map.mp hc
  have := List.snd_lt_of_mem_zipIdx hy
  dsimp only
  omega

end

/-! ### Writes from outside (R357, R359) -/

/-- A state without its blocks and the number of free values drawn. -/
def State.blockless (s : State) : State := { s with blocks := [], drawn := 0 }

theorem spoilBlock_blockless (s : State) (b : Nat) : (s.spoilBlock b).blockless = s.blockless := by
  unfold State.spoilBlock
  split
  · rfl
  · refine foldl_field (g := State.blockless) (fun s wi => ?_) _ s
    unfold State.updWarp
    split <;> rfl

theorem changeObjectAt_blockless (s : State) (pas : List Nat) : (s.changeObjectAt pas).blockless = s.blockless :=
  foldl_field (g := State.blockless) (fun s (b : Block) => spoilBlock_blockless s b.id) _ s

/-- What looks at neither the blocks nor the free values drawn is the same after an object has changed. -/
theorem changeObjectAt_field {α : Type} (s : State) (pas : List Nat) (f : State → α) (hf : ∀ x : State, f x.blockless = f x) :
    f (s.changeObjectAt pas) = f s := by
  rw [← hf, changeObjectAt_blockless, hf]

section
variable {s : State} {pa : Nat} {bs : List Byte}

theorem State.AtHomes.readByte_outsideWrite (h : s.AtHomes) {i : Nat} (hi : i < bs.length) (hw : inWindow (pa + i) = false) :
    (s.outsideWrite pa bs).readByte (pa + i) = nth 0#8 bs i := by
  have hne : bs.isEmpty = false := by
    cases bs with
    | nil => simp at hi
    | cons => rfl
  rw [State.outsideWrite, hne]
  have hbase : (s.changeObjectAt ((List.range bs.length).map (pa + ·))).AtHomes :=
    h.congr (changeObjectAt_field s _ State.dram fun _ => rfl) (changeObjectAt_field s _ State.l2 fun _ => rfl)
      (changeObjectAt_field s _ State.chans fun _ => rfl)
  refine (hbase.readByte_writePhys bs MemTag.host hw).trans ?_
  rw [nth_eq_getD, nth_eq_getD, List.getElem?_eq_getElem hi]
  rfl

theorem readByte_outsideWrite_of_outside {x : Nat} (hx : x < pa ∨ pa + bs.length ≤ x) :
    (s.outsideWrite pa bs).readByte x = s.readByte x := by
  unfold State.outsideWrite
  split
  · rfl
  · exact (readByte_writePhys_of_outside _ bs MemTag.host hx).trans
      (changeObjectAt_field s _ (fun t => t.readByte x) fun _ => rfl)

end

/-- The bytes of an event's operands from the n-th on. -/
theorem nth_operandBytes (args : List Nat) (m : Nat) {n i : Nat} (hi : i < n) :
    nth 0#8 (((args.drop m).take n).map (BitVec.ofNat 8)) i = BitVec.ofNat 8 (nth 0 (args.drop m) i) := by
  rw [nth_map_of_fixed (f := BitVec.ofNat 8) (d := 0) rfl, nth_take _ _ hi]

theorem length_operandBytes (args : List Nat) {m n : Nat} (hlen : args.length = m + n) :
    (((args.drop m).take n).map (BitVec.ofNat 8)).length = n := by
  rw [List.length_map, List.length_take, List.length_drop, hlen]
  omega

/-! ### Context CSRs (R314, R316, R317) -/

/-- The numbers of the CSRs that a host write reaches. -/
theorem csrTable_numbers (c : Ctx) (v : Word) : (c.csrTable v).map (·.1) =
    [0x020, 0x021, 0x022, 0x023, 0x02C, 0x041, 0x042, 0x043, 0x044, 0x045, 0x046, 0x047, 0x048, 0x049, 0x04A, 0x04B, 0x04C, 0x04D,
      0x04E, 0x04F, 0x050, 0x051, 0x053, 0x05D, 0x05E, 0x024, 0x025, 0x026, 0x027, 0x028, 0x029, 0x02A, 0x02B, 0x054, 0x055, 0x056,
      0x057, 0x058, 0x059, 0x05A, 0x05B] := rfl

theorem hostWrite_csrTable (c : Ctx) (v : Word) : ∀ e ∈ c.csrTable v, c.hostWrite e.1 v = e.2 := by
  have hrange : List.range 8 = [0, 1, 2, 3, 4, 5, 6, 7] := rfl
  have hlimit : bits v 10 0 = v.toNat % 2 ^ 11 := by simp [bits]
  simp only [Ctx.csrTable, hrange, List.map_cons, List.map_nil, List.cons_append, List.nil_append, List.forall_mem_cons, ← hlimit]
  repeat' constructor
  exact fun _ h => absurd h (List.not_mem_nil)

theorem hostWrite_other {c : Ctx} {v : Word} {n : Nat} (h : ∀ e ∈ c.csrTable v, n ≠ e.1) (hpart : n ≠ 0x040) : c.hostWrite n v = c := by
  have hnum : n ∉ (c.csrTable v).map (·.1) := fun hn => by
    obtain ⟨e, he, hne⟩ := List.mem_map.mp hn
    exact h e he hne.symm
  rw [csrTable_numbers] at hnum
  simp only [List.mem_cons, List.not_mem_nil, or_false, not_or] at hnum
  have hprogram : ¬ (0x020 ≤ n ∧ n ≤ 0x02C) := by omega
  have hmask : ¬ (0x054 ≤ n ∧ n ≤ 0x05B) := by omega
  unfold Ctx.hostWrite
  split
  case h_22 => rw [if_neg hprogram, if_neg hmask]
  all_goals omega

theorem programWrite_of_not_lost (c : Ctx) (v : Word) {n : Nat} (h : ¬ (0x024 ≤ n ∧ n ≤ 0x02B)) : (c.programWrite n v).pxLost = c.pxLost := by
  unfold Ctx.programWrite
  split
  case h_6 => rw [if_neg h]
  all_goals rfl

/-- Only a write of PX_LOST changes which homes a context has lost. -/
theorem hostWrite_pxLost (c : Ctx) (v : Word) {n : Nat} (h : n < 0x024 ∨ 0x02B < n) : (c.hostWrite n v).pxLost = c.pxLost := by
  have hlost : ¬ (0x024 ≤ n ∧ n ≤ 0x02B) := by omega
  unfold Ctx.hostWrite
  split
  case h_1 => split <;> rfl
  case h_22 =>
    split
    · exact programWrite_of_not_lost c v hlost
    · split <;> rfl
  all_goals rfl

section
variable {s : State} {ctx : Nat}

theorem clearedLost_frame (s : State) (ctx : Nat) (c : Ctx) : { s.clearedLost ctx c with blocks := s.blocks } = s := by
  unfold State.clearedLost
  dsimp only
  split <;> rfl

/-- With the LOST bits as they were, no handle goes. -/
theorem clearedLost_same {c : Ctx} (h : (s.ctx ctx).pxLost = c.pxLost) : s.clearedLost ctx c = s := by
  refine if_neg fun hany => ?_
  obtain ⟨x, _, hx⟩ := List.any_eq_true.mp hany
  simp [Ctx.lost, h] at hx

variable {num : Nat} {v : Word}

/-- A host write that the device takes as it stands: the CSR holds the value, and handles of homes no longer lost name no run. -/
theorem writeCtxCsr_taken (h : s.ctxIdle ctx = true ∨ anyTime num = true) : s.writeCtxCsr ctx num v =
    (s.setCtx ctx ((s.ctx ctx).hostWrite num v)).clearedLost ctx (s.ctx ctx) :=
  if_pos (by rcases h with h | h <;> rw [h] <;> simp)

theorem writeCtxCsr_free (hbusy : s.ctxIdle ctx = false) (hlater : anyTime num = false) : s.writeCtxCsr ctx num v =
    ({ s with drawn := s.drawn + 1 } : State).setCtx ctx ((s.ctx ctx).hostWrite num (Config.freeWord s.drawn)) :=
  if_neg (by rw [hbusy, hlater]; simp)

theorem exec_csrWrite_ctx (hready : s.dev.ready = true) (h : s.arg 0 ≠ 0) : exec .csrWrite s =
    .next (s.writeCtxCsr (s.arg 1) (s.arg 2) (BitVec.ofNat 32 (s.arg 3))) := by
  rw [exec_csrWrite, execCsrWrite, State.whenReady, if_pos hready, if_pos h]

end

/-! ### The map of BAR0 (R357, R379) -/

theorem hostReg_ctx {c n : Nat} (hc : c < 64) (h : 0x020 ≤ n ∧ n ≤ 0x02C ∨ 0x040 ≤ n ∧ n ≤ 0x05E) :
    hostReg (0x1000 * c + 4 * n) = some (.ctx c n) := by
  have hnum : (0x1000 * c + 4 * n) % 0x1000 / 4 = n := by omega
  have hctx : (0x1000 * c + 4 * n) / 0x1000 = c := by omega
  have hscope : ctxScope n = true := by simpa [ctxScope] using h
  unfold hostReg
  rw [if_neg (by omega), if_pos (by omega), hnum, hctx, if_pos hscope]

theorem hostReg_peerRoute {p : Nat} (h : p < 64) : hostReg (0x580000 + 4 * p) = some (.peerRoute p) := by
  unfold hostReg
  rw [if_neg (by omega), if_neg (by omega), if_neg (by omega), if_pos (by omega), Nat.add_sub_cancel_left,
    Nat.mul_div_cancel_left _ (by norm_num)]

/-- The registers with an offset of their own past those that repeat. -/
theorem hostReg_early {off : Nat} {w : Bool} (h : (hostReg off).any (HostReg.early w) = true) :
    if w then off = 0x600008 else off = 0x600000 ∨ off = 0x600004 := by
  unfold hostReg at h
  split at h
  · simp at h
  split at h
  · split at h <;> simp [HostReg.early] at h
  split at h
  · split at h <;> simp [HostReg.early] at h
  split at h
  · simp [HostReg.early] at h
  split at h
  · simp [HostReg.early] at h
  split at h <;> simp_all [HostReg.early]

/-! ### Accesses of BAR0 (R357, R374, R379) -/

section
variable {s : State} {off : Nat}

/-- One word of BAR0 is read. -/
theorem exec_barRead (h0 : s.arg 0 = 2) (h3 : s.arg 3 = 0) (h4 : s.arg 4 = 4) {v : Word} {r : HostReg} (hreg : hostReg (s.arg 1) = some r)
    (hopen : s.barOpen false (some r) = true) (hread : s.barRead (some r) = (v, s)) :
    exec .hostMemoryAccess s = .next { s with hostReply := leBytes 4 v.toNat } := by
  have hwords : s.barReads (4 / 4) (s.arg 1) = (leBytes 4 v.toNat, s) := by
    simp [State.barReads, hreg, hopen, hread]
  rw [exec_hostMemoryAccess, execHostMemoryAccess, if_pos h0, if_neg (not_not_intro h3), h4, hwords]

theorem exec_barRead_closed (h0 : s.arg 0 = 2) (h3 : s.arg 3 = 0) (h4 : s.arg 4 = 4) (hopen : s.barOpen false (hostReg (s.arg 1)) = false) :
    exec .hostMemoryAccess s = .next { s with hostReply := [] } := by
  have hwords : s.barReads (4 / 4) (s.arg 1) = ([], s) := by
    simp [State.barReads, hopen]
  rw [exec_hostMemoryAccess, execHostMemoryAccess, if_pos h0, if_neg (not_not_intro h3), h4, hwords]

/-- The word that four bytes of an event's operands make. -/
def operandWord (b0 b1 b2 b3 : Nat) : Word := BitVec.ofNat 32 (leNat ([b0, b1, b2, b3].map (BitVec.ofNat 8)))

theorem operandWord_toNat (b0 b1 b2 b3 : Nat) : (operandWord b0 b1 b2 b3).toNat = leNat ([b0, b1, b2, b3].map (BitVec.ofNat 8)) := by
  rw [operandWord, BitVec.toNat_ofNat]
  exact Nat.mod_eq_of_lt ((leNat_lt _).trans_le (by norm_num))

theorem operandWord_bit0 (b0 b1 b2 b3 : Nat) : (operandWord b0 b1 b2 b3).getLsbD 0 = decide (b0 % 2 = 1) := by
  rw [← BitVec.testBit_toNat, operandWord_toNat, Nat.testBit_zero]
  simp only [List.map_cons, leNat, BitVec.toNat_ofNat]
  congr 1
  simp only [eq_iff_iff]
  omega

/-- One word of BAR0 is written. -/
theorem exec_barWrite {b0 b1 b2 b3 : Nat} {rest : List Nat} (h0 : s.arg 0 = 2) (h3 : s.arg 3 ≠ 0) (h4 : s.arg 4 = 4)
    (hbytes : s.args.drop 5 = b0 :: b1 :: b2 :: b3 :: rest) : exec .hostMemoryAccess s = .next
      (if s.barOpen true (hostReg (s.arg 1)) then s.barWrite (hostReg (s.arg 1)) (operandWord b0 b1 b2 b3) else s) := by
  rw [exec_hostMemoryAccess, execHostMemoryAccess, if_pos h0, if_pos h3, h4, hbytes]
  rfl

theorem barOpen_notReady (hready : s.dev.ready = false) {w : Bool} (hoff : ¬ if w then off = 0x600008 else off = 0x600000 ∨ off = 0x600004) :
    s.barOpen w (hostReg off) = false := by
  rw [State.barOpen, hready, Bool.false_or, Bool.eq_false_iff]
  exact fun h => hoff (hostReg_early h)

/-! ### Accesses of memory (R357, R359) -/

/-- An access that is not of BAR0, within its tier. -/
theorem exec_hostMemory (h0 : s.arg 0 ≠ 2) (hready : s.dev.ready = true) {base size : Nat} (hbase : base = if s.arg 0 = 0 then 0 else 2 ^ 48)
    (hsize : size = if s.arg 0 = 0 then 2 ^ 39 else 2 ^ 44) (hin : s.arg 1 + s.arg 4 ≤ size) : exec .hostMemoryAccess s = .next
      (if s.arg 3 ≠ 0 then s.outsideWrite (base + s.arg 1) (((s.args.drop 5).take (s.arg 4)).map (BitVec.ofNat 8))
       else { s with hostReply := if s.arg 2 ≠ 0 then Memory.readList s.dram (base + s.arg 1) (s.arg 4) else s.readPhys (base + s.arg 1) (s.arg 4) }) := by
  subst hbase hsize
  rw [exec_hostMemoryAccess, execHostMemoryAccess, if_neg h0]
  by_cases hbar : s.arg 0 = 0
  · rw [if_pos hbar] at hin
    simp only [hbar, ne_eq, not_true_eq_false, if_false, Nat.not_lt.mpr hin, State.whenReady, hready, if_true]
    split <;> rfl
  · rw [if_neg hbar] at hin
    simp only [hbar, ne_eq, not_false_eq_true, if_true, if_false, Nat.not_lt.mpr hin, State.whenReady, hready]
    split <;> rfl

theorem exec_peerRequest_in (hready : s.dev.ready = true) (hin : s.arg 0 + s.arg 2 ≤ 2 ^ 39) : exec .peerRequest s = .next
    (if s.arg 1 ≠ 0 then s.outsideWrite (s.arg 0) (((s.args.drop 3).take (s.arg 2)).map (BitVec.ofNat 8))
     else { s with hostReply := Memory.readList s.dram (s.arg 0) (s.arg 2) }) := by
  rw [exec_peerRequest, execPeerRequest]
  simp only [Nat.not_lt.mpr hin, if_false, State.whenReady, hready, if_true]
  split <;> rfl

theorem inWindow_of_lt {pa : Nat} (h : pa < 2 ^ 51) : inWindow pa = false := by
  rw [inWindow, decide_eq_false (by omega), Bool.false_and]

/-- A write from outside of an event's operands below the windows: each byte reads as written, and every other as before. -/
theorem State.AtHomes.reads_outsideWrite (h : s.AtHomes) {pa m n : Nat} (hin : pa + n ≤ 2 ^ 51) (hlen : s.args.length = m + n) :
    let t := s.outsideWrite pa (((s.args.drop m).take n).map (BitVec.ofNat 8))
    (∀ i, i < n → t.readByte (pa + i) = BitVec.ofNat 8 (nth 0 (s.args.drop m) i)) ∧
      ∀ x, (x < pa ∨ pa + n ≤ x) → t.readByte x = s.readByte x := by
  have hbytes := length_operandBytes s.args hlen
  refine ⟨fun i hi => ?_, fun x hx => readByte_outsideWrite_of_outside (by rwa [hbytes])⟩
  rw [h.readByte_outsideWrite (by rwa [hbytes]) (inWindow_of_lt (by omega)), nth_operandBytes _ _ hi]

theorem nth_readPhys (s : State) (pa : Nat) {n i : Nat} (h : i < n) : nth 0#8 (s.readPhys pa n) i = s.readByte (pa + i) :=
  nth_map_range _ _ h

end

/-! ### Migration (R186, R187, R360) -/

theorem whenReady_ready {s : State} (h : s.dev.ready = true) (t : State) : s.whenReady t = .next t := if_pos h

theorem whenReady_notReady {s : State} (h : s.dev.ready = false) (t : State) : s.whenReady t = .next s := if_neg (by simp [h])

/-- A page that may move is of 64 KiB or 2 MiB and lies in the other tier. -/
theorem movable_spec {s : State} {ctx va : Nat} {toPool : Bool} {l : Leaf} (h : s.movable ctx va toPool = some l) :
    (l.size = 2 ^ 16 ∨ l.size = 2 ^ 21) ∧ (if toPool then inHbm l.pa else inPool l.pa) = true := by
  unfold State.movable at h
  split at h
  · exact absurd h (by simp)
  · rw [Option.ite_none_right_eq_some] at h
    obtain ⟨htest, hl⟩ := h
    obtain rfl := Option.some.inj hl
    simp only [Bool.and_eq_true, Bool.or_eq_true, beq_iff_eq] at htest
    obtain ⟨⟨⟨⟨⟨_, hsize⟩, _⟩, htier⟩, _⟩, _⟩ := htest
    exact ⟨hsize, by simpa using htier⟩

/-- A free frame is one of the tier's. -/
theorem freeFrame_mem {used : List (Nat × Nat)} {base count size f : Nat} (hcount : 0 < count) :
    ∀ (fuel n : Nat), freeFrame used base count size fuel n = some f → ∃ k, k < count ∧ f = base + k * size
  | 0, _, h => absurd h (by simp [freeFrame])
  | fuel + 1, n, h => by
    rw [freeFrame] at h
    split at h
    · exact ⟨n % count, Nat.mod_lt _ hcount, (Option.some.inj h).symm⟩
    · exact freeFrame_mem hcount fuel _ h

/-- A frame of a tier lies in it. -/
theorem frameAt_bounds {s : State} {toPool : Bool} {size new : Nat} {x : Word} (hsize : size = 2 ^ 16 ∨ size = 2 ^ 21)
    (h : s.frameAt toPool size x = some new) :
    if toPool then 2 ^ 48 ≤ new ∧ new + size ≤ 2 ^ 48 + 2 ^ 44 else new + size ≤ 2 ^ 39 := by
  cases toPool with
  | true =>
    obtain ⟨k, hk, rfl⟩ := freeFrame_mem (by rcases hsize with rfl | rfl <;> norm_num) _ _ h
    rcases hsize with rfl | rfl <;> norm_num at hk ⊢ <;> omega
  | false =>
    obtain ⟨k, hk, rfl⟩ := freeFrame_mem (by rcases hsize with rfl | rfl <;> norm_num) _ _ h
    rcases hsize with rfl | rfl <;> norm_num at hk ⊢ <;> omega

/-- The bytes of a frame copied up to one. -/
def State.copyUpTo (s : State) (old new n : Nat) : State :=
  (List.range n).foldl (fun (s : State) (i : Nat) => s.writeByte (new + i) (s.readByte (old + i))) s

theorem copyUpTo_succ (s : State) (old new n : Nat) : s.copyUpTo old new (n + 1) =
    (s.copyUpTo old new n).writeByte (new + n) ((s.copyUpTo old new n).readByte (old + n)) := by
  rw [State.copyUpTo, List.range_succ, List.foldl_append]
  rfl

theorem sameButMemory_copyUpTo (s : State) (old new : Nat) : ∀ n, s.SameButMemory (s.copyUpTo old new n)
  | 0 => .refl s
  | n + 1 => copyUpTo_succ s old new n ▸ (sameButMemory_copyUpTo s old new n).trans (.writeByte _ _ _ _ _ _)

theorem State.AtHomes.copyUpTo {s : State} (h : s.AtHomes) (old new : Nat) : ∀ n, (s.copyUpTo old new n).AtHomes
  | 0 => h
  | n + 1 => copyUpTo_succ s old new n ▸ (copyUpTo h old new n).writeByte _ _ _ _ _

theorem readByte_copyUpTo_of_outside (s : State) (old new : Nat) {x : Nat} : ∀ n, (x < new ∨ new + n ≤ x) →
    (s.copyUpTo old new n).readByte x = s.readByte x
  | 0, _ => rfl
  | n + 1, hx => by
    rw [copyUpTo_succ, State.readByte_writeByte_of_ne _ _ _ _ _ (by omega)]
    exact readByte_copyUpTo_of_outside s old new n (by omega)

/-- Each byte of a new frame is that of the old one, where they lie apart. -/
theorem State.AtHomes.readByte_copyUpTo {s : State} (h : s.AtHomes) {old new size : Nat} (hapart : old + size ≤ new ∨ new + size ≤ old)
    (hw : new + size ≤ 2 ^ 51) : ∀ n, n ≤ size → ∀ i, i < n → (s.copyUpTo old new n).readByte (new + i) = s.readByte (old + i)
  | 0, _, _, hi => absurd hi (Nat.not_lt_zero _)
  | n + 1, hn, i, hi => by
    rw [copyUpTo_succ]
    rcases Nat.lt_succ_iff_lt_or_eq.mp hi with hlt | rfl
    · rw [State.readByte_writeByte_of_ne _ _ _ _ _ (by omega)]
      exact readByte_copyUpTo h hapart hw n (by omega) i hlt
    · rw [(h.copyUpTo old new i).readByte_writeByte _ (inWindow_of_lt (by omega))]
      exact readByte_copyUpTo_of_outside s old new i (by omega)

theorem State.AtHomes.harvestAll : ∀ (es : List TlbEntry) {s : State}, s.AtHomes → (s.harvestAll es).AtHomes
  | [], _, h => h
  | e :: es, s, h => by
    refine harvestAll es (State.AtHomes.storeBytes (s := if inWindow e.pte then { s with drawn := s.drawn + 1 } else s) ?_ _ _ _)
    split
    · exact h.congr rfl rfl rfl
    · exact h

theorem State.AtHomes.shootDown {s : State} (h : s.AtHomes) (ctx va : Nat) : (s.shootDown ctx va).AtHomes :=
  State.AtHomes.congr (s := s.harvestAll _) (.harvestAll _ h) rfl rfl rfl

/-- A page-table entry that names a frame, the rest of it as it was (R162). -/
def renamed (e new : Nat) : Nat := e % 2 ^ 16 + new / 2 ^ 16 % 2 ^ 36 * 2 ^ 16 + e / 2 ^ 52 * 2 ^ 52

theorem renamed_lt {e : Nat} (new : Nat) (h : e < 2 ^ 64) : renamed e new < 2 ^ 64 := by
  unfold renamed
  omega

theorem renamed_frame (e new : Nat) : renamed e new / 2 ^ 16 % 2 ^ 36 = new / 2 ^ 16 % 2 ^ 36 := by
  unfold renamed
  omega

/-- The state of a move once the bytes have been copied and the old translation is gone. -/
def State.copied (s : State) (ctx va : Nat) (l : Leaf) (new : Nat) : State := (s.copyFrame l.pa new l.size).shootDown ctx va

/-- The entry of a page as a move reads it. -/
def State.entryAt (s : State) (pte : Nat) : Nat := leNat (((List.range 8).map (pte + ·)).map (s.byteAt s.memTime))

theorem entryAt_lt (s : State) (pte : Nat) : s.entryAt pte < 2 ^ 64 :=
  (leNat_lt _).trans_eq (by simp)

/-- The same once the page's entry names the new frame. -/
def State.remapped (s : State) (ctx va : Nat) (l : Leaf) (new : Nat) : State :=
  (s.copied ctx va l new).writePhys l.pte (leBytes 8 (renamed ((s.copied ctx va l new).entryAt l.pte) new))

section
variable {s : State} {ctx va new : Nat} {l : Leaf}

/-- What a move does to the log and to what is in flight comes after its bytes. -/
theorem movePage_eq (hpte : ∀ i, i < 8 → inWindow (l.pte + i) = false) : s.movePage ctx va l new =
    { ({ s.remapped ctx va l new with log := (s.remapped ctx va l new).log.map (MemEvent.moved l.pa new l.size) } : State).redirect
        (reframe l.pa new l.size) with
      migMoves := (ctx, l.base, migDie l.pa, s.cycle (8 * migDie l.pa)) :: (s.remapped ctx va l new).migMoves } := by
  have hload : (s.copied ctx va l new).loadBytes ((List.range 8).map (l.pte + ·)) =
      (((List.range 8).map (l.pte + ·)).map ((s.copied ctx va l new).byteAt (s.copied ctx va l new).memTime), s.copied ctx va l new) := by
    refine loadBytesAt_plain _ _ fun pa hpa => ?_
    obtain ⟨i, hi, rfl⟩ := List.mem_map.mp hpa
    exact hpte i (List.mem_range.mp hi)
  unfold State.remapped State.entryAt State.movePage renamed
  rw [← State.copied, hload]
  generalize s.copied ctx va l new = c
  dsimp only
  generalize c.writePhys l.pte _ = m
  rfl

theorem readByte_movePage (hpte : ∀ i, i < 8 → inWindow (l.pte + i) = false) (pa : Nat) :
    (s.movePage ctx va l new).readByte pa = (s.remapped ctx va l new).readByte pa := by
  rw [movePage_eq hpte]
  generalize s.remapped ctx va l new = m
  rfl

theorem copied_migQueue (s : State) (ctx va : Nat) (l : Leaf) (new : Nat) : (s.copied ctx va l new).migQueue = s.migQueue :=
  (harvestAll_field (f := State.migQueue) (fun _ _ h => h.field State.migQueue rfl) (fun _ _ => rfl) _ _).trans
    ((sameButMemory_copyUpTo s l.pa new l.size).field State.migQueue rfl)

theorem remapped_frame (s : State) (ctx va : Nat) (l : Leaf) (new : Nat) :
    (s.copied ctx va l new).SameButMemory (s.remapped ctx va l new) := State.SameButMemory.storeBytes _ _ _ _

theorem movePage_migQueue (hpte : ∀ i, i < 8 → inWindow (l.pte + i) = false) : (s.movePage ctx va l new).migQueue = s.migQueue := by
  rw [movePage_eq hpte, ← copied_migQueue s ctx va l new, ← (remapped_frame s ctx va l new).field State.migQueue rfl]
  generalize s.remapped ctx va l new = m
  rfl

theorem movePage_tlb (hpte : ∀ i, i < 8 → inWindow (l.pte + i) = false) :
    (s.movePage ctx va l new).tlb = (s.copied ctx va l new).tlb := by
  rw [movePage_eq hpte, ← (remapped_frame s ctx va l new).field State.tlb rfl]
  generalize s.remapped ctx va l new = m
  rfl

variable (h : s.AtHomes)
include h

theorem State.AtHomes.copied : (s.copied ctx va l new).AtHomes := (h.copyUpTo l.pa new l.size).shootDown ctx va

/-- After a move the page's entry names the new frame. -/
theorem State.AtHomes.readPhys_movePage (hpte : ∀ i, i < 8 → inWindow (l.pte + i) = false) :
    leNat ((s.movePage ctx va l new).readPhys l.pte 8) / 2 ^ 16 % 2 ^ 36 = new / 2 ^ 16 % 2 ^ 36 := by
  have hentry := renamed_lt new (entryAt_lt (s.copied ctx va l new) l.pte)
  have hbytes : (s.movePage ctx va l new).readPhys l.pte 8 = leBytes 8 (renamed ((s.copied ctx va l new).entryAt l.pte) new) := by
    refine List.map_congr_left fun i hi => ?_
    have hi8 := List.mem_range.mp hi
    rw [readByte_movePage hpte, State.remapped, h.copied.readByte_writePhys _ _ (hpte i hi8), leBytes, nth_map_range _ _ hi8]
  rw [hbytes, leNat_leBytes, Nat.mod_eq_of_lt (b := 256 ^ 8) (by omega), renamed_frame]

/-- After a move the new frame holds the bytes of the old one, where they lie apart and no entry that is written lies there. -/
theorem State.AtHomes.readByte_movePage_new (hpte : ∀ i, i < 8 → inWindow (l.pte + i) = false)
    (hapart : l.pa + l.size ≤ new ∨ new + l.size ≤ l.pa) (hw : new + l.size ≤ 2 ^ 51)
    (hentries : ∀ p, (p = l.pte ∨ ∃ e ∈ s.tlb, p = e.pte) → p + 8 ≤ new ∨ new + l.size ≤ p) {i : Nat} (hi : i < l.size) :
    (s.movePage ctx va l new).readByte (new + i) = s.readByte (l.pa + i) := by
  have hown := hentries l.pte (.inl rfl)
  have htlb : (s.copyUpTo l.pa new l.size).tlb = s.tlb := (sameButMemory_copyUpTo s l.pa new l.size).field State.tlb rfl
  have hshot : (s.copied ctx va l new).readByte (new + i) = (s.copyUpTo l.pa new l.size).readByte (new + i) := by
    refine readByte_shootDown _ ctx va fun e he _ => ?_
    have := hentries e.pte (.inr ⟨e, htlb ▸ he, rfl⟩)
    omega
  rw [readByte_movePage hpte, State.remapped, readByte_writePhys_of_outside _ _ _ (by rw [length_leBytes]; omega), hshot]
  exact h.readByte_copyUpTo hapart hw l.size (Nat.le_refl _) i hi

end

/-- The frames of a move lie apart, in tiers of their own. -/
theorem frames_apart {s t : State} {ctx va new : Nat} {toPool : Bool} {l : Leaf} {x : Word} (hl : s.movable ctx va toPool = some l)
    (hnew : t.frameAt toPool l.size x = some new) : (l.pa + l.size ≤ new ∨ new + l.size ≤ l.pa) ∧ new + l.size ≤ 2 ^ 51 := by
  obtain ⟨hsize, htier⟩ := movable_spec hl
  have hbounds := frameAt_bounds hsize hnew
  cases toPool with
  | true =>
    have hhbm : l.pa < 2 ^ 39 := of_decide_eq_true htier
    simp only [if_true] at hbounds
    omega
  | false =>
    have hpool : 2 ^ 48 ≤ l.pa := of_decide_eq_true (Bool.and_eq_true_iff.mp htier).1
    simp only [Bool.false_eq_true, if_false] at hbounds
    omega

section
variable {s : State} {m : MigReq} {rest : List MigReq}

theorem exec_migrationMove_dropped (hqueue : s.migQueue = m :: rest)
    (h : ({ s with migQueue := rest } : State).move m.ctx m.va m.toPool = none) :
    exec .migrationMove s = .next ({ s with migQueue := rest } : State).dropMig := by
  rw [exec_migrationMove, execMigrationMove, hqueue]
  dsimp only
  rw [h]
  rfl

theorem exec_migrationMove_moved (hqueue : s.migQueue = m :: rest) {t : State}
    (h : ({ s with migQueue := rest } : State).move m.ctx m.va m.toPool = some t) : exec .migrationMove s = .next t := by
  rw [exec_migrationMove, execMigrationMove, hqueue]
  dsimp only
  rw [h]
  rfl

end

/-- A page moves once a frame for it is found. -/
theorem move_of_movable {s : State} {ctx va : Nat} {toPool : Bool} {l : Leaf} (hl : s.movable ctx va toPool = some l) :
    s.move ctx va toPool = (s.draw.2.frameAt toPool l.size s.draw.1).map fun new => s.draw.2.movePage ctx va l new := by
  rw [State.move, hl]

theorem move_of_not_movable {s : State} {ctx va : Nat} {toPool : Bool} (hl : s.movable ctx va toPool = none) :
    s.move ctx va toPool = none := by
  rw [State.move, hl]

/-- One request more is dropped, or, once the count is full, it takes a free value. -/
theorem dropMig_cases (s : State) : (s.migDropped ≠ BitVec.allOnes 16 → s.dropMig = { s with migDropped := s.migDropped + 1#16 }) ∧
    ∃ x d, s.dropMig = { s with migDropped := x, drawn := d } := by
  have hcount (h : s.migDropped ≠ BitVec.allOnes 16) : s.dropMig = { s with migDropped := s.migDropped + 1#16 } := if_neg h
  refine ⟨hcount, ?_⟩
  by_cases h : s.migDropped = BitVec.allOnes 16
  · exact ⟨_, _, if_pos h⟩
  · exact ⟨_, _, hcount h⟩

/-- A request that MIG_REQ holds: its reserved fields are 0 (R360). -/
def migClean (r : DWord) : Prop := r.extractLsb' 57 7 = 0#7 ∧ r.extractLsb' 14 2 = 0#2 ∧ r.extractLsb' 1 7 = 0#7

/-- The request that MIG_REQ names (R360). -/
def MigReq.ofReg (r : DWord) : MigReq :=
  { ctx := (r.extractLsb' 8 6).toNat, va := 65536 * (r.extractLsb' 16 41).toNat, toPool := r.getLsbD 0 }

/-- A field of a register as a number. -/
theorem toNat_extractLsb' (r : DWord) (lo len : Nat) : (r.extractLsb' lo len).toNat = r.toNat / 2 ^ lo % 2 ^ len := by
  rw [BitVec.extractLsb'_toNat, Nat.shiftRight_eq_div_pow]

theorem bits_eq (r : DWord) (hi lo : Nat) : bits r hi lo = r.toNat / 2 ^ lo % 2 ^ (hi + 1 - lo) := by
  simp [bits, Nat.shiftRight_eq_div_pow]

/-- The reserved fields of a request are 0 exactly when the device finds them so. -/
theorem migClean_iff (r : DWord) : migClean r ↔
    (bits r 63 57 == 0 && bits r 15 14 == 0 && bits r 7 2 == 0 && decide (bits r 1 0 ≤ 1)) = true := by
  have hfield (lo len : Nat) : r.extractLsb' lo len = 0#len ↔ r.toNat / 2 ^ lo % 2 ^ len = 0 := by
    rw [← BitVec.toNat_inj, toNat_extractLsb', BitVec.toNat_ofNat, Nat.zero_mod]
  simp only [migClean, hfield, Bool.and_eq_true, beq_iff_eq, decide_eq_true_eq, bits_eq]
  omega

/-- The low bit of a clean request. -/
theorem toPool_of_clean {r : DWord} (h : migClean r) : (bits r 1 0 == 1) = r.getLsbD 0 := by
  have hlow := h.2.2
  rw [← BitVec.toNat_inj, toNat_extractLsb', BitVec.toNat_ofNat, Nat.zero_mod] at hlow
  rw [← BitVec.testBit_toNat, Nat.testBit_zero, bits_eq, Bool.eq_iff_iff]
  simp only [beq_iff_eq, decide_eq_true_eq]
  omega

/-- The fields of a clean request name what it asks for. -/
theorem migReq_fields {r : DWord} (h : migClean r) :
    ({ ctx := bits r 13 8, va := bits r 56 16 * 65536, toPool := bits r 1 0 == 1 } : MigReq) = .ofReg r := by
  rw [MigReq.ofReg, toPool_of_clean h, toNat_extractLsb', toNat_extractLsb', bits_eq, bits_eq, Nat.mul_comm]

section
variable {s : State} (hready : s.dev.ready = true)
include hready

theorem exec_migReqWrite_low (hlow : s.arg 0 = 0) : exec .migReqWrite s = .next
    { s with migReq := s.migReq.extractLsb' 32 32 ++ (BitVec.ofNat 32 (s.arg 1) : Word) } := by
  rw [exec_migReqWrite, execMigReqWrite, if_pos hlow]
  exact whenReady_ready hready _

/-- The register once its high word is written. -/
def State.migWritten (s : State) : DWord := (BitVec.ofNat 32 (s.arg 1) : Word) ++ s.migReq.extractLsb' 0 32

variable (hhigh : s.arg 0 ≠ 0)
include hhigh

/-- A write of MIG_REQ's high word queues the request of both words or drops it. -/
theorem exec_migReqWrite_high : exec .migReqWrite s = .next
    (let r := s.migWritten
     if (bits r 63 57 == 0 && bits r 15 14 == 0 && bits r 7 2 == 0 && decide (bits r 1 0 ≤ 1)
        && decide (s.migQueue.length < 64) && (s.movable (bits r 13 8) (bits r 56 16 * 65536) (bits r 1 0 == 1)).isSome) = true
     then { s with migReq := r, migQueue := s.migQueue ++ [{ ctx := bits r 13 8, va := bits r 56 16 * 65536, toPool := bits r 1 0 == 1 }] }
     else ({ s with migReq := r } : State).dropMig) := by
  rw [exec_migReqWrite, execMigReqWrite, if_neg hhigh]
  exact whenReady_ready hready _

theorem exec_migReqWrite_queued (hclean : migClean s.migWritten) (hroom : s.migQueue.length < 64)
    (hmov : s.movable (MigReq.ofReg s.migWritten).ctx (MigReq.ofReg s.migWritten).va (MigReq.ofReg s.migWritten).toPool ≠ none) :
    exec .migReqWrite s = .next { s with migReq := s.migWritten, migQueue := s.migQueue ++ [.ofReg s.migWritten] } := by
  have hfields := migReq_fields hclean
  rw [← hfields] at hmov ⊢
  rw [exec_migReqWrite_high hready hhigh]
  dsimp only
  rw [if_pos]
  rw [(migClean_iff _).mp hclean, Bool.true_and, decide_eq_true hroom, Bool.true_and]
  exact Option.isSome_iff_ne_none.mpr hmov

theorem exec_migReqWrite_dropped (h : migClean s.migWritten → 64 ≤ s.migQueue.length ∨
      s.movable (MigReq.ofReg s.migWritten).ctx (MigReq.ofReg s.migWritten).va (MigReq.ofReg s.migWritten).toPool = none) :
    exec .migReqWrite s = .next ({ s with migReq := s.migWritten } : State).dropMig := by
  rw [exec_migReqWrite_high hready hhigh]
  dsimp only
  rw [if_neg]
  intro htest
  rw [Bool.and_eq_true, Bool.and_eq_true, ← migClean_iff, decide_eq_true_eq] at htest
  obtain ⟨⟨hclean, hroom⟩, hmov⟩ := htest
  have hfields := migReq_fields hclean
  rcases h hclean with hfull | hnone
  · omega
  · rw [← hfields] at hnone
    rw [hnone] at hmov
    exact absurd hmov (by simp)

end

/-! ### What the device answers before READY (R374) -/

section
variable {s : State} (hready : s.dev.ready = false)
include hready

theorem exec_hostMemory_notReady (h0 : s.arg 0 ≠ 2) : exec .hostMemoryAccess s = .next s := by
  rw [exec_hostMemoryAccess, execHostMemoryAccess, if_neg h0]
  simp only [whenReady_notReady hready, ite_self]

theorem exec_peerRequest_notReady : exec .peerRequest s = .next s := by
  rw [exec_peerRequest, execPeerRequest]
  simp only [whenReady_notReady hready, ite_self]

theorem exec_migReqWrite_notReady : exec .migReqWrite s = .next s := by
  rw [exec_migReqWrite, execMigReqWrite]
  split
  · exact whenReady_notReady hready _
  · exact whenReady_notReady hready _

end

/-! ### Events of BAR0's registers (R314, R374) -/

theorem hostEvent_next {s t : State} {args : List Nat} {f : State → Host.Outcome State Fault Refusal}
    (h : f { s with args := args } = .next t) : s.hostEvent args f = { t with args := s.args } := by
  rw [State.hostEvent, h]

theorem barWrite_ctx (s : State) {c n : Nat} (v : Word) (hfr : n ≠ 0x052) (hctl : n ≠ 0x05C) :
    s.barWrite (some (.ctx c n)) v = s.hostEvent [1, c, n, v.toNat] execCsrWrite := by
  unfold State.barWrite
  split <;> simp_all

theorem exec_barWrite_ctx {s : State} {c n b0 b1 b2 b3 : Nat} {rest : List Nat} (hready : s.dev.ready = true) (h0 : s.arg 0 = 2)
    (h3 : s.arg 3 ≠ 0) (h4 : s.arg 4 = 4) (hreg : hostReg (s.arg 1) = some (.ctx c n)) (hfr : n ≠ 0x052) (hctl : n ≠ 0x05C)
    (hbytes : s.args.drop 5 = b0 :: b1 :: b2 :: b3 :: rest) : exec .hostMemoryAccess s =
      .next (s.hostEvent [1, c, n, leNat ([b0, b1, b2, b3].map (BitVec.ofNat 8))] execCsrWrite) := by
  rw [exec_barWrite h0 h3 h4 hbytes, hreg, barWrite_ctx s _ hfr hctl, operandWord_toNat, if_pos (by rw [State.barOpen, hready]; rfl)]

theorem hostReg_bootCtl : hostReg 0x600008 = some .bootCtl := rfl

/-- BOOT_CTL answers at any time; RESET runs bring-up again. -/
theorem exec_barWrite_bootCtl {s : State} {b0 b1 b2 b3 : Nat} (h0 : s.arg 0 = 2) (h3 : s.arg 3 ≠ 0) (h4 : s.arg 4 = 4)
    (hoff : s.arg 1 = 0x600008) (hbytes : s.args.drop 5 = [b0, b1, b2, b3]) : exec .hostMemoryAccess s =
      .next (if b0 % 2 = 1 then s.bootAgain else s) := by
  rw [exec_barWrite h0 h3 h4 hbytes, hoff, hostReg_bootCtl, if_pos (by simp [State.barOpen, HostReg.early]), State.barWrite,
    operandWord_bit0]
  simp only [decide_eq_true_eq]

theorem exec_bootReset_next (s : State) : exec .bootReset s = .next (s.bringUp s.dram s.filled) := rfl

/-- A word of MIG_REQ reads without its reserved bits. -/
theorem migReq_lowWord (x : DWord) : lowWord (x &&& migReqMask) = x.extractLsb' 0 32 &&& 0xFFFF3F03#32 := by
  rw [lowWord, BitVec.truncate, BitVec.setWidth_eq_extractLsb' (by norm_num), BitVec.extractLsb'_and]
  rfl

theorem migReq_highWord (x : DWord) : highWord (x &&& migReqMask) = x.extractLsb' 32 32 &&& 0x01FFFFFF#32 := by
  rw [highWord, BitVec.extractLsb'_and]
  rfl

/-! ### CSR_WRITE (R314) -/

section
variable {s : State} {ctx num : Nat} {v : Word}

/-- A host write of a busy context's CSR that must wait for IDLE: the CSR takes a free value. -/
theorem writeCtxCsr_busy_frame (hlen : ctx < s.ctxs.length) (hbusy : s.ctxIdle ctx = false) (hlater : anyTime num = false) :
    ∃ x : Word, (s.writeCtxCsr ctx num v).ctx ctx = (s.ctx ctx).hostWrite num x ∧
      { s.writeCtxCsr ctx num v with ctxs := s.ctxs, drawn := s.drawn } = s ∧ ∀ y, y ≠ ctx → (s.writeCtxCsr ctx num v).ctx y = s.ctx y := by
  rw [writeCtxCsr_free hbusy hlater]
  exact ⟨_, State.ctx_setCtx_self _ _ hlen, rfl, fun y hy => State.ctx_setCtx_of_ne _ _ hy⟩

theorem clearedLost_ctxs (s : State) (ctx : Nat) (c : Ctx) : (s.clearedLost ctx c).ctxs = s.ctxs := by
  rw [← congrArg State.ctxs (clearedLost_frame s ctx c)]

variable (h : s.ctxIdle ctx = true ∨ anyTime num = true)
include h

theorem writeCtxCsr_ctxs : (s.writeCtxCsr ctx num v).ctxs = (s.setCtx ctx ((s.ctx ctx).hostWrite num v)).ctxs := by
  rw [writeCtxCsr_taken h, clearedLost_ctxs]

theorem writeCtxCsr_ctx_self (hlen : ctx < s.ctxs.length) : (s.writeCtxCsr ctx num v).ctx ctx = (s.ctx ctx).hostWrite num v := by
  rw [State.ctx, writeCtxCsr_ctxs h]
  exact State.ctx_setCtx_self s _ hlen

theorem writeCtxCsr_ctx_of_ne {y : Nat} (hy : y ≠ ctx) : (s.writeCtxCsr ctx num v).ctx y = s.ctx y := by
  rw [State.ctx, writeCtxCsr_ctxs h]
  exact State.ctx_setCtx_of_ne s _ hy

theorem writeCtxCsr_frame : { s.writeCtxCsr ctx num v with ctxs := s.ctxs, blocks := s.blocks } = s := by
  have hframe := clearedLost_frame (s.setCtx ctx ((s.ctx ctx).hostWrite num v)) ctx (s.ctx ctx)
  rw [writeCtxCsr_taken h]
  exact (congrArg (fun x : State => { x with ctxs := s.ctxs }) hframe).trans rfl

theorem writeCtxCsr_blocks : (s.writeCtxCsr ctx num v).blocks =
    (({ s with ctxs := (s.writeCtxCsr ctx num v).ctxs } : State).clearedLost ctx (s.ctx ctx)).blocks := by
  rw [writeCtxCsr_ctxs h, writeCtxCsr_taken h]
  rfl

/-- Only a write of PX_LOST reaches the blocks. -/
theorem writeCtxCsr_blocks_same (hlen : ctx < s.ctxs.length) (hnum : num < 0x024 ∨ 0x02B < num) :
    (s.writeCtxCsr ctx num v).blocks = s.blocks := by
  rw [writeCtxCsr_taken h, clearedLost_same]
  · rfl
  · rw [State.ctx_setCtx_self _ _ hlen, hostWrite_pxLost _ _ hnum]

end

/-- PX_LOST aside, the partition word is taken where its fields share out the 48. -/
theorem hostWrite_partWord (c : Ctx) (v : Word) : c.hostWrite 0x040 v =
    if bits v 5 0 + bits v 11 6 + bits v 17 12 == 48 && bits v 5 0 != 0 then { c with partWord := v &&& 0x3FFFF#32 } else c := rfl

/-- Settles O59: each access of the host or of a peer reads or writes what its place says and nothing else; a page that moves has its
bytes in a frame apart from the old one. -/
theorem hostAccesses : Obligations.HostAccesses := by
  refine ⟨fun s hready i hi hbar => ?_, fun s h0 h3 h4 => ?_, fun s b0 b1 b2 b3 h0 h3 h4 hbytes => ?_,
    fun s c n b0 b1 b2 b3 rest hready h0 h3 h4 hc hoff hn hfr hctl hbytes => ?_, fun s hready => ?_, dropMig_cases, fun s m rest hqueue => ?_⟩
  · simp only [List.mem_cons, List.not_mem_nil, or_false] at hi
    obtain rfl | rfl | rfl | rfl | rfl | rfl := hi
    · exact exec_hostMemory_notReady hready (hbar rfl)
    · exact exec_peerRequest_notReady hready
    · exact whenReady_notReady hready _
    · exact whenReady_notReady hready _
    · exact exec_migReqWrite_notReady hready
    · exact whenReady_notReady hready _
  · refine ⟨fun hoff => ?_, fun hoff => ?_, fun hready hoff => ?_, fun hready => ⟨fun c n hc hoff hn => ?_, fun p hp hoff => ?_, fun hoff => ?_,
      fun hoff => ?_, fun hoff => ?_⟩⟩
    · exact exec_barRead h0 h3 h4 (r := .devId) (by rw [hoff]; rfl) (by simp [State.barOpen, HostReg.early]) rfl
    · exact exec_barRead h0 h3 h4 (r := .bootStat) (by rw [hoff]; rfl) (by simp [State.barOpen, HostReg.early]) rfl
    · exact exec_barRead_closed h0 h3 h4 (barOpen_notReady hready (by simp only [Bool.false_eq_true, if_false]; omega))
    · exact exec_barRead h0 h3 h4 (hoff ▸ hostReg_ctx hc hn) (by simp [State.barOpen, hready]) rfl
    · exact exec_barRead h0 h3 h4 (hoff ▸ hostReg_peerRoute hp) (by simp [State.barOpen, hready]) rfl
    · refine exec_barRead h0 h3 h4 (r := .migReq false) (by rw [hoff]; rfl) (by simp [State.barOpen, hready]) ?_
      rw [← migReq_lowWord]
      rfl
    · refine exec_barRead h0 h3 h4 (r := .migReq true) (by rw [hoff]; rfl) (by simp [State.barOpen, hready]) ?_
      rw [← migReq_highWord]
      rfl
    · exact exec_barRead h0 h3 h4 (r := .furlCtl) (by rw [hoff]; rfl) (by simp [State.barOpen, hready]) rfl
  · refine ⟨fun hready hoff => ?_, fun hoff heven => ?_, fun hoff hodd => ?_⟩
    · rw [exec_barWrite h0 h3 h4 hbytes, barOpen_notReady hready (w := true) hoff]
      rfl
    · rw [exec_barWrite_bootCtl h0 h3 h4 hoff hbytes, if_neg (by omega)]
    · refine ⟨_, _, rfl, exec_bootReset_next _, ?_⟩
      rw [exec_barWrite_bootCtl h0 h3 h4 hoff hbytes, if_pos hodd]
      rfl
  · refine ⟨_, exec_csrWrite_ctx hready (by decide : (1 : Nat) ≠ 0), ?_⟩
    rw [exec_barWrite_ctx hready h0 h3 h4 (hoff ▸ hostReg_ctx hc hn) hfr hctl hbytes]
    exact congrArg _ (hostEvent_next (exec_csrWrite_ctx (s := { s with args := _ }) hready (by decide : (1 : Nat) ≠ 0)))
  · intro reads
    refine ⟨fun hdram hl2 hapart => ⟨fun hbar hw hin hlen => ?_, fun hbar hw hin hlen => ?_, fun hw hin hlen => ?_⟩, fun hsnoop hr hbar hin => ?_,
      fun hsnoop hr hbar hin => ?_, fun hsnoop hr hbar hin => ?_, fun hr hin => ?_, fun hctx hlen hbusy hlater => ?_, fun v hv hctx hlen hmay => ?_,
      ?_, ?_, fun hlow => ?_, fun hhigh => ?_⟩
    · refine ⟨_, exec_hostMemory (by omega) hready rfl rfl (by rwa [if_pos hbar]), ?_⟩
      rw [if_pos hw, if_pos hbar, Nat.zero_add]
      exact State.AtHomes.reads_outsideWrite ⟨hdram, hl2, hapart⟩ (by omega) hlen
    · refine ⟨_, exec_hostMemory (by omega) hready rfl rfl (by rwa [if_neg (by omega)]), ?_⟩
      rw [if_pos hw, if_neg (by omega)]
      exact State.AtHomes.reads_outsideWrite ⟨hdram, hl2, hapart⟩ (by omega) hlen
    · refine ⟨_, exec_peerRequest_in hready hin, ?_⟩
      rw [if_pos hw]
      exact State.AtHomes.reads_outsideWrite ⟨hdram, hl2, hapart⟩ (by omega) hlen
    · refine ⟨_, exec_hostMemory (by omega) hready rfl rfl (by rwa [if_pos hbar]), ?_⟩
      rw [if_neg (not_not_intro hr), if_neg (not_not_intro hsnoop), if_pos hbar, Nat.zero_add]
      exact ⟨rfl, by simp [State.readPhys], fun i hi => nth_readPhys s _ hi⟩
    · refine ⟨_, exec_hostMemory (by omega) hready rfl rfl (by rwa [if_neg (by omega)]), ?_⟩
      rw [if_neg (not_not_intro hr), if_neg (not_not_intro hsnoop), if_neg (by omega)]
      exact ⟨rfl, by simp [State.readPhys], fun i hi => nth_readPhys s _ hi⟩
    · rw [exec_hostMemory (by omega) hready rfl rfl hin, if_neg (not_not_intro hr), if_pos hsnoop]
    · rw [exec_peerRequest_in hready hin, if_neg (not_not_intro hr)]
    · obtain ⟨x, hself, hframe, hother⟩ := writeCtxCsr_busy_frame (v := BitVec.ofNat 32 (s.arg 3)) hlen hbusy hlater
      exact ⟨x, _, exec_csrWrite_ctx hready hctx, hself, hframe, hother⟩
    · subst hv
      refine ⟨_, exec_csrWrite_ctx hready hctx, fun x hx => writeCtxCsr_ctx_of_ne hmay hx, writeCtxCsr_frame hmay, writeCtxCsr_blocks hmay,
        writeCtxCsr_blocks_same hmay hlen, fun e he hnum => ?_, fun hnum => ?_, fun hnone hpart => ?_⟩
      · rw [writeCtxCsr_ctx_self hmay hlen, hnum, hostWrite_csrTable _ _ e he]
      · rw [writeCtxCsr_ctx_self hmay hlen, hnum]
        exact hostWrite_partWord _ _
      · rw [writeCtxCsr_ctx_self hmay hlen, hostWrite_other hnone hpart]
    · refine ⟨_, whenReady_ready hready _, fun hlen => ?_, rfl⟩
      rw [setNth_getElem?, if_pos rfl, List.getElem?_eq_getElem hlen]
      rfl
    · exact ⟨_, whenReady_ready hready _, rfl, rfl⟩
    · refine ⟨_, exec_migReqWrite_low hready hlow, ?_, ?_, rfl⟩
      · exact BitVec.extractLsb'_append_eq_right
      · exact BitVec.extractLsb'_append_eq_left
    · intro r m clean s1
      refine ⟨fun hclean hroom hmov => ?_, fun hdrop => ?_⟩
      · exact exec_migReqWrite_queued hready hhigh hclean hroom hmov
      · refine exec_migReqWrite_dropped hready hhigh fun hclean => ?_
        obtain hno | hfull | hnone := hdrop
        · exact absurd hclean hno
        · exact .inl hfull
        · exact .inr hnone
  · refine ⟨fun hnone => exec_migrationMove_dropped hqueue (move_of_not_movable hnone), fun l x s2 hl hdraw => ⟨fun hnone => ?_,
      fun new hnew hdram hl2 hapart hpte hentries => ?_⟩⟩
    · refine exec_migrationMove_dropped hqueue ?_
      rw [move_of_movable hl, hdraw, hnone]
      rfl
    · obtain ⟨hframes, hin⟩ := frames_apart hl hnew
      have hs2 : s2 = ({ s with migQueue := rest } : State).draw.2 := by rw [hdraw]
      have hhome : s2.AtHomes := by
        subst hs2
        exact ⟨hdram, hl2, hapart⟩
      have hentries2 : ∀ p, (p = l.pte ∨ ∃ e ∈ s2.tlb, p = e.pte) → p + 8 ≤ new ∨ new + l.size ≤ p := by
        subst hs2
        exact hentries
      refine ⟨s2.movePage m.ctx m.va l new, exec_migrationMove_moved hqueue ?_, ?_, fun i hi => ?_, hhome.readPhys_movePage hpte,
        fun e he hctx => ?_⟩
      · rw [move_of_movable hl, hdraw, hnew]
        rfl
      · rw [movePage_migQueue hpte, hs2]
        rfl
      · rw [hhome.readByte_movePage_new hpte hframes hin hentries2 hi, hs2]
        rfl
      · rw [movePage_tlb hpte] at he
        exact not_cached_shootDown _ _ _ he hctx

end Sys2Proof.Machine
end

section
/-!
PROOF. LDA, GATH and COPY start transfers, and transfers arrive (O28).
-/
namespace Sys2Proof.Machine
open Sys2Proof

/-! ### The instructions that start transfers (R178 to R180) -/

theorem checkSpad_good {s : State} {a : Actx} {x n : Nat} (h : x + n ≤ s.spadSize a.blk) : s.checkSpad a x n = none :=
  if_neg (Nat.not_lt.mpr h)

/-- No active lane fails a check that each passes. -/
theorem firstBad_lanes {m : Mask} {x : Nat → Int} {bad : Int → Bool} (h : ∀ l, m.getLsbD l = true → bad (x l) = false) :
    firstBad (lanesOf m) x bad = none := by
  refine firstBad_none (List.find?_eq_none.mpr fun l hl => ?_)
  rw [h l (List.mem_filter.mp hl).2]
  exact Bool.false_ne_true

/-- The global address of a lane of LDA. -/
def State.ldaSrc (s : State) (a : Actx) (o : Opnds) (l : Nat) : Nat :=
  if o.mod.getLsbD 3 then s.pairVal a o.b o.sb l else (s.val a o.srcB l).toNat

theorem laneAddr_ldaSrc (s : State) (a : Actx) (o : Opnds) (l : Nat) :
    s.laneAddr a o.b o.sb (o.m 3) (fun _ => 0) l = (s.ldaSrc a o l : Int) := by
  unfold State.laneAddr State.ldaSrc
  rw [Int.add_zero]
  cases h : o.mod.getLsbD 3 <;> simp only [Opnds.m, h] <;> rfl

/-- A multiple is no odd place. -/
theorem aligned_even {x size : Nat} (h : x % size = 0) : (((x : Int) % (size : Int)) != 0) = false := by
  rw [← Int.natCast_emod, h]
  rfl

theorem exec_lda_good {o : Opnds} {s : State} {a : Actx} (hacts : s.Acts a o.gn o.g)
    (hpx : s.anyPx a (a.lanes o) (o.srcA :: if o.mod.getLsbD 3 then pairSrcs o.b o.sb else [o.srcB]) = false)
    (hlanes : ∀ l, (a.lanes o).getLsbD l = true → (s.val a o.srcA l).toNat % szBytes (o.mod.toNat % 8) = 0 ∧
      s.ldaSrc a o l % szBytes (o.mod.toNat % 8) = 0 ∧ (s.val a o.srcA l).toNat + szBytes (o.mod.toNat % 8) ≤ s.spadSize a.blk)
    (hal : (s.scalar a o.c o.sc).toNat % 8 = 0) (hin : (s.scalar a o.c o.sc).toNat + 8 ≤ s.spadSize a.blk) :
    exec (.lda o) s = .next ((s.startXfer a .lda none 0 0 0 ((lanesOf (a.lanes o)).map fun l =>
      { srcSpad := false, src := s.ldaSrc a o l, idx := none, dstSpad := true, dst := (s.val a o.srcA l).toNat,
        len := szBytes (o.mod.toNat % 8) }) (s.scalar a o.c o.sc).toNat).retire a) := by
  have hsrc : s.laneAddr a o.b o.sb (o.m 3) (fun _ => 0) = fun l => (s.ldaSrc a o l : Int) := funext (laneAddr_ldaSrc s a o)
  have hoff := firstBad_lanes (m := a.lanes o) (x := fun l => ((s.val a o.srcA l).toNat : Int))
    (bad := fun x => x % (szBytes (bits o.mod 2 0) : Int) != 0) fun l hl => aligned_even (hlanes l hl).1
  have haddr := firstBad_lanes (m := a.lanes o) (x := fun l => (s.ldaSrc a o l : Int))
    (bad := fun x => x % (szBytes (bits o.mod 2 0) : Int) != 0) fun l hl => aligned_even (hlanes l hl).2.1
  have hfit := firstBad_lanes (m := a.lanes o) (x := fun l => ((s.val a o.srcA l).toNat : Int))
    (bad := fun x => decide ((s.spadSize a.blk : Int) < x + szBytes (bits o.mod 2 0))) fun l hl => by
      have := (hlanes l hl).2.2
      rw [sizeCode_eq]
      exact decide_eq_false (by omega)
  have hplain : s.anyPx a (a.lanes o) ([o.srcA] ++ (if o.m 3 then pairSrcs o.b o.sb else [o.srcB])) = false := hpx
  rw [exec_lda, execLda, run_acts hacts]
  dsimp only
  rw [hplain, if_neg Bool.false_ne_true, hsrc, hoff, haddr]
  dsimp only
  rw [if_neg (not_not_intro hal), hfit]
  dsimp only
  rw [checkObj_good hal hin]
  rfl

section
variable {o : Opnds} {s0 s : State} {a : Actx} (hready : s = s0.spadReady) (hheld : s.spadHeld = false) (hacts : s.Acts a o.gn o.g)
include hready hheld hacts

/-- What a GATH does that passes its checks. -/
theorem exec_gath_good {d : GathDesc} (hd : d = gathDesc (leNat (s.spadRead a.bid (s.scalar a o.a o.sa).toNat 32)))
    (hroom : (s.xfers.filter fun x => x.engine == .gath && x.core == a.core).length < 8) (hal : (s.scalar a o.a o.sa).toNat % 32 = 0)
    (hin : (s.scalar a o.a o.sa).toNat + 32 ≤ s.spadSize a.blk)
    (hform : d.base % 4 = 0 ∧ d.stride % 4 = 0 ∧ d.idx % 4 = 0 ∧ d.dst % 4 = 0 ∧ d.arr % 8 = 0 ∧ d.rsv = false ∧ 4 ≤ d.row ∧ d.row ≤ 512 ∧
      d.row % 4 = 0 ∧ d.rowp % 4 = 0 ∧ d.row ≤ d.rowp)
    (hidx : d.idx + 4 * d.count ≤ s.spadSize a.blk) (hrows : d.count = 0 ∨ d.dst + (d.count - 1) * d.rowp + d.row ≤ s.spadSize a.blk)
    (hdst : d.dst ≤ s.spadSize a.blk) (harr : d.arr + 8 ≤ s.spadSize a.blk) : exec (.gath o) s0 = .next
      (if d.count = 0 then (s.arriveEmpty a .gather d.arr).retire a
       else (s.startXfer a .gath none d.base d.stride d.idx ((List.range d.count).map fun i =>
         { srcSpad := false, src := 0, idx := some i, dstSpad := true, dst := d.dst + i * d.rowp, len := d.row }) d.arr).retire a) := by
  obtain ⟨h1, h2, h3, h4, h5, h6, h7, h8, h9, h10, h11⟩ := hform
  have hfields : (d.rsv || decide (d.row < 4) || decide (d.row > 512) || d.row % 4 != 0 || d.rowp % 4 != 0 || decide (d.rowp < d.row)) = false := by
    simp only [h6, h9, h10, bne_self_eq_false, Bool.or_false, Bool.false_or, Bool.or_eq_false_iff, decide_eq_false_iff_not]
    omega
  have hrows' : d.dst + (if d.count = 0 then 0 else (d.count - 1) * d.rowp + d.row) ≤ s.spadSize a.blk := by
    split
    · exact hdst
    · omega
  rw [exec_gath, execGath, afterSpad_clear hready hheld, run_acts hacts]
  dsimp only
  rw [if_neg (Nat.not_le.mpr hroom), if_neg (not_not_intro hal), checkSpad_good hin]
  dsimp only
  rw [← hd, if_neg (not_not_intro h1), if_neg (not_not_intro h2), if_neg (not_not_intro h3), if_neg (not_not_intro h4),
    if_neg (not_not_intro h5), hfields, if_neg Bool.false_ne_true, checkSpad_good hidx, checkSpad_good hrows', checkObj_good h5 harr]

/-- What a COPY does that passes its checks. -/
theorem exec_copy_good {dir cl n obj d f promise : Nat} {win : Option Nat} {s1 : State} (hdir : dir = o.mod.toNat % 4)
    (hcl : cl = clusterOf a.core) (hn : n = (s.scalar a o.c o.sc).toNat) (hobj : obj = (s.scalar a (o.c + 1#8) o.sc).toNat)
    (hd : d = if dir = 1 then s.pairVal a o.a o.sa 0 % 2 ^ 32 else s.pairVal a o.a o.sa 0)
    (hf : f = if dir = 2 then s.pairVal a o.b o.sb 0 % 2 ^ 32 else s.pairVal a o.b o.sb 0)
    (hwin : win = if dir = 1 then none else (s.ctx a.blk.ctx).windowOf d n)
    (hpromise : promise = max (s.cycle cl) (nth 0 s.copyEnd cl) + 300 + (n + 511) / 512)
    (hs1 : s1 = (if dir = 1 then s else s.loseIdemp a).wrSc a o.d.toNat (BitVec.ofNat 32 promise))
    (hroom : (s.xfers.filter fun x => x.engine == .copy && clusterOf x.core == cl).length < 32) (hal : obj % 8 = 0)
    (hin : obj + 8 ≤ s.spadSize a.blk) (hdst : dir = 1 → d + n ≤ s.spadSize a.blk) (hsrc : dir = 2 → f + n ≤ s.spadSize a.blk)
    (hwindow : dir ≠ 1 → n ≠ 0 → win.isSome = true) : exec (.copy o) s0 = .next
      (if n = 0 then (s1.arriveEmpty a .copy obj).retire a
       else (({ s1 with copyEnd := setNth s1.copyEnd cl promise } : State).startXfer a .copy win 0 0 0
         (granules d f n (dir = 2) (dir = 1)) obj (dir == 0 && decide (d < f + n) && decide (f < d + n))).retire a) := by
  have hzero : s.scalar a o.c o.sc = 0#32 ↔ n = 0 := by rw [hn, ← BitVec.toNat_inj]; rfl
  have hdstChk : (if dir = 1 then s.checkSpad a d n else none) = none := by
    split
    next h => exact checkSpad_good (hdst h)
    next => rfl
  have hsrcChk : (if dir = 2 then s.checkSpad a f n else none) = none := by
    split
    next h => exact checkSpad_good (hsrc h)
    next => rfl
  have hmapped : (decide (dir ≠ 1) && s.scalar a o.c o.sc != 0#32 && win.isNone) = false := by
    by_contra hbad
    simp only [Bool.not_eq_false, Bool.and_eq_true, decide_eq_true_eq, bne_iff_ne, ne_eq, hzero, Option.isNone_iff_eq_none] at hbad
    have := hwindow hbad.1.1 hbad.1.2
    rw [hbad.2] at this
    exact Bool.false_ne_true this
  have hcode : bits o.mod 1 0 = dir := hdir.symm
  rw [exec_copy, execCopy, afterSpad_clear hready hheld, run_acts hacts]
  dsimp only
  rw [hcode, ← hcl, ← hn, ← hobj, if_neg (Nat.not_le.mpr hroom), if_neg (not_not_intro hal), ← hd, ← hf, hdstChk, hsrcChk, checkObj_good hal hin]
  dsimp only
  rw [← hwin, hmapped, if_neg Bool.false_ne_true]
  simp only [hzero, w32, ← hpromise, ← hs1]

end

/-! ### What comes before a unit's bytes (R6, R187, R306, R325) -/

/-- The states differ in no more than the blocks, the free values drawn and the counts of accesses to pages, and no scratchpad
differs. -/
structure State.KeepsSpads (s t : State) : Prop where
  frame : { t with blocks := s.blocks, drawn := s.drawn, pageHits := s.pageHits } = s
  spads : ∀ n, (t.block? n).map Block.spad = (s.block? n).map Block.spad

namespace State.KeepsSpads
variable {s t u : State}

theorem refl (s : State) : s.KeepsSpads s := ⟨rfl, fun _ => rfl⟩

theorem trans (h : s.KeepsSpads t) (h' : t.KeepsSpads u) : s.KeepsSpads u :=
  ⟨(congrArg (fun x : State => { x with blocks := s.blocks, drawn := s.drawn, pageHits := s.pageHits }) h'.frame).trans h.frame,
    fun n => (h'.spads n).trans (h.spads n)⟩

/-- What looks at none of them is the same. -/
theorem field {α : Type} (h : s.KeepsSpads t) (f : State → α)
    (hf : f { t with blocks := s.blocks, drawn := s.drawn, pageHits := s.pageHits } = f t) : f t = f s :=
  hf.symm.trans (congrArg f h.frame)

theorem draws (h : s.KeepsSpads t) (n : Nat) : s.KeepsSpads { t with drawn := n } := ⟨h.frame, h.spads⟩

theorem foldl {α : Type} {f : State → α → State} (hf : ∀ (s : State) (x : α), s.KeepsSpads (f s x)) :
    ∀ (l : List α) (s : State), s.KeepsSpads (l.foldl f s)
  | [], s => refl s
  | x :: l, s => (hf s x).trans (foldl hf l (f s x))

theorem updWarp (s : State) (b wi : Nat) (f : Warp → Warp) : s.KeepsSpads (s.updWarp b wi f) := by
  refine ⟨?_, fun n => ?_⟩
  · unfold State.updWarp
    split <;> rfl
  · rw [State.block?_updWarp, Option.map_map]
    refine congrArg (fun g => (s.block? n).map g) (funext fun x => ?_)
    dsimp only [Function.comp_apply]
    split <;> rfl

theorem setWarp {b : Block} (h : s.block? b.id = some b) (wi : Nat) (w : Warp) : s.KeepsSpads (s.setWarp b wi w) := by
  refine ⟨rfl, fun n => ?_⟩
  rw [State.setWarp, State.block?_setBlock]
  split
  next hn =>
    rw [hn]
    dsimp only
    rw [h]
    rfl
  next => rfl

theorem noteHits (s : State) (core ctx : Nat) (l : List (Nat × Nat)) : s.KeepsSpads (s.noteHits core ctx l) := by
  refine foldl (fun s p => ?_) _ s
  unfold State.noteHit
  split
  · exact refl s
  · exact ⟨rfl, fun _ => rfl⟩

theorem touchArea {b : Block} (h : s.block? b.id = some b) (wi : Nat) (w : Warp) (va : Nat) : s.KeepsSpads (s.touchArea b wi w va) := by
  unfold State.touchArea
  dsimp only
  split
  · exact refl s
  · split
    · exact (setWarp h wi _).draws _
    · exact (setWarp h wi _).draws _

theorem misuse (s : State) (ctx : Nat) (vas : List Nat) : s.KeepsSpads (s.misuse ctx vas) := by
  refine foldl (fun s va => foldl (fun s b => ?_) s.blocks s) vas s
  split
  · exact refl s
  · refine foldl (fun s wi => ?_) _ s
    split
    next b1 w hw =>
      have hb := block?_of_warp? hw
      exact touchArea (by rw [State.block?_id hb]; exact hb) wi w va
    next => exact refl s

theorem spoilBlock (s : State) (b : Nat) : s.KeepsSpads (s.spoilBlock b) := by
  unfold State.spoilBlock
  split
  · exact refl s
  · exact foldl (fun s wi => (updWarp s b wi _).draws _) _ s

theorem changeObject (s : State) (ctx : Nat) (vas : List Nat) : s.KeepsSpads (s.changeObject ctx vas) :=
  foldl (fun s (b : Block) => spoilBlock s b.id) _ s

theorem spadRead (h : s.KeepsSpads t) (b x n : Nat) : t.spadRead b x n = s.spadRead b x n := by
  have hb := h.spads b
  unfold State.spadRead Block.spadBytes Block.spadByte
  cases hs : s.block? b <;> cases ht : t.block? b <;> simp_all

end State.KeepsSpads

/-! ### Reads of an engine (R177, R191, R200) -/

/-- The states differ in no more than the record of accesses. -/
def State.SameButLog (s t : State) : Prop := { t with log := s.log } = s

namespace State.SameButLog
variable {s t u : State}

theorem trans (h : s.SameButLog t) (h' : t.SameButLog u) : s.SameButLog u := by
  have hu := congrArg (fun x : State => { x with log := s.log }) h'
  exact hu.trans h

theorem field {α : Type} (h : s.SameButLog t) (f : State → α) (hf : f { t with log := s.log } = f t) : f t = f s :=
  hf.symm.trans (congrArg f h)

end State.SameButLog

/-- Reads see two states alike: the record of accesses is one, and so is each byte. -/
structure State.ReadsAlike (s t : State) : Prop where
  log : t.log = s.log
  bytes : ∀ pa, t.readByte pa = s.readByte pa

section
variable {s t : State} {q : MemTag} {start : Option Nat} {k : Nat}

theorem State.ReadsAlike.memTime (h : s.ReadsAlike t) : t.memTime = s.memTime := by rw [State.memTime, State.memTime, h.log]

theorem State.ReadsAlike.readTime (h : s.ReadsAlike t) (pas : List Nat) : t.readTime q start pas k = s.readTime q start pas k := by
  unfold State.readTime
  rw [h.memTime, h.log]

theorem State.ReadsAlike.byteAt (h : s.ReadsAlike t) : t.byteAt k = s.byteAt k := by
  funext pa
  simp only [State.byteAt, h.log, h.bytes]

/-- A read outside the windows returns the bytes at its point and joins the record. -/
theorem readAt_plain (s : State) (q : MemTag) {pas : List Nat} (hw : ∀ pa ∈ pas, inWindow pa = false) (k : Nat) :
    s.readAt q pas k = (pas.map (s.byteAt k), s.note { MemEvent.of q with
      reads := (pas.filter fun x => !inWindow x).map fun x => (x, lastWrite s.log k x) }) := by
  rw [State.readAt, loadBytesAt_plain s k hw]

theorem State.ReadsAlike.note (h : s.ReadsAlike t) (e : MemEvent) : (s.note e).ReadsAlike (t.note e) :=
  ⟨by simp only [State.note, State.memTime, h.log], h.bytes⟩

theorem State.ReadsAlike.readAt (h : s.ReadsAlike t) {pas : List Nat} (hw : ∀ pa ∈ pas, inWindow pa = false) :
    (t.readAt q pas k).1 = (s.readAt q pas k).1 ∧ (s.readAt q pas k).2.ReadsAlike (t.readAt q pas k).2 := by
  rw [readAt_plain s q hw, readAt_plain t q hw, h.byteAt, h.log]
  exact ⟨rfl, h.note _⟩

theorem sameButLog_readAt (s : State) {pas : List Nat} (hw : ∀ pa ∈ pas, inWindow pa = false) : s.SameButLog (s.readAt q pas k).2 := by
  rw [readAt_plain s q hw]
  rfl

theorem State.ReadsAlike.readSingly : ∀ {pas : List Nat} {s t : State}, s.ReadsAlike t → (∀ pa ∈ pas, inWindow pa = false) →
    (t.readSingly q start k pas).1 = (s.readSingly q start k pas).1 ∧
      (s.readSingly q start k pas).2.ReadsAlike (t.readSingly q start k pas).2
  | [], _, _, h, _ => ⟨rfl, h⟩
  | pa :: pas, s, t, h, hw => by
    rw [List.forall_mem_cons] at hw
    have htime : (t.readTime q start [pa] k).getD t.memTime = (s.readTime q start [pa] k).getD s.memTime := by
      rw [h.readTime, h.memTime]
    obtain ⟨hb, hs⟩ := h.readAt (q := q) (k := (s.readTime q start [pa] k).getD s.memTime) (pas := [pa]) (by simpa using hw.1)
    obtain ⟨hbs, hss⟩ := readSingly (pas := pas) hs hw.2
    simp only [State.readSingly, htime]
    exact ⟨by rw [hb, hbs], hss⟩

theorem sameButLog_readSingly : ∀ (pas : List Nat) (s : State), (∀ pa ∈ pas, inWindow pa = false) →
    s.SameButLog (s.readSingly q start k pas).2
  | [], _, _ => rfl
  | pa :: pas, s, hw => by
    rw [List.forall_mem_cons] at hw
    exact (sameButLog_readAt s (pas := [pa]) (by simpa using hw.1)).trans (sameButLog_readSingly pas _ hw.2)

theorem State.ReadsAlike.readGroups : ∀ {gs : List (List Nat)} {s t : State}, s.ReadsAlike t → (∀ g ∈ gs, ∀ pa ∈ g, inWindow pa = false) →
    (t.readGroups q start k gs).1 = (s.readGroups q start k gs).1
  | [], _, _, _, _ => rfl
  | g :: gs, s, t, h, hw => by
    rw [List.forall_mem_cons] at hw
    simp only [State.readGroups, h.readTime]
    cases s.readTime q start g k with
    | none =>
      obtain ⟨hb, hs⟩ := h.readSingly (q := q) (start := start) (k := k) hw.1
      dsimp only
      rw [hb, readGroups hs hw.2]
    | some u =>
      obtain ⟨hb, hs⟩ := h.readAt (q := q) (k := u) hw.1
      dsimp only
      rw [hb, readGroups hs hw.2]

theorem sameButLog_readGroups : ∀ (gs : List (List Nat)) (s : State), (∀ g ∈ gs, ∀ pa ∈ g, inWindow pa = false) →
    s.SameButLog (s.readGroups q start k gs).2
  | [], _, _ => rfl
  | g :: gs, s, hw => by
    rw [List.forall_mem_cons] at hw
    simp only [State.readGroups]
    cases s.readTime q start g k with
    | none => exact (sameButLog_readSingly g s hw.1).trans (sameButLog_readGroups gs _ hw.2)
    | some u => exact (sameButLog_readAt s hw.1).trans (sameButLog_readGroups gs _ hw.2)

/-- Every group of eight is of the addresses that it splits up. -/
theorem mem_of_mem_eights {pa : Nat} {g : List Nat} : ∀ (fuel : Nat) (l : List Nat), g ∈ eights fuel l → pa ∈ g → pa ∈ l
  | 0, _, hg, _ => absurd hg (List.not_mem_nil)
  | fuel + 1, l, hg, hpa => by
    rw [eights] at hg
    split at hg
    · exact absurd hg (List.not_mem_nil)
    · rcases List.mem_cons.mp hg with rfl | hrest
      · exact List.mem_of_mem_take hpa
      · exact List.mem_of_mem_drop (mem_of_mem_eights fuel _ hrest hpa)

theorem filterMap_some_id (ras : List Nat) : ((ras.map some).filterMap fun y => y) = ras := by
  rw [List.filterMap_map]
  exact List.filterMap_some

theorem fillGaps_some : ∀ (ras : List Nat) (bs : List Byte), bs.length = ras.length → fillGaps (ras.map some) bs = bs
  | [], [], _ => rfl
  | _ :: ras, b :: bs, h => by
    rw [List.map_cons, fillGaps, List.drop_one, List.tail_cons, fillGaps_some ras bs (Nat.succ.inj h)]
    rfl

theorem length_fillGaps : ∀ (as : List (Option Nat)) (bs : List Byte), (fillGaps as bs).length = as.length
  | [], _ => rfl
  | none :: as, bs => congrArg (· + 1) (length_fillGaps as bs)
  | some _ :: as, bs => congrArg (· + 1) (length_fillGaps as (bs.drop 1))

variable {ras : List Nat} (hw : ∀ pa ∈ ras, inWindow pa = false) (x : Xfer)
include hw

theorem State.ReadsAlike.engineRead (h : s.ReadsAlike t) : (t.engineRead x k (ras.map some)).1 = (s.engineRead x k (ras.map some)).1 := by
  simp only [State.engineRead, State.readSpan, filterMap_some_id]
  rw [h.readGroups fun g hg pa hpa => hw pa (mem_of_mem_eights _ _ hg hpa)]

theorem sameButLog_engineRead (s : State) : s.SameButLog (s.engineRead x k (ras.map some)).2 := by
  simp only [State.engineRead, State.readSpan, filterMap_some_id]
  exact sameButLog_readGroups _ s fun g hg pa hpa => hw pa (mem_of_mem_eights _ _ hg hpa)

/-- A read of one access at the newest point. -/
theorem engineRead_newest (htime : s.readTime x.readTag (some x.start) ras s.memTime = some s.memTime) (hlen : ras.length ≤ 8)
    (hne : ras ≠ []) : (s.engineRead x s.memTime (ras.map some)).1 = ras.map (s.byteAt s.memTime) := by
  have hgroups : eights ras.length ras = [ras] := by
    obtain ⟨pa, rest, rfl⟩ := List.exists_cons_of_ne_nil hne
    rw [List.length_cons, eights, if_neg (by simp), List.take_of_length_le hlen, List.drop_of_length_le hlen]
    cases rest.length <;> rfl
  simp only [State.engineRead, State.readSpan, filterMap_some_id, hgroups, State.readGroups, htime, readAt_plain s _ hw, List.append_nil]
  exact fillGaps_some ras _ (List.length_map _)

end

/-! ### Where a unit reads and writes (R163, R173) -/

namespace State.SameButTlb

theorem engineAddr (s : State) (x : Xfer) (acc : Access) (shadow : Bool) (last : Option (Nat × Except Nat Nat)) (va : Nat) :
    s.SameButTlb (s.engineAddr x acc shadow last va).2 := by
  unfold State.engineAddr
  split
  · split
    · exact refl s
    · exact translate s _ _ _ _ _
  · exact translate s _ _ _ _ _

theorem engineRun (x : Xfer) (acc : Access) (shadow : Bool) : ∀ (vas : List Nat) (last : Option (Nat × Except Nat Nat)) (s : State),
    s.SameButTlb (s.engineRun x acc shadow last vas).2
  | [], _, s => refl s
  | va :: vas, last, s => by
    have hfirst := engineAddr s x acc shadow last va
    unfold State.engineRun
    cases hgo : s.engineAddr x acc shadow last va with
    | mk r s1 =>
      rw [hgo] at hfirst
      cases r with
      | error d =>
        dsimp only
        split
        · exact hfirst
        · have hrest := engineRun x acc shadow vas (some (va, .error d)) s1
          split <;> simp_all only <;> exact hfirst.trans hrest
      | ok pa =>
        have hrest := engineRun x acc shadow vas (some (va, .ok pa)) s1
        dsimp only
        split <;> simp_all only <;> exact hfirst.trans hrest

theorem engineAddrs (s : State) (x : Xfer) (acc : Access) (shadow : Bool) (vas : List Nat) :
    s.SameButTlb (s.engineAddrs x acc shadow vas).2 := engineRun x acc shadow vas none s

end State.SameButTlb

/-- The places of one side of a unit, none for scratchpad. -/
def State.sideAddrs (s : State) (x : Xfer) (spad : Bool) (acc : Access) (shadow : Bool) (at_ n : Nat) :
    Except Nat (List (Option Nat)) × State :=
  if spad then (.ok [], s) else s.engineAddrs x acc shadow ((List.range n).map (at_ + ·))

section
variable {s s1 : State} {x : Xfer} {spad shadow : Bool} {acc : Access} {at_ n : Nat} {pas : List Nat}

/-- A side of a unit that translates. -/
theorem sideAddrs_ok (h : if spad then pas = [] ∧ s1 = s
      else pas.length = n ∧ s.engineAddrs x acc shadow ((List.range n).map (at_ + ·)) = (.ok (pas.map some), s1)) :
    s.sideAddrs x spad acc shadow at_ n = (.ok (pas.map some), s1) ∧ s.SameButTlb s1 ∧ (spad = false → pas.length = n) := by
  cases spad with
  | true =>
    obtain ⟨rfl, rfl⟩ := h
    exact ⟨rfl, .refl s1, fun hs => absurd hs (by decide)⟩
  | false =>
    obtain ⟨hlen, hgo⟩ := h
    have hsame := State.SameButTlb.engineAddrs s x acc shadow ((List.range n).map (at_ + ·))
    rw [hgo] at hsame
    exact ⟨hgo, hsame, fun _ => hlen⟩

end

/-- A unit whose places translate, and which nothing holds back, moves. -/
theorem moveUnit_lands {s s1 s2 : State} {x : Xfer} {u : XUnit} {i : Nat} (age : Nat) {ras was : List Nat} (hx : s.xfer? x.id = some x)
    (hu : x.units[i]? = some u) (hheld : x.held = none) (hfree : x.behind i u = false)
    (hsrc : s.sideAddrs x u.srcSpad .read false (s.unitSrc x u) u.len = (.ok (ras.map some), s1))
    (hdst : s1.sideAddrs x u.dstSpad .write true u.dst u.len = (.ok (was.map some), s2))
    (htouch : s2.earlierTouch x.id x.block x.warp (ras ++ was) = false) (hread : s2.earlierTouch x.id x.block x.warp ras true = false) :
    s.moveUnit x.id i age = s2.landUnit x i (s2.memTime - age) u (s.unitSrc x u) (ras.map some) (was.map some) := by
  have hplaces : ((ras.map some ++ was.map some).filterMap fun y => y) = ras ++ was := by
    rw [← List.map_append, filterMap_some_id]
  unfold State.sideAddrs at hsrc hdst
  unfold State.moveUnit
  simp only [hx, hu, hheld, hfree, Option.isSome_none, Bool.or_self, Bool.false_eq_true, if_false, hsrc, hdst, hplaces,
    filterMap_some_id, htouch, hread]

theorem xfer?_setXfer {s : State} {x y : Xfer} (hx : s.xfer? y.id = some x) : (s.setXfer y).xfer? y.id = some y := by
  have hid : x.id = y.id := by simpa using List.find?_some hx
  have htest : (fun z : Xfer => z.id == y.id) ∘ (fun z : Xfer => if z.id = y.id then y else z) = fun z => z.id == y.id := by
    funext z
    dsimp only [Function.comp_apply]
    split
    next h => rw [h]
    next => rfl
  have hfind : s.xfers.find? (fun z : Xfer => z.id == y.id) = some x := hx
  rw [State.xfer?, State.setXfer, List.find?_map, htest, hfind, Option.map_some, if_pos hid]

theorem length_spadRead (s : State) (b x n : Nat) : (s.spadRead b x n).length = n := by
  unfold State.spadRead
  split
  · rw [Block.spadBytes, List.length_map, List.length_range]
  · exact List.length_replicate

theorem stampAll_xfers (core : Nat) : ∀ (l : List Nat) (s : State), (s.stampAll core l).xfers = s.xfers
  | [], _ => rfl
  | pa :: rest, s => stampAll_xfers core rest (s.stampSector core pa)

/-- Of writes at different places each is the last of its place. -/
theorem lastValue_zip : ∀ {was : List Nat} {bs : List Byte} {k : Nat}, was.Nodup → was.length = bs.length → k < was.length → ∀ v,
    lastValue (nth 0 was k) v (was.zip bs) = nth 0#8 bs k
  | pa :: was, b :: bs, 0, hnodup, _, _, v => by
    refine lastValue_append_cons pa v b [] fun c hc hpa => ?_
    exact (List.nodup_cons.mp hnodup).1 (hpa ▸ (List.of_mem_zip (a := c.1) (b := c.2) hc).1)
  | pa :: was, b :: bs, k + 1, hnodup, hlen, hk, v =>
    lastValue_zip (List.nodup_cons.mp hnodup).2 (Nat.succ.inj hlen) (Nat.lt_of_succ_lt_succ hk) _

/-! ### A unit lands (R177, R178, R182) -/

/-- The state in which a unit that moves reads. -/
def State.landing (s : State) (x : Xfer) (u : XUnit) (src : Nat) (ras was : List Nat) : State :=
  let ends (spad : Bool) (va : Nat) : List Nat := if spad then [] else [va, va + u.len - 1]
  let hits (s : State) (va : Nat) (pas : List (Option Nat)) : State :=
    s.noteHits x.core x.ctx (pas.zipIdx.filterMap fun y => y.1.map fun pa => (va + y.2, pa))
  ((hits (hits s src (ras.map some)) u.dst (was.map some)).misuse x.ctx (ends u.srcSpad src ++ ends u.dstSpad u.dst)).changeObject x.ctx
    (ends u.dstSpad u.dst)

theorem keepsSpads_landing (s : State) (x : Xfer) (u : XUnit) (src : Nat) (ras was : List Nat) :
    s.KeepsSpads (s.landing x u src ras was) :=
  ((State.KeepsSpads.noteHits s _ _ _).trans (.noteHits _ _ _ _)).trans ((State.KeepsSpads.misuse _ _ _).trans (.changeObject _ _ _))

theorem zip_some_places : ∀ (was : List Nat) (bs : List Byte),
    (((was.map some).zip bs).filterMap fun y => y.1.map fun pa => (pa, y.2)) = was.zip bs
  | [], _ => rfl
  | _ :: _, [] => rfl
  | pa :: was, b :: bs => by
    rw [List.map_cons, List.zip_cons_cons, List.zip_cons_cons, ← zip_some_places was bs]
    rfl

theorem firstFail_some (va : Nat) (pas : List Nat) : firstFail va (pas.map some) = none := by
  rw [firstFail, Option.map_eq_none_iff, List.findIdx?_eq_none_iff]
  intro y hy
  obtain ⟨pa, _, rfl⟩ := List.mem_map.mp hy
  rfl

theorem spadData_untouched {x : Xfer} (h : x.touched = []) (k : Nat) (u : XUnit) (bs : List Byte) : x.spadData k u bs = bs := by
  have hfst : (fun y : Byte × Nat => if x.touched.contains (u.dst + y.2) then Config.freeByte (k + y.2) else y.1) = Prod.fst := by
    funext y
    rw [h]
    rfl
  rw [Xfer.spadData, hfst, List.zipIdx_map_fst]

/-- The transfer with a unit gone. -/
def Xfer.without (x : Xfer) (i : Nat) : Xfer := { x with units := x.units.eraseIdx i }

section
variable {s : State} {x : Xfer} {u : XUnit} {i t src : Nat} {ras was : List Nat}

/-- What a unit reads, and the state in which it writes. -/
def State.landed (s : State) (x : Xfer) (t : Nat) (u : XUnit) (src : Nat) (ras was : List Nat) : List Byte × State :=
  (s.landing x u src ras was).unitBytes x t u src (ras.map some)

/-- The state in which the bytes of a unit have been written. -/
def State.unitWritten (s : State) (x : Xfer) (t : Nat) (u : XUnit) (src : Nat) (ras was : List Nat) : State :=
  let r := s.landed x t u src ras was
  if u.dstSpad then
    ({ r.2 with drawn := r.2.drawn + u.len }.noteSpad x.writeTag x.block [] ((List.range u.len).map (u.dst + ·))).spadWrite x.block
      u.dst (x.spadData r.2.drawn u r.1)
  else (r.2.storeBytes (was.zip r.1) x.writeTag).stampAll x.core ((was.zip r.1).map (·.1))

/-- A unit each of whose bytes has a place leaves no error. -/
theorem landUnit_eq (s : State) (x : Xfer) (i t : Nat) (u : XUnit) (src : Nat) (ras was : List Nat) :
    s.landUnit x i t u src (ras.map some) (was.map some) = (s.unitWritten x t u src ras was).setXfer (x.without i) := by
  have hbad (va : Nat) (pas : List Nat) := firstFail_some va pas
  unfold State.landUnit State.unitWritten
  dsimp only
  rw [hbad, hbad, zip_some_places, Option.isSome_none, Bool.or_false]
  rfl

theorem unitWritten_spad (hdst : u.dstSpad = true) (htouched : x.touched = []) : s.unitWritten x t u src ras was =
    ({ (s.landed x t u src ras was).2 with drawn := (s.landed x t u src ras was).2.drawn + u.len }.noteSpad x.writeTag x.block []
      ((List.range u.len).map (u.dst + ·))).spadWrite x.block u.dst (s.landed x t u src ras was).1 := by
  refine (if_pos hdst).trans ?_
  rw [spadData_untouched htouched]

theorem unitWritten_memory (hdst : u.dstSpad = false) : s.unitWritten x t u src ras was =
    ((s.landed x t u src ras was).2.storeBytes (was.zip (s.landed x t u src ras was).1) x.writeTag).stampAll x.core
      ((was.zip (s.landed x t u src ras was).1).map (·.1)) := if_neg (by rw [hdst]; exact Bool.false_ne_true)

variable (hclash : x.clash = false)
include hclash

/-- The bytes that a unit moves are those that stood at its source. -/
theorem landed_bytes (hras : ∀ pa ∈ ras, inWindow pa = false) : (s.landed x t u src ras was).1 =
    if u.srcSpad then s.spadRead x.block src u.len else (s.engineRead x t (ras.map some)).1 := by
  have hkeep := keepsSpads_landing s x u src ras was
  have halike : s.ReadsAlike (s.landing x u src ras was) := ⟨hkeep.field State.log rfl, fun pa => hkeep.field (·.readByte pa) rfl⟩
  unfold State.landed State.unitBytes
  rw [hclash, if_neg Bool.false_ne_true]
  cases u.srcSpad with
  | true => exact hkeep.spadRead _ _ _
  | false => exact halike.engineRead hras x

theorem length_landed (hras : ∀ pa ∈ ras, inWindow pa = false) (hlen : u.srcSpad = false → ras.length = u.len) :
    (s.landed x t u src ras was).1.length = u.len := by
  rw [landed_bytes hclash hras]
  cases hs : u.srcSpad with
  | true => exact length_spadRead s _ _ _
  | false =>
    rw [if_neg Bool.false_ne_true, State.engineRead, length_fillGaps, List.length_map]
    exact hlen hs

theorem sameButLog_landed (hras : ∀ pa ∈ ras, inWindow pa = false) :
    (s.landing x u src ras was).SameButLog (s.landed x t u src ras was).2 := by
  unfold State.landed State.unitBytes
  rw [hclash, if_neg Bool.false_ne_true]
  cases u.srcSpad with
  | true => rfl
  | false => exact sameButLog_engineRead hras x _

/-- What looks at neither the record of accesses, nor the blocks, free values and counts that an access of a unit may change. -/
theorem landed_field (hras : ∀ pa ∈ ras, inWindow pa = false) {α : Type} (f : State → α) (hlog : ∀ s l, f { s with log := l } = f s)
    (hkeep : ∀ s b d p, f { s with blocks := b, drawn := d, pageHits := p } = f s) : f (s.landed x t u src ras was).2 = f s :=
  ((sameButLog_landed hclash hras).field f (hlog _ _)).trans ((keepsSpads_landing s x u src ras was).field f (hkeep _ _ _ _))

/-- The block of a transfer still has its scratchpad when a unit writes. -/
theorem landed_block {blk : Block} (hras : ∀ pa ∈ ras, inWindow pa = false) (hb : s.block? x.block = some blk) :
    ∃ b, (s.landed x t u src ras was).2.block? x.block = some b ∧ b.spad = blk.spad := by
  have hspad := (keepsSpads_landing s x u src ras was).spads x.block
  rw [hb, Option.map_some, Option.map_eq_some_iff] at hspad
  obtain ⟨b, hfound, heq⟩ := hspad
  exact ⟨b, ((sameButLog_landed hclash hras).field (·.block? x.block) rfl).trans hfound, heq⟩

/-- A unit that writes scratchpad leaves there the bytes that it read. -/
theorem spadRead_unitWritten {blk : Block} (hras : ∀ pa ∈ ras, inWindow pa = false) (hb : s.block? x.block = some blk)
    (hwf : cellWf 0#8 blk.spad = true) (hdst : u.dstSpad = true) (htouched : x.touched = []) {k : Nat}
    (hk : k < (s.landed x t u src ras was).1.length) :
    (s.unitWritten x t u src ras was).spadRead x.block (u.dst + k) 1 = [nth 0#8 (s.landed x t u src ras was).1 k] := by
  obtain ⟨b, hfound, hspad⟩ := landed_block (t := t) (u := u) (src := src) (was := was) hclash hras hb
  rw [unitWritten_spad hdst htouched, spadRead_spadWrite (blk := b)]
  swap
  · exact hfound
  have hbyte := spadByte_spadWrite (s.landed x t u src ras was).1 (b := b) u.dst (u.dst + k) (by rw [hspad]; exact hwf)
  rw [if_pos (by omega), Nat.add_sub_cancel_left] at hbyte
  exact congrArg (fun y => [y]) hbyte

/-- A unit that writes memory leaves at each place the byte that it read for it. -/
theorem readByte_unitWritten (hras : ∀ pa ∈ ras, inWindow pa = false) (hwas : ∀ pa ∈ was, inWindow pa = false)
    (hcached : ∀ pa ∈ was, s.uncached pa = false) (hnodup : was.Nodup) (hdst : u.dstSpad = false)
    (hlen : (s.landed x t u src ras was).1.length = was.length) {k : Nat} (hk : k < was.length) :
    (s.unitWritten x t u src ras was).readByte (nth 0 was k) = nth 0#8 (s.landed x t u src ras was).1 k := by
  have hmem : nth 0 was k ∈ was := by
    rw [nth_eq_getD, List.getElem?_eq_getElem hk]
    exact List.getElem_mem hk
  have huncached : (s.landed x t u src ras was).2.uncached (nth 0 was k) = false :=
    (landed_field hclash hras (·.uncached (nth 0 was k)) (fun _ _ => rfl) fun _ _ _ _ => rfl).trans (hcached _ hmem)
  rw [unitWritten_memory hdst, readByte_stampAll]
  exact (readByte_putBytes_cached _ _ _ (hwas _ hmem) _ ((s.landed x t u src ras was).2.note _) huncached).trans
    (lastValue_zip hnodup hlen.symm hk _)

theorem unitWritten_xfers (hras : ∀ pa ∈ ras, inWindow pa = false) : (s.unitWritten x t u src ras was).xfers = s.xfers := by
  have hbase : (s.landed x t u src ras was).2.xfers = s.xfers := landed_field hclash hras State.xfers (fun _ _ => rfl) fun _ _ _ _ => rfl
  unfold State.unitWritten
  dsimp only
  split
  · exact ((State.SameButBlocks.spadWrite _ _ _ _).field State.xfers rfl).trans hbase
  · rw [stampAll_xfers]
    exact ((State.SameButMemory.storeBytes _ _ _ _).field State.xfers rfl).trans hbase

end

/-! ### ENGINE_ARRIVAL (R174) -/

section
variable {s : State} {x y : Xfer} (hx : s.xfer? (s.arg 0) = some x) (hy : (s.moveUnits x.id x.units.length).xfer? x.id = some y)
include hx hy

theorem exec_engineArrival_moved : exec .engineArrival s = .next
    (if (y.units.isEmpty && y.held.isNone) = true then
      (({ s.moveUnits x.id x.units.length with
          xfers := (s.moveUnits x.id x.units.length).xfers.filter fun z => z.id != y.id }.noteArrival y.writeTag y.block y.arr).arriveObj
        y.block y.arr 1 y.err).reap y.block
      else s.moveUnits x.id x.units.length) := by
  rw [exec_engineArrival, execEngineArrival, hx]
  dsimp only
  rw [hy]
  dsimp only
  split <;> rfl

end

/-- A unit whose places translate, and which nothing holds back, moves: it is gone from its transfer, and each byte of its
destination holds the byte read at its source. -/
theorem moveUnit_moves {s s1 s2 : State} {x : Xfer} {u : XUnit} {i : Nat} (age : Nat) {ras was : List Nat} {blk : Block}
    (hx : s.xfer? x.id = some x) (hu : x.units[i]? = some u) (hheld : x.held = none) (hfree : x.behind i u = false)
    (hclash : x.clash = false) (htouched : x.touched = []) (hb : s.block? x.block = some blk) (hwf : cellWf 0#8 blk.spad = true)
    (hsrc : if u.srcSpad then ras = [] ∧ s1 = s
      else ras.length = u.len ∧ s.engineAddrs x .read false ((List.range u.len).map (s.unitSrc x u + ·)) = (.ok (ras.map some), s1))
    (hdst : if u.dstSpad then was = [] ∧ s2 = s1
      else was.length = u.len ∧ s1.engineAddrs x .write true ((List.range u.len).map (u.dst + ·)) = (.ok (was.map some), s2))
    (hw : ∀ pa ∈ ras ++ was, inWindow pa = false) (hcached : ∀ pa ∈ was, s.uncached pa = false) (hnodup : was.Nodup)
    (htouch : s2.earlierTouch x.id x.block x.warp (ras ++ was) = false) (hread : s2.earlierTouch x.id x.block x.warp ras true = false) :
    let t := s.moveUnit x.id i age
    let read : List Byte := if u.srcSpad then s.spadRead x.block (s.unitSrc x u) u.len
      else (s2.engineRead x (s2.memTime - age) (ras.map some)).1
    ((t.xfer? x.id).map (·.units) = some (x.units.eraseIdx i)) ∧
    ∀ k, k < u.len →
      (u.dstSpad = true → t.spadRead x.block (u.dst + k) 1 = [nth 0#8 read k]) ∧
      (u.dstSpad = false → t.readByte (nth 0 was k) = nth 0#8 read k) := by
  intro t read
  obtain ⟨hsrcGo, hsame1, hsrcLen⟩ := sideAddrs_ok hsrc
  obtain ⟨hdstGo, hsame2, hdstLen⟩ := sideAddrs_ok hdst
  have hsame := hsame1.trans hsame2
  have hras : ∀ pa ∈ ras, inWindow pa = false := fun pa hpa => hw pa (List.mem_append_left _ hpa)
  have hwas : ∀ pa ∈ was, inWindow pa = false := fun pa hpa => hw pa (List.mem_append_right _ hpa)
  have hread : (s2.landed x (s2.memTime - age) u (s.unitSrc x u) ras was).1 = read := by
    rw [landed_bytes hclash hras, hsame.field (·.spadRead x.block (s.unitSrc x u) u.len) rfl]
  have hlen := length_landed (s := s2) (t := s2.memTime - age) (src := s.unitSrc x u) (was := was) hclash hras hsrcLen
  have ht : t = (s2.unitWritten x (s2.memTime - age) u (s.unitSrc x u) ras was).setXfer (x.without i) :=
    (moveUnit_lands age hx hu hheld hfree hsrcGo hdstGo htouch ‹_›).trans (landUnit_eq ..)
  have hx2 : (s2.unitWritten x (s2.memTime - age) u (s.unitSrc x u) ras was).xfer? (x.without i).id = some x := by
    rw [State.xfer?, unitWritten_xfers hclash hras, hsame.field State.xfers rfl]
    exact hx
  have hb2 : s2.block? x.block = some blk := (hsame.field (·.block? x.block) rfl).trans hb
  refine ⟨?_, fun k hk => ⟨fun hspad => ?_, fun hmem => ?_⟩⟩
  · have hgone := xfer?_setXfer hx2
    rw [ht]
    exact congrArg (Option.map (·.units)) hgone
  · have hbyte := spadRead_unitWritten (t := s2.memTime - age) (src := s.unitSrc x u) (was := was) hclash hras hb2 hwf hspad htouched
      (k := k) (by omega)
    rw [ht, ← hread]
    exact hbyte
  · have hcached2 : ∀ pa ∈ was, s2.uncached pa = false := fun pa hpa => (hsame.field (·.uncached pa) rfl).trans (hcached pa hpa)
    have hbyte := readByte_unitWritten (t := s2.memTime - age) (src := s.unitSrc x u) hclash hras hwas hcached2 hnodup hmem
      (by rw [hlen, hdstLen hmem]) (k := k) (by rw [hdstLen hmem]; exact hk)
    rw [ht, ← hread]
    exact hbyte

/-- Settles O28: what passes its checks starts its transfer, and a unit that moves leaves at its destination what it read. -/
theorem transfers : Obligations.Transfers := by
  refine ⟨⟨fun o s a hacts => ?_, fun o s0 s a hready hheld hacts => ⟨?_, ?_⟩⟩,
    ⟨fun s s1 x y hx hs1 hy => ?_, ?_, fun s x ras hw htime hlen hne => engineRead_newest hw x htime hlen hne⟩⟩
  · intro size off src obj hpx hlanes hal hin
    exact exec_lda_good hacts hpx hlanes hal hin
  · intro sa d size hroom hal hin hform hidx hrows hdst harr
    have hgo := exec_gath_good hready hheld hacts rfl hroom hal hin hform hidx hrows hdst harr
    exact ⟨fun hcount => hgo.trans (congrArg _ (if_pos hcount)), fun hcount => hgo.trans (congrArg _ (if_neg hcount.ne'))⟩
  · intro dir cl n obj d f win promise s1 hroom hal hin hdst hsrc hwindow
    have hgo := exec_copy_good hready hheld hacts rfl rfl rfl rfl rfl rfl rfl rfl rfl hroom hal hin hdst hsrc hwindow
    exact ⟨fun hzero => hgo.trans (congrArg _ (if_pos hzero)), fun hzero => hgo.trans (congrArg _ (if_neg hzero))⟩
  · subst hs1
    have hgo := exec_engineArrival_moved hx hy
    refine ⟨fun hunits hheld => hgo.trans (congrArg _ (if_pos ?_)), fun hleft => hgo.trans (congrArg _ (if_neg ?_))⟩
    · rw [hunits, hheld]
      rfl
    · simpa [List.isEmpty_iff, imp_iff_not_or] using hleft
  · intro s s1 s2 x u i age ras was blk hx hu hheld hfree hclash htouched hb hwf _ src vas hsrc hdst hw hcached hnodup htouch hread
    exact moveUnit_moves age hx hu hheld hfree hclash htouched hb hwf hsrc hdst hw hcached hnodup htouch hread

end Sys2Proof.Machine
end
